-- ==== Sys2Proof/Word.lean ====
section
/-! DEFINITION. The word types and the plainest arithmetic on them: bytes, fields of a word, arithmetic modulo a power of two, signed views. -/

namespace Sys2Proof

/-- One byte of an addressed store. -/
abbrev Byte := BitVec 8

/-- Two to the power `n`. -/
abbrev p2 (n : Nat) : Nat := 2 ^ n

/-- Bits `hi` to `lo` of a word (R12). -/
def bits (w hi lo : Nat) : Nat := w / p2 lo % p2 (hi + 1 - lo)

/-- Bit `b` of a word. -/
def bit (w b : Nat) : Bool := w / p2 b % 2 == 1

/-- The word `w` with bits `hi` to `lo` replaced by the low bits of `v`. -/
def setBits (w hi lo v : Nat) : Nat :=
  w - bits w hi lo * p2 lo + (v % p2 (hi + 1 - lo)) * p2 lo

/-- A Boolean as a bit. -/
def b2n (b : Bool) : Nat := if b then 1 else 0

/-- Difference of two counts modulo `2^32` (R11). -/
def sub32 (a b : Nat) : Nat := (a % p2 32 + p2 32 - b % p2 32) % p2 32

/-- Sum modulo `2^32`. -/
def add32 (a b : Nat) : Nat := (a + b) % p2 32

/-- The two's-complement value of the low `n` bits of `w` (R9). -/
def sx (n w : Nat) : Int :=
  let v := w % p2 n
  if v < p2 (n - 1) then (v : Int) else (v : Int) - (p2 n : Int)

/-- The `n`-bit two's-complement word of an integer. -/
def unsx (n : Nat) (x : Int) : Nat := (x % (p2 n : Int)).toNat

/-- Clamp of an integer to a range. -/
def clampI (x lo hi : Int) : Int := max lo (min x hi)

/-- Clamp of a rational to a range. -/
def clampQ (x lo hi : Rat) : Rat := max lo (min x hi)

/-- Division rounding to nearest, ties away from zero (R118, R186, R230). -/
def rdivAway (a : Int) (d : Nat) : Int :=
  let q := (2 * a.natAbs + d) / (2 * d)
  if a < 0 then -(q : Int) else (q : Int)

/-- A rational rounded to the nearest integer, ties away from zero. -/
def rndAway (x : Rat) : Int := rdivAway x.num x.den

/-- A rational rounded to the nearest integer, ties to even (IEEE 754). -/
def rndEven (x : Rat) : Int :=
  let a := x.num.natAbs
  let q := a / x.den
  let r := 2 * (a % x.den)
  let q' := if r < x.den then q else if x.den < r then q + 1 else if q % 2 = 0 then q else q + 1
  if x.num < 0 then -(q' : Int) else (q' : Int)

/-- A rational truncated toward zero. -/
def truncQ (x : Rat) : Int :=
  let q := x.num.natAbs / x.den
  if x.num < 0 then -(q : Int) else (q : Int)

/-- Absolute value of a rational. -/
def absQ (x : Rat) : Rat := if x < 0 then -x else x

/-- A quotient that is 0 where the divisor is 0 (only used where the rule excludes that divisor). -/
def divQ (a b : Rat) : Rat := if b = 0 then 0 else a / b

/-- The largest of a list of rationals and 0. -/
def maxQ0 (l : List Rat) : Rat := l.foldl max 0

/-- The bytes of a little-endian word of `n` bytes. -/
def leBytes : Nat → Nat → List Nat
  | 0, _ => []
  | n + 1, w => w % 256 :: leBytes n (w / 256)

/-- The word spelled by bytes, little-endian. -/
def leNat : List Nat → Nat
  | [] => 0
  | b :: bs => b % 256 + 256 * leNat bs

/-- Quotient rounded up. -/
def ceilDiv (a b : Nat) : Nat := if b = 0 then 0 else (a + b - 1) / b

end Sys2Proof
end

