-- ==== Sys2Proof/Syntax.lean ====
section
/-! DEFINITION. The commands of the device, one constructor per row of spec/opcode_table.json, with the operand types they carry. -/

namespace Sys2Proof

/-- The three write sources of R41. -/
inductive Src | host | scribe | ring
  deriving DecidableEq, Repr

/-- Who reads a word, and the byte enables of the access (R39, R41). -/
structure Reader where
  src : Src
  be : Nat
  deriving DecidableEq, Repr

/-- A byte offset of the aperture, and the byte enables of the read of its word (R39, R448). -/
structure ApRead where
  ofs : Nat
  be : Nat
  deriving DecidableEq, Repr

/-- A block floating point word of R229: mantissa and exponent, value m × 2^(E − 54). -/
structure Bfp where
  m : Int
  e : Nat
  deriving DecidableEq, Repr

/-- The zero word. -/
def Bfp.zero : Bfp := ⟨0, 0⟩

/-- What a lane keeps from one run to the next: the contents of the state record of R247 (R226 to R243). -/
structure LaneMem where
  integ : Bfp
  xd : Bfp
  xq : Bfp
  s1 : List Bfp
  s2 : List Bfp
  vfb : Bfp
  sat : Bool
  csat : Bool
  pfb : Int
  fbStamp : Nat
  out : Bfp
  outWords : List Nat
  deriving DecidableEq, Repr

/-- A lane memory with every state at 0. -/
def LaneMem.zero : LaneMem :=
  ⟨.zero, .zero, .zero, [.zero, .zero, .zero, .zero], [.zero, .zero, .zero, .zero], .zero, false, false, 0, 0, .zero, []⟩

/-- One jerk phase of a scalar profile (R128): its length in s and its jerk. -/
structure Seg where
  dur : Rat
  jerk : Rat
  deriving DecidableEq, Repr

/-- A scalar motion profile (R127 to R131): the path time in s at which it starts, its start state, and its jerk phases. -/
structure Prof where
  t0 : Rat
  u : Rat
  v : Rat
  a : Rat
  segs : List Seg
  deriving DecidableEq, Repr

/-- How the executing stroke of a queue is generated (R121, R127 to R131, R143, R148). A move carries the limits (V, A, D, J of u) it was planned with and the deceleration kept by R131; a jog its blend with the limits of the blend, and the path time in s at which it ends once a successor is queued; a braked jog the axis that meets its soft limit. -/
inductive Plan
  | none
  | move (p : Prof) (lims : List Rat) (dstar : Option Rat)
  | spline (t : Rat) (coef : List (List Rat))
  | jog (p : Prof) (lims : List Rat) (ends : Option Rat)
  | jogStop (p : Prof) (axis : Nat)
  | dwell (t : Rat)
  | sync
  | home (i : Nat)
  | stepin (i : Nat)
  deriving DecidableEq, Repr

/-- A path-rate ramp of R133 or R134: the rate it starts from, its length in ns, the ns already run, and whether it rises. -/
structure Ramp where
  rho0 : Rat
  len : Nat
  ran : Nat
  up : Bool
  deriving DecidableEq, Repr

/-- One stroke queue (R115 to R139): its records (the executing one first), the plan and start state of the executing stroke, its path clock in 2^-16 ns, path rates in 2^-32, its ramp, whether records are removed when the ramp ends, an axis stop demanded before the next advance with the flag it sets, the record in the checker, the nominal end state of the last accepted record, the arrival at a mark and whether it is pending; for each record the spline coefficients computed at its acceptance (R130; none for other types), and the commands mirrored from a leader for the next advance (R360). -/
structure Queue where
  recs : List (List Nat)
  plan : Plan
  startP : List Rat
  startV : List Rat
  startA : List Rat
  tau : Int
  rho : Nat
  ramp : Option Ramp
  abortPend : Bool
  halt : Option Nat
  chk : Option (List Nat)
  tailP : List Rat
  tailV : List Rat
  tailA : List Rat
  syncAt : Nat
  markPend : Bool
  coefs : List (List (List Rat))
  cmdM : Nat
  deriving DecidableEq, Repr

/-- An empty queue at rest. -/
def Queue.empty : Queue :=
  ⟨[], .none, [], [], [], 0, 0, none, false, none, none, [], [], [], 0, false, [], 0⟩

/-- Debounce of one limit or home input (R141): the raw level after polarity and the tick of its last change, the debounced level, an edge away from it being judged with its position (and, for a ring source, the stamp still to be interpolated), the positions of the last validated active and inactive edges, and the latch. -/
structure LimIn where
  raw : Bool
  since : Nat
  stable : Bool
  burst : Bool
  cand : Int
  interp : Option Nat
  capOn : Int
  capOff : Int
  latched : Bool
  deriving DecidableEq, Repr

/-- A limit input that is inactive. -/
def LimIn.idle : LimIn := ⟨false, 0, false, false, 0, none, 0, 0, false⟩

/-- The homing sequence of an axis (R143 to R145): the step (0 none, 1 first search, 2 stopping before the reverse, 3 reverse search, 4 index search, 5 captured, 6 stopping after the capture, 7 final move), the direction of the motion, whether a limit was met, the captured points, the hard-stop dwell count, and the index count at the start of the search. -/
structure Homing where
  step : Nat
  neg : Bool
  limMet : Bool
  capA : Option Int
  capB : Option Int
  dwell : Nat
  idx0 : Nat
  deriving DecidableEq, Repr

/-- No homing in progress. -/
def Homing.idle : Homing := ⟨0, false, false, none, none, 0, 0⟩

/-- Step interpolation of R148: base, goal, start stamp, interval, stamp and direction of the last step, and its rim clock. -/
structure StepIn where
  base : Rat
  goal : Rat
  t0 : Nat
  dt : Nat
  last : Nat
  dirNeg : Bool
  rim : Nat
  deriving DecidableEq, Repr

/-- Step interpolation at rest. -/
def StepIn.zero : StepIn := ⟨0, 0, 0, 0, 0, false, 0⟩

/-- One stroke generator (R115, R118, R135): the reference position in 2^-16 increments, its velocity and acceleration, a motion of the axis on its own (axis stop, search, final move) with its elapsed time, homing, step input, limit inputs, the number of the mode entry whose position it has taken, the electrical angle in 1/1024 turn, the offset of R144 applied to the position feedback, and the latest latched feedback positions with their stamps (R141). -/
structure Gen where
  pos : Int
  vel : Rat
  acc : Rat
  mot : Option Prof
  home : Homing
  step : StepIn
  limP : LimIn
  limN : LimIn
  limH : LimIn
  seen : Nat
  msAng : Nat
  ofs : Int
  lats : List (Nat × Int)
  deriving DecidableEq, Repr

/-- A generator at rest at 0. -/
def Gen.zero : Gen := ⟨0, 0, 0, none, .idle, .zero, .idle, .idle, .idle, 0, 0, 0, []⟩

/-- What a solver keeps for the warm start (R187): variables with their tags, and z and y of the rows with theirs. -/
structure Kept where
  sig : Nat
  x : List (Nat × Int)
  z : List (Nat × Int)
  y : List (Nat × Int)
  deriving DecidableEq, Repr

/-- One occupant source of the table of R203. -/
structure OccSrc where
  chan : Nat
  node : Nat
  ofs : Nat
  count : Nat
  oidLo : Nat
  oidHi : Nat
  deriving DecidableEq, Repr

/-- One joint of the Margin model's kinematics (R201): slot, type of R158, scale, zero, and its frame in the parent frame. -/
structure MJoint where
  slot : Nat
  typ : Nat
  scaleM : Nat
  scaleE : Nat
  zero : Int
  tp : List Int
  tr : List Int
  deriving DecidableEq, Repr

/-- One chain of the Margin model. -/
structure MChain where
  c : Nat
  baseP : List Int
  baseR : List Int
  joints : List MJoint
  deriving DecidableEq, Repr

/-- One capsule of the Margin model with its sphere count (R214). -/
structure MCap where
  parent : Nat
  ns : Nat
  a : List Int
  b : List Int
  rad : Int
  deriving DecidableEq, Repr

/-- The Margin model of section type 0x07: kinematics, sphere covers, and the bytes that MGN_SIG covers (R201, R218). -/
structure MarginModel where
  chains : List MChain
  caps : List MCap
  bytes : List Nat
  deriving DecidableEq, Repr

/-- Where Composer has placed a lane word in the application buffers of a ring channel (R234, R327): slot, kind (0 to 2 feedback position, velocity and invalid bit; 3 to 5 set-point position, velocity and acceleration; 8 to 10 the released words in the order of R235; 11 the drive-enable bit), channel, byte offset, and bit for the kinds that are bits. -/
structure WordMap where
  slot : Nat
  kind : Nat
  ch : Nat
  ofs : Nat
  bitNo : Nat
  deriving DecidableEq, Repr

/-- The device configuration record of section 0x02 (R104) and the tables of section 0x07 whose byte layout is Composer's: the values of the registers described as coming from Folio, the axis-to-group assignment, and the settings that no register shows. -/
structure DevConfig where
  refSel : Nat
  folio : List (Nat × Nat)
  rgDef : Nat
  axisGroup : List (Nat × Nat)
  coldStart : Bool
  fbMask : Nat
  pbMask : Nat
  sdMask : Nat
  rails : List Nat
  occ : List OccSrc
  params : List (Nat × Nat)
  words : List WordMap
  margin : MarginModel
  deriving DecidableEq, Repr

/-- A configuration with nothing in use. -/
def DevConfig.empty : DevConfig := ⟨0, [], 0, [], false, 0, 0, 0, [], [], [], [], ⟨[], [], []⟩⟩

/-- What the loader finds on one flash chip select (R100): fitted with a valid SFDP table, its read capabilities, its stated maximum clock in kHz and its density in bytes. -/
structure FlashCs where
  fitted : Bool
  octal : Bool
  quad : Bool
  maxKhz : Nat
  density : Nat
  deriving DecidableEq, Repr

/-- What the loader meets: both chip selects, the check at which a slot's flash stops answering (R101), the two configuration records, and the read-back result of VOUT_COMMAND (R457). -/
structure LoadEnv where
  cs0 : FlashCs
  cs1 : FlashCs
  toA : Option Nat
  toB : Option Nat
  recA : DevConfig
  recB : DevConfig
  voutOk : Bool
  deriving DecidableEq, Repr

/-- A STATUS message of R358 as received. -/
structure StatusMsg where
  crcOk : Bool
  seq : Nat
  mode : Nat
  health : Nat
  claim : Nat
  claimCfg : Nat
  chRx : Nat
  serial : Nat
  pairSig : Nat
  hbAt : Nat
  schedA : Nat
  schedB : Nat
  deriving DecidableEq, Repr

/-- A TIME message of R359 as received; times carry 16 fraction bits. -/
structure TimeMsg where
  crcOk : Bool
  seq : Nat
  tTx : Nat
  wseq : Nat
  rate : Int
  echoTx : Nat
  echoRes : Nat
  deriving DecidableEq, Repr

/-- The content of a CFG record (R360, R362). -/
inductive CfgBody
  | write (addr value : Nat)
  | commit (value : Nat) (tick : Nat)
  | stroke (c : Nat) (words : List Nat)
  | command (c bits : Nat)
  | ringParam (addr mask value : Nat)
  deriving DecidableEq, Repr

/-- A CFG message: the tick at which its content took effect at the leader, and the content. -/
structure CfgMsg where
  crcOk : Bool
  seq : Nat
  tick : Nat
  body : CfgBody
  deriving DecidableEq, Repr

/-- The content of a MODEL message (R360): writes of the patch staging or the delta queue, and a COMMIT that names the RUL group with its solver sample instant. -/
structure ModelMsg where
  crcOk : Bool
  seq : Nat
  writes : List (Nat × Nat)
  commit : Option Nat
  deriving DecidableEq, Repr

/-- One queue of a SNAP (R360). -/
structure QueueSnap where
  c : Nat
  state : Nat
  runTag : Nat
  doneTag : Nat
  queue : Queue
  gens : List (Nat × Gen)
  deriving DecidableEq, Repr

/-- A SNAP message (R360): lane records, queues, and the Margin latch, rearm count and previous sphere positions. -/
structure SnapMsg where
  crcOk : Bool
  seq : Nat
  phase : Nat
  lanes : List (Nat × LaneMem)
  queues : List QueueSnap
  latched : Bool
  rearm : Nat
  spheres : List (Nat × List Rat)
  deriving DecidableEq, Repr

/-- A SOLVE message (R360): the tick of the solve completion, kept state, last released σ and δ, CONSEC. -/
structure SolveMsg where
  crcOk : Bool
  seq : Nat
  phase : Nat
  kept : Kept
  sigma : List (Nat × Nat)
  delta : List (Nat × Int)
  consec : Nat
  deriving DecidableEq, Repr

/-- The memory that an SRAM row belongs to (R427). -/
inductive SramOwner
  | laneState (slot : Nat)
  | solver (q : Nat)
  | serif (d : Nat)
  | inkwell (word : Nat)
  | mirrored (space addr good : Nat)
  | other
  deriving DecidableEq, Repr

/-- The commands, in the order of spec/opcode_table.json. A first operand dt is the number of rim clocks since the command before it; a command without dt falls at an instant that the device itself fixes; xferStart and serialTimeout at their first instant that many clocks on or later. -/
inductive Instr
  | baseBoundary (sin : Nat)
  | laneRunComplete (dt slot : Nat) (cur : Bool)
  | outputPhase (g : Nat)
  | currentLoopInstant (slot : Nat)
  | dutyWrite (slot : Nat)
  | laneError (dt slot : Nat)
  | solveComplete (dt asmEnd factEnd : Nat)
  | solutionRelease
  | tileError (dt q tile : Nat)
  | separationDelivery (dt : Nat)
  | marginComplete (dt : Nat)
  | marginDecision
  | stop1DelayEnd (j : Nat)
  | mgnAck (dt : Nat) (src : Src) (value : Nat)
  | soutTestPulse (dt j ch : Nat)
  | soutReadbackCheck (dt j : Nat) (rda rdb : Bool)
  | sinDiscrepancy (dt i : Nat)
  | sinDemand (i : Nat)
  | commitRequest (dt : Nat) (src : Src) (value : Nat)
  | commitCopy (inst : Nat)
  | registerWrite (dt : Nat) (src : Src) (addr value be : Nat)
  | unlock (dt : Nat) (src : Src) (value : Nat)
  | unlockExpire (src : Src)
  | tmrScrub (dt : Nat)
  | indDataRead (dt : Nat) (r : Reader) (w : Nat)
  | indDataWrite (dt : Nat) (src : Src) (w value : Nat)
  | indWritePerform (dt w : Nat)
  | indTimeout (dt w : Nat) (reader : Option Src)
  | apertureRead (dt : Nat) (a : ApRead)
  | apertureWrite (dt ofs value be : Nat)
  | tbWrap
  | tbNsRead (dt : Nat) (r : Reader)
  | tbPeriodRead (dt : Nat) (r : Reader)
  | tbStep (dt : Nat) (src : Src) (value : Nat)
  | tbAdj (dt : Nat) (src : Src) (value : Nat)
  | refLoss (dt : Nat)
  | ppsEdge (dt : Nat) (rising : Bool)
  | ppsTimeout
  | ppsOutPulse
  | tsuCalibration (dt u residualPs : Nat)
  | captureEdge (dt i : Nat) (rising : Bool)
  | capWindowClose (i : Nat)
  | capStampRead (dt : Nat) (r : Reader) (i : Nat)
  | evtAtWrite (dt : Nat) (src : Src) (j value : Nat)
  | evtQueueInstant (j : Nat)
  | evtTrainPulse (j : Nat)
  | evtConversionPulse (j : Nat)
  | powerOnResetSupply (dt : Nat)
  | porstN (dt : Nat)
  | rstN (dt : Nat)
  | warmRst (dt : Nat) (src : Src) (value : Nat)
  | coreSupervisor (dt : Nat)
  | resetRelease (dt straps : Nat)
  | pllLock (dt : Nat)
  | folioLoadComplete (dt : Nat) (env : LoadEnv)
  | flashTimeout (dt slot : Nat)
  | hold (dt : Nat) (src : Src)
  | holdExit (dt : Nat) (src : Src)
  | service (dt : Nat) (src : Src)
  | serviceExit (dt : Nat) (src : Src)
  | reload (dt : Nat) (src : Src)
  | surrender (dt : Nat) (src : Src)
  | modReqUndefined (dt : Nat) (src : Src) (code : Nat)
  | reloadTransition
  | chnPush (dt : Nat) (src : Src) (c : Nat)
  | strokeCheck (dt c : Nat)
  | stop (dt : Nat) (src : Src) (c : Nat)
  | resume (dt : Nat) (src : Src) (c : Nat)
  | abort (dt : Nat) (src : Src) (c : Nat)
  | flush (dt : Nat) (src : Src) (c : Nat)
  | syncTmo (c : Nat)
  | limitEdge (dt n which : Nat) (level : Bool)
  | limitLatch (n which : Nat)
  | fltClr (dt : Nat) (src : Src) (n : Nat)
  | intRst (dt : Nat) (src : Src) (n : Nat)
  | arm (dt : Nat) (src : Src)
  | inkStop (dt : Nat) (src : Src)
  | trig (dt : Nat) (src : Src)
  | fbEdge (dt k ins aux : Nat)
  | illWindowEnd (k : Nat)
  | hallTimeout (k : Nat)
  | fbCmpWrite (dt : Nat) (src : Src) (k value : Nat)
  | fbPosWrite (dt : Nat) (src : Src) (k : Nat) (rev : Bool) (value : Nat)
  | fbFltClr (dt : Nat) (src : Src) (k : Nat)
  | zarm (dt : Nat) (src : Src) (k : Nat)
  | xferStart (dt k : Nat) (line : Bool)
  | absFrameComplete (dt k : Nat) (frame : List Bool)
  | serialTimeout (dt k : Nat)
  | fbLatchPosRead (dt : Nat) (r : Reader) (k : Nat)
  | samplerMismatch (dt spare k : Nat)
  | carrierValley (b : Nat)
  | carrierPeak (b : Nat)
  | dutyGo (dt : Nat) (src : Src) (b which value : Nat)
  | tripAccept (dt b trips : Nat)
  | tripClr (dt : Nat) (src : Src) (b trips : Nat)
  | sdResult (k : Nat) (window : List Bool)
  | ringFetch (ch : Nat)
  | cycleStart (ch : Nat)
  | cycleFrameReceive (dt ch port arr : Nat) (bytes : List Nat)
  | nullFrameReceive (dt ch port arr : Nat) (bytes : List Nat)
  | delayFrameReceive (dt ch port arr : Nat) (bytes : List Nat)
  | frameReturn (dt ch port arr : Nat) (bytes : List Nat)
  | laneFault (dt lane : Nat)
  | switchRequest (dt lane : Nat) (spare : Bool)
  | revertP0 (dt : Nat) (src : Src) (ch : Nat)
  | revertP1 (dt : Nat) (src : Src) (ch : Nat)
  | dmNow (dt : Nat) (src : Src) (ch : Nat)
  | portDown (dt ch port : Nat)
  | linkBack (dt ch port : Nat)
  | channelLoss (dt ch : Nat)
  | coldStart
  | coldStartFrameReceive (dt ch port arr : Nat) (bytes : List Nat)
  | backoffEnd
  | leaderMissing (dt ch : Nat)
  | leaderLost (dt : Nat)
  | rejoinTimeout (dt ch : Nat)
  | listenChannelTimeout (dt ch : Nat)
  | status (dt lane : Nat) (m : StatusMsg)
  | time (dt lane : Nat) (m : TimeMsg)
  | cfg (dt : Nat) (m : CfgMsg)
  | model (dt : Nat) (m : ModelMsg)
  | snap (dt : Nat) (m : SnapMsg)
  | solve (dt : Nat) (m : SolveMsg)
  | twinLinkDown (dt : Nat)
  | takeover (dt ch : Nat)
  | holdoffEnd
  | hbNow (dt : Nat) (src : Src) (value : Nat)
  | nop (dt d n : Nat)
  | endTask (dt d n : Nat)
  | reti (dt d n : Nat)
  | swi (dt d n : Nat)
  | br (dt d cond target : Nat)
  | call (dt d target : Nat)
  | ret (dt d n : Nat)
  | loop (dt d immf rotf cnt last : Nat)
  | lpop (dt d n : Nat)
  | mvs (dt d f sp : Nat)
  | mvd (dt d f sp : Nat)
  | ada (dt d ax ay imm : Nat)
  | mvaf (dt d fd fa fb fc : Nat)
  | mvfa (dt d fd fa fb fc : Nat)
  | fadd (dt d fd fa fb fc : Nat)
  | fsub (dt d fd fa fb fc : Nat)
  | fmul (dt d fd fa fb fc : Nat)
  | fma (dt d fd fa fb fc : Nat)
  | mac (dt d fd fa fb fc : Nat)
  | msub (dt d fd fa fb fc : Nat)
  | fmin (dt d fd fa fb fc : Nat)
  | fmax (dt d fd fa fb fc : Nat)
  | fabs (dt d fd fa fb fc : Nat)
  | fneg (dt d fd fa fb fc : Nat)
  | fcmp (dt d fd fa fb fc : Nat)
  | clamp (dt d fd fa fb fc : Nat)
  | rcp (dt d fd fa fb fc : Nat)
  | rsq (dt d fd fa fb fc : Nat)
  | itof (dt d fd fa fb fc : Nat)
  | ftoi (dt d fd fa fb fc : Nat)
  | ld (dt d f a pm imm : Nat)
  | st (dt d f a pm imm : Nat)
  | ldi (dt d f imm : Nat)
  | tapm (dt d fd fc a : Nat)
  | ldst (dt d fd fb ax ay sx sy : Nat)
  | illegalInstruction (dt d : Nat)
  | interruptEntry (dt d : Nat)
  | doorbell (dt : Nat) (src : Src) (d : Nat)
  | sfTimerWrite (dt : Nat) (src : Src) (d value : Nat)
  | sfTimerExpire (d : Nat)
  | releaseWarning (d : Nat)
  | run (dt : Nat) (src : Src) (d value : Nat)
  | serifRelease (d : Nat)
  | submit (dt : Nat) (src : Src) (value : Nat)
  | delayTick
  | itemEnd (dt core result : Nat)
  | resBRead (dt : Nat) (r : Reader)
  | cancel (dt : Nat) (src : Src) (value : Nat)
  | obsWrite (dt : Nat) (src : Src) (value : Nat)
  | loadWindowEnd (busy : Nat)
  | door (dt : Nat) (src : Src) (value : Nat)
  | info (dt version : Nat)
  | flashRead (dt : Nat)
  | flashErase (dt : Nat)
  | flashWrite (dt : Nat)
  | slotCheck (dt : Nat) (env : LoadEnv)
  | selftest (dt : Nat) (pass : Bool)
  | blotterSync (dt : Nat)
  | mailboxUnknownOp (dt : Nat)
  | overdueTest
  | kick (dt : Nat) (src : Src)
  | watchdogExpire
  | restartComplete (dt : Nat) (digestOk : Bool)
  | blotterCommit (dt : Nat) (verified : Bool)
  | blockEraseComplete (dt : Nat) (verified : Bool)
  | sramError (dt mac row : Nat) (corrected : Bool) (owner : SramOwner)
  | selfTestComplete (dt unit : Nat) (pass : Bool)
  | scheduledTest (dt unit wear : Nat)
  | hoursJournal (meanTj : Rat)
  | pcieReset (dt : Nat)
  | intStatClear (dt : Nat) (src : Src) (n value : Nat)
  | intEnWrite (dt : Nat) (src : Src) (n value : Nat)
  | msixUnmask (dt how v : Nat)
  | i2cCommand (dt byte : Nat) (data : List Nat) (pecOk : Bool)
  | i2cRead (dt n : Nat)
  | i2cWarmReset (dt d0 d1 : Nat)
  | i2cSclTimeout (dt : Nat)
  | pmbusTelemetry (dt r : Nat) (ok : Bool) (vout iout temp status : Nat)
  | pmbAlert (dt r status : Nat)
  | liveToggle
  | vidStep
  | servoWindowEnd
  | svHoldEnd
  | tempSense (dt : Nat) (temps : List Int)
  | bankPowerGoodRise (dt n : Nat) (v33 : Bool)
  | bankPowerGoodFall (dt n : Nat)
  | bankInputsRestored (dt n : Nat)
  | bypass (dt : Nat)
  | idcode (dt : Nat)
  | samplePreload (dt : Nat) (data : List Bool)
  | extest (dt : Nat)
  | jtagClamp (dt : Nat)
  | highz (dt : Nat)
  | extestPulse (dt : Nat)
  | extestTrain (dt : Nat)
  | blockLockGain (dt lane : Nat)
  | pcieLinkUp (dt : Nat)
  | pllLockLoss (dt : Nat)
  deriving DecidableEq, Repr

end Sys2Proof
end

