-- ==== Sys2Proof/Machine/Operands.lean ====
section
/-! DEFINITION. The operand ranges of the commands: which units, channels, vectors and field values the device has (R16, R38, R423, R444). -/

namespace Sys2Proof.Machine

/-- Axis slots AX0 to AX159. -/
def isAxis (n : Nat) : Bool := n < 160
/-- Chains CH0 to CH15. -/
def isChain (c : Nat) : Bool := c < 16
/-- Rate groups RG0 to RG3. -/
def isGroup (g : Nat) : Bool := g < 4
/-- Feedback channels FB0 to FB15. -/
def isFb (k : Nat) : Bool := k < 16
/-- PWM bridges PB0 to PB11. -/
def isPb (b : Nat) : Bool := b < 12
/-- Sigma-delta inputs SD0 to SD23. -/
def isSd (k : Nat) : Bool := k < 24
/-- Ring channels A and B. -/
def isCh (c : Nat) : Bool := c < 2
/-- Ports P0 and P1 of a ring channel. -/
def isPort (p : Nat) : Bool := p < 2
/-- Serif cores 0 to 3. -/
def isSerif (d : Nat) : Bool := d < 4
/-- Indirect windows W0 to W3. -/
def isWin (w : Nat) : Bool := w < 4
/-- Capture inputs and event outputs 0 to 7. -/
def isCap (i : Nat) : Bool := i < 8
/-- Safe outputs SO0 to SO3. -/
def isSout (j : Nat) : Bool := j < 4
/-- Safe inputs SIN0 to SIN7. -/
def isSin (i : Nat) : Bool := i < 8
/-- A 32-bit word. -/
def isWord (v : Nat) : Bool := v < 4294967296
/-- MSI-X vectors 0 to 63. -/
def isVec (v : Nat) : Bool := v < 64

end Sys2Proof.Machine
end

