-- ==== Sys2Proof/Machine/Digest.lean ====
section
/-! DEFINITION. Cyclic redundancy codes and SHA-256 over lists of bytes (R102, R103, R309, R436, R454). -/

namespace Sys2Proof.Machine

/-- One bit of a reflected CRC. -/
def crcStepR (poly : Nat) (c : Nat) : Nat := if c % 2 = 1 then Nat.xor (c / 2) poly else c / 2

/-- One byte of a reflected CRC. -/
def crcByteR (poly c b : Nat) : Nat :=
  let f := crcStepR poly
  f (f (f (f (f (f (f (f (Nat.xor c (b % 256)))))))))

/-- The register of a CRC after bytes; it is evaluated byte by byte, so that a long image stays in the kernel's reach. -/
def crcBytes (f : Nat → Nat → Nat) : Nat → List Nat → Nat
  | c, [] => c
  | 0, b :: t => crcBytes f (f 0 b) t
  | c + 1, b :: t => crcBytes f (f (c + 1) b) t

/-- A reflected CRC over bytes, started at `init` and finished by `xorout`. -/
def crcR (poly init xorout : Nat) (bs : List Nat) : Nat :=
  Nat.xor (crcBytes (crcByteR poly) init bs) xorout

/-- CRC-32 of IEEE 802.3 (R102). -/
def crc32 (bs : List Nat) : Nat := crcR 0xEDB88320 0xFFFFFFFF 0xFFFFFFFF bs

/-- CRC-32C, polynomial 0x1EDC_6F41 (R436). -/
def crc32c (bs : List Nat) : Nat := crcR 0x82F63B78 0xFFFFFFFF 0xFFFFFFFF bs

/-- A CRC of `w` bits, most significant bit first, over a list of bits. -/
def crcBits (w poly init : Nat) (l : List Bool) : Nat :=
  l.foldl (fun c b =>
    let top := c / p2 (w - 1) % 2
    let c' := c * 2 % p2 w
    if top = b2n b then c' else Nat.xor c' (poly % p2 w)) (init % p2 w)

/-- The bits of `n` bits of a word, most significant first. -/
def msbBits (n w : Nat) : List Bool := (List.range n).map fun i => bit w (n - 1 - i)

/-- The word spelled by bits, most significant first. -/
def bitsNat (l : List Bool) : Nat := l.foldl (fun a b => a * 2 + b2n b) 0

/-- CRC-8 of SMBus PEC, polynomial 0x07 (R454). -/
def crc8 (bs : List Nat) : Nat := crcBits 8 7 0 (bs.flatMap (msbBits 8))

/-- Rotation right of a 32-bit word. -/
def rotr (n x : Nat) : Nat := (x / p2 n) ||| (x * p2 (32 - n) % p2 32)

/-- The exclusive or of the words a list of functions gives. -/
def mixOf (fs : List (Nat → Nat)) (x : Nat) : Nat := fs.foldl (fun a f => Nat.xor a (f x)) 0

/-- The greatest `r` with `r ^ k ≤ x` among those that agree with `r0` above bit `n`, bit by bit from the top. -/
def rootBits (k x : Nat) : Nat → Nat → Nat
  | 0, r => r
  | n + 1, r => rootBits k x n (if (r + p2 n) ^ k ≤ x then r + p2 n else r)

/-- The first 32 bits of the fractional part of the `k`-th root of a number below 2 ^ 9. -/
def rootFraction (k q : Nat) : Nat := rootBits k (q * p2 (32 * k)) 37 0 % p2 32

/-- The primes below `n`. -/
def primesBelow (n : Nat) : List Nat :=
  (List.range n).filter fun q => decide (2 ≤ q) && (List.range q).all fun d => decide (d < 2) || decide (q % d ≠ 0)

/-- The round constants of SHA-256 (the digest R103 names): cube roots of the first 64 primes. -/
def shaK : List Nat := (primesBelow 312).map (rootFraction 3)

/-- The initial hash value of SHA-256: square roots of the first eight primes. -/
def shaH : List Nat := (primesBelow 20).map (rootFraction 2)

/-- The message padded to whole blocks of 64 bytes. -/
def shaPad (bs : List Nat) : List Nat :=
  let n := bs.length
  let z := (64 - (n + 9) % 64) % 64
  bs ++ [0x80] ++ List.replicate z 0 ++ (leBytes 8 (8 * n)).reverse

/-- The big-endian words of a list of bytes. -/
def beWords : List Nat → List Nat
  | a :: b :: c :: d :: t => (((a * 256 + b) * 256 + c) * 256 + d) :: beWords t
  | _ => []

/-- The message schedule, newest word first, extended by `n` words. -/
def shaExt : Nat → List Nat → List Nat
  | 0, w => w
  | n + 1, w =>
    let lo := mixOf [rotr 7, rotr 18, fun x => x / p2 3] (w.getD 14 0)
    let hi := mixOf [rotr 17, rotr 19, fun x => x / p2 10] (w.getD 1 0)
    shaExt n ((w.getD 15 0 + lo + w.getD 6 0 + hi) % p2 32 :: w)

/-- The working variables of a block: the two sequences of words a round extends, newest first; `top` begins with
a, b, c, d of the digest's definition and `low` with e, f, g, h. -/
structure ShaVars where
  top : List Nat
  low : List Nat
  deriving DecidableEq, Repr

/-- One round with the sum of its constant and its schedule word. -/
def ShaVars.turn (v : ShaVars) (k : Nat) : ShaVars :=
  let e := v.low.getD 0 0
  let a := v.top.getD 0 0
  let pick := Nat.xor (e &&& v.low.getD 1 0) ((p2 32 - 1 - e) &&& v.low.getD 2 0)
  let vote := (a &&& v.top.getD 1 0) ||| (a &&& v.top.getD 2 0) ||| (v.top.getD 1 0 &&& v.top.getD 2 0)
  let t := v.low.getD 3 0 + mixOf [rotr 6, rotr 11, rotr 25] e + pick + k
  { top := (t + mixOf [rotr 2, rotr 13, rotr 22] a + vote) % p2 32 :: v.top.take 3,
    low := (v.top.getD 3 0 + t) % p2 32 :: v.low.take 3 }

/-- One block of sixteen words. -/
def shaBlock (h : List Nat) (blk : List Nat) : List Nat :=
  let ks := List.zipWith (fun k w => k + w) shaK (shaExt 48 blk.reverse).reverse
  let v := ks.foldl ShaVars.turn { top := h.take 4, low := h.drop 4 }
  List.zipWith (fun x y => (x + y) % p2 32) h (v.top ++ v.low)

/-- The blocks of a word list, on fuel. -/
def shaBlocks : Nat → List Nat → List Nat → List Nat
  | 0, h, _ => h
  | n + 1, h, ws => if ws.isEmpty then h else shaBlocks n (shaBlock h (ws.take 16)) (ws.drop 16)

/-- The 32 bytes of the SHA-256 digest. -/
def sha256 (bs : List Nat) : List Nat :=
  let ws := beWords (shaPad bs)
  (shaBlocks (ws.length / 16 + 1) shaH ws).flatMap fun w => (leBytes 4 w).reverse

end Sys2Proof.Machine
end

