-- ==== Sys2Proof/Config.lean ====
section
/-! DEFINITION. What the spec leaves open: values that an implementation or the surroundings fix, as constants without a body, so that every claim holds for each of them. -/

namespace Sys2Proof.Config

/-- A free value: the counter of State names the use, so that two uses need not agree. -/
opaque freeNat : Nat → Nat

/-- Does a value between two representable words go to the upper one? Asked where a rule converts a number to a word and states no rounding. -/
opaque roundsUp : Rat → Bool

/-- The low byte of an event code of R437, of which the spec gives only the class: class and kind of the event to the byte. -/
opaque eventSub : Nat → Nat → Nat

/-- The code-specific data of a journal entry (R436), of which the spec gives no layout. -/
opaque entryData : Nat → Nat → Nat

/-- What the binary32 evaluation of the Margin monitor makes of an exact quantity: the spec names the format and no order of operations. -/
opaque single : Rat → Rat

/-- A velocity over an interval of no ticks, of which the spec states no result: by the difference of position. -/
opaque overZero : Int → Rat

/-- Is the fused 0 × ∞ + NaN an invalid operation? IEEE 754 leaves it open. -/
opaque fmaInvalid : Bool

/-- Does minNum (false) or maxNum (true) of two zeros of different sign return the first operand, by that operand's sign? IEEE 754 leaves it open. -/
opaque zeroFirst : Bool → Bool → Bool

/-- The choice of RCP (0) and RSQ (1) among the words within 1 ulp of the exact value, by operand (R380). -/
opaque ulpChoice : Nat → Nat → Nat

/-- What a flash byte holds after a program operation onto a byte that is not erased: old byte and new byte. The spec describes no such write. -/
opaque flashOver : Nat → Nat → Nat

end Sys2Proof.Config

namespace Sys2Proof

/-- A number as an integer where the rule states no rounding: one of its two neighbours. -/
def roundOpen (x : Rat) : Int :=
  if x.den = 1 then x.num else x.floor + (if Config.roundsUp x then 1 else 0)

end Sys2Proof
end

