-- ==== Sys2Proof/Machine/RegMap.lean ====
section
/-! DEFINITION. The register map of BAR0: every register of the spec's tables with its fields, access classes, attributes, reset values and shadow mark (R12 to R14, R38 to R45). -/

namespace Sys2Proof.Machine

/-- Access classes of R14. -/
inductive Acc | ro | rw | rwh | w1c | w1s | wo | rc | stky
  deriving DecidableEq, Repr

/-- One field of a register: its bits, its class, the attributes KEY, W1T and TMR, and its reset value. -/
structure FieldRow where
  hi : Nat
  lo : Nat
  acc : Acc
  key : Bool
  w1t : Bool
  tmr : Bool
  rst : Nat
  deriving DecidableEq, Repr

/-- One register of a block: its instance offset, its count and stride when it is an array, whether it is shadowed (R45), and its named fields. -/
structure RegRow where
  off : Nat
  cnt : Nat
  str : Nat
  sh : Bool
  fs : List FieldRow
  deriving DecidableEq, Repr

/-- A plain field. -/
def fd (hi lo : Nat) (a : Acc) (r : Nat) : FieldRow := ⟨hi, lo, a, false, false, false, r⟩
/-- A field with the KEY attribute. -/
def ky (hi lo : Nat) (a : Acc) (r : Nat) : FieldRow := ⟨hi, lo, a, true, false, false, r⟩
/-- A field with the W1T attribute. -/
def wt (hi lo : Nat) (a : Acc) (r : Nat) : FieldRow := ⟨hi, lo, a, false, true, false, r⟩
/-- A field with the KEY and TMR attributes. -/
def kt (hi lo : Nat) (a : Acc) (r : Nat) : FieldRow := ⟨hi, lo, a, true, false, true, r⟩

/-- The registers of block DEV, from the register tables of spec/02_register_model.md, spec/04_folio_and_modes.md, spec/18_host_and_sideband.md, spec/19_balls_and_signals.md. -/
def devRegs : List RegRow := [
  ⟨0x10, 1, 0x0, false, [fd 31 16 .ro 0x7160, fd 15 8 .ro 0xb0, fd 7 4 .ro 1]⟩ /- DEV_PART -/,
  ⟨0x14, 1, 0x0, false, [fd 31 0 .ro 0]⟩ /- DEV_SERIAL_LO -/,
  ⟨0x18, 1, 0x0, false, [fd 15 0 .ro 0]⟩ /- DEV_SERIAL_HI -/,
  ⟨0x100, 1, 0x0, false, [ky 31 31 .w1s 0]⟩ /- DEV_CTRL -/,
  ⟨0x104, 1, 0x0, false, [fd 4 4 .ro 0, fd 3 3 .ro 0, fd 2 2 .ro 0, fd 1 1 .ro 0, fd 0 0 .ro 0]⟩ /- DEV_RST_CAUSE -/,
  ⟨0x200, 1, 0x0, false, [wt 0 0 .rw 0]⟩ /- LIVE_CFG -/,
  ⟨0x204, 1, 0x0, false, [fd 1 1 .ro 0, fd 0 0 .ro 0]⟩ /- LIVE_STAT -/,
  ⟨0x210, 1, 0x0, false, [wt 31 31 .rw 0, fd 30 30 .stky 0, fd 6 0 .ro 0x30]⟩ /- DEV_I2C -/,
  ⟨0x300, 1, 0x0, false, [fd 31 0 .w1c 0]⟩ /- INT_STAT0 -/,
  ⟨0x304, 1, 0x0, false, [fd 31 0 .w1c 0]⟩ /- INT_STAT1 -/,
  ⟨0x308, 1, 0x0, false, [fd 31 0 .rw 0]⟩ /- INT_EN0 -/,
  ⟨0x30c, 1, 0x0, false, [fd 31 0 .rw 0]⟩ /- INT_EN1 -/,
  ⟨0x400, 1, 0x0, false, [fd 29 24 .stky 0, fd 21 16 .ro 0, fd 5 0 .ro 0]⟩ /- DEV_BANK -/,
  ⟨0x404, 1, 0x0, false, [fd 31 31 .stky 0, fd 15 0 .rwh 0]⟩ /- DEV_BANK_CNT -/,
  ⟨0x1000, 64, 0x10, false, [fd 31 0 .rw 0]⟩ /- MSIX_ADDR_LO -/,
  ⟨0x1004, 64, 0x10, false, [fd 31 0 .rw 0]⟩ /- MSIX_ADDR_HI -/,
  ⟨0x1008, 64, 0x10, false, [fd 31 0 .rw 0]⟩ /- MSIX_DATA -/,
  ⟨0x100c, 64, 0x10, false, [fd 0 0 .rw 1]⟩ /- MSIX_CTRL -/,
  ⟨0x1800, 2, 0x4, false, [fd 31 0 .ro 0]⟩ /- MSIX_PBA -/]

/-- The registers of block CMT, from the register tables of spec/02_register_model.md. -/
def cmtRegs : List RegRow := [
  ⟨0x10, 1, 0x0, false, [fd 31 31 .w1s 0, fd 30 30 .rw 0, fd 15 0 .rw 0]⟩ /- COMMIT -/,
  ⟨0x14, 1, 0x0, false, [fd 31 0 .rw 0]⟩ /- CMT_AT -/,
  ⟨0x18, 1, 0x0, false, [fd 15 0 .ro 0]⟩ /- CMT_PEND -/,
  ⟨0x1c, 1, 0x0, false, [fd 31 0 .ro 0]⟩ /- CMT_LAST -/,
  ⟨0x20, 1, 0x0, false, [fd 17 17 .ro 0, fd 16 16 .ro 0, fd 10 10 .stky 0, fd 9 9 .stky 0, fd 8 8 .stky 0, fd 5 5 .stky 0, fd 4 4 .stky 0, fd 1 1 .stky 0, fd 0 0 .stky 0]⟩ /- CMT_STAT -/,
  ⟨0x24, 1, 0x0, false, [fd 31 30 .ro 0, fd 26 24 .ro 0, fd 22 0 .ro 0]⟩ /- VIOL_INFO -/,
  ⟨0x30, 1, 0x0, false, [fd 31 0 .wo 0]⟩ /- UNLOCK -/,
  ⟨0x40, 1, 0x0, false, [fd 31 31 .stky 0, fd 23 0 .rwh 0]⟩ /- TMR_SCRUB -/,
  ⟨0x44, 1, 0x0, false, [fd 22 0 .ro 0]⟩ /- TMR_LAST -/]

/-- The registers of block TB, from the register tables of spec/03_time_base.md. -/
def tbRegs : List RegRow := [
  ⟨0x10, 1, 0x0, false, [wt 31 30 .rw 0, fd 29 28 .ro 0, fd 27 26 .ro 0, fd 25 24 .ro 0, fd 23 23 .rw 0, fd 22 22 .rw 0, fd 15 8 .rw 0x32]⟩ /- TB_CTRL -/,
  ⟨0x14, 1, 0x0, false, [fd 15 15 .w1c 0, fd 14 14 .w1c 0, fd 13 13 .stky 0, fd 12 12 .stky 0, fd 11 11 .stky 0, fd 10 10 .stky 0, fd 9 9 .stky 0, fd 8 8 .stky 0, fd 2 2 .ro 0, fd 1 1 .ro 0, fd 0 0 .ro 0]⟩ /- TB_STAT -/,
  ⟨0x18, 1, 0x0, false, [fd 31 0 .ro 0]⟩ /- TB_NS -/,
  ⟨0x1c, 1, 0x0, false, [fd 31 24 .ro 0, fd 17 16 .ro 0, fd 15 0 .ro 0]⟩ /- TB_SNAP -/,
  ⟨0x20, 1, 0x0, false, [fd 31 0 .ro 0]⟩ /- TB_PERIOD -/,
  ⟨0x24, 1, 0x0, false, [fd 31 0 .ro 0]⟩ /- TB_BOUND -/,
  ⟨0x28, 1, 0x0, false, [fd 31 0 .rwh 0]⟩ /- TB_RATE -/,
  ⟨0x2c, 1, 0x0, false, [fd 31 0 .wo 0]⟩ /- TB_ADJ -/,
  ⟨0x30, 1, 0x0, false, [fd 31 0 .ro 0]⟩ /- TB_ADJ_REM -/,
  ⟨0x34, 1, 0x0, false, [ky 31 0 .wo 0]⟩ /- TB_STEP -/,
  ⟨0x38, 1, 0x0, false, [fd 31 0 .ro 0]⟩ /- TB_P_OFS -/,
  ⟨0x3c, 1, 0x0, false, [fd 31 0 .ro 0]⟩ /- TB_P_RATE -/,
  ⟨0x40, 1, 0x0, true, [fd 31 24 .rw 0x64, fd 23 16 .rw 0x64, fd 15 8 .rw 0x14, fd 7 4 .rw 7, fd 3 0 .rw 3]⟩ /- TB_SERVO -/,
  ⟨0x44, 1, 0x0, true, [fd 31 28 .rw 8, fd 27 16 .rw 0x3e8, fd 7 0 .rw 0x64]⟩ /- PPS_CFG -/,
  ⟨0x48, 1, 0x0, false, [fd 31 0 .rwh 0]⟩ /- PPS_OUT_AT -/,
  ⟨0x4c, 1, 0x0, false, [fd 31 0 .ro 0]⟩ /- PPS_LAST -/,
  ⟨0x50, 1, 0x0, false, [fd 31 31 .stky 0, fd 23 16 .rwh 0, fd 15 0 .ro 0]⟩ /- PPS_STAT -/,
  ⟨0x60, 4, 0x4, false, [fd 31 30 .ro 0, fd 26 24 .ro 0, fd 17 0 .ro 0]⟩ /- RG_CFG -/,
  ⟨0x70, 1, 0x0, false, [fd 23 0 .stky 0]⟩ /- TSU_FAIL -/,
  ⟨0x100, 8, 0x20, true, [fd 31 31 .rw 0, fd 30 29 .rw 1, fd 28 28 .rwh 0, fd 23 16 .rw 0, fd 15 0 .rw 0]⟩ /- CAP_CFG -/,
  ⟨0x104, 8, 0x20, false, [fd 31 0 .rc 0]⟩ /- CAP_STAMP -/,
  ⟨0x108, 8, 0x20, false, [fd 31 24 .rwh 0, fd 23 23 .stky 0, fd 16 16 .ro 0, fd 15 8 .ro 0, fd 2 0 .ro 0]⟩ /- CAP_STAT -/,
  ⟨0x10c, 8, 0x20, false, [fd 31 0 .rwh 0]⟩ /- CAP_OPEN -/,
  ⟨0x110, 8, 0x20, false, [fd 31 0 .rwh 0]⟩ /- CAP_CLOSE -/,
  ⟨0x200, 8, 0x20, true, [fd 31 29 .rw 0, fd 28 28 .rw 0, fd 27 23 .rw 0, fd 17 0 .rw 0]⟩ /- EVT_CFG -/,
  ⟨0x204, 8, 0x20, false, [fd 31 0 .rwh 0]⟩ /- EVT_AT -/,
  ⟨0x208, 8, 0x20, true, [fd 31 0 .rw 0]⟩ /- EVT_PER -/,
  ⟨0x20c, 8, 0x20, false, [fd 31 16 .rwh 0, fd 15 0 .rw 1]⟩ /- EVT_WID -/,
  ⟨0x210, 8, 0x20, false, [fd 31 31 .stky 0, fd 30 30 .stky 0, fd 26 24 .ro 0, fd 0 0 .ro 0]⟩ /- EVT_STAT -/]

/-- The registers of block MOD, from the register tables of spec/04_folio_and_modes.md. -/
def modRegs : List RegRow := [
  ⟨0x10, 1, 0x0, false, [fd 19 18 .ro 0, fd 17 16 .ro 0, fd 11 8 .ro 0xf, fd 7 4 .ro 0xf, fd 3 0 .ro 0]⟩ /- MOD_STATE -/,
  ⟨0x14, 1, 0x0, false, [ky 3 0 .wo 0]⟩ /- MOD_REQ -/,
  ⟨0x18, 1, 0x0, false, [fd 31 31 .stky 0, fd 15 8 .rwh 0, fd 7 7 .stky 0, fd 6 4 .ro 0, fd 3 3 .stky 0, fd 2 2 .ro 0, fd 1 1 .ro 0]⟩ /- MOD_STAT -/,
  ⟨0x1c, 1, 0x0, false, [fd 1 0 .rw 0]⟩ /- MOD_CFG -/,
  ⟨0x20, 1, 0x0, false, [fd 11 10 .ro 0, fd 9 9 .ro 0, fd 7 4 .ro 0, fd 3 0 .ro 0]⟩ /- FOLIO_STAT -/,
  ⟨0x24, 1, 0x0, false, [fd 31 0 .ro 0]⟩ /- FOLIO_SEQ_A -/,
  ⟨0x28, 1, 0x0, false, [fd 31 0 .ro 0]⟩ /- FOLIO_SEQ_B -/,
  ⟨0x2c, 1, 0x0, false, [fd 15 8 .ro 0, fd 4 0 .ro 0]⟩ /- FOLIO_DIAG -/,
  ⟨0x30, 1, 0x0, false, [fd 31 0 .ro 0]⟩ /- BOOT_TIME -/]

/-- The registers of block IND, from the register tables of spec/02_register_model.md, spec/18_host_and_sideband.md. -/
def indRegs : List RegRow := [
  ⟨0x100, 4, 0x40, false, [fd 23 16 .rw 1, fd 7 0 .rw 0]⟩ /- IND_SPACE -/,
  ⟨0x104, 4, 0x40, false, [fd 31 2 .rwh 0]⟩ /- IND_ADDR -/,
  ⟨0x108, 4, 0x40, false, [fd 31 0 .rwh 0]⟩ /- IND_DATA -/,
  ⟨0x10c, 4, 0x40, false, [fd 19 16 .ro 0, fd 13 13 .stky 0, fd 12 12 .stky 0, fd 11 11 .stky 0, fd 10 10 .stky 0, fd 9 9 .stky 0, fd 8 8 .stky 0, fd 0 0 .ro 0]⟩ /- IND_STAT -/,
  ⟨0x200, 1, 0x0, false, [fd 23 16 .rw 0, fd 7 0 .rw 8]⟩ /- IND_AP -/,
  ⟨0x20c, 1, 0x0, false, [fd 19 16 .ro 0, fd 13 13 .stky 0, fd 10 10 .stky 0, fd 9 9 .stky 0, fd 8 8 .stky 0, fd 0 0 .ro 0]⟩ /- IND_AP_STAT -/]

/-- The registers of block STK, from the register tables of spec/05_strokes.md. -/
def stkRegs : List RegRow := [
  ⟨0x10, 1, 0x0, true, [ky 31 0 .rw 0]⟩ /- STK_VMAX -/,
  ⟨0x14, 1, 0x0, true, [ky 31 0 .rw 0]⟩ /- STK_AMAX -/,
  ⟨0x18, 1, 0x0, true, [ky 31 0 .rw 0]⟩ /- STK_DMAX -/,
  ⟨0x1c, 1, 0x0, true, [ky 31 0 .rw 0]⟩ /- STK_JMAX -/,
  ⟨0x20, 1, 0x0, true, [ky 31 0 .rw 0]⟩ /- STK_STOPDEC -/,
  ⟨0x24, 1, 0x0, true, [ky 31 0 .rw 0x7fffffff]⟩ /- STK_SLIM_P -/,
  ⟨0x28, 1, 0x0, true, [ky 31 0 .rw 0x80000000]⟩ /- STK_SLIM_N -/,
  ⟨0x2c, 1, 0x0, true, [fd 29 20 .rw 0x100, fd 19 10 .rw 0x100, fd 9 0 .rw 0x100]⟩ /- STK_OVR -/,
  ⟨0x30, 1, 0x0, false, [fd 31 0 .ro 0]⟩ /- STK_REF_POS -/,
  ⟨0x34, 1, 0x0, false, [fd 31 16 .ro 0]⟩ /- STK_REF_FRAC -/,
  ⟨0x38, 1, 0x0, false, [fd 31 0 .ro 0]⟩ /- STK_REF_VEL -/,
  ⟨0x3c, 1, 0x0, false, [fd 31 0 .ro 0]⟩ /- STK_DEC_USED -/,
  ⟨0x40, 1, 0x0, false, [fd 7 7 .stky 0, fd 6 6 .stky 0, fd 5 5 .stky 0, fd 4 4 .stky 0, fd 3 3 .stky 0, fd 2 2 .stky 0, fd 0 0 .ro 0]⟩ /- STK_FLAGS -/,
  ⟨0x50, 1, 0x0, true, [fd 31 24 .rw 0, fd 23 16 .rw 0, fd 15 8 .rw 0, fd 7 7 .rw 0, fd 6 6 .rw 0, fd 5 5 .rw 0, fd 4 0 .rw 8]⟩ /- STK_LIM_CFG -/,
  ⟨0x54, 1, 0x0, true, [fd 31 0 .rw 0x3e8]⟩ /- STK_LIM_CLR -/,
  ⟨0x58, 1, 0x0, false, [fd 31 16 .rwh 0, fd 5 5 .ro 0, fd 4 4 .ro 0, fd 3 3 .ro 0, fd 2 2 .ro 0, fd 1 1 .ro 0]⟩ /- STK_LIM_STAT -/,
  ⟨0x5c, 1, 0x0, false, [fd 31 0 .ro 0]⟩ /- STK_LIM_CAP_P -/,
  ⟨0x60, 1, 0x0, false, [fd 31 0 .ro 0]⟩ /- STK_LIM_CAP_N -/,
  ⟨0x70, 1, 0x0, true, [fd 31 28 .rw 0, fd 27 27 .rw 0, fd 26 26 .rw 0, fd 25 25 .rw 1]⟩ /- STK_HOME_CFG -/,
  ⟨0x74, 1, 0x0, true, [fd 31 0 .rw 0]⟩ /- STK_HOME_V1 -/,
  ⟨0x78, 1, 0x0, true, [fd 31 0 .rw 0]⟩ /- STK_HOME_V2 -/,
  ⟨0x7c, 1, 0x0, true, [fd 31 0 .rw 0]⟩ /- STK_HOME_POS -/,
  ⟨0x80, 1, 0x0, true, [fd 31 0 .rw 0]⟩ /- STK_HOME_TGT -/,
  ⟨0x84, 1, 0x0, true, [fd 31 16 .rw 0x10, fd 15 0 .rw 0x400]⟩ /- STK_HOME_HS -/,
  ⟨0x88, 1, 0x0, false, [fd 31 28 .ro 0, fd 27 24 .ro 0]⟩ /- STK_HOME_STAT -/,
  ⟨0x90, 1, 0x0, true, [fd 31 31 .rw 0, fd 15 0 .rw 0x100]⟩ /- STK_MS_CFG -/,
  ⟨0x94, 1, 0x0, true, [fd 31 16 .rw 0x400, fd 15 0 .rw 0x100]⟩ /- STK_MS_V12 -/,
  ⟨0x98, 1, 0x0, true, [fd 31 30 .ro 0, fd 15 0 .rw 0x1000]⟩ /- STK_MS_V3 -/,
  ⟨0xa0, 1, 0x0, true, [fd 31 28 .rw 0, fd 23 16 .rw 0xa, fd 15 0 .rw 1]⟩ /- STK_STEP_CFG -/,
  ⟨0xa4, 1, 0x0, false, [fd 31 0 .ro 0]⟩ /- STK_STEP_STAT -/]

/-- The registers of block CHN, from the register tables of spec/05_strokes.md. -/
def chnRegs : List RegRow := [
  ⟨0x10, 1, 0x0, false, [fd 23 16 .ro 0, fd 15 12 .ro 0, fd 11 10 .ro 0, fd 9 9 .ro 0, fd 4 0 .ro 0x1f]⟩ /- CHN_CFG -/,
  ⟨0x14, 1, 0x0, false, [fd 31 31 .w1s 0]⟩ /- CHN_PUSH -/,
  ⟨0x18, 1, 0x0, false, [fd 3 3 .w1s 0, fd 2 2 .w1s 0, fd 1 1 .w1s 0, fd 0 0 .w1s 0]⟩ /- CHN_CMD -/,
  ⟨0x1c, 1, 0x0, false, [fd 31 29 .ro 0, fd 23 20 .ro 0, fd 13 8 .ro 0, fd 7 0 .ro 0]⟩ /- CHN_QSTAT -/,
  ⟨0x20, 1, 0x0, false, [fd 31 16 .ro 0, fd 15 0 .ro 0]⟩ /- CHN_TAG -/,
  ⟨0x24, 1, 0x0, false, [fd 31 16 .ro 0, fd 15 0 .rwh 0]⟩ /- CHN_DROP -/,
  ⟨0x28, 1, 0x0, false, [fd 10 10 .stky 0, fd 9 9 .stky 0, fd 8 8 .stky 0, fd 7 7 .stky 0, fd 6 6 .stky 0, fd 5 5 .stky 0, fd 4 4 .stky 0, fd 3 3 .stky 0, fd 2 2 .stky 0, fd 1 1 .stky 0, fd 0 0 .stky 0]⟩ /- CHN_FLAGS -/,
  ⟨0x2c, 1, 0x0, false, [fd 31 16 .rwh 0, fd 15 0 .rwh 0]⟩ /- CHN_CNT -/,
  ⟨0x30, 1, 0x0, false, [fd 31 16 .ro 0x8000, fd 15 0 .ro 0]⟩ /- CHN_RATE -/,
  ⟨0x34, 1, 0x0, false, [fd 31 0 .ro 0]⟩ /- CHN_TAU -/,
  ⟨0x38, 1, 0x0, true, [fd 15 0 .rw 0x3e8]⟩ /- CHN_SYNC -/,
  ⟨0x100, 64, 0x4, false, [fd 31 0 .rw 0]⟩ /- CHN_STG -/]

/-- The registers of block RUL, from the register tables of spec/07_ruling_solver.md. -/
def rulRegs : List RegRow := [
  ⟨0x10, 1, 0x0, false, [fd 31 30 .ro 0, fd 20 16 .ro 2, fd 10 8 .ro 4]⟩ /- RUL_CFG -/,
  ⟨0x14, 1, 0x0, true, [fd 6 0 .rw 0x18]⟩ /- RUL_ITER -/,
  ⟨0x18, 1, 0x0, true, [fd 31 16 .rw 0x6666, fd 15 12 .rw 0xa, fd 11 8 .rw 3, fd 4 0 .rw 0x12]⟩ /- RUL_ALG -/,
  ⟨0x1c, 1, 0x0, true, [fd 12 8 .rw 0x14, fd 4 0 .rw 0x14]⟩ /- RUL_REG -/,
  ⟨0x20, 1, 0x0, true, [fd 31 24 .rw 0x20, fd 23 16 .rw 0x10, fd 15 8 .rw 8, fd 7 0 .rw 8]⟩ /- RUL_HOR -/,
  ⟨0x24, 1, 0x0, true, [fd 23 16 .rw 0, fd 15 8 .rw 0, fd 7 0 .rw 0xc]⟩ /- RUL_WT -/,
  ⟨0x28, 1, 0x0, true, [ky 31 16 .rw 0x4000, ky 15 0 .rw 0x7333]⟩ /- RUL_LIM -/,
  ⟨0x2c, 1, 0x0, true, [fd 15 8 .rw 0x19, ky 3 0 .rw 2]⟩ /- RUL_OVR_CFG -/,
  ⟨0x30, 1, 0x0, true, [fd 31 0 .rw 0x40000]⟩ /- RUL_TOL -/,
  ⟨0x50, 1, 0x0, false, [fd 31 31 .ro 0, fd 30 30 .ro 0, fd 29 29 .ro 0, fd 28 28 .ro 0, fd 27 27 .ro 0, fd 26 26 .ro 0, fd 25 25 .ro 0, fd 24 24 .ro 0, fd 23 23 .ro 0, fd 22 22 .ro 0, fd 21 21 .ro 0, fd 19 16 .ro 0]⟩ /- RUL_STAT -/,
  ⟨0x54, 1, 0x0, false, [fd 9 9 .stky 0, fd 8 8 .stky 0, fd 7 7 .stky 0, fd 6 6 .stky 0, fd 5 5 .stky 0, fd 4 4 .stky 0, fd 3 3 .stky 0, fd 2 2 .stky 0, fd 1 1 .stky 0, fd 0 0 .stky 0]⟩ /- RUL_STKY -/,
  ⟨0x58, 1, 0x0, false, [fd 31 0 .ro 0]⟩ /- RUL_SEQ -/,
  ⟨0x5c, 1, 0x0, false, [fd 23 16 .ro 0xff, fd 7 0 .ro 0]⟩ /- RUL_PIVOT -/,
  ⟨0x60, 1, 0x0, false, [fd 31 0 .ro 0]⟩ /- RUL_RES_P -/,
  ⟨0x64, 1, 0x0, false, [fd 31 0 .ro 0]⟩ /- RUL_RES_D -/,
  ⟨0x68, 1, 0x0, false, [fd 31 0 .ro 0]⟩ /- RUL_VIOL -/,
  ⟨0x6c, 1, 0x0, false, [fd 31 16 .ro 0, fd 10 0 .ro 0]⟩ /- RUL_VROW -/,
  ⟨0x70, 1, 0x0, false, [fd 31 16 .rwh 0, fd 15 0 .rwh 0]⟩ /- RUL_CNT_BAD -/,
  ⟨0x74, 1, 0x0, false, [fd 23 0 .rwh 0]⟩ /- RUL_CNT_SAT -/,
  ⟨0x78, 1, 0x0, false, [fd 31 16 .rwh 0, fd 15 0 .rwh 0]⟩ /- RUL_CNT_WARM -/,
  ⟨0x7c, 1, 0x0, false, [fd 31 24 .ro 0, fd 18 0 .ro 0]⟩ /- RUL_TIME -/,
  ⟨0x80, 1, 0x0, false, [fd 31 16 .ro 0, fd 15 0 .ro 0]⟩ /- RUL_PHASE -/,
  ⟨0x84, 1, 0x0, false, [fd 26 16 .ro 0, fd 10 0 .ro 0]⟩ /- RUL_MATCH -/,
  ⟨0x90, 12, 0x4, false, [fd 5 0 .ro 0]⟩ /- RUL_FMT -/,
  ⟨0xc0, 4, 0x4, false, [fd 31 31 .ro 0, fd 30 30 .ro 0, fd 29 29 .ro 0, fd 20 16 .ro 0x1f, fd 15 15 .stky 0, fd 14 0 .rwh 0]⟩ /- RUL_TILE -/]

/-- The registers of block SEP, from the register tables of spec/08_separation_monitor.md. -/
def sepRegs : List RegRow := [
  ⟨0x10, 1, 0x0, true, [fd 31 31 .rw 0, fd 30 30 .rw 0, fd 15 0 .rw 0x1f4]⟩ /- SEP_CFG -/,
  ⟨0x14, 1, 0x0, true, [fd 31 16 .rw 0x640, fd 15 0 .rw 0]⟩ /- SEP_KH -/,
  ⟨0x18, 1, 0x0, true, [fd 31 16 .rw 0x352, fd 15 0 .rw 0x32]⟩ /- SEP_GEOM -/,
  ⟨0x1c, 1, 0x0, true, [fd 31 16 .rw 0x4e20, fd 15 8 .rw 0x80, fd 7 0 .rw 0x32]⟩ /- SEP_TIME -/,
  ⟨0x30, 1, 0x0, false, [fd 26 16 .ro 0, fd 14 8 .ro 0]⟩ /- SEP_STAT -/,
  ⟨0x34, 1, 0x0, false, [fd 18 0 .ro 0]⟩ /- SEP_DONE -/,
  ⟨0x38, 1, 0x0, false, [fd 5 5 .stky 0, fd 4 4 .stky 0, fd 3 3 .stky 0, fd 2 2 .stky 0, fd 1 1 .stky 0, fd 0 0 .stky 0]⟩ /- SEP_FLAGS -/,
  ⟨0x3c, 1, 0x0, false, [fd 31 16 .rwh 0, fd 15 0 .rwh 0]⟩ /- SEP_CNT -/,
  ⟨0x100, 16, 0x10, true, [fd 31 16 .rw 0, fd 15 0 .rw 0]⟩ /- SEP_CH_T -/,
  ⟨0x104, 16, 0x10, true, [fd 31 16 .rw 0, fd 15 0 .rw 0]⟩ /- SEP_CH_Z -/,
  ⟨0x400, 64, 0x10, false, [fd 31 31 .ro 0, fd 30 30 .ro 0, fd 29 29 .ro 0, fd 28 28 .ro 0, fd 17 16 .ro 0, fd 15 0 .ro 0]⟩ /- SEP_OCC -/,
  ⟨0x404, 64, 0x10, false, [fd 31 0 .ro 0]⟩ /- SEP_OCC_AGE -/]

/-- The registers of block MGN, from the register tables of spec/08_separation_monitor.md. -/
def mgnRegs : List RegRow := [
  ⟨0x10, 1, 0x0, true, [kt 31 31 .rw 1, kt 30 30 .rw 0, kt 29 29 .rw 0, kt 28 28 .rw 0, kt 27 26 .rw 1, kt 25 16 .rw 8, kt 15 0 .rw 0x96]⟩ /- MGN_CFG -/,
  ⟨0x14, 1, 0x0, true, [kt 31 16 .rw 0x640, kt 15 0 .rw 0x352]⟩ /- MGN_KH -/,
  ⟨0x18, 1, 0x0, true, [kt 31 16 .rw 0x32, kt 15 0 .rw 0x32]⟩ /- MGN_GEOM -/,
  ⟨0x1c, 1, 0x0, true, [kt 31 16 .rw 0x4e20, kt 15 0 .rw 0x64]⟩ /- MGN_TIME -/,
  ⟨0x20, 1, 0x0, true, [kt 15 0 .rw 0xfa]⟩ /- MGN_SRV -/,
  ⟨0x24, 1, 0x0, false, [fd 31 0 .ro 0]⟩ /- MGN_SIG -/,
  ⟨0x28, 1, 0x0, true, [kt 31 0 .rw 0]⟩ /- MGN_SIG_REF -/,
  ⟨0x30, 1, 0x0, false, [fd 31 30 .ro 2, fd 29 29 .ro 0, fd 28 28 .ro 1, fd 21 16 .ro 0, fd 15 0 .ro 0]⟩ /- MGN_STAT -/,
  ⟨0x34, 1, 0x0, false, [fd 18 0 .ro 0]⟩ /- MGN_DONE -/,
  ⟨0x38, 1, 0x0, false, [fd 10 10 .stky 0, fd 9 9 .stky 0, fd 8 8 .stky 0, fd 7 7 .stky 0, fd 6 6 .stky 0, fd 5 5 .stky 0, fd 4 4 .stky 0, fd 3 3 .stky 0, fd 2 2 .stky 0, fd 1 1 .stky 0, fd 0 0 .stky 0]⟩ /- MGN_FLT -/,
  ⟨0x3c, 1, 0x0, false, [fd 31 16 .rwh 0, fd 15 0 .rwh 0]⟩ /- MGN_CNT -/,
  ⟨0x40, 1, 0x0, false, [ky 31 31 .w1s 0]⟩ /- MGN_ACK -/,
  ⟨0x100, 16, 0x10, true, [kt 31 16 .rw 0, kt 15 0 .rw 0]⟩ /- MGN_CH_T -/,
  ⟨0x104, 16, 0x10, true, [kt 31 16 .rw 0, kt 15 0 .rw 0]⟩ /- MGN_CH_Z -/,
  ⟨0x200, 8, 0x10, true, [kt 31 28 .rw 0, kt 27 27 .rw 0, kt 25 24 .rw 0, kt 19 16 .rw 4, kt 15 0 .rw 0x14]⟩ /- MGN_SIN_CFG -/,
  ⟨0x204, 8, 0x10, false, [fd 3 3 .ro 0, fd 2 2 .ro 1, fd 1 1 .ro 0, fd 0 0 .ro 0]⟩ /- MGN_SIN_STAT -/,
  ⟨0x300, 4, 0x10, true, [kt 31 30 .rw 0, kt 15 0 .rw 0x12c]⟩ /- MGN_SOUT_CFG -/,
  ⟨0x304, 4, 0x10, false, [fd 31 16 .ro 0, fd 3 3 .ro 0, fd 2 2 .ro 0, fd 0 0 .ro 0]⟩ /- MGN_SOUT_STAT -/]

/-- The registers of block AX, from the register tables of spec/09_nib_lanes.md. -/
def axRegs : List RegRow := [
  ⟨0x10, 1, 0x0, true, [fd 31 29 .rw 0, fd 28 26 .rw 0, fd 25 24 .rw 0, fd 23 23 .rw 0, fd 22 20 .rw 0, fd 19 19 .rw 0, fd 18 18 .rw 0, fd 17 17 .rw 0, fd 16 16 .rw 0]⟩ /- AX_CFG -/,
  ⟨0x14, 1, 0x0, true, [fd 31 28 .rw 0, fd 27 24 .rw 0, fd 23 19 .rw 0, fd 15 8 .rw 2, fd 7 0 .rw 2]⟩ /- AX_SRC -/,
  ⟨0x18, 1, 0x0, true, [ky 31 30 .rw 1, ky 29 28 .rw 1, ky 27 26 .rw 2, ky 25 24 .rw 1, ky 23 22 .rw 2, ky 21 20 .rw 2, ky 7 4 .rw 2]⟩ /- AX_REACT -/,
  ⟨0x1c, 1, 0x0, true, [fd 31 31 .ro 0, fd 30 27 .ro 0, fd 26 25 .ro 0, fd 24 21 .rw 1, fd 20 19 .rw 0, fd 15 0 .ro 0]⟩ /- AX_CLCFG -/,
  ⟨0x20, 1, 0x0, true, [fd 31 8 .rw 0, fd 5 0 .rw 0]⟩ /- AX_KP -/,
  ⟨0x24, 1, 0x0, true, [fd 31 8 .rw 0x400000, fd 5 0 .rw 0x20]⟩ /- AX_KVF -/,
  ⟨0x28, 1, 0x0, true, [fd 31 8 .rw 0, fd 5 0 .rw 0]⟩ /- AX_KV -/,
  ⟨0x2c, 1, 0x0, true, [fd 31 8 .rw 0, fd 5 0 .rw 0]⟩ /- AX_KI -/,
  ⟨0x30, 1, 0x0, true, [fd 31 8 .rw 0, fd 5 0 .rw 0]⟩ /- AX_KAF -/,
  ⟨0x34, 1, 0x0, true, [fd 31 8 .rw 0, fd 5 0 .rw 0]⟩ /- AX_DSCALE -/,
  ⟨0x38, 1, 0x0, true, [ky 31 8 .rw 0, ky 5 0 .rw 0]⟩ /- AX_TLIM -/,
  ⟨0x3c, 1, 0x0, true, [ky 31 8 .rw 0, ky 5 0 .rw 0]⟩ /- AX_ILIM -/,
  ⟨0x40, 1, 0x0, true, [ky 31 8 .rw 0, ky 5 0 .rw 0]⟩ /- AX_VLIM -/,
  ⟨0x44, 1, 0x0, true, [fd 31 8 .rw 0x400000, fd 5 0 .rw 0x20]⟩ /- AX_VLP -/,
  ⟨0x48, 1, 0x0, true, [ky 31 0 .rw 0]⟩ /- AX_FERR -/,
  ⟨0x4c, 1, 0x0, true, [ky 31 0 .rw 0x7fffffff]⟩ /- AX_PLIM_P -/,
  ⟨0x50, 1, 0x0, true, [ky 31 0 .rw 0x80000000]⟩ /- AX_PLIM_N -/,
  ⟨0x60, 4, 0x14, true, [fd 31 8 .rw 0x400000, fd 5 0 .rw 0x20]⟩ /- AX_FLT_B0 -/,
  ⟨0x64, 4, 0x14, true, [fd 31 8 .rw 0, fd 5 0 .rw 0]⟩ /- AX_FLT_B1 -/,
  ⟨0x68, 4, 0x14, true, [fd 31 8 .rw 0, fd 5 0 .rw 0]⟩ /- AX_FLT_B2 -/,
  ⟨0x6c, 4, 0x14, true, [fd 31 8 .rw 0, fd 5 0 .rw 0]⟩ /- AX_FLT_A1 -/,
  ⟨0x70, 4, 0x14, true, [fd 31 8 .rw 0, fd 5 0 .rw 0]⟩ /- AX_FLT_A2 -/,
  ⟨0xb0, 1, 0x0, true, [fd 31 8 .rw 0, fd 5 0 .rw 0]⟩ /- AX_CKP -/,
  ⟨0xb4, 1, 0x0, true, [fd 31 8 .rw 0, fd 5 0 .rw 0]⟩ /- AX_CKI -/,
  ⟨0xb8, 1, 0x0, true, [fd 31 8 .rw 0, fd 5 0 .rw 0]⟩ /- AX_LS -/,
  ⟨0xbc, 1, 0x0, true, [fd 31 8 .rw 0, fd 5 0 .rw 0]⟩ /- AX_ID_REF -/,
  ⟨0xc0, 1, 0x0, true, [ky 31 8 .rw 0x400000, ky 5 0 .rw 0x20]⟩ /- AX_MI_MAX -/,
  ⟨0xc4, 1, 0x0, true, [fd 31 8 .rw 0, fd 5 0 .rw 0]⟩ /- AX_I_RUN -/,
  ⟨0xc8, 1, 0x0, true, [fd 31 8 .rw 0, fd 5 0 .rw 0]⟩ /- AX_I_HOLD -/,
  ⟨0xcc, 1, 0x0, true, [fd 31 16 .rw 0]⟩ /- AX_ANG -/,
  ⟨0xd0, 1, 0x0, true, [fd 31 8 .rw 0, fd 5 0 .rw 0]⟩ /- AX_AN_GAIN -/,
  ⟨0xd4, 1, 0x0, true, [fd 31 8 .rw 0, fd 5 0 .rw 0]⟩ /- AX_AN_OFS -/,
  ⟨0xd8, 1, 0x0, true, [fd 31 8 .rw 0, fd 5 0 .rw 0]⟩ /- AX_AN_DB -/,
  ⟨0xe0, 1, 0x0, true, [fd 31 28 .rw 0, fd 23 16 .rw 0xa, fd 15 0 .rw 1]⟩ /- AX_STEP -/,
  ⟨0x100, 1, 0x0, false, [fd 31 31 .w1s 0, fd 30 30 .w1s 0]⟩ /- AX_CTRL -/,
  ⟨0x104, 1, 0x0, false, [fd 31 31 .ro 0, fd 30 30 .ro 0, fd 29 29 .ro 0, fd 28 28 .ro 0, fd 27 27 .ro 0, fd 26 26 .ro 0, fd 25 25 .ro 0, fd 24 19 .ro 0, fd 15 12 .ro 0]⟩ /- AX_STAT -/,
  ⟨0x108, 1, 0x0, false, [fd 9 9 .stky 0, fd 8 8 .stky 0, fd 7 7 .stky 0, fd 6 6 .stky 0, fd 5 5 .stky 0, fd 4 4 .stky 0, fd 3 3 .stky 0, fd 2 2 .stky 0, fd 1 1 .stky 0]⟩ /- AX_FLAGS -/,
  ⟨0x10c, 1, 0x0, false, [fd 31 16 .rwh 0, fd 15 0 .rwh 0]⟩ /- AX_CNT -/,
  ⟨0x110, 1, 0x0, false, [fd 31 0 .ro 0]⟩ /- AX_FB_POS -/,
  ⟨0x114, 1, 0x0, false, [fd 31 8 .ro 0, fd 5 0 .ro 0]⟩ /- AX_FB_VEL -/,
  ⟨0x118, 1, 0x0, false, [fd 31 0 .ro 0]⟩ /- AX_EP -/,
  ⟨0x11c, 1, 0x0, false, [fd 31 8 .ro 0, fd 5 0 .ro 0]⟩ /- AX_OUT -/,
  ⟨0x120, 1, 0x0, false, [fd 31 8 .ro 0, fd 5 0 .ro 0]⟩ /- AX_INT -/,
  ⟨0x124, 1, 0x0, false, [fd 31 24 .ro 0, fd 17 0 .ro 0]⟩ /- AX_TIME -/,
  ⟨0x128, 1, 0x0, false, [fd 7 0 .ro 0]⟩ /- AX_MAP -/]

/-- The registers of block FB, from the register tables of spec/10_feedback.md. -/
def fbRegs : List RegRow := [
  ⟨0x10, 1, 0x0, true, [fd 31 28 .rw 0, fd 27 26 .rw 2, fd 25 25 .rw 0, fd 24 24 .rw 0, fd 23 16 .ro 0xff, fd 15 8 .rw 2, fd 7 0 .rw 2]⟩ /- FB_CFG -/,
  ⟨0x14, 1, 0x0, true, [fd 31 0 .rw 0]⟩ /- FB_MOD -/,
  ⟨0x18, 1, 0x0, true, [fd 31 30 .rw 0, fd 29 28 .rw 0, fd 27 27 .rw 0, fd 26 26 .rw 0]⟩ /- FB_IDX -/,
  ⟨0x1c, 1, 0x0, true, [fd 31 0 .rw 0]⟩ /- FB_ZVAL -/,
  ⟨0x20, 1, 0x0, true, [fd 31 16 .rw 4, fd 15 0 .rw 0xa]⟩ /- FB_ILL -/,
  ⟨0x24, 1, 0x0, true, [fd 31 16 .rw 0, fd 15 15 .rw 0, fd 11 0 .rw 0x64]⟩ /- FB_HALL -/,
  ⟨0x28, 1, 0x0, true, [fd 15 0 .rw 0xa]⟩ /- FB_SPD -/,
  ⟨0x30, 1, 0x0, true, [fd 31 18 .rw 0xf9, fd 17 0 .rw 0x3a98]⟩ /- FB_XFER -/,
  ⟨0x34, 1, 0x0, true, [fd 31 31 .rw 0, fd 30 28 .rw 3, fd 27 20 .rw 0, fd 19 12 .rw 0x14, fd 11 0 .rw 0]⟩ /- FB_XFER2 -/,
  ⟨0x38, 1, 0x0, true, [fd 31 25 .rw 0x19, fd 24 18 .rw 0, fd 17 12 .rw 0x19, fd 11 5 .rw 0, fd 4 0 .rw 0]⟩ /- FB_FRAME -/,
  ⟨0x3c, 1, 0x0, true, [fd 31 25 .rw 0, fd 24 21 .rw 0, fd 20 13 .rw 0, fd 12 11 .rw 0, fd 10 10 .rw 1, fd 9 9 .rw 1, fd 5 0 .rw 8]⟩ /- FB_FRAME2 -/,
  ⟨0x40, 1, 0x0, true, [fd 31 0 .rw 0]⟩ /- FB_REQ -/,
  ⟨0x44, 1, 0x0, true, [fd 31 0 .rw 0]⟩ /- FB_CRC -/,
  ⟨0x48, 1, 0x0, true, [fd 31 26 .rw 0, fd 25 25 .rw 0, fd 24 24 .rw 0]⟩ /- FB_CRC_CFG -/,
  ⟨0x4c, 1, 0x0, true, [fd 31 0 .rw 0]⟩ /- FB_JUMP -/,
  ⟨0x50, 1, 0x0, false, [fd 31 31 .rwh 0, fd 30 29 .rw 3, fd 28 28 .rw 0, fd 15 0 .rw 0x64]⟩ /- FB_CMP_CFG -/,
  ⟨0x54, 1, 0x0, false, [fd 31 0 .rwh 0]⟩ /- FB_CMP -/,
  ⟨0x58, 1, 0x0, false, [fd 31 0 .rw 0]⟩ /- FB_CMP_SP -/,
  ⟨0x5c, 1, 0x0, false, [fd 31 0 .ro 0]⟩ /- FB_CMP_STAMP -/,
  ⟨0x60, 1, 0x0, false, [fd 31 28 .rw 0, fd 27 26 .rw 1]⟩ /- FB_LATCH_CFG -/,
  ⟨0x64, 1, 0x0, false, [fd 31 0 .rc 0]⟩ /- FB_LATCH_POS -/,
  ⟨0x68, 1, 0x0, false, [fd 31 0 .ro 0]⟩ /- FB_LATCH_STAMP -/,
  ⟨0x70, 1, 0x0, true, [fd 31 30 .rw 0, fd 29 26 .rw 0, fd 23 16 .rw 1, fd 15 0 .rw 0x2710]⟩ /- FB_PT -/,
  ⟨0x80, 1, 0x0, false, [fd 31 0 .rwh 0]⟩ /- FB_POS -/,
  ⟨0x84, 1, 0x0, false, [fd 31 0 .rwh 0]⟩ /- FB_REV -/,
  ⟨0x88, 1, 0x0, false, [fd 31 0 .ro 0]⟩ /- FB_CPOS -/,
  ⟨0x8c, 1, 0x0, false, [fd 31 0 .ro 0]⟩ /- FB_SPEED -/,
  ⟨0x90, 1, 0x0, false, [fd 31 16 .ro 0]⟩ /- FB_ANGLE -/,
  ⟨0x94, 1, 0x0, false, [fd 31 0 .ro 0]⟩ /- FB_IDX_POS -/,
  ⟨0x98, 1, 0x0, false, [fd 31 0 .ro 0]⟩ /- FB_IDX_STAMP -/,
  ⟨0xa0, 1, 0x0, false, [fd 31 31 .ro 0, fd 30 30 .ro 0, fd 29 29 .ro 0, fd 28 28 .ro 0, fd 27 27 .ro 0, fd 26 24 .ro 0, fd 23 21 .ro 0, fd 20 18 .ro 0, fd 17 15 .ro 7, fd 14 14 .ro 0, fd 13 13 .ro 0]⟩ /- FB_STAT -/,
  ⟨0xa4, 1, 0x0, false, [fd 17 17 .stky 0, fd 16 16 .stky 0, fd 15 15 .stky 0, fd 14 14 .stky 0, fd 13 13 .stky 0, fd 12 12 .stky 0, fd 11 11 .stky 0, fd 10 10 .stky 0, fd 9 9 .stky 0, fd 8 8 .stky 0, fd 7 7 .stky 0, fd 6 6 .stky 0, fd 5 5 .stky 0, fd 4 4 .stky 0, fd 3 3 .stky 0, fd 2 2 .stky 0, fd 1 1 .stky 0]⟩ /- FB_FLAGS -/,
  ⟨0xa8, 1, 0x0, false, [fd 31 16 .rwh 0, fd 15 0 .rwh 0]⟩ /- FB_CNT -/,
  ⟨0xac, 1, 0x0, false, [fd 31 16 .rwh 0, fd 15 0 .rwh 0]⟩ /- FB_CNT2 -/,
  ⟨0xb0, 1, 0x0, false, [fd 31 31 .w1s 0, fd 30 30 .w1s 0]⟩ /- FB_CTRL -/]

/-- The registers of block PB, from the register tables of spec/11_pwm_bridges.md. -/
def pbRegs : List RegRow := [
  ⟨0x10, 1, 0x0, true, [fd 31 31 .ro 0, fd 30 30 .ro 0, fd 29 28 .rw 0, ky 27 27 .rw 0, fd 26 26 .ro 0, fd 25 25 .ro 0, fd 24 24 .rw 0, fd 8 0 .ro 0x10]⟩ /- PB_CFG -/,
  ⟨0x14, 1, 0x0, false, [fd 19 0 .ro 0]⟩ /- PB_CAR -/,
  ⟨0x18, 1, 0x0, false, [fd 19 0 .ro 0xf424]⟩ /- PB_PER -/,
  ⟨0x1c, 1, 0x0, true, [ky 27 16 .rw 0x3e8, ky 9 0 .rw 0x1f4]⟩ /- PB_DT -/,
  ⟨0x20, 1, 0x0, true, [fd 31 24 .rw 0x10, fd 15 0 .rw 0x1f4]⟩ /- PB_BOOT -/,
  ⟨0x24, 1, 0x0, true, [ky 27 16 .rw 0, ky 15 15 .rw 1, ky 7 0 .rw 0x32]⟩ /- PB_TRIP_CFG -/,
  ⟨0x28, 1, 0x0, true, [fd 31 24 .rw 0, fd 15 0 .rw 0]⟩ /- PB_BLANK -/,
  ⟨0x2c, 1, 0x0, true, [fd 20 16 .rw 0x1f, fd 12 8 .rw 0x1f, fd 4 0 .rw 0x1f]⟩ /- PB_SENSE -/,
  ⟨0x40, 1, 0x0, false, [fd 23 0 .rwh 0]⟩ /- PB_DUTY_U -/,
  ⟨0x44, 1, 0x0, false, [fd 23 0 .rwh 0]⟩ /- PB_DUTY_V -/,
  ⟨0x48, 1, 0x0, false, [fd 23 0 .rwh 0]⟩ /- PB_DUTY_W -/,
  ⟨0x4c, 1, 0x0, false, [fd 31 31 .w1s 0]⟩ /- PB_DUTY_GO -/,
  ⟨0x50, 1, 0x0, false, [fd 23 0 .ro 0]⟩ /- PB_ACT_U -/,
  ⟨0x54, 1, 0x0, false, [fd 23 0 .ro 0]⟩ /- PB_ACT_V -/,
  ⟨0x58, 1, 0x0, false, [fd 23 0 .ro 0]⟩ /- PB_ACT_W -/,
  ⟨0x60, 1, 0x0, false, [fd 31 31 .rw 0, fd 30 30 .w1s 0]⟩ /- PB_CTRL -/,
  ⟨0x64, 1, 0x0, false, [fd 31 31 .ro 0, fd 30 30 .ro 0, fd 29 29 .ro 0, fd 28 28 .ro 0, fd 27 27 .ro 0, fd 23 12 .ro 0, fd 3 0 .ro 0]⟩ /- PB_STAT -/,
  ⟨0x68, 1, 0x0, false, [fd 5 5 .stky 0, fd 4 4 .stky 0, fd 3 3 .stky 0, fd 2 2 .stky 0, fd 1 1 .stky 0, fd 0 0 .stky 0]⟩ /- PB_FLAGS -/,
  ⟨0x6c, 1, 0x0, false, [fd 31 16 .rwh 0, fd 15 0 .rwh 0]⟩ /- PB_CNT -/,
  ⟨0x70, 1, 0x0, false, [fd 31 0 .ro 0]⟩ /- PB_TRIP_STAMP -/]

/-- The registers of block SD, from the register tables of spec/11_pwm_bridges.md. -/
def sdRegs : List RegRow := [
  ⟨0x10, 4, 0x4, false, [fd 31 31 .ro 0, fd 9 0 .ro 0x31]⟩ /- SD_CK -/,
  ⟨0x100, 24, 0x20, false, [fd 31 31 .ro 0, fd 30 29 .ro 0, fd 27 24 .ro 0, fd 20 16 .ro 0, fd 8 0 .ro 0x7d]⟩ /- SD_CFG -/,
  ⟨0x104, 24, 0x20, false, [fd 17 0 .ro 0]⟩ /- SD_OFS -/,
  ⟨0x108, 24, 0x20, true, [ky 31 0 .rw 0]⟩ /- SD_SCALE -/,
  ⟨0x10c, 24, 0x20, true, [fd 31 8 .rw 0]⟩ /- SD_ZERO -/,
  ⟨0x110, 24, 0x20, false, [fd 31 8 .ro 0]⟩ /- SD_VAL -/,
  ⟨0x114, 24, 0x20, false, [fd 31 0 .ro 0]⟩ /- SD_STAMP -/,
  ⟨0x118, 24, 0x20, false, [fd 31 31 .stky 0, fd 30 30 .stky 0, fd 15 0 .rwh 0]⟩ /- SD_STAT -/]

/-- The registers of block IKL, from the register tables of spec/12_inkline_ring.md, spec/13_inkline_startup.md. -/
def iklRegs : List RegRow := [
  ⟨0x10, 1, 0x0, false, [fd 31 29 .ro 0, fd 28 28 .ro 0, fd 27 24 .ro 0, fd 23 12 .ro 0]⟩ /- IKL_CFG -/,
  ⟨0x14, 1, 0x0, false, [fd 31 0 .ro 0x7a12]⟩ /- IKL_CYC -/,
  ⟨0x18, 1, 0x0, false, [fd 31 0 .ro 0]⟩ /- IKL_CYC_OFS -/,
  ⟨0x1c, 1, 0x0, false, [fd 23 16 .ro 0, fd 14 0 .ro 0x40]⟩ /- IKL_LEN -/,
  ⟨0x20, 1, 0x0, true, [fd 31 16 .rw 0x190, fd 15 0 .rw 0xc8]⟩ /- IKL_TOL -/,
  ⟨0x24, 1, 0x0, true, [fd 31 24 .rw 0x19, fd 23 16 .rw 2, fd 11 8 .rw 0xa]⟩ /- IKL_MON -/,
  ⟨0x28, 1, 0x0, false, [fd 31 31 .w1s 0, fd 30 30 .w1s 0, fd 29 29 .w1s 0]⟩ /- IKL_CTRL -/,
  ⟨0x30, 1, 0x0, false, [fd 31 29 .ro 0, fd 28 28 .ro 0, fd 27 27 .ro 0, fd 26 26 .ro 0, fd 25 25 .ro 0, fd 24 24 .ro 0, fd 23 23 .ro 0, fd 22 22 .ro 0, fd 21 21 .ro 0, fd 19 16 .ro 0, fd 15 0 .ro 0]⟩ /- IKL_STAT -/,
  ⟨0x34, 1, 0x0, false, [fd 31 0 .ro 0]⟩ /- IKL_CYCNUM -/,
  ⟨0x38, 1, 0x0, false, [fd 31 16 .ro 0]⟩ /- IKL_ARR -/,
  ⟨0x3c, 1, 0x0, false, [fd 31 0 .ro 0]⟩ /- IKL_DLY -/,
  ⟨0x40, 1, 0x0, false, [fd 31 0 .ro 0]⟩ /- IKL_RTT -/,
  ⟨0x44, 1, 0x0, false, [fd 31 0 .ro 0]⟩ /- IKL_IN -/,
  ⟨0x48, 1, 0x0, false, [fd 31 0 .ro 0]⟩ /- IKL_IN_STAMP -/,
  ⟨0x4c, 1, 0x0, false, [fd 16 16 .stky 0, fd 15 15 .stky 0, fd 14 14 .stky 0, fd 13 13 .stky 0, fd 12 12 .stky 0, fd 11 11 .stky 0, fd 10 10 .stky 0, fd 9 9 .stky 0, fd 8 8 .stky 0, fd 7 7 .stky 0, fd 6 6 .stky 0, fd 5 5 .stky 0, fd 4 4 .stky 0, fd 3 3 .stky 0, fd 2 2 .stky 0, fd 1 1 .stky 0, fd 0 0 .stky 0]⟩ /- IKL_FLAGS -/,
  ⟨0x50, 1, 0x0, false, [fd 31 16 .rwh 0, fd 15 0 .rwh 0]⟩ /- IKL_CNT_A -/,
  ⟨0x54, 1, 0x0, false, [fd 31 16 .rwh 0, fd 15 0 .rwh 0]⟩ /- IKL_CNT_B -/,
  ⟨0x58, 1, 0x0, false, [fd 31 16 .rwh 0, fd 15 0 .rwh 0]⟩ /- IKL_CNT_C -/,
  ⟨0x60, 1, 0x0, true, [fd 31 24 .rw 3, ky 23 22 .rw 1, fd 15 0 .rw 0x100]⟩ /- IKL_START -/,
  ⟨0x64, 1, 0x0, false, [fd 31 29 .ro 0, fd 28 28 .ro 0, fd 27 27 .ro 0, fd 19 16 .ro 0, fd 15 0 .ro 0]⟩ /- IKL_CS -/,
  ⟨0x68, 1, 0x0, false, [fd 31 0 .ro 0]⟩ /- IKL_CS_PEER -/,
  ⟨0x6c, 1, 0x0, false, [fd 31 0 .ro 0]⟩ /- IKL_CS_PEER_LO -/,
  ⟨0x70, 1, 0x0, false, [fd 31 16 .rwh 0, fd 15 0 .rwh 0]⟩ /- IKL_CNT_D -/,
  ⟨0x74, 1, 0x0, false, [fd 31 16 .rwh 0, fd 15 0 .rwh 0]⟩ /- IKL_CNT_E -/,
  ⟨0x78, 1, 0x0, false, [fd 7 7 .stky 0, fd 6 6 .stky 0, fd 5 5 .stky 0, fd 4 4 .stky 0, fd 3 3 .stky 0, fd 2 2 .stky 0, fd 1 1 .stky 0, fd 0 0 .stky 0]⟩ /- IKL_FLAGS2 -/]

/-- The registers of block TWN, from the register tables of spec/14_twin_failover.md. -/
def twnRegs : List RegRow := [
  ⟨0x10, 1, 0x0, true, [fd 31 31 .ro 0, fd 30 30 .rw 1, ky 26 24 .rw 3, fd 23 16 .rw 8, fd 15 0 .ro 0]⟩ /- TWN_CFG -/,
  ⟨0x14, 1, 0x0, true, [fd 31 16 .rw 0x64, fd 11 0 .rw 0x3e8]⟩ /- TWN_TIME -/,
  ⟨0x18, 1, 0x0, false, [ky 31 31 .w1s 0]⟩ /- TWN_CTRL -/,
  ⟨0x20, 1, 0x0, false, [fd 31 31 .ro 0, fd 30 30 .ro 0, fd 29 29 .ro 0, fd 28 28 .ro 0, fd 27 27 .ro 0, fd 26 26 .ro 0, fd 25 25 .ro 0, fd 24 24 .ro 0, fd 23 23 .ro 0, fd 19 16 .ro 0xf, fd 15 0 .ro 0]⟩ /- TWN_STAT -/,
  ⟨0x24, 1, 0x0, false, [fd 31 0 .ro 0]⟩ /- TWN_PEER_HI -/,
  ⟨0x28, 1, 0x0, false, [fd 31 0 .ro 0]⟩ /- TWN_PEER_LO -/,
  ⟨0x2c, 1, 0x0, false, [fd 31 0 .ro 0]⟩ /- TWN_SIG -/,
  ⟨0x30, 1, 0x0, false, [fd 31 16 .ro 0, fd 15 0 .ro 0]⟩ /- TWN_VORG -/,
  ⟨0x34, 1, 0x0, false, [fd 31 16 .ro 0, fd 15 0 .ro 0]⟩ /- TWN_LINK -/,
  ⟨0x38, 1, 0x0, false, [fd 31 0 .ro 0]⟩ /- TWN_HB -/,
  ⟨0x3c, 1, 0x0, false, [fd 31 16 .ro 0, fd 5 5 .ro 0, fd 4 0 .ro 0]⟩ /- TWN_SURR -/,
  ⟨0x40, 1, 0x0, false, [fd 18 18 .stky 0, fd 17 17 .stky 0, fd 16 16 .stky 0, fd 15 15 .stky 0, fd 14 14 .stky 0, fd 13 13 .stky 0, fd 9 9 .stky 0, fd 8 8 .stky 0, fd 7 7 .stky 0, fd 6 6 .stky 0, fd 5 5 .stky 0, fd 4 4 .stky 0, fd 3 3 .stky 0, fd 2 2 .stky 0, fd 1 1 .stky 0]⟩ /- TWN_FLAGS -/,
  ⟨0x44, 1, 0x0, false, [fd 31 16 .rwh 0, fd 15 0 .rwh 0]⟩ /- TWN_CNT_A -/,
  ⟨0x48, 1, 0x0, false, [fd 31 16 .rwh 0, fd 15 0 .rwh 0]⟩ /- TWN_CNT_B -/,
  ⟨0x4c, 1, 0x0, false, [fd 31 16 .rwh 0, fd 15 0 .rwh 0]⟩ /- TWN_CNT_C -/]

/-- The registers of block DCT, from the register tables of spec/16_ductus_and_scribe.md. -/
def dctRegs : List RegRow := [
  ⟨0x10, 1, 0x0, false, [fd 31 30 .rw 0, fd 29 29 .rw 1, fd 3 0 .ro 0]⟩ /- DCT_CFG -/,
  ⟨0x14, 1, 0x0, false, [fd 31 24 .ro 0, fd 23 16 .ro 0, fd 15 8 .ro 0]⟩ /- DCT_LISTS -/,
  ⟨0x18, 1, 0x0, false, [fd 31 31 .w1s 0, fd 7 0 .rw 0]⟩ /- DCT_CANCEL -/,
  ⟨0x1c, 1, 0x0, false, [fd 8 8 .stky 0, fd 7 7 .stky 0, fd 6 6 .stky 0, fd 5 5 .stky 0, fd 4 4 .stky 0, fd 3 3 .stky 0, fd 2 2 .stky 0, fd 1 1 .stky 0]⟩ /- DCT_FLAGS -/,
  ⟨0x20, 1, 0x0, false, [fd 31 16 .rwh 0, fd 15 0 .rwh 0]⟩ /- DCT_CNT -/,
  ⟨0x24, 1, 0x0, false, [fd 31 31 .ro 0, fd 8 0 .ro 0]⟩ /- DCT_TRACE_PTR -/,
  ⟨0x40, 16, 0x4, false, [fd 21 16 .ro 0, fd 15 0 .ro 0]⟩ /- DCT_FLOW -/,
  ⟨0x100, 2, 0x40, false, [fd 31 0 .rw 0]⟩ /- SUB_ENTRY -/,
  ⟨0x104, 2, 0x40, false, [fd 31 0 .rw 0]⟩ /- SUB_ARG -/,
  ⟨0x108, 2, 0x40, false, [fd 31 0 .rw 0]⟩ /- SUB_DUE -/,
  ⟨0x10c, 2, 0x40, false, [fd 31 31 .w1s 0, fd 30 30 .rw 0, fd 29 29 .rw 0, fd 26 24 .rw 0, fd 23 20 .rw 0, fd 19 16 .rw 0]⟩ /- SUB_CTL -/,
  ⟨0x110, 2, 0x40, false, [fd 31 28 .ro 0, fd 23 16 .ro 0, fd 15 0 .ro 0]⟩ /- SUB_RES -/,
  ⟨0x180, 2, 0x40, false, [fd 31 0 .ro 0]⟩ /- RES_A -/,
  ⟨0x184, 2, 0x40, false, [fd 31 0 .rc 0]⟩ /- RES_B -/,
  ⟨0x188, 2, 0x40, false, [fd 31 0 .ro 0]⟩ /- RES_LVL -/,
  ⟨0x200, 1, 0x0, false, [fd 25 16 .ro 0, fd 9 0 .ro 0]⟩ /- SCR_LOAD -/,
  ⟨0x204, 1, 0x0, false, [fd 25 16 .rw 0x384, fd 13 4 .rw 0x2bc, fd 1 0 .ro 0]⟩ /- SCR_SHED -/,
  ⟨0x208, 1, 0x0, false, [fd 31 31 .w1s 0, fd 13 0 .ro 0x2710]⟩ /- SCR_WDOG -/,
  ⟨0x20c, 1, 0x0, false, [fd 31 31 .stky 0, fd 30 30 .ro 0, fd 29 29 .ro 0, fd 28 16 .ro 0, fd 15 0 .rwh 0]⟩ /- SCR_RST -/,
  ⟨0x210, 1, 0x0, false, [fd 31 31 .stky 0, fd 30 24 .ro 0, fd 23 17 .ro 0, fd 15 0 .rwh 0]⟩ /- SCR_BLQ -/,
  ⟨0x214, 1, 0x0, false, [fd 31 31 .stky 0, fd 30 30 .ro 0, fd 29 29 .ro 0, fd 22 16 .ro 0, fd 15 0 .rwh 0]⟩ /- SCR_TEST -/,
  ⟨0x300, 16, 0x8, false, [fd 31 31 .stky 0, fd 23 0 .rwh 0]⟩ /- DCT_STAT -/,
  ⟨0x304, 16, 0x8, false, [fd 31 16 .ro 0, fd 7 0 .ro 0]⟩ /- DCT_STAT2 -/,
  ⟨0x400, 1, 0x0, false, [fd 31 31 .w1s 0, fd 30 30 .stky 0]⟩ /- SCR_MB_CTL -/,
  ⟨0x404, 1, 0x0, false, [fd 31 28 .ro 0, fd 23 16 .ro 0, fd 15 0 .ro 0]⟩ /- SCR_MB_STAT -/,
  ⟨0x500, 64, 0x4, false, [fd 31 0 .rw 0]⟩ /- SCR_MB_REQ -/,
  ⟨0x600, 64, 0x4, false, [fd 31 0 .ro 0]⟩ /- SCR_MB_RSP -/,
  ⟨0x1000, 512, 0x8, false, [fd 31 0 .ro 0]⟩ /- DCT_TRACE -/,
  ⟨0x1004, 512, 0x8, false, [fd 31 28 .ro 0, fd 27 27 .ro 0, fd 26 24 .ro 0, fd 23 20 .ro 0, fd 19 16 .ro 0, fd 15 8 .ro 0]⟩ /- DCT_TRACE2 -/]

/-- The registers of block SF, from the register tables of spec/15_serif_dsp.md. -/
def sfRegs : List RegRow := [
  ⟨0x10, 1, 0x0, false, [fd 31 31 .ro 0, fd 30 29 .ro 0, fd 17 0 .ro 0]⟩ /- SF_CFG -/,
  ⟨0x14, 1, 0x0, false, [fd 28 16 .ro 0, fd 12 0 .ro 0]⟩ /- SF_ENTRY -/,
  ⟨0x18, 1, 0x0, false, [fd 31 31 .rw 1, fd 30 30 .w1s 0]⟩ /- SF_CTRL -/,
  ⟨0x1c, 1, 0x0, true, [fd 31 29 .rw 0, fd 28 24 .rw 0, fd 23 23 .rw 0, fd 15 0 .rw 0x3e8]⟩ /- SF_IRQ -/,
  ⟨0x20, 1, 0x0, false, [fd 31 0 .rw 0]⟩ /- SF_TIMER -/,
  ⟨0x24, 1, 0x0, false, [fd 31 30 .ro 1, fd 29 29 .ro 0, fd 27 26 .ro 0, fd 25 22 .ro 0, fd 19 16 .ro 0, fd 12 0 .ro 0]⟩ /- SF_STAT -/,
  ⟨0x28, 1, 0x0, false, [fd 31 28 .ro 0, fd 12 0 .ro 0]⟩ /- SF_FLT -/,
  ⟨0x2c, 1, 0x0, false, [fd 7 7 .stky 0, fd 6 6 .stky 0, fd 5 5 .stky 0, fd 4 4 .stky 0, fd 3 3 .stky 0, fd 2 2 .stky 0, fd 1 1 .stky 0]⟩ /- SF_FLAGS -/,
  ⟨0x30, 1, 0x0, false, [fd 31 16 .rwh 0, fd 15 0 .rwh 0]⟩ /- SF_CNT -/,
  ⟨0x34, 1, 0x0, false, [fd 31 24 .ro 0, fd 17 0 .ro 0]⟩ /- SF_TIME -/,
  ⟨0x100, 32, 0x8, true, [fd 31 28 .rw 0, fd 23 16 .rw 0, fd 9 0 .rw 0]⟩ /- SF_IMP -/,
  ⟨0x104, 32, 0x8, true, [fd 31 0 .rw 0]⟩ /- SF_IMP_SRC -/,
  ⟨0x200, 32, 0x8, true, [fd 31 28 .rw 0, fd 23 16 .rw 0, fd 9 0 .rw 0]⟩ /- SF_EXP -/,
  ⟨0x204, 32, 0x8, true, [fd 31 0 .rw 0]⟩ /- SF_EXP_DST -/]

/-- The registers of block SPR, from the register tables of spec/17_wear_and_spares.md. -/
def sprRegs : List RegRow := [
  ⟨0x10, 1, 0x0, false, [fd 31 28 .rw 3, fd 27 16 .rw 0x3c, fd 15 0 .rw 0xe10]⟩ /- SPR_CFG -/,
  ⟨0x14, 1, 0x0, false, [fd 31 29 .ro 0, fd 28 20 .ro 0, fd 19 19 .ro 0, fd 18 18 .ro 0]⟩ /- SPR_STAT -/,
  ⟨0x20, 11, 0x8, false, [fd 31 20 .ro 0, fd 19 8 .ro 0]⟩ /- SPR_GROUP -/,
  ⟨0x24, 11, 0x8, false, [fd 31 31 .stky 0, fd 15 0 .rwh 0]⟩ /- SPR_TRANS -/,
  ⟨0x80, 1, 0x0, false, [fd 31 16 .ro 0, fd 15 14 .ro 0]⟩ /- SPR_LAST -/,
  ⟨0x84, 1, 0x0, false, [fd 31 0 .ro 0]⟩ /- SPR_LAST_STAMP -/,
  ⟨0x88, 1, 0x0, false, [fd 5 5 .stky 0, fd 4 4 .stky 0, fd 3 3 .stky 0, fd 2 2 .stky 0, fd 1 1 .stky 0, fd 0 0 .stky 0]⟩ /- SPR_FLAGS -/,
  ⟨0x8c, 1, 0x0, false, [fd 31 0 .rwh 0]⟩ /- SPR_CORR -/,
  ⟨0x90, 1, 0x0, false, [fd 31 24 .ro 0, fd 23 16 .rw 0x28]⟩ /- SPR_WEAR -/,
  ⟨0x94, 1, 0x0, false, [fd 31 0 .ro 0]⟩ /- SPR_HOURS -/,
  ⟨0x98, 1, 0x0, false, [fd 31 0 .ro 0]⟩ /- SPR_AGE -/,
  ⟨0x100, 1, 0x0, false, [fd 31 31 .ro 0, fd 30 30 .ro 0, fd 17 0 .ro 0]⟩ /- BLT_STAT -/,
  ⟨0x104, 1, 0x0, false, [fd 31 0 .ro 0]⟩ /- BLT_HEAD -/,
  ⟨0x108, 1, 0x0, false, [fd 31 31 .stky 0, fd 30 30 .stky 0, fd 23 16 .rwh 0, fd 15 0 .rwh 0]⟩ /- BLT_CNT -/]

/-- The registers of block INK, from the register tables of spec/09_nib_lanes.md. -/
def inkRegs : List RegRow := [
  ⟨0x10, 1, 0x0, false, [fd 31 31 .w1s 0, fd 30 30 .w1s 0, fd 29 29 .w1s 0, fd 25 24 .rw 0, fd 23 16 .rw 0, fd 15 12 .rw 8, fd 6 0 .rw 0x40]⟩ /- INK_CTRL -/,
  ⟨0x14, 1, 0x0, false, [fd 31 28 .rw 0, fd 27 22 .rw 0, fd 15 8 .rw 0]⟩ /- INK_TRIG -/,
  ⟨0x18, 1, 0x0, false, [fd 31 0 .rw 0]⟩ /- INK_THR -/,
  ⟨0x1c, 1, 0x0, false, [fd 31 30 .ro 0, fd 29 29 .ro 0, fd 28 28 .ro 0, fd 19 0 .ro 0]⟩ /- INK_STAT -/,
  ⟨0x20, 1, 0x0, false, [fd 31 0 .ro 0]⟩ /- INK_TROW -/,
  ⟨0x24, 1, 0x0, false, [fd 31 0 .ro 0]⟩ /- INK_TSTAMP -/,
  ⟨0x28, 1, 0x0, false, [fd 31 0 .ro 0]⟩ /- INK_DEPTH -/,
  ⟨0x100, 64, 0x4, false, [fd 31 28 .rw 0, fd 23 16 .rw 0, fd 15 0 .rw 0]⟩ /- INK_PROBE -/]

/-- The registers of block PWR, from the register tables of spec/18_host_and_sideband.md, spec/20_electrical.md. -/
def pwrRegs : List RegRow := [
  ⟨0x10, 1, 0x0, false, [ky 31 24 .rw 0x1e, ky 23 16 .rw 0x14, ky 15 8 .rw 5, fd 7 0 .rw 0x20]⟩ /- PWR_SERVO -/,
  ⟨0x14, 1, 0x0, false, [fd 31 16 .rw 0x64, fd 5 0 .ro 0]⟩ /- PWR_SERVO2 -/,
  ⟨0x18, 1, 0x0, false, [fd 31 24 .ro 0, fd 23 22 .ro 0, fd 15 0 .ro 0]⟩ /- PWR_SLACK -/,
  ⟨0x1c, 1, 0x0, false, [fd 31 31 .stky 0, fd 15 0 .rwh 0]⟩ /- PWR_CNT -/,
  ⟨0x20, 1, 0x0, false, [fd 23 0 .ro 0]⟩ /- PWR_DOM -/,
  ⟨0x24, 1, 0x0, false, [fd 31 31 .ro 0, fd 30 30 .stky 0, fd 29 29 .stky 0]⟩ /- PWR_SUPV -/,
  ⟨0x30, 1, 0x0, false, [fd 31 16 .ro 0, fd 3 0 .ro 0]⟩ /- PWR_TEMP -/,
  ⟨0x100, 1, 0x0, false, [fd 31 16 .ro 0, fd 15 15 .ro 0, fd 14 14 .stky 0, fd 13 8 .ro 0, fd 5 0 .ro 0]⟩ /- PWR_VID -/,
  ⟨0x104, 1, 0x0, false, [fd 31 31 .ro 0, fd 30 30 .ro 0, fd 29 29 .stky 0, fd 15 8 .stky 0, fd 3 0 .ro 0]⟩ /- PWR_PMB -/,
  ⟨0x110, 8, 0x8, false, [fd 31 16 .ro 0, fd 15 0 .ro 0]⟩ /- PWR_RAIL -/,
  ⟨0x114, 8, 0x8, false, [fd 31 24 .ro 0, fd 22 16 .ro 0, fd 15 0 .ro 0]⟩ /- PWR_RAIL2 -/]

/-- A block of R38: first offset, instances, stride, bytes of one instance, type code of R43, whether it has shadowed fields, and its registers. -/
structure BlockRow where
  base : Nat
  insts : Nat
  stride : Nat
  size : Nat
  typ : Nat
  sh : Bool
  regs : List RegRow
  deriving DecidableEq, Repr

/-- The block table of R38 with the type codes of R43. -/
def blocks : List BlockRow := [
  ⟨0x000000, 1, 0x10000, 0x10000, 0x01, false, devRegs⟩,
  ⟨0x010000, 1, 0x10000, 0x10000, 0x02, false, cmtRegs⟩,
  ⟨0x020000, 1, 0x10000, 0x10000, 0x03, true, tbRegs⟩,
  ⟨0x030000, 1, 0x10000, 0x10000, 0x04, false, modRegs⟩,
  ⟨0x040000, 1, 0x10000, 0x10000, 0x05, false, indRegs⟩,
  ⟨0x100000, 160, 0x400, 0x400, 0x10, true, stkRegs⟩,
  ⟨0x200000, 16, 0x1000, 0x1000, 0x11, true, chnRegs⟩,
  ⟨0x300000, 1, 0x80000, 0x80000, 0x12, true, rulRegs⟩,
  ⟨0x380000, 1, 0x40000, 0x40000, 0x13, true, sepRegs⟩,
  ⟨0x3C0000, 1, 0x40000, 0x40000, 0x14, true, mgnRegs⟩,
  ⟨0x400000, 160, 0x400, 0x400, 0x18, true, axRegs⟩,
  ⟨0x600000, 16, 0x200, 0x200, 0x19, true, fbRegs⟩,
  ⟨0x640000, 12, 0x200, 0x200, 0x1A, true, pbRegs⟩,
  ⟨0x660000, 1, 0x20000, 0x20000, 0x1B, true, sdRegs⟩,
  ⟨0x680000, 2, 0x40000, 0x40000, 0x20, true, iklRegs⟩,
  ⟨0x700000, 1, 0x40000, 0x40000, 0x21, true, twnRegs⟩,
  ⟨0x740000, 1, 0x40000, 0x40000, 0x28, false, dctRegs⟩,
  ⟨0x780000, 4, 0x10000, 0x10000, 0x29, true, sfRegs⟩,
  ⟨0x7C0000, 1, 0x20000, 0x20000, 0x2C, false, sprRegs⟩,
  ⟨0x7E0000, 1, 0x10000, 0x10000, 0x2D, false, inkRegs⟩,
  ⟨0x7F0000, 1, 0x10000, 0x10000, 0x30, false, pwrRegs⟩]

/-- Where a BAR0 offset lies: the block, the instance number and the offset in the instance. -/
structure Loc where
  blk : BlockRow
  inst : Nat
  off : Nat
  deriving DecidableEq, Repr

/-- The block instance that an offset lies in (R38); none for an unmapped offset. -/
def locate (a : Nat) : Option Loc :=
  (blocks.find? fun b => b.base ≤ a && a < b.base + (b.insts - 1) * b.stride + b.size).bind fun b =>
    let n := (a - b.base) / b.stride
    let o := (a - b.base) % b.stride
    if n < b.insts && o < b.size then some ⟨b, n, o⟩ else none

/-- The base offset of the instance, where its header lies (R42). -/
def Loc.head (l : Loc) : Nat := l.blk.base + l.inst * l.blk.stride

/-- Does a register row cover an instance offset? -/
def RegRow.covers (r : RegRow) (o : Nat) : Bool :=
  if r.cnt ≤ 1 then o == r.off
  else r.off ≤ o && o < r.off + r.cnt * r.str && (o - r.off) % r.str == 0

/-- The register row at an instance offset, if the block has one there. -/
def rowIn (b : BlockRow) (o : Nat) : Option RegRow := b.regs.find? (·.covers o)

/-- The register row of a BAR0 offset. -/
def rowAt (a : Nat) : Option RegRow := (locate a).bind fun l => rowIn l.blk l.off

/-- The reset word of a row: every field at its reset value (R14). -/
def RegRow.rst (r : RegRow) : Nat := r.fs.foldl (fun w f => w + f.rst * p2 f.lo) 0

/-- Default integer bits of the twelve solver block formats (R184). -/
def fmtDefault (b : Nat) : Nat := ([11, 2, 8, 11, 2, 11, 11, 4, 12, 5, 7, 8] : List Nat).getD b 11

/-- Spares provided in a group (R423). -/
def spareTotal (g : Nat) : Nat :=
  if g < 4 then 2 else if g < 8 then 1 else if g = 8 then 2 else if g = 9 then 1920 else 16

/-- The word a register holds at reset. The rows whose reset differs by instance are RUL_FMT (R184), PB_TRIP_CFG (R295), AX_MAP (R226) and SPR_GROUP (R423). -/
def regReset (a : Nat) : Nat :=
  if 0x300090 ≤ a && a < 0x3000C0 then fmtDefault ((a - 0x300090) / 4)
  else if 0x7C0020 ≤ a && a < 0x7C0078 && (a - 0x7C0020) % 8 == 0 then
    let t := spareTotal ((a - 0x7C0020) / 8); t * p2 20 + t * p2 8
  else match locate a with
    | none => 0
    | some l =>
      let w := match rowIn l.blk l.off with
        | none => 0
        | some r => r.rst
      if l.blk.typ == 0x1A && l.off == 0x24 then setBits w 27 16 (p2 l.inst)
      else if l.blk.typ == 0x18 && l.off == 0x128 then 42 * (l.inst / 40) + l.inst % 40
      else w

/-- A field of a register as the units name it: first address, stride of the block's instances, stride of the register array, bits, and whether the field is held twice (R45). -/
structure Fld where
  addr : Nat
  s1 : Nat
  s2 : Nat
  hi : Nat
  lo : Nat
  sh : Bool
  deriving DecidableEq, Repr

/-- The field in block instance `n`. -/
def Fld.i (f : Fld) (n : Nat) : Fld := { f with addr := f.addr + n * f.s1 }
/-- The field in element `n` of its register array. -/
def Fld.j (f : Fld) (n : Nat) : Fld := { f with addr := f.addr + n * f.s2 }

end Sys2Proof.Machine
end

