-- ==== Sys2Proof/Machine/RegFields.lean ====
section
/-! DEFINITION. The named fields of the register map: one constant per field of the spec's register tables, used by the units to read and update them. -/

namespace Sys2Proof.Machine.R

def DEV_PART.PART : Fld := ⟨0x10, 0x0, 0x0, 31, 16, false⟩
def DEV_PART.STEP : Fld := ⟨0x10, 0x0, 0x0, 15, 8, false⟩
def DEV_PART.GRADE : Fld := ⟨0x10, 0x0, 0x0, 7, 4, false⟩
def DEV_SERIAL_LO.SERIAL_LO : Fld := ⟨0x14, 0x0, 0x0, 31, 0, false⟩
def DEV_SERIAL_HI.SERIAL_HI : Fld := ⟨0x18, 0x0, 0x0, 15, 0, false⟩
def DEV_CTRL.WARM_RST : Fld := ⟨0x100, 0x0, 0x0, 31, 31, false⟩
def DEV_RST_CAUSE.CORE_UV : Fld := ⟨0x104, 0x0, 0x0, 4, 4, false⟩
def DEV_RST_CAUSE.SW : Fld := ⟨0x104, 0x0, 0x0, 3, 3, false⟩
def DEV_RST_CAUSE.RST_PIN : Fld := ⟨0x104, 0x0, 0x0, 2, 2, false⟩
def DEV_RST_CAUSE.PORST_PIN : Fld := ⟨0x104, 0x0, 0x0, 1, 1, false⟩
def DEV_RST_CAUSE.POR_SUP : Fld := ⟨0x104, 0x0, 0x0, 0, 0, false⟩
def LIVE_CFG.MODE : Fld := ⟨0x200, 0x0, 0x0, 0, 0, false⟩
def LIVE_STAT.RUNNING : Fld := ⟨0x204, 0x0, 0x0, 1, 1, false⟩
def LIVE_STAT.LEVEL : Fld := ⟨0x204, 0x0, 0x0, 0, 0, false⟩
def DEV_I2C.RST_EN : Fld := ⟨0x210, 0x0, 0x0, 31, 31, false⟩
def DEV_I2C.PEC_SEEN : Fld := ⟨0x210, 0x0, 0x0, 30, 30, false⟩
def DEV_I2C.ADDR : Fld := ⟨0x210, 0x0, 0x0, 6, 0, false⟩
def INT_STAT0.STAT : Fld := ⟨0x300, 0x0, 0x0, 31, 0, false⟩
def INT_STAT1.STAT : Fld := ⟨0x304, 0x0, 0x0, 31, 0, false⟩
def INT_EN0.EN : Fld := ⟨0x308, 0x0, 0x0, 31, 0, false⟩
def INT_EN1.EN : Fld := ⟨0x30c, 0x0, 0x0, 31, 0, false⟩
def DEV_BANK.LOST : Fld := ⟨0x400, 0x0, 0x0, 29, 24, false⟩
def DEV_BANK.V33 : Fld := ⟨0x400, 0x0, 0x0, 21, 16, false⟩
def DEV_BANK.PG : Fld := ⟨0x400, 0x0, 0x0, 5, 0, false⟩
def DEV_BANK_CNT.OVF : Fld := ⟨0x404, 0x0, 0x0, 31, 31, false⟩
def DEV_BANK_CNT.LOSSES : Fld := ⟨0x404, 0x0, 0x0, 15, 0, false⟩
def MSIX_ADDR_LO.VALUE : Fld := ⟨0x1000, 0x0, 0x10, 31, 0, false⟩
def MSIX_ADDR_HI.VALUE : Fld := ⟨0x1004, 0x0, 0x10, 31, 0, false⟩
def MSIX_DATA.VALUE : Fld := ⟨0x1008, 0x0, 0x10, 31, 0, false⟩
def MSIX_CTRL.MASK : Fld := ⟨0x100c, 0x0, 0x10, 0, 0, false⟩
def MSIX_PBA.PEND : Fld := ⟨0x1800, 0x0, 0x4, 31, 0, false⟩
def COMMIT.GO : Fld := ⟨0x10010, 0x0, 0x0, 31, 31, false⟩
def COMMIT.WHEN : Fld := ⟨0x10010, 0x0, 0x0, 30, 30, false⟩
def COMMIT.GROUPS : Fld := ⟨0x10010, 0x0, 0x0, 15, 0, false⟩
def CMT_AT.AT : Fld := ⟨0x10014, 0x0, 0x0, 31, 0, false⟩
def CMT_PEND.PEND : Fld := ⟨0x10018, 0x0, 0x0, 15, 0, false⟩
def CMT_LAST.LAST : Fld := ⟨0x1001c, 0x0, 0x0, 31, 0, false⟩
def CMT_STAT.ARMED_S : Fld := ⟨0x10020, 0x0, 0x0, 17, 17, false⟩
def CMT_STAT.ARMED_H : Fld := ⟨0x10020, 0x0, 0x0, 16, 16, false⟩
def CMT_STAT.ACC_PDOFF : Fld := ⟨0x10020, 0x0, 0x0, 10, 10, false⟩
def CMT_STAT.ACC_PARTIAL : Fld := ⟨0x10020, 0x0, 0x0, 9, 9, false⟩
def CMT_STAT.RING_REFUSED : Fld := ⟨0x10020, 0x0, 0x0, 8, 8, false⟩
def CMT_STAT.WO_VIOL : Fld := ⟨0x10020, 0x0, 0x0, 5, 5, false⟩
def CMT_STAT.KEY_VIOL : Fld := ⟨0x10020, 0x0, 0x0, 4, 4, false⟩
def CMT_STAT.REPLACED : Fld := ⟨0x10020, 0x0, 0x0, 1, 1, false⟩
def CMT_STAT.REFUSED : Fld := ⟨0x10020, 0x0, 0x0, 0, 0, false⟩
def VIOL_INFO.SRC : Fld := ⟨0x10024, 0x0, 0x0, 31, 30, false⟩
def VIOL_INFO.KIND : Fld := ⟨0x10024, 0x0, 0x0, 26, 24, false⟩
def VIOL_INFO.OFFSET : Fld := ⟨0x10024, 0x0, 0x0, 22, 0, false⟩
def UNLOCK.KEY : Fld := ⟨0x10030, 0x0, 0x0, 31, 0, false⟩
def TMR_SCRUB.OVF : Fld := ⟨0x10040, 0x0, 0x0, 31, 31, false⟩
def TMR_SCRUB.COUNT : Fld := ⟨0x10040, 0x0, 0x0, 23, 0, false⟩
def TMR_LAST.OFFSET : Fld := ⟨0x10044, 0x0, 0x0, 22, 0, false⟩
def TB_CTRL.REF_SEL : Fld := ⟨0x20010, 0x0, 0x0, 31, 30, false⟩
def TB_CTRL.ACT : Fld := ⟨0x20010, 0x0, 0x0, 29, 28, false⟩
def TB_CTRL.P_SRC : Fld := ⟨0x20010, 0x0, 0x0, 27, 26, false⟩
def TB_CTRL.L_SRC : Fld := ⟨0x20010, 0x0, 0x0, 25, 24, false⟩
def TB_CTRL.PPS_EN : Fld := ⟨0x20010, 0x0, 0x0, 23, 23, false⟩
def TB_CTRL.PPS_EDGE : Fld := ⟨0x20010, 0x0, 0x0, 22, 22, false⟩
def TB_CTRL.SLEW_MAX : Fld := ⟨0x20010, 0x0, 0x0, 15, 8, false⟩
def TB_STAT.WRAP : Fld := ⟨0x20014, 0x0, 0x0, 15, 15, false⟩
def TB_STAT.PPS_EVT : Fld := ⟨0x20014, 0x0, 0x0, 14, 14, false⟩
def TB_STAT.REF_LOSS : Fld := ⟨0x20014, 0x0, 0x0, 13, 13, false⟩
def TB_STAT.P_RATE_FAULT : Fld := ⟨0x20014, 0x0, 0x0, 12, 12, false⟩
def TB_STAT.ADJ_REFUSED : Fld := ⟨0x20014, 0x0, 0x0, 11, 11, false⟩
def TB_STAT.STEP_REFUSED : Fld := ⟨0x20014, 0x0, 0x0, 10, 10, false⟩
def TB_STAT.TSU_FAULT : Fld := ⟨0x20014, 0x0, 0x0, 9, 9, false⟩
def TB_STAT.REBASE : Fld := ⟨0x20014, 0x0, 0x0, 8, 8, false⟩
def TB_STAT.PPS_LOCK : Fld := ⟨0x20014, 0x0, 0x0, 2, 2, false⟩
def TB_STAT.LOCK_P : Fld := ⟨0x20014, 0x0, 0x0, 1, 1, false⟩
def TB_STAT.LOCK_L : Fld := ⟨0x20014, 0x0, 0x0, 0, 0, false⟩
def TB_NS.NS : Fld := ⟨0x20018, 0x0, 0x0, 31, 0, false⟩
def TB_SNAP.WSEQ : Fld := ⟨0x2001c, 0x0, 0x0, 31, 24, false⟩
def TB_SNAP.ACT : Fld := ⟨0x2001c, 0x0, 0x0, 17, 16, false⟩
def TB_SNAP.FRAC : Fld := ⟨0x2001c, 0x0, 0x0, 15, 0, false⟩
def TB_PERIOD.INDEX : Fld := ⟨0x20020, 0x0, 0x0, 31, 0, false⟩
def TB_BOUND.NS : Fld := ⟨0x20024, 0x0, 0x0, 31, 0, false⟩
def TB_RATE.RATE : Fld := ⟨0x20028, 0x0, 0x0, 31, 0, false⟩
def TB_ADJ.ADJ : Fld := ⟨0x2002c, 0x0, 0x0, 31, 0, false⟩
def TB_ADJ_REM.REM : Fld := ⟨0x20030, 0x0, 0x0, 31, 0, false⟩
def TB_STEP.STEP : Fld := ⟨0x20034, 0x0, 0x0, 31, 0, false⟩
def TB_P_OFS.OFS : Fld := ⟨0x20038, 0x0, 0x0, 31, 0, false⟩
def TB_P_RATE.RATE : Fld := ⟨0x2003c, 0x0, 0x0, 31, 0, false⟩
def TB_SERVO.P_RATE_MAX : Fld := ⟨0x20040, 0x0, 0x0, 31, 24, true⟩
def TB_SERVO.UNLOCK_THR : Fld := ⟨0x20040, 0x0, 0x0, 23, 16, true⟩
def TB_SERVO.LOCK_THR : Fld := ⟨0x20040, 0x0, 0x0, 15, 8, true⟩
def TB_SERVO.KI : Fld := ⟨0x20040, 0x0, 0x0, 7, 4, true⟩
def TB_SERVO.KP : Fld := ⟨0x20040, 0x0, 0x0, 3, 0, true⟩
def PPS_CFG.PPS_GAIN : Fld := ⟨0x20044, 0x0, 0x0, 31, 28, true⟩
def PPS_CFG.PPS_TOL : Fld := ⟨0x20044, 0x0, 0x0, 27, 16, true⟩
def PPS_CFG.PPS_WIDTH : Fld := ⟨0x20044, 0x0, 0x0, 7, 0, true⟩
def PPS_OUT_AT.AT : Fld := ⟨0x20048, 0x0, 0x0, 31, 0, false⟩
def PPS_LAST.NS : Fld := ⟨0x2004c, 0x0, 0x0, 31, 0, false⟩
def PPS_STAT.OVF : Fld := ⟨0x20050, 0x0, 0x0, 31, 31, false⟩
def PPS_STAT.REJ : Fld := ⟨0x20050, 0x0, 0x0, 23, 16, false⟩
def PPS_STAT.ERR : Fld := ⟨0x20050, 0x0, 0x0, 15, 0, false⟩
def RG_CFG.PERIOD : Fld := ⟨0x20060, 0x0, 0x4, 31, 30, false⟩
def RG_CFG.PHASE : Fld := ⟨0x20060, 0x0, 0x4, 26, 24, false⟩
def RG_CFG.OUT_OFS : Fld := ⟨0x20060, 0x0, 0x4, 17, 0, false⟩
def TSU_FAIL.FAIL : Fld := ⟨0x20070, 0x0, 0x0, 23, 0, false⟩
def CAP_CFG.EN : Fld := ⟨0x20100, 0x0, 0x20, 31, 31, true⟩
def CAP_CFG.EDGE : Fld := ⟨0x20100, 0x0, 0x20, 30, 29, true⟩
def CAP_CFG.WIN_EN : Fld := ⟨0x20100, 0x0, 0x20, 28, 28, true⟩
def CAP_CFG.FILT : Fld := ⟨0x20100, 0x0, 0x20, 23, 16, true⟩
def CAP_CFG.WIN_PER : Fld := ⟨0x20100, 0x0, 0x20, 15, 0, true⟩
def CAP_STAMP.NS : Fld := ⟨0x20104, 0x0, 0x20, 31, 0, false⟩
def CAP_STAT.LOST : Fld := ⟨0x20108, 0x0, 0x20, 31, 24, false⟩
def CAP_STAT.OVF : Fld := ⟨0x20108, 0x0, 0x20, 23, 23, false⟩
def CAP_STAT.HEAD_POL : Fld := ⟨0x20108, 0x0, 0x20, 16, 16, false⟩
def CAP_STAT.HEAD_WSEQ : Fld := ⟨0x20108, 0x0, 0x20, 15, 8, false⟩
def CAP_STAT.LEVEL : Fld := ⟨0x20108, 0x0, 0x20, 2, 0, false⟩
def CAP_OPEN.NS : Fld := ⟨0x2010c, 0x0, 0x20, 31, 0, false⟩
def CAP_CLOSE.NS : Fld := ⟨0x20110, 0x0, 0x20, 31, 0, false⟩
def EVT_CFG.MODE : Fld := ⟨0x20200, 0x0, 0x20, 31, 29, true⟩
def EVT_CFG.IDLE : Fld := ⟨0x20200, 0x0, 0x20, 28, 28, true⟩
def EVT_CFG.SRC : Fld := ⟨0x20200, 0x0, 0x20, 27, 23, true⟩
def EVT_CFG.OFS : Fld := ⟨0x20200, 0x0, 0x20, 17, 0, true⟩
def EVT_AT.AT : Fld := ⟨0x20204, 0x0, 0x20, 31, 0, false⟩
def EVT_PER.PER : Fld := ⟨0x20208, 0x0, 0x20, 31, 0, true⟩
def EVT_WID.COUNT : Fld := ⟨0x2020c, 0x0, 0x20, 31, 16, false⟩
def EVT_WID.WIDTH : Fld := ⟨0x2020c, 0x0, 0x20, 15, 0, false⟩
def EVT_STAT.LATE : Fld := ⟨0x20210, 0x0, 0x20, 31, 31, false⟩
def EVT_STAT.QFULL : Fld := ⟨0x20210, 0x0, 0x20, 30, 30, false⟩
def EVT_STAT.QLEVEL : Fld := ⟨0x20210, 0x0, 0x20, 26, 24, false⟩
def EVT_STAT.LEVEL : Fld := ⟨0x20210, 0x0, 0x20, 0, 0, false⟩
def MOD_STATE.SLOT : Fld := ⟨0x30010, 0x0, 0x0, 19, 18, false⟩
def MOD_STATE.ROLE : Fld := ⟨0x30010, 0x0, 0x0, 17, 16, false⟩
def MOD_STATE.PEND : Fld := ⟨0x30010, 0x0, 0x0, 11, 8, false⟩
def MOD_STATE.FROM : Fld := ⟨0x30010, 0x0, 0x0, 7, 4, false⟩
def MOD_STATE.MODE : Fld := ⟨0x30010, 0x0, 0x0, 3, 0, false⟩
def MOD_REQ.CODE : Fld := ⟨0x30014, 0x0, 0x0, 3, 0, false⟩
def MOD_STAT.OVF : Fld := ⟨0x30018, 0x0, 0x0, 31, 31, false⟩
def MOD_STAT.CHANGES : Fld := ⟨0x30018, 0x0, 0x0, 15, 8, false⟩
def MOD_STAT.REQ_REFUSED : Fld := ⟨0x30018, 0x0, 0x0, 7, 7, false⟩
def MOD_STAT.REASON : Fld := ⟨0x30018, 0x0, 0x0, 6, 4, false⟩
def MOD_STAT.FALLBACK : Fld := ⟨0x30018, 0x0, 0x0, 3, 3, false⟩
def MOD_STAT.UNSIGNED : Fld := ⟨0x30018, 0x0, 0x0, 2, 2, false⟩
def MOD_STAT.FOLIO_NONE : Fld := ⟨0x30018, 0x0, 0x0, 1, 1, false⟩
def MOD_CFG.SLOT_PREF : Fld := ⟨0x3001c, 0x0, 0x0, 1, 0, false⟩
def FOLIO_STAT.XFER : Fld := ⟨0x30020, 0x0, 0x0, 11, 10, false⟩
def FOLIO_STAT.CS1 : Fld := ⟨0x30020, 0x0, 0x0, 9, 9, false⟩
def FOLIO_STAT.ERR_B : Fld := ⟨0x30020, 0x0, 0x0, 7, 4, false⟩
def FOLIO_STAT.ERR_A : Fld := ⟨0x30020, 0x0, 0x0, 3, 0, false⟩
def FOLIO_SEQ_A.SEQ : Fld := ⟨0x30024, 0x0, 0x0, 31, 0, false⟩
def FOLIO_SEQ_B.SEQ : Fld := ⟨0x30028, 0x0, 0x0, 31, 0, false⟩
def FOLIO_DIAG.CHECK : Fld := ⟨0x3002c, 0x0, 0x0, 15, 8, false⟩
def FOLIO_DIAG.SECT : Fld := ⟨0x3002c, 0x0, 0x0, 4, 0, false⟩
def BOOT_TIME.US : Fld := ⟨0x30030, 0x0, 0x0, 31, 0, false⟩
def IND_SPACE.STEP : Fld := ⟨0x40100, 0x0, 0x40, 23, 16, false⟩
def IND_SPACE.SPACE : Fld := ⟨0x40100, 0x0, 0x40, 7, 0, false⟩
def IND_ADDR.ADDR : Fld := ⟨0x40104, 0x0, 0x40, 31, 2, false⟩
def IND_DATA.DATA : Fld := ⟨0x40108, 0x0, 0x40, 31, 0, false⟩
def IND_STAT.QDEPTH : Fld := ⟨0x4010c, 0x0, 0x40, 19, 16, false⟩
def IND_STAT.ERR_PDOFF : Fld := ⟨0x4010c, 0x0, 0x40, 13, 13, false⟩
def IND_STAT.DROP : Fld := ⟨0x4010c, 0x0, 0x40, 12, 12, false⟩
def IND_STAT.WRAP : Fld := ⟨0x4010c, 0x0, 0x40, 11, 11, false⟩
def IND_STAT.TIMEOUT : Fld := ⟨0x4010c, 0x0, 0x40, 10, 10, false⟩
def IND_STAT.ERR_RO : Fld := ⟨0x4010c, 0x0, 0x40, 9, 9, false⟩
def IND_STAT.ERR_RANGE : Fld := ⟨0x4010c, 0x0, 0x40, 8, 8, false⟩
def IND_STAT.BUSY : Fld := ⟨0x4010c, 0x0, 0x40, 0, 0, false⟩
def IND_AP.PAGE : Fld := ⟨0x40200, 0x0, 0x0, 23, 16, false⟩
def IND_AP.AP_SPACE : Fld := ⟨0x40200, 0x0, 0x0, 7, 0, false⟩
def IND_AP_STAT.QDEPTH : Fld := ⟨0x4020c, 0x0, 0x0, 19, 16, false⟩
def IND_AP_STAT.ERR_PDOFF : Fld := ⟨0x4020c, 0x0, 0x0, 13, 13, false⟩
def IND_AP_STAT.TIMEOUT : Fld := ⟨0x4020c, 0x0, 0x0, 10, 10, false⟩
def IND_AP_STAT.ERR_RO : Fld := ⟨0x4020c, 0x0, 0x0, 9, 9, false⟩
def IND_AP_STAT.ERR_RANGE : Fld := ⟨0x4020c, 0x0, 0x0, 8, 8, false⟩
def IND_AP_STAT.BUSY : Fld := ⟨0x4020c, 0x0, 0x0, 0, 0, false⟩
def STK_VMAX.MAX : Fld := ⟨0x100010, 0x400, 0x0, 31, 0, true⟩
def STK_AMAX.MAX : Fld := ⟨0x100014, 0x400, 0x0, 31, 0, true⟩
def STK_DMAX.MAX : Fld := ⟨0x100018, 0x400, 0x0, 31, 0, true⟩
def STK_JMAX.MAX : Fld := ⟨0x10001c, 0x400, 0x0, 31, 0, true⟩
def STK_STOPDEC.STOP_DEC : Fld := ⟨0x100020, 0x400, 0x0, 31, 0, true⟩
def STK_SLIM_P.LIMIT : Fld := ⟨0x100024, 0x400, 0x0, 31, 0, true⟩
def STK_SLIM_N.LIMIT : Fld := ⟨0x100028, 0x400, 0x0, 31, 0, true⟩
def STK_OVR.V_OVR : Fld := ⟨0x10002c, 0x400, 0x0, 29, 20, true⟩
def STK_OVR.A_OVR : Fld := ⟨0x10002c, 0x400, 0x0, 19, 10, true⟩
def STK_OVR.D_OVR : Fld := ⟨0x10002c, 0x400, 0x0, 9, 0, true⟩
def STK_REF_POS.POS : Fld := ⟨0x100030, 0x400, 0x0, 31, 0, false⟩
def STK_REF_FRAC.FRAC : Fld := ⟨0x100034, 0x400, 0x0, 31, 16, false⟩
def STK_REF_VEL.VEL : Fld := ⟨0x100038, 0x400, 0x0, 31, 0, false⟩
def STK_DEC_USED.DEC : Fld := ⟨0x10003c, 0x400, 0x0, 31, 0, false⟩
def STK_FLAGS.ACC_OVERRIDE : Fld := ⟨0x100040, 0x400, 0x0, 7, 7, false⟩
def STK_FLAGS.SOFT_CLAMP : Fld := ⟨0x100040, 0x400, 0x0, 6, 6, false⟩
def STK_FLAGS.SOFT_STOP : Fld := ⟨0x100040, 0x400, 0x0, 5, 5, false⟩
def STK_FLAGS.HOME_FAIL : Fld := ⟨0x100040, 0x400, 0x0, 4, 4, false⟩
def STK_FLAGS.STEP_LAG : Fld := ⟨0x100040, 0x400, 0x0, 3, 3, false⟩
def STK_FLAGS.CHAT_OVF : Fld := ⟨0x100040, 0x400, 0x0, 2, 2, false⟩
def STK_FLAGS.HOMED : Fld := ⟨0x100040, 0x400, 0x0, 0, 0, false⟩
def STK_LIM_CFG.SRC_P : Fld := ⟨0x100050, 0x400, 0x0, 31, 24, true⟩
def STK_LIM_CFG.SRC_N : Fld := ⟨0x100050, 0x400, 0x0, 23, 16, true⟩
def STK_LIM_CFG.SRC_H : Fld := ⟨0x100050, 0x400, 0x0, 15, 8, true⟩
def STK_LIM_CFG.POL_P : Fld := ⟨0x100050, 0x400, 0x0, 7, 7, true⟩
def STK_LIM_CFG.POL_N : Fld := ⟨0x100050, 0x400, 0x0, 6, 6, true⟩
def STK_LIM_CFG.POL_H : Fld := ⟨0x100050, 0x400, 0x0, 5, 5, true⟩
def STK_LIM_CFG.DEB : Fld := ⟨0x100050, 0x400, 0x0, 4, 0, true⟩
def STK_LIM_CLR.CLEAR : Fld := ⟨0x100054, 0x400, 0x0, 31, 0, true⟩
def STK_LIM_STAT.CHATTER : Fld := ⟨0x100058, 0x400, 0x0, 31, 16, false⟩
def STK_LIM_STAT.LATCH_P : Fld := ⟨0x100058, 0x400, 0x0, 5, 5, false⟩
def STK_LIM_STAT.LATCH_N : Fld := ⟨0x100058, 0x400, 0x0, 4, 4, false⟩
def STK_LIM_STAT.RAW_P : Fld := ⟨0x100058, 0x400, 0x0, 3, 3, false⟩
def STK_LIM_STAT.RAW_N : Fld := ⟨0x100058, 0x400, 0x0, 2, 2, false⟩
def STK_LIM_STAT.RAW_H : Fld := ⟨0x100058, 0x400, 0x0, 1, 1, false⟩
def STK_LIM_CAP_P.POS : Fld := ⟨0x10005c, 0x400, 0x0, 31, 0, false⟩
def STK_LIM_CAP_N.POS : Fld := ⟨0x100060, 0x400, 0x0, 31, 0, false⟩
def STK_HOME_CFG.METHOD : Fld := ⟨0x100070, 0x400, 0x0, 31, 28, true⟩
def STK_HOME_CFG.LIM_ACT : Fld := ⟨0x100070, 0x400, 0x0, 27, 27, true⟩
def STK_HOME_CFG.MOVE : Fld := ⟨0x100070, 0x400, 0x0, 26, 26, true⟩
def STK_HOME_CFG.REQ_HOME : Fld := ⟨0x100070, 0x400, 0x0, 25, 25, true⟩
def STK_HOME_V1.V : Fld := ⟨0x100074, 0x400, 0x0, 31, 0, true⟩
def STK_HOME_V2.V : Fld := ⟨0x100078, 0x400, 0x0, 31, 0, true⟩
def STK_HOME_POS.POS : Fld := ⟨0x10007c, 0x400, 0x0, 31, 0, true⟩
def STK_HOME_TGT.POS : Fld := ⟨0x100080, 0x400, 0x0, 31, 0, true⟩
def STK_HOME_HS.HS_TIME : Fld := ⟨0x100084, 0x400, 0x0, 31, 16, true⟩
def STK_HOME_HS.HS_ERR : Fld := ⟨0x100084, 0x400, 0x0, 15, 0, true⟩
def STK_HOME_STAT.PHASE : Fld := ⟨0x100088, 0x400, 0x0, 31, 28, false⟩
def STK_HOME_STAT.FAIL : Fld := ⟨0x100088, 0x400, 0x0, 27, 24, false⟩
def STK_MS_CFG.MS_EN : Fld := ⟨0x100090, 0x400, 0x0, 31, 31, true⟩
def STK_MS_CFG.FS_INC : Fld := ⟨0x100090, 0x400, 0x0, 15, 0, true⟩
def STK_MS_V12.MS_V2 : Fld := ⟨0x100094, 0x400, 0x0, 31, 16, true⟩
def STK_MS_V12.MS_V1 : Fld := ⟨0x100094, 0x400, 0x0, 15, 0, true⟩
def STK_MS_V3.RES : Fld := ⟨0x100098, 0x400, 0x0, 31, 30, false⟩
def STK_MS_V3.MS_V3 : Fld := ⟨0x100098, 0x400, 0x0, 15, 0, true⟩
def STK_STEP_CFG.SRC : Fld := ⟨0x1000a0, 0x400, 0x0, 31, 28, true⟩
def STK_STEP_CFG.TMO : Fld := ⟨0x1000a0, 0x400, 0x0, 23, 16, true⟩
def STK_STEP_CFG.INC : Fld := ⟨0x1000a0, 0x400, 0x0, 15, 0, true⟩
def STK_STEP_STAT.STEP_POS : Fld := ⟨0x1000a4, 0x400, 0x0, 31, 0, false⟩
def CHN_CFG.FIRST : Fld := ⟨0x200010, 0x1000, 0x0, 23, 16, false⟩
def CHN_CFG.NAX : Fld := ⟨0x200010, 0x1000, 0x0, 15, 12, false⟩
def CHN_CFG.GROUP : Fld := ⟨0x200010, 0x1000, 0x0, 11, 10, false⟩
def CHN_CFG.KIND : Fld := ⟨0x200010, 0x1000, 0x0, 9, 9, false⟩
def CHN_CFG.SCALE_SRC : Fld := ⟨0x200010, 0x1000, 0x0, 4, 0, false⟩
def CHN_PUSH.PUSH : Fld := ⟨0x200014, 0x1000, 0x0, 31, 31, false⟩
def CHN_CMD.ABORT : Fld := ⟨0x200018, 0x1000, 0x0, 3, 3, false⟩
def CHN_CMD.STOP : Fld := ⟨0x200018, 0x1000, 0x0, 2, 2, false⟩
def CHN_CMD.FLUSH : Fld := ⟨0x200018, 0x1000, 0x0, 1, 1, false⟩
def CHN_CMD.RESUME : Fld := ⟨0x200018, 0x1000, 0x0, 0, 0, false⟩
def CHN_QSTAT.STATE : Fld := ⟨0x20001c, 0x1000, 0x0, 31, 29, false⟩
def CHN_QSTAT.LAST_RES : Fld := ⟨0x20001c, 0x1000, 0x0, 23, 20, false⟩
def CHN_QSTAT.LEVEL : Fld := ⟨0x20001c, 0x1000, 0x0, 13, 8, false⟩
def CHN_QSTAT.WAIT_ID : Fld := ⟨0x20001c, 0x1000, 0x0, 7, 0, false⟩
def CHN_TAG.RUN_TAG : Fld := ⟨0x200020, 0x1000, 0x0, 31, 16, false⟩
def CHN_TAG.DONE_TAG : Fld := ⟨0x200020, 0x1000, 0x0, 15, 0, false⟩
def CHN_DROP.DROP_TAG : Fld := ⟨0x200024, 0x1000, 0x0, 31, 16, false⟩
def CHN_DROP.DROPPED : Fld := ⟨0x200024, 0x1000, 0x0, 15, 0, false⟩
def CHN_FLAGS.DROP_OVF : Fld := ⟨0x200028, 0x1000, 0x0, 10, 10, false⟩
def CHN_FLAGS.REJ_OVF : Fld := ⟨0x200028, 0x1000, 0x0, 9, 9, false⟩
def CHN_FLAGS.ACC_OVF : Fld := ⟨0x200028, 0x1000, 0x0, 8, 8, false⟩
def CHN_FLAGS.PUSH_LOST : Fld := ⟨0x200028, 0x1000, 0x0, 7, 7, false⟩
def CHN_FLAGS.CMD_REFUSED : Fld := ⟨0x200028, 0x1000, 0x0, 6, 6, false⟩
def CHN_FLAGS.UNDERRUN : Fld := ⟨0x200028, 0x1000, 0x0, 5, 5, false⟩
def CHN_FLAGS.SYNC_TMO : Fld := ⟨0x200028, 0x1000, 0x0, 4, 4, false⟩
def CHN_FLAGS.SYNC_MISMATCH : Fld := ⟨0x200028, 0x1000, 0x0, 3, 3, false⟩
def CHN_FLAGS.HALT_LIMIT : Fld := ⟨0x200028, 0x1000, 0x0, 2, 2, false⟩
def CHN_FLAGS.HALT_FAULT : Fld := ⟨0x200028, 0x1000, 0x0, 1, 1, false⟩
def CHN_FLAGS.HALT_STOP : Fld := ⟨0x200028, 0x1000, 0x0, 0, 0, false⟩
def CHN_CNT.ACCEPTED : Fld := ⟨0x20002c, 0x1000, 0x0, 31, 16, false⟩
def CHN_CNT.REJECTED : Fld := ⟨0x20002c, 0x1000, 0x0, 15, 0, false⟩
def CHN_RATE.SIGMA : Fld := ⟨0x200030, 0x1000, 0x0, 31, 16, false⟩
def CHN_RATE.RHO : Fld := ⟨0x200030, 0x1000, 0x0, 15, 0, false⟩
def CHN_TAU.TAU : Fld := ⟨0x200034, 0x1000, 0x0, 31, 0, false⟩
def CHN_SYNC.TMO : Fld := ⟨0x200038, 0x1000, 0x0, 15, 0, true⟩
def CHN_STG.WORD : Fld := ⟨0x200100, 0x1000, 0x4, 31, 0, false⟩
def RUL_CFG.TS : Fld := ⟨0x300010, 0x0, 0x0, 31, 30, false⟩
def RUL_CFG.SOLVE_LAT : Fld := ⟨0x300010, 0x0, 0x0, 20, 16, false⟩
def RUL_CFG.QUADS : Fld := ⟨0x300010, 0x0, 0x0, 10, 8, false⟩
def RUL_ITER.N : Fld := ⟨0x300014, 0x0, 0x0, 6, 0, true⟩
def RUL_ALG.ALPHA : Fld := ⟨0x300018, 0x0, 0x0, 31, 16, true⟩
def RUL_ALG.EQ_EXP : Fld := ⟨0x300018, 0x0, 0x0, 15, 12, true⟩
def RUL_ALG.RHO_EXP : Fld := ⟨0x300018, 0x0, 0x0, 11, 8, true⟩
def RUL_ALG.PROX_EXP : Fld := ⟨0x300018, 0x0, 0x0, 4, 0, true⟩
def RUL_REG.PMIN_EXP : Fld := ⟨0x30001c, 0x0, 0x0, 12, 8, true⟩
def RUL_REG.REG_EXP : Fld := ⟨0x30001c, 0x0, 0x0, 4, 0, true⟩
def RUL_HOR.H_T : Fld := ⟨0x300020, 0x0, 0x0, 31, 24, true⟩
def RUL_HOR.H_C : Fld := ⟨0x300020, 0x0, 0x0, 23, 16, true⟩
def RUL_HOR.H_V : Fld := ⟨0x300020, 0x0, 0x0, 15, 8, true⟩
def RUL_HOR.H_Q : Fld := ⟨0x300020, 0x0, 0x0, 7, 0, true⟩
def RUL_WT.W_T_EXP : Fld := ⟨0x300024, 0x0, 0x0, 23, 16, true⟩
def RUL_WT.W_P_EXP : Fld := ⟨0x300024, 0x0, 0x0, 15, 8, true⟩
def RUL_WT.W_R_EXP : Fld := ⟨0x300024, 0x0, 0x0, 7, 0, true⟩
def RUL_LIM.ACORR : Fld := ⟨0x300028, 0x0, 0x0, 31, 16, true⟩
def RUL_LIM.SLOW_FACTOR : Fld := ⟨0x300028, 0x0, 0x0, 15, 0, true⟩
def RUL_OVR_CFG.WARM_MISMATCH : Fld := ⟨0x30002c, 0x0, 0x0, 15, 8, true⟩
def RUL_OVR_CFG.K : Fld := ⟨0x30002c, 0x0, 0x0, 3, 0, true⟩
def RUL_TOL.VIOL_TOL : Fld := ⟨0x300030, 0x0, 0x0, 31, 0, true⟩
def RUL_STAT.LATE : Fld := ⟨0x300050, 0x0, 0x0, 31, 31, false⟩
def RUL_STAT.DEGRADED : Fld := ⟨0x300050, 0x0, 0x0, 30, 30, false⟩
def RUL_STAT.COLD : Fld := ⟨0x300050, 0x0, 0x0, 29, 29, false⟩
def RUL_STAT.STRUCT_CHANGED : Fld := ⟨0x300050, 0x0, 0x0, 28, 28, false⟩
def RUL_STAT.PIVOT_FIX : Fld := ⟨0x300050, 0x0, 0x0, 27, 27, false⟩
def RUL_STAT.NONCONVEX : Fld := ⟨0x300050, 0x0, 0x0, 26, 26, false⟩
def RUL_STAT.TILE_ERR : Fld := ⟨0x300050, 0x0, 0x0, 25, 25, false⟩
def RUL_STAT.SAT : Fld := ⟨0x300050, 0x0, 0x0, 24, 24, false⟩
def RUL_STAT.SUBST : Fld := ⟨0x300050, 0x0, 0x0, 23, 23, false⟩
def RUL_STAT.HOLD_CAUSE : Fld := ⟨0x300050, 0x0, 0x0, 22, 22, false⟩
def RUL_STAT.FMT_DEFAULTED : Fld := ⟨0x300050, 0x0, 0x0, 21, 21, false⟩
def RUL_STAT.CONSEC : Fld := ⟨0x300050, 0x0, 0x0, 19, 16, false⟩
def RUL_STKY.STRUCT_OVF : Fld := ⟨0x300054, 0x0, 0x0, 9, 9, false⟩
def RUL_STKY.COLD_OVF : Fld := ⟨0x300054, 0x0, 0x0, 8, 8, false⟩
def RUL_STKY.SAT_OVF : Fld := ⟨0x300054, 0x0, 0x0, 7, 7, false⟩
def RUL_STKY.DEG_OVF : Fld := ⟨0x300054, 0x0, 0x0, 6, 6, false⟩
def RUL_STKY.LATE_OVF : Fld := ⟨0x300054, 0x0, 0x0, 5, 5, false⟩
def RUL_STKY.HOLD_ENTERED : Fld := ⟨0x300054, 0x0, 0x0, 4, 4, false⟩
def RUL_STKY.NONCONVEX_SEEN : Fld := ⟨0x300054, 0x0, 0x0, 3, 3, false⟩
def RUL_STKY.PIVOT_SEEN : Fld := ⟨0x300054, 0x0, 0x0, 2, 2, false⟩
def RUL_STKY.DEG_SEEN : Fld := ⟨0x300054, 0x0, 0x0, 1, 1, false⟩
def RUL_STKY.OVR : Fld := ⟨0x300054, 0x0, 0x0, 0, 0, false⟩
def RUL_SEQ.INDEX : Fld := ⟨0x300058, 0x0, 0x0, 31, 0, false⟩
def RUL_PIVOT.FIX_IDX : Fld := ⟨0x30005c, 0x0, 0x0, 23, 16, false⟩
def RUL_PIVOT.PIVOT_CNT : Fld := ⟨0x30005c, 0x0, 0x0, 7, 0, false⟩
def RUL_RES_P.VALUE : Fld := ⟨0x300060, 0x0, 0x0, 31, 0, false⟩
def RUL_RES_D.VALUE : Fld := ⟨0x300064, 0x0, 0x0, 31, 0, false⟩
def RUL_VIOL.VALUE : Fld := ⟨0x300068, 0x0, 0x0, 31, 0, false⟩
def RUL_VROW.TAG : Fld := ⟨0x30006c, 0x0, 0x0, 31, 16, false⟩
def RUL_VROW.INDEX : Fld := ⟨0x30006c, 0x0, 0x0, 10, 0, false⟩
def RUL_CNT_BAD.LATE_CNT : Fld := ⟨0x300070, 0x0, 0x0, 31, 16, false⟩
def RUL_CNT_BAD.DEG_CNT : Fld := ⟨0x300070, 0x0, 0x0, 15, 0, false⟩
def RUL_CNT_SAT.SAT_CNT : Fld := ⟨0x300074, 0x0, 0x0, 23, 0, false⟩
def RUL_CNT_WARM.COLD_CNT : Fld := ⟨0x300078, 0x0, 0x0, 31, 16, false⟩
def RUL_CNT_WARM.STRUCT_CNT : Fld := ⟨0x300078, 0x0, 0x0, 15, 0, false⟩
def RUL_TIME.SLACK : Fld := ⟨0x30007c, 0x0, 0x0, 31, 24, false⟩
def RUL_TIME.DONE : Fld := ⟨0x30007c, 0x0, 0x0, 18, 0, false⟩
def RUL_PHASE.ASM_END : Fld := ⟨0x300080, 0x0, 0x0, 31, 16, false⟩
def RUL_PHASE.FACT_END : Fld := ⟨0x300080, 0x0, 0x0, 15, 0, false⟩
def RUL_MATCH.ROWS : Fld := ⟨0x300084, 0x0, 0x0, 26, 16, false⟩
def RUL_MATCH.UNMATCHED : Fld := ⟨0x300084, 0x0, 0x0, 10, 0, false⟩
def RUL_FMT.INT : Fld := ⟨0x300090, 0x0, 0x4, 5, 0, false⟩
def RUL_TILE.IN_USE : Fld := ⟨0x3000c0, 0x0, 0x4, 31, 31, false⟩
def RUL_TILE.SPARE_USED : Fld := ⟨0x3000c0, 0x0, 0x4, 30, 30, false⟩
def RUL_TILE.SHORT : Fld := ⟨0x3000c0, 0x0, 0x4, 29, 29, false⟩
def RUL_TILE.OUT : Fld := ⟨0x3000c0, 0x0, 0x4, 20, 16, false⟩
def RUL_TILE.OVF : Fld := ⟨0x3000c0, 0x0, 0x4, 15, 15, false⟩
def RUL_TILE.ERR_CNT : Fld := ⟨0x3000c0, 0x0, 0x4, 14, 0, false⟩
def SEP_CFG.EN : Fld := ⟨0x380010, 0x0, 0x0, 31, 31, true⟩
def SEP_CFG.EXTRAP_EN : Fld := ⟨0x380010, 0x0, 0x0, 30, 30, true⟩
def SEP_CFG.ACT_BAND : Fld := ⟨0x380010, 0x0, 0x0, 15, 0, true⟩
def SEP_KH.K_H : Fld := ⟨0x380014, 0x0, 0x0, 31, 16, true⟩
def SEP_KH.K_OBJ : Fld := ⟨0x380014, 0x0, 0x0, 15, 0, true⟩
def SEP_GEOM.C : Fld := ⟨0x380018, 0x0, 0x0, 31, 16, true⟩
def SEP_GEOM.ZD_MIN : Fld := ⟨0x380018, 0x0, 0x0, 15, 0, true⟩
def SEP_TIME.T_R_EXT : Fld := ⟨0x38001c, 0x0, 0x0, 31, 16, true⟩
def SEP_TIME.H_S : Fld := ⟨0x38001c, 0x0, 0x0, 15, 8, true⟩
def SEP_TIME.STALE_MS : Fld := ⟨0x38001c, 0x0, 0x0, 7, 0, true⟩
def SEP_STAT.ROWS : Fld := ⟨0x380030, 0x0, 0x0, 26, 16, false⟩
def SEP_STAT.NOCC : Fld := ⟨0x380030, 0x0, 0x0, 14, 8, false⟩
def SEP_DONE.DONE : Fld := ⟨0x380034, 0x0, 0x0, 18, 0, false⟩
def SEP_FLAGS.NOVAR_OVF : Fld := ⟨0x380038, 0x0, 0x0, 5, 5, false⟩
def SEP_FLAGS.REC_OVF : Fld := ⟨0x380038, 0x0, 0x0, 4, 4, false⟩
def SEP_FLAGS.SLOT_FULL : Fld := ⟨0x380038, 0x0, 0x0, 3, 3, false⟩
def SEP_FLAGS.STALE_SEEN : Fld := ⟨0x380038, 0x0, 0x0, 2, 2, false⟩
def SEP_FLAGS.INSIDE_SEEN : Fld := ⟨0x380038, 0x0, 0x0, 1, 1, false⟩
def SEP_FLAGS.REC_SEEN : Fld := ⟨0x380038, 0x0, 0x0, 0, 0, false⟩
def SEP_CNT.REC_BAD : Fld := ⟨0x38003c, 0x0, 0x0, 31, 16, false⟩
def SEP_CNT.NOVAR : Fld := ⟨0x38003c, 0x0, 0x0, 15, 0, false⟩
def SEP_CH_T.T_S : Fld := ⟨0x380100, 0x0, 0x10, 31, 16, true⟩
def SEP_CH_T.A_S : Fld := ⟨0x380100, 0x0, 0x10, 15, 0, true⟩
def SEP_CH_Z.Z_R : Fld := ⟨0x380104, 0x0, 0x10, 31, 16, true⟩
def SEP_CH_Z.PAD : Fld := ⟨0x380104, 0x0, 0x10, 15, 0, true⟩
def SEP_OCC.PRESENT : Fld := ⟨0x380400, 0x0, 0x10, 31, 31, false⟩
def SEP_OCC.PERSON : Fld := ⟨0x380400, 0x0, 0x10, 30, 30, false⟩
def SEP_OCC.STALE : Fld := ⟨0x380400, 0x0, 0x10, 29, 29, false⟩
def SEP_OCC.INSIDE : Fld := ⟨0x380400, 0x0, 0x10, 28, 28, false⟩
def SEP_OCC.NCAP : Fld := ⟨0x380400, 0x0, 0x10, 17, 16, false⟩
def SEP_OCC.SEQ : Fld := ⟨0x380400, 0x0, 0x10, 15, 0, false⟩
def SEP_OCC_AGE.AGE : Fld := ⟨0x380404, 0x0, 0x10, 31, 0, false⟩
def MGN_CFG.SRV_SSM : Fld := ⟨0x3c0010, 0x0, 0x0, 31, 31, true⟩
def MGN_CFG.AUTO_REARM : Fld := ⟨0x3c0010, 0x0, 0x0, 30, 30, true⟩
def MGN_CFG.LOST_REACT : Fld := ⟨0x3c0010, 0x0, 0x0, 29, 29, true⟩
def MGN_CFG.STOP_AXIS : Fld := ⟨0x3c0010, 0x0, 0x0, 28, 28, true⟩
def MGN_CFG.STOP_CAT : Fld := ⟨0x3c0010, 0x0, 0x0, 27, 26, true⟩
def MGN_CFG.REARM_N : Fld := ⟨0x3c0010, 0x0, 0x0, 25, 16, true⟩
def MGN_CFG.WARN_BAND : Fld := ⟨0x3c0010, 0x0, 0x0, 15, 0, true⟩
def MGN_KH.K_H : Fld := ⟨0x3c0014, 0x0, 0x0, 31, 16, true⟩
def MGN_KH.C : Fld := ⟨0x3c0014, 0x0, 0x0, 15, 0, true⟩
def MGN_GEOM.ZD_MIN : Fld := ⟨0x3c0018, 0x0, 0x0, 31, 16, true⟩
def MGN_GEOM.V_PAD : Fld := ⟨0x3c0018, 0x0, 0x0, 15, 0, true⟩
def MGN_TIME.T_R_EXT : Fld := ⟨0x3c001c, 0x0, 0x0, 31, 16, true⟩
def MGN_TIME.AGE_LIMIT : Fld := ⟨0x3c001c, 0x0, 0x0, 15, 0, true⟩
def MGN_SRV.SRV_VMAX : Fld := ⟨0x3c0020, 0x0, 0x0, 15, 0, true⟩
def MGN_SIG.SIG : Fld := ⟨0x3c0024, 0x0, 0x0, 31, 0, false⟩
def MGN_SIG_REF.SIG : Fld := ⟨0x3c0028, 0x0, 0x0, 31, 0, true⟩
def MGN_STAT.DECISION : Fld := ⟨0x3c0030, 0x0, 0x0, 31, 30, false⟩
def MGN_STAT.FAULT : Fld := ⟨0x3c0030, 0x0, 0x0, 29, 29, false⟩
def MGN_STAT.LATCHED : Fld := ⟨0x3c0030, 0x0, 0x0, 28, 28, false⟩
def MGN_STAT.OCC : Fld := ⟨0x3c0030, 0x0, 0x0, 21, 16, false⟩
def MGN_STAT.MARGIN : Fld := ⟨0x3c0030, 0x0, 0x0, 15, 0, false⟩
def MGN_DONE.DONE : Fld := ⟨0x3c0034, 0x0, 0x0, 18, 0, false⟩
def MGN_FLT.STOPS_OVF : Fld := ⟨0x3c0038, 0x0, 0x0, 10, 10, false⟩
def MGN_FLT.WARNS_OVF : Fld := ⟨0x3c0038, 0x0, 0x0, 9, 9, false⟩
def MGN_FLT.PARAM_REFUSED : Fld := ⟨0x3c0038, 0x0, 0x0, 8, 8, false⟩
def MGN_FLT.FB_INVALID : Fld := ⟨0x3c0038, 0x0, 0x0, 7, 7, false⟩
def MGN_FLT.OCC_LOST : Fld := ⟨0x3c0038, 0x0, 0x0, 6, 6, false⟩
def MGN_FLT.SELFTEST : Fld := ⟨0x3c0038, 0x0, 0x0, 5, 5, false⟩
def MGN_FLT.SIN_DISC : Fld := ⟨0x3c0038, 0x0, 0x0, 4, 4, false⟩
def MGN_FLT.SOUT_RB : Fld := ⟨0x3c0038, 0x0, 0x0, 3, 3, false⟩
def MGN_FLT.SIG : Fld := ⟨0x3c0038, 0x0, 0x0, 2, 2, false⟩
def MGN_FLT.LATE : Fld := ⟨0x3c0038, 0x0, 0x0, 1, 1, false⟩
def MGN_FLT.REC_BAD : Fld := ⟨0x3c0038, 0x0, 0x0, 0, 0, false⟩
def MGN_CNT.STOPS : Fld := ⟨0x3c003c, 0x0, 0x0, 31, 16, false⟩
def MGN_CNT.WARNS : Fld := ⟨0x3c003c, 0x0, 0x0, 15, 0, false⟩
def MGN_ACK.ACK : Fld := ⟨0x3c0040, 0x0, 0x0, 31, 31, false⟩
def MGN_CH_T.T_S : Fld := ⟨0x3c0100, 0x0, 0x10, 31, 16, true⟩
def MGN_CH_T.A_S : Fld := ⟨0x3c0100, 0x0, 0x10, 15, 0, true⟩
def MGN_CH_Z.Z_R : Fld := ⟨0x3c0104, 0x0, 0x10, 31, 16, true⟩
def MGN_CH_Z.VFIRST : Fld := ⟨0x3c0104, 0x0, 0x10, 15, 0, true⟩
def MGN_SIN_CFG.FUNC : Fld := ⟨0x3c0200, 0x0, 0x10, 31, 28, true⟩
def MGN_SIN_CFG.ANTIV : Fld := ⟨0x3c0200, 0x0, 0x10, 27, 27, true⟩
def MGN_SIN_CFG.CAT : Fld := ⟨0x3c0200, 0x0, 0x10, 25, 24, true⟩
def MGN_SIN_CFG.FILT : Fld := ⟨0x3c0200, 0x0, 0x10, 19, 16, true⟩
def MGN_SIN_CFG.DISC_T : Fld := ⟨0x3c0200, 0x0, 0x10, 15, 0, true⟩
def MGN_SIN_STAT.DISC : Fld := ⟨0x3c0204, 0x0, 0x10, 3, 3, false⟩
def MGN_SIN_STAT.DEMAND : Fld := ⟨0x3c0204, 0x0, 0x10, 2, 2, false⟩
def MGN_SIN_STAT.RAW_B : Fld := ⟨0x3c0204, 0x0, 0x10, 1, 1, false⟩
def MGN_SIN_STAT.RAW_A : Fld := ⟨0x3c0204, 0x0, 0x10, 0, 0, false⟩
def MGN_SOUT_CFG.FUNC : Fld := ⟨0x3c0300, 0x0, 0x10, 31, 30, true⟩
def MGN_SOUT_CFG.STOP1_T : Fld := ⟨0x3c0300, 0x0, 0x10, 15, 0, true⟩
def MGN_SOUT_STAT.DELAY : Fld := ⟨0x3c0304, 0x0, 0x10, 31, 16, false⟩
def MGN_SOUT_STAT.RB_B : Fld := ⟨0x3c0304, 0x0, 0x10, 3, 3, false⟩
def MGN_SOUT_STAT.RB_A : Fld := ⟨0x3c0304, 0x0, 0x10, 2, 2, false⟩
def MGN_SOUT_STAT.ENERGISED : Fld := ⟨0x3c0304, 0x0, 0x10, 0, 0, false⟩
def AX_CFG.OUT_MODE : Fld := ⟨0x400010, 0x400, 0x0, 31, 29, true⟩
def AX_CFG.SP_SRC : Fld := ⟨0x400010, 0x400, 0x0, 28, 26, true⟩
def AX_CFG.VEL_SRC : Fld := ⟨0x400010, 0x400, 0x0, 25, 24, true⟩
def AX_CFG.POS_RING : Fld := ⟨0x400010, 0x400, 0x0, 23, 23, true⟩
def AX_CFG.NFILT : Fld := ⟨0x400010, 0x400, 0x0, 22, 20, true⟩
def AX_CFG.DECOUP : Fld := ⟨0x400010, 0x400, 0x0, 19, 19, true⟩
def AX_CFG.HOLD_SAFE : Fld := ⟨0x400010, 0x400, 0x0, 18, 18, true⟩
def AX_CFG.OUT_FMT : Fld := ⟨0x400010, 0x400, 0x0, 17, 17, true⟩
def AX_CFG.AN_MODE : Fld := ⟨0x400010, 0x400, 0x0, 16, 16, true⟩
def AX_SRC.POS_FB : Fld := ⟨0x400014, 0x400, 0x0, 31, 28, true⟩
def AX_SRC.VEL_FB : Fld := ⟨0x400014, 0x400, 0x0, 27, 24, true⟩
def AX_SRC.AN_SD : Fld := ⟨0x400014, 0x400, 0x0, 23, 19, true⟩
def AX_SRC.FB_AGE : Fld := ⟨0x400014, 0x400, 0x0, 15, 8, true⟩
def AX_SRC.SP_AGE : Fld := ⟨0x400014, 0x400, 0x0, 7, 0, true⟩
def AX_REACT.R_FERR : Fld := ⟨0x400018, 0x400, 0x0, 31, 30, true⟩
def AX_REACT.R_OVR : Fld := ⟨0x400018, 0x400, 0x0, 29, 28, true⟩
def AX_REACT.R_FB : Fld := ⟨0x400018, 0x400, 0x0, 27, 26, true⟩
def AX_REACT.R_PLIM : Fld := ⟨0x400018, 0x400, 0x0, 25, 24, true⟩
def AX_REACT.R_LANE : Fld := ⟨0x400018, 0x400, 0x0, 23, 22, true⟩
def AX_REACT.R_TRIP : Fld := ⟨0x400018, 0x400, 0x0, 21, 20, true⟩
def AX_REACT.OVR_N : Fld := ⟨0x400018, 0x400, 0x0, 7, 4, true⟩
def AX_CLCFG.CL_EN : Fld := ⟨0x40001c, 0x400, 0x0, 31, 31, false⟩
def AX_CLCFG.BRIDGE : Fld := ⟨0x40001c, 0x400, 0x0, 30, 27, false⟩
def AX_CLCFG.CL_PER : Fld := ⟨0x40001c, 0x400, 0x0, 26, 25, false⟩
def AX_CLCFG.POLES : Fld := ⟨0x40001c, 0x400, 0x0, 24, 21, true⟩
def AX_CLCFG.ANG_SRC : Fld := ⟨0x40001c, 0x400, 0x0, 20, 19, true⟩
def AX_CLCFG.CL_OFS : Fld := ⟨0x40001c, 0x400, 0x0, 15, 0, false⟩
def AX_KP.MANT : Fld := ⟨0x400020, 0x400, 0x0, 31, 8, true⟩
def AX_KP.EXP : Fld := ⟨0x400020, 0x400, 0x0, 5, 0, true⟩
def AX_KVF.MANT : Fld := ⟨0x400024, 0x400, 0x0, 31, 8, true⟩
def AX_KVF.EXP : Fld := ⟨0x400024, 0x400, 0x0, 5, 0, true⟩
def AX_KV.MANT : Fld := ⟨0x400028, 0x400, 0x0, 31, 8, true⟩
def AX_KV.EXP : Fld := ⟨0x400028, 0x400, 0x0, 5, 0, true⟩
def AX_KI.MANT : Fld := ⟨0x40002c, 0x400, 0x0, 31, 8, true⟩
def AX_KI.EXP : Fld := ⟨0x40002c, 0x400, 0x0, 5, 0, true⟩
def AX_KAF.MANT : Fld := ⟨0x400030, 0x400, 0x0, 31, 8, true⟩
def AX_KAF.EXP : Fld := ⟨0x400030, 0x400, 0x0, 5, 0, true⟩
def AX_DSCALE.MANT : Fld := ⟨0x400034, 0x400, 0x0, 31, 8, true⟩
def AX_DSCALE.EXP : Fld := ⟨0x400034, 0x400, 0x0, 5, 0, true⟩
def AX_TLIM.MANT : Fld := ⟨0x400038, 0x400, 0x0, 31, 8, true⟩
def AX_TLIM.EXP : Fld := ⟨0x400038, 0x400, 0x0, 5, 0, true⟩
def AX_ILIM.MANT : Fld := ⟨0x40003c, 0x400, 0x0, 31, 8, true⟩
def AX_ILIM.EXP : Fld := ⟨0x40003c, 0x400, 0x0, 5, 0, true⟩
def AX_VLIM.MANT : Fld := ⟨0x400040, 0x400, 0x0, 31, 8, true⟩
def AX_VLIM.EXP : Fld := ⟨0x400040, 0x400, 0x0, 5, 0, true⟩
def AX_VLP.MANT : Fld := ⟨0x400044, 0x400, 0x0, 31, 8, true⟩
def AX_VLP.EXP : Fld := ⟨0x400044, 0x400, 0x0, 5, 0, true⟩
def AX_FERR.FERR_MAX : Fld := ⟨0x400048, 0x400, 0x0, 31, 0, true⟩
def AX_PLIM_P.LIMIT : Fld := ⟨0x40004c, 0x400, 0x0, 31, 0, true⟩
def AX_PLIM_N.LIMIT : Fld := ⟨0x400050, 0x400, 0x0, 31, 0, true⟩
def AX_FLT_B0.MANT : Fld := ⟨0x400060, 0x400, 0x14, 31, 8, true⟩
def AX_FLT_B0.EXP : Fld := ⟨0x400060, 0x400, 0x14, 5, 0, true⟩
def AX_FLT_B1.MANT : Fld := ⟨0x400064, 0x400, 0x14, 31, 8, true⟩
def AX_FLT_B1.EXP : Fld := ⟨0x400064, 0x400, 0x14, 5, 0, true⟩
def AX_FLT_B2.MANT : Fld := ⟨0x400068, 0x400, 0x14, 31, 8, true⟩
def AX_FLT_B2.EXP : Fld := ⟨0x400068, 0x400, 0x14, 5, 0, true⟩
def AX_FLT_A1.MANT : Fld := ⟨0x40006c, 0x400, 0x14, 31, 8, true⟩
def AX_FLT_A1.EXP : Fld := ⟨0x40006c, 0x400, 0x14, 5, 0, true⟩
def AX_FLT_A2.MANT : Fld := ⟨0x400070, 0x400, 0x14, 31, 8, true⟩
def AX_FLT_A2.EXP : Fld := ⟨0x400070, 0x400, 0x14, 5, 0, true⟩
def AX_CKP.MANT : Fld := ⟨0x4000b0, 0x400, 0x0, 31, 8, true⟩
def AX_CKP.EXP : Fld := ⟨0x4000b0, 0x400, 0x0, 5, 0, true⟩
def AX_CKI.MANT : Fld := ⟨0x4000b4, 0x400, 0x0, 31, 8, true⟩
def AX_CKI.EXP : Fld := ⟨0x4000b4, 0x400, 0x0, 5, 0, true⟩
def AX_LS.MANT : Fld := ⟨0x4000b8, 0x400, 0x0, 31, 8, true⟩
def AX_LS.EXP : Fld := ⟨0x4000b8, 0x400, 0x0, 5, 0, true⟩
def AX_ID_REF.MANT : Fld := ⟨0x4000bc, 0x400, 0x0, 31, 8, true⟩
def AX_ID_REF.EXP : Fld := ⟨0x4000bc, 0x400, 0x0, 5, 0, true⟩
def AX_MI_MAX.MANT : Fld := ⟨0x4000c0, 0x400, 0x0, 31, 8, true⟩
def AX_MI_MAX.EXP : Fld := ⟨0x4000c0, 0x400, 0x0, 5, 0, true⟩
def AX_I_RUN.MANT : Fld := ⟨0x4000c4, 0x400, 0x0, 31, 8, true⟩
def AX_I_RUN.EXP : Fld := ⟨0x4000c4, 0x400, 0x0, 5, 0, true⟩
def AX_I_HOLD.MANT : Fld := ⟨0x4000c8, 0x400, 0x0, 31, 8, true⟩
def AX_I_HOLD.EXP : Fld := ⟨0x4000c8, 0x400, 0x0, 5, 0, true⟩
def AX_ANG.ANG_OFS : Fld := ⟨0x4000cc, 0x400, 0x0, 31, 16, true⟩
def AX_AN_GAIN.MANT : Fld := ⟨0x4000d0, 0x400, 0x0, 31, 8, true⟩
def AX_AN_GAIN.EXP : Fld := ⟨0x4000d0, 0x400, 0x0, 5, 0, true⟩
def AX_AN_OFS.MANT : Fld := ⟨0x4000d4, 0x400, 0x0, 31, 8, true⟩
def AX_AN_OFS.EXP : Fld := ⟨0x4000d4, 0x400, 0x0, 5, 0, true⟩
def AX_AN_DB.MANT : Fld := ⟨0x4000d8, 0x400, 0x0, 31, 8, true⟩
def AX_AN_DB.EXP : Fld := ⟨0x4000d8, 0x400, 0x0, 5, 0, true⟩
def AX_STEP.SRC : Fld := ⟨0x4000e0, 0x400, 0x0, 31, 28, true⟩
def AX_STEP.TMO : Fld := ⟨0x4000e0, 0x400, 0x0, 23, 16, true⟩
def AX_STEP.INC : Fld := ⟨0x4000e0, 0x400, 0x0, 15, 0, true⟩
def AX_CTRL.FLT_CLR : Fld := ⟨0x400100, 0x400, 0x0, 31, 31, false⟩
def AX_CTRL.INT_RST : Fld := ⟨0x400100, 0x400, 0x0, 30, 30, false⟩
def AX_STAT.FAULT : Fld := ⟨0x400104, 0x400, 0x0, 31, 31, false⟩
def AX_STAT.TORQUE_OFF : Fld := ⟨0x400104, 0x400, 0x0, 30, 30, false⟩
def AX_STAT.SAT : Fld := ⟨0x400104, 0x400, 0x0, 29, 29, false⟩
def AX_STAT.CSAT : Fld := ⟨0x400104, 0x400, 0x0, 28, 28, false⟩
def AX_STAT.VSAT : Fld := ⟨0x400104, 0x400, 0x0, 27, 27, false⟩
def AX_STAT.FB_INVALID : Fld := ⟨0x400104, 0x400, 0x0, 26, 26, false⟩
def AX_STAT.SP_STALE : Fld := ⟨0x400104, 0x400, 0x0, 25, 25, false⟩
def AX_STAT.CAUSE : Fld := ⟨0x400104, 0x400, 0x0, 24, 19, false⟩
def AX_STAT.CONSEC : Fld := ⟨0x400104, 0x400, 0x0, 15, 12, false⟩
def AX_FLAGS.ERR_OVF : Fld := ⟨0x400108, 0x400, 0x0, 9, 9, false⟩
def AX_FLAGS.OVR_OVF : Fld := ⟨0x400108, 0x400, 0x0, 8, 8, false⟩
def AX_FLAGS.BFP_SAT : Fld := ⟨0x400108, 0x400, 0x0, 7, 7, false⟩
def AX_FLAGS.INT_CLAMPED : Fld := ⟨0x400108, 0x400, 0x0, 6, 6, false⟩
def AX_FLAGS.MIGRATED : Fld := ⟨0x400108, 0x400, 0x0, 5, 5, false⟩
def AX_FLAGS.CLR_REFUSED : Fld := ⟨0x400108, 0x400, 0x0, 4, 4, false⟩
def AX_FLAGS.STALE_SEEN : Fld := ⟨0x400108, 0x400, 0x0, 3, 3, false⟩
def AX_FLAGS.FLT_SEEN : Fld := ⟨0x400108, 0x400, 0x0, 2, 2, false⟩
def AX_FLAGS.OVR : Fld := ⟨0x400108, 0x400, 0x0, 1, 1, false⟩
def AX_CNT.LANE_ERR : Fld := ⟨0x40010c, 0x400, 0x0, 31, 16, false⟩
def AX_CNT.LANE_OVR : Fld := ⟨0x40010c, 0x400, 0x0, 15, 0, false⟩
def AX_FB_POS.VALUE : Fld := ⟨0x400110, 0x400, 0x0, 31, 0, false⟩
def AX_FB_VEL.MANT : Fld := ⟨0x400114, 0x400, 0x0, 31, 8, false⟩
def AX_FB_VEL.EXP : Fld := ⟨0x400114, 0x400, 0x0, 5, 0, false⟩
def AX_EP.VALUE : Fld := ⟨0x400118, 0x400, 0x0, 31, 0, false⟩
def AX_OUT.MANT : Fld := ⟨0x40011c, 0x400, 0x0, 31, 8, false⟩
def AX_OUT.EXP : Fld := ⟨0x40011c, 0x400, 0x0, 5, 0, false⟩
def AX_INT.MANT : Fld := ⟨0x400120, 0x400, 0x0, 31, 8, false⟩
def AX_INT.EXP : Fld := ⟨0x400120, 0x400, 0x0, 5, 0, false⟩
def AX_TIME.SLACK : Fld := ⟨0x400124, 0x400, 0x0, 31, 24, false⟩
def AX_TIME.DONE : Fld := ⟨0x400124, 0x400, 0x0, 17, 0, false⟩
def AX_MAP.PHYS : Fld := ⟨0x400128, 0x400, 0x0, 7, 0, false⟩
def FB_CFG.MODE : Fld := ⟨0x600010, 0x200, 0x0, 31, 28, true⟩
def FB_CFG.DECODE : Fld := ⟨0x600010, 0x200, 0x0, 27, 26, true⟩
def FB_CFG.DIR_INV : Fld := ⟨0x600010, 0x200, 0x0, 25, 25, true⟩
def FB_CFG.GRAY : Fld := ⟨0x600010, 0x200, 0x0, 24, 24, true⟩
def FB_CFG.OWNER : Fld := ⟨0x600010, 0x200, 0x0, 23, 16, false⟩
def FB_CFG.FILT : Fld := ⟨0x600010, 0x200, 0x0, 15, 8, true⟩
def FB_CFG.AUX_FILT : Fld := ⟨0x600010, 0x200, 0x0, 7, 0, true⟩
def FB_MOD.MOD : Fld := ⟨0x600014, 0x200, 0x0, 31, 0, true⟩
def FB_IDX.ZRST : Fld := ⟨0x600018, 0x200, 0x0, 31, 30, true⟩
def FB_IDX.ZGATE : Fld := ⟨0x600018, 0x200, 0x0, 29, 28, true⟩
def FB_IDX.ZPOL : Fld := ⟨0x600018, 0x200, 0x0, 27, 27, true⟩
def FB_IDX.STEP_POL : Fld := ⟨0x600018, 0x200, 0x0, 26, 26, true⟩
def FB_ZVAL.ZVAL : Fld := ⟨0x60001c, 0x200, 0x0, 31, 0, true⟩
def FB_ILL.ILL_LIMIT : Fld := ⟨0x600020, 0x200, 0x0, 31, 16, true⟩
def FB_ILL.ILL_WINDOW : Fld := ⟨0x600020, 0x200, 0x0, 15, 0, true⟩
def FB_HALL.HALL_OFS : Fld := ⟨0x600024, 0x200, 0x0, 31, 16, true⟩
def FB_HALL.HALL_INTERP : Fld := ⟨0x600024, 0x200, 0x0, 15, 15, true⟩
def FB_HALL.HALL_TMO : Fld := ⟨0x600024, 0x200, 0x0, 11, 0, true⟩
def FB_SPD.SPD_TMO : Fld := ⟨0x600028, 0x200, 0x0, 15, 0, true⟩
def FB_XFER.DIV : Fld := ⟨0x600030, 0x200, 0x0, 31, 18, true⟩
def FB_XFER.XFER_LEAD : Fld := ⟨0x600030, 0x200, 0x0, 17, 0, true⟩
def FB_XFER2.XFER_CL : Fld := ⟨0x600034, 0x200, 0x0, 31, 31, true⟩
def FB_XFER2.BAD_N : Fld := ⟨0x600034, 0x200, 0x0, 30, 28, true⟩
def FB_XFER2.DATA_DLY : Fld := ⟨0x600034, 0x200, 0x0, 27, 20, true⟩
def FB_XFER2.TM : Fld := ⟨0x600034, 0x200, 0x0, 19, 12, true⟩
def FB_XFER2.LAT_OFS : Fld := ⟨0x600034, 0x200, 0x0, 11, 0, true⟩
def FB_FRAME.NBITS : Fld := ⟨0x600038, 0x200, 0x0, 31, 25, true⟩
def FB_FRAME.POS_OFS : Fld := ⟨0x600038, 0x200, 0x0, 24, 18, true⟩
def FB_FRAME.POS_LEN : Fld := ⟨0x600038, 0x200, 0x0, 17, 12, true⟩
def FB_FRAME.MT_OFS : Fld := ⟨0x600038, 0x200, 0x0, 11, 5, true⟩
def FB_FRAME.MT_LEN : Fld := ⟨0x600038, 0x200, 0x0, 4, 0, true⟩
def FB_FRAME2.ERR_OFS : Fld := ⟨0x60003c, 0x200, 0x0, 31, 25, true⟩
def FB_FRAME2.ERR_LEN : Fld := ⟨0x60003c, 0x200, 0x0, 24, 21, true⟩
def FB_FRAME2.ERR_MASK : Fld := ⟨0x60003c, 0x200, 0x0, 20, 13, true⟩
def FB_FRAME2.PAR : Fld := ⟨0x60003c, 0x200, 0x0, 12, 11, true⟩
def FB_FRAME2.MSB_FIRST : Fld := ⟨0x60003c, 0x200, 0x0, 10, 10, true⟩
def FB_FRAME2.START : Fld := ⟨0x60003c, 0x200, 0x0, 9, 9, true⟩
def FB_FRAME2.REQ_LEN : Fld := ⟨0x60003c, 0x200, 0x0, 5, 0, true⟩
def FB_REQ.REQ : Fld := ⟨0x600040, 0x200, 0x0, 31, 0, true⟩
def FB_CRC.POLY : Fld := ⟨0x600044, 0x200, 0x0, 31, 0, true⟩
def FB_CRC_CFG.CRC_W : Fld := ⟨0x600048, 0x200, 0x0, 31, 26, true⟩
def FB_CRC_CFG.INIT1 : Fld := ⟨0x600048, 0x200, 0x0, 25, 25, true⟩
def FB_CRC_CFG.XOROUT1 : Fld := ⟨0x600048, 0x200, 0x0, 24, 24, true⟩
def FB_JUMP.JUMP_MAX : Fld := ⟨0x60004c, 0x200, 0x0, 31, 0, true⟩
def FB_CMP_CFG.EN : Fld := ⟨0x600050, 0x200, 0x0, 31, 31, false⟩
def FB_CMP_CFG.DIR : Fld := ⟨0x600050, 0x200, 0x0, 30, 29, false⟩
def FB_CMP_CFG.CMP_OUT : Fld := ⟨0x600050, 0x200, 0x0, 28, 28, false⟩
def FB_CMP_CFG.WIDTH : Fld := ⟨0x600050, 0x200, 0x0, 15, 0, false⟩
def FB_CMP.VALUE : Fld := ⟨0x600054, 0x200, 0x0, 31, 0, false⟩
def FB_CMP_SP.VALUE : Fld := ⟨0x600058, 0x200, 0x0, 31, 0, false⟩
def FB_CMP_STAMP.NS : Fld := ⟨0x60005c, 0x200, 0x0, 31, 0, false⟩
def FB_LATCH_CFG.LATCH_SRC : Fld := ⟨0x600060, 0x200, 0x0, 31, 28, false⟩
def FB_LATCH_CFG.EDGE : Fld := ⟨0x600060, 0x200, 0x0, 27, 26, false⟩
def FB_LATCH_POS.VALUE : Fld := ⟨0x600064, 0x200, 0x0, 31, 0, false⟩
def FB_LATCH_STAMP.VALUE : Fld := ⟨0x600068, 0x200, 0x0, 31, 0, false⟩
def FB_PT.PT_MODE : Fld := ⟨0x600070, 0x200, 0x0, 31, 30, true⟩
def FB_PT.PT_SRC : Fld := ⟨0x600070, 0x200, 0x0, 29, 26, true⟩
def FB_PT.PT_DIV : Fld := ⟨0x600070, 0x200, 0x0, 23, 16, true⟩
def FB_PT.PT_FMAX : Fld := ⟨0x600070, 0x200, 0x0, 15, 0, true⟩
def FB_POS.VALUE : Fld := ⟨0x600080, 0x200, 0x0, 31, 0, false⟩
def FB_REV.VALUE : Fld := ⟨0x600084, 0x200, 0x0, 31, 0, false⟩
def FB_CPOS.VALUE : Fld := ⟨0x600088, 0x200, 0x0, 31, 0, false⟩
def FB_SPEED.SPEED : Fld := ⟨0x60008c, 0x200, 0x0, 31, 0, false⟩
def FB_ANGLE.ANGLE : Fld := ⟨0x600090, 0x200, 0x0, 31, 16, false⟩
def FB_IDX_POS.VALUE : Fld := ⟨0x600094, 0x200, 0x0, 31, 0, false⟩
def FB_IDX_STAMP.VALUE : Fld := ⟨0x600098, 0x200, 0x0, 31, 0, false⟩
def FB_STAT.FAULT : Fld := ⟨0x6000a0, 0x200, 0x0, 31, 31, false⟩
def FB_STAT.LOST : Fld := ⟨0x6000a0, 0x200, 0x0, 30, 30, false⟩
def FB_STAT.POS_UNCERTAIN : Fld := ⟨0x6000a0, 0x200, 0x0, 29, 29, false⟩
def FB_STAT.BEHIND : Fld := ⟨0x6000a0, 0x200, 0x0, 28, 28, false⟩
def FB_STAT.LATCH_FULL : Fld := ⟨0x6000a0, 0x200, 0x0, 27, 27, false⟩
def FB_STAT.CAUSE : Fld := ⟨0x6000a0, 0x200, 0x0, 26, 24, false⟩
def FB_STAT.IN : Fld := ⟨0x6000a0, 0x200, 0x0, 23, 21, false⟩
def FB_STAT.AUX : Fld := ⟨0x6000a0, 0x200, 0x0, 20, 18, false⟩
def FB_STAT.SECT : Fld := ⟨0x6000a0, 0x200, 0x0, 17, 15, false⟩
def FB_STAT.DIR : Fld := ⟨0x6000a0, 0x200, 0x0, 14, 14, false⟩
def FB_STAT.ZARM : Fld := ⟨0x6000a0, 0x200, 0x0, 13, 13, false⟩
def FB_FLAGS.LATE_OVF : Fld := ⟨0x6000a4, 0x200, 0x0, 17, 17, false⟩
def FB_FLAGS.CMP_OVF : Fld := ⟨0x6000a4, 0x200, 0x0, 16, 16, false⟩
def FB_FLAGS.BAD_OVF : Fld := ⟨0x6000a4, 0x200, 0x0, 15, 15, false⟩
def FB_FLAGS.ILL_OVF : Fld := ⟨0x6000a4, 0x200, 0x0, 14, 14, false⟩
def FB_FLAGS.REV_WRAP : Fld := ⟨0x6000a4, 0x200, 0x0, 13, 13, false⟩
def FB_FLAGS.HALL_SKIP : Fld := ⟨0x6000a4, 0x200, 0x0, 12, 12, false⟩
def FB_FLAGS.HALL_BAD : Fld := ⟨0x6000a4, 0x200, 0x0, 11, 11, false⟩
def FB_FLAGS.LINE_ERR : Fld := ⟨0x6000a4, 0x200, 0x0, 10, 10, false⟩
def FB_FLAGS.CRC_ERR : Fld := ⟨0x6000a4, 0x200, 0x0, 9, 9, false⟩
def FB_FLAGS.ENC_ERR : Fld := ⟨0x6000a4, 0x200, 0x0, 8, 8, false⟩
def FB_FLAGS.TIMEOUT : Fld := ⟨0x6000a4, 0x200, 0x0, 7, 7, false⟩
def FB_FLAGS.JUMP : Fld := ⟨0x6000a4, 0x200, 0x0, 6, 6, false⟩
def FB_FLAGS.PT_CONFLICT : Fld := ⟨0x6000a4, 0x200, 0x0, 5, 5, false⟩
def FB_FLAGS.PT_LAG : Fld := ⟨0x6000a4, 0x200, 0x0, 4, 4, false⟩
def FB_FLAGS.LATCH_LOST : Fld := ⟨0x6000a4, 0x200, 0x0, 3, 3, false⟩
def FB_FLAGS.CLR_REFUSED : Fld := ⟨0x6000a4, 0x200, 0x0, 2, 2, false⟩
def FB_FLAGS.IDX_SEEN : Fld := ⟨0x6000a4, 0x200, 0x0, 1, 1, false⟩
def FB_CNT.ILL_CNT : Fld := ⟨0x6000a8, 0x200, 0x0, 31, 16, false⟩
def FB_CNT.BAD_CNT : Fld := ⟨0x6000a8, 0x200, 0x0, 15, 0, false⟩
def FB_CNT2.CMP_CNT : Fld := ⟨0x6000ac, 0x200, 0x0, 31, 16, false⟩
def FB_CNT2.XFER_LATE : Fld := ⟨0x6000ac, 0x200, 0x0, 15, 0, false⟩
def FB_CTRL.FLT_CLR : Fld := ⟨0x6000b0, 0x200, 0x0, 31, 31, false⟩
def FB_CTRL.ZARM : Fld := ⟨0x6000b0, 0x200, 0x0, 30, 30, false⟩
def PB_CFG.MODE : Fld := ⟨0x640010, 0x200, 0x0, 31, 31, false⟩
def PB_CFG.CAR : Fld := ⟨0x640010, 0x200, 0x0, 30, 30, false⟩
def PB_CFG.RLD : Fld := ⟨0x640010, 0x200, 0x0, 29, 28, true⟩
def PB_CFG.TRIP_ST : Fld := ⟨0x640010, 0x200, 0x0, 27, 27, true⟩
def PB_CFG.POL_H : Fld := ⟨0x640010, 0x200, 0x0, 26, 26, false⟩
def PB_CFG.POL_L : Fld := ⟨0x640010, 0x200, 0x0, 25, 25, false⟩
def PB_CFG.BOOT_EN : Fld := ⟨0x640010, 0x200, 0x0, 24, 24, true⟩
def PB_CFG.N : Fld := ⟨0x640010, 0x200, 0x0, 8, 0, false⟩
def PB_CAR.CAR_PH : Fld := ⟨0x640014, 0x200, 0x0, 19, 0, false⟩
def PB_PER.PER : Fld := ⟨0x640018, 0x200, 0x0, 19, 0, false⟩
def PB_DT.MIN_PULSE : Fld := ⟨0x64001c, 0x200, 0x0, 27, 16, true⟩
def PB_DT.DT : Fld := ⟨0x64001c, 0x200, 0x0, 9, 0, true⟩
def PB_BOOT.BOOT_N : Fld := ⟨0x640020, 0x200, 0x0, 31, 24, true⟩
def PB_BOOT.BOOT_W : Fld := ⟨0x640020, 0x200, 0x0, 15, 0, true⟩
def PB_TRIP_CFG.TRIP_MASK : Fld := ⟨0x640024, 0x200, 0x0, 27, 16, true⟩
def PB_TRIP_CFG.TRIP_POL : Fld := ⟨0x640024, 0x200, 0x0, 15, 15, true⟩
def PB_TRIP_CFG.TRIP_FILT : Fld := ⟨0x640024, 0x200, 0x0, 7, 0, true⟩
def PB_BLANK.BLANK_SRC : Fld := ⟨0x640028, 0x200, 0x0, 31, 24, true⟩
def PB_BLANK.BLANK_W : Fld := ⟨0x640028, 0x200, 0x0, 15, 0, true⟩
def PB_SENSE.IA : Fld := ⟨0x64002c, 0x200, 0x0, 20, 16, true⟩
def PB_SENSE.IB : Fld := ⟨0x64002c, 0x200, 0x0, 12, 8, true⟩
def PB_SENSE.IC : Fld := ⟨0x64002c, 0x200, 0x0, 4, 0, true⟩
def PB_DUTY_U.ON : Fld := ⟨0x640040, 0x200, 0x0, 23, 0, false⟩
def PB_DUTY_V.ON : Fld := ⟨0x640044, 0x200, 0x0, 23, 0, false⟩
def PB_DUTY_W.ON : Fld := ⟨0x640048, 0x200, 0x0, 23, 0, false⟩
def PB_DUTY_GO.GO : Fld := ⟨0x64004c, 0x200, 0x0, 31, 31, false⟩
def PB_ACT_U.ON : Fld := ⟨0x640050, 0x200, 0x0, 23, 0, false⟩
def PB_ACT_V.ON : Fld := ⟨0x640054, 0x200, 0x0, 23, 0, false⟩
def PB_ACT_W.ON : Fld := ⟨0x640058, 0x200, 0x0, 23, 0, false⟩
def PB_CTRL.EN : Fld := ⟨0x640060, 0x200, 0x0, 31, 31, false⟩
def PB_CTRL.TRIP_CLR : Fld := ⟨0x640060, 0x200, 0x0, 30, 30, false⟩
def PB_STAT.TRIP_ACT : Fld := ⟨0x640064, 0x200, 0x0, 31, 31, false⟩
def PB_STAT.IN_TRIP : Fld := ⟨0x640064, 0x200, 0x0, 30, 30, false⟩
def PB_STAT.LANE_OFF : Fld := ⟨0x640064, 0x200, 0x0, 29, 29, false⟩
def PB_STAT.OWNED : Fld := ⟨0x640064, 0x200, 0x0, 28, 28, false⟩
def PB_STAT.GO_PEND : Fld := ⟨0x640064, 0x200, 0x0, 27, 27, false⟩
def PB_STAT.TRIP_IN : Fld := ⟨0x640064, 0x200, 0x0, 23, 12, false⟩
def PB_STAT.DITHER : Fld := ⟨0x640064, 0x200, 0x0, 3, 0, false⟩
def PB_FLAGS.BOOT_OVF : Fld := ⟨0x640068, 0x200, 0x0, 5, 5, false⟩
def PB_FLAGS.TRIP_OVF : Fld := ⟨0x640068, 0x200, 0x0, 4, 4, false⟩
def PB_FLAGS.TRIP_SEEN : Fld := ⟨0x640068, 0x200, 0x0, 3, 3, false⟩
def PB_FLAGS.DUTY_OWNED : Fld := ⟨0x640068, 0x200, 0x0, 2, 2, false⟩
def PB_FLAGS.CLR_REFUSED : Fld := ⟨0x640068, 0x200, 0x0, 1, 1, false⟩
def PB_FLAGS.LATE_UPD : Fld := ⟨0x640068, 0x200, 0x0, 0, 0, false⟩
def PB_CNT.TRIP_CNT : Fld := ⟨0x64006c, 0x200, 0x0, 31, 16, false⟩
def PB_CNT.BOOT_CNT : Fld := ⟨0x64006c, 0x200, 0x0, 15, 0, false⟩
def PB_TRIP_STAMP.NS : Fld := ⟨0x640070, 0x200, 0x0, 31, 0, false⟩
def SD_CK.EN : Fld := ⟨0x660010, 0x0, 0x4, 31, 31, false⟩
def SD_CK.CKDIV : Fld := ⟨0x660010, 0x0, 0x4, 9, 0, false⟩
def SD_CFG.EN : Fld := ⟨0x660100, 0x0, 0x20, 31, 31, false⟩
def SD_CFG.CKSEL : Fld := ⟨0x660100, 0x0, 0x20, 30, 29, false⟩
def SD_CFG.SMP_DLY : Fld := ⟨0x660100, 0x0, 0x20, 27, 24, false⟩
def SD_CFG.FSRC : Fld := ⟨0x660100, 0x0, 0x20, 20, 16, false⟩
def SD_CFG.OSR : Fld := ⟨0x660100, 0x0, 0x20, 8, 0, false⟩
def SD_OFS.OFS : Fld := ⟨0x660104, 0x0, 0x20, 17, 0, false⟩
def SD_SCALE.SCALE : Fld := ⟨0x660108, 0x0, 0x20, 31, 0, true⟩
def SD_ZERO.ZERO : Fld := ⟨0x66010c, 0x0, 0x20, 31, 8, true⟩
def SD_VAL.X : Fld := ⟨0x660110, 0x0, 0x20, 31, 8, false⟩
def SD_STAMP.NS : Fld := ⟨0x660114, 0x0, 0x20, 31, 0, false⟩
def SD_STAT.CLIP : Fld := ⟨0x660118, 0x0, 0x20, 31, 31, false⟩
def SD_STAT.CLIP_OVF : Fld := ⟨0x660118, 0x0, 0x20, 30, 30, false⟩
def SD_STAT.CLIP_CNT : Fld := ⟨0x660118, 0x0, 0x20, 15, 0, false⟩
def IKL_CFG.ROLE : Fld := ⟨0x680010, 0x40000, 0x0, 31, 29, false⟩
def IKL_CFG.FOLD_OK : Fld := ⟨0x680010, 0x40000, 0x0, 28, 28, false⟩
def IKL_CFG.DCH : Fld := ⟨0x680010, 0x40000, 0x0, 27, 24, false⟩
def IKL_CFG.ADDR : Fld := ⟨0x680010, 0x40000, 0x0, 23, 12, false⟩
def IKL_CYC.VALUE : Fld := ⟨0x680014, 0x40000, 0x0, 31, 0, false⟩
def IKL_CYC_OFS.VALUE : Fld := ⟨0x680018, 0x40000, 0x0, 31, 0, false⟩
def IKL_LEN.NNODES : Fld := ⟨0x68001c, 0x40000, 0x0, 23, 16, false⟩
def IKL_LEN.LEN : Fld := ⟨0x68001c, 0x40000, 0x0, 14, 0, false⟩
def IKL_TOL.GUARD : Fld := ⟨0x680020, 0x40000, 0x0, 31, 16, true⟩
def IKL_TOL.ARRIVAL_TOL : Fld := ⟨0x680020, 0x40000, 0x0, 15, 0, true⟩
def IKL_MON.DRIFT_THR : Fld := ⟨0x680024, 0x40000, 0x0, 31, 24, true⟩
def IKL_MON.LOSS_N : Fld := ⟨0x680024, 0x40000, 0x0, 23, 16, true⟩
def IKL_MON.DM_EXP : Fld := ⟨0x680024, 0x40000, 0x0, 11, 8, true⟩
def IKL_CTRL.DM_NOW : Fld := ⟨0x680028, 0x40000, 0x0, 31, 31, false⟩
def IKL_CTRL.REVERT_P0 : Fld := ⟨0x680028, 0x40000, 0x0, 30, 30, false⟩
def IKL_CTRL.REVERT_P1 : Fld := ⟨0x680028, 0x40000, 0x0, 29, 29, false⟩
def IKL_STAT.STATE : Fld := ⟨0x680030, 0x40000, 0x0, 31, 29, false⟩
def IKL_STAT.FOLD : Fld := ⟨0x680030, 0x40000, 0x0, 28, 28, false⟩
def IKL_STAT.REMAP : Fld := ⟨0x680030, 0x40000, 0x0, 27, 27, false⟩
def IKL_STAT.P0_DOWN : Fld := ⟨0x680030, 0x40000, 0x0, 26, 26, false⟩
def IKL_STAT.P1_DOWN : Fld := ⟨0x680030, 0x40000, 0x0, 25, 25, false⟩
def IKL_STAT.P0_SPARE : Fld := ⟨0x680030, 0x40000, 0x0, 24, 24, false⟩
def IKL_STAT.P1_SPARE : Fld := ⟨0x680030, 0x40000, 0x0, 23, 23, false⟩
def IKL_STAT.ASYM : Fld := ⟨0x680030, 0x40000, 0x0, 22, 22, false⟩
def IKL_STAT.SCHED_BAD : Fld := ⟨0x680030, 0x40000, 0x0, 21, 21, false⟩
def IKL_STAT.ARR_CONSEC : Fld := ⟨0x680030, 0x40000, 0x0, 19, 16, false⟩
def IKL_STAT.CLAIM : Fld := ⟨0x680030, 0x40000, 0x0, 15, 0, false⟩
def IKL_CYCNUM.VALUE : Fld := ⟨0x680034, 0x40000, 0x0, 31, 0, false⟩
def IKL_ARR.ARR_ERR : Fld := ⟨0x680038, 0x40000, 0x0, 31, 16, false⟩
def IKL_DLY.VALUE : Fld := ⟨0x68003c, 0x40000, 0x0, 31, 0, false⟩
def IKL_RTT.VALUE : Fld := ⟨0x680040, 0x40000, 0x0, 31, 0, false⟩
def IKL_IN.VALUE : Fld := ⟨0x680044, 0x40000, 0x0, 31, 0, false⟩
def IKL_IN_STAMP.VALUE : Fld := ⟨0x680048, 0x40000, 0x0, 31, 0, false⟩
def IKL_FLAGS.SCHED_SEEN : Fld := ⟨0x68004c, 0x40000, 0x0, 16, 16, false⟩
def IKL_FLAGS.LOST_OVF : Fld := ⟨0x68004c, 0x40000, 0x0, 15, 15, false⟩
def IKL_FLAGS.SW_OVF : Fld := ⟨0x68004c, 0x40000, 0x0, 14, 14, false⟩
def IKL_FLAGS.CRC_OVF : Fld := ⟨0x68004c, 0x40000, 0x0, 13, 13, false⟩
def IKL_FLAGS.ARR_OVF : Fld := ⟨0x68004c, 0x40000, 0x0, 12, 12, false⟩
def IKL_FLAGS.LATE_OVF : Fld := ⟨0x68004c, 0x40000, 0x0, 11, 11, false⟩
def IKL_FLAGS.NULL_OVF : Fld := ⟨0x68004c, 0x40000, 0x0, 10, 10, false⟩
def IKL_FLAGS.RING_DRIFT : Fld := ⟨0x68004c, 0x40000, 0x0, 9, 9, false⟩
def IKL_FLAGS.NPASS_DIFF : Fld := ⟨0x68004c, 0x40000, 0x0, 8, 8, false⟩
def IKL_FLAGS.ASYM_SEEN : Fld := ⟨0x68004c, 0x40000, 0x0, 7, 7, false⟩
def IKL_FLAGS.REMAP_SEEN : Fld := ⟨0x68004c, 0x40000, 0x0, 6, 6, false⟩
def IKL_FLAGS.FOLD_SEEN : Fld := ⟨0x68004c, 0x40000, 0x0, 5, 5, false⟩
def IKL_FLAGS.LANE_SW : Fld := ⟨0x68004c, 0x40000, 0x0, 4, 4, false⟩
def IKL_FLAGS.REINT : Fld := ⟨0x68004c, 0x40000, 0x0, 3, 3, false⟩
def IKL_FLAGS.ARR_SEEN : Fld := ⟨0x68004c, 0x40000, 0x0, 2, 2, false⟩
def IKL_FLAGS.NULL_SEEN : Fld := ⟨0x68004c, 0x40000, 0x0, 1, 1, false⟩
def IKL_FLAGS.LATE_SEEN : Fld := ⟨0x68004c, 0x40000, 0x0, 0, 0, false⟩
def IKL_CNT_A.LATE : Fld := ⟨0x680050, 0x40000, 0x0, 31, 16, false⟩
def IKL_CNT_A.NULL : Fld := ⟨0x680050, 0x40000, 0x0, 15, 0, false⟩
def IKL_CNT_B.CRC_ERR : Fld := ⟨0x680054, 0x40000, 0x0, 31, 16, false⟩
def IKL_CNT_B.ARR_CNT : Fld := ⟨0x680054, 0x40000, 0x0, 15, 0, false⟩
def IKL_CNT_C.LOST : Fld := ⟨0x680058, 0x40000, 0x0, 31, 16, false⟩
def IKL_CNT_C.LANE_SW_CNT : Fld := ⟨0x680058, 0x40000, 0x0, 15, 0, false⟩
def IKL_START.LOSS_CYC : Fld := ⟨0x680060, 0x40000, 0x0, 31, 24, true⟩
def IKL_START.LL_REACT : Fld := ⟨0x680060, 0x40000, 0x0, 23, 22, true⟩
def IKL_START.REJOIN_TMO : Fld := ⟨0x680060, 0x40000, 0x0, 15, 0, true⟩
def IKL_CS.CS_STATE : Fld := ⟨0x680064, 0x40000, 0x0, 31, 29, false⟩
def IKL_CS.CS_CAP : Fld := ⟨0x680064, 0x40000, 0x0, 28, 28, false⟩
def IKL_CS.LL_ACT : Fld := ⟨0x680064, 0x40000, 0x0, 27, 27, false⟩
def IKL_CS.INT_CNT : Fld := ⟨0x680064, 0x40000, 0x0, 19, 16, false⟩
def IKL_CS.T_WAIT : Fld := ⟨0x680064, 0x40000, 0x0, 15, 0, false⟩
def IKL_CS_PEER.VALUE : Fld := ⟨0x680068, 0x40000, 0x0, 31, 0, false⟩
def IKL_CS_PEER_LO.VALUE : Fld := ⟨0x68006c, 0x40000, 0x0, 31, 0, false⟩
def IKL_CNT_D.CS_RETRY : Fld := ⟨0x680070, 0x40000, 0x0, 31, 16, false⟩
def IKL_CNT_D.INT_RESTART : Fld := ⟨0x680070, 0x40000, 0x0, 15, 0, false⟩
def IKL_CNT_E.FOREIGN : Fld := ⟨0x680074, 0x40000, 0x0, 31, 16, false⟩
def IKL_CNT_E.LL_CNT : Fld := ⟨0x680074, 0x40000, 0x0, 15, 0, false⟩
def IKL_FLAGS2.FOREIGN_OVF : Fld := ⟨0x680078, 0x40000, 0x0, 7, 7, false⟩
def IKL_FLAGS2.LL_OVF : Fld := ⟨0x680078, 0x40000, 0x0, 6, 6, false⟩
def IKL_FLAGS2.INTR_OVF : Fld := ⟨0x680078, 0x40000, 0x0, 5, 5, false⟩
def IKL_FLAGS2.CSR_OVF : Fld := ⟨0x680078, 0x40000, 0x0, 4, 4, false⟩
def IKL_FLAGS2.CLAIM_CONFLICT : Fld := ⟨0x680078, 0x40000, 0x0, 3, 3, false⟩
def IKL_FLAGS2.CS_LOST : Fld := ⟨0x680078, 0x40000, 0x0, 2, 2, false⟩
def IKL_FLAGS2.LEADER_LOST : Fld := ⟨0x680078, 0x40000, 0x0, 1, 1, false⟩
def IKL_FLAGS2.CS_REJECT : Fld := ⟨0x680078, 0x40000, 0x0, 0, 0, false⟩
def TWN_CFG.EN : Fld := ⟨0x700010, 0x0, 0x0, 31, 31, false⟩
def TWN_CFG.REVERT : Fld := ⟨0x700010, 0x0, 0x0, 30, 30, true⟩
def TWN_CFG.SURR_EN : Fld := ⟨0x700010, 0x0, 0x0, 26, 24, true⟩
def TWN_CFG.HB_CYC : Fld := ⟨0x700010, 0x0, 0x0, 23, 16, true⟩
def TWN_CFG.CLAIM_CFG : Fld := ⟨0x700010, 0x0, 0x0, 15, 0, false⟩
def TWN_TIME.HOLDOFF : Fld := ⟨0x700014, 0x0, 0x0, 31, 16, true⟩
def TWN_TIME.TKO_LEAD : Fld := ⟨0x700014, 0x0, 0x0, 11, 0, true⟩
def TWN_CTRL.HB_NOW : Fld := ⟨0x700018, 0x0, 0x0, 31, 31, false⟩
def TWN_STAT.LINK_UP : Fld := ⟨0x700020, 0x0, 0x0, 31, 31, false⟩
def TWN_STAT.PEER_SYNCED : Fld := ⟨0x700020, 0x0, 0x0, 30, 30, false⟩
def TWN_STAT.SYNC : Fld := ⟨0x700020, 0x0, 0x0, 29, 29, false⟩
def TWN_STAT.READY : Fld := ⟨0x700020, 0x0, 0x0, 28, 28, false⟩
def TWN_STAT.PEER_READY : Fld := ⟨0x700020, 0x0, 0x0, 27, 27, false⟩
def TWN_STAT.HB_PEND : Fld := ⟨0x700020, 0x0, 0x0, 26, 26, false⟩
def TWN_STAT.HB_FINAL : Fld := ⟨0x700020, 0x0, 0x0, 25, 25, false⟩
def TWN_STAT.LANE8_LOCK : Fld := ⟨0x700020, 0x0, 0x0, 24, 24, false⟩
def TWN_STAT.LANE9_LOCK : Fld := ⟨0x700020, 0x0, 0x0, 23, 23, false⟩
def TWN_STAT.PEER_MODE : Fld := ⟨0x700020, 0x0, 0x0, 19, 16, false⟩
def TWN_STAT.PEER_CLAIM : Fld := ⟨0x700020, 0x0, 0x0, 15, 0, false⟩
def TWN_PEER_HI.VALUE : Fld := ⟨0x700024, 0x0, 0x0, 31, 0, false⟩
def TWN_PEER_LO.VALUE : Fld := ⟨0x700028, 0x0, 0x0, 31, 0, false⟩
def TWN_SIG.PAIR_SIG : Fld := ⟨0x70002c, 0x0, 0x0, 31, 0, false⟩
def TWN_VORG.V_B : Fld := ⟨0x700030, 0x0, 0x0, 31, 16, false⟩
def TWN_VORG.V_A : Fld := ⟨0x700030, 0x0, 0x0, 15, 0, false⟩
def TWN_LINK.LINK_D9 : Fld := ⟨0x700034, 0x0, 0x0, 31, 16, false⟩
def TWN_LINK.LINK_D8 : Fld := ⟨0x700034, 0x0, 0x0, 15, 0, false⟩
def TWN_HB.HB_AT : Fld := ⟨0x700038, 0x0, 0x0, 31, 0, false⟩
def TWN_SURR.HOLDOFF_REM : Fld := ⟨0x70003c, 0x0, 0x0, 31, 16, false⟩
def TWN_SURR.REQ : Fld := ⟨0x70003c, 0x0, 0x0, 5, 5, false⟩
def TWN_SURR.SURR_LAST : Fld := ⟨0x70003c, 0x0, 0x0, 4, 0, false⟩
def TWN_FLAGS.FL_OVF : Fld := ⟨0x700040, 0x0, 0x0, 18, 18, false⟩
def TWN_FLAGS.MSG_OVF : Fld := ⟨0x700040, 0x0, 0x0, 17, 17, false⟩
def TWN_FLAGS.SURR_OVF : Fld := ⟨0x700040, 0x0, 0x0, 16, 16, false⟩
def TWN_FLAGS.TKO_OVF : Fld := ⟨0x700040, 0x0, 0x0, 15, 15, false⟩
def TWN_FLAGS.SOLVE_OVF : Fld := ⟨0x700040, 0x0, 0x0, 14, 14, false⟩
def TWN_FLAGS.SNAP_OVF : Fld := ⟨0x700040, 0x0, 0x0, 13, 13, false⟩
def TWN_FLAGS.TKO_REFUSED : Fld := ⟨0x700040, 0x0, 0x0, 9, 9, false⟩
def TWN_FLAGS.HB_CANCEL : Fld := ⟨0x700040, 0x0, 0x0, 8, 8, false⟩
def TWN_FLAGS.HANDED_BACK : Fld := ⟨0x700040, 0x0, 0x0, 7, 7, false⟩
def TWN_FLAGS.TOOK_OVER : Fld := ⟨0x700040, 0x0, 0x0, 6, 6, false⟩
def TWN_FLAGS.SURRENDERED : Fld := ⟨0x700040, 0x0, 0x0, 5, 5, false⟩
def TWN_FLAGS.SPLIT : Fld := ⟨0x700040, 0x0, 0x0, 4, 4, false⟩
def TWN_FLAGS.PEER_LOST : Fld := ⟨0x700040, 0x0, 0x0, 3, 3, false⟩
def TWN_FLAGS.PAIR_CLAIM_EQ : Fld := ⟨0x700040, 0x0, 0x0, 2, 2, false⟩
def TWN_FLAGS.PAIR_MISMATCH : Fld := ⟨0x700040, 0x0, 0x0, 1, 1, false⟩
def TWN_CNT_A.SNAP_MISS : Fld := ⟨0x700044, 0x0, 0x0, 31, 16, false⟩
def TWN_CNT_A.SOLVE_MISS : Fld := ⟨0x700044, 0x0, 0x0, 15, 0, false⟩
def TWN_CNT_B.TKO_CNT : Fld := ⟨0x700048, 0x0, 0x0, 31, 16, false⟩
def TWN_CNT_B.SURR_CNT : Fld := ⟨0x700048, 0x0, 0x0, 15, 0, false⟩
def TWN_CNT_C.MSG_ERR : Fld := ⟨0x70004c, 0x0, 0x0, 31, 16, false⟩
def TWN_CNT_C.FOREIGN_LOW : Fld := ⟨0x70004c, 0x0, 0x0, 15, 0, false⟩
def DCT_CFG.OBS : Fld := ⟨0x740010, 0x0, 0x0, 31, 30, false⟩
def DCT_CFG.TRACE_STOP : Fld := ⟨0x740010, 0x0, 0x0, 29, 29, false⟩
def DCT_CFG.APER : Fld := ⟨0x740010, 0x0, 0x0, 3, 0, false⟩
def DCT_LISTS.READY_S : Fld := ⟨0x740014, 0x0, 0x0, 31, 24, false⟩
def DCT_LISTS.READY_F : Fld := ⟨0x740014, 0x0, 0x0, 23, 16, false⟩
def DCT_LISTS.DELAY : Fld := ⟨0x740014, 0x0, 0x0, 15, 8, false⟩
def DCT_CANCEL.GO : Fld := ⟨0x740018, 0x0, 0x0, 31, 31, false⟩
def DCT_CANCEL.ITEM : Fld := ⟨0x740018, 0x0, 0x0, 7, 0, false⟩
def DCT_FLAGS.PAST_OVF : Fld := ⟨0x74001c, 0x0, 0x0, 8, 8, false⟩
def DCT_FLAGS.REF_OVF : Fld := ⟨0x74001c, 0x0, 0x0, 7, 7, false⟩
def DCT_FLAGS.TRACE_FULL : Fld := ⟨0x74001c, 0x0, 0x0, 6, 6, false⟩
def DCT_FLAGS.CANCEL_LATE : Fld := ⟨0x74001c, 0x0, 0x0, 5, 5, false⟩
def DCT_FLAGS.DELAY_FULL : Fld := ⟨0x74001c, 0x0, 0x0, 4, 4, false⟩
def DCT_FLAGS.FLOW_FULL : Fld := ⟨0x74001c, 0x0, 0x0, 3, 3, false⟩
def DCT_FLAGS.POOL_FULL : Fld := ⟨0x74001c, 0x0, 0x0, 2, 2, false⟩
def DCT_FLAGS.BAD_ITEM : Fld := ⟨0x74001c, 0x0, 0x0, 1, 1, false⟩
def DCT_CNT.REFUSED : Fld := ⟨0x740020, 0x0, 0x0, 31, 16, false⟩
def DCT_CNT.PAST : Fld := ⟨0x740020, 0x0, 0x0, 15, 0, false⟩
def DCT_TRACE_PTR.WRAPPED : Fld := ⟨0x740024, 0x0, 0x0, 31, 31, false⟩
def DCT_TRACE_PTR.NEXT : Fld := ⟨0x740024, 0x0, 0x0, 8, 0, false⟩
def DCT_FLOW.INFLIGHT : Fld := ⟨0x740040, 0x0, 0x4, 21, 16, false⟩
def DCT_FLOW.NEXT : Fld := ⟨0x740040, 0x0, 0x4, 15, 0, false⟩
def SUB_ENTRY.VALUE : Fld := ⟨0x740100, 0x0, 0x40, 31, 0, false⟩
def SUB_ARG.VALUE : Fld := ⟨0x740104, 0x0, 0x40, 31, 0, false⟩
def SUB_DUE.VALUE : Fld := ⟨0x740108, 0x0, 0x40, 31, 0, false⟩
def SUB_CTL.GO : Fld := ⟨0x74010c, 0x0, 0x40, 31, 31, false⟩
def SUB_CTL.TIMED : Fld := ⟨0x74010c, 0x0, 0x40, 30, 30, false⟩
def SUB_CTL.CLASS : Fld := ⟨0x74010c, 0x0, 0x40, 29, 29, false⟩
def SUB_CTL.PRIO : Fld := ⟨0x74010c, 0x0, 0x40, 26, 24, false⟩
def SUB_CTL.CORES : Fld := ⟨0x74010c, 0x0, 0x40, 23, 20, false⟩
def SUB_CTL.FLOW : Fld := ⟨0x74010c, 0x0, 0x40, 19, 16, false⟩
def SUB_RES.RES : Fld := ⟨0x740110, 0x0, 0x40, 31, 28, false⟩
def SUB_RES.ITEM : Fld := ⟨0x740110, 0x0, 0x40, 23, 16, false⟩
def SUB_RES.SEQ : Fld := ⟨0x740110, 0x0, 0x40, 15, 0, false⟩
def RES_A.VALUE : Fld := ⟨0x740180, 0x0, 0x40, 31, 0, false⟩
def RES_B.VALUE : Fld := ⟨0x740184, 0x0, 0x40, 31, 0, false⟩
def RES_LVL.VALUE : Fld := ⟨0x740188, 0x0, 0x40, 31, 0, false⟩
def SCR_LOAD.PEAK : Fld := ⟨0x740200, 0x0, 0x0, 25, 16, false⟩
def SCR_LOAD.LOAD : Fld := ⟨0x740200, 0x0, 0x0, 9, 0, false⟩
def SCR_SHED.SHED_HI : Fld := ⟨0x740204, 0x0, 0x0, 25, 16, false⟩
def SCR_SHED.SHED_LO : Fld := ⟨0x740204, 0x0, 0x0, 13, 4, false⟩
def SCR_SHED.LEVEL : Fld := ⟨0x740204, 0x0, 0x0, 1, 0, false⟩
def SCR_WDOG.KICK : Fld := ⟨0x740208, 0x0, 0x0, 31, 31, false⟩
def SCR_WDOG.REMAIN : Fld := ⟨0x740208, 0x0, 0x0, 13, 0, false⟩
def SCR_RST.OVF : Fld := ⟨0x74020c, 0x0, 0x0, 31, 31, false⟩
def SCR_RST.ROM : Fld := ⟨0x74020c, 0x0, 0x0, 30, 30, false⟩
def SCR_RST.ACTIVE : Fld := ⟨0x74020c, 0x0, 0x0, 29, 29, false⟩
def SCR_RST.LAST_US : Fld := ⟨0x74020c, 0x0, 0x0, 28, 16, false⟩
def SCR_RST.RESTARTS : Fld := ⟨0x74020c, 0x0, 0x0, 15, 0, false⟩
def SCR_BLQ.OVF : Fld := ⟨0x740210, 0x0, 0x0, 31, 31, false⟩
def SCR_BLQ.LEVEL : Fld := ⟨0x740210, 0x0, 0x0, 30, 24, false⟩
def SCR_BLQ.FAULTS : Fld := ⟨0x740210, 0x0, 0x0, 23, 17, false⟩
def SCR_BLQ.DROPPED : Fld := ⟨0x740210, 0x0, 0x0, 15, 0, false⟩
def SCR_TEST.OVF : Fld := ⟨0x740214, 0x0, 0x0, 31, 31, false⟩
def SCR_TEST.DEFERRED : Fld := ⟨0x740214, 0x0, 0x0, 30, 30, false⟩
def SCR_TEST.OVERDUE : Fld := ⟨0x740214, 0x0, 0x0, 29, 29, false⟩
def SCR_TEST.AGE : Fld := ⟨0x740214, 0x0, 0x0, 22, 16, false⟩
def SCR_TEST.DEFERS : Fld := ⟨0x740214, 0x0, 0x0, 15, 0, false⟩
def DCT_STAT.OVF : Fld := ⟨0x740300, 0x0, 0x8, 31, 31, false⟩
def DCT_STAT.DISP : Fld := ⟨0x740300, 0x0, 0x8, 23, 0, false⟩
def DCT_STAT2.MAXWAIT : Fld := ⟨0x740304, 0x0, 0x8, 31, 16, false⟩
def DCT_STAT2.MAXDEPTH : Fld := ⟨0x740304, 0x0, 0x8, 7, 0, false⟩
def SCR_MB_CTL.DOOR : Fld := ⟨0x740400, 0x0, 0x0, 31, 31, false⟩
def SCR_MB_CTL.MB_COLLIDE : Fld := ⟨0x740400, 0x0, 0x0, 30, 30, false⟩
def SCR_MB_STAT.STATUS : Fld := ⟨0x740404, 0x0, 0x0, 31, 28, false⟩
def SCR_MB_STAT.OP : Fld := ⟨0x740404, 0x0, 0x0, 23, 16, false⟩
def SCR_MB_STAT.CODE : Fld := ⟨0x740404, 0x0, 0x0, 15, 0, false⟩
def SCR_MB_REQ.WORD : Fld := ⟨0x740500, 0x0, 0x4, 31, 0, false⟩
def SCR_MB_RSP.WORD : Fld := ⟨0x740600, 0x0, 0x4, 31, 0, false⟩
def DCT_TRACE.STAMP : Fld := ⟨0x741000, 0x0, 0x8, 31, 0, false⟩
def DCT_TRACE2.KIND : Fld := ⟨0x741004, 0x0, 0x8, 31, 28, false⟩
def DCT_TRACE2.CLASS : Fld := ⟨0x741004, 0x0, 0x8, 27, 27, false⟩
def DCT_TRACE2.PRIO : Fld := ⟨0x741004, 0x0, 0x8, 26, 24, false⟩
def DCT_TRACE2.CORE : Fld := ⟨0x741004, 0x0, 0x8, 23, 20, false⟩
def DCT_TRACE2.FLOW : Fld := ⟨0x741004, 0x0, 0x8, 19, 16, false⟩
def DCT_TRACE2.ITEM : Fld := ⟨0x741004, 0x0, 0x8, 15, 8, false⟩
def SF_CFG.PERIODIC : Fld := ⟨0x780010, 0x10000, 0x0, 31, 31, false⟩
def SF_CFG.GRP : Fld := ⟨0x780010, 0x10000, 0x0, 30, 29, false⟩
def SF_CFG.REL_OFS : Fld := ⟨0x780010, 0x10000, 0x0, 17, 0, false⟩
def SF_ENTRY.INIT : Fld := ⟨0x780014, 0x10000, 0x0, 28, 16, false⟩
def SF_ENTRY.MAIN : Fld := ⟨0x780014, 0x10000, 0x0, 12, 0, false⟩
def SF_CTRL.RUN : Fld := ⟨0x780018, 0x10000, 0x0, 31, 31, false⟩
def SF_CTRL.DOORBELL : Fld := ⟨0x780018, 0x10000, 0x0, 30, 30, false⟩
def SF_IRQ.CAP_SEL : Fld := ⟨0x78001c, 0x10000, 0x0, 31, 29, true⟩
def SF_IRQ.SD_SEL : Fld := ⟨0x78001c, 0x10000, 0x0, 28, 24, true⟩
def SF_IRQ.RING_CH : Fld := ⟨0x78001c, 0x10000, 0x0, 23, 23, true⟩
def SF_IRQ.WARN : Fld := ⟨0x78001c, 0x10000, 0x0, 15, 0, true⟩
def SF_TIMER.AT : Fld := ⟨0x780020, 0x10000, 0x0, 31, 0, false⟩
def SF_STAT.STATE : Fld := ⟨0x780024, 0x10000, 0x0, 31, 30, false⟩
def SF_STAT.TARMED : Fld := ⟨0x780024, 0x10000, 0x0, 29, 29, false⟩
def SF_STAT.LDEPTH : Fld := ⟨0x780024, 0x10000, 0x0, 27, 26, false⟩
def SF_STAT.ROT : Fld := ⟨0x780024, 0x10000, 0x0, 25, 22, false⟩
def SF_STAT.IEEE : Fld := ⟨0x780024, 0x10000, 0x0, 19, 16, false⟩
def SF_STAT.PC : Fld := ⟨0x780024, 0x10000, 0x0, 12, 0, false⟩
def SF_FLT.CAUSE : Fld := ⟨0x780028, 0x10000, 0x0, 31, 28, false⟩
def SF_FLT.FPC : Fld := ⟨0x780028, 0x10000, 0x0, 12, 0, false⟩
def SF_FLAGS.FLT_OVF : Fld := ⟨0x78002c, 0x10000, 0x0, 7, 7, false⟩
def SF_FLAGS.LATE_OVF : Fld := ⟨0x78002c, 0x10000, 0x0, 6, 6, false⟩
def SF_FLAGS.IRQ_LOST : Fld := ⟨0x78002c, 0x10000, 0x0, 5, 5, false⟩
def SF_FLAGS.EXP_BAD : Fld := ⟨0x78002c, 0x10000, 0x0, 4, 4, false⟩
def SF_FLAGS.TBL_ERR : Fld := ⟨0x78002c, 0x10000, 0x0, 3, 3, false⟩
def SF_FLAGS.FAULT_SEEN : Fld := ⟨0x78002c, 0x10000, 0x0, 2, 2, false⟩
def SF_FLAGS.LATE : Fld := ⟨0x78002c, 0x10000, 0x0, 1, 1, false⟩
def SF_CNT.LATE_CNT : Fld := ⟨0x780030, 0x10000, 0x0, 31, 16, false⟩
def SF_CNT.FLT_CNT : Fld := ⟨0x780030, 0x10000, 0x0, 15, 0, false⟩
def SF_TIME.SLACK : Fld := ⟨0x780034, 0x10000, 0x0, 31, 24, false⟩
def SF_TIME.DONE : Fld := ⟨0x780034, 0x10000, 0x0, 17, 0, false⟩
def SF_IMP.KIND : Fld := ⟨0x780100, 0x10000, 0x8, 31, 28, true⟩
def SF_IMP.COUNT : Fld := ⟨0x780100, 0x10000, 0x8, 23, 16, true⟩
def SF_IMP.PAGE : Fld := ⟨0x780100, 0x10000, 0x8, 9, 0, true⟩
def SF_IMP_SRC.SRC : Fld := ⟨0x780104, 0x10000, 0x8, 31, 0, true⟩
def SF_EXP.KIND : Fld := ⟨0x780200, 0x10000, 0x8, 31, 28, true⟩
def SF_EXP.COUNT : Fld := ⟨0x780200, 0x10000, 0x8, 23, 16, true⟩
def SF_EXP.PAGE : Fld := ⟨0x780200, 0x10000, 0x8, 9, 0, true⟩
def SF_EXP_DST.DST : Fld := ⟨0x780204, 0x10000, 0x8, 31, 0, true⟩
def SPR_CFG.TRANS_N : Fld := ⟨0x7c0010, 0x0, 0x0, 31, 28, false⟩
def SPR_CFG.TRANS_WIN : Fld := ⟨0x7c0010, 0x0, 0x0, 27, 16, false⟩
def SPR_CFG.SCHED_PER : Fld := ⟨0x7c0010, 0x0, 0x0, 15, 0, false⟩
def SPR_STAT.ACTIVE : Fld := ⟨0x7c0014, 0x0, 0x0, 31, 29, false⟩
def SPR_STAT.WAITING : Fld := ⟨0x7c0014, 0x0, 0x0, 28, 20, false⟩
def SPR_STAT.REPLACE_ADVISE : Fld := ⟨0x7c0014, 0x0, 0x0, 19, 19, false⟩
def SPR_STAT.SURR_FAIL : Fld := ⟨0x7c0014, 0x0, 0x0, 18, 18, false⟩
def SPR_GROUP.TOTAL : Fld := ⟨0x7c0020, 0x0, 0x8, 31, 20, false⟩
def SPR_GROUP.LEFT : Fld := ⟨0x7c0020, 0x0, 0x8, 19, 8, false⟩
def SPR_TRANS.OVF : Fld := ⟨0x7c0024, 0x0, 0x8, 31, 31, false⟩
def SPR_TRANS.TRANS : Fld := ⟨0x7c0024, 0x0, 0x8, 15, 0, false⟩
def SPR_LAST.UNIT : Fld := ⟨0x7c0080, 0x0, 0x0, 31, 16, false⟩
def SPR_LAST.VERDICT : Fld := ⟨0x7c0080, 0x0, 0x0, 15, 14, false⟩
def SPR_LAST_STAMP.NS : Fld := ⟨0x7c0084, 0x0, 0x0, 31, 0, false⟩
def SPR_FLAGS.CORR_OVF : Fld := ⟨0x7c0088, 0x0, 0x0, 5, 5, false⟩
def SPR_FLAGS.UNCORR : Fld := ⟨0x7c0088, 0x0, 0x0, 4, 4, false⟩
def SPR_FLAGS.SCRIBE_RETIRED : Fld := ⟨0x7c0088, 0x0, 0x0, 3, 3, false⟩
def SPR_FLAGS.SERIF_STOPPED : Fld := ⟨0x7c0088, 0x0, 0x0, 2, 2, false⟩
def SPR_FLAGS.EXHAUSTED : Fld := ⟨0x7c0088, 0x0, 0x0, 1, 1, false⟩
def SPR_FLAGS.LASTING_SEEN : Fld := ⟨0x7c0088, 0x0, 0x0, 0, 0, false⟩
def SPR_CORR.CORR : Fld := ⟨0x7c008c, 0x0, 0x0, 31, 0, false⟩
def SPR_WEAR.WEAR_MV : Fld := ⟨0x7c0090, 0x0, 0x0, 31, 24, false⟩
def SPR_WEAR.WEAR_LIMIT : Fld := ⟨0x7c0090, 0x0, 0x0, 23, 16, false⟩
def SPR_HOURS.VALUE : Fld := ⟨0x7c0094, 0x0, 0x0, 31, 0, false⟩
def SPR_AGE.VALUE : Fld := ⟨0x7c0098, 0x0, 0x0, 31, 0, false⟩
def BLT_STAT.READY : Fld := ⟨0x7c0100, 0x0, 0x0, 31, 31, false⟩
def BLT_STAT.ERASING : Fld := ⟨0x7c0100, 0x0, 0x0, 30, 30, false⟩
def BLT_STAT.COUNT : Fld := ⟨0x7c0100, 0x0, 0x0, 17, 0, false⟩
def BLT_HEAD.SEQ : Fld := ⟨0x7c0104, 0x0, 0x0, 31, 0, false⟩
def BLT_CNT.TORN_OVF : Fld := ⟨0x7c0108, 0x0, 0x0, 31, 31, false⟩
def BLT_CNT.WRAP_OVF : Fld := ⟨0x7c0108, 0x0, 0x0, 30, 30, false⟩
def BLT_CNT.TORN : Fld := ⟨0x7c0108, 0x0, 0x0, 23, 16, false⟩
def BLT_CNT.WRAPS : Fld := ⟨0x7c0108, 0x0, 0x0, 15, 0, false⟩
def INK_CTRL.ARM : Fld := ⟨0x7e0010, 0x0, 0x0, 31, 31, false⟩
def INK_CTRL.STOP : Fld := ⟨0x7e0010, 0x0, 0x0, 30, 30, false⟩
def INK_CTRL.TRIG : Fld := ⟨0x7e0010, 0x0, 0x0, 29, 29, false⟩
def INK_CTRL.GRP : Fld := ⟨0x7e0010, 0x0, 0x0, 25, 24, false⟩
def INK_CTRL.DIV : Fld := ⟨0x7e0010, 0x0, 0x0, 23, 16, false⟩
def INK_CTRL.PRE : Fld := ⟨0x7e0010, 0x0, 0x0, 15, 12, false⟩
def INK_CTRL.NPROBE : Fld := ⟨0x7e0010, 0x0, 0x0, 6, 0, false⟩
def INK_TRIG.KIND : Fld := ⟨0x7e0014, 0x0, 0x0, 31, 28, false⟩
def INK_TRIG.PROBE : Fld := ⟨0x7e0014, 0x0, 0x0, 27, 22, false⟩
def INK_TRIG.AXIS : Fld := ⟨0x7e0014, 0x0, 0x0, 15, 8, false⟩
def INK_THR.THR : Fld := ⟨0x7e0018, 0x0, 0x0, 31, 0, false⟩
def INK_STAT.STATE : Fld := ⟨0x7e001c, 0x0, 0x0, 31, 30, false⟩
def INK_STAT.PRE_SHORT : Fld := ⟨0x7e001c, 0x0, 0x0, 29, 29, false⟩
def INK_STAT.WRAPPED : Fld := ⟨0x7e001c, 0x0, 0x0, 28, 28, false⟩
def INK_STAT.FIRST : Fld := ⟨0x7e001c, 0x0, 0x0, 19, 0, false⟩
def INK_TROW.VALUE : Fld := ⟨0x7e0020, 0x0, 0x0, 31, 0, false⟩
def INK_TSTAMP.VALUE : Fld := ⟨0x7e0024, 0x0, 0x0, 31, 0, false⟩
def INK_DEPTH.VALUE : Fld := ⟨0x7e0028, 0x0, 0x0, 31, 0, false⟩
def INK_PROBE.KIND : Fld := ⟨0x7e0100, 0x0, 0x4, 31, 28, false⟩
def INK_PROBE.SIG : Fld := ⟨0x7e0100, 0x0, 0x4, 23, 16, false⟩
def INK_PROBE.INDEX : Fld := ⟨0x7e0100, 0x0, 0x4, 15, 0, false⟩
def PWR_SERVO.BAND_HI : Fld := ⟨0x7f0010, 0x0, 0x0, 31, 24, false⟩
def PWR_SERVO.BAND_LO : Fld := ⟨0x7f0010, 0x0, 0x0, 23, 16, false⟩
def PWR_SERVO.JUMP_THR : Fld := ⟨0x7f0010, 0x0, 0x0, 15, 8, false⟩
def PWR_SERVO.SV_WIN : Fld := ⟨0x7f0010, 0x0, 0x0, 7, 0, false⟩
def PWR_SERVO2.SV_HOLD : Fld := ⟨0x7f0014, 0x0, 0x0, 31, 16, false⟩
def PWR_SERVO2.FLOOR : Fld := ⟨0x7f0014, 0x0, 0x0, 5, 0, false⟩
def PWR_SLACK.MIN_SLACK : Fld := ⟨0x7f0018, 0x0, 0x0, 31, 24, false⟩
def PWR_SLACK.SRC : Fld := ⟨0x7f0018, 0x0, 0x0, 23, 22, false⟩
def PWR_SLACK.INDEX : Fld := ⟨0x7f0018, 0x0, 0x0, 15, 0, false⟩
def PWR_CNT.OVF : Fld := ⟨0x7f001c, 0x0, 0x0, 31, 31, false⟩
def PWR_CNT.JUMPS : Fld := ⟨0x7f001c, 0x0, 0x0, 15, 0, false⟩
def PWR_DOM.ON : Fld := ⟨0x7f0020, 0x0, 0x0, 23, 0, false⟩
def PWR_SUPV.HOLD_TOP : Fld := ⟨0x7f0024, 0x0, 0x0, 31, 31, false⟩
def PWR_SUPV.TEMP_HI : Fld := ⟨0x7f0024, 0x0, 0x0, 30, 30, false⟩
def PWR_SUPV.JUMP_SEEN : Fld := ⟨0x7f0024, 0x0, 0x0, 29, 29, false⟩
def PWR_TEMP.HOT : Fld := ⟨0x7f0030, 0x0, 0x0, 31, 16, false⟩
def PWR_TEMP.SENSOR : Fld := ⟨0x7f0030, 0x0, 0x0, 3, 0, false⟩
def PWR_VID.VOLT_MV : Fld := ⟨0x7f0100, 0x0, 0x0, 31, 16, false⟩
def PWR_VID.LOW_BASE : Fld := ⟨0x7f0100, 0x0, 0x0, 15, 15, false⟩
def PWR_VID.VBASE_ERR : Fld := ⟨0x7f0100, 0x0, 0x0, 14, 14, false⟩
def PWR_VID.TARGET : Fld := ⟨0x7f0100, 0x0, 0x0, 13, 8, false⟩
def PWR_VID.CODE : Fld := ⟨0x7f0100, 0x0, 0x0, 5, 0, false⟩
def PWR_PMB.RATE : Fld := ⟨0x7f0104, 0x0, 0x0, 31, 31, false⟩
def PWR_PMB.BASE_DONE : Fld := ⟨0x7f0104, 0x0, 0x0, 30, 30, false⟩
def PWR_PMB.ALERT : Fld := ⟨0x7f0104, 0x0, 0x0, 29, 29, false⟩
def PWR_PMB.RAIL_ERR : Fld := ⟨0x7f0104, 0x0, 0x0, 15, 8, false⟩
def PWR_PMB.NRAIL : Fld := ⟨0x7f0104, 0x0, 0x0, 3, 0, false⟩
def PWR_RAIL.VOUT : Fld := ⟨0x7f0110, 0x0, 0x8, 31, 16, false⟩
def PWR_RAIL.IOUT : Fld := ⟨0x7f0110, 0x0, 0x8, 15, 0, false⟩
def PWR_RAIL2.TEMP : Fld := ⟨0x7f0114, 0x0, 0x8, 31, 24, false⟩
def PWR_RAIL2.ADDR : Fld := ⟨0x7f0114, 0x0, 0x8, 22, 16, false⟩
def PWR_RAIL2.STATUS_WORD : Fld := ⟨0x7f0114, 0x0, 0x8, 15, 0, false⟩

end Sys2Proof.Machine.R
end

