-- ==== Sys2Proof/Machine/Tab.lean ====
section
/-! DEFINITION. Sparse tables: a list of key and value pairs in one canonical form (keys rising, no entry equal to the default), and the combinators that the units iterate with. -/

namespace Sys2Proof.Machine

/-- The value at a key: the entry of that key, or the default. -/
def tget {α : Type} (d : α) : List (Nat × α) → Nat → α
  | [], _ => d
  | (a, v) :: t, k => if a = k then v else tget d t k

/-- The table without the entries of a key. -/
def tdel {α : Type} (k : Nat) : List (Nat × α) → List (Nat × α)
  | [] => []
  | (a, v) :: t => if a = k then tdel k t else (a, v) :: tdel k t

/-- The table with an entry put before the first greater key. -/
def tins {α : Type} (k : Nat) (x : α) : List (Nat × α) → List (Nat × α)
  | [] => [(k, x)]
  | (a, v) :: t => if k < a then (k, x) :: (a, v) :: t else (a, v) :: tins k x t

/-- The table with a key set to a value; the default value leaves no entry. -/
def tput {α : Type} [DecidableEq α] (d : α) (t : List (Nat × α)) (k : Nat) (x : α) : List (Nat × α) :=
  if x = d then tdel k t else tins k x (tdel k t)

/-- The table with one value changed by a function. -/
def tmod {α : Type} [DecidableEq α] (d : α) (t : List (Nat × α)) (k : Nat) (f : α → α) : List (Nat × α) :=
  tput d t k (f (tget d t k))

/-- The canonical form: keys strictly rising and no entry equal to its default. -/
def twf {α : Type} [DecidableEq α] (d : Nat → α) : List (Nat × α) → Bool
  | [] => true
  | [(a, v)] => v ≠ d a
  | (a, v) :: (b, w) :: t => v ≠ d a && a < b && twf d ((b, w) :: t)

/-- Apply a step for every element of a list, in order. -/
def forEach {α σ : Type} (l : List α) (f : α → σ → σ) (s : σ) : σ :=
  match l with
  | [] => s
  | a :: t => forEach t f (f a s)

/-- Apply a step where a condition holds. -/
def onlyIf {σ : Type} (b : Bool) (f : σ → σ) (s : σ) : σ := if b then f s else s

end Sys2Proof.Machine
end

