-- ==== Sys2Proof/Machine/State.lean ====
section
/-! DEFINITION. The state of the device as plain data, the faults and refusals, and the state right after power-on. -/

namespace Sys2Proof.Machine

/-- The reasons a command can stop the model. -/
inductive Fault
  /-- Raised by exec for a command whose operand names a unit, channel, vector or field value that the device does not have (R16, R38, R423): no such event exists on the device, so stopping is safe. -/
  | noSuchInstance
  deriving DecidableEq, Repr

/-- The reasons a command can be turned away. -/
inductive Refusal
  /-- Raised by exec for a command that has no meaning in this model yet; safe, since nothing is claimed about it. -/
  | notModelled (mnemonic : String)
  deriving DecidableEq, Repr

/-- What the device sends to the outside, and what it answers. -/
inductive Output
  /-- The value a register or window read returned to its source (R80, R66, R89, R410, R448). -/
  | reply (src : Src) (value : Nat)
  /-- An MSI-X message of a vector (R451). -/
  | msix (v : Nat)
  /-- A level change or pulse of a named output: ball class, index, tick of the edge, and width of the pulse in ticks (0 for a level). -/
  | edge (cls idx at_ width : Nat) (level : Bool)
  /-- A frame or ordered set leaves the port of a ring channel: the tick named, how long after it the start block leaves the ball in 2^-4 ns (R366), and the bytes (R308, R313, R328). -/
  | frame (ch port at_ late : Nat) (bytes : List Nat)
  /-- A twin link message (R357 to R360): its type, sequence number and content words. -/
  | twin (typ seq : Nat) (words : List Nat)
  /-- A SNAP (R360). -/
  | snap (m : SnapMsg)
  /-- A SOLVE (R360). -/
  | solve (m : SolveMsg)
  /-- Bytes returned on I²C (R454). -/
  | i2c (bytes : List Nat)
  /-- A byte of the I²C target that is not acknowledged (R454, R455). -/
  | i2cNack
  /-- Bits on a serial encoder line or on TDO (R284, R469). -/
  | serial (cls idx : Nat) (bits : List Bool)
  /-- The service mailbox answers a FLASH command with bytes programmed at an address (R416). -/
  | flash (cs addr n : Nat) (erase : Bool)
  /-- A ball becomes high-impedance: its class and index, and the tick (R91, R253). -/
  | hiZ (cls idx at_ : Nat)
  /-- A clock ball runs from a tick: its class and index, the tick, its period and its high time in ticks (R300). -/
  | clock (cls idx at_ period high : Nat)
  deriving DecidableEq, Repr

/-- What happened on the present tick, for the same-tick rules R41, R48, R54, R61, R63, R68, R113, R154, R340, R406 and R452: hardware sets of W1C and STKY bits, counter increments, fields software wrote, interrupt sets that found their bit already set, a hardware mode trigger, the cores that completed an item, and the rate groups whose output phase has been performed; each word that software stored, with what it held before the first store and the bits stored since; the words the host wrote, with whether KEY fields took them; the words that windows wrote, by window and cell, with what they held before; the staged words of R154 that software wrote, with what they held before; the words the scrubber corrected with how many fields of each, and TMR_SCRUB and TMR_LAST before the first of them; what each capture FIFO took on this tick, or lost (that entry and CAP_STAT before); what each position counter counted; MOD_STATE, MOD_STAT, the count of dispatch entries and Inkwell's event before a HOLD cause entered HOLD; and, after a rearm, the Margin FAULT and protective-stop cause before it; and the lattice and the words that a cold start of this tick replaced. -/
structure TickLog where
  sets : List (Nat × Nat)
  incs : List (Nat × Nat)
  wrote : List Nat
  ints : List Nat
  trig : Bool
  done : List Nat
  phases : List Nat
  soft : List (Nat × Nat × Nat)
  host : List (Nat × Nat × Bool)
  wins : List (Nat × Nat × Nat)
  staged : List (Nat × Nat)
  scrubs : List (Nat × Nat)
  scrub0 : Option (Nat × Nat)
  caps : List (Nat × Option (Nat × Nat × Bool × Nat))
  moved : List (Nat × Int)
  held : Option (Nat × Nat × Nat × Bool)
  rearmed : Option (Bool × Bool)
  cold : Option (Nat × Nat × List (Nat × Nat))
  deriving DecidableEq, Repr

/-- Nothing has happened on the present tick. -/
def TickLog.none : TickLog := ⟨[], [], [], [], false, [], [], [], [], [], [], [], Option.none, [], [], Option.none, Option.none, Option.none⟩

/-- One entry of a capture FIFO (R89). -/
structure CapEntry where
  ns : Nat
  wseq : Nat
  rising : Bool
  deriving DecidableEq, Repr

/-- What a TB_NS or TB_PERIOD read latched for one source (R80). -/
structure Snap where
  word : Nat
  pOfs : Nat
  bound : Nat
  deriving DecidableEq, Repr

/-- The time base (R69 to R95): whether the PLL runs; rim clocks since PLL lock and since the entry into BOOT; both accumulators in 2^-32 ns and their wrap numbers; the active domain; a wrap still to be signalled; the slew remainder and the slew applied so far in 2^-32 ns; the servo integrators and consecutive counts; the latest base boundary; the PPS reference edge with the slew at it, the rim clocks of the last edge and last accepted edge, and the count toward lock; the capture FIFOs, the bounds that each capture window had before it last advanced or cleared with the tick of that, event queues, ends of event pulses as rim clocks, trains that have run out, and the latest conversion instant of each event output; the read latches; the coast deadline; whether P locked before; and the TSUs whose records are uncalibrated. -/
structure TimeBase where
  run : Bool
  rim : Nat
  boot : Nat
  accL : Nat
  accP : Nat
  wseqL : Nat
  wseqP : Nat
  actP : Bool
  wrapDue : Bool
  remF : Int
  slewSum : Int
  integL : Rat
  integP : Rat
  goodL : Nat
  badL : Nat
  goodP : Nat
  badP : Nat
  latB : Nat
  ppsRef : Option (Nat × Int)
  ppsAt : Nat
  ppsAcc : Nat
  ppsRun : Nat
  caps : List (Nat × List CapEntry)
  capOld : List (Nat × Nat × Nat × Nat)
  evq : List (Nat × List Nat)
  evEnd : List (Nat × Nat)
  evStop : List Nat
  evLast : List (Nat × Nat)
  snapH : Snap
  snapS : Snap
  coast : Option Nat
  pOnce : Bool
  uncal : Nat
  deriving DecidableEq, Repr

/-- The owner-key fuses of R106: programmed slots, revoked slots, and their digests; the wear reference of R441 is contained in the measured excess. -/
structure Fuses where
  prog : Nat
  revoked : Nat
  digest : List (Nat × List Nat)
  deriving DecidableEq, Repr

/-- Reset and mode control (R96 to R113): reset held with its class and cause bits; the strapped levels; the configuration in use; whether the rate-group settings are in force (R24); the kind of the pending transition and its rim clock or tick; the surrender kept during a HOLD; a HOLD requested by the host; the write-once fields written; the fuses; the chip selects as found at the last load and the slots whose flash has timed out; the banks whose power-good has risen with the clock at which it did; the banks whose present loss has been counted; and the instruction of the IEEE 1149.1 port (0 BYPASS, 1 IDCODE, 2 SAMPLE/PRELOAD, 3 EXTEST, 4 CLAMP, 5 HIGHZ, 6 EXTEST_PULSE, 7 EXTEST_TRAIN) with the boundary register. -/
structure Dev where
  inReset : Bool
  por : Bool
  cause : Nat
  cfg : DevConfig
  rgIn : Bool
  pendKind : Nat
  pendAt : Nat
  surrender : Bool
  w1t : List Nat
  fuses : Fuses
  envA : FlashCs
  envB : FlashCs
  flashTo : Nat
  bankAt : List (Nat × Nat)
  bankLost : Nat
  jtag : Nat
  bsr : List Bool
  deriving DecidableEq, Repr

/-- One pending commit of a group (R47 to R51, R491): its group, WHEN, the tick of an absolute copy, the header offsets of the members still to copy, and the SD inputs still to copy. -/
structure CmtReq where
  g : Nat
  abs : Bool
  tick : Nat
  members : List Nat
  sdIn : List Nat
  deriving DecidableEq, Repr

/-- Commit and UNLOCK control: the pending requests and the tick of each source's latest key write. -/
structure Cmt where
  reqs : List CmtReq
  keyH : Nat
  keyS : Nat
  deriving DecidableEq, Repr

/-- One Ductus item (R403 to R411): staged fields, port, sequence number, life stage (0 delay list, 1 ready, 2 running, 3 ended), core, end status, result word, and the rim clock at which it became ready. -/
structure Item where
  entry : Nat
  arg : Nat
  cls : Nat
  prio : Nat
  cores : Nat
  flow : Nat
  due : Nat
  timed : Bool
  port : Nat
  seq : Nat
  stage : Nat
  core : Nat
  status : Nat
  result : Nat
  readyAt : Nat
  deriving DecidableEq, Repr

/-- An unused item slot. -/
def Item.none : Item := ⟨0, 0, 0, 0, 0, 0, 0, false, 0, 0, 4, 0, 0, 0, 0⟩

/-- One entry of a result FIFO: its status word and its result word (R410). -/
structure ResEntry where
  a : Nat
  b : Nat
  deriving DecidableEq, Repr

/-- Ductus and Scribe (R402 to R422): items by slot, delay list, ready lists by class and priority, ended items in order, result FIFOs, next sequence numbers, the item each Scribe core runs, the item that each port submitted on the present tick with whether a further GO was discarded, the mailbox request copied at DOOR, the last KICK or restart end, a restart in progress, the deferred scheduled tests (unit, the rim clock at which each fell due, measured wear), and the unit of an overdue test that runs; records traced since the last write of OBS; and whether results or items may wait for the end of the present tick (R407). -/
structure Ductus where
  items : List (Nat × Item)
  delay : List Nat
  ready : List (Nat × List Nat)
  ended : List Nat
  fifoH : List ResEntry
  fifoS : List ResEntry
  seqs : List (Nat × Nat)
  run : List (Nat × Nat)
  subs : List (Nat × Option (Item × Bool))
  req : List Nat
  kick : Nat
  restart : Option Nat
  defer : List (Nat × Nat × Nat)
  overdue : Option Nat
  traceN : Nat
  turn : Bool
  deriving DecidableEq, Repr

/-- One journal entry (R436) before its CRC word is added. -/
structure BltEntry where
  seq : Nat
  stamp : Nat
  wseq : Nat
  flags : Nat
  unit : Nat
  code : Nat
  mode : Nat
  data : Nat
  crc : Nat
  deriving DecidableEq, Repr

/-- What a record of the merge of R88 becomes when it leaves it: the event of an interrupt vector, or a journal entry. -/
inductive MergeBody
  | int (v : Nat)
  | entry (e : BltEntry)
  deriving DecidableEq, Repr

/-- One record in the merge of R88: the rim clock at which it leaves, 4 µs after its stamp; the TSU that stamped it and its source index; and what it becomes. -/
structure MergeRec where
  at_ : Nat
  tsu : Nat
  idx : Nat
  body : MergeBody
  deriving DecidableEq, Repr

/-- The Blotter (R88, R419, R435 to R438): the merge of event records in the order in which they leave it, the RAM queue, the fault entries held in their sources, the log oldest first, the writing block, the entries written in it, and the block being erased. -/
structure Blotter where
  merge : List MergeRec
  queue : List BltEntry
  held : List BltEntry
  log : List BltEntry
  wblk : Nat
  fill : Nat
  erase : Option Nat
  deriving DecidableEq, Repr

/-- One test request of R428: the unit code, the stamp of the error, the rim clock at which the test started, an error during the test, and the wear or row information of the unit. -/
structure TestReq where
  unit : Nat
  stamp : Nat
  started : Option Nat
  again : Bool
  sched : Bool
  row : Nat
  deriving DecidableEq, Repr

/-- The spare pool (R423 to R434, R440): test requests, transient verdicts with the clock they fell on, retired units, units out of service, units that came back with the clock they did, the sampler of each feedback channel, retired rows by macro and row, rows that stay in use without a spare (macro times 1,024 plus row), slots that no lane carries, channels with a lasting sampler verdict, Serif and Scribe cores held by a lasting verdict, the physical tile of each logical tile, logical tiles whose spare comes in with the next solve, and HOURS in units of 10 minutes and AGE in hours. -/
structure Spares where
  reqs : List TestReq
  trans : List (Nat × Nat)
  retired : List Nat
  out : List Nat
  back : List (Nat × Nat)
  samp : List (Nat × Nat)
  rows : List (Nat × Nat)
  rowStuck : List Nat
  laneDead : List Nat
  chanDead : List Nat
  serifDead : Nat
  scribeDead : Nat
  tiles : List (Nat × Nat)
  swap : List Nat
  hoursN : Nat
  ageF : Rat
  deriving DecidableEq, Repr

/-- Core voltage (R456, R481 to R483): the smallest slack of the window with its source and index, the rim clock until which a jump holds, the settings of PWR_SERVO and PWR_SERVO2 in force, the base index at which the last window ended (2^32 since the lattice moved), the rim clock of the last VID step, whether the VID bus has been driven, and a mismatch of V_BASE since power-on reset (R457). -/
structure Power where
  wmin : Option (Rat × Nat × Nat)
  hold : Option Nat
  eff : Nat
  eff2 : Nat
  winK : Nat
  stepAt : Nat
  driven : Bool
  vbad : Bool
  deriving DecidableEq, Repr

/-- The PCIe endpoint and the I²C target (R445, R446, R451, R453): link up, MSI-X enable and function mask, and the command byte and snapshot of a read in progress. -/
structure Bus where
  link : Bool
  msixEn : Bool
  fmask : Bool
  cmd : Nat
  snap : List Nat
  idle : Bool
  deriving DecidableEq, Repr

/-- A window of R64 or the aperture of R448: its queued writes, each with space, address and value, oldest first. -/
abbrev Window := List (Nat × Nat × Nat)



/-- One row of the cell problem (R167, R185): tag, coefficients by variable index in format 4, and bounds in format 5, all scaled. -/
structure PRow where
  tag : Nat
  coef : List (Nat × Int)
  lo : Int
  hi : Int
  deriving DecidableEq, Repr

/-- What the separation geometry unit reports at its delivery (R210 to R213): rows, keys without a variable, occupants inside B, and a key without a slot. -/
structure SepOut where
  rows : Nat
  novar : Nat
  inside : List Nat
  full : Bool
  deriving DecidableEq, Repr

/-- A solve in progress (R176 to R195): its sample instant and release tick, variable tags and bounds, H by entries and g, rows, the coupling of each joint (slot, β, c, AMAX), signature, cold start, starting x, z and y, saturations so far, a tile error, native mode, the words of RUL_ITER, ALG, REG, LIM, OVR_CFG and TOL it uses, and the separation results, delivered or not. -/
structure Problem where
  start : Nat
  due : Nat
  vtags : List Nat
  vlo : List Int
  vhi : List Int
  h : List (Nat × Nat × Int)
  g : List Int
  rows : List PRow
  aim : List (Nat × Int × Int × Int)
  sig : Nat
  cold : Bool
  x0 : List Int
  z0 : List Int
  y0 : List Int
  sat : Nat
  tile : Bool
  native : Bool
  cfg : List Nat
  sep : SepOut
  sepDone : Bool
  deriving DecidableEq, Repr

/-- A completed solve: x within its bounds, and whether it is degraded. -/
structure SolveRes where
  x : List Int
  bad : Bool
  deriving DecidableEq, Repr

/-- An occupant of one path (R204, R205): present, person, capsule count, SEQ, T_MEAS, velocity, ZD, and the capsules as A, B, RAD in mm. -/
structure Occ where
  here : Bool
  person : Bool
  ncap : Nat
  seq : Nat
  t : Nat
  vel : List Int
  zd : Nat
  caps : List (List Int)
  deriving DecidableEq, Repr

/-- The solver and the separation geometry unit: the solve in progress and its result, the kept state, the σ last released by chain, a cold start due, the occupants, the slots of the keys, and freed slots with the solves until they are available. -/
structure Ruling where
  prob : Option Problem
  res : Option SolveRes
  kept : Option Kept
  sigma : List (Nat × Nat)
  cold : Bool
  occ : List (Nat × Occ)
  slots : List (Nat × Nat)
  freed : List (Nat × Nat)
  deriving DecidableEq, Repr

/-- The solver at reset. -/
def Ruling.zero : Ruling := ⟨none, none, none, [], true, [], [], []⟩

/-- One Margin sample (R216): its instant, the completion tick, decision (0 CLEAR, 1 WARN, 2 STOP), smallest margin in mm with its occupant. -/
structure MgnRun where
  start : Nat
  done : Option Nat
  dec : Nat
  margin : Int
  occ : Nat
  deriving DecidableEq, Repr

/-- One safe input (R222): accepted levels of both channels, base periods for which each raw level has differed from them, the levels at the last boundary, the rim clock since which the accepted channels disagree, discrepancy found, the tick at which an accepted demand acts, the demand of the accepted state, and whether the input was energised when its channels last agreed. -/
structure SafeIn where
  a : Bool
  b : Bool
  na : Nat
  nb : Nat
  since : Option Nat
  disc : Bool
  due : Option Nat
  acting : Bool
  on : Bool
  deriving DecidableEq, Repr

/-- A safe input at reset: demanding. -/
def SafeIn.zero : SafeIn := ⟨false, false, 0, 0, none, false, none, true, false⟩

/-- One safe output (R220, R221): a category 1 delay with its end tick and rim clock, the rim clock of the last change of its command, the latest test pulse (channel, start as a rim clock), the rim clocks of the last pulses of channels A and B, the rim clocks since which the readback of each channel has been out of its state, and a readback failure found. -/
structure SafeOut where
  delay : Option (Nat × Nat)
  onAt : Nat
  pulse : Option (Nat × Nat)
  lastA : Nat
  lastB : Nat
  offA : Option Nat
  offB : Option Nat
  bad : Bool
  deriving DecidableEq, Repr

/-- A safe output at reset. -/
def SafeOut.zero : SafeOut := ⟨none, 0, none, 0, 0, none, none, false⟩

/-- The Margin monitor and safe I/O: occupants of its path, sphere positions of the sample before, whether they are valid, the run awaiting its decision, causes of R217 present (bit 0 LATE, 1 SIG, 2 SOUT_RB, 3 SIN_DISC, 4 SELFTEST), consecutive CLEAR decisions, a STOP in progress, whether a decision tick has passed since entry into a mode that drives the outputs, inputs, outputs, and the Margin segment buffers by source with their completion ticks, newest first; and the protective-stop cause of R112, which a demand raises and a rearm clears. -/
structure Mgn where
  occ : List (Nat × Occ)
  prev : List (Nat × List Rat)
  prevAt : Option Nat
  run : Option MgnRun
  causes : Nat
  clear : Nat
  stop : Bool
  drv : Bool
  ins : List (Nat × SafeIn)
  outs : List (Nat × SafeOut)
  bufs : List (Nat × List (Nat × List Nat))
  pstop : Bool
  deriving DecidableEq, Repr

/-- The Margin monitor at reset. -/
def Mgn.zero : Mgn := ⟨[], [], none, none, 0, 0, false, false, [], [], [], false⟩

/-- A velocity-loop run in progress or released (R227, R235, R243): its sample and output-phase ticks, the tick of its completion, whether the lane detected an error, what it leaves behind, its saturations, its signals of codes 0x04 to 0x0B in that order, p_ref and ep in 2^-16 increments, p_fb, δ, its output value and the words for the ring. -/
structure LaneRun where
  start : Nat
  due : Nat
  done : Option Nat
  err : Bool
  next : LaneMem
  vsat : Bool
  bsat : Bool
  sig : List Bfp
  pref : Int
  ep : Int
  pfb : Int
  delta : Int
  mode : Nat
  words : List Nat
  deriving DecidableEq, Repr

/-- A current-loop run (R238, R239): its instant, completion, integrators and saturation left behind, the duties, and id, iq, vd, vq and θ in 2^-32 turn. -/
structure ClRun where
  start : Nat
  done : Option Nat
  xd : Bfp
  xq : Bfp
  csat : Bool
  bsat : Bool
  on : List Nat
  sig : List Bfp
  theta : Nat
  deriving DecidableEq, Repr

/-- A set-point that a Serif task released (R400): position in 2^-16 increments, velocity and acceleration, and its tick. -/
structure SerifSp where
  p : Int
  v : Rat
  a : Rat
  at_ : Nat
  deriving DecidableEq, Repr

/-- One Nib lane by axis slot (R226 to R247): its memory and the snapshot as of its last released output; the run in progress and the last released one; the current-loop run in progress and the last completed one; the amplitude or current command in force; whether it has latched feedback; the last fresh p_ref; the integrated analogue set-point; step interpolation; the Serif set-point; causes raised since the fault was last clear; a torque off due at the output phase; periods at rest in HOLD; ns for which v_ref was 0; consecutive current-loop overruns; the tick of the last current-loop instant; a failed lane whose slot migrates at the next sample instant; a reset of xd and xq due; and a set-point braked after loss of the leader (velocity and position). -/
structure Lane where
  mem : LaneMem
  snap : LaneMem
  run : Option LaneRun
  rel : Option LaneRun
  cl : Option ClRun
  clRel : Option ClRun
  cmd : Bfp
  has : Bool
  lastP : Int
  anP : Int
  step : StepIn
  sp : Option SerifSp
  raised : Nat
  tqDue : Bool
  rest : Nat
  vzero : Nat
  clConsec : Nat
  clAt : Option Nat
  failed : Bool
  clRst : Bool
  brake : Option (Rat × Rat)
  deriving DecidableEq, Repr

/-- A lane at reset. -/
def Lane.zero : Lane :=
  ⟨.zero, .zero, none, none, none, none, .zero, false, 0, 0, .zero, none, 0, false, 0, 0, 0, none, false, false, none⟩

/-- Inkwell (R248, R249): the configuration taken at ARM (INK_CTRL, INK_TRIG, INK_THR and the probes), output phases counted toward the next row, the row being written, rows taken, the trigger row, the previous probe values for the edges of KIND 1 and 2, and an event of KIND 0 or 3 to 7 since the last row. -/
structure Inkwell where
  ctrl : Nat
  trig : Nat
  thr : Nat
  probes : List Nat
  phase : Nat
  row : Nat
  count : Nat
  trow : Option Nat
  prev : Option Int
  event : Bool
  deriving DecidableEq, Repr

/-- Inkwell idle. -/
def Inkwell.zero : Inkwell := ⟨0, 0, 0, [], 0, 0, 0, none, none, false⟩

/-- A good frame of an absolute encoder (R271, R275): CPOS, POS, REV and its stamp. -/
structure GoodFrame where
  cpos : Nat
  pos : Nat
  rev : Nat
  stamp : Nat
  deriving DecidableEq, Repr

/-- One feedback channel (R251 to R283): the latched CPOS, SPEED word, stamp, POS and REV; the unwrapped CPOS, the last count edge (count, stamp, rim clock) and whether there was one; the reference edge and a reversal since the last latch; the speed as a number; the illegal-change window (its rim clock and count); the rim clock at which an invalid Hall state began; the Hall sector's entry (stamp, angle) and direction (1 ascending, 2 descending); the transfer in progress (T0, I, bad from the start, and T0 as a rim clock) with the T0 that the latest instant asked for, the rim clock of the last transfer's end, the latest good frames, the MT field of the last one, whether the next good frame is the first after a commit copy, consecutive bad frames; a latch trigger waiting for its second frame; the end of the compare pulse as a rim clock; the emulated count with the rim clock of its latest step and the emulated states in which Z is high; whether FB_MOD has been written since the last commit copy; recent counts as acceptance tick and CPOS before; and the CPOS of the last index pulse, as it reads after the set that the pulse makes. -/
structure Fb where
  latP : Nat
  latV : Nat
  latAt : Nat
  latPos : Nat
  latRev : Nat
  cnt : Int
  eC : Int
  eT : Nat
  eRim : Nat
  edge : Bool
  rC : Int
  rT : Nat
  rev : Bool
  fresh : Bool
  spd : Rat
  illAt : Nat
  illN : Nat
  badAt : Option Nat
  hallT : Nat
  hallA : Nat
  xfer : Option (Nat × Nat × Bool × Nat)
  xAt : Option Nat
  xEnd : Nat
  good : List GoodFrame
  mt : Nat
  mtNew : Bool
  badN : Nat
  waitT : Option Nat
  pulse : Nat
  emu : Int
  emuAt : Nat
  zq : List Int
  modW : Bool
  hist : List (Nat × Nat)
  idxC : Nat
  deriving DecidableEq, Repr

/-- A feedback channel at reset. -/
def Fb.zero : Fb :=
  ⟨0, 0, 0, 0, 0, 0, 0, 0, 0, false, 0, 0, false, false, 0, 0, 0, none, 0, 0, none, none, 0, [], 0, true, 0, none, 0, 0, 0, [],
    false, [], 0⟩

/-- One phase of a bridge: its high-side command and the ticks of its last rise and fall, the changes still ahead, whether the low side was on in this carrier period, the count of periods without, a refresh to come, and the end of a refresh that reaches into the next period (R286 to R289). -/
structure Phase where
  h : Bool
  rise : Nat
  fall : Nat
  next : List (Nat × Bool)
  lowOn : Bool
  count : Nat
  refresh : Bool
  off : Option Nat
  deriving DecidableEq, Repr

/-- A phase at reset. -/
def Phase.zero : Phase := ⟨false, 0, 0, [], false, 0, false, none⟩

/-- One PWM bridge (R284 to R299): the tick of the latest valley once the carrier runs, its phases, what the duty shadows and GO were before the writes of a tick (that tick, U, V, W, GO), the tick of the last reload with the active words it took (R46), and the rim clock since which the outputs follow the duties. -/
structure Pb where
  valley : Option Nat
  u : Phase
  v : Phase
  w : Phase
  pre : Option (Nat × List Nat)
  reload : Option Nat
  cur : Option (List Nat)
  liveAt : Nat
  deriving DecidableEq, Repr

/-- A bridge at reset. -/
def Pb.zero : Pb := ⟨none, .zero, .zero, .zero, none, none, none, 0⟩

/-- One sigma-delta input (R301 to R304): the latest decimation point, and the latest result with the one before it, each as x in 2^-23 and its completion tick; and SCALE and ZERO from before a copy inside a frame, with the rim clock of the next frame start, until which they hold (R46). -/
structure Sd where
  last : Option Nat
  x : Int
  at_ : Nat
  xOld : Int
  hold : Option (Nat × Nat × Nat)
  deriving DecidableEq, Repr

/-- A sigma-delta input at reset. -/
def Sd.zero : Sd := ⟨none, 0, 0, 0, none⟩

/-- One incoming buffer of a ring channel (R320, R327, R34): bytes, the cycle number and stamp of the last accepted content of each read segment, and the cycle number and arrival stamp of its completion. -/
structure RBuf where
  bytes : List (Nat × Nat)
  regions : List (Nat × Nat × Nat)
  cycle : Nat
  stamp : Nat
  deriving DecidableEq, Repr

/-- An incoming buffer that nothing has filled. -/
def RBuf.zero : RBuf := ⟨[], [], 0, 0⟩

/-- One outgoing image of a ring channel (R327): bytes and the tick of its publication. -/
structure OBuf where
  bytes : List (Nat × Nat)
  at_ : Nat
  deriving DecidableEq, Repr

/-- An outgoing image of zeros. -/
def OBuf.zero : OBuf := ⟨[], 0⟩

/-- The application buffers of a ring channel: the image under construction, the published ones (newest first), the filling and completed incoming buffers with the completed one before, and the buffers held by the sample latches of the groups. -/
structure AppBuf where
  build : List (Nat × Nat)
  pubs : List OBuf
  fill : RBuf
  done : RBuf
  doneOld : RBuf
  doneAt : Nat
  held : List (Nat × RBuf)
  deriving DecidableEq, Repr

/-- Empty application buffers. -/
def AppBuf.zero : AppBuf := ⟨[], [], .zero, .zero, .zero, 0, []⟩

/-- The originator of the frames that a channel follows (R347, R365): CLAIM, SERIAL, the LEADER word and WSEQ of its header. -/
structure Orig where
  claim : Nat
  serial : Nat
  leader : Nat
  wseq : Nat
  deriving DecidableEq, Repr

/-- A write segment (R321): its last due deadline (an arrival stamp and the ticks from it), SEQ of the content it last carried, and that content as STAMP and DATA (none for a null segment). -/
structure WSeg where
  due : Option (Nat × Rat)
  seq : Nat
  data : Option (Nat × List Nat)
  deriving DecidableEq, Repr

/-- A write segment that has carried nothing. -/
def WSeg.zero : WSeg := ⟨none, 0, none⟩

/-- One ring channel beyond its registers (R310 to R353). Timing: the tick of the latest cycle start. Origination: the fetched image and that of the other channel, whether the present cycle has a frame, and the cycle start from which a new leader originates. Returns of the present cycle: copies, good ones, ones with a good trailer, their NPASS sum, a bad HCRC, a foreign frame, nodes whose segments were taken and nodes that showed the leader's pattern, whether the cycle has been closed; consecutive MISS by node, cycles without a return, good cycles, and cold-start returns. Following: a frame accepted and a frame heard in the present cycle, consecutive cycles without, the last cycle number taken, bad frames by port in consecutive cycles and in this one, the followed originator, the tick at which INT_CNT reached 4, cycles since REINT, REJOIN_TMO passed, leader missing, and the lanes whose reaction is in progress. Delay measurement: one due, the round trips and arrival stamps (each with its T_ORIG) of the present one, and the last 8 values of 2D, all in 2^-4 ns. ACTION with its cycle number; a fold due; folded ports and those that reported LINK_BACK; a change of REMAP due and REMAP of the last accepted header; transmitters on their spare lane and requested moves; the ports that ask for their spare lane; write segments; and staged ring parameters. -/
structure Chan where
  at_ : Option Nat
  img : Option OBuf
  imgAlt : Option OBuf
  orig : Bool
  go : Option Nat
  back : Nat
  ret : Nat
  trl : Nat
  npass : Nat
  retBad : Bool
  foreign : Bool
  taken : List Nat
  missed : List Nat
  closed : Bool
  missRun : List (Nat × Nat)
  noRet : Nat
  good : Nat
  csRet : Nat
  got : Bool
  heard : Bool
  quiet : Nat
  noAcc : Nat
  lastNum : Option Nat
  bad : List (Nat × Nat)
  badNow : List Nat
  fol : Option Orig
  readyAt : Option Nat
  rejoin : Option Nat
  expired : Bool
  missing : Bool
  react : List Nat
  dm : Bool
  dmF : Option Nat
  dmR : Option Nat
  af : Option (Nat × Nat)
  ar : Option (Nat × Nat)
  ds : List Int
  act : Option (Nat × Nat)
  foldDue : Bool
  fp : List Nat
  lb : List Nat
  remap : Option Bool
  hdrRemap : Bool
  tx : List Nat
  txReq : List (Nat × Bool)
  req : List Nat
  wsegs : List (Nat × WSeg)
  par : List (Nat × Nat × Nat)
  deriving DecidableEq, Repr

/-- A ring channel at reset. -/
def Chan.zero : Chan where
  at_ := none
  img := none
  imgAlt := none
  orig := false
  go := none
  back := 0
  ret := 0
  trl := 0
  npass := 0
  retBad := false
  foreign := false
  taken := []
  missed := []
  closed := true
  missRun := []
  noRet := 0
  good := 0
  csRet := 0
  got := false
  heard := false
  quiet := 0
  noAcc := 0
  lastNum := none
  bad := []
  badNow := []
  fol := none
  readyAt := none
  rejoin := none
  expired := false
  missing := false
  react := []
  dm := false
  dmF := none
  dmR := none
  af := none
  ar := none
  ds := []
  act := none
  foldDue := false
  fp := []
  lb := []
  remap := none
  hdrRemap := false
  tx := []
  txReq := []
  req := []
  wsegs := []
  par := []

/-- What the channels share (R340, R345, R73, R490, R329): the rim clock at which T_wait began, the LFSR once seeded, the end of a backoff, the channel that steers domain L, a boundary of the leader's lattice with its index, and the rim clock of each lane's last change of block lock. -/
structure RingDev where
  csFrom : Nat
  lfsr : Option Nat
  backAt : Option Nat
  steer : Option Nat
  ep : Option (Nat × Nat)
  lockAt : List (Nat × Nat)
  deriving DecidableEq, Repr

/-- Before the first entry into LISTEN. -/
def RingDev.zero : RingDev := ⟨0, none, none, none, none, []⟩

/-- Twin operation (R354 to R376): the next SEQ to send, the SEQs taken lately, the rim clock of the last good STATUS and its content, T_TX of the last TIME with its arrival (2^-16 ns of domain L), messages waiting to be applied, consecutive SNAPs applied and missed, a SOLVE applied, the rim clock at which READY set, a hand-back requested, the agreed hand-back (H, channel, cycle number), HEALTH as last sent, fixed surrender items that keep failing, the link lost with the leader's frames still to be judged, HB_AT as last received, and READY as it stood when the link went down. -/
structure Twin where
  seq : Nat
  seen : List Nat
  statAt : Option Nat
  peer : Option StatusMsg
  timeRx : Option (Nat × Nat)
  snap : Option SnapMsg
  solve : Option SolveMsg
  cfgs : List CfgMsg
  models : List ModelMsg
  snapRun : Nat
  snapMiss : Nat
  solved : Bool
  readyAt : Option Nat
  hbReq : Bool
  hb : Option (Nat × Nat × Nat)
  health : Nat
  fixed : Nat
  lost : Bool
  hbAt : Nat
  wasReady : Bool
  deriving DecidableEq, Repr

/-- Twin operation at reset. -/
def Twin.zero : Twin :=
  ⟨0, [], none, none, none, none, none, [], [], 0, 0, false, none, false, none, 0, 0, false, 0, false⟩

/-- One Serif core (R378 to R401): F by physical register, A, PC, ST, ROT, the loop registers by level with the levels set up with ROTF, LR, IPC, ISTAT, IEN, IPEND, SWICODE; what runs (0 nothing, 1 the periodic task, 2 an item) and its slot; handlers entered and not returned from; an interrupt to be taken at the boundary just reached; RUN written 0 while busy; the timer armed; the sample instant and release tick of the open period of a periodic task, its END tick, and a dispatch that waits for the core; the OUT page as END froze it; the number of the mode entry at its first dispatch; and the descriptors that a commit copy disabled. -/
structure Serif where
  f : List (Nat × Nat)
  a : List (Nat × Nat)
  pc : Nat
  st : Nat
  rot : Nat
  lc : List (Nat × Nat)
  ls : List (Nat × Nat)
  le : List (Nat × Nat)
  rf : Nat
  lr : Nat
  ipc : Nat
  istat : Nat
  ien : Nat
  ipend : Nat
  swi : Nat
  task : Nat
  slot : Nat
  hdl : Nat
  irq : Bool
  halt : Bool
  armed : Bool
  per : Option (Nat × Nat)
  endAt : Option Nat
  wait : Bool
  out : List Host.Cell
  seen : Nat
  impOff : Nat
  expOff : Nat
  deriving DecidableEq, Repr

/-- A Serif core at reset. -/
def Serif.zero : Serif where
  f := []
  a := []
  pc := 0
  st := 0
  rot := 0
  lc := []
  ls := []
  le := []
  rf := 0
  lr := 0
  ipc := 0
  istat := 0
  ien := 0
  ipend := 0
  swi := 0
  task := 0
  slot := 0
  hdl := 0
  irq := false
  halt := false
  armed := false
  per := none
  endAt := none
  wait := false
  out := []
  seen := 0
  impOff := 0
  expOff := 0

/-- The state of the device. -/
structure State where
  regs : List (Nat × Nat)
  mem : List Host.Cell
  log : TickLog
  tb : TimeBase
  dev : Dev
  cmt : Cmt
  wins : List (Nat × Window)
  dct : Ductus
  serifs : List (Nat × Serif)
  dispIn : Nat
  blt : Blotter
  spr : Spares
  pwr : Power
  bus : Bus
  gens : List (Nat × Gen)
  queues : List (Nat × Queue)
  modeIn : Nat
  idxN : List (Nat × Nat)
  rul : Ruling
  mgn : Mgn
  lanes : List (Nat × Lane)
  ink : Inkwell
  delta : List (Nat × Int)
  fbs : List (Nat × Fb)
  pbs : List (Nat × Pb)
  sds : List (Nat × Sd)
  app : List (Nat × AppBuf)
  chans : List (Nat × Chan)
  ring : RingDev
  twin : Twin
  free : Nat
  out : List Output
  pending : List Instr
  deriving DecidableEq, Repr

/-- The time base before PLL lock. -/
def TimeBase.zero : TimeBase :=
  ⟨false, 0, 0, 0, 0, 0, 0, false, false, 0, 0, 0, 0, 0, 0, 0, 0, 0, none, 0, 0, 0, [], [], [], [], [], [], ⟨0, 0, 0⟩, ⟨0, 0, 0⟩, none, false, 0⟩

/-- A chip select with nothing on it. -/
def noFlash : FlashCs := ⟨false, false, false, 0, 0⟩

/-- The device control at reset release. -/
def Dev.zero : Dev := ⟨false, false, 0, .empty, false, 0, 0, false, [], ⟨0, 0, []⟩, noFlash, noFlash, 0, [], 0, 1, []⟩

/-- Ductus and Scribe at reset. -/
def Ductus.zero : Ductus := ⟨[], [], [], [], [], [], [], [], [], [], 0, none, [], none, 0, false⟩

/-- An empty journal. -/
def Blotter.zero : Blotter := ⟨[], [], [], [], 0, 0, none⟩

/-- A spare pool with every spare free. -/
def Spares.zero : Spares := ⟨[], [], [], [], [], [], [], [], [], [], 0, 0, [], [], 0, 0⟩

/-- Core voltage control at reset. -/
def Power.zero : Power := ⟨none, none, 0x1E140520, 0x00640000, 0, 0, false, false⟩

/-- The endpoint without a link. -/
def Bus.zero : Bus := ⟨false, false, false, 0, [], true⟩

/-- The machine right after a power-on reset by the supply supervisor is released (R96, R97, R112): every register at its reset value but DEV_RST_CAUSE, which shows POR_SUP; mode BOOT; nothing listed in memory; an empty queue. -/
def State.reset : State where
  regs := [(0x104, 1)]
  mem := []
  log := .none
  tb := .zero
  dev := .zero
  cmt := ⟨[], 0, 0⟩
  wins := []
  dct := .zero
  serifs := []
  dispIn := 0
  blt := .zero
  spr := .zero
  pwr := .zero
  bus := .zero
  gens := []
  queues := []
  modeIn := 0
  idxN := []
  rul := .zero
  mgn := .zero
  lanes := []
  ink := .zero
  delta := []
  fbs := []
  pbs := []
  sds := []
  app := []
  chans := []
  ring := .zero
  twin := .zero
  free := 0
  out := []
  pending := []

end Sys2Proof.Machine
end

