-- ==== Sys2Proof/Machine/Flags.lean ====
section
/-! DEFINITION. Reading and writing register words, the hardware side of flags and counters (R14, R54, R60 to R63), the interrupt vectors of R450 to R452, and signed field views. -/

namespace Sys2Proof.Machine

/-- The size of BAR0; copy c of a register lies c × this above its offset. -/
def barSize : Nat := 0x800000

/-- The word a register or copy holds at reset. -/
def regDef (a : Nat) : Nat := regReset (a % barSize)

/-- The stored word at an offset or copy. -/
def State.raw (s : State) (a : Nat) : Nat := tget (regDef a) s.regs a

/-- A stored word replaced; a word equal to its reset value leaves no entry. -/
def State.putRaw (s : State) (a v : Nat) : State := { s with regs := tput (regDef a) s.regs a v }

/-- Every stored word replaced by f of its address and itself, or dropped to its reset value. -/
def mapWords (f : Nat → Nat → Option Nat) (l : List (Nat × Nat)) : List (Nat × Nat) :=
  l.filterMap fun x => match f x.1 x.2 with
    | none => none
    | some v => if v = regDef x.1 then none else some (x.1, v)
def State.mapRegs (s : State) (f : Nat → Nat → Option Nat) : State := { s with regs := mapWords f s.regs }

/-- Does an offset hold fields with the TMR attribute (the parameter registers of MGN)? -/
def isTmr (a : Nat) : Bool :=
  0x3C0000 ≤ a && a < 0x3C0340 &&
    (let o := a - 0x3C0000
     (0x10 ≤ o && o ≤ 0x20) || o == 0x28 || (0x100 ≤ o && o < 0x200 && o % 16 < 8) ||
       (0x200 ≤ o && o < 0x280 && o % 16 == 0) || (0x300 ≤ o && o < 0x340 && o % 16 == 0))

/-- Bit by bit majority of three words (R60). -/
def maj3 (a b c : Nat) : Nat := (a &&& b) ||| (a &&& c) ||| (b &&& c)

/-- The word of the shadow (or direct) side of a register, voted where it is triplicated. -/
def State.rdw (s : State) (a : Nat) : Nat :=
  if isTmr a then maj3 (s.raw a) (s.raw (a + 2 * barSize)) (s.raw (a + 4 * barSize)) else s.raw a

/-- The word of the active side of a register, voted where it is triplicated. -/
def State.actw (s : State) (a : Nat) : Nat :=
  if isTmr a then maj3 (s.raw (a + barSize)) (s.raw (a + 3 * barSize)) (s.raw (a + 5 * barSize))
  else s.raw (a + barSize)

/-- Write the shadow (or direct) side, all three copies of a triplicated word. -/
def State.putw (s : State) (a v : Nat) : State :=
  if isTmr a then ((s.putRaw a v).putRaw (a + 2 * barSize) v).putRaw (a + 4 * barSize) v else s.putRaw a v

/-- Write the active side, all three copies of a triplicated word. -/
def State.putAct (s : State) (a v : Nat) : State :=
  if isTmr a then
    ((s.putRaw (a + barSize) v).putRaw (a + 3 * barSize) v).putRaw (a + 5 * barSize) v
  else s.putRaw (a + barSize) v

/-- The field as software reads it with VIEW = 0: the shadow, or the direct value. -/
def State.rd (s : State) (f : Fld) : Nat := bits (s.rdw f.addr) f.hi f.lo

/-- The field as the unit uses it: the active value of a shadowed field, else the direct value (R45). -/
def State.act (s : State) (f : Fld) : Nat := bits (if f.sh then s.actw f.addr else s.rdw f.addr) f.hi f.lo

/-- A one-bit field as the unit uses it. -/
def State.on (s : State) (f : Fld) : Bool := s.act f == 1

/-- A signed field as the unit uses it. -/
def State.actS (s : State) (f : Fld) : Int := sx (f.hi + 1 - f.lo) (s.act f)

/-- Hardware writes a direct field. -/
def State.wr (s : State) (f : Fld) (v : Nat) : State :=
  s.putRaw f.addr (setBits (s.raw f.addr) f.hi f.lo v)

/-- Hardware writes a one-bit field. -/
def State.wrB (s : State) (f : Fld) (b : Bool) : State := s.wr f (b2n b)

/-- Hardware writes a signed field, which stops at the ends of its range. -/
def State.wrS (s : State) (f : Fld) (x : Int) : State :=
  let n := f.hi + 1 - f.lo
  s.wr f (unsx n (clampI x (-(p2 (n - 1) : Int)) ((p2 (n - 1) : Int) - 1)))

/-- Hardware writes an unsigned field, which stops at the end of its range (R15). -/
def State.wrU (s : State) (f : Fld) (x : Nat) : State := s.wr f (min x (p2 (f.hi + 1 - f.lo) - 1))

/-- Hardware writes both the shadow and the active value of a shadowed field. -/
def State.wrBoth (s : State) (f : Fld) (v : Nat) : State :=
  let s := s.putRaw f.addr (setBits (s.raw f.addr) f.hi f.lo v)
  if f.sh then s.putRaw (f.addr + barSize) (setBits (s.raw (f.addr + barSize)) f.hi f.lo v) else s

/-- The key of a field in the log of the tick. -/
def Fld.key (f : Fld) : Nat := f.addr * 32 + f.lo

/-- The mask of a field in its word. -/
def Fld.mask (f : Fld) : Nat := (p2 (f.hi + 1 - f.lo) - 1) * p2 f.lo

/-- The bits of a mask of a word have been stored by software on this tick: the list keeps what the word held before the first store. -/
def softIn (a old m : Nat) (l : List (Nat × Nat × Nat)) : List (Nat × Nat × Nat) :=
  match l.find? fun x => x.1 == a with
  | none => (a, old, m) :: l
  | some x => (a, (x.2.1 &&& x.2.2) + (old - (old &&& x.2.2)), x.2.2 ||| m) :: l.filter fun y => y.1 != a

/-- A hardware update of an RWH field: discarded where software wrote the field on this tick (R54). -/
def State.rwh (s : State) (f : Fld) (v : Nat) : State :=
  if s.log.wrote.contains f.key then s else s.wr f v

/-! ### The bank of a ball (R466 to R469) and the boundary register (R472) -/

/-- Is bank b powered and its inputs taken from the balls (R468)? Until then its inputs read 0 and its outputs are high-impedance. -/
def State.taken (s : State) (b : Nat) : Bool := bit (s.rd R.DEV_BANK.PG) b

/-- The bank of feedback channel k (R469). -/
def fbBank (k : Nat) : Nat := if k < 8 then 2 else 3

/-- The bank of an output, by its class and index: 0 PPS_OUT, 1 EVT, 2 VID, 3 LIVE, 4 FB (3 a channel), 5 and 6 PB, 7 SO, 9 SDCK. -/
def outBank (cls idx : Nat) : Nat :=
  if cls = 4 then fbBank (idx / 3) else if cls = 5 || cls = 6 then 4 else if cls = 7 || cls = 9 then 5 else 0

/-- Does the boundary register, not the function, decide an output: in EXTEST and CLAMP those of PB, SO, EVT and FB, in HIGHZ every one (R472)? -/
def State.scanned (s : State) (cls : Nat) : Bool :=
  s.dev.jtag == 5 || ((s.dev.jtag == 3 || s.dev.jtag == 4) && (cls == 1 || (4 ≤ cls && cls ≤ 7) || cls == 9))

/-- Something leaves the device; an edge, a release, and bits of a serial encoder, only through a ball that its function drives. -/
def State.emit (s : State) (o : Output) : State :=
  match o with
  | .edge cls idx _ _ _ => if s.taken (outBank cls idx) && !s.scanned cls then { s with out := o :: s.out } else s
  | .clock cls idx _ _ _ => if s.taken (outBank cls idx) && !s.scanned cls then { s with out := o :: s.out } else s
  | .hiZ cls idx _ => if s.taken (outBank cls idx) && !s.scanned cls then { s with out := o :: s.out } else s
  | .serial cls idx _ => if cls = 8 || s.taken (outBank cls idx) && !s.scanned cls then { s with out := o :: s.out } else s
  | _ => { s with out := o :: s.out }

/-- The interrupt status bit and enable of a vector. -/
def intStat (v : Nat) : Fld := ⟨if v < 32 then 0x300 else 0x304, 0, 0, v % 32, v % 32, false⟩
/-- The enable bit of a vector. -/
def intEn (v : Nat) : Fld := ⟨if v < 32 then 0x308 else 0x30C, 0, 0, v % 32, v % 32, false⟩
/-- The pending bit of a vector in the PBA. -/
def pbaBit (v : Nat) : Fld := ⟨0x1800 + 4 * (v / 32), 0, 0, v % 32, v % 32, false⟩

/-- Can a message of the vector be sent now: the link is up, MSI-X enabled, neither the function nor the vector masked? -/
def State.msixOpen (s : State) (v : Nat) : Bool :=
  s.bus.link && s.bus.msixEn && !s.bus.fmask && s.rd (R.MSIX_CTRL.MASK.j v) == 0

/-- A message for a vector is generated: sent, or pending in the PBA (R451). -/
def State.message (s : State) (v : Nat) : State :=
  if s.msixOpen v then s.emit (.msix v) else s.wr (pbaBit v) 1

/-- The event of a vector acts (R450, R451): the status bit rises and, if enabled, a message goes; an event on a bit already set is noted for R452. -/
def State.intRise (s : State) (v : Nat) : State :=
  if s.rd (intStat v) = 1 then { s with log := { s.log with ints := v :: s.log.ints } }
  else
    let s := s.wr (intStat v) 1
    let s := { s with log := { s.log with sets := ((intStat v).addr, p2 (v % 32)) :: s.log.sets } }
    if s.rd (intEn v) = 1 then s.message v else s

/-! ### The merge of event records (R88) -/

/-- The TSU number of a record that no ball group's TSU stamps (DESIGN CHOICE: the spec numbers the TSUs of the ball groups only, log entry 56). -/
def noTsu : Nat := 24

/-- The TSU that stamps the event of a vector (R469): PPS_IN, the feedback channels, the capture inputs, PMB_ALERT_N. -/
def intTsu (v : Nat) : Nat :=
  if v = 12 then 1 else if v = 14 then 16 else if 32 ≤ v && v < 48 then 2 + (v - 32) / 4
  else if 48 ≤ v && v < 52 then 0 else if 52 ≤ v && v < 56 then 1 else noTsu

/-- Does one record leave the merge before another: an earlier stamp, then a lower TSU number, then a lower source index? -/
def MergeRec.before (x y : MergeRec) : Bool :=
  x.at_ < y.at_ || x.at_ == y.at_ && (x.tsu < y.tsu || x.tsu == y.tsu && x.idx < y.idx)

/-- A record takes its place in the merge, behind those it does not precede. -/
def mergeIn (r : MergeRec) : List MergeRec → List MergeRec
  | [] => [r]
  | x :: t => if r.before x then r :: x :: t else x :: mergeIn r t

/-- The rim clocks that a record spends between its stamp and its leaving the merge. -/
def mergeClocks : Nat := 4000

/-- A record whose stamp lies `age` clocks back enters the merge. -/
def State.toMerge (s : State) (age tsu idx : Nat) (b : MergeBody) : State :=
  { s with blt := { s.blt with merge := mergeIn ⟨s.tb.rim + (mergeClocks - age), tsu, idx, b⟩ s.blt.merge } }

/-- An event of a vector with a stamp that lies `age` clocks back becomes an interrupt status record. -/
def State.raiseIntAt (s : State) (v age : Nat) : State := s.toMerge age (intTsu v) v (.int v)

/-- An event of a vector at the present tick becomes an interrupt status record, which leaves the merge 4 µs later. -/
def State.raiseInt (s : State) (v : Nat) : State := s.raiseIntAt v 0

/-- The summary vector that names a flag register's bits (R450). -/
def summaryVec (a mask : Nat) : Option Nat :=
  if a = 0x68004C || a = 0x680078 then some 7
  else if a = 0x6C004C || a = 0x6C0078 then some 8
  else if a = 0x700040 then some 9
  else if 0x400000 ≤ a && a < 0x428000 && a % 0x400 = 0x108 then (if bit mask 2 then some 10 else none)
  else if 0x640000 ≤ a && a < 0x641800 && a % 0x200 = 0x68 then (if bit mask 3 then some 11 else none)
  else if a = 0x7F0100 || a = 0x7F0104 then some 14
  else if a = 0x30018 then (if bit mask 7 then some 1 else none)
  else if a = 0x3C0030 then (if bit mask 29 then some 2 else none)
  else if a = 0x300050 then (if bit mask 22 then some 3 else none)
  else if a = 0x20014 then (if bit mask 15 then some 0 else if bit mask 14 then some 12 else none)
  else none

/-- Hardware sets bits of a register: they read 1, a software clear on this tick loses (R54), and the rise of a bit raises its summary vector (R450). -/
def State.setMask (s : State) (a mask : Nat) : State :=
  let w := s.raw a
  let rise := (Nat.xor w (w ||| mask)) != 0
  let s := s.putRaw a (w ||| mask)
  let s := { s with log := { s.log with sets := (a, mask) :: s.log.sets } }
  match summaryVec a mask with
  | some v => if rise || a = 0x20014 then s.raiseInt v else s
  | none => s

/-- Hardware sets a flag. -/
def State.flag (s : State) (f : Fld) : State := s.setMask f.addr f.mask

/-- Hardware sets one bit of a field of flags. -/
def State.flagBit (s : State) (f : Fld) (b : Nat) : State := s.setMask f.addr (p2 (f.lo + b))

/-- A saturating counter counts one event; reaching all-ones sets its OVF bit, and so does an event on the tick on which software wrote all-ones (R15, R62, R63). -/
def State.bump (s : State) (f ovf : Fld) : State :=
  let top := p2 (f.hi + 1 - f.lo) - 1
  let c := s.raw f.addr
  let v := bits c f.hi f.lo
  let s := { s with log := { s.log with incs := (f.key, ovf.key) :: s.log.incs } }
  if v = top then (if s.log.wrote.contains f.key then s.flag ovf else s)
  else
    let s := s.wr f (v + 1)
    if v + 1 = top then s.flag ovf else s

/-- A saturating counter counts n events. -/
def State.bumpN (s : State) (f ovf : Fld) : Nat → State
  | 0 => s
  | n + 1 => (s.bump f ovf).bumpN f ovf n

/-! ### Repair of triplicated words (R60, R61) -/

/-- The key under which the tick remembers a repair: of copy set c of word a, by the scrubber or by a use, which no later write of the tick discards. -/
def healKey (use : Bool) (c a : Nat) : Nat := a + c * barSize + (if use then 8 * barSize else 0)

/-- TMR_SCRUB and TMR_LAST show the repairs of this tick, on top of what they held before the first of them. -/
def State.showHeals (s : State) : State :=
  match s.log.scrub0 with
  | none => s
  | some (w, last) =>
    let n := (s.log.scrubs.map (·.2)).foldl (· + ·) 0
    let top := p2 24 - 1
    let c := min top (bits w 23 0 + n)
    let s := s.putRaw R.TMR_SCRUB.COUNT.addr (setBits (setBits w 23 0 c) 31 31 (if c = top && n ≠ 0 then 1 else bits w 31 31))
    s.putRaw R.TMR_LAST.OFFSET.addr ((s.log.scrubs.head?.map fun x => x.1 % barSize).getD last)

/-- The copies of one triplicated word, shadow (c = 0) or active (c = 1), are voted, and a copy that disagrees is rewritten; each field corrected counts (R60). -/
def State.healWord (use : Bool) (c a : Nat) (s : State) : State :=
  let x := s.raw (a + c * barSize)
  let y := s.raw (a + (c + 2) * barSize)
  let z := s.raw (a + (c + 4) * barSize)
  let v := maj3 x y z
  if x = v && y = v && z = v then s
  else
    let bad := match Sys2Proof.Machine.rowAt a with
      | none => ([] : List FieldRow)
      | some r => r.fs.filter fun (f : FieldRow) => bits x f.hi f.lo != bits v f.hi f.lo || bits y f.hi f.lo != bits v f.hi f.lo || bits z f.hi f.lo != bits v f.hi f.lo
    let s := ((s.putRaw (a + c * barSize) v).putRaw (a + (c + 2) * barSize) v).putRaw (a + (c + 4) * barSize) v
    let was := s.log.scrub0.getD (s.raw R.TMR_SCRUB.COUNT.addr, s.raw R.TMR_LAST.OFFSET.addr)
    { s with log := { s.log with scrub0 := some was, scrubs := (healKey use c a, bad.length) :: s.log.scrubs } }.showHeals

/-- Every triplicated word that a copy lists. -/
def State.tmrWords (s : State) : List Nat := ((s.regs.map fun x => x.1 % barSize).filter isTmr).eraseDups

/-- A use of the parameters of a copy set, which votes each of them (R60): the active one by the unit, the shadow by a commit copy. -/
def State.tmrUse (c : Nat) (s : State) : State := forEach s.tmrWords (fun a s => s.healWord true c a) s

/-- Software stores a triplicated word: a repair of it by the scrubber on this tick is discarded and not counted (R61). -/
def State.unscrub (s : State) (a : Nat) : State :=
  if s.log.scrubs.any fun x => x.1 == healKey false 0 a then
    { s with log := { s.log with scrubs := s.log.scrubs.filter fun x => x.1 != healKey false 0 a } }.showHeals
  else s

/-- The increments a counter took on this tick, each by the key of its OVF bit. -/
def State.incsOf (s : State) (key : Nat) : List Nat := (s.log.incs.filter fun p => p.1 == key).map (·.2)

/-- The bits of a word that hardware set on this tick. -/
def State.setsOf (s : State) (a : Nat) : Nat :=
  (s.log.sets.filter fun p => p.1 == a).foldl (fun m p => m ||| p.2) 0

/-- A free value and its use counted. -/
def State.useFree (s : State) : State := { s with free := s.free + 1 }

end Sys2Proof.Machine
end

