-- ==== Sys2Proof/Machine/Sched.lean ====
section
/-! DEFINITION. The present time and mode, and the work that Ductus ends every tick with (R405 to R412): result releases and dispatches; and the interrupt lines of the Serif cores (R391). -/

namespace Sys2Proof.Machine

/-! ### Time and mode -/

/-- Time of the active domain in ns. -/
def State.now (s : State) : Nat := (if s.tb.actP then s.tb.accP else s.tb.accL) / p2 32 % p2 32
/-- The accumulator of the active domain. -/
def State.acc (s : State) : Nat := if s.tb.actP then s.tb.accP else s.tb.accL
/-- The wrap sequence number of the active domain. -/
def State.wseq (s : State) : Nat := if s.tb.actP then s.tb.wseqP else s.tb.wseqL
/-- The fraction of the active domain (TB_FRAC). -/
def State.frac (s : State) : Nat := s.acc / p2 16 % p2 16

/-! ### Modes (R111, R112) -/

/-- The operating mode: 0 BOOT, 1 LISTEN, 2 LEAD, 3 SHADOW, 4 NODE, 5 BRIDGE, 6 HOLD, 7 SERVICE. -/
def State.mode (s : State) : Nat := s.rd R.MOD_STATE.MODE
/-- MOD_STATE.FROM. -/
def State.from_ (s : State) : Nat := s.rd R.MOD_STATE.FROM
/-- The role that the device plays: in HOLD and SERVICE that of the mode left. -/
def State.roleMode (s : State) : Nat := if s.mode == 6 || s.mode == 7 then s.from_ else s.mode
/-- Is the device out of reset? -/
def State.alive (s : State) : Bool := !s.dev.inReset
/-- Is the device in an operating mode with an image? -/
def State.operating (s : State) : Bool := s.alive && 2 ≤ s.mode

/-- Is power domain d on (R476)? -/
def State.dom (s : State) (d : Nat) : Bool := bit (s.rd R.PWR_DOM.ON) d

/-! ### Serif cores (R378, R391, R398) -/

/-- Serif core d. -/
def State.serif (s : State) (d : Nat) : Serif := tget .zero s.serifs d
/-- Replace a Serif core. -/
def State.putSerif (s : State) (d : Nat) (c : Serif) : State := { s with serifs := tput .zero s.serifs d c }
/-- Is core d powered, clocked, and in order: neither under test nor held by a verdict (R378, R428, R429)? -/
def State.serifOn (s : State) (d : Nat) : Bool := s.alive && s.tb.run && s.dom (11 + d) && !bit s.spr.serifDead d && !s.spr.out.contains (0x6000 + d)
/-- Is core d periodic (R397)? -/
def State.periodic (s : State) (d : Nat) : Bool := s.rd (R.SF_CFG.PERIODIC.i d) == 1
/-- RUN. -/
def State.serifRun (s : State) (d : Nat) : Bool := s.rd (R.SF_CTRL.RUN.i d) == 1

/-- IE of ST. -/
def Serif.ie (c : Serif) : Bool := bit c.st 15
/-- LDEPTH; above 2 acts as 2 (R395). -/
def Serif.ldepth (c : Serif) : Nat := min 2 (bits c.st 13 12)
/-- LMASK. -/
def Serif.lmask (c : Serif) : Nat := min 2 (bits c.st 11 10)
/-- Is the core idle? -/
def Serif.idle (c : Serif) : Bool := c.task == 0 && c.hdl == 0
/-- Can an interrupt be taken (R392)? -/
def Serif.takeable (c : Serif) : Bool := c.ie && (c.ipend &&& c.ien) % 256 != 0

/-- SF_STAT shows the core. -/
def State.showSerif (s : State) (d : Nat) : State :=
  let c := s.serif d
  let st := if c.hdl ≠ 0 then 3 else if c.task ≠ 0 then 2 else if s.serifRun d && s.serifOn d then 1 else 0
  s.putRaw (R.SF_STAT.STATE.i d).addr
    (st * p2 30 + b2n c.armed * p2 29 + c.ldepth * p2 26 + c.rot % 16 * p2 22 + c.st % 16 * p2 16 + c.pc % p2 13)

/-- An event of an interrupt line (R391): it pends, or is lost on a line already pending. -/
def State.irqPend (s : State) (d line : Nat) : State :=
  let c := s.serif d
  if !(s.alive && s.dom (11 + d)) then s
  else if bit c.ipend line then s.flag (R.SF_FLAGS.IRQ_LOST.i d)
  else s.putSerif d { c with ipend := c.ipend ||| p2 line }

/-- An event of a line that a selector field names. -/
def State.irqSel (s : State) (line : Nat) (f : Fld) (sel : Nat → Bool) : State :=
  forEach [0, 1, 2, 3] (fun d s => if sel (s.act (f.i d)) then s.irqPend d line else s) s

/-! ### Ductus items and lists (R403 to R406) -/

/-- The item in a slot. -/
def State.item (s : State) (n : Nat) : Item := tget .none s.dct.items n
/-- Replace the item of a slot. -/
def State.putItem (s : State) (n : Nat) (i : Item) : State :=
  { s with dct := { s.dct with items := tput .none s.dct.items n i } }
/-- A ready list by class and priority. -/
def State.readyL (s : State) (k : Nat) : List Nat := tget [] s.dct.ready k
/-- Replace a ready list. -/
def State.putReady (s : State) (k : Nat) (l : List Nat) : State :=
  { s with dct := { s.dct with ready := tput [] s.dct.ready k l } }

/-- DCT_LISTS shows the lists. -/
def State.showLists (s : State) : State :=
  let n := fun k0 : Nat => ((List.range 8).map fun p => (s.readyL (k0 + p)).length).foldl (· + ·) 0
  ((s.wrU R.DCT_LISTS.READY_S (n 0)).wrU R.DCT_LISTS.READY_F (n 8)).wrU R.DCT_LISTS.DELAY s.dct.delay.length

/-- OBS as it acts (R412). -/
def State.obs (s : State) : Nat := let o := s.rd R.DCT_CFG.OBS; if o = 3 then 0 else o

/-- One record of the decision trace (R412). -/
def State.trace (s : State) (kind slot core : Nat) : State :=
  if s.obs ≠ 2 then s
  else
    let n := s.dct.traceN
    let stop := s.rd R.DCT_CFG.TRACE_STOP == 1
    if 512 ≤ n && stop then s.flag R.DCT_FLAGS.TRACE_FULL
    else
      let r := n % 512
      let i := s.item slot
      let s := (s.wr (R.DCT_TRACE.STAMP.j r) s.now).putRaw (R.DCT_TRACE2.KIND.j r).addr
        (kind * p2 28 + i.cls % 2 * p2 27 + i.prio % 8 * p2 24 + core % 16 * p2 20 + i.flow % 16 * p2 16 + slot % 256 * p2 8)
      let s := { s with dct := { s.dct with traceN := n + 1 } }
      let s := s.wr R.DCT_TRACE_PTR.NEXT ((n + 1) % 512)
      if 512 ≤ n then s.wr R.DCT_TRACE_PTR.WRAPPED 1
      else if n + 1 = 512 && stop then s.flag R.DCT_FLAGS.TRACE_FULL else s

/-- The statistics index of an item. -/
def Item.key (i : Item) : Nat := i.cls % 2 * 8 + i.prio % 8

/-- An item enters its ready list. -/
def State.toReady (s : State) (slot : Nat) : State :=
  let i := { s.item slot with stage := 1, readyAt := s.tb.rim }
  let s := (s.putItem slot i).putReady i.key (s.readyL i.key ++ [slot])
  let s := { s with dct := { s.dct with turn := true } }.showLists
  let f := R.DCT_STAT2.MAXDEPTH.j i.key
  if s.obs = 1 then s.wrU f (max (s.rd f) (s.readyL i.key).length) else s

/-! ### Results (R408 to R410) -/

/-- The result FIFO of a port. -/
def State.fifo (s : State) (p : Nat) : List ResEntry := if p = 0 then s.dct.fifoH else s.dct.fifoS

/-- Replace the result FIFO of a port; its registers show it. -/
def State.putFifo (s : State) (p : Nat) (l : List ResEntry) : State :=
  let s := if p = 0 then { s with dct := { s.dct with fifoH := l } } else { s with dct := { s.dct with fifoS := l } }
  let h := l.headD ⟨0, 0⟩
  ((s.wr (R.RES_A.VALUE.j p) h.a).wr (R.RES_B.VALUE.j p) h.b).wr (R.RES_LVL.VALUE.j p) l.length

/-- An item ends (R408): its result waits to be released, and Ductus looks at the end of this tick. -/
def State.endItem (s : State) (slot status result : Nat) : State :=
  let s := s.putItem slot { s.item slot with stage := 3, status := status, result := result }
  { s with dct := { s.dct with ended := s.dct.ended ++ [slot], turn := true } }

/-- Can a waiting result be released: room in its FIFO and, in an ordered flow, its turn (R409, R410)? -/
def State.releasable (s : State) (slot : Nat) : Bool :=
  let i := s.item slot
  (s.fifo i.port).length < 32 && (i.flow == 0 || i.seq == s.rd (R.DCT_FLOW.NEXT.j i.flow))

/-- INFLIGHT shows the items of a flow. -/
def State.showFlow (s : State) (f : Nat) : State :=
  s.wrU (R.DCT_FLOW.INFLIGHT.j f) (s.dct.items.filter fun x => x.2.flow == f).length

/-- A result enters its FIFO and its slot is free. -/
def State.release (s : State) (slot : Nat) : State :=
  let i := s.item slot
  let l := s.fifo i.port
  let s := s.trace 5 slot 0
  let s := s.putFifo i.port (l ++ [(⟨i.status * p2 28 + i.flow % 16 * p2 24 + slot % 256 * p2 16 + i.seq % p2 16, i.result⟩ : ResEntry)])
  let s := if l.isEmpty && i.port = 0 then s.raiseInt 5 else s
  let s := s.putItem slot .none
  let s := { s with dct := { s.dct with ended := s.dct.ended.erase slot } }
  let s := s.showFlow i.flow
  if i.flow = 0 then s else s.wr (R.DCT_FLOW.NEXT.j i.flow) (i.seq + 1)

/-- Release what can be released, in the order of the ends; each release may free the turn of another. -/
def State.releaseAll (s : State) : Nat → State
  | 0 => s
  | n + 1 =>
    match s.dct.ended.find? s.releasable with
    | none => s
    | some slot => (s.release slot).releaseAll n

/-! ### Submissions (R404, R405) -/

/-- The next sequence number of a flow. -/
def State.nextSeq (s : State) (f : Nat) : Nat := tget 0 s.dct.seqs f

/-- The lowest free item slot. -/
def State.freeSlot (s : State) : Option Nat := (List.range 256).find? fun n => (s.item n).stage == 4

/-- The aperiodic Serif cores of the image (APER). -/
def State.aper (s : State) : Nat := s.rd R.DCT_CFG.APER

/-- Insert a slot by DUE counted from the present tick, behind equal ones (R405); items that fell due by a step stand before those ahead. -/
def insDue (now : Nat) (due : Nat → Nat) (n : Nat) : List Nat → List Nat
  | [] => [n]
  | x :: r => if sx 32 (sub32 (due n) now) < sx 32 (sub32 (due x) now) then n :: x :: r else x :: insDue now due n r

/-- An item enters the delay list. -/
def State.toDelay (s : State) (slot : Nat) : State :=
  { s with dct := { s.dct with delay := insDue s.now (fun n => (s.item n).due) slot s.dct.delay } }.showLists

/-- A submission is refused: RES, the count and the flag of its cause (R404). -/
def State.refuse (s : State) (p res : Nat) (f : Fld) : State :=
  ((s.wr (R.SUB_RES.RES.j p) res).bump R.DCT_CNT.REFUSED R.DCT_FLAGS.REF_OVF).flag f

/-- A refusal in the trace names the staged item, which has no slot. -/
def State.traceRefusal (s : State) (i : Item) : State :=
  if s.obs = 2 then
    let old := s.item 0
    ((s.putItem 0 i).trace 7 0 0).putItem 0 old
  else s

/-- The submission of port p: the checks of R404 in order, and acceptance. -/
def State.submitGo (s : State) (p : Nat) (i : Item) : State :=
  let d := sub32 i.due s.now
  let later := i.timed && 0 < d && d < p2 31
  let bad := i.cls == 1 && (if i.cores = 0 then s.aper else s.aper &&& i.cores) == 0
  if bad then (s.refuse p 4 R.DCT_FLAGS.BAD_ITEM).traceRefusal i
  else match s.freeSlot with
    | none => (s.refuse p 1 R.DCT_FLAGS.POOL_FULL).traceRefusal i
    | some n =>
      if i.flow ≠ 0 && 32 ≤ s.rd (R.DCT_FLOW.INFLIGHT.j i.flow) then
        (s.refuse p 2 R.DCT_FLAGS.FLOW_FULL).traceRefusal i
      else if later && 128 ≤ s.dct.delay.length then (s.refuse p 3 R.DCT_FLAGS.DELAY_FULL).traceRefusal i
      else
        let q := s.nextSeq i.flow
        let s := s.putItem n { i with seq := q }
        let s := { s with dct := { s.dct with seqs := tput 0 s.dct.seqs i.flow ((q + 1) % p2 16) } }
        let s := (s.showFlow i.flow).trace 1 n 0
        let s := s.putRaw (R.SUB_RES.RES.j p).addr (n * p2 16 + q)
        let s := if i.timed && !later then s.bump R.DCT_CNT.PAST R.DCT_FLAGS.PAST_OVF else s
        if later then s.toDelay n else s.toReady n

/-- The submission that waits at port p is judged; a GO discarded meanwhile makes its result read 0x5. -/
def State.submitDue (s : State) (p : Nat) : State :=
  match tget none s.dct.subs p with
  | none => s
  | some (i, again) =>
    let s := { s with dct := { s.dct with subs := tput none s.dct.subs p none } }.submitGo p i
    if again then s.wr (R.SUB_RES.RES.j p) 5 else s

/-! ### Dispatch (R406) -/

/-- Is core c (0 to 3 Scribe, 4 to 7 Serif) eligible? -/
def State.eligible (s : State) (c : Nat) : Bool :=
  !s.log.done.contains c &&
    (if c < 4 then
      s.alive && s.tb.run && s.dct.restart.isNone && !bit s.spr.scribeDead c && !s.spr.out.contains (0x7000 + c) &&
        !s.dct.run.any (fun r => r.1 == c)
    else
      let d := c - 4
      s.serifOn d && s.mode != 0 && !s.periodic d && s.serifRun d && (s.serif d).idle)

/-- The item that core c takes: the oldest of the highest priority that names it. -/
def State.nextItem (s : State) (c : Nat) : Option Nat :=
  (List.range 8).findSome? fun p =>
    (s.readyL (c / 4 * 8 + p)).find? fun n => (s.item n).cores == 0 || bit (s.item n).cores (c % 4)

/-- An item starts on a core (R403): on a Serif core F0 takes ARG and PC takes ENTRY. -/
def State.startItem (s : State) (c slot : Nat) : State :=
  let i := s.item slot
  let s := (s.putItem slot { i with stage := 2, core := c % 4 }).putReady i.key ((s.readyL i.key).erase slot)
  let s := (s.showLists).trace 3 slot (c % 4)
  let s := if s.obs = 1 then
      (let s := s.bump (R.DCT_STAT.DISP.j i.key) (R.DCT_STAT.OVF.j i.key)
       let w := roundOpen (((s.tb.rim - i.readyAt : Nat) : Rat) / 1000)
       s.wrU (R.DCT_STAT2.MAXWAIT.j i.key) (max (s.rd (R.DCT_STAT2.MAXWAIT.j i.key)) w.toNat))
    else s
  if c < 4 then { s with dct := { s.dct with run := s.dct.run ++ [(c, slot)] } }
  else
    let d := c - 4
    let r := s.serif d
    (s.putSerif d { r with f := tput 0 r.f 0 i.arg, pc := i.entry % p2 13, task := 2, slot := slot, irq := r.takeable }).showSerif d

/-- The dispatch of one core. -/
def State.dispatch (s : State) (c : Nat) : State :=
  if s.eligible c then
    match s.nextItem c with
    | some slot => s.startItem c slot
    | none => s
  else s

/-- The end of a tick (R407): the submissions of port 1, then of port 0, result releases, dispatches. A core that completed on this tick looks again on the next. -/
def State.tickEnd (s : State) : State :=
  let again := !s.log.done.isEmpty
  let s := (s.submitDue 1).submitDue 0
  let s := s.releaseAll s.dct.ended.length
  let s : State := forEach [0, 1, 2, 3, 4, 5, 6, 7] (fun c s => s.dispatch c) s
  { s with dct := { s.dct with turn := again } }

end Sys2Proof.Machine
end

