-- ==== Sys2Proof/Machine/Ops.lean ====
section
/-! DEFINITION. The named operations over the state: time, the base lattice, modes, power domains, memory, the journal, guards, and the servo of the time base. -/

namespace Sys2Proof.Machine

/-! ### Time (R70, R71, R76, R82) -/

/-- A rate word as it is in force (R70). -/
def rateClamp (r : Int) : Int := clampI r (-858993) 858993

/-- What a rim clock adds to domain L, without slew. -/
def State.incL (s : State) : Int := (p2 32 : Int) + rateClamp (sx 32 (s.rd R.TB_RATE.RATE))
/-- What a rim clock adds to domain P. -/
def State.incP (s : State) : Int := (p2 32 : Int) + rateClamp (sx 32 (s.rd R.TB_P_RATE.RATE))

/-- SLEW_MAX as it acts: 0 as 1, above 200 as 200. -/
def State.slewPpm (s : State) : Nat := max 1 (min 200 (s.rd R.TB_CTRL.SLEW_MAX))
/-- What a rim clock of slew adds, in 2^-32 ns. -/
def State.slewUnit (s : State) : Nat := s.slewPpm * p2 32 / 1000000

/-- The slew that n rim clocks apply out of a remainder. -/
def slewOf (rem : Int) (u n : Nat) : Int :=
  let k := min rem.natAbs (n * u)
  if rem < 0 then -(k : Int) else (k : Int)

/-- The remainder in whole ns as TB_ADJ_REM shows it: away from 0, so that it reads 0 only when the slew has ended. -/
def remNs (r : Int) : Int :=
  let q := ceilDiv r.natAbs (p2 32)
  if r < 0 then -(q : Int) else (q : Int)

/-- The time base after n rim clocks: both accumulators advance, domain L by the slew too (DESIGN CHOICE where domain P is still active in LEAD, before the rebase of R84: R76 does not say which domain the slew moves there; log entry 57), the inactive domain counts its own wraps, and a wrap of the active domain waits to be signalled. -/
def TimeBase.clocks (t : TimeBase) (incL incP : Int) (u n : Nat) : TimeBase :=
  let k := slewOf t.remF u n
  let l := (t.accL + (n * incL + k).toNat)
  let p := (t.accP + (n * incP).toNat)
  let wl := l / p2 64
  let wp := p / p2 64
  { t with
    rim := t.rim + n, boot := t.boot + n, accL := l % p2 64, accP := p % p2 64,
    remF := t.remF - k, slewSum := t.slewSum + k,
    wseqL := if t.actP then (t.wseqL + wl) % 256 else t.wseqL,
    wseqP := if t.actP then t.wseqP else (t.wseqP + wp) % 256,
    wrapDue := t.wrapDue || (if t.actP then wp != 0 else wl != 0) }

/-- The time base runs on by n rim clocks, and a new tick begins. -/
def State.clockOn (s : State) (n : Nat) : State :=
  if n = 0 then s
  else
    let s := { s with log := .none }
    if s.tb.run then
      let r := s.tb.remF
      let s := { s with tb := s.tb.clocks s.incL s.incP s.slewUnit n }
      if r = 0 then s else s.wr R.TB_ADJ_REM.REM (unsx 32 (remNs s.tb.remF))
    else { s with tb := { s.tb with boot := s.tb.boot + n } }

/-! ### The RAM queue of the journal (R419) -/

/-- Is an entry a fault entry? -/
def BltEntry.fault (e : BltEntry) : Bool := bit e.flags 0

/-- The queue without its oldest non-fault entry. -/
def dropNonFault : List BltEntry → List BltEntry
  | [] => []
  | e :: t => if e.fault then e :: dropNonFault t else t

/-- SCR_BLQ shows the queue. -/
def State.showQueue (s : State) : State :=
  (s.wr R.SCR_BLQ.LEVEL s.blt.queue.length).wr R.SCR_BLQ.FAULTS (s.blt.queue.filter (·.fault)).length

/-- An entry enters the RAM queue; a fault entry raises vector 6. -/
def State.enqueueEntry (s : State) (e : BltEntry) : State :=
  let s := { s with blt := { s.blt with queue := s.blt.queue ++ [e] } }
  let s := s.showQueue
  if e.fault then s.raiseInt 6 else s

/-- An entry is offered to the RAM queue under the admission rules of R419. -/
def State.offer (s : State) (e : BltEntry) : State :=
  let q := s.blt.queue
  let nf := (q.filter fun x => !x.fault).length
  let full := 64 ≤ q.length
  let drop := fun (s : State) =>
    (({ s with blt := { s.blt with queue := dropNonFault q } }).bump R.SCR_BLQ.DROPPED R.SCR_BLQ.OVF)
  if e.fault then
    if full then
      if nf = 0 then { s with blt := { s.blt with held := s.blt.held ++ [{ e with flags := e.flags ||| 8 }] } }
      else (drop s).enqueueEntry e
    else s.enqueueEntry e
  else if 48 ≤ nf || full then
    if nf = 0 then s.bump R.SCR_BLQ.DROPPED R.SCR_BLQ.OVF else (drop s).enqueueEntry e
  else s.enqueueEntry e

/-! ### Records leave the merge (R88) -/

/-- A record that has left the merge acts (R88): an interrupt status record sets its bit, a journal entry is offered to the RAM queue. -/
def State.mergeOut (s : State) (b : MergeBody) : State :=
  match b with
  | .int v => s.intRise v
  | .entry e => s.offer e

/-- n rim clocks later, every record whose time comes within them having left the merge at its clock (R88). The first argument bounds how many can: the records in the merge, and the vector 6 event that each journal entry may cause. -/
def State.runOn : Nat → State → Nat → State
  | 0, s, n => s.clockOn n
  | k + 1, s, n =>
    match s.blt.merge with
    | [] => s.clockOn n
    | r :: t =>
      let d := r.at_ - s.tb.rim
      if s.tb.run && d ≤ n then
        let s := s.clockOn d
        State.runOn k ({ s with blt := { s.blt with merge := t } }.mergeOut r.body) (n - d)
      else s.clockOn n

/-- n rim clocks pass, with what the merge lets out in them. -/
def State.pass (s : State) (n : Nat) : State := State.runOn (2 * s.blt.merge.length) s n

/-- The state n rim clocks later. Ductus first ends the present tick (R407); a core that completed an item on it may take one a clock later. -/
def State.after (s : State) (n : Nat) : State :=
  if n = 0 then s
  else
    let s := onlyIf s.dct.turn State.tickEnd s
    if s.dct.turn && 1 < n then ((s.pass 1).tickEnd).pass (n - 1) else s.pass n

/-- Is a tick still ahead of the present one, within half the range of TB_NS (R11)? -/
def State.ahead (s : State) (t : Nat) : Bool := 0 < sub32 t s.now && sub32 t s.now < p2 31

/-- The least number of rim clocks in which the active domain advances by `need` units of 2^-32 ns. -/
def State.clocksFor (s : State) (need : Nat) : Nat :=
  if s.tb.actP then ceilDiv need s.incP.toNat
  else
    let i := s.incL.toNat
    let u := s.slewUnit
    let a := s.tb.remF.natAbs
    if s.tb.remF = 0 then ceilDiv need i
    else if 0 < s.tb.remF then max (ceilDiv need (i + u)) (ceilDiv (need - a) i)
    else min (ceilDiv need (i - u)) (ceilDiv (need + a) i)

/-- The rim clocks until the active TB_NS equals or passes a tick (R71); none for a tick that is not ahead. -/
def State.clocksTo (s : State) (t : Nat) : Nat :=
  if s.ahead t then s.clocksFor (sub32 t s.now * p2 32 - s.acc % p2 32) else 0

/-- The state at the clock that performs the actions of a tick. -/
def State.runTo (s : State) (t : Nat) : State := s.after (if s.tb.run then s.clocksTo t else 0)

/-- The state at a programmed tick; none where the tick is neither ahead nor just reached, so that its event does not fall now. One clock covers at most two ticks (R71). -/
def State.reach (s : State) (t : Nat) : Option State :=
  if !s.tb.run then none
  else if s.ahead t then some (s.runTo t)
  else if sub32 s.now t ≤ 1 then some s else none

/-- The state at a rim clock counted from PLL lock. -/
def State.runRim (s : State) (r : Nat) : State := s.after (if s.tb.run then r - s.tb.rim else 0)

/-! ### The base lattice (R22, R490) -/

/-- The tick of the next base boundary. -/
def State.nextB (s : State) : Nat := add32 s.tb.latB 31250

/-- The lattice through tick b with index k, moved to the latest boundary before the present tick, so that the next one is the first at or after it. -/
def State.setLattice (s : State) (b k : Nat) : State :=
  let d : Int := sx 32 (sub32 s.now b)
  let j := (d - 1) / 31250
  let s := { s with tb := { s.tb with latB := unsx 32 ((b : Int) + 31250 * j) }, pwr := { s.pwr with winK := p2 32 } }
  s.wr R.TB_PERIOD.INDEX (unsx 32 ((k : Int) + j))

/-- The index of the latest base boundary. -/
def State.baseK (s : State) : Nat := s.rd R.TB_PERIOD.INDEX

/-- Base periods in a period of rate group g (R23). -/
def State.rgN (s : State) (g : Nat) : Nat := p2 (s.rd (R.RG_CFG.PERIOD.j g))
/-- RG_PHASE of rate group g. -/
def State.rgPhase (s : State) (g : Nat) : Nat := s.rd (R.RG_CFG.PHASE.j g)
/-- RG_OUT_OFS of rate group g. -/
def State.rgOfs (s : State) (g : Nat) : Nat := s.rd (R.RG_CFG.OUT_OFS.j g)
/-- Does the image define rate group g? -/
def State.rgDef (s : State) (g : Nat) : Bool := bit s.dev.cfg.rgDef g
/-- Is base index k a boundary of rate group g (R23), its settings being in force (R24)? -/
def State.rgAt (s : State) (g k : Nat) : Bool :=
  s.dev.rgIn && s.rgDef g && k % s.rgN g == s.rgPhase g

/-- Ticks in a solver period (R29) as base periods: 4, 8 or 16. -/
def State.tsN (s : State) : Nat := 4 * p2 (min 2 (s.rd R.RUL_CFG.TS))
/-- Is base index k a solver sample instant (R29)? -/
def State.solveAt (s : State) (k : Nat) : Bool := k % s.tsN == 0

/-- The first base index after k that satisfies a test, looking at most n ahead. -/
def nextIdx (p : Nat → Bool) (k : Nat) : Nat → Option Nat
  | 0 => none
  | n + 1 => if p (k + 1) then some (k + 1) else nextIdx p (k + 1) n

/-! ### Memory (R65) -/

/-- What an unlisted byte reads as: flash bytes erased, C_MAIN of the ten LANE_CFG words of space 0x04 at its reset value (R309), every other byte 0. -/
def cellDef (k : Nat) : Byte :=
  if k / p2 32 = 1 ∨ k / p2 32 = 2 then 0xFF
  else if k / p2 24 = 4 ∧ k % 256 = 1 ∧ k % p2 24 < 0xA00 then 0x3F
  else 0

/-- The canonical form of memory: addresses rising, no byte equal to what an unlisted address reads as. -/
def Memory.wf (m : List Host.Cell) : Bool := twf cellDef m

/-- The key of a byte address in a space: spaces 0x01 to 0x08 of R65; 0x10 to 0x15 the destinations of R492 that no window reaches (Scribe code, configuration store, presets, Separation and Margin parameters, ring-writable list, solver formats); 0x100 and 0x200 the flash on chip selects 0 and 1. -/
def cellKey (sp a : Nat) : Nat := sp * p2 24 + a

/-- One byte of a space. -/
def State.mem8 (s : State) (sp a : Nat) : Nat :=
  (tget (cellDef (cellKey sp a)) s.mem (cellKey sp a)).toNat
/-- Write one byte of a space. -/
def State.putMem8 (s : State) (sp a v : Nat) : State :=
  let k := cellKey sp a
  { s with mem := tput (cellDef k) s.mem k (BitVec.ofNat 8 v) }
/-- Only the stored bytes that p keeps; the others read as nothing written. -/
def State.keepMem (s : State) (p : Host.Cell → Bool) : State := { s with mem := s.mem.filter p }
/-- A list of bytes of a space. -/
def State.memBytes (s : State) (sp a n : Nat) : List Nat := (List.range n).map fun i => s.mem8 sp (a + i)
/-- A little-endian word of n bytes. -/
def State.memN (s : State) (n sp a : Nat) : Nat := leNat (s.memBytes sp a n)
/-- A 32-bit word. -/
def State.mem32 (s : State) (sp a : Nat) : Nat := s.memN 4 sp a
/-- Write a list of bytes. -/
def State.putBytes (s : State) (sp a : Nat) : List Nat → State
  | [] => s
  | b :: t => (s.putMem8 sp a b).putBytes sp (a + 1) t
/-- Write a 32-bit word. -/
def State.putMem32 (s : State) (sp a v : Nat) : State := s.putBytes sp a (leBytes 4 v)

/-! ### The journal (R436, R437) -/

/-- The device journals an event of a class: its kind within the class, whether it is a fault entry, the unit code, the TSU that stamped it, and the data. It carries the uncalibrated flag of R86 where that TSU has failed its calibration, and enters the merge of R88; a stamp more than 4 µs old leaves it at once. The low byte of the code and data without a stated layout are open. -/
def State.journalAs (s : State) (cls sub : Nat) (fault : Bool) (unit stamp wseq data tsu : Nat) : State :=
  let code := cls * 256 + sub % 256
  let fl := b2n fault + 2 * b2n (bit s.tb.uncal tsu) + 4 * b2n s.tb.actP
  let e : BltEntry := ⟨0, stamp, wseq, fl, unit, code, s.rdw R.MOD_STATE.MODE.addr % p2 16, data, 0⟩
  if s.tb.run then s.toMerge (sub32 s.now stamp) tsu unit (.entry e) else s.offer e

/-- The device journals an event at the present tick, stamped by a TSU. -/
def State.journalBy (s : State) (tsu cls kind : Nat) (fault : Bool) (unit : Nat) : State :=
  s.journalAs cls (Config.eventSub cls kind) fault unit s.now s.wseq (Config.entryData cls kind) tsu

/-- The device journals an event at the present tick that no ball group's TSU stamps. -/
def State.journal (s : State) (cls kind : Nat) (fault : Bool) (unit : Nat) : State := s.journalBy noTsu cls kind fault unit

/-- The unit code of an event without a unit (R444). -/
def noUnit : Nat := 0xF000

/-! ### Units that err (R428, R86) -/

/-- SPR_STAT shows the tests running and waiting. -/
def State.showTests (s : State) : State :=
  (s.wr R.SPR_STAT.ACTIVE (s.spr.reqs.filter fun r => r.started.isSome).length).wrU R.SPR_STAT.WAITING
    (s.spr.reqs.filter fun r => r.started.isNone).length

/-- Waiting requests start in stamp order while fewer than 4 tests run. -/
def startTests (now : Nat) (running : Nat) : List TestReq → List TestReq
  | [] => []
  | r :: t =>
    if r.started.isNone && running < 4 then { r with started := some now } :: startTests now (running + 1) t
    else r :: startTests now running t

/-- Start what can start. -/
def State.runTests (s : State) : State :=
  let n := (s.spr.reqs.filter fun r => r.started.isSome).length
  { s with spr := { s.spr with reqs := startTests s.tb.boot n s.spr.reqs } }.showTests

/-- A detected error of a unit (R428): one request per unit; an error of a unit under test marks that test. A scheduled test of a unit ends without a verdict when the unit errs. -/
def State.unitError (s : State) (unit row : Nat) : State :=
  if s.spr.reqs.any (fun r => r.unit == unit && r.row == row) then
    { s with spr := { s.spr with reqs := s.spr.reqs.map fun r =>
        if r.unit == unit && r.row == row && r.started.isSome then { r with again := true } else r } }
  else
    { s with spr := { s.spr with reqs := s.spr.reqs ++ [(⟨unit, s.now, none, false, false, row⟩ : TestReq)] } }.runTests

/-! ### Mode changes (R111 to R113, R437) -/

/-- Is PPS discipline in force: the mode of R77 and PPS_EN? -/
def State.ppsOn (s : State) : Bool := s.roleMode == 2 && s.rd R.TB_CTRL.PPS_EN == 1

/-- Outside those modes, or with PPS_EN = 0, PPS_LOCK clears and the count restarts (R77). -/
def State.ppsCheck (s : State) : State :=
  if s.ppsOn then s
  else
    let s := { (s.wr R.TB_STAT.PPS_LOCK 0) with tb := { s.tb with ppsRun := 0 } }
    if s.rd R.TB_CTRL.L_SRC = 1 then s.wr R.TB_CTRL.L_SRC 0 else s

/-- The safe outputs. -/
def outSout : Nat := 7

/-- A safe output is commanded to a state; both channels follow (R220). -/
def State.setSout (s : State) (j : Nat) (on : Bool) : State :=
  if (s.rd (R.MGN_SOUT_STAT.ENERGISED.j j) == 1) = on then s
  else
    let o := tget .zero s.mgn.outs j
    let off := fun (f : Fld) => if (s.rd f == 1) = on then none else some s.tb.rim
    let o := { o with
      delay := if on then o.delay else none, onAt := s.tb.rim, pulse := none, lastA := 0, lastB := 0
      offA := off (R.MGN_SOUT_STAT.RB_A.j j), offB := off (R.MGN_SOUT_STAT.RB_B.j j) }
    let s := { s with mgn := { s.mgn with outs := tput .zero s.mgn.outs j o } }
    let s := s.wrB (R.MGN_SOUT_STAT.ENERGISED.j j) on
    let s := if on then s else s.wr (R.MGN_SOUT_STAT.DELAY.j j) 0
    (s.emit (.edge outSout (2 * j) s.now 0 on)).emit (.edge outSout (2 * j + 1) s.now 0 on)

/-- Every safe output is de-energised, as outside LEAD, HOLD and SERVICE (R98, R111, R219). -/
def State.soutsOff (s : State) : State :=
  let s := { s with mgn := { s.mgn with drv := false } }
  forEach [0, 1, 2, 3] (fun j s => s.setSout j false) s

/-- σ in force for queue c as Q1.15; above 1.0 acts as 1.0 (R117). -/
def State.sigmaW (s : State) (c : Nat) : Nat :=
  let src := s.rd (R.CHN_CFG.SCALE_SRC.i c)
  min 0x8000 (if s.rd (R.CHN_CFG.KIND.i c) = 0 then s.rd (R.CHN_RATE.SIGMA.i c)
    else if src < 16 then s.rd (R.CHN_RATE.SIGMA.i src) else 0x8000)

/-- CHN_RATE of the auxiliary queues shows the σ of the chain that SCALE_SRC names, or 1.0 (R117). -/
def State.showAux (s : State) : State :=
  forEach ((List.range 16).filter fun c => s.rd (R.CHN_CFG.KIND.i c) = 1) (fun c s => s.wr (R.CHN_RATE.SIGMA.i c) (s.sigmaW c)) s

/-- Entry into LEAD or SERVICE from LISTEN: σ = 0 and δ = 0 until the first release (R194). -/
def State.zeroSigma (s : State) : State :=
  let s := { s with rul := { s.rul with sigma := [] }, delta := [] }
  (forEach (List.range 16) (fun c s => s.wr (R.CHN_RATE.SIGMA.i c) 0) s).showAux

/-- The event of Inkwell's KIND x for slot n (R249). -/
def State.inkEvent (s : State) (kind n : Nat) : State :=
  let k := s.ink.trig / p2 28
  if k = kind && (kind ≠ 3 && kind ≠ 4 || bits s.ink.trig 15 8 = n) then { s with ink := { s.ink with event := true } } else s

/-- The device changes mode: MODE, FROM under R112, CHANGES, vector 1, the journal entry, and the rate-group settings under R24. -/
def State.enterMode (s : State) (m : Nat) (takeover : Bool) : State :=
  let old := s.mode
  let from_ :=
    if m = 6 || m = 7 then
      (if old = 6 || old = 7 then s.from_ else if old = 3 then 2 else old) else 0xF
  let fault := m == 6 || (m == 1 && (old == 2 || ((old == 6 || old == 7) && s.from_ == 2))) || (m == 2 && takeover)
  let s := s.journal 4 m fault noUnit
  let s := (s.wr R.MOD_STATE.MODE m).wr R.MOD_STATE.FROM from_
  let s := (s.bump R.MOD_STAT.CHANGES R.MOD_STAT.OVF).raiseInt 1
  let s := if m = 6 && old ≠ 6 then s.inkEvent 6 0 else s
  let s := if 2 ≤ m && m ≤ 5 then { s with dev := { s.dev with rgIn := true } } else s
  let s := if m = 2 || m = 3 || m = 4 || m = 7 then { s with modeIn := s.modeIn + 1 } else s
  let s := if m = 2 || m = 3 || m = 4 || m = 6 || m = 7 then { s with dispIn := s.dispIn + 1 } else s
  let fresh := (m == 2 || m == 7) && old == 1
  let s := if m = 3 || fresh then { s with rul := { s.rul with cold := true } } else s
  let s := if fresh then s.zeroSigma else s
  let s := if m = 2 || m = 3 || m = 7 then s else { s with delta := [] }
  let s := if m = 2 || m = 6 || m = 7 then s else s.soutsOff
  s.ppsCheck

/-- A pending transition is recorded: its target, how its instant is found (1 base boundary, 2 cycle start, 3 rim clock, 4 cycle number), and that instant's number. -/
def State.setPend (s : State) (m kind at_ : Nat) : State :=
  { (s.wr R.MOD_STATE.PEND m) with dev := { s.dev with pendKind := kind, pendAt := at_ } }

/-- No transition is pending. -/
def State.clearPend (s : State) : State :=
  { (s.wr R.MOD_STATE.PEND 0xF) with dev := { s.dev with pendKind := 0, surrender := false } }

/-- A hardware trigger of a mode transition falls on this tick: a request that arrives on it is refused (R113). -/
def State.trigger (s : State) : State := { s with log := { s.log with trig := true } }

/-- A hardware trigger makes a transition pending. -/
def State.hwPend (s : State) (m kind at_ : Nat) : State := s.trigger.setPend m kind at_

/-- A cause of HOLD arises (R112, R113): the device enters HOLD where its mode has that transition. It replaces a pending transition, but keeps a surrender, and on the tick of a surrender it is not entered. -/
def State.holdCause (s : State) : State :=
  let s := s.trigger
  let keep := s.dev.surrender
  if keep && s.dev.pendAt == s.now then s
  else if s.mode == 2 || s.mode == 4 || s.mode == 5 || s.mode == 7 then
    let s := { s.enterMode 6 false with log := { s.log with held := some (s.raw R.MOD_STATE.MODE.addr, s.raw R.MOD_STAT.CHANGES.addr, s.dispIn, s.ink.event) } }
    if keep then s else s.clearPend
  else if s.mode == 6 && !keep then s.clearPend
  else s

/-- Is this the record of a mode transition: a journal entry of class 4 or the interrupt of vector 1? -/
def MergeRec.ofMode (r : MergeRec) : Bool :=
  match r.body with
  | .int v => v == 1
  | .entry e => e.code / 256 == 4

/-- The surrender outranks a HOLD cause of its tick (R113): an entry into HOLD that was performed first on the tick did not take place. -/
def State.holdUndo (s : State) : State :=
  match s.log.held with
  | none => s
  | some (st, ch, n, ev) =>
    let s := (s.putRaw R.MOD_STATE.MODE.addr st).putRaw R.MOD_STAT.CHANGES.addr
      (setBits (setBits (s.raw R.MOD_STAT.CHANGES.addr) 15 8 (bits ch 15 8)) 31 31 (ch / p2 31))
    { s with
      dispIn := n, log := { s.log with held := none }
      ink := { s.ink with event := if s.ink.trig / p2 28 = 6 then ev else s.ink.event }
      blt := { s.blt with merge := s.blt.merge.filter fun r => !(r.at_ == s.tb.rim + mergeClocks && r.ofMode) } }

/-! ### Guards (R55 to R57) -/

/-- The arming bit of a source. -/
def armBit : Src → Option Fld
  | .host => some R.CMT_STAT.ARMED_H
  | .scribe => some R.CMT_STAT.ARMED_S
  | .ring => none

/-- Is the source armed? -/
def State.armed (s : State) (src : Src) : Bool :=
  match armBit src with
  | some f => s.rd f == 1
  | none => false

/-- The source is disarmed. -/
def State.disarm (s : State) (src : Src) : State :=
  match armBit src with
  | some f => s.wr f 0
  | none => s

/-- The source number of VIOL_INFO. -/
def srcCode : Src → Nat
  | .host => 0
  | .scribe => 1
  | .ring => 2

/-- VIOL_INFO takes a violation. -/
def State.violInfo (s : State) (src : Src) (kind a : Nat) : State :=
  s.putRaw 0x10024 (srcCode src * p2 30 + kind * p2 24 + a % barSize)

/-- A guarded write of a register whose fields all carry KEY: consumes the arming; without it nothing is written and KEY_VIOL sets. -/
def State.keyed (s : State) (src : Src) (a : Nat) (f : State → State) : State :=
  if s.armed src then f (s.disarm src) else (s.flag R.CMT_STAT.KEY_VIOL).violInfo src 1 a

/-- Can the source write registers now: the host only over a link that is up (R446), none in reset. -/
def State.srcUp (s : State) (src : Src) : Bool :=
  s.alive && (match src with | .host => s.bus.link | _ => true)

/-! ### The servo of a time domain (R74) -/

/-- One offset sample of the servo of domain L (p = false) or P: e and t_s in ns. -/
def State.servo (s : State) (p : Bool) (e ts : Rat) : State :=
  let f := divQ e ts
  let kp := s.act R.TB_SERVO.KP
  let ki := s.act R.TB_SERVO.KI
  let integ := (if p then s.tb.integP else s.tb.integL) + f / (p2 ki : Rat)
  let rate := rateClamp (roundOpen ((integ + f / (p2 kp : Rat)) * (p2 32 : Rat)))
  let ok := absQ e ≤ (s.act R.TB_SERVO.LOCK_THR : Rat)
  let bad := (s.act R.TB_SERVO.UNLOCK_THR : Rat) < absQ e
  let good := if ok then (if p then s.tb.goodP else s.tb.goodL) + 1 else 0
  let nbad := if bad then (if p then s.tb.badP else s.tb.badL) + 1 else 0
  let lockF := if p then R.TB_STAT.LOCK_P else R.TB_STAT.LOCK_L
  let was := s.rd lockF == 1
  let lock := if was then nbad < 8 else 64 ≤ good
  let s := if p then { s with tb := { s.tb with integP := integ, goodP := good, badP := nbad } }
    else { s with tb := { s.tb with integL := integ, goodL := good, badL := nbad } }
  let s := if p then s.wr R.TB_P_RATE.RATE (unsx 32 rate) else s.rwh R.TB_RATE.RATE (unsx 32 rate)
  s.wrB lockF lock

/-! ### Steps of the active domain (R75) -/

/-- The PEND bit of an instance header shows whether a request still waits for it (R42). -/
def State.showPend (s : State) (h : Nat) : State :=
  s.putRaw (h + 4) (setBits (s.raw (h + 4)) 30 30 (b2n (s.cmt.reqs.any fun r => r.members.contains h)))

/-- CMT_PEND as a field of one group. -/
def pendBit (g : Nat) : Fld := ⟨0x10018, 0, 0, g, g, false⟩

/-- A request leaves the list without copying. -/
def State.dropReq (r : CmtReq) (s : State) : State :=
  let s := { s with cmt := { s.cmt with reqs := s.cmt.reqs.erase r } }
  let s := (s.wr (pendBit r.g) 0).raiseInt 15
  forEach r.members (fun h s => s.showPend h) s

/-- What a step of the active domain or a change of active domain empties: absolute commits, event queues, capture FIFOs, and a wrap not yet signalled. -/
def State.stepEffects (s : State) : State :=
  let cut := s.cmt.reqs.filter (·.abs)
  let s : State := forEach cut State.dropReq s
  let s := if cut.isEmpty then s else s.flag R.CMT_STAT.REFUSED
  let s : State := forEach (s.tb.evq.filter fun q => !q.2.isEmpty)
    (fun q s => (s.wr (R.EVT_STAT.QLEVEL.j q.1) 0).flag (R.EVT_STAT.LATE.j q.1)) s
  let s : State := forEach s.tb.caps
    (fun c s => (s.wr (R.CAP_STAT.LEVEL.j c.1) 0).wr (R.CAP_STAMP.NS.j c.1) 0) s
  { s with tb := { s.tb with evq := [], caps := [], wrapDue := false } }

/-- The active domain changes (R75, R82): the lattice of the new domain applies. -/
def State.setActive (s : State) (p : Bool) : State :=
  if s.tb.actP = p then s
  else { (s.wr R.TB_CTRL.ACT (b2n p)) with tb := { s.tb with actP := p }, mgn := { s.mgn with prevAt := none } }.stepEffects

/-- The active domain changes where both domains keep one lattice of TB_NS values: it goes on in the time of the new one. -/
def State.switchDomain (s : State) (p : Bool) : State :=
  if s.tb.actP = p then s else (s.setActive p).setLattice s.tb.latB s.baseK

/-! ### Messages of the twin link (R357, R360) -/

/-- Is twin operation enabled (R354)? -/
def State.twinOn (s : State) : Bool := s.alive && s.tb.run && s.mode != 0 && s.rd R.TWN_CFG.EN == 1
/-- Is the link up? -/
def State.twinUp (s : State) : Bool := s.rd R.TWN_STAT.LINK_UP == 1

/-- A message leaves on both lanes of the twin link. -/
def State.twinSend (s : State) (typ : Nat) (w : List Nat) : State :=
  if s.twinOn then
    ({ s with twin := { s.twin with seq := add32 s.twin.seq 1 } }).emit (.twin typ s.twin.seq w)
  else s

/-- Does the device mirror its state: in LEAD, with a peer in LISTEN or SHADOW (R360)? -/
def State.mirrors (s : State) : Bool :=
  s.roleMode == 2 && s.twinUp && (s.rd R.TWN_STAT.PEER_MODE == 1 || s.rd R.TWN_STAT.PEER_MODE == 3)

/-- A CFG record of the leader for its standby (R357, R360): the tick at which it takes effect, its kind (0 register write, 1 COMMIT, 2 stroke record, 3 queue command, 4 ring parameter) and its words. -/
def State.mirror (s : State) (tick kind : Nat) (w : List Nat) : State :=
  if s.mirrors then
    s.twinSend 5 ([tick, kind] ++ w)
  else s

end Sys2Proof.Machine
end

