-- ==== Sys2Proof/Machine/TimeBase.lean ====
section
/-! DEFINITION. The commands of the time base (spec/03_time_base.md): wraps, reads that latch, steps and slews, PPS, calibration, capture windows and event outputs. -/

namespace Sys2Proof.Machine

/-- The outcome of a command. -/
abbrev Res := Host.Outcome State Fault Refusal

/-- A command whose operands must name what the device has. -/
def needs (b : Bool) (s : State) : Res := if b then .next s else .fault .noSuchInstance

/-! ### Software accesses (R40, R41) -/

/-- An access to an offset whose power domain is off: the flag and VIOL_INFO (R40). -/
def State.pdOff (s : State) (src : Src) (a : Nat) : State := (s.flag R.CMT_STAT.ACC_PDOFF).violInfo src 4 a

/-- A write of the host or Scribe to a register at offset a in domain d: performed where the source can write and the domain is on. -/
def State.swWrite (s : State) (src : Src) (d a : Nat) (f : State → State) : State :=
  if src == .ring || !s.srcUp src then s else if s.dom d then f s else s.pdOff src a

/-- A write by software of a register with direct RW fields is mirrored to the twin (R360). -/
def State.mirrorWrite (s : State) (a v : Nat) : State := s.mirror s.now 0 [a, v]

/-- Do the outputs drive: in LEAD and NODE, and in HOLD and SERVICE entered from them (R111)? -/
def State.driven (s : State) : Bool := s.alive && (s.mode == 2 || s.mode == 4 || s.mode == 6 || s.mode == 7)

/-- The active domain passes through 0 (R79). -/
def State.wrapNow (s : State) : State :=
  let s := if s.tb.actP then { s with tb := { s.tb with wseqP := (s.tb.wseqP + 1) % 256, wrapDue := false } }
    else { s with tb := { s.tb with wseqL := (s.tb.wseqL + 1) % 256, wrapDue := false } }
  s.flag R.TB_STAT.WRAP

/-- TB_WRAP (R79): the clock at which TB_NS passes through 0; WSEQ advances and WRAP is signalled. -/
def execTbWrap (s : State) : Res :=
  .next (if !s.tb.run then s
    else if s.tb.wrapDue then s.wrapNow
    else (s.after (s.clocksFor (p2 64 - s.acc))).wrapNow)

/-- The latch of one source. -/
def State.snap (s : State) : Src → Snap
  | .scribe => s.tb.snapS
  | _ => s.tb.snapH

/-- The latch of one source replaced. -/
def State.putSnap (s : State) (src : Src) (n : Snap) : State :=
  match src with
  | .scribe => { s with tb := { s.tb with snapS := n } }
  | _ => { s with tb := { s.tb with snapH := n } }

/-- The P − L offset as TB_P_OFS shows it. -/
def State.pOfs (s : State) : Nat :=
  if s.rd R.TB_CTRL.P_SRC = 0 then 0 else sub32 (s.tb.accP / p2 32) (s.tb.accL / p2 32)

/-- The word that a TB_NS read latches into TB_SNAP. -/
def State.snapWord (s : State) : Nat := s.wseq * p2 24 + b2n s.tb.actP * p2 16 + s.frac

/-- Does the source read registers: the host over its link, and Scribe? -/
def State.reads (s : State) (src : Src) : Bool := src != .ring && s.srcUp src

/-- The bytes of a word that byte enables name; the others read 0. -/
def byteSel (be w : Nat) : Nat :=
  w &&& ((List.range 4).foldl (fun m i => if bit be i then m + 255 * p2 (8 * i) else m) 0)

/-- A read answers its source with the requested bytes of the whole word (R39). -/
def State.answer (s : State) (src : Src) (be w : Nat) : State := s.emit (.reply src (byteSel be w))

/-- A read of an offset a whose registers lie in domain d: answered with what f leaves and gives, or with 0 and no effect but the flag where the domain is off (R39, R40). -/
def State.readAt (s : State) (src : Src) (d a be : Nat) (f : State → State × Nat) : State :=
  if !s.reads src then s
  else if s.dom d then
    let r := f s
    r.1.answer src be r.2
  else (s.answer src be 0).pdOff src a

/-- TB_NS_READ (R39, R80). -/
def execTbNsRead (dt : Nat) (r : Reader) (s : State) : Res :=
  let s := s.after dt
  needs (r.be < 16) (if s.reads r.src then
    (s.putSnap r.src { s.snap r.src with word := s.snapWord, pOfs := s.pOfs }).answer r.src r.be s.now
  else s)

/-- TB_PERIOD_READ (R39, R80). -/
def execTbPeriodRead (dt : Nat) (r : Reader) (s : State) : Res :=
  let s := s.after dt
  needs (r.be < 16) (if s.reads r.src then
    (s.putSnap r.src { s.snap r.src with bound := s.tb.latB }).answer r.src r.be s.baseK
  else s)

/-- The active domain is moved by x, in 2^-32 ns (R75): the step effects follow, and the lattice keeps its TB_NS values (R490). -/
def State.stepF (s : State) (x : Int) : State :=
  let a := unsx 64 ((s.acc : Int) + x)
  let b := s.tb.latB
  let k := s.baseK
  let s := if s.tb.actP then { s with tb := { s.tb with accP := a } } else { s with tb := { s.tb with accL := a } }
  s.stepEffects.setLattice b k

/-- The active domain is moved by x ns. -/
def State.stepBy (s : State) (x : Int) : State := s.stepF (x * (p2 32 : Int))

/-- The write of TB_STEP that has passed the key. -/
def State.tbStepWrite (s : State) (v : Nat) : State :=
  if s.mode ≤ 1 then (if s.tb.run then s.stepBy (sx 32 v) else s) else s.flag R.TB_STAT.STEP_REFUSED

/-- A leader that came from SHADOW rebases (R84): domain L takes the whole of domain P and becomes active, without a step. TB_NS continues, so the change of the active domain has none of the effects that R75 gives a change with a step: commits, event queues and capture FIFOs stay (DESIGN CHOICE, log entry 58). -/
def State.rebase (s : State) : State :=
  if s.roleMode = 2 && s.tb.actP then
    let s := { s with tb := { s.tb with accL := s.tb.accP, wseqL := s.tb.wseqP, actP := false } }
    let s := s.rwh R.TB_RATE.RATE (s.rd R.TB_P_RATE.RATE)
    ((s.wr R.TB_CTRL.ACT 0).wr R.TB_CTRL.P_SRC 0).flag R.TB_STAT.REBASE
  else s

/-- TB_STEP (R75). -/
def execTbStep (dt : Nat) (src : Src) (value : Nat) (s : State) : Res :=
  let s := s.after dt
  needs (isWord value) (if s.reads src then s.keyed src 0x20034 fun s => s.tbStepWrite value else s)

/-- A write of TB_ADJ (R76): in LEAD the value adds to the remainder; in any other mode, or past ±1,000,000 ns, it is refused. -/
def State.tbAdjWrite (s : State) (v : Nat) : State :=
  let r := s.tb.remF + sx 32 v * (p2 32 : Int)
  if s.mode ≠ 2 || 1000000 * p2 32 < r.natAbs then s.flag R.TB_STAT.ADJ_REFUSED
  else { s with tb := { s.tb with remF := r } }.wr R.TB_ADJ_REM.REM (unsx 32 (remNs r))

/-- TB_ADJ (R76). -/
def execTbAdj (dt : Nat) (src : Src) (value : Nat) (s : State) : Res :=
  let s := s.after dt
  needs (isWord value) (if s.reads src then s.tbAdjWrite value else s)

/-- REF_LOSS (R72): the flag, the coast of at most 10 ms, and the journal. -/
def execRefLoss (dt : Nat) (s : State) : Res :=
  let s := s.after dt
  .next (if s.tb.run then
    let s := s.flag R.TB_STAT.REF_LOSS
    { s with tb := { s.tb with coast := some (s.tb.rim + 10000000) } }.journal 5 0 true noUnit
  else s)

/-- 3 s in rim clocks. -/
def threeSec : Nat := 3000000000

/-- An edge that is accepted: flags, registers, the rate update and the count toward lock (R77). -/
def State.ppsAccept (s : State) (e : Rat) : State :=
  let s := s.flag R.TB_STAT.PPS_EVT
  let s := (s.wr R.PPS_LAST.NS s.now).wrS R.PPS_STAT.ERR (roundOpen e)
  let s := { s with tb := { s.tb with ppsAcc := s.tb.rim } }
  if s.ppsOn then
    let g := s.act R.PPS_CFG.PPS_GAIN
    let r := sx 32 (s.rd R.TB_RATE.RATE) - rndAway (e * (4294967296 / 1000000000 : Rat) * (g : Rat) / 16)
    let s := if g = 0 then s else s.rwh R.TB_RATE.RATE (unsx 32 r)
    let n := if absQ e ≤ 2 then s.tb.ppsRun + 1 else 0
    let s := { s with tb := { s.tb with ppsRun := n } }
    if 8 ≤ n then (s.wr R.TB_STAT.PPS_LOCK 1).wr R.TB_CTRL.L_SRC 1 else s
  else s

/-- The stamp of the present instant in 2^-16 ns. -/
def State.stamp16 (s : State) : Nat := s.acc / p2 16

/-- A PPS edge of the selected polarity (R77). -/
def State.ppsEdge (s : State) : State :=
  let ref := (s.stamp16, s.tb.slewSum)
  let fresh := s.tb.ppsRef.isNone || threeSec ≤ s.tb.rim - s.tb.ppsAt
  let old := s.tb.ppsRef
  let s := { s with tb := { s.tb with ppsRef := some ref, ppsAt := s.tb.rim } }
  match fresh, old with
  | false, some (st, sl) =>
    let d : Nat := (ref.1 + p2 48 - st) % p2 48
    let i : Rat := ((d : Int) : Rat) / 65536 - ((ref.2 - sl : Int) : Rat) / (p2 32 : Rat)
    let e := i - 1000000000
    if absQ e ≤ (s.act R.PPS_CFG.PPS_TOL : Rat) then s.ppsAccept e
    else { (s.bump R.PPS_STAT.REJ R.PPS_STAT.OVF) with tb := { s.tb with ppsRun := 0 } }
  | _, _ => { s with tb := { s.tb with ppsRun := 0 } }

/-- PPS_EDGE (R77): taken in every mode after BOOT, on the edge that PPS_EDGE selects. -/
def execPpsEdge (dt : Nat) (rising : Bool) (s : State) : Res :=
  let s := s.after dt
  .next (if s.alive && s.mode != 0 && (s.taken 0 || !rising) && (s.rd R.TB_CTRL.PPS_EDGE == 1) != rising then s.ppsEdge else s)

/-- PPS_TIMEOUT (R77): 3 s after the last accepted edge PPS_LOCK clears and domain L enters holdover. The 3 s run from the last edge accepted in any mode, and from PLL lock where none was (DESIGN CHOICE: R77 does not say from when they run where no edge was accepted since PPS_EN was set or LEAD was entered; log entry 59). -/
def execPpsTimeout (s : State) : Res :=
  .next (if s.tb.run && s.ppsOn then
    let s := s.runRim (s.tb.ppsAcc + threeSec)
    { ((s.wr R.TB_STAT.PPS_LOCK 0).wr R.TB_CTRL.L_SRC 3) with tb := { s.tb with ppsRun := 0 } }
  else s)

/-- Output classes of `Output.edge`. -/
def outPps : Nat := 0
/-- Event outputs. -/
def outEvt : Nat := 1

/-- What a field held before software stored it on this tick, if it did: the value whose event R54 still signals. -/
def State.before (s : State) (f : Fld) : Option Nat :=
  (s.log.soft.find? fun x => x.1 == f.addr && x.2.2 &&& f.mask != 0).map fun x => bits x.2.1 f.hi f.lo

/-- The instant that a register with auto-advance stands for on this tick: the value software replaced on it, where that value falls now, else the present one (R54, R71). -/
def State.dueOf (s : State) (f : Fld) : Nat :=
  match s.before f with
  | some t => if sub32 s.now t ≤ 1 then t else s.rd f
  | none => s.rd f

/-- PPS_OUT_PULSE (R78): a write of PPS_OUT_AT earlier on the tick of a pulse does not take that pulse away, and the next one falls at the written value. -/
def execPpsOutPulse (s : State) : Res :=
  let t := s.dueOf R.PPS_OUT_AT.AT
  .next (if s.alive && s.mode != 0 && s.act R.PPS_CFG.PPS_WIDTH != 0 then
    match s.reach t with
    | some s =>
      (s.emit (.edge outPps 0 t (s.act R.PPS_CFG.PPS_WIDTH * 1000) true)).rwh R.PPS_OUT_AT.AT (add32 t 1000000000)
    | none => s
  else s)

/-- TSU_CALIBRATION (R86): a residual above 500 ps flags the unit and asks for its test. -/
def execTsuCalibration (dt u residualPs : Nat) (s : State) : Res :=
  let s := s.after dt
  needs (u < 24) (if s.tb.run && 500 < residualPs then
    let s := (s.flagBit R.TSU_FAIL.FAIL u).flag R.TB_STAT.TSU_FAULT
    let s := { s with tb := { s.tb with uncal := s.tb.uncal ||| p2 u } }
    (s.journalBy u 5 1 true (0x5000 + u)).unitError (0x5000 + u) 0
  else s)

/-! ### Capture inputs -/

/-- CAP_STAT and CAP_STAMP show the FIFO of input i. -/
def State.showCap (s : State) (i : Nat) : State :=
  let q := tget [] s.tb.caps i
  let s := s.wr (R.CAP_STAT.LEVEL.j i) q.length
  match q with
  | [] => s.wr (R.CAP_STAMP.NS.j i) 0
  | e :: _ =>
    ((s.wr (R.CAP_STAMP.NS.j i) e.ns).wr (R.CAP_STAT.HEAD_WSEQ.j i) e.wseq).wrB (R.CAP_STAT.HEAD_POL.j i) e.rising

/-- The stamp of an edge accepted now: the first sample at the new level, FILT ticks ago (R89). -/
def State.capStamp (s : State) (i : Nat) : Nat := sub32 s.now (s.act (R.CAP_CFG.FILT.j i))

/-- Does the window of input i take a stamp t (R90)? The bounds that judge it are those in force at the stamp: where the window has advanced or cleared since, the ones it had before. -/
def State.capInside (s : State) (i t : Nat) : Bool :=
  let within := fun (o c : Nat) => sub32 t o < sub32 c o
  match s.tb.capOld.find? fun x => x.1 == i && 0 < sub32 x.2.1 t && sub32 x.2.1 t < 256 with
  | some (_, _, o, c) => within o c
  | none => !s.on (R.CAP_CFG.WIN_EN.j i) || within (s.rd (R.CAP_OPEN.NS.j i)) (s.rd (R.CAP_CLOSE.NS.j i))

/-- Is an edge of input i accepted: enabled, of the polarity of EDGE, in the window (R89, R90)? -/
def State.capTakes (s : State) (i : Nat) (rising : Bool) : Bool :=
  s.alive && s.mode != 0 && s.on (R.CAP_CFG.EN.j i) && bit (s.act (R.CAP_CFG.EDGE.j i)) (if rising then 0 else 1) &&
    s.capInside i (s.capStamp i)

/-- An accepted edge enters the FIFO, or is lost to a full one (R89). -/
def State.capPush (s : State) (i : Nat) (rising : Bool) : State :=
  let t := s.capStamp i
  let w := if s.now < t then (s.wseq + 255) % 256 else s.wseq
  let q := tget [] s.tb.caps i
  let old := s.raw (R.CAP_STAT.LOST.j i).addr
  if 4 ≤ q.length then
    let s := s.bump (R.CAP_STAT.LOST.j i) (R.CAP_STAT.OVF.j i)
    { s with log := { s.log with caps := (i, some (t, w, rising, old)) :: s.log.caps } }
  else
    let s := { s with
      log := { s.log with caps := (i, none) :: s.log.caps }
      tb := { s.tb with caps := tput [] s.tb.caps i (q ++ [(⟨t, w, rising⟩ : CapEntry)]) } }
    let s := s.showCap i
    if q.isEmpty then s.raiseIntAt (48 + i) (sub32 s.now t) else s

/-- CAP_WINDOW_CLOSE (R54, R90): the bounds advance, or WIN_EN clears, in the shadow and in the active value (DESIGN CHOICE: R90 does not say which of the two; log entry 60). A WIN_EN that software writes on the tick stays in the shadow as written. -/
def execCapWindowClose (i : Nat) (s : State) : Res :=
  needs (isCap i) (if s.alive && s.on (R.CAP_CFG.WIN_EN.j i) then
    match s.reach (s.dueOf (R.CAP_CLOSE.NS.j i)) with
    | some s =>
      let p := s.act (R.CAP_CFG.WIN_PER.j i) * 32
      let c := s.dueOf (R.CAP_CLOSE.NS.j i)
      let o := (s.before (R.CAP_OPEN.NS.j i)).getD (s.rd (R.CAP_OPEN.NS.j i))
      let s := { s with tb := { s.tb with capOld := (i, c, o, c) :: s.tb.capOld.filter fun x => x.1 ≠ i } }
      if p = 0 then
        (if s.log.wrote.contains (R.CAP_CFG.WIN_EN.j i).key then s.putAct (R.CAP_CFG.WIN_EN.j i).addr (setBits (s.actw (R.CAP_CFG.WIN_EN.j i).addr) 28 28 0)
         else s.wrBoth (R.CAP_CFG.WIN_EN.j i) 0)
      else (s.rwh (R.CAP_OPEN.NS.j i) (add32 o p)).rwh (R.CAP_CLOSE.NS.j i) (add32 c p)
    | none => s
  else s)

/-- A read of CAP_STAMP takes the oldest entry that was in the FIFO before this tick; an edge accepted on the tick applies after the read, which leaves it in the FIFO, or makes room for it (R54). -/
def State.capRead (s : State) (i : Nat) : State × Nat :=
  let q := tget [] s.tb.caps i
  let put := fun (s : State) (l : List CapEntry) => { s with tb := { s.tb with caps := tput [] s.tb.caps i l } }.showCap i
  match s.log.caps.find? fun x => x.1 == i with
  | some (_, none) => if q.length = 1 then (s, 0) else (put s q.tail, (q.head?.map (·.ns)).getD 0)
  | some (_, some (t, w, up, old)) =>
    let s := s.putRaw (R.CAP_STAT.LOST.j i).addr old
    let s := { s with log := { s.log with caps := s.log.caps.filter fun x => x.1 ≠ i } }
    (put s (q.tail ++ [(⟨t, w, up⟩ : CapEntry)]), (q.head?.map (·.ns)).getD 0)
  | none => (put s q.tail, (q.head?.map (·.ns)).getD 0)

/-- CAP_STAMP_READ (R39, R54, R89). -/
def execCapStampRead (dt : Nat) (r : Reader) (i : Nat) (s : State) : Res :=
  let s := s.after dt
  needs (isCap i && r.be < 16) (if s.reads r.src then
    let x := s.capRead i
    x.1.answer r.src r.be x.2
  else s)

/-! ### Event outputs -/

/-- MODE of event output j; 4 to 7 act as Off. -/
def State.evMode (s : State) (j : Nat) : Nat :=
  let m := s.act (R.EVT_CFG.MODE.j j)
  if 3 < m then 0 else m

/-- Insert an instant in time order counted from the present tick. -/
def insTick (now t : Nat) : List Nat → List Nat
  | [] => [t]
  | x :: r => if sub32 t now < sub32 x now then t :: x :: r else x :: insTick now t r

/-- QLEVEL and EVT_AT show the queue of output j. -/
def State.showEvq (s : State) (j : Nat) : State :=
  let q := tget [] s.tb.evq j
  let s := s.wr (R.EVT_STAT.QLEVEL.j j) q.length
  match q with
  | [] => s
  | t :: _ => s.wr (R.EVT_AT.AT.j j) t

/-- Software stores a field outside the plain path: what it held is kept for the rules of R54, and a hardware update on this tick is discarded. -/
def State.softField (s : State) (f : Fld) (v : Nat) : State :=
  let old := s.raw f.addr
  let s := s.wr f v
  { s with log := { s.log with wrote := f.key :: s.log.wrote, soft := softIn f.addr old f.mask s.log.soft } }

/-- A write of EVT_AT (R92, R93). In Train mode it also restarts a train whose COUNT has run down to 0, a value that otherwise means endless (DESIGN CHOICE: R93 names nothing that restarts such a train; log entry 61). -/
def State.evtAtWrite (s : State) (j v : Nat) : State :=
  if s.evMode j = 1 then
    let d := sub32 v s.now
    let q := tget [] s.tb.evq j
    if d < 64 || p2 31 ≤ d then s.flag (R.EVT_STAT.LATE.j j)
    else if 4 ≤ q.length then s.flag (R.EVT_STAT.QFULL.j j)
    else { s with tb := { s.tb with evq := tput [] s.tb.evq j (insTick s.now v q) } }.showEvq j
  else
    let s := s.softField (R.EVT_AT.AT.j j) v
    { s with tb := { s.tb with evStop := s.tb.evStop.erase j } }

/-- EVT_AT_WRITE (R92). -/
def execEvtAtWrite (dt : Nat) (src : Src) (j value : Nat) (s : State) : Res :=
  let s := s.after dt
  needs (isCap j && isWord value) (if s.reads src && s.tb.run then s.evtAtWrite j value else s)

/-- EVT_QUEUE_INSTANT (R91, R92): equal instants are consumed together, and an odd number of them inverts the output. -/
def execEvtQueueInstant (j : Nat) (s : State) : Res :=
  needs (isCap j) (match tget [] s.tb.evq j with
    | [] => s
    | t :: r =>
      if s.evMode j ≠ 1 then s
      else match s.reach t with
        | none => s
        | some s =>
          let n := (r.takeWhile (· == t)).length + 1
          let s := { s with tb := { s.tb with evq := tput [] s.tb.evq j (r.dropWhile (· == t)) } }.showEvq j
          if n % 2 = 0 then s
          else
            let lev := s.rd (R.EVT_STAT.LEVEL.j j) == 0
            let s := s.wrB (R.EVT_STAT.LEVEL.j j) lev
            if s.driven then s.emit (.edge outEvt j t 0 lev) else s)

/-- WIDTH of output j; 0 acts as 1. -/
def State.evWidth (s : State) (j : Nat) : Nat := max 1 (s.rd (R.EVT_WID.WIDTH.j j))

/-- Output j leaves IDLE at tick t for w ticks. -/
def State.evPulse (s : State) (j t w : Nat) : State :=
  let s := { s with tb := { s.tb with evEnd := tput 0 s.tb.evEnd j (s.tb.rim + w) } }
  if s.driven then s.emit (.edge outEvt j t w (s.act (R.EVT_CFG.IDLE.j j) == 0)) else s

/-- EVT_TRAIN_PULSE (R91, R93): a write of EVT_AT earlier on the tick of a pulse start does not take that pulse away, and the next one starts at the written value. -/
def execEvtTrainPulse (j : Nat) (s : State) : Res :=
  needs (isCap j) (if s.alive && s.evMode j = 2 && !s.tb.evStop.contains j then
    let t := s.dueOf (R.EVT_AT.AT.j j)
    let per := s.act (R.EVT_PER.PER.j j)
    match s.reach t with
    | none => s
    | some s =>
      if per < 8 then s.flag (R.EVT_STAT.LATE.j j)
      else
        let w := if per ≤ s.evWidth j then per - 1 else s.evWidth j
        let s := s.evPulse j t w
        let c := s.rd (R.EVT_WID.COUNT.j j)
        let s := if c = 0 then s else s.rwh (R.EVT_WID.COUNT.j j) (c - 1)
        let s := if c = 1 && !s.log.wrote.contains (R.EVT_AT.AT.j j).key then { s with tb := { s.tb with evStop := j :: s.tb.evStop } } else s
        s.rwh (R.EVT_AT.AT.j j) (add32 t per)
  else s)

/-- The axis slot whose lane runs a current loop on bridge b (R25, R237). -/
def State.clOwner (s : State) (b : Nat) : Option Nat :=
  (List.range 160).find? fun n => s.rd (R.AX_CLCFG.CL_EN.i n) == 1 && s.rd (R.AX_CLCFG.BRIDGE.i n) == b

/-- The rate group of an axis slot, if the image assigns it to one (R24). -/
def State.axGroup (s : State) (n : Nat) : Option Nat :=
  ((s.dev.cfg.axisGroup.find? fun p => p.1 == n).map (·.2)).filter (fun g => s.rgDef g)

/-- The tick of the latest sample instant of group g at or before the latest base boundary. -/
def State.rgAnchor (s : State) (g : Nat) : Nat :=
  let n := s.rgN g
  sub32 s.tb.latB (31250 * ((s.baseK + n - s.rgPhase g % n) % n))

/-- The current-loop period in ticks (R25). -/
def State.clPer (s : State) (n : Nat) : Nat := 15625 * p2 (min 2 (s.rd (R.AX_CLCFG.CL_PER.i n)))

/-- The source lattice of a conversion start: an instant of it and its period (R94); none for a source that does not exist. -/
def State.evSource (s : State) (src : Nat) : Option (Nat × Nat) :=
  if src < 4 then (if s.dev.rgIn && s.rgDef src then some (s.rgAnchor src, 31250 * s.rgN src) else none)
  else if 8 ≤ src && src < 20 then
    (s.clOwner (src - 8)).bind fun n => (s.axGroup n).bind fun g =>
      if s.dev.rgIn then some (s.rgAnchor g, s.clPer n) else none
  else none

/-- The first instant of a lattice plus an offset at or after tick t. -/
def firstFrom (t a per : Nat) (ofs : Int) : Nat :=
  let d : Int := sx 32 (sub32 t a) - ofs
  unsx 32 ((a : Int) + -(-d / (per : Int)) * (per : Int) + ofs)

/-- Does the present clock cover the tick before its own too (R71)? -/
def State.skips (s : State) : Bool :=
  let u : Int := if s.tb.actP || s.tb.remF = 0 then 0 else if s.tb.remF < 0 then -(s.slewUnit : Int) else s.slewUnit
  let i := (if s.tb.actP then s.incP else s.incL) + u
  sub32 s.now (unsx 64 ((s.acc : Int) - i) / p2 32) == 2

/-- The next instant of a lattice with anchor, period and offset, after the last performed one: the clock that skips a tick performs its actions too, and no instant is performed twice (R71, R95). -/
def State.nextInst (s : State) (last : Option Nat) (a per : Nat) (ofs : Int) : Nat :=
  let t := firstFrom (if s.skips then sub32 s.now 1 else s.now) a per ofs
  match last with
  | some l => if sub32 s.now l ≤ 1 && sub32 l t ≤ 1 then firstFrom (add32 l 1) a per ofs else t
  | none => t

/-- EVT_CONVERSION_PULSE (R91, R94, R95). -/
def execEvtConversionPulse (j : Nat) (s : State) : Res :=
  needs (isCap j) (if s.alive && s.tb.run && s.evMode j = 3 then
    match s.evSource (s.act (R.EVT_CFG.SRC.j j)) with
    | none => s
    | some (a, per) =>
      let t := s.nextInst ((s.tb.evLast.find? fun x => x.1 == j).map (·.2)) a per (s.actS (R.EVT_CFG.OFS.j j))
      let s := s.runTo t
      { s with tb := { s.tb with evLast := (j, t) :: s.tb.evLast.filter fun x => x.1 ≠ j } }.evPulse j t (s.evWidth j)
  else s)

/-- Does the Folio image hold the source of a conversion start: a rate group it defines, or a bridge with a current loop (R94)? -/
def State.evSourceIn (s : State) (src : Nat) : Bool :=
  (src < 4 && s.rgDef src) || (8 ≤ src && src < 20 && ((s.clOwner (src - 8)).bind s.axGroup).isSome)

/-- The level of event output j: what the queue has made it, or IDLE but during a pulse (R91). -/
def State.evLevel (s : State) (j : Nat) : Bool :=
  let idle := s.act (R.EVT_CFG.IDLE.j j) == 1
  if s.evMode j = 0 then false
  else if s.evMode j = 1 then s.rd (R.EVT_STAT.LEVEL.j j) == 1
  else if s.tb.rim < tget 0 s.tb.evEnd j then !idle else idle

/-- The ball of event output j takes what its mode gives it: high-impedance in Off, else its level (R91). -/
def State.evDrive (s : State) (j : Nat) : State :=
  if !s.driven then s
  else if s.evMode j = 0 then s.emit (.hiZ outEvt j s.now) else s.emit (.edge outEvt j s.now 0 (s.evLevel j))

/-- What a commit copy of an event output's settings does (R91, R93, R94), from its MODE and IDLE before: a change of MODE empties the queue, and the output starts from IDLE; a change of either is driven from the copy on. -/
def State.evtCommitted (s : State) (j oldMode oldIdle : Nat) : State :=
  let m := s.evMode j
  let idle := s.act (R.EVT_CFG.IDLE.j j)
  let s := if m = oldMode then (if m = 0 || m = 1 || idle = oldIdle then s else s.evDrive j)
    else
      let s := { s with tb := { s.tb with
        evq := tput [] s.tb.evq j [], evEnd := tput 0 s.tb.evEnd j 0, evStop := s.tb.evStop.erase j,
        evLast := s.tb.evLast.filter fun x => x.1 ≠ j } }
      ((s.wr (R.EVT_STAT.QLEVEL.j j) 0).wr (R.EVT_STAT.LEVEL.j j) (if m = 0 then 0 else idle)).evDrive j
  if m = 2 && s.act (R.EVT_PER.PER.j j) < 8 then s.flag (R.EVT_STAT.LATE.j j)
  else if m = 3 && !s.evSourceIn (s.act (R.EVT_CFG.SRC.j j)) then s.flag (R.EVT_STAT.LATE.j j)
  else s

/-- The rate word of domain P is judged against P_RATE_MAX in SHADOW (R85). -/
def State.pRateCheck (s : State) : State :=
  if s.mode = 3 && (s.act R.TB_SERVO.P_RATE_MAX : Rat) * (p2 32 : Rat) / 1000000 < (sx 32 (s.rd R.TB_P_RATE.RATE)).natAbs then
    s.flag R.TB_STAT.P_RATE_FAULT
  else s

end Sys2Proof.Machine
end

