-- ==== Sys2Proof/Machine/Ductus.lean ====
section
/-! DEFINITION. The commands of Ductus (spec/16_ductus_and_scribe.md, R402 to R412): submissions, delay ticks, item ends, result reads, cancels and OBS. -/

namespace Sys2Proof.Machine

/-- Does Ductus run (R402)? -/
def State.dctOn (s : State) : Bool := s.alive && s.tb.run && s.dom 15

/-- The port of a source (R404). -/
def portOf : Src → Option Nat
  | .host => some 0
  | .scribe => some 1
  | .ring => none

/-- The staged item of port p (R403). -/
def State.stagedItem (s : State) (p : Nat) : Item where
  entry := s.rd (R.SUB_ENTRY.VALUE.j p)
  arg := s.rd (R.SUB_ARG.VALUE.j p)
  cls := s.rd (R.SUB_CTL.CLASS.j p)
  prio := s.rd (R.SUB_CTL.PRIO.j p)
  cores := s.rd (R.SUB_CTL.CORES.j p)
  flow := s.rd (R.SUB_CTL.FLOW.j p)
  due := s.rd (R.SUB_DUE.VALUE.j p)
  timed := s.rd (R.SUB_CTL.TIMED.j p) == 1
  port := p
  seq := 0
  stage := 0
  core := 0
  status := 0
  result := 0
  readyAt := 0

/-- A write of SUB_CTL of port p: the staged fields, and GO. The item is copied now; it is judged when the tick ends, in its place of R407. A GO while GO still reads 1 is discarded, and the next result reads 0x5 (R404). -/
def State.submitWrite (s : State) (p v : Nat) : State :=
  let s := s.putRaw (R.SUB_CTL.GO.j p).addr (v &&& 0x67FF0000)
  if bit v 31 then
    let i := (tget none s.dct.subs p).getD (s.stagedItem p, false)
    { s with dct := { s.dct with subs := tput none s.dct.subs p (some (i.1, (tget none s.dct.subs p).isSome)), turn := true } }
  else s

/-- SUBMIT (R404): a write of the source's SUB_CTL. -/
def execSubmit (dt : Nat) (src : Src) (value : Nat) (s : State) : Res :=
  let s := s.after dt
  needs (isWord value) (match portOf src with
    | some p => s.swWrite src 15 (R.SUB_CTL.GO.j p).addr fun s => (s.mirrorWrite (R.SUB_CTL.GO.j p).addr value).submitWrite p value
    | none => s)

/-- Every item of the delay list that is due at the present tick moves to its ready list, in list order (R405). -/
def State.releaseDue (s : State) : State :=
  forEach (s.dct.delay.filter fun n => sub32 s.now (s.item n).due < p2 31) (fun n s =>
    ({ s with dct := { s.dct with delay := s.dct.delay.erase n } }.trace 2 n 0).toReady n) s

/-- DELAY_TICK (R405): the next tick with TB_NS mod 1,024 = 0. -/
def execDelayTick (s : State) : Res :=
  .next (if s.dctOn then
    (s.runTo ((s.now / 1024 + 1) * 1024 % p2 32)).releaseDue
  else s)

/-- The item of a Scribe core ends (R408). -/
def State.scribeEnds (s : State) (core slot status result : Nat) : State :=
  let s := { s with dct := { s.dct with run := s.dct.run.erase (core, slot) }, log := { s.log with done := core :: s.log.done } }
  (s.trace 4 slot core).endItem slot status result

/-- ITEM_END (R408): the item that a Scribe core runs ends with its result word; a core without an item ends none. -/
def execItemEnd (dt core result : Nat) (s : State) : Res :=
  let s := s.after dt
  needs (core < 4 && isWord result) (match s.dct.run.find? fun r => r.1 == core with
    | some (_, slot) => s.scribeEnds core slot 0 result
    | none => s)

/-- A read of RES_B gives the result word of the oldest entry, which leaves the FIFO of port p; an empty FIFO reads 0 (R410). -/
def State.resRead (s : State) (p : Nat) : State × Nat :=
  let l := s.fifo p
  let s := s.putFifo p l.tail
  ({ s with dct := { s.dct with turn := s.dct.turn || !s.dct.ended.isEmpty } }, (l.headD ⟨0, 0⟩).b)

/-- RES_B_READ (R39, R40, R410): a read by the source of its own port. -/
def execResBRead (dt : Nat) (r : Reader) (s : State) : Res :=
  let s := s.after dt
  needs (r.be < 16) (match portOf r.src with
    | some p => s.readAt r.src 15 (R.RES_B.VALUE.j p).addr r.be fun s => s.resRead p
    | none => s)

/-- Cancel item n (R411). The rule states no result word of a cancelled item. -/
def State.cancelItem (s : State) (n : Nat) : State :=
  let i := s.item n
  if i.stage = 0 || i.stage = 1 then
    let s := s.trace 6 n 0
    let s := { s with dct := { s.dct with delay := s.dct.delay.erase n } }
    let s := (s.putReady i.key ((s.readyL i.key).erase n)).showLists
    let r := Config.freeNat s.free % p2 32
    s.useFree.endItem n 2 r
  else s.flag R.DCT_FLAGS.CANCEL_LATE

/-- A write of DCT_CANCEL. -/
def State.cancelWrite (s : State) (v : Nat) : State :=
  let s := s.wr R.DCT_CANCEL.ITEM (v % 256)
  if bit v 31 then
    { s with log := { s.log with wrote := R.DCT_CANCEL.GO.key :: s.log.wrote } }.cancelItem (v % 256)
  else s

/-- CANCEL (R411). -/
def execCancel (dt : Nat) (src : Src) (value : Nat) (s : State) : Res :=
  let s := s.after dt
  needs (isWord value) (s.swWrite src 15 R.DCT_CANCEL.GO.addr fun s => (s.mirrorWrite R.DCT_CANCEL.GO.addr value).cancelWrite value)

/-- The statistics registers are cleared (R412). -/
def State.clearStats (s : State) : State :=
  forEach (List.range 16) (fun i s =>
    (s.wr (R.DCT_STAT.DISP.j i) 0).putRaw (R.DCT_STAT2.MAXWAIT.j i).addr 0) s

/-- A write of DCT_CFG: OBS and TRACE_STOP; the trace starts again at record 0 (R412). -/
def State.obsWrite (s : State) (v : Nat) : State :=
  let s := (s.wr R.DCT_CFG.OBS (bits v 31 30)).wr R.DCT_CFG.TRACE_STOP (bits v 29 29)
  let s := { s with dct := { s.dct with traceN := 0 } }
  let s := (s.wr R.DCT_TRACE_PTR.NEXT 0).wr R.DCT_TRACE_PTR.WRAPPED 0
  if bits v 31 30 = 1 then s.clearStats else s

/-- OBS_WRITE (R412). -/
def execObsWrite (dt : Nat) (src : Src) (value : Nat) (s : State) : Res :=
  let s := s.after dt
  needs (isWord value) (s.swWrite src 15 R.DCT_CFG.OBS.addr fun s => (s.mirrorWrite R.DCT_CFG.OBS.addr value).obsWrite value)

end Sys2Proof.Machine
end

