-- ==== Sys2Proof/Machine/Roots.lean ====
section
/-! DEFINITION. Square roots, π, sines, cosines and powers of 2, which the rules use as numbers, computed as rationals: square roots to a relative 2^-64, circular functions to within 2^-88, powers of 2 to a relative 2^-57. The spec gives no width for such an intermediate result (log 27). -/

namespace Sys2Proof.Machine

/-- The integer part of the square root of n. -/
def natRoot (n : Nat) : Nat := rootBits 2 n (Nat.log2 n / 2 + 1) 0

/-- The square root of x, rounded down; 0 below 0. -/
def sqrtQ (x : Rat) : Rat :=
  if x ≤ 0 then 0 else (natRoot (x.num.toNat * x.den * p2 128) : Rat) / ((x.den * p2 64 : Nat) : Rat)

/-- π, rounded down to 2^-128. -/
def piQ : Rat := (1069028584064966747859680373161870783300 : Rat) / ((p2 128 : Nat) : Rat)

/-- 1.0 of the fixed-point evaluation of the circular functions. -/
def trigOne : Int := (p2 96 : Nat)

/-- Twenty terms of an alternating power series in y = x², inside out: term k divides by `d k`. -/
def trigSum (y : Int) (d : Nat → Nat) : Int :=
  ((List.range 20).map fun k => 20 - k).foldl (fun r k => trigOne - y * r / (trigOne * (d k : Int))) trigOne

/-- Cosine and sine of an angle of 0 to a quarter turn, in radians. -/
def trigFirst (x : Rat) : Rat × Rat :=
  let f := (x * (trigOne : Rat)).floor
  let y := f * f / trigOne
  ((trigSum y fun k => (2 * k - 1) * (2 * k) : Int) / (trigOne : Rat), (f * trigSum y (fun k => 2 * k * (2 * k + 1)) / trigOne : Int) / (trigOne : Rat))

/-- Cosine and sine of an angle in turns. -/
def trigTurn (t : Rat) : Rat × Rat :=
  let f := 4 * (t - (t.floor : Rat))
  let q := f.floor
  let z := trigFirst ((f - (q : Rat)) * piQ / 2)
  if q = 0 then z else if q = 1 then (-z.2, z.1) else if q = 2 then (-z.1, -z.2) else (z.2, -z.1)

/-- Cosine of an angle in 2^-32 turn. -/
def cosTurn (a : Nat) : Rat := (trigTurn ((a : Rat) / ((p2 32 : Nat) : Rat))).1
/-- Sine of an angle in 2^-32 turn. -/
def sinTurn (a : Nat) : Rat := (trigTurn ((a : Rat) / ((p2 32 : Nat) : Rat))).2
/-- Cosine of an angle in rad. -/
def cosRad (x : Rat) : Rat := (trigTurn (x / (2 * piQ))).1
/-- Sine of an angle in rad. -/
def sinRad (x : Rat) : Rat := (trigTurn (x / (2 * piQ))).2

/-- The product of the roots 2^(1/2), 2^(1/4), … that the bits of a 64-bit fraction name, with 64 fraction bits: the root to come, the product so far. -/
def pow2Bits : Nat → Nat → Nat → Nat → Nat
  | 0, _, _, p => p
  | k + 1, f, r, p => pow2Bits k (f * 2 % p2 64) (natRoot (r * p2 64)) (if p2 63 ≤ f then p * r / p2 64 else p)

/-- 2 to the power of x, to a relative 2^-57. -/
def pow2Q (x : Rat) : Rat :=
  let q := x.floor
  let f := ((x - (q : Rat)) * ((p2 64 : Nat) : Rat)).floor.toNat
  let m : Rat := (pow2Bits 64 f (natRoot (2 * p2 128)) (p2 64) : Nat) / ((p2 64 : Nat) : Rat)
  if 0 ≤ q then m * (p2 q.toNat : Nat) else m / (p2 q.natAbs : Nat)

end Sys2Proof.Machine
end

