-- ==== Sys2Proof/Machine/Geom.lean ====
section
/-! DEFINITION. Plane geometry of the cell: vectors, quaternions, the kinematics of a chain, and the capsule distance of R208 and R209, in exact numbers with the sine, cosine and square root of the units. -/

namespace Sys2Proof.Machine

/-- A vector. -/
structure V3 where
  x : Rat
  y : Rat
  z : Rat
  deriving DecidableEq, Repr

/-- The zero vector. -/
def V3.zero : V3 := ⟨0, 0, 0⟩
/-- Sum of vectors. -/
def V3.add (a b : V3) : V3 := ⟨a.x + b.x, a.y + b.y, a.z + b.z⟩
/-- Difference of vectors. -/
def V3.sub (a b : V3) : V3 := ⟨a.x - b.x, a.y - b.y, a.z - b.z⟩
/-- A multiple of a vector. -/
def V3.mul (k : Rat) (a : V3) : V3 := ⟨k * a.x, k * a.y, k * a.z⟩
/-- Scalar product. -/
def V3.dot (a b : V3) : Rat := a.x * b.x + a.y * b.y + a.z * b.z
/-- Vector product. -/
def V3.cross (a b : V3) : V3 := ⟨a.y * b.z - a.z * b.y, a.z * b.x - a.x * b.z, a.x * b.y - a.y * b.x⟩
/-- Length. -/
def V3.norm (a : V3) : Rat := sqrtQ (a.dot a)

/-- A matrix by rows. -/
structure M3 where
  r1 : V3
  r2 : V3
  r3 : V3
  deriving DecidableEq, Repr

/-- Matrix times vector. -/
def M3.app (m : M3) (v : V3) : V3 := ⟨m.r1.dot v, m.r2.dot v, m.r3.dot v⟩
/-- Transposed matrix. -/
def M3.tr (m : M3) : M3 := ⟨⟨m.r1.x, m.r2.x, m.r3.x⟩, ⟨m.r1.y, m.r2.y, m.r3.y⟩, ⟨m.r1.z, m.r2.z, m.r3.z⟩⟩
/-- Product of matrices. -/
def M3.mul (a b : M3) : M3 := let t := b.tr; ⟨t.app a.r1, t.app a.r2, t.app a.r3⟩

/-- The orientation of a unit quaternion w, x, y, z. -/
def quat (w x y z : Rat) : M3 :=
  ⟨⟨1 - 2 * (y * y + z * z), 2 * (x * y - w * z), 2 * (x * z + w * y)⟩,
   ⟨2 * (x * y + w * z), 1 - 2 * (x * x + z * z), 2 * (y * z - w * x)⟩,
   ⟨2 * (x * z - w * y), 2 * (y * z + w * x), 1 - 2 * (x * x + y * y)⟩⟩

/-- The rotation about a unit axis by an angle in rad. -/
def rotAbout (u : V3) (q : Rat) : M3 :=
  let c := cosRad q
  let s := sinRad q
  let k := 1 - c
  ⟨⟨c + k * u.x * u.x, k * u.x * u.y - s * u.z, k * u.x * u.z + s * u.y⟩,
   ⟨k * u.x * u.y + s * u.z, c + k * u.y * u.y, k * u.y * u.z - s * u.x⟩,
   ⟨k * u.x * u.z - s * u.y, k * u.y * u.z + s * u.x, c + k * u.z * u.z⟩⟩

/-- The state of a link frame in world coordinates: origin, orientation, and the velocity and acceleration of its origin and of its rotation, the accelerations being those with every joint acceleration 0. -/
structure Frame where
  o : V3
  r : M3
  v : V3
  a : V3
  om : V3
  al : V3
  deriving DecidableEq, Repr

/-- A joint in place: its slot, whether it is prismatic, its axis, the point the axis passes through, and its link. -/
structure Link where
  slot : Nat
  pris : Bool
  z : V3
  p : V3
  f : Frame
  deriving DecidableEq, Repr

/-- World position of a point of a frame. -/
def Frame.pt (f : Frame) (d : V3) : V3 := f.o.add (f.r.app d)
/-- World velocity of a world point carried by a frame. -/
def Frame.vel (f : Frame) (w : V3) : V3 := f.v.add (f.om.cross (w.sub f.o))
/-- World acceleration of a world point carried by a frame, the joint accelerations being 0. -/
def Frame.acc (f : Frame) (w : V3) : V3 :=
  let d := w.sub f.o
  (f.a.add (f.al.cross d)).add (f.om.cross (f.om.cross d))

/-- The frame of a joint from its parent: offset, orientation, position and velocity of the joint (R158). -/
def Frame.joint (f : Frame) (slot : Nat) (pris : Bool) (tp : V3) (tr : M3) (q qd : Rat) : Link :=
  let o0 := f.pt tp
  let r0 := f.r.mul tr
  let z := r0.app ⟨0, 0, 1⟩
  if pris then
    let o := o0.add (V3.mul q z)
    let cz := f.om.cross z
    ⟨slot, true, z, o0, ⟨o, r0, (f.vel o).add (V3.mul qd z), (f.acc o).add (V3.mul (2 * qd) cz), f.om, f.al⟩⟩
  else
    ⟨slot, false, z, o0, ⟨o0, r0.mul (rotAbout ⟨0, 0, 1⟩ q), f.vel o0, f.acc o0, f.om.add (V3.mul qd z),
      f.al.add (f.om.cross (V3.mul qd z))⟩⟩

/-- The column of a joint in the Jacobian of a world point. -/
def Link.col (l : Link) (w : V3) : V3 := if l.pris then l.z else l.z.cross (w.sub l.p)
/-- The column of a joint in the Jacobian of rotation. -/
def Link.rot (l : Link) : V3 := if l.pris then .zero else l.z

/-- 2^-40 m², the square of 2^-20 m. -/
def eps40 : Rat := 1 / 1099511627776

/-- Witness parameters of two segments (R208). -/
def witness (p q f c b : Rat) : Rat × Rat :=
  if p ≤ eps40 && q ≤ eps40 then (0, 0)
  else if p ≤ eps40 then (0, clampQ (f / q) 0 1)
  else if q ≤ eps40 then (clampQ (-c / p) 0 1, 0)
  else
    let den := p * q - b * b
    let s := if eps40 < den then clampQ ((b * f - c * q) / den) 0 1 else 0
    let t := (b * s + f) / q
    if t < 0 then (clampQ (-c / p) 0 1, 0)
    else if 1 < t then (clampQ ((b - c) / p) 0 1, 1)
    else (s, t)

/-- A capsule in world coordinates. -/
structure Capsule where
  a : V3
  b : V3
  rad : Rat
  deriving DecidableEq, Repr

/-- Witness points, unit normal from the second to the first, and distance of two capsules (R208, R209). -/
def capDist (c1 c2 : Capsule) : V3 × V3 × V3 × Rat :=
  let d1 := c1.b.sub c1.a
  let d2 := c2.b.sub c2.a
  let r := c1.a.sub c2.a
  let st := witness (d1.dot d1) (d2.dot d2) (d2.dot r) (d1.dot r) (d1.dot d2)
  let w1 := c1.a.add (V3.mul st.1 d1)
  let w2 := c2.a.add (V3.mul st.2 d2)
  let d := w1.sub w2
  let m := (V3.mul (1 / 2) (c1.a.add c1.b)).sub (V3.mul (1 / 2) (c2.a.add c2.b))
  let unit := fun (u : V3) => V3.mul (divQ 1 u.norm) u
  let n : V3 := if eps40 ≤ d.dot d then unit d else if eps40 ≤ m.dot m then unit m else ⟨0, 0, 1⟩
  (w1, w2, n, d.norm - c1.rad - c2.rad)

/-- Sphere j of n of a capsule (R214): center and radius. -/
def sphereOf (c : Capsule) (n j : Nat) : V3 × Rat :=
  let d := c.b.sub c.a
  (c.a.add (V3.mul (((j : Rat) + 1 / 2) / (n : Rat)) d), c.rad + d.norm / (2 * (n : Rat)))

end Sys2Proof.Machine
end

