-- ==== Sys2Proof/Machine/Float.lean ====
section
/-! DEFINITION. Number formats of the units: IEEE 754 binary32, block floating point (R229, R230) and Q16.16. -/

namespace Sys2Proof.Machine

/-- Two to an integer power. -/
def p2q (e : Int) : Rat := if 0 ≤ e then ((p2 e.toNat : Nat) : Rat) else 1 / ((p2 (-e).toNat : Nat) : Rat)

/-- The exponent e of a nonzero rational with 2^e ≤ |x| < 2^(e+1). -/
def expQ (x : Rat) : Int :=
  let e : Int := (Nat.log2 x.num.natAbs : Int) - (Nat.log2 x.den : Int)
  if p2q e ≤ absQ x then (if p2q (e + 1) ≤ absQ x then e + 1 else e) else e - 1

/-! ### binary32 -/

/-- Is a word a NaN? -/
def f32Nan (w : Nat) : Bool := 0x7F800000 < w % p2 31
/-- Is a word infinite? -/
def f32Inf (w : Nat) : Bool := w % p2 31 == 0x7F800000
/-- Is a word finite? -/
def f32Fin (w : Nat) : Bool := w % p2 31 < 0x7F800000
/-- The sign bit. -/
def f32Neg (w : Nat) : Bool := bit w 31

/-- The value of a finite word; the words that have none give 0. -/
def f32Dec (w : Nat) : Rat :=
  let e := bits w 30 23
  let m := bits w 22 0
  let a : Rat := if e = 255 then 0 else if e = 0 then (m : Rat) * p2q (-149) else ((m + p2 23 : Nat) : Rat) * p2q ((e : Int) - 150)
  if f32Neg w then -a else a

/-- The word of a number under a rounding of multiples of its last place; numbers beyond the range become infinite. -/
def f32Enc (rnd : Rat → Int) (x : Rat) : Nat :=
  if x = 0 then 0
  else
    let e := max (-126) (expQ x)
    let q := (rnd (absQ x * p2q (23 - e))).toNat
    let w := (e + 127).toNat * p2 23 + q - p2 23
    (if 0x7F800000 ≤ w then 0x7F800000 else w) + (if x < 0 then p2 31 else 0)

/-- Conversion to binary32 rounding to nearest, ties to even (R235, R399). -/
def f32 (x : Rat) : Nat := f32Enc rndEven x

/-- Conversion to binary32 where the rule states no rounding. -/
def f32Open (x : Rat) : Nat := f32Enc roundOpen x

/-! ### Q16.16 -/

/-- Conversion to Q16.16, to nearest with ties away from zero, saturating (R235). -/
def q16 (x : Rat) : Nat := unsx 32 (clampI (rndAway (x * 65536)) (-(p2 31 : Int)) ((p2 31 : Int) - 1))

/-! ### Block floating point (R229, R230) -/

/-- The value of a block floating point word. -/
def bfpVal (w : Bfp) : Rat := (w.m : Rat) * p2q ((w.e : Int) - 54)

/-- The register layout MANT[31:8], EXP[5:0]. -/
def bfpWord (w : Bfp) : Nat := unsx 24 w.m * 256 + w.e % 64

/-- The word of a register. -/
def wordBfp (w : Nat) : Bfp := ⟨sx 24 (bits w 31 8), bits w 5 0⟩

/-- The mantissa of a number at exponent e: to nearest, ties away from zero. -/
def bfpMant (x : Rat) (e : Nat) : Int := rndAway (x * p2q (54 - (e : Int)))

/-- The largest magnitude of a list. -/
def maxAbs (l : List Rat) : Rat := maxQ0 (l.map absQ)

/-- The smallest exponent from 0 to 63 at which a magnitude fits 22 bits (R230). -/
def bfpExp (a : Rat) : Option Nat :=
  if a = 0 then some 0
  else
    let e0 := (expQ a + 32).toNat
    (List.range 4).findSome? fun i =>
      let e := e0 + i
      if e ≤ 63 && bfpMant a e ≤ (p2 22 : Int) - 1 then some e else none

/-- The results of a stage on one shared exponent, and whether they saturated (R230). -/
def normStage (l : List Rat) : List Bfp × Bool :=
  match bfpExp (maxAbs l) with
  | some e => (l.map fun x => ⟨bfpMant x e, e⟩, false)
  | none => (l.map fun x => ⟨clampI (bfpMant x 63) (-((p2 23 : Int) - 1)) ((p2 23 : Int) - 1), 63⟩, true)

/-- A number as a word with its own exponent. -/
def bfpOf (x : Rat) : Bfp := ((normStage [x]).1).headD .zero

/-- A sum carried in 56 bits (R230): exact where a two's-complement mantissa of 56 bits holds it; beyond that the bits it loses, and how, are left open. -/
def carry56 (x : Rat) : Rat :=
  if x = 0 then 0
  else
    let q := p2q (expQ x - 54)
    if (x / q).den = 1 then x else ((roundOpen (x / q) : Int) : Rat) * q

/-- Element i of a list of words. -/
def bAt (l : List Bfp) (i : Nat) : Bfp := l.getD i .zero

end Sys2Proof.Machine
end

