-- ==== Sys2Proof/Machine/Profile.lean ====
section
/-! DEFINITION. Scalar motion profiles (R127 to R131, R135): evaluation of jerk phases, jerk-limited changes of velocity, moves to a target, and quintic splines. -/

namespace Sys2Proof.Machine

/-- State after time t in one jerk phase. -/
def segAt (u v a : Rat) (j t : Rat) : Rat × Rat × Rat :=
  (u + v * t + a * t * t / 2 + j * t * t * t / 6, v + a * t + j * t * t / 2, a + j * t)

/-- State after time t of a list of phases; after the last phase the velocity holds. -/
def segsAt (u v a : Rat) : List Seg → Rat → Rat × Rat × Rat
  | [], t => (u + v * t, v, 0)
  | g :: r, t =>
    if t < g.dur then segAt u v a g.jerk t
    else
      let e := segAt u v a g.jerk g.dur
      segsAt e.1 e.2.1 e.2.2 r (t - g.dur)

/-- The length of a list of phases. -/
def segsLen : List Seg → Rat
  | [] => 0
  | g :: r => g.dur + segsLen r

/-- State of a profile at path time t. -/
def profAt (p : Prof) (t : Rat) : Rat × Rat × Rat :=
  if t < p.t0 then (p.u, p.v, p.a) else segsAt p.u p.v p.a p.segs (t - p.t0)

/-- The path time at which a profile ends. -/
def profEnd (p : Prof) : Rat := p.t0 + segsLen p.segs

/-- Only phases that last. -/
def dropZero (l : List Seg) : List Seg := l.filter fun g => 0 < g.dur

/-- A jerk-limited change from velocity v and acceleration a to velocity w and acceleration 0, under the limit of acceleration (A) or deceleration (D) and the jerk J. The acceleration rises to a peak, holds, and falls to 0; where the peak is below the limit its root is rounded down, and the hold takes up the rest, so that the change ends exactly at w. -/
def vtrans (v a w la ld j : Rat) : List Seg :=
  if j ≤ 0 then []
  else
    let up := v + a * absQ a / (2 * j) ≤ w
    let sg : Rat := if up then 1 else -1
    let lim := if up then la else ld
    let b := sg * a
    let dv := sg * (w - v)
    if b ≤ lim then
      let pk := max b (min lim (sqrtQ (j * dv + b * b / 2)))
      let used := (2 * pk * pk - b * b) / (2 * j)
      dropZero [⟨(pk - b) / j, sg * j⟩, ⟨divQ (dv - used) pk, 0⟩, ⟨pk / j, -sg * j⟩]
    else
      let used := b * b / (2 * j)
      dropZero [⟨(b - lim) / j, -sg * j⟩, ⟨divQ (dv - used) lim, 0⟩, ⟨lim / j, -sg * j⟩]

/-- The limits of a scalar path: velocity, acceleration, deceleration, jerk. -/
structure Lims where
  v : Rat
  a : Rat
  d : Rat
  j : Rat
  deriving DecidableEq, Repr

/-- The list form of the limits. -/
def Lims.list (l : Lims) : List Rat := [l.v, l.a, l.d, l.j]

/-- Phases from (v, a) to peak velocity w, a cruise of c, and a ramp to rest. -/
def moveSegs (v a w c : Rat) (l : Lims) : List Seg :=
  vtrans v a w l.a l.d l.j ++ dropZero [⟨c, 0⟩] ++ vtrans w 0 0 l.a l.d l.j

/-- The cruise distance left with peak velocity w on a way of r. -/
def cruiseDist (v a w r : Rat) (l : Lims) : Rat :=
  r - (segsAt 0 v a (vtrans v a w l.a l.d l.j) (segsLen (vtrans v a w l.a l.d l.j))).1
    - (segsAt 0 w 0 (vtrans w 0 0 l.a l.d l.j) (segsLen (vtrans w 0 0 l.a l.d l.j))).1

/-- Bisection of R128 and R131: n steps over [lo, hi], keeping lo where the test holds at the middle. -/
def bisect (ok : Rat → Bool) : Nat → Rat → Rat → Rat × Rat
  | 0, lo, hi => (lo, hi)
  | n + 1, lo, hi =>
    let m := (lo + hi) / 2
    if ok m then bisect ok n m hi else bisect ok n lo m

/-- The peak velocity of a move: V_u, or the largest value that leaves a cruise of at least 0, by 24 bisection steps over [0, V_u]. -/
def peakV (v a r : Rat) (l : Lims) : Rat :=
  if 0 ≤ cruiseDist v a l.v r l then l.v
  else (bisect (fun w => 0 ≤ cruiseDist v a w r l) 24 0 l.v).1

/-- Phases that cover the way r from (v, a) and end at rest (R128). -/
def planSegs (v a r : Rat) (l : Lims) : List Seg :=
  let w := peakV v a r l
  moveSegs v a w (if w = 0 then 0 else divQ (cruiseDist v a w r l) w) l

/-- Does braking from (v, a) under deceleration d stop within the way r? -/
def stopsIn (v a r d : Rat) (l : Lims) : Bool :=
  let g := vtrans v a 0 l.a d l.j
  (segsAt 0 v a g (segsLen g)).1 ≤ r

/-- The greatest deceleration of a list of phases. -/
def peakDec (v a : Rat) : List Seg → Rat
  | [] => max 0 (-a)
  | g :: r =>
    let e := segAt 0 v a g.jerk g.dur
    max (max 0 (-a)) (peakDec e.2.1 e.2.2 r)

/-- The phases that remain of a list after time t. -/
def segsFrom : List Seg → Rat → List Seg
  | [], _ => []
  | g :: r, t => if t < g.dur then ⟨g.dur - t, g.jerk⟩ :: r else segsFrom r (t - g.dur)

/-- Is this the ramp to rest: does the acceleration stay away from 0 until the velocity is 0? -/
def lastRamp (v a : Rat) : List Seg → Bool
  | [] => v = 0
  | g :: r =>
    let e := segAt 0 v a g.jerk g.dur
    if e.2.2 = 0 then r.isEmpty && e.2.1 = 0 else lastRamp e.2.1 e.2.2 r

/-- The re-plan of a move from the state at path time t (R131): the new profile, and the deceleration D* where it was chosen above the limit. Where no deceleration stops in time under the new jerk, or a limit is 0, the running profile goes on. -/
def replan (p : Prof) (t : Rat) (l : Lims) : Prof × Option Rat :=
  let x := profAt p t
  let u := x.1
  let v := x.2.1
  let a := x.2.2
  let r := 1 - u
  let old := segsFrom p.segs (t - p.t0)
  let hi := max l.d (max (peakDec v a old) (sqrtQ (l.j * v + a * a / 2) + 1))
  let star : Prof × Option Rat :=
    if stopsIn v a r l.d l then (⟨t, u, v, a, vtrans v a 0 l.a l.d l.j⟩, some l.d)
    else if stopsIn v a r hi l then
      let d := (bisect (fun d => !stopsIn v a r d l) 24 l.d hi).2
      (⟨t, u, v, a, vtrans v a 0 l.a d l.j⟩, some d)
    else (p, some (peakDec v a old))
  if t < p.t0 || l.v = 0 || l.a = 0 || l.d = 0 || l.j = 0 then (p, none)
  else if a < 0 && lastRamp v a old then
    if l.d < -a || !stopsIn v a r l.d l then star
    else
      let z := dropZero [⟨-a / l.j, l.j⟩]
      let e := segsAt 0 v a z (segsLen z)
      let g := vtrans e.2.1 0 0 l.a l.d l.j
      let dn := e.1 + (segsAt 0 e.2.1 0 g (segsLen g)).1
      if dn < r then (⟨t, u, v, a, z ++ dropZero [⟨divQ (r - dn) e.2.1, 0⟩] ++ g⟩, none)
      else (p, none)
  else if stopsIn v a r l.d l then (⟨t, u, v, a, planSegs v a r l⟩, none)
  else star

/-- Can the polynomial with Bernstein coefficients b of degree 4 be positive on its interval? By halving, to the given depth. -/
def bernPos : Nat → List Rat → Bool
  | 0, _ => false
  | n + 1, b =>
    let mids := fun (l : List Rat) => (l.zip l.tail).map fun x => (x.1 + x.2) / 2
    if b.all (· ≤ 0) then false
    else if 0 < b.headD 0 || 0 < b.getLastD 0 then true
    else
      let m1 := mids b
      let m2 := mids m1
      let m3 := mids m2
      let m4 := mids m3
      bernPos n [b.headD 0, m1.headD 0, m2.headD 0, m3.headD 0, m4.headD 0] ||
        bernPos n [m4.headD 0, m3.getLastD 0, m2.getLastD 0, m1.getLastD 0, b.getLastD 0]

/-- Is the velocity of a quintic spline of coefficients c, times sg, positive anywhere in 0 to t? -/
def splineToward (c : List Rat) (t sg : Rat) : Bool :=
  let g := fun i => sg * c.getD i 0
  let a0 := g 1
  let a1 := 2 * g 2 * t
  let a2 := 3 * g 3 * t * t
  let a3 := 4 * g 4 * t * t * t
  let a4 := 5 * g 5 * t * t * t * t
  bernPos 24 [a0, a0 + a1 / 4, a0 + a1 / 2 + a2 / 6, a0 + 3 * a1 / 4 + a2 / 2 + a3 / 4, a0 + a1 + a2 + a3 + a4]

/-- The coefficients of a quintic spline (R130): T in s. -/
def splineCoef (p0 v0 a0 p v a t : Rat) : List Rat :=
  let h := p - p0
  [p0, v0, a0 / 2,
   (20 * h - (8 * v + 12 * v0) * t - (3 * a0 - a) * t * t) / (2 * t * t * t),
   (-30 * h + (14 * v + 16 * v0) * t + (3 * a0 - 2 * a) * t * t) / (2 * t * t * t * t),
   (12 * h - 6 * (v + v0) * t + (a - a0) * t * t) / (2 * t * t * t * t * t)]

/-- Position, first and second derivative of a quintic at time t. -/
def splineAt (c : List Rat) (t : Rat) : Rat × Rat × Rat :=
  let g := fun i => c.getD i 0
  (g 0 + t * (g 1 + t * (g 2 + t * (g 3 + t * (g 4 + t * g 5)))),
   g 1 + t * (2 * g 2 + t * (3 * g 3 + t * (4 * g 4 + t * 5 * g 5))),
   2 * g 2 + t * (6 * g 3 + t * (12 * g 4 + t * 20 * g 5)))

end Sys2Proof.Machine
end

