-- ==== Sys2Proof/Machine/Strokes.lean ====
section
/-! DEFINITION. Stroke queues and generators (spec/05_strokes.md): acceptance, the stroke advance, stops and resumes, synchronization marks, limits, homing and step input, and the commands of a queue. -/

namespace Sys2Proof.Machine

/-- Generator of axis slot n. -/
def State.gen (s : State) (n : Nat) : Gen := tget .zero s.gens n
/-- Replace a generator. -/
def State.putGen (s : State) (n : Nat) (g : Gen) : State := { s with gens := tput .zero s.gens n g }
/-- Queue of chain c. -/
def State.queue (s : State) (c : Nat) : Queue := tget .empty s.queues c
/-- Replace a queue. -/
def State.putQueue (s : State) (c : Nat) (q : Queue) : State := { s with queues := tput .empty s.queues c q }

/-- Axis count of queue c (R115). -/
def State.nax (s : State) (c : Nat) : Nat := min 12 (s.rd (R.CHN_CFG.NAX.i c))
/-- First slot of queue c. -/
def State.first (s : State) (c : Nat) : Nat := s.rd (R.CHN_CFG.FIRST.i c)
/-- Rate group of queue c (R116). -/
def State.qGroup (s : State) (c : Nat) : Nat := s.rd (R.CHN_CFG.GROUP.i c)
/-- The slots of queue c. -/
def State.slots (s : State) (c : Nat) : List Nat := (List.range (s.nax c)).map (s.first c + ·)
/-- The queue that holds a slot. -/
def State.queueOf (s : State) (n : Nat) : Option Nat :=
  (List.range 16).find? fun c => s.first c ≤ n && n < s.first c + s.nax c
/-- STATE of queue c (R132). -/
def State.qState (s : State) (c : Nat) : Nat := s.rd (R.CHN_QSTAT.STATE.i c)
/-- Set STATE. -/
def State.setQ (s : State) (c st : Nat) : State := s.wr (R.CHN_QSTAT.STATE.i c) st
/-- The group period of queue c in ns. -/
def State.qPer (s : State) (c : Nat) : Nat := 31250 * s.rgN (s.qGroup c)
/-- A second in ns as a rational. -/
def secQ : Rat := 1000000000

/-! ### Axis settings -/

/-- STK_VMAX in increments/s; bit 31 acts as 0. -/
def State.vmax (s : State) (n : Nat) : Rat := ((s.act (R.STK_VMAX.MAX.i n) % p2 31 : Nat) : Rat)
/-- STK_AMAX in increments/s². -/
def State.amax (s : State) (n : Nat) : Rat := ((10 * s.act (R.STK_AMAX.MAX.i n) : Nat) : Rat)
/-- STK_DMAX in increments/s². -/
def State.dmax (s : State) (n : Nat) : Rat := ((10 * s.act (R.STK_DMAX.MAX.i n) : Nat) : Rat)
/-- STK_JMAX in increments/s³. -/
def State.jmax (s : State) (n : Nat) : Rat := ((1000 * s.act (R.STK_JMAX.MAX.i n) : Nat) : Rat)
/-- The effective stop deceleration (R135); 0 where the axis has none. -/
def State.stopDec (s : State) (n : Nat) : Rat :=
  let d := s.act (R.STK_STOPDEC.STOP_DEC.i n)
  if d ≠ 0 then ((10 * d : Nat) : Rat) else if s.dmax n ≠ 0 then s.dmax n else s.amax n
/-- An override: 0 acts as 1, above 0x200 as 0x200. -/
def ovr (x : Nat) : Rat := ((max 1 (min 0x200 x) : Nat) : Rat) / 256
/-- An effective limit (R128): maximum, LIMS byte and override, never above the maximum. -/
def effLim (m : Rat) (b : Nat) (o : Rat) : Rat := min m (m * (((b + 1 : Nat) : Rat) / 256) * o)
/-- The effective limits of axis n under a LIMS word. -/
def State.axLims (s : State) (n lims : Nat) : Lims :=
  ⟨effLim (s.vmax n) (bits lims 31 24) (ovr (s.act (R.STK_OVR.V_OVR.i n))),
   effLim (s.amax n) (bits lims 23 16) (ovr (s.act (R.STK_OVR.A_OVR.i n))),
   effLim (s.dmax n) (bits lims 15 8) (ovr (s.act (R.STK_OVR.D_OVR.i n))),
   effLim (s.jmax n) (bits lims 7 0) 1⟩
/-- Soft limits in force on axis n (R124, R126)? -/
def State.softOn (s : State) (n : Nat) : Bool :=
  s.rd (R.STK_FLAGS.HOMED.i n) == 1 || s.act (R.STK_HOME_CFG.REQ_HOME.i n) == 0
/-- The soft limits of axis n. -/
def State.slim (s : State) (n : Nat) : Int × Int :=
  (s.actS (R.STK_SLIM_N.LIMIT.i n), s.actS (R.STK_SLIM_P.LIMIT.i n))

/-! ### Records (R120 to R122) -/

/-- Word w of a record. -/
def recW (r : List Nat) (w : Nat) : Nat := r.getD w 0
/-- TYPE. -/
def recType (r : List Nat) : Nat := bits (recW r 0) 31 28
/-- IRQ. -/
def recIrq (r : List Nat) : Bool := bit (recW r 0) 27
/-- ARG. -/
def recArg (r : List Nat) : Nat := bits (recW r 0) 23 16
/-- TAG. -/
def recTag (r : List Nat) : Nat := bits (recW r 0) 15 0
/-- P[i] in increments. -/
def recP (r : List Nat) (i : Nat) : Rat := (sx 32 (recW r (2 + i)) : Rat)
/-- V[i] in increments/s. -/
def recV (r : List Nat) (i : Nat) : Rat := (sx 32 (recW r (14 + i)) : Rat)
/-- A[i] in increments/s². -/
def recA (r : List Nat) (i : Nat) : Rat := ((10 * sx 32 (recW r (26 + i)) : Int) : Rat)
/-- T in s. -/
def recT (r : List Nat) : Rat := (recW r 1 : Rat) / secQ

/-- Element i of a list of rationals. -/
def qAt (l : List Rat) (i : Nat) : Rat := l.getD i 0

/-- The least of a list of limits, each over its displacement; 0 for an empty list. -/
def minRatio (l : List (Rat × Rat)) : Rat :=
  match l.filter fun p => p.2 ≠ 0 with
  | [] => 0
  | p :: t => t.foldl (fun m q => min m (q.1 / absQ q.2)) (p.1 / absQ p.2)

/-- The limits of u for displacements d of the axes of queue c (R127, R129). -/
def State.uLims (s : State) (c lims : Nat) (d : List Rat) : Lims :=
  let ax := (s.slots c).zip d |>.map fun p => (s.axLims p.1 lims, p.2)
  ⟨minRatio (ax.map fun p => (p.1.v, p.2)), minRatio (ax.map fun p => (p.1.a, p.2)),
   minRatio (ax.map fun p => (p.1.d, p.2)), minRatio (ax.map fun p => (p.1.j, p.2))⟩

/-! ### The present reference -/

/-- Reference position of axis n in increments. -/
def State.refPos (s : State) (n : Nat) : Rat := ((s.gen n).pos : Rat) / 65536
/-- Reference positions, velocities and accelerations of queue c. -/
def State.refP (s : State) (c : Nat) : List Rat := (s.slots c).map s.refPos
/-- Reference velocities. -/
def State.refV (s : State) (c : Nat) : List Rat := (s.slots c).map fun n => (s.gen n).vel
/-- Reference accelerations. -/
def State.refA (s : State) (c : Nat) : List Rat := (s.slots c).map fun n => (s.gen n).acc

/-- The STK registers show the reference. -/
def State.showGen (s : State) (n : Nat) : State :=
  let g := s.gen n
  ((s.wr (R.STK_REF_POS.POS.i n) (unsx 32 (g.pos / 65536))).wr (R.STK_REF_FRAC.FRAC.i n)
    (unsx 16 g.pos)).wrS (R.STK_REF_VEL.VEL.i n) (roundOpen g.vel)

/-- The generator of axis n takes a reference: rounded to 2^-16 increments, ties away from zero (R118), and clamped to the soft limits as the last barrier (R126). -/
def State.setRef (s : State) (n : Nat) (p v a : Rat) : State :=
  let raw := rndAway (p * 65536)
  let l := s.slim n
  let x := if s.softOn n then clampI raw (l.1 * 65536) (l.2 * 65536) else raw
  let s := s.putGen n { s.gen n with pos := x, vel := v, acc := a }
  let s := if x = raw then s else s.flag (R.STK_FLAGS.SOFT_CLAMP.i n)
  s.showGen n

/-- Set the references of the axes of queue c. -/
def State.setRefs (s : State) (c : Nat) (l : List (Rat × Rat × Rat)) : State :=
  forEach ((s.slots c).zip l) (fun x s => s.setRef x.1 x.2.1 x.2.2.1 x.2.2.2) s

/-! ### The position function of the executing stroke -/

/-- Position, first and second derivative of every axis at path time t in s. -/
def planAt (q : Queue) (t : Rat) : List (Rat × Rat × Rat) :=
  match q.plan with
  | .move p _ _ =>
    let x := profAt p t
    let r := q.recs.headD []
    (List.range q.startP.length).map fun i =>
      let d := recP r i - qAt q.startP i
      (qAt q.startP i + x.1 * d, x.2.1 * d, x.2.2 * d)
  | .spline _ cs => cs.map fun c => splineAt c t
  | .jog p _ _ =>
    let x := profAt p t
    let r := q.recs.headD []
    (List.range q.startP.length).map fun i =>
      let d := recV r i - qAt q.startV i
      (qAt q.startP i + qAt q.startV i * t + x.1 * d, qAt q.startV i + x.2.1 * d, x.2.2 * d)
  | .jogStop p _ =>
    let x := profAt p t
    (List.range q.startP.length).map fun i =>
      let d := qAt q.startV i
      (qAt q.startP i + x.1 * d, x.2.1 * d, x.2.2 * d)
  | _ => (List.range q.startP.length).map fun i => (qAt q.startP i, 0, 0)

/-- The nominal duration of the executing stroke in s, if it has one (R125, R129). -/
def planLen (q : Queue) : Option Rat :=
  match q.plan with
  | .move p _ _ => some (profEnd p)
  | .spline t _ => some t
  | .jog p _ e =>
    if (List.range q.startP.length).all (fun i => recV (q.recs.headD []) i = 0) then some (profEnd p) else e
  | .jogStop p _ => some (profEnd p)
  | .dwell t => some t
  | _ => none

/-- The end state of the executing stroke: exactly its end positions (R119). -/
def planFinal (q : Queue) : List (Rat × Rat × Rat) :=
  let r := q.recs.headD []
  match q.plan with
  | .move _ _ _ => (List.range q.startP.length).map fun i => (recP r i, 0, 0)
  | .spline _ _ => (List.range q.startP.length).map fun i => (recP r i, recV r i, recA r i)
  | .jog p _ e => (planAt q (e.getD (profEnd p))).map fun x => (x.1, x.2.1, 0)
  | .jogStop p _ => (planAt q (profEnd p)).map fun x => (x.1, 0, 0)
  | _ => planAt q 0

/-- Does a stroke that has ended leave the axes in motion (R130)? -/
def inMotion (l : List (Rat × Rat × Rat)) : Bool := l.any fun x => x.2.1 ≠ 0 || x.2.2 ≠ 0

/-! ### Axis stops and halts (R135, R142) -/

/-- The profile that brings axis n to rest from its present velocity and acceleration (R135). -/
def State.stopProf (s : State) (n : Nat) : Prof :=
  let g := s.gen n
  let d := s.stopDec n
  let x := s.refPos n
  if d = 0 then ⟨0, x, 0, 0, []⟩
  else if s.jmax n = 0 then
    let sg : Rat := if g.vel < 0 then 1 else -1
    ⟨0, x, g.vel, if g.vel = 0 then 0 else sg * d, dropZero [⟨absQ g.vel / d, 0⟩]⟩
  else ⟨0, x, g.vel, g.acc, vtrans g.vel g.acc 0 d d (s.jmax n)⟩

/-- Is torque off in force or due on the lane of slot n (R244)? -/
def State.torqueOff (s : State) (n : Nat) : Bool :=
  s.rd (R.AX_STAT.TORQUE_OFF.i n) == 1 || (tget Lane.zero s.lanes n).tqDue

/-- The axes of queue c start an axis stop; an axis in torque off holds its reference where it stands (R244). -/
def State.axisStop (s : State) (c : Nat) : State :=
  forEach (s.slots c) (fun n s =>
    if s.torqueOff n then s.putGen n { s.gen n with mot := none, vel := 0, acc := 0 }
    else s.putGen n { s.gen n with mot := some (s.stopProf n) }) s

/-- LEVEL and the tags of queue c. -/
def State.showQueueRegs (s : State) (c : Nat) : State :=
  let q := s.queue c
  ((s.wr (R.CHN_QSTAT.LEVEL.i c) q.recs.length).wr (R.CHN_TAG.RUN_TAG.i c)
    (if q.plan = .none then 0 else recTag (q.recs.headD []))).wr (R.CHN_TAU.TAU.i c) (unsx 32 (q.tau / 65536))

/-- Records leave the queue unexecuted or end early: DROPPED counts them and DROP_TAG takes the first (R125). -/
def State.dropRecs (s : State) (c n : Nat) : State :=
  let q := s.queue c
  let s := if n = 0 || q.recs.isEmpty then s else s.wr (R.CHN_DROP.DROP_TAG.i c) (recTag (q.recs.headD []))
  let s := s.bumpN (R.CHN_DROP.DROPPED.i c) (R.CHN_FLAGS.DROP_OVF.i c) (min n q.recs.length)
  (s.putQueue c { q with recs := q.recs.drop n, coefs := q.coefs.drop n, plan := .none }).showQueueRegs c

/-- The tail of an empty queue is the present reference (R124). -/
def State.syncTail (s : State) (c : Nat) : State :=
  s.putQueue c { s.queue c with tailP := s.refP c, tailV := s.refV c, tailA := s.refA c }

/-- A homing in progress ends with a failure: FAIL, HOME_FAIL and phase idle (R145). -/
def State.homeFail (s : State) (n code : Nat) : State :=
  let s := ((s.wr (R.STK_HOME_STAT.FAIL.i n) code).wr (R.STK_HOME_STAT.PHASE.i n) 0).flag (R.STK_FLAGS.HOME_FAIL.i n)
  s.putGen n { s.gen n with home := .idle }

/-- Queue c goes through an axis stop into HALTED: the path is abandoned and the executing stroke has ended early (R125, R135). -/
def State.haltQueue (s : State) (c : Nat) (f : Fld) : State :=
  let q := s.queue c
  let homing := match q.plan with | .home i => some (s.first c + i) | _ => none
  let run := q.plan ≠ .none
  let s : State := match homing with
    | some n => if (s.gen n).home.step = 0 then s else (s.putGen n { s.gen n with home := .idle }).wr (R.STK_HOME_STAT.PHASE.i n) 0
    | none => s
  let s := s.axisStop c
  let s := if run then s.dropRecs c 1 else s
  let q := s.queue c
  let s := s.putQueue c { q with plan := .none, ramp := none, abortPend := false, halt := none, markPend := false, rho := 0 }
  (((s.setQ c 6).wr (R.CHN_RATE.RHO.i c) 0).wr (R.CHN_QSTAT.WAIT_ID.i c) 0).flag (f.i c)

/-- A unit demands an axis stop of queue c: it takes place at the queue's next advance (R135, R136). -/
def State.demandHalt (s : State) (c : Nat) (f : Fld) : State :=
  if s.qState c = 6 then s.flag (f.i c)
  else s.putQueue c { s.queue c with halt := some f.lo }

/-- The flag of a demanded halt. -/
def haltFlag (lo : Nat) : Fld := { R.CHN_FLAGS.HALT_STOP with hi := lo, lo := lo }

/-- A demand concerning the queue of slot n. -/
def State.demandHaltOf (s : State) (n : Nat) (f : Fld) : State :=
  match s.queueOf n with
  | some c => s.demandHalt c f
  | none => s

/-- A motion of one axis advances by dt seconds; at its end the axis is at rest or runs on at its last velocity. -/
def State.motAdvance (s : State) (n : Nat) (dt : Rat) : State :=
  let g := s.gen n
  match g.mot with
  | none => s
  | some p =>
    let t := p.t0 + dt
    let x := segsAt p.u p.v p.a p.segs t
    let last := segsLen p.segs ≤ t && x.2.1 = 0
    let s := s.setRef n x.1 x.2.1 (if last then 0 else x.2.2)
    s.putGen n { s.gen n with mot := if last then none else some { p with t0 := t } }

/-! ### Starting strokes -/

/-- How a record is executed from the present reference. -/
def State.makePlan (s : State) (c : Nat) (r : List Nat) : Plan :=
  let p := s.refP c
  let v := s.refV c
  let a := s.refA c
  let ix := List.range (s.nax c)
  if recType r = 1 then
    let l := s.uLims c (recW r 1) (ix.map fun i => recP r i - qAt p i)
    if ix.all fun i => recP r i = qAt p i then .move ⟨0, 0, 0, 0, []⟩ l.list none
    else .move ⟨0, 0, 0, 0, planSegs 0 0 1 l⟩ l.list none
  else if recType r = 2 then
    (let co := (s.queue c).coefs.headD []
     .spline (recT r) (if co.isEmpty then ix.map fun i => splineCoef (qAt p i) (qAt v i) (qAt a i) (recP r i) (recV r i) (recA r i) (recT r) else co))
  else if recType r = 3 then
    let l := s.uLims c (recW r 1) (ix.map fun i => recV r i - qAt v i)
    let g : Prof := if ix.all fun i => recV r i = qAt v i then ⟨0, 0, 1, 0, []⟩ else ⟨0, 0, 0, 0, vtrans 0 0 1 l.a l.a l.j⟩
    .jog g l.list (if 1 < (s.queue c).recs.length then some (profEnd g) else none)
  else if recType r = 4 then .dwell (recT r)
  else if recType r = 5 then .sync
  else if recType r = 6 then .home (recArg r)
  else .stepin (recArg r)

/-- The CPOS of the sample at or before a stamp, from the recent counts (R281). -/
def cposAt (now stamp cp : Nat) : List (Nat × Nat) → Nat
  | [] => cp
  | (t, before) :: r => if sub32 now t < sub32 now stamp then cposAt now stamp before r else cp

/-- The feedback position of axis n at a stamp: the continuous position of a local channel as it counted, with the offset of R144, else that of the last latch (R141, R263). -/
def State.posAt (s : State) (n stamp : Nat) : Int :=
  if s.act (R.AX_CFG.POS_RING.i n) = 0 then
    (let k := s.act (R.AX_SRC.POS_FB.i n)
     sx 32 (cposAt s.now stamp (s.rd (R.FB_CPOS.VALUE.i k)) (tget Fb.zero s.fbs k).hist) + (s.gen n).ofs)
  else sx 32 (s.rd (R.AX_FB_POS.VALUE.i n))

/-- The feedback position of axis n at present. -/
def State.livePos (s : State) (n : Nat) : Int := s.posAt n s.now

/-- The position of axis n at its last latch (R144). -/
def State.latPos (s : State) (n : Nat) : Int := sx 32 (s.rd (R.AX_FB_POS.VALUE.i n))

/-- Axis n starts to run toward velocity w under its maxima (R143). -/
def State.runAxis (s : State) (n : Nat) (w : Rat) : State :=
  let g := s.gen n
  s.putGen n { g with mot := some ⟨0, s.refPos n, g.vel, g.acc, vtrans g.vel g.acc w (s.amax n) (s.dmax n) (s.jmax n)⟩ }

/-- Axis n starts an axis stop. -/
def State.stopAxis (s : State) (n : Nat) : State := s.putGen n { s.gen n with mot := some (s.stopProf n) }

/-- HOME_V1 or HOME_V2 of axis n, capped at STK_VMAX. -/
def State.homeV (s : State) (n : Nat) (first : Bool) : Rat :=
  min (s.vmax n) ((if first then s.act (R.STK_HOME_V1.V.i n) else s.act (R.STK_HOME_V2.V.i n) : Nat) : Rat)

/-- METHOD of axis n. -/
def State.homeM (s : State) (n : Nat) : Nat := s.act (R.STK_HOME_CFG.METHOD.i n)

/-- The first search of a method runs in the negative direction. -/
def homeNeg (m : Nat) : Bool := m == 2 || m == 4 || m == 6 || m == 8 || m == 0xA

/-- Does the first search of a method run at HOME_V1? -/
def homeFast (m : Nat) : Bool := (3 ≤ m && m ≤ 8) || m == 0xC

/-- Index events seen by the position feedback channel of axis n. -/
def State.idxCount (s : State) (n : Nat) : Nat := tget 0 s.idxN (s.act (R.AX_SRC.POS_FB.i n))

/-- The homing of axis n is set to a step with its phase as HOME_STAT shows it. -/
def State.homeStep (s : State) (n : Nat) (h : Homing) (phase : Nat) : State :=
  (s.putGen n { s.gen n with home := h }).wr (R.STK_HOME_STAT.PHASE.i n) phase

/-- A signed speed. -/
def dirV (neg : Bool) (v : Rat) : Rat := if neg then -v else v

/-- A HOME stroke starts on axis n (R143): HOMED clears, and the first search begins or the point is captured at once. -/
def State.homeStart (s : State) (n : Nat) : State :=
  let m := s.homeM n
  let s := (s.wr (R.STK_FLAGS.HOMED.i n) 0).wr (R.STK_HOME_STAT.FAIL.i n) 0
  let h : Homing := ⟨1, homeNeg m, false, none, none, 0, s.idxCount n⟩
  if m = 0 then s.homeStep n { h with step := 5, capA := some (s.livePos n) } 0
  else if m = 0xB then
    s.homeStep n { h with step := 5, capA := some (sx 32 (s.rd (R.FB_CPOS.VALUE.i (s.act (R.AX_SRC.POS_FB.i n)))) + (s.gen n).ofs) } 0
  else if m ≤ 2 then
    (s.homeStep n { h with step := 4 } 3).runAxis n (dirV h.neg (s.homeV n false))
  else (s.homeStep n h 1).runAxis n (dirV h.neg (s.homeV n (homeFast m)))

/-- A STEPIN stroke starts on axis n: the interpolation begins at the reference. -/
def State.stepStart (s : State) (n : Nat) : State :=
  let g := s.gen n
  s.putGen n { g with step := { g.step with base := s.refPos n, dt := 0 } }

/-- DEC_USED of the axes of queue c reads 0: no deceleration of R131 is in use. -/
def State.clearDec (s : State) (c : Nat) : State := forEach (s.slots c) (fun n s => s.wr (R.STK_DEC_USED.DEC.i n) 0) s

/-- The first record of queue c starts at the present advance with τ = 0. -/
def State.startStroke (s : State) (c : Nat) : State :=
  let q := s.queue c
  match q.recs with
  | [] => s
  | r :: _ =>
    let pl := s.makePlan c r
    let s := s.putQueue c { q with plan := pl, startP := s.refP c, startV := s.refV c, startA := s.refA c, tau := 0 }
    let s := s.clearDec c
    let s : State := match pl with
      | .sync =>
        ((s.setQ c 5).wr (R.CHN_QSTAT.WAIT_ID.i c) (recArg r)).putQueue c { s.queue c with syncAt := s.tb.rim }
      | .home i => s.homeStart (s.first c + i)
      | .stepin i => s.stepStart (s.first c + i)
      | _ => s
    s.showQueueRegs c

/-- The executing stroke of queue c completes: DONE_TAG, and vector 16 + c with IRQ = 1 (R120). -/
def State.finishStroke (s : State) (c : Nat) : State :=
  let q := s.queue c
  let r := q.recs.headD []
  let s := s.wr (R.CHN_TAG.DONE_TAG.i c) (recTag r)
  let s := s.putQueue c { q with recs := q.recs.drop 1, coefs := q.coefs.drop 1, plan := .none }
  let s := s.showQueueRegs c
  if recIrq r then s.raiseInt (16 + c) else s

/-- The path rate of queue c takes a value with 32 fraction bits; CHN_RATE shows it truncated (R118). -/
def State.putRho (s : State) (c r : Nat) : State :=
  (s.putQueue c { s.queue c with rho := r }).wr (R.CHN_RATE.RHO.i c) (r / p2 17)

/-- Queue c is IDLE at rest: ρ = σ, and the present reference is its tail. -/
def State.goIdle (s : State) (c : Nat) : State :=
  ((((s.putQueue c { s.queue c with ramp := none, tau := 0, abortPend := false, markPend := false }).setQ c 0).wr
    (R.CHN_QSTAT.WAIT_ID.i c) 0).putRho c (s.sigmaW c * p2 17)).syncTail c

/-- Queue c is STOPPED: ρ = 0. -/
def State.goStopped (s : State) (c : Nat) (mark : Bool) : State :=
  ((s.putQueue c { s.queue c with ramp := none, markPend := mark }).setQ c 3).putRho c 0

/-- Queue c has run empty: at rest it is IDLE; in motion it underruns (R130). -/
def State.runEmpty (s : State) (c : Nat) (motion : Bool) : State :=
  if motion then s.haltQueue c R.CHN_FLAGS.UNDERRUN else s.goIdle c

/-! ### Limits during a stroke (R131), soft limits of a jog (R129) -/

/-- A running MOVE or JOG whose limits have changed is planned anew from the present state. -/
def State.replanQueue (s : State) (c : Nat) : State :=
  let q := s.queue c
  let r := q.recs.headD []
  let t : Rat := (q.tau : Rat) / 65536 / secQ
  match q.plan with
  | .move p old _ =>
    let ds := (List.range q.startP.length).map fun i => recP r i - qAt q.startP i
    let l := s.uLims c (recW r 1) ds
    if l.list = old then s
    else
      let n := replan p t l
      let s := (s.putQueue c { q with plan := .move n.1 l.list n.2 }).clearDec c
      match n.2 with
      | none => s
      | some d =>
        let ax := (s.slots c).zip ds |>.filter fun x => x.2 ≠ 0
        let k := ax.foldl (fun m x => match m with
          | none => some x
          | some y =>
            if (s.axLims x.1 (recW r 1)).d / absQ x.2 < (s.axLims y.1 (recW r 1)).d / absQ y.2 then some x else some y) none
        match k with
        | none => s
        | some x =>
          (s.flag (R.STK_FLAGS.ACC_OVERRIDE.i x.1)).wrU (R.STK_DEC_USED.DEC.i x.1) (roundOpen (d * absQ x.2 / 10)).toNat
  | .jog p old e =>
    let ds := (List.range q.startP.length).map fun i => recV r i - qAt q.startV i
    let l := s.uLims c (recW r 1) ds
    if l.list = old then s
    else if l.a = 0 || l.j = 0 then s.putQueue c { q with plan := .jog p l.list e }
    else
      let x := profAt p t
      let g : Prof := ⟨t, x.1, x.2.1, x.2.2, vtrans x.2.1 x.2.2 1 l.a l.a l.j⟩
      s.putQueue c { q with plan := .jog g l.list (e.map fun _ => max t (profEnd g)) }
  | _ => s

/-- The limits of a uniform brake of queue c from velocities w, as a profile of the fraction of w that remains. -/
def State.brakeLims (s : State) (c lims : Nat) (w : List Rat) : Lims :=
  let l := s.uLims c lims w
  ⟨1, l.d, l.d, l.j⟩

/-- Where axis i of the executing jog stands when it has gone farthest in its present direction after path time t: at the end of the jog, or where its velocity changes sign; none if it runs on without end. -/
def jogReach (q : Queue) (i : Nat) (t : Rat) : Option Rat :=
  let at_ := fun (x : Rat) => (planAt q x).getD i (0, 0, 0)
  let v := (at_ t).2.1
  match q.plan with
  | .jog p _ _ =>
    let z := max t (profEnd p)
    let w := (at_ z).2.1
    if v * w < 0 then some (at_ (bisect (fun x => 0 < v * (at_ x).2.1) 24 t z).1).1
    else match planLen q with
      | some e => some (at_ (max t e)).1
      | none => if w = 0 then some (at_ z).1 else none
  | _ => none

/-- The signed room of axis n to the soft limit in the direction of v. -/
def State.softRoom (s : State) (n : Nat) (p v : Rat) : Rat :=
  (((if v < 0 then (s.slim n).1 else (s.slim n).2 : Int) : Rat) - p) / v

/-- The axis of queue c that a jog at path time t would carry past a soft limit first, with its index in the queue and its time to the limit at its present velocity. -/
def State.softFirst (s : State) (c : Nat) (t : Rat) : Option (Nat × Nat × Rat) :=
  let q := s.queue c
  ((s.slots c).zipIdx.zip (planAt q t)).foldl (fun m y =>
    let n := y.1.1
    let v := y.2.2.1
    let past : Bool := match jogReach q y.1.2 t with
      | none => true
      | some r => decide (s.softRoom n r v < 0)
    if v = 0 || !s.softOn n || !past then m
    else
      let left := max 0 (s.softRoom n y.2.1 v)
      match m with
      | none => some (n, y.1.2, left)
      | some k => if left < k.2.2 then some (n, y.1.2, left) else some k) none

/-- The phases of a uniform brake over the way left, from the full velocity with relative acceleration a: exactly at rest at its end. A way too short for the limits is braked harder, in proportion. -/
def brakeSegs (a left : Rat) (l : Lims) : Rat × List Seg :=
  if l.d = 0 || l.j = 0 || left = 0 then (0, [])
  else if stopsIn 1 a left l.d l then (a, planSegs 1 a left l)
  else
    let b := vtrans 1 0 0 l.a l.d l.j
    let f := left / (segsAt 0 1 0 b (segsLen b)).1
    (0, b.map fun g => ⟨g.dur * f, g.jerk / (f * f)⟩)

/-- A jog that would carry an axis past a soft limit is braked uniformly from the last advance on which that still brings the axis to rest on its limit (R129). -/
def State.jogSoft (s : State) (c : Nat) : State :=
  let q := s.queue c
  match q.plan with
  | .jog _ _ _ =>
    let t : Rat := (q.tau : Rat) / 65536 / secQ
    match s.softFirst c t with
    | none => s
    | some (n, i, left) =>
      let x := planAt q t
      let y := (planAt q (t + (s.qPer c : Rat) / secQ)).getD i (0, 0, 0)
      let l := s.brakeLims c (recW (q.recs.headD []) 1) (x.map fun y => y.2.1)
      let waits := y.2.1 * (x.getD i (0, 0, 0)).2.1 ≤ 0 ||
        (0 ≤ s.softRoom n y.1 y.2.1 && stopsIn 1 (divQ y.2.2 y.2.1) (s.softRoom n y.1 y.2.1) l.d l)
      if waits then s
      else
        let a := divQ (x.getD i (0, 0, 0)).2.2 (x.getD i (0, 0, 0)).2.1
        let b := brakeSegs a left l
        let s := s.putQueue c { q with
          plan := .jogStop ⟨t, 0, if b.2.isEmpty then 0 else 1, b.1, b.2⟩ n,
          startP := x.map (·.1), startV := x.map (fun y => y.2.1), startA := [] }
        s.flag (R.STK_FLAGS.SOFT_STOP.i n)
  | _ => s

/-! ### Homing at an advance (R143 to R145) -/

/-- The limit input that ends the search of a method: home for 3 to 6 and 0xC, the own limit for 7 and 8. -/
def homeIn (g : Gen) (m : Nat) : LimIn := if m = 7 then g.limP else if m = 8 then g.limN else g.limH

/-- Is a limit in the direction of travel of axis n latched, other than the home event of the method? -/
def State.limMet (s : State) (n m : Nat) : Bool :=
  let g := s.gen n
  if g.vel = 0 then false
  else if g.vel < 0 then g.limN.latched && m != 8 else g.limP.latched && m != 7

/-- Captured positions of a limit input after the offset of R144. -/
def limShift (l : LimIn) (d : Int) : LimIn := { l with cand := l.cand + d, capOn := l.capOn + d, capOff := l.capOff + d }

/-- The captured point of axis n is applied: one offset to the reference and the position feedback makes it read HOME_POS (R144), and every position kept of the axis moves with it; it is a reference event of the channel (R262). -/
def State.homeApply (s : State) (n : Nat) (cap : Int) : State :=
  let d := s.actS (R.STK_HOME_POS.POS.i n) - cap
  let g := s.gen n
  let s := s.putGen n { g with
    pos := g.pos + d * 65536, ofs := g.ofs + d,
    limP := limShift g.limP d, limN := limShift g.limN d, limH := limShift g.limH d, lats := g.lats.map fun x => (x.1, x.2 + d),
    mot := g.mot.map fun p => { p with u := p.u + (d : Rat) } }
  let s := s.wr (R.AX_FB_POS.VALUE.i n) (unsx 32 (s.latPos n + d))
  let s := if s.act (R.AX_CFG.POS_RING.i n) = 0 then s.wr (R.FB_STAT.POS_UNCERTAIN.i (s.act (R.AX_SRC.POS_FB.i n))) 0 else s
  (s.wr (R.STK_FLAGS.HOMED.i n) 1).showGen n

/-- The homed stroke of queue c is complete. -/
def State.homeDone (s : State) (c n : Nat) : State :=
  (s.homeStep n .idle 0).finishStroke c

/-- The two captures of a method as one point. -/
def homePoint (m : Nat) (h : Homing) : Int :=
  match h.capA, h.capB with
  | some a, some b => if m = 0xC then roundOpen (((a + b : Int) : Rat) / 2) else a
  | some a, none => a
  | _, _ => 0

/-- A homing of axis n of queue c fails: the queue goes through an axis stop into HALTED (R145). -/
def State.homeHalt (s : State) (c n code : Nat) (dt : Rat) : State :=
  let s := (s.homeFail n code).haltQueue c R.CHN_FLAGS.HALT_FAULT
  forEach (s.slots c) (fun n s => s.motAdvance n dt) s

/-- A validated event: the axis stops, and the captured point is applied at this advance (R143, R144). -/
def State.homeEvent (s : State) (n m phase : Nat) (h : Homing) : State :=
  ((s.stopAxis n).homeApply n (homePoint m h)).homeStep n { h with step := 6 } phase

/-- The final move to HOME_TGT (R144), or the end of the stroke. -/
def State.homeFinal (s : State) (c n : Nat) (h : Homing) : State :=
  let d : Rat := ((s.actS (R.STK_HOME_TGT.POS.i n) : Int) : Rat) - s.refPos n
  if s.act (R.STK_HOME_CFG.MOVE.i n) = 0 || d = 0 then s.homeDone c n
  else
    let sg : Rat := if d < 0 then -1 else 1
    let segs := (planSegs 0 0 (absQ d) ⟨s.homeV n true, s.amax n, s.dmax n, s.jmax n⟩).map fun g => ⟨g.dur, sg * g.jerk⟩
    (s.homeStep n { h with step := 7 } 4).putGen n { s.gen n with home := { h with step := 7 }, mot := some ⟨0, s.refPos n, 0, 0, segs⟩ }

/-- A limit met in the direction of travel during a search: a failure, or the search turns (R145). -/
def State.homeLimit (s : State) (c n : Nat) (h : Homing) (dt : Rat) : State :=
  if s.act (R.STK_HOME_CFG.LIM_ACT.i n) = 0 then s.homeHalt c n 1 dt
  else if h.limMet then s.homeHalt c n 2 dt
  else ((s.homeStep n { h with step := if h.step = 1 then 8 else 9, limMet := true } (if h.step = 1 then 1 else 3)).stopAxis n).motAdvance n dt

/-- What the homing of axis n does at an advance, before the axis moves: the next search, stop or capture (R143, R144). -/
def State.homeTurn (s : State) (c n : Nat) : State :=
  let m := s.homeM n
  let g := s.gen n
  let h := g.home
  let li := homeIn g m
  let still := g.mot.isNone
  if h.step = 8 && still then
    (s.homeStep n { h with step := 1, neg := !h.neg } 1).runAxis n (dirV (!h.neg) (s.homeV n (homeFast m)))
  else if h.step = 9 && still then
    (s.homeStep n { h with step := 4, neg := !h.neg } 3).runAxis n (dirV (!h.neg) (s.homeV n false))
  else if h.step = 1 && (m = 9 || m = 0xA) then
    let lagging := s.act (R.STK_HOME_HS.HS_ERR.i n) < (sx 32 (s.rd (R.AX_EP.VALUE.i n))).natAbs
    let k := if lagging then h.dwell + 1 else 0
    if lagging && s.act (R.STK_HOME_HS.HS_TIME.i n) ≤ k then
      (s.homeStep n { h with step := 5, capA := some (s.latPos n) } 1).stopAxis n
    else s.homeStep n { h with dwell := k } 1
  else if h.step = 1 && m = 0xC && li.stable && h.capA.isNone then
    (s.homeStep n { h with capA := some li.capOn } 1).runAxis n (s.homeV n false)
  else if h.step = 1 && m = 0xC && h.capA.isSome && !li.stable then
    s.homeEvent n m 1 { h with capB := some li.capOff }
  else if h.step = 1 && m ≠ 0xC && (if m = 7 || m = 8 then li.latched else li.stable) then
    (s.homeStep n { h with step := 2 } 1).stopAxis n
  else if h.step = 2 && still then
    (s.homeStep n { h with step := 3, neg := !h.neg } 2).runAxis n (dirV (!h.neg) (s.homeV n false))
  else if h.step = 3 && !li.stable then
    if m = 5 || m = 6 then s.homeStep n { h with step := 4, idx0 := s.idxCount n } 3
    else s.homeEvent n m 2 { h with capA := some li.capOff }
  else if h.step = 4 && s.idxCount n ≠ h.idx0 then
    s.homeEvent n m 3 { h with capA := some (sx 32 (tget Fb.zero s.fbs (s.act (R.AX_SRC.POS_FB.i n))).idxC + g.ofs) }
  else if h.step = 5 then
    (s.homeApply n (homePoint m h)).homeStep n { h with step := 6 } (s.rd (R.STK_HOME_STAT.PHASE.i n))
  else if h.step = 6 && still then s.homeFinal c n h
  else if h.step = 7 && still then
    (s.setRef n ((s.actS (R.STK_HOME_TGT.POS.i n) : Int) : Rat) 0 0).homeDone c n
  else s

/-- One advance of a homing axis n of queue c. -/
def State.homeAdvance (s : State) (c n : Nat) (dt : Rat) : State :=
  let h := (s.gen n).home
  if (h.step = 1 || h.step = 4) && s.limMet n (s.homeM n) then s.homeLimit c n h dt
  else (s.homeTurn c n).motAdvance n dt

/-! ### Step input (R148, R149) -/

/-- One advance of axis n under STEPIN. -/
def State.stepAdvance (s : State) (c n : Nat) : State :=
  let g := s.gen n
  let k := g.step
  let old := s.refPos n
  let want := if k.dt = 0 then k.goal
    else k.base + (k.goal - k.base) * (if p2 31 ≤ s.tb.rim - k.rim then 1 else min 1 (((sub32 s.now k.t0 : Nat) : Rat) / (k.dt : Rat)))
  let lim := s.vmax n * ((s.qPer c : Nat) : Rat) / secQ
  let p := old + clampQ (want - old) (-lim) lim
  let inc : Rat := ((absQ (s.actS (R.STK_STEP_CFG.INC.i n) : Rat)))
  let s := if 16 * inc < absQ (k.goal - p) then s.flag (R.STK_FLAGS.STEP_LAG.i n) else s
  let v := (p - old) * secQ / ((s.qPer c : Nat) : Rat)
  s.setRef n p v 0

/-- Has axis n reached its step goal? -/
def State.stepReached (s : State) (n : Nat) : Bool := (s.gen n).pos == rndAway ((s.gen n).step.goal * 65536)

/-- A feedback fault ends a homing with FAIL 0x3, and HOMED clears where the position is lost (R145). -/
def State.homeFbFault (s : State) (n : Nat) : State :=
  let s := s.wr (R.STK_FLAGS.HOMED.i n) 0
  if (s.gen n).home.step = 0 then s else (s.homeFail n 3).demandHaltOf n R.CHN_FLAGS.HALT_FAULT

/-! ### The electrical angle (R146, R147) -/

/-- Microsteps per full step at a resolution. -/
def msSteps (res : Nat) : Nat := if res = 0 then 256 else if res = 1 then 64 else if res = 2 then 16 else 4

/-- The resolution that a speed in full steps/s selects from the one in force: coarser at a threshold, finer below 15/16 of it. -/
def msRes (cur : Nat) (v t1 t2 t3 : Rat) : Nat :=
  let up := if t3 ≤ v then 3 else if t2 ≤ v then 2 else if t1 ≤ v then 1 else 0
  let f : Rat := 15 / 16
  let dn := if v < t1 * f then 0 else if v < t2 * f then 1 else if v < t3 * f then 2 else 3
  if cur < up then up else if dn < cur then dn else cur

/-- The electrical angle of axis n at an advance. -/
def State.microstep (s : State) (n : Nat) : State :=
  if s.act (R.STK_MS_CFG.MS_EN.i n) = 0 then s
  else
    let fs := max 1 (s.act (R.STK_MS_CFG.FS_INC.i n))
    let g := s.gen n
    let cur := s.rd (R.STK_MS_V3.RES.i n)
    let quant := fun (res : Nat) =>
      let ms := msSteps res
      let x : Rat := ((g.pos % (4 * fs * 65536 : Int) : Int) : Rat) / ((65536 * fs : Nat) : Rat)
      ((roundOpen (x * (ms : Rat))) % (4 * ms : Int)).toNat * (256 / ms)
    let v := absQ g.vel / (fs : Rat)
    let want := msRes cur v (s.act (R.STK_MS_V12.MS_V1.i n)) (s.act (R.STK_MS_V12.MS_V2.i n)) (s.act (R.STK_MS_V3.MS_V3.i n))
    let a := quant cur
    if want ≠ cur && a / 256 ≠ g.msAng / 256 then
      (s.wr (R.STK_MS_V3.RES.i n) want).putGen n { g with msAng := quant want }
    else s.putGen n { g with msAng := a }

/-! ### Path rate (R118, R133, R134) -/

/-- 1.0 as a path rate with 32 fraction bits. -/
def rhoOne : Nat := p2 32

/-- σ in force for queue c with 32 fraction bits (R117). -/
def State.sigma (s : State) (c : Nat) : Nat := s.sigmaW c * p2 17

/-- A time in s rounded up to whole group periods of queue c, at least 2, in ns. -/
def State.rampLen (s : State) (c : Nat) (t : Rat) : Nat :=
  let per : Rat := (s.qPer c : Rat) / secQ
  max 2 (t / per).ceil.toNat * s.qPer c

/-- The path stop of queue c begins at this advance (R133). -/
def State.beginStop (s : State) (c : Nat) : State :=
  let q := s.queue c
  let t := maxQ0 ((s.slots c).map fun n => divQ (absQ (s.gen n).vel) (s.stopDec n))
  (s.putQueue c { q with ramp := some ⟨(q.rho : Rat), s.rampLen c (3 / 2 * t), 0, false⟩ }).setQ c 2

/-- The resume ramp of queue c begins at this advance (R134). -/
def State.beginResume (s : State) (c : Nat) : State :=
  let q := s.queue c
  let x := planAt q ((q.tau : Rat) / 65536 / secQ)
  let sg : Rat := ((s.sigma c : Nat) : Rat) / ((p2 32 : Nat) : Rat)
  let t := maxQ0 (((s.slots c).zip x).map fun y => divQ (absQ y.2.2.1 * sg) (s.amax y.1))
  (s.putQueue c { q with ramp := some ⟨(q.rho : Rat), s.rampLen c (3 / 2 * t), 0, true⟩, abortPend := false }).setQ c 4

/-- The path rate at this advance, with its rate of change per s, and whether the ramp has ended. -/
def State.rhoNow (s : State) (c : Nat) : Nat × Rat × Bool :=
  let q := s.queue c
  match q.ramp with
  | none => (s.sigma c, 0, false)
  | some r =>
    let x : Rat := (r.ran : Rat) / (r.len : Rat)
    let len : Rat := (r.len : Rat) / secQ
    let f := 3 * x * x - 2 * x * x * x
    let df := (6 * x - 6 * x * x) / len
    if r.len ≤ r.ran then (if r.up then s.sigma c else 0, 0, true)
    else if r.up then
      let d := ((s.sigma c : Nat) : Rat) - r.rho0
      ((roundOpen (r.rho0 + d * f)).toNat, d * df / (rhoOne : Rat), false)
    else ((roundOpen (r.rho0 * (1 - f))).toNat, -(r.rho0 * df) / (rhoOne : Rat), false)

/-! ### Commands at an advance (R136, R137) -/

/-- Every record of queue c is removed; the queue is IDLE at rest. -/
def State.removeAll (s : State) (c : Nat) : State :=
  let s := s.dropRecs c (s.queue c).recs.length
  (s.putQueue c { s.queue c with plan := .none }).goIdle c

/-- Does an axis of queue c still move on its own? -/
def State.braking (s : State) (c : Nat) : Bool := (s.slots c).any fun n => (s.gen n).mot.isSome

/-- Every record of queue c is removed once its axes are at rest: IDLE has the reference at rest (R132, R136). -/
def State.removeAtRest (s : State) (c : Nat) : State :=
  if s.braking c then s.putQueue c { s.queue c with abortPend := true } else s.removeAll c

/-- Does queue c execute a homing (its axis), which a path stop ends with FAIL 0x4 (R145)? -/
def State.homingAxis (s : State) (c : Nat) : Option Nat :=
  match (s.queue c).plan with
  | .home i => some (s.first c + i)
  | _ => none

/-- A path stop, or an abort in motion, of queue c. -/
def State.stopOrAbort (s : State) (c : Nat) (abort : Bool) : State :=
  match s.homingAxis c with
  | some n => (s.homeFail n 4).haltQueue c R.CHN_FLAGS.HALT_FAULT
  | none =>
    let s : State := match (s.queue c).plan with
      | .stepin i => s.stopAxis (s.first c + i)
      | _ => s
    let s := if s.qState c = 2 then s else s.beginStop c
    s.putQueue c { s.queue c with abortPend := (s.queue c).abortPend || abort }

/-- The commands w are taken or refused; only the highest of ABORT, STOP, FLUSH, RESUME is taken. -/
def State.doCmd (s : State) (c w : Nat) : State :=
  let st := s.qState c
  let refuse := s.flag (R.CHN_FLAGS.CMD_REFUSED.i c)
  if bit w 3 then
    if st = 0 then refuse
    else if st = 3 || st = 5 || st = 6 then s.removeAtRest c
    else s.stopOrAbort c true
  else if bit w 2 then
    if st = 1 || st = 4 then s.stopOrAbort c false
    else if st = 5 then s.goStopped c true
    else refuse
  else if bit w 1 then
    if st = 3 || st = 6 then s.removeAtRest c else refuse
  else if (st = 2 || st = 3) && s.mode ≠ 6 then
    if (s.queue c).markPend then ((s.putQueue c { s.queue c with markPend := false }).setQ c 5).putRho c (s.sigma c)
    else
      let s : State := match (s.queue c).plan with
        | .stepin i => (s.stepStart (s.first c + i)).putGen (s.first c + i) { (s.stepStart (s.first c + i)).gen (s.first c + i) with mot := none }
        | _ => s
      s.beginResume c
  else refuse

/-- The commands pending in CHN_CMD are taken at an advance, and a leader mirrors them; a standby refuses them and takes those that its leader took (R138, R360). -/
def State.takeCmd (s : State) (c : Nat) : State :=
  let w := s.rdw (R.CHN_CMD.ABORT.i c).addr
  let m := (s.queue c).cmdM
  let s := if m = 0 then s else s.putQueue c { s.queue c with cmdM := 0 }
  let s := if w = 0 then s else s.putRaw (R.CHN_CMD.ABORT.i c).addr 0
  if s.mode = 3 then
    (let s := if w = 0 then s else s.flag (R.CHN_FLAGS.CMD_REFUSED.i c)
     if m = 0 then s else s.doCmd c m)
  else if w = 0 then s
  else (s.doCmd c w).mirror s.now 3 [c, w]

/-- The commands pending in CHN_CMD are refused: a hardware transition to HALTED falls on the advance (R136). -/
def State.refuseCmd (s : State) (c : Nat) : State :=
  let a := (R.CHN_CMD.ABORT.i c).addr
  let s := if (s.queue c).cmdM = 0 then s else s.putQueue c { s.queue c with cmdM := 0 }
  if s.rdw a = 0 then s else (s.putRaw a 0).flag (R.CHN_FLAGS.CMD_REFUSED.i c)

/-- In HOLD every queue in RUN or RESUMING starts a path stop, and a queue in SYNC_WAIT goes to STOPPED (R137). -/
def State.holdQueue (s : State) (c : Nat) : State :=
  if s.mode ≠ 6 then s
  else if s.qState c = 1 || s.qState c = 4 then s.stopOrAbort c false
  else if s.qState c = 5 then s.goStopped c true
  else s

/-! ### The stroke advance -/

/-- Deliver the references of the path at the present τ with path rate ρ and its rate of change. -/
def State.deliver (s : State) (c : Nat) (rho drho : Rat) : State :=
  let q := s.queue c
  let x := planAt q ((q.tau : Rat) / 65536 / secQ)
  s.setRefs c (x.map fun y => (y.1, rho * y.2.1, rho * rho * y.2.2 + drho * y.2.1))

/-- Ends of strokes within one advance (R119): on fuel, as each completed stroke leaves the queue; `prev` is τ before the advance, so that a jog that already ran past its blend ends where it is. -/
def State.endStrokes (s : State) (c : Nat) (rho drho : Rat) (prev : Int) : Nat → State
  | 0 => s
  | fuel + 1 =>
    let q := s.queue c
    match q.plan with
    | .none =>
      if q.recs.isEmpty then s.runEmpty c false
      else
        let s := (if s.qState c = 0 then s.setQ c 1 else s).startStroke c
        match (s.queue c).plan with
        | .sync | .home _ | .stepin _ => s
        | _ => s.endStrokes c rho drho (-1) fuel
    | .sync | .home _ | .stepin _ => s
    | _ =>
      match planLen q with
      | none => s.deliver c rho drho
      | some len =>
        let lenF := rndAway (len * secQ * 65536)
        let jogOn := match q.plan with | .jog _ _ _ => lenF < prev | _ => false
        if q.tau < lenF then s.deliver c rho drho
        else
          let fin := if jogOn && !(inMotion (planFinal q) == false) then
              (planAt q ((q.tau : Rat) / 65536 / secQ)).map fun x => (x.1, x.2.1, 0)
            else planFinal q
          let past := if jogOn then 0 else q.tau - lenF
          let s := s.finishStroke c
          if (s.queue c).recs.isEmpty then
            (s.setRefs c (fin.map fun x => (x.1, rho * x.2.1, rho * rho * x.2.2))).runEmpty c (inMotion fin)
          else
            let s := s.setRefs c fin
            let s := s.startStroke c
            let q := s.queue c
            match q.plan with
            | .sync | .home _ | .stepin _ =>
              s.setRefs c ((s.refP c).map fun p => (p, 0, 0))
            | _ => (s.putQueue c { q with tau := past }).endStrokes c rho drho (-1) fuel

/-- The ramp of queue c has brought ρ to its end value. -/
def State.rampEnd (s : State) (c : Nat) : State :=
  let q := s.queue c
  match q.ramp with
  | none => s
  | some r =>
    if r.up then (s.putQueue c { q with ramp := none }).setQ c 1
    else if q.abortPend then (s.goStopped c q.markPend).removeAtRest c
    else s.goStopped c q.markPend

/-- A path stop that carries the queue onto a SYNC stroke ends there: STOPPED with the mark pending (R139). One that carries it onto a HOME ends that homing with FAIL 0x4 (R145). -/
def State.stopOnto (s : State) (c : Nat) : State :=
  let q := s.queue c
  match q.plan, q.ramp with
  | .sync, some r =>
    if r.up then s.putQueue c { q with ramp := none }
    else if q.abortPend then s.removeAll c
    else s.goStopped c true
  | .home i, some r => if r.up then s else (s.homeFail (s.first c + i) 4).haltQueue c R.CHN_FLAGS.HALT_FAULT
  | _, _ => s

/-- Queue c advances by its ramp: τ grows by the mean of the path rates, and the stroke is delivered (R118). -/
def State.runQueue (s : State) (c : Nat) : State :=
  let per := s.qPer c
  let dt : Rat := (per : Rat) / secQ
  let st := s.qState c
  let s := s.replanQueue c
  let r := s.rhoNow c
  let q := s.queue c
  let inc := rdivAway ((per * 65536 * (q.rho + r.1) : Nat) : Int) (2 * rhoOne)
  let q := { q with tau := q.tau + inc, ramp := q.ramp.map fun x => { x with ran := x.ran + per } }
  let s := (s.putQueue c q).putRho c r.1
  let rho : Rat := (r.1 : Rat) / (rhoOne : Rat)
  let s : State := match q.plan with
    | .home i => s.homeAdvance c (s.first c + i) dt
    | .stepin i =>
      let n := s.first c + i
      if (s.gen n).mot.isSome then s.motAdvance n dt
      else if st = 2 then s
      else
        let s := s.stepAdvance c n
        if 1 < q.recs.length && s.stepReached n then
          let s := (s.setRef n (s.refPos n) 0 0).finishStroke c
          let s := s.startStroke c
          s.endStrokes c rho r.2.1 (-1) 33
        else s
    | _ => (s.jogSoft c).endStrokes c rho r.2.1 (q.tau - inc) 33
  let s := s.stopOnto c
  let s := if r.2.2 then s.rampEnd c else s
  if s.qState c = 4 && (s.queue c).plan = .sync then s.setQ c 5 else s

/-- The motion of queue c at an advance: a fresh start, the running path, or the axes that move on their own. -/
def State.moveQueue (s : State) (c : Nat) : State :=
  let dt : Rat := (s.qPer c : Rat) / secQ
  let st := s.qState c
  if st = 0 && !(s.queue c).recs.isEmpty && s.mode ≠ 6 then
    let s := ((s.setQ c 1).startStroke c).putRho c (s.sigma c)
    s.endStrokes c ((s.sigma c : Rat) / (rhoOne : Rat)) 0 (-1) 33
  else if st = 0 || st = 3 || st = 5 || st = 6 then
    let s := if st = 0 || st = 5 then s.putRho c (s.sigma c) else s
    let s : State := forEach (s.slots c) (fun n s => s.motAdvance n dt) s
    if (s.queue c).abortPend && !s.braking c then s.removeAll c else s
  else s.runQueue c

/-- A queue whose homing has ended with records left starts the next one at this advance. -/
def State.nextAfterHome (s : State) (c : Nat) : State :=
  let q := s.queue c
  if s.qState c = 1 && q.plan = .none then
    if q.recs.isEmpty then s.runEmpty c false else s.startStroke c
  else s

/-- A latch clears when its input has been stably inactive and the position has moved away from the capture (R142). -/
def State.clearLatches (s : State) (n : Nat) : State :=
  let g := s.gen n
  let clr : Int := (s.act (R.STK_LIM_CLR.CLEAR.i n) : Nat)
  let p := s.livePos n
  let freeP := g.limP.latched && !g.limP.stable && p ≤ g.limP.capOn - clr
  let freeN := g.limN.latched && !g.limN.stable && g.limN.capOn + clr ≤ p
  let s := if freeP then (s.putGen n { s.gen n with limP := { g.limP with latched := false } }).wr (R.STK_LIM_STAT.LATCH_P.i n) 0 else s
  if freeN then (s.putGen n { s.gen n with limN := { g.limN with latched := false } }).wr (R.STK_LIM_STAT.LATCH_N.i n) 0 else s

/-- Do the queues advance in the present mode (R111)? -/
def State.strokesRun (s : State) : Bool :=
  s.alive && s.dom 10 && (s.mode == 2 || s.mode == 3 || s.mode == 4 || s.mode == 6 || s.mode == 7)

/-- The last barrier of R126: an axis whose reference stands outside its soft limits is put on the limit. -/
def State.softClamp (s : State) (n : Nat) : State :=
  let g := s.gen n
  let l := s.slim n
  if s.softOn n && (g.pos < l.1 * 65536 || l.2 * 65536 < g.pos) then s.setRef n (s.refPos n) g.vel g.acc else s

/-- Queue c takes its commands and moves. -/
def State.cmdMove (s : State) (c : Nat) : State := (((s.takeCmd c).holdQueue c).moveQueue c).nextAfterHome c

/-- Queue c moves without its commands, which are refused. -/
def State.bareMove (s : State) (c : Nat) : State := (((s.refuseCmd c).holdQueue c).moveQueue c).nextAfterHome c

/-- The advance of queue c at a sample instant of its group (R116, R118, R136): a hardware transition to HALTED on the advance wins over its commands. -/
def State.advanceQueue (c : Nat) (s : State) : State :=
  if s.nax c = 0 then s
  else
    let s : State := forEach (s.slots c) (fun n s => s.clearLatches n) s
    let s : State := match (s.queue c).halt with
      | some lo =>
        let s := if s.qState c = 6 then s.flag ((haltFlag lo).i c) else s.haltQueue c (haltFlag lo)
        (s.putQueue c { s.queue c with halt := none }).bareMove c
      | none => if s.qState c ≠ 6 && (s.bareMove c).qState c = 6 then s.bareMove c else s.cmdMove c
    let s : State := forEach (s.slots c) (fun n s => (s.softClamp n).microstep n) s
    let s := if s.qState c = 0 then s.syncTail c else s
    s.showQueueRegs c

/-! ### Synchronization marks (R139) -/

/-- The members that a mark of queue c names. -/
def State.syncMask (s : State) (c : Nat) : List Nat :=
  let m := bits (recW ((s.queue c).recs.headD []) 1) 15 0
  (List.range 16).filter fun d => bit m d

/-- Is queue c waiting at a mark? -/
def State.waiting (s : State) (c : Nat) : Bool := s.qState c == 5

/-- The mark ID of queue c. -/
def State.waitId (s : State) (c : Nat) : Nat := s.rd (R.CHN_QSTAT.WAIT_ID.i c)

/-- Members that wait at different IDs set SYNC_MISMATCH. -/
def State.syncMismatch (s : State) (c : Nat) : State :=
  if s.waiting c then
    let bad := (s.syncMask c).filter fun d => s.waiting d && s.waitId d != s.waitId c
    if bad.isEmpty then s
    else forEach (c :: bad) (fun d s => s.flag (R.CHN_FLAGS.SYNC_MISMATCH.i d)) s
  else s

/-- Can the mark of queue c be released at base index k? -/
def State.syncReady (s : State) (c k : Nat) : Bool :=
  s.waiting c &&
    (s.syncMask c).all fun d => s.waiting d && s.waitId d == s.waitId c && s.rgAt (s.qGroup d) k

/-- A member leaves its mark: the SYNC stroke completes and the next stroke starts. -/
def State.syncLeave (c : Nat) (s : State) : State :=
  let s := (((s.finishStroke c).wr (R.CHN_QSTAT.WAIT_ID.i c) 0).setQ c 1).putRho c (s.sigma c)
  if (s.queue c).recs.isEmpty then s.runEmpty c false
  else (s.startStroke c).endStrokes c ((s.sigma c : Rat) / (rhoOne : Rat)) 0 (-1) 33

/-- At base index k the marks whose members all wait are released together. -/
def State.syncRelease (s : State) (k : Nat) : State :=
  let s : State := forEach (List.range 16) (fun c s => s.syncMismatch c) s
  let go := (List.range 16).filter fun c => s.syncReady c k
  forEach go State.syncLeave s

/-- The idle generators whose group's boundary is base index k deliver their electrical angle too (R115, R146). -/
def State.idleAdvance (s : State) (k : Nat) : State :=
  forEach ((List.range 160).filter fun n =>
    s.act (R.STK_MS_CFG.MS_EN.i n) == 1 && (s.queueOf n).isNone && ((s.axGroup n).map fun g => s.rgAt g k) == some true) (fun n s => s.microstep n) s

/-- All queues whose group's boundary is base index k advance (row 5 of R27). -/
def State.strokeAdvance (s : State) (k : Nat) : State :=
  if s.strokesRun then
    let s : State := forEach (List.range 16) (fun c s =>
      if 0 < s.nax c && s.rgAt (s.qGroup c) k then s.advanceQueue c else s) s
    (s.syncRelease k).idleAdvance k
  else s

/-! ### The checker (R123, R124) -/

/-- The end state of the last accepted record, which the checker compares with (R124): the present reference where the queue is empty; of an executing jog, the end of its blend, or where it stands past it. -/
def State.tail (s : State) (c : Nat) : List Rat × List Rat × List Rat :=
  let q := s.queue c
  match q.recs, q.plan with
  | [], _ => (s.refP c, s.refV c, s.refA c)
  | [_], .jog p _ _ =>
    let x := planAt q (max (profEnd p) ((q.tau : Rat) / 65536 / secQ))
    (x.map (·.1), x.map (·.2.1), x.map fun _ => 0)
  | [_], .jogStop _ _ => ((planFinal q).map (·.1), x0 q, x0 q)
  | _, _ => (q.tailP, q.tailV, q.tailA)
where
  x0 (q : Queue) : List Rat := q.startP.map fun _ => 0

/-- The end state of a record after a predecessor's end state (p, v, a). DESIGN CHOICE (log 66): where a HOME or a STEPIN ends is not known at acceptance; the checker takes HOME_TGT or HOME_POS for the first, and the position before the steps for the second. -/
def State.recEnd (s : State) (c : Nat) (r : List Nat) (p v a : List Rat) : List Rat × List Rat × List Rat :=
  let ix := List.range (s.nax c)
  let z := ix.map fun _ => (0 : Rat)
  if recType r = 1 then (ix.map (recP r), z, z)
  else if recType r = 2 then (ix.map (recP r), ix.map (recV r), ix.map (recA r))
  else if recType r = 3 then
    let l := s.uLims c (recW r 1) (ix.map fun i => recV r i - qAt v i)
    let g := vtrans 0 0 1 l.a l.a l.j
    let t := segsLen g
    let u := (segsAt 0 0 0 g t).1
    (ix.map fun i => qAt p i + qAt v i * t + u * (recV r i - qAt v i), ix.map (recV r), z)
  else if recType r = 6 then
    let n := s.first c + recArg r
    let x : Rat := if s.act (R.STK_HOME_CFG.MOVE.i n) = 1 then (s.actS (R.STK_HOME_TGT.POS.i n) : Rat) else (s.actS (R.STK_HOME_POS.POS.i n) : Rat)
    (ix.map fun i => if i = recArg r then x else qAt p i, z, z)
  else (p, if recType r = 4 || recType r = 5 || recType r = 7 then z else v, if recType r ≤ 7 then z else a)

/-- Is the end position of a queue known before its records have run: no HOME or STEPIN ends it, but for strokes that hold or move relative to it? -/
def endKnown : List (List Nat) → Bool
  | [] => true
  | r :: t => if recType r = 1 || recType r = 2 then true else if 6 ≤ recType r then false else endKnown t

/-- Is a number within plus or minus a limit? -/
def within (x l : Rat) : Bool := absQ x ≤ l

/-- Check 4: the form of the record. -/
def State.check4 (s : State) (c : Nat) (r : List Nat) (p v : List Rat) : Bool :=
  let ty := recType r
  let ix := List.range (s.nax c)
  let ax := fun i => s.axLims (s.first c + i) (recW r 1)
  let n := s.first c + recArg r
  let full := s.axLims n 0xFFFFFFFF
  1 ≤ ty && ty ≤ 7 && ((List.range 26).all fun w => recW r (38 + w) == 0) &&
    (!(ty == 6 || ty == 7) || recArg r < s.nax c) &&
    (!(ty == 2 || ty == 4) || (recW r 1 != 0 && recW r 1 % s.qPer c == 0)) &&
    (ty != 1 || ix.all fun i => recP r i = qAt p i || ((ax i).v ≠ 0 && (ax i).a ≠ 0 && (ax i).d ≠ 0 && (ax i).j ≠ 0)) &&
    (ty != 3 || ix.all fun i => (recV r i = qAt v i && recV r i = 0) || ((ax i).a ≠ 0 && (ax i).d ≠ 0 && (ax i).j ≠ 0)) &&
    (ty != 6 || (full.v ≠ 0 && full.a ≠ 0 && full.d ≠ 0 && full.j ≠ 0 && s.homeM n < 0xD)) &&
    (ty != 7 || full.v ≠ 0)

/-- Check 6: targets within the soft limits. -/
def State.check6 (s : State) (c : Nat) (r : List Nat) : Bool :=
  !(recType r == 1 || recType r == 2) ||
    (List.range (s.nax c)).all fun i =>
      let n := s.first c + i
      !s.softOn n || (((s.slim n).1 : Rat) ≤ recP r i && recP r i ≤ ((s.slim n).2 : Rat))

/-- Check 7: a spline within the maxima and the soft limits at its end and at 63 inner points. -/
def State.check7 (s : State) (c : Nat) (r : List Nat) (p v a : List Rat) : Bool :=
  recType r != 2 ||
    (List.range (s.nax c)).all fun i =>
      let n := s.first c + i
      let co := splineCoef (qAt p i) (qAt v i) (qAt a i) (recP r i) (recV r i) (recA r i) (recT r)
      let okVA := fun (x y : Rat) => within x (s.vmax n) && within y (if x * y < 0 then s.dmax n else s.amax n)
      okVA (recV r i) (recA r i) &&
        (List.range 63).all fun k =>
          let x := splineAt co (recT r * ((k + 1 : Nat) : Rat) / 64)
          okVA x.2.1 x.2.2 && (!s.softOn n || (((s.slim n).1 : Rat) ≤ x.1 && x.1 ≤ ((s.slim n).2 : Rat)))

/-- Does a record move axis i of queue c in the positive (or negative) direction? -/
def State.movesToward (s : State) (c i : Nat) (r : List Nat) (p v a : List Rat) (pos : Bool) : Bool :=
  let sg : Rat := if pos then 1 else -1
  let n := s.first c + i
  if recType r = 1 then 0 < sg * (recP r i - qAt p i)
  else if recType r = 2 then
    splineToward (splineCoef (qAt p i) (qAt v i) (qAt a i) (recP r i) (recV r i) (recA r i) (recT r)) (recT r) sg
  else if recType r = 3 then 0 < sg * recV r i || 0 < sg * qAt v i
  else if recType r = 6 then
    i == recArg r && s.homeM n != 0 && s.homeM n != 0xB && (homeNeg (s.homeM n) != pos)
  else false

/-- Check 8: no motion toward a latched limit. -/
def State.check8 (s : State) (c : Nat) (r : List Nat) (p v a : List Rat) : Bool :=
  (List.range (s.nax c)).all fun i =>
    let g := s.gen (s.first c + i)
    !(g.limP.latched && s.movesToward c i r p v a true) && !(g.limN.latched && s.movesToward c i r p v a false)

/-- Check 9: the members of a mark. -/
def State.check9 (s : State) (c : Nat) (r : List Nat) : Bool :=
  recType r != 5 ||
    (let m := (List.range 16).filter fun d => bit (bits (recW r 1) 15 0) d
     m.contains c && m.all (fun d => 0 < s.nax d) &&
       (List.range 8).any fun k => m.all fun d => s.rgDef (s.qGroup d) && k % s.rgN (s.qGroup d) == s.rgPhase (s.qGroup d))

/-- Check 10: axes that need homing are homed, or a HOME of them is queued ahead. -/
def State.check10 (s : State) (c : Nat) (r : List Nat) (p v a : List Rat) : Bool :=
  !(recType r == 1 || recType r == 2) ||
    (List.range (s.nax c)).all fun i =>
      let n := s.first c + i
      s.softOn n || ((s.queue c).recs.any fun x => recType x == 6 && recArg x == i) ||
        !(s.movesToward c i r p v a true || s.movesToward c i r p v a false)

/-- The result of the checks of R124 in their order; 0 where all pass. -/
def State.checkRec (s : State) (c : Nat) (r : List Nat) : Nat :=
  let q := s.queue c
  let e := s.tail c
  let p := e.1
  let v := e.2.1
  let a := e.2.2
  let rest := (List.range (s.nax c)).all fun i => qAt v i = 0 && qAt a i = 0
  let ty := recType r
  if !(s.mode == 2 || s.mode == 4 || s.mode == 6 || s.mode == 7) then 1
  else if 32 ≤ q.recs.length then 2
  else if s.qState c = 6 then 3
  else if !s.check4 c r p v then 4
  else if (ty == 1 || 4 ≤ ty) && !rest then 5
  else if !s.check6 c r then 6
  else if !s.check7 c r p v a then 7
  else if !s.check8 c r p v a then 8
  else if !s.check9 c r then 9
  else if !s.check10 c r p v a then 0xA
  else 0

/-- An accepted record enters the queue: the coefficients of a spline are computed from its predecessor's end state (R130), and a running jog has an end. -/
def State.accept (s : State) (c : Nat) (r : List Nat) : State :=
  let q := s.queue c
  let t := s.tail c
  let e := s.recEnd c r t.1 t.2.1 t.2.2
  let co := if recType r = 2 && endKnown q.recs.reverse then
      (List.range (s.nax c)).map fun i => splineCoef (qAt t.1 i) (qAt t.2.1 i) (qAt t.2.2 i) (recP r i) (recV r i) (recA r i) (recT r)
    else []
  let pl : Plan := match q.recs, q.plan with
    | [_], .jog p l none => .jog p l (some (max (profEnd p) ((q.tau : Rat) / 65536 / secQ)))
    | _, x => x
  let s := s.putQueue c { q with recs := q.recs ++ [r], coefs := q.coefs ++ [co], plan := pl, tailP := e.1, tailV := e.2.1, tailA := e.2.2 }
  (s.bump (R.CHN_CNT.ACCEPTED.i c) (R.CHN_FLAGS.ACC_OVF.i c)).showQueueRegs c

/-- The staged record of queue c. -/
def State.staged (s : State) (c : Nat) : List Nat :=
  (List.range 64).map fun w => s.rd ((R.CHN_STG.WORD.i c).j w)

/-- A write of PUSH = 1 (R123). -/
def State.pushWrite (s : State) (c : Nat) : State :=
  if s.rd (R.CHN_PUSH.PUSH.i c) = 1 then s.flag (R.CHN_FLAGS.PUSH_LOST.i c)
  else (s.putQueue c { s.queue c with chk := some (s.staged c) }).wr (R.CHN_PUSH.PUSH.i c) 1

/-- CHN_PUSH (R123). -/
def execChnPush (dt : Nat) (src : Src) (c : Nat) (s : State) : Res :=
  let s := s.after dt
  needs (isChain c) (s.swWrite src 10 (R.CHN_PUSH.PUSH.i c).addr fun s => s.pushWrite c)

/-- The checker of queue c completes. -/
def State.checkDone (s : State) (c : Nat) : State :=
  match (s.queue c).chk with
  | none => s
  | some r =>
    let x := s.checkRec c r
    let s := s.putQueue c { s.queue c with chk := none }
    let s := (s.wr (R.CHN_QSTAT.LAST_RES.i c) x).wr (R.CHN_PUSH.PUSH.i c) 0
    if x = 0 then
      let k := s.baseK
      let n := (nextIdx (fun k => s.rgAt (s.qGroup c) k) k 8).getD (k + 1)
      (s.accept c r).mirror (add32 s.tb.latB (31250 * (n - k))) 2 (c :: r)
    else s.bump (R.CHN_CNT.REJECTED.i c) (R.CHN_FLAGS.REJ_OVF.i c)

/-- STROKE_CHECK (R124): LAST_RES is set, PUSH clears, and an accepted record is queued. -/
def execStrokeCheck (dt c : Nat) (s : State) : Res :=
  let s := s.after dt
  needs (isChain c) (if s.alive then s.checkDone c else s)

/-- A write of CHN_CMD: the bits wait for the next advance. -/
def State.cmdWrite (s : State) (c bitsW : Nat) : State :=
  let a := (R.CHN_CMD.ABORT.i c).addr
  s.putRaw a (s.raw a ||| bitsW)

/-- STOP (R133, R136). -/
def execStop (dt : Nat) (src : Src) (c : Nat) (s : State) : Res :=
  let s := s.after dt
  needs (isChain c) (s.swWrite src 10 (R.CHN_CMD.STOP.i c).addr fun s => s.cmdWrite c 4)

/-- RESUME (R134, R136). -/
def execResume (dt : Nat) (src : Src) (c : Nat) (s : State) : Res :=
  let s := s.after dt
  needs (isChain c) (s.swWrite src 10 (R.CHN_CMD.RESUME.i c).addr fun s => s.cmdWrite c 1)

/-- ABORT (R136). -/
def execAbort (dt : Nat) (src : Src) (c : Nat) (s : State) : Res :=
  let s := s.after dt
  needs (isChain c) (s.swWrite src 10 (R.CHN_CMD.ABORT.i c).addr fun s => s.cmdWrite c 8)

/-- FLUSH (R136). -/
def execFlush (dt : Nat) (src : Src) (c : Nat) (s : State) : Res :=
  let s := s.after dt
  needs (isChain c) (s.swWrite src 10 (R.CHN_CMD.FLUSH.i c).addr fun s => s.cmdWrite c 2)

/-- SYNC_TMO (R139): a wait longer than TMO ms sets the flag, and the wait continues. -/
def execSyncTmo (c : Nat) (s : State) : Res :=
  needs (isChain c) (
    let tmo := s.act (R.CHN_SYNC.TMO.i c)
    if s.alive && s.waiting c && tmo ≠ 0 then
      (s.runRim ((s.queue c).syncAt + tmo * 1000000)).flag (R.CHN_FLAGS.SYNC_TMO.i c)
    else s)

/-! ### Limit inputs (R140 to R142) -/

/-- Source code and polarity of a limit input: 0 positive, 1 negative, 2 home. -/
def State.limSrc (s : State) (n which : Nat) : Nat × Nat :=
  if which = 0 then (s.act (R.STK_LIM_CFG.SRC_P.i n), s.act (R.STK_LIM_CFG.POL_P.i n))
  else if which = 1 then (s.act (R.STK_LIM_CFG.SRC_N.i n), s.act (R.STK_LIM_CFG.POL_N.i n))
  else (s.act (R.STK_LIM_CFG.SRC_H.i n), s.act (R.STK_LIM_CFG.POL_H.i n))

/-- Does a source code select an input: 0x01 to 0x30 local, 0x80 to 0xFF a ring segment bit? -/
def limUsed (code : Nat) : Bool := (1 ≤ code && code ≤ 0x30) || (0x80 ≤ code && code ≤ 0xFF)

/-- A limit input of a generator. -/
def genLim (g : Gen) (which : Nat) : LimIn := if which = 0 then g.limP else if which = 1 then g.limN else g.limH
/-- Replace a limit input. -/
def genPutLim (g : Gen) (which : Nat) (l : LimIn) : Gen :=
  if which = 0 then { g with limP := l } else if which = 1 then { g with limN := l } else { g with limH := l }
/-- The RAW bit of a limit input. -/
def rawBit (which : Nat) : Fld :=
  if which = 0 then R.STK_LIM_STAT.RAW_P else if which = 1 then R.STK_LIM_STAT.RAW_N else R.STK_LIM_STAT.RAW_H
/-- DEB in ticks (R141); 0 acts as 1. -/
def State.debTicks (s : State) (n : Nat) : Nat := 250000 * max 1 (s.act (R.STK_LIM_CFG.DEB.i n))

/-- The position between two latched values that bracket a stamp (newest first); before the oldest, that value; none where the stamp is newer than all (R141). -/
def bracket (t : Nat) : List (Nat × Int) → Option Int
  | [] => none
  | [(t1, p1)] => if 0 ≤ sx 32 (sub32 t1 t) then some p1 else none
  | (t1, p1) :: (t0, p0) :: r =>
    if sx 32 (sub32 t1 t) < 0 then none
    else if 0 ≤ sx 32 (sub32 t t0) then
      some (if t1 = t0 then p1 else p0 + roundOpen (((p1 - p0 : Int) : Rat) * ((sub32 t t0 : Nat) : Rat) / ((sub32 t1 t0 : Nat) : Rat)))
    else bracket t ((t0, p0) :: r)

/-- A raw edge of a limit input of axis n, with the stamp of the edge: the capture of a ring source lies between latched positions. -/
def State.limEdge (s : State) (n which stamp : Nat) (level : Bool) : State :=
  let cfg := s.limSrc n which
  let g := s.gen n
  let l := genLim g which
  let raw := limUsed cfg.1 && level != (cfg.2 == 1)
  if raw = l.raw then s
  else
    let first := raw != l.stable && !l.burst
    let ring := 0x80 ≤ cfg.1
    let bounce := !raw && !l.stable
    let l := { l with raw := raw, since := s.now }
    let x := if ring then bracket stamp g.lats else some (s.posAt n stamp)
    let l := if first then { l with burst := true, cand := x.getD (s.livePos n), interp := if x.isNone then some stamp else none } else l
    let s := (s.putGen n (genPutLim g which l)).wrB ((rawBit which).i n) raw
    if bounce then s.bump (R.STK_LIM_STAT.CHATTER.i n) (R.STK_FLAGS.CHAT_OVF.i n) else s

/-- The limit inputs of all axes that a source test selects take a level. -/
def State.limInputs (s : State) (stamp : Nat) (p : Nat → Nat → Bool) (level : Bool) : State :=
  forEach (List.range 160) (fun n s => forEach [0, 1, 2] (fun w s => if p n w then s.limEdge n w stamp level else s) s) s

/-- A latch of axis n in its direction of motion demands an axis stop; one met moving away only latches (R142). The searches of a homing take limits under R145, and methods 0x7 and 0x8 their own limit as the event. -/
def State.limHalt (s : State) (n : Nat) (pos : Bool) : State :=
  let v := (s.gen n).vel
  let toward := if pos then 0 < v else v < 0
  let st := (s.gen n).home.step
  let own := st ≠ 0 && (if pos then s.homeM n == 7 else s.homeM n == 8)
  if toward && st ≠ 1 && st ≠ 4 && st ≠ 8 && st ≠ 9 && !own then s.demandHaltOf n R.CHN_FLAGS.HALT_LIMIT else s

/-- The present level of a limit input has held for DEB. -/
def State.limStable (s : State) (n which : Nat) : State :=
  let g := s.gen n
  let l := genLim g which
  if l.raw then
    let l := { l with stable := true, burst := false, capOn := l.cand, latched := which < 2 || l.latched }
    let s := s.putGen n (genPutLim g which l)
    if which = 0 then (((s.wr (R.STK_LIM_STAT.LATCH_P.i n) 1).wr (R.STK_LIM_CAP_P.POS.i n) (unsx 32 l.cand))).limHalt n true
    else if which = 1 then (((s.wr (R.STK_LIM_STAT.LATCH_N.i n) 1).wr (R.STK_LIM_CAP_N.POS.i n) (unsx 32 l.cand))).limHalt n false
    else s
  else
    let l := if l.stable then { l with stable := false, burst := false, capOff := l.cand } else { l with burst := false }
    s.putGen n (genPutLim g which l)

/-- LIMIT_LATCH (R141, R142): the level has held for DEB since its last edge. -/
def execLimitLatch (n which : Nat) (s : State) : Res :=
  needs (isAxis n && which < 3) (
    let l := genLim (s.gen n) which
    if s.alive && s.mode != 0 && s.dom 10 && limUsed (s.limSrc n which).1 && (l.burst || l.raw != l.stable) then
      (s.runTo (add32 l.since (s.debTicks n))).limStable n which
    else s)

/-- A lane latch of axis n at a stamp: ring captures that it brackets are interpolated (R141). -/
def State.limInterp (s : State) (n stamp : Nat) (p : Int) : State :=
  let s := s.putGen n { s.gen n with lats := ((stamp, p) :: (s.gen n).lats).take 8 }
  forEach [0, 1, 2] (fun w s =>
    let g := s.gen n
    let l := genLim g w
    match l.interp.bind fun t => bracket t g.lats with
    | none => s
    | some x => s.putGen n (genPutLim g w { l with cand := x, interp := none })) s

/-- The idle generator of a slot outside every queue takes the lane's position at the first sample after a mode entry (R115). -/
def State.idleTake (s : State) (n : Nat) (pfb : Int) : State :=
  let g := s.gen n
  if (s.queueOf n).isSome || g.seen = s.modeIn then s
  else (s.putGen n { g with pos := pfb * 65536, vel := 0, acc := 0, seen := s.modeIn }).showGen n

end Sys2Proof.Machine
end

