-- ==== Sys2Proof/Machine/Bridges.lean ====
section
/-! DEFINITION. PWM bridges and sigma-delta inputs (spec/11_pwm_bridges.md): carrier, duty groups and their reload, dead time, bootstrap refresh, trips, and decimation results. -/

namespace Sys2Proof.Machine

/-- Output class of the high sides: index 3b + phase. -/
def outPbH : Nat := 5
/-- Output class of the low sides. -/
def outPbL : Nat := 6

/-- Bridge b. -/
def State.pb (s : State) (b : Nat) : Pb := tget .zero s.pbs b
/-- Replace a bridge. -/
def State.putPb (s : State) (b : Nat) (p : Pb) : State := { s with pbs := tput .zero s.pbs b p }
/-- Phase p of a bridge: 0 U, 1 V, 2 W. -/
def pbPhase (x : Pb) (p : Nat) : Phase := if p = 0 then x.u else if p = 1 then x.v else x.w
/-- Replace a phase. -/
def pbPutPhase (x : Pb) (p : Nat) (h : Phase) : Pb :=
  if p = 0 then { x with u := h } else if p = 1 then { x with v := h } else { x with w := h }

/-- Carrier period. -/
def State.pbPer (s : State) (b : Nat) : Nat := max 2 (s.rd (R.PB_PER.PER.i b))
/-- The registers of bridge b whose active values its reload tick takes: PB_CFG, PB_DT, PB_BOOT, PB_TRIP_CFG, PB_BLANK and PB_SENSE. -/
def pbWords (b : Nat) : List Nat := [0x10, 0x1C, 0x20, 0x24, 0x28, 0x2C].map fun o => 0x640000 + 0x200 * b + o
/-- A shadowed field as the run of bridge b uses it (R46): as its last reload tick took it; before the first one, the active value. -/
def State.pbAct (s : State) (b : Nat) (f : Fld) : Nat :=
  match (s.pb b).cur with
  | none => s.act f
  | some l => bits (((pbWords b).zip l).foldl (fun v x => if x.1 = f.addr then x.2 else v) 0) f.hi f.lo
/-- Dead time. -/
def State.pbDt (s : State) (b : Nat) : Nat := s.pbAct b (R.PB_DT.DT.i b)
/-- Is the carrier edge-aligned? -/
def State.pbEdge (s : State) (b : Nat) : Bool := s.rd (R.PB_CFG.CAR.i b) == 1
/-- RLD as it acts. -/
def State.pbRld (s : State) (b : Nat) : Nat :=
  let r := s.pbAct b (R.PB_CFG.RLD.i b)
  if r = 3 then 0 else r

/-- The slot whose lane owns bridge b (R284). -/
def State.pbOwner (s : State) (b : Nat) : Option Nat :=
  (s.clOwner b).filter fun n =>
    let m := s.act (R.AX_CFG.OUT_MODE.i n)
    m == 4 || m == 5

/-- Do the outputs of bridge b follow the active duties (R294, R298)? -/
def State.pbLive (s : State) (b : Nat) : Bool :=
  (s.mode == 2 || s.mode == 4 || s.mode == 6 || s.mode == 7) && s.rd (R.PB_CTRL.EN.i b) == 1 &&
    s.rd (R.PB_STAT.IN_TRIP.i b) == 0

/-- Is the owning lane of bridge b in torque off (R298)? -/
def State.pbLaneOff (s : State) (b : Nat) : Bool :=
  match s.pbOwner b with
  | some n => s.rd (R.AX_STAT.TORQUE_OFF.i n) == 1
  | none => false

/-- PB_STAT shows ownership, torque off and a waiting group. -/
def State.showPb (s : State) (b : Nat) : State :=
  let o := s.pbOwner b
  ((s.wrB (R.PB_STAT.OWNED.i b) o.isSome).wrB (R.PB_STAT.LANE_OFF.i b) (s.pbLaneOff b)).wrB (R.PB_STAT.GO_PEND.i b)
    (s.rd (R.PB_DUTY_GO.GO.i b) == 1)

/-- The output of one side of phase p that its command has turned on since a tick ends at tick t: a pulse from dead time after the command, or from where the outputs began to follow the duties (R288, R294). -/
def State.pbPulse (s : State) (b p since t : Nat) (high : Bool) : State :=
  let d := sub32 t since
  let dt := s.pbDt b
  let lived : Int := (s.tb.rim : Int) + sx 32 (sub32 t s.now) - ((s.pb b).liveAt : Int)
  let w := min (d - dt) lived.toNat
  if w = 0 then s
  else s.emit (.edge (if high then outPbH else outPbL) (3 * b + p) (sub32 t w) w (s.rd (if high then R.PB_CFG.POL_H.i b else R.PB_CFG.POL_L.i b) == 0))

/-- A change of the high-side command of a phase at a tick, with the output pulse that it ends (R288). -/
def State.phaseChange (s : State) (b p t : Nat) (lev : Bool) : State :=
  let x := pbPhase (s.pb b) p
  if x.h = lev then s
  else
    let dt := s.pbDt b
    let since := if lev then x.fall else x.rise
    let d := sub32 t since
    let s := if s.pbLive b then s.pbPulse b p since t (!lev) else s
    let v := ((s.pb b).valley).getD t
    let lowOn := x.lowOn || (lev && t != v && dt < d)
    let x := if lev then { x with h := true, rise := t, lowOn := lowOn } else { x with h := false, fall := t }
    s.putPb b (pbPutPhase (s.pb b) p x)

/-- The changes of a phase up to tick t take place. -/
def State.phaseFlush (s : State) (b p t : Nat) : State :=
  let x := pbPhase (s.pb b) p
  let due := x.next.takeWhile fun c => c.1 == t || p2 31 ≤ sub32 c.1 t
  let s := s.putPb b (pbPutPhase (s.pb b) p { x with next := x.next.drop due.length })
  forEach due (fun c s => s.phaseChange b p c.1 c.2) s

/-- The changes of every phase up to tick t take place. -/
def State.pbFlush (s : State) (b t : Nat) : State := forEach [0, 1, 2] (fun p s => s.phaseFlush b p t) s

/-- The pulses of the outputs that are on end at tick t. -/
def State.pbCut (s : State) (b t : Nat) : State :=
  forEach [0, 1, 2] (fun p s =>
    let x := pbPhase (s.pb b) p
    s.pbPulse b p (if x.h then x.rise else x.fall) t x.h) s

/-- Are the low sides of bridge b on in its trip state (R297)? -/
def State.pbLows (s : State) (b : Nat) : Bool :=
  (s.mode == 2 || s.mode == 4 || s.mode == 6 || s.mode == 7) && s.rd (R.PB_CTRL.EN.i b) == 1 &&
    s.rd (R.PB_STAT.IN_TRIP.i b) == 1 && s.pbAct b (R.PB_CFG.TRIP_ST.i b) == 1

/-- What a change of mode, of EN, of the trip state or of its setting brings at the balls of bridge b (R294, R297, R298): the outputs begin to follow the duties, or the low sides of the trip state turn on or off. -/
def State.pbSwitch (old s : State) (b : Nat) : State :=
  let s := if !old.pbLive b && s.pbLive b then s.putPb b { s.pb b with liveAt := s.tb.rim } else s
  if old.pbLows b == s.pbLows b then s
  else forEach [0, 1, 2] (fun p s =>
    s.emit (.edge outPbL (3 * b + p) s.now 0 (s.pbLows b == (s.rd (R.PB_CFG.POL_L.i b) == 0)))) s

/-- The outputs of bridge b stop following the duties now: their pulses end (R294). -/
def State.pbLeave (s : State) (b : Nat) : State := if s.pbLive b then (s.pbFlush b s.now).pbCut b s.now else s

/-- The outputs go into trip state at tick t (R297). -/
def State.pbTrip (s : State) (b t : Nat) : State :=
  if s.rd (R.PB_STAT.IN_TRIP.i b) = 1 then s
  else
    let s := s.pbFlush b t
    let live := s.pbLive b
    let s := if live then s.pbCut b t else s
    let s := s.wr (R.PB_STAT.IN_TRIP.i b) 1
    if live && s.pbAct b (R.PB_CFG.TRIP_ST.i b) = 1 then
      forEach [0, 1, 2] (fun p s =>
        let x := pbPhase (s.pb b) p
        let at_ := if x.h && s.pbDt b < sub32 t x.rise then add32 t (s.pbDt b)
          else if sub32 t x.fall < s.pbDt b then add32 x.fall (s.pbDt b) else t
        s.emit (.edge outPbL (3 * b + p) at_ 0 (s.rd (R.PB_CFG.POL_L.i b) == 0))) s
    else s

/-! ### Duties (R287 to R293) -/

/-- The duty registers of a bridge in order. -/
def dutyF (b p : Nat) : Fld := if p = 0 then R.PB_DUTY_U.ON.i b else if p = 1 then R.PB_DUTY_V.ON.i b else R.PB_DUTY_W.ON.i b
/-- The active duties. -/
def actF (b p : Nat) : Fld := if p = 0 then R.PB_ACT_U.ON.i b else if p = 1 then R.PB_ACT_V.ON.i b else R.PB_ACT_W.ON.i b

/-- What the duty group was before the writes of this tick is kept; the last entry tells a GO written on it. -/
def State.pbKeep (s : State) (b : Nat) (goNow : Bool) : State :=
  let x := s.pb b
  let base := match x.pre with
    | some (t, l) => if t = s.now then some l else none
    | none => none
  let l := base.getD [s.rd (dutyF b 0), s.rd (dutyF b 1), s.rd (dutyF b 2), s.rd (R.PB_DUTY_GO.GO.i b), 0]
  let l := if goNow then l.take 4 ++ [1] else l
  s.putPb b { x with pre := some (s.now, l) }

/-- A write of a duty (0 to 2) or of GO (3). -/
def State.pbPut (s : State) (b which v : Nat) : State :=
  let go := which = 3
  if go && !bit v 31 then s
  else
    let s := s.pbKeep b go
    let s := if go then s.wr (R.PB_DUTY_GO.GO.i b) 1 else s.wr (dutyF b which) v
    s.showPb b

/-- A software write of a duty or of GO (R292, R293). -/
def State.dutySoft (s : State) (b which v : Nat) : State :=
  if (s.pbOwner b).isSome then s.flag (R.PB_FLAGS.DUTY_OWNED.i b)
  else
    let s := s.pbPut b which v
    if (s.pb b).reload = some s.now then s.flag (R.PB_FLAGS.LATE_UPD.i b) else s

/-- The group that a lane writes on one tick (R290). -/
def State.dutyLane (s : State) (b : Nat) (on : List Nat) : State :=
  let s : State := forEach [0, 1, 2] (fun p s => s.pbPut b p (on.getD p 0)) s
  s.pbPut b 3 (p2 31)

/-- ON of a modulation index (R290). -/
def State.onOf (s : State) (b : Nat) (m : Rat) : Nat :=
  (rndAway (((16 * s.pbPer b : Nat) : Rat) * (1 + clampQ m (-1) 1) / 2)).toNat

/-- Has every cause of the trip state cleared (R298)? -/
def State.pbFree (s : State) (b : Nat) : Bool :=
  s.rd (R.PB_STAT.TRIP_ACT.i b) == 0 && !s.pbLaneOff b && s.rd (R.PB_CTRL.EN.i b) == 1

/-- A reload tick (R291, R292, R298). -/
def State.pbReload (s : State) (b : Nat) : State :=
  let x := s.pb b
  let l := match x.pre with
    | some (t, l) => if t = s.now then l else []
    | none => []
  let soft := !l.isEmpty && (s.pbOwner b).isNone
  let cur := [s.rd (dutyF b 0), s.rd (dutyF b 1), s.rd (dutyF b 2), s.rd (R.PB_DUTY_GO.GO.i b), 0]
  let g := if l.isEmpty then cur else l
  let s := s.putPb b { x with reload := some s.now, cur := some ((pbWords b).map s.actw) }
  let s := if soft then s.flag (R.PB_FLAGS.LATE_UPD.i b) else s
  if g.getD 3 0 = 1 then
    let s : State := forEach [0, 1, 2] (fun p s => s.wr (actF b p) (g.getD p 0)) s
    let s := (s.wr (R.PB_DUTY_GO.GO.i b) (g.getD 4 0)).showPb b
    if s.pbFree b && s.rd (R.PB_STAT.IN_TRIP.i b) = 1 then s.pbSwitch (s.wr (R.PB_STAT.IN_TRIP.i b) 0) b else s
  else s

/-- The reversal of a 4-bit number. -/
def rev4 (i : Nat) : Nat := b2n (bit i 0) * 8 + b2n (bit i 1) * 4 + b2n (bit i 2) * 2 + b2n (bit i 3)

/-- The on-time of phase p in ns after dither and the pulse limits (R287, R288, R290). -/
def State.phaseOn (s : State) (b p : Nat) : Nat :=
  let per := s.pbPer b
  let on := if s.rd (R.PB_CFG.MODE.i b) = 1 && p = 2 then 8 * per else min (s.rd (actF b p)) (16 * per)
  let n := on / 16 + (if rev4 (s.rd (R.PB_STAT.DITHER.i b)) < on % 16 then 1 else 0)
  let mp := s.pbAct b (R.PB_DT.MIN_PULSE.i b)
  if n < mp then 0 else if per - mp < n then per else n

/-- The part of the refresh width before the valley, and after it. -/
def State.bootW (s : State) (b : Nat) : Nat × Nat :=
  let w := s.pbAct b (R.PB_BOOT.BOOT_W.i b)
  (w / 2, w - w / 2)

/-- A phase gets the changes ahead. -/
def State.putNext (s : State) (b p : Nat) (l : List (Nat × Bool)) : State :=
  s.putPb b (pbPutPhase (s.pb b) p { pbPhase (s.pb b) p with next := l })

/-- The changes of phase p in the half before the peak, from the valley v (R286, R289). -/
def State.half1 (s : State) (b p v : Nat) : State :=
  let x := pbPhase (s.pb b) p
  let peak := s.pbPer b / 2
  let n := s.phaseOn b p
  let start := max (peak - n / 2) (x.off.getD 0)
  let s := s.putPb b (pbPutPhase (s.pb b) p { x with off := none })
  let on := start < peak
  let l := if on && start = 0 then (if x.h then [] else [(v, true)])
    else (if x.h then [(v, false)] else []) ++ (if on then [(add32 v start, true)] else [])
  (s.putNext b p l).phaseFlush b p v

/-- The changes of phase p in the half after the peak at tick pk; a refresh due in this period is made at its end. -/
def State.half2 (s : State) (b p pk : Nat) : State :=
  let x := pbPhase (s.pb b) p
  let per := s.pbPer b
  let rem := per - per / 2
  let n := s.phaseOn b p
  let w := s.bootW b
  let e := if x.refresh then min (n - n / 2) (rem - w.1) else n - n / 2
  let s := if x.refresh then
      (s.putPb b (pbPutPhase (s.pb b) p { x with refresh := false, count := 0, off := some w.2 })).bump
        (R.PB_CNT.BOOT_CNT.i b) (R.PB_FLAGS.BOOT_OVF.i b)
    else s
  let l := if e = 0 then (if x.h then [(pk, false)] else [])
    else (if x.h then [] else [(pk, true)]) ++ (if e < rem then [(add32 pk e, false)] else [])
  (s.putNext b p l).phaseFlush b p pk

/-- The changes of phase p in an edge-aligned period from valley v. -/
def State.wholePeriod (s : State) (b p v : Nat) : State :=
  let x := pbPhase (s.pb b) p
  let per := s.pbPer b
  let n := s.phaseOn b p
  let w := s.pbAct b (R.PB_BOOT.BOOT_W.i b)
  let e := if x.refresh then min n (per - w) else n
  let s := if x.refresh then
      (s.putPb b (pbPutPhase (s.pb b) p { x with refresh := false, count := 0 })).bump
        (R.PB_CNT.BOOT_CNT.i b) (R.PB_FLAGS.BOOT_OVF.i b)
    else s
  let l := if e = 0 then (if x.h then [(v, false)] else [])
    else (if x.h then [] else [(v, true)]) ++ (if e < per then [(add32 v e, false)] else [])
  (s.putNext b p l).phaseFlush b p v

/-- The period of phase p ends at valley v: whether its low side was on, and the refresh count (R289). -/
def State.periodEnd (s : State) (b p v : Nat) : State :=
  let x := pbPhase (s.pb b) p
  let low := x.lowOn || (!x.h && s.pbDt b < sub32 v x.fall)
  let run := s.pbAct b (R.PB_CFG.BOOT_EN.i b) = 1 && s.pbLive b
  let c := if run && !low then x.count + 1 else 0
  let due := run && max 1 (s.pbAct b (R.PB_BOOT.BOOT_N.i b)) ≤ c
  s.putPb b (pbPutPhase (s.pb b) p { x with lowOn := false, count := c, refresh := x.refresh && run || due })

/-- Is bridge b used by the image and does its carrier run (R285)? -/
def State.carrierOn (s : State) (b : Nat) : Bool :=
  s.alive && s.tb.run && s.mode != 0 && s.dom 21 && s.dev.rgIn && bit s.dev.cfg.pbMask b

/-- The base boundary with k mod 32 = 0 at or before the latest boundary. -/
def State.msAnchor (s : State) : Nat := sub32 s.tb.latB (31250 * (s.baseK % 32))

/-- CARRIER_VALLEY (R285 to R292). -/
def execCarrierValley (b : Nat) (s : State) : Res :=
  needs (isPb b) (if s.carrierOn b then
    let v := s.nextInst (s.pb b).valley s.msAnchor (s.pbPer b) (s.rd (R.PB_CAR.CAR_PH.i b) : Int)
    let s := (s.runTo v).pbFlush b v
    let first := (s.pb b).valley.isNone
    let s : State := if first then s else forEach [0, 1, 2] (fun p s => s.periodEnd b p v) s
    let s := s.putPb b { s.pb b with valley := some v }
    let s := s.wr (R.PB_STAT.DITHER.i b) (if first then 0 else (s.rd (R.PB_STAT.DITHER.i b) + 1) % 16)
    let s := s.showPb b
    let s := if s.pbEdge b || s.pbRld b ≠ 1 then s.pbReload b else s
    forEach [0, 1, 2] (fun p s => if s.pbEdge b then s.wholePeriod b p v else s.half1 b p v) s
  else s)

/-- CARRIER_PEAK (R286, R291): center-aligned bridges only. -/
def execCarrierPeak (b : Nat) (s : State) : Res :=
  needs (isPb b) (if s.carrierOn b && !s.pbEdge b then
    match (s.pb b).valley with
    | none => s
    | some v =>
      let pk := add32 v (s.pbPer b / 2)
      match s.reach pk with
      | none => s
      | some s =>
        let s := (s.pbFlush b pk).showPb b
        let s := if s.pbRld b ≠ 0 then s.pbReload b else s
        forEach [0, 1, 2] (fun p s => s.half2 b p pk) s
  else s)

/-- DUTY_GO (R291 to R293): a software write of a duty (which 0 to 2) or of PB_DUTY_GO (3). -/
def execDutyGo (dt : Nat) (src : Src) (b which value : Nat) (s : State) : Res :=
  let s := s.after dt
  needs (isPb b && which < 4 && isWord value)
    (s.swWrite src 21 (if which = 3 then R.PB_DUTY_GO.GO.i b else dutyF b which).addr fun s =>
      (if which = 3 then s else s.mirrorWrite (dutyF b which).addr value).dutySoft b which value)

/-! ### Trips (R295 to R299) -/

/-- The ticks of the last and coming edges of the command of a phase. -/
def phaseEdges (x : Phase) : List Nat := x.rise :: x.fall :: x.next.map (·.1)

/-- Does a blanking window cover one of the last n samples up to the present tick (R296)? -/
def State.blanked (s : State) (b n : Nat) : Bool :=
  let c := s.pbAct b (R.PB_BLANK.BLANK_SRC.i b)
  let w := s.pbAct b (R.PB_BLANK.BLANK_W.i b)
  if 1 ≤ c && c ≤ 0x24 then
    let x := pbPhase (s.pb ((c - 1) / 3)) ((c - 1) % 3)
    ((s.pb ((c - 1) / 3)).valley.isSome) && (phaseEdges x).any fun e =>
      let d := sub32 s.now e
      d < p2 31 && d + 1 < w + n
  else if 0x40 ≤ c && c ≤ 0x47 then
    let j := c - 0x40
    let m := s.evMode j
    if m = 1 then s.rd (R.EVT_STAT.LEVEL.j j) != s.act (R.EVT_CFG.IDLE.j j)
    else if m = 0 then false
    else
      let e := tget 0 s.tb.evEnd j
      e ≠ 0 && (s.tb.rim < e || s.tb.rim - e + 1 < n)
  else false

/-- TRIP_ACCEPT (R295): the inputs of `trips` are active and the filter of bridge b has run out. -/
def execTripAccept (dt b trips : Nat) (s : State) : Res :=
  let s := s.after dt
  needs (isPb b && trips < 4096) (if s.alive && s.mode != 0 && s.dom 21 && s.tb.run then
    let trips := if s.taken 4 then trips else if s.pbAct b (R.PB_TRIP_CFG.TRIP_POL.i b) = 1 then 4095 else 0
    let s := s.wr (R.PB_STAT.TRIP_IN.i b) trips
    let n := max 1 (s.pbAct b (R.PB_TRIP_CFG.TRIP_FILT.i b))
    let s := s.pbFlush b s.now
    if (trips &&& s.pbAct b (R.PB_TRIP_CFG.TRIP_MASK.i b)) = 0 || s.blanked b n then s
    else
      let s := (s.flag (R.PB_STAT.TRIP_ACT.i b)).wr (R.PB_TRIP_STAMP.NS.i b) (sub32 s.now (n - 1))
      let s := (s.bump (R.PB_CNT.TRIP_CNT.i b) (R.PB_FLAGS.TRIP_OVF.i b)).flag (R.PB_FLAGS.TRIP_SEEN.i b)
      (s.journalBy (6 + b / 4) 2 1 true noUnit).pbTrip b (add32 s.now 2)
  else s)

/-- A write of TRIP_CLR = 1 with the inputs at `trips` (R298). -/
def State.tripClear (s : State) (b trips : Nat) : State :=
  let s := { s.wr (R.PB_STAT.TRIP_IN.i b) trips with log := { s.log with wrote := (R.PB_CTRL.TRIP_CLR.i b).key :: s.log.wrote } }
  let f := R.PB_STAT.TRIP_ACT.i b
  if (trips &&& s.pbAct b (R.PB_TRIP_CFG.TRIP_MASK.i b)) ≠ 0 then s.flag (R.PB_FLAGS.CLR_REFUSED.i b)
  else if bit (s.setsOf f.addr) 31 then s
  else s.wr f 0

/-- TRIP_CLR (R298). -/
def execTripClr (dt : Nat) (src : Src) (b trips : Nat) (s : State) : Res :=
  let s := s.after dt
  needs (isPb b && trips < 4096) (s.swWrite src 21 (R.PB_CTRL.TRIP_CLR.i b).addr fun s => s.tripClear b trips)

/-! ### Sigma-delta inputs (R300 to R305) -/

/-- Sigma-delta input k. -/
def State.sdIn (s : State) (k : Nat) : Sd := tget .zero s.sds k

/-- Pairs below a triangle of order 2. -/
def tri2 (x : Int) : Int := if x < 0 then 0 else (x + 2) * (x + 1) / 2

/-- The weight of bit i of a window of 3R bits: three boxcars of length R convolved, centered. -/
def sincW (r i : Nat) : Int :=
  let j : Int := (i : Int) - 1
  if j < 0 || 3 * (r : Int) - 3 < j then 0
  else tri2 j - 3 * tri2 (j - r) + 3 * tri2 (j - 2 * r)

/-- The raw result of a window (R302). -/
def sincAcc (r : Nat) (w : List Bool) : Int :=
  (w.zipIdx).foldl (fun a x => if x.1 then a + sincW r x.2 else a) 0

/-- OSR in use. -/
def State.sdOsr (s : State) (k : Nat) : Nat := max 8 (min 256 (s.rd (R.SD_CFG.OSR.j k)))
/-- D: ticks between decimation points (R303). -/
def State.sdD (s : State) (k : Nat) : Nat :=
  let c := s.rd (R.SD_CK.CKDIV.j (s.rd (R.SD_CFG.CKSEL.j k)))
  s.sdOsr k * (max 19 (min 999 c) + 1)

/-- The tick at which the next result of input k completes: 16 ticks after its decimation point (R303, R304). -/
def State.sdPoint (s : State) (k : Nat) : Option Nat :=
  let d := s.sdD k
  let f := s.rd (R.SD_CFG.FSRC.j k)
  let o : Int := (s.rd (R.SD_OFS.OFS.j k) : Int) + 16
  let last := (s.sdIn k).last.map fun p => add32 p 16
  if f = 0x1F then
    match last with
    | some l => some (add32 l d)
    | none => if s.dev.rgIn && s.rgDef 0 then some (s.nextInst none (s.rgAnchor 0) (31250 * s.rgN 0) o) else none
  else
    (s.evSource f).map fun src => s.nextInst last src.1 d o

/-- A result of input k at point p. -/
def State.sdTake (s : State) (k p : Nat) (w : List Bool) : State :=
  let r := s.sdOsr k
  let acc := sincAcc r w
  let full : Int := (r : Int) ^ 3
  let x := min (rndAway ((2 * (acc : Rat) / (full : Rat) - 1) * ((p2 23 : Nat) : Rat))) ((p2 23 : Int) - 1)
  let q := s.sdIn k
  let s := { s with sds := tput .zero s.sds k { q with last := some p, x := x, at_ := s.now, xOld := q.x } }
  let s := (s.wr (R.SD_VAL.X.j k) (unsx 24 x)).wr (R.SD_STAMP.NS.j k) p
  if acc = 0 || acc = full then
    (s.flag (R.SD_STAT.CLIP.j k)).bump (R.SD_STAT.CLIP_CNT.j k) (R.SD_STAT.CLIP_OVF.j k)
  else s

/-- A result completes: line 3 of the Serif cores that select the input pends (R391). -/
def State.sdIrq (s : State) (k : Nat) : State :=
  s.irqSel 3 R.SF_IRQ.SD_SEL fun x => (if 23 < x then 0 else x) == k

/-- SD_RESULT (R302, R304): the window of 3 × OSR bits of the next decimation point, 16 ticks after it. -/
def execSdResult (k : Nat) (window : List Bool) (s : State) : Res :=
  needs (isSd k) (
    if s.alive && s.tb.run && s.mode != 0 && s.dom 21 && s.rd (R.SD_CFG.EN.j k) = 1 &&
        s.rd (R.SD_CK.EN.j (s.rd (R.SD_CFG.CKSEL.j k))) = 1 && window.length = 3 * s.sdOsr k then
      match s.sdPoint k with
      | none => s
      | some c => ((s.runTo c).sdTake k (sub32 c 16) (if s.taken 5 then window else window.map fun _ => false)).sdIrq k
    else s)

/-- The result that a latch on the present tick takes (R304). -/
def State.sdLatch (s : State) (k : Nat) : Rat :=
  let q := s.sdIn k
  let x := if q.at_ = s.now && q.last.isSome then q.xOld else q.x
  (x : Rat) / ((p2 23 : Nat) : Rat)

/-- SCALE and ZERO of input k as its frame uses them (R46): a copy inside a frame acts from the next frame start. -/
def State.sdParams (s : State) (k : Nat) : Nat × Int :=
  let now := (s.act (R.SD_SCALE.SCALE.j k), s.actS (R.SD_ZERO.ZERO.j k))
  match (s.sdIn k).hold with
  | some (sc, z, r) => if s.tb.run && s.tb.rim < r then (sc, sx 24 z) else now
  | none => now

/-- The current of sense code c in amperes (R305); 0x1F and codes above 23 sense nothing. -/
def State.current (s : State) (c : Nat) : Rat :=
  if 23 < c then 0
  else
    let q := s.sdParams c
    f32Dec q.1 * (s.sdLatch c - (q.2 : Rat) / ((p2 23 : Nat) : Rat))

end Sys2Proof.Machine
end

