-- ==== Sys2Proof/Machine/Feedback.lean ====
section
/-! DEFINITION. Feedback channels (spec/10_feedback.md): counting and its compare, index, Hall, step and absolute inputs, speed, faults, position latch and pass-through. -/

namespace Sys2Proof.Machine

/-- Output class of FBk_OUT: index 3k + i. -/
def outFb : Nat := 4

/-- Feedback channel k. -/
def State.fb (s : State) (k : Nat) : Fb := tget .zero s.fbs k
/-- Replace a feedback channel. -/
def State.putFb (s : State) (k : Nat) (f : Fb) : State := { s with fbs := tput .zero s.fbs k f }

/-- MODE of channel k (R251); 0x7 to 0xF act as off. -/
def State.fbMode (s : State) (k : Nat) : Nat :=
  let m := s.act (R.FB_CFG.MODE.i k)
  if 6 < m then 0 else m
/-- Is channel k an absolute channel? -/
def State.fbAbs (s : State) (k : Nat) : Bool := s.fbMode k == 5 || s.fbMode k == 6
/-- Do the feedback channels run: after BOOT, with their domain on (R254)? -/
def State.fbRuns (s : State) : Bool := s.alive && s.mode != 0 && s.dom 21 && s.tb.run
/-- POS_LEN in force (R271). -/
def State.posLen (s : State) (k : Nat) : Nat := max 1 (min 32 (s.act (R.FB_FRAME.POS_LEN.i k)))
/-- The modulo of POS, with 2^32 for a linear counter (R263, R271). -/
def State.fbMod (s : State) (k : Nat) : Nat :=
  if s.fbAbs k then p2 (s.posLen k)
  else if s.act (R.FB_MOD.MOD.i k) = 0 then p2 32 else s.act (R.FB_MOD.MOD.i k)
/-- Is the counter linear? -/
def State.fbLinear (s : State) (k : Nat) : Bool := !s.fbAbs k && s.act (R.FB_MOD.MOD.i k) == 0
/-- POS, REV and CPOS of channel k. -/
def State.fbPos (s : State) (k : Nat) : Nat := s.rd (R.FB_POS.VALUE.i k)
/-- REV. -/
def State.fbRev (s : State) (k : Nat) : Nat := s.rd (R.FB_REV.VALUE.i k)
/-- CPOS. -/
def State.fbCpos (s : State) (k : Nat) : Nat := s.rd (R.FB_CPOS.VALUE.i k)
/-- The 250 MHz sample at or before the present tick (R26). -/
def State.sampleTick (s : State) : Nat := s.now / 4 * 4
/-- The rate group that governs channel k (R252). -/
def State.fbGroup (s : State) (k : Nat) : Nat :=
  let o := s.rd (R.FB_CFG.OWNER.i k)
  if o = 0xFF then 0 else (s.axGroup o).getD 0
/-- Do the outputs of the feedback channels drive (R253)? -/
def State.fbDrives (s : State) : Bool := s.alive && s.mode != 0 && s.mode != 3

/-! ### Pass-through (R282, R283) -/

/-- Does the MODE of channel k use one of its outputs? -/
def State.fbUsesOut (s : State) (k : Nat) : Bool := s.fbAbs k
/-- PT_MODE as it acts: 0 off, 1 raw, 2 emulated. -/
def State.ptMode (s : State) (k : Nat) : Nat :=
  let m := s.act (R.FB_PT.PT_MODE.i k)
  if m = 3 || s.fbUsesOut k then 0 else m
/-- The channels that repeat channel k in a mode. -/
def State.ptOf (s : State) (k m : Nat) : List Nat :=
  (List.range 16).filter fun j => s.ptMode j == m && s.act (R.FB_PT.PT_SRC.i j) == k
/-- The accepted levels of channel k change to `new`: raw repeats show each edge between 4 and 8 ns after the first sample at its level, whose stamp it has; where in that window is left open. A level that no filter accepts reaches no command, so a repeat of it is not shown (log 69). -/
def State.ptRaw (s : State) (k stamp old new : Nat) : State :=
  forEach (s.ptOf k 1) (fun j s =>
    forEach [0, 1, 2] (fun i s =>
      if bit old i == bit new i || !s.fbDrives then s
      else (s.emit (.edge outFb (3 * j + i) (add32 stamp (4 + Config.freeNat s.free % 5)) 0 (bit new i))).useFree) s) s

/-- Quadrature levels A and B of an emulated count. -/
def quadA (n : Int) : Bool := n % 4 == 1 || n % 4 == 2
/-- Level B. -/
def quadB (n : Int) : Bool := n % 4 == 2 || n % 4 == 3

/-- The levels of an emulated count e of channel f: A, B and Z, which is high in the states where POS crossed 0 (R282). -/
def Fb.emuOut (f : Fb) (e : Int) (i : Nat) : Bool := if i = 0 then quadA e else if i = 1 then quadB e else f.zq.contains e

/-- One emulated count of channel j toward d, at a rim clock: the balls that change show it, and a state left has had its Z. -/
def State.emuOne (s : State) (j r : Nat) (d : Int) : State :=
  let f := s.fb j
  let e := f.emu + d
  let s := s.putFb j { f with emu := e, emuAt := r, zq := f.zq.filter (· ≠ f.emu) }
  let at_ := sub32 s.now ((s.tb.rim - r) % p2 32)
  forEach [0, 1, 2] (fun i s =>
    if f.emuOut f.emu i == f.emuOut e i || !s.fbDrives then s else s.emit (.edge outFb (3 * j + i) at_ 0 (f.emuOut e i))) s

/-- Rim clocks between two emulated counts at PT_FMAX. -/
def State.emuGap (s : State) (j : Nat) : Nat := ceilDiv 1000000 (max 1 (min 50000 (s.act (R.FB_PT.PT_FMAX.i j))))

/-- The emulated count that the source of channel j asks for. -/
def State.emuGoal (s : State) (j : Nat) : Int :=
  (s.fb (s.act (R.FB_PT.PT_SRC.i j))).cnt / (max 1 (s.act (R.FB_PT.PT_DIV.i j)) : Int)

/-- Up to n counts of channel j that are due by now, each a gap after the one before and none before `from_`. -/
def State.emuRun (j from_ : Nat) : Nat → State → State
  | 0, s => s
  | n + 1, s =>
    let f := s.fb j
    let g := s.emuGoal j
    let r := max from_ (f.emuAt + s.emuGap j)
    if g = f.emu || s.tb.rim < r then s else State.emuRun j from_ n (s.emuOne j r (if f.emu < g then 1 else -1))

/-- The emulation of channel j follows its source, at most PT_FMAX counts a second (R282): the counts due since the last look, none of them before `from_`. -/
def State.emuStep (s : State) (j from_ : Nat) : State :=
  let d := (s.emuGoal j - (s.fb j).emu).natAbs
  let s := State.emuRun j from_ (min d ((s.tb.rim - (s.fb j).emuAt) / s.emuGap j)) s
  if 4 < (s.emuGoal j - (s.fb j).emu).natAbs then s.flag (R.FB_FLAGS.PT_LAG.i j) else s

/-- The repeats of channel k catch up with what it has counted so far. -/
def State.emuFlush (s : State) (k : Nat) : State := forEach (s.ptOf k 2) (fun j s => s.emuStep j 0) s

/-- The repeats of channel k follow a move of the present tick. -/
def State.emuFollow (s : State) (k : Nat) : State := forEach (s.ptOf k 2) (fun j s => s.emuStep j s.tb.rim) s

/-- The source POS has crossed 0 at an unwrapped count: Z is high in the emulated state of that count. -/
def State.emuZ (s : State) (k : Nat) (c : Int) : State :=
  forEach (s.ptOf k 2) (fun j s =>
    let f := s.fb j
    let e := c / (max 1 (s.act (R.FB_PT.PT_DIV.i j)) : Int)
    if f.zq.contains e then s
    else
      let s := s.putFb j { f with zq := e :: f.zq.take 15 }
      if e = f.emu && s.fbDrives then s.emit (.edge outFb (3 * j + 2) s.now 0 true) else s) s

/-! ### The balls (R251, R253) -/

/-- The level of output i of channel k; none is high-impedance. Low is the idle level of the compare output and of a pass-through output, and high at OUT1 enables the driver (DESIGN CHOICE, log 69: the rules name no levels). -/
def State.fbOut (s : State) (k i : Nat) : Option Bool :=
  let shadow := s.mode == 3
  if !s.alive || s.mode = 0 || !s.dom 21 then none
  else if s.fbMode k = 5 && i = 0 || s.fbMode k = 6 && i = 0 then some true
  else if s.fbMode k = 6 && i = 1 then some false
  else if s.ptMode k = 1 then some (!shadow && bit (s.rd (R.FB_STAT.IN.i (s.act (R.FB_PT.PT_SRC.i k)))) i)
  else if s.ptMode k = 2 then some (!shadow && (s.fb k).emuOut (s.fb k).emu i)
  else if i = 2 && s.rd (R.FB_CMP_CFG.CMP_OUT.i k) = 1 then some (!shadow && s.tb.rim < (s.fb k).pulse)
  else none

/-- The balls of channel k show what changed between two states. -/
def State.fbPin (old s : State) (k : Nat) : State :=
  forEach [0, 1, 2] (fun i s =>
    if old.fbOut k i = s.fbOut k i then s
    else match s.fbOut k i with
      | some l => s.emit (.edge outFb (3 * k + i) s.now 0 l)
      | none => s.emit (.hiZ outFb (3 * k + i) s.now)) s

/-- The balls of every channel. -/
def State.fbPins (old s : State) : State := forEach (List.range 16) (fun k s => old.fbPin s k) s

/-! ### Faults (R260, R265, R272, R276) -/

/-- The axis slots whose lanes take their position from channel k. -/
def State.fbReaders (s : State) (k : Nat) : List Nat :=
  (List.range 160).filter fun n =>
    s.act (R.AX_CFG.OUT_MODE.i n) != 0 && s.act (R.AX_CFG.POS_RING.i n) == 0 && s.act (R.AX_SRC.POS_FB.i n) == k

/-- Cause bits of FB_STAT. -/
def fbcIll : Nat := 2
/-- Hall. -/
def fbcHall : Nat := 1
/-- Frame. -/
def fbcFrame : Nat := 0

/-- A cause of FB_STAT becomes present or absent. -/
def State.fbCause (s : State) (k c : Nat) (b : Bool) : State :=
  let f := R.FB_STAT.CAUSE.i k
  s.wr ⟨f.addr, 0, 0, f.lo + c, f.lo + c, false⟩ (b2n b)

/-- A feedback fault; one that has lost the position clears HOMED of the axes that read the channel, and any ends a homing of theirs (R145). -/
def State.fbFault (s : State) (k c : Nat) (lost : Bool) : State :=
  let s := (s.fbCause k c true).wr (R.FB_STAT.FAULT.i k) 1
  let s := if lost then s.wr (R.FB_STAT.LOST.i k) 1 else s
  forEach (s.fbReaders k) (fun n s =>
    if lost then s.homeFbFault n
    else if (s.gen n).home.step = 0 then s
    else (s.homeFail n 3).demandHaltOf n R.CHN_FLAGS.HALT_FAULT) s

/-- A reference event clears POS_UNCERTAIN (R262). -/
def State.fbReference (s : State) (k : Nat) : State := s.wr (R.FB_STAT.POS_UNCERTAIN.i k) 0

/-! ### Position, compare (R263, R277 to R280) -/

/-- POS, modulo MOD, and REV, which stays 0 on a linear counter, take values; CPOS and the unwrapped count follow, and what CPOS was is kept for the position latch. -/
def State.fbSet (s : State) (k pos0 rev0 : Nat) : State :=
  let old := s.fbCpos k
  let pos := pos0 % s.fbMod k
  let rev := if s.fbLinear k then 0 else rev0 % p2 32
  let c := (rev * s.fbMod k + pos) % p2 32
  let s := ((s.wr (R.FB_POS.VALUE.i k) pos).wr (R.FB_REV.VALUE.i k) rev).wr (R.FB_CPOS.VALUE.i k) c
  let f := s.fb k
  if c = old then s
  else s.putFb k { f with
    cnt := f.cnt + sx 32 (sub32 c old)
    hist := ((s.sampleTick, old) :: f.hist.filter fun h => sub32 s.now h.1 < 2048).take 256 }

/-- Does a move of d counts from a cross a value (R277)? -/
def crosses (m a d v : Int) : Bool :=
  if 0 < d then (let x := (v - a) % m; decide (0 < x ∧ x ≤ d) || decide (x = 0 ∧ m ≤ d))
  else if d < 0 then (let x := (a - v) % m; decide (0 < x ∧ x ≤ -d) || decide (x = 0 ∧ m ≤ -d))
  else false

/-- BEHIND at a write of FB_CMP (R278). -/
def State.fbBehind (s : State) (k v : Nat) : Bool :=
  let f := s.fb k
  let p : Int := if s.fbLinear k then sx 32 (s.fbPos k) else (s.fbPos k : Int)
  let c : Int := if s.fbLinear k then sx 32 v else (v : Int)
  !f.edge || (if s.rd (R.FB_STAT.DIR.i k) = 0 then decide (c ≤ p) else decide (p ≤ c))

/-- A field as it was before software stored it on this tick. -/
def State.rdOld (s : State) (f : Fld) : Nat := (s.before f).getD (s.rd f)

/-- The compare of channel k fires at a stamp, in a direction (R279, R280). A value written on the tick of the fire stays, and BEHIND is what that write gives it. -/
def State.fbFire (s : State) (k stamp : Nat) (back : Bool) : State :=
  let s := s.bump (R.FB_CNT2.CMP_CNT.i k) (R.FB_FLAGS.CMP_OVF.i k)
  let s := ((s.wr (R.FB_CMP_STAMP.NS.i k) stamp).wrB (R.FB_STAT.BEHIND.i k)
    (s.log.wrote.contains (R.FB_CMP.VALUE.i k).key && s.fbBehind k (s.rd (R.FB_CMP.VALUE.i k)))).raiseInt (32 + k)
  let sp := s.rd (R.FB_CMP_SP.VALUE.i k)
  let c := s.rdOld (R.FB_CMP.VALUE.i k)
  let s := if sp = 0 then s.rwh (R.FB_CMP_CFG.EN.i k) 0
    else s.rwh (R.FB_CMP.VALUE.i k) (((c : Int) + (if back then -(sp : Int) else (sp : Int))) % (s.fbMod k : Int)).toNat
  let w := max 1 (s.rd (R.FB_CMP_CFG.WIDTH.i k))
  if s.rd (R.FB_CMP_CFG.CMP_OUT.i k) = 1 && s.ptMode k = 0 then
    let s := s.putFb k { s.fb k with pulse := s.tb.rim + w + 1 }
    if s.fbDrives then s.emit (.edge outFb (3 * k + 2) (add32 s.now 1) w true) else s
  else s

/-- The unwrapped count, c after a move of d from POS a, at which POS passed 0. -/
def zeroAt (m a d c : Int) : Int := if 0 < d then c - d + (m - a % m) else c - d - (if a % m = 0 then m else a % m)

/-- POS has moved by d counts from a: the compare, by the values from before a write of this tick (R54), and the emulated Z judge the move. -/
def State.fbMoved (s : State) (k a stamp : Nat) (d : Int) : State :=
  let m : Int := (s.fbMod k : Int)
  let back := d < 0
  let dir := s.rdOld (R.FB_CMP_CFG.DIR.i k)
  let hit := s.rdOld (R.FB_CMP_CFG.EN.i k) == 1 && bit dir (if back then 1 else 0) &&
    crosses m (a : Int) d (s.rdOld (R.FB_CMP.VALUE.i k) : Int)
  let s := if hit then s.fbFire k stamp back else s
  let s := if crosses m (a : Int) d 0 then s.emuZ k (zeroAt m (a : Int) d (s.fb k).cnt) else s
  s.emuFollow k

/-- A count edge of d (R258, R264, R266, R274). -/
def State.fbCount (s : State) (k stamp : Nat) (d0 : Int) : State :=
  let d := if s.act (R.FB_CFG.DIR_INV.i k) = 1 then -d0 else d0
  let back := d < 0
  let s := s.emuFlush k
  let a := s.fbPos k
  let m := s.fbMod k
  let x : Int := (a : Int) + d
  let pos := (x % (m : Int)).toNat
  let rev0 := s.fbRev k
  let turn := if s.fbLinear k then 0 else x / (m : Int)
  let rv : Int := (rev0 : Int) + turn
  let s := s.fbSet k pos (unsx 32 rv)
  let s := if rv < 0 || (p2 32 : Int) ≤ rv then s.flag (R.FB_FLAGS.REV_WRAP.i k) else s
  let f := s.fb k
  let reversal := f.edge && (s.rd (R.FB_STAT.DIR.i k) == 1) != back
  let c := f.eC + d
  let newRef := !f.edge || reversal
  let f := { f with
    eC := c, eT := stamp, eRim := s.tb.rim - sub32 s.now stamp, edge := true, fresh := true,
    rev := f.rev || reversal, rC := if newRef then c else f.rC, rT := if newRef then stamp else f.rT }
  let s := (s.putFb k f).wrB (R.FB_STAT.DIR.i k) back
  let s := { s with log := { s.log with moved := (k, d) :: (16 + k, turn) :: s.log.moved } }
  s.fbMoved k a stamp d

/-- The two good frames, the later first, whose stamps bracket a trigger's stamp. -/
def bracketOf (t : Nat) : List GoodFrame → Option (GoodFrame × GoodFrame)
  | b :: a :: r => if sub32 b.stamp t < p2 31 && sub32 t a.stamp < p2 31 then some (b, a) else bracketOf t (a :: r)
  | _ => none

/-- CPOS at a trigger stamp (R281): linear between the two good frames that bracket it, once the later of them is good. -/
def State.fbWait (s : State) (k : Nat) : State :=
  let f := s.fb k
  match f.waitT.bind fun t => (bracketOf t f.good).map fun x => (t, x) with
  | some (t, b, a) =>
    let d := sub32 b.stamp a.stamp
    let x : Int := if d = 0 then (b.cpos : Int)
      else (a.cpos : Int) + roundOpen ((sx 32 (sub32 b.cpos a.cpos) : Rat) * (sub32 t a.stamp : Rat) / (d : Rat))
    let s := s.putFb k { f with waitT := none }
    ((s.wr (R.FB_LATCH_POS.VALUE.i k) (unsx 32 x)).wr (R.FB_LATCH_STAMP.VALUE.i k) t).wr (R.FB_STAT.LATCH_FULL.i k) 1
  | none => s

/-- A trigger of the position latch of channel k (R281). -/
def State.fbTrigger (s : State) (k stamp : Nat) : State :=
  if s.rd (R.FB_STAT.LATCH_FULL.i k) = 1 || (s.fb k).waitT.isSome then s.flag (R.FB_FLAGS.LATCH_LOST.i k)
  else if s.fbAbs k then (s.putFb k { s.fb k with waitT := some stamp }).fbWait k
  else
    let p := cposAt s.now stamp (s.fbCpos k) (s.fb k).hist
    ((s.wr (R.FB_LATCH_POS.VALUE.i k) p).wr (R.FB_LATCH_STAMP.VALUE.i k) stamp).wr (R.FB_STAT.LATCH_FULL.i k) 1

/-- The place of the last index pulse is kept for a homing (R143). -/
def State.markIndex (s : State) (k : Nat) : State := s.putFb k { s.fb k with idxC := s.fbCpos k }

/-- An index of channel k (R261, R262). -/
def State.fbIndex (s : State) (k stamp : Nat) : State :=
  let s := ((s.wr (R.FB_IDX_POS.VALUE.i k) (s.fbPos k)).wr (R.FB_IDX_STAMP.VALUE.i k) stamp).flag (R.FB_FLAGS.IDX_SEEN.i k)
  let s := { s with idxN := tput 0 s.idxN k (tget 0 s.idxN k + 1) }
  let s := if s.rd (R.FB_LATCH_CFG.LATCH_SRC.i k) = 1 then s.fbTrigger k stamp else s
  let z := s.act (R.FB_IDX.ZRST.i k)
  if z = 2 || (z = 1 && s.rd (R.FB_STAT.ZARM.i k) = 1) then
    let s := (s.fbSet k (s.act (R.FB_ZVAL.ZVAL.i k)) (s.fbRev k)).fbReference k
    ((s.wr (R.FB_STAT.ZARM.i k) 0).wr (R.FB_CTRL.ZARM.i k) 0).markIndex k
  else s.markIndex k

/-- An illegal change of channel k (R259, R260). -/
def State.fbIllegal (s : State) (k : Nat) : State :=
  let s := (s.bump (R.FB_CNT.ILL_CNT.i k) (R.FB_FLAGS.ILL_OVF.i k)).wr (R.FB_STAT.POS_UNCERTAIN.i k) 1
  let f := s.fb k
  let f := if f.illN = 0 then { f with illAt := s.tb.rim, illN := 1 } else { f with illN := f.illN + 1 }
  let s := s.putFb k f
  let lim := s.act (R.FB_ILL.ILL_LIMIT.i k)
  if lim ≠ 0 && lim ≤ f.illN then s.fbFault k fbcIll true else s

/-! ### Decoders -/

/-- The quadrature count of a change from (a, b) to (a', b') at a decoding (R258): 0 X1, 1 X2, 2 X4. -/
def quadCount (dec : Nat) (a b a' b' : Bool) : Int :=
  if a == a' && b == b' then 0
  else
    let d : Int := if a != a' then (if a' != b then 1 else -1) else (if b' == a then 1 else -1)
    if dec = 0 then (if a != a' && !b then d else 0)
    else if dec = 1 then (if a != a' then d else 0)
    else d

/-- The Hall sector of levels U, V, W (R264); 7 for the two invalid states. -/
def hallSector (ins : Nat) : Nat := ([7, 4, 2, 3, 0, 5, 1, 7] : List Nat).getD (ins % 8) 7

/-- The center angles of the sectors. -/
def hallCenter (x : Nat) : Nat := ([0x1555, 0x4000, 0x6AAB, 0x9555, 0xC000, 0xEAAB] : List Nat).getD x 0

/-- The Hall angle of channel k (R264): the center, or interpolated from the boundary of entry. -/
def State.hallShow (s : State) (k : Nat) : State :=
  let f := s.fb k
  let x := s.rd (R.FB_STAT.SECT.i k)
  if x = 7 || f.badAt.isSome then s
  else
    let w : Rat := 65536 / 6
    let a : Int :=
      if s.act (R.FB_HALL.HALL_INTERP.i k) = 0 || f.spd = 0 || f.hallA = 0 then (hallCenter x : Int)
      else
        let run := min w (absQ f.spd * ((sub32 s.now f.hallT : Nat) : Rat) / secQ * w)
        roundOpen (if f.hallA = 1 then (x : Rat) * w + run else ((x + 1 : Nat) : Rat) * w - run)
    s.wr (R.FB_ANGLE.ANGLE.i k) (unsx 16 (a + (s.act (R.FB_HALL.HALL_OFS.i k) : Int)))

/-- An invalid Hall state: sector and angle hold, and the time to the fault runs (R265). -/
def State.hallBad (s : State) (k : Nat) : State :=
  let f := s.fb k
  (s.flag (R.FB_FLAGS.HALL_BAD.i k)).putFb k { f with badAt := match f.badAt with | some r => some r | none => some s.tb.rim }

/-- Hall decoding of channel k begins: the accepted state selects its sector, and nothing is counted (R264, R265). -/
def State.hallBegin (s : State) (k : Nat) : State :=
  let x := hallSector (s.rd (R.FB_STAT.IN.i k))
  let s := s.putFb k { s.fb k with badAt := none, hallA := 0 }
  if x = 7 then s.hallBad k else (s.wr (R.FB_STAT.SECT.i k) x).hallShow k

/-- A change of Hall levels (R264, R265). -/
def State.fbHall (s : State) (k new stamp : Nat) : State :=
  let x := hallSector new
  let old := s.rd (R.FB_STAT.SECT.i k)
  if x = 7 then s.hallBad k
  else
    let s := (s.putFb k { s.fb k with badAt := none }).fbCause k fbcHall false
    if old = x then s
    else
      let s := s.wr (R.FB_STAT.SECT.i k) x
      if old = 7 then s.hallShow k
      else
        let d := (x + 6 - old) % 6
        let s := s.putFb k { s.fb k with hallT := stamp, hallA := if d ≤ 2 then 1 else if d = 3 then 0 else 2 }
        let s := if d = 1 then s.fbCount k stamp 1 else if d = 5 then s.fbCount k stamp (-1)
          else if d = 2 then (s.fbCount k stamp 2).flag (R.FB_FLAGS.HALL_SKIP.i k)
          else if d = 4 then (s.fbCount k stamp (-2)).flag (R.FB_FLAGS.HALL_SKIP.i k)
          else (s.flag (R.FB_FLAGS.HALL_SKIP.i k)).wr (R.FB_STAT.POS_UNCERTAIN.i k) 1
        s.hallShow k

/-- A step of the interpolation of R148: base and goal in increments. -/
def stepTake (x : StepIn) (base goal : Rat) (stamp rim tmo : Nat) (neg : Bool) : StepIn :=
  let d := sub32 stamp x.last
  { x with base := base, goal := goal, t0 := stamp, last := stamp, dirNeg := neg,
           rim := rim, dt := if x.dirNeg == neg && rim - x.rim < p2 31 && d ≤ tmo * 1000000 then d else 0 }

/-- A step of channel k reaches the generators and lanes that follow it (R148, R231). -/
def State.stepEvent (s : State) (k stamp : Nat) (neg : Bool) : State :=
  let c : Int := sx 32 (s.fbCpos k)
  forEach (List.range 160) (fun n s =>
    let s : State :=
      if s.act (R.STK_STEP_CFG.SRC.i n) = k && (s.queueOf n).isSome then
        let g := s.gen n
        let goal : Rat := ((c * s.actS (R.STK_STEP_CFG.INC.i n) : Int) : Rat)
        (s.putGen n { g with step := stepTake g.step (s.refPos n) goal stamp s.tb.rim (s.act (R.STK_STEP_CFG.TMO.i n)) neg }).wr
          (R.STK_STEP_STAT.STEP_POS.i n) (s.fbCpos k)
      else s
    if s.act (R.AX_CFG.SP_SRC.i n) = 2 && s.act (R.AX_STEP.SRC.i n) = k then
      let l := tget Lane.zero s.lanes n
      let goal : Rat := ((c * s.actS (R.AX_STEP.INC.i n) : Int) : Rat)
      let x := stepTake l.step ((l.lastP : Rat) / 65536) goal stamp s.tb.rim (s.act (R.AX_STEP.TMO.i n)) neg
      { s with lanes := tput Lane.zero s.lanes n { l with step := x } }
    else s) s

/-- Does the gate of ZGATE hold? -/
def State.zGate (s : State) (k new : Nat) : Bool :=
  let g := s.act (R.FB_IDX.ZGATE.i k)
  if g = 1 then bit new 0 && bit new 1 else if g = 2 then !bit new 0 && !bit new 1 else true

/-- A change of the accepted signal levels of channel k from old to new. -/
def State.fbSignals (s : State) (k old new : Nat) : State :=
  let stamp := sub32 s.sampleTick (4 * (max 1 (s.act (R.FB_CFG.FILT.i k)) - 1))
  let s := (s.wr (R.FB_STAT.IN.i k) new).ptRaw k stamp old new
  let rose := fun (i : Nat) => !bit old i && bit new i
  let fell := fun (i : Nat) => bit old i && !bit new i
  match s.fbMode k with
  | 1 =>
    let both := (bit old 0 != bit new 0) && (bit old 1 != bit new 1)
    let s := if both then s.fbIllegal k
      else
        let d := quadCount (s.act (R.FB_CFG.DECODE.i k)) (bit old 0) (bit old 1) (bit new 0) (bit new 1)
        if d = 0 then s else s.fbCount k stamp d
    let act := if s.act (R.FB_IDX.ZPOL.i k) = 0 then rose 2 else fell 2
    if act && s.zGate k new then s.fbIndex k stamp else s
  | 2 => s.fbHall k new stamp
  | 3 =>
    let act := if s.act (R.FB_IDX.STEP_POL.i k) = 0 then rose 0 else fell 0
    if act then
      let d : Int := if bit old 1 then -1 else 1
      let s := s.fbCount k stamp d
      s.stepEvent k stamp (s.rd (R.FB_STAT.DIR.i k) == 1)
    else s
  | 4 =>
    let both := (bit old 0 != bit new 0) && (bit old 1 != bit new 1)
    if both then s.fbIllegal k
    else
      let s := if rose 0 then s.fbCount k stamp 1 else s
      if rose 1 then s.fbCount k stamp (-1) else s
  | _ => s

/-- A change of the accepted auxiliary levels: the limit and home inputs that select them (R140), and latch triggers (R281). -/
def State.fbAux (s : State) (k old new : Nat) : State :=
  let stamp := sub32 s.sampleTick (4 * (max 1 (s.act (R.FB_CFG.AUX_FILT.i k)) - 1))
  let s := s.wr (R.FB_STAT.AUX.i k) new
  let s : State := if s.dom 10 then forEach ((List.range 3).filter fun i => bit old i != bit new i) (fun i s =>
      s.limInputs stamp (fun n w => (s.limSrc n w).1 == 1 + 3 * k + i) (bit new i)) s else s
  let src := s.rd (R.FB_LATCH_CFG.LATCH_SRC.i k)
  let e := s.rd (R.FB_LATCH_CFG.EDGE.i k)
  if 2 ≤ src && src ≤ 4 then
    let i := src - 2
    if (bit e 0 && !bit old i && bit new i) || (bit e 1 && bit old i && !bit new i) then s.fbTrigger k stamp else s
  else s

/-- FB_EDGE (R255, R256): one event of newly accepted levels; without its bank the levels are 0 (R468). -/
def execFbEdge (dt k ins aux : Nat) (s : State) : Res :=
  let s := s.after dt
  needs (isFb k && ins < 8 && aux < 8) (if s.fbRuns then
    let old := s.rd (R.FB_STAT.IN.i k)
    let oldA := s.rd (R.FB_STAT.AUX.i k)
    let up := s.taken (fbBank k)
    let ins := if up then ins else 0
    let aux := if up then aux else 0
    let s := if old = ins then s else s.fbSignals k old ins
    if oldA = aux then s else s.fbAux k oldA aux
  else s)

/-- ILL_WINDOW_END (R260): the window closes and its count restarts. -/
def execIllWindowEnd (k : Nat) (s : State) : Res :=
  needs (isFb k) (if s.fbRuns && (s.fb k).illN ≠ 0 then
    let s := s.runRim ((s.fb k).illAt + 1000000 * max 1 (s.act (R.FB_ILL.ILL_WINDOW.i k)))
    (s.putFb k { s.fb k with illN := 0 }).fbCause k fbcIll false
  else s)

/-- HALL_TIMEOUT (R265): the invalid state has lasted HALL_TMO µs. -/
def execHallTimeout (k : Nat) (s : State) : Res :=
  needs (isFb k) (match (s.fb k).badAt with
    | some r =>
      if s.fbRuns && s.fbMode k = 2 && !bit (s.rd (R.FB_STAT.CAUSE.i k)) fbcHall then
        (s.runRim (r + 1000 * max 1 (s.act (R.FB_HALL.HALL_TMO.i k)))).fbFault k fbcHall true
      else s
    | none => s)

/-- A write of FB_CMP. -/
def State.fbCmpWrite (s : State) (k v : Nat) : State :=
  (s.softField (R.FB_CMP.VALUE.i k) v).wrB (R.FB_STAT.BEHIND.i k) (s.fbBehind k v)

/-- FB_CMP_WRITE (R278, R279). -/
def execFbCmpWrite (dt : Nat) (src : Src) (k value : Nat) (s : State) : Res :=
  let s := s.after dt
  needs (isFb k && isWord value) (s.swWrite src 21 (R.FB_CMP.VALUE.i k).addr fun s => s.fbCmpWrite k value)

/-- What the log of this tick holds under a number, added up. -/
def State.movedNow (s : State) (i : Nat) : Int := ((s.log.moved.filter fun x => x.1 == i).map (·.2)).foldl (· + ·) 0

/-- A write of FB_POS or FB_REV (R262, R263, R271). A count made earlier on this tick is applied on top of the written value (R54). -/
def State.fbPosWrite (s : State) (k : Nat) (rev : Bool) (v : Nat) : State :=
  let turn := s.movedNow (16 + k)
  if s.fbAbs k then s
  else if rev then s.fbSet k (s.fbPos k) (unsx 32 ((v : Int) + turn))
  else
    let m : Int := (s.fbMod k : Int)
    let x : Int := (v : Int) % m + s.movedNow k
    (s.fbSet k (x % m).toNat (unsx 32 ((s.fbRev k : Int) - turn + x / m))).fbReference k

/-- FB_POS_WRITE (R262, R263). -/
def execFbPosWrite (dt : Nat) (src : Src) (k : Nat) (rev : Bool) (value : Nat) (s : State) : Res :=
  let s := s.after dt
  needs (isFb k && isWord value)
    (s.swWrite src 21 (if rev then R.FB_REV.VALUE.i k else R.FB_POS.VALUE.i k).addr fun s => s.fbPosWrite k rev value)

/-- FB_FLT_CLR (R276): the request waits for the next latch instant. -/
def execFbFltClr (dt : Nat) (src : Src) (k : Nat) (s : State) : Res :=
  let s := s.after dt
  needs (isFb k) (s.swWrite src 21 (R.FB_CTRL.FLT_CLR.i k).addr fun s => s.wr (R.FB_CTRL.FLT_CLR.i k) 1)

/-- A write of ZARM = 1 (R261). -/
def State.zarmWrite (s : State) (k : Nat) : State := (s.wr (R.FB_CTRL.ZARM.i k) 1).wr (R.FB_STAT.ZARM.i k) 1

/-- ZARM (R261). -/
def execZarm (dt : Nat) (src : Src) (k : Nat) (s : State) : Res :=
  let s := s.after dt
  needs (isFb k) (s.swWrite src 21 (R.FB_CTRL.ZARM.i k).addr fun s => s.zarmWrite k)

/-! ### Latch instants (R257, R273 to R276) -/

/-- The speed of a counting channel at a latch (R274). -/
def State.countSpeed (s : State) (k : Nat) : Rat :=
  let f := s.fb k
  if f.eT ≠ f.rT then ((f.eC - f.rC : Int) : Rat) * secQ / ((sub32 f.eT f.rT : Nat) : Rat)
  else if f.fresh then (if f.rev then 0 else f.spd)
  else if !f.edge then 0
  else
    let el := s.tb.rim - f.eRim - sub32 s.now s.sampleTick
    if 1000000 * max 1 (s.act (R.FB_SPD.SPD_TMO.i k)) < el then 0
    else
      let m := min (absQ f.spd) (secQ / ((max 1 el : Nat) : Rat))
      if f.spd < 0 then -m else m

/-- The speed of an absolute channel (R275). -/
def absSpeed : List GoodFrame → Rat
  | a :: b :: _ => divQ ((sx 32 (sub32 a.cpos b.cpos) : Rat) * secQ) ((sub32 a.stamp b.stamp : Nat) : Rat)
  | _ => 0

/-- FLT_CLR at a latch instant (R276). -/
def State.fbClear (s : State) (k : Nat) : State :=
  if s.rd (R.FB_CTRL.FLT_CLR.i k) = 0 then s
  else
    let s := s.wr (R.FB_CTRL.FLT_CLR.i k) 0
    if s.rd (R.FB_STAT.FAULT.i k) = 0 then s
    else if s.rd (R.FB_STAT.CAUSE.i k) ≠ 0 || (s.fbMode k = 2 && (s.fb k).badAt.isSome) then s.flag (R.FB_FLAGS.CLR_REFUSED.i k)
    else (s.wr (R.FB_STAT.FAULT.i k) 0).wr (R.FB_STAT.LOST.i k) 0

/-- A latch instant of channel k. -/
def State.fbLatch (s : State) (k : Nat) : State :=
  if !s.fbRuns || (!s.fbAbs k && (s.fb k).latAt = s.sampleTick && (s.fb k).latP = s.fbCpos k && s.rd (R.FB_CTRL.FLT_CLR.i k) = 0) then s
  else
    let s := (s.fbClear k).emuFlush k
    let f := s.fb k
    if s.fbAbs k then
      let v := absSpeed f.good
      let f := { f with latV := f32Open v, spd := v, latP := s.fbCpos k, latPos := s.fbPos k, latRev := s.fbRev k }
      let f := match f.good with
        | [] => f
        | g :: _ => { f with latP := g.cpos, latAt := g.stamp, latPos := g.pos, latRev := g.rev }
      (s.putFb k f).wr (R.FB_SPEED.SPEED.i k) (f32Open v)
    else
      let v := s.countSpeed k
      let s := s.putFb k { f with
        latP := s.fbCpos k, latAt := s.sampleTick, latPos := s.fbPos k, latRev := s.fbRev k, latV := f32Open v, spd := v,
        rC := f.eC, rT := f.eT, rev := false, fresh := false }
      let s := s.wr (R.FB_SPEED.SPEED.i k) (f32Open v)
      if s.fbMode k = 2 then s.hallShow k else s

/-- The sample latch of every channel whose group's boundary is base index n. -/
def State.fbLatchAll (s : State) (n : Nat) : State :=
  forEach (List.range 16) (fun k s => if s.rgAt (s.fbGroup k) n then s.fbLatch k else s) s

/-! ### Absolute encoders (R267 to R272) -/

/-- Frame bits in use. -/
def State.nbits (s : State) (k : Nat) : Nat := max 8 (min 96 (s.act (R.FB_FRAME.NBITS.i k)))

/-- The field of a frame at an offset (R271). -/
def frameField (fr : List Bool) (nbits o l : Nat) (msb : Bool) : Nat :=
  let b := (List.range l).map fun i => if o + i < nbits then fr.getD (o + i) false else false
  let b := if msb then b else b.reverse
  b.foldl (fun a x => 2 * a + b2n x) 0

/-- Gray decoding of an n-bit word. -/
def unGray (n w : Nat) : Nat :=
  (List.range n).foldl (fun a i => Nat.xor a (w / p2 i)) 0 % p2 n

/-- The CRC of R270 over covered bits in line order. -/
def lineCrc (w poly : Nat) (init1 xor1 : Bool) (b : List Bool) : Nat :=
  let c := b.foldl (fun c x =>
    let fb := bit c (w - 1) != x
    let c := c * 2 % p2 w
    if fb then Nat.xor c (poly % p2 w) else c) (if init1 then p2 w - 1 else 0)
  if xor1 then Nat.xor c (p2 w - 1) else c

/-- CRC_W as it acts. -/
def State.crcW (s : State) (k : Nat) : Nat :=
  let w := s.act (R.FB_CRC_CFG.CRC_W.i k)
  if w < 3 || 32 < w then 0 else w

/-- A bad frame (R272). -/
def State.badFrame (s : State) (k : Nat) : State :=
  let s := s.bump (R.FB_CNT.BAD_CNT.i k) (R.FB_FLAGS.BAD_OVF.i k)
  let n := (s.fb k).badN + 1
  let s := s.putFb k { s.fb k with badN := n }
  if max 1 (s.act (R.FB_XFER2.BAD_N.i k)) ≤ n then s.fbFault k fbcFrame false else s

/-- The transfer of channel k has ended; a completion after its instant is late (R267). -/
def State.xferEnd (s : State) (k : Nat) : State :=
  match (s.fb k).xfer with
  | none => s
  | some (_, i, _, _) =>
    let s := s.putFb k { s.fb k with xfer := none, xEnd := s.tb.rim }
    let d := sub32 s.now i
    if 0 < d && d < p2 31 then s.bump (R.FB_CNT2.XFER_LATE.i k) (R.FB_FLAGS.LATE_OVF.i k) else s

/-- Ticks of a bit of the line (R268, R269): half an SSI period, or a serial bit, with the minimum of DIV. -/
def State.bitTime (s : State) (k : Nat) : Nat :=
  max (if s.fbMode k = 5 then 49 else 61) (s.act (R.FB_XFER.DIV.i k)) + 1

/-- Request bits sent. -/
def State.reqLen (s : State) (k : Nat) : Nat := min 32 (s.act (R.FB_FRAME2.REQ_LEN.i k))

/-- The instants that the transfers of channel k precede (R252, R267): the anchor and period of the sample instants of its group, or of the current-loop instants of the owner's bridge; none where the owner has none. -/
def State.xferGrid (s : State) (k : Nat) : Option (Nat × Nat) :=
  let g := s.fbGroup k
  let o := s.rd (R.FB_CFG.OWNER.i k)
  if s.act (R.FB_XFER2.XFER_CL.i k) = 0 then some (s.rgAnchor g, 31250 * s.rgN g)
  else if o < 160 && s.rd (R.AX_CLCFG.CL_EN.i o) = 1 then some (s.rgAnchor g, s.clPer o)
  else none

/-- An SSI transfer drives its clock (R268): low for half a period at T0 and at each later falling edge, NBITS of which sample a bit. -/
def State.ssiClock (s : State) (k : Nat) : State :=
  let h := s.bitTime k
  forEach (List.range (s.nbits k + 1)) (fun j s => s.emit (.edge outFb (3 * k) (add32 s.now (2 * h * j)) h false)) s

/-- A serial transfer sends its request on OUT0, with OUT1 enabling the driver to the end of the last bit (R269). -/
def State.serialSend (s : State) (k : Nat) : State :=
  let n := s.reqLen k
  let w := s.act (R.FB_REQ.REQ.i k)
  let b := (List.range n).map fun j => bit w j
  let b := if s.act (R.FB_FRAME2.MSB_FIRST.i k) = 1 then b.reverse else b
  if n = 0 then s
  else (s.emit (.edge outFb (3 * k + 1) s.now (n * s.bitTime k) true)).emit (.serial outFb (3 * k) b)

/-- A transfer of channel k starts now for the instant i (R267 to R269); line is IN0 in the sample before. -/
def State.xferGo (s : State) (k i : Nat) (line : Bool) : State :=
  let ssi := s.fbMode k == 5
  let bad := ssi && !(line && s.taken (fbBank k))
  let s := s.putFb k { s.fb k with xfer := some (s.now, i, bad, s.tb.rim) }
  let s := if bad then s.flag (R.FB_FLAGS.LINE_ERR.i k) else s
  if ssi then s.ssiClock k else s.serialSend k

/-- The tick of the next transfer start of channel k, on the grid of its instants: XFER_LEAD before the instant (R267). -/
def State.xferAt (s : State) (k a per : Nat) : Nat := s.nextInst (s.fb k).xAt a per (-(s.act (R.FB_XFER.XFER_LEAD.i k) : Int))

/-- XFER_START (R267 to R269): at the next T0 = I − XFER_LEAD of an instant I, dt clocks on or later, the transfer starts, or is skipped while one runs; in SSI mode it is delayed until TM has passed since the last one's end. -/
def execXferStart (dt k : Nat) (line : Bool) (s : State) : Res :=
  let s := s.after dt
  needs (isFb k) (if s.fbRuns && s.fbAbs k && s.dev.rgIn then
    match s.xferGrid k with
    | none => s
    | some (a, per) =>
      let lead := s.act (R.FB_XFER.XFER_LEAD.i k)
      let t := s.xferAt k a per
      let s := s.runTo t
      let s := s.putFb k { s.fb k with xAt := some t }
      let f := s.fb k
      if f.xfer.isSome then s.bump (R.FB_CNT2.XFER_LATE.i k) (R.FB_FLAGS.LATE_OVF.i k)
      else
        let gap := 1000 * s.act (R.FB_XFER2.TM.i k)
        let s := if s.fbMode k = 5 && f.xEnd ≠ 0 then s.runRim (f.xEnd + gap) else s
        s.xferGo k (add32 t lead) line
  else s)

/-- A good frame takes effect (R271). -/
def State.goodFrame (s : State) (k pos rev mt stamp : Nat) (wrapped : Bool) : State :=
  let f := s.fb k
  let m := s.fbMod k
  let old := s.fbPos k
  let s := (s.emuFlush k).fbSet k pos rev
  let s := if wrapped then s.flag (R.FB_FLAGS.REV_WRAP.i k) else s
  let g : GoodFrame := ⟨s.fbCpos k, pos, rev % p2 32, stamp⟩
  let s := s.putFb k { s.fb k with good := g :: f.good.take 7, mt := mt, mtNew := false, badN := 0, edge := true }
  let s := s.fbCause k fbcFrame false
  let d0 := ((pos : Int) - (old : Int)) % (m : Int)
  let d := if (m : Int) < 2 * d0 then d0 - (m : Int) else d0
  let s := if d = 0 then s else (s.wrB (R.FB_STAT.DIR.i k) (d < 0)).fbMoved k old stamp d
  s.fbWait k

/-- A complete frame with its transfer start is judged (R268, R270 to R272). -/
def State.judgeFrame (s : State) (k t0 : Nat) (bad0 : Bool) (fr : List Bool) : State :=
  let n := s.nbits k
  let w := min (s.crcW k) n
  let fr := fr.take n ++ List.replicate (n - fr.length) false
  let msb := s.act (R.FB_FRAME2.MSB_FIRST.i k) == 1
  let rx := (fr.drop (n - w)).foldl (fun a x => 2 * a + b2n x) 0
  let crcBad := w ≠ 0 && lineCrc w (s.act (R.FB_CRC.POLY.i k)) (s.act (R.FB_CRC_CFG.INIT1.i k) == 1) (s.act (R.FB_CRC_CFG.XOROUT1.i k) == 1) (fr.take (n - w)) ≠ rx
  let par := s.act (R.FB_FRAME2.PAR.i k)
  let odd := (fr.filter id).length % 2 == 1
  let parBad := s.fbMode k == 5 && ((par == 1 && odd) || (par == 2 && !odd))
  let el := min 8 (s.act (R.FB_FRAME2.ERR_LEN.i k))
  let ev := frameField fr n (s.act (R.FB_FRAME2.ERR_OFS.i k)) el msb
  let encBad := (ev &&& s.act (R.FB_FRAME2.ERR_MASK.i k)) != 0
  let gray := s.act (R.FB_CFG.GRAY.i k) == 1
  let pl := s.posLen k
  let ml := s.act (R.FB_FRAME.MT_LEN.i k)
  let pos := frameField fr n (s.act (R.FB_FRAME.POS_OFS.i k)) pl msb
  let pos := if gray then unGray pl pos else pos
  let mt := frameField fr n (s.act (R.FB_FRAME.MT_OFS.i k)) ml msb
  let mt := if gray then unGray ml mt else mt
  let f := s.fb k
  let m := p2 pl
  let rv : Int := match f.mtNew, f.good with
    | true, _ => (mt : Int)
    | false, [] => (mt : Int)
    | false, g :: _ =>
      if ml = 0 then
        let d : Int := (pos : Int) - (g.pos : Int)
        (g.rev : Int) + (if (m : Int) < 2 * d then -1 else if 2 * d < -(m : Int) then 1 else 0)
      else (g.rev : Int) + sx ml (mt + p2 ml - f.mt % p2 ml)
  let rev := unsx 32 rv
  let cpos := (rev * m + pos) % p2 32
  let jmax := s.act (R.FB_JUMP.JUMP_MAX.i k)
  let jump := match f.good with
    | [] => false
    | g :: _ => jmax ≠ 0 && jmax < (sx 32 (sub32 cpos g.cpos)).natAbs
  let sure := !(bad0 || crcBad || parBad || encBad)
  let s := if crcBad || parBad then s.flag (R.FB_FLAGS.CRC_ERR.i k) else s
  let s := if encBad then s.flag (R.FB_FLAGS.ENC_ERR.i k) else s
  if !sure then s.badFrame k
  else if jump then (s.flag (R.FB_FLAGS.JUMP.i k)).badFrame k
  else s.goodFrame k pos rev mt (add32 t0 (s.act (R.FB_XFER2.LAT_OFS.i k))) (rv < 0 || (p2 32 : Int) ≤ rv)

/-- ABS_FRAME_COMPLETE (R267, R268, R270 to R272): the frame bits in line order. An SSI transfer ends NBITS + 1 periods and DATA_DLY after its T0; a serial frame dt ticks from now. -/
def execAbsFrameComplete (dt k : Nat) (frame : List Bool) (s : State) : Res :=
  needs (isFb k) (if s.fbRuns && s.fbAbs k then
    match (s.fb k).xfer with
    | none => s.after dt
    | some (t0, _, bad, r) =>
      let s := if s.fbMode k = 5 then s.runRim (r + 2 * s.bitTime k * (s.nbits k + 1) + s.act (R.FB_XFER2.DATA_DLY.i k)) else s.after dt
      (s.xferEnd k).judgeFrame k t0 bad (if s.taken (fbBank k) then frame else frame.map fun _ => false)
  else s.after dt)

/-- SERIAL_TIMEOUT (R269): no edge has come within TM of the driver's release; the frame is bad. -/
def execSerialTimeout (dt k : Nat) (s : State) : Res :=
  let s := s.after dt
  needs (isFb k) (if s.fbRuns && s.fbMode k = 6 then
    match (s.fb k).xfer with
    | none => s
    | some (_, _, _, r) =>
      let s := s.runRim (r + s.reqLen k * s.bitTime k + 1000 * s.act (R.FB_XFER2.TM.i k))
      ((s.xferEnd k).flag (R.FB_FLAGS.TIMEOUT.i k)).badFrame k
  else s)

/-- A read of FB_LATCH_POS gives the latched position and clears LATCH_FULL (R281). -/
def State.latchRead (s : State) (k : Nat) : State × Nat :=
  ((s.wr (R.FB_LATCH_POS.VALUE.i k) 0).wr (R.FB_STAT.LATCH_FULL.i k) 0, s.rd (R.FB_LATCH_POS.VALUE.i k))

/-- FB_LATCH_POS_READ (R39, R40, R281). -/
def execFbLatchPosRead (dt : Nat) (r : Reader) (k : Nat) (s : State) : Res :=
  let s := s.after dt
  needs (isFb k && r.be < 16) (s.readAt r.src 21 (R.FB_LATCH_POS.VALUE.i k).addr r.be fun s => s.latchRead k)

/-- An accepted edge of capture input i triggers the position latches that name it (R281). -/
def State.capTriggers (s : State) (i : Nat) : State :=
  if s.fbRuns then
    forEach (List.range 16) (fun k s =>
      if s.rd (R.FB_LATCH_CFG.LATCH_SRC.i k) = 8 + i then s.fbTrigger k (s.capStamp i) else s) s
  else s

/-- FB_MOD has been written, or CMP_OUT may have changed: what the plain store of a word of channel k brings (R253, R263). -/
def State.fbStored (old s : State) (k off : Nat) : State :=
  if off = 0x14 then s.putFb k { s.fb k with modW := true } else old.fbPin s k

/-- What a commit copy of channel k does beyond taking its settings, from the state before it (R253, R263, R264, R271, R283): the next good frame sets REV to MT, Hall decoding begins, and a changed emulation starts at the count of its source. -/
def State.fbCommitted (old s : State) (k : Nat) : State :=
  let m := s.act (R.FB_MOD.MOD.i k)
  let f := s.fb k
  let s := s.putFb k { f with mtNew := true, modW := false }
  let s := if s.fbAbs k || (m = old.act (R.FB_MOD.MOD.i k) && !f.modW) then s
    else s.fbSet k (s.fbPos k) 0
  let s := if s.fbMode k = 2 then (if old.fbMode k = 2 then s.hallShow k else s.hallBegin k)
    else s.putFb k { s.fb k with badAt := none }
  let s := if s.actw (R.FB_PT.PT_MODE.i k).addr = old.actw (R.FB_PT.PT_MODE.i k).addr && s.ptMode k = old.ptMode k then s
    else s.putFb k { s.fb k with emu := s.emuGoal k, emuAt := s.tb.rim, zq := [] }
  let pm := s.act (R.FB_PT.PT_MODE.i k)
  let s := if (pm = 1 || pm = 2) && s.fbUsesOut k then s.flag (R.FB_FLAGS.PT_CONFLICT.i k) else s
  old.fbPin s k

/-- The channels begin to run at the end of BOOT (R254): those in Hall mode decode the accepted state. -/
def State.fbBegin (s : State) : State := forEach (List.range 16) (fun k s => if s.fbMode k = 2 then s.hallBegin k else s) s

end Sys2Proof.Machine
end

