-- ==== Sys2Proof/Machine/Power.lean ====
section
/-! DEFINITION. Core voltage (spec/20_electrical.md, R456 to R458, R481 to R483, R486): slack reports, the servo window, the VID walk, the jump hold, LIVE and the temperature sensors. -/

namespace Sys2Proof.Machine

/-- Output classes of VID, LIVE. -/
def outVid : Nat := 2
/-- The LIVE ball. -/
def outLive : Nat := 3

/-- The base voltage in mV (R456). -/
def State.vBase (s : State) : Nat := if s.rd R.PWR_VID.LOW_BASE = 1 then 550 else 585

/-- The code on the VID lines is set; VOLT_MV follows. -/
def State.setCode (s : State) (n : Nat) : State :=
  (s.wr R.PWR_VID.CODE n).wr R.PWR_VID.VOLT_MV (s.vBase + 5 * n)

/-- The target is set to the top code by a jump (R450, vector 14). -/
def State.targetTop (s : State) : State := (s.wr R.PWR_VID.TARGET 63).raiseInt 14

/-- BAND_LO in force: never above BAND_HI (R483). -/
def State.bandLo (s : State) : Nat := min (bits s.pwr.eff 23 16) (bits s.pwr.eff 31 24)
/-- JUMP_THR in force: never above BAND_LO (R483). -/
def State.jumpThr (s : State) : Nat := min (bits s.pwr.eff 15 8) s.bandLo

/-- A jump to the top code: counted and journalled where the target is not there already, and the hold starts anew (R37, R482). -/
def State.vidJump (s : State) : State :=
  let s := if s.rd R.PWR_VID.TARGET < 63 then
      ((s.targetTop.bump R.PWR_CNT.JUMPS R.PWR_CNT.OVF).flag R.PWR_SUPV.JUMP_SEEN).journal 6 0 true noUnit
    else s
  let s := s.wr R.PWR_SUPV.HOLD_TOP 1
  { s with pwr := { s.pwr with hold := some (s.tb.rim + 1000000 * max 1 (bits s.pwr.eff2 31 16)) } }

/-- A slack report in percent from a unit (R36, R482): src 0 a lane, 1 the solver, 2 a Serif task. -/
def State.slackReport (s : State) (src idx : Nat) (pct : Rat) : State :=
  let s := if pct < (s.jumpThr : Rat) then s.vidJump else s
  match s.pwr.wmin with
  | none => { s with pwr := { s.pwr with wmin := some (pct, src, idx) } }
  | some (w, _, _) => if pct ≤ w then { s with pwr := { s.pwr with wmin := some (pct, src, idx) } } else s

/-- The slack of a run in percent (R36): release and completion as ticks after the start. -/
def slackPct (release completion : Nat) : Rat := divQ (((release : Rat) - (completion : Rat)) * 100) (release : Rat)

/-- A slack as a whole percentage. DEDUCED (log 67) from the figures of R197, where 26.08 % reads 26 and 24.64 % reads 24: rounded down. -/
def slackInt (p : Rat) : Int := p.floor

/-- Length of the window in base periods. -/
def State.svWin (s : State) : Nat := max 1 (bits s.pwr.eff 7 0)

/-- A band step to a target, journalled where it changes the target (R437); the top code raises vector 14. -/
def State.bandStep (s : State) (n : Nat) : State :=
  if n = s.rd R.PWR_VID.TARGET then s
  else
    let s := (s.wr R.PWR_VID.TARGET n).journal 6 1 false noUnit
    if n = 63 then s.raiseInt 14 else s

/-- The step at a window end (R482, R483). -/
def State.windowEnd (s : State) : State :=
  let t := s.rd R.PWR_VID.TARGET
  let s : State := match s.pwr.wmin with
    | none => s
    | some (w, src, idx) =>
      let held := match s.pwr.hold with | some h => s.tb.rim < h | none => false
      let s : State := if held || s.pwr.vbad || s.rd R.PWR_VID.VBASE_ERR = 1 || s.mode = 0 then s
        else if w < (s.bandLo : Rat) then
          s.bandStep (min (t + 1) 63)
        else if (bits s.pwr.eff 31 24 : Rat) < w then s.bandStep (max (t - 1) (s.rd R.PWR_SERVO2.FLOOR))
        else s
      ((s.wrS R.PWR_SLACK.MIN_SLACK (slackInt w)).wr R.PWR_SLACK.SRC src).wr R.PWR_SLACK.INDEX idx
  { s with pwr := { s.pwr with wmin := none, eff := s.rdw 0x7F0010, eff2 := s.rdw 0x7F0014 } }

/-- SERVO_WINDOW_END (R482): the base boundary SV_WIN periods after the window began. -/
def execServoWindowEnd (s : State) : Res :=
  .next (if s.tb.run then
    let r := s.baseK % s.svWin
    let d := if r = 0 && s.tb.latB = s.now && s.pwr.winK ≠ s.baseK then 0 else s.svWin - r
    let s := s.runTo (add32 s.tb.latB (31250 * d))
    let s := s.windowEnd
    { s with pwr := { s.pwr with winK := add32 s.baseK d } }
  else s)

/-- VID_STEP (R456): the code goes one step toward the target, at least 1 µs after the last step; one line changes. -/
def execVidStep (s : State) : Res :=
  let c := s.rd R.PWR_VID.CODE
  let t := s.rd R.PWR_VID.TARGET
  .next (if s.tb.run && s.pwr.driven && c ≠ t then
    let s := s.runRim (s.pwr.stepAt + 1000)
    let n := if c < t then c + 1 else c - 1
    let line := Nat.log2 (Nat.xor (Nat.xor c (c / 2)) (Nat.xor n (n / 2)))
    let s := { s with pwr := { s.pwr with stepAt := s.tb.rim } }.setCode n
    s.emit (.edge outVid line s.now 0 (bit (Nat.xor n (n / 2)) line))
  else s)

/-- SV_HOLD_END (R482): the hold of the latest jump runs out. -/
def execSvHoldEnd (s : State) : Res :=
  .next (match s.pwr.hold with
    | none => s
    | some h => { (s.runRim h).wr R.PWR_SUPV.HOLD_TOP 0 with pwr := { s.pwr with hold := none } })

/-- The hottest of a list of readings and its sensor. -/
def hottest : List Int → Nat → Option (Int × Nat)
  | [], _ => none
  | x :: t, i =>
    match hottest t (i + 1) with
    | none => some (x, i)
    | some (y, j) => if x < y then some (y, j) else some (x, i)

/-- The upper limit of the grade in 0.5 °C (R2). -/
def State.tjMax (s : State) : Int := if s.rd R.DEV_PART.GRADE = 2 then 250 else 210

/-- TEMP_SENSE (R486): eight readings of 0.5 °C per bit. -/
def execTempSense (dt : Nat) (temps : List Int) (s : State) : Res :=
  let s := s.after dt
  needs (temps.length == 8) (match hottest temps 0 with
    | none => s
    | some (x, i) =>
      let s := (s.wrS R.PWR_TEMP.HOT x).wr R.PWR_TEMP.SENSOR i
      if s.tjMax < x then s.flag R.PWR_SUPV.TEMP_HI else s)

/-- Does LIVE toggle (R458)? -/
def State.liveRuns (s : State) : Bool :=
  s.alive && s.tb.run && !(s.rd R.LIVE_CFG.MODE == 1 && s.rd R.MOD_STAT.FOLIO_NONE == 1)

/-- LIVE_TOGGLE (R458): every 500,000 rim clocks from PLL lock. -/
def execLiveToggle (s : State) : Res :=
  .next (if s.liveRuns then
    let s := s.runRim ((s.tb.rim / 500000 + 1) * 500000)
    let l := s.rd R.LIVE_STAT.LEVEL == 0
    (((s.wrB R.LIVE_STAT.LEVEL l).wr R.LIVE_STAT.RUNNING 1)).emit (.edge outLive 0 s.now 0 l)
  else s.wr R.LIVE_STAT.RUNNING 0)

end Sys2Proof.Machine
end

