-- ==== Sys2Proof/Machine/RingBuf.lean ====
section
/-! DEFINITION. The node tables of a ring channel (R333 to R337) and its application buffers (R320, R327, R34) as the other units read and publish them. -/

namespace Sys2Proof.Machine

/-- The space that holds the node tables of channel ch (R333). -/
def schedSp (ch : Nat) : Nat := 1 + ch
/-- A little-endian schedule value of n bytes. -/
def State.sched (s : State) (ch o n : Nat) : Nat := s.memN n (schedSp ch) o

/-- SCHED_ID. -/
def State.schedId (s : State) (ch : Nat) : Nat := s.sched ch 0x00 4
/-- Own ADDR. -/
def State.ownAddr (s : State) (ch : Nat) : Nat := s.rd (R.IKL_CFG.ADDR.i ch)
/-- DCH. -/
def State.dch (s : State) (ch : Nat) : Nat := s.rd (R.IKL_CFG.DCH.i ch)
/-- NNODES. -/
def State.nNodes (s : State) (ch : Nat) : Nat := min 254 (s.rd (R.IKL_LEN.NNODES.i ch))
/-- CYCLE in ticks. -/
def State.cycle (s : State) (ch : Nat) : Nat := s.rd (R.IKL_CYC.VALUE.i ch)
/-- CYC_OFS in ticks. -/
def State.cycOfs (s : State) (ch : Nat) : Nat := s.rd (R.IKL_CYC_OFS.VALUE.i ch)
/-- Frame length. -/
def State.frLen (s : State) (ch : Nat) : Nat := s.rd (R.IKL_LEN.LEN.i ch)
/-- Segment entries in use. -/
def State.nSeg (s : State) (ch : Nat) : Nat := min 1024 (s.sched ch 0x12 2)
/-- FLAGS of the channel header. -/
def State.chFlags (s : State) (ch : Nat) : Nat := s.sched ch 0x16 1
/-- CS_ADDR. -/
def State.csAddr (s : State) (ch : Nat) : Nat := s.sched ch 0x18 2 % 4096

/-- ROLE of channel ch: 0 off, 1 leader, 2 node, 3 bridge upstream, 4 bridge downstream. -/
def State.role (s : State) (ch : Nat) : Nat :=
  let r := s.rd (R.IKL_CFG.ROLE.i ch)
  if 4 < r then 0 else r

/-- A segment entry (R336). -/
structure Seg where
  ofs : Nat
  len : Nat
  node : Nat
  typ : Nat
  flags : Nat
  buf : Nat
  rate : Nat
  phase : Nat
  alt : Nat
  deriving DecidableEq, Repr

/-- Segment entry i of channel ch. -/
def State.seg (s : State) (ch i : Nat) : Seg :=
  let b := 0x1100 + 0x10 * i
  let f := fun o n => s.sched ch (b + o) n
  ⟨f 0 2, f 2 2, f 4 2 % 4096, f 6 1, f 7 1, f 8 2, max 1 (f 0xA 1), f 0xB 1, f 0xC 2⟩

/-- Bytes of DATA in a segment (R315). -/
def Seg.data (g : Seg) : Nat := g.len - 16
/-- ESSENTIAL, READ and WRITE. -/
def Seg.essential (g : Seg) : Bool := bit g.flags 0
/-- READ. -/
def Seg.read (g : Seg) : Bool := bit g.flags 1
/-- WRITE. -/
def Seg.write (g : Seg) : Bool := bit g.flags 2

/-- The segment entries in use with their indices. -/
def State.segs (s : State) (ch : Nat) : List (Nat × Seg) := (List.range (s.nSeg ch)).map fun i => (i, s.seg ch i)

/-- The tables of channel ch take effect (R333, R334): the registers that show the channel header. -/
def State.takeTables (s : State) (ch : Nat) : State :=
  if !s.dom (17 + ch) then s
  else
    let h := s.sched ch
    let s := s.putRaw (R.IKL_CFG.ROLE.i ch).addr
      (min 7 (h 0x06 1) * p2 29 + h 0x16 1 % 2 * p2 28 + h 0x04 2 / 4096 * p2 24 + h 0x04 2 % 4096 * p2 12)
    let s := (s.wr (R.IKL_CYC.VALUE.i ch) (h 0x08 4)).wr (R.IKL_CYC_OFS.VALUE.i ch) (h 0x0C 4)
    s.putRaw (R.IKL_LEN.LEN.i ch).addr (h 0x07 1 * p2 16 + h 0x10 2 % p2 15)

/-- Application buffers of channel ch. -/
def State.appOf (s : State) (ch : Nat) : AppBuf := tget .zero s.app ch
/-- Replace the application buffers. -/
def State.putApp (s : State) (ch : Nat) (a : AppBuf) : State := { s with app := tput .zero s.app ch a }

/-- A little-endian word of n bytes in a table of bytes. -/
def bufN (b : List (Nat × Nat)) (n o : Nat) : Nat := leNat ((List.range n).map fun i => tget 0 b (o + i))
/-- Bytes put into a table. -/
def bufPut (b : List (Nat × Nat)) (o : Nat) : List Nat → List (Nat × Nat)
  | [] => b
  | x :: t => bufPut (tput 0 b o (x % 256)) (o + 1) t

/-- The buffer held by the sample latch of group g (R34). -/
def State.heldBuf (s : State) (ch g : Nat) : RBuf := tget .zero (s.appOf ch).held g

/-- The buffer that a latch takes now (R34): one completed on this tick is left to the next latch. -/
def AppBuf.fresh (a : AppBuf) (now : Nat) : RBuf := if a.doneAt = now then a.doneOld else a.done

/-- The latch of group g at a sample instant (R34). -/
def State.ringLatch (s : State) (g : Nat) : State :=
  forEach [0, 1] (fun ch s =>
    let a := s.appOf ch
    s.putApp ch { a with held := tput .zero a.held g (a.fresh s.now) }) s

/-- The region of a held buffer that holds a byte: its cycle number and stamp. -/
def State.regionAt (s : State) (ch : Nat) (b : RBuf) (o : Nat) : Option (Nat × Nat) :=
  ((s.segs ch).find? fun x => x.2.buf ≤ o && o < x.2.buf + x.2.data && b.regions.any (fun r => r.1 == x.1)).bind fun x =>
    (b.regions.find? fun r => r.1 == x.1).map (·.2)

/-- The present cycle number of channel ch. -/
def State.cycNum (s : State) (ch : Nat) : Nat := s.rd (R.IKL_CYCNUM.VALUE.i ch)

/-- The place of a lane word of a slot. -/
def State.wordOf (s : State) (n kind : Nat) : Option WordMap :=
  s.dev.cfg.words.find? fun w => w.slot == n && w.kind == kind

/-- A lane word in the buffers b of the channels: its 32 bits, its age in cycles and its stamp; none where it has no place or was never accepted. -/
def State.bufWord (s : State) (b : Nat → RBuf) (n kind : Nat) : Option (Nat × Nat × Nat) :=
  (s.wordOf n kind).bind fun w =>
    (s.regionAt w.ch (b w.ch) w.ofs).map fun r => (bufN (b w.ch).bytes 4 w.ofs, sub32 (s.cycNum w.ch) r.1, r.2)

/-- Is the invalid bit of a slot's position word set in the buffers b? -/
def State.bufInvalid (s : State) (b : Nat → RBuf) (n : Nat) : Bool :=
  match s.wordOf n 2 with
  | none => false
  | some w => bit (bufN (b w.ch).bytes 1 w.ofs) w.bitNo

/-- A lane word as latched for a group. -/
def State.ringWord (s : State) (n kind g : Nat) : Option (Nat × Nat × Nat) := s.bufWord (fun ch => s.heldBuf ch g) n kind

/-- The invalid bit of a slot's position word as latched for a group. -/
def State.ringInvalid (s : State) (n g : Nat) : Bool := s.bufInvalid (fun ch => s.heldBuf ch g) n

/-- A word or bit enters the buffer under construction (R327). -/
def State.ringPut (s : State) (w : WordMap) (v : Nat) : State :=
  let a := s.appOf w.ch
  let b := if w.kind = 11 then
      (let o := bufN a.build 1 w.ofs
       bufPut a.build w.ofs [setBits o w.bitNo w.bitNo v])
    else bufPut a.build w.ofs (leBytes 4 v)
  s.putApp w.ch { a with build := b }

/-- A released word of a slot is put where Composer placed it. -/
def State.laneOutWord (s : State) (n kind v : Nat) : State :=
  match s.wordOf n kind with
  | none => s
  | some w => s.ringPut w v

/-- An image of channel ch is published now (R33, R327). -/
def State.publishCh (s : State) (ch : Nat) : State :=
  let a := s.appOf ch
  s.putApp ch { a with pubs := (⟨a.build, s.now⟩ : OBuf) :: a.pubs.take 15 }

/-- Publication of both channels' images at an output phase (R33, R327). -/
def State.publish (s : State) : State := (s.publishCh 0).publishCh 1

/-- The image that a fetch takes: one published on this tick is left to the next fetch (R33). -/
def State.fetchImage (s : State) (ch : Nat) : Option OBuf := (s.appOf ch).pubs.find? fun p => p.at_ != s.now

end Sys2Proof.Machine
end

