-- ==== Sys2Proof/Machine/Spares.lean ====
section
/-! DEFINITION. The spare pool (R423, R428, R431, R432): units in and out of service, and free spares. -/

namespace Sys2Proof.Machine

/-- Is a unit retired or out of service, or did it come back on this very clock (R431)? -/
def State.unitGone (s : State) (u : Nat) : Bool :=
  s.spr.retired.contains u || s.spr.out.contains u || s.spr.back.contains (u, s.tb.boot)

/-- A unit leaves service and its test is requested (R428). -/
def State.unitFails (s : State) (u row : Nat) : State :=
  let s := if s.spr.out.contains u || s.spr.retired.contains u then s
    else { s with spr := { s.spr with out := u :: s.spr.out } }
  s.unitError u row

/-- The unit code of physical lane p. -/
def uLane (p : Nat) : Nat := 0x1000 + p
/-- The unit code of a solver tile. -/
def uTile (p : Nat) : Nat := 0x2000 + p
/-- The unit code of a feedback sampler. -/
def uSamp (p : Nat) : Nat := 0x3000 + p

/-- A free spare lane of quadrant q: the lowest that carries no slot and is in order. -/
def State.freeLane (s : State) (q : Nat) : Option Nat :=
  (List.range 42).map (42 * q + ·) |>.find? fun p =>
    !s.unitGone (uLane p) &&
      !((List.range 40).any fun i =>
        s.rd (R.AX_MAP.PHYS.i (40 * q + i)) == p && !s.spr.laneDead.contains (40 * q + i))

/-- The sampler that serves channel k. -/
def State.sampler (s : State) (k : Nat) : Nat := (s.spr.samp.find? fun x => x.1 == k).map (·.2) |>.getD k

/-- A free spare sampler. -/
def State.freeSamp (s : State) : Option Nat :=
  (List.range 18).find? fun p => !s.unitGone (uSamp p) && !((List.range 16).any fun k => s.sampler k == p)

/-- A bring-in takes a unit: a scheduled test of it ends without a verdict (R431). -/
def State.bringIn (s : State) (u : Nat) : State :=
  { s with spr := { s.spr with reqs := s.spr.reqs.filter fun r => !(r.unit == u && r.sched) } }.showTests

/-- Has a quadrant in use lost two logical tiles (R432)? -/
def State.tilesStopped (s : State) : Bool :=
  (List.range (s.rd R.RUL_CFG.QUADS)).any fun q =>
    2 ≤ ((List.range 16).filter fun t => s.unitGone (uTile (17 * q + tget t s.spr.tiles (16 * q + t)))).length

/-- Item SPR of R368 fails (R434). -/
def State.sprFails (s : State) : Bool :=
  !s.spr.laneDead.isEmpty || s.tilesStopped || (List.range 4).any (fun d => bit s.spr.serifDead d && s.dom (11 + d)) ||
    2 < ((List.range 4).filter (bit s.spr.scribeDead)).length ||
    s.spr.chanDead.any fun k => (List.range 160).any fun n =>
      s.act (R.AX_CFG.OUT_MODE.i n) != 0 &&
        ((s.act (R.AX_CFG.POS_RING.i n) == 0 && s.act (R.AX_SRC.POS_FB.i n) == k) ||
          (s.act (R.AX_CFG.VEL_SRC.i n) == 1 && s.act (R.AX_SRC.VEL_FB.i n) == k))

/-- Does the image use spare group g (R442)? -/
def State.groupUsed (s : State) (g : Nat) : Bool :=
  if g < 4 then s.dom (4 + g) else if g < 8 then s.dom (g - 4) else s.dom 21

/-- Retired rows of an SRAM macro. -/
def State.rowsGone (s : State) (mac : Nat) : Nat := (s.spr.rows.filter fun r => r.1 == mac).length

/-- REPLACE_ADVISE (R442). -/
def State.replaceAdvise (s : State) : Bool :=
  let left := fun g => s.rd (R.SPR_GROUP.LEFT.j g)
  (List.range 9).any (fun g => s.groupUsed g && left g == 0) || left 9 < 192 ||
    (s.spr.rows.any fun r => 8 ≤ s.rowsGone r.1) || left 10 == 0 ||
    s.rd R.SPR_WEAR.WEAR_LIMIT ≤ s.rd R.SPR_WEAR.WEAR_MV || 219150 ≤ s.rd R.SPR_AGE.VALUE

end Sys2Proof.Machine
end

