-- ==== Sys2Proof/Machine/Lanes.lean ====
section
/-! DEFINITION. Nib lanes (spec/09_nib_lanes.md): the lane run and its release, the current loop, overrun, axis faults, and migration to a spare. -/

namespace Sys2Proof.Machine

/-- The lane of slot n. -/
def State.lane (s : State) (n : Nat) : Lane := tget .zero s.lanes n
/-- Replace a lane. -/
def State.putLane (s : State) (n : Nat) (l : Lane) : State := { s with lanes := tput .zero s.lanes n l }

/-- The value of a block floating point coefficient (R229). -/
def State.coef (s : State) (f : Fld) : Rat := bfpVal (wordBfp (s.actw f.addr))

/-- OUT_MODE as it acts (R235). -/
def State.outMode (s : State) (n : Nat) : Nat :=
  let m := s.act (R.AX_CFG.OUT_MODE.i n)
  if m = 7 then 0 else m

/-- Is slot n a joint of a chain (R115, R116)? -/
def State.isJoint (s : State) (n : Nat) : Bool :=
  match s.queueOf n with
  | some c => s.rd (R.CHN_CFG.KIND.i c) == 0
  | none => false

/-- SP_SRC as it acts (R231). -/
def State.spSrc (s : State) (n : Nat) : Nat :=
  let x := s.act (R.AX_CFG.SP_SRC.i n)
  if 4 < x then 0
  else if s.isJoint n && (s.mode == 2 || s.mode == 3 || s.mode == 6 || s.mode == 7) then 0 else x

/-- Do lanes run in the present mode (R236)? -/
def State.lanesRun (s : State) : Bool :=
  s.alive && s.tb.run && (s.mode == 2 || s.mode == 3 || s.mode == 4 || s.mode == 6 || s.mode == 7)

/-- Does a physical lane carry slot n in a running mode, with a group and an output mode? -/
def State.laneOn (s : State) (n : Nat) : Bool :=
  s.lanesRun && s.dom (4 + n / 40) && s.outMode n != 0 && (s.axGroup n).isSome

/-- A block floating point word is shown in a register of MANT and EXP. -/
def State.showBfp (s : State) (f : Fld) (w : Bfp) : State := s.putRaw f.addr (bfpWord w)

/-! ### Axis faults (R244 to R246) -/

/-- Causes in the order of the bits of CAUSE: TRIP 0, LANE 1, PLIM 2, FB 3, OVR 4, FERR 5. -/
def cTrip : Nat := 0
/-- No spare lane. -/
def cLane : Nat := 1
/-- Position window. -/
def cPlim : Nat := 2
/-- Feedback. -/
def cFb : Nat := 3
/-- Overruns. -/
def cOvr : Nat := 4
/-- Following error. -/
def cFerr : Nat := 5

/-- The reaction field of a cause. -/
def reactF (c : Nat) : Fld :=
  if c = cFerr then R.AX_REACT.R_FERR else if c = cOvr then R.AX_REACT.R_OVR else if c = cFb then R.AX_REACT.R_FB
  else if c = cPlim then R.AX_REACT.R_PLIM else if c = cLane then R.AX_REACT.R_LANE else R.AX_REACT.R_TRIP

/-- The reaction to a cause: its strength (0 report, 1 axis stop, 2 torque off), and device hold. -/
def State.reaction (s : State) (n c : Nat) : Nat × Bool :=
  let r := s.act ((reactF c).i n)
  if c = cFb || c = cLane || c = cTrip then (2, r == 3)
  else (if r = 3 then 1 else r, r == 3)

/-- Torque off of an axis whose queue is HALTED already (R244): an axis stop that still brakes ends, and the generator holds its reference where it stands. -/
def State.holdHalted (s : State) (n : Nat) : State :=
  match s.queueOf n with
  | some c => if s.qState c = 6 then (s.putGen n { s.gen n with mot := none, vel := 0, acc := 0 }).showGen n else s
  | none => s

/-- Causes arise on slot n (R244): the fault is present, each cause is journalled, and the strongest reaction among them takes place. -/
def State.axisRaise (s : State) (n mask : Nat) : State :=
  let l := s.lane n
  let new := (List.range 6).filter fun c => bit mask c && !bit l.raised c
  if new.isEmpty then s
  else
    let s := s.putLane n { l with raised := l.raised ||| mask }
    let s := (s.wr (R.AX_STAT.FAULT.i n) 1).flag (R.AX_FLAGS.FLT_SEEN.i n)
    let s := s.inkEvent 3 n
    let s : State := forEach new (fun c s => s.journal 2 (16 + c) true noUnit) s
    let re := new.map fun c => s.reaction n c
    let lev : Nat := re.foldl (fun a r => max a r.1) 0
    let s := if lev = 2 then (s.putLane n { s.lane n with tqDue := true }).holdHalted n else s
    let s := if 1 ≤ lev then s.demandHaltOf n R.CHN_FLAGS.HALT_FAULT else s
    if re.any (·.2) then s.holdCause else s

/-- A lane memory in torque off: integrators and filter states at 0 (R244). -/
def memOff (m : LaneMem) : LaneMem :=
  { m with integ := .zero, xd := .zero, xq := .zero, s1 := LaneMem.zero.s1, s2 := LaneMem.zero.s2, out := .zero }

/-- A run with u = 0 (R244). -/
def runOff (r : LaneRun) : LaneRun := { r with sig := r.sig.set 6 .zero }

/-- Torque off takes effect at an output phase (R244): u and the states are 0, and a local bridge goes to its trip state. No current loop runs from here on, so its overruns in a row end. -/
def State.applyOff (s : State) (n : Nat) : State :=
  let l := s.lane n
  let s := s.putLane n { l with mem := memOff l.mem, snap := memOff l.snap, cl := none, clConsec := 0, tqDue := false, cmd := .zero, rel := l.rel.map runOff }
  let s := (s.wr (R.AX_STAT.TORQUE_OFF.i n) 1).showBfp (R.AX_INT.MANT.i n) .zero
  if s.rd (R.AX_CLCFG.CL_EN.i n) = 1 then
    let b := s.rd (R.AX_CLCFG.BRIDGE.i n)
    (s.showPb b).pbTrip b s.now
  else s

/-- The fault of slot n clears (R246); after torque off the generator holds at p_fb. -/
def State.axisClear (s : State) (n : Nat) (pfb : Int) : State :=
  let off := s.torqueOff n
  let l := s.lane n
  let s := s.putLane n { l with raised := 0, tqDue := false, rest := 0,
                                lastP := if off then pfb * 65536 else l.lastP, anP := if off then pfb * 65536 else l.anP }
  let s := (s.wr (R.AX_STAT.FAULT.i n) 0).wr (R.AX_STAT.TORQUE_OFF.i n) 0
  let s := if s.rd (R.AX_CLCFG.CL_EN.i n) = 1 then s.showPb (s.rd (R.AX_CLCFG.BRIDGE.i n)) else s
  if off then (s.putGen n { s.gen n with mot := none, pos := pfb * 65536, vel := 0, acc := 0 }).showGen n else s

/-! ### Feedback and set-points (R231 to R234) -/

/-- A ring word as a number: binary32, or Q16.16 if OUT_FMT = 1. -/
def State.ringVal (s : State) (n w : Nat) : Rat :=
  if s.act (R.AX_CFG.OUT_FMT.i n) = 1 then (sx 32 w : Rat) / 65536 else f32Dec w

/-- A number as a ring word. -/
def State.ringEnc (s : State) (n : Nat) (x : Rat) : Nat :=
  if s.act (R.AX_CFG.OUT_FMT.i n) = 1 then q16 x else f32 x

/-- Is the source of the raw velocity invalid (R234): a fault of the speed channel, or a ring velocity older than FB_AGE? -/
def State.velBad (s : State) (n g : Nat) : Bool :=
  let src := s.act (R.AX_CFG.VEL_SRC.i n)
  if src = 1 then s.rd (R.FB_STAT.FAULT.i (s.act (R.AX_SRC.VEL_FB.i n))) == 1
  else if src = 2 then
    match s.ringWord n 1 g with
    | some (_, age, _) => max 1 (s.act (R.AX_SRC.FB_AGE.i n)) < age
    | none => true
  else false

/-- The latched position feedback of slot n in group g: p_fb, its stamp, and whether it is invalid (R234). -/
def State.posFb (s : State) (n g : Nat) : Int × Nat × Bool :=
  let ofs := (s.gen n).ofs
  if s.act (R.AX_CFG.POS_RING.i n) = 0 then
    let k := s.act (R.AX_SRC.POS_FB.i n)
    (sx 32 (unsx 32 (sx 32 (s.fb k).latP + ofs)), (s.fb k).latAt, s.rd (R.FB_STAT.FAULT.i k) == 1)
  else
    match s.ringWord n 0 g with
    | some (w, age, st) =>
      (sx 32 (unsx 32 (sx 32 w + ofs)), st, max 1 (s.act (R.AX_SRC.FB_AGE.i n)) < age || s.ringInvalid n g)
    | none => ((s.lane n).mem.pfb, (s.lane n).mem.fbStamp, true)

/-- The feedback of slot n in group g: p_fb, its stamp, and whether its position or its velocity source makes it invalid (R234). -/
def State.laneFb (s : State) (n g : Nat) : Int × Nat × Bool :=
  let r := s.posFb n g
  (r.1, r.2.1, r.2.2 || s.velBad n g)

/-- The raw velocity of slot n (R233). -/
def State.rawVel (s : State) (n g : Nat) (pfb : Int) (stamp : Nat) : Rat :=
  let src := s.act (R.AX_CFG.VEL_SRC.i n)
  let l := s.lane n
  if src = 1 then f32Dec (s.fb (s.act (R.AX_SRC.VEL_FB.i n))).latV
  else if src = 2 then
    match s.ringWord n 1 g with
    | some (w, _, _) => s.ringVal n w
    | none => 0
  else if !l.has then 0
  else
    let dp := sx 32 (unsx 32 (pfb - l.mem.pfb))
    let dt := sub32 stamp l.mem.fbStamp
    if dt = 0 then Config.overZero dp else (dp : Rat) * secQ / (dt : Rat)

/-- A set-point: p_ref in 2^-16 increments, v_ref, a_ref, and whether it is stale. -/
structure SetPoint where
  p : Int
  v : Rat
  a : Rat
  stale : Bool
  deriving DecidableEq, Repr

/-- A set-point braked after loss of the leader (R352): v_ref goes to 0 at the stop deceleration. -/
def brakeStep (v p dec dt : Rat) : Rat × Rat :=
  let dv := min (absQ v) (dec * dt)
  let v' := if v < 0 then v + dv else v - dv
  (v', p + (v + v') / 2 * dt)

/-- The analogue value c of slot n (R231). -/
def State.analogue (s : State) (n : Nat) : Rat :=
  let k := s.act (R.AX_SRC.AN_SD.i n)
  let x := s.sdLatch (if 23 < k then 0 else k)
  let c := s.coef (R.AX_AN_GAIN.MANT.i n) * (x - s.coef (R.AX_AN_OFS.MANT.i n))
  if absQ c < s.coef (R.AX_AN_DB.MANT.i n) then 0 else c

/-- The set-point of slot n in group g at the present sample instant, with the lane that keeps what it needs next time (R231, R232). The goal of SP_SRC 2 is the step count times INC as they stand, whether or not a step has come since SP_SRC, INC or the count was set. -/
def State.setPoint (s : State) (n g : Nat) (pfb : Int) : SetPoint × Lane :=
  let l := s.lane n
  let per := 31250 * s.rgN g
  let stale : SetPoint × Lane := (⟨l.lastP, 0, 0, true⟩, l)
  match s.spSrc n with
  | 1 =>
    match l.brake with
    | some (v, p) =>
      let b := brakeStep v p (s.stopDec n) ((per : Rat) / secQ)
      (⟨rndAway (b.2 * 65536), b.1, 0, true⟩, { l with brake := some b, lastP := rndAway (b.2 * 65536) })
    | none =>
      match s.ringWord n 3 g with
      | none => stale
      | some (w, age, _) =>
        if max 1 (s.act (R.AX_SRC.SP_AGE.i n)) < age then stale
        else
          let f := fun k => match s.ringWord n k g with | some (x, _, _) => s.ringVal n x | none => 0
          let p := sx 32 w * 65536
          (⟨p, f 4, f 5, false⟩, { l with lastP := p })
  | 2 =>
    let x := l.step
    let goal : Rat := ((sx 32 (s.fbCpos (s.act (R.AX_STEP.SRC.i n))) * s.actS (R.AX_STEP.INC.i n) : Int) : Rat)
    let el := sub32 s.now x.t0
    let going := x.dt ≠ 0 && s.tb.rim - x.rim < p2 31 && el < x.dt
    let r : Rat := if going then x.base + (goal - x.base) * ((el : Rat) / (x.dt : Rat)) else goal
    let v : Rat := if going then (goal - x.base) * secQ / (x.dt : Rat) else 0
    let p := rndAway (r * 65536)
    (⟨p, v, 0, false⟩, { l with lastP := p })
  | 3 =>
    let c := s.analogue n
    if s.act (R.AX_CFG.AN_MODE.i n) = 1 then (⟨pfb * 65536, 0, 0, false⟩, { l with lastP := pfb * 65536 })
    else
      let p := l.anP + roundOpen (c * ((per : Rat) / secQ) * 65536)
      (⟨p, c, 0, false⟩, { l with anP := p, lastP := p })
  | 4 =>
    match l.sp with
    | none => stale
    | some x => if per < sub32 s.now x.at_ then stale else (⟨x.p, x.v, x.a, false⟩, { l with lastP := x.p })
  | _ =>
    let r := s.gen n
    (⟨r.pos, r.vel, r.acc, false⟩, { l with lastP := r.pos })

/-! ### The lane run (R227 to R230, R235) -/

/-- What a run computes: memory left behind, VSAT, saturation of a stage, signals 0x04 to 0x0B, the released value, and the ring words. -/
structure RunOut where
  next : LaneMem
  vsat : Bool
  bsat : Bool
  sig : List Bfp
  out : Bfp
  words : List Nat
  deriving DecidableEq, Repr

/-- Coefficient i of filter section k. -/
def fltF (n k i : Nat) : Fld :=
  ((if i = 0 then R.AX_FLT_B0.MANT else if i = 1 then R.AX_FLT_B1.MANT else if i = 2 then R.AX_FLT_B2.MANT
    else if i = 3 then R.AX_FLT_A1.MANT else R.AX_FLT_A2.MANT).i n).j k

/-- The filter cascade (R228): the output, the states and whether a section saturated. -/
def State.filters (s : State) (n nf : Nat) (x : Rat) (m : LaneMem) : List Nat → Rat × List Bfp × List Bfp × Bool
  | [] => (x, [], [], false)
  | k :: t =>
    if nf ≤ k then
      let r := s.filters n nf x m t
      (r.1, .zero :: r.2.1, .zero :: r.2.2.1, r.2.2.2)
    else
      let c := fun i => s.coef (fltF n k i)
      let s1 := bfpVal (bAt m.s1 k)
      let s2 := bfpVal (bAt m.s2 k)
      let y := carry56 (c 0 * x + s1)
      let q := normStage [carry56 (c 1 * x - c 3 * y + s2), carry56 (c 2 * x - c 4 * y), y]
      let r := s.filters n nf (bfpVal (bAt q.1 2)) m t
      (r.1, bAt q.1 0 :: r.2.1, bAt q.1 1 :: r.2.2.1, q.2 || r.2.2.2)

/-- ep after conversion (R230): exact below 2^23 increments, rounded beyond. -/
def epConv (ep : Rat) : Rat := if absQ ep < ((p2 23 : Nat) : Rat) then ep else bfpVal (bfpOf ep)

/-- The velocity-loop run of slot n (R227), whose set-point velocity, acceleration and raw velocity are block floating point words (R229) and whose sums are carried in 56 bits (R230), on a set-point, its following error in increments, the raw velocity, and the period in s. -/
def State.laneCompute (s : State) (n : Nat) (m : LaneMem) (sp : SetPoint) (ep raw per : Rat) (an : Option Rat) (amp : Option Rat) : RunOut :=
  let om := s.outMode n
  let co := fun (f : Fld) => s.coef (f.i n)
  let vfb0 := bfpVal m.vfb
  let vref := bfpOf sp.v
  let vfb := bfpOf (carry56 (vfb0 + co R.AX_VLP.MANT * carry56 (bfpVal (bfpOf raw) - vfb0)))
  let vlim := co R.AX_VLIM.MANT
  let epc := epConv ep
  let vraw := carry56 (co R.AX_KVF.MANT * bfpVal vref + co R.AX_KP.MANT * epc)
  let vsat := vlim < absQ vraw
  let q1 := normStage [epc, clampQ vraw (-vlim) vlim]
  let vcmd := bAt q1.1 1
  let delta : Rat := if s.spSrc n = 0 && s.isJoint n then ((tget (0 : Int) s.delta n : Int) : Rat) / ((p2 21 : Nat) : Rat) else 0
  let ff := co R.AX_KAF.MANT * carry56 (bfpVal (bfpOf sp.a) + co R.AX_DSCALE.MANT * delta)
  if om = 1 || om = 2 then
    let q5 := normStage [ff]
    let f := bAt q5.1 0
    let sig := [vref, vfb, vcmd, .zero, m.integ, .zero, .zero, f]
    let w := if om = 1 then [unsx 32 (sp.p / 65536), s.ringEnc n (bfpVal vref), s.ringEnc n (bfpVal f)]
      else [s.ringEnc n (bfpVal vcmd), s.ringEnc n (bfpVal f)]
    ⟨{ m with vfb := vfb }, vsat, q1.2 || q5.2, sig, if om = 1 then f else vcmd, w⟩
  else
    let tlim := co R.AX_TLIM.MANT
    let ilim := min (co R.AX_ILIM.MANT) tlim
    let ev := carry56 (bfpVal vcmd - bfpVal vfb)
    let i0 := bfpVal m.integ
    let i1 := if m.sat then i0 else clampQ (carry56 (i0 + co R.AX_KI.MANT * ev * per)) (-ilim) ilim
    let q2 := normStage [ev, i1, carry56 (co R.AX_KV.MANT * ev + i1)]
    let fl := s.filters n (min 4 (s.act (R.AX_CFG.NFILT.i n))) (bfpVal (bAt q2.1 2)) m [0, 1, 2, 3]
    let u0 := match an with | some c => c | none => carry56 (fl.1 + ff)
    let u1 := match amp with | some a => a | none => clampQ u0 (-tlim) tlim
    let q5 := normStage [ff, u1]
    let u := bAt q5.1 1
    let sat := amp.isNone && tlim < absQ u0
    let sig := [vref, vfb, vcmd, bAt q2.1 0, bAt q2.1 1, bAt q2.1 2, u, bAt q5.1 0]
    ⟨{ m with integ := bAt q2.1 1, s1 := fl.2.1, s2 := fl.2.2.1, vfb := vfb, sat := sat, out := u },
     vsat, q1.2 || q2.2 || fl.2.2.2 || q5.2, sig, u, [s.ringEnc n (bfpVal u)]⟩

/-! ### The sample instant (rows 3 and 6 of R27) -/

/-- From the sample instant after its failure a free spare of the quadrant runs the slot of a failed lane (R247); it took the snapshot before that instant, so a commit copy of the instant acts on what the spare holds. -/
def State.migrate (s : State) (n : Nat) : State :=
  let l := s.lane n
  if !l.failed then s
  else
    let s := s.putLane n { l with failed := false, cl := none }
    match s.freeLane (n / 40) with
    | some p => ((s.bringIn (uLane p)).wr (R.AX_MAP.PHYS.i n) p).flag (R.AX_FLAGS.MIGRATED.i n)
    | none => { s.flag R.SPR_FLAGS.EXHAUSTED with spr := { s.spr with laneDead := n :: s.spr.laneDead } }

/-- OVR_N as it acts. -/
def State.ovrN (s : State) (n : Nat) : Nat := max 1 (s.act (R.AX_REACT.OVR_N.i n))

/-- The causes present at a run of slot n (R244). -/
def State.axisCauses (s : State) (n : Nat) (ep : Rat) (pfb : Int) (invalid : Bool) : Nat :=
  let fm := s.act (R.AX_FERR.FERR_MAX.i n)
  let ferr := fm ≠ 0 && (fm : Rat) < absQ ep
  let plim := s.softOn n && (pfb < s.actS (R.AX_PLIM_N.LIMIT.i n) || s.actS (R.AX_PLIM_P.LIMIT.i n) < pfb)
  let late := s.ovrN n ≤ s.rd (R.AX_STAT.CONSEC.i n) || s.ovrN n ≤ (s.lane n).clConsec
  let trip := s.rd (R.AX_CLCFG.CL_EN.i n) == 1 && s.rd (R.PB_STAT.TRIP_ACT.i (s.rd (R.AX_CLCFG.BRIDGE.i n))) == 1
  b2n trip + 2 * b2n (s.spr.laneDead.contains n) + 4 * b2n plim + 8 * b2n invalid + 16 * b2n late + 32 * b2n ferr

/-- HOLD_SAFE (R245): torque off once the reference has rested for one group period in HOLD. -/
def State.holdSafe (s : State) (n : Nat) (sp : SetPoint) : State :=
  let l := s.lane n
  if s.mode ≠ 6 || s.act (R.AX_CFG.HOLD_SAFE.i n) = 0 || sp.v ≠ 0 || sp.a ≠ 0 then
    (if l.rest = 0 then s else s.putLane n { l with rest := 0 })
  else s.putLane n { l with rest := l.rest + 1, tqDue := l.tqDue || (1 ≤ l.rest && s.rd (R.AX_STAT.TORQUE_OFF.i n) == 0) }

/-- The integrator reset of R242 at a velocity-loop run. -/
def State.intReset (s : State) (n : Nat) : State :=
  if s.rd (R.AX_CTRL.INT_RST.i n) = 0 then s
  else
    let l := s.lane n
    (s.wr (R.AX_CTRL.INT_RST.i n) 0).putLane n { l with mem := { l.mem with integ := .zero } }

/-! ### Sources of the limit inputs (R140, R141) -/

/-- The ring input segment of an axis: its channel, its index and its place in the incoming buffer. -/
def State.inSeg (s : State) (n : Nat) : Option (Nat × Nat × Nat) :=
  (s.dev.cfg.words.find? fun w => w.slot == n && w.kind < 8).bind fun w =>
    ((s.segs w.ch).find? fun x => x.2.buf ≤ w.ofs && w.ofs < x.2.buf + x.2.data).map fun x => (w.ch, x.1, x.2.buf)

/-- The ring input segment bit that a source code selects: its channel, the stamp of the segment, and its level. -/
def State.ringLim (s : State) (n code : Nat) : Option (Nat × Nat × Bool) :=
  (s.inSeg n).bind fun g =>
    let b := (s.appOf g.1).done
    (b.regions.find? fun r => r.1 == g.2.1).map fun r => (g.1, r.2.2, bit (bufN b.bytes 1 (g.2.2 + (code - 0x80) / 8)) ((code - 0x80) % 8))

/-- An incoming buffer of channel ch is complete: the limit inputs that take its bits follow. -/
def State.limRing (s : State) (ch : Nat) : State :=
  forEach (List.range 160) (fun n s => forEach [0, 1, 2] (fun w s =>
    let c := (s.limSrc n w).1
    if c < 0x80 then s
    else match s.ringLim n c with
      | some x => if x.1 = ch then s.limEdge n w x.2.1 x.2.2 else s
      | none => s) s) s

/-- A commit copy of the settings of axis n: the limit inputs show the levels of the sources then in force; one without a level is inactive. -/
def State.stkCommitted (s : State) (n : Nat) : State :=
  forEach [0, 1, 2] (fun w s =>
    let c := s.limSrc n w
    if 0x80 ≤ c.1 then
      match s.ringLim n c.1 with
      | some x => s.limEdge n w x.2.1 x.2.2
      | none => s.limEdge n w s.now (c.2 == 1)
    else s.limEdge n w s.now (bit (s.rd (R.FB_STAT.AUX.i ((c.1 - 1) / 3))) ((c.1 - 1) % 3))) s

/-- LIMIT_EDGE (R140, R141): an accepted level of the auxiliary input of a local source, for every unit that uses it, or of a ring segment bit; an auxiliary input whose bank is down is 0 (R468). -/
def execLimitEdge (dt n which : Nat) (level : Bool) (s : State) : Res :=
  let s := s.after dt
  let c := (s.limSrc n which).1
  needs (isAxis n && which < 3) (if s.alive && s.mode != 0 && s.dom 10 then
    if 0x80 ≤ c then s.limEdge n which (((s.ringLim n c).map (·.2.1)).getD s.now) level
    else if limUsed c && s.fbRuns then
      let k := (c - 1) / 3
      let old := s.rd (R.FB_STAT.AUX.i k)
      let new := setBits old ((c - 1) % 3) ((c - 1) % 3) (b2n (level && s.taken (fbBank k)))
      if old = new then s else s.fbAux k old new
    else s
  else s)

/-- The amplitude of OUT_MODE 5: I_RUN, or I_HOLD once v_ref has been 0 for 100 ms (R235). -/
def State.stepperAmp (s : State) (n : Nat) (zeroNs : Nat) : Option Rat :=
  if s.outMode n = 5 then
    some (if 100000000 ≤ zeroNs then s.coef (R.AX_I_HOLD.MANT.i n) else s.coef (R.AX_I_RUN.MANT.i n))
  else none

/-- The run of slot n starts at a sample instant of group g (row 6 of R27). -/
def State.laneStart (s : State) (n g : Nat) : State :=
  let s := s.migrate n
  let fb := s.laneFb n g
  let pfb := fb.1
  let s := s.idleTake n pfb
  let s := s.limInterp n fb.2.1 pfb
  let raw := s.rawVel n g pfb fb.2.1
  let x := s.setPoint n g pfb
  let s := s.putLane n { x.2 with mem := { x.2.mem with pfb := pfb, fbStamp := fb.2.1 } }
  let epOf := fun (p : Int) => sx 48 (unsx 48 (p - pfb * 65536))
  let ep0 := epOf x.1.p
  let causes := s.axisCauses n ((ep0 : Rat) / 65536) pfb fb.2.2
  let clr := s.rd (R.AX_CTRL.FLT_CLR.i n) == 1
  let faulty := s.rd (R.AX_STAT.FAULT.i n) == 1 || s.torqueOff n
  let s := if clr then s.wr (R.AX_CTRL.FLT_CLR.i n) 0 else s
  let cleared := clr && faulty && causes == 0
  let wasOff := s.torqueOff n
  let s := if cleared then s.axisClear n pfb
    else if clr && faulty then s.flag (R.AX_FLAGS.CLR_REFUSED.i n) else s
  let sp : SetPoint := if cleared && wasOff then ⟨pfb * 65536, 0, 0, x.1.stale⟩ else x.1
  let ep := epOf sp.p
  let was := s.rd (R.AX_STAT.SP_STALE.i n) == 1
  let s := if sp.stale && !was then s.flag (R.AX_FLAGS.STALE_SEEN.i n) else s
  let s := ((s.wrB (R.AX_STAT.SP_STALE.i n) sp.stale).wrB (R.AX_STAT.FB_INVALID.i n) fb.2.2).wr (R.AX_STAT.CAUSE.i n) causes
  let s := (s.wr (R.AX_FB_POS.VALUE.i n) (unsx 32 pfb)).wr (R.AX_EP.VALUE.i n)
    (unsx 32 (clampI (truncQ ((ep : Rat) / 65536)) (-((p2 31 : Int) - 1)) ((p2 31 : Int) - 1)))
  let s := (s.axisRaise n causes).holdSafe n sp
  let s := s.intReset n
  let per := 31250 * s.rgN g
  let l := s.lane n
  let vz := if sp.v = 0 then l.vzero + per else 0
  let l := { l with vzero := vz, has := true }
  if s.spr.laneDead.contains n then s.putLane n { l with run := none }
  else
    let an := if s.spSrc n = 3 && s.act (R.AX_CFG.AN_MODE.i n) = 1 then some (s.analogue n) else none
    let r := s.laneCompute n l.mem sp ((ep : Rat) / 65536) raw ((per : Rat) / secQ) an (s.stepperAmp n (vz - per))
    let next := { r.next with pfb := pfb, fbStamp := fb.2.1, outWords := r.words, out := r.out }
    s.putLane n { l with run := some (LaneRun.mk s.now (add32 s.now (s.rgOfs g)) none false next r.vsat r.bsat r.sig sp.p ep pfb
      (if s.isJoint n then tget (0 : Int) s.delta n else 0) (s.outMode n) r.words) }

/-- The lanes of every group whose boundary is base index k start. -/
def State.lanesStart (s : State) (k : Nat) : State :=
  forEach (List.range 160) (fun n s =>
    match s.axGroup n with
    | some g => if s.rgAt g k && s.laneOn n then s.laneStart n g else s
    | none => s) s

/-! ### Completion and release (R36, R235, R243, R247) -/

/-- The present tick as ticks after an instant. -/
def State.since (s : State) (t : Nat) : Nat := sub32 s.now t

/-- LANE_RUN_COMPLETE (R36, R243) of a velocity-loop run, or of a current-loop run (cur). -/
def execLaneRunComplete (dt slot : Nat) (cur : Bool) (s : State) : Res :=
  let s := s.after dt
  needs (isAxis slot) (
    let l := s.lane slot
    if !s.laneOn slot then s
    else if cur then
      match l.cl with
      | some r =>
        let due := add32 r.start (s.rd (R.AX_CLCFG.CL_OFS.i slot))
        if r.done.isSome || s.since r.start ≥ sub32 due r.start then s
        else
          let s := s.putLane slot { l with
            cl := some { r with done := some s.now }, clRel := some r, clConsec := 0,
            mem := { l.mem with xd := r.xd, xq := r.xq, csat := r.csat } }
          let s := s.wrB (R.AX_STAT.CSAT.i slot) r.csat
          if r.bsat then s.flag (R.AX_FLAGS.BFP_SAT.i slot) else s
      | none => s
    else
      match l.run with
      | some r =>
        let d := s.since r.start
        let ofs := sub32 r.due r.start
        if r.done.isSome || r.err || ofs ≤ d then s
        else
          let s := s.putLane slot { l with run := some { r with done := some s.now } }
          let s := ((s.wr (R.AX_STAT.CONSEC.i slot) 0).wrB (R.AX_STAT.SAT.i slot) r.next.sat).wrB (R.AX_STAT.VSAT.i slot) r.vsat
          let s := if r.bsat then s.flag (R.AX_FLAGS.BFP_SAT.i slot) else s
          let s := (s.wrS (R.AX_TIME.SLACK.i slot) (slackInt (slackPct ofs d))).wrU (R.AX_TIME.DONE.i slot) d
          s.slackReport 0 slot (slackPct ofs d)
      | none => s)

/-- An overrun of either loop of slot n is counted (R243). -/
def State.laneOver (s : State) (n : Nat) : State :=
  ((s.bump (R.AX_CNT.LANE_OVR.i n) (R.AX_FLAGS.OVR_OVF.i n)).flag (R.AX_FLAGS.OVR.i n)).inkEvent 4 n

/-- A velocity-loop run that is not complete is abandoned (R243). -/
def State.abandon (s : State) (n : Nat) : State :=
  let c := min (s.rd (R.AX_STAT.CONSEC.i n) + 1) (s.ovrN n)
  let s := (s.laneOver n).wr (R.AX_STAT.CONSEC.i n) c
  let s := (s.wr (R.AX_TIME.SLACK.i n) 0xFF).wr (R.AX_TIME.DONE.i n) 0x3FFFF
  let s := s.slackReport 0 n (-1)
  if c = s.ovrN n then
    (s.wr (R.AX_STAT.CAUSE.i n) (s.rd (R.AX_STAT.CAUSE.i n) ||| 16)).axisRaise n 16
  else s

/-- The words of a release leave for the ring (R235, R244). -/
def State.laneWords (s : State) (n mode : Nat) (w : List Nat) : State :=
  let off := s.torqueOff n
  let w := if off && mode = 3 then w.map fun _ => 0 else w
  let s : State := if mode = 1 || mode = 2 || mode = 3 then
      forEach (w.zipIdx) (fun x s => s.laneOutWord n (8 + x.2) x.1) s
    else s
  s.laneOutWord n 11 (b2n !off)

/-- The release of slot n at its output phase (R235, R236, R243, R247). -/
def State.laneRelease (s : State) (n : Nat) : State :=
  let l := s.lane n
  match l.run with
  | none =>
    let s := if l.tqDue then s.applyOff n else s
    if s.driven && s.torqueOff n then s.laneWords n (s.outMode n) l.mem.outWords else s
  | some r =>
    let s := s.putLane n { l with run := none }
    let s : State :=
      if r.err then (s.putLane n { s.lane n with mem := l.snap }).bump (R.AX_CNT.LANE_ERR.i n) (R.AX_FLAGS.ERR_OVF.i n)
      else if r.done.isNone then s.abandon n
      else
        let m := { r.next with xd := l.mem.xd, xq := l.mem.xq, csat := l.mem.csat }
        let m := if s.torqueOff n then memOff m else m
        let s := s.putLane n { s.lane n with mem := m, snap := m, rel := some (if s.torqueOff n then runOff r else r), cmd := m.out }
        (s.showBfp (R.AX_INT.MANT.i n) m.integ).showBfp (R.AX_FB_VEL.MANT.i n) m.vfb
    let s := if (s.lane n).tqDue then s.applyOff n else s
    let l := s.lane n
    let s := s.showBfp (R.AX_OUT.MANT.i n) l.mem.out
    if s.driven then s.laneWords n r.mode l.mem.outWords else s

/-- Every lane of group g releases, and the images of both channels are published (row 1 of R27). -/
def State.releaseGroup (s : State) (g : Nat) : State :=
  let s : State := forEach (List.range 160) (fun n s =>
    if s.axGroup n = some g && s.laneOn n then s.laneRelease n else s) s
  if s.driven then s.publish else s

/-- A lane that carries a slot detects an error (R247): it leaves service, its run counts as failed, and its current-loop runs stop. -/
def State.laneErr (s : State) (slot : Nat) : State :=
  let l := s.lane slot
  if !s.laneOn slot || s.spr.laneDead.contains slot then s
  else
    let s := s.unitFails (uLane (s.rd (R.AX_MAP.PHYS.i slot))) 0
    let s := s.putLane slot { l with failed := true, cl := none, run := l.run.map fun r => { r with err := true },
                                     mem := if l.run.isSome then l.mem else l.snap }
    if l.run.isSome then s else s.bump (R.AX_CNT.LANE_ERR.i slot) (R.AX_FLAGS.ERR_OVF.i slot)

/-- LANE_ERROR (R247): the run in progress is lost, the current loop stops, and the physical lane goes to its test. -/
def execLaneError (dt slot : Nat) (s : State) : Res :=
  let s := s.after dt
  needs (isAxis slot) (s.laneErr slot)

/-! ### The current loop (R237 to R239) -/

/-- The angle of ANG_SRC with its offset, in 2^-32 turn. -/
def State.clAngle (s : State) (n : Nat) : Nat :=
  let src := s.act (R.AX_CLCFG.ANG_SRC.i n)
  let poles := max 1 (s.act (R.AX_CLCFG.POLES.i n))
  let k := s.act (R.AX_SRC.POS_FB.i n)
  let a : Nat := if src = 1 then s.rd (R.FB_ANGLE.ANGLE.i k) * p2 16
    else if src = 2 then (s.gen n).msAng * p2 22
    else (roundOpen (((poles * s.fbPos k * p2 32 : Nat) : Rat) / ((s.fbMod k : Nat) : Rat))).toNat
  (a + s.act (R.AX_ANG.ANG_OFS.i n) * p2 16) % p2 32

/-- The phase currents of bridge b (R305). -/
def State.currents (s : State) (b : Nat) : Rat × Rat × Rat :=
  let ia := s.current (s.pbAct b (R.PB_SENSE.IA.i b))
  let ib := s.current (s.pbAct b (R.PB_SENSE.IB.i b))
  let c := s.pbAct b (R.PB_SENSE.IC.i b)
  (ia, ib, if c = 0x1F then -ia - ib else s.current c)

/-- Space vector modulation with min-max injection: the three modulation indices. -/
def svm (va vb vc : Rat) : List Rat :=
  let v0 := -(max va (max vb vc) + min va (min vb vc)) / 2
  [va + v0, vb + v0, vc + v0]

/-- The electrical speed from v_fb and POLES (R238). DEDUCED (log 27): in rad/s, one turn of the channel's modulo being one turn of the shaft, as for the electrical angle. -/
def elecSpeed (v : Rat) (poles m : Nat) : Rat := 2 * piQ * (poles : Rat) * v / (m : Rat)

/-- The current-loop run of OUT_MODE 4 (R238). -/
def State.clRun4 (s : State) (n b : Nat) : ClRun :=
  let l := s.lane n
  let co := fun (f : Fld) => s.coef (f.i n)
  let th := s.clAngle n
  let c := cosTurn th
  let sn := sinTurn th
  let r3 := sqrtQ 3
  let i := s.currents b
  let ial := (2 * i.1 - i.2.1 - i.2.2) / 3
  let ibe := divQ (i.2.1 - i.2.2) r3
  let idd := bfpVal (bfpOf (ial * c + ibe * sn))
  let iq := bfpVal (bfpOf (ibe * c - ial * sn))
  let tc : Rat := ((s.clPer n : Nat) : Rat) / secQ
  let mi := co R.AX_MI_MAX.MANT
  let ed := carry56 (co R.AX_ID_REF.MANT - idd)
  let eq := carry56 (bfpVal l.cmd - iq)
  let x := fun (w : Bfp) (e : Rat) => if l.mem.csat then bfpVal w else clampQ (carry56 (bfpVal w + co R.AX_CKI.MANT * e * tc)) (-mi) mi
  let xd := x l.mem.xd ed
  let xq := x l.mem.xq eq
  let dec : Rat := if s.on (R.AX_CFG.DECOUP.i n) then 1 else 0
  let om := elecSpeed (bfpVal l.mem.vfb) (max 1 (s.act (R.AX_CLCFG.POLES.i n))) (s.fbMod (s.act (R.AX_SRC.POS_FB.i n)))
  let ls := co R.AX_LS.MANT
  let ckp := co R.AX_CKP.MANT
  let vd0 := carry56 (ckp * ed + xd - dec * om * ls * iq)
  let vq0 := carry56 (ckp * eq + xq + dec * om * ls * idd)
  let vd := clampQ vd0 (-mi) mi
  let vm := sqrtQ (mi * mi - vd * vd)
  let vq := clampQ vq0 (-vm) vm
  let q := normStage [ed, eq, xd, xq, vd, vq]
  let vdr := bfpVal (bAt q.1 4)
  let vqr := bfpVal (bAt q.1 5)
  let va := vdr * c - vqr * sn
  let vb := vdr * sn + vqr * c
  let m := svm va (-va / 2 + r3 / 2 * vb) (-va / 2 - r3 / 2 * vb)
  ⟨s.now, none, bAt q.1 2, bAt q.1 3, vd ≠ vd0 || vq ≠ vq0, q.2, m.map (s.onOf b),
   [bfpOf idd, bfpOf iq, bAt q.1 4, bAt q.1 5], th⟩

/-- The current-loop run of OUT_MODE 5 (R239): one PI per phase. -/
def State.clRun5 (s : State) (n b : Nat) : ClRun :=
  let l := s.lane n
  let co := fun (f : Fld) => s.coef (f.i n)
  let th := (s.gen n).msAng * p2 22 % p2 32
  let amp := bfpVal l.cmd
  let i := s.currents b
  let tc : Rat := ((s.clPer n : Nat) : Rat) / secQ
  let mi := co R.AX_MI_MAX.MANT
  let ia := bfpVal (bfpOf i.1)
  let ib := bfpVal (bfpOf i.2.1)
  let ea := carry56 (amp * cosTurn th - ia)
  let eb := carry56 (amp * sinTurn th - ib)
  let x := fun (w : Bfp) (e : Rat) => if l.mem.csat then bfpVal w else clampQ (carry56 (bfpVal w + co R.AX_CKI.MANT * e * tc)) (-mi) mi
  let xa := x l.mem.xd ea
  let xb := x l.mem.xq eb
  let va0 := carry56 (co R.AX_CKP.MANT * ea + xa)
  let vb0 := carry56 (co R.AX_CKP.MANT * eb + xb)
  let va := clampQ va0 (-mi) mi
  let vb := clampQ vb0 (-mi) mi
  let q := normStage [ea, eb, xa, xb, va, vb]
  ⟨s.now, none, bAt q.1 2, bAt q.1 3, va ≠ va0 || vb ≠ vb0, q.2,
   [s.onOf b (bfpVal (bAt q.1 4)), s.onOf b (bfpVal (bAt q.1 5)), 8 * s.pbPer b],
   [bfpOf i.1, bfpOf i.2.1, bAt q.1 4, bAt q.1 5], th⟩

/-- Does slot n run a current loop now? -/
def State.clOn (s : State) (n : Nat) : Bool :=
  s.laneOn n && s.dom 21 && s.rd (R.AX_CLCFG.CL_EN.i n) == 1 && (s.outMode n == 4 || s.outMode n == 5)

/-- CURRENT_LOOP_INSTANT (R25, R237): the next instant of the slot's current loop; its channels latch and its run starts, but not in torque off nor on a failed lane. -/
def execCurrentLoopInstant (slot : Nat) (s : State) : Res :=
  needs (isAxis slot) (if s.clOn slot && s.dev.rgIn then
    match s.axGroup slot with
    | none => s
    | some g =>
      let s := s.runTo (s.nextInst (s.lane slot).clAt (s.rgAnchor g) (s.clPer slot) 0)
      let s : State := forEach (List.range 16) (fun k s =>
        if s.rd (R.FB_CFG.OWNER.i k) = slot then s.fbLatch k else s) s
      let l := { s.lane slot with clAt := some s.now }
      let s := s.putLane slot l
      if l.failed || s.spr.laneDead.contains slot || s.torqueOff slot then s.putLane slot { l with cl := none }
      else
        let l := if l.clRst then { l with clRst := false, mem := { l.mem with xd := .zero, xq := .zero } } else l
        let s := s.putLane slot l
        let b := s.rd (R.AX_CLCFG.BRIDGE.i slot)
        s.putLane slot { l with cl := some (if s.outMode slot = 4 then s.clRun4 slot b else s.clRun5 slot b) }
  else s)

/-- DUTY_WRITE (R237, R243): CL_OFS ticks after the instant the run's duties and GO are written, or the run is abandoned. -/
def execDutyWrite (slot : Nat) (s : State) : Res :=
  needs (isAxis slot) (match (s.lane slot).cl with
    | none => s
    | some r =>
      if !s.clOn slot then s
      else
        match s.reach (add32 r.start (s.rd (R.AX_CLCFG.CL_OFS.i slot))) with
        | none => s
        | some s =>
          let l := s.lane slot
          if r.done.isSome then
            let s := s.putLane slot { l with cl := none }
            if s.driven && !s.torqueOff slot then s.dutyLane (s.rd (R.AX_CLCFG.BRIDGE.i slot)) r.on else s
          else
            let c := min (l.clConsec + 1) (s.ovrN slot)
            let s := s.laneOver slot
            let s := s.putLane slot { s.lane slot with cl := none, clConsec := c }
            if c = s.ovrN slot then
              (s.wr (R.AX_STAT.CAUSE.i slot) (s.rd (R.AX_STAT.CAUSE.i slot) ||| 16)).axisRaise slot 16
            else s)

/-! ### Control writes (R242, R246) and commit copies (R241) -/

/-- The domain of the lane quadrant of slot n. -/
def laneDom (n : Nat) : Nat := 4 + n / 40

/-- FLT_CLR (R246): the request waits for the next sample instant. -/
def execFltClr (dt : Nat) (src : Src) (n : Nat) (s : State) : Res :=
  let s := s.after dt
  needs (isAxis n) (s.swWrite src (laneDom n) (R.AX_CTRL.FLT_CLR.i n).addr fun s => s.wr (R.AX_CTRL.FLT_CLR.i n) 1)

/-- A write of INT_RST = 1: it waits for the next run of each loop. -/
def State.intRstWrite (s : State) (n : Nat) : State :=
  (s.wr (R.AX_CTRL.INT_RST.i n) 1).putLane n { s.lane n with clRst := true }

/-- INT_RST (R242). -/
def execIntRst (dt : Nat) (src : Src) (n : Nat) (s : State) : Res :=
  let s := s.after dt
  needs (isAxis n) (s.swWrite src (laneDom n) (R.AX_CTRL.INT_RST.i n).addr fun s => s.intRstWrite n)

/-- A word clamped to ± a limit. -/
def clampB (w : Bfp) (l : Rat) : Bfp :=
  let x := clampQ (bfpVal w) (-l) l
  if x = bfpVal w then w else bfpOf x

/-- A commit copy of slot n clamps the integrators to the new set (R241). -/
def State.axCommitted (s : State) (n : Nat) : State :=
  let l := s.lane n
  let il := min (s.coef (R.AX_ILIM.MANT.i n)) (s.coef (R.AX_TLIM.MANT.i n))
  let mi := s.coef (R.AX_MI_MAX.MANT.i n)
  let m := { l.mem with integ := clampB l.mem.integ il, xd := clampB l.mem.xd mi, xq := clampB l.mem.xq mi }
  if m = l.mem then s
  else ((s.putLane n { l with mem := m }).showBfp (R.AX_INT.MANT.i n) m.integ).flag (R.AX_FLAGS.INT_CLAMPED.i n)

/-- v_fb of slot n as the assembler takes it (R161, R233). -/
def State.laneVel (s : State) (n : Nat) : Rat :=
  let l := s.lane n
  bfpVal (match l.run with | some r => r.next.vfb | none => l.mem.vfb)

/-- p_fb of slot n at its latest sample. -/
def State.lanePos (s : State) (n : Nat) : Int :=
  let l := s.lane n
  match l.run with | some r => r.pfb | none => l.mem.pfb

end Sys2Proof.Machine
end

