-- ==== Sys2Proof/Machine/Cell.lean ====
section
/-! DEFINITION. The cell model and the assembler's inputs (spec/06_cell_model.md): model records, patch lists and the delta queue, the look-ahead references, the bridged state, and the kinematics and dynamics of a chain. -/

namespace Sys2Proof.Machine

/-! ### Block formats (R184, R186) -/

/-- Computations that count saturations. -/
abbrev Sat := StateM Nat

/-- Fraction bits of block b. -/
def State.fmtF (s : State) (b : Nat) : Nat := 32 - s.rd (R.RUL_FMT.INT.j b)

/-- The ends of the range of a block word. -/
def fixMax : Int := (p2 31 : Int) - 1
/-- The lower end. -/
def fixMin : Int := -(p2 31 : Int)

/-- A word held to the range of a block; a value outside counts. -/
def fixSat (r : Int) : Sat Int := fun n => (clampI r fixMin fixMax, if fixMin ≤ r && r ≤ fixMax then n else n + 1)

/-- A number stored with f fraction bits: to nearest, ties away from zero, then saturated. -/
def fix (f : Nat) (x : Rat) : Sat Int := fixSat (rndAway (x * ((p2 f : Nat) : Rat)))

/-- The number that a word with f fraction bits holds. -/
def unfix (f : Nat) (w : Int) : Rat := (w : Rat) / ((p2 f : Nat) : Rat)

/-! ### Model records (R150, R156 to R160) -/

/-- A value of n bytes of model memory. -/
def State.md (s : State) (o n : Nat) : Nat := s.memN n 3 o
/-- A signed word of model memory with f fraction bits. -/
def State.mdQ (s : State) (o f : Nat) : Rat := unfix f (sx 32 (s.md o 4))
/-- A vector of three such words. -/
def State.mdV (s : State) (o f : Nat) : V3 := ⟨s.mdQ o f, s.mdQ (o + 4) f, s.mdQ (o + 8) f⟩
/-- An orientation by a quaternion in Q2.30. -/
def State.mdR (s : State) (o : Nat) : M3 := quat (s.mdQ o 30) (s.mdQ (o + 4) 30) (s.mdQ (o + 8) 30) (s.mdQ (o + 12) 30)

/-- NJOINT. -/
def State.nJoint (s : State) : Nat := s.md 0x06 2
/-- SEP_ROWS. -/
def State.sepRows (s : State) : Nat := s.md 0x0A 2
/-- EV3 delta mode (R172). -/
def State.deltaMode (s : State) : Bool := s.md 0x0C 1 == 1
/-- AGE_MAX as it acts. -/
def State.ageMax (s : State) : Nat := max 1 (s.md 0x0D 1)

/-- The offset of chain record c. -/
def chO (c : Nat) : Nat := 0x1000 + 0x40 * c
/-- The offset of joint record n. -/
def jO (n : Nat) : Nat := 0x2000 + 0x80 * n
/-- The offset of capsule record k. -/
def capO (k : Nat) : Nat := 0x8000 + 0x20 * k
/-- The offset of clearance pair m. -/
def pairO (m : Nat) : Nat := 0x12000 + 8 * m

/-- NJ of chain c. -/
def State.nj (s : State) (c : Nat) : Nat := min 12 (s.md (chO c + 1) 1)
/-- The joint slots of chain c from base to tip. -/
def State.chainSlots (s : State) (c : Nat) : List Nat := (List.range (s.nj c)).map (s.md (chO c) 1 + ·)
/-- BASE_AX of chain c where its base moves. -/
def State.baseAx (s : State) (c : Nat) : Option Nat :=
  let a := s.md (chO c + 2) 1
  let k := s.md (chO c + 3) 1
  if a < 160 && (k == 1 || k == 2) then some a else none
/-- SIGMA_MAX of chain c in Q1.15. -/
def State.sigmaMax (s : State) (c : Nat) : Nat := min 0x8000 (s.md (chO c + 0x3C) 2)

/-- TYPE of slot n. -/
def State.jType (s : State) (n : Nat) : Nat := s.md (jO n) 1
/-- Is slot n a joint variable (R166)? -/
def State.jVar (s : State) (n : Nat) : Bool := let t := s.jType n; t == 1 || t == 2 || t == 3
/-- CHAIN of slot n. -/
def State.jChain (s : State) (n : Nat) : Nat := s.md (jO n + 1) 1
/-- The joint variables in slot order. -/
def State.joints (s : State) : List Nat := (List.range 160).filter s.jVar
/-- The chains with joints. -/
def State.chains (s : State) : List Nat := (List.range 16).filter fun c => 0 < s.nj c

/-- Units per increment (R158). -/
def State.jScale (s : State) (n : Nat) : Rat :=
  (s.md (jO n + 4) 4 : Rat) / ((p2 (32 + bits (s.md (jO n + 8) 1) 4 0) : Nat) : Rat)

/-- The joint value of a position in 2^-16 increments (R162). -/
def State.jValue (s : State) (n : Nat) (p : Int) : Rat :=
  let z := sx 32 (s.md (jO n + 0xC) 4)
  let v := (sx 48 (unsx 48 (p - z * 65536)) : Rat) / 65536 * s.jScale n
  if s.jType n = 3 then v - 2 * piQ * ((v + piQ) / (2 * piQ)).floor else v

/-! ### The status page (R175) -/

/-- A word of the status page. -/
def spO (o : Nat) : Nat := 0x180000 + o

/-- A counter of the page: 24 bits, saturating, OVF in bit 31. -/
def State.spCount (s : State) (o n : Nat) : State :=
  let w := s.md (spO o) 4
  let c := min 0xFFFFFF (w % p2 24 + n)
  s.putMem32 3 (spO o) ((if c = 0xFFFFFF then p2 31 else w / p2 31 * p2 31) + c)

/-! ### Patch lists (R153, R154) -/

/-- Does the model-region word at an offset hold a Fixed field? -/
def fixedWord (o : Nat) : Bool :=
  o == 0 || o == 4 || o == 8 ||
    (0x1000 ≤ o && o < 0x1400 && (o % 0x40 == 0)) ||
    (0x2000 ≤ o && o < 0x7000 && (o % 0x80 < 0x10)) ||
    (0x8000 ≤ o && o < 0xA800 && o % 0x20 == 0x1C)

/-- Is a byte offset of space 0x03 inside a region of R150? -/
def modelRegion (o : Nat) : Bool :=
  o < 0xC000 || (0x12000 ≤ o && o < 0x14000) || (0x40000 ≤ o && o < 0x102000) || (0x180000 ≤ o && o < 0x180080)

/-- Key of PATCH_N in the log of the tick. -/
def patchKey : Nat := 0x3100000
/-- Key of DQ_WR in the log of the tick. -/
def dqKey : Nat := 0x3090000

/-- A word of the staging region as it was before this tick: a window access to it on the copy tick waits until the list is applied (R154). -/
def State.stagedW (s : State) (a : Nat) : Nat :=
  match s.log.staged.find? fun x => x.1 == a with
  | some x => x.2
  | none => s.md a 4

/-- One entry of the patch list. -/
def State.patchOne (s : State) (j : Nat) : State :=
  let o := s.stagedW (0x100010 + 8 * j) / 4 * 4
  if 0x40000 ≤ o || fixedWord o then s.spCount 0x20 1
  else if modelRegion o then s.putMem32 3 o (s.stagedW (0x100014 + 8 * j)) else s

/-- The commit copy of the RUL instance applies the patch list. -/
def State.applyPatch (s : State) : State :=
  let n := min 512 (s.stagedW 0x100000)
  if n = 0 then s
  else
    let s : State := forEach (List.range n) (fun j s => s.patchOne j) s
    let s := s.putMem32 3 (spO 0x1C) (add32 (s.md (spO 0x1C) 4) 1)
    if s.log.wrote.contains patchKey then s else s.putMem32 3 0x100000 0

/-! ### The delta queue (R172, R173) -/

/-- DQ_WR in force. -/
def State.dqWr (s : State) : Nat := s.md 0x90000 4 % 4096
/-- DQ_RD. -/
def State.dqRd (s : State) : Nat := s.md (spO 0x2C) 4 % 4096
/-- NNZ as it acts. -/
def State.nnz (s : State) : Nat := min 32768 (s.md 0x40004 4)

/-- One delta record. -/
def State.deltaOne (s : State) (i : Nat) : State :=
  let o := 0x91000 + 8 * (i % 4096)
  let e := s.md o 4 % 65536
  if s.nnz ≤ e then s.spCount 0x24 1 else s.putMem32 3 (0x41004 + 8 * e) (s.md (o + 4) 4)

/-- The closed records are applied; a batch closed on this tick waits for the next solver sample. -/
def State.applyDelta (s : State) : State :=
  let w := match s.log.sets.find? fun p => p.1 == dqKey with | some p => p.2 | none => s.dqWr
  let r := s.dqRd
  let n := (w + 4096 - r) % 4096
  let s : State := forEach (List.range n) (fun i s => s.deltaOne (r + i)) s
  s.putMem32 3 (spO 0x2C) w

/-- A write of DQ_WR is taken, or discarded where it would pass DQ_RD. -/
def State.dqWrite (s : State) (v : Nat) : State :=
  let w := s.dqWr
  let free := (s.dqRd + 4096 - w - 1) % 4096
  if (v % 4096 + 4096 - w) % 4096 ≤ free then
    let s := if s.log.sets.any (fun p => p.1 == dqKey) then s
      else { s with log := { s.log with sets := (dqKey, w) :: s.log.sets } }
    s.putMem32 3 0x90000 (v % 4096)
  else s.spCount 0x44 1

/-! ### Look-ahead references (R163) -/

/-- A look-ahead reference: position in 2^-16 increments, velocity, acceleration, and the path derivatives p' and p''. -/
structure Look where
  pos : Int
  vel : Rat
  acc : Rat
  dp : Rat
  ddp : Rat
  deriving DecidableEq, Repr

/-- The reference a generator holds now. -/
def State.lookNow (s : State) (n : Nat) : Look :=
  let g := s.gen n
  ⟨g.pos, g.vel, g.acc, g.vel, g.acc⟩

/-- The state in which queue c stands at S + L, computed on a copy of the state: the path clock runs on by ρ × L, or by the ramp's own course, and axes that move on their own move on. -/
def State.lookRun (s : State) (c lat : Nat) : State :=
  let dt : Rat := (lat : Rat) / secQ
  let q := s.queue c
  match q.plan with
  | .none => forEach (s.slots c) (fun n s => s.motAdvance n dt) s
  | .sync => s
  | .home _ => forEach (s.slots c) (fun n s => s.motAdvance n dt) s
  | .stepin _ => forEach (s.slots c) (fun n s => s.motAdvance n dt) s
  | _ =>
    let s := s.putQueue c { q with ramp := q.ramp.map fun r => { r with ran := r.ran - s.qPer c + lat } }
    let r := if q.ramp.isSome then s.rhoNow c else (q.rho, 0, false)
    let inc := rdivAway ((lat * 65536 * (q.rho + r.1) : Nat) : Int) (2 * rhoOne)
    let q2 := s.queue c
    (s.putQueue c { q2 with tau := q2.tau + inc, rho := r.1 }).endStrokes c ((r.1 : Rat) / (rhoOne : Rat)) r.2.1 q2.tau 33

/-- The look-ahead references of queue c. -/
def State.lookQueue (s : State) (c lat : Nat) : List (Nat × Look) :=
  let x := s.lookRun c lat
  let q := x.queue c
  let path := match q.plan with
    | .none | .sync | .home _ | .stepin _ => (x.slots c).map fun n => ((x.gen n).vel, (x.gen n).acc)
    | _ => (planAt q ((q.tau : Rat) / 65536 / secQ)).map (·.2)
  ((x.slots c).zip path).map fun y =>
    (y.1, ⟨(x.gen y.1).pos, (x.gen y.1).vel, (x.gen y.1).acc, y.2.1, y.2.2⟩)

/-- The look-ahead references of all queues. -/
def State.lookAhead (s : State) (lat : Nat) : List (Nat × Look) :=
  (List.range 16).flatMap fun c => s.lookQueue c lat

/-- The look-ahead reference of slot n. -/
def State.lookOf (s : State) (la : List (Nat × Look)) (n : Nat) : Look :=
  ((la.find? fun x => x.1 == n).map (·.2)).getD (s.lookNow n)

/-! ### The bridged state (R161 to R164) -/

/-- A joint as the assembler sees it: slot, q̂ and q̇̂, look-ahead acceleration, p' and p'', whether its axis is in fault, and whether its measurement was substituted. -/
structure JointIn where
  slot : Nat
  q : Rat
  qd : Rat
  a : Rat
  dp : Rat
  ddp : Rat
  fault : Bool
  subst : Bool
  deriving DecidableEq, Repr

/-- Is the ring feedback of slot n older than AGE_MAX (R161)? -/
def State.ringOld (s : State) (n : Nat) : Bool :=
  s.act (R.AX_CFG.POS_RING.i n) == 1 &&
    (match s.axGroup n with
     | some g => (match s.ringWord n 0 g with | some (_, age, _) => s.ageMax < age | none => true)
     | none => true)

/-- The acceleration of the stop ramp of axis n at S + L (R169): of the stop that runs, or of the one that has been demanded for the next advance. -/
def State.stopAcc (s : State) (n : Nat) (lat a : Rat) : Rat :=
  match (s.gen n).mot, s.queueOf n with
  | none, some c =>
    if (s.queue c).halt.isSome then
      (let p := s.stopProf n
       (segsAt p.u p.v p.a p.segs lat).2.2)
    else a
  | _, _ => a

/-- One joint is bridged from S to S + L. -/
def State.bridge (s : State) (la : List (Nat × Look)) (lat : Rat) (n : Nat) : Sat JointIn := do
  let l := s.lookOf la n
  let g := s.gen n
  let sc := s.jScale n
  let fp := s.fmtF 9
  let fv := s.fmtF 10
  let fault := s.rd (R.AX_STAT.FAULT.i n) == 1
  let sub := s.rd (R.AX_STAT.FB_INVALID.i n) == 1 || s.ringOld n || fault
  let pr ← fix fp (s.jValue n g.pos)
  let vr ← fix fv (g.vel * sc)
  let qm ← if sub then pure pr else fix fp (s.jValue n (s.lanePos n * 65536))
  let vm ← if sub then pure vr else fix fv (s.laneVel n * sc)
  let pl ← fix fp (s.jValue n l.pos)
  let vl ← fix fv (l.vel * sc)
  let ac ← fix (s.fmtF 0) ((if fault then s.stopAcc n lat l.acc else l.acc) * sc)
  let dp ← fix fv (l.dp * sc)
  let ddp ← fix (s.fmtF 0) (l.ddp * sc)
  let e := unfix fp (qm - pr)
  let ed := unfix fv (vm - vr)
  let q ← fix fp (unfix fp pl + e + ed * lat)
  let qd ← fix fv (unfix fv vl + ed)
  pure ⟨n, unfix fp q, unfix fv qd, unfix (s.fmtF 0) ac, unfix fv dp, unfix (s.fmtF 0) ddp, fault, sub⟩

/-- A joint in a list of bridged joints. -/
def jointOf (js : List JointIn) (n : Nat) : JointIn :=
  (js.find? fun j => j.slot == n).getD ⟨n, 0, 0, 0, 0, 0, false, false⟩

/-! ### Kinematics and dynamics of a chain (R157, R158, R165) -/

/-- The base frame of chain c at S + L, the base axis at its own reference, whose values take the distance format (R162). -/
def State.baseFrame (s : State) (la : List (Nat × Look)) (c : Nat) : Sat Frame :=
  let o := chO c
  let p := s.mdV (o + 4) 24
  let r := s.mdR (o + 0x10)
  let u := s.mdV (o + 0x20) 30
  match s.baseAx c with
  | none => pure ⟨p, r, .zero, .zero, .zero, .zero⟩
  | some n => do
    let l := s.lookOf la n
    let sc := s.jScale n
    let fd := s.fmtF 11
    let x ← fix fd (s.jValue n l.pos)
    let v ← fix fd (l.vel * sc)
    let a ← fix fd (l.acc * sc)
    pure (if s.md (o + 3) 1 = 1 then
      ⟨p.add (V3.mul (unfix fd x) u), r, V3.mul (unfix fd v) u, V3.mul (unfix fd a) u, .zero, .zero⟩
    else ⟨p, (rotAbout u (unfix fd x)).mul r, .zero, .zero, V3.mul (unfix fd v) u, V3.mul (unfix fd a) u⟩)

/-- The links of a chain from base to tip. -/
def State.linksFrom (s : State) (js : List JointIn) (f : Frame) : List Nat → List Link
  | [] => []
  | n :: t =>
    let j := jointOf js n
    let l := f.joint n (s.jType n == 2) (s.mdV (jO n + 0x10) 24) (s.mdR (jO n + 0x1C)) j.q j.qd
    l :: s.linksFrom js l.f t

/-- The base frame and the links of chain c. -/
def State.chainFrames (s : State) (la : List (Nat × Look)) (js : List JointIn) (c : Nat) : Sat (Nat × Frame × List Link) := do
  let b ← s.baseFrame la c
  pure (c, b, s.linksFrom js b (s.chainSlots c))

/-- A body carried by link number k of a chain: mass, world center of mass, world inertia, frame. -/
structure Body where
  k : Nat
  m : Rat
  w : V3
  i : M3
  f : Frame
  deriving DecidableEq, Repr

/-- The inertia about COM of slot n in its joint frame. -/
def State.inertia (s : State) (n : Nat) : M3 :=
  let q := fun i => s.mdQ (jO n + 0x3C + 4 * i) 20
  ⟨⟨q 0, q 3, q 4⟩, ⟨q 3, q 1, q 5⟩, ⟨q 4, q 5, q 2⟩⟩

/-- The bodies of chain c: its links, and the payload as a point mass on the last link. -/
def State.bodies (s : State) (c : Nat) (ls : List Link) : List Body :=
  let own := ((List.range ls.length).zip ls).map fun x =>
    let l := x.2
    ⟨x.1, s.mdQ (jO l.slot + 0x2C) 16, l.f.pt (s.mdV (jO l.slot + 0x30) 24),
      (l.f.r.mul (s.inertia l.slot)).mul l.f.r.tr, l.f⟩
  match ls.getLast? with
  | some l => own ++ [⟨ls.length - 1, s.mdQ (chO c + 0x2C) 16, l.f.pt (s.mdV (chO c + 0x30) 24), ⟨.zero, .zero, .zero⟩, l.f⟩]
  | none => own

/-- Sum of a list of rationals. -/
def sumQ (l : List Rat) : Rat := l.foldl (· + ·) 0

/-- The joint-space inertia between links i and j. -/
def State.massIJ (s : State) (bs : List Body) (i j : Nat) (li lj : Link) : Rat :=
  sumQ ((bs.filter fun b => i ≤ b.k && j ≤ b.k).map fun b =>
    b.m * (li.col b.w).dot (lj.col b.w) + li.rot.dot (b.i.app lj.rot)) +
    (if i = j then s.mdQ (jO li.slot + 0x54) 20 else 0)

/-- The sign of a number, 0 at 0. -/
def sgnQ (x : Rat) : Rat := if 0 < x then 1 else if x < 0 then -1 else 0

/-- The bias of link i: velocity and base terms, gravity, friction. -/
def State.biasI (s : State) (bs : List Body) (js : List JointIn) (i : Nat) (li : Link) : Rat :=
  let g := s.mdV 0x10 24
  let qd := (jointOf js li.slot).qd
  sumQ ((bs.filter fun b => i ≤ b.k).map fun b =>
    let iom := b.i.app b.f.om
    (li.col b.w).dot (V3.mul b.m ((b.f.acc b.w).sub g)) + li.rot.dot ((b.i.app b.f.al).add (b.f.om.cross iom))) +
    unfix 16 (sx 32 (s.md (jO li.slot + 0x58) 4)) * qd + unfix 16 (sx 32 (s.md (jO li.slot + 0x5C) 4)) * sgnQ qd

/-! ### Capsules (R159) -/

/-- Where a capsule hangs: its chain and the number of joints up to its parent (0: the base). -/
def State.capHost (s : State) (k : Nat) : Option (Nat × Nat) :=
  let p := s.md (capO k + 0x1C) 1
  if 0xE0 ≤ p && p < 0xF0 then some (p - 0xE0, 0)
  else if p < 160 then
    let c := s.jChain p
    if c < 16 && (s.chainSlots c).contains p then some (c, p - s.md (chO c) 1 + 1) else none
  else none

/-- Does capsule k exist with a FLAGS bit set? -/
def State.capHas (s : State) (k b : Nat) : Bool :=
  k < 320 && s.md (capO k + 0x1C) 1 != 0xFF && bit (s.md (capO k + 0x1E) 2) b

/-- The frame of a capsule's parent. -/
def capFrame (base : Frame) (ls : List Link) (m : Nat) : Frame :=
  if m = 0 then base else ((ls[m - 1]?).map (·.f)).getD base

/-- A capsule in world coordinates. -/
def State.capWorld (s : State) (k : Nat) (f : Frame) : Capsule :=
  ⟨f.pt (s.mdV (capO k) 24), f.pt (s.mdV (capO k + 0xC) 24), s.mdQ (capO k + 0x18) 24⟩

/-- Is clearance pair m in use (R160)? -/
def State.pairUsed (s : State) (m : Nat) : Bool :=
  let a := s.md (pairO m) 2
  let b := s.md (pairO m + 2) 2
  let ea := s.md (capO a + 0x1D) 1
  s.md (pairO m + 6) 1 == 1 && s.capHas a 1 && s.capHas b 1 && (ea == 0 || ea != s.md (capO b + 0x1D) 1)

/-- The clearance pairs in use. -/
def State.pairs (s : State) : List Nat := (List.range 1024).filter s.pairUsed

end Sys2Proof.Machine
end

