-- ==== Sys2Proof/Machine/Occupants.lean ====
section
/-! DEFINITION. Occupant records (R202 to R205) as both paths of spec/08_separation_monitor.md check them, each at its own sample instants. -/

namespace Sys2Proof.Machine

/-- The signed 16-bit word at offset o. -/
def sw (b : List Nat) (o : Nat) : Int := sx 16 (leNat ((b.drop o).take 2))
/-- The unsigned 16-bit word at offset o. -/
def uw (b : List Nat) (o : Nat) : Nat := leNat ((b.drop o).take 2)
/-- Three signed words. -/
def sw3 (b : List Nat) (o : Nat) : List Int := [sw b o, sw b (o + 2), sw b (o + 4)]

/-- The content of a record (R202). -/
def occOf (b : List Nat) : Occ :=
  let fl := b.getD 1 0
  let n := bits fl 3 2 + 1
  ⟨bit fl 0, bit fl 1, n, uw b 2, leNat ((b.drop 4).take 4), sw3 b 8, uw b 0xE,
    (List.range n).map fun i => sw3 b (0x10 + 16 * i) ++ sw3 b (0x16 + 16 * i) ++ [(uw b (0x1C + 16 * i) : Int)]⟩

/-- Does a record pass the checks of R204 at an instant, after the last good record of its occupant? -/
def recGood (now : Nat) (src : OccSrc) (last : Option Occ) (b : List Nat) : Bool :=
  let oid := b.getD 0 0
  let o := occOf b
  leNat ((b.drop 0x54).take 4) == crc32c (b.take 0x54) &&
    uw b 0x50 % 4096 == src.node && src.oidLo ≤ oid && oid ≤ src.oidHi && oid < 64 &&
    sub32 now o.t < p2 31 &&
    (match last with
     | none => true
     | some l =>
       let d := (o.seq + 65536 - l.seq) % 65536
       d < 32768 && (d != 0 || o.t == l.t))

/-- The last good record of an occupant. -/
def occGet (t : List (Nat × Occ)) (o : Nat) : Option Occ := (t.find? fun x => x.1 == o).map (·.2)

/-- One record is checked: the table afterwards and whether the record failed. -/
def occTake (now : Nat) (src : OccSrc) (b : List Nat) (t : List (Nat × Occ)) : List (Nat × Occ) × Bool :=
  let oid := b.getD 0 0
  let last := occGet t oid
  if recGood now src last b then
    let o := occOf b
    (match last with
     | some l => if l.seq = o.seq then t else tins oid o (tdel oid t)
     | none => tins oid o t, false)
  else (t, true)

/-- The records of one segment: the table afterwards and the number of failing records. -/
def occSeg (now : Nat) (src : OccSrc) (d : List Nat) (t : List (Nat × Occ)) : List (Nat × Occ) × Nat :=
  (List.range src.count).foldl (fun (r : List (Nat × Occ) × Nat) i =>
    let x := occTake now src ((d.drop (src.ofs + 88 * i)).take 88) r.1
    (x.1, r.2 + b2n x.2)) (t, 0)

/-- The segment of an occupant sensor: the input segment of its node. -/
def State.occSegOf (s : State) (src : OccSrc) : Option (Nat × Seg) :=
  (s.segs src.chan).find? fun x => x.2.typ == 1 && x.2.node == src.node

/-- The buffer of channel ch that a latch takes now: one completed on this tick is left to the next (R34). -/
def State.doneBuf (s : State) (ch : Nat) : RBuf :=
  let a := s.appOf ch
  if a.doneAt = s.now then a.doneOld else a.done

/-- The data of a sensor's segment in the incoming buffer, once it has been accepted. -/
def State.occData (s : State) (src : OccSrc) : Option (List Nat) :=
  (s.occSegOf src).bind fun x =>
    let b := s.doneBuf src.chan
    if b.regions.any fun r => r.1 == x.1 then
      some ((List.range x.2.data).map fun i => tget 0 b.bytes (x.2.buf + i))
    else none

/-- A length in mm as a number in m. -/
def mm (x : Int) : Rat := (x : Rat) / 1000

/-- A vector in mm. -/
def mmV (l : List Int) : V3 := ⟨mm (l.getD 0 0), mm (l.getD 1 0), mm (l.getD 2 0)⟩

/-- A capsule of an occupant. -/
def occCap (c : List Int) : Capsule := ⟨mmV c, mmV (c.drop 3), mm (c.getD 6 0)⟩

end Sys2Proof.Machine
end

