-- ==== Sys2Proof/Machine/Separate.lean ====
section
/-! DEFINITION. The separation geometry unit (R205 to R213): occupants of the solver path, keys, slots and rows. -/

namespace Sys2Proof.Machine

/-- The solver path takes the occupant records of its sample instant (R204). -/
def State.sepTake (s : State) : State :=
  forEach s.dev.cfg.occ (fun src s =>
    match s.occData src with
    | none => s
    | some d =>
      let r := occSeg s.now src d s.rul.occ
      let s := { s with rul := { s.rul with occ := r.1 } }
      if r.2 = 0 then s
      else (s.bumpN R.SEP_CNT.REC_BAD R.SEP_FLAGS.REC_OVF r.2).flag R.SEP_FLAGS.REC_SEEN) s

/-- Age in ns of an occupant at the present instant (R205). -/
def State.ageOf (s : State) (o : Occ) : Nat := sub32 s.now o.t

/-- The SEP_OCC registers show the occupants; INSIDE of the last solve stays until its successor is delivered. -/
def State.sepShow (s : State) : State :=
  let present := s.rul.occ.filter fun x => x.2.here
  let s : State := forEach (List.range 64) (fun o s =>
    match occGet s.rul.occ o with
    | none => s
    | some x =>
      let f := fun (f : Fld) => f.j o
      let stale := x.here && s.act R.SEP_TIME.STALE_MS * 1000000 < s.ageOf x
      let was := s.rd (f R.SEP_OCC.STALE) == 1
      let s := ((s.wrB (f R.SEP_OCC.PRESENT) x.here).wrB (f R.SEP_OCC.PERSON) x.person).wrB (f R.SEP_OCC.STALE) stale
      let s := (s.wr (f R.SEP_OCC.NCAP) (x.ncap - 1)).wr (f R.SEP_OCC.SEQ) x.seq
      let s := if stale && !was then s.flag R.SEP_FLAGS.STALE_SEEN else s
      if x.here then s.wr (f R.SEP_OCC_AGE.AGE) (s.ageOf x) else s) s
  s.wr R.SEP_STAT.NOCC present.length

/-- A speed in mm/s as m/s. -/
def mmQ (n : Nat) : Rat := (n : Rat) / 1000

/-- The velocity of an occupant limited to its approach speed K (R206). -/
def occVel (o : Occ) (k : Rat) : V3 :=
  let v := mmV o.vel
  if v.dot v ≤ k * k then v else V3.mul (divQ k v.norm) v

/-- A key at this solve (R210, R211): its value, dist − S_p, whether dist ≤ B, its coefficients by slot, and the lower bound of its row. -/
structure SepKey where
  val : Nat
  occ : Nat
  gap : Rat
  inside : Bool
  vars : Bool
  coef : List (Nat × Rat)
  lo : Rat
  deriving DecidableEq, Repr

/-- The nearest SEP capsule of chain c to an occupant capsule; ties to the lower index. -/
def State.nearest (s : State) (c : Nat) (base : Frame) (ls : List Link) (oc : Capsule) : Option (Nat × Nat × V3 × V3 × Rat) :=
  (List.range 320).foldl (fun (best : Option (Nat × Nat × V3 × V3 × Rat)) k =>
    if !s.capHas k 0 then best
    else
      match s.capHost k with
      | none => best
      | some (c', m) =>
        if c' ≠ c then best
        else
          let d := capDist (s.capWorld k (capFrame base ls m)) oc
          match best with
          | none => some (k, m, d.1, d.2.2.1, d.2.2.2)
          | some b => if d.2.2.2 < b.2.2.2.2 then some (k, m, d.1, d.2.2.1, d.2.2.2) else best) none

/-- B of R211 in m for chain c and an occupant, with K, T_r and A_s. -/
def State.sepB (s : State) (c : Nat) (o : Occ) (lat : Rat) : Rat × Rat × Rat × Rat :=
  let k := mmQ (if o.person then s.act R.SEP_KH.K_H else s.act R.SEP_KH.K_OBJ)
  let tr := (s.ageOf o : Rat) / secQ + lat + 3 / 10000 + (s.act R.SEP_TIME.T_R_EXT : Rat) / 1000000
  let ts := (s.act (R.SEP_CH_T.T_S.j c) : Rat) / 1000
  let a := mmQ (max 1 (s.act (R.SEP_CH_T.A_S.j c)))
  let b := k * (tr + ts) + mmQ (s.act R.SEP_GEOM.C) + mmQ (max o.zd (s.act R.SEP_GEOM.ZD_MIN)) +
    mmQ (s.act (R.SEP_CH_Z.Z_R.j c)) + mmQ (s.act (R.SEP_CH_Z.PAD.j c))
  (b, k, tr, a)

/-- The key of an occupant capsule and a chain, if the chain has a SEP capsule; `dist` and the approach speed are held in the solver formats. -/
def State.sepKey (s : State) (o : Nat) (x : Occ) (k c : Nat) (base : Frame) (ls : List Link) (lat : Rat) : Sat (Option SepKey) := do
  let p := s.sepB c x lat
  let shift := if s.on R.SEP_CFG.EXTRAP_EN then V3.mul ((s.ageOf x : Rat) / secQ) (occVel x p.2.1) else .zero
  let c0 := occCap (x.caps.getD k [])
  match s.nearest c base ls ⟨c0.a.add shift, c0.b.add shift, c0.rad⟩ with
  | none => pure none
  | some (_, m, w, n, d) =>
    let f := capFrame base ls m
    let dw ← fix (s.fmtF 11) d
    let vw ← fix (s.fmtF 10) (-(n.dot (f.vel w)))
    let dist := unfix (s.fmtF 11) dw
    let v := unfix (s.fmtF 10) vw
    let vp := max v 0
    let sp := p.1 + vp * p.2.2.1 + vp * vp / (2 * p.2.2.2)
    let a := p.2.2.2
    let tr := p.2.2.1
    let allow := if dist ≤ p.1 then 0 else a * (-tr + sqrtQ (tr * tr + 2 * (dist - p.1) / a))
    let hs : Rat := ((max 1 (s.act R.SEP_TIME.H_S) : Nat) : Rat) * 125 / 1000000
    pure (some ⟨o * 64 + k * 16 + c, o, dist - sp, dist ≤ p.1, m != 0,
      (ls.take m).map fun l => (l.slot, n.dot (l.col w)), (v - allow) / hs - n.dot (f.acc w)⟩)

/-- The keys of this solve. -/
def State.sepKeys (s : State) (frames : List (Nat × Frame × List Link)) (lat : Rat) : Sat (List SepKey) := do
  if !s.on R.SEP_CFG.EN then pure []
  else
    let trip := (s.rul.occ.filter fun x => x.2.here).flatMap fun x =>
      (List.range x.2.ncap).flatMap fun k => frames.map fun f => (x, k, f)
    let ks ← trip.mapM fun y => s.sepKey y.1.1 y.1.2 y.2.1 y.2.2.1 y.2.2.2.1 y.2.2.2.2 lat
    pure (ks.filterMap id)

/-- An element put into a list that ascends by a measure, behind its equals. -/
def insAsc {α : Type} (m : α → Rat) (x : α) : List α → List α
  | [] => [x]
  | y :: t => if m x < m y then x :: y :: t else y :: insAsc m x t

/-- A list in ascending order of a measure. -/
def sortAsc {α : Type} (m : α → Rat) (l : List α) : List α := l.foldl (fun r x => insAsc m x r) []

/-- The slots of R212: keys that stay keep theirs, a key not emitted frees its slot until the second solve after, and new keys take the lowest free slots in ascending key value. The tables afterwards and whether a key found none. -/
def slotStep (slots freed : List (Nat × Nat)) (emitted : List Nat) : List (Nat × Nat) × List (Nat × Nat) × Bool :=
  let freed := (freed.map fun f => (f.1, f.2 - 1)).filter fun f => f.2 ≠ 0
  let keep := slots.filter fun x => emitted.contains x.1
  let gone := (slots.filter fun x => !emitted.contains x.1).map fun x => (x.2, 2)
  let fresh := sortAsc (fun (k : Nat) => (k : Rat)) (emitted.filter fun k => !slots.any fun x => x.1 == k)
  let r := fresh.foldl (fun (r : List (Nat × Nat) × Bool) k =>
    match (List.range 1536).find? fun i =>
        !(r.1.any fun x => x.2 == i) && !((freed ++ gone).any fun f => f.1 == i) with
    | some i => (r.1 ++ [(k, i)], r.2)
    | none => (r.1, true)) (keep, false)
  (r.1, freed ++ gone, r.2)

/-- The rows of this solve in delivery order, each with its slot, and what the unit will report. -/
def State.sepRun (s : State) (frames : List (Nat × Frame × List Link)) (lat : Rat) : Sat (List (Nat × SepKey) × State × SepOut) := do
  let ks ← s.sepKeys frames lat
  let band := mmQ (s.act R.SEP_CFG.ACT_BAND)
  let near := ks.filter fun k => k.gap < band
  let emit := near.filter (·.vars)
  let st := slotStep s.rul.slots s.rul.freed (emit.map (·.val))
  let s := { s with rul := { s.rul with slots := st.1, freed := st.2.1 } }
  let rows := (sortAsc SepKey.gap emit).filterMap fun k =>
    (st.1.find? fun x => x.1 == k.val).map fun x => (x.2, k)
  pure (rows, s, ⟨rows.length, near.length - emit.length, (ks.filter (·.inside)).map (·.occ), st.2.2⟩)

/-- SEPARATION_DELIVERY (R213): the unit completes its pairs and rows, stamped after S; its results show. -/
def execSeparationDelivery (dt : Nat) (s : State) : Res :=
  let s := s.after dt
  .next (match s.rul.prob with
    | none => s
    | some p =>
      if p.sepDone || !s.dom 8 then s
      else
        let s := { s with rul := { s.rul with prob := some { p with sepDone := true } } }
        let s := (s.wrU R.SEP_DONE.DONE (sub32 s.now p.start)).wr R.SEP_STAT.ROWS p.sep.rows
        let s : State := forEach (List.range 64) (fun o s =>
          let inn := p.sep.inside.contains o
          let s := s.wrB (R.SEP_OCC.INSIDE.j o) inn
          if inn then s.flag R.SEP_FLAGS.INSIDE_SEEN else s) s
        let s := s.bumpN R.SEP_CNT.NOVAR R.SEP_FLAGS.NOVAR_OVF p.sep.novar
        if p.sep.full then s.flag R.SEP_FLAGS.SLOT_FULL else s)

end Sys2Proof.Machine
end

