-- ==== Sys2Proof/Machine/Margin.lean ====
section
/-! DEFINITION. The Margin monitor and safe I/O (spec/08_separation_monitor.md): samples, decisions, faults, demands, rearm, test pulses, readback and safe inputs. -/

namespace Sys2Proof.Machine

/-! ### Settings -/

/-- STOP_CAT as it acts. -/
def State.stopCat (s : State) : Nat := let c := s.act R.MGN_CFG.STOP_CAT; if c = 3 then 0 else c
/-- FUNC of safe input i as it acts. -/
def State.sinFunc (s : State) (i : Nat) : Nat := let f := s.act (R.MGN_SIN_CFG.FUNC.j i); if 4 < f then 0 else f
/-- FUNC of safe output j. -/
def State.soFunc (s : State) (j : Nat) : Nat := s.act (R.MGN_SOUT_CFG.FUNC.j j)
/-- A safe input. -/
def State.sinOf (s : State) (i : Nat) : SafeIn := tget .zero s.mgn.ins i
/-- Replace a safe input. -/
def State.putSin (s : State) (i : Nat) (x : SafeIn) : State := { s with mgn := { s.mgn with ins := tput .zero s.mgn.ins i x } }
/-- A safe output. -/
def State.soutOf (s : State) (j : Nat) : SafeOut := tget .zero s.mgn.outs j
/-- Replace a safe output. -/
def State.putSout (s : State) (j : Nat) (x : SafeOut) : State := { s with mgn := { s.mgn with outs := tput .zero s.mgn.outs j x } }
/-- The unit code of the Margin monitor. -/
def uMargin : Nat := 0x8000

/-- Does the Margin monitor compute (R219): an image of ROLE 0x01 and a mode other than BOOT? -/
def State.mgnRuns (s : State) : Bool := s.alive && s.tb.run && s.dom 9 && s.mode != 0
/-- Are the safe outputs driven by the decision (R219)? -/
def State.mgnDrives (s : State) : Bool := s.mgnRuns && (s.mode == 2 || s.mode == 6 || s.mode == 7)

/-- A fault cause of R217 by its bit. -/
def State.mgnCause (s : State) (b : Nat) (on : Bool) : State :=
  { s with mgn := { s.mgn with causes := setBits s.mgn.causes b b (b2n on) } }

/-! ### The signature (R218) -/

/-- The offsets of the words that MGN_SIG covers, ascending. -/
def mgnWords : List Nat :=
  [0x3C0010, 0x3C0014, 0x3C0018, 0x3C001C, 0x3C0020] ++
    ((List.range 16).flatMap fun c => [0x3C0100 + 16 * c, 0x3C0104 + 16 * c]) ++
    ((List.range 8).map fun i => 0x3C0200 + 16 * i) ++ (List.range 4).map fun j => 0x3C0300 + 16 * j

/-- MGN_SIG over the active parameters and the Margin model. -/
def State.mgnSig (s : State) : Nat :=
  crc32 ((mgnWords.flatMap fun a => leBytes 4 (s.actw a)) ++ s.dev.cfg.margin.bytes)

/-! ### Spheres (R214, R215) -/

/-- A vector of integers with f fraction bits. -/
def iV (l : List Int) (f : Nat) : V3 :=
  let q := fun i => (l.getD i 0 : Rat) / ((p2 f : Nat) : Rat)
  ⟨q 0, q 1, q 2⟩
/-- An orientation by integers in Q2.30. -/
def iR (l : List Int) : M3 :=
  let q := fun i => (l.getD i 0 : Rat) / ((p2 30 : Nat) : Rat)
  quat (q 0) (q 1) (q 2) (q 3)

/-- The position of a slot at the Margin monitor's own latch, taken at this sample instant (R32, R201), and whether it is marked invalid (R234): a local channel's continuous position now, a ring position from the latest completed buffer, whatever the slot's rate group has latched. -/
def State.mgnPos (s : State) (n : Nat) : Int × Bool :=
  if s.act (R.AX_CFG.POS_RING.i n) = 0 then
    (sx 32 (unsx 32 (s.livePos n)), s.rd (R.FB_STAT.FAULT.i (s.act (R.AX_SRC.POS_FB.i n))) == 1)
  else
    let b := fun ch => (s.appOf ch).fresh s.now
    match s.bufWord b n 0 with
    | some (w, age, _) =>
      (sx 32 (unsx 32 (sx 32 w + (s.gen n).ofs)), max 1 (s.act (R.AX_SRC.FB_AGE.i n)) < age || s.bufInvalid b n)
    | none => (sx 32 (unsx 32 (s.gen n).ofs), true)

/-- The joint value of a Margin joint. -/
def mjValue (j : MJoint) (p : Int) : Rat :=
  (sx 32 (unsx 32 (p - j.zero)) : Rat) * (j.scaleM : Rat) / ((p2 (32 + j.scaleE) : Nat) : Rat)

/-- The frames of a Margin chain from base to tip, by slot; the base first, under the key 0xE0 + c. -/
def State.mgnFrames (s : State) (c : MChain) : List (Nat × Frame) :=
  let base : Frame := ⟨iV c.baseP 24, iR c.baseR, .zero, .zero, .zero, .zero⟩
  (c.joints.foldl (fun (r : List (Nat × Frame) × Frame) j =>
    let l := r.2.joint j.slot (j.typ == 2 || j.typ == 4) (iV j.tp 24) (iR j.tr) (mjValue j (s.mgnPos j.slot).1) 0
    (r.1 ++ [(j.slot, l.f)], l.f)) ([(0xE0 + c.c, base)], base)).1

/-- One robot sphere: its key, chain, center, radius. -/
structure RSphere where
  key : Nat
  chain : Nat
  c : V3
  r : Rat
  deriving DecidableEq, Repr

/-- The robot spheres of the Margin model at this sample. -/
def State.mgnSpheres (s : State) : List RSphere :=
  let m := s.dev.cfg.margin
  let fs := m.chains.flatMap fun c => (s.mgnFrames c).map fun f => (f.1, c.c, f.2)
  ((List.range m.caps.length).zip m.caps).flatMap fun x =>
    match fs.find? fun f => f.1 == x.2.parent with
    | none => []
    | some f =>
      let cap : Capsule := ⟨f.2.2.pt (iV x.2.a 24), f.2.2.pt (iV x.2.b 24), (x.2.rad : Rat) / 16777216⟩
      let n := max 1 (min 4 x.2.ns)
      (List.range n).map fun j =>
        let y := sphereOf cap n j
        ⟨4 * x.1 + j, f.2.1, y.1, y.2⟩

/-- The speed of a robot sphere (R215): by the difference to the sample before, or VFIRST, plus V_PAD. -/
def State.mgnSpeed (s : State) (valid : Bool) (x : RSphere) : Rat :=
  let meas := match valid, s.mgn.prev.find? fun p => p.1 == x.key with
    | true, some p => (x.c.sub ⟨p.2.getD 0 0, p.2.getD 1 0, p.2.getD 2 0⟩).norm * 4000
    | _, _ => mmQ (s.act (R.MGN_CH_Z.VFIRST.j x.chain))
  Config.single (meas + mmQ (s.act R.MGN_GEOM.V_PAD))

/-- S_p on the Margin path (R207). -/
def State.mgnSp (s : State) (o : Occ) (chain : Nat) (v : Rat) : Rat :=
  let k := mmQ (s.act R.MGN_KH.K_H)
  let tr := (s.ageOf o : Rat) / secQ + 48 / 1000000 + (s.act R.MGN_TIME.T_R_EXT : Rat) / 1000000
  let ts := (s.act (R.MGN_CH_T.T_S.j chain) : Rat) / 1000
  let a := mmQ (max 1 (s.act (R.MGN_CH_T.A_S.j chain)))
  k * (tr + ts) + v * tr + v * v / (2 * a) + mmQ (s.act R.MGN_KH.C) + mmQ (max o.zd (s.act R.MGN_GEOM.ZD_MIN)) +
    mmQ (s.act (R.MGN_CH_Z.Z_R.j chain))

/-- The margins of every pair of occupant sphere and robot sphere, each with its occupant (R214, R216). -/
def State.mgnMargins (s : State) (rs : List (RSphere × Rat)) : List (Rat × Nat) :=
  (s.mgn.occ.filter fun x => x.2.here).flatMap fun x =>
    x.2.caps.flatMap fun c =>
      let cap := occCap c
      (List.range 4).flatMap fun j =>
        let o := sphereOf cap 4 j
        rs.map fun r =>
          (Config.single ((r.1.c.sub o.1).norm - r.1.r - o.2 - s.mgnSp x.2 r.1.chain r.2), x.1)

/-- The first smallest of a list of margins. -/
def leastMargin : List (Rat × Nat) → Option (Rat × Nat)
  | [] => none
  | x :: t =>
    match leastMargin t with
    | none => some x
    | some y => if y.1 < x.1 then some y else some x

/-! ### The sample (R32, R204, R205, R216) -/

/-- The Margin segment buffer of a source at this sample: the newest complete before this tick. -/
def State.mgnBuf (s : State) (i : Nat) : Option (List Nat) :=
  ((tget [] s.mgn.bufs i).find? fun b => b.1 != s.now && !s.ahead b.1).map (·.2)

/-- The Margin path takes its occupant records. -/
def State.mgnTake (s : State) : State :=
  let src := s.dev.cfg.occ
  forEach ((List.range src.length).zip src) (fun x s =>
    match s.mgnBuf x.1 with
    | none => s
    | some d =>
      let r := occSeg s.now x.2 d s.mgn.occ
      let s := { s with mgn := { s.mgn with occ := r.1 } }
      if r.2 = 0 then s else s.flag R.MGN_FLT.REC_BAD) s

/-- The Margin sample at base index k. The sample before was the previous one where it lies 250 µs back: each boundary stands at the first clock at or past its instant (R71), so the difference of TB_NS may be one tick off. -/
def State.mgnSample (s : State) (k : Nat) : State :=
  if !s.mgnRuns || k % 8 != 0 then s
  else
    let s := (s.tmrUse 1).mgnTake
    let sig := s.mgnSig
    let bad := sig != s.act R.MGN_SIG_REF.SIG
    let s := (s.wr R.MGN_SIG.SIG sig).mgnCause 1 bad
    let s := if bad then s.flag R.MGN_FLT.SIG else s
    let valid := match s.mgn.prevAt with
      | some t => let d := sub32 s.now t; 249999 ≤ d && d ≤ 250001
      | none => false
    let sp := s.mgnSpheres
    let rs := sp.map fun x => (x, s.mgnSpeed valid x)
    let inv := s.dev.cfg.margin.chains.any fun c => c.joints.any fun j => (s.mgnPos j.slot).2
    let s := if inv then s.flag R.MGN_FLT.FB_INVALID else s
    let lim := max 1 (s.act R.MGN_TIME.AGE_LIMIT) * 1000000
    let lost := s.mgn.occ.any fun x => x.2.here && lim < s.ageOf x.2
    let s := if lost then s.flag R.MGN_FLT.OCC_LOST else s
    let fast := rs.any fun x => mmQ (s.act R.MGN_SRV.SRV_VMAX) < x.2
    let best := leastMargin (s.mgnMargins rs)
    let ssm := s.mode != 7 || s.act R.MGN_CFG.SRV_SSM == 1
    let near := match best with | some m => m.1 < 0 | none => false
    let warn := match best with | some m => m.1 < mmQ (s.act R.MGN_CFG.WARN_BAND) | none => false
    let stop := inv || (ssm && (near || (lost && s.act R.MGN_CFG.LOST_REACT == 0))) || (s.mode == 7 && fast)
    let mm := match best with
      | some m => clampI (roundOpen (m.1 * 1000)) (-32767) 32767
      | none => sx 16 (Config.freeNat s.free)
    let occ := match best with | some m => m.2 | none => Config.freeNat (s.free + 1) % 64
    let run : MgnRun := ⟨s.now, none, if stop then 2 else if ssm && warn then 1 else 0, mm, occ⟩
    { s with
      mgn := { s.mgn with
        run := some run, prevAt := if inv then none else some s.now,
        prev := sp.map fun x => (x.key, [x.c.x, x.c.y, x.c.z]) },
      free := if best.isSome then s.free else s.free + 2 }

/-- MARGIN_COMPLETE (R216, R217): the computation of the present sample completes. -/
def execMarginComplete (dt : Nat) (s : State) : Res :=
  let s := s.after dt
  .next (match s.mgn.run with
    | none => s
    | some r =>
      let d := sub32 s.now r.start
      if r.done.isSome || 48000 ≤ d || !s.mgnRuns then s
      else { (s.wrU R.MGN_DONE.DONE d) with mgn := { s.mgn with run := some { r with done := some s.now } } })

/-! ### Demands, latch and rearm (R220) -/

/-- Every queue in motion performs an axis stop (STOP_AXIS). -/
def State.stopAxes (s : State) : State :=
  forEach (List.range 16) (fun c s =>
    if s.nax c != 0 && (s.qState c == 1 || s.qState c == 2 || s.qState c == 4) then s.demandHalt c R.CHN_FLAGS.HALT_STOP else s) s

/-- A rearm performed earlier on the tick of a new demand is discarded (R220): FAULT and the protective-stop cause stand again, and no output switched on. -/
def State.rearmUndo (s : State) : State :=
  match s.log.rearmed with
  | none => s
  | some (f, p) =>
    let s := { s with mgn := { s.mgn with pstop := p }, log := { s.log with rearmed := none } }
    let s := if f then s.flag R.MGN_STAT.FAULT else s
    forEach [0, 1, 2, 3] (fun j s =>
      if s.rd (R.MGN_SOUT_STAT.ENERGISED.j j) == 1 && (s.soutOf j).onAt == s.tb.rim then
        { s.wr (R.MGN_SOUT_STAT.ENERGISED.j j) 0 with
          out := s.out.filter fun o => o != .edge outSout (2 * j) s.now 0 true && o != .edge outSout (2 * j + 1) s.now 0 true }
      else s) s

/-- What a demand does to the mode (R112, R219): HOLD from LEAD or SERVICE; in HOLD the latch is kept, and a cause that was not active before is a HOLD cause of R113; in LISTEN and SHADOW it is reported only. -/
def State.demandMode (s : State) : State :=
  let was := s.mgn.pstop
  if s.mode == 2 || s.mode == 7 then { s with mgn := { s.mgn with pstop := true } }.holdCause
  else if s.mode == 6 && !was then { s with mgn := { s.mgn with pstop := true } }.holdCause
  else s

/-- A stop demand of a category acts now; a Margin fault (force) de-energises every output (R217, R220). -/
def State.demandStop (s : State) (cat : Nat) (force : Bool) : State :=
  let s := s.rearmUndo
  let s := { (s.flag R.MGN_STAT.LATCHED) with mgn := { s.mgn with clear := 0 } }
  let s : State := forEach [0, 1, 2, 3] (fun j s =>
    if s.rd (R.MGN_SOUT_STAT.ENERGISED.j j) = 0 then s
    else if force || cat = 0 || s.soFunc j ≠ 2 then s.setSout j false
    else
      let o := s.soutOf j
      if o.delay.isSome then s
      else
        let ms := s.act (R.MGN_SOUT_CFG.STOP1_T.j j)
        if ms = 0 then s.setSout j false
        else
          (s.wr (R.MGN_SOUT_STAT.DELAY.j j) ms).putSout j
            { o with delay := some (add32 s.now (1000000 * ms), s.tb.rim + 1000000 * ms) }) s
  let s := if (s.mode == 2 || s.mode == 7) && s.act R.MGN_CFG.STOP_AXIS == 1 then s.stopAxes else s
  s.demandMode

/-- Does any safe input demand? -/
def State.sinDemanding (s : State) : Bool := (List.range 8).any fun i => s.sinFunc i != 0 && (s.sinOf i).acting

/-- The outputs follow the latch where they are driven: an unlatched output in use is energised. -/
def State.driveSouts (s : State) : State :=
  if s.mgnDrives && s.mgn.drv && s.rd R.MGN_STAT.LATCHED == 0 then
    forEach [0, 1, 2, 3] (fun j s => s.setSout j (s.soFunc j != 0)) s
  else s

/-- A rearm event: it rearms where REARM_N consecutive CLEAR decisions stand and no input demands; the protective-stop cause and FAULT clear. A STOP1_T delay that runs goes on: its output de-energises STOP1_T after its demand, and then follows the decisions. -/
def State.rearm (s : State) : State :=
  if s.rd R.MGN_STAT.LATCHED == 1 && max 1 (s.act R.MGN_CFG.REARM_N) ≤ s.mgn.clear && !s.sinDemanding then
    let s := { s.wr R.MGN_STAT.LATCHED 0 with
      mgn := { s.mgn with pstop := false }
      log := { s.log with rearmed := some (s.rd R.MGN_STAT.FAULT == 1, s.mgn.pstop) } }
    let s := if s.mgn.causes = 0 then s.wr R.MGN_STAT.FAULT 0 else s
    s.driveSouts
  else s

/-- DECISION changes. -/
def State.setDecision (s : State) (d : Nat) : State :=
  if s.rd R.MGN_STAT.DECISION = d then s else (s.wr R.MGN_STAT.DECISION d).raiseInt 2

/-- The decision of a run takes effect. -/
def State.decide_ (s : State) (r : MgnRun) : State :=
  let s := if s.mgnDrives then { s with mgn := { s.mgn with drv := true } } else s
  let tested := s.spr.reqs.any fun q => q.unit == uMargin
  let s := match r.done with
    | some _ => if bit s.mgn.causes 0 && !tested then s.mgnCause 0 false else s
    | none => (((s.mgnCause 0 true).flag R.MGN_FLT.LATE).wr R.MGN_DONE.DONE 0x7FFFF).unitError uMargin 0
  let fault := s.mgn.causes != 0
  let d := if fault || r.done.isNone then 2 else r.dec
  let rises := fault && s.rd R.MGN_STAT.FAULT == 0
  let s := if rises then (s.flag R.MGN_STAT.FAULT).journal 3 1 true noUnit else s
  let warnNew := d == 1 && s.rd R.MGN_STAT.DECISION != 1
  let s := s.setDecision d
  let s := if r.done.isSome then
      (s.wr R.MGN_STAT.MARGIN (unsx 16 r.margin)).wr R.MGN_STAT.OCC r.occ else s
  if d = 2 then
    let s := s.inkEvent 5 0
    let s := if s.mgn.stop then s else (s.bump R.MGN_CNT.STOPS R.MGN_FLT.STOPS_OVF).journal 3 0 true noUnit
    { s with mgn := { s.mgn with stop := true } }.demandStop s.stopCat fault
  else
    let s := if d = 1 then s.bump R.MGN_CNT.WARNS R.MGN_FLT.WARNS_OVF else s
    let s := if warnNew then s.journal 3 2 false noUnit else s
    let s := { s with mgn := { s.mgn with stop := false, clear := if d = 0 && !s.sinDemanding then s.mgn.clear + 1 else 0 } }
    let s := if s.act R.MGN_CFG.AUTO_REARM = 1 then s.rearm else s
    s.driveSouts

/-- MARGIN_DECISION (R216): at M + 48,000 ticks the decision takes effect. -/
def execMarginDecision (s : State) : Res :=
  .next (match s.mgn.run with
    | none => s
    | some r =>
      match s.reach (add32 r.start 48000) with
      | none => s
      | some s =>
        let s := { s with mgn := { s.mgn with run := none } }
        if s.mgnRuns then (s.tmrUse 1).decide_ r else s)

/-- STOP1_DELAY_END (R220): the delay of output j expires and the output de-energises. -/
def execStop1DelayEnd (j : Nat) (s : State) : Res :=
  needs (isSout j) (match (s.soutOf j).delay with
    | none => s
    | some (_, rim) => (s.runRim rim).setSout j false)

/-- The rearm event of MGN_ACK; the bit clears itself one tick later (R220). -/
def State.ackWrite (s : State) (value : Nat) : State :=
  let s := if bit value 31 then { s with log := { s.log with wrote := R.MGN_ACK.ACK.key :: s.log.wrote } } else s
  if bit value 31 && s.mgnRuns && s.act R.MGN_CFG.AUTO_REARM == 0 then (s.tmrUse 1).rearm else s

/-- MGN_ACK (R220): a keyed write of MGN_ACK is a rearm event. -/
def execMgnAck (dt : Nat) (src : Src) (value : Nat) (s : State) : Res :=
  let s := s.after dt
  needs (isWord value) (s.swWrite src 9 0x3C0040 fun s => s.keyed src 0x3C0040 fun s => s.ackWrite value)

/-! ### Test pulses and readback (R221) -/

/-- SOUT_TEST_PULSE (R221): channel ch (0 A, 1 B) of output j is pulsed to de-energised for 200 µs. -/
def execSoutTestPulse (dt j ch : Nat) (s : State) : Res :=
  let s := s.after dt
  needs (isSout j && ch < 2) (
    let o := s.soutOf j
    let due := if ch = 0 then o.lastA == 0 || s.tb.rim == o.lastA + 1000000000
      else o.lastA != 0 && s.tb.rim == o.lastA + 500000000
    if s.mgnRuns && s.rd (R.MGN_SOUT_STAT.ENERGISED.j j) == 1 && due then
      let o := { o with pulse := some (ch, s.tb.rim) }
      let o := if ch = 0 then { o with lastA := s.tb.rim, offA := some s.tb.rim } else { o with lastB := s.tb.rim, offB := some s.tb.rim }
      (s.putSout j o).emit (.edge outSout (2 * j + ch) s.now 200000 false)
    else s)

/-- A readback level of channel ch of output j: the rim clock since which the channel is out of its state, and whether the check fails. In a test pulse the channel is out of its state from the pulse's start until it reads de-energised, which it does within 100 µs; from the pulse's end until it reads energised, within 100 µs; and outside a pulse while it disagrees with the commanded state, for at most 100 µs. -/
def State.rbStep (s : State) (j ch : Nat) (level : Bool) : Option Nat × Bool :=
  let o := s.soutOf j
  let on := s.rd (R.MGN_SOUT_STAT.ENERGISED.j j) == 1
  let r := s.tb.rim
  let off := if ch = 0 then o.offA else o.offB
  let free := if level == on then (none, false) else (some (off.getD r), decide (100000 < r - off.getD r))
  match o.pulse with
  | none => free
  | some (c, t) =>
    if c ≠ ch then free
    else if r < t + 200000 then
      if level then (off, off == some t && 100000 ≤ r - t) else (some (t + 200000), false)
    else if level == on then (none, false)
    else
      let u := match off with | some u => max u (t + 200000) | none => r
      (some u, 100000 < r - u || (u == t + 200000 && r - u == 100000))

/-- SOUT_READBACK_CHECK (R221): the readback levels of output j. SOUT_RB is present while any output's readback fails. -/
def execSoutReadbackCheck (dt j : Nat) (rda rdb : Bool) (s : State) : Res :=
  let s := s.after dt
  needs (isSout j) (
    if !s.mgnRuns then s
    else
      let s := (s.wrB (R.MGN_SOUT_STAT.RB_A.j j) rda).wrB (R.MGN_SOUT_STAT.RB_B.j j) rdb
      let on := s.rd (R.MGN_SOUT_STAT.ENERGISED.j j) == 1
      let a := s.rbStep j 0 rda
      let b := s.rbStep j 1 rdb
      let fails := a.2 || b.2
      let o := s.soutOf j
      let s := s.putSout j { o with offA := a.1, offB := b.1, bad := fails || (o.bad && !(rda == on && rdb == on)) }
      let s := s.mgnCause 2 ([0, 1, 2, 3].any fun j => (s.soutOf j).bad)
      if fails then s.flag R.MGN_FLT.SOUT_RB else s)

/-! ### Safe inputs (R222, R224) -/

/-- One channel at a boundary: accepted level and count of periods for which the raw level has differed. -/
def sinFilt (acc : Bool) (n filt : Nat) (raw : Bool) : Bool × Nat :=
  if raw = acc then (acc, 0) else if filt ≤ n then (raw, 0) else (acc, n + 1)

/-- Are the accepted channels of input i in agreement? -/
def State.sinAgree (s : State) (i : Nat) (x : SafeIn) : Bool := x.a == (x.b != (s.act (R.MGN_SIN_CFG.ANTIV.j i) == 1))
/-- Is the input energised, or its enabling device in the middle position? While its accepted channels disagree it counts as it stood when they last agreed, until DISC_T has passed (DEDUCED, log 68: a disagreement is a demand only then). -/
def SafeIn.live (x : SafeIn) : Bool := x.on && !x.disc

/-- Does input i demand in its accepted state (R222, R224)? -/
def State.sinDem (s : State) (i : Nat) : Bool :=
  let f := s.sinFunc i
  if f = 1 || f = 2 then !(s.sinOf i).live
  else if f = 3 then s.mode == 7 && !((List.range 8).any fun k => s.sinFunc k == 3 && (s.sinOf k).live)
  else false

/-- The demand of input i in its accepted state: one that begins acts 1,000 ticks later. -/
def State.sinShow (s : State) (i : Nat) : State :=
  let x := s.sinOf i
  let dem := s.sinDem i
  let due := if dem && !x.acting then some (add32 s.now 1000) else x.due
  let s := (s.wrB (R.MGN_SIN_STAT.DEMAND.j i) (dem || (s.sinFunc i == 3 && !x.live))).wrB (R.MGN_SIN_STAT.DISC.j i) x.disc
  s.putSin i { x with due := due, acting := dem }

/-- The demands of all inputs, each by the accepted states of all. -/
def State.sinShowAll (s : State) : State := forEach (List.range 8) (fun i s => s.sinShow i) s

/-- The levels of both channels of input i at a base boundary are filtered. -/
def State.sinTake (s : State) (i : Nat) (a b : Bool) : State :=
  let s := (s.wrB (R.MGN_SIN_STAT.RAW_A.j i) a).wrB (R.MGN_SIN_STAT.RAW_B.j i) b
  let x := s.sinOf i
  let filt := max 1 (s.act (R.MGN_SIN_CFG.FILT.j i))
  let fa := sinFilt x.a x.na filt a
  let fb := sinFilt x.b x.nb filt b
  let x := { x with a := fa.1, na := fa.2, b := fb.1, nb := fb.2 }
  let used := s.sinFunc i != 0
  let agree := s.sinAgree i x
  let x := if used && !agree then { x with since := match x.since with | some t => some t | none => some s.tb.rim }
    else { x with since := none, disc := false }
  s.putSin i { x with on := if agree then x.a else x.on }

/-- A RESET input whose accepted state has risen since the states before is a rearm event (R220, R222). -/
def State.sinResets (s : State) (before : State) : State :=
  if s.act R.MGN_CFG.AUTO_REARM = 0 && (List.range 8).any fun i => s.sinFunc i == 4 && (s.sinOf i).live && !(before.sinOf i).live then s.rearm
  else s

/-- SIN_DISC is present while any input in use has a discrepancy. -/
def State.discCause (s : State) : State := s.mgnCause 3 ((List.range 8).any fun i => s.sinFunc i != 0 && (s.sinOf i).disc)

/-- All safe inputs at a base boundary; bit i of the word is channel A of SINi, bit 8 + i channel B. -/
def State.sinBoundary (s : State) (w : Nat) : State :=
  if s.mgnRuns then
    let s := s.tmrUse 1
    ((forEach (List.range 8) (fun i s => s.sinTake i (bit w i) (bit w (8 + i))) s).sinShowAll.discCause.sinResets s)
  else s

/-- SIN_DISCREPANCY (R222): the channels of input i have disagreed for longer than DISC_T. -/
def execSinDiscrepancy (dt i : Nat) (s : State) : Res :=
  let s := s.after dt
  needs (isSin i) (
    let x := s.sinOf i
    match x.since with
    | some t =>
      if s.mgnRuns && s.sinFunc i != 0 && 1000000 * s.act (R.MGN_SIN_CFG.DISC_T.j i) < s.tb.rim - t then
        (s.putSin i { x with disc := true }).sinShowAll.discCause.flag R.MGN_FLT.SIN_DISC
      else s
    | none => s)

/-- SIN_DEMAND (R222): an accepted demand of input i acts 1,000 ticks after its boundary. -/
def execSinDemand (i : Nat) (s : State) : Res :=
  needs (isSin i) (match (s.sinOf i).due with
    | none => s
    | some t =>
      match s.reach t with
      | none => s
      | some s =>
        let s := s.putSin i { s.sinOf i with due := none }
        if !s.mgnRuns then s
        else
          let cat := if s.sinFunc i = 3 then s.stopCat
            else if s.act (R.MGN_SIN_CFG.CAT.j i) = 0 then 0 else 1
          s.demandStop cat false)

end Sys2Proof.Machine
end

