-- ==== Sys2Proof/Machine/Balls.lean ====
section
/-! DEFINITION. The balls that a change of mode drives or releases (R91, R111, R253, R294, R300). -/

namespace Sys2Proof.Machine

/-- Output class of the modulator clocks. -/
def outSdck : Nat := 9

/-- Do the modulator clock j and the bridge b have their balls: after BOOT, in use by the image (R294, R300)? -/
def State.sdckRuns (s : State) (j : Nat) : Bool := s.alive && s.mode != 0 && s.dom 21 && s.rd (R.SD_CK.EN.j j) == 1
/-- Is bridge b driven, be it off? -/
def State.pbBall (s : State) (b : Nat) : Bool := s.alive && s.mode != 0 && s.dom 21 && bit s.dev.cfg.pbMask b

/-- Modulator clock j runs with its period from now on (R300). -/
def State.sdckShow (s : State) (j : Nat) : State :=
  let p := max 19 (min 999 (s.rd (R.SD_CK.CKDIV.j j))) + 1
  s.emit (.clock outSdck j s.now p (p / 2))

/-- Both sides of every phase of bridge b are off (R294). -/
def State.pbOffShow (s : State) (b : Nat) : State :=
  forEach [0, 1, 2] (fun p s =>
    (s.emit (.edge outPbH (3 * b + p) s.now 0 (s.rd (R.PB_CFG.POL_H.i b) == 1))).emit
      (.edge outPbL (3 * b + p) s.now 0 (s.rd (R.PB_CFG.POL_L.i b) == 1))) s

/-- The bridges stop following their duties before a mode in which none does. -/
def State.ballsLeave (s : State) (m : Nat) : State :=
  if m = 2 || m = 4 || m = 6 || m = 7 then s else forEach (List.range 12) (fun b s => s.pbLeave b) s

/-- The balls show what a change of mode has changed. -/
def State.ballsTo (old s : State) : State :=
  let s := old.fbPins s
  let s : State := if old.driven = s.driven then s
    else forEach (List.range 8) (fun j s => if s.evMode j = 0 then s else if s.driven then s.evDrive j else s.emit (.hiZ outEvt j s.now)) s
  let s : State := forEach (List.range 12) (fun b s =>
    let s := if !old.pbBall b && s.pbBall b then s.pbOffShow b else s
    old.pbSwitch s b) s
  forEach [0, 1, 2, 3] (fun j s => if !old.sdckRuns j && s.sdckRuns j then s.sdckShow j else s) s

/-- Every ball that a function drives becomes high-impedance, as BOOT and reset have it (R98, R253, R294, R300). -/
def State.ballsQuit (s : State) : State :=
  let s := s.ballsLeave 0
  let s : State := if s.driven then forEach (List.range 8) (fun j s => if s.evMode j = 0 then s else s.emit (.hiZ outEvt j s.now)) s else s
  let s : State := forEach (List.range 16) (fun k s => forEach [0, 1, 2] (fun i s =>
    if (s.fbOut k i).isSome then s.emit (.hiZ outFb (3 * k + i) s.now) else s) s) s
  let s : State := forEach (List.range 12) (fun b s =>
    if s.pbBall b then forEach [0, 1, 2] (fun p s => (s.emit (.hiZ outPbH (3 * b + p) s.now)).emit (.hiZ outPbL (3 * b + p) s.now)) s else s) s
  forEach [0, 1, 2, 3] (fun j s => if s.sdckRuns j then s.emit (.hiZ outSdck j s.now) else s) s

end Sys2Proof.Machine
end

