-- ==== Sys2Proof/Machine/Ring.lean ====
section
/-! DEFINITION. The ring (spec/12_inkline_ring.md, spec/13_inkline_startup.md) and the twin link (spec/14_twin_failover.md) as the other units see them: frames as bytes, lanes and ports, claims, STATUS messages, surrender, and what a change of mode does to the channels. -/

namespace Sys2Proof.Machine

/-- Channel ch. -/
def State.chan (s : State) (ch : Nat) : Chan := tget .zero s.chans ch
/-- Replace a channel. -/
def State.putChan (s : State) (ch : Nat) (c : Chan) : State := { s with chans := tput .zero s.chans ch c }
/-- Change a channel. -/
def State.modChan (s : State) (ch : Nat) (f : Chan → Chan) : State := s.putChan ch (f (s.chan ch))

/-- STATE of a channel: 0 off, 1 listening, 2 integrating, 3 running, 4 lost. -/
def State.chState (s : State) (ch : Nat) : Nat := s.rd (R.IKL_STAT.STATE.i ch)
/-- The image uses the channel. -/
def State.used (s : State) (ch : Nat) : Bool := s.role ch != 0
/-- Is the device past BOOT, so that its lanes carry frames (R308)? -/
def State.ringUp (s : State) (ch : Nat) : Bool := s.alive && s.tb.run && s.mode != 0 && s.used ch
/-- FOLD_OK. -/
def State.foldOk (s : State) (ch : Nat) : Bool := s.rd (R.IKL_CFG.FOLD_OK.i ch) == 1
/-- LOSS_N; 0 acts as 1. -/
def State.lossN (s : State) (ch : Nat) : Nat := max 1 (s.act (R.IKL_MON.LOSS_N.i ch))
/-- LOSS_CYC; below 3 acts as 3. -/
def State.lossCyc (s : State) (ch : Nat) : Nat := max 3 (s.act (R.IKL_START.LOSS_CYC.i ch))
/-- The 48-bit serial. -/
def State.serial (s : State) : Nat := s.rd R.DEV_SERIAL_HI.SERIAL_HI * p2 32 + s.rd R.DEV_SERIAL_LO.SERIAL_LO
/-- The configured claim. -/
def State.claimCfg (s : State) : Nat := s.rd R.TWN_CFG.CLAIM_CFG
/-- CS_STATE, which every channel shows alike: 0 not a candidate, 1 waiting, 2 originating, 3 backoff, 4 yielded, 5 won. -/
def State.csState (s : State) : Nat := if s.used 0 then s.rd (R.IKL_CS.CS_STATE.i 0) else s.rd (R.IKL_CS.CS_STATE.i 1)
/-- CS_STATE on every channel of the image. -/
def State.setCs (s : State) (x : Nat) : State :=
  forEach [0, 1] (fun ch s => if s.used ch then s.wr (R.IKL_CS.CS_STATE.i ch) x else s) s
/-- Cold-start capable (R339)? -/
def State.csCap (s : State) : Bool := (s.role 0 == 1 || s.role 1 == 1) && s.dev.cfg.coldStart
/-- Is the image leader-capable? -/
def State.leaderImage (s : State) : Bool := s.role 0 == 1 || s.role 1 == 1
/-- Effective claim (R364). -/
def State.claim (s : State) : Nat :=
  if (s.roleMode == 2 && !s.dev.surrender) || (s.mode == 1 && s.csState == 2) then s.claimCfg else 0

/-- T_wait of R340 in ns. -/
def State.tWait (s : State) : Nat :=
  let c := fun ch => if s.used ch then s.cycle ch else 0
  3 * max (c 0) (c 1) + (0xFFFF - s.claimCfg) * 16

/-- Does the device originate frames on channel ch (R111, R338, R346, R369)? -/
def State.leads (s : State) (ch : Nat) : Bool :=
  s.nNodes ch != 0 &&
    ((s.role ch == 1 && s.roleMode == 2 && !s.dev.surrender) || (s.role ch == 4 && s.roleMode == 5))
/-- Is the device on the originating side of the channel, whether it still originates or not? -/
def State.leadSide (s : State) (ch : Nat) : Bool :=
  (s.role ch == 1 && s.roleMode == 2) || (s.role ch == 4 && s.roleMode == 5)
/-- Does a candidate originate cold-start frames (R342)? -/
def State.candidates (s : State) : Bool := s.mode == 1 && s.csState == 2
/-- Does the device play the originator of the channel, as its leader or as a candidate (R329, R342)? -/
def State.originSide (s : State) (ch : Nat) : Bool := s.leadSide ch || (s.candidates && s.used ch)
/-- Does the device write its segments on channel ch (R111, R321)? -/
def State.writes (s : State) (ch : Nat) : Bool :=
  (s.roleMode == 4 || s.roleMode == 5) && s.chState ch == 3 && s.role ch != 4

/-! ### Bytes of frames -/

/-- CRC-16 of R313. -/
def crc16 (b : List Nat) : Nat := crcBits 16 0x1021 0xFFFF (b.flatMap (msbBits 8))

/-- n bytes at an offset. -/
def cut (b : List Nat) (o n : Nat) : List Nat := (b.drop o).take n
/-- The little-endian word of n bytes at an offset. -/
def wordAt (b : List Nat) (o n : Nat) : Nat := leNat (cut b o n)
/-- Bytes put over a list at an offset. -/
def paste (b : List Nat) (o : Nat) (x : List Nat) : List Nat := b.take o ++ x ++ b.drop (o + x.length)

/-- A frame header (R313). -/
structure Hdr where
  ftype : Nat
  flags : Nat
  len : Nat
  cyc : Nat
  tOrig : Nat
  claim : Nat
  leader : Nat
  serial : Nat
  wseq : Nat
  action : Nat
  actCyc : Nat
  sched : Nat
  deriving DecidableEq, Repr

/-- The header of a frame. -/
def hdrOf (b : List Nat) : Hdr :=
  let w := wordAt b
  ⟨w 0 1, w 1 1, w 2 2, w 4 4, w 8 4, w 0xC 2, w 0xE 2, w 0x10 6, w 0x16 1, w 0x17 1, w 0x18 4, w 0x1C 2⟩

/-- The 32 bytes of a header with its HCRC. -/
def Hdr.bytes (h : Hdr) : List Nat :=
  let b := [h.ftype, h.flags] ++ leBytes 2 h.len ++ leBytes 4 h.cyc ++ leBytes 4 h.tOrig ++ leBytes 2 h.claim ++
    leBytes 2 h.leader ++ leBytes 6 h.serial ++ [h.wseq, h.action] ++ leBytes 4 h.actCyc ++ leBytes 2 h.sched
  b ++ leBytes 2 (crc16 b)

/-- Is HCRC good? -/
def hcrcOk (b : List Nat) : Bool := wordAt b 0x1E 2 == crc16 (b.take 0x1E)
/-- Is TCRC good (R317)? -/
def tcrcOk (b : List Nat) : Bool := wordAt b (b.length - 2) 2 == crc16 (cut b (b.length - 4) 2)
/-- FOLDED of a header. -/
def Hdr.folded (h : Hdr) : Bool := bit h.flags 3
/-- DIR of a header: the copy originated on P0. -/
def Hdr.dir (h : Hdr) : Bool := bit h.flags 1
/-- The originator's ADDR. -/
def Hdr.addr (h : Hdr) : Nat := h.leader % 4096
/-- The originator of a frame. -/
def Hdr.orig (h : Hdr) : Orig := ⟨h.claim, h.serial, h.leader, h.wseq⟩

/-- A trailer (R317). -/
def trailer (errs npass : Nat) : List Nat :=
  let b := [min 0xFF errs, min 0xFF npass]
  b ++ leBytes 2 (crc16 b)

/-- A segment (R315): its TYPE, VALID, WRITER, SEQ, ARR_ERR, NSTAT, STAMP and DATA. -/
def segBytes (typ : Nat) (valid : Bool) (writer seq arr nstat stamp : Nat) (data : List Nat) : List Nat :=
  let b := leBytes 2 (b2n valid * p2 15 + typ * p2 12 + writer) ++ [seq % 256, arr % 256] ++ leBytes 2 nstat ++
    [0, 0] ++ leBytes 4 stamp ++ data
  b ++ leBytes 4 (crc32c b)

/-- A null segment (R316). -/
def nullSeg (typ writer seq arr nstat n : Nat) : List Nat :=
  segBytes typ false writer seq arr nstat 0 (List.replicate n 0)

/-- Is the CRC of a segment good and its TYPE defined (R316)? -/
def segOk (g : List Nat) : Bool :=
  20 ≤ g.length && wordAt g (g.length - 4) 4 == crc32c (g.take (g.length - 4)) && bits (wordAt g 0 2) 14 12 ≤ 3
/-- VALID of a segment. -/
def segValid (g : List Nat) : Bool := bit (wordAt g 0 2) 15
/-- WRITER of a segment. -/
def segWriter (g : List Nat) : Nat := wordAt g 0 2 % 4096
/-- STAMP of a segment. -/
def segStamp (g : List Nat) : Nat := wordAt g 8 4
/-- DATA of a segment. -/
def segData (g : List Nat) : List Nat := cut g 0xC (g.length - 16)

/-! ### Lanes and ports (R306, R328 to R330) -/

/-- The lane of a port: primary, or spare. -/
def laneNo (ch port : Nat) (spare : Bool) : Nat := 4 * ch + 2 * port + b2n spare
/-- The offset of LANE_STAT of a lane in space 0x04. -/
def laneStat (l : Nat) : Nat := l * 0x100 + 4
/-- Does lane l have block lock? -/
def State.locked (s : State) (l : Nat) : Bool := bit (s.mem32 4 (laneStat l)) 31
/-- A bit of LANE_STAT is set or cleared. -/
def State.laneBit (s : State) (l b : Nat) (x : Bool) : State :=
  s.putMem32 4 (laneStat l) (setBits (s.mem32 4 (laneStat l)) b b (b2n x))
/-- Does the port receive on its spare lane? -/
def State.onSpare (s : State) (ch port : Nat) : Bool :=
  s.rd ((if port = 0 then R.IKL_STAT.P0_SPARE else R.IKL_STAT.P1_SPARE).i ch) == 1
/-- IN_USE of the lanes of a port shows the lane it receives on. -/
def State.showUse (s : State) (ch port : Nat) : State :=
  let sp := s.onSpare ch port
  (s.laneBit (laneNo ch port false) 28 (s.used ch && !sp)).laneBit (laneNo ch port true) 28 (s.used ch && sp)
/-- The port receives on its spare lane, or on its primary. -/
def State.setSpare (s : State) (ch port : Nat) (x : Bool) : State :=
  (s.wrB ((if port = 0 then R.IKL_STAT.P0_SPARE else R.IKL_STAT.P1_SPARE).i ch) x).showUse ch port
/-- Px_DOWN. -/
def downF (port : Nat) : Fld := if port = 0 then R.IKL_STAT.P0_DOWN else R.IKL_STAT.P1_DOWN
/-- Is a port down? -/
def State.down (s : State) (ch port : Nat) : Bool := s.rd ((downF port).i ch) == 1
/-- The rim clocks since block lock of a lane last changed. -/
def State.lockAge (s : State) (l : Nat) : Nat := s.tb.rim - tget 0 s.ring.lockAt l

/-- A frame leaves a port, `late` (2^-4 ns) after a tick; a requested lane switch of the transmitter takes effect with it (R328). -/
def State.sendFrame (s : State) (ch port at_ late : Nat) (b : List Nat) : State :=
  let c := s.chan ch
  let s := match c.txReq.find? fun r => r.1 == port with
    | none => s
    | some r => s.putChan ch { c with
        txReq := c.txReq.filter (fun r => r.1 != port)
        tx := if r.2 then port :: c.tx.filter (· != port) else c.tx.filter (· != port) }
  s.emit (.frame ch port at_ late b)

/-- The ordered set that requests a lane of the far transmitter: block type, D1 and D2 (R328). -/
def switchSet (spare : Bool) : List Nat := [0x4B, 0x5C, b2n spare]

/-- The switch requests that go out in the idle gap of a cycle: for the spare lane of each port that waits for it while that lane has block lock, and for the primary lane of each port whose REVERT bit stands (R328). -/
def State.askLanes (s : State) (ch : Nat) : State :=
  forEach [0, 1] (fun port s =>
    let s := if (s.chan ch).req.contains port && s.locked (laneNo ch port true) then
        s.emit (.frame ch port s.now 0 (switchSet true)) else s
    if s.rd ((if port = 0 then R.IKL_CTRL.REVERT_P0 else R.IKL_CTRL.REVERT_P1).i ch) = 1 then
      s.emit (.frame ch port s.now 0 (switchSet false)) else s) s

/-- The frame goes on to the other port, or back where this device folds, 76 ns ± 1 ns after its arrival; the trailer takes its part (R308, R314, R317, R329). The nanosecond within the tolerance is a free value (log entry 28). -/
def State.forward (s : State) (ch port arr : Nat) (b : List Nat) (err : Bool) : State :=
  let h := hdrOf b
  let out := 1 - port
  let loop := s.rd (R.IKL_STAT.FOLD.i ch) == 1 && (s.chan ch).fp.contains out && !s.leadSide ch
  let b := if loop then
      (let b := paste b 1 [setBits h.flags 3 3 1]
       if hcrcOk (paste b 1 [h.flags]) then paste b 0x1E (leBytes 2 (crc16 (b.take 0x1E))) else b)
    else b
  let t := b.length - 4
  let errs := b.getD t 0 + b2n err
  let np := b.getD (t + 1) 0 + b2n (!h.folded)
  let b := if err || !h.folded then paste b t (trailer errs np) else b
  (s.sendFrame ch (if loop then port else out) (add32 arr (75 + Config.freeNat s.free % 3)) 0 b).useFree

/-! ### Twin messages (R357, R358) -/

/-- K of R193. -/
def State.rulOver (s : State) : Bool :=
  max 1 (min 8 (s.act R.RUL_OVR_CFG.K)) ≤ s.rd R.RUL_STAT.CONSEC

/-- HEALTH of R358. -/
def State.health (s : State) : Nat :=
  s.rd R.TWN_STAT.READY + 2 * s.rd R.TWN_STAT.SYNC + 4 * b2n (s.mode == 6) + 8 * b2n s.dev.surrender +
    16 * b2n s.twin.hbReq + 32 * s.rd R.MGN_STAT.FAULT + 64 * b2n s.rulOver

/-- CH_RX of R358. -/
def State.chRx (s : State) : Nat :=
  let f := fun ch =>
    let c := s.chan ch
    if s.used ch && (c.got || (c.noAcc == 0 && c.lastNum.isSome)) then p2 (s.dch ch) % 256 else 0
  if s.used 0 && s.used 1 && s.dch 0 == s.dch 1 then max (f 0) (f 1) else f 0 + f 1

/-- A STATUS message is sent. -/
def State.sendStatus (s : State) : State :=
  let s := s.twinSend 1 [s.mode, s.health, s.claim, s.claimCfg, s.chRx, s.serial, s.rd R.TWN_SIG.PAIR_SIG,
    s.rd R.TWN_HB.HB_AT, s.schedId 0, s.schedId 1]
  { s with twin := { s.twin with health := s.health } }

/-- A change of HEALTH sends a STATUS at once (R357). -/
def State.healthCheck (s : State) : State := if s.twinOn && s.health ≠ s.twin.health then s.sendStatus else s

/-- A SOLVE message from a solve completion (R357, R360): kept state, σ and δ last released, CONSEC. -/
def State.solveSend (s : State) : State :=
  if s.mirrors && s.twinOn then
    let s := { s with twin := { s.twin with seq := add32 s.twin.seq 1 } }
    s.emit (.solve ⟨true, s.twin.seq, s.now, s.rul.kept.getD ⟨0, [], [], []⟩, s.rul.sigma, s.delta, s.rd R.RUL_STAT.CONSEC⟩)
  else s

/-- SYNC and READY end, and with READY a hand-back request (R363, R374). -/
def State.twinUnsync (s : State) : State :=
  let s := (s.wr R.TWN_STAT.SYNC 0).wr R.TWN_STAT.READY 0
  (({ s with twin := { s.twin with snapRun := 0, snapMiss := 0, solved := false, readyAt := none, hbReq := false } }).wr
    R.TWN_CTRL.HB_NOW 0)

/-- A granted hand-back ends without taking place (R375). -/
def State.hbCancel (s : State) : State :=
  if s.rd R.TWN_STAT.HB_PEND = 0 then s
  else
    let s := ((s.wr R.TWN_STAT.HB_PEND 0).wr R.TWN_STAT.HB_FINAL 0).wr R.TWN_HB.HB_AT 0
    let ra := if s.rd R.TWN_STAT.READY = 1 then some s.tb.rim else none
    let s := { s with twin := { s.twin with hb := none, hbReq := false, readyAt := ra } }
    let s : State := forEach [0, 1] (fun ch s => s.modChan ch fun c => { c with
      go := none, act := if (c.act.map (·.1)) = some 2 then none else c.act }) s
    let s := if s.dev.pendKind = 4 then s.clearPend else s
    s.flag R.TWN_FLAGS.HB_CANCEL

/-! ### Virtual origin (R366) -/

/-- The index of the node entry with an address. -/
def State.nodeIdx (s : State) (ch a : Nat) : Option Nat :=
  (List.range (s.nNodes ch)).find? fun i => s.sched ch (0x100 + 0x10 * i) 2 % 4096 == a
/-- POS of node entry i. -/
def State.nodePos (s : State) (ch i : Nat) : Nat := s.sched ch (0x100 + 0x10 * i + 2) 1
/-- POS of the device, if its address has a node entry. -/
def State.ownPos (s : State) (ch : Nat) : Option Nat := (s.nodeIdx ch (s.ownAddr ch)).map (s.nodePos ch)

/-- V in 2^-4 ns: the standby at POS 1 that leads originates IKL_DLY + 76 ns later. -/
def State.vorg (s : State) (ch : Nat) : Nat :=
  if s.roleMode == 2 && s.role ch == 1 && s.ownPos ch == some 1 then s.rd (R.IKL_DLY.VALUE.i ch) + 76 * 16 else 0
/-- TWN_VORG shows V. -/
def State.showVorg (s : State) : State := (s.wrU R.TWN_VORG.V_A (s.vorg 0)).wrU R.TWN_VORG.V_B (s.vorg 1)

/-! ### Cycle starts (R310) -/

/-- Ticks from the epoch to the present tick, by the base index. -/
def State.sinceEpoch (s : State) : Nat := s.baseK * 31250 + sub32 s.now s.tb.latB

/-- The latest cycle start known or computed, and its number. -/
def State.cycAnchor (s : State) (ch : Nat) : Nat × Nat :=
  match (s.chan ch).at_ with
  | some t => (t, s.cycNum ch)
  | none =>
    let c := max 1 (s.cycle ch)
    let e := s.sinceEpoch
    let o := s.cycOfs ch
    let j : Int := ((e : Int) - (o : Int)) / (c : Int)
    (unsx 32 ((s.now : Int) - ((e : Int) - (o : Int) - j * (c : Int))), unsx 32 j)

/-- The tick of the next cycle start. -/
def State.nextCyc (s : State) (ch : Nat) : Nat := add32 (s.cycAnchor ch).1 (s.cycle ch)

/-! ### Modes and the ring -/

/-- The channel that steered the local clock follows nothing: it steers no more, and the clock holds over. -/
def State.steerLost (s : State) : State :=
  let s := { s with ring := { s.ring with steer := none } }
  let s := if s.rd R.TB_CTRL.P_SRC = 2 then s.wr R.TB_CTRL.P_SRC 3 else s
  if s.rd R.TB_CTRL.L_SRC = 2 then s.wr R.TB_CTRL.L_SRC 3 else s

/-- A channel follows nothing: it listens anew, INT_CNT 0, and folds only where one of its own ports is down (R329). -/
def State.listenCh (s : State) (ch : Nat) : State :=
  if !s.used ch then s
  else
    let s := (s.wr (R.IKL_STAT.STATE.i ch) 1).wr (R.IKL_CS.INT_CNT.i ch) 0
    let s := (s.wr (R.IKL_CS.LL_ACT.i ch) 0).wr (R.IKL_STAT.REMAP.i ch) 0
    let s := s.wrB (R.IKL_STAT.FOLD.i ch) (!(s.chan ch).fp.isEmpty)
    let s := if s.ring.steer = some ch then s.steerLost else s
    s.modChan ch fun c => { c with
      img := none, imgAlt := none, orig := false, go := none, got := false, heard := false, quiet := 0, noAcc := 0,
      lastNum := none, fol := none, readyAt := none, rejoin := none, expired := false, missing := false, react := [],
      act := none, remap := none, hdrRemap := false, wsegs := [], par := [], closed := true, csRet := 0, noRet := 0, foldDue := false }

/-- Entry into LISTEN (R339, R340): the T_wait timer starts; `fresh`: the channels listen anew. -/
def State.listenRing (s : State) (fresh : Bool) : State :=
  let s := if fresh then (s.listenCh 0).listenCh 1 else s
  let s := { s with ring := { s.ring with csFrom := s.tb.rim, backAt := none } }
  let s : State := forEach [0, 1] (fun ch s => if s.used ch then
      (s.wrB (R.IKL_CS.CS_CAP.i ch) s.csCap).wrU (R.IKL_CS.T_WAIT.i ch) (if s.csCap then ceilDiv s.tWait 1000 else 0)
    else s) s
  (s.setCs (if s.csCap then 1 else 0)).showVorg

/-- A channel begins to be originated: running, with nothing published (R324, R346, R371). -/
def State.leadCh (s : State) (ch : Nat) : State :=
  let s := s.wr (R.IKL_STAT.STATE.i ch) 3
  let s := s.wr (R.IKL_CS.LL_ACT.i ch) 0
  let s := s.putApp ch { s.appOf ch with pubs := [] }
  s.modChan ch fun c => { c with
    img := none, imgAlt := none, orig := false, closed := true, noRet := 0, good := 0, missing := false, react := [],
    act := none, missRun := [], remap := none, foldDue := !c.fp.isEmpty }

/-- The steering source and the active domain that a role gives (R73), where the role changes: domain L is free in LEAD and SHADOW, and active, steered by the ring heard, in LISTEN. -/
def State.roleTime (s : State) (oldRole : Nat) : State :=
  let r := s.roleMode
  if r = oldRole then s
  else if r = 2 || r = 3 then s.wr R.TB_CTRL.L_SRC 0
  else if r = 1 then (s.switchDomain false).wr R.TB_CTRL.L_SRC (if s.ring.steer.isSome then 2 else s.rd R.TB_CTRL.L_SRC)
  else s

/-- The device changes mode, and its channels with it (R111, R339, R346, R353, R369, R371). -/
def State.modeChange (s : State) (m : Nat) (takeover : Bool) : State :=
  let old := s.mode
  let oldRole := s.roleMode
  let s := if 1 ≤ m && m ≤ 5 then (s.takeTables 0).takeTables 1 else s
  let before := s.ballsLeave m
  let s := before.enterMode m takeover
  let s := before.ballsTo (if old = 0 then s.fbBegin else s)
  let role := s.roleMode
  let s := if old == 1 && m != 1 then
      (if m == 2 then s.setCs (if s.csState == 2 then 5 else s.csState)
       else { s.setCs 0 with ring := { s.ring with backAt := none } })
    else s
  let s := if m = 1 then s.listenRing (oldRole == 2 || oldRole == 4 || oldRole == 5) else s
  let s := if role == 2 && oldRole != 2 then
      (let s : State := forEach [0, 1] (fun ch s => if s.role ch == 1 && s.nNodes ch != 0 then s.leadCh ch else s) s
       let s := if takeover then
           forEach [0, 1] (fun ch s => s.modChan ch fun c => { c with dm := true }) s
         else s
       s.showVorg)
    else s
  let s : State := if m = 5 then forEach [0, 1] (fun ch s => if s.role ch == 4 then s.leadCh ch else s) s else s
  let s := if m = 3 then
      (let s : State := forEach [0, 1] (fun ch s => s.modChan ch fun c => { c with
         fol := none, lastNum := some (s.cycNum ch), orig := false, act := none, closed := true, noAcc := 0 }) s
       s.showVorg)
    else s
  let s := (if oldRole == 3 && role != 3 then s.twinUnsync else s).roleTime oldRole
  let s : State := if m == 2 || m == 3 || m == 4 then
      forEach (s.lanes.map (·.1)) (fun n s => s.putLane n { s.lane n with brake := none }) s else s
  s.pRateCheck.healthCheck

/-- Does the device originate any channel? -/
def State.leadsAny (s : State) : Bool := s.leads 0 || s.leads 1

/-- The items of R368 that fail in the device's own units, as bits; the second part compares with the peer's last STATUS. -/
def State.surrItems (s : State) : Nat :=
  let tb := s.rd R.TB_STAT.REF_LOSS == 1 || s.spr.retired.any (fun u => 0x5000 ≤ u && u < 0x5018)
  let ikl := (s.role 0 == 1 && s.chState 0 == 4) || (s.role 1 == 1 && s.chState 1 == 4)
  ((b2n tb + 2 * b2n s.sprFails) ||| s.twin.fixed) + 4 * b2n ikl + 8 * s.rd R.MGN_STAT.FAULT +
    16 * b2n s.rulOver

/-- The items that make the device surrender now: a fixed item always, an enabled one against a READY peer that is better off. -/
def State.surrDue (s : State) : Nat :=
  let i := s.surrItems
  let en := s.act R.TWN_CFG.SURR_EN
  let fixed := i % 4
  match s.twin.peer with
  | none => fixed
  | some p =>
    if !s.twinUp || !bit p.health 0 then fixed
    else
      let ch := fun c => s.role c == 1 && s.chState c == 4 && bit p.chRx (s.dch c)
      fixed + 4 * b2n (bit en 0 && (ch 0 || ch 1)) + 8 * b2n (bit en 1 && bit i 3 && !bit p.health 5) +
        16 * b2n (bit en 2 && bit i 4 && !bit p.health 6)

/-- The device surrenders (R369): STATUS with SURRENDER, claim 0, and LISTEN at its first cycle start after this tick, or at the next base boundary where it originates nothing. -/
def State.surrenderNow (s : State) (items : Nat) (req : Bool) : State :=
  if s.claim = 0 || s.roleMode ≠ 2 then s
  else
    let any := s.leadsAny
    let s := s.holdUndo.hbCancel.trigger
    let s := { s with dev := { s.dev with surrender := true },
                      twin := { s.twin with fixed := s.twin.fixed ||| items % 4 } }
    let s := (s.wr R.TWN_SURR.SURR_LAST items).wrB R.TWN_SURR.REQ req
    let s := (s.bump R.TWN_CNT_B.SURR_CNT R.TWN_FLAGS.SURR_OVF).flag R.TWN_FLAGS.SURRENDERED
    (s.setPend 1 (if any then 2 else 1) s.now).healthCheck

/-! ### Requests of IKL_CTRL -/

/-- A write of REVERT_P0 or REVERT_P1: the request for the primary lane goes out on the reverse lanes of the port (R328). -/
def State.revertWrite (s : State) (ch port : Nat) : State :=
  let s := s.wr ((if port = 0 then R.IKL_CTRL.REVERT_P0 else R.IKL_CTRL.REVERT_P1).i ch) 1
  if s.ringUp ch then s.emit (.frame ch port s.now 0 (switchSet false)) else s

/-- REVERT_P0. -/
def execRevertP0 (dt : Nat) (src : Src) (ch : Nat) (s : State) : Res :=
  let s := s.after dt
  needs (isCh ch) (s.swWrite src (17 + ch) (R.IKL_CTRL.DM_NOW.i ch).addr fun s => s.revertWrite ch 0)

/-- REVERT_P1. -/
def execRevertP1 (dt : Nat) (src : Src) (ch : Nat) (s : State) : Res :=
  let s := s.after dt
  needs (isCh ch) (s.swWrite src (17 + ch) (R.IKL_CTRL.DM_NOW.i ch).addr fun s => s.revertWrite ch 1)

/-- DM_NOW (R318): a delay measurement at the next cycle. -/
def execDmNow (dt : Nat) (src : Src) (ch : Nat) (s : State) : Res :=
  let s := s.after dt
  needs (isCh ch) (s.swWrite src (17 + ch) (R.IKL_CTRL.DM_NOW.i ch).addr fun s => s.wr (R.IKL_CTRL.DM_NOW.i ch) 1)

end Sys2Proof.Machine
end

