-- ==== Sys2Proof/Machine/RingNode.lean ====
section
/-! DEFINITION. Frames that pass a node (R314 to R324), delay measurement (R318), integration (R347 to R350), and frames that reach a cold-start candidate (R343, R344). -/

namespace Sys2Proof.Machine

/-! ### Prediction of arrivals (R318, R319, R348, R366) -/

/-- D0 of R348 in ns. -/
def State.dZero (s : State) (ch : Nat) : Nat :=
  match s.ownPos ch with
  | none => s.sched ch 0x14 2 + s.nNodes ch * 80
  | some p =>
    ((List.range (s.nNodes ch)).filter fun i => 1 ≤ s.nodePos ch i && s.nodePos ch i ≤ p).foldl
      (fun (a : Nat) i => a + s.sched ch (0x100 + 0x10 * i + 4) 2) 0 + (p - 1) * 80

/-- D in ns: measured, or D0. -/
def State.dly (s : State) (ch : Nat) : Rat :=
  if (s.chan ch).ds.isEmpty then (s.dZero ch : Rat) else (s.rd (R.IKL_DLY.VALUE.i ch) : Rat) / 16

/-- D of a copy: D, or D_rev for one that originated on P0. -/
def State.dlyOf (s : State) (ch : Nat) (dir : Bool) : Rat :=
  if dir then (s.rd (R.IKL_RTT.VALUE.i ch) : Rat) / 16 - 76 - s.dly ch else s.dly ch

/-- ARR_ERR of a frame with an arrival stamp (R319). -/
def State.arrErr (s : State) (ch arr : Nat) (h : Hdr) : Rat :=
  (sx 32 (sub32 arr h.tOrig) : Rat) - s.dlyOf ch h.dir

/-! ### What every frame with a good HCRC does -/

/-- The port receives on another lane than before (R318, R328): the leader measures delays in the next cycle. -/
def State.laneMoved (s : State) (ch port : Nat) (spare : Bool) : State :=
  (s.setSpare ch port spare).modChan ch fun c => { c with bad := tput 0 c.bad port 0, badNow := c.badNow.filter (· != port), dm := true }

/-- The port has moved to its spare lane: LANE_SW and its count (R328). -/
def State.laneSwitched (s : State) (ch port : Nat) : State :=
  let s := (s.modChan ch fun c => { c with req := c.req.filter (· != port) }).laneMoved ch port true
  let s := (s.flag (R.IKL_FLAGS.LANE_SW.i ch)).bump (R.IKL_CNT_C.LANE_SW_CNT.i ch) (R.IKL_FLAGS.SW_OVF.i ch)
  s.journal 7 1 true noUnit

/-- A port hears a frame: the lane that it asked for carries it, so a switch to the spare lane or a return to the primary one is complete (R328). Of a frame in flight on the lane left no row tells the lane (log entry 70). -/
def State.portHeard (s : State) (ch port : Nat) : State :=
  let f := (if port = 0 then R.IKL_CTRL.REVERT_P0 else R.IKL_CTRL.REVERT_P1).i ch
  let s := if s.rd f = 1 then (s.wr f 0).laneMoved ch port false else s
  if (s.chan ch).req.contains port then s.laneSwitched ch port else s

/-- A frame is heard: T_wait restarts (R340), and the cycle is not silent (R349). -/
def State.ringHeard (s : State) (ch : Nat) : State :=
  let s := { s with ring := { s.ring with csFrom := s.tb.rim } }
  s.modChan ch fun c => { c with heard := true, quiet := 0 }

/-- A bad HCRC or segment CRC is counted (R314, R320, R328). -/
def State.crcErr (s : State) (ch port : Nat) : State :=
  let s := s.bump (R.IKL_CNT_B.CRC_ERR.i ch) (R.IKL_FLAGS.CRC_OVF.i ch)
  s.modChan ch fun c => { c with badNow := if c.badNow.contains port then c.badNow else port :: c.badNow }

/-- SCHED of the header against the own schedule (R314). -/
def State.schedOk (s : State) (ch : Nat) (h : Hdr) : Bool := h.sched == s.schedId ch % p2 16

/-- SCHED_BAD shows the last frame; a mismatch is remembered. -/
def State.schedCheck (s : State) (ch : Nat) (h : Hdr) : State :=
  let ok := s.schedOk ch h
  let s := s.wrB (R.IKL_STAT.SCHED_BAD.i ch) (!ok)
  if ok then s else s.flag (R.IKL_FLAGS.SCHED_SEEN.i ch)

/-- Do the tables of a channel name an address as cold-start capable (R341)? -/
def State.csNamed (s : State) (ch a : Nat) : Bool :=
  (s.csAddr ch != 0 && s.csAddr ch == a) ||
    (match s.nodeIdx ch a with | some i => bit (s.sched ch (0x100 + 0x10 * i) 2) 13 | none => false)

/-! ### Time from the ring (R73, R74, R319, R348, R490) -/

/-- One offset sample of R319 for the domain that the ring steers. -/
def State.ringSample (s : State) (ch : Nat) (ae : Rat) : State :=
  if s.ring.steer ≠ some ch then s
  else
    let ts : Rat := (s.cycle ch : Rat)
    if s.roleMode == 1 || s.roleMode == 4 || s.roleMode == 5 then s.servo false (-ae) ts
    else if s.roleMode == 3 && s.tb.actP && 2 ≤ s.rd R.TB_CTRL.P_SRC then ((s.wr R.TB_CTRL.P_SRC 2).servo true (-ae) ts).pRateCheck
    else s

/-- ARR_ERR of the frame is recorded. -/
def State.showArr (s : State) (ch : Nat) (ae : Rat) : State := s.wrS (R.IKL_ARR.ARR_ERR.i ch) (roundOpen ae)

/-- The tick and index of a boundary of the leader's lattice, by a frame that carries a cycle start (R490). -/
def State.latOf (s : State) (ch : Nat) (h : Hdr) : Nat × Nat :=
  let e := h.cyc * s.cycle ch + s.cycOfs ch
  (sub32 h.tOrig (e % 31250), e / 31250 % p2 32)

/-- The present cycle is that of a frame: its start is T_ORIG (R310). -/
def State.cycTake (s : State) (ch : Nat) (h : Hdr) : State :=
  if h.ftype = 4 then s
  else
    let s := { (s.wr (R.IKL_CYCNUM.VALUE.i ch) h.cyc) with ring := { s.ring with ep := some (s.latOf ch h) } }
    s.modChan ch fun c => { c with at_ := some h.tOrig }

/-- The step of R348 in LISTEN: afterwards the arrival stamp reads T_ORIG + D, WSEQ is the leader's, and the lattice is the leader's (R490). -/
def State.ringStep (s : State) (ch arr : Nat) (h : Hdr) : State :=
  if s.mode ≠ 1 then s
  else
    let x := -(s.arrErr ch arr h) * (p2 32 : Rat)
    let s := s.stepF (roundOpen x)
    let s := { s with tb := { s.tb with wseqL := (h.wseq + b2n (s.now < h.tOrig)) % 256 } }
    if h.ftype = 4 then s else s.setLattice (s.latOf ch h).1 (s.latOf ch h).2

/-! ### Integration (R347 to R349) -/

/-- A frame becomes the first integration frame. -/
def State.intFirst (s : State) (ch arr : Nat) (h : Hdr) : State :=
  let s := (s.wr (R.IKL_STAT.STATE.i ch) 2).wr (R.IKL_CS.INT_CNT.i ch) 1
  let s := if s.ring.steer.isNone then { s with ring := { s.ring with steer := some ch } } else s
  let s := if s.ring.steer = some ch && (s.roleMode == 1 || s.roleMode == 4 || s.roleMode == 5) then
      (s.ringStep ch arr h).wr R.TB_CTRL.L_SRC 2 else s
  let s := s.cycTake ch h
  let s := s.wr (R.IKL_STAT.CLAIM.i ch) h.claim
  s.modChan ch fun c => { c with fol := some h.orig, lastNum := some h.cyc, readyAt := none, got := true, noAcc := 0 }

/-- Is a frame of the followed originator consistent (R349)? -/
def State.consistent (s : State) (ch arr : Nat) (h : Hdr) : Bool :=
  let c := s.chan ch
  let tol : Rat := if s.mode == 1 then 1000 else (s.act (R.IKL_TOL.ARRIVAL_TOL.i ch) : Rat)
  (match c.fol with | some o => o.claim == h.claim && o.serial == h.serial && o.leader == h.leader | none => false) &&
    s.schedOk ch h && (h.ftype == 4 || c.lastNum == some (sub32 h.cyc 1)) && absQ (s.arrErr ch arr h) ≤ tol

/-- Does a frame of another originator than the followed one decide the following anew: a cycle frame that R365 accepts? -/
def State.takesOver (s : State) (ch : Nat) (h : Hdr) : Bool :=
  (h.ftype == 1 || h.ftype == 2) && s.schedOk ch h && !h.folded && h.claim != 0 && (s.chan ch).lastNum != some h.cyc

/-- A frame of one of the four types reaches a channel that is listening or integrating. -/
def State.integrate (s : State) (ch arr : Nat) (h : Hdr) : State :=
  let c := s.chan ch
  if s.chState ch = 1 then s.intFirst ch arr h
  else
    let own := match c.fol with | some o => o.serial == h.serial && o.leader == h.leader | none => true
    if h.folded || (h.ftype ≠ 4 && c.lastNum == some h.cyc) then s
    else if !own && !s.takesOver ch h then s
    else if s.consistent ch arr h then
      if h.ftype = 4 then s
      else
        let ae := s.arrErr ch arr h
        let n := min 4 (s.rd (R.IKL_CS.INT_CNT.i ch) + 1)
        let rise := n = 4 && c.readyAt.isNone
        let s := s.wr (R.IKL_CS.INT_CNT.i ch) n
        let s := ((s.cycTake ch h).showArr ch ae).ringSample ch ae
        let s := s.wr (R.IKL_STAT.CLAIM.i ch) h.claim
        s.modChan ch fun c => { c with
          lastNum := some h.cyc, got := true, noAcc := 0, readyAt := if rise then some s.now else c.readyAt }
    else (s.intFirst ch arr h).bump (R.IKL_CNT_D.INT_RESTART.i ch) (R.IKL_FLAGS2.INTR_OVF.i ch)

/-! ### Reading (R320, R325, R331) -/

/-- The content of a segment enters an incoming buffer. -/
def RBuf.take (r : RBuf) (i cyc : Nat) (g : Seg) (b : List Nat) : RBuf :=
  { r with bytes := bufPut r.bytes g.buf (segData b)
           regions := (i, cyc, segStamp b) :: r.regions.filter fun x => x.1 != i }

/-- The incoming buffer of a channel is complete (R34, R320, R323). -/
def State.complete (s : State) (ch cyc arr : Nat) (r : RBuf) : State :=
  let a := s.appOf ch
  let s := s.putApp ch { a with
    doneOld := if a.doneAt = s.now then a.doneOld else a.done
    done := { r with cycle := cyc, stamp := arr }, doneAt := s.now, fill := { r with cycle := cyc, stamp := arr } }
  (((s.wr (R.IKL_IN.VALUE.i ch) cyc).wr (R.IKL_IN_STAMP.VALUE.i ch) arr).irqSel 4 R.SF_IRQ.RING_CH (· == ch)).limRing ch

/-- The records of a parameter segment (R325): offset, mask and value, up to the first record that is not valid. -/
def paramRecs : Nat → List Nat → List (Nat × Nat × Nat)
  | 0, _ => []
  | n + 1, b =>
    if b.length < 12 || !bit (wordAt b 0 4) 31 then []
    else (wordAt b 0 4 % barSize, wordAt b 4 4, wordAt b 8 4) :: paramRecs n (b.drop 12)

/-- Words that a bridge has received cross to the other channel's outgoing image (R338). -/
def State.cross (s : State) (ch : Nat) (l : List (Nat × List Nat)) : State :=
  let o := 1 - ch
  if (s.role ch == 3 && s.role o == 4) || (s.role ch == 4 && s.role o == 3) then
    let a := s.appOf o
    (s.putApp o { a with build := l.foldl (fun b x => bufPut b x.1 x.2) a.build }).publishCh o
  else s

/-- Occupant segments are captured for the Margin monitor as they pass (R32, R323, R331): `remap`: the frame carries the other channel's reserve slots. A buffer completes within 2 µs of its segment's last byte; when in that time is a free value (log entry 28). -/
def State.mgnCapture (s : State) (ch arr : Nat) (remap : Bool) (b : List Nat) : State :=
  forEach s.dev.cfg.occ.zipIdx (fun x s =>
    let src := x.1
    let at_ : Option (Nat × Nat) :=
      if src.chan = ch then (s.occSegOf src).map fun g => (g.2.ofs, g.2.len)
      else if remap && src.chan = 1 - ch then
        (s.occSegOf src).bind fun g => if g.2.alt = 0 then none else some (g.2.alt, g.2.len)
      else none
    match at_ with
    | none => s
    | some (o, n) =>
      let g := cut b o n
      if segOk g && segValid g && segWriter g == src.node then
        let t := add32 arr (4 * (o + n) / 5 + Config.freeNat s.free % 2001)
        let l := tget [] s.mgn.bufs x.2
        { s.useFree with mgn := { s.mgn with bufs := tput [] s.mgn.bufs x.2 ((t, segData g) :: l.take 7) } }
      else s) s

/-- The read segments of an accepted frame: the state, and whether one had a bad CRC. -/
def State.readFrame (s : State) (ch port arr : Nat) (h : Hdr) (b : List Nat) : State × Bool :=
  let rd := (s.segs ch).filter fun x => x.2.read
  let got := rd.map fun x => (x.1, x.2, cut b x.2.ofs x.2.len)
  let bad := got.filter fun x => !segOk x.2.2
  let good := got.filter fun x => segOk x.2.2 && segValid x.2.2 && segWriter x.2.2 == h.addr
  let s : State := forEach bad (fun _ s => s.crcErr ch port) s
  let r := good.foldl (fun (r : RBuf) x => r.take x.1 h.cyc x.2.1 x.2.2) (s.appOf ch).done
  let s := if rd.isEmpty then s else s.complete ch h.cyc arr r
  let par := (good.filter fun x => x.2.1.typ == 2).flatMap fun x => paramRecs 200 (segData x.2.2)
  let s := s.modChan ch fun c => { c with par := c.par ++ par }
  let s := if good.isEmpty then s else s.cross ch (good.map fun x => (x.2.1.buf, segData x.2.2))
  let o := 1 - ch
  let slots := if bit h.flags 4 && s.used o then
      ((s.segs o).filter fun x => x.2.essential && x.2.read && x.2.alt != 0).map fun x =>
        (x.1, x.2, cut b x.2.alt x.2.len)
    else []
  let sgood := slots.filter fun x => segOk x.2.2 && segValid x.2.2 && segWriter x.2.2 == h.addr
  let sbad := slots.filter fun x => !segOk x.2.2
  let s : State := forEach sbad (fun _ s => s.crcErr ch port) s
  let r := sgood.foldl (fun (r : RBuf) x => r.take x.1 h.cyc x.2.1 x.2.2) (s.appOf o).done
  let s := if sgood.isEmpty then s else s.complete o h.cyc arr r
  (s.mgnCapture ch arr (bit h.flags 4) b, !bad.isEmpty || !sbad.isEmpty)

/-! ### Writing (R321, R331) -/

/-- NSTAT of the device (R315). -/
def State.nstat (s : State) (ch : Nat) : Nat :=
  let c := s.chan ch
  s.rd (R.IKL_STAT.P0_DOWN.i ch) + 2 * s.rd (R.IKL_STAT.P1_DOWN.i ch) + 4 * s.rd (R.IKL_STAT.FOLD.i ch) +
    8 * b2n (!c.fp.isEmpty && c.fp.all c.lb.contains) + 16 * s.rd (R.IKL_STAT.P0_SPARE.i ch) +
    32 * s.rd (R.IKL_STAT.P1_SPARE.i ch)

/-- The content of a write segment in one cycle: its memory afterwards, its bytes, and whether it was late. `img` is the channel whose image it takes, `o` where it lies in the frame, `typ` its TYPE. -/
def State.writeSeg (s : State) (ch img i typ o arr : Nat) (ae : Rat) (h : Hdr) (g : Seg) : WSeg × List Nat × Bool :=
  let w := tget WSeg.zero (s.chan img).wsegs i
  let me := s.ownAddr ch
  let ab := if typ = 1 then unsx 8 (clampI (rndAway (ae / 4)) (-127) 127) else 0
  let ns := if typ = 1 then s.nstat ch else 0
  let put := fun (seq st : Nat) (d : List Nat) => segBytes typ true me seq ab ns st d
  let null := fun (seq : Nat) => nullSeg typ me seq ab ns g.data
  if h.cyc % g.rate = g.phase then
    let rel : Rat := min 0 (-ae) + (4 * o : Nat) / (5 : Rat) - (s.act (R.IKL_TOL.GUARD.i ch) : Rat)
    let fits := fun (p : OBuf) =>
      ((sx 32 (sub32 p.at_ arr) : Int) : Rat) ≤ rel &&
        (match w.due with | none => true | some (a, r) => r < ((sx 32 (sub32 p.at_ a) : Int) : Rat))
    match (s.appOf img).pubs.find? fits with
    | some p =>
      let d := (List.range g.data).map fun k => tget 0 p.bytes (g.buf + k)
      (⟨some (arr, rel), h.cyc % 256, some (p.at_, d)⟩, put h.cyc p.at_ d, false)
    | none => (⟨some (arr, rel), h.cyc % 256, none⟩, null h.cyc, true)
  else match w.data with
    | some (st, d) => (w, put w.seq st d, false)
    | none => (w, null w.seq, false)

/-- A late null segment (R321). -/
def State.lateSeg (s : State) (ch : Nat) : State :=
  let s := (s.bump (R.IKL_CNT_A.LATE.i ch) (R.IKL_FLAGS.LATE_OVF.i ch)).flag (R.IKL_FLAGS.LATE_SEEN.i ch)
  s.journal 7 3 false noUnit

/-- The device writes its segments into an accepted frame. -/
def State.writeFrame (s : State) (ch arr : Nat) (ae : Rat) (h : Hdr) (b : List Nat) : State × List Nat :=
  let step := fun (img : Nat) (slot : Bool) (r : State × List Nat) (x : Nat × Seg) =>
    let o := if slot then x.2.alt else x.2.ofs
    let w := r.1.writeSeg ch img x.1 (if slot then 3 else x.2.typ) o arr ae h x.2
    let s := r.1.modChan img fun c => { c with wsegs := tput WSeg.zero c.wsegs x.1 w.1 }
    (if w.2.2 then s.lateSeg ch else s, paste r.2 o w.2.1)
  let r := ((s.segs ch).filter fun x => x.2.write).foldl (step ch false) (s, b)
  let o := 1 - ch
  if bit h.flags 4 && s.used o then
    ((s.segs o).filter fun x => x.2.essential && x.2.write && x.2.alt != 0).foldl (step o true) r
  else r

/-! ### Cycle frames and null cycle frames at a node (R314, R319, R322, R324, R365) -/

/-- Is a frame accepted (R314, R365)? -/
def State.accepts (s : State) (ch : Nat) (h : Hdr) : Bool :=
  (h.ftype == 1 || h.ftype == 2) && s.schedOk ch h && !h.folded && h.claim != 0 && (s.chan ch).lastNum != some h.cyc

/-- ACTION of an accepted frame: kept until its cycle number; 0 takes it back (R313, R330, R374, R375). -/
def State.ringAction (s : State) (ch : Nat) (h : Hdr) : State :=
  let c := s.chan ch
  if h.action = 1 then s.putChan ch { c with act := some (1, h.actCyc) }
  else if h.action = 2 then
    if s.mode = 3 && s.twin.hbReq then
      let go := add32 h.tOrig (sub32 h.actCyc h.cyc * s.cycle ch)
      let s := s.putChan ch { c with act := some (2, h.actCyc), go := some go }
      let s := if s.rd R.TWN_STAT.HB_PEND = 1 then s
        else { (s.wr R.TWN_STAT.HB_PEND 1).wr R.TWN_HB.HB_AT go with twin := { s.twin with hb := some (go, ch, h.actCyc) } }
      match s.twin.hb with
      | some (_, hc, n) => if s.dev.pendKind = 0 then s.hwPend 2 4 (n + p2 32 * hc) else s
      | none => s
    else s
  else
    let s := s.putChan ch { c with act := none }
    if (c.act.map (·.1)) = some 2 then s.hbCancel else s

/-- A channel that drifts rejoins (R322). -/
def State.reint (s : State) (ch : Nat) : State :=
  let s := (s.wr (R.IKL_STAT.STATE.i ch) 2).wr (R.IKL_CS.INT_CNT.i ch) 1
  let s := (s.flag (R.IKL_FLAGS.REINT.i ch)).journal 7 4 false noUnit
  s.modChan ch fun c => { c with readyAt := none, rejoin := some 0, expired := false }

/-- The arrival tolerance of R322. -/
def State.arrCheck (s : State) (ch : Nat) (ae : Rat) : State :=
  if (s.act (R.IKL_TOL.ARRIVAL_TOL.i ch) : Rat) < absQ ae then
    let s := (s.bump (R.IKL_CNT_B.ARR_CNT.i ch) (R.IKL_FLAGS.ARR_OVF.i ch)).flag (R.IKL_FLAGS.ARR_SEEN.i ch)
    let n := min 8 (s.rd (R.IKL_STAT.ARR_CONSEC.i ch) + 1)
    let s := s.wr (R.IKL_STAT.ARR_CONSEC.i ch) n
    if n = 8 then s.reint ch else s
  else s.wr (R.IKL_STAT.ARR_CONSEC.i ch) 0

/-- Frames are accepted again after a reaction of R352 has ended: the lanes take their set-points from the ring again. -/
def State.leaderBack (s : State) (ch : Nat) : State :=
  let c := s.chan ch
  if c.missing && s.rd (R.IKL_CS.LL_ACT.i ch) = 0 then
    let s : State := forEach c.react (fun n s => s.putLane n { s.lane n with brake := none }) s
    s.modChan ch fun c => { c with missing := false, react := [] }
  else s

/-- A frame accepted on a running channel: the state, the frame as it goes on, and whether an error was found. -/
def State.acceptFrame (s : State) (ch port arr : Nat) (h : Hdr) (b : List Nat) : State × List Nat × Bool :=
  let ae := s.arrErr ch arr h
  let s := (s.cycTake ch h).wr (R.IKL_STAT.CLAIM.i ch) h.claim
  let s := (s.showArr ch ae).ringSample ch ae
  let was := s.rd (R.IKL_STAT.REMAP.i ch) == 1
  let s := s.wrB (R.IKL_STAT.REMAP.i ch) (bit h.flags 4)
  let s := if bit h.flags 4 && !was then s.flag (R.IKL_FLAGS.REMAP_SEEN.i ch) else s
  let s := s.modChan ch fun c => { c with
    fol := some h.orig, lastNum := some h.cyc, got := true, noAcc := 0, hdrRemap := bit h.flags 4 }
  let s := (s.leaderBack ch).ringAction ch h
  let s := if s.twin.lost && s.mode = 3 then
      (if s.dev.pendKind = 0 then { s with twin := { s.twin with lost := false } }.hwPend 1 1 0 else s) else s
  if h.ftype = 2 then
    let s := (s.bump (R.IKL_CNT_A.NULL.i ch) (R.IKL_FLAGS.NULL_OVF.i ch)).flag (R.IKL_FLAGS.NULL_SEEN.i ch)
    (s.arrCheck ch ae, b, false)
  else
    let r := s.readFrame ch port arr h b
    let w := if r.1.writes ch then r.1.writeFrame ch arr ae h b else (r.1, b)
    (w.1.arrCheck ch ae, w.2, r.2)

/-! ### Delay measurement at a node (R318) -/

/-- One copy of a delay measurement frame: its arrival is kept; when both copies of one T_ORIG are there, D follows from the leader's round trips. A frame that carries no measured round trip gives no D. -/
def State.dmNode (s : State) (ch arr : Nat) (h : Hdr) (b : List Nat) : State :=
  let f := wordAt b 0x20 4
  let r := wordAt b 0x24 4
  let c := s.chan ch
  let c := if h.dir then { c with ar := some (arr, h.tOrig) } else { c with af := some (arr, h.tOrig) }
  let asym := 64 < ((f : Int) - (r : Int)).natAbs
  let s := s.wrB (R.IKL_STAT.ASYM.i ch) asym
  let s := if asym then s.flag (R.IKL_FLAGS.ASYM_SEEN.i ch) else s
  match c.af, c.ar with
  | some (a, ta), some (x, tx) =>
    if ta ≠ tx then s.putChan ch c else
    let c := { c with af := none, ar := none }
    if f = 0 && r = 0 then s.putChan ch c
    else
      let twice : Int := (f : Int) + (r : Int)
      let d : Int := twice - 2 * 1216 + 32 * sx 32 (sub32 a x)
      let ds := d :: c.ds.take 7
      let mean : Rat := ((ds.foldl (· + ·) 0 : Int) : Rat) / (4 * ds.length : Nat)
      let s := s.putChan ch { c with ds := ds }
      (s.wr (R.IKL_DLY.VALUE.i ch) (unsx 32 (roundOpen mean))).wr (R.IKL_RTT.VALUE.i ch)
        (unsx 32 (roundOpen ((twice : Rat) / 2)))
  | _, _ => s.putChan ch c

/-! ### Frames at a node -/

/-- A frame passes a device that does not originate on the channel. -/
def State.nodeFrame (s : State) (ch port arr : Nat) (b : List Nat) : State :=
  let h := hdrOf b
  if !hcrcOk b then (s.crcErr ch port).forward ch port arr b true
  else
    let s := (s.ringHeard ch).schedCheck ch h
    if h.ftype = 3 && !s.csNamed ch h.addr then (s.flag (R.IKL_FLAGS2.CS_REJECT.i ch)).forward ch port arr b false
    else if h.ftype = 0 || 4 < h.ftype then s.forward ch port arr b false
    else
      let s := if s.csState = 3 then { s.setCs 1 with ring := { s.ring with backAt := none } } else s
      let s := if h.ftype = 4 then s.dmNode ch arr h b else s
      if s.chState ch = 3 then
        if s.accepts ch h then
          let r := s.acceptFrame ch port arr h b
          r.1.forward ch port arr r.2.1 r.2.2
        else s.forward ch port arr b false
      else (s.integrate ch arr h).forward ch port arr b false

/-! ### Frames at a candidate (R343, R344) -/

/-- Is a frame the device's own? -/
def State.ownFrame (s : State) (ch : Nat) (h : Hdr) : Bool :=
  h.addr == s.ownAddr ch && (s.role ch == 4 || h.serial == s.serial)

/-- IKL_CS_PEER records an originator. -/
def State.csPeer (s : State) (ch : Nat) (h : Hdr) : State :=
  (s.wr (R.IKL_CS_PEER.VALUE.i ch) (h.claim * p2 16 + h.serial / p2 32)).wr (R.IKL_CS_PEER_LO.VALUE.i ch) (h.serial % p2 32)

/-- The candidate yields (R344): it originates no further, and integrates with the frame that defeated it. -/
def State.csYield (s : State) (ch arr : Nat) (h : Hdr) : State :=
  let s := (s.listenCh 0).listenCh 1
  let s : State := forEach [0, 1] (fun c s => s.modChan c fun x => { x with at_ := none }) s
  let s := ((s.setCs 4).flag (R.IKL_FLAGS2.CS_LOST.i ch)).csPeer ch h
  (s.ringHeard ch).integrate ch arr h

/-- A frame reaches an originating candidate, which absorbs it. -/
def State.candFrame (s : State) (ch port arr : Nat) (b : List Nat) : State :=
  let h := hdrOf b
  if !hcrcOk b then (s.crcErr ch port).modChan ch fun c => { c with retBad := true }
  else
    let s := s.ringHeard ch
    if h.ftype = 0 || 4 < h.ftype then s
    else if s.ownFrame ch h then s.modChan ch fun c => { c with
      ret := c.ret + 1, back := c.back + 1
      foldDue := c.foldDue || (s.foldOk ch && port == 1 && !h.dir && s.rd (R.IKL_STAT.FOLD.i ch) == 0) }
    else if h.ftype = 3 then
      if !s.csNamed ch h.addr then s.flag (R.IKL_FLAGS2.CS_REJECT.i ch)
      else
        let s := (s.csPeer ch h).modChan ch fun c => { c with foreign := true }
        let s := if h.claim = s.claimCfg then s.flag (R.IKL_FLAGS2.CLAIM_CONFLICT.i ch) else s
        if h.claim < s.claimCfg || (h.claim = s.claimCfg && h.serial < s.serial) then
          s.bump (R.IKL_CNT_E.FOREIGN.i ch) (R.IKL_FLAGS2.FOREIGN_OVF.i ch)
        else s.csYield ch arr h
    else s.csYield ch arr h

end Sys2Proof.Machine
end

