-- ==== Sys2Proof/Machine/RingLead.lean ====
section
/-! DEFINITION. Frames that return to or reach a leader (R317, R318, R323, R330, R332, R367), the frame commands, lanes and ports (R328 to R330), channel loss (R331), cold start and backoff (R342, R345), and the loss of the leader (R349, R351, R352). -/

namespace Sys2Proof.Machine

/-! ### Node status (R323, R337) -/

/-- The offset of the status entry of node i. -/
def nodeStat (i : Nat) : Nat := 0x6000 + 0x10 * i

/-- A 24-bit count of a status entry counts one event; OVF in bit 31. -/
def State.nodeCount (s : State) (ch i o : Nat) : State :=
  let a := nodeStat i + o
  let w := s.mem32 (schedSp ch) a
  let n := bits w 23 0
  if n = 0xFFFFFF then s
  else s.putMem32 (schedSp ch) a (setBits (setBits w 23 0 (n + 1)) 31 31 (if n + 1 = 0xFFFFFF then 1 else bits w 31 31))

/-- A flag of a status entry: 0 DRIFT, 1 ABSENT. -/
def State.nodeFlag (s : State) (ch i b : Nat) (x : Bool) : State :=
  let a := nodeStat i + 0xE
  s.putBytes (schedSp ch) a (leBytes 2 (setBits (s.memN 2 (schedSp ch) a) b b (b2n x)))

/-- ARR_ERR and NSTAT of the first good segment of node i; a lane switch that NSTAT shows asks for a delay measurement (R318). -/
def State.nodeShow (s : State) (ch i arr nstat : Nat) : State :=
  let e := sx 8 arr
  let a := nodeStat i
  let spares := fun w => bits w 5 4
  let s := if spares nstat ≠ spares (s.memN 2 (schedSp ch) (a + 0xC)) then s.modChan ch fun c => { c with dm := true } else s
  let m := s.memN 2 (schedSp ch) (a + 0xA)
  let was := bit (s.memN 2 (schedSp ch) (a + 0xE)) 0
  let drift := s.act (R.IKL_MON.DRIFT_THR.i ch) ≤ e.natAbs
  let s := s.putBytes (schedSp ch) (a + 8)
    (leBytes 2 (unsx 16 (4 * e)) ++ leBytes 2 (max m (4 * e.natAbs)) ++ leBytes 2 nstat)
  let s := s.nodeFlag ch i 0 drift
  if drift && !was then (s.flag (R.IKL_FLAGS.RING_DRIFT.i ch)).journal 7 5 false noUnit else s

/-! ### The return of the own frame (R317, R323, R330 to R332) -/

/-- Copies of the frame that return in a cycle. -/
def State.copies (s : State) (ch : Nat) : Nat := if s.rd (R.IKL_STAT.FOLD.i ch) = 1 then 2 else 1

/-- One input segment of a returned copy (R323). -/
def State.takeInput (s : State) (ch port cyc : Nat) (x : Nat × Seg) (b : List Nat) : State :=
  let g := cut b x.2.ofs x.2.len
  let c := s.chan ch
  if !segOk g then s.crcErr ch port
  else if segWriter g == x.2.node then
    if c.taken.contains x.1 then s
    else
      let s := s.putChan ch { c with taken := x.1 :: c.taken }
      if segValid g then
        s.putApp ch { s.appOf ch with fill := (s.appOf ch).fill.take x.1 cyc x.2 g }
      else
        let s := match s.nodeIdx ch x.2.node with | some i => s.nodeCount ch i 0 | none => s
        let s := (s.bump (R.IKL_CNT_A.LATE.i ch) (R.IKL_FLAGS.LATE_OVF.i ch)).flag (R.IKL_FLAGS.LATE_SEEN.i ch)
        s.journal 7 3 false noUnit
  else if segWriter g == s.ownAddr ch then
    s.putChan ch { c with missed := if c.missed.contains x.1 then c.missed else x.1 :: c.missed }
  else s

/-- The status of every node whose first good segment the copy carries. -/
def State.nodeStatus (s : State) (ch : Nat) (b : List Nat) : State :=
  forEach (List.range (s.nNodes ch)) (fun i s =>
    let a := s.sched ch (0x100 + 0x10 * i) 2 % 4096
    match (s.segs ch).find? fun x => x.2.typ == 1 && x.2.node == a &&
        (let g := cut b x.2.ofs x.2.len; segOk g && segWriter g == a) with
    | some x => s.nodeShow ch i (b.getD (x.2.ofs + 3) 0) (wordAt b (x.2.ofs + 4) 2)
    | none => s) s

/-- The reserve slots of a returned copy carry the essential input data of the lost channel (R331). -/
def State.takeSlots (s : State) (ch port arr cyc : Nat) (b : List Nat) : State :=
  let o := 1 - ch
  let l := ((s.segs o).filter fun x => x.2.essential && x.2.typ == 1 && x.2.alt != 0).map fun x =>
    (x.1, x.2, cut b x.2.alt x.2.len)
  let s : State := forEach (l.filter fun x => !segOk x.2.2) (fun _ s => s.crcErr ch port) s
  let good := l.filter fun x => segOk x.2.2 && segValid x.2.2 && segWriter x.2.2 == x.2.1.node
  if good.isEmpty then s
  else s.complete o cyc arr (good.foldl (fun (r : RBuf) x => r.take x.1 cyc x.2.1 x.2.2) (s.appOf o).done)

/-- MISS and ABSENT at the end of the returns of a cycle. -/
def State.missCheck (s : State) (ch : Nat) : State :=
  let c := s.chan ch
  let miss := c.missed.filter fun i => !c.taken.contains i
  let s : State := forEach miss (fun i s =>
    match s.nodeIdx ch (s.seg ch i).node with | some n => s.nodeCount ch n 4 | none => s) s
  forEach (List.range (s.nNodes ch)) (fun n s =>
    let a := s.sched ch (0x100 + 0x10 * n) 2 % 4096
    let of := fun (l : List Nat) => l.any fun i => (s.seg ch i).node == a
    if of miss then
      let r := tget 0 (s.chan ch).missRun n + 1
      let s := s.modChan ch fun c => { c with missRun := tput 0 c.missRun n r }
      if s.lossN ch ≤ r then s.nodeFlag ch n 1 true else s
    else if of c.taken then
      (s.modChan ch fun c => { c with missRun := tput 0 c.missRun n 0 }).nodeFlag ch n 1 false
    else s) s

/-- Does every folding node report LINK_BACK (R330)? -/
def State.linksBack (s : State) (ch : Nat) : Bool :=
  let c := s.chan ch
  let st := (List.range (s.nNodes ch)).map fun i => s.memN 2 (schedSp ch) (nodeStat i + 0xC)
  let folding := st.filter fun w => bit w 2
  (!folding.isEmpty || !c.fp.isEmpty) && folding.all (bit · 3) && c.fp.all c.lb.contains

/-- The returns of a cycle are complete (the present cycle of R330 is that of the frame which carries the ACTION: the next one; log entry 70): buffer, NPASS, MISS, fold end, and the end of a remap. `arr`: the last arrival. -/
def State.closeCycle (s : State) (ch arr : Nat) : State :=
  let c := s.chan ch
  if c.closed then s
  else
    let s := s.putChan ch { c with closed := true }
    let s := s.complete ch (s.cycNum ch) arr (s.appOf ch).fill
    let s := if c.npass = s.nNodes ch then s else s.flag (R.IKL_FLAGS.NPASS_DIFF.i ch)
    let s := s.missCheck ch
    let back := ((s.segs ch).filter fun x => c.taken.contains x.1).map fun x =>
      (x.2.buf, (List.range x.2.data).map fun k => tget 0 (s.appOf ch).done.bytes (x.2.buf + k))
    let s := if back.isEmpty then s else s.cross ch back
    let c := s.chan ch
    let s := if s.rd (R.IKL_STAT.FOLD.i ch) = 1 then
        (if s.linksBack ch then
           (if c.act.isNone then s.putChan ch { c with act := some (1, add32 (s.cycNum ch) 9) } else s)
         else if (c.act.map (·.1)) = some 1 then s.putChan ch { c with act := none } else s)
      else s
    let n := if s.copies ch ≤ c.trl then c.good + 1 else 0
    let s := s.modChan ch fun c => { c with good := n, noRet := 0 }
    if s.chState ch = 4 && 4 ≤ n then
      (s.wr (R.IKL_STAT.STATE.i ch) 3).modChan (1 - ch) fun c => { c with remap := some false }
    else s

/-- A copy of the own cycle frame or null cycle frame returns. -/
def State.takeReturn (s : State) (ch port arr : Nat) (h : Hdr) (b : List Nat) : State :=
  let s := s.modChan ch fun c => { c with
    ret := c.ret + 1, back := c.back + 1, trl := c.trl + b2n (tcrcOk b), npass := c.npass + b.getD (b.length - 3) 0,
    foldDue := c.foldDue || (s.foldOk ch && port == 1 && !h.dir && s.rd (R.IKL_STAT.FOLD.i ch) == 0) }
  let s := if h.ftype = 1 then
      (let s : State := forEach ((s.segs ch).filter fun x => x.2.typ == 1)
         (fun x s => s.takeInput ch port h.cyc x b) s
       let s := s.nodeStatus ch b
       let s := if bit h.flags 4 then s.takeSlots ch port arr h.cyc b else s
       s.mgnCapture ch arr (bit h.flags 4) b)
    else s
  if s.copies ch ≤ (s.chan ch).back then s.closeCycle ch arr else s

/-- A copy of the own delay measurement frame returns (R318, R366): it left V after T_ORIG, and 2V is added to its round trip. -/
def State.dmReturn (s : State) (ch arr : Nat) (h : Hdr) : State :=
  let t := 16 * sub32 arr h.tOrig + s.vorg ch
  let c := s.chan ch
  let c := if h.dir then { c with dmR := some t } else { c with dmF := some t }
  let s := s.putChan ch c
  match c.dmF, c.dmR with
  | some f, some r =>
    let asym := 64 < ((f : Int) - (r : Int)).natAbs
    let s := (s.wr (R.IKL_RTT.VALUE.i ch) (unsx 32 (roundOpen (((f + r : Nat) : Rat) / 2)))).wrB (R.IKL_STAT.ASYM.i ch) asym
    if asym then s.flag (R.IKL_FLAGS.ASYM_SEEN.i ch) else s
  | _, _ => s

/-- Does an originator rank above this device (R10, R367)? -/
def State.outranked (s : State) (claim serial : Nat) : Bool :=
  s.claimCfg < claim || (claim == s.claimCfg && s.serial < serial)

/-- A frame reaches a device on the originating side of the channel (R323, R341, R367). -/
def State.leadFrame (s : State) (ch port arr : Nat) (b : List Nat) : State :=
  let h := hdrOf b
  if !hcrcOk b then (s.crcErr ch port).modChan ch fun c => { c with back := c.back + 1 }
  else
    let s := s.ringHeard ch
    if s.ownFrame ch h then
      if h.ftype = 4 then s.dmReturn ch arr h
      else if (h.ftype = 1 || h.ftype = 2) && (s.chan ch).orig && h.cyc = s.cycNum ch then s.takeReturn ch port arr h b
      else s
    else if h.ftype = 3 && !s.csNamed ch h.addr then (s.flag (R.IKL_FLAGS2.CS_REJECT.i ch)).forward ch port arr b false
    else if s.role ch = 1 && 1 ≤ h.ftype && h.ftype ≤ 4 then
      if s.outranked h.claim h.serial then
        if h.ftype = 1 || h.ftype = 2 then
          let before := port = 0 && h.cyc ≠ s.cycNum ch
          let s := if s.claim ≠ 0 then (s.flag R.TWN_FLAGS.SPLIT).surrenderNow 0 true else s
          if before then s.forward ch port arr b false else s
        else s
      else s.bump R.TWN_CNT_C.FOREIGN_LOW R.TWN_FLAGS.FL_OVF
    else s

/-! ### The frame commands -/

/-- Does a frame have a length that R312 allows, on a port of a channel? -/
def frameOk (ch port arr : Nat) (b : List Nat) : Bool :=
  isCh ch && isPort port && isWord arr && 64 ≤ b.length && b.length ≤ 16384 && b.length % 4 == 0 && b.all (· < 256)

/-- A frame heard on the tick at which T_wait expires prevents the cold start, also where COLD_START came first in the queue (R340): the lattice and the words that it replaced stand again. -/
def State.coldUndo (s : State) : State :=
  match s.log.cold with
  | none => s
  | some (b, k, l) =>
    let s := { s with tb := { s.tb with latB := b }, pwr := { s.pwr with winK := k }, log := { s.log with cold := none } }
    let s : State := forEach l (fun x s => s.putRaw x.1 x.2) s
    forEach [0, 1] (fun ch s => s.modChan ch fun c => { c with at_ := none }) s

/-- A frame reaches the device where it plays the part that it has on the channel. -/
def State.frameIn (s : State) (ch port arr : Nat) (b : List Nat) : State :=
  if !s.ringUp ch then s
  else
    let s := (if hcrcOk b then s.coldUndo else s).portHeard ch port
    if s.candidates then s.candFrame ch port arr b
    else if s.leadSide ch then s.leadFrame ch port arr b
    else s.nodeFrame ch port arr b

/-- A frame of one type: a frame with a good HCRC that names another type is not this event. -/
def State.frameOf (s : State) (k ch port arr : Nat) (b : List Nat) : State :=
  if hcrcOk b && b.getD 0 0 ≠ k then s else s.frameIn ch port arr b

/-- CYCLE_FRAME_RECEIVE (R314 to R322). -/
def execCycleFrameReceive (dt ch port arr : Nat) (bytes : List Nat) (s : State) : Res :=
  let s := s.after dt
  needs (frameOk ch port arr bytes) (s.frameOf 1 ch port arr bytes)

/-- NULL_FRAME_RECEIVE (R324). -/
def execNullFrameReceive (dt ch port arr : Nat) (bytes : List Nat) (s : State) : Res :=
  let s := s.after dt
  needs (frameOk ch port arr bytes) (s.frameOf 2 ch port arr bytes)

/-- DELAY_FRAME_RECEIVE (R318). -/
def execDelayFrameReceive (dt ch port arr : Nat) (bytes : List Nat) (s : State) : Res :=
  let s := s.after dt
  needs (frameOk ch port arr bytes) (s.frameOf 4 ch port arr bytes)

/-- COLD_START_FRAME_RECEIVE (R341, R344). -/
def execColdStartFrameReceive (dt ch port arr : Nat) (bytes : List Nat) (s : State) : Res :=
  let s := s.after dt
  needs (frameOk ch port arr bytes) (s.frameOf 3 ch port arr bytes)

/-- FRAME_RETURN (R318, R323, R343): the own frame comes back to its originator. -/
def execFrameReturn (dt ch port arr : Nat) (bytes : List Nat) (s : State) : Res :=
  let s := s.after dt
  needs (frameOk ch port arr bytes)
    (if s.originSide ch && (!hcrcOk bytes || s.ownFrame ch (hdrOf bytes)) then
      s.frameIn ch port arr bytes
    else s)

/-! ### Lanes and ports (R328 to R330) -/

/-- Bad frames in consecutive cycles at a port, the present cycle included. -/
def State.badRun (s : State) (ch port : Nat) : Nat :=
  let c := s.chan ch
  tget 0 c.bad port + b2n (c.badNow.contains port)

/-- A lane of the twin link shows its block lock (R356). -/
def State.showTwinLock (s : State) (l : Nat) (x : Bool) : State :=
  if l = 8 then s.wrB R.TWN_STAT.LANE8_LOCK x else if l = 9 then s.wrB R.TWN_STAT.LANE9_LOCK x else s

/-- Block lock of a lane changes. -/
def State.setLock (s : State) (l : Nat) (x : Bool) : State :=
  let s := { s with ring := { s.ring with lockAt := tput 0 s.ring.lockAt l s.tb.rim } }
  (s.laneBit l 31 x).showTwinLock l x

/-- LANE_FAULT (R328): loss of block lock or hi_ber, of which the command does not say which, or 4 bad cycles; where the spare lane has block lock, the port asks for it. -/
def execLaneFault (dt lane : Nat) (s : State) : Res :=
  let s := s.after dt
  let ch := lane / 4
  let port := lane / 2 % 2
  let sp := lane % 2 == 1
  needs (lane < 10) (
    if lane < 8 then
      if !s.ringUp ch || s.onSpare ch port != sp then s
      else
        let s := if 4 ≤ s.badRun ch port then s
          else if Config.freeNat s.free % 2 = 0 then s.useFree.setLock lane false
          else s.useFree.laneBit lane 30 true
        if !sp && s.locked (lane + 1) then
          (s.emit (.frame ch port s.now 0 (switchSet true))).modChan ch fun c => { c with
            req := if c.req.contains port then c.req else port :: c.req }
        else s
    else if s.alive && s.tb.run && s.mode != 0 then s.setLock lane false else s)

/-- BLOCK_LOCK_GAIN (R306, R328, R356): the lane gains block lock, and its port is no longer down. -/
def execBlockLockGain (dt lane : Nat) (s : State) : Res :=
  let s := s.after dt
  let ch := lane / 4
  let port := lane / 2 % 2
  let up := if lane < 8 then s.ringUp ch else s.alive && s.tb.run && s.mode != 0
  needs (lane < 10) (if up then
    let s := (s.setLock lane true).laneBit lane 30 false
    let s := if bit (s.mem32 4 (lane * 0x100)) 31 then s.laneBit lane 29 true else s
    if lane < 8 then (s.wr ((downF port).i ch) 0).showUse ch port else s
  else s)

/-- SWITCH_REQUEST (R328): the transmitter of the port moves to the requested lane at the start of its next frame. -/
def execSwitchRequest (dt lane : Nat) (spare : Bool) (s : State) : Res :=
  let s := s.after dt
  let ch := lane / 4
  let port := lane / 2 % 2
  needs (lane < 8) (if s.ringUp ch then
    s.modChan ch fun c => { c with txReq := (port, spare) :: c.txReq.filter fun r => r.1 != port }
  else s)

/-- PORT_DOWN (R329): no block lock on either lane for 2 µs; with FOLD_OK a node folds, and a leader folds from its next cycle start. -/
def execPortDown (dt ch port : Nat) (s : State) : Res :=
  let s := s.after dt
  let l := laneNo ch port false
  needs (isCh ch && isPort port) (
    if s.ringUp ch && !s.down ch port && !s.locked l && !s.locked (l + 1) && 2000 ≤ s.lockAge l &&
        2000 ≤ s.lockAge (l + 1) then
      let s := s.wr ((downF port).i ch) 1
      if !s.foldOk ch then s
      else
        let c := s.chan ch
        let s := s.putChan ch { c with
          fp := if c.fp.contains port then c.fp else port :: c.fp, lb := c.lb.filter (· != port),
          foldDue := c.foldDue || s.originSide ch,
          act := if s.leadSide ch && (c.act.map (·.1)) = some 1 then none else c.act }
        if s.originSide ch then s
        else ((s.wr (R.IKL_STAT.FOLD.i ch) 1).flag (R.IKL_FLAGS.FOLD_SEEN.i ch)).journal 7 2 true noUnit
    else s)

/-- LINK_BACK (R330): the down port of a folding node has had block lock for 1 ms. -/
def execLinkBack (dt ch port : Nat) (s : State) : Res :=
  let s := s.after dt
  let l := laneNo ch port false
  let ok := fun k => s.locked k && 1000000 ≤ s.lockAge k
  needs (isCh ch && isPort port) (
    if s.ringUp ch && (s.chan ch).fp.contains port && (ok l || ok (l + 1)) then
      s.modChan ch fun c => { c with lb := if c.lb.contains port then c.lb else port :: c.lb }
    else s)

/-- CHANNEL_LOSS (R331): after LOSS_N cycles without a good return the channel is lost, and REMAP is due on the other. -/
def execChannelLoss (dt ch : Nat) (s : State) : Res :=
  let s := s.after dt
  needs (isCh ch) (
    if s.ringUp ch && s.leads ch && s.chState ch = 3 && s.lossN ch ≤ (s.chan ch).noRet then
      let s := (s.wr (R.IKL_STAT.STATE.i ch) 4).journal 7 0 true noUnit
      let s := s.modChan ch fun c => { c with good := 0 }
      if s.leads (1 - ch) then s.modChan (1 - ch) fun c => { c with remap := some true } else s
    else s)

/-! ### Cold start (R340, R342, R345) -/

/-- The candidate begins: the epoch, and the cycle starts counted from it (R342). Without a channel that has nodes it wins at the epoch (R346). -/
def State.csBegin (s : State) : State :=
  let e := add32 s.now 2000
  let s := (s.setLattice e 0).setCs 2
  let any := s.nNodes 0 != 0 && s.used 0 || s.nNodes 1 != 0 && s.used 1
  let s : State := forEach [0, 1] (fun ch s =>
    if s.used ch then
      ((s.listenCh ch).wr (R.IKL_CYCNUM.VALUE.i ch) (p2 32 - 1)).modChan ch fun c => { c with
        at_ := some (sub32 (add32 e (s.cycOfs ch)) (s.cycle ch))
        csRet := 0, noRet := 0, ret := 0, back := 0, retBad := false, foreign := false, orig := false }
    else s) s
  if any then s else s.hwPend 2 1 0

/-- T_wait expires: the cold start begins, and what it replaces is kept for its tick (R340). -/
def State.csExpire (s : State) : State :=
  let w := [R.TB_PERIOD.INDEX.addr, (R.IKL_CYCNUM.VALUE.i 0).addr, (R.IKL_CYCNUM.VALUE.i 1).addr,
    (R.IKL_CS.CS_STATE.i 0).addr, (R.IKL_CS.CS_STATE.i 1).addr].map fun a => (a, s.raw a)
  let u := (s.tb.latB, s.pwr.winK, w)
  let s := s.csBegin
  { s with log := { s.log with cold := some u } }

/-- COLD_START (R340, R342): T_wait expires in LISTEN and the twin link reports no peer in LEAD. -/
def execColdStart (s : State) : Res :=
  .next (if s.alive && s.tb.run && s.mode = 1 && s.csCap && (s.csState = 1 || s.csState = 4) &&
      !(s.twinUp && s.rd R.TWN_STAT.PEER_MODE == 2) then
    (s.runRim (s.ring.csFrom + s.tWait)).csExpire
  else s)

/-- The seed of R345. -/
def State.csSeed (s : State) : Nat :=
  let n := s.serial
  let x := Nat.xor (Nat.xor (bits n 15 0) (bits n 31 16)) (bits n 47 32)
  if x = 0 then 0xACE1 else x

/-- One step of the LFSR of R345. -/
def lfsrStep (l : Nat) : Nat :=
  let fb := (b2n (bit l 15) + b2n (bit l 13) + b2n (bit l 12) + b2n (bit l 10)) % 2
  l * 2 % p2 16 + fb

/-- The LFSR after one backoff. -/
def lfsrNext (l : Nat) : Nat :=
  let f := lfsrStep
  f (f (f (f (f (f (f (f (f (f (f (f (f (f (f (f l)))))))))))))))

/-- A backoff (R345), caused by the judgment of channel ch. -/
def State.csBackoff (s : State) (ch : Nat) : State :=
  let l := lfsrNext (s.ring.lfsr.getD s.csSeed)
  let s := (s.listenCh 0).listenCh 1
  let s : State := forEach [0, 1] (fun c s => s.modChan c fun x => { x with at_ := none }) s
  let s := { s with ring := { s.ring with lfsr := some l, backAt := some (s.tb.rim + 1000 * (16 + l % 241)) } }
  (s.setCs 3).bump (R.IKL_CNT_D.CS_RETRY.i ch) (R.IKL_FLAGS2.CSR_OVF.i ch)

/-- BACKOFF_END (R345): the candidate restarts R342. -/
def execBackoffEnd (s : State) : Res :=
  .next (match s.ring.backAt with
    | some r =>
      if s.alive && s.tb.run && s.mode = 1 && s.csState = 3 then
        let s := s.runRim r
        { s with ring := { s.ring with backAt := none } }.csBegin
      else s
    | none => s)

/-! ### Loss of the leader (R349, R351, R352) -/

/-- The lanes whose set-points come from a channel. -/
def State.ringLanes (s : State) (ch : Nat) : List Nat :=
  (List.range 160).filter fun n => s.laneOn n && s.spSrc n == 1 &&
    s.dev.cfg.words.any fun w => w.slot == n && w.ch == ch && 3 ≤ w.kind && w.kind ≤ 5

/-- Is the reaction of a lane complete? -/
def State.reacted (s : State) (ch n : Nat) : Bool :=
  let r := s.act (R.IKL_START.LL_REACT.i ch)
  if r = 0 then true
  else if r = 1 then (match (s.lane n).brake with | some (v, _) => v == 0 | none => true)
  else !(s.lane n).tqDue

/-- LL_ACT ends when every reaction of the channel is complete. -/
def State.llPoll (s : State) (ch : Nat) : State :=
  if s.rd (R.IKL_CS.LL_ACT.i ch) = 1 && (s.chan ch).react.all (s.reacted ch) then s.wr (R.IKL_CS.LL_ACT.i ch) 0 else s

/-- LEADER_MISSING (R352, R353): LOSS_CYC cycles of a running channel without an accepted frame start LL_REACT; a bridge has no lanes. -/
def execLeaderMissing (dt ch : Nat) (s : State) : Res :=
  let s := s.after dt
  needs (isCh ch) (
    if s.ringUp ch && s.chState ch = 3 && !s.leadSide ch && s.lossCyc ch ≤ (s.chan ch).noAcc && !(s.chan ch).missing then
      let l := if s.roleMode = 5 then [] else s.ringLanes ch
      let r := s.act (R.IKL_START.LL_REACT.i ch)
      let s := (s.wr (R.IKL_CS.LL_ACT.i ch) 1).modChan ch fun c => { c with missing := true, react := l }
      let s : State := forEach l (fun n s =>
        let x := s.lane n
        if r = 0 then s
        else if r = 1 then
          s.putLane n { x with brake := some ((x.rel.map fun q => bfpVal (q.sig.getD 0 .zero)).getD 0, (x.lastP : Rat) / 65536) }
        else s.putLane n { x with tqDue := true }) s
      s.llPoll ch
    else s)

/-- The channels that the device reads. -/
def State.readChs (s : State) : List Nat := [0, 1].filter fun ch => s.used ch && !s.leadSide ch && s.role ch != 4

/-- LEADER_LOST (R352, R353): every channel read is missing its leader or past REJOIN_TMO, and every reaction is complete. -/
def execLeaderLost (dt : Nat) (s : State) : Res :=
  let s := s.after dt
  let l := s.readChs
  let s := (s.llPoll 0).llPoll 1
  .next (if s.alive && s.tb.run && !l.isEmpty && l.all (fun ch =>
      ((s.chan ch).missing || (s.chan ch).expired) && s.rd (R.IKL_CS.LL_ACT.i ch) == 0) then
    let s : State := forEach l (fun ch s =>
      let s := (s.flag (R.IKL_FLAGS2.LEADER_LOST.i ch)).bump (R.IKL_CNT_E.LL_CNT.i ch) (R.IKL_FLAGS2.LL_OVF.i ch)
      s.modChan ch fun c => { c with missing := false, expired := false, noAcc := 0 }) s
    if s.mode = 4 || s.mode = 5 then
      (s.modeChange 1 false).clearPend.trigger
    else s
  else s)

/-- REJOIN_TIMEOUT (R351): a channel not running within REJOIN_TMO cycles of REINT counts as lost. -/
def execRejoinTimeout (dt ch : Nat) (s : State) : Res :=
  let s := s.after dt
  needs (isCh ch) (match (s.chan ch).rejoin with
    | some n =>
      if s.ringUp ch && s.chState ch = 2 && max 1 (s.act (R.IKL_START.REJOIN_TMO.i ch)) ≤ n then
        s.modChan ch fun c => { c with expired := true }
      else s
    | none => s)

/-- LISTEN_CHANNEL_TIMEOUT (R349): no frame heard for LOSS_CYC cycles returns a channel to listening, INT_CNT 0. -/
def execListenChannelTimeout (dt ch : Nat) (s : State) : Res :=
  let s := s.after dt
  needs (isCh ch) (
    if s.ringUp ch && !s.leadSide ch && s.lossCyc ch ≤ (s.chan ch).quiet && s.csState ≠ 2 &&
        (s.chState ch = 2 || (s.chState ch = 3 && s.roleMode == 1)) then s.listenCh ch
    else s)

/-- RING_FETCH (R33, R310): 500 ticks before a cycle start the originator fetches the latest published image. -/
def execRingFetch (ch : Nat) (s : State) : Res :=
  needs (isCh ch) (
    if s.ringUp ch && s.leads ch then
      match s.reach (sub32 (s.nextCyc ch) 500) with
      | some s => s.modChan ch fun c => { c with img := s.fetchImage ch, imgAlt := s.fetchImage (1 - ch) }
      | none => s
    else s)

end Sys2Proof.Machine
end

