-- ==== Sys2Proof/Machine/Ruling.lean ====
section
/-! DEFINITION. The Ruling solver (spec/07_ruling_solver.md and the assembly of spec/06_cell_model.md): the problem, the method with its arithmetic, warm start, result check, release and substitutes, and the tiles. -/

namespace Sys2Proof.Machine

/-! ### The settings of a solve -/

/-- The words of RUL_ITER, ALG, REG, LIM, OVR_CFG and TOL in force (R195). -/
def State.rulCfg (s : State) : List Nat :=
  [s.actw 0x300014, s.actw 0x300018, s.actw 0x30001C, s.actw 0x300028, s.actw 0x30002C, s.actw 0x300030]

/-- Word i of the settings. -/
def Problem.w (p : Problem) (i : Nat) : Nat := p.cfg.getD i 0
/-- Iterations as they act. -/
def Problem.iters (p : Problem) : Nat := max 8 (min 64 (bits (p.w 0) 6 0))
/-- ALPHA as it acts. -/
def Problem.alpha (p : Problem) : Rat := ((max 0x4000 (min 0x7AE1 (bits (p.w 1) 31 16)) : Nat) : Rat) / 16384
/-- 2^-PROX_EXP. -/
def Problem.prox (p : Problem) : Rat := 1 / ((p2 (bits (p.w 1) 4 0) : Nat) : Rat)
/-- The static regularisation δ. -/
def Problem.reg (p : Problem) : Rat := 1 / ((p2 (bits (p.w 2) 4 0) : Nat) : Rat)
/-- 1/ρ of a row; a row with equal bounds has its own (R180). -/
def Problem.wOf (p : Problem) (eq : Bool) : Rat :=
  let r : Rat := ((p2 (bits (p.w 1) 11 8) : Nat) : Rat)
  if eq then r / ((p2 (bits (p.w 1) 15 12) : Nat) : Rat) else r
/-- ACORR as a fraction. -/
def Problem.acorr (p : Problem) : Rat := (bits (p.w 3) 31 16 : Rat) / 65536
/-- SLOW_FACTOR as it acts. -/
def Problem.slow (p : Problem) : Nat := min 0x8000 (bits (p.w 3) 15 0)
/-- WARM_MISMATCH as it acts. -/
def Problem.mismatch (p : Problem) : Nat := min 100 (bits (p.w 4) 15 8)
/-- K as it acts. -/
def Problem.k (p : Problem) : Nat := max 1 (min 8 (bits (p.w 4) 3 0))

/-- A horizon of RUL_HOR in s. -/
def State.horizon (s : State) (f : Fld) : Rat := ((max 1 (s.act f) : Nat) : Rat) * 125 / 1000000
/-- A weight of RUL_WT. -/
def State.weight (s : State) (f : Fld) : Rat := 1 / ((p2 (min 31 (s.act f)) : Nat) : Rat)

/-! ### Rows and cost (R166 to R178, R185) -/

/-- The format of a variable: joint accelerations in block 0, σ in block 1. -/
def State.varF (s : State) (tag : Nat) : Nat := s.fmtF (if 0x0F00 ≤ tag && tag < 0x0F10 then 1 else 0)

/-- The scaling of a row (R185): the power of two that brings its largest coefficient into [0.5, 1), from 2^-16 to 2^15. -/
def rowShift (l : List Rat) : Int :=
  let m := maxQ0 (l.map absQ)
  if m = 0 then 0 else clampI (-(expQ m) - 1) (-16) 15

/-- A scaled row; a bound that is none stays at the extreme of its format. -/
def State.mkRow (s : State) (tag : Nat) (coef : List (Nat × Rat)) (lo hi : Option Rat) : Sat PRow := do
  let k := p2q (rowShift (coef.map (·.2)))
  let c ← coef.mapM fun x => do
    let v ← fix (s.fmtF 4) (k * x.2)
    pure (x.1, v)
  let l ← match lo with | none => pure fixMin | some b => fix (s.fmtF 5) (k * b)
  let h ← match hi with | none => pure fixMax | some b => fix (s.fmtF 5) (k * b)
  pure ⟨tag, c, l, h⟩

/-- Coefficients by slot as coefficients by variable, those of one variable added; none where a slot has no variable. -/
def byVar (vtags : List Nat) (l : List (Nat × Rat)) : Option (List (Nat × Rat)) :=
  if l.all fun x => vtags.contains x.1 then
    some ((List.range vtags.length).filterMap fun i =>
      let v := (l.filter fun x => vtags[i]? == some x.1).map (·.2)
      if v.isEmpty then none else some (i, sumQ v))
  else none

/-- The position of a tag among the variables. -/
def varIx (vtags : List Nat) (t : Nat) : Nat := vtags.findIdx (· == t)

/-- β, c and AMAX of a joint (R177). -/
def State.coupling (s : State) (j : JointIn) : Sat (Nat × Int × Int × Int) := do
  let ht := s.horizon R.RUL_HOR.H_T
  let b ← fix (s.fmtF 0) (j.dp / ht + j.ddp)
  let c ← fix (s.fmtF 0) (-(j.qd / ht))
  pure (j.slot, b, c, sx 32 (s.md (jO j.slot + 0x6C) 4))

/-- Coupling of a slot. -/
def aimOf (aim : List (Nat × Int × Int × Int)) (n : Nat) : Int × Int × Int := ((aim.find? fun a => a.1 == n).map (·.2)).getD (0, 0, 0)

/-- The rows of KIND 0x1 to 0x4 of a joint (R169, R178), by kind. -/
def State.jointRow (s : State) (vtags : List Nat) (j : JointIn) (aim : Int × Int × Int) (tq : List (Nat × Rat) × Rat) (acorr : Rat) (kind : Nat) : Sat PRow :=
  let n := j.slot
  let f0 := s.fmtF 0
  let am := unfix f0 aim.2.2
  let i := varIx vtags n
  let free := j.fault
  let rowOf := fun (coef : List (Nat × Rat)) (lo hi : Rat) (none_ : Bool) =>
    s.mkRow (kind * 4096 + n) coef (if none_ then none else some lo) (if none_ then none else some hi)
  let lim := fun (o b : Nat) => unfix (s.fmtF b) (sx 32 (s.md (jO n + o) 4))
  if kind = 1 then
    let h := s.horizon R.RUL_HOR.H_Q
    let brake := fun (v : Rat) => divQ (max v 0 * max v 0) (2 * am)
    rowOf [(i, 1)] (2 * (lim 0x60 9 + brake (-j.qd) - j.q - j.qd * h) / (h * h))
      (2 * (lim 0x64 9 - brake j.qd - j.q - j.qd * h) / (h * h)) (free || s.jType n == 3)
  else if kind = 2 then
    let h := s.horizon R.RUL_HOR.H_V
    rowOf [(i, 1)] ((-(lim 0x68 10) - j.qd) / h) ((lim 0x68 10 - j.qd) / h) free
  else if kind = 3 then
    let t := s.mdQ (jO n + 0x70) 16
    rowOf tq.1 (-t - tq.2) (t - tq.2) free
  else
    let b := unfix f0 aim.1
    let c := unfix f0 aim.2.1
    rowOf [(i, 1), (varIx vtags (0x0F00 + s.jChain n), -b)] (c - acorr * am) (c + acorr * am) free

/-- The torque row of a joint: coefficients by variable and bias (R165). -/
def State.torque (s : State) (vtags : List Nat) (frames : List (Nat × Frame × List Link)) (js : List JointIn) (n : Nat) : List (Nat × Rat) × Rat :=
  match frames.find? fun f => f.1 == s.jChain n with
  | none => ([], 0)
  | some (c, _, ls) =>
    let bs := s.bodies c ls
    let ix := (List.range ls.length).zip ls
    match ix.find? fun x => x.2.slot == n with
    | none => ([], 0)
    | some (k, l) =>
      (ix.map fun x => (varIx vtags x.2.slot, s.massIJ bs k x.1 l x.2), s.biasI bs js k l)

/-- The row of clearance pair m (R178, R209); d and its rate are held in the solver formats. -/
def State.pairRow (s : State) (vtags : List Nat) (frames : List (Nat × Frame × List Link)) (m : Nat) : Sat PRow := do
  let side := fun (k : Nat) => (s.capHost k).bind fun h =>
    (frames.find? fun f => f.1 == h.1).map fun f => (capFrame f.2.1 f.2.2 h.2, f.2.2.take h.2)
  let ka := s.md (pairO m) 2
  let kb := s.md (pairO m + 2) 2
  match side ka, side kb with
  | some a, some b =>
    let d := capDist (s.capWorld ka a.1) (s.capWorld kb b.1)
    let n := d.2.2.1
    let dw ← fix (s.fmtF 11) d.2.2.2
    let dd ← fix (s.fmtF 10) (n.dot ((a.1.vel d.1).sub (b.1.vel d.2.1)))
    let kap := n.dot ((a.1.acc d.1).sub (b.1.acc d.2.1))
    let h := s.horizon R.RUL_HOR.H_C
    let coef := (a.2.map fun l => (l.slot, n.dot (l.col d.1))) ++ (b.2.map fun l => (l.slot, -(n.dot (l.col d.2.1))))
    let dmin : Rat := (s.md (pairO m + 4) 2 : Rat) / 10000
    s.mkRow (0x5000 + m) ((byVar vtags coef).getD [])
      (some (2 * (dmin - unfix (s.fmtF 11) dw - unfix (s.fmtF 10) dd * h) / (h * h) - kap)) none
  | _, _ => s.mkRow (0x5000 + m) [] none none

/-- The cost of native mode (R177): entries of H and g. -/
def State.cost (s : State) (vtags : List Nat) (aim : List (Nat × Int × Int × Int)) : Sat (List (Nat × Nat × Int) × List Int) := do
  let wt := s.weight R.RUL_WT.W_T_EXP
  let wp := s.weight R.RUL_WT.W_P_EXP
  let wr := s.weight R.RUL_WT.W_R_EXP
  let f0 := s.fmtF 0
  let hq := (List.range vtags.length).flatMap fun i =>
    let t := vtags.getD i 0
    if t < 0x0F00 then
      let k := varIx vtags (0x0F00 + s.jChain t)
      let b := unfix f0 (aimOf aim t).1
      [(i, i, wt + wr), (i, k, -(wt * b)), (k, i, -(wt * b))]
    else
      let mine := aim.filter fun a => s.jChain a.1 == t - 0x0F00
      [(i, i, wp + wt * sumQ (mine.map fun a => unfix f0 a.2.1 * unfix f0 a.2.1))]
  let gq := vtags.map fun t =>
    if t < 0x0F00 then -(wt * unfix f0 (aimOf aim t).2.1)
    else
      let mine := aim.filter fun a => s.jChain a.1 == t - 0x0F00
      wt * sumQ (mine.map fun a => unfix f0 a.2.1 * unfix f0 a.2.2.1) - wp * (s.sigmaMax (t - 0x0F00) : Rat) / 32768
  let h ← hq.mapM fun x => do
    let v ← fix (s.fmtF 2) x.2.2
    pure (x.1, x.2.1, v)
  let g ← gq.mapM fun x => fix (s.fmtF 3) x
  pure (h, g)

/-! ### The resident structure of EV3 delta mode (R172) -/

/-- An entry of the resident structure: block, row, column, value. -/
def State.resident (s : State) (i : Nat) : Nat × Nat × Nat × Int :=
  let d := s.md (0x41000 + 8 * i) 4
  (bits d 31 29, bits d 28 18, bits d 17 10, sx 32 (s.md (0x41004 + 8 * i) 4))

/-- NV. -/
def State.resNv (s : State) : Nat := min 144 (s.md 0x40000 2)
/-- NR. -/
def State.resNr (s : State) : Nat := min 1536 (s.md 0x40002 2)

/-- Does an entry name indices inside NV and NR? -/
def State.residentOk (s : State) (e : Nat × Nat × Nat × Int) : Bool :=
  let nv := s.resNv
  let nr := s.resNr
  if e.1 = 0 then e.2.1 < nv && e.2.2.1 < nv
  else if e.1 = 1 then e.2.1 < nr && e.2.2.1 < nv
  else if e.1 = 3 || e.1 = 4 then e.2.1 < nr
  else e.1 != 7 && e.2.1 < nv

/-- The last value of a block at an index. -/
def lastVal (es : List (Nat × Nat × Nat × Int)) (blk i : Nat) : Int :=
  (es.filter fun e => e.1 == blk && e.2.1 == i).foldl (fun _ e => e.2.2.2) 0

/-- A resident row, scaled as R185 says. -/
def State.resRow (s : State) (es : List (Nat × Nat × Nat × Int)) (i : Nat) : Sat PRow :=
  let coef := (es.filter fun e => e.1 == 1 && e.2.1 == i).map fun e => (e.2.2.1, unfix (s.fmtF 4) e.2.2.2)
  let bound := fun (blk : Nat) =>
    let v := lastVal es blk i
    if v = fixMin || v = fixMax then none else some (unfix (s.fmtF 5) v)
  s.mkRow (s.md (0x40200 + 2 * i) 2) coef (bound 3) (bound 4)

/-- Words of the status page and counts of one assembly. -/
structure Asm where
  vtags : List Nat
  vlo : List Int
  vhi : List Int
  h : List (Nat × Nat × Int)
  g : List Int
  rows : List PRow
  aim : List (Nat × Int × Int × Int)
  sepCut : Nat
  sepUnmap : Nat
  deriving DecidableEq, Repr

/-- Separation rows as rows of the problem, in order of INDEX, with those cut and those without variables. -/
def State.sepRowsIn (s : State) (vtags : List Nat) (rows : List (Nat × SepKey)) : Sat (List PRow × Nat × Nat) := do
  let kept := rows.take s.sepRows
  let mapped := kept.filterMap fun r => (byVar vtags r.2.coef).map fun c => (r.1, c, r.2.lo)
  let sorted := sortAsc (fun (r : Nat × List (Nat × Rat) × Rat) => (r.1 : Rat)) mapped
  let l ← sorted.mapM fun r => s.mkRow (0x6000 + r.1) r.2.1 (some r.2.2) none
  pure (l, rows.length - kept.length, kept.length - mapped.length)

/-- The native problem (R166 to R169, R177, R178). -/
def State.nativeAsm (s : State) (js : List JointIn) (frames : List (Nat × Frame × List Link)) (sep : List (Nat × SepKey)) : Sat Asm := do
  let vtags := js.map (·.slot) ++ s.chains.map (0x0F00 + ·)
  let aim ← js.mapM s.coupling
  let f0 := s.fmtF 0
  let sg ← s.chains.mapM fun c => fix (s.fmtF 1) ((s.sigmaMax c : Rat) / 32768)
  let vlo := (js.map fun j => if j.fault then rndAway (j.a * ((p2 f0 : Nat) : Rat)) else -(aimOf aim j.slot).2.2) ++ s.chains.map fun _ => 0
  let vhi := (js.map fun j => if j.fault then rndAway (j.a * ((p2 f0 : Nat) : Rat)) else (aimOf aim j.slot).2.2) ++ sg
  let acorr : Rat := (s.act R.RUL_LIM.ACORR : Rat) / 65536
  let own ← [1, 2, 3, 4].mapM fun k => js.mapM fun j =>
    s.jointRow vtags j (aimOf aim j.slot) (s.torque vtags frames js j.slot) acorr k
  let cap := 1536 - 4 * s.nJoint - s.sepRows
  let ps ← (s.pairs.take cap).mapM fun m => s.pairRow vtags frames m
  let sp ← s.sepRowsIn vtags sep
  let hg ← s.cost vtags aim
  pure ⟨vtags, vlo, vhi, hg.1, hg.2, own.flatten ++ ps ++ sp.1, aim, sp.2.1, sp.2.2⟩

/-- The problem of EV3 delta mode (R172, R174). -/
def State.deltaAsm (s : State) (sep : List (Nat × SepKey)) : Sat Asm := do
  let es := ((List.range s.nnz).map s.resident).filter s.residentOk
  let vtags := (List.range s.resNv).map fun i => s.md (0x40010 + 2 * i) 2
  let rows ← (List.range s.resNr).mapM fun i => s.resRow es i
  let sp ← s.sepRowsIn vtags sep
  let vec := fun (blk : Nat) => (List.range s.resNv).map fun i => lastVal es blk i
  let h := (es.filter fun e => e.1 == 0).map fun e => (e.2.1, e.2.2.1, e.2.2.2)
  let aim := (vtags.filter (· < 160)).map fun n => (n, 0, 0, sx 32 (s.md (jO n + 0x6C) 4))
  pure ⟨vtags, vec 5, vec 6, h, vec 2, rows ++ sp.1, aim, sp.2.1, sp.2.2⟩

/-! ### Tags and warm start (R170, R171, R187 to R189) -/

/-- STRUCT_SIG. -/
def structSig (vtags : List Nat) (rows : List PRow) : Nat :=
  crc32 ((vtags ++ rows.map (·.tag)).flatMap (leBytes 2))

/-- Is row i a later row of its tag? -/
def dupRow (rows : List PRow) (i : Nat) : Bool :=
  (rows.take i).any fun r => some r.tag == (rows[i]?).map (·.tag)

/-- The number that a raw variable holds. -/
def State.varQ (s : State) (vtags : List Nat) (x : List Int) (i : Nat) : Rat :=
  unfix (s.varF (vtags.getD i 0)) (x.getD i 0)

/-- The value of a row at x. -/
def State.rowAt (s : State) (vtags : List Nat) (x : List Int) (r : PRow) : Rat :=
  sumQ (r.coef.map fun c => unfix (s.fmtF 4) c.2 * s.varQ vtags x c.1)

/-- A clamp to a range of words. -/
def clampW (x : Rat) (lo hi : Rat) : Rat := max lo (min x hi)

/-- The starting value of a variable that nothing was kept for (R188); in delta mode a variable that is no σ has no coupling target, and its start is open. -/
def State.startVar (s : State) (native : Bool) (aim : List (Nat × Int × Int × Int)) (t : Nat) : Sat Int :=
  if 0x0F00 ≤ t && t < 0x0F10 then fix (s.fmtF 1) ((s.rd (R.CHN_RATE.SIGMA.i (t - 0x0F00)) : Rat) / 32768)
  else if native then
    let a := aimOf aim t
    fix (s.fmtF 0) (unfix (s.fmtF 0) a.1 * ((s.rd (R.CHN_RATE.SIGMA.i (s.jChain t)) : Rat) / 32768) + unfix (s.fmtF 0) a.2.1)
  else pure (sx 32 (Config.freeNat (s.free + t)))

/-- What a value was kept as, by tag. -/
def keptOf (l : List (Nat × Int)) (t : Nat) : Option Int := (l.find? fun x => x.1 == t).map (·.2)

/-- The start of a solve: x, z, y over rows then bounds, unmatched constraint rows, structure changed, cold. -/
def State.warm (s : State) (a : Asm) (native : Bool) (sig mismatch : Nat) : Sat (List Int × List Int × List Int × Nat × Bool × Bool) := do
  let n := a.rows.length
  let tags := a.rows.map (·.tag) ++ a.vtags
  let same := match s.rul.kept with | some k => k.sig == sig | none => false
  let kx := match s.rul.kept with | some k => k.x | none => []
  let kz := match s.rul.kept with | some k => k.z | none => []
  let ky := match s.rul.kept with | some k => k.y | none => []
  let miss := fun (i : Nat) => (keptOf ky (tags.getD i 0)).isNone || (i < n && dupRow a.rows i)
  let un := if same then 0 else ((List.range n).filter miss).length
  let cold := s.rul.cold || mismatch * n < un * 100
  let x ← if same && !cold then pure (kx.map (·.2))
    else a.vtags.mapM fun t => do
      match keptOf kx t with
      | some v => if cold then s.startVar native a.aim t else pure v
      | none => s.startVar native a.aim t
  let zAt := fun (i : Nat) =>
    if i < n then
      match a.rows[i]? with
      | some r => fix (s.fmtF 5) (clampW (s.rowAt a.vtags x r) (unfix (s.fmtF 5) r.lo) (unfix (s.fmtF 5) r.hi))
      | none => pure 0
    else
      let f := s.varF (a.vtags.getD (i - n) 0)
      fix (s.fmtF 5) (clampW (s.varQ a.vtags x (i - n)) (unfix f (a.vlo.getD (i - n) 0)) (unfix f (a.vhi.getD (i - n) 0)))
  let ix := List.range tags.length
  let z ← if same && !cold then pure (kz.map (·.2))
    else ix.mapM fun i => if cold || miss i then zAt i else pure ((keptOf kz (tags.getD i 0)).getD 0)
  let y := if same && !cold then ky.map (·.2)
    else ix.map fun i => if cold || miss i then 0 else (keptOf ky (tags.getD i 0)).getD 0
  pure (x, z, y, un, !same, cold)

/-! ### The solver sample (row 6 of R27) -/

/-- Does the solve run (R194): a solving mode, SOLV0 on, and joint variables? -/
def State.solving (s : State) : Bool :=
  s.alive && s.tb.run && s.dom 0 && (s.mode == 2 || s.mode == 3 || s.mode == 6 || s.mode == 7) &&
    (if s.deltaMode then 0 < s.resNv else !s.joints.isEmpty)

/-- SOLVE_LAT in ticks (R30). -/
def State.solveLat (s : State) : Nat := 31250 * max 1 (min 16 (s.rd R.RUL_CFG.SOLVE_LAT))

/-- Has logical tile t of quadrant q no tile in service? -/
def State.tileOut (s : State) (q t : Nat) : Bool := s.unitGone (uTile (17 * q + tget t s.spr.tiles (16 * q + t)))

/-- A tile of quadrant q in service that carries no logical tile: its spare. -/
def State.spareTile (s : State) (q : Nat) : Option Nat :=
  let carried := (List.range 16).map fun i => tget i s.spr.tiles (16 * q + i)
  (List.range 17).find? fun p => !carried.contains p && !s.unitGone (uTile (17 * q + p))

/-- SHORT and OUT of quadrant q: a logical tile out of service with the spare used (R199). -/
def State.showTile (s : State) (q : Nat) : State :=
  match (List.range 16).find? (s.tileOut q), s.spareTile q with
  | some t, none =>
    let s := if s.rd (R.RUL_TILE.SHORT.j q) = 1 then s else s.flag R.SPR_FLAGS.EXHAUSTED
    (s.wr (R.RUL_TILE.SHORT.j q) 1).wr (R.RUL_TILE.OUT.j q) t
  | some _, some _ => s
  | none, _ => (s.wr (R.RUL_TILE.SHORT.j q) 0).wr (R.RUL_TILE.OUT.j q) 0x1F

/-- The tile changes due at a solver sample instant: the spare takes the number of a tile that failed since the last one, also where that tile has come back, and then is the spare (R198); without a spare the work is dealt to the others (R199). -/
def State.tilesTake (s : State) : State :=
  let s : State := forEach (List.range 4) (fun q s =>
    let lost := (List.range 16).filter fun t => s.tileOut q t || s.spr.swap.contains (16 * q + t)
    let s : State := forEach lost (fun t s =>
      match s.spareTile q with
      | some p =>
        let s := s.bringIn (uTile (17 * q + p))
        { s with spr := { s.spr with tiles := tput t s.spr.tiles (16 * q + t) p } }.wr (R.RUL_TILE.SPARE_USED.j q) 1
      | none => s) s
    s.showTile q) s
  { s with spr := { s.spr with swap := [] } }

/-- The assembler builds the problem of the solver sample instant that falls now, with base index k. -/
def State.solverSample (s : State) (k : Nat) : State :=
  let s := s.applyDelta
  if !s.solving then { s with rul := { s.rul with prob := none, res := none } }
  else
    let s := s.tilesTake
    let ns := s.solveLat
    let lat : Rat := (ns : Rat) / secQ
    let native := !s.deltaMode
    let la := s.lookAhead ns
    let all := (List.range 16).flatMap s.chainSlots
    let b := ((s.joints.mapM fun n => s.bridge la lat n) : Sat (List JointIn)) 0
    let js := b.1
    let fr := ((s.chains.mapM fun c => s.chainFrames la js c) : Sat (List (Nat × Frame × List Link))) b.2
    let frames := fr.1
    let s := s.sepTake.sepShow
    let sep := (s.sepRun frames lat) 0
    let s := sep.1.2.1
    let a := (if native then s.nativeAsm js frames sep.1.1 else s.deltaAsm sep.1.1) sep.2
    let asm := a.1
    let sig := structSig asm.vtags asm.rows
    let cfg := s.rulCfg
    let w := (s.warm asm native sig (min 100 (bits (cfg.getD 4 0) 15 8))) a.2
    let x0 := w.1.1
    let z0 := w.1.2.1
    let y0 := w.1.2.2.1
    let un := w.1.2.2.2.1
    let changed := w.1.2.2.2.2.1
    let cold := w.1.2.2.2.2.2
    let p : Problem := ⟨s.now, add32 s.now ns, asm.vtags, asm.vlo, asm.vhi, asm.h, asm.g, asm.rows, asm.aim, sig, cold,
      x0, z0, y0, w.2, s.tilesStopped, native, cfg, sep.1.2.2, !s.dom 8⟩
    let s := { s with rul := { s.rul with prob := some p, res := none, cold := false }, free := s.free + 65536 }
    let s := ((s.wr R.RUL_SEQ.INDEX k).wrB R.RUL_STAT.STRUCT_CHANGED changed).wrB R.RUL_STAT.COLD cold
    let s := if changed then s.bump R.RUL_CNT_WARM.STRUCT_CNT R.RUL_STKY.STRUCT_OVF else s
    let s := if cold then s.bump R.RUL_CNT_WARM.COLD_CNT R.RUL_STKY.COLD_OVF else s
    let s := (s.wr R.RUL_MATCH.ROWS asm.rows.length).wr R.RUL_MATCH.UNMATCHED un
    let sub := (js.filter fun j => j.subst && native && all.contains j.slot).map (·.slot)
    let cut := if native then s.pairs.length - (1536 - 4 * s.nJoint - s.sepRows) else 0
    let bad := if native then 0 else ((List.range s.nnz).filter fun i => !s.residentOk (s.resident i)).length
    let dup := ((List.range asm.rows.length).filter (dupRow asm.rows)).length
    let s := s.putMem32 3 (spO 0) k
    let s := s.putBytes 3 (spO 4) (leBytes 2 asm.vtags.length ++ leBytes 2 asm.rows.length ++ leBytes 4 sig ++
      leBytes 2 asm.sepCut ++ leBytes 2 asm.sepUnmap)
    let s := (((((s.spCount 0x10 (if native then fr.2 else 0)).spCount 0x14 sub.length).spCount 0x18 cut).spCount 0x24 bad).spCount 0x28 dup)
    let s := s.putBytes 3 (spO 0x30) ((List.range 20).map fun i =>
      (List.range 8).foldl (fun v b => v + b2n (sub.contains (8 * i + b)) * p2 b) 0)
    s.putMem32 3 (spO 0x7C) k

/-! ### The method (R180 to R186) -/

/-- A sum in a 72-bit accumulator that stops at the ends of its range. -/
def acc72 : List Int → Sat Int
  | l => l.foldlM (fun a x => fun n =>
      let v := a + x
      let c := clampI v (-(p2 71 : Int)) ((p2 71 : Int) - 1)
      (c, if c = v then n else n + 1)) 0

/-- Findings of a factorization: pivots replaced, the index of the first, and a non-convex pivot. -/
structure Pivots where
  cnt : Nat
  first : Nat
  bad : Bool
  deriving DecidableEq, Repr

/-- A pivot under R182 and R183; a variable pivot that is negative beyond the least magnitude counts as not convex and continues as its magnitude. -/
def pivot (f pmin : Nat) (var : Bool) (idx : Nat) (d : Int) (p : Pivots) : Int × Pivots :=
  let m : Int := (p2 (f - min pmin f) : Nat)
  if (d.natAbs : Int) < m then
    (if d < 0 then -m else m, { p with cnt := min 255 (p.cnt + 1), first := if p.cnt = 0 then idx else p.first })
  else if var && d < 0 then (-d, { p with bad := true })
  else (d, p)

/-- The factor LDLᵀ: row pivots with their reciprocals and the rows' entries of L by variable, then the variables' entries of L by column, reciprocals, and the findings. -/
structure Factor where
  rRcp : List Int
  rL : List (List (Nat × Int))
  vL : List (List Int)
  vRcp : List Int
  piv : Pivots
  deriving DecidableEq, Repr

/-- The stacked rows Ā = [A; I] with their 1/ρ. -/
def State.stacked (s : State) (p : Problem) : List (List (Nat × Int) × Rat) :=
  (p.rows.map fun r => (r.coef, p.wOf (r.lo = r.hi))) ++
    (List.range p.vtags.length).map fun i =>
      ([(i, ((p2 (s.fmtF 4) : Nat) : Int))], p.wOf (p.vlo.getD i 0 = p.vhi.getD i 0))

/-- The row block is eliminated. -/
def State.factRows (s : State) (p : Problem) (rows : List (List (Nat × Int) × Rat)) : Sat (List (List (Nat × Int) × Int × Int) × Pivots) :=
  rows.foldlM (fun (acc : List (List (Nat × Int) × Int × Int) × Pivots) r => do
    let f8 := s.fmtF 8
    let d0 ← fix f8 (-(r.2 + p.reg))
    let d := pivot f8 (bits (p.w 2) 12 8) false 0xFE d0 acc.2
    let rc ← fix f8 (divQ 1 (unfix f8 d.1))
    let l ← r.1.mapM fun c => do
      let v ← fix (s.fmtF 7) (unfix (s.fmtF 4) c.2 * unfix f8 rc)
      pure (c.1, v)
    pure (acc.1 ++ [(l, d.1, rc)], d.2)) ([], ⟨0, 0xFF, false⟩)

/-- An entry of H. -/
def hAt (h : List (Nat × Nat × Int)) (i j : Nat) : Int :=
  (h.filter fun e => e.1 == i && e.2.1 == j).foldl (fun _ e => e.2.2) 0

/-- The coefficient of a variable in a sparse row. -/
def coefAt (l : List (Nat × Int)) (i : Nat) : Int := ((l.find? fun x => x.1 == i).map (·.2)).getD 0

/-- The variables follow in their order: the columns of L found so far with their pivots and reciprocals. The sum over the rows, whose entries of L are Ā ÷ D, takes products of Ā and L in 72 bits. -/
def State.factVars (s : State) (p : Problem) (st : List (List (Nat × Int) × Rat)) (rows : List (List (Nat × Int) × Int × Int)) (pv : Pivots) : Sat (List (List Int × Int × Int) × Pivots) :=
  let n := p.vtags.length
  let f7 := s.fmtF 7
  let f8 := s.fmtF 8
  (List.range n).foldlM (fun (acc : List (List Int × Int × Int) × Pivots) j => do
    let entry := fun (i : Nat) => (do
      let viaRows ← acc72 ((st.zip rows).map fun r => coefAt r.1.1 i * coefAt r.2.1 j)
      pure (unfix (s.fmtF 2) (hAt p.h i j) + (if i = j then p.prox + p.reg else 0) - unfix (s.fmtF 4 + f7) viaRows -
        sumQ (acc.1.map fun c => unfix f7 (c.1.getD i 0) * unfix f8 c.2.1 * unfix f7 (c.1.getD j 0))) : Sat Rat)
    let dj ← entry j
    let d0 ← fix f8 dj
    let d := pivot f8 (bits (p.w 2) 12 8) true j d0 acc.2
    let rc ← fix f8 (divQ 1 (unfix f8 d.1))
    let col ← (List.range n).mapM fun i =>
      if i < j then pure (0 : Int)
      else if i = j then fix f7 1
      else do
        let e ← entry i
        fix f7 (e * unfix f8 rc)
    pure (acc.1 ++ [(col, d.1, rc)], d.2)) ([], pv)

/-- K [xt; ν] = [r1; r2] with the factor of this solve. -/
def State.kktSolve (s : State) (p : Problem) (f : Factor) (r1 r2 : List Int) : Sat (List Int × List Int) := do
  let n := p.vtags.length
  let f7 := s.fmtF 7
  let f8 := s.fmtF 8
  let ri := (List.range r2.length).zip r2
  let lr := f.rL
  let b ← (List.range n).foldlM (fun (b : List Int) j => do
    let viaRows ← acc72 (((ri.zip lr).map fun x => coefAt x.2 j * x.1.2))
    let viaVars ← acc72 (((List.range j).map fun k => (f.vL.getD k []).getD j 0 * b.getD k 0))
    let v ← fix (s.fmtF 3) (unfix (s.fmtF 3) (r1.getD j 0) - unfix (f7 + s.fmtF 5) viaRows - unfix (f7 + s.fmtF 3) viaVars)
    pure (b ++ [v])) []
  let x ← (List.range n).reverse.foldlM (fun (x : List (Nat × Int)) j => do
    let back := sumQ (x.map fun y => unfix f7 ((f.vL.getD j []).getD y.1 0) * unfix (s.varF (p.vtags.getD y.1 0)) y.2)
    let v ← fix (s.varF (p.vtags.getD j 0)) (unfix (s.fmtF 3) (b.getD j 0) * unfix f8 (f.vRcp.getD j 0) - back)
    pure ((j, v) :: x)) []
  let xs := x.map (·.2)
  let nu ← (ri.zip lr).mapM fun y => do
    let back := sumQ (y.2.map fun c => unfix f7 c.2 * s.varQ p.vtags xs c.1)
    fix (s.fmtF 6) (unfix (s.fmtF 5) y.1.2 * unfix f8 (f.rRcp.getD y.1.1 0) - back)
  pure (xs, nu)

/-- The bounds of the stacked rows as numbers. -/
def State.stackedBounds (s : State) (p : Problem) : List (Rat × Rat) :=
  (p.rows.map fun r => (unfix (s.fmtF 5) r.lo, unfix (s.fmtF 5) r.hi)) ++
    (List.range p.vtags.length).map fun i =>
      let f := s.varF (p.vtags.getD i 0)
      (unfix f (p.vlo.getD i 0), unfix f (p.vhi.getD i 0))

/-- One iteration of R181 on x, z and y. -/
def State.iterate (s : State) (p : Problem) (f : Factor) (ws : List Rat) (bd : List (Rat × Rat)) (st : List Int × List Int × List Int) : Sat (List Int × List Int × List Int) := do
  let f5 := s.fmtF 5
  let f6 := s.fmtF 6
  let x := st.1
  let z := st.2.1
  let y := st.2.2
  let ix := List.range z.length
  let r1 ← (List.range x.length).mapM fun j => fix (s.fmtF 3) (p.prox * s.varQ p.vtags x j - unfix (s.fmtF 3) (p.g.getD j 0))
  let r2 ← ix.mapM fun i => fix f5 (unfix f5 (z.getD i 0) - unfix f6 (y.getD i 0) * ws.getD i 0)
  let k ← s.kktSolve p f r1 r2
  let zt ← ix.mapM fun i =>
    fix f5 (unfix f5 (z.getD i 0) + (unfix f6 (k.2.getD i 0) - unfix f6 (y.getD i 0)) * ws.getD i 0)
  let x' ← (List.range x.length).mapM fun j =>
    fix (s.varF (p.vtags.getD j 0)) (p.alpha * s.varQ p.vtags k.1 j + (1 - p.alpha) * s.varQ p.vtags x j)
  let zr ← ix.mapM fun i => fix f5 (p.alpha * unfix f5 (zt.getD i 0) + (1 - p.alpha) * unfix f5 (z.getD i 0))
  let z' ← ix.mapM fun i =>
    let b := bd.getD i (0, 0)
    fix f5 (clampW (unfix f5 (zr.getD i 0) + unfix f6 (y.getD i 0) * ws.getD i 0) b.1 b.2)
  let y' ← ix.mapM fun i =>
    fix f6 (unfix f6 (y.getD i 0) + divQ (unfix f5 (zr.getD i 0) - unfix f5 (z'.getD i 0)) (ws.getD i 0))
  pure (x', z', y')

/-- n iterations. -/
def State.iterateN (s : State) (p : Problem) (f : Factor) (ws : List Rat) (bd : List (Rat × Rat)) : Nat → List Int × List Int × List Int → Sat (List Int × List Int × List Int)
  | 0, st => pure st
  | n + 1, st => do
    let t ← s.iterate p f ws bd st
    s.iterateN p f ws bd n t

/-- What the method yields: x within its bounds, z, y, the residuals, the violation with its row, and the pivots. -/
structure Solved where
  x : List Int
  z : List Int
  y : List Int
  resP : Rat
  resD : Rat
  viol : Rat
  vrow : Nat
  piv : Pivots
  deriving DecidableEq, Repr

/-- The distance of a number to a range. -/
def distTo (x lo hi : Rat) : Rat := max 0 (max (lo - x) (x - hi))

/-- The place of the first largest element. -/
def argMax (l : List Rat) : Nat := l.findIdx (fun x => l.all fun y => y ≤ x)

/-- The method of R180 and R181. -/
def State.runMethod (s : State) (p : Problem) : Sat Solved := do
  let st := s.stacked p
  let rows ← s.factRows p st
  let vars ← s.factVars p st rows.1 rows.2
  let f : Factor := ⟨rows.1.map (·.2.2), rows.1.map (·.1), vars.1.map (·.1), vars.1.map (·.2.2), vars.2⟩
  let ws := st.map (·.2)
  let bd := s.stackedBounds p
  let e ← s.iterateN p f ws bd p.iters (p.x0, p.z0, p.y0)
  let x := e.1
  let rowVal := fun (c : List (Nat × Int)) => sumQ (c.map fun y => unfix (s.fmtF 4) y.2 * s.varQ p.vtags x y.1)
  let resP := maxQ0 (((List.range st.length).zip st).map fun r => absQ (rowVal r.2.1 - unfix (s.fmtF 5) (e.2.1.getD r.1 0)))
  let rd ← (List.range x.length).mapM fun j => do
    let viaRows ← acc72 (((List.range st.length).zip st).map fun r => coefAt r.2.1 j * e.2.2.getD r.1 0)
    pure (absQ (sumQ ((p.h.filter fun h => h.1 == j).map fun h => unfix (s.fmtF 2) h.2.2 * s.varQ p.vtags x h.2.1) +
      unfix (s.fmtF 3) (p.g.getD j 0) + unfix (s.fmtF 4 + s.fmtF 6) viaRows))
  let resD := maxQ0 rd
  let vs := p.rows.map fun r => distTo (rowVal r.coef) (unfix (s.fmtF 5) r.lo) (unfix (s.fmtF 5) r.hi)
  let xc := (List.range x.length).map fun j => clampI (x.getD j 0) (p.vlo.getD j 0) (p.vhi.getD j 0)
  pure ⟨xc, e.2.1, e.2.2, resP, resD, maxQ0 vs, argMax vs, vars.2⟩

/-- A number as unsigned Q8.24 that stops at all-ones. -/
def q824 (x : Rat) : Nat := min 0xFFFFFFFF (rndAway (x * 16777216)).toNat

/-- SOLVE_COMPLETE (R187, R190, R191, R197): a solve completes before its release tick; asmEnd and factEnd are the phase completions in 10 ns after S. -/
def execSolveComplete (dt asmEnd factEnd : Nat) (s : State) : Res :=
  let s := s.after dt
  needs (asmEnd < 65536 && factEnd < 65536) (match s.rul.prob with
    | none => s
    | some p =>
      let d := sub32 s.now p.start
      let lat := sub32 p.due p.start
      if s.rul.res.isSome || !p.sepDone || lat ≤ d || !s.solving then s
      else
        let r := (s.runMethod p) p.sat
        let v := r.1
        let bad := p.w 5 < q824 v.viol || v.piv.bad || p.tile
        let n := p.rows.length
        let tags := p.rows.map (·.tag) ++ p.vtags
        let kept : Kept := ⟨p.sig, p.vtags.zip v.x, tags.zip v.z, tags.zip v.y⟩
        let s := { s with rul := { s.rul with res := some ⟨v.x, bad⟩, kept := some kept } }
        let s := (s.wr R.RUL_STAT.LATE 0).wrB R.RUL_STAT.DEGRADED bad
        let s := (s.wrB R.RUL_STAT.PIVOT_FIX (v.piv.cnt != 0)).wrB R.RUL_STAT.NONCONVEX v.piv.bad
        let s := (s.wrB R.RUL_STAT.TILE_ERR p.tile).wrB R.RUL_STAT.SAT (r.2 != 0)
        let s := if v.piv.cnt = 0 then s else s.flag R.RUL_STKY.PIVOT_SEEN
        let s := if v.piv.bad then s.flag R.RUL_STKY.NONCONVEX_SEEN else s
        let s := if bad then ((s.bump R.RUL_CNT_BAD.DEG_CNT R.RUL_STKY.DEG_OVF).flag R.RUL_STKY.DEG_SEEN).raiseInt 3 else s
        let s := (s.wr R.RUL_PIVOT.FIX_IDX v.piv.first).wr R.RUL_PIVOT.PIVOT_CNT v.piv.cnt
        let s := ((s.wr R.RUL_RES_P.VALUE (q824 v.resP)).wr R.RUL_RES_D.VALUE (q824 v.resD)).wr R.RUL_VIOL.VALUE (q824 v.viol)
        let s := (s.wr R.RUL_VROW.TAG ((p.rows[v.vrow]?).map (·.tag) |>.getD 0)).wr R.RUL_VROW.INDEX (if n = 0 then 0 else v.vrow)
        let s := s.bumpN R.RUL_CNT_SAT.SAT_CNT R.RUL_STKY.SAT_OVF r.2
        let s := (s.wrS R.RUL_TIME.SLACK (slackInt (slackPct lat d))).wrU R.RUL_TIME.DONE d
        let s := (s.wr R.RUL_PHASE.ASM_END asmEnd).wr R.RUL_PHASE.FACT_END factEnd
        s.solveSend.slackReport 1 0 (slackPct lat d))

/-! ### Release and substitutes (R179, R192 to R194, R200) -/

/-- Does a chain's queue run, so that its joints receive δ? -/
def State.qRuns (s : State) (c : Nat) : Bool := s.qState c == 1 || s.qState c == 4

/-- σ of chain c out of a result: converted by truncation and clamped to SIGMA_MAX (R179, R200). -/
def State.sigmaOut (s : State) (p : Problem) (x : List Int) (c : Nat) : Nat :=
  let i := varIx p.vtags (0x0F00 + c)
  if i < p.vtags.length then
    (clampI (truncQ (s.varQ p.vtags x i * 32768)) 0 (s.sigmaMax c)).toNat
  else min 0x8000 (s.sigmaMax c)

/-- δ of slot n out of a result, in Q11.21 (R179, R200). -/
def State.deltaOut (s : State) (p : Problem) (x : List Int) (n sigma : Nat) : Int :=
  let f0 := s.fmtF 0
  let a := aimOf p.aim n
  let xa := s.varQ p.vtags x (varIx p.vtags n)
  let lim := p.acorr * unfix f0 a.2.2
  let d := if p.native then xa - unfix f0 a.1 * ((sigma : Rat) / 32768) - unfix f0 a.2.1 else xa
  clampI (rndAway (clampQ d (-lim) lim * 2097152)) fixMin fixMax

/-- δ only for joints whose queue runs; none where the release drives nothing. -/
def State.gateDelta (s : State) (d : List (Nat × Int)) : List (Nat × Int) :=
  if s.mode = 6 then []
  else d.filter fun x => x.2 ≠ 0 && (match s.queueOf x.1 with | some c => s.qRuns c | none => false)

/-- σ is put in force for the generators, except in HOLD, where they ignore it (R194). -/
def State.putSigma (s : State) (sg : List (Nat × Nat)) : State :=
  let s := { s with rul := { s.rul with sigma := sg } }
  if s.mode = 6 then s else (forEach sg (fun x s => s.wr (R.CHN_RATE.SIGMA.i x.1) x.2) s).showAux

/-- σ last released of chain c. -/
def State.lastSigma (s : State) (c : Nat) : Nat := tget 0 s.rul.sigma c

/-- The release of an on-time solve that is not degraded. -/
def State.releaseGood (s : State) (p : Problem) (x : List Int) : State :=
  let s := ((s.wr R.RUL_STAT.CONSEC 0).wr R.RUL_STAT.HOLD_CAUSE 0).wr R.RUL_STAT.SUBST 0
  let sg := s.chains.map fun c => (c, s.sigmaOut p x c)
  let d := p.aim.map fun a => (a.1, s.deltaOut p x a.1 (tget 0 sg (s.jChain a.1)))
  { s.putSigma sg with delta := s.gateDelta d }

/-- A release tick whose solve is late or degraded (R192, R193). -/
def State.releaseBad (s : State) (p : Problem) : State :=
  let n := min p.k (s.rd R.RUL_STAT.CONSEC + 1)
  let s := s.wr R.RUL_STAT.CONSEC n
  if p.k ≤ n && (s.mode == 2 || s.mode == 7) then
    let s := { s with delta := [] }
    let s := ((s.flag R.RUL_STAT.HOLD_CAUSE).flag R.RUL_STKY.HOLD_ENTERED).journal 9 0 true noUnit
    s.holdCause
  else
    let s := s.wr R.RUL_STAT.SUBST 1
    { s.putSigma (s.chains.map fun c => (c, s.lastSigma c * p.slow / 32768)) with delta := s.gateDelta s.delta }

/-- SOLUTION_RELEASE (R30, R190, R192, R193): at S + SOLVE_LAT the solution or its substitute is placed in force. -/
def execSolutionRelease (s : State) : Res :=
  .next (match s.rul.prob with
    | none => s
    | some p =>
      match s.reach p.due with
      | none => s
      | some s =>
        let res := s.rul.res
        let s := { s with rul := { s.rul with prob := none, res := none } }
        if !s.solving then s
        else
          match res with
          | some r =>
            if r.bad then ((s.journal 9 1 false noUnit).inkEvent 7 0).releaseBad p else s.releaseGood p r.x
          | none =>
            let s := ((s.wr R.RUL_STAT.LATE 1).wr R.RUL_STAT.DEGRADED 0).flag R.RUL_STKY.OVR
            let s := (s.wrB R.RUL_STAT.SAT (p.sat != 0)).bumpN R.RUL_CNT_SAT.SAT_CNT R.RUL_STKY.SAT_OVF p.sat
            let s := s.wrB R.RUL_STAT.TILE_ERR p.tile
            let s := (s.bump R.RUL_CNT_BAD.LATE_CNT R.RUL_STKY.LATE_OVF).raiseInt 3
            let s := (s.wr R.RUL_TIME.SLACK 0xFF).wr R.RUL_TIME.DONE 0x7FFFF
            let s := s.slackReport 1 0 (-1)
            ((s.journal 9 2 false noUnit).inkEvent 7 0).releaseBad p)

/-! ### Tiles (R198) -/

/-- A solver tile errs (R198): it leaves service and degrades the solve in progress. -/
def State.tileErr (s : State) (q tile : Nat) : State :=
  if !s.alive || !s.dom q then s
  else
    let s := s.bump (R.RUL_TILE.ERR_CNT.j q) (R.RUL_TILE.OVF.j q)
    let logical := (List.range 16).find? fun t => tget t s.spr.tiles (16 * q + t) == tile
    let s : State := match s.rul.prob with
      | some p => if logical.isSome && s.rul.res.isNone then { s with rul := { s.rul with prob := some { p with tile := true } } } else s
      | none => s
    let s := s.unitFails (uTile (17 * q + tile)) 0
    match logical with
    | some t => { s with spr := { s.spr with swap := (16 * q + t) :: s.spr.swap } }.showTile q
    | none => s

/-- TILE_ERROR (R198): physical tile `tile` of quadrant q. -/
def execTileError (dt q tile : Nat) (s : State) : Res :=
  let s := s.after dt
  needs (q < 4 && tile < 17) (s.tileErr q tile)

/-- The commit copy of the RUL instance applies the patch list (R153, R195). -/
def State.rulCommitted (s : State) : State := s.applyPatch

end Sys2Proof.Machine
end

