-- ==== Sys2Proof/Machine/Twin.lean ====
section
/-! DEFINITION. Twin redundancy (spec/14_twin_failover.md): the messages received, time over the link, mirrored state, readiness, surrender, takeover and hand-back. -/

namespace Sys2Proof.Machine

/-! ### Messages (R356, R357) -/

/-- A message arrives: one with a bad CRC is counted, the second copy of a SEQ is ignored, and the first copy of a good one is taken. -/
def State.twinTake (s : State) (ok : Bool) (seq : Nat) (f : State → State) : State :=
  if !s.twinOn then s
  else if !ok then s.bump R.TWN_CNT_C.MSG_ERR R.TWN_FLAGS.MSG_OVF
  else if s.twin.seen.contains seq then s
  else f { s with twin := { s.twin with seen := seq :: s.twin.seen.take 63 } }

/-! ### Pairing and readiness (R354, R363) -/

/-- Are the cards matched? -/
def State.matched (s : State) : Bool :=
  match s.twin.peer with
  | none => false
  | some p => p.pairSig == s.rd R.TWN_SIG.PAIR_SIG && p.schedA == s.schedId 0 && p.schedB == s.schedId 1

/-- Peer synchronised: the link is up, LOCK_P, matched, and the peer in LEAD. -/
def State.peerSynced (s : State) : Bool :=
  s.twinUp && s.rd R.TB_STAT.LOCK_P == 1 && s.matched && s.rd R.TWN_STAT.PEER_MODE == 2

/-- Does the image solve? -/
def State.imageSolves (s : State) : Bool := if s.deltaMode then 0 < s.resNv else !s.joints.isEmpty

/-- Does no surrender check fail in the device's own units (R363, R368)? -/
def State.unitsFit (s : State) : Bool :=
  let i := s.surrItems
  let en := s.act R.TWN_CFG.SURR_EN
  i % 4 == 0 && !(bit en 0 && bit i 2) && !(bit en 1 && bit i 3) && !(bit en 2 && bit i 4)

/-- READY rises or falls; with its fall a request for hand-back ends. -/
def State.setReady (s : State) (x : Bool) : State :=
  if (s.rd R.TWN_STAT.READY == 1) = x then s
  else
    let s := s.wrB R.TWN_STAT.READY x
    if x then { s with twin := { s.twin with readyAt := some s.tb.rim } }
    else { (s.wr R.TWN_CTRL.HB_NOW 0) with twin := { s.twin with readyAt := none, hbReq := false } }

/-- May the device ask for hand-back (R374)? -/
def State.mayRevert (s : State) : Bool :=
  s.mode == 3 && s.rd R.TWN_STAT.READY == 1 && s.on R.TWN_CFG.REVERT &&
    (match s.twin.peer with | some p => p.claimCfg < s.claimCfg | none => false)

/-- HB_REQ sets. -/
def State.hbRaise (s : State) : State := { (s.wr R.TWN_CTRL.HB_NOW 0) with twin := { s.twin with hbReq := true } }

/-- What follows at any time from the state of the pair: PEER_SYNCED, the way into SHADOW, SYNC, READY, a request or its withdrawal, and HEALTH. -/
def State.twinPoll (s : State) : State :=
  if !s.twinOn then s
  else
    let s := s.wrB R.TWN_STAT.PEER_SYNCED s.peerSynced
    let s := if s.peerSynced && s.mode = 1 && s.leaderImage && s.dev.pendKind = 0 && s.csState ≠ 2 then s.hwPend 3 1 0 else s
    let sync := s.mode == 3 && s.rd R.TB_STAT.LOCK_P == 1 && s.twinUp && s.twin.snapMiss < 4 &&
      (s.rd R.TWN_STAT.SYNC == 1 || (8 ≤ s.twin.snapRun && (!s.imageSolves || s.twin.solved)))
    let s := s.wrB R.TWN_STAT.SYNC sync
    let s := s.setReady (sync && s.unitsFit && s.rd R.TB_STAT.P_RATE_FAULT == 0)
    let s := if s.mayRevert && s.rd R.TWN_CTRL.HB_NOW = 1 then s.hbRaise else s
    let s := if s.twin.hbReq && !s.on R.TWN_CFG.REVERT then { s with twin := { s.twin with hbReq := false } } else s
    s.healthCheck

/-! ### Hand-back (R374, R375) -/

/-- The leader grants hand-back: ACTION 0x02 on every channel it originates, H the start of the cycle on the lowest DCH. The present cycle is that of the frame which carries the ACTION first: the next one (log entry 70). -/
def State.hbGrant (s : State) : State :=
  let l := [0, 1].filter fun ch => s.leads ch
  let l := if l.length = 2 && s.dch 1 < s.dch 0 then l.reverse else l
  match l with
  | [] => s
  | c0 :: rest =>
    let n := max 4 (s.act R.TWN_CFG.HB_CYC)
    let a := (s.nextCyc c0, add32 (s.cycAnchor c0).2 1)
    let h := add32 a.1 (n * s.cycle c0)
    let s := s.modChan c0 fun c => { c with act := some (2, add32 a.2 n) }
    let s : State := forEach rest (fun ch s =>
      let b := s.cycAnchor ch
      let j := ceilDiv (sub32 h b.1) (max 1 (s.cycle ch))
      s.modChan ch fun c => { c with act := some (2, add32 b.2 j) }) s
    let s := { s with twin := { s.twin with hb := some (h, c0, add32 a.2 n) } }
    (((s.wr R.TWN_STAT.HB_PEND 1).wr R.TWN_STAT.HB_FINAL 0).wr R.TWN_HB.HB_AT h).hwPend 3 4 (add32 a.2 n + p2 32 * c0)

/-- The grant and its cancellation at the leader. -/
def State.hbLeader (s : State) : State :=
  match s.twin.peer with
  | none => s
  | some p =>
    let wants := s.twinUp && bit p.health 4 && bit p.health 0 && !bit p.health 3
    if s.rd R.TWN_STAT.HB_PEND = 1 then
      if s.mode ≠ 3 && s.rd R.TWN_STAT.HB_FINAL = 0 && (s.mode ≠ 2 || !wants) then s.hbCancel else s
    else if s.mode = 2 && wants && s.dev.pendKind = 0 && !s.dev.surrender then s.hbGrant else s

/-- HB_AT as the requester receives it. -/
def State.hbRequester (s : State) (at_ : Nat) : State :=
  if s.mode ≠ 3 then s
  else
    let was := s.twin.hbAt
    let s := { s with twin := { s.twin with hbAt := at_ } }
    if at_ = 0 then (if was ≠ 0 then s.hbCancel else s)
    else
      let s := (s.wr R.TWN_STAT.HB_PEND 1).wr R.TWN_HB.HB_AT at_
      if sub32 at_ s.tb.latB ≤ 31250 then s.wr R.TWN_STAT.HB_FINAL 1 else s

/-! ### STATUS (R356, R358, R363, R367) -/

/-- A STATUS message is taken. -/
def State.statusTake (s : State) (m : StatusMsg) : State :=
  let s := { s with twin := { s.twin with peer := some m, statAt := some s.tb.rim } }
  let s := s.wrB R.TWN_STAT.LINK_UP (s.locked 8 || s.locked 9)
  let s := ((s.wr R.TWN_STAT.PEER_MODE m.mode).wr R.TWN_STAT.PEER_CLAIM m.claim).wrB R.TWN_STAT.PEER_READY (bit m.health 0)
  let s := (s.wr R.TWN_PEER_HI.VALUE (m.claimCfg * p2 16 + m.serial / p2 32)).wr R.TWN_PEER_LO.VALUE (m.serial % p2 32)
  let s := if m.claimCfg = s.claimCfg then s.flag R.TWN_FLAGS.PAIR_CLAIM_EQ else s
  let s := if s.matched then s else s.flag R.TWN_FLAGS.PAIR_MISMATCH
  let s := if s.mode = 2 && m.mode = 2 && s.outranked m.claimCfg m.serial && s.claim ≠ 0 then
      (s.flag R.TWN_FLAGS.SPLIT).surrenderNow 0 true
    else s
  (s.hbRequester m.hbAt).hbLeader.twinPoll

/-- STATUS (R358). -/
def execStatus (dt lane : Nat) (m : StatusMsg) (s : State) : Res :=
  let s := s.after dt
  needs (lane = 8 || lane = 9) (s.twinTake m.crcOk m.seq fun s => s.statusTake m)

/-! ### TIME (R359, R82, R85) -/

/-- The offset sample of a TIME message; the first one of a source steps a domain P that is not locked (R75). -/
def State.timeSample (s : State) (m : TimeMsg) (ld : Int) : State :=
  let t := unsx 48 ((m.tTx : Int) + ld)
  let d := sx 48 ((t + p2 48 - s.tb.accP / p2 16 % p2 48) % p2 48)
  let ws := (m.wseq + b2n (t < m.tTx)) % 256
  let was := s.rd R.TB_STAT.LOCK_P == 1
  let s := if s.rd R.TB_CTRL.P_SRC ≠ 1 && !was then
      (if s.tb.actP then s.stepF (d * p2 16)
       else { s with tb := { s.tb with accP := unsx 64 ((s.tb.accP : Int) + d * p2 16), wseqP := ws } })
    else s.servo true ((d : Rat) / 65536) 31250
  let s := s.wr R.TB_CTRL.P_SRC 1
  let s := if s.rd R.TB_STAT.LOCK_P = 1 && !was && !s.tb.pOnce then { s with tb := { s.tb with wseqP := ws, pOnce := true } } else s
  s.pRateCheck

/-- TIME (R359): LINK_D of the lane, and an offset sample for domain P from the first copy. -/
def execTime (dt lane : Nat) (m : TimeMsg) (s : State) : Res :=
  let s := s.after dt
  needs (lane = 8 || lane = 9) (
    let l16 := s.tb.accL / p2 16 % p2 48
    let echo := m.echoTx ≠ 0 || m.echoRes ≠ 0
    let ld : Int := if echo then (sx 48 ((l16 + p2 48 - m.echoTx % p2 48) % p2 48) - m.echoRes) / 2 else 0
    let s := if s.twinOn && m.crcOk && echo then
        (if lane = 8 then s.wrU R.TWN_LINK.LINK_D8 (roundOpen ((ld : Rat) / 4096)).toNat
         else s.wrU R.TWN_LINK.LINK_D9 (roundOpen ((ld : Rat) / 4096)).toNat)
      else s
    s.twinTake m.crcOk m.seq fun s =>
      (({ s with twin := { s.twin with timeRx := some (m.tTx, l16) } }).timeSample m ld).twinPoll)

/-- A TIME message is sent: T_TX, WSEQ and rate of domain L, and the echo of the last TIME received. -/
def State.sendTime (s : State) : State :=
  let t := s.tb.accL / p2 16 % p2 48
  let e := match s.twin.timeRx with
    | some (x, a) => [x, (t + p2 48 - a) % p2 48]
    | none => [0, 0]
  s.twinSend 2 ([t, s.tb.wseqL, s.rd R.TB_RATE.RATE] ++ e)

/-! ### What is mirrored (R360, R361) -/

/-- SNAP (R361): one whose RG0 sample instant has passed is discarded. -/
def execSnap (dt : Nat) (m : SnapMsg) (s : State) : Res :=
  let s := s.after dt
  .next (s.twinTake m.crcOk m.seq fun s =>
    if s.mode = 3 && 0 ≤ sx 32 (sub32 m.phase (s.rgAnchor 0)) then { s with twin := { s.twin with snap := some m } } else s)

/-- The tick of the latest solver sample instant. -/
def State.solveAnchor (s : State) : Nat := sub32 s.tb.latB (31250 * (s.baseK % max 1 s.tsN))

/-- SOLVE (R361): one whose solver sample instant has passed is discarded. -/
def execSolve (dt : Nat) (m : SolveMsg) (s : State) : Res :=
  let s := s.after dt
  .next (s.twinTake m.crcOk m.seq fun s =>
    if s.mode = 3 && 0 ≤ sx 32 (sub32 m.phase s.solveAnchor) then { s with twin := { s.twin with solve := some m } } else s)

/-- MODEL (R360): the writes of the patch staging and the delta queue are made, and a COMMIT waits for its solver sample instant. -/
def execModel (dt : Nat) (m : ModelMsg) (s : State) : Res :=
  let s := s.after dt
  .next (s.twinTake m.crcOk m.seq fun s =>
    if s.mode = 3 || s.mode = 1 then
      let s : State := forEach m.writes (fun w s =>
        if w.1 = 0x90000 then s.dqWrite w.2 else s.putMem32 3 (w.1 / 4 * 4) w.2) s
      match m.commit with
      | some _ => { s with twin := { s.twin with models := s.twin.models ++ [m] } }
      | none => s
    else s)

/-- One queue of a SNAP replaces the standby's own. -/
def State.queueSnap (s : State) (x : QueueSnap) : State :=
  let s := (s.setQ x.c x.state).putQueue x.c x.queue
  let s := (s.wr (R.CHN_TAG.RUN_TAG.i x.c) x.runTag).wr (R.CHN_TAG.DONE_TAG.i x.c) x.doneTag
  let s := s.wr (R.CHN_QSTAT.LEVEL.i x.c) x.queue.recs.length
  forEach x.gens (fun g s => s.putGen g.1 g.2) s

/-- The SNAP of the RG0 sample instant is applied, or missed. -/
def State.snapApply (s : State) : State :=
  if s.mode ≠ 3 then { s with twin := { s.twin with snap := none } }
  else match s.twin.snap with
    | none =>
      let s := { s with twin := { s.twin with snapRun := 0, snapMiss := min 4 (s.twin.snapMiss + 1) } }
      s.bump R.TWN_CNT_A.SNAP_MISS R.TWN_FLAGS.SNAP_OVF
    | some m =>
      let s := { s with twin := { s.twin with snap := none, snapRun := min 8 (s.twin.snapRun + 1), snapMiss := 0 } }
      let s : State := forEach m.lanes (fun x s => s.putLane x.1 { s.lane x.1 with mem := x.2, snap := x.2 }) s
      let s : State := forEach m.queues (fun x s => if isChain x.c then s.queueSnap x else s) s
      let s := { s.wrB R.MGN_STAT.LATCHED m.latched with mgn := { s.mgn with pstop := m.latched } }
      { s with mgn := { s.mgn with clear := m.rearm, prev := m.spheres } }

/-- The SOLVE and the MODEL commits of the solver sample instant are applied, or missed (R155, R361). -/
def State.solveApply (s : State) : State :=
  if s.mode ≠ 3 then { s with twin := { s.twin with solve := none, models := [] } }
  else
    let s : State := match s.twin.solve with
      | none => if s.imageSolves then s.bump R.TWN_CNT_A.SOLVE_MISS R.TWN_FLAGS.SOLVE_OVF else s
      | some m =>
        let s := { s with twin := { s.twin with solve := none, solved := true },
                          rul := { s.rul with kept := some m.kept, sigma := m.sigma }, delta := m.delta }
        let s : State := forEach m.sigma (fun x s => if isChain x.1 then s.wr (R.CHN_RATE.SIGMA.i x.1) x.2 else s) s
        s.wr R.RUL_STAT.CONSEC m.consec
    let due := s.twin.models.filter fun m => match m.commit with | some t => !s.ahead t | none => true
    let rest := s.twin.models.filter fun m => match m.commit with | some t => s.ahead t | none => false
    let s := { s with twin := { s.twin with models := rest } }
    if due.isEmpty then s else s.rulCommitted

/-- One queue as a SNAP carries it. -/
def State.snapQueue (s : State) (c : Nat) : QueueSnap :=
  ⟨c, s.qState c, s.rd (R.CHN_TAG.RUN_TAG.i c), s.rd (R.CHN_TAG.DONE_TAG.i c), s.queue c, (s.slots c).map fun n => (n, s.gen n)⟩

/-- A SNAP is sent at an RG0 output phase (R35, R360): the record of every active lane, every queue with its τ, ρ, records, tags and generator states, and the Margin latch, rearm count and sphere positions. -/
def State.snapSend (s : State) : State :=
  if s.mirrors && s.twinOn then
    let s := { s with twin := { s.twin with seq := add32 s.twin.seq 1 } }
    s.emit (.snap ⟨true, s.twin.seq, s.now, ((List.range 160).filter s.laneOn).map fun n => (n, (s.lane n).snap),
      ((List.range 16).filter fun c => 0 < s.nax c).map s.snapQueue, s.rd R.MGN_STAT.LATCHED == 1, s.mgn.clear, s.mgn.prev⟩)
  else s

/-! ### The link goes down (R356, R376) -/

/-- TWIN_LINK_DOWN: neither lane has block lock, or no good STATUS for 3 base periods. -/
def execTwinLinkDown (dt : Nat) (s : State) : Res :=
  let s := s.after dt
  .next (if s.twinOn && s.twinUp then
    let overdue : Bool := match s.twin.statAt with | some r => decide (93750 ≤ s.tb.rim - r) | none => true
    let s := if overdue then s else (s.setLock 8 false).setLock 9 false
    let ready := s.rd R.TWN_STAT.READY == 1
    let s := (s.wr R.TWN_STAT.LINK_UP 0).wr R.TWN_STAT.PEER_SYNCED 0
    let s := ((s.wr R.TWN_STAT.PEER_MODE 0xF).wr R.TWN_STAT.PEER_CLAIM 0).wr R.TWN_STAT.PEER_READY 0
    let s := s.flag R.TWN_FLAGS.PEER_LOST
    let s := if s.rd R.TB_CTRL.P_SRC = 1 then
        s.wr R.TB_CTRL.P_SRC (if s.mode = 3 && s.ring.steer.isSome then 2 else 3) else s
    let s := if s.rd R.TWN_STAT.HB_PEND = 1 && s.rd R.TWN_STAT.HB_FINAL = 0 then s.hbCancel else s
    let s := s.twinUnsync
    let s := if s.dev.pendKind = 1 && s.rd R.MOD_STATE.PEND = 3 then s.clearPend else s
    { s with twin := { s.twin with lost := s.mode == 3, wasReady := ready && s.mode == 3, hbAt := 0 } }.healthCheck
  else s)

/-! ### Takeover (R370, R371) -/

/-- Trigger 1: the peer surrenders, or claims nothing while it does not lead. -/
def State.peerYields (s : State) : Bool :=
  s.twinUp && (match s.twin.peer with
    | some p => bit p.health 3 || (p.claim == 0 && p.mode != 2 && p.mode != 6 && p.mode != 7)
    | none => false)

/-- Trigger 2 on channel ch: the link is down and the frame of the present cycle has not been accepted though it is due. -/
def State.frameMissing (s : State) (ch : Nat) : Bool :=
  !s.twinUp && s.used ch && s.chState ch == 3 && !(s.chan ch).got &&
    (match (s.chan ch).at_ with
     | some t => s.dly ch ≤ ((sx 32 (sub32 s.now t) : Int) : Rat)
     | none => false)

/-- TKO_LEAD, 500 to 4,000. -/
def State.tkoLead (s : State) : Nat := max 500 (min 4000 (s.act R.TWN_TIME.TKO_LEAD))

/-- TAKEOVER (R370): a READY standby takes over; the decision tick is this one. -/
def execTakeover (dt ch : Nat) (s : State) : Res :=
  let s := s.after dt
  needs (isCh ch) (
    let tkoPend := s.rd R.MOD_STATE.PEND == 2 || s.rd R.MOD_STATE.PEND == 6
    if s.twinOn && s.mode = 3 && !tkoPend && (s.peerYields || s.frameMissing ch) then
      let ready := if s.twinUp then s.rd R.TWN_STAT.READY == 1 else s.twin.wasReady
      if !ready || !s.matched then s.flag R.TWN_FLAGS.TKO_REFUSED
      else
        let t := add32 s.now s.tkoLead
        let m := match s.twin.peer with | some p => if bit p.health 2 then 6 else 2 | none => 2
        let chs := [0, 1].filter fun c => s.role c == 1 && s.nNodes c != 0
        let s : State := forEach chs (fun c s => s.modChan c fun x => { x with go := some t }) s
        let s := { s with twin := { s.twin with lost := false } }
        if chs.isEmpty then s.hwPend m 1 0 else s.hwPend m 2 (sub32 t 1)
    else s)

/-! ### The requester of a hand-back (R374) -/

/-- HOLDOFF in rim clocks. -/
def State.holdoff (s : State) : Nat := 100000000 * max 1 (s.act R.TWN_TIME.HOLDOFF)

/-- HOLDOFF_END (R374): READY without interruption for HOLDOFF raises HB_REQ. -/
def execHoldoffEnd (s : State) : Res :=
  .next (match s.twin.readyAt with
    | some r =>
      if s.twinOn && !s.twin.hbReq && s.mayRevert then (s.runRim (r + s.holdoff)).hbRaise.healthCheck else s
    | none => s)

/-- A write of TWN_CTRL that has passed the key: HB_NOW after READY ends the hold-off. -/
def State.hbNowWrite (s : State) (v : Nat) : State :=
  if bit v 31 && s.rd R.TWN_STAT.READY = 1 then (s.wr R.TWN_CTRL.HB_NOW 1).twinPoll else s

/-- HB_NOW (R374). -/
def execHbNow (dt : Nat) (src : Src) (value : Nat) (s : State) : Res :=
  let s := s.after dt
  needs (isWord value) (s.swWrite src 19 0x700018 fun s => s.keyed src 0x700018 fun s => s.hbNowWrite value)

/-! ### What the pair does at a base boundary -/

/-- Surrender items are checked at each RG0 sample instant (R368). -/
def State.surrPoll (s : State) : State :=
  if s.roleMode = 2 && s.claim ≠ 0 && s.surrDue ≠ 0 then s.surrenderNow s.surrDue false else s

/-- STATUS and TIME leave at a base boundary (R357); a granted hand-back becomes final at the last one before H (R375). -/
def State.twinBoundary (s : State) : State :=
  if !s.twinOn then s
  else
    let s := s.hbLeader.twinPoll
    let s := if s.mode = 2 && s.rd R.TWN_STAT.HB_PEND = 1 && sub32 (s.rd R.TWN_HB.HB_AT) s.now ≤ 31250 then
        s.wr R.TWN_STAT.HB_FINAL 1 else s
    s.sendStatus.sendTime

end Sys2Proof.Machine
end

