-- ==== Sys2Proof/Machine/Peek.lean ====
section
/-! DEFINITION. The word that a register shows, without the side effects of a read (R38 to R45): the instance headers, power domains, both views of shadowed fields, and the registers whose value follows the time. -/

namespace Sys2Proof.Machine

/-- The power domain that holds the registers of a block instance (R38, R43); 0xFF for AON. -/
def Loc.domain (l : Loc) : Nat :=
  let t := l.blk.typ
  if t = 0x10 || t = 0x11 then 10
  else if t = 0x12 then 0
  else if t = 0x13 then 8
  else if t = 0x14 then 9
  else if t = 0x18 then 4 + l.inst / 40
  else if t = 0x19 || t = 0x1A || t = 0x1B then 21
  else if t = 0x20 then 17 + l.inst
  else if t = 0x21 then 19
  else if t = 0x28 then 15
  else if t = 0x29 then 11 + l.inst
  else if t = 0x2C then 23
  else if t = 0x2D then 16
  else 0xFF

/-- The power domain that an offset of the instance needs (R40): RUL_TILE[q] lies in SOLVq and the BLT registers in BLOT. -/
def Loc.needs (l : Loc) : Nat :=
  if l.blk.typ = 0x12 && 0xC0 ≤ l.off && l.off < 0xD0 then (l.off - 0xC0) / 4
  else if l.blk.typ = 0x2C && 0x100 ≤ l.off then 22
  else l.domain

/-- Is a power domain on? -/
def State.domOn (s : State) (d : Nat) : Bool := d == 0xFF || s.dom d

/-- Is an offset of the instance reachable: in the header, or in a domain that is on (R40, R42)? -/
def State.reachable (s : State) (l : Loc) : Bool := l.off < 0x10 || s.domOn l.needs

/-- The mask of the shadowed fields of a row (R45): its RW and RWH fields, if the register is shadowed. -/
def RegRow.shadow (r : RegRow) : Nat :=
  if r.sh then r.fs.foldl (fun m f => if f.acc = .rw || f.acc = .rwh then m ||| ((p2 (f.hi + 1 - f.lo) - 1) * p2 f.lo) else m) 0 else 0

/-- The mask of all named fields of a row that read as stored. -/
def RegRow.readable (r : RegRow) : Nat :=
  r.fs.foldl (fun m f => if f.acc = .wo then m else m ||| ((p2 (f.hi + 1 - f.lo) - 1) * p2 f.lo)) 0

/-- VIEW of the instance. -/
def State.view (s : State) (l : Loc) : Bool := bit (s.raw (l.head + 4)) 31

/-- The remaining hold-off in units of 100 ms. -/
def State.holdRem (s : State) : Nat :=
  match s.twin.readyAt with
  | none => 0
  | some r => ceilDiv (s.holdoff - (s.tb.rim - r)) 100000000

/-- The remaining STOP1_T of safe output j in ms. -/
def State.stopRem (s : State) (j : Nat) : Nat :=
  match (tget .zero s.mgn.outs j).delay with
  | none => 0
  | some (_, r) => ceilDiv (r - s.tb.rim) 1000000

/-- The watchdog limit of R420 in rim clocks: 10 ms. -/
def wdogClocks : Nat := 10000000

/-- µs until the watchdog of R420 expires. -/
def State.wdogRem (s : State) : Nat := if s.tb.run then ceilDiv (wdogClocks - (s.tb.rim - s.dct.kick)) 1000 else 10000

/-- Age of the oldest deferred test in ms (R418). -/
def State.deferAge (s : State) : Nat :=
  match s.dct.defer with
  | [] => 0
  | d :: _ => min 100 ((s.tb.rim - d.2.1) / 1000000)

/-- The registers whose word follows the time or a latch of the reading source: the word stored in them is completed. -/
def State.live (s : State) (src : Src) (a w : Nat) : Nat :=
  if a = 0x20018 then s.now
  else if a = 0x2001C then (s.snap src).word
  else if a = 0x20024 then (s.snap src).bound
  else if a = 0x20038 then (s.snap src).pOfs
  else if R.EVT_STAT.LEVEL.addr ≤ a && a < (R.EVT_STAT.LEVEL.j 8).addr && (a - R.EVT_STAT.LEVEL.addr) % R.EVT_STAT.LEVEL.s2 == 0 then
    setBits w 0 0 (b2n (s.evLevel ((a - R.EVT_STAT.LEVEL.addr) / R.EVT_STAT.LEVEL.s2)))
  else if R.PB_STAT.OWNED.addr ≤ a && a < (R.PB_STAT.OWNED.i 12).addr && (a - R.PB_STAT.OWNED.addr) % 0x200 = 0 then
    (let b := (a - R.PB_STAT.OWNED.addr) / 0x200
     setBits (setBits w 29 29 (b2n (s.pbLaneOff b))) 28 28 (b2n (s.pbOwner b).isSome))
  else if R.PB_CTRL.EN.addr ≤ a && a < (R.PB_CTRL.EN.i 12).addr && (a - R.PB_CTRL.EN.addr) % 0x200 = 0 then
    setBits w 30 30 (b2n (s.log.wrote.contains (a * 32 + 30)))
  else if R.SF_CTRL.RUN.addr ≤ a && a < (R.SF_CTRL.RUN.i 4).addr && (a - R.SF_CTRL.RUN.addr) % 0x10000 = 0 then
    setBits w 30 30 (b2n (s.log.wrote.contains (a * 32 + 30)))
  else if a = 0x70003C then setBits w 31 16 s.holdRem
  else if a = 0x7C0014 then setBits w 19 18 (2 * b2n s.replaceAdvise + b2n s.sprFails)
  else if a = 0x740208 then setBits (setBits w 13 0 s.wdogRem) 31 31 (b2n (s.log.wrote.contains R.SCR_WDOG.KICK.key))
  else if a = 0x740214 then setBits w 22 16 s.deferAge
  else if [R.COMMIT.GO, R.DCT_CANCEL.GO, R.MGN_ACK.ACK, R.INK_CTRL.ARM].any (fun f => f.addr == a) then
    setBits w 31 31 (b2n (s.log.wrote.contains (a * 32 + 31)))
  else if a = 0x74010C || a = 0x74014C then
    setBits w 31 31 (b2n (tget none s.dct.subs ((a - 0x74010C) / 0x40)).isSome)
  else if R.MGN_SOUT_STAT.DELAY.addr ≤ a && a < (R.MGN_SOUT_STAT.DELAY.j 4).addr && (a - R.MGN_SOUT_STAT.DELAY.addr) % R.MGN_SOUT_STAT.DELAY.s2 == 0 then
    setBits w 31 16 (s.stopRem ((a - R.MGN_SOUT_STAT.DELAY.addr) / R.MGN_SOUT_STAT.DELAY.s2))
  else w

/-- The word of a header register (R42). -/
def State.header (s : State) (l : Loc) : Nat :=
  if l.off = 0 then l.blk.typ * p2 24 + p2 16 + l.inst
  else if l.off = 4 then s.raw (l.head + 4)
  else if l.off = 8 then b2n (s.domOn l.domain) * p2 31 + l.domain
  else 0

/-- The word that an offset shows a source (R38, R40, R45); 0 where nothing answers. -/
def State.peek (s : State) (src : Src) (a : Nat) : Nat :=
  match locate a with
  | none => 0
  | some l =>
    if l.off < 0x10 then s.header l
    else if !s.reachable l then 0
    else match rowIn l.blk l.off with
      | none => 0
      | some r =>
        let m := r.shadow
        let w := s.live src a (s.rdw a) &&& r.readable
        if m ≠ 0 && s.view l then (w - (w &&& m)) + (s.actw a &&& m) else w

end Sys2Proof.Machine
end

