-- ==== Sys2Proof/Machine/Single.lean ====
section
/-! DEFINITION. The arithmetic of the Serif cores (R380, R381): IEEE 754 binary32 on words, with the flags it raises. -/

namespace Sys2Proof.Machine

/-- What a binary32 word stands for: NaN, an infinity, or a number with its sign (of which zero keeps one). -/
inductive Num
  | nan
  | inf (neg : Bool)
  | fin (neg : Bool) (v : Rat)
  deriving DecidableEq, Repr

/-- Flags of ST[3:0]: NV. -/
def fNV : Nat := 1
/-- DZ. -/
def fDZ : Nat := 2
/-- OF. -/
def fOF : Nat := 4
/-- UF. -/
def fUF : Nat := 8

/-- An operand: a subnormal one is zero of its sign. -/
def num (w : Nat) : Num :=
  if f32Nan w then .nan
  else if f32Inf w then .inf (f32Neg w)
  else if bits w 30 23 = 0 then .fin (f32Neg w) 0
  else .fin (f32Neg w) (f32Dec w)

/-- Is a word a signalling NaN? -/
def sNan (w : Nat) : Bool := f32Nan w && !bit w 22

/-- The sign bit of a word. -/
def signW (neg : Bool) : Nat := if neg then p2 31 else 0

/-- A result and the flags of its rounding: overflow to infinity sets OF; a result below the normal range is zero of its sign and sets UF. -/
def pack : Num → Nat × Nat
  | .nan => (0x7FC00000, 0)
  | .inf neg => (signW neg + 0x7F800000, 0)
  | .fin neg v =>
    if v = 0 then (signW neg, 0)
    else
      let w := f32 v
      let m := w % p2 31
      if 0x7F800000 ≤ m then (w, fOF) else if m < 0x800000 then (signW neg, fUF) else (w, 0)

/-- The negated value. -/
def Num.neg : Num → Num
  | .nan => .nan
  | .inf n => .inf (!n)
  | .fin n v => .fin (!n) (-v)

/-- The exact sum. -/
def Num.add : Num → Num → Num
  | .nan, _ => .nan
  | _, .nan => .nan
  | .inf a, .inf b => if a = b then .inf a else .nan
  | .inf a, .fin _ _ => .inf a
  | .fin _ _, .inf b => .inf b
  | .fin a x, .fin b y => if x + y = 0 then .fin (a && b) 0 else .fin (decide (x + y < 0)) (x + y)

/-- The exact product. -/
def Num.mul : Num → Num → Num
  | .nan, _ => .nan
  | _, .nan => .nan
  | .inf a, .inf b => .inf (a != b)
  | .inf a, .fin b y => if y = 0 then .nan else .inf (a != b)
  | .fin a x, .inf b => if x = 0 then .nan else .inf (a != b)
  | .fin a x, .fin b y => .fin (a != b) (x * y)

/-- NV where the operation is invalid: a signalling operand, or a NaN made from numbers. -/
def invalid (ops : List Nat) (r : Num) : Nat :=
  if ops.any sNan || (r == .nan && !ops.any f32Nan) then fNV else 0

/-- A result with the flags of its rounding and of an invalid operation. -/
def result (ops : List Nat) (r : Num) : Nat × Nat :=
  let p := pack r
  (p.1, p.2 ||| invalid ops r)

/-- a + b. -/
def fAdd (a b : Nat) : Nat × Nat := result [a, b] ((num a).add (num b))
/-- a − b. -/
def fSub (a b : Nat) : Nat × Nat := result [a, b] ((num a).add (num b).neg)
/-- a × b. -/
def fMul (a b : Nat) : Nat × Nat := result [a, b] ((num a).mul (num b))

/-- a × b + c, rounded once, or c − a × b. IEEE 754 leaves open whether 0 × ∞ + NaN is invalid. -/
def fFma (sub : Bool) (a b c : Nat) : Nat × Nat :=
  let p := (num a).mul (num b)
  let open_ := p == .nan && !f32Nan a && !f32Nan b && f32Nan c && Config.fmaInvalid
  let r := result [a, b, c] ((if sub then p.neg else p).add (num c))
  (r.1, r.2 ||| (if open_ then fNV else 0))

/-- minNum or maxNum. IEEE 754 leaves open which of two zeros of different sign is taken. -/
def fMinMax (mx : Bool) (a b : Nat) : Nat × Nat :=
  if sNan a || sNan b then (0x7FC00000, fNV)
  else if f32Nan a then ((pack (num b)).1, 0)
  else if f32Nan b then ((pack (num a)).1, 0)
  else
    let less := fun x y : Num => match x, y with
      | .inf n, .inf m => n && !m
      | .inf n, .fin _ _ => n
      | .fin _ _, .inf m => !m
      | .fin _ v, .fin _ w => decide (v < w)
      | _, _ => false
    let x := num a
    let y := num b
    let first := if less x y then !mx else if less y x then mx else Config.zeroFirst mx (f32Neg a)
    ((pack (if first then x else y)).1, 0)

/-- FCMP (R381): Z, N, U and the flag raised. -/
def fCmp (a b : Nat) : Bool × Bool × Bool × Nat :=
  if f32Nan a || f32Nan b then (false, false, true, fNV)
  else
    let d := (num a).add (num b).neg
    match num a, num b with
    | .inf n, .inf m => (n == m, n && !m, false, 0)
    | .inf n, _ => (false, n, false, 0)
    | _, .inf m => (false, !m, false, 0)
    | _, _ => match d with
      | .fin _ v => (v == 0, decide (v < 0), false, 0)
      | _ => (false, false, false, 0)

/-- The integer square root, bit by bit from bit k − 1 down. -/
def isqrt (n : Nat) : Nat → Nat → Nat
  | 0, r => r
  | k + 1, r => let t := r + p2 k; isqrt n k (if t * t ≤ n then t else r)

/-- A magnitude word within 1 ulp of an exact value, of which `w` is the word at or below it: both neighbours of an inexact value, and an exact value with its own neighbours, are within the bound of R380, and the core's choice is open. -/
def nearBy (op x w : Nat) (exact : Bool) : Nat :=
  let k := Config.ulpChoice op x
  if exact then w + k % 3 - 1 else w + k % 2

/-- The word of a positive result within 1 ulp; a result below the normal range is zero and sets UF. -/
def nearWord (op x w : Nat) (exact neg : Bool) : Nat × Nat :=
  let m := nearBy op x w exact
  if m < 0x800000 then (signW neg, fUF) else if 0x7F800000 ≤ m then (signW neg + 0x7F800000, fOF) else (signW neg + m, 0)

/-- RCP (R380). -/
def fRcp (a : Nat) : Nat × Nat :=
  match num a with
  | .nan => result [a] .nan
  | .inf n => (signW n, 0)
  | .fin n v =>
    if v = 0 then (signW n + 0x7F800000, fDZ)
    else
      let y := 1 / absQ v
      let w := f32Enc Rat.floor y
      nearWord 0 a w (f32Dec w == y) n

/-- RSQ (R380). -/
def fRsq (a : Nat) : Nat × Nat :=
  match num a with
  | .nan => result [a] .nan
  | .inf n => if n then (0x7FC00000, fNV) else (0, 0)
  | .fin n v =>
    if v = 0 then (signW n + 0x7F800000, fDZ)
    else if n then (0x7FC00000, fNV)
    else
      let y := 1 / v
      let e := expQ y / 2
      let q := isqrt (y * p2q (2 * (23 - e))).floor.toNat 25 0
      let w := (e + 127).toNat * p2 23 + q - p2 23
      nearWord 1 a w (((q * q : Nat) : Rat) == y * p2q (2 * (23 - e))) false

/-- ITOF: a 32-bit two's-complement integer. -/
def fItof (a : Nat) : Nat × Nat := (f32 (sx 32 a : Rat), 0)

/-- FTOI: to nearest even, saturating. -/
def fFtoi (a : Nat) : Nat × Nat :=
  let top : Int := (p2 31 : Int) - 1
  match num a with
  | .nan => (0, fNV)
  | .inf n => (if n then p2 31 else p2 31 - 1, fNV)
  | .fin _ v =>
    let i := rndEven v
    let j := clampI i (-(p2 31 : Int)) top
    (unsx 32 j, if i = j then 0 else fNV)

end Sys2Proof.Machine
end

