-- ==== Sys2Proof/Machine/Serif.lean ====
section
/-! DEFINITION. The Serif cores (spec/15_serif_dsp.md): tasks, imports and exports, interrupts, faults, and the instruction set. -/

namespace Sys2Proof.Machine

/-! ### Registers and memory (R378, R379, R382) -/

/-- The physical register that Fi reaches (R379). -/
def Serif.phys (c : Serif) (i : Nat) : Nat := if i < 16 then i else 16 + (i - 16 + c.rot) % 16
/-- Fi. -/
def Serif.getF (c : Serif) (i : Nat) : Nat := tget 0 c.f (c.phys i)
/-- Write Fi. -/
def Serif.setF (c : Serif) (i v : Nat) : Serif := { c with f := tput 0 c.f (c.phys i) (v % p2 32) }
/-- Ai; A0 reads as 0. -/
def Serif.getA (c : Serif) (i : Nat) : Nat := if i = 0 then 0 else tget 0 c.a i
/-- Write Ai, modulo 16,384; A0 ignores it. -/
def Serif.setA (c : Serif) (i : Nat) (v : Int) : Serif :=
  if i = 0 then c else { c with a := tput 0 c.a i (unsx 14 v) }
/-- Byte address of a data word in space 0x07 (R382). -/
def sfData (d w : Nat) : Nat := d * 0x10000 + 4 * (w % 16384)
/-- A data word. -/
def State.sfMem (s : State) (d w : Nat) : Nat := s.mem32 7 (sfData d w)
/-- Write a data word. -/
def State.sfPut (s : State) (d w v : Nat) : State := s.putMem32 7 (sfData d w) v
/-- The code word at PC. -/
def State.sfCode (s : State) (d : Nat) : Nat := s.mem32 6 (d * 0x8000 + 4 * ((s.serif d).pc % p2 13))

/-- A word of ST as it is held: the bits of R395, with LDEPTH and LMASK at most 2. -/
def stWord (v : Nat) : Nat :=
  let w := v % p2 32 &&& 0xBC7F
  setBits (setBits w 13 12 (min 2 (bits w 13 12))) 11 10 (min 2 (bits w 11 10))
/-- LDEPTH replaced. -/
def Serif.setDepth (c : Serif) (n : Nat) : Serif := { c with st := setBits c.st 13 12 n }

/-! ### Tasks (R397 to R401) -/

/-- GRP of core d. -/
def State.sfGrp (s : State) (d : Nat) : Nat := s.rd (R.SF_CFG.GRP.i d)

/-- Does the mode dispatch periodic tasks (R398)? -/
def State.sfDispatches (s : State) : Bool :=
  s.mode == 2 || s.mode == 4 || s.mode == 6 || s.mode == 7 || (s.mode == 3 && s.tb.actP)

/-- The kind of a lane signal code and its value (R250): an integer word, or a number with its word in the format of R229 or Q11.21. -/
inductive Sig
  | word (w : Nat)
  | num (x : Rat) (w : Nat)

/-- A block floating point signal. -/
def Sig.ofBfp (b : Bfp) : Sig := .num (bfpVal b) (bfpWord b)

/-- Lane signal `code` of slot n, from a given velocity run (R250). -/
def State.laneSig (s : State) (n code : Nat) (r : Option LaneRun) : Sig :=
  let cl := (s.lane n).clRel
  if code = 0x12 then .word (s.rdw (R.AX_STAT.FAULT.i n).addr)
  else if 0x0D ≤ code && code ≤ 0x11 then
    match cl with
    | none => .word 0
    | some c => if code = 0x11 then .word c.theta else Sig.ofBfp (bAt c.sig (code - 0x0D))
  else match r with
    | none => .word 0
    | some r =>
      if code = 1 then .word (unsx 32 (r.pref / 65536))
      else if code = 2 then .word (unsx 32 r.pfb)
      else if code = 3 then .word (unsx 32 (clampI (truncQ ((r.ep : Rat) / 65536)) (-((p2 31 : Int) - 1)) ((p2 31 : Int) - 1)))
      else if 4 ≤ code && code ≤ 0x0B then Sig.ofBfp (bAt r.sig (code - 4))
      else if code = 0x0C then .num ((r.delta : Rat) / ((p2 21 : Nat) : Rat)) (unsx 32 r.delta)
      else .word 0

/-- Word j of an import (R399). -/
def State.importWord (s : State) (d kind sel j : Nat) : Nat :=
  if kind = 1 then
    let n := bits sel 15 8 + j
    if n < 160 && s.laneOn n then
      match s.laneSig n (bits sel 7 0) (s.lane n).rel with
      | .word w => w
      | .num x _ => f32 x
    else 0
  else if kind = 2 then bufN (s.heldBuf (bits sel 16 16) (s.sfGrp d)).bytes 4 (bits sel 15 2 * 4 + 4 * j)
  else if kind = 3 then (if sel + j < 24 then f32 (s.sdLatch (sel + j)) else 0)
  else if kind = 4 then
    let k := (bits sel 3 0 + j) % 16
    if bit sel 8 then s.rd (R.FB_SPEED.SPEED.i k) else s.fbCpos k
  else if kind = 5 then s.peek .host (4 * (sel + j) % barSize)
  else match (s.serif d).per with
    | some p => p.1
    | none => 0

/-- The imports of a dispatch, in ascending order (R399). -/
def State.imports (s : State) (d : Nat) : State :=
  let off := (s.serif d).impOff
  forEach (List.range 32) (fun i s =>
    let kind := s.act ((R.SF_IMP.KIND.i d).j i)
    let page := s.act ((R.SF_IMP.PAGE.i d).j i)
    let sel := s.act ((R.SF_IMP_SRC.SRC.i d).j i)
    if kind = 0 || bit off i then s
    else forEach (List.range (s.act ((R.SF_IMP.COUNT.i d).j i))) (fun j t =>
      t.sfPut d (0x3800 + page + j) (s.importWord d kind sel j)) s) s

/-- The task of a periodic core starts: imports, then INIT at the first dispatch of a mode entry, else MAIN (R397). -/
def State.startTask (s : State) (d : Nat) : State :=
  let s := s.imports d
  let c := s.serif d
  let pc := if c.seen = s.dispIn then s.rd (R.SF_ENTRY.MAIN.i d) else s.rd (R.SF_ENTRY.INIT.i d)
  (s.putSerif d { c with pc := pc, task := 1, seen := s.dispIn, wait := false, endAt := none, irq := c.takeable }).showSerif d

/-- Row 6 of R27 at base index k: the periodic tasks of its groups are dispatched (R397, R398); one waits until its core is idle. -/
def State.serifsStart (s : State) (k : Nat) : State :=
  forEach [0, 1, 2, 3] (fun d s =>
    if s.periodic d && s.serifOn d && s.serifRun d && s.sfDispatches && s.rgAt (s.sfGrp d) k then
      let c := s.serif d
      let s := s.putSerif d { c with per := some (s.now, add32 s.now (s.rd (R.SF_CFG.REL_OFS.i d))), endAt := none }
      if c.idle then s.startTask d else s.putSerif d { s.serif d with wait := true }
    else s) s

/-- The core has become idle: a waiting dispatch runs, if the core still takes one; else Ductus looks at the end of the tick. -/
def State.coreIdle (s : State) (d : Nat) : State :=
  let c := s.serif d
  if !c.idle then s
  else if c.wait then
    (if s.serifRun d && s.serifOn d then s.startTask d
     else (s.putSerif d { c with wait := false, per := none }).showSerif d)
  else { s with dct := { s.dct with turn := true } }.showSerif d

/-- What runs on the core ends: an item with its status and result. -/
def State.itemEnds (s : State) (d task slot status result : Nat) : State :=
  if task = 2 then
    let s := { s with log := { s.log with done := (4 + d) :: s.log.done } }
    (s.trace 4 slot d).endItem slot status result
  else s

/-- A fault (R396): the task or item ends at once and releases nothing; in a handler that an idle core took, it ends only that, and an OUT page already frozen is still released. -/
def State.serifFault (s : State) (d cause fpc : Nat) : State :=
  let c := s.serif d
  let s := s.putSerif d { (c.setDepth 0) with task := 0, hdl := 0, irq := false, halt := false, endAt := if c.task = 1 then none else c.endAt, per := if c.task = 1 then none else c.per }
  let s := (s.wr (R.SF_FLT.CAUSE.i d) cause).wr (R.SF_FLT.FPC.i d) fpc
  let s := (s.bump (R.SF_CNT.FLT_CNT.i d) (R.SF_FLAGS.FLT_OVF.i d)).flag (R.SF_FLAGS.FAULT_SEEN.i d)
  ((s.itemEnds d c.task c.slot 1 0).coreIdle d).showSerif d

/-- SF_TIME of a periodic task. -/
def State.sfTime (s : State) (d : Nat) (slack : Nat) (done : Nat) : State :=
  (s.wr (R.SF_TIME.SLACK.i d) slack).wrU (R.SF_TIME.DONE.i d) done

/-- END (R397, R408): the OUT page is frozen and the completion stamped, or the item ends with F0. -/
def State.serifEnd (s : State) (d : Nat) : State :=
  let c := s.serif d
  let lo := cellKey 7 (sfData d 0x3C00)
  let s := s.putSerif d { c with task := 0, hdl := 0, irq := false, halt := false }
  let s := if c.task = 1 then
      match c.per with
      | none => s
      | some (t0, due) =>
        let s := s.putSerif d { s.serif d with endAt := some s.now, out := s.mem.filter fun x => lo ≤ x.1 && x.1 < lo + 4096 }
        if s.now = due then s
        else
          let n := sub32 s.now t0
          let pct := slackPct (s.rd (R.SF_CFG.REL_OFS.i d)) n
          (s.sfTime d (unsx 8 (clampI (slackInt pct) (-128) 127)) n).slackReport 2 d pct
    else s
  ((s.itemEnds d c.task c.slot 0 (tget 0 c.f 0)).coreIdle d).showSerif d

/-- Word w of the frozen OUT page. -/
def Serif.outWord (c : Serif) (d w : Nat) : Nat :=
  let k := cellKey 7 (sfData d (0x3C00 + w))
  leNat ((List.range 4).map fun i => (tget (0 : Byte) c.out (k + i)).toNat)

/-- One slot of a set-point export (R400). -/
def State.exportSlot (s : State) (d n : Nat) (w : List Nat) : State :=
  let v := w.getD 2 0
  let a := w.getD 3 0
  if !f32Fin v || !f32Fin a then s.flag (R.SF_FLAGS.EXP_BAD.i d)
  else if n < 160 then
    s.putLane n { s.lane n with sp := some ⟨sx 32 (w.getD 0 0) * 65536 + bits (w.getD 1 0) 31 16, f32Dec v, f32Dec a, s.now⟩ }
  else s

/-- The exports of a release, in ascending order (R400); in SHADOW those to the ring are discarded (R398). -/
def State.exports (s : State) (d : Nat) : State :=
  let c := s.serif d
  forEach (List.range 32) (fun i s =>
    let kind := s.act ((R.SF_EXP.KIND.i d).j i)
    let n := s.act ((R.SF_EXP.COUNT.i d).j i)
    let page := s.act ((R.SF_EXP.PAGE.i d).j i)
    let dst := s.act ((R.SF_EXP_DST.DST.i d).j i)
    let words := (List.range n).map fun j => c.outWord d (page + j)
    if bit c.expOff i then s
    else if kind = 1 then
      forEach (List.range (n / 4)) (fun j s => s.exportSlot d (dst + j) ((words.drop (4 * j)).take 4)) s
    else if kind = 2 && s.mode ≠ 3 then
      let a := s.appOf (bits dst 16 16)
      s.putApp (bits dst 16 16) { a with build := bufPut a.build (bits dst 15 2 * 4) (words.flatMap (leBytes 4)) }
    else s) s

/-- SERIF_RELEASE (R400, R401): the release phase of the open period. A task without END, or with an END on this very tick, is abandoned. -/
def execSerifRelease (d : Nat) (s : State) : Res :=
  needs (isSerif d) (match (s.serif d).per with
    | none => s
    | some (_, due) =>
      match s.reach due with
      | none => s
      | some s =>
        let c := s.serif d
        let s := s.putSerif d { c with per := none, endAt := none, wait := false }
        match c.endAt with
        | some t =>
          if t ≠ due then (if s.sfDispatches then s.exports d else s)
          else ((s.sfTime d 0xFF 0x3FFFF).bump (R.SF_CNT.LATE_CNT.i d) (R.SF_FLAGS.LATE_OVF.i d)).flag (R.SF_FLAGS.LATE.i d)
            |>.slackReport 2 d (-1)
        | none =>
          let s := if c.task = 1 then s.putSerif d { s.serif d with task := 0, hdl := 0, irq := false, halt := false } else s
          let s := ((s.sfTime d 0xFF 0x3FFFF).bump (R.SF_CNT.LATE_CNT.i d) (R.SF_FLAGS.LATE_OVF.i d)).flag (R.SF_FLAGS.LATE.i d)
          ((s.slackReport 2 d (-1)).coreIdle d).showSerif d)

/-- Do two descriptors touch a common word? -/
def meets (a b : Nat × Nat) : Bool := a.1 < b.1 + b.2 && b.1 < a.1 + a.2

/-- The descriptors of a page that a commit copy disables (R400): page words and kind by index; `top` the largest kind. -/
def badDescr (l : List (Nat × Nat × Nat × Nat)) (top : Nat) : Nat :=
  l.foldl (fun m (i, kind, page, n) =>
    if kind = 0 || n = 0 then m
    else if top < kind || 1024 < page + n || l.any (fun (j, k2, p2', n2) => j ≠ i && k2 ≠ 0 && n2 ≠ 0 && meets (page, n) (p2', n2)) then m ||| p2 i
    else m) 0

/-- What a commit copy of a Serif instance does besides copying (R400). -/
def State.sfCommitted (s : State) (d : Nat) : State :=
  let imp := (List.range 32).map fun i =>
    (i, s.act ((R.SF_IMP.KIND.i d).j i), s.act ((R.SF_IMP.PAGE.i d).j i), s.act ((R.SF_IMP.COUNT.i d).j i))
  let exp := (List.range 32).map fun i =>
    (i, s.act ((R.SF_EXP.KIND.i d).j i), s.act ((R.SF_EXP.PAGE.i d).j i), s.act ((R.SF_EXP.COUNT.i d).j i))
  let a := badDescr imp 6
  let b := badDescr exp 2
  let s := s.putSerif d { s.serif d with impOff := a, expOff := b }
  if a = 0 && b = 0 then s else s.flag (R.SF_FLAGS.TBL_ERR.i d)

/-! ### Interrupts and control (R391, R392, R398) -/

/-- INTERRUPT_ENTRY (R392): at the boundary just reached, or at once on an idle core. -/
def execInterruptEntry (dt d : Nat) (s : State) : Res :=
  let s := s.after dt
  needs (isSerif d) (
    let c := s.serif d
    if s.serifOn d && c.takeable && (c.irq || (c.idle && s.serifRun d)) then
      let m := c.ipend &&& c.ien
      let line := ((List.range 8).find? fun i => bit m i).getD 0
      (s.putSerif d { c with
        ipc := c.pc, istat := c.st, st := setBits (setBits c.st 15 15 0) 11 10 c.ldepth,
        ipend := setBits c.ipend line line 0, pc := 8 + 4 * line, hdl := c.hdl + 1, irq := false }).showSerif d
    else s)

/-- A write of SF_CTRL: RUN, and DOORBELL of line 1. RUN written 0 on a busy core ends what runs at the next boundary. -/
def State.sfCtrlWrite (s : State) (d v : Nat) : State :=
  let c := s.serif d
  let s := s.wr (R.SF_CTRL.RUN.i d) (bits v 31 31)
  let s := if !bit v 31 && !c.idle then s.putSerif d { c with halt := true } else s
  let s := if bit v 31 then { s with dct := { s.dct with turn := true } } else s
  let s := if bit v 30 then
      { s.irqPend d 1 with log := { s.log with wrote := (R.SF_CTRL.DOORBELL.i d).key :: (s.irqPend d 1).log.wrote } } else s
  s.showSerif d

/-- DOORBELL (R391). -/
def execDoorbell (dt : Nat) (src : Src) (d : Nat) (s : State) : Res :=
  let s := s.after dt
  needs (isSerif d) (s.swWrite src (11 + d) (R.SF_CTRL.RUN.i d).addr fun s =>
    s.sfCtrlWrite d (s.rd (R.SF_CTRL.RUN.i d) * p2 31 + p2 30))

/-- RUN (R398): a write of SF_CTRL. -/
def execRun (dt : Nat) (src : Src) (d value : Nat) (s : State) : Res :=
  let s := s.after dt
  needs (isSerif d && isWord value) (s.swWrite src (11 + d) (R.SF_CTRL.RUN.i d).addr fun s => (s.mirrorWrite (R.SF_CTRL.RUN.i d).addr value).sfCtrlWrite d value)

/-- A write of SF_TIMER arms one event of line 5. -/
def State.sfTimerWrite (s : State) (d v : Nat) : State :=
  ((s.wr (R.SF_TIMER.AT.i d) v).putSerif d { s.serif d with armed := true }).showSerif d

/-- SF_TIMER_WRITE (R391). -/
def execSfTimerWrite (dt : Nat) (src : Src) (d value : Nat) (s : State) : Res :=
  let s := s.after dt
  needs (isSerif d && isWord value) (s.swWrite src (11 + d) (R.SF_TIMER.AT.i d).addr fun s => (s.mirrorWrite (R.SF_TIMER.AT.i d).addr value).sfTimerWrite d value)

/-- SF_TIMER_EXPIRE (R391): TB_NS reaches SF_TIMER. -/
def execSfTimerExpire (d : Nat) (s : State) : Res :=
  needs (isSerif d) (if (s.serif d).armed then
    match s.reach (s.rd (R.SF_TIMER.AT.i d)) with
    | none => s
    | some s => ((s.putSerif d { s.serif d with armed := false }).irqPend d 5).showSerif d
  else s)

/-- RELEASE_WARNING (R391): WARN ticks before the release phase the task still runs. -/
def execReleaseWarning (d : Nat) (s : State) : Res :=
  needs (isSerif d) (
    let w := s.act (R.SF_IRQ.WARN.i d)
    match (s.serif d).per with
    | none => s
    | some (_, due) =>
      if w = 0 || (s.serif d).task ≠ 1 then s
      else match s.reach (sub32 due w) with
        | none => s
        | some s => s.irqPend d 7)

/-! ### Execution (R383 to R390) -/

/-- What an instruction leaves: the core, the next PC, a data word written, the flags that arithmetic raised, and a fault cause (0 none). -/
structure SfEff where
  c : Serif
  npc : Nat
  store : Option (Nat × Nat)
  raised : Nat
  cause : Nat

/-- An instruction that leaves a core and goes on to the next word. -/
def SfEff.next (c : Serif) : SfEff := ⟨c, c.pc + 1, none, 0, 0⟩

/-- The loop check after the instruction at `at0` (R389). -/
def Serif.loopCheck (c : Serif) (at0 : Nat) : Serif :=
  let n := c.ldepth
  let i := n - 1
  if n = 0 || i < c.lmask || tget 0 c.le i ≠ at0 then c
  else
    let c := if bit c.rf i then { c with rot := (c.rot + 1) % 16 } else c
    let k := tget 0 c.lc i
    if 1 < k then { c with lc := tput 0 c.lc i (k - 1), pc := tget 0 c.ls i }
    else { (c.setDepth i) with pc := at0 + 1 }

/-- The boundary after an instruction: the loop check, line 6 for each of NV, DZ and OF that the instruction changed from 0 to 1, be it by arithmetic, MVD or RETI (R391), the end of code memory, RUN = 0, and whether an interrupt is taken here (R389, R392, R396, R398). -/
def State.boundary (s : State) (d at0 : Nat) (e : SfEff) : State :=
  let rise := (e.c.st ||| e.raised) &&& (15 - (s.serif d).st % 16) &&& 7
  let c := { e.c with st := e.c.st ||| e.raised, pc := e.npc }.loopCheck at0
  let s := s.putSerif d c
  let s := if rise = 0 then s else s.irqPend d 6
  if p2 13 ≤ c.pc then s.serifFault d 5 at0
  else if c.halt then s.serifFault d 7 c.pc
  else
    let c := s.serif d
    (((s.putSerif d { c with irq := c.takeable }).showSerif d).coreIdle d)

/-- An instruction executes on core d if its word, of which `mask` selects the bits that count, is the next of a busy core; its command falls at its end. -/
def State.serifRunOne (s : State) (d word mask : Nat) (body : State → Serif → SfEff) : State :=
  let c := s.serif d
  if s.serifOn d && !c.idle && !c.irq && s.sfCode d &&& mask = word then
    let e := body s c
    let s := match e.store with
      | some (w, v) => s.sfPut d w v
      | none => s
    if e.cause ≠ 0 then s.serifFault d e.cause c.pc else s.boundary d c.pc e
  else s

/-- An instruction of the set. -/
def State.serifOp (s : State) (d word : Nat) (body : State → Serif → SfEff) : State :=
  s.serifRunOne d word (p2 32 - 1) body

/-- Format R (R385). -/
def encR (op fd fa fb fc : Nat) : Nat := op * p2 26 + fd * p2 21 + fa * p2 16 + fb * p2 11 + fc * p2 6
/-- Format M. -/
def encM (op f a pm imm : Nat) : Nat := op * p2 26 + f * p2 21 + a * p2 18 + pm * p2 17 + imm
/-- Format S. -/
def encS (op f sp : Nat) : Nat := op * p2 26 + f * p2 21 + sp * p2 16
/-- Format N. -/
def encN (op n : Nat) : Nat := op * p2 26 + n

/-- Register fields of format R. -/
def isR (d fd fa fb fc : Nat) : Bool := isSerif d && fd < 32 && fa < 32 && fb < 32 && fc < 32
/-- Fields of format N. -/
def isN (d n : Nat) : Bool := isSerif d && n < 8

/-- An arithmetic instruction of format R: FD takes a result computed from FD, FA, FB and FC, with its flags. -/
def State.serifArith (s : State) (d op fd fa fb fc : Nat) (f : Nat → Nat → Nat → Nat → Nat × Nat) : State :=
  s.serifOp d (encR op fd fa fb fc) fun _ c =>
    let r := f (c.getF fd) (c.getF fa) (c.getF fb) (c.getF fc)
    { SfEff.next (c.setF fd r.1) with raised := r.2 }

/-- NOP (R386). -/
def execNop (dt d n : Nat) (s : State) : Res :=
  let s := s.after dt
  needs (isN d n) (s.serifOp d (encN 0 n) fun _ c => .next c)

/-- END (R397). -/
def execEndTask (dt d n : Nat) (s : State) : Res :=
  let s := s.after dt
  needs (isN d n) (
    let c := s.serif d
    if s.serifOn d && !c.idle && !c.irq && s.sfCode d = encN 1 n then s.serifEnd d else s)

/-- RETI (R392). -/
def execReti (dt d n : Nat) (s : State) : Res :=
  let s := s.after dt
  needs (isN d n) (s.serifOp d (encN 2 n) fun _ c =>
    if bit c.istat 15 && c.ie then { SfEff.next c with cause := 4 }
    else { SfEff.next { c with st := stWord (c.istat ||| c.st % 16), hdl := c.hdl - 1 } with npc := c.ipc })

/-- SWI (R386): interrupt 0 pends, or is lost, and SWICODE takes n. -/
def execSwi (dt d n : Nat) (s : State) : Res :=
  let s := s.after dt
  needs (isN d n) (
    let c := s.serif d
    if s.serifOn d && !c.idle && !c.irq && s.sfCode d = encN 3 n then
      let s := s.irqPend d 0
      s.boundary d c.pc (.next { s.serif d with swi := n })
    else s)

/-- Does a branch condition hold (R386)? -/
def Serif.cond (c : Serif) (k : Nat) : Bool :=
  let z := bit c.st 4
  let n := bit c.st 5
  let u := bit c.st 6
  ([true, z, !z, n, !n, n || z, !n && !z, u] : List Bool).getD k false

/-- BR (R386). -/
def execBr (dt d cond target : Nat) (s : State) : Res :=
  let s := s.after dt
  needs (isSerif d && cond < 8 && target < p2 13) (s.serifOp d (4 * p2 26 + cond * p2 22 + target) fun _ c =>
    { SfEff.next c with npc := if c.cond cond then target else c.pc + 1 })

/-- CALL (R386). -/
def execCall (dt d target : Nat) (s : State) : Res :=
  let s := s.after dt
  needs (isSerif d && target < p2 13) (s.serifRunOne d (5 * p2 26 + target) (p2 32 - 1 - 15 * p2 22) fun _ c =>
    { SfEff.next { c with lr := (c.pc + 1) % p2 13 } with npc := target })

/-- RET (R386). -/
def execRet (dt d n : Nat) (s : State) : Res :=
  let s := s.after dt
  needs (isN d n) (s.serifOp d (encN 6 n) fun _ c => { SfEff.next c with npc := c.lr })

/-- LOOP (R389). -/
def execLoop (dt d immf rotf cnt last : Nat) (s : State) : Res :=
  let s := s.after dt
  needs (isSerif d && immf < 2 && rotf < 2 && cnt < p2 11 && last < p2 13)
    (s.serifOp d (7 * p2 26 + immf * p2 25 + rotf * p2 24 + cnt * p2 13 + last) fun _ c =>
      let k := if immf = 1 then cnt else c.getA (cnt % 8)
      let n := c.ldepth
      if n = 2 then { SfEff.next c with cause := 2 }
      else if k = 0 then { SfEff.next c with npc := last + 1 }
      else SfEff.next { (c.setDepth (n + 1)) with
        lc := tput 0 c.lc n k, ls := tput 0 c.ls n ((c.pc + 1) % p2 13), le := tput 0 c.le n last, rf := setBits c.rf n n rotf })

/-- LPOP (R390). -/
def execLpop (dt d n : Nat) (s : State) : Res :=
  let s := s.after dt
  needs (isN d n) (s.serifOp d (encN 8 n) fun _ c =>
    if c.ldepth ≤ c.lmask then { SfEff.next c with cause := 3 } else SfEff.next (c.setDepth (c.ldepth - 1)))

/-- The special S (R394). -/
def Serif.special (c : Serif) (sp : Nat) : Nat :=
  ([c.st, c.rot, tget 0 c.lc 0, tget 0 c.ls 0, tget 0 c.le 0, tget 0 c.lc 1, tget 0 c.ls 1, tget 0 c.le 1,
    c.lr, c.ipc, c.istat, c.ien, c.ipend, c.swi] : List Nat).getD sp 0

/-- MVS (R394). -/
def execMvs (dt d f sp : Nat) (s : State) : Res :=
  let s := s.after dt
  needs (isSerif d && f < 32 && sp < 14) (s.serifOp d (encS 9 f sp) fun _ c => .next (c.setF f (c.special sp)))

/-- A write of special S (R394, R395). -/
def Serif.setSpecial (c : Serif) (sp v : Nat) : Serif :=
  match sp with
  | 0 => { c with st := stWord v }
  | 1 => { c with rot := v % 16 }
  | 2 => { c with lc := tput 0 c.lc 0 (v % p2 14) }
  | 3 => { c with ls := tput 0 c.ls 0 (v % p2 13) }
  | 4 => { c with le := tput 0 c.le 0 (v % p2 13) }
  | 5 => { c with lc := tput 0 c.lc 1 (v % p2 14) }
  | 6 => { c with ls := tput 0 c.ls 1 (v % p2 13) }
  | 7 => { c with le := tput 0 c.le 1 (v % p2 13) }
  | 8 => { c with lr := v % p2 13 }
  | 9 => { c with ipc := v % p2 13 }
  | 10 => { c with istat := v % p2 32 }
  | 11 => { c with ien := v % 256 }
  | 12 => { c with ipend := c.ipend - (c.ipend &&& v) }
  | _ => c

/-- MVD (R394). -/
def execMvd (dt d f sp : Nat) (s : State) : Res :=
  let s := s.after dt
  needs (isSerif d && f < 32 && sp < 14) (s.serifOp d (encS 10 f sp) fun _ c => .next (c.setSpecial sp (c.getF f)))

/-- ADA (R386). -/
def execAda (dt d ax ay imm : Nat) (s : State) : Res :=
  let s := s.after dt
  needs (isSerif d && ax < 8 && ay < 8 && imm < p2 16) (s.serifOp d (0x0B * p2 26 + ax * p2 23 + ay * p2 20 + imm) fun _ c =>
    .next (c.setA ax (c.getA ay + sx 16 imm)))

/-- MVAF (R386). -/
def execMvaf (dt d fd fa fb fc : Nat) (s : State) : Res :=
  let s := s.after dt
  needs (isR d fd fa fb fc) (s.serifOp d (encR 0x0C fd fa fb fc) fun _ c => .next (c.setF fd (c.getA (fa % 8))))

/-- MVFA (R386). -/
def execMvfa (dt d fd fa fb fc : Nat) (s : State) : Res :=
  let s := s.after dt
  needs (isR d fd fa fb fc) (s.serifOp d (encR 0x0D fd fa fb fc) fun _ c => .next (c.setA (fd % 8) (c.getF fa)))

/-- FADD (R380). -/
def execFadd (dt d fd fa fb fc : Nat) (s : State) : Res :=
  let s := s.after dt
  needs (isR d fd fa fb fc) (s.serifArith d 0x10 fd fa fb fc fun _ a b _ => fAdd a b)

/-- FSUB (R380). -/
def execFsub (dt d fd fa fb fc : Nat) (s : State) : Res :=
  let s := s.after dt
  needs (isR d fd fa fb fc) (s.serifArith d 0x11 fd fa fb fc fun _ a b _ => fSub a b)

/-- FMUL (R380). -/
def execFmul (dt d fd fa fb fc : Nat) (s : State) : Res :=
  let s := s.after dt
  needs (isR d fd fa fb fc) (s.serifArith d 0x12 fd fa fb fc fun _ a b _ => fMul a b)

/-- FMA (R380). -/
def execFma (dt d fd fa fb fc : Nat) (s : State) : Res :=
  let s := s.after dt
  needs (isR d fd fa fb fc) (s.serifArith d 0x13 fd fa fb fc fun _ a b c => fFma false a b c)

/-- MAC (R380). -/
def execMac (dt d fd fa fb fc : Nat) (s : State) : Res :=
  let s := s.after dt
  needs (isR d fd fa fb fc) (s.serifArith d 0x14 fd fa fb fc fun x a b _ => fFma false a b x)

/-- MSUB (R380). -/
def execMsub (dt d fd fa fb fc : Nat) (s : State) : Res :=
  let s := s.after dt
  needs (isR d fd fa fb fc) (s.serifArith d 0x15 fd fa fb fc fun x a b _ => fFma true a b x)

/-- FMIN (R386). -/
def execFmin (dt d fd fa fb fc : Nat) (s : State) : Res :=
  let s := s.after dt
  needs (isR d fd fa fb fc) (s.serifArith d 0x16 fd fa fb fc fun _ a b _ => fMinMax false a b)

/-- FMAX (R386). -/
def execFmax (dt d fd fa fb fc : Nat) (s : State) : Res :=
  let s := s.after dt
  needs (isR d fd fa fb fc) (s.serifArith d 0x17 fd fa fb fc fun _ a b _ => fMinMax true a b)

/-- FABS (R386): the sign is cleared. -/
def execFabs (dt d fd fa fb fc : Nat) (s : State) : Res :=
  let s := s.after dt
  needs (isR d fd fa fb fc) (s.serifArith d 0x18 fd fa fb fc fun _ a _ _ => (a % p2 31, 0))

/-- FNEG (R386): the sign is inverted. -/
def execFneg (dt d fd fa fb fc : Nat) (s : State) : Res :=
  let s := s.after dt
  needs (isR d fd fa fb fc) (s.serifArith d 0x19 fd fa fb fc fun _ a _ _ => (Nat.xor a (p2 31), 0))

/-- FCMP (R381). -/
def execFcmp (dt d fd fa fb fc : Nat) (s : State) : Res :=
  let s := s.after dt
  needs (isR d fd fa fb fc) (s.serifOp d (encR 0x1A fd fa fb fc) fun _ c =>
    let r := fCmp (c.getF fa) (c.getF fb)
    { SfEff.next { c with st := setBits c.st 6 4 (b2n r.2.2.1 * 4 + b2n r.2.1 * 2 + b2n r.1) } with raised := r.2.2.2 })

/-- CLAMP (R386): FMIN of FMAX of FD and FA, and FB. -/
def execClamp (dt d fd fa fb fc : Nat) (s : State) : Res :=
  let s := s.after dt
  needs (isR d fd fa fb fc) (s.serifArith d 0x1B fd fa fb fc fun x a b _ =>
    let m := fMinMax true x a
    let r := fMinMax false m.1 b
    (r.1, m.2 ||| r.2))

/-- RCP (R380). -/
def execRcp (dt d fd fa fb fc : Nat) (s : State) : Res :=
  let s := s.after dt
  needs (isR d fd fa fb fc) (s.serifArith d 0x1C fd fa fb fc fun _ a _ _ => fRcp a)

/-- RSQ (R380). -/
def execRsq (dt d fd fa fb fc : Nat) (s : State) : Res :=
  let s := s.after dt
  needs (isR d fd fa fb fc) (s.serifArith d 0x1D fd fa fb fc fun _ a _ _ => fRsq a)

/-- ITOF (R380). -/
def execItof (dt d fd fa fb fc : Nat) (s : State) : Res :=
  let s := s.after dt
  needs (isR d fd fa fb fc) (s.serifArith d 0x1E fd fa fb fc fun _ a _ _ => fItof a)

/-- FTOI (R380). -/
def execFtoi (dt d fd fa fb fc : Nat) (s : State) : Res :=
  let s := s.after dt
  needs (isR d fd fa fb fc) (s.serifArith d 0x1F fd fa fb fc fun _ a _ _ => fFtoi a)

/-- Address and next A of format M (R387). -/
def Serif.mAddr (c : Serif) (a pm imm : Nat) : Nat × Serif :=
  if pm = 0 then (unsx 14 (c.getA a + sx 16 imm), c) else (c.getA a, c.setA a (c.getA a + sx 16 imm))

/-- Fields of format M. -/
def isM (d f a pm imm : Nat) : Bool := isSerif d && f < 32 && a < 8 && pm < 2 && imm < p2 16

/-- LD (R387). -/
def execLd (dt d f a pm imm : Nat) (s : State) : Res :=
  let s := s.after dt
  needs (isM d f a pm imm) (s.serifOp d (encM 0x20 f a pm imm) fun s c =>
    let m := c.mAddr a pm imm
    .next (m.2.setF f (s.sfMem d m.1)))

/-- ST (R387). -/
def execSt (dt d f a pm imm : Nat) (s : State) : Res :=
  let s := s.after dt
  needs (isM d f a pm imm) (s.serifOp d (encM 0x21 f a pm imm) fun _ c =>
    let m := c.mAddr a pm imm
    { SfEff.next m.2 with store := some (m.1, c.getF f) })

/-- LDI (R386). -/
def execLdi (dt d f imm : Nat) (s : State) : Res :=
  let s := s.after dt
  needs (isSerif d && f < 32 && imm < p2 16) (s.serifOp d (0x22 * p2 26 + f * p2 21 + imm) fun _ c => .next (c.setF f (imm * p2 16)))

/-- TAPM (R388). -/
def execTapm (dt d fd fc a : Nat) (s : State) : Res :=
  let s := s.after dt
  needs (isSerif d && fd < 32 && fc < 32 && a < 8) (s.serifOp d (0x23 * p2 26 + fd * p2 21 + fc * p2 16 + a * p2 13) fun s c =>
    let p := c.getA a
    let x := s.sfMem d p
    let r := fFma false (c.getF fc) x (c.getF fd)
    let c := (c.setF fd r.1).setA a ((p : Int) - 1)
    { SfEff.next { c with rot := (c.rot + 1) % 16 } with store := some ((p + 1) % 16384, x), raised := r.2 })

/-- A step code of format P (R387). -/
def stepOf (k : Nat) : Int := if k = 1 then 1 else if k = 2 then -1 else 0

/-- LDST (R387). -/
def execLdst (dt d fd fb ax ay sx_ sy : Nat) (s : State) : Res :=
  let s := s.after dt
  needs (isSerif d && fd < 32 && fb < 32 && ax < 8 && ay < 8 && sx_ < 3 && sy < 3)
    (s.serifOp d (0x24 * p2 26 + fd * p2 21 + fb * p2 16 + ax * p2 13 + ay * p2 10 + sx_ * p2 8 + sy * p2 6) fun s c =>
      let x := s.sfMem d (c.getA ax)
      let w := some (c.getA ay, c.getF fb)
      let c := c.setF fd x
      let c := c.setA ax (c.getA ax + stepOf sx_)
      let c := c.setA ay (c.getA ay + stepOf sy)
      { SfEff.next c with store := w })

/-- Is a code word an instruction (R385, R386, R394)? -/
def legal (w : Nat) : Bool :=
  let op := bits w 31 26
  if op ≤ 3 || op = 6 || op = 8 then bits w 25 3 == 0
  else if op = 4 then bits w 21 13 == 0 && bits w 25 22 < 8
  else if op = 5 then bits w 21 13 == 0
  else if op = 7 then true
  else if op = 9 || op = 10 then bits w 15 0 == 0 && bits w 20 16 < 14
  else if op = 0x0B then bits w 19 16 == 0
  else if op = 0x0C || op = 0x0D || (0x10 ≤ op && op ≤ 0x1F) then bits w 5 0 == 0
  else if op = 0x20 || op = 0x21 then !bit w 16
  else if op = 0x22 then bits w 20 16 == 0
  else if op = 0x23 then bits w 12 0 == 0
  else if op = 0x24 then bits w 5 0 == 0 && bits w 9 8 < 3 && bits w 7 6 < 3
  else false

/-- ILLEGAL_INSTRUCTION (R396): the next word is no instruction. -/
def execIllegalInstruction (dt d : Nat) (s : State) : Res :=
  let s := s.after dt
  needs (isSerif d) (
    let c := s.serif d
    if s.serifOn d && !c.idle && !c.irq && !legal (s.sfCode d) then s.serifFault d 1 c.pc else s)

end Sys2Proof.Machine
end

