-- ==== Sys2Proof/Machine/Inkwell.lean ====
section
/-! DEFINITION. Inkwell (R248 to R250): arming, the rows at output phases, and the triggers; and the accepted capture edges (R89). -/

namespace Sys2Proof.Machine

/-- Words of a row beyond the first: NPROBE as it acts, 1 to 64. -/
def Inkwell.np (k : Inkwell) : Nat := max 1 (min 64 (bits k.ctrl 6 0))
/-- DEPTH. -/
def Inkwell.depth (k : Inkwell) : Nat := 1048576 / (k.np + 1)
/-- Rows before the trigger row that PRE asks for. -/
def Inkwell.pre (k : Inkwell) : Nat := bits k.ctrl 15 12 * k.depth / 16
/-- KIND of the trigger; 8 to 15 act as 0. -/
def Inkwell.kind (k : Inkwell) : Nat := let x := k.trig / p2 28; if 7 < x then 0 else x
/-- The state of Inkwell: 0 idle, 1 armed, 2 triggered, 3 done. -/
def State.inkState (s : State) : Nat := s.rd R.INK_STAT.STATE
/-- Is Inkwell powered? -/
def State.inkOn (s : State) : Bool := s.alive && s.tb.run && s.dom 16

/-- ARM (R249): the configuration is taken, the buffer cleared, and recording starts at the next row instant. -/
def State.inkArm (s : State) : State :=
  let k : Inkwell := { Inkwell.zero with
    ctrl := s.rdw 0x7E0010, trig := s.rdw 0x7E0014, thr := s.rdw 0x7E0018,
    probes := (List.range 64).map fun i => s.rdw (R.INK_PROBE.KIND.j i).addr }
  let s := ({ s with ink := k, log := { s.log with wrote := R.INK_CTRL.ARM.key :: s.log.wrote } }).keepMem fun x => x.1 / p2 24 ≠ 8
  let s := s.putRaw 0x7E001C (p2 30)
  ((s.wr R.INK_TROW.VALUE 0).wr R.INK_TSTAMP.VALUE 0).wr R.INK_DEPTH.VALUE k.depth

/-- STOP: recording ends at the next row instant. -/
def State.inkHalt (s : State) : State :=
  if s.inkState = 1 || s.inkState = 2 then s.wr R.INK_CTRL.STOP 1 else s

/-- TRIG of KIND 0: the next row is the trigger row. -/
def State.inkTrig (s : State) : State :=
  if s.inkState = 1 && s.ink.kind = 0 then { (s.wr R.INK_CTRL.TRIG 1) with ink := { s.ink with event := true } } else s

/-- A write of INK_CTRL: the configuration, ARM, STOP and TRIG. -/
def State.inkCtrlWrite (s : State) (v : Nat) : State :=
  let stop := s.rd R.INK_CTRL.STOP
  let trig := s.rd R.INK_CTRL.TRIG
  let s := ((s.putRaw 0x7E0010 (v % p2 29 &&& 0x03FFF07F)).wr R.INK_CTRL.STOP stop).wr R.INK_CTRL.TRIG trig
  let s := if bit v 31 then s.inkArm else s
  let s := if bit v 30 then s.inkHalt else s
  if bit v 29 then s.inkTrig else s

/-- ARM (R249). -/
def execArm (dt : Nat) (src : Src) (s : State) : Res :=
  let s := s.after dt
  .next (s.swWrite src 16 R.INK_CTRL.ARM.addr State.inkArm)

/-- STOP of Inkwell (R249). -/
def execInkStop (dt : Nat) (src : Src) (s : State) : Res :=
  let s := s.after dt
  .next (s.swWrite src 16 R.INK_CTRL.ARM.addr State.inkHalt)

/-- TRIG (R249). -/
def execTrig (dt : Nat) (src : Src) (s : State) : Res :=
  let s := s.after dt
  .next (s.swWrite src 16 R.INK_CTRL.ARM.addr State.inkTrig)

/-- A probe of a row: the word recorded, and whether it is in block floating point (R248, R250). -/
def State.probe (s : State) (g p : Nat) : Nat × Bool :=
  let k := bits p 31 28
  let i := bits p 15 0
  if k = 1 then
    (if i < 160 then
      let l := s.lane i
      let r := if s.axGroup i = some g then l.rel
        else match l.run with
          | some r => if r.done.isSome && !r.err then some r else l.rel
          | none => l.rel
      match s.laneSig i (bits p 23 16) r with
      | .word w => (w, false)
      | .num _ w => (w, decide (bits p 23 16 ≠ 0x0C))
     else (0, false))
  else if k = 2 then (if i < 16 then (s.rdw (R.CHN_RATE.SIGMA.i i).addr, false) else (0, false))
  else if k = 3 then (s.sfMem (bits p 23 16 % 4) i, false)
  else if k = 4 then (s.peek .host (4 * (bits p 23 16 * 65536 + i) % barSize), false)
  else (0, false)

/-- The value that THR is compared with (R249). -/
def probeVal (w : Nat) (b : Bool) : Rat := if b then bfpVal (wordBfp w) else ((sx 32 w : Int) : Rat)

/-- Does the trigger condition hold at this row (R249)? `v` is the probe's value now, `before` at the row before. -/
def State.inkFires (s : State) (v before : Option Int) (event : Bool) : Bool :=
  let k := s.ink.kind
  if k = 1 then (match before, v with | some a, some b => a = 0 && b = 1 | _, _ => false)
  else if k = 2 then (match before, v with | some a, some b => a = 1 && b = 0 | _, _ => false)
  else event

/-- Recording ends (R249): FIRST names the oldest row kept. -/
def State.inkDone (s : State) : State :=
  let k := s.ink
  let d := k.depth
  let first := match k.trow with
    | none => if d < k.count then k.count - d else 0
    | some t =>
      let a := if k.pre ≤ t then t - k.pre else 0
      if d < k.count - a then k.count - d else a
  let s := s.wr R.INK_STAT.FIRST (first % d)
  let s := (s.wr R.INK_CTRL.STOP 0).wr R.INK_STAT.STATE 3
  s.raiseInt 13

/-- The row just taken, the one after the k.count before it, is the trigger row. -/
def State.inkFire (s : State) (k : Inkwell) : State :=
  let s := { s with ink := { s.ink with trow := some k.count } }
  let s := ((s.wr R.INK_TROW.VALUE (k.count % k.depth)).wr R.INK_TSTAMP.VALUE s.now).wr R.INK_STAT.STATE 2
  if k.count < k.pre then s.wr R.INK_STAT.PRE_SHORT 1 else s

/-- A row is taken (R248, R249). -/
def State.inkRow (s : State) : State :=
  let k := s.ink
  let g := bits k.ctrl 25 24
  let d := k.depth
  let stop := s.rd R.INK_CTRL.STOP == 1
  if stop then s.inkDone
  else
    let ps := (k.probes.take k.np).map (s.probe g)
    let base := (k.count % d) * 4 * (k.np + 1)
    let s := s.putBytes 8 base ((s.now :: ps.map (·.1)).flatMap (leBytes 4))
    let s := if d ≤ k.count then s.wr R.INK_STAT.WRAPPED 1 else s
    let s := s.wr R.INK_STAT.FIRST (if k.count < d then 0 else (k.count + 1) % d)
    let sel := bits k.trig 27 22
    let v : Option Int := if sel < k.np then
        (ps[sel]?).map fun q => if probeVal k.thr q.2 ≤ probeVal q.1 q.2 then (1 : Int) else 0
      else none
    let s := s.wr R.INK_CTRL.TRIG 0
    let fires := s.inkState = 1 && 0 < k.count && s.inkFires v k.prev k.event
    let s := { s with ink := { k with count := k.count + 1, prev := v, event := false } }
    let s := if fires then s.inkFire k else s
    match s.ink.trow with
    | some t => if s.ink.count - t = d - k.pre then s.inkDone else s
    | none => s

/-- Row instants (R248): every (DIV + 1)-th output phase of GRP. -/
def State.inkPhase (s : State) (g : Nat) : State :=
  let k := s.ink
  if (s.inkState = 1 || s.inkState = 2) && s.inkOn && bits k.ctrl 25 24 = g then
    if k.phase = 0 then ({ s with ink := { k with phase := bits k.ctrl 23 16 } }).inkRow
    else { s with ink := { k with phase := k.phase - 1 } }
  else s

/-- CAPTURE_EDGE (R89, R90): an accepted edge of input i enters its FIFO, triggers the latches that select it, and pends line 2 of the Serif cores that select it. -/
def execCaptureEdge (dt i : Nat) (rising : Bool) (s : State) : Res :=
  let s := s.after dt
  needs (isCap i) (if s.tb.run && (s.taken 0 || !rising) && s.capTakes i rising then
    ((s.capPush i rising).capTriggers i).irqSel 2 R.SF_IRQ.CAP_SEL (· == i)
  else s)

end Sys2Proof.Machine
end

