-- ==== Sys2Proof/Machine/Verdicts.lean ====
section
/-! DEFINITION. Errors, self-tests and verdicts of the spare pool, the Blotter log, and the operating-time counts (spec/17_wear_and_spares.md). -/

namespace Sys2Proof.Machine

/-! ### Unit codes (R444) -/

/-- Is a unit code listed in R444? -/
def isUnit (u : Nat) : Bool :=
  let k := u / 4096
  let i := u % 4096
  (k == 1 && i < 168) || (k == 2 && i < 68) || (k == 3 && i < 18) || (k == 4 && i < 240) || (k == 5 && i < 24) ||
    (k == 6 && i < 4) || (k == 7 && i < 4) || (k == 8 && i == 0) || (k == 9 && i < 512)

/-- The spare group of a unit (R423). -/
def groupOf (u : Nat) : Option Nat :=
  let k := u / 4096
  let i := u % 4096
  if k = 1 then some (i / 42) else if k = 2 then some (4 + i / 17) else if k = 3 then some 8
  else if k = 4 then some 9 else if k = 9 then some 10 else none

/-- What tells the tests of two units apart: the unit code, and the row for an SRAM row. -/
def TestReq.key (r : TestReq) : Nat := r.unit + 65536 * r.row

/-! ### Retirement and return (R425, R429, R432) -/

/-- The channel that a sampler serves. -/
def State.sampChan (s : State) (p : Nat) : Option Nat := (List.range 16).find? fun k => s.sampler k == p

/-- Channel k is served by another sampler (R426); its counts carry over. -/
def State.moveChan (s : State) (k p : Nat) : State :=
  let s := s.bringIn (uSamp p)
  { s with spr := { s.spr with samp := (k, p) :: s.spr.samp.filter fun x => x.1 ≠ k } }

/-- A retired sampler that still serves a channel (R432): a free spare takes the channel; with none, the channel is lost. -/
def State.chanRetired (s : State) (p : Nat) : State :=
  match s.sampChan p with
  | none => s
  | some k =>
    match s.freeSamp with
    | some q => s.moveChan k q
    | none =>
      let s := s.flag R.SPR_FLAGS.EXHAUSTED
      let s := ((s.wr (R.FB_STAT.FAULT.i k) 1).wr (R.FB_STAT.LOST.i k) 1).wr (R.FB_STAT.CAUSE.i k) 0
      let s := { s with spr := { s.spr with chanDead := k :: s.spr.chanDead } }
      forEach (s.fbReaders k) (fun n s => s.homeFbFault n) s

/-- A unit is retired (R425, R429, R432). -/
def State.retire (s : State) (r : TestReq) : State :=
  let u := r.unit
  let i := u % 4096
  let s := match groupOf u with
    | some g => s.wr (R.SPR_GROUP.LEFT.j g) (s.rd (R.SPR_GROUP.LEFT.j g) - 1)
    | none => s
  let k := u / 4096
  let out := { s.spr with out := s.spr.out.erase u, retired := u :: s.spr.retired }
  if k = 4 then { s with spr := { s.spr with rows := (i, r.row) :: s.spr.rows } }
  else if k = 6 then
    ({ s with spr := { s.spr with out := s.spr.out.erase u, serifDead := s.spr.serifDead ||| p2 i } }.flag R.SPR_FLAGS.SERIF_STOPPED).showSerif i
  else if k = 7 then
    { s with spr := { s.spr with out := s.spr.out.erase u, scribeDead := s.spr.scribeDead ||| p2 i } }.flag R.SPR_FLAGS.SCRIBE_RETIRED
  else if k = 8 then
    ({ s with spr := { s.spr with out := s.spr.out.erase u } }.mgnCause 4 true).flag R.MGN_FLT.SELFTEST
  else if k = 3 then { s with spr := out }.chanRetired i
  else { s with spr := out }

/-- A unit passes its test and returns (R429). -/
def State.unitReturns (s : State) (r : TestReq) : State :=
  let u := r.unit
  let s := { s with spr := { s.spr with
    out := s.spr.out.erase u, back := (u, s.tb.boot) :: s.spr.back.filter fun x => x.1 ≠ u,
    trans := (r.key, s.tb.rim) :: s.spr.trans } }
  let s := match groupOf u with
    | some g => s.bump (R.SPR_TRANS.TRANS.j g) (R.SPR_TRANS.OVF.j g)
    | none => s
  if u / 4096 = 5 then { s with tb := { s.tb with uncal := setBits s.tb.uncal (u % 4096) (u % 4096) 0 } }
  else if u / 4096 = 6 then { s with dct := { s.dct with turn := true } }.showSerif (u % 4096)
  else if u / 4096 = 7 then { s with dct := { s.dct with turn := true } }
  else s

/-- The verdict of a test (R429, R430): 1 transient, 2 lasting, 3 lasting by count. -/
def State.verdictOf (s : State) (r : TestReq) (pass : Bool) : Nat :=
  let win := 60000000000 * max 1 (s.rd R.SPR_CFG.TRANS_WIN)
  let n := (s.spr.trans.filter fun x => x.1 == r.key && s.tb.rim - x.2 < win).length
  if !pass || r.again then 2 else if max 1 (s.rd R.SPR_CFG.TRANS_N) ≤ n + 1 then 3 else 1

/-- A verdict is recorded and journalled, and the unit returns or is retired. -/
def State.verdict (s : State) (r : TestReq) (v : Nat) : State :=
  let s := s.putRaw 0x7C0080 (r.unit * p2 16 + v * p2 14)
  let s := s.wr R.SPR_LAST_STAMP.NS r.stamp
  let w := if s.now < r.stamp then (s.wseq + 255) % 256 else s.wseq
  let s := s.journalAs 1 v true r.unit r.stamp w r.row (if r.unit / 4096 = 5 then r.unit % 4096 else noTsu)
  if v = 1 then s.unitReturns r else (s.flag R.SPR_FLAGS.LASTING_SEEN).retire r

/-- A test ends: its request goes, and the next one starts. A scheduled test that passes gives no verdict; one that fails gives a lasting one (R433). -/
def State.testEnds (s : State) (r : TestReq) (pass : Bool) : State :=
  let s := { s with spr := { s.spr with reqs := s.spr.reqs.erase r } }
  let s := if s.dct.overdue = some r.unit && r.sched then
      { (s.wr R.SCR_TEST.OVERDUE 0) with dct := { s.dct with overdue := none } } else s
  let s := if r.sched then (if pass && !r.again then s else s.verdict r 2) else s.verdict r (s.verdictOf r pass)
  s.runTests

/-- The duration of the test of a unit in rim clocks (R429). -/
def testClocks (u : Nat) : Nat :=
  ([0, 20000, 40000, 10000, 8000, 100000, 300000, 1000000, 150000, 20000000] : List Nat).getD (u / 4096) 0

/-- Has a test run for its duration? -/
def State.testRun (s : State) (r : TestReq) : Bool :=
  match r.started with
  | some t => decide (t + testClocks r.unit ≤ s.tb.boot)
  | none => false

/-- SELF_TEST_COMPLETE (R429, R433): the running test of a unit ends after its duration. -/
def execSelfTestComplete (dt unit : Nat) (pass : Bool) (s : State) : Res :=
  let s := s.after dt
  needs (isUnit unit) (match s.spr.reqs.find? fun r => r.unit == unit && s.testRun r with
    | some r => s.testEnds r pass
    | none => s)

/-! ### Scheduled tests (R418, R433, R441) -/

/-- May a scheduled test take the unit: a free spare of groups 0 to 8, or the Margin monitor (R433)? -/
def State.schedFree (s : State) (u : Nat) : Bool :=
  let i := u % 4096
  !s.spr.retired.contains u && !s.spr.out.contains u &&
    (if u / 4096 = 1 then !((List.range 40).any fun k => s.rd (R.AX_MAP.PHYS.i (40 * (i / 42) + k)) == i)
     else if u / 4096 = 2 then !((List.range 16).any fun t => tget t s.spr.tiles (16 * (i / 17) + t) == i % 17)
     else if u / 4096 = 3 then (s.sampChan i).isNone
     else u == 0x8000)

/-- A scheduled test starts; the test of the Margin monitor measures WEAR_MV (R441). -/
def State.schedStart (s : State) (u wear : Nat) : State :=
  let s := if u = 0x8000 then s.wrU R.SPR_WEAR.WEAR_MV wear else s
  if s.spr.reqs.any (fun r => r.unit == u) then s
  else { s with spr := { s.spr with reqs := s.spr.reqs ++ [(⟨u, s.now, none, false, true, 0⟩ : TestReq)] } }.runTests

/-- DEFERRED shows whether a test is deferred. -/
def State.showDefer (s : State) : State := s.wrB R.SCR_TEST.DEFERRED (!s.dct.defer.isEmpty)

/-- SCHEDULED_TEST (R418, R433): a scheduled test of a unit falls due; from shed level 2 it is deferred. -/
def execScheduledTest (dt unit wear : Nat) (s : State) : Res :=
  let s := s.after dt
  needs (isUnit unit) (if s.alive && s.tb.run && s.schedFree unit then
    (if 2 ≤ s.rd R.SCR_SHED.LEVEL then
      ({ s with dct := { s.dct with defer := s.dct.defer ++ [(unit, s.tb.rim, wear)] } }.bump R.SCR_TEST.DEFERS R.SCR_TEST.OVF).showDefer
     else s.schedStart unit wear)
  else s)

/-! ### SRAM rows (R427) -/

/-- An uncorrectable error acts on the unit that owns the memory (R427, R432). -/
def State.sramOwner (s : State) : SramOwner → State
  | .laneState n => if n < 160 then s.laneErr n else s
  | .solver q =>
    if q < 4 then (s.tileErr q (tget (Config.freeNat s.free % 16) s.spr.tiles (16 * q + Config.freeNat s.free % 16))).useFree else s
  | .serif d => if d < 4 && s.serifOn d then
      (s.serifFault d 6 (s.serif d).pc).unitFails (0x6000 + d) 0 |>.showSerif d else s
  | .inkwell w => s.putMem32 8 (4 * w) 0
  | .mirrored sp a g => if 1 ≤ sp && sp ≤ 3 then s.putMem32 sp a g else s
  | .other => s

/-- SRAM_ERROR (R427): a read finds an error in a row of a macro; the row moves to a free spare row and goes to test, or stays in use where none is free. -/
def execSramError (dt mac row : Nat) (corrected : Bool) (owner : SramOwner) (s : State) : Res :=
  let s := s.after dt
  needs (mac < 240 && row < 1024) (if s.alive && s.tb.run then
    let stuck := s.spr.rowStuck.contains (mac * 1024 + row)
    let s := if corrected && !stuck then s.bump R.SPR_CORR.CORR R.SPR_FLAGS.CORR_OVF
      else
        (s.flag R.SPR_FLAGS.UNCORR).sramOwner owner
    let busy := (s.spr.reqs.filter fun r => r.unit == 0x4000 + mac).length + s.rowsGone mac
    if stuck then s
    else if busy < 8 then s.unitError (0x4000 + mac) row
    else { s.flag R.SPR_FLAGS.EXHAUSTED with spr := { s.spr with rowStuck := (mac * 1024 + row) :: s.spr.rowStuck } }
  else s)

/-! ### Feedback samplers (R426) -/

/-- SAMPLER_MISMATCH (R426): a spare sampler that shadows channel k differs from it for 3 samples; the channel moves to the spare and the former sampler goes to test. -/
def execSamplerMismatch (dt spare k : Nat) (s : State) : Res :=
  let s := s.after dt
  needs (spare < 18 && isFb k) (if s.fbRuns && !s.unitGone (uSamp spare) && (s.sampChan spare).isNone then
    let old := s.sampler k
    (s.moveChan k spare).unitFails (uSamp old) 0
  else s)

/-! ### The Blotter (R435, R436, R438) -/

/-- The bytes of an entry before its CRC. -/
def BltEntry.body (e : BltEntry) : List Nat :=
  leBytes 4 e.seq ++ leBytes 4 e.stamp ++ [e.wseq % 256, e.flags % 256] ++ leBytes 2 e.unit ++ leBytes 2 e.code ++
    leBytes 2 e.mode ++ leBytes 12 e.data
/-- The 32 bytes of an entry. -/
def BltEntry.bytes (e : BltEntry) : List Nat := e.body ++ leBytes 4 e.crc

/-- The blocks in service: at most 496 of those in order (R435). -/
def State.bltBlocks (s : State) : List Nat :=
  ((List.range 512).filter fun b => !s.spr.retired.contains (0x9000 + b) && !s.spr.out.contains (0x9000 + b)).take 496

/-- The block in service after another, in circular order. -/
def State.nextBlk (s : State) (b : Nat) : Nat :=
  let l := s.bltBlocks
  ((l.find? (b < ·)).getD (l.headD 0))

/-- BLT_STAT and BLT_HEAD show the log. -/
def State.showBlt (s : State) : State :=
  ((s.wr R.BLT_STAT.COUNT s.blt.log.length).wrB R.BLT_STAT.ERASING s.blt.erase.isSome)

/-- The log moves to the erased block, and the next one, which holds the oldest entries, is erased (R438). -/
def State.bltMove (s : State) : State :=
  let b := s.nextBlk s.blt.wblk
  let room := (s.bltBlocks.length - 2) * 512
  let log := s.blt.log.drop (s.blt.log.length - room)
  let s := { s with blt := { s.blt with wblk := b, fill := 0, erase := some (s.nextBlk b), log := log } }
  (s.bump R.BLT_CNT.WRAPS R.BLT_CNT.WRAP_OVF).showBlt

/-- Fault entries only are drained at level 3 and during a restart (R413, R414). -/
def State.drainFaults (s : State) : Bool := s.dct.restart.isSome || s.rd R.SCR_SHED.LEVEL == 3

/-- A held fault entry is admitted when a slot is free (R419). -/
def State.admitHeld (s : State) : State :=
  match s.blt.held with
  | [] => s
  | e :: t => { s with blt := { s.blt with held := t } }.enqueueEntry e

/-- BLOTTER_COMMIT (R435, R438): the next entry is written with its SEQ and CRC; a block that fails its verify goes to test and the log moves on. -/
def execBlotterCommit (dt : Nat) (verified : Bool) (s : State) : Res :=
  let s := s.after dt
  .next (if s.alive && s.rd R.BLT_STAT.READY = 1 && s.blt.fill < 512 then
    match (if s.drainFaults then s.blt.queue.find? (·.fault) else s.blt.queue.head?) with
    | none => s
    | some e =>
      if verified then
        let x := { e with seq := s.rd R.BLT_HEAD.SEQ }
        let x := { x with crc := crc32c x.body }
        let s := { s with blt := { s.blt with queue := s.blt.queue.erase e, log := s.blt.log ++ [x], fill := s.blt.fill + 1 } }
        let s := ((s.wr R.BLT_HEAD.SEQ (add32 x.seq 1)).showQueue).admitHeld.showBlt
        if s.blt.fill = 512 && s.blt.erase.isNone then s.bltMove else s
      else
        let b := s.blt.wblk
        (s.bltMove).unitFails (0x9000 + b) 0
  else s)

/-- BLOCK_ERASE_COMPLETE (R438): the erase in progress ends; one that fails its verify sends the block to test, and the block after it is erased in its place. -/
def execBlockEraseComplete (dt : Nat) (verified : Bool) (s : State) : Res :=
  let s := s.after dt
  .next (match s.blt.erase with
    | none => s
    | some b =>
      if verified then
        let s := { s with blt := { s.blt with erase := none } }.showBlt
        if s.blt.fill = 512 then s.bltMove else s
      else
        let s := s.unitFails (0x9000 + b) 0
        { s with blt := { s.blt with erase := some (s.nextBlk b) } })

/-- Is the CRC of an entry good (R436)? -/
def BltEntry.good (e : BltEntry) : Bool := e.crc == crc32c e.body

/-- At BOOT every entry whose CRC fails is skipped and counted in TORN (R438). -/
def State.skipTorn (s : State) : State :=
  let bad := s.blt.log.filter fun e => !e.good
  let s := { s with blt := { s.blt with log := s.blt.log.filter BltEntry.good } }
  forEach bad (fun _ s => s.bump R.BLT_CNT.TORN R.BLT_CNT.TORN_OVF) s

/-- A loss of power tears the write that Scribe has in progress, if there is one: a free value (log entry 38). What is left in the log has a CRC that fails. -/
def State.tearWrite (s : State) : State :=
  match s.blt.queue with
  | [] => s
  | e :: _ =>
    if s.rd R.BLT_STAT.READY = 1 && s.blt.fill < 512 && Config.freeNat s.free % 2 = 1 then
      let x := { e with seq := s.rd R.BLT_HEAD.SEQ }
      { s.useFree with blt := { s.blt with log := s.blt.log ++ [{ x with crc := Nat.xor (crc32c x.body) 1 }], fill := s.blt.fill + 1 } }
    else s.useFree

/-! ### Operating time (R440) -/

/-- 10 minutes in rim clocks. -/
def tenMin : Nat := 600000000000

/-- HOURS and AGE show the counts. -/
def State.showHours (s : State) : State :=
  (s.wrU R.SPR_HOURS.VALUE (s.spr.hoursN / 6)).wrU R.SPR_AGE.VALUE s.spr.ageF.floor.toNat

/-- The DATA of the record of both counts: HOURS in units of 10 minutes in its first word, AGE in 2^-16 h above it. -/
def State.hoursData (s : State) : Nat := s.spr.hoursN % p2 32 + (s.spr.ageF * 65536).floor.toNat * p2 32

/-- HOURS_JOURNAL (R440): every 10 minutes, over which Tj had a mean in °C, both counts advance and are journalled. -/
def execHoursJournal (meanTj : Rat) (s : State) : Res :=
  .next (if s.alive && s.tb.run then
    let s := s.runRim ((s.tb.rim / tenMin + 1) * tenMin)
    let s := { s with spr := { s.spr with hoursN := s.spr.hoursN + 1, ageF := s.spr.ageF + pow2Q ((meanTj - 95) / 10) / 6 } }.showHours
    s.journalAs 11 (Config.eventSub 11 0) false noUnit s.now s.wseq s.hoursData noTsu
  else s)

/-- The counts as the newest record of the log restores them at BOOT (R440). -/
def State.restoreHours (s : State) : State :=
  match s.blt.log.reverse.find? fun e => e.code / 256 == 11 with
  | none => { s with spr := { s.spr with hoursN := 0, ageF := 0 } }.showHours
  | some e =>
    { s with spr := { s.spr with hoursN := e.data % p2 32, ageF := ((e.data / p2 32 : Nat) : Rat) / 65536 } }.showHours

end Sys2Proof.Machine
end

