-- ==== Sys2Proof/Machine/Commit.lean ====
section
/-! DEFINITION. COMMIT requests and commit copies (R45 to R51, R491, R218), UNLOCK (R55 to R57), and the scrubber of the triplicated fields (R60, R61). -/

namespace Sys2Proof.Machine

/-! ### Members (R42, R47, R491) -/

/-- The header offsets of all block instances that hold shadowed fields. -/
def shadowHeads : List Nat :=
  blocks.flatMap fun b => if b.sh then (List.range b.insts).map fun n => b.base + n * b.stride else []

/-- CGSEL of the instance with header h. -/
def State.cgsel (s : State) (h : Nat) : Nat := s.raw (h + 4) % 16

/-- The header of the sigma-delta instance. -/
def sdHead : Nat := 0x660000
/-- The offset that names the registers of input k. -/
def sdPart (k : Nat) : Nat := 0x660100 + 0x20 * k

/-- Is the instance with header h a member of group g for a request of kind `abs` (R491)? -/
def State.member (s : State) (abs : Bool) (g h : Nat) : Bool :=
  s.cgsel h == g && (match locate h with
    | none => false
    | some l => s.domOn l.domain &&
        (abs || !(l.blk.typ == 0x10 || l.blk.typ == 0x18) || (s.axGroup l.inst).isSome))

/-! ### Boundaries (R47, R49) -/

/-- The first base boundary still to come that satisfies a test and is not the given tick. -/
def State.firstB (s : State) (p : Nat → Bool) (not : Nat) : Option Nat :=
  let t := fun k => add32 s.nextB (31250 * sub32 k (s.baseK + 1))
  match nextIdx p s.baseK 64 with
  | none => none
  | some k => if t k = not then (nextIdx p k 64).map t else some (t k)

/-- The first instant of a lattice, at or after the present tick, that is not the given tick. -/
def State.firstOf (s : State) (a per not : Nat) : Nat :=
  let r := sub32 s.now a % per
  let t := if r = 0 then s.now else add32 s.now (per - r)
  if t = not then add32 t per else t

/-- The nearer of two ticks ahead. -/
def State.nearer (s : State) (a b : Nat) : Nat := if sub32 a s.now ≤ sub32 b s.now then a else b

/-- The next reload tick of bridge b (R291). -/
def State.nextReload (s : State) (b not : Nat) : Option Nat :=
  if s.carrierOn b then
    let per := s.pbPer b
    let v := s.nextInst (s.pb b).valley s.msAnchor per (s.rd (R.PB_CAR.CAR_PH.i b) : Int)
    let p := match (s.pb b).valley with
      | none => add32 v (per / 2)
      | some l => if sub32 (add32 l (per / 2)) s.now < p2 31 then add32 l (per / 2) else add32 v (per / 2)
    let fix := fun t => if t = not then add32 t per else t
    some (if s.pbEdge b || s.pbRld b = 0 then fix v else if s.pbRld b = 1 then fix p else s.nearer (fix v) (fix p))
  else none

/-- The next decimation frame start of input k (R303). -/
def State.nextFrame (s : State) (k not : Nat) : Option Nat :=
  let f := s.rd (R.SD_CFG.FSRC.j k)
  if f = 0x1F then
    match (s.sdIn k).last with
    | some l => some (s.firstOf (sub32 l (s.rd (R.SD_OFS.OFS.j k))) (s.sdD k) not)
    | none => if s.dev.rgIn && s.rgDef 0 then some (s.firstOf (s.rgAnchor 0) (31250 * s.rgN 0) not) else none
  else (s.evSource f).map fun x => s.firstOf x.1 x.2 not

/-- Do cycle starts fall on channel ch: it follows or originates frames, or is a candidate (R310, R342)? -/
def State.cycRuns (s : State) (ch : Nat) : Bool :=
  s.ringUp ch && s.cycle ch != 0 && (2 ≤ s.chState ch || s.csState == 2)

/-- The next boundary of a member (R47): an instance by its header, or an input of SD by its offset; none where none occurs at present. -/
def State.bndOf (s : State) (h not : Nat) : Option Nat :=
  match locate h with
  | none => none
  | some l =>
    let t := l.blk.typ
    let rg := fun g => s.firstB (s.rgAt g) not
    if t = 0x03 then s.firstB (fun _ => true) not
    else if t = 0x10 || t = 0x18 then (s.axGroup l.inst).bind rg
    else if t = 0x19 then rg (s.fbGroup l.inst)
    else if t = 0x11 || t = 0x12 || t = 0x13 then s.firstB s.solveAt not
    else if t = 0x14 then s.firstB (fun k => k % 8 == 0) not
    else if t = 0x1A then s.nextReload l.inst not
    else if t = 0x1B then (if 0x100 ≤ l.off then s.nextFrame ((l.off - 0x100) / 0x20) not else none)
    else if t = 0x20 then
      (if s.cycRuns l.inst then
        let c := s.nextCyc l.inst
        some (if c = not then add32 c (s.cycle l.inst) else c)
       else none)
    else rg 0

/-! ### Copies (R45, R48) -/

/-- The shadow word as a copy on this tick takes it: without what software stored on the tick, which applies after the copy (R48). -/
def State.shadowW (s : State) (a : Nat) : Nat :=
  match s.log.soft.find? fun x => x.1 == a with
  | none => s.rdw a
  | some x => (s.rdw a - (s.rdw a &&& x.2.2)) + (x.2.1 &&& x.2.2)

/-- The shadowed fields of a register take a word into their active value. -/
def State.copyFrom (a w : Nat) (s : State) : State :=
  match Sys2Proof.Machine.rowAt a with
  | none => s
  | some r =>
    let m := r.shadow
    if m = 0 then s else s.putAct a ((s.actw a - (s.actw a &&& m)) + (w &&& m))

/-- One register takes its shadow into its active value. -/
def State.copyWord (a : Nat) (s : State) : State := s.copyFrom a (s.shadowW a)

/-- Has software stored a shadow of the instance with header h on this tick (R48)? -/
def State.dirtyNow (s : State) (h : Nat) : Bool :=
  s.log.soft.any fun x => match locate x.1 with
    | some l => l.head == h && (match rowIn l.blk l.off with | some r => r.shadow &&& x.2.2 != 0 | none => false)
    | none => false

/-- The shadowed words of a range of BAR0 that differ from their reset values on either side. -/
def State.heldWords (s : State) (lo hi : Nat) : List Nat :=
  ((s.regs.map fun x => x.1 % barSize).filter fun a => lo ≤ a && a < hi).eraseDups

/-- All words of a range are copied. -/
def State.copyRange (s : State) (lo hi : Nat) : State := forEach (s.heldWords lo hi) State.copyWord s

/-- The DIRTY bit of a header. -/
def State.putDirty (s : State) (h : Nat) (x : Bool) : State := s.putRaw (h + 4) (setBits (s.raw (h + 4)) 29 29 (b2n x))

/-- A copy of input k inside a decimation frame leaves SCALE and ZERO as they are until the next frame start (R46). -/
def State.sdHold (s : State) (k : Nat) : State :=
  match s.nextFrame k (add32 s.now 1) with
  | none => s
  | some t =>
    if t = s.now then s
    else
      let q := s.sdParams k
      { s with sds := tput .zero s.sds k { s.sdIn k with hold := some (q.1, unsx 24 q.2, s.tb.rim + s.clocksTo t) } }

/-- The commit copy of a member, with what it does in its block (R48, R91, R153, R218, R241, R263, R400). -/
def State.copyMember (s : State) (h : Nat) : State :=
  match locate h with
  | none => s
  | some l =>
    let t := l.blk.typ
    if t = 0x1B then
      (if 0x100 ≤ l.off then
        (let k := (l.off - 0x100) / 0x20
         (s.sdHold k).copyRange h (h + 0x20))
       else s.putDirty h (s.dirtyNow h))
    else if t = 0x14 && s.mode ≠ 1 && s.mode ≠ 7 then s.flag R.MGN_FLT.PARAM_REFUSED
    else
      let modes := (List.range 8).map fun j => (s.evMode j, s.act (R.EVT_CFG.IDLE.j j))
      let before := s
      let s := if t = 0x14 then s.tmrUse 0 else s
      let s := (s.copyRange h (h + l.blk.size)).putDirty h (s.dirtyNow h)
      if t = 0x1A then before.pbSwitch s l.inst
      else if t = 0x03 then (forEach (List.range 8) (fun j s => s.evtCommitted j (modes.getD j (0, 0)).1 (modes.getD j (0, 0)).2) s).pRateCheck
      else if t = 0x12 then s.rulCommitted
      else if t = 0x10 then s.stkCommitted l.inst
      else if t = 0x18 then s.axCommitted l.inst
      else if t = 0x19 then before.fbCommitted s l.inst
      else if t = 0x29 then s.sfCommitted l.inst
      else s

/-! ### Requests (R47 to R51, R491) -/

/-- A request whose members have all copied is complete (R49). -/
def State.finishReq (s : State) (r : CmtReq) : State :=
  if r.members.isEmpty then (State.dropReq r s).putRaw R.CMT_LAST.LAST.addr s.now else s

/-- A request is changed in the list. -/
def State.putReq (s : State) (r r' : CmtReq) : State :=
  { s with cmt := { s.cmt with reqs := s.cmt.reqs.map fun x => if x = r then r' else x } }

/-- One member of a request counts as copied. -/
def State.memberDone (s : State) (r : CmtReq) (h : Nat) : State :=
  let r' := { r with members := r.members.erase h }
  ((s.putReq r r').showPend h).finishReq r'

/-- One input of the SD instance has copied; the instance has when every used input has. -/
def State.sdDone (s : State) (r : CmtReq) (h : Nat) : State :=
  let r' := { r with sdIn := r.sdIn.erase h }
  let s := s.putReq r r'
  if r'.sdIn.isEmpty && r'.members.contains sdHead then (s.copyMember sdHead).memberDone r' sdHead else s

/-- A pending request of a group is replaced; its members no longer wait for it (R51). -/
def State.replaceReq (s : State) (g : Nat) : State :=
  match s.cmt.reqs.find? fun r => r.g == g with
  | none => s
  | some r =>
    let s := { s with cmt := { s.cmt with reqs := s.cmt.reqs.erase r } }
    let s : State := forEach r.members (fun h s => s.showPend h) s
    s.flag R.CMT_STAT.REPLACED

/-- The request for one group. -/
def State.requestGroup (abs : Bool) (at_ : Nat) (g : Nat) (s : State) : State :=
  let ms := shadowHeads.filter (s.member abs g)
  let s := s.replaceReq g
  if ms.isEmpty then (s.wr (pendBit g) 0).putRaw R.CMT_LAST.LAST.addr s.now
  else
    let used := (List.range 24).filter fun k => s.rd (R.SD_CFG.EN.j k) == 1
    let sd := if ms.contains sdHead then (if abs then List.range 24 else used).map sdPart else []
    let r : CmtReq := ⟨g, abs, if abs then at_ else s.now, ms, sd⟩
    let s := { s with cmt := { s.cmt with reqs := s.cmt.reqs ++ [r] } }
    let s := s.wr (pendBit g) 1
    let s : State := forEach ms (fun h s => s.showPend h) s
    if ms.contains sdHead && !abs then
      let off := (List.range 24).filter fun k => s.rd (R.SD_CFG.EN.j k) != 1
      let s : State := forEach off (fun k s => s.copyMember (sdPart k)) s
      if sd.isEmpty then (s.copyMember sdHead).memberDone r sdHead else s
    else s

/-- A write of COMMIT (R47, R50): its fields are stored, and with GO = 1 the named groups are requested; one that names the RUL group goes to the twin as a MODEL record (R360). -/
def State.commitWrite (s : State) (v : Nat) : State :=
  let s := (s.wr R.COMMIT.WHEN (bits v 30 30)).wr R.COMMIT.GROUPS (bits v 15 0)
  if !bit v 31 then s
  else
    let s := { s with log := { s.log with wrote := R.COMMIT.GO.key :: s.log.wrote } }
    let abs := bit v 30
    let at_ := s.rd R.CMT_AT.AT
    let d := sub32 at_ s.now
    if abs && !(1000 ≤ d && d < p2 31) then s.flag R.CMT_STAT.REFUSED
    else
      let s : State := forEach ((List.range 16).filter (bit v)) (s := s) (State.requestGroup abs at_)
      let s := if s.mirrors && bit v (s.cgsel 0x300000) then
          (match if abs then some at_ else s.bndOf 0x300000 s.now with
           | some t => s.twinSend 6 [1, t]
           | none => s)
        else s
      s.mirror s.now 1 [v, at_]

/-- COMMIT_REQUEST (R47 to R51, R491). -/
def execCommitRequest (dt : Nat) (src : Src) (value : Nat) (s : State) : Res :=
  let s := s.after dt
  needs (isWord value) (if src != .ring && s.srcUp src then s.commitWrite value else s)

/-- The tick at which a pending request copies a member. -/
def State.copyTick (s : State) (r : CmtReq) (h : Nat) : Option Nat := if r.abs then some r.tick else s.bndOf h r.tick

/-- Does a request wait for this copy: of an instance by its header, or of an SD input by its offset? -/
def CmtReq.waits (r : CmtReq) (h : Nat) : Bool := if sdHead < h && h < 0x660400 then r.sdIn.contains h else h != sdHead && r.members.contains h

/-- COMMIT_COPY (R48, and R84 where the copy falls on a boundary that rebases): a member instance (named by its header offset), or an input of the SD instance (by the offset of its registers), copies at its boundary or at CMT_AT. -/
def execCommitCopy (inst : Nat) (s : State) : Res :=
  needs (shadowHeads.contains inst || (List.range 24).any fun k => sdPart k == inst)
    (if !(s.alive && s.tb.run) then s
     else match s.cmt.reqs.find? fun r => r.waits inst && ((s.copyTick r inst).bind s.reach).isSome with
      | none => s
      | some r =>
        match (s.copyTick r inst).bind s.reach with
        | none => s
        | some s =>
          let s := if sub32 s.now s.nextB ≤ 1 then s.rebase else s
          let s := s.copyMember inst
          if inst / 0x20000 = sdHead / 0x20000 then s.sdDone r inst else s.memberDone r inst)

/-- The instances of a domain that has switched off count as copied (R491). -/
def State.dropMembers (s : State) (gone : Nat → Bool) : State :=
  forEach (s.cmt.reqs.flatMap fun r => (r.members.filter gone).map fun h => (r.g, h)) (fun x s =>
    match s.cmt.reqs.find? fun r => r.g == x.1 with
    | none => s
    | some r => s.memberDone r x.2) s

/-! ### UNLOCK (R55 to R57) -/

/-- The length of an arming in ticks. -/
def armTicks : Nat := 1000000

/-- A write of UNLOCK. -/
def State.unlockWrite (s : State) (src : Src) (v : Nat) : State :=
  match armBit src with
  | none => s
  | some f =>
    if v = 0x5EA1 then
      { s.wr f 1 with cmt := if src = .scribe then { s.cmt with keyS := s.now } else { s.cmt with keyH := s.now } }
    else ((s.disarm src).flag R.CMT_STAT.KEY_VIOL).violInfo src 1 R.UNLOCK.KEY.addr

/-- UNLOCK (R55, R57). -/
def execUnlock (dt : Nat) (src : Src) (value : Nat) (s : State) : Res :=
  let s := s.after dt
  needs (isWord value) (if src != .ring && s.srcUp src then s.unlockWrite src value else s)

/-- UNLOCK_EXPIRE (R56): 1,000,000 ticks after the latest key write of the source. -/
def execUnlockExpire (src : Src) (s : State) : Res :=
  .next (if s.armed src then
    match s.reach (add32 (if src = .scribe then s.cmt.keyS else s.cmt.keyH) armTicks) with
    | some s => s.disarm src
    | none => s
  else s)

/-! ### Triplicated fields (R60, R61) -/

/-- TMR_SCRUB (R61): every triplicated field of the powered domain is voted and repaired. -/
def execTmrScrub (dt : Nat) (s : State) : Res :=
  let s := s.after dt
  .next (if s.alive && s.tb.run && s.dom 9 then
    forEach s.tmrWords (fun a s => (s.healWord false 0 a).healWord false 1 a) s
  else s)

end Sys2Proof.Machine
end

