-- ==== Sys2Proof/Machine/Store.lean ====
section
/-! DEFINITION. How a value is stored in the RW and RWH fields of a register: classes, KEY, W1T and shadows (R14, R45, R54 to R59, R63). -/

namespace Sys2Proof.Machine

/-- The key of a write-once field: its word and its low bit. -/
def w1tKey (a : Nat) (f : FieldRow) : Nat := a * 32 + f.lo

/-- A field takes a value, and the tick remembers what it held where software wrote it (R41, R48, R54). -/
def State.putField (soft : Bool) (a : Nat) (f : FieldRow) (x : Nat) (s : State) : State :=
  let old := s.rdw a
  let s := s.putw a (setBits old f.hi f.lo x)
  if soft then { s with log := { s.log with soft := softIn a old ((p2 (f.hi + 1 - f.lo) - 1) * p2 f.lo) s.log.soft } } else s

/-- A second value for a write-once field: ignored, and a violation where it differs (R58). -/
def State.onceMore (s : State) (who : Option Src) (a : Nat) (f : FieldRow) (x : Nat) : State :=
  if bits (s.rdw a) f.hi f.lo = x then s
  else
    let s := s.flag R.CMT_STAT.WO_VIOL
    match who with
    | some src => s.violInfo src 2 a
    | none => s

/-- Did the host make the first write of a write-once field on this very tick? Scribe's write of the tick then came before it (R41, R58). -/
def State.hostFirst (s : State) (a : Nat) (f : FieldRow) : Bool :=
  s.log.host.any (fun x => x.1 == a) && s.log.soft.any fun x => x.1 == a && bits x.2.2 f.hi f.lo != 0

/-- One field takes a value (R14, R58, R69). `who` is the source that a write-once violation is recorded for; the loader records none. -/
def State.storeField (who : Option Src) (a v : Nat) (f : FieldRow) (s : State) : State :=
  let x := bits v f.hi f.lo
  let soft := who == some .host || who == some .scribe
  if f.w1t then
    if a = R.TB_CTRL.REF_SEL.addr && x = 3 then s
    else if s.dev.w1t.contains (w1tKey a f) then
      if who == some .scribe && s.hostFirst a f then
        (let h := bits (s.rdw a) f.hi f.lo
         (s.putField false a f x).onceMore (some .host) a f h)
      else s.onceMore who a f x
    else
      let s := s.putField soft a f x
      { s with dev := { s.dev with w1t := w1tKey a f :: s.dev.w1t } }
  else
    let s := s.putField soft a f x
    if f.acc = .rwh then { s with log := { s.log with wrote := (a * 32 + f.lo) :: s.log.wrote } } else s

/-- Does a write store this field: an RW or RWH field, and under the key if it carries KEY? -/
def FieldRow.stored (f : FieldRow) (key : Bool) : Bool := (f.acc == .rw || f.acc == .rwh) && (key || !f.key)

/-- The RW and RWH fields of a register that a mask touches take a value; `key`: KEY fields take it too. -/
def State.storeMask (s : State) (who : Option Src) (a v m : Nat) (key : Bool) : State :=
  match Sys2Proof.Machine.rowAt a with
  | none => s
  | some r => forEach (r.fs.filter fun (f : FieldRow) => f.stored key && (bits m f.hi f.lo != 0)) (State.storeField who a v) s

/-- The RW and RWH fields of a register take a value. -/
def State.storeWord (s : State) (who : Option Src) (a v : Nat) (key : Bool) : State := s.storeMask who a v 0xFFFFFFFF key

/-- A write of an instance header: VIEW, and CGSEL where the block holds shadowed fields (R42). -/
def State.headerWrite (s : State) (l : Loc) (v : Nat) : State :=
  let a := l.head + 4
  let s := s.putRaw a (setBits (s.raw a) 31 31 (v / p2 31))
  if l.blk.sh then s.putRaw a (setBits (s.raw a) 3 0 v) else s

/-- Both the shadow and the active side take a value, as a preset does (R108). -/
def State.storeBoth (s : State) (who : Option Src) (a v : Nat) : State :=
  let s := s.storeWord who a v true
  s.copyFrom a (s.rdw a)

/-- Counters that took increments on this tick add them to a value stored on it (R54, R63). -/
def State.recount (s : State) (a : Nat) (f : FieldRow) : State :=
  let l := s.incsOf (a * 32 + f.lo)
  let top := p2 (f.hi + 1 - f.lo) - 1
  let x := bits (s.raw a) f.hi f.lo + l.length
  let s := s.putRaw a (setBits (s.raw a) f.hi f.lo (min x top))
  match l with
  | [] => s
  | o :: _ => if top ≤ x then s.setMask (o / 32) (p2 (o % 32)) else s

/-- The W1C and STKY bits written 1 clear, but for those that hardware set on this tick (R54). -/
def State.softClear (s : State) (a v : Nat) : State :=
  match Sys2Proof.Machine.rowAt a with
  | none => s
  | some r =>
    let m := r.fs.foldl (fun m f => if f.acc = .w1c ∨ f.acc = .stky then m ||| ((p2 (f.hi + 1 - f.lo) - 1) * p2 f.lo) else m) 0
    let c := v &&& m
    let c := c - (c &&& s.setsOf a)
    if c = 0 then s else s.putRaw a (s.raw a - (s.raw a &&& c))

/-- Does a row hold KEY fields? -/
def RegRow.guarded (r : RegRow) : Bool := r.fs.any (·.key)

/-- A plain write of a register by software, over the bits of a mask (R14, R45, R54 to R59, R63): stored fields, counters, flags cleared, and DIRTY of the instance. A counter written on the tick of increments takes them on top. -/
def State.plainMask (s : State) (who : Option Src) (a v m : Nat) (key : Bool) : State :=
  match locate a, Sys2Proof.Machine.rowAt a with
  | some l, some r =>
    let s := (s.unscrub a).storeMask who a v m key
    let s : State := forEach (r.fs.filter fun (f : FieldRow) => f.acc = .rwh && (bits m f.hi f.lo != 0)) (fun f s => s.recount a f) s
    let s := s.softClear a (v &&& m)
    if r.shadow &&& m = 0 then s else s.putDirty l.head true
  | _, _ => s

end Sys2Proof.Machine
end

