-- ==== Sys2Proof/Machine/Folio.lean ====
section
/-! DEFINITION. The Folio image: its checks (R100 to R107, R492), loading (R108 to R110), power domains (R476, R477), and the retirements that BOOT re-applies (R425). -/

namespace Sys2Proof.Machine

/-! ### Slots and headers (R100 to R102) -/

/-- An image slot: the flash space it lies in and its first byte. -/
structure Img where
  sp : Nat
  base : Nat
  deriving DecidableEq, Repr

/-- The flash space of a chip select. -/
def flashSp (cs : Nat) : Nat := 0x100 * (cs + 1)

/-- Slot A (false) or B (true) as R101 places it. -/
def imgOf (b : Bool) (c0 c1 : FlashCs) : Img :=
  if !b then ⟨flashSp 0, 0⟩ else if c1.fitted then ⟨flashSp 1, 0⟩ else ⟨flashSp 0, c0.density / 2⟩

/-- Is the chip select that holds the slot fitted? -/
def imgFitted (b : Bool) (c0 c1 : FlashCs) : Bool := if b && c1.fitted then true else c0.fitted

/-- A field of n bytes of the slot, little-endian. -/
def State.fw (s : State) (i : Img) (o n : Nat) : Nat := s.memN n i.sp (i.base + o)
/-- Bytes of the slot. -/
def State.fby (s : State) (i : Img) (o n : Nat) : List Nat := s.memBytes i.sp (i.base + o) n

/-- A section entry (R103). -/
structure Sect where
  typ : Nat
  ofs : Nat
  len : Nat
  dest : Nat
  digest : List Nat
  deriving DecidableEq, Repr

/-- ROLE of the image. -/
def State.imgRole (s : State) (i : Img) : Nat := s.fw i 0x012 1
/-- LENGTH of the image. -/
def State.imgLen (s : State) (i : Img) : Nat := s.fw i 0x00C 4
/-- NSECT. -/
def State.nSect (s : State) (i : Img) : Nat := s.fw i 0x010 2

/-- The section entries in use. -/
def State.sects (s : State) (i : Img) : List Sect :=
  (List.range (min 32 (s.nSect i))).map fun k =>
    let o := 0x020 + 48 * k
    ⟨s.fw i o 1, s.fw i (o + 4) 4, s.fw i (o + 8) 4, s.fw i (o + 12) 4, s.fby i (o + 16) 32⟩

/-- Check 5 (R106): 0 where the image passes. -/
def State.sigFail (s : State) (i : Img) : Nat :=
  let fu := s.dev.fuses
  let k := s.fw i 0x013 1
  if fu.prog = 0 then 0
  else if 4 ≤ k || !bit fu.prog k then 6
  else if bit fu.revoked k then 7
  else
    let pub := s.fby i 0x620 64
    let n := fun o => s.fw i o 32
    let dig := ((fu.digest.find? fun d => d.1 == k).map (·.2)).getD []
    let e := leNat (sha256 (s.fby i 0 0xF80)).reverse
    if sha256 pub = dig && ecdsaOk (n 0x620) (n 0x640) (n 0xF80) (n 0xFA0) e then 0 else 6

/-! ### The section table (R103, R104, R492) -/

/-- The DEST ranges of a section type. -/
def destRanges (t : Nat) : List (Nat × Nat) :=
  if t = 1 then [(0, 0x40000)] else if t = 2 then [(0, 0x4000)] else if t = 3 then [(0, 0x100000)]
  else if t = 4 then [(0, 0x5100), (0x10000, 0x15100)] else if t = 5 then [(0, 0x20000), (0x20000, 0x60000)]
  else if t = 6 then [(0, 0x10000)] else if t = 7 then [(0, 0x40000)] else if t = 8 then [(0, 0x1004)]
  else if t = 9 then [(0, 12)] else []

/-- Where a section of a type goes: its space and first address. -/
def destOf (t d : Nat) : Nat × Nat :=
  if t = 1 then (0x10, d) else if t = 2 then (0x11, d) else if t = 3 then (3, d)
  else if t = 4 then (if d < 0x10000 then (1, d) else (2, d - 0x10000))
  else if t = 5 then (if d < 0x20000 then (6, d) else (7, d - 0x20000))
  else if t = 6 then (0x12, d) else if t = 7 then (0x13, d) else if t = 8 then (0x14, d) else (0x15, d)

/-- Do two ranges of bytes meet? -/
def rangesMeet (a n b m : Nat) : Bool := 0 < n && 0 < m && a < b + m && b < a + n

/-- Does some section put code into the code range of Serif core d (R492)? -/
def holdsCode (l : List Sect) (d : Nat) : Bool :=
  l.any fun x => x.typ == 5 && x.dest < 0x20000 && rangesMeet x.dest x.len (d * 0x8000) 0x8000

/-- The section types that ROLE requires, and of each whether it may appear more than once (R104). -/
def required (role : Nat) : List Nat :=
  [1, 2, 8] ++ (if role = 1 then [3, 4, 7, 9] else if role = 2 then [4] else [6])

/-- Check 6. -/
def State.tableOk (s : State) (i : Img) : Bool :=
  let l := s.sects i
  let n := fun t => (l.filter fun x => x.typ == t).length
  1 ≤ s.nSect i && s.nSect i ≤ 32 &&
    l.all (fun x => 1 ≤ x.typ && x.typ ≤ 9 && x.ofs % 4096 == 0 && 4096 ≤ x.ofs && x.ofs + x.len ≤ s.imgLen i &&
      (destRanges x.typ).any fun r => r.1 ≤ x.dest && x.dest + x.len ≤ r.2) &&
    (required (s.imgRole i)).all (fun t => 1 ≤ n t) &&
    [1, 2, 3, 6, 7, 8, 9].all (fun t => n t ≤ 1) &&
    (l.zipIdx.all fun a => l.zipIdx.all fun b => a.2 == b.2 || !rangesMeet a.1.ofs a.1.len b.1.ofs b.1.len) &&
    [0, 1, 2, 3].all (fun d => holdsCode l d ||
      !(l.any fun x => x.typ == 5 && 0x20000 ≤ x.dest && rangesMeet x.dest x.len (0x20000 + d * 0x10000) 0x10000))

/-- Check 7: the first section whose digest fails. -/
def State.badDigest (s : State) (i : Img) : Option Nat :=
  (s.sects i).findIdx? fun x => sha256 (s.fby i x.ofs x.len) != x.digest

/-- The failure code of check k, 1 to 7, of a slot. -/
def State.imgFail (s : State) (i : Img) (fitted : Bool) (k : Nat) : Nat :=
  if k = 1 then (if fitted then 0 else 1)
  else if k = 2 then (if s.fw i 0 4 = 0x4F494C46 then 0 else 3)
  else if k = 3 then
    (let key := s.fw i 0x013 1
     let role := s.imgRole i
     if s.fw i 0x004 2 = 0x7160 && s.fw i 0x006 1 = 0xB0 && s.fw i 0x007 1 = 3 && s.fw i 0x014 4 ≠ 0 &&
        1 ≤ role && role ≤ 3 && (key < 4 || key = 0xFF) then 0 else 4)
  else if k = 4 then (if crc32 (s.fby i 0 0xF7C) = s.fw i 0xF7C 4 then 0 else 5)
  else if k = 5 then s.sigFail i
  else if k = 6 then (if s.tableOk i then 0 else 0xB)
  else (if (s.badDigest i).isSome then 8 else 0)

/-- The checks of a list in order: the code of the first that fails, or of the flash timeout. -/
def runChecks (stuck : Option Nat) (fail : Nat → Nat) (ks : List Nat) : Nat :=
  (ks.findSome? fun k =>
    let c := if stuck = some k then 0xA else fail k
    if c = 0 then none else some c).getD 0

/-! ### What an image brings -/

/-- Every section is written to its destination. -/
def State.loadSections (s : State) (i : Img) : State :=
  forEach (s.sects i) (fun x s =>
    let d := destOf x.typ x.dest
    s.putBytes d.1 d.2 (s.fby i x.ofs x.len)) s

/-- The registers whose fields the spec describes as coming from Folio: first offset, stride, count, and the mask of those fields. -/
def folioRows : List (Nat × Nat × Nat × Nat) := [
  (0x020060, 4, 4, 0xC703FFFF), (0x200010, 0x1000, 16, 0x00FFFE1F), (0x300010, 4, 1, 0xC01F0700),
  (0x40001C, 0x400, 160, 0xFE00FFFF), (0x600010, 0x200, 16, 0x00FF0000), (0x640010, 0x200, 12, 0xC60001FF),
  (0x640014, 0x200, 12, 0x000FFFFF), (0x660010, 4, 4, 0x800003FF), (0x660100, 0x20, 24, 0xEF1F01FF),
  (0x660104, 0x20, 24, 0x0003FFFF), (0x700010, 4, 1, 0x8000FFFF), (0x780010, 0x10000, 4, 0xE003FFFF),
  (0x780014, 0x10000, 4, 0x1FFF1FFF), (0x7F0014, 4, 1, 0x0000003F), (0x7F0100, 4, 1, 0x00008000),
  (0x7F0104, 4, 1, 0x8000000F)]

/-- The bits of a register that come from Folio. -/
def folioMask (a : Nat) : Nat :=
  ((folioRows.find? fun r => r.1 ≤ a && (a - r.1) % r.2.1 == 0 && (a - r.1) / r.2.1 < r.2.2.1).map (·.2.2.2)).getD 0

/-- One value of the device configuration record (R104). -/
def State.folioWord (x : Nat × Nat) (s : State) : State :=
  let m := folioMask x.1
  let w := s.raw x.1
  if m = 0 then s else s.putRaw x.1 ((w - (w &&& m)) + (x.2 &&& m))

/-- The destinations of some sections are cleared (R108 step 4). -/
def State.clearSections (s : State) (l : List Sect) : State :=
  s.keepMem fun c => !l.any fun x =>
    let d := destOf x.typ x.dest
    d.1 * p2 24 + d.2 ≤ c.1 && c.1 < d.1 * p2 24 + d.2 + x.len

/-- The configuration record takes effect, with what the device derives from it. -/
def State.applyConfig (s : State) (c : DevConfig) (l : List Sect) : State :=
  let s := { s with dev := { s.dev with cfg := c } }
  let s : State := forEach c.folio State.folioWord s
  let s : State := forEach (List.range 12) (fun b s =>
    let n := s.rd (R.PB_CFG.N.i b)
    if n = 0 then s else s.wr (R.PB_PER.PER.i b) (1000000 / n)) s
  let s : State := forEach c.rails.zipIdx (fun r s => if r.2 < 8 then s.wr (R.PWR_RAIL2.ADDR.j r.2) r.1 else s) s
  s.wr R.DCT_CFG.APER (((List.range 4).filter fun d => holdsCode l d && !s.periodic d).foldl (fun a d => a + p2 d) 0)

/-! ### Consistency (R107) -/

/-- The group of a slot as the image assigns it, defined or not. -/
def groupAx (c : DevConfig) (n : Nat) : Option Nat := (c.axisGroup.find? fun p => p.1 == n).map (·.2)

/-- The period of group g in ticks. -/
def State.rgPer (s : State) (g : Nat) : Nat := 31250 * s.rgN g

/-- Rule 6 on one channel: the ring timing rule of R311 and the rules of R336. -/
def State.ringRule (s : State) (ch : Nat) : Bool :=
  let h := s.sched ch
  let role := h 0x06 1
  if role = 0 || 4 < role then true
  else
    let len := h 0x10 2
    let segs := (List.range (min 1024 (h 0x12 2))).map (s.seg ch)
    let dual := fun a => (List.range (min 254 (h 0x07 1))).any fun k =>
      h (0x100 + 0x10 * k) 2 % 4096 == a && bit (h (0x100 + 0x10 * k) 2) 12
    (h 0x07 1 * 800 + len * 8 + 10000 + (h 0x14 2 - 500) * 10 ≤ h 0x08 4 * 10) &&
      segs.all (fun g => g.ofs + g.len + 4 ≤ len && (!g.essential || (g.alt != 0 && dual g.node))) &&
      (segs.zipIdx.all fun a => segs.zipIdx.all fun b => a.2 == b.2 || !rangesMeet a.1.ofs a.1.len b.1.ofs b.1.len)

/-- Rule k of R107 on a state that holds the loaded image. -/
def State.ruleOk (s : State) (role : Nat) (k : Nat) : Bool :=
  let c := s.dev.cfg
  let nj := fun ch => s.md (chO ch + 1) 1
  if k = 1 then
    c.axisGroup.all (fun p => p.1 < 160) &&
      s.md 4 2 ≤ 16 && s.md 6 2 ≤ 128 && (List.range 16).all (fun x => nj x ≤ 12) &&
        ((List.range 16).map nj).foldl (· + ·) 0 ≤ 128
  else if k = 2 then
    (List.range 4).all (fun g => !s.rgDef g || (1000 ≤ s.rgOfs g && s.rgOfs g + 1000 ≤ s.rgPer g)) &&
      c.axisGroup.all (fun p => p.2 < 4 && s.rgDef p.2)
  else if k = 3 then
    (List.range 160).all fun n => s.rd (R.AX_CLCFG.CL_EN.i n) != 1 ||
      (s.rd (R.AX_CLCFG.CL_PER.i n) < 3 && (match groupAx c n with
        | some g => s.rgPer g % s.clPer n == 0
        | none => false))
  else if k = 4 then
    (let lat := s.rd R.RUL_CFG.SOLVE_LAT
     1 ≤ lat && lat ≤ s.tsN && s.joints.all fun n => match groupAx c n with
       | some g => s.rgN g ≤ s.tsN
       | none => false)
  else if k = 5 then
    s.rd R.TWN_CFG.EN != 1 || ([0, 1].all fun ch => s.sched ch 0x06 1 == 0 || s.sched ch 0x08 4 ≤ 250000)
  else if k = 6 then s.ringRule 0 && s.ringRule 1
  else if k = 7 then role != 1 || (1 ≤ s.claimCfg && s.claimCfg ≤ 0xFFFE)
  else
    (List.range 16).all fun q =>
      match (s.slots q).map (groupAx c) with
      | [] => true
      | g :: t => g.isSome && t.all (· == g)

/-- The first rule of R107 that the image breaks; 0 for none. -/
def State.ruleFail (s : State) (role : Nat) : Nat :=
  ((List.range 8).map (· + 1)).find? (fun k => !s.ruleOk role k) |>.getD 0

/-! ### Retirements at BOOT (R425) -/

/-- LEFT of every group without its retired units. -/
def State.leftOver (s : State) : State :=
  forEach (List.range 11) (fun g s =>
    let gone := if g = 9 then s.spr.rows.length
      else (s.spr.retired.filter fun u =>
        if g < 4 then u / 4096 == 1 && u % 4096 / 42 == g else if g < 8 then u / 4096 == 2 && u % 4096 / 17 == g - 4
        else if g = 8 then u / 4096 == 3 else u / 4096 == 9).length
    s.wr (R.SPR_GROUP.LEFT.j g) (spareTotal g - gone)) s

/-- Every retirement is re-applied: slots, logical tiles and channels whose unit is retired take a free spare. -/
def State.applyRetired (s : State) : State :=
  let s := { s with spr := { s.spr with laneDead := [], chanDead := [], samp := [], tiles := [], swap := [] } }
  let s : State := forEach ((List.range 160).filter fun n => s.spr.retired.contains (uLane (s.rd (R.AX_MAP.PHYS.i n)))) (fun n s =>
    match s.freeLane (n / 40) with
    | some p => s.wr (R.AX_MAP.PHYS.i n) p
    | none => { s with spr := { s.spr with laneDead := n :: s.spr.laneDead } }) s
  let s : State := forEach ((List.range 64).filter fun i => s.spr.retired.contains (uTile (17 * (i / 16) + i % 16))) (fun i s =>
    let q := i / 16
    if s.unitGone (uTile (17 * q + 16)) || (List.range 16).any (fun t => tget t s.spr.tiles (16 * q + t) == 16) then s
    else { s with spr := { s.spr with tiles := tput (i % 16) s.spr.tiles i 16 } }) s
  let s : State := forEach ((List.range 16).filter fun k => s.spr.retired.contains (uSamp k)) (fun k s =>
    match s.freeSamp with
    | some p => { s with spr := { s.spr with samp := (k, p) :: s.spr.samp } }
    | none => { s with spr := { s.spr with chanDead := k :: s.spr.chanDead } }) s
  s.leftOver

/-- RUL_TILE of the quadrants in use. -/
def State.showTiles (s : State) : State :=
  forEach ((List.range 4).filter s.dom) (fun q s =>
    let carried := (List.range 16).any fun t => tget t s.spr.tiles (16 * q + t) == 16
    let lost := (List.range 16).find? fun t => s.unitGone (uTile (17 * q + tget t s.spr.tiles (16 * q + t)))
    let s := (s.wr (R.RUL_TILE.IN_USE.j q) 1).wrB (R.RUL_TILE.SPARE_USED.j q) carried
    match lost with
    | none => s
    | some t => (s.wr (R.RUL_TILE.SHORT.j q) 1).wr (R.RUL_TILE.OUT.j q) t) s

/-! ### Domains (R476) -/

/-- The domains that are on from PLL lock. -/
def lockDoms : Nat := p2 15 + p2 20 + p2 22 + p2 23

/-- Does the image use domain d? -/
def State.usesDom (s : State) (role : Nat) (l : List Sect) (d : Nat) : Bool :=
  let quad := fun q => s.dev.cfg.axisGroup.any fun p => p.1 / 40 == q
  if d < 4 then role == 1 && !s.joints.isEmpty && d < s.rd R.RUL_CFG.QUADS
  else if d < 8 then quad (d - 4)
  else if d < 10 then role == 1
  else if d = 10 then (List.range 16).any fun c => 0 < s.nax c
  else if d < 15 then holdsCode l (d - 11)
  else if d = 16 then (List.range 4).any quad
  else if d = 17 || d = 18 then (let r := s.sched (d - 17) 0x06 1; 1 ≤ r && r ≤ 4)
  else if d = 19 then s.rd R.TWN_CFG.EN == 1
  else if d = 21 then s.dev.cfg.fbMask != 0 || s.dev.cfg.pbMask != 0 || s.dev.cfg.sdMask != 0
  else bit lockDoms d

/-! ### Acceptance (R108 step 5) -/

/-- The preset list (section type 0x06). -/
def State.presets (s : State) (l : List Sect) : List (Nat × Nat) :=
  (l.filter fun x => x.typ == 6).flatMap fun x =>
    (List.range (x.len / 8)).map fun k => (s.mem32 0x12 (x.dest + 8 * k), s.mem32 0x12 (x.dest + 8 * k + 4))

/-- A preset goes to both sides of its register, or to the field itself where it is not shadowed; nothing where the domain is off (R108, R492). -/
def State.presetWord (x : Nat × Nat) (s : State) : State :=
  match locate x.1 with
  | none => s
  | some l =>
    if l.off = 4 then s.headerWrite l x.2
    else if 0x10 ≤ l.off && s.reachable l then s.storeBoth none x.1 x.2 else s

/-- A Separation or Margin parameter of section type 0x07 goes to its shadow, and to the field itself where it is not shadowed (R492); a shadow so written awaits a copy. -/
def State.paramWord (x : Nat × Nat) (s : State) : State :=
  match locate x.1 with
  | none => s
  | some l => if 0x10 ≤ l.off && s.reachable l then s.plainMask none x.1 x.2 0xFFFFFFFF true else s

/-- The solver formats of section type 0x09 (R184). -/
def State.applyFormats (s : State) (l : List Sect) : State :=
  if !s.dom 0 then s
  else
    forEach (l.filter fun x => x.typ == 9) (fun x s =>
      forEach ((List.range 12).filter fun b => x.dest ≤ b && b < x.dest + x.len) (fun b s =>
        let m := s.mem8 0x15 b
        if 2 ≤ m && m ≤ 24 then s.wr (R.RUL_FMT.INT.j b) m
        else (s.wr (R.RUL_FMT.INT.j b) (fmtDefault b)).wr R.RUL_STAT.FMT_DEFAULTED 1) s) s

/-- PAIR_SIG (R354). -/
def pairSig (l : List Sect) : Nat :=
  (l.filter fun x => x.typ == 3 || x.typ == 7 || x.typ == 9).foldl (fun a x => Nat.xor a (leNat (x.digest.take 4))) 0

/-- V_BASE is written to the core regulators and read back (R457). -/
def State.setVbase (s : State) (ok : Bool) : State :=
  let s := s.setCode (s.rd R.PWR_VID.CODE)
  if ok then s.wr R.PWR_PMB.BASE_DONE 1
  else
    let s := (s.flag R.PWR_VID.VBASE_ERR).wr R.PWR_PMB.BASE_DONE 0
    let s := { s with pwr := { s.pwr with vbad := true } }
    if s.rd R.PWR_VID.TARGET == 63 then s else s.targetTop

/-- The transfer mode of a chip select (R100): 8D-8D-8D read is not supported while bank B1 is at 3.3 V (R466). -/
def State.xferMode (s : State) (c : FlashCs) : Nat :=
  if c.octal && !bit (s.rd R.DEV_BANK.V33) 1 then 2 else if c.quad then 1 else 0

/-- A state that holds an image, before its domains are on. -/
def State.candidate (s : State) (i : Img) (c : DevConfig) : State := (s.loadSections i).applyConfig c (s.sects i)

/-- The image of slot b is accepted: REF_SEL, domains, tables, presets to active, Scribe from the image; LISTEN follows at the next rim clock. -/
def State.acceptImage (s : State) (b : Bool) (i : Img) (env : LoadEnv) : State :=
  let l := s.sects i
  let role := s.imgRole i
  let s := s.candidate i (if b then env.recB else env.recA)
  let s := s.storeWord none R.TB_CTRL.REF_SEL.addr (setBits (s.rdw R.TB_CTRL.REF_SEL.addr) 31 30 s.dev.cfg.refSel) true
  let s := s.wr R.PWR_DOM.ON (((List.range 24).filter (s.usesDom role l)).foldl (fun a d => a + p2 d) 0)
  let s : State := forEach [0, 1] (fun ch s =>
    let s := s.takeTables ch
    if s.dom (17 + ch) then s.wrBoth (R.IKL_MON.DM_EXP.i ch) (s.sched ch 0x17 1) else s) s
  let s := s.applyFormats l
  let s : State := forEach (s.presets l) State.presetWord s
  let s : State := forEach s.dev.cfg.params State.paramWord s
  let s := s.showTiles
  let s : State := if s.dom 21 then forEach s.spr.chanDead (fun k s =>
      ((s.wr (R.FB_STAT.FAULT.i k) 1).wr (R.FB_STAT.LOST.i k) 1).wr (R.FB_STAT.CAUSE.i k) 0) s else s
  let s : State := forEach [0, 1, 2, 3] (fun d s => if s.dom (11 + d) then s.showSerif d else s) s
  let s := if s.dom 19 then s.wr R.TWN_SIG.PAIR_SIG (pairSig l) else s
  let s := s.setVbase env.voutOk
  let s := (s.wr R.MOD_STATE.SLOT (if b then 2 else 1)).wr R.MOD_STATE.ROLE role
  let s := (s.wrB R.MOD_STAT.UNSIGNED (s.dev.fuses.prog == 0)).wr R.MOD_STAT.FOLIO_NONE 0
  let s := s.wr R.FOLIO_STAT.XFER (s.xferMode (if b && env.cs1.fitted then env.cs1 else env.cs0))
  let s := (s.wr R.SCR_RST.ROM 0).after 1
  let s := (s.listenCh 0).listenCh 1
  (s.modeChange 1 false).wrU R.BOOT_TIME.US (s.tb.boot / 1000)

/-! ### The loader (R105, R108, R109) -/

/-- What the checks of a slot found: the failure code, the rule of R107 or the section that failed, and how many sections were written to their destinations. -/
structure Found where
  code : Nat
  rule : Nat
  sect : Nat
  put : Nat
  deriving DecidableEq, Repr

/-- Where a slot's flash stops answering: told with the load, or by the timeout of the slot. -/
def State.toOf (s : State) (b : Bool) (env : LoadEnv) : Option Nat :=
  let t := if b then env.toB else env.toA
  if bit s.dev.flashTo (b2n b) then some (t.getD 1) else t

/-- Checks 1 to 5 of a slot. -/
def State.headCheck (s : State) (b : Bool) (env : LoadEnv) : Nat :=
  runChecks (s.toOf b env) (s.imgFail (imgOf b env.cs0 env.cs1) (imgFitted b env.cs0 env.cs1)) [1, 2, 3, 4, 5]

/-- Checks 6 to 8 of a slot, on the candidate state. -/
def State.bodyCheck (s : State) (b : Bool) (env : LoadEnv) : Found :=
  let i := imgOf b env.cs0 env.cs1
  let c := runChecks (s.toOf b env) (s.imgFail i true) [6, 7]
  let n := (s.sects i).length
  if c = 8 then (let k := (s.badDigest i).getD 0; ⟨c, 0, k, k + 1⟩)
  else if c ≠ 0 then ⟨c, 0, 0, if s.toOf b env = some 7 && c = 0xA then n else 0⟩
  else if s.toOf b env = some 8 then ⟨0xA, 0, 0, n⟩
  else
    let k := (s.candidate i (if b then env.recB else env.recA)).ruleFail (s.imgRole i)
    ⟨if k = 0 then 0 else 9, k, 0, n⟩

/-- ERR of a slot. -/
def errF (b : Bool) : Fld := if b then R.FOLIO_STAT.ERR_B else R.FOLIO_STAT.ERR_A

/-- The result of checks 6 to 8 is recorded; a failure clears every destination written. -/
def State.recordFound (s : State) (b : Bool) (i : Img) (f : Found) : State :=
  let s := if f.code = 0 then s else s.clearSections ((s.sects i).take f.put)
  let s := s.wr (errF b) f.code
  let s := if f.code = 9 then s.wr R.FOLIO_DIAG.CHECK f.rule else s
  if f.code = 8 then s.wr R.FOLIO_DIAG.SECT f.sect else s

/-- FALLBACK sets, and the fallback is journalled. -/
def State.fallback (s : State) : State := (s.flag R.MOD_STAT.FALLBACK).journal 10 0 true noUnit

/-- No slot yields an image (R109): FOLIO_NONE, and Scribe runs its on-die firmware. -/
def State.noImage (s : State) : State :=
  ((s.wr R.MOD_STAT.FOLIO_NONE 1).wr R.SCR_RST.ROM 1).journal 10 1 true noUnit

/-- The header of a slot is checked and recorded: its code and its SEQ. -/
def State.headRecord (s : State) (b : Bool) (env : LoadEnv) : State :=
  let i := imgOf b env.cs0 env.cs1
  let seen := runChecks (s.toOf b env) (s.imgFail i (imgFitted b env.cs0 env.cs1)) [1, 2] == 0
  (s.wr (errF b) (s.headCheck b env)).wr (if b then R.FOLIO_SEQ_B.SEQ else R.FOLIO_SEQ_A.SEQ) (if seen then s.fw i 8 4 else 0)

/-- Both slots' heads checked and recorded (R108 step 1). -/
def State.headsDone (s : State) (env : LoadEnv) : State :=
  let s := { s with dev := { s.dev with envA := env.cs0, envB := env.cs1 } }
  let s := (s.putRaw R.FOLIO_STAT.CS1.addr (s.xferMode env.cs0 * p2 10 + b2n env.cs1.fitted * p2 9)).putRaw R.FOLIO_DIAG.CHECK.addr 0
  (s.headRecord false env).headRecord true env

/-- The load of one BOOT (R108). DESIGN CHOICE (log 65): FALLBACK sets in step 4 only where another slot is loaded; with no image in use it stays as it is. -/
def State.loadFolio (s : State) (env : LoadEnv) : State :=
  let s := s.headsDone env
  let okA := s.headCheck false env == 0
  let okB := s.headCheck true env == 0
  let pref := s.rd R.MOD_CFG.SLOT_PREF
  let seqB := s.rd R.FOLIO_SEQ_A.SEQ < s.rd R.FOLIO_SEQ_B.SEQ
  if !okA && !okB then s.noImage
  else
    let first := if pref = 1 then !okA else if pref = 2 then okB else if okA && okB then seqB else okB
    let s := if (pref = 1 && first) || (pref = 2 && !first) then s.fallback else s
    let f := s.bodyCheck first env
    let s := s.recordFound first (imgOf first env.cs0 env.cs1) f
    if f.code = 0 then s.acceptImage first (imgOf first env.cs0 env.cs1) env
    else
      let other := !first
      if (if other then okB else okA) then
        let s := s.fallback
        let g := s.bodyCheck other env
        let s := s.recordFound other (imgOf other env.cs0 env.cs1) g
        if g.code = 0 then s.acceptImage other (imgOf other env.cs0 env.cs1) env else s.noImage
      else s.noImage

/-- FOLIO_LOAD_COMPLETE (R108 to R110). -/
def execFolioLoadComplete (dt : Nat) (env : LoadEnv) (s : State) : Res :=
  let s := s.after dt
  .next (if s.alive && s.tb.run && s.mode = 0 && s.rd R.MOD_STAT.FOLIO_NONE = 0 then s.loadFolio env else s)

/-- FLASH_TIMEOUT (R101): the attempt on a slot (0 A, 1 B) ends. -/
def execFlashTimeout (dt slot : Nat) (s : State) : Res :=
  let s := s.after dt
  needs (slot < 2) (if s.alive && s.tb.run && s.mode = 0 && s.rd R.MOD_STAT.FOLIO_NONE = 0 then
    { s.wr (errF (slot == 1)) 0xA with dev := { s.dev with flashTo := s.dev.flashTo ||| p2 slot } }
  else s)

end Sys2Proof.Machine
end

