-- ==== Sys2Proof/Machine/Modes.lean ====
section
/-! DEFINITION. Resets, PLL lock and the mode requests (R96 to R98, R111 to R113, R458, R471, R476, R493). -/

namespace Sys2Proof.Machine

/-! ### Resets (R96, R97) -/

/-- The bits of a stored word that a warm reset keeps: STKY bits of the word itself, W1T fields of it and of its copies, SLOT_PREF, and the strapped I²C address. -/
def keepWarm (k : Nat) : Nat :=
  let a := k % barSize
  let sticky := match Sys2Proof.Machine.rowAt a with
    | none => 0
    | some r => r.fs.foldl (fun m f => if f.w1t || (f.acc = .stky && k = a) then m ||| ((p2 (f.hi + 1 - f.lo) - 1) * p2 f.lo) else m) 0
  if k = R.MOD_CFG.SLOT_PREF.addr then 3
  else if k = R.DEV_I2C.ADDR.addr then sticky ||| 0x7F
  else sticky

/-- The bits of a stored word that every reset keeps: the part number and the serial are fused. -/
def keepAll (k : Nat) : Nat := if 0x10 ≤ k && k < 0x1C then 0xFFFFFFFF else 0

/-- The word at a after a reset that finds v there. -/
def resetWord (por : Bool) (a v : Nat) : Option Nat :=
  let m := if por then keepAll a else keepAll a ||| keepWarm a
  let d := regDef a
  some ((d - (d &&& m)) + (v &&& m))

/-- A reset begins, or a further source acts in it (R96, R97): the cause bits of the sources of this reset, and every register, memory and unit at its reset state but for the flash, the fuses, the Blotter, the retirements recorded in it, and what the class keeps. -/
def State.enterReset (s : State) (por : Bool) (cause : Nat) : State :=
  let c := (if s.dev.inReset then s.dev.cause else 0) ||| p2 cause
  let all := por || (s.dev.inReset && s.dev.por)
  let s := ((if por then s.tearWrite else s).soutsOff.ballsQuit.mapRegs (resetWord all)).keepMem fun x => p2 32 ≤ x.1
  let z := State.reset
  let s : State := { z with
    regs := s.regs
    mem := s.mem
    dev := { z.dev with
      inReset := true, por := all, cause := c, fuses := s.dev.fuses,
      w1t := if all then [] else s.dev.w1t, jtag := s.dev.jtag, bsr := s.dev.bsr }
    blt := { s.blt with merge := [], queue := [], held := [] }
    spr := { z.spr with
      retired := s.spr.retired, rows := s.spr.rows, rowStuck := s.spr.rowStuck,
      serifDead := s.spr.serifDead, scribeDead := s.spr.scribeDead }
    ring := { z.ring with lfsr := if all then none else s.ring.lfsr }
    pwr := { z.pwr with vbad := if all then false else s.pwr.vbad }
    free := s.free
    out := s.out
    pending := s.pending }
  s.putRaw 0x104 c

/-- POWER_ON_RESET_SUPPLY (R97). -/
def execPowerOnResetSupply (dt : Nat) (s : State) : Res := .next ((s.after dt).enterReset true 0)

/-- PORST_N (R97): low for at least 1 µs. -/
def execPorstN (dt : Nat) (s : State) : Res := .next ((s.after dt).enterReset true 1)

/-- RST_N (R97): low for at least 1 µs. -/
def execRstN (dt : Nat) (s : State) : Res := .next ((s.after dt).enterReset false 2)

/-- A software request for a warm reset (R97, R455). -/
def State.softReset (s : State) : State := if s.alive then s.enterReset false 3 else s

/-- A write of DEV_CTRL (R97): WARM_RST under the key. -/
def State.devCtrlWrite (s : State) (src : Src) (v : Nat) : State :=
  s.keyed src R.DEV_CTRL.WARM_RST.addr fun s => if bit v 31 then s.softReset else s

/-- WARM_RST (R97). -/
def execWarmRst (dt : Nat) (src : Src) (value : Nat) (s : State) : Res :=
  let s := s.after dt
  needs (isWord value) (if src != .ring && s.srcUp src then s.devCtrlWrite src value else s)

/-- CORE_SUPERVISOR (R97): out of reset only. -/
def execCoreSupervisor (dt : Nat) (s : State) : Res :=
  let s := s.after dt
  .next (if s.alive then s.enterReset false 4 else s)

/-- RESET_RELEASE (R97, R112, R453): the device enters BOOT; a power-on reset samples the address straps of the I²C target. -/
def execResetRelease (dt straps : Nat) (s : State) : Res :=
  let s := s.after dt
  needs (straps < 8) (if s.dev.inReset then
    let s := if s.dev.por then s.wr R.DEV_I2C.ADDR (0x30 + straps) else s
    { s with dev := { s.dev with inReset := false, por := false, cause := 0 }, tb := { s.tb with boot := 0 } }
  else s)

/-! ### The PLL (R98, R456, R458, R471, R476, R481) -/

/-- The VID bus is driven with the boot code at once (R481). -/
def State.driveVid (s : State) : State :=
  let s := { s.setCode 63 with pwr := { s.pwr with driven := true } }
  let s := if s.rd R.PWR_VID.TARGET = 63 then s else s.targetTop
  forEach (List.range 6) (fun i s => s.emit (.edge outVid i s.now 0 (bit (Nat.xor 63 31) i))) s

/-- The number of the next journal entry: one after the last entry that is stored. -/
def State.nextEntry (s : State) : Nat := match s.blt.log.getLast? with | some e => add32 e.seq 1 | none => 0

/-- What follows the first PLL lock after a reset: the domains on from lock, the journal's counts, the retirements (R425, R438, R440). -/
def State.firstLock (s : State) : State :=
  let s := (s.wr R.PWR_DOM.ON lockDoms).driveVid
  let s := { s with dct := { s.dct with kick := s.tb.rim } }
  let s := s.skipTorn
  let s := s.wr R.BLT_HEAD.SEQ s.nextEntry
  (s.restoreHours.showBlt).applyRetired

/-- PLL_LOCK (R98, R471): LIVE toggles from here; the first lock after a reset starts the device, a relock lets it go on. -/
def execPllLock (dt : Nat) (s : State) : Res :=
  let s := s.after dt
  .next (if s.alive && !s.tb.run then
    let s := { s with tb := { s.tb with run := true, coast := none } }
    let s := if s.dom 15 then s else s.firstLock
    s.wrB R.LIVE_STAT.RUNNING s.liveRuns
  else s)

/-- PLL_LOCK_LOSS (R72, R458): the rim clock stops and LIVE is static. -/
def execPllLockLoss (dt : Nat) (s : State) : Res :=
  let s := s.after dt
  .next (if s.tb.run then
    { s with tb := { s.tb with run := false, coast := none } }.wr R.LIVE_STAT.RUNNING 0
  else s)

/-! ### Requests (R112, R113) -/

/-- A mode request is refused for a reason. -/
def State.refuseReq (s : State) (reason : Nat) : State := (s.flag R.MOD_STAT.REQ_REFUSED).wr R.MOD_STAT.REASON reason

/-- Is a cause of HOLD active: the solver's, the protective stop, or an axis fault with device-hold reaction (R112, R113)? -/
def State.holdActive (s : State) : Bool :=
  s.rd R.RUL_STAT.HOLD_CAUSE == 1 || s.mgn.pstop ||
    (s.lanes.any fun x => s.rd (R.AX_STAT.FAULT.i x.1) == 1 &&
      (List.range 6).any fun c => bit x.2.raised c && (s.reaction x.1 c).2)

/-- Is the request of a code in the table of R112 for the present mode? SERVICE also asks for an enabling-device input (R224). -/
def State.reqAllowed (s : State) (code : Nat) : Bool :=
  let m := s.mode
  if code = 1 then m == 2 || m == 4 || m == 5 || m == 7
  else if code = 2 then m == 6
  else if code = 3 then (m == 1 || m == 6) && (List.range 8).any fun i => s.sinFunc i == 3
  else if code = 4 then m == 7
  else if code = 5 then m == 1 || m == 6 || m == 7 || (m == 0 && s.rd R.MOD_STAT.FOLIO_NONE == 1)
  else code == 6 && s.roleMode == 2 && s.claim != 0

/-- Does a HOLD request replace the pending transition: one that does not lead to HOLD and is no surrender (R113)? -/
def State.reqReplaces (s : State) (code : Nat) : Bool :=
  code == 1 && s.reqAllowed 1 && !s.dev.surrender && s.rd R.MOD_STATE.PEND != 6

/-- An accepted request takes effect or becomes pending. -/
def State.takeReq (s : State) (code : Nat) : State :=
  let s := { s with log := { s.log with wrote := R.MOD_REQ.CODE.key :: s.log.wrote } }
  if code = 1 then (s.enterMode 6 false).clearPend.healthCheck
  else if code = 2 then s.setPend s.from_ 1 s.now
  else if code = 3 then s.setPend 7 1 s.now
  else if code = 4 then s.setPend (if s.from_ = 1 then 1 else 6) 1 s.now
  else if code = 5 then s.setPend 0 3 (s.tb.rim + 1000)
  else s.surrenderNow 0 true

/-- A mode request: the refusals of R113 in their order. -/
def State.modReq (s : State) (code : Nat) : State :=
  if s.log.trig then s.refuseReq 1
  else if s.log.wrote.contains R.MOD_REQ.CODE.key || (s.rd R.MOD_STATE.PEND != 0xF && !s.reqReplaces code) then s.refuseReq 2
  else if !s.reqAllowed code then s.refuseReq 3
  else if code = 2 && s.holdActive then s.refuseReq 4
  else s.takeReq code

/-- A write of MOD_REQ under the key. -/
def State.modReqWrite (s : State) (src : Src) (code : Nat) : State :=
  s.keyed src R.MOD_REQ.CODE.addr fun s => s.modReq code

/-- A mode request of a source. -/
def reqOf (dt : Nat) (src : Src) (code : Nat) (s : State) : State :=
  let s := s.after dt
  if src != .ring && s.srcUp src then s.modReqWrite src code else s

/-- HOLD (R112). -/
def execHold (dt : Nat) (src : Src) (s : State) : Res := .next (reqOf dt src 1 s)
/-- HOLD_EXIT (R112). -/
def execHoldExit (dt : Nat) (src : Src) (s : State) : Res := .next (reqOf dt src 2 s)
/-- SERVICE (R112, R224). -/
def execService (dt : Nat) (src : Src) (s : State) : Res := .next (reqOf dt src 3 s)
/-- SERVICE_EXIT (R112). -/
def execServiceExit (dt : Nat) (src : Src) (s : State) : Res := .next (reqOf dt src 4 s)
/-- RELOAD (R112). -/
def execReload (dt : Nat) (src : Src) (s : State) : Res := .next (reqOf dt src 5 s)
/-- SURRENDER (R368). -/
def execSurrender (dt : Nat) (src : Src) (s : State) : Res := .next (reqOf dt src 6 s)

/-- MOD_REQ_UNDEFINED (R113): a code other than 1 to 6. -/
def execModReqUndefined (dt : Nat) (src : Src) (code : Nat) (s : State) : Res :=
  needs (code < 16 && (code == 0 || 6 < code)) (reqOf dt src code s)

/-! ### RELOAD (R112, R476, R477, R493) -/

/-- Does a domain switch off at the entry into BOOT? -/
def reloadOff (d : Nat) : Bool := d != 0xFF && !bit lockDoms d

/-- A stored word over the entry into BOOT by RELOAD: registers of the domains that switch off go to their reset values; the headers, held in AON, stay without DIRTY. -/
def reloadWord (a v : Nat) : Option Nat :=
  match locate (a % barSize) with
  | none => some v
  | some l =>
    if l.off < 0x10 then some (if reloadOff l.domain then setBits v 29 29 0 else v)
    else if reloadOff l.needs then none else some v

/-- The device enters BOOT from an operating mode: the operating state of the image ends. -/
def State.reloadNow (s : State) : State :=
  let s := (s.ballsQuit.enterMode 0 false).clearPend.switchDomain false
  let s := (s.wr R.TB_CTRL.L_SRC 0).wr R.TB_CTRL.P_SRC 0
  let s := s.dropMembers fun h => match locate h with | some l => reloadOff l.domain | none => false
  let s := (s.mapRegs reloadWord).keepMem fun x => p2 32 ≤ x.1 || x.1 / p2 24 == 5 || x.1 / p2 24 == 0x10 || x.1 / p2 24 == 0x11
  let s : State := { s with
    serifs := State.reset.serifs, gens := State.reset.gens, queues := State.reset.queues, idxN := State.reset.idxN, rul := State.reset.rul, mgn := State.reset.mgn, lanes := State.reset.lanes
    ink := State.reset.ink, delta := State.reset.delta, fbs := State.reset.fbs, pbs := State.reset.pbs, sds := State.reset.sds
    app := State.reset.app, chans := State.reset.chans, ring := State.reset.ring, twin := State.reset.twin
    tb := { s.tb with boot := 0, ppsRef := none, ppsRun := 0 }
    dev := { s.dev with rgIn := false, cfg := .empty, flashTo := 0 } }
  let s := s.wr R.PWR_DOM.ON lockDoms
  let s := ((s.wr R.MOD_STATE.SLOT 0).wr R.MOD_STATE.ROLE 0).wr R.MOD_STAT.FOLIO_NONE 0
  let s := (s.wr R.MOD_STAT.UNSIGNED 0).wrB R.LIVE_STAT.RUNNING s.liveRuns
  let s := if s.rd R.PWR_VID.TARGET == 63 then s else s.targetTop
  s.applyRetired

/-- RELOAD_TRANSITION (R112, R493): 1 µs after the request. -/
def execReloadTransition (s : State) : Res :=
  .next (if s.alive && s.tb.run && s.dev.pendKind = 3 && s.rd R.MOD_STATE.PEND = 0 then (s.runRim s.dev.pendAt).reloadNow else s)

end Sys2Proof.Machine
end

