-- ==== Sys2Proof/Machine/Bus.lean ====
section
/-! DEFINITION. The host link, interrupts, the I²C target and the PMBus controller (spec/18_host_and_sideband.md, R445 to R457). -/

namespace Sys2Proof.Machine

/-! ### The link (R446, R451) -/

/-- Pending messages whose last condition has ended are sent, unless their status bit has been cleared (R451). -/
def State.flushMsix (s : State) : State :=
  forEach (List.range 64) (fun v s =>
    if s.rd (pbaBit v) = 1 && s.msixOpen v then
      (let s := s.wr (pbaBit v) 0
       if s.rd (intStat v) = 1 then s.emit (.msix v) else s)
    else s) s

/-- PCIE_RESET (R446): PERST_N, a hot reset or a link-down event resets the endpoint and its configuration space only. -/
def execPcieReset (dt : Nat) (s : State) : Res :=
  let s := s.after dt
  .next { s with bus := { s.bus with link := false, msixEn := false, fmask := false } }

/-- PCIE_LINK_UP (R98, R446): the link trains from BOOT on. -/
def execPcieLinkUp (dt : Nat) (s : State) : Res :=
  let s := s.after dt
  .next (if s.alive && s.dom 20 then { s with bus := { s.bus with link := true } }.flushMsix else s)

/-! ### Interrupts (R450 to R452) -/

/-- A write of INT_STATn clears the bits written 1, but for those set on this tick; an event that found its bit set on this tick leaves it at 1 and sends a new message (R54, R452). -/
def State.intStatWrite (s : State) (n v : Nat) : State :=
  let a := 0x300 + 4 * n
  let set := s.setsOf a
  let again := (List.range 32).filter fun i => bit v i && s.log.ints.contains (32 * n + i)
  let keep := again.foldl (fun m i => m ||| p2 i) set
  let w := s.raw a
  let s := s.putRaw a (w - (w &&& (v - (v &&& keep))))
  let s : State := forEach again (fun i s => if s.rd (intEn (32 * n + i)) = 1 then s.message (32 * n + i) else s) s
  { s with log := { s.log with ints := s.log.ints.filter fun x => !(x / 32 == n && bit v (x % 32)) } }

/-- A write of INT_ENn: a bit written 1 while its status bit is 1 generates a message (R451). -/
def State.intEnWrite (s : State) (n v : Nat) : State :=
  let s := s.putRaw (0x308 + 4 * n) v
  forEach ((List.range 32).filter fun i => bit v i) (fun i s =>
    if s.rd (intStat (32 * n + i)) = 1 then s.message (32 * n + i) else s) s

/-- INT_STAT_CLEAR (R450, R452). -/
def execIntStatClear (dt : Nat) (src : Src) (n value : Nat) (s : State) : Res :=
  let s := s.after dt
  needs (n < 2 && isWord value) (if src != .ring && s.srcUp src then s.intStatWrite n value else s)

/-- INT_EN_WRITE (R451). -/
def execIntEnWrite (dt : Nat) (src : Src) (n value : Nat) (s : State) : Res :=
  let s := s.after dt
  needs (n < 2 && isWord value) (if src != .ring && s.srcUp src then (s.mirrorWrite (0x308 + 4 * n) value).intEnWrite n value else s)

/-- A write of the vector control word of the MSI-X table. -/
def State.msixCtrlWrite (s : State) (v w : Nat) : State := (s.wr (R.MSIX_CTRL.MASK.j v) (w % 2)).flushMsix

/-- MSIX_UNMASK (R451): the host clears the mask of vector v (0) or of the function (1), or enables MSI-X (2). -/
def execMsixUnmask (dt how v : Nat) (s : State) : Res :=
  let s := s.after dt
  needs (how < 3 && isVec v) (if s.srcUp .host then
    (if how = 0 then (s.mirrorWrite (R.MSIX_CTRL.MASK.j v).addr 0).msixCtrlWrite v 0
     else { s with bus := if how = 1 then { s.bus with fmask := false } else { s.bus with msixEn := true } }.flushMsix)
  else s)

/-! ### The I²C target (R453 to R455) -/

/-- The address of the target. -/
def State.i2cAddr (s : State) : Nat := s.rd R.DEV_I2C.ADDR

/-- The status word of command 0x03. -/
def State.i2cStatus (s : State) : Nat :=
  let dec := s.peek .host R.MGN_STAT.DECISION.addr
  let twn := s.peek .host R.TWN_STAT.READY.addr
  b2n s.replaceAdvise + 2 * b2n s.sprFails + 4 * bits dec R.MGN_STAT.DECISION.hi R.MGN_STAT.DECISION.lo +
    16 * bits twn R.TWN_STAT.READY.hi R.TWN_STAT.READY.lo + 32 * bits twn R.TWN_STAT.LINK_UP.hi R.TWN_STAT.LINK_UP.lo +
    64 * s.rd R.MOD_STAT.FOLIO_NONE + 128 * s.rd R.SCR_RST.ROM + 256 * s.rd R.SCR_SHED.LEVEL

/-- The bytes of a command (R454). -/
def State.i2cBytes (s : State) (c : Nat) : List Nat :=
  let w := fun a => leBytes 4 (s.peek .host a)
  if c = 0 then w 0x10
  else if c = 1 then leBytes 6 s.serial
  else if c = 2 then w 0x30010
  else if c = 3 then leBytes 2 s.i2cStatus
  else if c = 4 then leBytes 2 (s.rd R.PWR_TEMP.HOT)
  else if c = 5 then w 0x7F0100
  else if c = 6 then w 0x7C0094 ++ w 0x7C0098
  else if c = 7 then w 0x7C0104 ++ w 0x7C0100
  else []

/-- I2C_COMMAND (R454): a write of a command byte, whose data are captured together, and of the bytes after it; a PEC of the master that fails is noted. -/
def execI2cCommand (dt byte : Nat) (data : List Nat) (pecOk : Bool) (s : State) : Res :=
  let s := s.after dt
  needs (byte < 256 && data.all (· < 256)) (
    if !s.alive then s
    else if 7 < byte && byte ≠ 0x10 then { s.emit .i2cNack with bus := { s.bus with idle := true, snap := [] } }
    else
      let s := if pecOk || data.isEmpty then s else s.flag R.DEV_I2C.PEC_SEEN
      { s with bus := { s.bus with cmd := byte, snap := s.i2cBytes byte, idle := false } })

/-- I2C_READ (R454): n bytes of the command, its PEC over the whole transaction, and 0xFF after it. -/
def execI2cRead (dt n : Nat) (s : State) : Res :=
  let s := s.after dt
  .next (if s.alive then
    let a := s.i2cAddr
    let d := if s.bus.idle then s.i2cBytes 0 else s.bus.snap
    let head := if s.bus.idle then [2 * a + 1] else [2 * a, s.bus.cmd, 2 * a + 1]
    let l := d ++ [crc8 (head ++ d)]
    let s := s.emit (.i2c ((List.range n).map fun i => l.getD i 0xFF))
    { s with bus := { s.bus with idle := true, snap := [] } }
  else s)

/-- I2C_WARM_RESET (R455): command 0x10 with its two data bytes, at the STOP condition. -/
def execI2cWarmReset (dt d0 d1 : Nat) (s : State) : Res :=
  let s := s.after dt
  needs (d0 < 256 && d1 < 256) (if s.alive then
    let s := { s with bus := { s.bus with idle := true, snap := [] } }
    if s.rd R.DEV_I2C.RST_EN = 1 && d0 = 0x5E && d1 = 0xA1 then s.softReset else s.emit .i2cNack
  else s)

/-- I2C_SCL_TIMEOUT (R453): the target returns to idle. -/
def execI2cSclTimeout (dt : Nat) (s : State) : Res :=
  let s := s.after dt
  .next { s with bus := { s.bus with idle := true, snap := [] } }

/-! ### The PMBus controller (R457) -/

/-- PMBUS_TELEMETRY (R457): Scribe reads rail r; after the third retry RAIL_ERR sets and the entry keeps its last values. -/
def execPmbusTelemetry (dt r : Nat) (ok : Bool) (vout iout temp status : Nat) (s : State) : Res :=
  let s := s.after dt
  needs (r < 8 && vout < 65536 && iout < 65536 && temp < 256 && status < 65536) (
    if s.alive && s.tb.run && s.dct.restart.isNone && r < s.rd R.PWR_PMB.NRAIL then
      (if ok then
        (((s.wr (R.PWR_RAIL.VOUT.j r) vout).wr (R.PWR_RAIL.IOUT.j r) iout).wr (R.PWR_RAIL2.TEMP.j r) temp).wr
          (R.PWR_RAIL2.STATUS_WORD.j r) status
       else s.flagBit R.PWR_PMB.RAIL_ERR r)
    else s)

/-- PMB_ALERT (R450, R457): a falling PMB_ALERT_N; Scribe reads the alerting device. -/
def execPmbAlert (dt r status : Nat) (s : State) : Res :=
  let s := s.after dt
  needs (r < 8 && status < 65536) (if s.alive && s.tb.run then
    let s := if s.rd R.PWR_PMB.ALERT = 1 then s.raiseInt 14 else s.flag R.PWR_PMB.ALERT
    if s.dct.restart.isNone && r < s.rd R.PWR_PMB.NRAIL then s.wr (R.PWR_RAIL2.STATUS_WORD.j r) status else s
  else s)

end Sys2Proof.Machine
end

