-- ==== Sys2Proof/Machine/Scribe.lean ====
section
/-! DEFINITION. Scribe: load windows, the service mailbox, deferred tests, and the watchdog (spec/16_ductus_and_scribe.md, R413 to R422). -/

namespace Sys2Proof.Machine

/-! ### The service mailbox (R415 to R417) -/

/-- Does the firmware of Scribe run: out of reset, clocked, and no restart in progress? -/
def State.scribeRuns (s : State) : Bool := s.alive && s.tb.run && s.dct.restart.isNone

/-- DOOR = 1: the request is copied and answered. -/
def State.doorNow (s : State) : State :=
  if s.rd R.SCR_MB_STAT.STATUS = 1 then s.flag R.SCR_MB_CTL.MB_COLLIDE
  else
    let req := (List.range 64).map fun w => s.rd (R.SCR_MB_REQ.WORD.j w)
    let w0 := req.headD 0
    let st := if s.dct.overdue.isSome then 4
      else if s.dct.restart.isSome || s.rd R.SCR_SHED.LEVEL ≠ 0 then 3 else 1
    let s := { s with dct := { s.dct with req := req } }
    let s := ((s.wr R.SCR_MB_STAT.STATUS st).wr R.SCR_MB_STAT.OP (bits w0 31 24)).wr R.SCR_MB_STAT.CODE 0
    let s := s.wr (R.SCR_MB_RSP.WORD.j 0) (w0 % p2 16)
    if st = 1 then s else s.raiseInt 4

/-- A write of SCR_MB_CTL. -/
def State.doorWrite (s : State) (v : Nat) : State :=
  (onlyIf (bit v 31) State.doorNow s).softClear R.SCR_MB_CTL.DOOR.addr v

/-- DOOR (R415). -/
def execDoor (dt : Nat) (src : Src) (value : Nat) (s : State) : Res :=
  let s := s.after dt
  needs (isWord value) (s.swWrite src 15 R.SCR_MB_CTL.DOOR.addr fun s => s.doorWrite value)

/-- Scribe answers the running request: STATUS, CODE and the words after word 0 of the response. -/
def State.mbAnswer (s : State) (st code : Nat) (rsp : List Nat) : State :=
  let s : State := forEach rsp.zipIdx (fun x s => s.wr (R.SCR_MB_RSP.WORD.j (x.2 + 1)) x.1) s
  ((s.wr R.SCR_MB_STAT.STATUS st).wr R.SCR_MB_STAT.CODE code).raiseInt 4

/-- The request completes with a response. -/
def State.mbDone (s : State) (rsp : List Nat) : State := s.mbAnswer 2 rsp.length rsp

/-- The request ends with an error code. -/
def State.mbError (s : State) (code : Nat) : State := s.mbAnswer 5 code []

/-- The request ends with an error to which the spec gives no code. -/
def State.mbOdd (s : State) : State := s.useFree.mbError (Config.freeNat s.free % p2 16)

/-- Argument w of the copied request. -/
def State.mbArg (s : State) (w : Nat) : Nat := s.dct.req.getD w 0

/-- Does Scribe run a request of this code now? -/
def State.mbRuns (s : State) (op : Nat) : Bool :=
  s.scribeRuns && s.rd R.SCR_MB_STAT.STATUS == 1 && s.rd R.SCR_MB_STAT.OP == op

/-- INFO (R416): firmware version, ROM flag and RESTARTS. -/
def execInfo (dt version : Nat) (s : State) : Res :=
  let s := s.after dt
  needs (isWord version) (if s.mbRuns 1 then
    s.mbDone [version, s.rd R.SCR_RST.ROM, s.rd R.SCR_RST.RESTARTS] else s)

/-- The flash of a chip select as the last load found it. -/
def State.flashCs (s : State) (cs : Nat) : FlashCs :=
  if cs = 0 then s.dev.envA else if cs = 1 then s.dev.envB else noFlash

/-- Does a range of bytes lie in the flash of a chip select? -/
def State.flashHas (s : State) (cs a n : Nat) : Bool := (s.flashCs cs).fitted && a + n ≤ (s.flashCs cs).density

/-- The bytes of the slot that MOD_STATE.SLOT names: chip select, first byte and length (R101). -/
def State.slotRange (s : State) : Option (Nat × Nat × Nat) :=
  let k := s.rd R.MOD_STATE.SLOT
  let half := s.dev.envA.density / 2
  let two := s.dev.envB.fitted
  if k = 1 then some (0, 0, if two then s.dev.envA.density else half)
  else if k = 2 then some (if two then (1, 0, s.dev.envB.density) else (0, half, s.dev.envA.density - half))
  else none

/-- Is a change of flash refused: it touches the slot in use outside BOOT and LISTEN (R417)? -/
def State.slotGuard (s : State) (cs a n : Nat) : Bool :=
  2 ≤ s.mode && (match s.slotRange with
    | some (c, b, m) => c == cs && rangesMeet a n b m
    | none => false)

/-- FLASH_READ (R416). -/
def execFlashRead (dt : Nat) (s : State) : Res :=
  let s := s.after dt
  .next (if s.mbRuns 2 then
    let cs := s.mbArg 1
    let a := s.mbArg 2
    let n := s.mbArg 3
    if n ≤ 60 && s.flashHas cs a (4 * n) then s.mbDone ((List.range n).map fun i => s.mem32 (flashSp cs) (a + 4 * i)) else s.mbOdd
  else s)

/-- Bytes of flash are erased. -/
def State.flashClear (s : State) (sp a n : Nat) : State :=
  s.keepMem fun x => !(cellKey sp a ≤ x.1 && x.1 < cellKey sp (a + n))

/-- FLASH_ERASE (R416, R417): n sectors of 4 KiB. -/
def execFlashErase (dt : Nat) (s : State) : Res :=
  let s := s.after dt
  .next (if s.mbRuns 3 then
    let cs := s.mbArg 1
    let a := s.mbArg 2 / 4096 * 4096
    let n := 4096 * s.mbArg 3
    if s.slotGuard cs a n then s.mbError 2
    else if s.flashHas cs a n then ((s.flashClear (flashSp cs) a n).emit (.flash cs a n true)).mbDone [] else s.mbOdd
  else s)

/-- One byte of flash is programmed. -/
def State.flashByte (s : State) (sp a v : Nat) : State :=
  let o := s.mem8 sp a
  s.putMem8 sp a (if o = 0xFF then v else Config.flashOver o v)

/-- FLASH_WRITE (R416, R417): the data words follow the arguments. -/
def execFlashWrite (dt : Nat) (s : State) : Res :=
  let s := s.after dt
  .next (if s.mbRuns 4 then
    let cs := s.mbArg 1
    let a := s.mbArg 2
    let n := s.mbArg 3
    if s.slotGuard cs a (4 * n) then s.mbError 2
    else if n ≤ 60 && s.flashHas cs a (4 * n) then
      let d := (List.range n).flatMap fun i => leBytes 4 (s.mbArg (4 + i))
      let s : State := forEach d.zipIdx (fun x s => s.flashByte (flashSp cs) (a + x.2) x.1) s
      (s.emit (.flash cs a (4 * n) false)).mbDone []
    else s.mbOdd
  else s)

/-- SLOT_CHECK (R416): the failure code of checks 1 to 8 of slot A (1) or B (2). -/
def execSlotCheck (dt : Nat) (env : LoadEnv) (s : State) : Res :=
  let s := s.after dt
  .next (if s.mbRuns 5 then
    let k := s.mbArg 1
    if k = 1 || k = 2 then
      (let b := k == 2
       let h := s.headCheck b env
       s.mbDone [if h = 0 then (s.bodyCheck b env).code else h])
    else s.mbOdd
  else s)

/-- SELFTEST (R416, R429): the test of the unit ends; a test that does not pass gives a lasting verdict. -/
def execSelftest (dt : Nat) (pass : Bool) (s : State) : Res :=
  let s := s.after dt
  .next (if s.mbRuns 6 then
    let u := s.mbArg 1
    if isUnit u then
      (match s.spr.reqs.find? fun r => r.unit == u && r.started.isSome && !r.sched with
       | some r => (s.testEnds r pass).mbDone [s.verdictOf r pass]
       | none =>
         let s := if pass then s else s.verdict ⟨u, s.now, none, false, true, 0⟩ 2
         s.mbDone [if pass then 1 else 2])
    else s.mbOdd
  else s)

/-- BLOTTER_SYNC (R416): completes when the RAM queue is empty. -/
def execBlotterSync (dt : Nat) (s : State) : Res :=
  let s := s.after dt
  .next (if s.mbRuns 7 && s.blt.queue.isEmpty then s.mbDone [] else s)

/-- MAILBOX_UNKNOWN_OP (R416): any other OP. -/
def execMailboxUnknownOp (dt : Nat) (s : State) : Res :=
  let s := s.after dt
  .next (let op := s.rd R.SCR_MB_STAT.OP
    if s.mbRuns op && (op == 0 || 7 < op) then s.mbError 1 else s)

/-! ### Load and deferred tests (R414, R418) -/

/-- A window of R414 in rim clocks. -/
def loadWindow : Nat := 1000000

/-- Deferred tests that satisfy a test leave the list and run. -/
def State.runDeferred (s : State) (p : Nat × Nat × Nat → Bool) (overdue : Bool) : State :=
  let l := s.dct.defer.filter p
  let s := { s with dct := { s.dct with defer := s.dct.defer.filter fun d => !p d } }.showDefer
  forEach l (fun d s =>
    let s := if overdue then { s.wr R.SCR_TEST.OVERDUE 1 with dct := { s.dct with overdue := some d.1 } } else s
    s.schedStart d.1 d.2.2) s

/-- LOAD_WINDOW_END (R414, R418): the next window end; `busy` is the busy time of the four cores in rim clocks. -/
def execLoadWindowEnd (busy : Nat) (s : State) : Res :=
  needs (busy ≤ 4000000) (if s.alive && s.tb.run then
    let s := s.runRim ((s.tb.rim / loadWindow + 1) * loadWindow)
    let load := busy / 4000
    let hi := s.rd R.SCR_SHED.SHED_HI
    let lo := min (s.rd R.SCR_SHED.SHED_LO) hi
    let lev := s.rd R.SCR_SHED.LEVEL
    let lev := if hi ≤ load then min (lev + 1) 3 else if load < lo then lev - 1 else lev
    let s := (s.wr R.SCR_LOAD.LOAD load).wr R.SCR_LOAD.PEAK (max load (s.rd R.SCR_LOAD.PEAK))
    let s := s.wr R.SCR_SHED.LEVEL lev
    if lev < 2 then s.runDeferred (fun _ => true) false else s
  else s)

/-- The age at which a deferred test runs whatever the level: 100 ms. -/
def deferBound : Nat := 100000000

/-- Deferred tests at or past the bound run as overdue tests. -/
def State.runOverdue (s : State) : State := s.runDeferred (fun d => deferBound ≤ s.tb.rim - d.2.1) true

/-- OVERDUE_TEST (R418): the oldest deferred test reaches 100 ms; it waits for a restart in progress. -/
def execOverdueTest (s : State) : Res :=
  .next (match s.dct.defer with
    | [] => s
    | d :: _ => if s.scribeRuns then (s.runRim (d.2.1 + deferBound)).runOverdue else s)

/-! ### Watchdog and restart (R420 to R422) -/

/-- A write of KICK: Scribe restarts the count; a host write is discarded. -/
def State.kickWrite (s : State) (src : Src) (v : Nat) : State :=
  if bit v 31 && src == .scribe && s.dct.restart.isNone then
    { s with dct := { s.dct with kick := s.tb.rim }, log := { s.log with wrote := R.SCR_WDOG.KICK.key :: s.log.wrote } }
  else s

/-- KICK (R420). -/
def execKick (dt : Nat) (src : Src) (s : State) : Res :=
  let s := s.after dt
  .next (s.swWrite src 15 R.SCR_WDOG.KICK.addr fun s => s.kickWrite src (p2 31))

/-- The Scribe cores are held (R421): items running on them end with status 0x3, a running request is aborted, the Scribe arming goes. -/
def State.scribeHeld (s : State) : State :=
  let s := { s with dct := { s.dct with restart := some s.tb.rim } }
  let s := (s.wr R.SCR_RST.ACTIVE 1).bump R.SCR_RST.RESTARTS R.SCR_RST.OVF
  let s := s.journal 8 0 true noUnit
  let s : State := forEach s.dct.run (fun x s => s.scribeEnds x.1 x.2 3 0) s
  let s := if s.rd R.SCR_MB_STAT.STATUS = 1 then (s.wr R.SCR_MB_STAT.STATUS 6).raiseInt 4 else s
  s.disarm .scribe

/-- WATCHDOG_EXPIRE (R420, R421). -/
def execWatchdogExpire (s : State) : Res :=
  .next (if s.scribeRuns then (s.runRim (s.dct.kick + wdogClocks)).scribeHeld else s)

/-- RESTART_COMPLETE (R421, R418): the cores are released. -/
def execRestartComplete (dt : Nat) (digestOk : Bool) (s : State) : Res :=
  let s := s.after dt
  .next (match s.dct.restart with
    | none => s
    | some t =>
      if s.alive && s.tb.run then
        let s := s.wrU R.SCR_RST.LAST_US (roundOpen (((s.tb.rim - t : Nat) : Rat) / 1000)).toNat
        let s := (s.wr R.SCR_RST.ACTIVE 0).wrB R.SCR_RST.ROM (!digestOk || s.rd R.MOD_STAT.FOLIO_NONE == 1)
        { s with dct := { s.dct with restart := none, kick := s.tb.rim, turn := true } }.runOverdue
      else s)

end Sys2Proof.Machine
end

