-- ==== Sys2Proof/Machine/Windows.lean ====
section
/-! DEFINITION. The indirect windows W0 to W3, the BAR2 aperture as window 4, and the spaces they reach (R64 to R68, R150, R152, R309, R333, R384, R435, R448, R449). -/

namespace Sys2Proof.Machine

/-! ### The spaces (R65) -/

/-- The size of a space; a number without a space has none. -/
def spaceSize (sp : Nat) : Nat :=
  if sp = 1 || sp = 2 || sp = 4 then 0x10000 else if sp = 3 then 0x200000 else if sp = 5 then 0x800000
  else if sp = 6 then 0x20000 else if sp = 7 then 0x40000 else if sp = 8 then 0x400000 else 0

/-- Is a space read-only? -/
def spaceRo (sp : Nat) : Bool := sp == 5 || sp == 8

/-- The power domain that holds a word of a space. -/
def spaceDom (sp a : Nat) : Nat :=
  if sp = 1 then 17 else if sp = 2 then 18 else if sp = 3 then 15
  else if sp = 4 then (let l := a / 0x100; if l < 4 then 17 else if l < 8 then 18 else 19)
  else if sp = 5 then 22 else if sp = 6 then 11 + a / 0x8000 else if sp = 7 then 11 + a / 0x10000 else 16

/-- Does an offset of a ring table lie in a schedule region (R333)? -/
def schedRegion (a : Nat) : Bool := a < 0x40 || (0x100 ≤ a && a < 0x10E0) || (0x1100 ≤ a && a < 0x5100)
/-- Does an offset of a ring table lie in the node status? -/
def nodeRegion (a : Nat) : Bool := 0x6000 ≤ a && a < 0x6FE0

/-- The word of the log at a byte address (R435). -/
def State.bltWord (s : State) (a : Nat) : Nat :=
  match s.blt.log[a / 32]? with
  | none => 0
  | some e => leNat ((e.bytes.drop (a % 32)).take 4)

/-- The word that a space holds at a word address inside it. -/
def State.spaceGet (s : State) (sp a : Nat) : Nat :=
  if sp = 1 || sp = 2 then
    (if schedRegion a || (nodeRegion a && s.leadSide (sp - 1)) then s.mem32 sp a else 0)
  else if sp = 3 then (if modelRegion a then s.mem32 3 a else 0)
  else if sp = 4 then (if a < 0xA00 && a % 0x100 < 8 then s.mem32 4 a else 0)
  else if sp = 5 then s.bltWord a
  else s.mem32 sp a

/-- The field mask of LANE_CFG. -/
def laneCfgMask : Nat := 0x803F3F3F

/-- A write of a lane register (R309): OVF is cleared by a 1, ERR_BLK is written. -/
def State.laneWrite (s : State) (a v : Nat) : State :=
  if a % 0x100 = 0 then s.putMem32 4 a (v &&& laneCfgMask)
  else
    let w := setBits (s.mem32 4 a) 23 0 v
    s.putMem32 4 a (if bit v 27 then setBits w 27 27 0 else w)

/-- Is core d stopped as STATE shows it (R384)? -/
def State.sfStopped (s : State) (d : Nat) : Bool := (s.serif d).idle && !(s.serifRun d && s.serifOn d)

/-- A window write to model memory that R152 lets through. -/
def State.modelWrite (s : State) (a v : Nat) : State :=
  let s : State := if s.mirrors && 0x90000 ≤ a then s.twinSend 6 [0, a, v] else s
  if a = 0x90000 then s.dqWrite v
  else
    let s : State := if 0x100000 ≤ a && !s.log.staged.any (fun x => x.1 == a) then
        { s with log := { s.log with staged := (a, s.md a 4) :: s.log.staged } } else s
    let s := s.putMem32 3 a v
    if a = 0x100000 then { s with log := { s.log with wrote := patchKey :: s.log.wrote } } else s

/-- May a window write a word of model memory in the present mode (R152)? -/
def State.modelMay (s : State) (a : Nat) : Bool :=
  let m := s.mode
  if 0x180000 ≤ a then false
  else if 0x100000 ≤ a || (0x90000 ≤ a && a < 0x99000) then m == 1 || m == 2 || 4 ≤ m
  else m == 1 || m == 4 || m == 5

/-- A write of a word address inside a space whose domain is on: the state, and whether the space refused it as read-only. -/
def State.spacePut (s : State) (sp a v : Nat) : State × Bool :=
  if spaceRo sp then (s, true)
  else if sp = 1 || sp = 2 then
    (if schedRegion a then (if s.mode = 1 then (s.putMem32 sp a v, false) else (s, true))
     else (s, nodeRegion a))
  else if sp = 3 then
    (if !modelRegion a then (s, false) else if s.modelMay a then (s.modelWrite a v, false) else (s, true))
  else if sp = 4 then (if a < 0xA00 && a % 0x100 < 8 then (s.laneWrite a v, false) else (s, false))
  else if sp = 6 then (if s.sfStopped (a / 0x8000) then (s.putMem32 6 a v, false) else (s, true))
  else (s.putMem32 sp a v, false)

/-! ### Accesses (R66, R67) -/

/-- The status word of window w: W0 to W3, and 4 for the aperture. -/
def winStat (w : Nat) : Nat := if w = 4 then R.IND_AP_STAT.QDEPTH.addr else (R.IND_STAT.QDEPTH.j w).addr

/-- One status bit of window w. -/
def winFlag (w b : Nat) : Fld := ⟨winStat w, 0, 0, b, b, false⟩

/-- The queue of window w. -/
def State.winQ (s : State) (w : Nat) : Window := tget [] s.wins w

/-- The queue of window w replaced; QDEPTH and BUSY show it. -/
def State.putWinQ (s : State) (w : Nat) (q : Window) : State :=
  let s := { s with wins := tput [] s.wins w q }
  let s := s.putRaw (winStat w) (setBits (s.raw (winStat w)) 19 16 q.length)
  s.wrB (winFlag w 0) (!q.isEmpty)

/-- The lowest window above w that wrote a word on this tick, with what the word held before that write: accesses of one tick are served in the order of the window numbers, whichever comes first in the queue (R68, R448). -/
def State.laterWin (s : State) (w k : Nat) : Option (Nat × Nat × Nat) :=
  (List.range 5).findSome? fun v => if w < v then s.log.wins.find? fun x => x.1 == v && x.2.1 == k else none

/-- The word at a word address of a space as window w finds it on this tick. -/
def State.winWord (s : State) (w sp a : Nat) : Nat :=
  match s.laterWin w (cellKey sp a) with
  | some x => x.2.2
  | none => s.spaceGet sp a

/-- A write of window w to a word, in the order of R68: behind a later window's write of the tick it only becomes what that window found. The second part says that the space refused it. -/
def State.winStore (s : State) (w sp a v : Nat) : State × Bool :=
  let r := s.spacePut sp a v
  if r.2 then r
  else match s.laterWin w (cellKey sp a) with
    | some x => ({ s with log := { s.log with wins := s.log.wins.map fun y => if y = x then (x.1, x.2.1, v) else y } }, false)
    | none => ({ r.1 with log := { r.1.log with wins := (w, cellKey sp a, s.spaceGet sp a) :: r.1.log.wins } }, false)

/-- A write reaches its target (R67). -/
def State.winPut (s : State) (w : Nat) (x : Nat × Nat × Nat) : State :=
  if spaceSize x.1 ≤ x.2.1 then s.flag (winFlag w 8)
  else if !s.domOn (spaceDom x.1 x.2.1) then
    (let s := s.flag (winFlag w 13)
     if spaceRo x.1 then s.flag (winFlag w 9) else s)
  else
    let r := s.winStore w x.1 x.2.1 x.2.2
    if r.2 then r.1.flag (winFlag w 9) else r.1

/-- The oldest queued write of window w is performed. -/
def State.winStep (w : Nat) (s : State) : State :=
  match s.winQ w with
  | [] => s
  | x :: t => (s.putWinQ w t).winPut w x

/-- Every queued write of window w is performed, as a read of it waits for. -/
def State.winDrain (s : State) (w : Nat) : State := forEach (s.winQ w) (fun _ s => s.winStep w) s

/-- A read through window w: the word, with the flags of R67. -/
def State.winGet (s : State) (w sp a : Nat) : State × Nat :=
  if spaceSize sp ≤ a then (s.flag (winFlag w 8), 0)
  else if !s.domOn (spaceDom sp a) then (s.flag (winFlag w 13), 0)
  else (s, s.winWord w sp a)

/-- SPACE of window w. -/
def State.winSpace (s : State) (w : Nat) : Nat := s.rd (R.IND_SPACE.SPACE.j w)
/-- The byte address that IND_ADDR of window w names. -/
def State.winAddr (s : State) (w : Nat) : Nat := 4 * s.rd (R.IND_ADDR.ADDR.j w)

/-- IND_ADDR advances by STEP words; passing the end of the space wraps it to 0. -/
def State.winAdvance (s : State) (w : Nat) : State :=
  let a := s.winAddr w
  let n := a + 4 * s.rd (R.IND_SPACE.STEP.j w)
  let top := spaceSize (s.winSpace w)
  if a < top && top ≤ n then (s.wr (R.IND_ADDR.ADDR.j w) 0).flag (winFlag w 11)
  else s.wr (R.IND_ADDR.ADDR.j w) (n / 4)

/-- A read of IND_DATA. -/
def State.winRead (s : State) (src : Src) (w be : Nat) : State :=
  let s := s.winDrain w
  let r := s.winGet w (s.winSpace w) (s.winAddr w)
  ((r.1.wr (R.IND_DATA.DATA.j w) r.2).winAdvance w).answer src be r.2

/-- A write of IND_DATA: queued, or dropped on a full queue, which is no access. -/
def State.winWrite (s : State) (w v : Nat) : State :=
  let q := s.winQ w
  if 8 ≤ q.length then s.flag (winFlag w 12)
  else ((s.wr (R.IND_DATA.DATA.j w) v).putWinQ w (q ++ [(s.winSpace w, s.winAddr w, v)])).winAdvance w

/-- IND_DATA_READ (R39, R66). -/
def execIndDataRead (dt : Nat) (r : Reader) (w : Nat) (s : State) : Res :=
  let s := s.after dt
  needs (isWin w && r.be < 16) (if s.reads r.src then s.winRead r.src w r.be else s)

/-- IND_DATA_WRITE (R66). -/
def execIndDataWrite (dt : Nat) (src : Src) (w value : Nat) (s : State) : Res :=
  let s := s.after dt
  needs (isWin w && isWord value) (if s.reads src then s.winWrite w value else s)

/-- Does window w work: the device is out of reset and clocked? -/
def State.winRuns (s : State) : Bool := s.alive && s.tb.run

/-- IND_WRITE_PERFORM (R66, R68): the oldest queued write of a window, or of the aperture (4), reaches its target. -/
def execIndWritePerform (dt w : Nat) (s : State) : Res :=
  let s := s.after dt
  needs (isWin w || w = 4) (if s.winRuns then s.winStep w else s)

/-- IND_TIMEOUT (R67): the target of a read by a source, or of the oldest queued write (no source), does not answer within 8 µs. The aperture answers the host only. -/
def execIndTimeout (dt w : Nat) (reader : Option Src) (s : State) : Res :=
  let s := s.after dt
  needs (isWin w || w = 4) (
    if !s.winRuns then s
    else match reader with
      | some src =>
        if !s.reads src || (w = 4 && src != .host) then s
        else
          let s := (s.winDrain w).flag (winFlag w 10)
          (if w = 4 then s else (s.wr (R.IND_DATA.DATA.j w) 0).winAdvance w).emit (.reply src 0)
      | none =>
        match s.winQ w with
        | [] => s
        | _ :: t => (s.putWinQ w t).flag (winFlag w 10))

/-! ### The aperture (R448, R449) -/

/-- The space address that a BAR2 offset reaches. -/
def State.apAddr (s : State) (o : Nat) : Nat := s.rd R.IND_AP.PAGE * 0x400000 + o / 4 * 4

/-- APERTURE_READ (R39, R448). -/
def execApertureRead (dt : Nat) (a : ApRead) (s : State) : Res :=
  let s := s.after dt
  needs (a.ofs < 0x400000 && a.be < 16) (if s.srcUp .host then
    let s := s.winDrain 4
    let r := s.winGet 4 (s.rd R.IND_AP.AP_SPACE) (s.apAddr a.ofs)
    r.1.answer .host a.be r.2
  else s)

/-- APERTURE_WRITE (R448, R449): queued; while the queue is full the endpoint withholds credits and no write arrives; a partial word is discarded (R39). -/
def execApertureWrite (dt ofs value be : Nat) (s : State) : Res :=
  let s := s.after dt
  needs (ofs < 0x400000 && isWord value && be < 16) (
    if !s.srcUp .host then s
    else if be ≠ 15 then s.flag R.CMT_STAT.ACC_PARTIAL
    else
      let q := s.winQ 4
      if 8 ≤ q.length then s else s.putWinQ 4 (q ++ [(s.rd R.IND_AP.AP_SPACE, s.apAddr ofs, value)]))

end Sys2Proof.Machine
end

