-- ==== Sys2Proof/Machine/Access.lean ====
section
/-! DEFINITION. Writes of registers: what each offset does with a word from the host, Scribe or the ring (R38 to R45, R52 to R59, R325, R326). -/

namespace Sys2Proof.Machine

/-! ### Stored fields (R14, R45) -/

/-- All 32 bits. -/
def allBits : Nat := 0xFFFFFFFF

/-- A write of PB_CTRL: outputs that stop following the duties end their pulses (R294), and TRIP_CLR acts on the inputs as last accepted. -/
def State.pbCtrlWrite (s : State) (b v : Nat) : State :=
  let s := if bit v 31 then s.pbFlush b s.now else s.pbLeave b
  let s := s.pbSwitch ((s.wr (R.PB_CTRL.EN.i b) (v / p2 31)).showPb b) b
  if bit v 30 then s.tripClear b (s.rd (R.PB_STAT.TRIP_IN.i b)) else s

/-- The stored fields of a register take a word over the bits of a mask, with what follows from it in its unit. -/
def State.rwWrite (s : State) (who : Option Src) (a v m : Nat) (key : Bool) : State :=
  match locate a with
  | none => s
  | some l =>
    let t := l.blk.typ
    if l.off = 4 then s.headerWrite l v
    else if a = R.TB_CTRL.REF_SEL.addr then (s.plainMask who a v m key).ppsCheck
    else if t = 1 && (l.off = 0x308 || l.off = 0x30C) then s.intEnWrite ((l.off - 0x308) / 4) v
    else if t = 1 && 0x1000 ≤ l.off && l.off < 0x1400 && l.off % 16 = 0xC then s.msixCtrlWrite ((l.off - 0x1000) / 16) v
    else if t = 0x1A && 0x40 ≤ l.off && l.off < 0x4C then s.dutySoft l.inst ((l.off - 0x40) / 4) v
    else if t = 0x1A && l.off = 0x60 then s.pbCtrlWrite l.inst (setBits v 30 30 0)
    else if a = R.DCT_CFG.OBS.addr then s.obsWrite v
    else if t = 0x29 && l.off = 0x18 then s.sfCtrlWrite l.inst (setBits v 30 30 0)
    else if t = 0x29 && l.off = 0x20 then s.sfTimerWrite l.inst v
    else if a = R.INK_CTRL.ARM.addr then s.inkCtrlWrite (v % p2 29)
    else if t = 0x19 && (l.off = 0x14 || l.off = 0x50) then s.fbStored (s.plainMask who a v m key) l.inst l.off
    else s.plainMask who a v m key

/-! ### Command bits and registers with an effect of their own -/

/-- What a write of such a register does; none where it only stores fields. -/
def State.special (s : State) (src : Src) (l : Loc) (a v : Nat) : Option State :=
  let t := l.blk.typ
  let o := l.off
  let n := l.inst
  if t = 1 then
    (if o = 0x100 then some (s.devCtrlWrite src v)
     else if o = 0x300 || o = 0x304 then some (s.intStatWrite ((o - 0x300) / 4) v)
     else none)
  else if t = 2 then
    (if o = 0x10 then some (s.commitWrite v) else if o = 0x30 then some (s.unlockWrite src v) else none)
  else if t = 3 then
    (if o = 0x2C then some (s.tbAdjWrite v)
     else if o = 0x34 then some (s.keyed src a fun s => s.tbStepWrite v)
     else if 0x200 ≤ o && o < 0x300 && o % 0x20 = 4 then some (if s.tb.run then s.evtAtWrite ((o - 0x200) / 0x20) v else s)
     else none)
  else if t = 4 then (if o = 0x14 then some (s.modReqWrite src (v % 16)) else none)
  else if t = 5 then (if 0x100 ≤ o && o < 0x200 && o % 0x40 = 8 then some (s.winWrite ((o - 0x100) / 0x40) v) else none)
  else if t = 0x11 then
    (if o = 0x14 then some (if bit v 31 then s.pushWrite n else s)
     else if o = 0x18 then some (s.cmdWrite n (v % 16)) else none)
  else if t = 0x14 then (if o = 0x40 then some (s.keyed src a fun s => s.ackWrite v) else none)
  else if t = 0x18 then
    (if o = 0x100 then
      (let s := if bit v 31 then s.wr (R.AX_CTRL.FLT_CLR.i n) 1 else s
       some (if bit v 30 then s.intRstWrite n else s))
     else none)
  else if t = 0x19 then
    (if o = 0x54 then some (s.fbCmpWrite n v)
     else if o = 0x80 || o = 0x84 then some (s.fbPosWrite n (o == 0x84) v)
     else if o = 0xB0 then
      (let s := if bit v 31 then s.wr (R.FB_CTRL.FLT_CLR.i n) 1 else s
       some (if bit v 30 then s.zarmWrite n else s))
     else none)
  else if t = 0x1A then
    (if o = 0x4C then some (s.dutySoft n 3 v) else if o = 0x60 then some (s.pbCtrlWrite n v) else none)
  else if t = 0x20 then
    (if o = 0x28 then
      (let s := if bit v 31 then s.wr (R.IKL_CTRL.DM_NOW.i n) 1 else s
       let s := if bit v 30 then s.revertWrite n 0 else s
       some (if bit v 29 then s.revertWrite n 1 else s))
     else none)
  else if t = 0x21 then (if o = 0x18 then some (s.keyed src a fun s => s.hbNowWrite v) else none)
  else if t = 0x28 then
    (if o = 0x10C || o = 0x14C then
      (let p := (o - 0x10C) / 0x40
       some (if portOf src = some p then s.submitWrite p v else s.putRaw a (v &&& 0x67FF0000)))
     else if o = 0x18 then some (s.cancelWrite v)
     else if o = 0x208 then some (s.kickWrite src v)
     else if o = 0x400 then some (s.doorWrite v)
     else none)
  else if t = 0x29 then (if o = 0x18 then some (s.sfCtrlWrite n v) else none)
  else if t = 0x2D then (if o = 0x10 then some (s.inkCtrlWrite v) else none)
  else none

/-! ### A write by the host or Scribe (R39 to R41, R55 to R57, R360) -/

/-- The arming of a write to a register that holds KEY fields: consumed, or missed. -/
def State.takeKey (s : State) (src : Src) (r : RegRow) (a : Nat) : State × Bool :=
  if !r.guarded then (s, false)
  else if s.armed src then (s.disarm src, true)
  else ((s.flag R.CMT_STAT.KEY_VIOL).violInfo src 1 a, false)

/-- Is a write of the register mirrored: it has RW fields, or shadowed ones (R360)? COMMIT has its own record. -/
def RegRow.mirrored (r : RegRow) (a : Nat) : Bool := a != R.COMMIT.GO.addr && (r.fs.any (fun f => f.acc == .rw) || r.shadow != 0)

/-- What a whole word does in the register that it names, with whether its KEY fields take it. -/
def State.wordWrite (s : State) (src : Src) (l : Loc) (r : RegRow) (a v : Nat) : State × Bool :=
  match s.special src l a v with
  | some s => (s, true)
  | none =>
    let k := s.takeKey src r a
    (k.1.rwWrite (some src) a v allBits k.2, k.2)

/-- The host's word of this tick stands in a register that Scribe writes after it: Scribe's write counts as the first of the two, so the stored fields hold the host's values again (R41). Compare and position registers take their word anew, since what follows from it is the host's too. -/
def State.hostAgain (s : State) (l : Loc) (r : RegRow) (a v : Nat) (key : Bool) : State :=
  if l.blk.typ = 0x19 && (l.off = 0x54 || l.off = 0x80 || l.off = 0x84) then (match s.special Src.host l a v with | some s => s | none => s)
  else forEach (r.fs.filter fun (f : FieldRow) => f.stored key && !f.w1t) (fun f s => s.putField false a f (bits v f.hi f.lo)) s

/-- A whole word reaches a register. Of two words that the host and Scribe write to one register on one tick, the host's remains, whichever comes first in the queue (R41). -/
def State.regWrite (s : State) (src : Src) (a v : Nat) : State :=
  match locate a with
  | none => s
  | some l =>
    if l.off = 4 then
      (if src == .scribe && s.log.host.any (fun x => x.1 == a) then s
       else { s.headerWrite l v with log := { s.log with host := if src == Src.host then (a, v, true) :: s.log.host else s.log.host } }.mirrorWrite a v)
    else match rowIn l.blk l.off with
      | none => s
      | some r =>
        let p := s.wordWrite src l r a v
        let s := p.1
        let s := if src == .host then { s with log := { s.log with host := (a, v, p.2) :: s.log.host } }
          else if src == .scribe then
            (match s.log.host.find? fun x => x.1 == a with
             | some (_, h, key) => s.hostAgain l r a h key
             | none => s)
          else s
        if r.mirrored a then s.mirrorWrite a (s.rdw a) else s

/-! ### Parameters delivered over the ring (R52, R53, R325, R326) -/

/-- The mask of an offset in the ring-writable list, if it is listed. -/
def State.ringMask (s : State) (a : Nat) : Option Nat :=
  ((List.range (min 512 (s.mem32 0x14 0))).find? fun k => s.mem32 0x14 (4 + 8 * k) % barSize == a).map fun k => s.mem32 0x14 (8 + 8 * k)

/-- The mask of the KEY and W1T fields of a row. -/
def RegRow.barred (r : RegRow) : Nat :=
  r.fs.foldl (fun m f => if f.key || f.w1t then m ||| ((p2 (f.hi + 1 - f.lo) - 1) * p2 f.lo) else m) 0

/-- A record is discarded (R53). -/
def State.ringRefuse (s : State) (a : Nat) : State := (s.flag R.CMT_STAT.RING_REFUSED).violInfo .ring 5 a

/-- A word with the bits of a mask taken from another. -/
def merge (old m v : Nat) : Nat := (old - (old &&& m)) + (v &&& m)

/-- One record is applied: to the shadow and to the active value. DIRTY of the instance stays as it is (DESIGN CHOICE: R42 sets it for a written shadow, R52 does not say whether an application counts as one; log entry 62). -/
def State.ringApply (s : State) (l : Loc) (r : RegRow) (a m v : Nat) : State :=
  let w := merge (s.rdw a) m v
  match s.special .ring l a w with
  | some s => s
  | none =>
    let mm := r.shadow &&& m
    let s := if mm = 0 then s.rwWrite (some .ring) a w m false else s.storeMask (some .ring) a w m false
    if mm = 0 then s else s.putAct a (merge (s.actw a) mm v)

/-- A ring-delivered record: OFFSET, MASK and VALUE. -/
def State.ringWrite (x : Nat × Nat × Nat) (s : State) : State :=
  let a := x.1
  let m := x.2.1
  match s.ringMask a, locate a with
  | some lm, some l =>
    match rowIn l.blk l.off with
    | none => s.ringRefuse a
    | some r =>
      if (m &&& lm) ≠ m || (m &&& r.barred) ≠ 0 then s.ringRefuse a
      else if !s.reachable l then s.pdOff .ring a
      else (s.ringApply l r a m x.2.2).mirror s.now 4 [a, m, x.2.2]
  | _, _ => s.ringRefuse a

/-- An access that R40 turns away: nothing for an unmapped offset; the flag and VIOL_INFO for a block whose domain is off. -/
def State.reaches (s : State) (src : Src) (a : Nat) : State × Option Loc :=
  match locate a with
  | none => (s, none)
  | some l => if s.reachable l then (s, some l) else (s.pdOff src a, none)

/-- REGISTER_WRITE (R39 to R41, R45, R53): a write that a register port takes now. A ring write takes the fields of the list. A partial word is discarded wherever it points, and sets ACC_PARTIAL; where it points at a block whose domain is off it sets ACC_PDOFF first, so that VIOL_INFO shows the partial write, and at an unmapped offset VIOL_INFO stays (DESIGN CHOICE: the spec gives no order of R39 and R40; log entry 63). A write that R39 or R40 discards reaches no register, so it neither consumes an arming nor sets KEY_VIOL (DESIGN CHOICE: R56 does not speak of it; log entry 64). -/
def execRegisterWrite (dt : Nat) (src : Src) (addr value be : Nat) (s : State) : Res :=
  let s := s.after dt
  needs (addr < barSize && addr % 4 = 0 && isWord value && be < 16) (
    if !s.srcUp src then s
    else if src = .ring then s.ringWrite (addr, (s.ringMask addr).getD allBits, value)
    else
      let p := s.reaches src addr
      if be ≠ 15 then
        (let s := p.1.flag R.CMT_STAT.ACC_PARTIAL
         if (locate addr).isSome then s.violInfo src 3 addr else s)
      else match p.2 with
        | none => p.1
        | some _ => s.regWrite src addr value)

/-! ### A read by the host or Scribe (R39, R40) -/

/-- A read of any offset by software (R39, R40, R80, R89, R281, R410, R66): the requested bytes of the whole word, with the side effects of a whole-word read; 0 and no side effect where nothing answers, with ACC_PDOFF and VIOL_INFO where the domain is off. The table has rows for the reads that change a register; this is the rule for every offset, and what those rows do is what it does at theirs. -/
def State.regRead (s : State) (src : Src) (a be : Nat) : State :=
  if !s.reads src then s
  else
    let p := s.reaches src a
    match p.2 with
    | none => p.1.answer src be 0
    | some l =>
      if a = R.TB_NS.NS.addr then (s.putSnap src { s.snap src with word := s.snapWord, pOfs := s.pOfs }).answer src be s.now
      else if a = R.TB_PERIOD.INDEX.addr then (s.putSnap src { s.snap src with bound := s.tb.latB }).answer src be s.baseK
      else if l.blk.typ = 3 && 0x100 ≤ l.off && l.off < 0x200 && l.off % 0x20 = 4 then
        (let r := s.capRead ((l.off - 0x100) / 0x20)
         r.1.answer src be r.2)
      else if l.blk.typ = 5 && 0x100 ≤ l.off && l.off < 0x200 && l.off % 0x40 = 8 then s.winRead src ((l.off - 0x100) / 0x40) be
      else if a = (R.FB_LATCH_POS.VALUE.i l.inst).addr then
        (let r := s.latchRead l.inst
         r.1.answer src be r.2)
      else if portOf src = some 0 && a = (R.RES_B.VALUE.j 0).addr || portOf src = some 1 && a = (R.RES_B.VALUE.j 1).addr then
        (let r := s.resRead ((portOf src).getD 0)
         r.1.answer src be r.2)
      else s.answer src be (s.peek src a)

end Sys2Proof.Machine
end

