-- ==== Sys2Proof/Machine/RingFlow.lean ====
section
/-! DEFINITION. Cycle starts of a ring channel (R310): the judgment of the cycle that ends (R320, R328, R331, R343, R349 to R352), transitions that fall on it (R346, R350, R369, R371, R374), and the frames that the device originates (R312 to R318, R324, R330, R331, R338, R342, R366); and the CFG records of the twin link (R362). -/

namespace Sys2Proof.Machine

/-! ### CFG records at the standby (R362) -/

/-- The members of a group copy at once: an absolute commit whose tick has passed. -/
def State.copyNow (s : State) (g : Nat) : State :=
  forEach (shadowHeads.filter (s.member true g)) (fun h s =>
    if h = sdHead then
      (let s : State := forEach (List.range 24) (fun k s => s.copyMember (sdPart k)) s
       s.copyMember sdHead)
    else s.copyMember h) s

/-- A COMMIT of the leader: its fields, and the requests it makes. -/
def State.cfgCommit (s : State) (v at_ : Nat) : State :=
  let s := ((s.wr R.COMMIT.WHEN (bits v 30 30)).wr R.COMMIT.GROUPS (bits v 15 0)).wr R.CMT_AT.AT at_
  let late := bit v 30 && !s.ahead at_
  forEach ((List.range 16).filter (bit v)) (fun g s =>
    if late then s.copyNow g else State.requestGroup (bit v 30) at_ g s) s

/-- The content of a record is applied: KEY fields without the key, W1T fields under their rule. -/
def State.applyCfg (m : CfgMsg) (s : State) : State :=
  match m.body with
  | .write a v =>
    (match locate a with
     | some l => if s.reachable l then s.rwWrite none a v allBits true else s
     | none => s)
  | .commit v t => s.cfgCommit v t
  | .stroke c w => if isChain c then s.accept c w else s
  | .command c b => if isChain c then s.putQueue c { s.queue c with cmdM := (s.queue c).cmdM ||| b % 16 } else s
  | .ringParam a m v => s.ringWrite (a, m, v)

/-- The records whose tick has come are applied, in the order of their arrival. -/
def State.cfgPoll (s : State) : State :=
  let due := s.twin.cfgs.filter fun m => !s.ahead m.tick
  if due.isEmpty then s
  else
    let s := { s with twin := { s.twin with cfgs := s.twin.cfgs.filter fun m => s.ahead m.tick } }
    forEach due State.applyCfg s

/-- CFG (R362): applied at its tick, or on arrival where that has passed. -/
def execCfg (dt : Nat) (m : CfgMsg) (s : State) : Res :=
  let s := s.after dt
  .next (s.twinTake m.crcOk m.seq fun s =>
    if s.mode = 1 || s.mode = 3 then { s with twin := { s.twin with cfgs := s.twin.cfgs ++ [m] } }.cfgPoll else s)

/-! ### Frames that the device originates -/

/-- The upstream channel of a bridge, for its downstream channel. -/
def State.upstream (s : State) (ch : Nat) : Option Nat := if s.role ch = 4 then some (1 - ch) else none

/-- The header of a frame that starts at tick t (R313, R338, R364). -/
def State.frameHdr (s : State) (ch ftype flags len t : Nat) : Hdr :=
  let c := s.chan ch
  let own : Orig := ⟨s.claim, s.serial, 0, s.wseq⟩
  let o := match s.upstream ch with
    | some u => ((s.chan u).fol).getD ⟨0, 0, 0, s.wseq⟩
    | none => own
  let a := c.act.getD (0, 0)
  let cold := ftype == 3
  { ftype := ftype, flags := flags, len := len, cyc := s.cycNum ch, tOrig := t, claim := o.claim,
    leader := s.dch ch * 4096 + s.ownAddr ch, serial := o.serial, wseq := o.wseq,
    action := if cold then 0 else a.1, actCyc := if cold then 0 else a.2, sched := s.schedId ch % p2 16 }

/-- A frame of 64 bytes: header, body and trailer. -/
def shortFrame (h : Hdr) (body : List Nat) : List Nat :=
  h.bytes ++ body ++ List.replicate (28 - body.length) 0 ++ trailer 0 0

/-- DATA of a segment out of an image. -/
def imgData (p : OBuf) (g : Seg) : List Nat := (List.range g.data).map fun k => tget 0 p.bytes (g.buf + k)

/-- The bytes of a cycle frame before its header (R312, R316, R331). -/
def State.cycleBody (s : State) (ch : Nat) (p : OBuf) (alt : Option OBuf) : List Nat :=
  let me := s.ownAddr ch
  let n := s.cycNum ch
  let seg := fun (b : List Nat) (x : Nat × Seg) =>
    let g := x.2
    paste b g.ofs (if g.typ = 0 || g.typ = 2 then segBytes g.typ true me n 0 0 p.at_ (imgData p g)
      else nullSeg g.typ me n 0 0 g.data)
  let slot := fun (b : List Nat) (x : Nat × Seg) =>
    let g := x.2
    paste b g.alt (match (if s.rd (R.IKL_STAT.REMAP.i ch) = 1 && g.typ = 0 then alt else none) with
      | some q => segBytes 3 true me n 0 0 q.at_ (imgData q g)
      | none => nullSeg 3 me n 0 0 g.data)
  let b := (s.segs ch).foldl seg (List.replicate (s.frLen ch) 0)
  let slots := if s.used (1 - ch) then (s.segs (1 - ch)).filter fun x => x.2.essential && x.2.alt != 0 else []
  let b := slots.foldl slot b
  paste b (s.frLen ch - 4) (trailer 0 0)

/-- Flags of a header: CH, DIR, FOLD and REMAP. -/
def State.hdrFlags (s : State) (ch : Nat) (dir : Bool) : Nat :=
  ch + 2 * b2n dir + 4 * s.rd (R.IKL_STAT.FOLD.i ch) + 16 * s.rd (R.IKL_STAT.REMAP.i ch)

/-- Copies of a frame of tick t leave V after it: on P1, and in a fold on P0 too (R329, R366). -/
def State.originate (s : State) (ch t : Nat) (f : Bool → List Nat) : State :=
  let fold := s.rd (R.IKL_STAT.FOLD.i ch) == 1
  let s := s.sendFrame ch 1 t (s.vorg ch) (f false)
  if fold then s.sendFrame ch 0 t (s.vorg ch) (f true) else s

/-- Is the frame of this cycle a null cycle frame: nothing fetched, or a bridge whose upstream is silent (R324, R338)? -/
def State.nullCycle (s : State) (ch : Nat) : Bool :=
  (s.chan ch).img.isNone || (match s.upstream ch with
    | some u => decide (s.lossN u ≤ (s.chan u).noAcc)
    | none => false)

/-- The cycle frame or null cycle frame of a cycle; its length is told too. -/
def State.sendCycle (s : State) (ch t : Nat) : State × Nat :=
  let c := s.chan ch
  match (if s.nullCycle ch then none else c.img) with
  | none =>
    let s := s.originate ch t fun d => shortFrame (s.frameHdr ch 2 (s.hdrFlags ch d) 64 t) []
    ((s.bump (R.IKL_CNT_A.NULL.i ch) (R.IKL_FLAGS.NULL_OVF.i ch)).flag (R.IKL_FLAGS.NULL_SEEN.i ch), 64)
  | some p =>
    let b := s.cycleBody ch p c.imgAlt
    let n := s.frLen ch
    (s.originate ch t fun d => paste b 0 (s.frameHdr ch 1 (s.hdrFlags ch d) n t).bytes, n)

/-- The delay measurement frame, 100 ns after the last byte of a frame of n bytes (R318): both copies, with the round trips of the one before. -/
def State.sendDm (s : State) (ch t n : Nat) : State :=
  let c := s.chan ch
  let at_ := add32 t ((roundOpen ((4 * n : Nat) / (5 : Rat))).toNat + 100)
  let body := leBytes 4 (c.dmF.getD 0) ++ leBytes 4 (c.dmR.getD 0)
  let s := s.putChan ch { c with dmF := none, dmR := none }
  let f := fun d => shortFrame (s.frameHdr ch 4 (s.hdrFlags ch d) 64 at_) body
  (s.sendFrame ch 1 at_ (s.vorg ch) (f false)).sendFrame ch 0 at_ (s.vorg ch) (f true)

/-! ### The judgment of the cycle that ends -/

/-- What R343 makes of a candidate's cycle: 0 none was originated, 1 a foreign frame, 2 a bad frame, 3 returned, 4 nothing. -/
def Chan.judge (c : Chan) : Nat :=
  if !c.orig then 0 else if c.foreign then 1 else if c.retBad then 2 else if 0 < c.ret then 3 else 4

/-- Does the judgment of channel ch cause a backoff? -/
def State.backsOff (s : State) (ch : Nat) : Bool :=
  let c := s.chan ch
  s.used ch && s.nNodes ch != 0 && (c.judge == 2 || (c.judge == 4 && 1 ≤ c.noRet))

/-- The return count of channel ch at tick t: a cycle of it that ends on this tick is judged with it (R343). -/
def State.coldRet (s : State) (ch t : Nat) : Nat :=
  let c := s.chan ch
  if s.nextCyc ch = t then (if c.judge = 3 then c.csRet + 1 else 0) else c.csRet

/-- Has every channel with nodes seen four returns in a row at tick t (R346)? -/
def State.csWins (s : State) (t : Nat) : Bool :=
  [0, 1].all fun ch => !s.used ch || s.nNodes ch == 0 || 4 ≤ s.coldRet ch t

/-- The candidate's cycle on channel ch is judged (R343); a backoff that the other channel's judgment causes on this tick comes first. -/
def State.judgeCold (s : State) (ch t : Nat) : State :=
  let o := 1 - ch
  if s.used o && s.nextCyc o = t && s.backsOff o then s.csBackoff o
  else if s.backsOff ch then s.csBackoff ch
  else
    let j := (s.chan ch).judge
    s.modChan ch fun c => { c with
      csRet := if j = 3 then c.csRet + 1 else 0
      noRet := if j = 4 then c.noRet + 1 else 0 }

/-- The cycle of an originator ends (R331): without a return it is lost. -/
def State.judgeLead (s : State) (ch : Nat) : State :=
  let c := s.chan ch
  if !c.orig || c.closed then s
  else if c.ret = 0 then
    ((s.bump (R.IKL_CNT_C.LOST.i ch) (R.IKL_FLAGS.LOST_OVF.i ch)).modChan ch fun c => { c with
      noRet := c.noRet + 1, good := 0, closed := true })
  else s.closeCycle ch s.now

/-- The cycle of a follower ends (R320, R349, R351, R352). -/
def State.judgeNode (s : State) (ch : Nat) : State :=
  let c := s.chan ch
  let run := s.chState ch == 3
  let s := if !c.got && run then s.bump (R.IKL_CNT_C.LOST.i ch) (R.IKL_FLAGS.LOST_OVF.i ch) else s
  s.modChan ch fun c => { c with
    noAcc := if c.got then 0 else if run then c.noAcc + 1 else c.noAcc
    quiet := if c.heard then 0 else c.quiet + 1
    rejoin := if run then c.rejoin else c.rejoin.map (· + 1) }

/-- The cycle number advances by k, and the record of the cycle starts afresh (R310, R328). -/
def State.cycAdvance (s : State) (ch t k : Nat) : State :=
  let s := s.wr (R.IKL_CYCNUM.VALUE.i ch) (add32 (s.cycNum ch) k)
  let s := s.modChan ch fun c => { c with
    at_ := some t, got := false, heard := false, back := 0, ret := 0, trl := 0, npass := 0, retBad := false,
    foreign := false, taken := [], missed := [], orig := false, closed := true,
    bad := [0, 1].foldl (fun b p => tput 0 b p (if c.badNow.contains p then tget 0 b p + 1 else 0)) c.bad
    badNow := [] }
  s.putApp ch { s.appOf ch with fill := (s.appOf ch).done }

/-! ### What takes effect at a cycle start -/

/-- A hand-back takes place (R374). -/
def State.handBack (s : State) : State :=
  let m := s.rd R.MOD_STATE.PEND
  let s := (s.clearPend.modeChange m false).trigger
  let s : State := if m = 2 then forEach [0, 1] (fun ch s => s.modChan ch fun c => { c with dm := true }) s else s
  let s := ((s.wr R.TWN_STAT.HB_PEND 0).wr R.TWN_STAT.HB_FINAL 0).wr R.TWN_HB.HB_AT 0
  { s with twin := { s.twin with hb := none, hbReq := false, hbAt := 0 } }.flag R.TWN_FLAGS.HANDED_BACK

/-- A pending transition that falls on this cycle start of channel ch (R369, R371, R374). -/
def State.cyclePend (s : State) (ch t : Nat) : State :=
  let k := s.dev.pendKind
  let m := s.rd R.MOD_STATE.PEND
  let past : Bool := decide (0 < sx 32 (sub32 t s.dev.pendAt))
  if k = 2 && m = 1 && s.dev.surrender && past && s.leadSide ch && s.nNodes ch ≠ 0 then (s.clearPend).modeChange 1 false
  else if k = 2 && m ≠ 1 && past && s.mode = 3 && s.role ch = 1 && s.nNodes ch ≠ 0 then
    ((s.clearPend.modeChange m true).flag R.TWN_FLAGS.TOOK_OVER).bump R.TWN_CNT_B.TKO_CNT R.TWN_FLAGS.TKO_OVF
  else if k = 4 && s.dev.pendAt / p2 32 = ch && s.dev.pendAt % p2 32 = s.cycNum ch then s.handBack
  else s

/-- REMAP, a fold, and the ACTION that ends one (R329 to R331). -/
def State.cycleFold (s : State) (ch : Nat) : State :=
  let c := s.chan ch
  let s : State := match (if s.leadSide ch then c.remap else none) with
    | some b =>
      let s := (s.wrB (R.IKL_STAT.REMAP.i ch) b).modChan ch fun c => { c with remap := none }
      if b then s.flag (R.IKL_FLAGS.REMAP_SEEN.i ch) else s
    | none => s
  let s : State := if c.foldDue && s.originSide ch then
      (let s := s.modChan ch fun c => { c with foldDue := false }
       if s.rd (R.IKL_STAT.FOLD.i ch) = 1 then s
       else ((s.wr (R.IKL_STAT.FOLD.i ch) 1).flag (R.IKL_FLAGS.FOLD_SEEN.i ch)).journal 7 2 true noUnit)
    else s
  if (s.chan ch).act = some (1, s.cycNum ch) then
    (s.wr (R.IKL_STAT.FOLD.i ch) 0).modChan ch fun c => { c with act := none, fp := [], lb := [], dm := true }
  else s

/-- The ring takes the device out of LISTEN (R112): a request still pending there names a transition that the new mode does not have, and ends. -/
def State.leaveListen (s : State) (m : Nat) : State := (s.clearPend.modeChange m false).trigger

/-- An integrating channel begins to run (R350); a node or bridge image leaves LISTEN. -/
def State.cycleReady (s : State) (ch t : Nat) : State :=
  match (s.chan ch).readyAt with
  | none => s
  | some r =>
    if s.chState ch ≠ 2 || r = t then s
    else
      let s := (s.wr (R.IKL_STAT.STATE.i ch) 3).modChan ch fun c => { c with
        readyAt := none, rejoin := none, expired := false, noAcc := 0 }
      if s.mode ≠ 1 then s
      else if s.role ch = 2 then s.leaveListen 4
      else if s.role ch = 3 then s.leaveListen 5
      else s

/-- Ring parameters staged in the cycle before are applied (R52). -/
def State.cycleParams (s : State) (ch : Nat) : State :=
  let l := (s.chan ch).par
  if l.isEmpty then s else forEach l State.ringWrite (s.modChan ch fun c => { c with par := [] })

/-- The frames of the cycle: a cold-start frame of a candidate, or the frame of the originator with its delay measurement. -/
def State.cycleSend (s : State) (ch t : Nat) (dm : Bool) : State :=
  if s.candidates then
    (if s.nNodes ch = 0 then s
     else
      let s := s.originate ch t fun d => shortFrame (s.frameHdr ch 3 (s.hdrFlags ch d) 64 t) []
      s.modChan ch fun c => { c with orig := true })
  else
    let c := s.chan ch
    let go : Bool := match c.go with | some g => !s.ahead g | none => true
    if !s.leads ch || !go then (if dm then s.modChan ch fun c => { c with dm := true } else s)
    else
      let r := s.sendCycle ch t
      let fold := r.1.rd (R.IKL_STAT.FOLD.i ch) == 1
      let due := dm || s.cycNum ch % p2 (max 4 (s.act (R.IKL_MON.DM_EXP.i ch))) == 0
      let s := if fold || !due then r.1 else (r.1.sendDm ch t r.2).wr (R.IKL_CTRL.DM_NOW.i ch) 0
      s.modChan ch fun c => { c with
        go := none, img := none, imgAlt := none, orig := true, closed := false, dm := c.dm || (fold && dm) }

/-- The candidate that has won enters LEAD at this cycle start (R346). -/
def State.cycleWin (s : State) (t : Nat) : State := if s.candidates && s.csWins t then s.leaveListen 2 else s

/-- A cycle start of channel ch at tick t, k cycles after the last one known. -/
def State.cycleStart (s : State) (ch t k : Nat) : State :=
  let s := s.cfgPoll
  let s := if s.twinOn then s.hbLeader else s
  let s := s.askLanes ch
  let cold := s.candidates
  let s := if cold then s.judgeCold ch t else if s.leadSide ch then s.judgeLead ch else s.judgeNode ch
  if cold && !s.candidates then s
  else
    let s := s.cycAdvance ch t k
    let dm := (s.chan ch).dm || s.rd (R.IKL_CTRL.DM_NOW.i ch) == 1
    let s := s.modChan ch fun c => { c with dm := false }
    let s := ((s.cycleWin t).cyclePend ch t).cycleFold ch
    let s := ((s.cycleReady ch t).cycleParams ch).cycleSend ch t dm
    (s.llPoll 0).llPoll 1

/-- The next cycle start of channel ch: its tick, and how many cycles it lies after the last one known. -/
def State.cycNext (s : State) (ch : Nat) : Nat × Nat :=
  let a := (s.cycAnchor ch).1
  let c := s.cycle ch
  let t := add32 a c
  if s.ahead t || sub32 s.now t ≤ 1 then (t, 1)
  else
    let d : Int := sx 32 (sub32 s.now a)
    let k := (d / (c : Int)).toNat + 1
    (add32 a (k * c), k)

/-- CYCLE_START (R310). -/
def execCycleStart (ch : Nat) (s : State) : Res :=
  needs (isCh ch) (if s.cycRuns ch then
    let n := s.cycNext ch
    match s.reach n.1 with
    | some s => s.cycleStart ch n.1 n.2
    | none => s
  else s)

end Sys2Proof.Machine
end

