-- ==== Sys2Proof/Machine/Period.lean ====
section
/-! DEFINITION. What falls on a base boundary and on an output phase, in the order of R27: BASE_BOUNDARY and OUTPUT_PHASE. -/

namespace Sys2Proof.Machine

/-! ### Domains at a base boundary -/

/-- The tick of the next boundary of domain P's lattice, and the rim clocks until it (R83). The lattice is the leader's as heard on the ring; with none heard, that in force. -/
def State.nextP (s : State) : Nat × Nat :=
  let e := s.ring.ep.getD (s.tb.latB, s.baseK)
  let r := (s.tb.accP / p2 32 + p2 32 - e.1 % p2 32) % p2 32 % 31250
  (31250 - r, ceilDiv ((31250 - r) * p2 32 - s.tb.accP % p2 32) s.incP.toNat)

/-- In SHADOW with LOCK_P, domain P becomes active at its next boundary, where that comes first (R83). -/
def State.takeP (s : State) : State :=
  if s.mode = 3 && !s.tb.actP && s.rd R.TB_STAT.LOCK_P = 1 then
    let n := s.nextP.2
    if n ≤ s.clocksTo s.nextB then
      let s := s.after n
      let e := s.ring.ep.getD (s.tb.latB, s.baseK)
      (s.setActive true).setLattice e.1 e.2
    else s
  else s

/-- The boundary is the latest one, and TB_PERIOD takes its index (R22). -/
def State.boundaryIndex (s : State) : State :=
  let k := add32 s.baseK 1
  { s with tb := { s.tb with latB := s.nextB } }.wr R.TB_PERIOD.INDEX k

/-- A pending transition that takes place at a base boundary (R112). -/
def State.boundaryPend (s : State) : State :=
  if s.dev.pendKind = 1 then
    let m := s.rd R.MOD_STATE.PEND
    let tko := s.mode = 3 && (m = 2 || m = 6)
    let s := s.clearPend.modeChange m tko
    if tko then (s.flag R.TWN_FLAGS.TOOK_OVER).bump R.TWN_CNT_B.TKO_CNT R.TWN_FLAGS.TKO_OVF else s
  else s

/-! ### The rows of R27 -/

/-- Row 3: the sample latches of every group whose boundary it is, and of the safe inputs. -/
def State.rowLatch (s : State) (k sin : Nat) : State :=
  let s := s.sinBoundary (if s.taken 5 then sin else 0)
  let s := s.fbLatchAll k
  forEach [0, 1, 2, 3] (fun g s => if s.rgAt g k then s.ringLatch g else s) s

/-- Row 6: lanes start, the solver and Margin sample, and periodic Serif tasks are dispatched. -/
def State.rowStart (s : State) (k : Nat) : State :=
  let s := s.lanesStart k
  let s := if s.solveAt k then s.solveApply.solverSample k else s
  (s.mgnSample k).serifsStart k

/-- BASE_BOUNDARY (R22): bit i of sin is the level of SINiA, bit 8 + i that of SINiB; without bank B5 they are 0 (R468). -/
def execBaseBoundary (sin : Nat) (s : State) : Res :=
  needs (sin < p2 16) (if s.alive && s.tb.run then
    let s := s.takeP
    let s := s.runTo s.nextB
    let s := s.rebase.boundaryIndex
    let k := s.baseK
    let s := s.cfgPoll.boundaryPend.rebase
    let s := if s.rgAt 0 k then s.snapApply else s
    let s := s.rowLatch k sin
    let s := (s.strokeAdvance k).rowStart k
    let s := if s.rgAt 0 k then s.surrPoll else s
    ((s.twinBoundary.llPoll 0).llPoll 1)
  else s)

/-! ### The output phase -/

/-- The tick of the next output phase of group g: the latest sample instant plus RG_OUT_OFS, or the one after it where that has passed (R23). -/
def State.nextPhase (s : State) (g : Nat) : Nat :=
  let t := add32 (s.rgAnchor g) (s.rgOfs g)
  if s.ahead t || (sub32 s.now t ≤ 1 && !s.log.phases.contains g) then t else add32 t (31250 * s.rgN g)

/-- OUTPUT_PHASE (R23, R28): every lane of group g releases, a row of Inkwell may fall, and the SNAP of RG0 leaves. -/
def execOutputPhase (g : Nat) (s : State) : Res :=
  needs (g < 4) (if s.alive && s.dev.rgIn && s.rgDef g then
    match s.reach (s.nextPhase g) with
    | some s =>
      let s := { s with log := { s.log with phases := g :: s.log.phases } }
      let s := (s.cfgPoll.releaseGroup g).inkPhase g
      if g = 0 then s.snapSend else s
    | none => s
  else s)

end Sys2Proof.Machine
end

