-- ==== Sys2Proof/Machine/Pins.lean ====
section
/-! DEFINITION. The supply banks of the balls (R466 to R468) and the instructions of the IEEE 1149.1 port (R472). -/

namespace Sys2Proof.Machine

/-! ### Outputs that return -/

/-- The level of one side of phase p of bridge b: its active level while it is on, else its off level (R288, R294). -/
def State.pbLevel (s : State) (b p : Nat) (high : Bool) : Bool :=
  let x := pbPhase (s.pb b) p
  let since := if high then x.rise else x.fall
  let on := s.pbLive b && x.h == high && s.pbDt b < sub32 s.now since
  let pol := s.rd (if high then R.PB_CFG.POL_H.i b else R.PB_CFG.POL_L.i b)
  (on || (!high && s.pbLows b)) == (pol == 0)

/-- Every output of bank n goes high-impedance (R468). -/
def State.bankHiZ (s : State) (n : Nat) : State :=
  let all (cls m : Nat) (s : State) : State := forEach (List.range m) (fun i s => s.emit (.hiZ cls i s.now)) s
  if n = 0 then all outLive 1 (all outVid 6 (all outEvt 8 (all outPps 1 s)))
  else if n = 2 || n = 3 then
    forEach (List.range 24) (fun i s => s.emit (.hiZ outFb (24 * (n - 2) + i) s.now)) s
  else if n = 4 then all outPbL 36 (all outPbH 36 s)
  else if n = 5 then all outSdck 4 (all outSout 8 s)
  else s

/-- The outputs of bank n show the state that their function commands (R468). -/
def State.bankReturns (s : State) (n : Nat) : State :=
  let at_ := s.now
  if n = 0 then
    let s : State := forEach (List.range 8) (fun j s =>
      if s.driven && s.evMode j ≠ 0 then s.emit (.edge outEvt j at_ 0 (s.evLevel j)) else s) s
    let c := s.rd R.PWR_VID.CODE
    let s : State := if s.pwr.driven then
        forEach (List.range 6) (fun i s => s.emit (.edge outVid i at_ 0 (bit (Nat.xor c (c / 2)) i))) s else s
    let s := if s.alive && s.mode ≠ 0 then s.emit (.edge outPps 0 at_ 0 false) else s
    s.emit (.edge outLive 0 at_ 0 (s.rd R.LIVE_STAT.LEVEL == 1))
  else if n = 2 || n = 3 then
    forEach (List.range 8) (fun k s =>
      let j := 8 * (n - 2) + k
      forEach [0, 1, 2] (fun i s => match s.fbOut j i with
        | some l => s.emit (.edge outFb (3 * j + i) at_ 0 l)
        | none => s) s) s
  else if n = 4 then
    forEach (List.range 12) (fun b s => if s.pbBall b then forEach [0, 1, 2] (fun p s =>
        (s.emit (.edge outPbH (3 * b + p) at_ 0 (s.pbLevel b p true))).emit (.edge outPbL (3 * b + p) at_ 0 (s.pbLevel b p false))) s else s) s
  else if n = 5 then
    let s : State := forEach [0, 1, 2, 3] (fun j s => if s.sdckRuns j then s.sdckShow j else s) s
    forEach [0, 1, 2, 3] (fun j s =>
      let l := s.rd (R.MGN_SOUT_STAT.ENERGISED.j j) == 1
      (s.emit (.edge outSout (2 * j) at_ 0 l)).emit (.edge outSout (2 * j + 1) at_ 0 l)) s
  else s

/-! ### Banks (R466, R468) -/

/-- BANK_POWER_GOOD_RISE (R466): VDDIO of bank n has stayed 1 ms in a window; v33 tells which. -/
def execBankPowerGoodRise (dt n : Nat) (v33 : Bool) (s : State) : Res :=
  let s := s.after dt
  needs (n < 6) (if s.taken n || s.dev.bankAt.any (fun x => x.1 == n) then s
    else
      let s := { s with dev := { s.dev with bankAt := (n, s.tb.boot) :: s.dev.bankAt } }
      s.wr R.DEV_BANK.V33 (setBits (s.rd R.DEV_BANK.V33) n n (b2n v33)))

/-- BANK_INPUTS_RESTORED (R468): 10 µs after the rise, inputs are taken from the balls and outputs return. -/
def execBankInputsRestored (dt n : Nat) (s : State) : Res :=
  let s := s.after dt
  needs (n < 6) (match s.dev.bankAt.find? fun x => x.1 == n with
    | some x =>
      if s.tb.boot - x.2 < 10000 then s
      else
        let s := { s with dev := { s.dev with
          bankAt := s.dev.bankAt.filter fun y => y.1 != n, bankLost := s.dev.bankLost - (s.dev.bankLost &&& p2 n) } }
        (s.wr R.DEV_BANK.PG (s.rd R.DEV_BANK.PG ||| p2 n)).bankReturns n
    | none => s)

/-- BANK_POWER_GOOD_FALL (R468): the bank's outputs are high-impedance and its inputs 0; losses within one wait count once. -/
def execBankPowerGoodFall (dt n : Nat) (s : State) : Res :=
  let s := s.after dt
  needs (n < 6) (if s.taken n || s.dev.bankAt.any (fun x => x.1 == n) then
    let counted := bit s.dev.bankLost n
    let s := s.bankHiZ n
    let s := { s with dev := { s.dev with
      bankAt := s.dev.bankAt.filter fun y => y.1 != n, bankLost := s.dev.bankLost ||| p2 n } }
    let s := s.wr R.DEV_BANK.PG (s.rd R.DEV_BANK.PG - (s.rd R.DEV_BANK.PG &&& p2 n))
    let s := s.flagBit R.DEV_BANK.LOST n
    if counted then s else s.bump R.DEV_BANK_CNT.LOSSES R.DEV_BANK_CNT.OVF
  else s)

/-! ### IEEE 1149.1 (R472) -/

/-- Output class of TDO. -/
def outTdo : Nat := 8
/-- What IDCODE reads, as serial bits from the least significant. -/
def idcodeBits : List Bool := (List.range 32).map (bit 0xB71603C5)

/-- The port takes an instruction; outputs that it leaves to their function show its state again. -/
def State.scanTake (s : State) (i : Nat) : State :=
  let was := s.dev.jtag
  let s := { s with dev := { s.dev with jtag := i } }
  if (was == 3 || was == 4 || was == 5) && was != i then
    forEach [0, 2, 3, 4, 5] (fun n s => s.bankReturns n) s
  else s

/-- BYPASS (R472). -/
def execBypass (dt : Nat) (s : State) : Res := .next ((s.after dt).scanTake 0)
/-- IDCODE (R472): TDO shows 0xB716_03C5. -/
def execIdcode (dt : Nat) (s : State) : Res := .next (((s.after dt).scanTake 1).emit (.serial outTdo 0 idcodeBits))
/-- SAMPLE/PRELOAD (R472): the boundary register takes the bits shifted in. -/
def execSamplePreload (dt : Nat) (data : List Bool) (s : State) : Res :=
  let s := (s.after dt).scanTake 2
  .next { s with dev := { s.dev with bsr := data } }
/-- EXTEST (R472): the PB, SO, EVT, SDCK and FB outputs are driven from the boundary register. -/
def execExtest (dt : Nat) (s : State) : Res := .next ((s.after dt).scanTake 3)
/-- CLAMP (R472): as EXTEST, with the bypass register in the path. -/
def execJtagClamp (dt : Nat) (s : State) : Res := .next ((s.after dt).scanTake 4)
/-- HIGHZ (R472): every output is high-impedance. -/
def execHighz (dt : Nat) (s : State) : Res :=
  .next ((forEach [0, 2, 3, 4, 5] (fun n s => s.bankHiZ n) (s.after dt)).scanTake 5)
/-- EXTEST_PULSE (R472), on the serial lanes. -/
def execExtestPulse (dt : Nat) (s : State) : Res := .next ((s.after dt).scanTake 6)
/-- EXTEST_TRAIN (R472), on the serial lanes. -/
def execExtestTrain (dt : Nat) (s : State) : Res := .next ((s.after dt).scanTake 7)

end Sys2Proof.Machine
end

