-- ==== Sys2Proof/Machine/Dispatch.lean ====
section
/-! DEFINITION. One arm per command: the meaning of each. -/

namespace Sys2Proof.Machine

/-- The effect of a command on everything but the queue. -/
def exec (i : Instr) (s : State) : Host.Outcome State Fault Refusal :=
  match i with
  | .baseBoundary sin => Sys2Proof.Machine.execBaseBoundary sin s
  | .laneRunComplete dt slot cur => Sys2Proof.Machine.execLaneRunComplete dt slot cur s
  | .outputPhase g => Sys2Proof.Machine.execOutputPhase g s
  | .currentLoopInstant slot => Sys2Proof.Machine.execCurrentLoopInstant slot s
  | .dutyWrite slot => Sys2Proof.Machine.execDutyWrite slot s
  | .laneError dt slot => Sys2Proof.Machine.execLaneError dt slot s
  | .solveComplete dt asmEnd factEnd => Sys2Proof.Machine.execSolveComplete dt asmEnd factEnd s
  | .solutionRelease => Sys2Proof.Machine.execSolutionRelease s
  | .tileError dt q tile => Sys2Proof.Machine.execTileError dt q tile s
  | .separationDelivery dt => Sys2Proof.Machine.execSeparationDelivery dt s
  | .marginComplete dt => Sys2Proof.Machine.execMarginComplete dt s
  | .marginDecision => Sys2Proof.Machine.execMarginDecision s
  | .stop1DelayEnd j => Sys2Proof.Machine.execStop1DelayEnd j s
  | .mgnAck dt src value => Sys2Proof.Machine.execMgnAck dt src value s
  | .soutTestPulse dt j ch => Sys2Proof.Machine.execSoutTestPulse dt j ch s
  | .soutReadbackCheck dt j rda rdb => Sys2Proof.Machine.execSoutReadbackCheck dt j rda rdb s
  | .sinDiscrepancy dt x => Sys2Proof.Machine.execSinDiscrepancy dt x s
  | .sinDemand x => Sys2Proof.Machine.execSinDemand x s
  | .commitRequest dt src value => Sys2Proof.Machine.execCommitRequest dt src value s
  | .commitCopy inst => Sys2Proof.Machine.execCommitCopy inst s
  | .registerWrite dt src addr value be => Sys2Proof.Machine.execRegisterWrite dt src addr value be s
  | .unlock dt src value => Sys2Proof.Machine.execUnlock dt src value s
  | .unlockExpire src => Sys2Proof.Machine.execUnlockExpire src s
  | .tmrScrub dt => Sys2Proof.Machine.execTmrScrub dt s
  | .indDataRead dt src w => Sys2Proof.Machine.execIndDataRead dt src w s
  | .indDataWrite dt src w value => Sys2Proof.Machine.execIndDataWrite dt src w value s
  | .indWritePerform dt w => Sys2Proof.Machine.execIndWritePerform dt w s
  | .indTimeout dt w read => Sys2Proof.Machine.execIndTimeout dt w read s
  | .apertureRead dt ofs => Sys2Proof.Machine.execApertureRead dt ofs s
  | .apertureWrite dt ofs value be => Sys2Proof.Machine.execApertureWrite dt ofs value be s
  | .tbWrap => Sys2Proof.Machine.execTbWrap s
  | .tbNsRead dt src => Sys2Proof.Machine.execTbNsRead dt src s
  | .tbPeriodRead dt src => Sys2Proof.Machine.execTbPeriodRead dt src s
  | .tbStep dt src value => Sys2Proof.Machine.execTbStep dt src value s
  | .tbAdj dt src value => Sys2Proof.Machine.execTbAdj dt src value s
  | .refLoss dt => Sys2Proof.Machine.execRefLoss dt s
  | .ppsEdge dt rising => Sys2Proof.Machine.execPpsEdge dt rising s
  | .ppsTimeout => Sys2Proof.Machine.execPpsTimeout s
  | .ppsOutPulse => Sys2Proof.Machine.execPpsOutPulse s
  | .tsuCalibration dt u residualPs => Sys2Proof.Machine.execTsuCalibration dt u residualPs s
  | .captureEdge dt x rising => Sys2Proof.Machine.execCaptureEdge dt x rising s
  | .capWindowClose x => Sys2Proof.Machine.execCapWindowClose x s
  | .capStampRead dt src x => Sys2Proof.Machine.execCapStampRead dt src x s
  | .evtAtWrite dt src j value => Sys2Proof.Machine.execEvtAtWrite dt src j value s
  | .evtQueueInstant j => Sys2Proof.Machine.execEvtQueueInstant j s
  | .evtTrainPulse j => Sys2Proof.Machine.execEvtTrainPulse j s
  | .evtConversionPulse j => Sys2Proof.Machine.execEvtConversionPulse j s
  | .powerOnResetSupply dt => Sys2Proof.Machine.execPowerOnResetSupply dt s
  | .porstN dt => Sys2Proof.Machine.execPorstN dt s
  | .rstN dt => Sys2Proof.Machine.execRstN dt s
  | .warmRst dt src value => Sys2Proof.Machine.execWarmRst dt src value s
  | .coreSupervisor dt => Sys2Proof.Machine.execCoreSupervisor dt s
  | .resetRelease dt straps => Sys2Proof.Machine.execResetRelease dt straps s
  | .pllLock dt => Sys2Proof.Machine.execPllLock dt s
  | .folioLoadComplete dt env => Sys2Proof.Machine.execFolioLoadComplete dt env s
  | .flashTimeout dt slot => Sys2Proof.Machine.execFlashTimeout dt slot s
  | .hold dt src => Sys2Proof.Machine.execHold dt src s
  | .holdExit dt src => Sys2Proof.Machine.execHoldExit dt src s
  | .service dt src => Sys2Proof.Machine.execService dt src s
  | .serviceExit dt src => Sys2Proof.Machine.execServiceExit dt src s
  | .reload dt src => Sys2Proof.Machine.execReload dt src s
  | .surrender dt src => Sys2Proof.Machine.execSurrender dt src s
  | .modReqUndefined dt src code => Sys2Proof.Machine.execModReqUndefined dt src code s
  | .reloadTransition => Sys2Proof.Machine.execReloadTransition s
  | .chnPush dt src c => Sys2Proof.Machine.execChnPush dt src c s
  | .strokeCheck dt c => Sys2Proof.Machine.execStrokeCheck dt c s
  | .stop dt src c => Sys2Proof.Machine.execStop dt src c s
  | .resume dt src c => Sys2Proof.Machine.execResume dt src c s
  | .abort dt src c => Sys2Proof.Machine.execAbort dt src c s
  | .flush dt src c => Sys2Proof.Machine.execFlush dt src c s
  | .syncTmo c => Sys2Proof.Machine.execSyncTmo c s
  | .limitEdge dt n which level => Sys2Proof.Machine.execLimitEdge dt n which level s
  | .limitLatch n which => Sys2Proof.Machine.execLimitLatch n which s
  | .fltClr dt src n => Sys2Proof.Machine.execFltClr dt src n s
  | .intRst dt src n => Sys2Proof.Machine.execIntRst dt src n s
  | .arm dt src => Sys2Proof.Machine.execArm dt src s
  | .inkStop dt src => Sys2Proof.Machine.execInkStop dt src s
  | .trig dt src => Sys2Proof.Machine.execTrig dt src s
  | .fbEdge dt k ins aux => Sys2Proof.Machine.execFbEdge dt k ins aux s
  | .illWindowEnd k => Sys2Proof.Machine.execIllWindowEnd k s
  | .hallTimeout k => Sys2Proof.Machine.execHallTimeout k s
  | .fbCmpWrite dt src k value => Sys2Proof.Machine.execFbCmpWrite dt src k value s
  | .fbPosWrite dt src k rev value => Sys2Proof.Machine.execFbPosWrite dt src k rev value s
  | .fbFltClr dt src k => Sys2Proof.Machine.execFbFltClr dt src k s
  | .zarm dt src k => Sys2Proof.Machine.execZarm dt src k s
  | .xferStart dt k line => Sys2Proof.Machine.execXferStart dt k line s
  | .absFrameComplete dt k frame => Sys2Proof.Machine.execAbsFrameComplete dt k frame s
  | .serialTimeout dt k => Sys2Proof.Machine.execSerialTimeout dt k s
  | .fbLatchPosRead dt src k => Sys2Proof.Machine.execFbLatchPosRead dt src k s
  | .samplerMismatch dt spare k => Sys2Proof.Machine.execSamplerMismatch dt spare k s
  | .carrierValley b => Sys2Proof.Machine.execCarrierValley b s
  | .carrierPeak b => Sys2Proof.Machine.execCarrierPeak b s
  | .dutyGo dt src b which value => Sys2Proof.Machine.execDutyGo dt src b which value s
  | .tripAccept dt b trips => Sys2Proof.Machine.execTripAccept dt b trips s
  | .tripClr dt src b trips => Sys2Proof.Machine.execTripClr dt src b trips s
  | .sdResult k window => Sys2Proof.Machine.execSdResult k window s
  | .ringFetch ch => Sys2Proof.Machine.execRingFetch ch s
  | .cycleStart ch => Sys2Proof.Machine.execCycleStart ch s
  | .cycleFrameReceive dt ch port arr bytes => Sys2Proof.Machine.execCycleFrameReceive dt ch port arr bytes s
  | .nullFrameReceive dt ch port arr bytes => Sys2Proof.Machine.execNullFrameReceive dt ch port arr bytes s
  | .delayFrameReceive dt ch port arr bytes => Sys2Proof.Machine.execDelayFrameReceive dt ch port arr bytes s
  | .frameReturn dt ch port arr bytes => Sys2Proof.Machine.execFrameReturn dt ch port arr bytes s
  | .laneFault dt lane => Sys2Proof.Machine.execLaneFault dt lane s
  | .switchRequest dt lane spare => Sys2Proof.Machine.execSwitchRequest dt lane spare s
  | .revertP0 dt src ch => Sys2Proof.Machine.execRevertP0 dt src ch s
  | .revertP1 dt src ch => Sys2Proof.Machine.execRevertP1 dt src ch s
  | .dmNow dt src ch => Sys2Proof.Machine.execDmNow dt src ch s
  | .portDown dt ch port => Sys2Proof.Machine.execPortDown dt ch port s
  | .linkBack dt ch port => Sys2Proof.Machine.execLinkBack dt ch port s
  | .channelLoss dt ch => Sys2Proof.Machine.execChannelLoss dt ch s
  | .coldStart => Sys2Proof.Machine.execColdStart s
  | .coldStartFrameReceive dt ch port arr bytes => Sys2Proof.Machine.execColdStartFrameReceive dt ch port arr bytes s
  | .backoffEnd => Sys2Proof.Machine.execBackoffEnd s
  | .leaderMissing dt ch => Sys2Proof.Machine.execLeaderMissing dt ch s
  | .leaderLost dt => Sys2Proof.Machine.execLeaderLost dt s
  | .rejoinTimeout dt ch => Sys2Proof.Machine.execRejoinTimeout dt ch s
  | .listenChannelTimeout dt ch => Sys2Proof.Machine.execListenChannelTimeout dt ch s
  | .status dt lane m => Sys2Proof.Machine.execStatus dt lane m s
  | .time dt lane m => Sys2Proof.Machine.execTime dt lane m s
  | .cfg dt m => Sys2Proof.Machine.execCfg dt m s
  | .model dt m => Sys2Proof.Machine.execModel dt m s
  | .snap dt m => Sys2Proof.Machine.execSnap dt m s
  | .solve dt m => Sys2Proof.Machine.execSolve dt m s
  | .twinLinkDown dt => Sys2Proof.Machine.execTwinLinkDown dt s
  | .takeover dt ch => Sys2Proof.Machine.execTakeover dt ch s
  | .holdoffEnd => Sys2Proof.Machine.execHoldoffEnd s
  | .hbNow dt src value => Sys2Proof.Machine.execHbNow dt src value s
  | .nop dt d n => Sys2Proof.Machine.execNop dt d n s
  | .endTask dt d n => Sys2Proof.Machine.execEndTask dt d n s
  | .reti dt d n => Sys2Proof.Machine.execReti dt d n s
  | .swi dt d n => Sys2Proof.Machine.execSwi dt d n s
  | .br dt d cond target => Sys2Proof.Machine.execBr dt d cond target s
  | .call dt d target => Sys2Proof.Machine.execCall dt d target s
  | .ret dt d n => Sys2Proof.Machine.execRet dt d n s
  | .loop dt d immf rotf cnt last => Sys2Proof.Machine.execLoop dt d immf rotf cnt last s
  | .lpop dt d n => Sys2Proof.Machine.execLpop dt d n s
  | .mvs dt d f sp => Sys2Proof.Machine.execMvs dt d f sp s
  | .mvd dt d f sp => Sys2Proof.Machine.execMvd dt d f sp s
  | .ada dt d ax ay imm => Sys2Proof.Machine.execAda dt d ax ay imm s
  | .mvaf dt d fd fa fb fc => Sys2Proof.Machine.execMvaf dt d fd fa fb fc s
  | .mvfa dt d fd fa fb fc => Sys2Proof.Machine.execMvfa dt d fd fa fb fc s
  | .fadd dt d fd fa fb fc => Sys2Proof.Machine.execFadd dt d fd fa fb fc s
  | .fsub dt d fd fa fb fc => Sys2Proof.Machine.execFsub dt d fd fa fb fc s
  | .fmul dt d fd fa fb fc => Sys2Proof.Machine.execFmul dt d fd fa fb fc s
  | .fma dt d fd fa fb fc => Sys2Proof.Machine.execFma dt d fd fa fb fc s
  | .mac dt d fd fa fb fc => Sys2Proof.Machine.execMac dt d fd fa fb fc s
  | .msub dt d fd fa fb fc => Sys2Proof.Machine.execMsub dt d fd fa fb fc s
  | .fmin dt d fd fa fb fc => Sys2Proof.Machine.execFmin dt d fd fa fb fc s
  | .fmax dt d fd fa fb fc => Sys2Proof.Machine.execFmax dt d fd fa fb fc s
  | .fabs dt d fd fa fb fc => Sys2Proof.Machine.execFabs dt d fd fa fb fc s
  | .fneg dt d fd fa fb fc => Sys2Proof.Machine.execFneg dt d fd fa fb fc s
  | .fcmp dt d fd fa fb fc => Sys2Proof.Machine.execFcmp dt d fd fa fb fc s
  | .clamp dt d fd fa fb fc => Sys2Proof.Machine.execClamp dt d fd fa fb fc s
  | .rcp dt d fd fa fb fc => Sys2Proof.Machine.execRcp dt d fd fa fb fc s
  | .rsq dt d fd fa fb fc => Sys2Proof.Machine.execRsq dt d fd fa fb fc s
  | .itof dt d fd fa fb fc => Sys2Proof.Machine.execItof dt d fd fa fb fc s
  | .ftoi dt d fd fa fb fc => Sys2Proof.Machine.execFtoi dt d fd fa fb fc s
  | .ld dt d f a pm imm => Sys2Proof.Machine.execLd dt d f a pm imm s
  | .st dt d f a pm imm => Sys2Proof.Machine.execSt dt d f a pm imm s
  | .ldi dt d f imm => Sys2Proof.Machine.execLdi dt d f imm s
  | .tapm dt d fd fc a => Sys2Proof.Machine.execTapm dt d fd fc a s
  | .ldst dt d fd fb ax ay sx sy => Sys2Proof.Machine.execLdst dt d fd fb ax ay sx sy s
  | .illegalInstruction dt d => Sys2Proof.Machine.execIllegalInstruction dt d s
  | .interruptEntry dt d => Sys2Proof.Machine.execInterruptEntry dt d s
  | .doorbell dt src d => Sys2Proof.Machine.execDoorbell dt src d s
  | .sfTimerWrite dt src d value => Sys2Proof.Machine.execSfTimerWrite dt src d value s
  | .sfTimerExpire d => Sys2Proof.Machine.execSfTimerExpire d s
  | .releaseWarning d => Sys2Proof.Machine.execReleaseWarning d s
  | .run dt src d value => Sys2Proof.Machine.execRun dt src d value s
  | .serifRelease d => Sys2Proof.Machine.execSerifRelease d s
  | .submit dt src value => Sys2Proof.Machine.execSubmit dt src value s
  | .delayTick => Sys2Proof.Machine.execDelayTick s
  | .itemEnd dt core result => Sys2Proof.Machine.execItemEnd dt core result s
  | .resBRead dt src => Sys2Proof.Machine.execResBRead dt src s
  | .cancel dt src value => Sys2Proof.Machine.execCancel dt src value s
  | .obsWrite dt src value => Sys2Proof.Machine.execObsWrite dt src value s
  | .loadWindowEnd busy => Sys2Proof.Machine.execLoadWindowEnd busy s
  | .door dt src value => Sys2Proof.Machine.execDoor dt src value s
  | .info dt version => Sys2Proof.Machine.execInfo dt version s
  | .flashRead dt => Sys2Proof.Machine.execFlashRead dt s
  | .flashErase dt => Sys2Proof.Machine.execFlashErase dt s
  | .flashWrite dt => Sys2Proof.Machine.execFlashWrite dt s
  | .slotCheck dt env => Sys2Proof.Machine.execSlotCheck dt env s
  | .selftest dt pass => Sys2Proof.Machine.execSelftest dt pass s
  | .blotterSync dt => Sys2Proof.Machine.execBlotterSync dt s
  | .mailboxUnknownOp dt => Sys2Proof.Machine.execMailboxUnknownOp dt s
  | .overdueTest => Sys2Proof.Machine.execOverdueTest s
  | .kick dt src => Sys2Proof.Machine.execKick dt src s
  | .watchdogExpire => Sys2Proof.Machine.execWatchdogExpire s
  | .restartComplete dt digestOk => Sys2Proof.Machine.execRestartComplete dt digestOk s
  | .blotterCommit dt verified => Sys2Proof.Machine.execBlotterCommit dt verified s
  | .blockEraseComplete dt verified => Sys2Proof.Machine.execBlockEraseComplete dt verified s
  | .sramError dt mac row corrected owner => Sys2Proof.Machine.execSramError dt mac row corrected owner s
  | .selfTestComplete dt unit pass => Sys2Proof.Machine.execSelfTestComplete dt unit pass s
  | .scheduledTest dt unit wear => Sys2Proof.Machine.execScheduledTest dt unit wear s
  | .hoursJournal meanTj => Sys2Proof.Machine.execHoursJournal meanTj s
  | .pcieReset dt => Sys2Proof.Machine.execPcieReset dt s
  | .intStatClear dt src n value => Sys2Proof.Machine.execIntStatClear dt src n value s
  | .intEnWrite dt src n value => Sys2Proof.Machine.execIntEnWrite dt src n value s
  | .msixUnmask dt how v => Sys2Proof.Machine.execMsixUnmask dt how v s
  | .i2cCommand dt byte data pecOk => Sys2Proof.Machine.execI2cCommand dt byte data pecOk s
  | .i2cRead dt n => Sys2Proof.Machine.execI2cRead dt n s
  | .i2cWarmReset dt d0 d1 => Sys2Proof.Machine.execI2cWarmReset dt d0 d1 s
  | .i2cSclTimeout dt => Sys2Proof.Machine.execI2cSclTimeout dt s
  | .pmbusTelemetry dt r ok vout iout temp status => Sys2Proof.Machine.execPmbusTelemetry dt r ok vout iout temp status s
  | .pmbAlert dt r status => Sys2Proof.Machine.execPmbAlert dt r status s
  | .liveToggle => Sys2Proof.Machine.execLiveToggle s
  | .vidStep => Sys2Proof.Machine.execVidStep s
  | .servoWindowEnd => Sys2Proof.Machine.execServoWindowEnd s
  | .svHoldEnd => Sys2Proof.Machine.execSvHoldEnd s
  | .tempSense dt temps => Sys2Proof.Machine.execTempSense dt temps s
  | .bankPowerGoodRise dt n v33 => Sys2Proof.Machine.execBankPowerGoodRise dt n v33 s
  | .bankPowerGoodFall dt n => Sys2Proof.Machine.execBankPowerGoodFall dt n s
  | .bankInputsRestored dt n => Sys2Proof.Machine.execBankInputsRestored dt n s
  | .bypass dt => Sys2Proof.Machine.execBypass dt s
  | .idcode dt => Sys2Proof.Machine.execIdcode dt s
  | .samplePreload dt data => Sys2Proof.Machine.execSamplePreload dt data s
  | .extest dt => Sys2Proof.Machine.execExtest dt s
  | .jtagClamp dt => Sys2Proof.Machine.execJtagClamp dt s
  | .highz dt => Sys2Proof.Machine.execHighz dt s
  | .extestPulse dt => Sys2Proof.Machine.execExtestPulse dt s
  | .extestTrain dt => Sys2Proof.Machine.execExtestTrain dt s
  | .blockLockGain dt lane => Sys2Proof.Machine.execBlockLockGain dt lane s
  | .pcieLinkUp dt => Sys2Proof.Machine.execPcieLinkUp dt s
  | .pllLockLoss dt => Sys2Proof.Machine.execPllLockLoss dt s

end Sys2Proof.Machine
end

