-- ==== Sys2Proof/WellFormed.lean ====
section
/-! DEFINITION. Which commands are well-formed: every operand names something that the device has (R16, R38, R423) and fits its field. -/

namespace Sys2Proof

open Machine

/-- Is every operand of a command in the range that the device gives it? -/
def wfCommand : Instr → Bool
  | .baseBoundary sin => sin < p2 16
  | .laneRunComplete _ slot _ => isAxis slot
  | .outputPhase g => g < 4
  | .currentLoopInstant slot => isAxis slot
  | .dutyWrite slot => isAxis slot
  | .laneError _ slot => isAxis slot
  | .solveComplete _ asmEnd factEnd => asmEnd < 65536 && factEnd < 65536
  | .solutionRelease => true
  | .tileError _ q tile => q < 4 && tile < 17
  | .separationDelivery _ => true
  | .marginComplete _ => true
  | .marginDecision => true
  | .stop1DelayEnd j => isSout j
  | .mgnAck _ _ value => isWord value
  | .soutTestPulse _ j ch => isSout j && ch < 2
  | .soutReadbackCheck _ j _ _ => isSout j
  | .sinDiscrepancy _ i => isSin i
  | .sinDemand i => isSin i
  | .commitRequest _ _ value => isWord value
  | .commitCopy inst => shadowHeads.contains inst || (List.range 24).any fun k => sdPart k == inst
  | .registerWrite _ _ addr value be => addr < barSize && addr % 4 = 0 && isWord value && be < 16
  | .unlock _ _ value => isWord value
  | .unlockExpire _ => true
  | .tmrScrub _ => true
  | .indDataRead _ r w => isWin w && r.be < 16
  | .indDataWrite _ _ w value => isWin w && isWord value
  | .indWritePerform _ w => isWin w || w = 4
  | .indTimeout _ w _ => isWin w || w = 4
  | .apertureRead _ a => a.ofs < 0x400000 && a.be < 16
  | .apertureWrite _ ofs value be => ofs < 0x400000 && isWord value && be < 16
  | .tbWrap => true
  | .tbNsRead _ r => r.be < 16
  | .tbPeriodRead _ r => r.be < 16
  | .tbStep _ _ value => isWord value
  | .tbAdj _ _ value => isWord value
  | .refLoss _ => true
  | .ppsEdge _ _ => true
  | .ppsTimeout => true
  | .ppsOutPulse => true
  | .tsuCalibration _ u _ => u < 24
  | .captureEdge _ i _ => isCap i
  | .capWindowClose i => isCap i
  | .capStampRead _ r i => isCap i && r.be < 16
  | .evtAtWrite _ _ j value => isCap j && isWord value
  | .evtQueueInstant j => isCap j
  | .evtTrainPulse j => isCap j
  | .evtConversionPulse j => isCap j
  | .powerOnResetSupply _ => true
  | .porstN _ => true
  | .rstN _ => true
  | .warmRst _ _ value => isWord value
  | .coreSupervisor _ => true
  | .resetRelease _ straps => straps < 8
  | .pllLock _ => true
  | .folioLoadComplete _ _ => true
  | .flashTimeout _ slot => slot < 2
  | .hold _ _ => true
  | .holdExit _ _ => true
  | .service _ _ => true
  | .serviceExit _ _ => true
  | .reload _ _ => true
  | .surrender _ _ => true
  | .modReqUndefined _ _ code => code < 16 && (code == 0 || 6 < code)
  | .reloadTransition => true
  | .chnPush _ _ c => isChain c
  | .strokeCheck _ c => isChain c
  | .stop _ _ c => isChain c
  | .resume _ _ c => isChain c
  | .abort _ _ c => isChain c
  | .flush _ _ c => isChain c
  | .syncTmo c => isChain c
  | .limitEdge _ n which _ => isAxis n && which < 3
  | .limitLatch n which => isAxis n && which < 3
  | .fltClr _ _ n => isAxis n
  | .intRst _ _ n => isAxis n
  | .arm _ _ => true
  | .inkStop _ _ => true
  | .trig _ _ => true
  | .fbEdge _ k ins aux => isFb k && ins < 8 && aux < 8
  | .illWindowEnd k => isFb k
  | .hallTimeout k => isFb k
  | .fbCmpWrite _ _ k value => isFb k && isWord value
  | .fbPosWrite _ _ k _ value => isFb k && isWord value
  | .fbFltClr _ _ k => isFb k
  | .zarm _ _ k => isFb k
  | .xferStart _ k _ => isFb k
  | .absFrameComplete _ k _ => isFb k
  | .serialTimeout _ k => isFb k
  | .fbLatchPosRead _ r k => isFb k && r.be < 16
  | .samplerMismatch _ spare k => spare < 18 && isFb k
  | .carrierValley b => isPb b
  | .carrierPeak b => isPb b
  | .dutyGo _ _ b which value => isPb b && which < 4 && isWord value
  | .tripAccept _ b trips => isPb b && trips < 4096
  | .tripClr _ _ b trips => isPb b && trips < 4096
  | .sdResult k _ => isSd k
  | .ringFetch ch => isCh ch
  | .cycleStart ch => isCh ch
  | .cycleFrameReceive _ ch port arr bytes => frameOk ch port arr bytes
  | .nullFrameReceive _ ch port arr bytes => frameOk ch port arr bytes
  | .delayFrameReceive _ ch port arr bytes => frameOk ch port arr bytes
  | .frameReturn _ ch port arr bytes => frameOk ch port arr bytes
  | .laneFault _ lane => lane < 10
  | .switchRequest _ lane _ => lane < 8
  | .revertP0 _ _ ch => isCh ch
  | .revertP1 _ _ ch => isCh ch
  | .dmNow _ _ ch => isCh ch
  | .portDown _ ch port => isCh ch && isPort port
  | .linkBack _ ch port => isCh ch && isPort port
  | .channelLoss _ ch => isCh ch
  | .coldStart => true
  | .coldStartFrameReceive _ ch port arr bytes => frameOk ch port arr bytes
  | .backoffEnd => true
  | .leaderMissing _ ch => isCh ch
  | .leaderLost _ => true
  | .rejoinTimeout _ ch => isCh ch
  | .listenChannelTimeout _ ch => isCh ch
  | .status _ lane _ => lane = 8 || lane = 9
  | .time _ lane _ => lane = 8 || lane = 9
  | .cfg _ _ => true
  | .model _ _ => true
  | .snap _ _ => true
  | .solve _ _ => true
  | .twinLinkDown _ => true
  | .takeover _ ch => isCh ch
  | .holdoffEnd => true
  | .hbNow _ _ value => isWord value
  | .nop _ d n => isN d n
  | .endTask _ d n => isN d n
  | .reti _ d n => isN d n
  | .swi _ d n => isN d n
  | .br _ d cond target => isSerif d && cond < 8 && target < p2 13
  | .call _ d target => isSerif d && target < p2 13
  | .ret _ d n => isN d n
  | .loop _ d immf rotf cnt last => isSerif d && immf < 2 && rotf < 2 && cnt < p2 11 && last < p2 13
  | .lpop _ d n => isN d n
  | .mvs _ d f sp => isSerif d && f < 32 && sp < 14
  | .mvd _ d f sp => isSerif d && f < 32 && sp < 14
  | .ada _ d ax ay imm => isSerif d && ax < 8 && ay < 8 && imm < p2 16
  | .mvaf _ d fd fa fb fc => isR d fd fa fb fc
  | .mvfa _ d fd fa fb fc => isR d fd fa fb fc
  | .fadd _ d fd fa fb fc => isR d fd fa fb fc
  | .fsub _ d fd fa fb fc => isR d fd fa fb fc
  | .fmul _ d fd fa fb fc => isR d fd fa fb fc
  | .fma _ d fd fa fb fc => isR d fd fa fb fc
  | .mac _ d fd fa fb fc => isR d fd fa fb fc
  | .msub _ d fd fa fb fc => isR d fd fa fb fc
  | .fmin _ d fd fa fb fc => isR d fd fa fb fc
  | .fmax _ d fd fa fb fc => isR d fd fa fb fc
  | .fabs _ d fd fa fb fc => isR d fd fa fb fc
  | .fneg _ d fd fa fb fc => isR d fd fa fb fc
  | .fcmp _ d fd fa fb fc => isR d fd fa fb fc
  | .clamp _ d fd fa fb fc => isR d fd fa fb fc
  | .rcp _ d fd fa fb fc => isR d fd fa fb fc
  | .rsq _ d fd fa fb fc => isR d fd fa fb fc
  | .itof _ d fd fa fb fc => isR d fd fa fb fc
  | .ftoi _ d fd fa fb fc => isR d fd fa fb fc
  | .ld _ d f a pm imm => isM d f a pm imm
  | .st _ d f a pm imm => isM d f a pm imm
  | .ldi _ d f imm => isSerif d && f < 32 && imm < p2 16
  | .tapm _ d fd fc a => isSerif d && fd < 32 && fc < 32 && a < 8
  | .ldst _ d fd fb ax ay sx sy => isSerif d && fd < 32 && fb < 32 && ax < 8 && ay < 8 && sx < 3 && sy < 3
  | .illegalInstruction _ d => isSerif d
  | .interruptEntry _ d => isSerif d
  | .doorbell _ _ d => isSerif d
  | .sfTimerWrite _ _ d value => isSerif d && isWord value
  | .sfTimerExpire d => isSerif d
  | .releaseWarning d => isSerif d
  | .run _ _ d value => isSerif d && isWord value
  | .serifRelease d => isSerif d
  | .submit _ _ value => isWord value
  | .delayTick => true
  | .itemEnd _ core result => core < 4 && isWord result
  | .resBRead _ r => r.be < 16
  | .cancel _ _ value => isWord value
  | .obsWrite _ _ value => isWord value
  | .loadWindowEnd busy => busy ≤ 4000000
  | .door _ _ value => isWord value
  | .info _ version => isWord version
  | .flashRead _ => true
  | .flashErase _ => true
  | .flashWrite _ => true
  | .slotCheck _ _ => true
  | .selftest _ _ => true
  | .blotterSync _ => true
  | .mailboxUnknownOp _ => true
  | .overdueTest => true
  | .kick _ _ => true
  | .watchdogExpire => true
  | .restartComplete _ _ => true
  | .blotterCommit _ _ => true
  | .blockEraseComplete _ _ => true
  | .sramError _ mac row _ _ => mac < 240 && row < 1024
  | .selfTestComplete _ unit _ => isUnit unit
  | .scheduledTest _ unit _ => isUnit unit
  | .hoursJournal _ => true
  | .pcieReset _ => true
  | .intStatClear _ _ n value => n < 2 && isWord value
  | .intEnWrite _ _ n value => n < 2 && isWord value
  | .msixUnmask _ how v => how < 3 && isVec v
  | .i2cCommand _ byte data _ => byte < 256 && data.all (· < 256)
  | .i2cRead _ _ => true
  | .i2cWarmReset _ d0 d1 => d0 < 256 && d1 < 256
  | .i2cSclTimeout _ => true
  | .pmbusTelemetry _ r _ vout iout temp status => r < 8 && vout < 65536 && iout < 65536 && temp < 256 && status < 65536
  | .pmbAlert _ r status => r < 8 && status < 65536
  | .liveToggle => true
  | .vidStep => true
  | .servoWindowEnd => true
  | .svHoldEnd => true
  | .tempSense _ temps => temps.length == 8
  | .bankPowerGoodRise _ n _ => n < 6
  | .bankPowerGoodFall _ n => n < 6
  | .bankInputsRestored _ n => n < 6
  | .bypass _ => true
  | .idcode _ => true
  | .samplePreload _ _ => true
  | .extest _ => true
  | .jtagClamp _ => true
  | .highz _ => true
  | .extestPulse _ => true
  | .extestTrain _ => true
  | .blockLockGain _ lane => lane < 10
  | .pcieLinkUp _ => true
  | .pllLockLoss _ => true

/-- A well-formed command. -/
abbrev Instr.WellFormed (i : Instr) : Prop := wfCommand i = true

end Sys2Proof
end

