-- ==== Sys2Proof/Safety.lean ====
section
/-! DEFINITION. What counts as a sound state and a safe run: registers and memory in canonical form, commands that name what the device has. -/

namespace Sys2Proof

open Machine

/-- The registers and the memory are in canonical form: keys strictly rising, and no entry equal to what an unlisted key reads as. -/
def Machine.State.Canonical (s : State) : Prop := twf regDef s.regs = true ∧ Memory.wf s.mem = true

/-- Every command that waits is well-formed. -/
def Machine.State.QueueOk (s : State) : Prop := ∀ c ∈ s.pending, c.WellFormed

/-- A step that answers a next state. -/
def Machine.State.Steps (s t : State) : Prop := step s = .next t

/-- The command answers a next state, of which P holds. -/
def Machine.Yields (c : Instr) (s : State) (P : State → Prop) : Prop := ∃ t, exec c s = .next t ∧ P t

/-- Does a write of the host or Scribe to a register of domain d take effect: out of reset, over a link that is up (R446), the domain powered? -/
def Machine.State.mayWrite (s : State) (src : Src) (d : Nat) : Bool := src != .ring && s.srcUp src && s.dom d

/-- Only the listed register words may read otherwise; the interrupt status and its pending bits are apart, since a vector raised earlier may leave the merge meanwhile. -/
def Machine.OnlyWords (l : List Nat) (s t : State) : Prop :=
  ∀ f : Fld, f.addr < barSize → l.contains f.addr = false →
    f.addr ≠ 0x300 → f.addr ≠ 0x304 → f.addr ≠ 0x1800 → f.addr ≠ 0x1804 → t.rd f = s.rd f

/-- The words of the first n instances of a register. -/
def Machine.regAll (f : Fld) (n : Nat) : List Nat :=
  ((List.range n).map fun k => (f.i k).addr) ++ (List.range n).map fun k => (f.j k).addr

/-- The register words that the passing of time may change by itself: the submissions and the work of Ductus at the end of a tick (R407), the state that a core shows, the journal's queue as records leave the merge (R88), the slew in progress (R76). -/
def Machine.tickWords : List Nat :=
  [R.DCT_CNT.REFUSED.addr, R.DCT_FLAGS.PAST_OVF.addr, R.DCT_LISTS.READY_S.addr, R.DCT_TRACE_PTR.WRAPPED.addr, R.SCR_BLQ.OVF.addr, R.TB_ADJ_REM.REM.addr] ++
    regAll R.DCT_FLOW.INFLIGHT 16 ++ regAll R.DCT_STAT.OVF 16 ++ regAll R.DCT_STAT2.MAXWAIT 16 ++
    regAll R.DCT_TRACE.STAMP 512 ++ regAll R.DCT_TRACE2.KIND 512 ++ regAll R.RES_A.VALUE 2 ++ regAll R.RES_B.VALUE 2 ++
    regAll R.RES_LVL.VALUE 2 ++ regAll R.SF_STAT.STATE 4 ++ regAll R.SUB_RES.RES 2

/-- Is a mode request of a source neither unarmed nor refused for its moment (R113): armed, no trigger of the hardware and no other request on this tick, nothing pending? -/
def Machine.State.mayRequest (s : State) (src : Src) : Bool :=
  src != .ring && s.srcUp src && s.armed src && !s.log.trig && !s.log.wrote.contains R.MOD_REQ.CODE.key &&
    s.rd R.MOD_STATE.PEND == 15

/-- The device is in a reset with a cause (R97): the causes add up while it lasts, flash and the journal stay, nothing else runs. -/
def Machine.ResetBy (cause : Nat) (por : Bool) (u t : State) : Prop :=
  t.alive = false ∧ t.raw 0x104 = (if u.dev.inReset then u.dev.cause else 0) ||| 2 ^ cause ∧
    t.dev.por = (por || (u.dev.inReset && u.dev.por)) ∧ t.blt.log = u.blt.log ∧ t.tb.run = false ∧ t.bus.link = false ∧
    t.dev.fuses = u.dev.fuses ∧ t.cmt.reqs = [] ∧ ∀ a, t.mem8 0x100 a = u.mem8 0x100 a ∧ t.mem8 0x200 a = u.mem8 0x200 a

/-- Is core d about to execute a word: on, running a task or a handler, not taking an interrupt, not halting, not at the end of its code? -/
def Machine.State.atWord (s : State) (d word : Nat) : Bool :=
  s.serifOn d && !(s.serif d).idle && !(s.serif d).irq && !(s.serif d).halt && s.sfCode d == word &&
    decide ((s.serif d).pc + 1 < 8192)

/-- Does no hardware loop end at the word that the core executes? -/
def Machine.Serif.goesOn (c : Serif) : Bool := c.ldepth ≤ c.lmask || tget 0 c.le (c.ldepth - 1) != c.pc

/-- Core d goes on with the registers of c and raises flags: F, A and the IEEE flags are as c has them, the next word follows where no hardware loop ends, and no byte of memory changes. -/
def Machine.SerifGoes (d : Nat) (c : Serif) (raised : Nat) (u t : State) : Prop :=
  (t.serif d).f = c.f ∧ (t.serif d).a = c.a ∧ (t.serif d).st % 16 = (c.st ||| raised) % 16 ∧
    ((u.serif d).goesOn = true → (t.serif d).pc = (u.serif d).pc + 1) ∧ t.mem = u.mem

/-- Commands that store to no space of R65, no table and no flash. -/
def Instr.keepsMemory : Instr → Bool
  | .laneRunComplete .. | .currentLoopInstant .. | .dutyWrite .. | .laneError .. | .solveComplete ..
  | .solutionRelease .. | .tileError .. | .separationDelivery .. | .marginComplete .. | .marginDecision ..
  | .stop1DelayEnd .. | .mgnAck .. | .soutTestPulse .. | .soutReadbackCheck .. | .sinDiscrepancy .. | .sinDemand ..
  | .unlock .. | .unlockExpire .. | .tmrScrub .. | .indDataWrite .. | .apertureWrite .. | .tbWrap .. | .tbNsRead ..
  | .tbPeriodRead .. | .tbStep .. | .tbAdj .. | .refLoss .. | .ppsEdge .. | .ppsTimeout .. | .ppsOutPulse ..
  | .tsuCalibration .. | .captureEdge .. | .capWindowClose .. | .capStampRead .. | .evtAtWrite ..
  | .evtQueueInstant .. | .evtTrainPulse .. | .evtConversionPulse .. | .resetRelease .. | .pllLock ..
  | .flashTimeout .. | .hold .. | .holdExit .. | .service .. | .serviceExit .. | .reload .. | .surrender ..
  | .modReqUndefined .. | .chnPush .. | .strokeCheck .. | .stop .. | .resume .. | .abort .. | .flush .. | .syncTmo ..
  | .limitEdge .. | .limitLatch .. | .fltClr .. | .intRst .. | .inkStop .. | .trig .. | .fbEdge .. | .illWindowEnd ..
  | .hallTimeout .. | .fbCmpWrite .. | .fbPosWrite .. | .fbFltClr .. | .zarm .. | .xferStart .. | .absFrameComplete ..
  | .serialTimeout .. | .fbLatchPosRead .. | .samplerMismatch .. | .carrierValley .. | .carrierPeak .. | .dutyGo ..
  | .tripAccept .. | .tripClr .. | .sdResult .. | .ringFetch .. | .switchRequest .. | .revertP0 .. | .revertP1 ..
  | .dmNow .. | .portDown .. | .linkBack .. | .channelLoss .. | .coldStart .. | .backoffEnd .. | .leaderMissing ..
  | .leaderLost .. | .rejoinTimeout .. | .listenChannelTimeout .. | .status .. | .time .. | .snap .. | .solve ..
  | .takeover .. | .holdoffEnd .. | .hbNow .. | .interruptEntry .. | .doorbell .. | .sfTimerWrite ..
  | .sfTimerExpire .. | .releaseWarning .. | .run .. | .submit .. | .delayTick .. | .itemEnd .. | .resBRead ..
  | .cancel .. | .obsWrite .. | .loadWindowEnd .. | .door .. | .info .. | .flashRead .. | .slotCheck .. | .selftest ..
  | .blotterSync .. | .mailboxUnknownOp .. | .overdueTest .. | .kick .. | .watchdogExpire .. | .restartComplete ..
  | .blotterCommit .. | .blockEraseComplete .. | .selfTestComplete .. | .scheduledTest .. | .hoursJournal ..
  | .pcieReset .. | .intStatClear .. | .intEnWrite .. | .msixUnmask .. | .i2cCommand .. | .i2cRead ..
  | .i2cSclTimeout .. | .pmbusTelemetry .. | .pmbAlert .. | .liveToggle .. | .vidStep .. | .servoWindowEnd ..
  | .svHoldEnd .. | .tempSense .. | .bankPowerGoodRise .. | .bankPowerGoodFall .. | .bankInputsRestored ..
  | .bypass .. | .idcode .. | .samplePreload .. | .extest .. | .jtagClamp .. | .highz .. | .extestPulse ..
  | .extestTrain .. | .pcieLinkUp .. | .pllLockLoss .. => true
  | _ => false

end Sys2Proof
end

