-- ==== Sys2Proof/Certificates/Slice0/Obligations.lean ====
section
/-! DEFINITION. The statements for the provers, from the numbered rules of the spec. -/

section

open Sys2Proof Sys2Proof.Machine

/-- Commands are taken first in, first out. Idling on an empty queue is the model's choice (assumption log entry 1), not a rule of the spec. -/
def Obligations.StepTakesTheFrontCommand : Prop :=
  (∀ (c : Instr) (rest : List Instr) (s : State), step { s with pending := c :: rest } = exec c { s with pending := rest }) ∧
    (∀ s : State, s.pending = [] → step s = .next s)

/-- The values are those of the Reset column of the register maps (R12). That no address of memory is listed is the model's form of empty memory (assumption log entry 3). -/
def Obligations.ResetHoldsTheStatedValues : Prop :=
  State.reset.Canonical ∧ State.reset.pending = [] ∧ State.reset.mem = [] ∧ State.reset.alive = true ∧ State.reset.tb.run = false ∧ State.reset.mode = 0 ∧ State.reset.rd R.DEV_RST_CAUSE.POR_SUP = 1 ∧
    ∀ x ∈ [(R.DEV_PART.PART, 0x7160), (R.DEV_PART.STEP, 176), (R.IND_SPACE.STEP.j 3, 1), (R.TB_CTRL.SLEW_MAX, 50), (R.TB_SERVO.P_RATE_MAX, 100),
      (R.TB_SERVO.UNLOCK_THR, 100), (R.TB_SERVO.LOCK_THR, 20), (R.TB_SERVO.KI, 7), (R.MOD_STATE.PEND, 15), (R.MOD_STATE.FROM, 15),
      (R.CHN_CFG.SCALE_SRC.i 15, 31), (R.CHN_RATE.SIGMA.i 15, 0x8000), (R.CHN_SYNC.TMO.i 15, 0x3e8), (R.STK_OVR.V_OVR.i 159, 0x100), (R.STK_OVR.A_OVR.i 159, 0x100),
      (R.RUL_CFG.SOLVE_LAT, 2), (R.RUL_ITER.N, 24), (R.RUL_ALG.ALPHA, 0x6666), (R.RUL_ALG.EQ_EXP, 10), (R.RUL_ALG.RHO_EXP, 3),
      (R.SEP_CFG.ACT_BAND, 0x1f4), (R.SEP_KH.K_H, 0x640), (R.SEP_GEOM.C, 0x352), (R.SEP_GEOM.ZD_MIN, 50), (R.SEP_TIME.T_R_EXT, 0x4e20),
      (R.AX_SRC.FB_AGE.i 159, 2), (R.AX_SRC.SP_AGE.i 159, 2), (R.AX_CLCFG.POLES.i 159, 1), (R.AX_STEP.TMO.i 159, 10), (R.AX_STEP.INC.i 159, 1),
      (R.FB_CFG.OWNER.i 15, 255), (R.FB_CFG.FILT.i 15, 2), (R.FB_CFG.AUX_FILT.i 15, 2), (R.FB_ILL.ILL_LIMIT.i 15, 4), (R.FB_ILL.ILL_WINDOW.i 15, 10),
      (R.PB_CFG.N.i 11, 16), (R.PB_PER.PER.i 11, 0xf424), (R.PB_BOOT.BOOT_N.i 11, 16), (R.PB_BOOT.BOOT_W.i 11, 0x1f4), (R.PB_SENSE.IA.i 11, 31),
      (R.IKL_LEN.LEN.i 1, 64), (R.IKL_TOL.GUARD.i 1, 0x190), (R.IKL_TOL.ARRIVAL_TOL.i 1, 200), (R.IKL_MON.DRIFT_THR.i 1, 25), (R.IKL_MON.LOSS_N.i 1, 2),
      (R.IKL_START.LOSS_CYC.i 1, 3), (R.IKL_START.REJOIN_TMO.i 1, 0x100), (R.TWN_CFG.REVERT, 1), (R.TWN_CFG.HB_CYC, 8), (R.TWN_TIME.HOLDOFF, 100),
      (R.TWN_TIME.TKO_LEAD, 0x3e8), (R.TWN_STAT.PEER_MODE, 15), (R.SF_CTRL.RUN.i 3, 1), (R.SF_IRQ.WARN.i 3, 0x3e8), (R.DCT_CFG.TRACE_STOP, 1),
      (R.SCR_SHED.SHED_HI, 0x384), (R.SCR_SHED.SHED_LO, 0x2bc), (R.SPR_CFG.TRANS_N, 3), (R.SPR_CFG.TRANS_WIN, 60), (R.SPR_CFG.SCHED_PER, 0xe10),
      (R.SPR_WEAR.WEAR_LIMIT, 40), (R.IND_AP.AP_SPACE, 8), (R.PWR_SERVO.SV_WIN, 32), (R.PWR_SERVO2.SV_HOLD, 100)],
      State.reset.rd x.1 = x.2

/-- The invariant of the block. No well-formed command stops the machine: every command has an effect, in every state. -/
def Obligations.SoundStatesNeverStop : Prop :=
  ∀ s : State, s.Canonical → s.QueueOk → ∃ t, s.Steps t ∧ t.Canonical ∧ t.QueueOk ∧ t.pending = s.pending.tail ∧ t.dev.fuses = s.dev.fuses

/-- Canonical form: keys strictly rising, no entry equal to what an unlisted key reads as. Stated without a premise on the waiting commands. -/
def Obligations.StepsKeepTheCanonicalForm : Prop :=
  ∀ s t : State, s.Canonical → s.Steps t → t.Canonical ∧ t.pending = s.pending.tail ∧ t.dev.fuses = s.dev.fuses

/-- Well-formed: each operand in the range that the spec gives the instance, word or byte that it names. The stop of the others is the model's choice (assumption log entry 7). -/
def Obligations.WellFormedCommandsComplete : Prop :=
  ∀ (c : Instr) (s : State), (c.WellFormed → ∃ t, exec c s = .next t) ∧ (¬ c.WellFormed → exec c s = .fault .noSuchInstance)

/-- The frame of memory, for the commands that store nothing. -/
def Obligations.MemoryChangesOnlyByItsCommands : Prop :=
  ∀ (c : Instr) (s t : State), c.keepsMemory = true → exec c s = .next t → ∀ r a, t.mem8 r a = s.mem8 r a

/-- Reserved bits and offsets (R13). -/
def Obligations.ReservedBitsReadAsZero : Prop :=
  (∀ (s : State) (src : Src) (a b : Nat) (l : Loc) (r : RegRow), locate a = some l → 16 ≤ l.off → rowIn l.blk l.off = some r →
      (∀ f ∈ r.fs, ¬ (f.lo ≤ b ∧ b ≤ f.hi)) → (s.peek src a).testBit b = false) ∧
    (∀ (s : State) (src : Src) (a : Nat) (l : Loc), locate a = some l → 16 ≤ l.off → rowIn l.blk l.off = none → s.peek src a = 0) ∧
    (∀ (s : State) (src : Src) (a : Nat) (l : Loc), locate a = some l → l.off = 12 → s.peek src a = 0) ∧
    (∀ (s : State) (dt : Nat) (src : Src) (a v : Nat) (l : Loc), a < barSize → a % 4 = 0 → isWord v = true → src ≠ .ring →
      locate a = some l → (16 ≤ l.off ∨ l.off = 12) → rowIn l.blk l.off = none → (s.after dt).reachable l = true →
      Yields (.registerWrite dt src a v 15) s fun t => t = s.after dt)

/-- The latches of R80. -/
def Obligations.TimeReadsLatchTheirPair : Prop :=
  (∀ (s : State) (dt : Nat) (u : State) (src : Src) (be : Nat),
      u = s.after dt → be < 16 → u.reads src = true →
      Yields (.tbNsRead dt ⟨src, be⟩) s fun t =>
        t.out = .reply src (byteSel be u.now) :: u.out ∧ bits (t.peek src R.TB_SNAP.WSEQ.addr) 31 24 = u.wseq % 256 ∧ bits (t.peek src R.TB_SNAP.ACT.addr) 17 16 = b2n u.tb.actP ∧
        bits (t.peek src R.TB_SNAP.FRAC.addr) 15 0 = u.frac ∧ t.peek src R.TB_P_OFS.OFS.addr = u.pOfs ∧
        t.peek src R.TB_BOUND.NS.addr = u.peek src R.TB_BOUND.NS.addr ∧ t.regs = u.regs ∧ t.mem = u.mem ∧
        ∀ r : Src, r ≠ .ring → r ≠ src → ∀ a ∈ [R.TB_SNAP.WSEQ.addr, R.TB_P_OFS.OFS.addr, R.TB_BOUND.NS.addr], t.peek r a = u.peek r a) ∧
    (∀ (s : State) (dt : Nat) (u : State) (src : Src) (be : Nat),
      u = s.after dt → be < 16 → u.reads src = true →
      Yields (.tbPeriodRead dt ⟨src, be⟩) s fun t =>
        t.out = .reply src (byteSel be u.baseK) :: u.out ∧ t.peek src R.TB_BOUND.NS.addr = u.tb.latB % 2 ^ 32 ∧
        t.peek src R.TB_SNAP.WSEQ.addr = u.peek src R.TB_SNAP.WSEQ.addr ∧ t.peek src R.TB_P_OFS.OFS.addr = u.peek src R.TB_P_OFS.OFS.addr ∧ t.regs = u.regs ∧ t.mem = u.mem ∧
        ∀ r : Src, r ≠ .ring → r ≠ src → ∀ a ∈ [R.TB_SNAP.WSEQ.addr, R.TB_P_OFS.OFS.addr, R.TB_BOUND.NS.addr], t.peek r a = u.peek r a)

/-- The queue of an event output (R92). It holds 4 instants. -/
def Obligations.EventQueueTakesOrDiscardsAnInstant : Prop :=
  (∀ (s : State) (dt : Nat) (u : State) (src : Src) (j v : Nat),
      u = s.after dt → isCap j = true → isWord v = true → u.reads src = true → u.tb.run = true → u.evMode j = 1 → 64 ≤ sub32 v u.now → sub32 v u.now < 2 ^ 31 → (tget [] u.tb.evq j).length < 4 →
      Yields (.evtAtWrite dt src j v) s fun t =>
        tget [] t.tb.evq j = insTick u.now v (tget [] u.tb.evq j) ∧ v ∈ tget [] t.tb.evq j ∧ (tget [] t.tb.evq j).length = (tget [] u.tb.evq j).length + 1 ∧
        (∀ x ∈ tget [] u.tb.evq j, x ∈ tget [] t.tb.evq j) ∧ t.rd (R.EVT_STAT.QLEVEL.j j) = (tget [] u.tb.evq j).length + 1 ∧
        (∀ k, k ≠ j → tget [] t.tb.evq k = tget [] u.tb.evq k) ∧ t.mem = u.mem ∧ t.out = u.out) ∧
    (∀ (s : State) (dt : Nat) (u : State) (src : Src) (j v : Nat),
      u = s.after dt → isCap j = true → isWord v = true → u.reads src = true → u.tb.run = true → u.evMode j = 1 → sub32 v u.now < 64 ∨ 2 ^ 31 ≤ sub32 v u.now →
      Yields (.evtAtWrite dt src j v) s fun t =>
        t.tb = u.tb ∧ t.rd (R.EVT_STAT.LATE.j j) = 1 ∧ t.rd (R.EVT_STAT.QLEVEL.j j) = u.rd (R.EVT_STAT.QLEVEL.j j) ∧ t.mem = u.mem) ∧
    (∀ (s : State) (dt : Nat) (u : State) (src : Src) (j v : Nat),
      u = s.after dt → isCap j = true → isWord v = true → u.reads src = true → u.tb.run = true → u.evMode j = 1 → 64 ≤ sub32 v u.now → sub32 v u.now < 2 ^ 31 → 4 ≤ (tget [] u.tb.evq j).length →
      Yields (.evtAtWrite dt src j v) s fun t =>
        t.tb = u.tb ∧ t.rd (R.EVT_STAT.QFULL.j j) = 1 ∧ t.rd (R.EVT_STAT.QLEVEL.j j) = u.rd (R.EVT_STAT.QLEVEL.j j) ∧ t.mem = u.mem) ∧
    (∀ (s u : State) (j x : Nat) (r : List Nat),
      s.reach (x) = some u → isCap j = true → s.tb.evq = [(j, x :: x :: r)] → r.head? ≠ some x → s.evMode j = 1 →
      Yields (.evtQueueInstant j) s fun t =>
        tget [] t.tb.evq j = r ∧ t.rd (R.EVT_STAT.LEVEL.j j) = u.rd (R.EVT_STAT.LEVEL.j j) ∧ t.out = u.out ∧ t.mem = u.mem)

/-- The guard of the slot in use (R417): (b, m) is the range of the slot on chip select cs. An erase takes whole sectors of 4096 bytes from its address downward-aligned; a write whole words. -/
def Obligations.FlashOfTheRunningSlotIsGuarded : Prop :=
  (∀ (s : State) (dt : Nat) (u : State) (cs b m x : Nat),
      u = s.after dt → u.mbRuns 3 = true → u.mode ≠ 0 → u.mode ≠ 1 → u.slotRange = some (cs, b, m) → u.mbArg 1 = cs → b ≤ x → x < b + m → u.mbArg 2 / 4096 * 4096 ≤ x → x < u.mbArg 2 / 4096 * 4096 + 4096 * u.mbArg 3 →
      Yields (.flashErase dt) s fun t =>
        t.rd R.SCR_MB_STAT.STATUS = 5 ∧ t.rd R.SCR_MB_STAT.CODE = 2 ∧ t.mem = u.mem) ∧
    (∀ (s : State) (dt : Nat) (u : State) (cs b m x : Nat),
      u = s.after dt → u.mbRuns 4 = true → u.mode ≠ 0 → u.mode ≠ 1 → u.slotRange = some (cs, b, m) → u.mbArg 1 = cs → b ≤ x → x < b + m → u.mbArg 2 ≤ x → x < u.mbArg 2 + 4 * u.mbArg 3 →
      Yields (.flashWrite dt) s fun t =>
        t.rd R.SCR_MB_STAT.STATUS = 5 ∧ t.rd R.SCR_MB_STAT.CODE = 2 ∧ t.mem = u.mem)

/-- Reads answer their source with the value of the tick and keep what R80, R89, R281 and R410 say goes with it. -/
def Obligations.ReadsAnswerTheirSource : Prop :=
  (∀ (s : State) (dt : Nat) (u : State) (src : Src) (be : Nat),
      u = s.after dt → be < 16 → u.reads src = true →
      Yields (.tbNsRead dt ⟨src, be⟩) s fun t =>
        t.out = .reply src (byteSel be u.now) :: u.out ∧ (t.snap src).word = u.snapWord ∧ (t.snap src).pOfs = u.pOfs ∧ t.regs = u.regs ∧ t.mem = u.mem) ∧
    (∀ (s : State) (dt : Nat) (u : State) (src : Src) (be : Nat),
      u = s.after dt → be < 16 → u.reads src = true →
      Yields (.tbPeriodRead dt ⟨src, be⟩) s fun t =>
        t.out = .reply src (byteSel be u.baseK) :: u.out ∧ (t.snap src).bound = u.tb.latB ∧ t.regs = u.regs ∧ t.mem = u.mem) ∧
    (∀ (s : State) (dt : Nat) (u : State) (src : Src) (i be : Nat) (e : CapEntry) (q : List CapEntry),
      u = s.after dt → be < 16 → isCap i = true → u.reads src = true → tget [] u.tb.caps i = e :: q → (u.log.caps.any fun x => x.1 == i) = false →
      Yields (.capStampRead dt ⟨src, be⟩ i) s fun t =>
        t.out = .reply src (byteSel be e.ns) :: u.out ∧ tget [] t.tb.caps i = q ∧ t.rd (R.CAP_STAT.LEVEL.j i) = q.length % 8) ∧
    (∀ (s : State) (dt : Nat) (u : State) (src : Src) (k be : Nat),
      u = s.after dt → be < 16 → isFb k = true → u.mayWrite src 21 = true →
      Yields (.fbLatchPosRead dt ⟨src, be⟩ k) s fun t =>
        t.out = .reply src (byteSel be (u.rd (R.FB_LATCH_POS.VALUE.i k))) :: u.out ∧ t.rd (R.FB_LATCH_POS.VALUE.i k) = 0 ∧
        t.rd (R.FB_STAT.LATCH_FULL.i k) = 0) ∧
    (∀ (s : State) (dt : Nat) (u : State) (src : Src) (p be : Nat) (e : ResEntry) (l : List ResEntry),
      u = s.after dt → be < 16 → portOf src = some p → u.mayWrite src 15 = true → u.fifo p = e :: l →
      Yields (.resBRead dt ⟨src, be⟩) s fun t =>
        t.out = .reply src (byteSel be e.b) :: u.out ∧ t.fifo p = l)

/-- The clock of R79, its correction by R75 and R76, and the loss of the reference (R72). -/
def Obligations.ClockCommandsMoveTheTimeBase : Prop :=
  (∀ (s u : State),
      u = (if s.tb.wrapDue then s else s.after (s.clocksFor (p2 64 - s.acc))) → s.tb.run = true →
      Yields (.tbWrap) s fun t =>
        t.rd R.TB_STAT.WRAP = 1 ∧ t.tb.wrapDue = false ∧
        t.tb.wseqP = (if u.tb.actP then (u.tb.wseqP + 1) % 256 else u.tb.wseqP) ∧
        t.tb.wseqL = (if u.tb.actP then u.tb.wseqL else (u.tb.wseqL + 1) % 256)) ∧
    (∀ (s : State) (dt : Nat) (u : State) (src : Src) (v : Nat),
      u = s.after dt → isWord v = true → u.reads src = true → u.armed src = true → u.mode ≤ 1 → u.tb.run = true →
      Yields (.tbStep dt src v) s fun t =>
        t.acc = unsx 64 ((u.acc : Int) + sx 32 v * 4294967296) ∧ t.tb.evq = [] ∧ t.tb.caps = []) ∧
    (∀ (s : State) (dt : Nat) (u : State) (src : Src) (v : Nat),
      u = s.after dt → isWord v = true → u.reads src = true → u.armed src = true → 2 ≤ u.mode →
      Yields (.tbStep dt src v) s fun t =>
        t.rd R.TB_STAT.STEP_REFUSED = 1 ∧ t.tb = u.tb) ∧
    (∀ (s : State) (dt : Nat) (u : State) (src : Src) (v : Nat),
      u = s.after dt → isWord v = true → u.reads src = true → u.mode = 2 → (u.tb.remF + sx 32 v * 4294967296).natAbs ≤ 1000000 * 4294967296 →
      Yields (.tbAdj dt src v) s fun t =>
        t.tb.remF = u.tb.remF + sx 32 v * 4294967296 ∧ t.rd R.TB_ADJ_REM.REM = unsx 32 (remNs t.tb.remF)) ∧
    (∀ (s : State) (dt : Nat) (u : State),
      u = s.after dt → u.tb.run = true →
      Yields (.refLoss dt) s fun t =>
        t.rd R.TB_STAT.REF_LOSS = 1 ∧ t.tb.coast = some (u.tb.rim + 10000000))

/-- The PPS commands of R77 and R78 and the calibration of a time-stamp unit (R86). -/
def Obligations.PpsAndCalibrationCommands : Prop :=
  (∀ (s : State) (dt : Nat) (u : State) (rising : Bool),
      u = s.after dt → u.alive = true → u.mode ≠ 0 → u.taken 0 = true → (u.rd R.TB_CTRL.PPS_EDGE == 1) ≠ rising →
      Yields (.ppsEdge dt rising) s fun t =>
        t.tb.ppsRef = some (u.stamp16, u.tb.slewSum) ∧ t.tb.ppsAt = u.tb.rim ∧ (u.tb.ppsRef = none → t.tb.ppsRun = 0)) ∧
    (∀ (s : State),
      s.tb.run = true → s.ppsOn = true →
      Yields (.ppsTimeout) s fun t =>
        t.rd R.TB_STAT.PPS_LOCK = 0 ∧ t.rd R.TB_CTRL.L_SRC = 3 ∧ t.tb.ppsRun = 0) ∧
    (∀ (s u : State),
      s.reach (s.dueOf R.PPS_OUT_AT.AT) = some u → s.alive = true → s.mode ≠ 0 → s.act R.PPS_CFG.PPS_WIDTH ≠ 0 → u.taken 0 = true → u.scanned 0 = false → u.log.wrote = [] →
      Yields (.ppsOutPulse) s fun t =>
        t.out = .edge 0 0 (s.dueOf R.PPS_OUT_AT.AT) (u.act R.PPS_CFG.PPS_WIDTH * 1000) true :: u.out ∧
        t.rd R.PPS_OUT_AT.AT = add32 (s.dueOf R.PPS_OUT_AT.AT) 1000000000) ∧
    (∀ (s : State) (dt : Nat) (u : State) (k ps : Nat),
      u = s.after dt → k < 24 → 500 < ps → u.tb.run = true →
      Yields (.tsuCalibration dt k ps) s fun t =>
        t.rd R.TB_STAT.TSU_FAULT = 1 ∧ bit (t.rd R.TSU_FAIL.FAIL) k = true ∧ t.tb.uncal = u.tb.uncal ||| 2 ^ k) ∧
    (∀ (s : State) (dt : Nat) (u : State) (k ps : Nat),
      u = s.after dt → k < 24 → ps ≤ 500 →
      Yields (.tsuCalibration dt k ps) s fun t =>
        t = u)

/-- Captures (R89, R90): an edge enters its FIFO; a window that closes opens again a period later, or closes for good. -/
def Obligations.CaptureCommands : Prop :=
  (∀ (s : State) (dt : Nat) (u : State) (i : Nat) (rising : Bool),
      u = s.after dt → isCap i = true → u.tb.run = true → u.taken 0 = true → u.capTakes i rising = true → (tget [] u.tb.caps i).length < 4 →
      Yields (.captureEdge dt i rising) s fun t =>
        tget [] t.tb.caps i = tget [] u.tb.caps i ++ [(⟨u.capStamp i,
        (if u.now < u.capStamp i then (u.wseq + 255) % 256 else u.wseq), rising⟩ : CapEntry)]) ∧
    (∀ (s u : State) (i : Nat),
      s.reach (s.dueOf (R.CAP_CLOSE.NS.j i)) = some u → isCap i = true → s.alive = true → s.on (R.CAP_CFG.WIN_EN.j i) = true → u.act (R.CAP_CFG.WIN_PER.j i) = 0 →
      Yields (.capWindowClose i) s fun t =>
        t.rd (R.CAP_CFG.WIN_EN.j i) = 0 ∧ t.on (R.CAP_CFG.WIN_EN.j i) = false) ∧
    (∀ (s u : State) (i : Nat),
      s.reach (s.dueOf (R.CAP_CLOSE.NS.j i)) = some u → isCap i = true → s.alive = true → s.on (R.CAP_CFG.WIN_EN.j i) = true → u.act (R.CAP_CFG.WIN_PER.j i) ≠ 0 → u.log.wrote = [] → u.log.soft = [] →
      Yields (.capWindowClose i) s fun t =>
        t.rd (R.CAP_OPEN.NS.j i) = add32 (u.rd (R.CAP_OPEN.NS.j i)) (u.act (R.CAP_CFG.WIN_PER.j i) * 32) ∧
        t.rd (R.CAP_CLOSE.NS.j i) = add32 (u.rd (R.CAP_CLOSE.NS.j i)) (u.act (R.CAP_CFG.WIN_PER.j i) * 32))

/-- Event outputs (R91 to R94). -/
def Obligations.EventOutputCommands : Prop :=
  (∀ (s : State) (dt : Nat) (u : State) (src : Src) (j v : Nat),
      u = s.after dt → isCap j = true → isWord v = true → u.reads src = true → u.tb.run = true → u.evMode j ≠ 1 →
      Yields (.evtAtWrite dt src j v) s fun t =>
        t.rd (R.EVT_AT.AT.j j) = v) ∧
    (∀ (s : State) (dt : Nat) (u : State) (src : Src) (j v : Nat),
      u = s.after dt → isCap j = true → isWord v = true → u.reads src = true → u.tb.run = true → u.evMode j = 1 → 64 ≤ sub32 v u.now → sub32 v u.now < 2147483648 → (tget [] u.tb.evq j).length < 4 →
      Yields (.evtAtWrite dt src j v) s fun t =>
        tget [] t.tb.evq j = insTick u.now v (tget [] u.tb.evq j)) ∧
    (∀ (s u : State) (j x : Nat) (r : List Nat),
      s.reach (x) = some u → isCap j = true → tget [] s.tb.evq j = x :: r → s.evMode j = 1 →
      Yields (.evtQueueInstant j) s fun t =>
        tget [] t.tb.evq j = r.dropWhile (· == x) ∧
        t.rd (R.EVT_STAT.LEVEL.j j) = (if (r.takeWhile (· == x)).length % 2 = 1 then u.rd (R.EVT_STAT.LEVEL.j j) else 1 - u.rd (R.EVT_STAT.LEVEL.j j))) ∧
    (∀ (s u : State) (j : Nat),
      s.reach (s.dueOf (R.EVT_AT.AT.j j)) = some u → isCap j = true → s.alive = true → s.evMode j = 2 → s.tb.evStop.contains j = false → 8 ≤ s.act (R.EVT_PER.PER.j j) → u.log.wrote = [] →
      Yields (.evtTrainPulse j) s fun t =>
        t.rd (R.EVT_AT.AT.j j) = add32 (s.dueOf (R.EVT_AT.AT.j j)) (s.act (R.EVT_PER.PER.j j)) ∧
        tget 0 t.tb.evEnd j = u.tb.rim +
        (if s.act (R.EVT_PER.PER.j j) ≤ u.evWidth j then s.act (R.EVT_PER.PER.j j) - 1 else u.evWidth j)) ∧
    (∀ (s u : State) (j a per : Nat),
      u = s.runTo (s.nextInst ((s.tb.evLast.find? fun x => x.1 == j).map (·.2)) a per (s.actS (R.EVT_CFG.OFS.j j))) → isCap j = true → s.alive = true → s.tb.run = true → s.evMode j = 3 → s.evSource (s.act (R.EVT_CFG.SRC.j j)) = some (a, per) →
      Yields (.evtConversionPulse j) s fun t =>
        tget 0 t.tb.evEnd j = u.tb.rim + u.evWidth j ∧ t.regs = u.regs ∧ t.mem = u.mem ∧
        t.tb.evLast.find? (fun x => x.1 == j) = some (j, s.nextInst ((s.tb.evLast.find? fun x => x.1 == j).map (·.2)) a per (s.actS (R.EVT_CFG.OFS.j j))) ∧
        (u.driven = true → u.taken 0 = true → u.scanned outEvt = false → t.out = .edge outEvt j
        (s.nextInst ((s.tb.evLast.find? fun x => x.1 == j).map (·.2)) a per (s.actS (R.EVT_CFG.OFS.j j))) (u.evWidth j) (u.act (R.EVT_CFG.IDLE.j j) == 0) :: u.out))

/-- The core supply and its signs of life (R456, R458, R482, R486). The step of the VID code falls at least 1 µs after the last; the temperatures are those the command brings. -/
def Obligations.PowerCommandsMoveTheCore : Prop :=
  (∀ (s : State),
      s.tb.run = true →
      Yields (.servoWindowEnd) s fun t =>
        t.pwr.wmin = none ∧ t.pwr.eff = t.rdw 0x7F0010 ∧ t.pwr.eff2 = t.rdw 0x7F0014 ∧
        (s.pwr.wmin = none → t.rd R.PWR_VID.TARGET = s.rd R.PWR_VID.TARGET)) ∧
    (∀ (s : State) (w i j : Nat),
      s.tb.run = true → s.pwr.wmin = some ((w : Rat), i, j) →
      Yields (.servoWindowEnd) s fun t =>
        t.rd R.PWR_SLACK.SRC = i % 4 ∧ t.rd R.PWR_SLACK.INDEX = j % 65536 ∧ (w ≤ 127 → t.rd R.PWR_SLACK.MIN_SLACK = w)) ∧
    (∀ (s u : State),
      u = s.runRim (s.pwr.stepAt + 1000) → s.tb.run = true → s.pwr.driven = true → s.rd R.PWR_VID.CODE ≠ s.rd R.PWR_VID.TARGET →
      Yields (.vidStep) s fun t =>
        t.rd R.PWR_VID.CODE = (if s.rd R.PWR_VID.CODE < s.rd R.PWR_VID.TARGET then s.rd R.PWR_VID.CODE + 1 else s.rd R.PWR_VID.CODE - 1) ∧
        t.rd R.PWR_VID.VOLT_MV = u.vBase + 5 * t.rd R.PWR_VID.CODE ∧ t.pwr.stepAt = u.tb.rim) ∧
    (∀ (s : State) (h : Nat),
      s.pwr.hold = some h →
      Yields (.svHoldEnd) s fun t =>
        t.rd R.PWR_SUPV.HOLD_TOP = 0 ∧ t.pwr.hold = none) ∧
    (∀ (s : State) (dt : Nat) (u : State) (temps : List Int) (x : Int) (i : Nat),
      u = s.after dt → temps.length = 8 → hottest temps 0 = some (x, i) →
      Yields (.tempSense dt temps) s fun t =>
        t.rd R.PWR_TEMP.SENSOR = i % 16 ∧ (0 ≤ x → x < 32768 → t.rd R.PWR_TEMP.HOT = x.toNat) ∧
        (u.tjMax < x → t.rd R.PWR_SUPV.TEMP_HI = 1)) ∧
    (∀ (s u : State),
      u = s.runRim ((s.tb.rim / 500000 + 1) * 500000) → s.liveRuns = true →
      Yields (.liveToggle) s fun t =>
        t.rd R.LIVE_STAT.LEVEL = 1 - u.rd R.LIVE_STAT.LEVEL ∧ t.rd R.LIVE_STAT.RUNNING = 1)

/-- PUSH of a chain (R123) and its command word (R136): each command sets its own bit and leaves every other register field as it was. -/
def Obligations.QueueCommandWordsWaitForTheirBoundary : Prop :=
  (∀ (s : State) (dt : Nat) (u : State) (src : Src) (c : Nat),
      u = s.after dt → isChain c = true → u.mayWrite src 10 = true → u.rd (R.CHN_PUSH.PUSH.i c) = 0 →
      Yields (.chnPush dt src c) s fun t =>
        (t.queue c).chk = some (u.staged c) ∧ t.rd (R.CHN_PUSH.PUSH.i c) = 1 ∧ t.mem = u.mem ∧ OnlyWords [(R.CHN_PUSH.PUSH.i c).addr] u t) ∧
    (∀ (s : State) (dt : Nat) (u : State) (src : Src) (c : Nat),
      u = s.after dt → isChain c = true → u.mayWrite src 10 = true → u.rd (R.CHN_PUSH.PUSH.i c) = 1 →
      Yields (.chnPush dt src c) s fun t =>
        t.rd (R.CHN_FLAGS.PUSH_LOST.i c) = 1 ∧ (t.queue c).chk = (u.queue c).chk) ∧
    (∀ (s : State) (dt : Nat) (u : State) (src : Src) (c : Nat),
      u = s.after dt → isChain c = true → u.mayWrite src 10 = true →
      Yields (.stop dt src c) s fun t =>
        t.rd (R.CHN_CMD.STOP.i c) = 1 ∧ t.rd (R.CHN_CMD.RESUME.i c) = u.rd (R.CHN_CMD.RESUME.i c) ∧
        t.rd (R.CHN_CMD.ABORT.i c) = u.rd (R.CHN_CMD.ABORT.i c) ∧ t.mem = u.mem ∧ OnlyWords [(R.CHN_CMD.STOP.i c).addr] u t) ∧
    (∀ (s : State) (dt : Nat) (u : State) (src : Src) (c : Nat),
      u = s.after dt → isChain c = true → u.mayWrite src 10 = true →
      Yields (.resume dt src c) s fun t =>
        t.rd (R.CHN_CMD.RESUME.i c) = 1 ∧ t.rd (R.CHN_CMD.STOP.i c) = u.rd (R.CHN_CMD.STOP.i c) ∧
        t.rd (R.CHN_CMD.FLUSH.i c) = u.rd (R.CHN_CMD.FLUSH.i c) ∧ t.mem = u.mem ∧ OnlyWords [(R.CHN_CMD.STOP.i c).addr] u t) ∧
    (∀ (s : State) (dt : Nat) (u : State) (src : Src) (c : Nat),
      u = s.after dt → isChain c = true → u.mayWrite src 10 = true →
      Yields (.abort dt src c) s fun t =>
        t.rd (R.CHN_CMD.ABORT.i c) = 1 ∧ t.rd (R.CHN_CMD.STOP.i c) = u.rd (R.CHN_CMD.STOP.i c) ∧
        t.rd (R.CHN_CMD.FLUSH.i c) = u.rd (R.CHN_CMD.FLUSH.i c) ∧ t.mem = u.mem ∧ OnlyWords [(R.CHN_CMD.STOP.i c).addr] u t) ∧
    (∀ (s : State) (dt : Nat) (u : State) (src : Src) (c : Nat),
      u = s.after dt → isChain c = true → u.mayWrite src 10 = true →
      Yields (.flush dt src c) s fun t =>
        t.rd (R.CHN_CMD.FLUSH.i c) = 1 ∧ t.rd (R.CHN_CMD.ABORT.i c) = u.rd (R.CHN_CMD.ABORT.i c) ∧
        t.rd (R.CHN_CMD.RESUME.i c) = u.rd (R.CHN_CMD.RESUME.i c) ∧ t.mem = u.mem ∧ OnlyWords [(R.CHN_CMD.STOP.i c).addr] u t)

/-- The check of a pushed record (R124), the time-out of a wait (R139), and the limit inputs (R141, R142). -/
def Obligations.StrokeChecksAndLimitInputs : Prop :=
  (∀ (s : State) (dt : Nat) (u : State) (c : Nat) (r : List Nat),
      u = s.after dt → isChain c = true → u.alive = true → (u.queue c).chk = some r → u.checkRec c r = 0 →
      Yields (.strokeCheck dt c) s fun t =>
        (t.queue c).recs = (u.queue c).recs ++ [r] ∧ (t.queue c).chk = none ∧ t.rd (R.CHN_QSTAT.LAST_RES.i c) = 0 ∧
        t.rd (R.CHN_PUSH.PUSH.i c) = 0) ∧
    (∀ (s : State) (dt : Nat) (u : State) (c : Nat) (r : List Nat),
      u = s.after dt → isChain c = true → u.alive = true → (u.queue c).chk = some r → u.checkRec c r ≠ 0 → u.rd (R.CHN_CNT.REJECTED.i c) < 65534 →
      Yields (.strokeCheck dt c) s fun t =>
        (t.queue c).recs = (u.queue c).recs ∧ (t.queue c).chk = none ∧ t.rd (R.CHN_QSTAT.LAST_RES.i c) = u.checkRec c r ∧
        t.rd (R.CHN_PUSH.PUSH.i c) = 0 ∧ t.rd (R.CHN_CNT.REJECTED.i c) = u.rd (R.CHN_CNT.REJECTED.i c) + 1) ∧
    (∀ (s : State) (c : Nat),
      isChain c = true → s.alive = true → s.waiting c = true → s.act (R.CHN_SYNC.TMO.i c) ≠ 0 →
      Yields (.syncTmo c) s fun t =>
        t.rd (R.CHN_FLAGS.SYNC_TMO.i c) = 1 ∧ t.qState c = 5) ∧
    (∀ (s : State) (dt : Nat) (u : State) (n which : Nat) (level : Bool),
      u = s.after dt → isAxis n = true → which < 3 → u.alive = true → u.mode ≠ 0 → u.dom 10 = true → 0x80 ≤ (u.limSrc n which).1 → (level != ((u.limSrc n which).2 == 1)) ≠ (genLim (u.gen n) which).raw →
      Yields (.limitEdge dt n which level) s fun t =>
        (genLim (t.gen n) which).raw = (level != ((u.limSrc n which).2 == 1)) ∧ (genLim (t.gen n) which).since = u.now ∧
        t.rd ((rawBit which).i n) = b2n (level != ((u.limSrc n which).2 == 1)) ∧ (genLim (t.gen n) which).stable = (genLim (u.gen n) which).stable ∧ t.mem = u.mem) ∧
    (∀ (s : State) (dt : Nat) (u : State) (n which k b : Nat) (level : Bool),
      u = s.after dt → isAxis n = true → which < 3 → u.alive = true → u.mode ≠ 0 → u.dom 10 = true → u.fbRuns = true → isFb k = true → b < 3 → (u.limSrc n which).1 = 1 + 3 * k + b → u.taken (fbBank k) = true → bit (u.rd (R.FB_STAT.AUX.i k)) b ≠ level → (level != ((u.limSrc n which).2 == 1)) ≠ (genLim (u.gen n) which).raw →
      Yields (.limitEdge dt n which level) s fun t =>
        (genLim (t.gen n) which).raw = (level != ((u.limSrc n which).2 == 1)) ∧ (genLim (t.gen n) which).since = u.now ∧
        t.rd ((rawBit which).i n) = b2n (level != ((u.limSrc n which).2 == 1)) ∧ (genLim (t.gen n) which).stable = (genLim (u.gen n) which).stable ∧
        bit (t.rd (R.FB_STAT.AUX.i k)) b = level ∧ t.mem = u.mem) ∧
    (∀ (s u : State) (n which : Nat),
      u = s.runTo (add32 (genLim (s.gen n) which).since (s.debTicks n)) → isAxis n = true → which < 3 → s.alive = true → s.mode ≠ 0 → s.dom 10 = true → limUsed (s.limSrc n which).1 = true → (genLim (s.gen n) which).raw = false → (genLim (s.gen n) which).stable = true →
      Yields (.limitLatch n which) s fun t =>
        (genLim (t.gen n) which).stable = false ∧ (genLim (t.gen n) which).burst = false ∧
        (genLim (t.gen n) which).capOff = (genLim (u.gen n) which).cand ∧ t.regs = u.regs) ∧
    (∀ (s : State) (n : Nat),
      isAxis n = true → s.alive = true → s.mode ≠ 0 → s.dom 10 = true → limUsed (s.limSrc n 2).1 = true → (genLim (s.gen n) 2).raw = true → (genLim (s.gen n) 2).stable = false →
      Yields (.limitLatch n 2) s fun t =>
        (genLim (t.gen n) 2).stable = true ∧ (genLim (t.gen n) 2).burst = false ∧
        (genLim (t.gen n) 2).capOn = (genLim (s.gen n) 2).cand)

/-- The commands that write a feedback channel (R261 to R263, R276, R278, R279). A write of position, revolution or comparator leaves memory as it was. -/
def Obligations.FeedbackWritesTakeEffect : Prop :=
  (∀ (s : State) (dt : Nat) (u : State) (src : Src) (k v : Nat),
      u = s.after dt → isFb k = true → isWord v = true → u.mayWrite src 21 = true →
      Yields (.fbCmpWrite dt src k v) s fun t =>
        t.rd (R.FB_CMP.VALUE.i k) = v ∧ t.rd (R.FB_STAT.BEHIND.i k) = b2n (u.fbBehind k v) ∧ t.mem = u.mem ∧
        OnlyWords [(R.FB_CMP.VALUE.i k).addr, (R.FB_STAT.BEHIND.i k).addr] u t) ∧
    (∀ (s : State) (dt : Nat) (u : State) (src : Src) (k v : Nat),
      u = s.after dt → isFb k = true → isWord v = true → u.mayWrite src 21 = true → u.fbAbs k = false → u.log.moved = [] → v < u.fbMod k →
      Yields (.fbPosWrite dt src k false v) s fun t =>
        t.rd (R.FB_POS.VALUE.i k) = v ∧ t.rd (R.FB_STAT.POS_UNCERTAIN.i k) = 0 ∧ t.rd (R.FB_REV.VALUE.i k) = (if u.fbLinear k then 0 else u.fbRev k) ∧ t.mem = u.mem) ∧
    (∀ (s : State) (dt : Nat) (u : State) (src : Src) (k v : Nat),
      u = s.after dt → isFb k = true → isWord v = true → u.mayWrite src 21 = true → u.fbAbs k = false → u.log.moved = [] → u.fbPos k < u.fbMod k →
      Yields (.fbPosWrite dt src k true v) s fun t =>
        t.rd (R.FB_REV.VALUE.i k) = (if u.fbLinear k then 0 else v) ∧ t.rd (R.FB_POS.VALUE.i k) = u.fbPos k ∧
        t.rd (R.FB_STAT.POS_UNCERTAIN.i k) = u.rd (R.FB_STAT.POS_UNCERTAIN.i k) ∧ t.mem = u.mem) ∧
    (∀ (s : State) (dt : Nat) (u : State) (src : Src) (k : Nat),
      u = s.after dt → isFb k = true → u.mayWrite src 21 = true →
      Yields (.fbFltClr dt src k) s fun t =>
        t.rd (R.FB_CTRL.FLT_CLR.i k) = 1 ∧ t.rd (R.FB_STAT.FAULT.i k) = u.rd (R.FB_STAT.FAULT.i k) ∧ t.mem = u.mem ∧
        OnlyWords [(R.FB_CTRL.FLT_CLR.i k).addr] u t) ∧
    (∀ (s : State) (dt : Nat) (u : State) (src : Src) (k : Nat),
      u = s.after dt → isFb k = true → u.mayWrite src 21 = true →
      Yields (.zarm dt src k) s fun t =>
        t.rd (R.FB_CTRL.ZARM.i k) = 1 ∧ t.rd (R.FB_STAT.ZARM.i k) = 1 ∧ t.rd (R.FB_STAT.FAULT.i k) = u.rd (R.FB_STAT.FAULT.i k) ∧ t.mem = u.mem ∧
        OnlyWords [(R.FB_CTRL.ZARM.i k).addr, (R.FB_STAT.ZARM.i k).addr] u t)

/-- Edges of a feedback channel (R255, R256), illegal edges and their window (R260), and the time-out of an invalid Hall state (R265). The last is stated where no lane reads the channel, since a reader may react further. -/
def Obligations.FeedbackEdgesAndWindows : Prop :=
  (∀ (s : State) (dt : Nat) (u : State) (k ins : Nat),
      u = s.after dt → isFb k = true → ins < 8 → u.fbRuns = true → u.taken (fbBank k) = true → u.fbMode k = 0 →
      Yields (.fbEdge dt k ins (u.rd (R.FB_STAT.AUX.i k))) s fun t =>
        t.rd (R.FB_STAT.IN.i k) = ins ∧ t.rd (R.FB_POS.VALUE.i k) = u.rd (R.FB_POS.VALUE.i k)) ∧
    (∀ (s : State) (dt : Nat) (u : State) (k ins : Nat) (d : Int),
      u = s.after dt → isFb k = true → ins < 8 → u.fbRuns = true → u.taken (fbBank k) = true → u.fbMode k = 1 → bit (u.rd (R.FB_STAT.IN.i k)) 2 = bit ins 2 → bit (u.rd (R.FB_STAT.IN.i k)) 0 = bit ins 0 ∨ bit (u.rd (R.FB_STAT.IN.i k)) 1 = bit ins 1 → d = quadCount (u.act (R.FB_CFG.DECODE.i k)) (bit (u.rd (R.FB_STAT.IN.i k)) 0) (bit (u.rd (R.FB_STAT.IN.i k)) 1) (bit ins 0) (bit ins 1) → d ≠ 0 → u.act (R.FB_CFG.DIR_INV.i k) = 0 →
      Yields (.fbEdge dt k ins (u.rd (R.FB_STAT.AUX.i k))) s fun t =>
        t.rd (R.FB_STAT.IN.i k) = ins ∧ t.rd (R.FB_POS.VALUE.i k) = (((u.fbPos k : Int) + d) % (u.fbMod k : Int)).toNat ∧ t.rd (R.FB_STAT.DIR.i k) = b2n (decide (d < 0))) ∧
    (∀ (s : State) (dt : Nat) (u : State) (k ins : Nat),
      u = s.after dt → isFb k = true → ins < 8 → u.fbRuns = true → u.taken (fbBank k) = true → u.fbMode k = 4 → bit (u.rd (R.FB_STAT.IN.i k)) 0 ≠ bit ins 0 → bit (u.rd (R.FB_STAT.IN.i k)) 1 ≠ bit ins 1 → u.act (R.FB_ILL.ILL_LIMIT.i k) = 0 → u.rd (R.FB_CNT.ILL_CNT.i k) < 65534 →
      Yields (.fbEdge dt k ins (u.rd (R.FB_STAT.AUX.i k))) s fun t =>
        t.rd (R.FB_STAT.IN.i k) = ins ∧ t.rd (R.FB_STAT.POS_UNCERTAIN.i k) = 1 ∧
        t.rd (R.FB_CNT.ILL_CNT.i k) = u.rd (R.FB_CNT.ILL_CNT.i k) + 1 ∧ t.rd (R.FB_POS.VALUE.i k) = u.rd (R.FB_POS.VALUE.i k)) ∧
    (∀ (s u : State) (k : Nat),
      u = s.runRim ((s.fb k).illAt + 1000000 * max 1 (s.act (R.FB_ILL.ILL_WINDOW.i k))) → isFb k = true → s.fbRuns = true → (s.fb k).illN ≠ 0 →
      Yields (.illWindowEnd k) s fun t =>
        (t.fb k).illN = 0 ∧ bit (t.rd (R.FB_STAT.CAUSE.i k)) fbcIll = false ∧
        OnlyWords [(R.FB_STAT.CAUSE.i k).addr] u t) ∧
    (∀ (s u : State) (k r : Nat),
      u = s.runRim (r + 1000 * max 1 (s.act (R.FB_HALL.HALL_TMO.i k))) → isFb k = true → (s.fb k).badAt = some r → s.fbRuns = true → s.fbMode k = 2 → bit (s.rd (R.FB_STAT.CAUSE.i k)) fbcHall = false → u.fbReaders k = [] →
      Yields (.hallTimeout k) s fun t =>
        t.rd (R.FB_STAT.FAULT.i k) = 1 ∧ t.rd (R.FB_STAT.LOST.i k) = 1 ∧ bit (t.rd (R.FB_STAT.CAUSE.i k)) fbcHall = true)

/-- Transfers of an absolute encoder (R267 to R271) and the spare samplers (R426). -/
def Obligations.AbsoluteEncoderTransfers : Prop :=
  (∀ (s u : State) (dt k : Nat) (line : Bool) (a per : Nat),
      u = (s.after dt).runTo ((s.after dt).xferAt k a per) → isFb k = true → (s.after dt).fbRuns = true → (s.after dt).dev.rgIn = true → (s.after dt).xferGrid k = some (a, per) → (s.after dt).fbMode k = 6 → (u.fb k).xfer = none →
      Yields (.xferStart dt k line) s fun t =>
        (t.fb k).xfer = some (u.now, add32 ((s.after dt).xferAt k a per) (u.act (R.FB_XFER.XFER_LEAD.i k)), false, u.tb.rim) ∧ (t.fb k).xAt = some ((s.after dt).xferAt k a per) ∧ t.regs = u.regs ∧ t.mem = u.mem ∧
        (0 < u.reqLen k → u.taken (fbBank k) = true → u.scanned outFb = false → ∃ b : List Bool, b.length = u.reqLen k ∧
        t.out = .serial outFb (3 * k) b :: .edge outFb (3 * k + 1) u.now (u.reqLen k * u.bitTime k) true :: u.out)) ∧
    (∀ (s u : State) (dt k : Nat) (line : Bool) (a per : Nat),
      u = (if (((s.after dt).runTo ((s.after dt).xferAt k a per)).fb k).xEnd = 0 then (s.after dt).runTo ((s.after dt).xferAt k a per) else ((s.after dt).runTo ((s.after dt).xferAt k a per)).runRim ((((s.after dt).runTo ((s.after dt).xferAt k a per)).fb k).xEnd + 1000 * ((s.after dt).runTo ((s.after dt).xferAt k a per)).act (R.FB_XFER2.TM.i k))) → isFb k = true → (s.after dt).fbRuns = true → (s.after dt).dev.rgIn = true → (s.after dt).xferGrid k = some (a, per) → (s.after dt).fbMode k = 5 → (u.fb k).xfer = none →
      Yields (.xferStart dt k line) s fun t =>
        (t.fb k).xfer = some (u.now, add32 ((s.after dt).xferAt k a per) (u.act (R.FB_XFER.XFER_LEAD.i k)), !(line && u.taken (fbBank k)), u.tb.rim) ∧ (t.fb k).xAt = some ((s.after dt).xferAt k a per) ∧ t.mem = u.mem ∧
        ((line && u.taken (fbBank k)) = false → t.rd (R.FB_FLAGS.LINE_ERR.i k) = 1) ∧ ((line && u.taken (fbBank k)) = true → t.regs = u.regs)) ∧
    (∀ (s u : State) (dt k : Nat) (line : Bool) (a per : Nat),
      u = (s.after dt).runTo ((s.after dt).xferAt k a per) → isFb k = true → (s.after dt).fbRuns = true → (s.after dt).dev.rgIn = true → (s.after dt).xferGrid k = some (a, per) → (s.after dt).fbAbs k = true → (u.fb k).xfer.isSome = true → u.rd (R.FB_CNT2.XFER_LATE.i k) < 65534 →
      Yields (.xferStart dt k line) s fun t =>
        t.rd (R.FB_CNT2.XFER_LATE.i k) = u.rd (R.FB_CNT2.XFER_LATE.i k) + 1 ∧ (t.fb k).xfer = (u.fb k).xfer) ∧
    (∀ (s : State) (dt : Nat) (u : State) (k : Nat) (frame : List Bool) (t0 i0 r : Nat),
      u = s.after dt → isFb k = true → u.fbRuns = true → u.fbMode k = 6 → (u.fb k).xfer = some (t0, i0, false, r) → u.taken (fbBank k) = true → frame.length = u.nbits k → u.crcW k = 0 → u.act (R.FB_FRAME2.ERR_MASK.i k) = 0 → u.act (R.FB_JUMP.JUMP_MAX.i k) = 0 → u.act (R.FB_CFG.GRAY.i k) = 0 →
      Yields (.absFrameComplete dt k frame) s fun t =>
        (t.fb k).xfer = none ∧ (t.fb k).xEnd = u.tb.rim ∧ (t.fb k).badN = 0 ∧
        (t.fb k).good.head?.map (·.pos) = some (frameField frame (u.nbits k) (u.act (R.FB_FRAME.POS_OFS.i k)) (u.posLen k) (u.act (R.FB_FRAME2.MSB_FIRST.i k) == 1)) ∧
        t.rd (R.FB_POS.VALUE.i k) = frameField frame (u.nbits k) (u.act (R.FB_FRAME.POS_OFS.i k)) (u.posLen k) (u.act (R.FB_FRAME2.MSB_FIRST.i k) == 1) ∧
        (t.fb k).good.head?.map (·.stamp) = some (add32 t0 (u.act (R.FB_XFER2.LAT_OFS.i k)))) ∧
    (∀ (s u : State) (k : Nat) (frame : List Bool) (x : Nat × Nat × Bool × Nat),
      u = s.runRim (x.2.2.2 + 2 * s.bitTime k * (s.nbits k + 1) + s.act (R.FB_XFER2.DATA_DLY.i k)) → isFb k = true → s.fbRuns = true → s.fbMode k = 5 → (s.fb k).xfer = some x → (u.fb k).xfer = some x →
      Yields (.absFrameComplete 0 k frame) s fun t =>
        (t.fb k).xfer = none ∧ (t.fb k).xEnd = u.tb.rim ∧ (x.2.2.1 = true → (t.fb k).badN = (u.fb k).badN + 1)) ∧
    (∀ (s u : State) (dt k : Nat) (x : Nat × Nat × Bool × Nat),
      u = (s.after dt).runRim (x.2.2.2 + (s.after dt).reqLen k * (s.after dt).bitTime k + 1000 * (s.after dt).act (R.FB_XFER2.TM.i k)) → isFb k = true → (s.after dt).fbRuns = true → (s.after dt).fbMode k = 6 → ((s.after dt).fb k).xfer = some x → (u.fb k).xfer = some x →
      Yields (.serialTimeout dt k) s fun t =>
        (t.fb k).xfer = none ∧ t.rd (R.FB_FLAGS.TIMEOUT.i k) = 1 ∧ (t.fb k).badN = (u.fb k).badN + 1) ∧
    (∀ (s : State) (dt : Nat) (u : State) (i k : Nat),
      u = s.after dt → i < 18 → isFb k = true → u.fbRuns = true → u.unitGone (uSamp i) = false → (u.sampChan i) = none →
      Yields (.samplerMismatch dt i k) s fun t =>
        t.sampler k = i ∧ t.unitGone (uSamp (u.sampler k)) = true)

/-- The power bridges (R285 to R298) and the sigma-delta inputs (R302). -/
def Obligations.BridgesFollowTheirCarrierAndTrips : Prop :=
  (∀ (s u : State) (b : Nat),
      u = s.runTo (s.nextInst (s.pb b).valley s.msAnchor (s.pbPer b) (s.rd (R.PB_CAR.CAR_PH.i b) : Int)) → isPb b = true → s.carrierOn b = true → (s.pb b).valley = none →
      Yields (.carrierValley b) s fun t =>
        (t.pb b).valley = some (s.nextInst none s.msAnchor (s.pbPer b) (s.rd (R.PB_CAR.CAR_PH.i b) : Int)) ∧ t.rd (R.PB_STAT.DITHER.i b) = 0) ∧
    (∀ (s u : State) (b v : Nat),
      u = s.runTo (s.nextInst (some v) s.msAnchor (s.pbPer b) (s.rd (R.PB_CAR.CAR_PH.i b) : Int)) → isPb b = true → s.carrierOn b = true → (s.pb b).valley = some v →
      Yields (.carrierValley b) s fun t =>
        (t.pb b).valley = some (s.nextInst (some v) s.msAnchor (s.pbPer b) (s.rd (R.PB_CAR.CAR_PH.i b) : Int)) ∧
        t.rd (R.PB_STAT.DITHER.i b) = (u.rd (R.PB_STAT.DITHER.i b) + 1) % 16) ∧
    (∀ (s u : State) (b v : Nat),
      s.reach (add32 v (s.pbPer b / 2)) = some u → isPb b = true → s.carrierOn b = true → s.pbEdge b = false → (s.pb b).valley = some v → u.pbRld b ≠ 0 →
      Yields (.carrierPeak b) s fun t =>
        (t.pb b).reload = some u.now ∧ (t.pb b).valley = some v ∧ t.rd (R.PB_STAT.DITHER.i b) = u.rd (R.PB_STAT.DITHER.i b)) ∧
    (∀ (s : State) (dt : Nat) (u : State) (src : Src) (b which v : Nat),
      u = s.after dt → isPb b = true → which < 3 → isWord v = true → u.mayWrite src 21 = true → u.pbOwner b = none →
      Yields (.dutyGo dt src b which v) s fun t =>
        t.rd (dutyF b which) = v % 65536) ∧
    (∀ (s : State) (dt : Nat) (u : State) (src : Src) (b v : Nat),
      u = s.after dt → isPb b = true → isWord v = true → bit v 31 = true → u.mayWrite src 21 = true → u.pbOwner b = none →
      Yields (.dutyGo dt src b 3 v) s fun t =>
        t.rd (R.PB_DUTY_GO.GO.i b) = 1 ∧ t.rd (R.PB_STAT.GO_PEND.i b) = 1 ∧ t.rd (dutyF b 0) = u.rd (dutyF b 0)) ∧
    (∀ (s : State) (dt : Nat) (u : State) (src : Src) (b which v : Nat),
      u = s.after dt → isPb b = true → which < 4 → isWord v = true → u.mayWrite src 21 = true → (u.pbOwner b).isSome = true →
      Yields (.dutyGo dt src b which v) s fun t =>
        t.rd (R.PB_FLAGS.DUTY_OWNED.i b) = 1 ∧ t.rd (dutyF b 0) = u.rd (dutyF b 0) ∧ t.rd (R.PB_DUTY_GO.GO.i b) = u.rd (R.PB_DUTY_GO.GO.i b)) ∧
    (∀ (s : State) (dt : Nat) (u : State) (b trips : Nat),
      u = s.after dt → isPb b = true → trips < 4096 → u.alive = true → u.mode ≠ 0 → u.dom 21 = true → u.tb.run = true → u.taken 4 = true → (trips &&& u.act (R.PB_TRIP_CFG.TRIP_MASK.i b)) = 0 →
      Yields (.tripAccept dt b trips) s fun t =>
        t.rd (R.PB_STAT.TRIP_IN.i b) = trips ∧ t.rd (R.PB_STAT.TRIP_ACT.i b) = u.rd (R.PB_STAT.TRIP_ACT.i b)) ∧
    (∀ (s : State) (dt : Nat) (u : State) (b trips : Nat),
      u = s.after dt → isPb b = true → trips < 4096 → u.alive = true → u.mode ≠ 0 → u.dom 21 = true → u.tb.run = true → u.taken 4 = true → (trips &&& u.act (R.PB_TRIP_CFG.TRIP_MASK.i b)) ≠ 0 → u.act (R.PB_BLANK.BLANK_SRC.i b) = 0 →
      Yields (.tripAccept dt b trips) s fun t =>
        t.rd (R.PB_STAT.TRIP_IN.i b) = trips ∧ t.rd (R.PB_STAT.TRIP_ACT.i b) = 1 ∧ t.rd (R.PB_STAT.IN_TRIP.i b) = 1 ∧
        t.rd (R.PB_FLAGS.TRIP_SEEN.i b) = 1 ∧ t.rd (R.PB_TRIP_STAMP.NS.i b) = sub32 u.now (max 1 (u.act (R.PB_TRIP_CFG.TRIP_FILT.i b)) - 1)) ∧
    (∀ (s : State) (dt : Nat) (u : State) (src : Src) (b trips : Nat),
      u = s.after dt → isPb b = true → trips < 4096 → u.mayWrite src 21 = true → (trips &&& u.act (R.PB_TRIP_CFG.TRIP_MASK.i b)) ≠ 0 →
      Yields (.tripClr dt src b trips) s fun t =>
        t.rd (R.PB_FLAGS.CLR_REFUSED.i b) = 1 ∧ t.rd (R.PB_STAT.TRIP_ACT.i b) = u.rd (R.PB_STAT.TRIP_ACT.i b)) ∧
    (∀ (s : State) (dt : Nat) (u : State) (src : Src) (b trips : Nat),
      u = s.after dt → isPb b = true → trips < 4096 → u.mayWrite src 21 = true → (trips &&& u.act (R.PB_TRIP_CFG.TRIP_MASK.i b)) = 0 → bit (u.setsOf (R.PB_STAT.TRIP_ACT.i b).addr) 31 = false →
      Yields (.tripClr dt src b trips) s fun t =>
        t.rd (R.PB_STAT.TRIP_ACT.i b) = 0 ∧ t.rd (R.PB_STAT.TRIP_IN.i b) = trips ∧ OnlyWords [(R.PB_STAT.TRIP_ACT.i b).addr] u t) ∧
    (∀ (s u : State) (k c : Nat) (w : List Bool),
      u = s.runTo c → isSd k = true → s.alive = true → s.tb.run = true → s.mode ≠ 0 → s.dom 21 = true → s.rd (R.SD_CFG.EN.j k) = 1 → s.rd (R.SD_CK.EN.j (s.rd (R.SD_CFG.CKSEL.j k))) = 1 → w.length = 3 * s.sdOsr k → s.sdPoint k = some c →
      Yields (.sdResult k w) s fun t =>
        t.rd (R.SD_STAMP.NS.j k) = sub32 c 16 ∧ (t.sdIn k).last = some (sub32 c 16) ∧ (t.sdIn k).at_ = u.now ∧
        t.rd (R.SD_VAL.X.j k) = unsx 24 (t.sdIn k).x ∧ (t.sdIn k).xOld = (u.sdIn k).x)

/-- Lane runs and current loops (R36, R237, R242 to R247). The start of a current-loop run is stated for a slot that owns no feedback channel, since a latch may raise faults of its own. -/
def Obligations.LaneRunsAndCurrentLoops : Prop :=
  (∀ (s : State) (dt : Nat) (u : State) (n : Nat) (r : LaneRun),
      u = s.after dt → isAxis n = true → u.laneOn n = true → (u.lane n).run = some r → r.done = none → r.err = false → u.since r.start < sub32 r.due r.start →
      Yields (.laneRunComplete dt n false) s fun t =>
        (t.lane n).run = some { r with done := some u.now } ∧ t.rd (R.AX_STAT.CONSEC.i n) = 0 ∧
        t.rd (R.AX_STAT.VSAT.i n) = b2n r.vsat) ∧
    (∀ (s : State) (dt : Nat) (u : State) (n : Nat) (r : ClRun),
      u = s.after dt → isAxis n = true → u.laneOn n = true → (u.lane n).cl = some r → r.done = none → u.since r.start < sub32 (add32 r.start (u.rd (R.AX_CLCFG.CL_OFS.i n))) r.start →
      Yields (.laneRunComplete dt n true) s fun t =>
        (t.lane n).cl = some { r with done := some u.now } ∧ (t.lane n).clConsec = 0 ∧ t.rd (R.AX_STAT.CSAT.i n) = b2n r.csat ∧
        (t.lane n).mem.xd = r.xd ∧ (t.lane n).mem.xq = r.xq) ∧
    (∀ (s : State) (dt : Nat) (u : State) (n : Nat),
      u = s.after dt → isAxis n = true → u.laneOn n = true → u.spr.laneDead.contains n = false →
      Yields (.laneError dt n) s fun t =>
        (t.lane n).failed = true ∧ (t.lane n).cl = none ∧ ((t.lane n).run.isSome = true → (t.lane n).run.any (·.err) = true) ∧
        t.unitGone (uLane (u.rd (R.AX_MAP.PHYS.i n))) = true) ∧
    (∀ (s u : State) (n g : Nat),
      u = s.runTo (s.nextInst (s.lane n).clAt (s.rgAnchor g) (s.clPer n) 0) → isAxis n = true → s.clOn n = true → s.dev.rgIn = true → s.axGroup n = some g → ((List.range 16).all fun k => s.rd (R.FB_CFG.OWNER.i k) != n) = true → (s.lane n).failed = false → u.spr.laneDead.contains n = false → u.torqueOff n = false →
      Yields (.currentLoopInstant n) s fun t =>
        (t.lane n).clAt = some u.now ∧ (t.lane n).clRst = false ∧ (t.lane n).cl.map (·.start) = some u.now ∧
        ((u.lane n).clRst = false → (t.lane n).cl = some (if u.outMode n = 4 then
        (u.putLane n { u.lane n with clAt := some u.now }).clRun4 n (u.rd (R.AX_CLCFG.BRIDGE.i n))
        else (u.putLane n { u.lane n with clAt := some u.now }).clRun5 n (u.rd (R.AX_CLCFG.BRIDGE.i n))))) ∧
    (∀ (s u : State) (n g : Nat),
      u = s.runTo (s.nextInst (s.lane n).clAt (s.rgAnchor g) (s.clPer n) 0) → isAxis n = true → s.clOn n = true → s.dev.rgIn = true → s.axGroup n = some g →
      Yields (.currentLoopInstant n) s fun t =>
        (t.lane n).clAt = some u.now ∧ (u.torqueOff n = true → (t.lane n).cl = none)) ∧
    (∀ (s u : State) (n : Nat) (r : ClRun),
      s.reach (add32 r.start (s.rd (R.AX_CLCFG.CL_OFS.i n))) = some u → isAxis n = true → (s.lane n).cl = some r → s.clOn n = true → r.done.isSome = true → u.driven = true → u.torqueOff n = false →
      Yields (.dutyWrite n) s fun t =>
        (t.lane n).cl = none ∧ t.rd (dutyF (u.rd (R.AX_CLCFG.BRIDGE.i n)) 0) = r.on.getD 0 0 % 65536 ∧ t.rd (dutyF (u.rd (R.AX_CLCFG.BRIDGE.i n)) 1) = r.on.getD 1 0 % 65536 ∧ t.rd (dutyF (u.rd (R.AX_CLCFG.BRIDGE.i n)) 2) = r.on.getD 2 0 % 65536 ∧
        t.rd (R.PB_DUTY_GO.GO.i (u.rd (R.AX_CLCFG.BRIDGE.i n))) = 1) ∧
    (∀ (s u : State) (n : Nat) (r : ClRun),
      s.reach (add32 r.start (s.rd (R.AX_CLCFG.CL_OFS.i n))) = some u → isAxis n = true → (s.lane n).cl = some r → s.clOn n = true → r.done = none → u.rd (R.AX_CNT.LANE_OVR.i n) < 65534 → (u.lane n).clConsec + 1 < u.ovrN n →
      Yields (.dutyWrite n) s fun t =>
        (t.lane n).cl = none ∧ (t.lane n).clConsec = (u.lane n).clConsec + 1 ∧ t.rd (R.AX_FLAGS.OVR.i n) = 1 ∧
        t.rd (R.AX_CNT.LANE_OVR.i n) = u.rd (R.AX_CNT.LANE_OVR.i n) + 1) ∧
    (∀ (s : State) (dt : Nat) (u : State) (src : Src) (n : Nat),
      u = s.after dt → isAxis n = true → u.mayWrite src (laneDom n) = true →
      Yields (.fltClr dt src n) s fun t =>
        t.rd (R.AX_CTRL.FLT_CLR.i n) = 1 ∧ t.rd (R.AX_STAT.FAULT.i n) = u.rd (R.AX_STAT.FAULT.i n) ∧ t.lanes = u.lanes ∧ t.mem = u.mem ∧
        OnlyWords [(R.AX_CTRL.FLT_CLR.i n).addr] u t) ∧
    (∀ (s : State) (dt : Nat) (u : State) (src : Src) (n : Nat),
      u = s.after dt → isAxis n = true → u.mayWrite src (laneDom n) = true →
      Yields (.intRst dt src n) s fun t =>
        t.rd (R.AX_CTRL.INT_RST.i n) = 1 ∧ (t.lane n).clRst = true ∧ (t.lane n).mem = (u.lane n).mem ∧ t.mem = u.mem ∧
        OnlyWords [(R.AX_CTRL.FLT_CLR.i n).addr] u t)

/-- The ports of a ring channel (R306, R318, R328 to R330). The move to the spare lane is stated where that lane has block lock. -/
def Obligations.RingPortsMoveAndFold : Prop :=
  (∀ (s : State) (dt : Nat) (u : State) (src : Src) (ch : Nat),
      u = s.after dt → isCh ch = true → u.mayWrite src (17 + ch) = true → u.ringUp ch = true →
      Yields (.revertP0 dt src ch) s fun t =>
        t.rd (R.IKL_CTRL.REVERT_P0.i ch) = 1 ∧ t.out = .frame ch 0 u.now 0 (switchSet false) :: u.out ∧ t.mem = u.mem ∧
        OnlyWords [(R.IKL_CTRL.REVERT_P0.i ch).addr] u t) ∧
    (∀ (s : State) (dt : Nat) (u : State) (src : Src) (ch : Nat),
      u = s.after dt → isCh ch = true → u.mayWrite src (17 + ch) = true → u.ringUp ch = true →
      Yields (.revertP1 dt src ch) s fun t =>
        t.rd (R.IKL_CTRL.REVERT_P1.i ch) = 1 ∧ t.out = .frame ch 1 u.now 0 (switchSet false) :: u.out ∧ t.mem = u.mem ∧
        OnlyWords [(R.IKL_CTRL.REVERT_P1.i ch).addr] u t) ∧
    (∀ (s : State) (dt : Nat) (u : State) (src : Src) (ch : Nat),
      u = s.after dt → isCh ch = true → u.mayWrite src (17 + ch) = true →
      Yields (.dmNow dt src ch) s fun t =>
        t.rd (R.IKL_CTRL.DM_NOW.i ch) = 1 ∧ t.out = u.out ∧ t.chans = u.chans ∧ t.mem = u.mem ∧
        OnlyWords [(R.IKL_CTRL.DM_NOW.i ch).addr] u t) ∧
    (∀ (s : State) (dt : Nat) (u : State) (ch port : Nat),
      u = s.after dt → isCh ch = true → isPort port = true → u.ringUp ch = true → u.onSpare ch port = false → u.locked (4 * ch + 2 * port + 1) = true →
      Yields (.laneFault dt (4 * ch + 2 * port)) s fun t =>
        port ∈ (t.chan ch).req ∧ t.out = .frame ch port u.now 0 (switchSet true) :: u.out ∧ t.onSpare ch port = false ∧ t.mem = u.mem) ∧
    (∀ (s : State) (dt : Nat) (u : State) (lane : Nat),
      u = s.after dt → lane = 8 ∨ lane = 9 → u.alive = true → u.tb.run = true → u.mode ≠ 0 →
      Yields (.laneFault dt lane) s fun t =>
        t.locked lane = false ∧ tget 0 t.ring.lockAt lane = u.tb.rim) ∧
    (∀ (s : State) (dt : Nat) (u : State) (lane : Nat),
      u = s.after dt → lane < 8 → u.ringUp (lane / 4) = true →
      Yields (.blockLockGain dt lane) s fun t =>
        t.locked lane = true ∧ t.down (lane / 4) (lane / 2 % 2) = false ∧ tget 0 t.ring.lockAt lane = u.tb.rim) ∧
    (∀ (s : State) (dt : Nat) (u : State) (lane : Nat),
      u = s.after dt → lane = 8 ∨ lane = 9 → u.alive = true → u.tb.run = true → u.mode ≠ 0 →
      Yields (.blockLockGain dt lane) s fun t =>
        t.locked lane = true ∧ tget 0 t.ring.lockAt lane = u.tb.rim) ∧
    (∀ (s : State) (dt : Nat) (u : State) (lane : Nat) (spare : Bool),
      u = s.after dt → lane < 8 → u.ringUp (lane / 4) = true →
      Yields (.switchRequest dt lane spare) s fun t =>
        (lane / 2 % 2, spare) ∈ (t.chan (lane / 4)).txReq ∧ t.regs = u.regs ∧ t.mem = u.mem) ∧
    (∀ (s : State) (dt : Nat) (u : State) (ch port : Nat),
      u = s.after dt → isCh ch = true → isPort port = true → u.ringUp ch = true → u.down ch port = false → u.locked (laneNo ch port false) = false → u.locked (laneNo ch port false + 1) = false → 2000 ≤ u.lockAge (laneNo ch port false) → 2000 ≤ u.lockAge (laneNo ch port false + 1) →
      Yields (.portDown dt ch port) s fun t =>
        t.down ch port = true ∧ (u.foldOk ch = true → u.leadSide ch = false → port ∈ (t.chan ch).fp ∧ t.rd (R.IKL_STAT.FOLD.i ch) = 1)) ∧
    (∀ (s : State) (dt : Nat) (u : State) (ch port : Nat),
      u = s.after dt → isCh ch = true → isPort port = true → u.ringUp ch = true → (u.chan ch).fp.contains port = true → u.locked (laneNo ch port false) = true → 1000000 ≤ u.lockAge (laneNo ch port false) →
      Yields (.linkBack dt ch port) s fun t =>
        port ∈ (t.chan ch).lb ∧ t.regs = u.regs ∧ t.mem = u.mem)

/-- Starting and losing a ring channel (R310, R331, R340 to R353). LEADER_LOST is stated for the modes that it does not leave and for NODE and BRIDGE, which it leaves for LISTEN. -/
def Obligations.RingChannelsStartAndAreLost : Prop :=
  (∀ (s : State) (dt : Nat) (u : State) (ch : Nat),
      u = s.after dt → isCh ch = true → u.ringUp ch = true → u.leads ch = true → u.chState ch = 3 → u.lossN ch ≤ (u.chan ch).noRet →
      Yields (.channelLoss dt ch) s fun t =>
        t.chState ch = 4 ∧ (t.chan ch).good = 0 ∧ (u.leads (1 - ch) = true → (t.chan (1 - ch)).remap = some true)) ∧
    (∀ (s u : State),
      u = s.runRim (s.ring.csFrom + s.tWait) → s.alive = true → s.tb.run = true → s.mode = 1 → s.csCap = true → s.csState = 1 → s.twinUp = false →
      Yields (.coldStart) s fun t =>
        t.csState = 2 ∧ (u.used 0 = true → t.chState 0 = 1 ∧ t.rd (R.IKL_CYCNUM.VALUE.i 0) = 4294967295) ∧
        (u.used 1 = true → t.chState 1 = 1 ∧ t.rd (R.IKL_CYCNUM.VALUE.i 1) = 4294967295)) ∧
    (∀ (s : State) (r : Nat),
      s.ring.backAt = some r → s.alive = true → s.tb.run = true → s.mode = 1 → s.csState = 3 → (s.used 0 || s.used 1) = true →
      Yields (.backoffEnd) s fun t =>
        t.ring.backAt = none ∧ t.csState = 2) ∧
    (∀ (s : State) (dt : Nat) (u : State) (ch : Nat),
      u = s.after dt → isCh ch = true → u.ringUp ch = true → u.chState ch = 3 → u.leadSide ch = false → u.lossCyc ch ≤ (u.chan ch).noAcc → (u.chan ch).missing = false →
      Yields (.leaderMissing dt ch) s fun t =>
        (t.chan ch).missing = true ∧ (t.chan ch).react = u.ringLanes ch ∧
        (u.ringLanes ch = [] → t.rd (R.IKL_CS.LL_ACT.i ch) = 0)) ∧
    (∀ (s : State) (dt : Nat) (u : State) (ch : Nat),
      u = s.after dt → u.alive = true → u.tb.run = true → u.readChs = [ch] → (u.chan ch).missing = true → u.rd (R.IKL_CS.LL_ACT.i 0) = 0 → u.rd (R.IKL_CS.LL_ACT.i 1) = 0 →
      Yields (.leaderLost dt) s fun t =>
        t.rd (R.IKL_FLAGS2.LEADER_LOST.i ch) = 1 ∧ (t.chan ch).missing = false ∧ (t.chan ch).noAcc = 0 ∧
        (u.mode = 4 → t.mode = 1) ∧ (u.mode ≠ 4 → u.mode ≠ 5 → t.mode = u.mode)) ∧
    (∀ (s : State) (dt : Nat) (u : State) (ch n : Nat),
      u = s.after dt → isCh ch = true → (u.chan ch).rejoin = some n → u.ringUp ch = true → u.chState ch = 2 → max 1 (u.act (R.IKL_START.REJOIN_TMO.i ch)) ≤ n →
      Yields (.rejoinTimeout dt ch) s fun t =>
        (t.chan ch).expired = true ∧ t.regs = u.regs ∧ t.mem = u.mem) ∧
    (∀ (s : State) (dt : Nat) (u : State) (ch : Nat),
      u = s.after dt → isCh ch = true → u.ringUp ch = true → u.leadSide ch = false → u.lossCyc ch ≤ (u.chan ch).quiet → u.csState ≠ 2 → u.chState ch = 2 →
      Yields (.listenChannelTimeout dt ch) s fun t =>
        t.chState ch = 1 ∧ t.rd (R.IKL_CS.INT_CNT.i ch) = 0 ∧ (t.chan ch).fol = none ∧ (t.chan ch).quiet = 0) ∧
    (∀ (s u : State) (ch : Nat),
      s.reach (sub32 (s.nextCyc ch) 500) = some u → isCh ch = true → s.ringUp ch = true → s.leads ch = true →
      Yields (.ringFetch ch) s fun t =>
        (t.chan ch).img = u.fetchImage ch ∧ (t.chan ch).imgAlt = u.fetchImage (1 - ch) ∧ t.regs = u.regs ∧ t.mem = u.mem)

/-- Frames on a ring channel (R314 to R349, R365). A node in LISTEN of the channel takes the first good frame of any of the four types as its first integration frame; an accepted null frame counts; the own delay measurement frame gives its round trip. -/
def Obligations.RingFramesAreHeard : Prop :=
  (∀ (s : State) (dt : Nat) (u : State) (ch port arr : Nat) (b : List Nat),
      u = s.after dt → frameOk ch port arr b = true → u.ringUp ch = true → u.mode = 4 → u.leadSide ch = false → u.chState ch = 1 → hcrcOk b = true → b.getD 0 0 = 1 →
      Yields (.cycleFrameReceive dt ch port arr b) s fun t =>
        t.chState ch = 2 ∧ t.rd (R.IKL_CS.INT_CNT.i ch) = 1 ∧ (t.chan ch).fol = some (hdrOf b).orig ∧ (t.chan ch).heard = true ∧
        t.rd (R.IKL_CYCNUM.VALUE.i ch) = (hdrOf b).cyc % 4294967296) ∧
    (∀ (s : State) (dt : Nat) (u : State) (ch port arr : Nat) (b : List Nat),
      u = s.after dt → frameOk ch port arr b = true → u.ringUp ch = true → u.mode = 4 → u.leadSide ch = false → u.chState ch = 1 → hcrcOk b = true → b.getD 0 0 = 2 →
      Yields (.nullFrameReceive dt ch port arr b) s fun t =>
        t.chState ch = 2 ∧ t.rd (R.IKL_CS.INT_CNT.i ch) = 1 ∧ (t.chan ch).fol = some (hdrOf b).orig ∧ (t.chan ch).heard = true ∧
        t.rd (R.IKL_CYCNUM.VALUE.i ch) = (hdrOf b).cyc % 4294967296) ∧
    (∀ (s : State) (dt : Nat) (u : State) (ch port arr : Nat) (b : List Nat),
      u = s.after dt → frameOk ch port arr b = true → u.ringUp ch = true → u.mode = 4 → u.leadSide ch = false → u.chState ch = 1 → hcrcOk b = true → b.getD 0 0 = 2 → (u.chan ch).req.contains port = true →
      Yields (.nullFrameReceive dt ch port arr b) s fun t =>
        t.onSpare ch port = true ∧ t.rd (R.IKL_FLAGS.LANE_SW.i ch) = 1 ∧ (t.chan ch).dm = true ∧ (t.chan ch).req.contains port = false) ∧
    (∀ (s : State) (dt : Nat) (u : State) (ch port arr : Nat) (b : List Nat),
      u = s.after dt → frameOk ch port arr b = true → u.ringUp ch = true → u.mode = 4 → u.leadSide ch = false → u.chState ch = 3 → hcrcOk b = true → b.getD 0 0 = 2 → u.accepts ch (hdrOf b) = true → u.rd (R.IKL_CNT_A.NULL.i ch) < 65534 →
      Yields (.nullFrameReceive dt ch port arr b) s fun t =>
        t.rd (R.IKL_FLAGS.NULL_SEEN.i ch) = 1 ∧ t.rd (R.IKL_CNT_A.NULL.i ch) = u.rd (R.IKL_CNT_A.NULL.i ch) + 1 ∧
        (t.chan ch).lastNum = some (hdrOf b).cyc ∧ t.rd (R.IKL_STAT.CLAIM.i ch) = (hdrOf b).claim % 65536) ∧
    (∀ (s : State) (dt : Nat) (u : State) (ch port arr : Nat) (b : List Nat),
      u = s.after dt → frameOk ch port arr b = true → u.ringUp ch = true → u.mode = 4 → u.leadSide ch = false → u.chState ch = 3 → hcrcOk b = true → b.getD 0 0 = 1 → u.accepts ch (hdrOf b) = true →
      Yields (.cycleFrameReceive dt ch port arr b) s fun t =>
        (t.chan ch).lastNum = some (hdrOf b).cyc ∧ (t.chan ch).got = true ∧ t.rd (R.IKL_STAT.CLAIM.i ch) = (hdrOf b).claim % 65536) ∧
    (∀ (s : State) (dt : Nat) (u : State) (ch port arr : Nat) (b : List Nat),
      u = s.after dt → frameOk ch port arr b = true → u.ringUp ch = true → u.mode = 4 → u.leadSide ch = false → u.chState ch = 1 → hcrcOk b = true → b.getD 0 0 = 4 →
      Yields (.delayFrameReceive dt ch port arr b) s fun t =>
        t.chState ch = 2 ∧ t.rd (R.IKL_CS.INT_CNT.i ch) = 1 ∧ (t.chan ch).fol = some (hdrOf b).orig ∧
        ((hdrOf b).dir = false → (u.chan ch).ar = none → (t.chan ch).af = some (arr, (hdrOf b).tOrig))) ∧
    (∀ (s : State) (dt : Nat) (u : State) (ch port arr : Nat) (b : List Nat),
      u = s.after dt → frameOk ch port arr b = true → u.ringUp ch = true → u.mode = 4 → u.leadSide ch = false → u.chState ch = 1 → hcrcOk b = true → b.getD 0 0 = 3 → u.csNamed ch (hdrOf b).addr = true →
      Yields (.coldStartFrameReceive dt ch port arr b) s fun t =>
        t.chState ch = 2 ∧ t.rd (R.IKL_CS.INT_CNT.i ch) = 1 ∧ (t.chan ch).fol = some (hdrOf b).orig) ∧
    (∀ (s : State) (dt : Nat) (u : State) (ch port arr : Nat) (b : List Nat),
      u = s.after dt → frameOk ch port arr b = true → u.ringUp ch = true → u.mode = 2 → u.leadSide ch = true → hcrcOk b = true → b.getD 0 0 = 4 → u.ownFrame ch (hdrOf b) = true →
      Yields (.frameReturn dt ch port arr b) s fun t =>
        ((hdrOf b).dir = false → (t.chan ch).dmF = some (16 * sub32 arr (hdrOf b).tOrig + 2 * u.vorg ch)) ∧
        ((hdrOf b).dir = true → (t.chan ch).dmR = some (16 * sub32 arr (hdrOf b).tOrig + 2 * u.vorg ch)) ∧
        (t.chan ch).heard = true ∧ (t.chan ch).quiet = 0)

/-- The solver and the separation unit (R187 to R198, R213). A late or degraded solution is replaced; a good one resets the count of substitutes. -/
def Obligations.SolverAndSeparationDeliver : Prop :=
  (∀ (s : State) (dt : Nat) (u : State) (p : Problem),
      u = s.after dt → u.rul.prob = some p → p.sepDone = false → u.dom 8 = true →
      Yields (.separationDelivery dt) s fun t =>
        t.rul.prob = some { p with sepDone := true } ∧ t.rd R.SEP_STAT.ROWS = p.sep.rows % 2048 ∧
        t.rd R.SEP_DONE.DONE = min (sub32 u.now p.start) 524287 ∧ (p.sep.full = true → t.rd R.SEP_FLAGS.SLOT_FULL = 1) ∧
        (t.rd (R.SEP_OCC.INSIDE.j 63) = b2n (p.sep.inside.contains 63))) ∧
    (∀ (s : State) (dt : Nat) (u : State) (p : Problem) (a f : Nat),
      u = s.after dt → a < 65536 → f < 65536 → u.rul.prob = some p → u.rul.res = none → p.sepDone = true → u.solving = true → sub32 u.now p.start < sub32 p.due p.start →
      Yields (.solveComplete dt a f) s fun t =>
        t.rul.res.isSome = true ∧ t.rul.prob = some p ∧ t.rd R.RUL_STAT.LATE = 0 ∧ t.rd R.RUL_PHASE.ASM_END = a ∧ t.rd R.RUL_PHASE.FACT_END = f ∧
        t.rd R.RUL_TIME.DONE = min (sub32 u.now p.start) 524287 ∧ t.rd R.RUL_STAT.TILE_ERR = b2n p.tile ∧
        (t.rul.res.map (·.bad)) = some (t.rd R.RUL_STAT.DEGRADED == 1)) ∧
    (∀ (s u : State) (p : Problem) (r : SolveRes),
      s.reach (p.due) = some u → s.rul.prob = some p → s.rul.res = some r → r.bad = false → s.solving = true →
      Yields (.solutionRelease) s fun t =>
        t.rul.prob = none ∧ t.rul.res = none ∧ t.rd R.RUL_STAT.CONSEC = 0 ∧ t.rd R.RUL_STAT.SUBST = 0 ∧ t.rd R.RUL_STAT.HOLD_CAUSE = 0 ∧
        t.rul.sigma = u.chains.map (fun c => (c, u.sigmaOut p r.x c)) ∧
        t.delta = u.gateDelta (p.aim.map fun a => (a.1, u.deltaOut p r.x a.1 (tget 0 t.rul.sigma (u.jChain a.1)))) ∧ t.mem = u.mem) ∧
    (∀ (s u : State) (p : Problem),
      s.reach (p.due) = some u → s.rul.prob = some p → s.rul.res = none → s.solving = true → u.rd R.RUL_STAT.CONSEC + 1 < p.k → u.rd R.RUL_CNT_BAD.LATE_CNT < 65534 →
      Yields (.solutionRelease) s fun t =>
        t.rul.prob = none ∧ t.rd R.RUL_STAT.LATE = 1 ∧ t.rd R.RUL_STAT.SUBST = 1 ∧ t.rd R.RUL_STKY.OVR = 1 ∧
        t.rd R.RUL_STAT.CONSEC = u.rd R.RUL_STAT.CONSEC + 1 ∧ t.rd R.RUL_CNT_BAD.LATE_CNT = u.rd R.RUL_CNT_BAD.LATE_CNT + 1 ∧
        t.rd R.RUL_TIME.SLACK = 255 ∧ t.rd R.RUL_TIME.DONE = 524287 ∧
        t.rul.sigma = u.chains.map (fun c => (c, u.lastSigma c * p.slow / 32768)) ∧ t.delta = u.gateDelta u.delta) ∧
    (∀ (s u : State) (p : Problem) (r : SolveRes),
      s.reach (p.due) = some u → s.rul.prob = some p → s.rul.res = some r → r.bad = true → s.solving = true → u.rd R.RUL_STAT.CONSEC + 1 < p.k →
      Yields (.solutionRelease) s fun t =>
        t.rul.prob = none ∧ t.rul.res = none ∧ t.rd R.RUL_STAT.SUBST = 1 ∧ t.rd R.RUL_STAT.CONSEC = u.rd R.RUL_STAT.CONSEC + 1 ∧
        t.rul.sigma = u.chains.map (fun c => (c, u.lastSigma c * p.slow / 32768)) ∧ t.delta = u.gateDelta u.delta) ∧
    (∀ (s u : State) (p : Problem),
      s.reach (p.due) = some u → s.rul.prob = some p → s.rul.res = none → s.solving = true → u.mode = 2 → p.k ≤ u.rd R.RUL_STAT.CONSEC + 1 → u.dev.surrender = false →
      Yields (.solutionRelease) s fun t =>
        t.rul.prob = none ∧ t.rd R.RUL_STAT.HOLD_CAUSE = 1 ∧ t.rd R.RUL_STAT.CONSEC = p.k ∧ t.mode = 6 ∧ t.delta = []) ∧
    (∀ (s : State) (dt : Nat) (u : State) (q k : Nat),
      u = s.after dt → q < 4 → k < 17 → u.alive = true → u.dom q = true → u.rd (R.RUL_TILE.ERR_CNT.j q) < 32766 →
      Yields (.tileError dt q k) s fun t =>
        t.rd (R.RUL_TILE.ERR_CNT.j q) = u.rd (R.RUL_TILE.ERR_CNT.j q) + 1 ∧ t.unitGone (uTile (17 * q + k)) = true)

/-- The margin monitor (R216, R217, R220). The decision of a completed run without a cause is its own; a run that is not complete counts as a stop. -/
def Obligations.MarginDecidesInTime : Prop :=
  (∀ (s : State) (dt : Nat) (u : State) (r : MgnRun),
      u = s.after dt → u.mgn.run = some r → r.done = none → sub32 u.now r.start < 48000 → u.mgnRuns = true →
      Yields (.marginComplete dt) s fun t =>
        t.mgn.run = some { r with done := some u.now } ∧ t.rd R.MGN_DONE.DONE = sub32 u.now r.start ∧ t.mem = u.mem ∧
        OnlyWords [R.MGN_DONE.DONE.addr] u t) ∧
    (∀ (s u : State) (r : MgnRun),
      s.reach (add32 r.start 48000) = some u → s.mgn.run = some r → r.done.isSome = true → r.dec = 1 → s.mgnRuns = true → u.mgn.causes = 0 → u.act R.MGN_CFG.AUTO_REARM = 0 →
      Yields (.marginDecision) s fun t =>
        t.mgn.run = none ∧ t.rd R.MGN_STAT.DECISION = 1 ∧ t.rd R.MGN_STAT.MARGIN = unsx 16 r.margin ∧ t.rd R.MGN_STAT.OCC = r.occ % 64 ∧
        t.mgn.stop = false ∧ t.mgn.clear = 0 ∧ t.mgn.causes = 0) ∧
    (∀ (s u : State) (r : MgnRun),
      s.reach (add32 r.start 48000) = some u → s.mgn.run = some r → r.done = none → s.mgnRuns = true →
      Yields (.marginDecision) s fun t =>
        t.mgn.run = none ∧ t.rd R.MGN_STAT.DECISION = 2 ∧ t.rd R.MGN_FLT.LATE = 1 ∧ t.rd R.MGN_STAT.LATCHED = 1 ∧
        t.mgn.stop = true ∧ bit t.mgn.causes 0 = true ∧ t.mgn.clear = 0) ∧
    (∀ (s : State) (dt : Nat) (u : State) (src : Src) (v : Nat),
      u = s.after dt → isWord v = true → u.mayWrite src 9 = true → u.armed src = true → bit v 31 = true → u.mgnRuns = true → u.act R.MGN_CFG.AUTO_REARM = 0 → u.rd R.MGN_STAT.LATCHED = 1 → max 1 (u.act R.MGN_CFG.REARM_N) ≤ u.mgn.clear → u.sinDemanding = false →
      Yields (.mgnAck dt src v) s fun t =>
        t.rd R.MGN_STAT.LATCHED = 0 ∧ t.mgn.pstop = false ∧ t.armed src = false ∧ (u.mgn.causes = 0 → t.rd R.MGN_STAT.FAULT = 0)) ∧
    (∀ (s : State) (dt : Nat) (u : State) (src : Src) (v : Nat),
      u = s.after dt → isWord v = true → u.mayWrite src 9 = true → u.armed src = false →
      Yields (.mgnAck dt src v) s fun t =>
        t.rd R.CMT_STAT.KEY_VIOL = 1 ∧ t.mgn = u.mgn ∧ t.rd R.MGN_STAT.LATCHED = u.rd R.MGN_STAT.LATCHED)

/-- Safe outputs and inputs (R220 to R222). -/
def Obligations.SafeInputsAndOutputs : Prop :=
  (∀ (s u : State) (j k r : Nat),
      u = s.runRim r → isSout j = true → (s.soutOf j).delay = some (k, r) → u.rd (R.MGN_SOUT_STAT.ENERGISED.j j) = 1 →
      Yields (.stop1DelayEnd j) s fun t =>
        t.rd (R.MGN_SOUT_STAT.ENERGISED.j j) = 0 ∧ t.rd (R.MGN_SOUT_STAT.DELAY.j j) = 0 ∧ (t.soutOf j).delay = none ∧ (t.soutOf j).onAt = u.tb.rim) ∧
    (∀ (s : State) (dt : Nat) (u : State) (j : Nat),
      u = s.after dt → isSout j = true → u.mgnRuns = true → u.rd (R.MGN_SOUT_STAT.ENERGISED.j j) = 1 → (u.soutOf j).lastA = 0 → u.taken 5 = true → u.scanned outSout = false →
      Yields (.soutTestPulse dt j 0) s fun t =>
        t.out = .edge outSout (2 * j) u.now 200000 false :: u.out ∧ (t.soutOf j).pulse = some (0, u.tb.rim) ∧ (t.soutOf j).lastA = u.tb.rim ∧
        t.regs = u.regs ∧ t.mem = u.mem) ∧
    (∀ (s : State) (dt : Nat) (u : State) (j : Nat),
      u = s.after dt → isSout j = true → u.mgnRuns = true → u.rd (R.MGN_SOUT_STAT.ENERGISED.j j) = 1 → (u.soutOf j).lastA ≠ 0 → u.tb.rim = (u.soutOf j).lastA + 500000000 → u.taken 5 = true → u.scanned outSout = false →
      Yields (.soutTestPulse dt j 1) s fun t =>
        t.out = .edge outSout (2 * j + 1) u.now 200000 false :: u.out ∧ (t.soutOf j).pulse = some (1, u.tb.rim) ∧ (t.soutOf j).lastB = u.tb.rim ∧
        t.regs = u.regs ∧ t.mem = u.mem) ∧
    (∀ (s : State) (dt : Nat) (u : State) (j : Nat) (a b : Bool),
      u = s.after dt → isSout j = true → u.mgnRuns = true → ((u.rbStep j 0 a).2 || (u.rbStep j 1 b).2) = true →
      Yields (.soutReadbackCheck dt j a b) s fun t =>
        t.rd R.MGN_FLT.SOUT_RB = 1 ∧ bit t.mgn.causes 2 = true ∧ t.rd (R.MGN_SOUT_STAT.RB_A.j j) = b2n a ∧ t.rd (R.MGN_SOUT_STAT.RB_B.j j) = b2n b) ∧
    (∀ (s : State) (dt : Nat) (u : State) (j : Nat),
      u = s.after dt → isSout j = true → u.mgnRuns = true → (u.soutOf j).pulse = none →
      Yields (.soutReadbackCheck dt j (u.rd (R.MGN_SOUT_STAT.ENERGISED.j j) == 1) (u.rd (R.MGN_SOUT_STAT.ENERGISED.j j) == 1)) s fun t =>
        bit t.mgn.causes 2 = false ∧ t.rd R.MGN_FLT.SOUT_RB = u.rd R.MGN_FLT.SOUT_RB) ∧
    (∀ (s : State) (dt : Nat) (u : State) (i r : Nat),
      u = s.after dt → isSin i = true → (u.sinOf i).since = some r → u.mgnRuns = true → u.sinFunc i ≠ 0 → 1000000 * u.act (R.MGN_SIN_CFG.DISC_T.j i) < u.tb.rim - r →
      Yields (.sinDiscrepancy dt i) s fun t =>
        t.rd R.MGN_FLT.SIN_DISC = 1 ∧ (t.sinOf i).disc = true ∧ bit t.mgn.causes 3 = true ∧ t.rd (R.MGN_SIN_STAT.DISC.j i) = 1) ∧
    (∀ (s u : State) (i x : Nat),
      s.reach (x) = some u → isSin i = true → (s.sinOf i).due = some x → s.mgnRuns = true →
      Yields (.sinDemand i) s fun t =>
        (t.sinOf i).due = none ∧ t.rd R.MGN_STAT.LATCHED = 1 ∧ t.mgn.clear = 0 ∧ (u.mode = 2 ∨ u.mode = 6 ∨ u.mode = 7 → t.mgn.pstop = true))

/-- The messages of the twin link (R357 to R361). A message with a good CRC and a sequence number not seen before is taken; a bad one is counted. -/
def Obligations.TwinMessagesAreTaken : Prop :=
  (∀ (s : State) (dt : Nat) (u : State) (lane : Nat) (m : StatusMsg),
      u = s.after dt → lane = 8 ∨ lane = 9 → u.twinOn = true → m.crcOk = true → u.twin.seen.contains m.seq = false → u.mode = 3 →
      Yields (.status dt lane m) s fun t =>
        t.twin.peer = some m ∧ t.rd R.TWN_STAT.PEER_MODE = m.mode % 16 ∧ t.rd R.TWN_STAT.PEER_CLAIM = m.claim % 65536 ∧
        t.rd R.TWN_PEER_LO.VALUE = m.serial % 4294967296 ∧ t.twin.statAt = some u.tb.rim) ∧
    (∀ (s : State) (dt : Nat) (u : State) (lane : Nat) (m : StatusMsg),
      u = s.after dt → lane = 8 ∨ lane = 9 → u.twinOn = true → m.crcOk = false → u.rd R.TWN_CNT_C.MSG_ERR < 65534 →
      Yields (.status dt lane m) s fun t =>
        t.rd R.TWN_CNT_C.MSG_ERR = u.rd R.TWN_CNT_C.MSG_ERR + 1 ∧ t.twin = u.twin) ∧
    (∀ (s : State) (dt : Nat) (u : State) (lane : Nat) (m : TimeMsg),
      u = s.after dt → lane = 8 ∨ lane = 9 → u.twinOn = true → m.crcOk = true → u.twin.seen.contains m.seq = false →
      Yields (.time dt lane m) s fun t =>
        t.twin.timeRx = some (m.tTx, u.tb.accL / 65536 % 281474976710656) ∧ t.rd R.TB_CTRL.P_SRC = 1) ∧
    (∀ (s : State) (dt : Nat) (u : State) (m : SnapMsg),
      u = s.after dt → u.twinOn = true → m.crcOk = true → u.twin.seen.contains m.seq = false → u.mode = 3 → 0 ≤ sx 32 (sub32 m.phase (u.rgAnchor 0)) →
      Yields (.snap dt m) s fun t =>
        t.twin.snap = some m ∧ t.regs = u.regs ∧ t.mem = u.mem) ∧
    (∀ (s : State) (dt : Nat) (u : State) (m : SolveMsg),
      u = s.after dt → u.twinOn = true → m.crcOk = true → u.twin.seen.contains m.seq = false → u.mode = 3 → 0 ≤ sx 32 (sub32 m.phase u.solveAnchor) →
      Yields (.solve dt m) s fun t =>
        t.twin.solve = some m ∧ t.regs = u.regs ∧ t.mem = u.mem) ∧
    (∀ (s : State) (dt : Nat) (u : State) (m : ModelMsg) (x : Nat),
      u = s.after dt → u.twinOn = true → m.crcOk = true → u.twin.seen.contains m.seq = false → u.mode = 3 → m.writes = [] → m.commit = some x →
      Yields (.model dt m) s fun t =>
        t.twin.models = u.twin.models ++ [m] ∧ t.mem = u.mem) ∧
    (∀ (s : State) (dt : Nat) (u : State) (m : ModelMsg) (o v : Nat),
      u = s.after dt → u.twinOn = true → m.crcOk = true → u.twin.seen.contains m.seq = false → u.mode = 3 → m.writes = [(o, v)] → m.commit = none → o < 0x90000 → o % 4 = 0 → v < 4294967296 →
      Yields (.model dt m) s fun t =>
        t.mem32 3 o = v ∧ t.regs = u.regs ∧ (∀ a, a < 0x90000 → a / 4 ≠ o / 4 → t.mem8 3 a = u.mem8 3 a))

/-- Loss of the twin link, take-over (R370) and hand-back (R374, R375). -/
def Obligations.TwinTakesOverAndHandsBack : Prop :=
  (∀ (s : State) (dt : Nat) (u : State),
      u = s.after dt → u.twinOn = true → u.twinUp = true →
      Yields (.twinLinkDown dt) s fun t =>
        t.rd R.TWN_STAT.LINK_UP = 0 ∧ t.rd R.TWN_STAT.PEER_MODE = 15 ∧ t.rd R.TWN_STAT.PEER_SYNCED = 0 ∧ t.rd R.TWN_STAT.PEER_READY = 0 ∧
        t.rd R.TWN_FLAGS.PEER_LOST = 1 ∧ t.rd R.TWN_STAT.READY = 0 ∧ t.rd R.TWN_STAT.SYNC = 0) ∧
    (∀ (s : State) (dt : Nat) (u : State) (ch : Nat),
      u = s.after dt → isCh ch = true → u.twinOn = true → u.mode = 3 → u.rd R.MOD_STATE.PEND = 15 → u.peerYields = true → u.rd R.TWN_STAT.READY = 0 →
      Yields (.takeover dt ch) s fun t =>
        t.rd R.TWN_FLAGS.TKO_REFUSED = 1 ∧ t.mode = 3 ∧ t.rd R.MOD_STATE.PEND = 15) ∧
    (∀ (s : State) (dt : Nat) (u : State) (ch : Nat) (p : StatusMsg),
      u = s.after dt → isCh ch = true → u.twinOn = true → u.mode = 3 → u.rd R.MOD_STATE.PEND = 15 → u.peerYields = true → u.twin.peer = some p → bit p.health 2 = false → u.rd R.TWN_STAT.READY = 1 → u.matched = true → u.role 0 ≠ 1 → u.role 1 ≠ 1 →
      Yields (.takeover dt ch) s fun t =>
        t.rd R.MOD_STATE.PEND = 2 ∧ t.dev.pendKind = 1 ∧ t.twin.lost = false) ∧
    (∀ (s : State) (dt : Nat) (u : State) (ch : Nat) (p : StatusMsg),
      u = s.after dt → isCh ch = true → u.twinOn = true → u.mode = 3 → u.rd R.MOD_STATE.PEND = 15 → u.peerYields = true → u.twin.peer = some p → bit p.health 2 = false → u.rd R.TWN_STAT.READY = 1 → u.matched = true → u.role 0 = 1 → u.nNodes 0 ≠ 0 →
      Yields (.takeover dt ch) s fun t =>
        t.rd R.MOD_STATE.PEND = 2 ∧ t.dev.pendKind = 2 ∧ (t.chan 0).go = some (add32 u.now u.tkoLead)) ∧
    (∀ (s u : State) (r : Nat),
      u = s.runRim (r + s.holdoff) → s.twin.readyAt = some r → s.twinOn = true → s.twin.hbReq = false → s.mayRevert = true →
      Yields (.holdoffEnd) s fun t =>
        t.twin.hbReq = true ∧ t.rd R.TWN_CTRL.HB_NOW = 0) ∧
    (∀ (s : State) (dt : Nat) (u : State) (src : Src) (v : Nat),
      u = s.after dt → isWord v = true → bit v 31 = true → u.mayWrite src 19 = true → u.armed src = true → u.rd R.TWN_STAT.READY = 1 →
      Yields (.hbNow dt src v) s fun t =>
        t.armed src = false ∧ (u.twinOn = false → t.rd R.TWN_CTRL.HB_NOW = 1) ∧
        (t.rd R.TWN_STAT.READY = 1 → t.on R.TWN_CFG.REVERT = true → t.rd R.TWN_CTRL.HB_NOW = 1 ∨ t.twin.hbReq = true)) ∧
    (∀ (s : State) (dt : Nat) (u : State) (src : Src) (v : Nat),
      u = s.after dt → isWord v = true → bit v 31 = true → u.mayWrite src 19 = true → u.armed src = false →
      Yields (.hbNow dt src v) s fun t =>
        t.rd R.CMT_STAT.KEY_VIOL = 1 ∧ t.twin = u.twin ∧ t.rd R.TWN_CTRL.HB_NOW = u.rd R.TWN_CTRL.HB_NOW)

/-- The work items of Ductus (R404 to R412). The submission is stated for an item of class 0 without a due time or a flow. -/
def Obligations.DuctusItemsMoveThroughTheirStages : Prop :=
  (∀ (s : State) (dt : Nat) (u : State) (src : Src) (p v n : Nat),
      u = s.after dt → isWord v = true → bits v 31 29 = 4 → bits v 19 16 = 0 → portOf src = some p → u.mayWrite src 15 = true → tget none u.dct.subs p = none → u.freeSlot = some n →
      Yields (.submit dt src v) s fun t =>
        tget none t.dct.subs p = some (t.stagedItem p, false) ∧ t.dct.turn = true ∧ ((t.submitDue p).item n).stage = 1 ∧
        ((t.submitDue p).item n).entry = u.rd (R.SUB_ENTRY.VALUE.j p) ∧ ((t.submitDue p).item n).arg = u.rd (R.SUB_ARG.VALUE.j p) ∧
        (t.submitDue p).rd (R.SUB_RES.RES.j p) = 0 ∧ (t.submitDue p).rd (R.SUB_RES.ITEM.j p) = n % 256) ∧
    (∀ (s u : State),
      u = s.runTo ((s.now / 1024 + 1) * 1024 % 4294967296) → s.dctOn = true →
      Yields (.delayTick) s fun t =>
        ∀ n ∈ u.dct.delay, sub32 u.now (u.item n).due < 2147483648 → (t.item n).stage = 1) ∧
    (∀ (s : State) (dt : Nat) (u : State) (core slot r : Nat),
      u = s.after dt → core < 4 → isWord r = true → u.dct.run = [(core, slot)] →
      Yields (.itemEnd dt core r) s fun t =>
        (t.item slot).stage = 3 ∧ (t.item slot).result = r ∧ (t.item slot).status = 0 ∧ slot ∈ t.dct.ended ∧ t.dct.run = []) ∧
    (∀ (s : State) (dt : Nat) (u : State) (src : Src) (v : Nat),
      u = s.after dt → isWord v = true → bit v 31 = true → u.mayWrite src 15 = true → (u.item (v % 256)).stage = 1 ∨ (u.item (v % 256)).stage = 0 →
      Yields (.cancel dt src v) s fun t =>
        (t.item (v % 256)).stage = 3 ∧ (t.item (v % 256)).status = 2 ∧ (v % 256) ∈ t.dct.ended ∧ t.rd R.DCT_CANCEL.ITEM = v % 256) ∧
    (∀ (s : State) (dt : Nat) (u : State) (src : Src) (v : Nat),
      u = s.after dt → isWord v = true → bit v 31 = true → u.mayWrite src 15 = true → 1 < (u.item (v % 256)).stage →
      Yields (.cancel dt src v) s fun t =>
        t.rd R.DCT_FLAGS.CANCEL_LATE = 1 ∧ t.item (v % 256) = u.item (v % 256)) ∧
    (∀ (s : State) (dt : Nat) (u : State) (src : Src) (v : Nat),
      u = s.after dt → isWord v = true → u.mayWrite src 15 = true →
      Yields (.obsWrite dt src v) s fun t =>
        t.rd R.DCT_CFG.OBS = bits v 31 30 ∧ t.rd R.DCT_CFG.TRACE_STOP = bits v 29 29 ∧ t.rd R.DCT_TRACE_PTR.NEXT = 0 ∧
        t.rd R.DCT_TRACE_PTR.WRAPPED = 0 ∧ t.dct.traceN = 0 ∧ (bits v 31 30 = 1 → t.rd (R.DCT_STAT.DISP.j 15) = 0))

/-- The arithmetic of Serif (R380, R386): the result goes to FD, the flags that it raises enter ST, no other F or A register and no byte of memory changes. -/
def Obligations.SerifArithmeticWritesItsResult : Prop :=
  (∀ (s : State) (dt : Nat) (u : State) (d fd fa fb fc : Nat),
      u = s.after dt → isR d fd fa fb fc = true → u.atWord d (encR 0x10 fd fa fb fc) = true →
      Yields (.fadd dt d fd fa fb fc) s fun t =>
        SerifGoes d ((u.serif d).setF fd ((fAdd ((u.serif d).getF fa) ((u.serif d).getF fb)).1)) ((fAdd ((u.serif d).getF fa) ((u.serif d).getF fb)).2) u t) ∧
    (∀ (s : State) (dt : Nat) (u : State) (d fd fa fb fc : Nat),
      u = s.after dt → isR d fd fa fb fc = true → u.atWord d (encR 0x11 fd fa fb fc) = true →
      Yields (.fsub dt d fd fa fb fc) s fun t =>
        SerifGoes d ((u.serif d).setF fd ((fSub ((u.serif d).getF fa) ((u.serif d).getF fb)).1)) ((fSub ((u.serif d).getF fa) ((u.serif d).getF fb)).2) u t) ∧
    (∀ (s : State) (dt : Nat) (u : State) (d fd fa fb fc : Nat),
      u = s.after dt → isR d fd fa fb fc = true → u.atWord d (encR 0x12 fd fa fb fc) = true →
      Yields (.fmul dt d fd fa fb fc) s fun t =>
        SerifGoes d ((u.serif d).setF fd ((fMul ((u.serif d).getF fa) ((u.serif d).getF fb)).1)) ((fMul ((u.serif d).getF fa) ((u.serif d).getF fb)).2) u t) ∧
    (∀ (s : State) (dt : Nat) (u : State) (d fd fa fb fc : Nat),
      u = s.after dt → isR d fd fa fb fc = true → u.atWord d (encR 0x13 fd fa fb fc) = true →
      Yields (.fma dt d fd fa fb fc) s fun t =>
        SerifGoes d ((u.serif d).setF fd ((fFma false ((u.serif d).getF fa) ((u.serif d).getF fb) ((u.serif d).getF fc)).1)) ((fFma false ((u.serif d).getF fa) ((u.serif d).getF fb) ((u.serif d).getF fc)).2) u t) ∧
    (∀ (s : State) (dt : Nat) (u : State) (d fd fa fb fc : Nat),
      u = s.after dt → isR d fd fa fb fc = true → u.atWord d (encR 0x14 fd fa fb fc) = true →
      Yields (.mac dt d fd fa fb fc) s fun t =>
        SerifGoes d ((u.serif d).setF fd ((fFma false ((u.serif d).getF fa) ((u.serif d).getF fb) ((u.serif d).getF fd)).1)) ((fFma false ((u.serif d).getF fa) ((u.serif d).getF fb) ((u.serif d).getF fd)).2) u t) ∧
    (∀ (s : State) (dt : Nat) (u : State) (d fd fa fb fc : Nat),
      u = s.after dt → isR d fd fa fb fc = true → u.atWord d (encR 0x15 fd fa fb fc) = true →
      Yields (.msub dt d fd fa fb fc) s fun t =>
        SerifGoes d ((u.serif d).setF fd ((fFma true ((u.serif d).getF fa) ((u.serif d).getF fb) ((u.serif d).getF fd)).1)) ((fFma true ((u.serif d).getF fa) ((u.serif d).getF fb) ((u.serif d).getF fd)).2) u t) ∧
    (∀ (s : State) (dt : Nat) (u : State) (d fd fa fb fc : Nat),
      u = s.after dt → isR d fd fa fb fc = true → u.atWord d (encR 0x1C fd fa fb fc) = true →
      Yields (.rcp dt d fd fa fb fc) s fun t =>
        SerifGoes d ((u.serif d).setF fd ((fRcp ((u.serif d).getF fa)).1)) ((fRcp ((u.serif d).getF fa)).2) u t) ∧
    (∀ (s : State) (dt : Nat) (u : State) (d fd fa fb fc : Nat),
      u = s.after dt → isR d fd fa fb fc = true → u.atWord d (encR 0x1D fd fa fb fc) = true →
      Yields (.rsq dt d fd fa fb fc) s fun t =>
        SerifGoes d ((u.serif d).setF fd ((fRsq ((u.serif d).getF fa)).1)) ((fRsq ((u.serif d).getF fa)).2) u t) ∧
    (∀ (s : State) (dt : Nat) (u : State) (d fd fa fb fc : Nat),
      u = s.after dt → isR d fd fa fb fc = true → u.atWord d (encR 0x1E fd fa fb fc) = true →
      Yields (.itof dt d fd fa fb fc) s fun t =>
        SerifGoes d ((u.serif d).setF fd ((fItof ((u.serif d).getF fa)).1)) ((fItof ((u.serif d).getF fa)).2) u t) ∧
    (∀ (s : State) (dt : Nat) (u : State) (d fd fa fb fc : Nat),
      u = s.after dt → isR d fd fa fb fc = true → u.atWord d (encR 0x1F fd fa fb fc) = true →
      Yields (.ftoi dt d fd fa fb fc) s fun t =>
        SerifGoes d ((u.serif d).setF fd ((fFtoi ((u.serif d).getF fa)).1)) ((fFtoi ((u.serif d).getF fa)).2) u t)

/-- Minimum, maximum, clamp, sign and comparison of Serif (R381, R386). -/
def Obligations.SerifSelectionAndComparison : Prop :=
  (∀ (s : State) (dt : Nat) (u : State) (d fd fa fb fc : Nat),
      u = s.after dt → isR d fd fa fb fc = true → u.atWord d (encR 0x16 fd fa fb fc) = true →
      Yields (.fmin dt d fd fa fb fc) s fun t =>
        SerifGoes d ((u.serif d).setF fd ((fMinMax false ((u.serif d).getF fa) ((u.serif d).getF fb)).1)) ((fMinMax false ((u.serif d).getF fa) ((u.serif d).getF fb)).2) u t) ∧
    (∀ (s : State) (dt : Nat) (u : State) (d fd fa fb fc : Nat),
      u = s.after dt → isR d fd fa fb fc = true → u.atWord d (encR 0x17 fd fa fb fc) = true →
      Yields (.fmax dt d fd fa fb fc) s fun t =>
        SerifGoes d ((u.serif d).setF fd ((fMinMax true ((u.serif d).getF fa) ((u.serif d).getF fb)).1)) ((fMinMax true ((u.serif d).getF fa) ((u.serif d).getF fb)).2) u t) ∧
    (∀ (s : State) (dt : Nat) (u : State) (d fd fa fb fc : Nat),
      u = s.after dt → isR d fd fa fb fc = true → u.atWord d (encR 0x18 fd fa fb fc) = true →
      Yields (.fabs dt d fd fa fb fc) s fun t =>
        SerifGoes d ((u.serif d).setF fd ((u.serif d).getF fa % 2147483648)) (0) u t) ∧
    (∀ (s : State) (dt : Nat) (u : State) (d fd fa fb fc : Nat),
      u = s.after dt → isR d fd fa fb fc = true → u.atWord d (encR 0x19 fd fa fb fc) = true →
      Yields (.fneg dt d fd fa fb fc) s fun t =>
        SerifGoes d ((u.serif d).setF fd (Nat.xor ((u.serif d).getF fa) 2147483648)) (0) u t) ∧
    (∀ (s : State) (dt : Nat) (u : State) (d fd fa fb fc : Nat),
      u = s.after dt → isR d fd fa fb fc = true → u.atWord d (encR 0x1A fd fa fb fc) = true →
      Yields (.fcmp dt d fd fa fb fc) s fun t =>
        (t.serif d).f = (u.serif d).f ∧ (t.serif d).a = (u.serif d).a ∧ t.mem = u.mem ∧
        bits (t.serif d).st 6 4 = b2n (fCmp ((u.serif d).getF fa) ((u.serif d).getF fb)).2.2.1 * 4 +
        b2n (fCmp ((u.serif d).getF fa) ((u.serif d).getF fb)).2.1 * 2 + b2n (fCmp ((u.serif d).getF fa) ((u.serif d).getF fb)).1) ∧
    (∀ (s : State) (dt : Nat) (u : State) (d fd fa fb fc : Nat),
      u = s.after dt → isR d fd fa fb fc = true → u.atWord d (encR 0x1B fd fa fb fc) = true →
      Yields (.clamp dt d fd fa fb fc) s fun t =>
        SerifGoes d ((u.serif d).setF fd ((fMinMax false (fMinMax true ((u.serif d).getF fd) ((u.serif d).getF fa)).1 ((u.serif d).getF fb)).1)) ((fMinMax true ((u.serif d).getF fd) ((u.serif d).getF fa)).2 ||| (fMinMax false (fMinMax true ((u.serif d).getF fd) ((u.serif d).getF fa)).1 ((u.serif d).getF fb)).2) u t)

/-- Moves, immediates and memory accesses of Serif (R382, R386 to R388, R394). A store changes its own data word; the others change no byte of memory. -/
def Obligations.SerifMovesAndMemory : Prop :=
  (∀ (s : State) (dt : Nat) (u : State) (d f sp : Nat),
      u = s.after dt → isSerif d = true → f < 32 → sp < 14 → u.atWord d (encS 9 f sp) = true →
      Yields (.mvs dt d f sp) s fun t =>
        SerifGoes d ((u.serif d).setF f ((u.serif d).special sp)) 0 u t) ∧
    (∀ (s : State) (dt : Nat) (u : State) (d f sp : Nat),
      u = s.after dt → isSerif d = true → f < 32 → 1 ≤ sp → sp < 14 → u.atWord d (encS 10 f sp) = true → (u.serif d).ldepth = 0 →
      Yields (.mvd dt d f sp) s fun t =>
        (t.serif d).special sp = ((u.serif d).setSpecial sp ((u.serif d).getF f)).special sp ∧ SerifGoes d (u.serif d) 0 u t) ∧
    (∀ (s : State) (dt : Nat) (u : State) (d f : Nat),
      u = s.after dt → isSerif d = true → f < 32 → u.atWord d (encS 10 f 0) = true → bits (stWord ((u.serif d).getF f)) 13 12 = 0 →
      Yields (.mvd dt d f 0) s fun t =>
        (t.serif d).st = stWord ((u.serif d).getF f) ∧ (t.serif d).f = (u.serif d).f ∧ (t.serif d).a = (u.serif d).a ∧ (t.serif d).pc = (u.serif d).pc + 1 ∧ t.mem = u.mem) ∧
    (∀ (s : State) (dt : Nat) (u : State) (d ax ay imm : Nat),
      u = s.after dt → isSerif d = true → ax < 8 → ay < 8 → imm < 65536 → u.atWord d (0x0B * p2 26 + ax * p2 23 + ay * p2 20 + imm) = true →
      Yields (.ada dt d ax ay imm) s fun t =>
        SerifGoes d ((u.serif d).setA ax ((u.serif d).getA ay + sx 16 imm)) 0 u t) ∧
    (∀ (s : State) (dt : Nat) (u : State) (d fd fa fb fc : Nat),
      u = s.after dt → isR d fd fa fb fc = true → u.atWord d (encR 0x0C fd fa fb fc) = true →
      Yields (.mvaf dt d fd fa fb fc) s fun t =>
        SerifGoes d ((u.serif d).setF fd ((u.serif d).getA (fa % 8))) 0 u t) ∧
    (∀ (s : State) (dt : Nat) (u : State) (d fd fa fb fc : Nat),
      u = s.after dt → isR d fd fa fb fc = true → u.atWord d (encR 0x0D fd fa fb fc) = true →
      Yields (.mvfa dt d fd fa fb fc) s fun t =>
        SerifGoes d ((u.serif d).setA (fd % 8) ((u.serif d).getF fa)) 0 u t) ∧
    (∀ (s : State) (dt : Nat) (u : State) (d f imm : Nat),
      u = s.after dt → isSerif d = true → f < 32 → imm < 65536 → u.atWord d (0x22 * p2 26 + f * p2 21 + imm) = true →
      Yields (.ldi dt d f imm) s fun t =>
        SerifGoes d ((u.serif d).setF f (imm * 65536)) 0 u t) ∧
    (∀ (s : State) (dt : Nat) (u : State) (d f a pm imm : Nat),
      u = s.after dt → isM d f a pm imm = true → u.atWord d (encM 0x20 f a pm imm) = true →
      Yields (.ld dt d f a pm imm) s fun t =>
        SerifGoes d (((u.serif d).mAddr a pm imm).2.setF f (u.sfMem d ((u.serif d).mAddr a pm imm).1)) 0 u t) ∧
    (∀ (s : State) (dt : Nat) (u : State) (d f a pm imm : Nat),
      u = s.after dt → isM d f a pm imm = true → u.atWord d (encM 0x21 f a pm imm) = true →
      Yields (.st dt d f a pm imm) s fun t =>
        t.sfMem d ((u.serif d).mAddr a pm imm).1 = (u.serif d).getF f % 4294967296 ∧ (t.serif d).f = (u.serif d).f ∧
        (t.serif d).a = ((u.serif d).mAddr a pm imm).2.a ∧
        (∀ w, w < 16384 → w ≠ ((u.serif d).mAddr a pm imm).1 % 16384 → t.sfMem d w = u.sfMem d w)) ∧
    (∀ (s : State) (dt : Nat) (u : State) (d fd fc a : Nat),
      u = s.after dt → isSerif d = true → fd < 32 → fc < 32 → a < 8 → u.atWord d (0x23 * p2 26 + fd * p2 21 + fc * p2 16 + a * p2 13) = true → (u.serif d).goesOn = true →
      Yields (.tapm dt d fd fc a) s fun t =>
        (t.serif d).f = ((u.serif d).setF fd (fFma false ((u.serif d).getF fc) (u.sfMem d ((u.serif d).getA a)) ((u.serif d).getF fd)).1).f ∧
        (t.serif d).a = ((u.serif d).setA a (((u.serif d).getA a : Int) - 1)).a ∧ (t.serif d).rot = ((u.serif d).rot + 1) % 16 ∧
        t.sfMem d ((u.serif d).getA a + 1) = u.sfMem d ((u.serif d).getA a)) ∧
    (∀ (s : State) (dt : Nat) (u : State) (d fd fb ax ay p q : Nat),
      u = s.after dt → isSerif d = true → fd < 32 → fb < 32 → ax < 8 → ay < 8 → p < 3 → q < 3 → u.atWord d (0x24 * p2 26 + fd * p2 21 + fb * p2 16 + ax * p2 13 + ay * p2 10 + p * p2 8 + q * p2 6) = true →
      Yields (.ldst dt d fd fb ax ay p q) s fun t =>
        t.sfMem d ((u.serif d).getA ay) = (u.serif d).getF fb % 4294967296 ∧
        (t.serif d).f = ((u.serif d).setF fd (u.sfMem d ((u.serif d).getA ax))).f ∧
        (∀ w, w < 16384 → w ≠ (u.serif d).getA ay % 16384 → t.sfMem d w = u.sfMem d w))

/-- Control flow of Serif (R386 to R397). PC is stated outside a hardware loop, whose end is a rule of its own. -/
def Obligations.SerifControlFlow : Prop :=
  (∀ (s : State) (dt : Nat) (u : State) (d n : Nat),
      u = s.after dt → isN d n = true → u.atWord d n = true →
      Yields (.nop dt d n) s fun t =>
        SerifGoes d (u.serif d) 0 u t) ∧
    (∀ (s : State) (dt : Nat) (u : State) (d k x : Nat),
      u = s.after dt → isSerif d = true → k < 8 → x < 8192 → u.atWord d (4 * p2 26 + k * p2 22 + x) = true → (u.serif d).goesOn = true →
      Yields (.br dt d k x) s fun t =>
        (t.serif d).pc = (if (u.serif d).cond k then x else (u.serif d).pc + 1) ∧ (t.serif d).f = (u.serif d).f ∧ (t.serif d).a = (u.serif d).a ∧ t.mem = u.mem) ∧
    (∀ (s : State) (dt : Nat) (u : State) (d x : Nat),
      u = s.after dt → isSerif d = true → x < 8192 → u.atWord d (5 * p2 26 + x) = true → (u.serif d).goesOn = true →
      Yields (.call dt d x) s fun t =>
        (t.serif d).pc = x ∧ (t.serif d).lr = (u.serif d).pc + 1 ∧ (t.serif d).f = (u.serif d).f ∧ (t.serif d).a = (u.serif d).a ∧ t.mem = u.mem) ∧
    (∀ (s : State) (dt : Nat) (u : State) (d n : Nat),
      u = s.after dt → isN d n = true → u.atWord d (encN 6 n) = true → (u.serif d).goesOn = true → (u.serif d).lr < 8192 →
      Yields (.ret dt d n) s fun t =>
        (t.serif d).pc = (u.serif d).lr ∧ (t.serif d).f = (u.serif d).f ∧ (t.serif d).a = (u.serif d).a ∧ t.mem = u.mem) ∧
    (∀ (s : State) (dt : Nat) (u : State) (d m r k last : Nat),
      u = s.after dt → isSerif d = true → m < 2 → r < 2 → k < 2048 → last < 8192 → u.atWord d (7 * p2 26 + m * p2 25 + r * p2 24 + k * p2 13 + last) = true → (if m = 1 then k else (u.serif d).getA (k % 8)) ≠ 0 → (u.serif d).ldepth < 2 → last ≠ (u.serif d).pc →
      Yields (.loop dt d m r k last) s fun t =>
        (t.serif d).ldepth = (u.serif d).ldepth + 1 ∧ tget 0 (t.serif d).lc (u.serif d).ldepth = (if m = 1 then k else (u.serif d).getA (k % 8)) ∧
        tget 0 (t.serif d).ls (u.serif d).ldepth = (u.serif d).pc + 1 ∧ tget 0 (t.serif d).le (u.serif d).ldepth = last ∧
        bit (t.serif d).rf (u.serif d).ldepth = (r == 1) ∧ (t.serif d).pc = (u.serif d).pc + 1 ∧ (t.serif d).f = (u.serif d).f) ∧
    (∀ (s : State) (dt : Nat) (u : State) (d m r k last : Nat),
      u = s.after dt → isSerif d = true → m < 2 → r < 2 → k < 2048 → last < 8191 → u.atWord d (7 * p2 26 + m * p2 25 + r * p2 24 + k * p2 13 + last) = true → (if m = 1 then k else (u.serif d).getA (k % 8)) = 0 → (u.serif d).ldepth < 2 → (u.serif d).goesOn = true →
      Yields (.loop dt d m r k last) s fun t =>
        (t.serif d).ldepth = (u.serif d).ldepth ∧ (t.serif d).pc = last + 1 ∧ (t.serif d).f = (u.serif d).f ∧ (t.serif d).a = (u.serif d).a) ∧
    (∀ (s : State) (dt : Nat) (u : State) (d n : Nat),
      u = s.after dt → isN d n = true → u.atWord d (encN 8 n) = true → (u.serif d).ldepth = 1 → (u.serif d).lmask = 0 →
      Yields (.lpop dt d n) s fun t =>
        (t.serif d).ldepth = 0 ∧ (t.serif d).pc = (u.serif d).pc + 1 ∧ (t.serif d).f = (u.serif d).f ∧ (t.serif d).a = (u.serif d).a) ∧
    (∀ (s : State) (dt : Nat) (u : State) (d n : Nat),
      u = s.after dt → isN d n = true → u.atWord d (encN 2 n) = true → (bit (u.serif d).istat 15 && (u.serif d).ie) = false → bits (u.serif d).istat 13 10 = 0 → (u.serif d).ipc < 8192 → (u.serif d).task ≠ 0 →
      Yields (.reti dt d n) s fun t =>
        (t.serif d).pc = (u.serif d).ipc ∧ (t.serif d).hdl = (u.serif d).hdl - 1 ∧ (t.serif d).f = (u.serif d).f ∧ t.mem = u.mem) ∧
    (∀ (s : State) (dt : Nat) (u : State) (d n : Nat),
      u = s.after dt → isN d n = true → u.atWord d (encN 3 n) = true → (u.serif d).goesOn = true →
      Yields (.swi dt d n) s fun t =>
        (t.serif d).swi = n ∧ bit (t.serif d).ipend 0 = true ∧ (t.serif d).pc = (u.serif d).pc + 1 ∧ (t.serif d).f = (u.serif d).f) ∧
    (∀ (s : State) (dt : Nat) (u : State) (d n : Nat),
      u = s.after dt → isN d n = true → u.atWord d (encN 1 n) = true → (u.serif d).task = 2 → (u.serif d).wait = false →
      Yields (.endTask dt d n) s fun t =>
        (t.serif d).task = 0 ∧ (t.item (u.serif d).slot).stage = 3 ∧ (t.item (u.serif d).slot).result = tget 0 (u.serif d).f 0 ∧
        (u.serif d).slot ∈ t.dct.ended) ∧
    (∀ (s : State) (dt : Nat) (u : State) (d w : Nat),
      u = s.after dt → isSerif d = true → u.atWord d w = true → legal w = false → (u.serif d).wait = false →
      Yields (.illegalInstruction dt d) s fun t =>
        (t.serif d).task = 0 ∧ t.rd (R.SF_FLT.CAUSE.i d) = 1 ∧ t.rd (R.SF_FLT.FPC.i d) = (u.serif d).pc ∧ t.rd (R.SF_FLAGS.FAULT_SEEN.i d) = 1)

/-- Interrupts, control writes and periods of a Serif core (R391, R392, R398 to R401). -/
def Obligations.SerifTasksAndInterrupts : Prop :=
  (∀ (s : State) (dt : Nat) (u : State) (d : Nat),
      u = s.after dt → isSerif d = true → u.serifOn d = true → (u.serif d).takeable = true → (u.serif d).irq = true →
      Yields (.interruptEntry dt d) s fun t =>
        (t.serif d).ipc = (u.serif d).pc ∧ (t.serif d).istat = (u.serif d).st ∧ (t.serif d).hdl = (u.serif d).hdl + 1 ∧
        (t.serif d).irq = false ∧ (t.serif d).ie = false ∧ (t.serif d).f = (u.serif d).f ∧ t.mem = u.mem ∧
        (∀ l, l < 8 → bit ((u.serif d).ipend &&& (u.serif d).ien) l = true →
        (∀ k, k < l → bit ((u.serif d).ipend &&& (u.serif d).ien) k = false) → (t.serif d).pc = 8 + 4 * l ∧ bit (t.serif d).ipend l = false)) ∧
    (∀ (s : State) (dt : Nat) (u : State) (src : Src) (d : Nat),
      u = s.after dt → isSerif d = true → u.mayWrite src (11 + d) = true → bit (u.serif d).ipend 1 = false →
      Yields (.doorbell dt src d) s fun t =>
        bit (t.serif d).ipend 1 = true ∧ t.rd (R.SF_CTRL.RUN.i d) = u.rd (R.SF_CTRL.RUN.i d)) ∧
    (∀ (s : State) (dt : Nat) (u : State) (src : Src) (d v : Nat),
      u = s.after dt → isSerif d = true → isWord v = true → u.mayWrite src (11 + d) = true →
      Yields (.run dt src d v) s fun t =>
        t.rd (R.SF_CTRL.RUN.i d) = bits v 31 31 ∧ (bit v 31 = false → (u.serif d).idle = false → (t.serif d).halt = true)) ∧
    (∀ (s : State) (dt : Nat) (u : State) (src : Src) (d v : Nat),
      u = s.after dt → isSerif d = true → isWord v = true → u.mayWrite src (11 + d) = true →
      Yields (.sfTimerWrite dt src d v) s fun t =>
        t.rd (R.SF_TIMER.AT.i d) = v ∧ (t.serif d).armed = true ∧ t.rd (R.SF_STAT.TARMED.i d) = 1) ∧
    (∀ (s u : State) (d : Nat),
      s.reach (s.rd (R.SF_TIMER.AT.i d)) = some u → isSerif d = true → (s.serif d).armed = true → u.alive = true → u.dom (11 + d) = true →
      Yields (.sfTimerExpire d) s fun t =>
        (t.serif d).armed = false ∧ bit (t.serif d).ipend 5 = true) ∧
    (∀ (s u : State) (d x due : Nat),
      s.reach (sub32 due (s.act (R.SF_IRQ.WARN.i d))) = some u → isSerif d = true → (s.serif d).per = some (x, due) → (s.serif d).task = 1 → s.act (R.SF_IRQ.WARN.i d) ≠ 0 → u.alive = true → u.dom (11 + d) = true →
      Yields (.releaseWarning d) s fun t =>
        bit (t.serif d).ipend 7 = true ∧ (t.serif d).task = (u.serif d).task) ∧
    (∀ (s u : State) (d x due : Nat),
      s.reach (due) = some u → isSerif d = true → (s.serif d).per = some (x, due) → (u.serif d).endAt = none → (u.serif d).task = 1 → (u.serif d).hdl = 0 → (u.serif d).halt = false → u.rd (R.SF_CNT.LATE_CNT.i d) < 65534 →
      Yields (.serifRelease d) s fun t =>
        (t.serif d).per = none ∧ (t.serif d).task = 0 ∧ t.rd (R.SF_FLAGS.LATE.i d) = 1 ∧
        t.rd (R.SF_CNT.LATE_CNT.i d) = u.rd (R.SF_CNT.LATE_CNT.i d) + 1 ∧ t.rd (R.SF_TIME.SLACK.i d) = 255 ∧ t.rd (R.SF_TIME.DONE.i d) = 262143) ∧
    (∀ (s u : State) (d x due e : Nat),
      s.reach (due) = some u → isSerif d = true → (s.serif d).per = some (x, due) → (u.serif d).endAt = some e → e ≠ due →
      Yields (.serifRelease d) s fun t =>
        (t.serif d).per = none ∧ (t.serif d).endAt = none ∧ t.rd (R.SF_FLAGS.LATE.i d) = u.rd (R.SF_FLAGS.LATE.i d))

/-- The commands of Inkwell (R249). ARM takes the words of its configuration as they are at that moment and empties the buffer, and no other space. -/
def Obligations.InkwellIsArmedAndTriggered : Prop :=
  (∀ (s : State) (dt : Nat) (u : State) (src : Src),
      u = s.after dt → u.mayWrite src 16 = true →
      Yields (.arm dt src) s fun t =>
        t.ink.ctrl = u.rdw 0x7E0010 ∧ t.ink.trig = u.rdw 0x7E0014 ∧ t.ink.thr = u.rdw 0x7E0018 ∧ t.ink.count = 0 ∧ t.rd R.INK_STAT.STATE = 1 ∧
        t.rd R.INK_TROW.VALUE = 0 ∧ (∀ a, t.mem8 8 a = (if a < 16777216 then 0 else t.mem8 8 a)) ∧ (∀ a, a < 16777216 → t.mem8 6 a = u.mem8 6 a)) ∧
    (∀ (s : State) (dt : Nat) (u : State) (src : Src),
      u = s.after dt → u.mayWrite src 16 = true → u.inkState = 1 ∨ u.inkState = 2 →
      Yields (.inkStop dt src) s fun t =>
        t.rd R.INK_CTRL.STOP = 1 ∧ t.ink = u.ink ∧ t.mem = u.mem ∧ OnlyWords [R.INK_CTRL.STOP.addr] u t) ∧
    (∀ (s : State) (dt : Nat) (u : State) (src : Src),
      u = s.after dt → u.mayWrite src 16 = true → u.inkState = 1 → u.ink.kind = 0 →
      Yields (.trig dt src) s fun t =>
        t.rd R.INK_CTRL.TRIG = 1 ∧ t.ink.event = true ∧ t.mem = u.mem ∧ OnlyWords [R.INK_CTRL.STOP.addr] u t)

/-- Self-tests of units (R418, R428 to R433) and errors of the memories (R427). -/
def Obligations.TestsOfUnitsRunAndEnd : Prop :=
  (∀ (s : State) (dt : Nat) (u : State) (k : Nat) (r : TestReq),
      u = s.after dt → isUnit k = true → u.spr.reqs = [r] → r.unit = k → u.testRun r = true → r.sched = true → r.again = false → u.dct.overdue = none →
      Yields (.selfTestComplete dt k true) s fun t =>
        t.spr.reqs = [] ∧ t.rd R.SPR_STAT.ACTIVE = 0 ∧ t.rd R.SPR_STAT.WAITING = 0 ∧ t.spr.retired = u.spr.retired) ∧
    (∀ (s : State) (dt : Nat) (u : State) (k : Nat) (r : TestReq),
      u = s.after dt → isUnit k = true → u.spr.reqs = [r] → r.unit = k → u.testRun r = true → r.sched = false → u.dct.overdue = none →
      Yields (.selfTestComplete dt k false) s fun t =>
        t.rd R.SPR_LAST.UNIT = k % 65536 ∧ t.rd R.SPR_LAST.VERDICT = 2 ∧ t.rd R.SPR_FLAGS.LASTING_SEEN = 1) ∧
    (∀ (s : State) (dt : Nat) (u : State) (k w : Nat),
      u = s.after dt → isUnit k = true → u.alive = true → u.tb.run = true → u.schedFree k = true → 2 ≤ u.rd R.SCR_SHED.LEVEL →
      Yields (.scheduledTest dt k w) s fun t =>
        t.dct.defer = u.dct.defer ++ [(k, u.tb.rim, w)] ∧ t.rd R.SCR_TEST.DEFERRED = 1 ∧ t.spr.reqs = u.spr.reqs) ∧
    (∀ (s : State) (dt : Nat) (u : State) (w : Nat),
      u = s.after dt → u.alive = true → u.tb.run = true → u.schedFree 0x8000 = true → u.rd R.SCR_SHED.LEVEL < 2 → u.spr.reqs = [] →
      Yields (.scheduledTest dt 0x8000 w) s fun t =>
        t.rd R.SPR_WEAR.WEAR_MV = min w 255 ∧ (t.spr.reqs.map (·.unit)) = [0x8000] ∧ (t.spr.reqs.map (·.started.isSome)) = [true] ∧ t.rd R.SPR_STAT.ACTIVE = 1) ∧
    (∀ (s : State) (dt : Nat) (u : State) (mac row : Nat),
      u = s.after dt → mac < 240 → row < 1024 → u.alive = true → u.tb.run = true → u.spr.rowStuck = [] → u.spr.reqs = [] → u.rowsGone mac < 8 → u.rd R.SPR_CORR.CORR < 4294967294 →
      Yields (.sramError dt mac row true .other) s fun t =>
        t.rd R.SPR_CORR.CORR = u.rd R.SPR_CORR.CORR + 1 ∧ (t.spr.reqs.map (·.unit)) = [0x4000 + mac] ∧ (t.spr.reqs.map (·.row)) = [row] ∧ t.mem = u.mem) ∧
    (∀ (s : State) (dt : Nat) (u : State) (mac row n : Nat),
      u = s.after dt → mac < 240 → row < 1024 → u.alive = true → u.tb.run = true → n < 1048576 →
      Yields (.sramError dt mac row false (.inkwell n)) s fun t =>
        t.rd R.SPR_FLAGS.UNCORR = 1 ∧ t.mem32 8 (4 * n) = 0)

/-- The Blotter (R435, R438, R440). The commit is stated for a verified write of the oldest entry while faults are not drained first. -/
def Obligations.BlotterEntriesAreWrittenAndErased : Prop :=
  (∀ (s : State) (dt : Nat) (u : State) (e : BltEntry) (q : List BltEntry),
      u = s.after dt → u.alive = true → u.rd R.BLT_STAT.READY = 1 → u.blt.fill < 511 → u.blt.queue = e :: q → u.blt.held = [] → u.drainFaults = false →
      Yields (.blotterCommit dt true) s fun t =>
        t.blt.queue = q ∧ t.blt.fill = u.blt.fill + 1 ∧ t.rd R.BLT_HEAD.SEQ = add32 (u.rd R.BLT_HEAD.SEQ) 1 ∧ t.rd R.SCR_BLQ.LEVEL = q.length % 128 ∧
        (∃ x, t.blt.log = u.blt.log ++ [x] ∧ x.seq = u.rd R.BLT_HEAD.SEQ ∧ x.crc = crc32c x.body ∧ x.code = e.code ∧ x.unit = e.unit)) ∧
    (∀ (s : State) (dt : Nat) (u : State) (b : Nat),
      u = s.after dt → u.blt.erase = some b → u.blt.fill < 512 →
      Yields (.blockEraseComplete dt true) s fun t =>
        t.blt.erase = none ∧ t.rd R.BLT_STAT.ERASING = 0) ∧
    (∀ (s : State) (dt : Nat) (u : State) (b : Nat),
      u = s.after dt → u.blt.erase = some b →
      Yields (.blockEraseComplete dt false) s fun t =>
        t.unitGone (0x9000 + b) = true ∧ t.blt.erase ≠ none ∧ t.blt.log = u.blt.log) ∧
    (∀ (s : State) (x : Rat),
      s.alive = true → s.tb.run = true → s.spr.hoursN < 20000000000 →
      Yields (.hoursJournal x) s fun t =>
        t.spr.hoursN = s.spr.hoursN + 1 ∧ t.rd R.SPR_HOURS.VALUE = (s.spr.hoursN + 1) / 6 ∧ t.spr.ageF = s.spr.ageF + pow2Q ((x - 95) / 10) / 6)

/-- Guards (R55 to R57), commits (R48) and the scrub of triplicated fields (R61). -/
def Obligations.GuardsAndCommits : Prop :=
  (∀ (s : State) (dt : Nat) (u : State) (src : Src),
      u = s.after dt → u.reads src = true →
      Yields (.unlock dt src 0x5EA1) s fun t =>
        t.armed src = true ∧ t.mem = u.mem ∧ t.rd R.CMT_STAT.KEY_VIOL = u.rd R.CMT_STAT.KEY_VIOL ∧ OnlyWords [R.CMT_STAT.ARMED_H.addr] u t) ∧
    (∀ (s : State) (dt : Nat) (u : State) (src : Src) (v : Nat),
      u = s.after dt → isWord v = true → v ≠ 0x5EA1 → u.reads src = true →
      Yields (.unlock dt src v) s fun t =>
        t.armed src = false ∧ t.rd R.CMT_STAT.KEY_VIOL = 1) ∧
    (∀ (s u : State) (src : Src),
      s.reach (add32 (if src = .scribe then s.cmt.keyS else s.cmt.keyH) 1000000) = some u → s.armed src = true →
      Yields (.unlockExpire src) s fun t =>
        t.armed src = false ∧ t.rd R.CMT_STAT.KEY_VIOL = u.rd R.CMT_STAT.KEY_VIOL ∧ t.mem = u.mem) ∧
    (∀ (s : State) (dt : Nat) (u : State) (src : Src) (v : Nat),
      u = s.after dt → isWord v = true → u.reads src = true → bit v 31 = false →
      Yields (.commitRequest dt src v) s fun t =>
        t.rd R.COMMIT.GROUPS = bits v 15 0 ∧ t.rd R.COMMIT.WHEN = bits v 30 30 ∧ t.cmt = u.cmt ∧ t.mem = u.mem ∧ OnlyWords [R.COMMIT.WHEN.addr] u t) ∧
    (∀ (s : State) (dt : Nat) (u : State) (src : Src) (v : Nat),
      u = s.after dt → isWord v = true → u.reads src = true → bit v 31 = true → bit v 30 = true → sub32 (u.rd R.CMT_AT.AT) u.now < 1000 →
      Yields (.commitRequest dt src v) s fun t =>
        t.rd R.CMT_STAT.REFUSED = 1 ∧ t.cmt = u.cmt) ∧
    (∀ (s : State) (dt : Nat) (u : State) (src : Src) (g v : Nat),
      u = s.after dt → isWord v = true → u.reads src = true → g < 16 → v = 2147483648 + 2 ^ g → u.cmt.reqs = [] → (shadowHeads.all fun h => u.cgsel h != g) = true →
      Yields (.commitRequest dt src v) s fun t =>
        t.rd (pendBit g) = 0 ∧ t.rd R.CMT_LAST.LAST = u.now % 4294967296) ∧
    (∀ (s : State) (dt : Nat) (u : State) (src : Src) (g v : Nat),
      u = s.after dt → isWord v = true → u.reads src = true → g < 16 → v = 3221225472 + 2 ^ g → u.cmt.reqs = [] → u.mirrors = false → 1000 ≤ sub32 (u.rd R.CMT_AT.AT) u.now → sub32 (u.rd R.CMT_AT.AT) u.now < 2147483648 → (shadowHeads.any fun h => u.member true g h) = true → u.member true g sdHead = false →
      Yields (.commitRequest dt src v) s fun t =>
        t.rd (pendBit g) = 1 ∧ t.cmt.reqs = [⟨g, true, u.rd R.CMT_AT.AT, shadowHeads.filter fun h => u.member true g h, []⟩] ∧
        t.rd R.CMT_STAT.REFUSED = u.rd R.CMT_STAT.REFUSED ∧ t.mem = u.mem) ∧
    (∀ (s u : State) (g k x : Nat),
      s.reach (x) = some u → isFb k = true → s.alive = true → s.cmt.reqs = [⟨g, true, x, [0x600000 + 0x200 * k], []⟩] → g < 16 → u.tb.actP = false →
      Yields (.commitCopy (0x600000 + 0x200 * k)) s fun t =>
        t.cmt.reqs = [] ∧ t.rd (pendBit g) = 0 ∧ t.rd R.CMT_LAST.LAST = u.now % 4294967296 ∧ t.act (R.FB_CFG.FILT.i k) = u.rd (R.FB_CFG.FILT.i k)) ∧
    (∀ (s : State) (dt : Nat) (u : State),
      u = s.after dt → u.alive = true → u.tb.run = true → u.dom 9 = true →
      Yields (.tmrScrub dt) s fun t =>
        (∀ a ∈ u.tmrWords, t.raw a = t.raw (a + 2 * barSize) ∧ t.raw (a + 2 * barSize) = t.raw (a + 4 * barSize)) ∧ t.mem = u.mem)

/-- The reset sources (R97). The causes of DEV_RST_CAUSE add up while the reset lasts. That the contents of flash survive is the model's reading (log entry 3). -/
def Obligations.ResetsAddTheirCause : Prop :=
  (∀ (s : State) (dt : Nat) (u : State),
      u = s.after dt →
      Yields (.powerOnResetSupply dt) s fun t =>
        ResetBy 0 true u t) ∧
    (∀ (s : State) (dt : Nat) (u : State),
      u = s.after dt →
      Yields (.porstN dt) s fun t =>
        ResetBy 1 true u t) ∧
    (∀ (s : State) (dt : Nat) (u : State),
      u = s.after dt →
      Yields (.rstN dt) s fun t =>
        ResetBy 2 false u t) ∧
    (∀ (s : State) (dt : Nat) (u : State) (src : Src) (v : Nat),
      u = s.after dt → isWord v = true → u.reads src = true → u.armed src = true → bit v 31 = true →
      Yields (.warmRst dt src v) s fun t =>
        ResetBy 3 false u t) ∧
    (∀ (s : State) (dt : Nat) (u : State),
      u = s.after dt → u.alive = true →
      Yields (.coreSupervisor dt) s fun t =>
        ResetBy 4 false u t) ∧
    (∀ (s : State) (dt : Nat) (u : State) (x : Nat),
      u = s.after dt → x < 8 → u.dev.inReset = true →
      Yields (.resetRelease dt x) s fun t =>
        t.alive = true ∧ t.dev.por = false ∧ t.dev.cause = 0 ∧ t.tb.boot = 0 ∧ (u.dev.por = true → t.rd R.DEV_I2C.ADDR = 48 + x) ∧ t.mem = u.mem)

/-- The clock and the link after reset (R72, R98, R446, R458) and the load of an image (R101, R108, R110). The load is stated where neither slot passes the checks of its head. -/
def Obligations.ClocksStartAndStop : Prop :=
  (∀ (s : State) (dt : Nat) (u : State),
      u = s.after dt → u.alive = true → u.tb.run = false → u.dom 15 = true →
      Yields (.pllLock dt) s fun t =>
        t.tb.run = true ∧ t.tb.coast = none ∧ t.rd R.LIVE_STAT.RUNNING = b2n t.liveRuns ∧ t.mem = u.mem) ∧
    (∀ (s : State) (dt : Nat) (u : State),
      u = s.after dt → u.tb.run = true →
      Yields (.pllLockLoss dt) s fun t =>
        t.tb.run = false ∧ t.tb.coast = none ∧ t.rd R.LIVE_STAT.RUNNING = 0 ∧ t.mem = u.mem ∧ OnlyWords [R.LIVE_STAT.RUNNING.addr] u t) ∧
    (∀ (s : State) (dt : Nat) (u : State),
      u = s.after dt →
      Yields (.pcieReset dt) s fun t =>
        t.bus.link = false ∧ t.bus.msixEn = false ∧ t.bus.fmask = false ∧ t.regs = u.regs ∧ t.mem = u.mem ∧ t.out = u.out) ∧
    (∀ (s : State) (dt : Nat) (u : State),
      u = s.after dt → u.alive = true → u.dom 20 = true →
      Yields (.pcieLinkUp dt) s fun t =>
        t.bus.link = true ∧ t.mem = u.mem) ∧
    (∀ (s : State) (dt : Nat) (u : State) (k : Nat),
      u = s.after dt → k < 2 → u.alive = true → u.tb.run = true → u.mode = 0 → u.rd R.MOD_STAT.FOLIO_NONE = 0 →
      Yields (.flashTimeout dt k) s fun t =>
        t.rd (errF (k == 1)) = 10 ∧ bit t.dev.flashTo k = true ∧ t.rd (errF (k == 0)) = u.rd (errF (k == 0)) ∧ t.mem = u.mem) ∧
    (∀ (s : State) (dt : Nat) (u : State) (e : LoadEnv),
      u = s.after dt → u.alive = true → u.tb.run = true → u.mode = 0 → u.rd R.MOD_STAT.FOLIO_NONE = 0 → e.cs0.fitted = false → e.cs1.fitted = false →
      Yields (.folioLoadComplete dt e) s fun t =>
        t.rd R.MOD_STAT.FOLIO_NONE = 1 ∧ t.rd R.SCR_RST.ROM = 1 ∧ t.rd R.FOLIO_STAT.CS1 = 0 ∧ t.dev.envA = e.cs0 ∧ t.mode = 0) ∧
    (∀ (s : State) (dt : Nat) (u : State) (e : LoadEnv) (b : Bool),
      u = s.after dt → u.alive = true → u.tb.run = true → u.mode = 0 → u.rd R.MOD_STAT.FOLIO_NONE = 0 → u.headCheck b e = 0 → u.headCheck (!b) e ≠ 0 → ((u.headsDone e).bodyCheck b e).code = 0 →
      Yields (.folioLoadComplete dt e) s fun t =>
        t.mode = 1 ∧ t.rd R.MOD_STATE.SLOT = (if b then 2 else 1) ∧ t.rd R.MOD_STATE.ROLE = u.imgRole (imgOf b e.cs0 e.cs1) ∧ t.rd R.MOD_STAT.FOLIO_NONE = 0 ∧ t.rd R.SCR_RST.ROM = 0)

/-- Mode requests (R112, R113, R368, R493). A request consumes the arming of its source. RELOAD takes effect 1 µs later. SURRENDER is stated for a leader without a hand-back in progress and with no ring to lead. -/
def Obligations.ModeRequestsOfTheHostAndScribe : Prop :=
  (∀ (s : State) (dt : Nat) (u : State) (src : Src),
      u = s.after dt → u.mayRequest src = true → u.mode = 2 ∨ u.mode = 4 ∨ u.mode = 5 →
      Yields (.hold dt src) s fun t =>
        t.mode = 6 ∧ t.rd R.MOD_STATE.FROM = u.mode ∧ t.armed src = false ∧ t.rd R.MOD_STATE.PEND = 15 ∧ t.dev.pendKind = 0) ∧
    (∀ (s : State) (dt : Nat) (u : State) (src : Src),
      u = s.after dt → u.mayRequest src = true → u.mode = 6 → u.holdActive = false →
      Yields (.holdExit dt src) s fun t =>
        t.rd R.MOD_STATE.PEND = u.from_ ∧ t.dev.pendKind = 1 ∧ t.mode = 6 ∧ t.armed src = false) ∧
    (∀ (s : State) (dt : Nat) (u : State) (src : Src),
      u = s.after dt → u.mayRequest src = true → u.mode = 1 → ((List.range 8).any fun i => u.sinFunc i == 3) = true →
      Yields (.service dt src) s fun t =>
        t.rd R.MOD_STATE.PEND = 7 ∧ t.dev.pendKind = 1 ∧ t.mode = 1 ∧ t.armed src = false) ∧
    (∀ (s : State) (dt : Nat) (u : State) (src : Src),
      u = s.after dt → u.mayRequest src = true → u.mode = 7 →
      Yields (.serviceExit dt src) s fun t =>
        t.rd R.MOD_STATE.PEND = (if u.from_ = 1 then 1 else 6) ∧ t.dev.pendKind = 1 ∧ t.mode = 7 ∧ t.armed src = false) ∧
    (∀ (s : State) (dt : Nat) (u : State) (src : Src),
      u = s.after dt → u.mayRequest src = true → u.mode = 1 ∨ u.mode = 6 ∨ u.mode = 7 →
      Yields (.reload dt src) s fun t =>
        t.rd R.MOD_STATE.PEND = 0 ∧ t.dev.pendKind = 3 ∧ t.dev.pendAt = u.tb.rim + 1000 ∧ t.mode = u.mode ∧ t.armed src = false) ∧
    (∀ (s : State) (dt : Nat) (u : State) (src : Src),
      u = s.after dt → u.mayRequest src = true → u.mode = 2 → u.claim ≠ 0 → u.leadsAny = false → u.rd R.TWN_STAT.HB_PEND = 0 → u.twinOn = false →
      Yields (.surrender dt src) s fun t =>
        t.rd R.MOD_STATE.PEND = 1 ∧ t.dev.surrender = true ∧ t.dev.pendKind = 1 ∧ t.rd R.TWN_FLAGS.SURRENDERED = 1 ∧ t.armed src = false) ∧
    (∀ (s : State) (dt : Nat) (u : State) (src : Src) (k : Nat),
      u = s.after dt → k = 0 ∨ 6 < k → k < 16 → u.mayRequest src = true →
      Yields (.modReqUndefined dt src k) s fun t =>
        t.rd R.MOD_STAT.REQ_REFUSED = 1 ∧ t.rd R.MOD_STAT.REASON = 3 ∧ t.rd R.MOD_STATE.PEND = 15 ∧ t.mode = u.mode ∧ t.armed src = false) ∧
    (∀ (s : State) (dt : Nat) (u : State) (src : Src),
      u = s.after dt → u.reads src = true → u.armed src = false →
      Yields (.hold dt src) s fun t =>
        t.rd R.CMT_STAT.KEY_VIOL = 1 ∧ t.rd R.MOD_STATE.MODE = u.rd R.MOD_STATE.MODE ∧ t.dev = u.dev) ∧
    (∀ (s u : State),
      u = s.runRim s.dev.pendAt → s.alive = true → s.tb.run = true → s.dev.pendKind = 3 → s.rd R.MOD_STATE.PEND = 0 →
      Yields (.reloadTransition) s fun t =>
        t.dev.rgIn = false ∧ t.dev.pendKind = 0 ∧ t.tb.boot = 0 ∧ t.lanes = [] ∧ t.queues = [] ∧ t.chans = [] ∧
        (∀ a, t.mem8 0x100 a = u.mem8 0x100 a))

/-- The interrupt registers and MSI-X (R450 to R452). -/
def Obligations.InterruptsAndMessages : Prop :=
  (∀ (s : State) (dt : Nat) (u : State) (src : Src) (n v : Nat),
      u = s.after dt → n < 2 → isWord v = true → u.reads src = true → u.log = .none →
      Yields (.intStatClear dt src n v) s fun t =>
        t.raw (0x300 + 4 * n) = u.raw (0x300 + 4 * n) - (u.raw (0x300 + 4 * n) &&& v) ∧ t.raw (0x304 - 4 * n) = u.raw (0x304 - 4 * n) ∧
        t.out = u.out ∧ t.mem = u.mem) ∧
    (∀ (s : State) (dt : Nat) (u : State) (src : Src) (n v : Nat),
      u = s.after dt → n < 2 → isWord v = true → u.reads src = true → u.raw (0x300 + 4 * n) = 0 → u.mirrors = false →
      Yields (.intEnWrite dt src n v) s fun t =>
        t.raw (0x308 + 4 * n) = v ∧ t.out = u.out ∧ t.mem = u.mem) ∧
    (∀ (s : State) (dt : Nat) (u : State) (src : Src) (v : Nat),
      u = s.after dt → isWord (2 ^ v) = true → v < 32 → u.reads src = true → u.mirrors = false → u.rd (intStat v) = 1 → u.msixOpen v = true →
      Yields (.intEnWrite dt src 0 (2 ^ v)) s fun t =>
        t.raw 0x308 = 2 ^ v ∧ t.out = .msix v :: u.out) ∧
    (∀ (s : State) (dt : Nat) (u : State),
      u = s.after dt → u.srcUp .host = true →
      Yields (.msixUnmask dt 1 0) s fun t =>
        t.bus.fmask = false ∧ t.bus.msixEn = u.bus.msixEn) ∧
    (∀ (s : State) (dt : Nat) (u : State),
      u = s.after dt → u.srcUp .host = true →
      Yields (.msixUnmask dt 2 0) s fun t =>
        t.bus.msixEn = true ∧ t.bus.fmask = u.bus.fmask) ∧
    (∀ (s : State) (dt : Nat) (u : State) (v : Nat),
      u = s.after dt → isVec v = true → u.srcUp .host = true → u.mirrors = false →
      Yields (.msixUnmask dt 0 v) s fun t =>
        t.rd (R.MSIX_CTRL.MASK.j v) = 0 ∧ t.bus = u.bus)

/-- The I²C target (R453 to R455) and PMBus (R457). -/
def Obligations.ManagementBusCommands : Prop :=
  (∀ (s : State) (dt : Nat) (u : State) (c : Nat) (d : List Nat) (ok : Bool),
      u = s.after dt → c < 8 → d.all (· < 256) = true → u.alive = true → ok = false → d = [] →
      Yields (.i2cCommand dt c d ok) s fun t =>
        t.bus.cmd = c ∧ t.bus.idle = false ∧ t.bus.snap = u.i2cBytes c ∧ t.regs = u.regs ∧ t.mem = u.mem ∧ t.out = u.out) ∧
    (∀ (s : State) (dt : Nat) (u : State) (c : Nat) (d : List Nat) (ok : Bool),
      u = s.after dt → 7 < c → c < 256 → c ≠ 16 → d.all (· < 256) = true → u.alive = true →
      Yields (.i2cCommand dt c d ok) s fun t =>
        t.bus.idle = true ∧ t.bus.snap = [] ∧ t.out = .i2cNack :: u.out ∧ t.regs = u.regs) ∧
    (∀ (s : State) (dt : Nat) (u : State) (c : Nat) (d : List Nat),
      u = s.after dt → c < 8 → d.all (· < 256) = true → d ≠ [] → u.alive = true →
      Yields (.i2cCommand dt c d false) s fun t =>
        t.rd R.DEV_I2C.PEC_SEEN = 1) ∧
    (∀ (s : State) (dt : Nat) (u : State) (n : Nat),
      u = s.after dt → u.alive = true → u.bus.idle = false →
      Yields (.i2cRead dt n) s fun t =>
        t.bus.idle = true ∧ t.bus.snap = [] ∧ t.regs = u.regs ∧ t.mem = u.mem ∧
        t.out = .i2c ((List.range n).map fun i => (u.bus.snap ++ [crc8 ([2 * u.i2cAddr, u.bus.cmd, 2 * u.i2cAddr + 1] ++ u.bus.snap)]).getD i 0xFF) :: u.out) ∧
    (∀ (s : State) (dt : Nat) (u : State),
      u = s.after dt → u.alive = true → u.rd R.DEV_I2C.RST_EN = 1 →
      Yields (.i2cWarmReset dt 0x5E 0xA1) s fun t =>
        t.alive = false ∧ t.raw 0x104 = 8 ∧ t.dev.por = false ∧ t.blt.log = u.blt.log) ∧
    (∀ (s : State) (dt : Nat) (u : State) (a b : Nat),
      u = s.after dt → a < 256 → b < 256 → a ≠ 0x5E ∨ b ≠ 0xA1 → u.alive = true →
      Yields (.i2cWarmReset dt a b) s fun t =>
        t.alive = true ∧ t.out = .i2cNack :: u.out ∧ t.regs = u.regs ∧ t.mem = u.mem ∧ t.bus.idle = true) ∧
    (∀ (s : State) (dt : Nat) (u : State),
      u = s.after dt →
      Yields (.i2cSclTimeout dt) s fun t =>
        t.bus.idle = true ∧ t.bus.snap = [] ∧ t.regs = u.regs ∧ t.mem = u.mem ∧ t.out = u.out) ∧
    (∀ (s : State) (dt : Nat) (u : State) (r v i x y : Nat),
      u = s.after dt → r < 8 → v < 65536 → i < 65536 → x < 256 → y < 65536 → u.alive = true → u.tb.run = true → u.dct.restart = none → r < u.rd R.PWR_PMB.NRAIL →
      Yields (.pmbusTelemetry dt r true v i x y) s fun t =>
        t.rd (R.PWR_RAIL.VOUT.j r) = v ∧ t.rd (R.PWR_RAIL.IOUT.j r) = i ∧ t.rd (R.PWR_RAIL2.TEMP.j r) = x ∧ t.rd (R.PWR_RAIL2.STATUS_WORD.j r) = y ∧
        t.rd (R.PWR_RAIL2.ADDR.j r) = u.rd (R.PWR_RAIL2.ADDR.j r) ∧ t.mem = u.mem ∧ OnlyWords [(R.PWR_RAIL.VOUT.j r).addr, (R.PWR_RAIL2.TEMP.j r).addr] u t) ∧
    (∀ (s : State) (dt : Nat) (u : State) (r v i x y : Nat),
      u = s.after dt → r < 8 → v < 65536 → i < 65536 → x < 256 → y < 65536 → u.alive = true → u.tb.run = true → u.dct.restart = none → r < u.rd R.PWR_PMB.NRAIL →
      Yields (.pmbusTelemetry dt r false v i x y) s fun t =>
        bit (t.rd R.PWR_PMB.RAIL_ERR) r = true ∧ t.rd (R.PWR_RAIL.VOUT.j r) = u.rd (R.PWR_RAIL.VOUT.j r) ∧ t.rd (R.PWR_RAIL2.STATUS_WORD.j r) = u.rd (R.PWR_RAIL2.STATUS_WORD.j r)) ∧
    (∀ (s : State) (dt : Nat) (u : State) (r y : Nat),
      u = s.after dt → r < 8 → y < 65536 → u.alive = true → u.tb.run = true → u.dct.restart = none → r < u.rd R.PWR_PMB.NRAIL → u.rd R.PWR_PMB.ALERT = 0 →
      Yields (.pmbAlert dt r y) s fun t =>
        t.rd R.PWR_PMB.ALERT = 1 ∧ t.rd (R.PWR_RAIL2.STATUS_WORD.j r) = y ∧ t.rd (R.PWR_RAIL2.TEMP.j r) = u.rd (R.PWR_RAIL2.TEMP.j r))

/-- The mailbox of Scribe (R415 to R417). Every command below is the completion of the operation named in SCR_MB_STAT.OP. -/
def Obligations.MailboxRequestsAreAnswered : Prop :=
  (∀ (s : State) (dt : Nat) (u : State) (src : Src) (v : Nat),
      u = s.after dt → isWord v = true → bit v 31 = true → u.mayWrite src 15 = true → u.rd R.SCR_MB_STAT.STATUS ≠ 1 → u.dct.overdue = none → u.dct.restart = none → u.rd R.SCR_SHED.LEVEL = 0 →
      Yields (.door dt src v) s fun t =>
        t.rd R.SCR_MB_STAT.STATUS = 1 ∧ t.rd R.SCR_MB_STAT.CODE = 0 ∧ t.rd R.SCR_MB_STAT.OP = bits (u.rd (R.SCR_MB_REQ.WORD.j 0)) 31 24 ∧
        t.dct.req = (List.range 64).map fun w => u.rd (R.SCR_MB_REQ.WORD.j w)) ∧
    (∀ (s : State) (dt : Nat) (u : State) (src : Src) (v : Nat),
      u = s.after dt → isWord v = true → bit v 31 = true → u.mayWrite src 15 = true → u.rd R.SCR_MB_STAT.STATUS = 1 → bit v 30 = false →
      Yields (.door dt src v) s fun t =>
        t.rd R.SCR_MB_CTL.MB_COLLIDE = 1 ∧ t.dct = u.dct ∧ t.rd R.SCR_MB_STAT.OP = u.rd R.SCR_MB_STAT.OP) ∧
    (∀ (s : State) (dt : Nat) (u : State) (v : Nat),
      u = s.after dt → isWord v = true → u.mbRuns 1 = true →
      Yields (.info dt v) s fun t =>
        t.rd R.SCR_MB_STAT.STATUS = 2 ∧ t.rd R.SCR_MB_STAT.CODE = 3 ∧ t.rd (R.SCR_MB_RSP.WORD.j 1) = v ∧
        t.rd (R.SCR_MB_RSP.WORD.j 2) = u.rd R.SCR_RST.ROM ∧ t.rd (R.SCR_MB_RSP.WORD.j 3) = u.rd R.SCR_RST.RESTARTS) ∧
    (∀ (s : State) (dt : Nat) (u : State),
      u = s.after dt → u.mbRuns 2 = true → u.mbArg 3 ≤ 60 → u.flashHas (u.mbArg 1) (u.mbArg 2) (4 * u.mbArg 3) = true →
      Yields (.flashRead dt) s fun t =>
        t.rd R.SCR_MB_STAT.STATUS = 2 ∧ t.rd R.SCR_MB_STAT.CODE = u.mbArg 3 ∧ t.mem = u.mem ∧
        ∀ i ∈ List.range (u.mbArg 3), t.rd (R.SCR_MB_RSP.WORD.j (i + 1)) = u.mem32 (flashSp (u.mbArg 1)) (u.mbArg 2 + 4 * i)) ∧
    (∀ (s : State) (dt : Nat) (u : State),
      u = s.after dt → u.mbRuns 3 = true → u.slotGuard (u.mbArg 1) (u.mbArg 2 / 4096 * 4096) (4096 * u.mbArg 3) = false → u.flashHas (u.mbArg 1) (u.mbArg 2 / 4096 * 4096) (4096 * u.mbArg 3) = true →
      Yields (.flashErase dt) s fun t =>
        t.rd R.SCR_MB_STAT.STATUS = 2 ∧ t.rd R.SCR_MB_STAT.CODE = 0 ∧
        (∀ x, u.mbArg 2 / 4096 * 4096 ≤ x → x < u.mbArg 2 / 4096 * 4096 + 4096 * u.mbArg 3 → t.mem8 (flashSp (u.mbArg 1)) x = 255) ∧
        (∀ x, x < 16777216 → x < u.mbArg 2 / 4096 * 4096 ∨ u.mbArg 2 / 4096 * 4096 + 4096 * u.mbArg 3 ≤ x →
        t.mem8 (flashSp (u.mbArg 1)) x = u.mem8 (flashSp (u.mbArg 1)) x) ∧ (∀ x, x < 16777216 → t.mem8 3 x = u.mem8 3 x)) ∧
    (∀ (s : State) (dt : Nat) (u : State) (v : Nat),
      u = s.after dt → u.mbRuns 4 = true → u.mbArg 3 = 1 → u.mbArg 4 = v → isWord v = true → u.slotGuard (u.mbArg 1) (u.mbArg 2) 4 = false → u.flashHas (u.mbArg 1) (u.mbArg 2) 4 = true → u.mem32 (flashSp (u.mbArg 1)) (u.mbArg 2) = 4294967295 →
      Yields (.flashWrite dt) s fun t =>
        t.rd R.SCR_MB_STAT.STATUS = 2 ∧ t.rd R.SCR_MB_STAT.CODE = 0 ∧ t.mem32 (flashSp (u.mbArg 1)) (u.mbArg 2) = v ∧
        (∀ x, x < 16777216 → x < u.mbArg 2 ∨ u.mbArg 2 + 4 ≤ x → t.mem8 (flashSp (u.mbArg 1)) x = u.mem8 (flashSp (u.mbArg 1)) x)) ∧
    (∀ (s : State) (dt : Nat) (u : State) (e : LoadEnv),
      u = s.after dt → u.mbRuns 5 = true → u.mbArg 1 = 2 → u.headCheck true e ≠ 0 → u.headCheck true e < 16 →
      Yields (.slotCheck dt e) s fun t =>
        t.rd R.SCR_MB_STAT.STATUS = 2 ∧ t.rd R.SCR_MB_STAT.CODE = 1 ∧ t.rd (R.SCR_MB_RSP.WORD.j 1) = u.headCheck true e ∧ t.mem = u.mem) ∧
    (∀ (s : State) (dt : Nat) (u : State) (k : Nat),
      u = s.after dt → u.mbRuns 6 = true → u.mbArg 1 = k → isUnit k = true → u.spr.reqs = [] →
      Yields (.selftest dt true) s fun t =>
        t.rd R.SCR_MB_STAT.STATUS = 2 ∧ t.rd R.SCR_MB_STAT.CODE = 1 ∧ t.rd (R.SCR_MB_RSP.WORD.j 1) = 1 ∧ t.spr = u.spr) ∧
    (∀ (s : State) (dt : Nat) (u : State),
      u = s.after dt → u.mbRuns 7 = true → u.blt.queue = [] →
      Yields (.blotterSync dt) s fun t =>
        t.rd R.SCR_MB_STAT.STATUS = 2 ∧ t.rd R.SCR_MB_STAT.CODE = 0 ∧ t.blt.queue = [] ∧ t.blt.log = u.blt.log ∧ t.mem = u.mem) ∧
    (∀ (s : State) (dt : Nat) (u : State) (k : Nat),
      u = s.after dt → k = 0 ∨ 7 < k → u.mbRuns k = true →
      Yields (.mailboxUnknownOp dt) s fun t =>
        t.rd R.SCR_MB_STAT.STATUS = 5 ∧ t.rd R.SCR_MB_STAT.CODE = 1 ∧ t.mem = u.mem)

/-- The supervision of Scribe (R414, R418, R420, R421). -/
def Obligations.ScribeSupervision : Prop :=
  (∀ (s u : State) (n : Nat),
      u = s.runRim ((s.tb.rim / loadWindow + 1) * loadWindow) → n ≤ 4000000 → s.alive = true → s.tb.run = true → u.dct.defer = [] →
      Yields (.loadWindowEnd n) s fun t =>
        t.rd R.SCR_LOAD.LOAD = n / 4000 % 1024 ∧ t.rd R.SCR_LOAD.PEAK = max (n / 4000) (u.rd R.SCR_LOAD.PEAK) ∧
        (u.rd R.SCR_SHED.SHED_HI ≤ n / 4000 → t.rd R.SCR_SHED.LEVEL = min (u.rd R.SCR_SHED.LEVEL + 1) 3) ∧
        (n / 4000 < u.rd R.SCR_SHED.SHED_HI → n / 4000 < u.rd R.SCR_SHED.SHED_LO → t.rd R.SCR_SHED.LEVEL = u.rd R.SCR_SHED.LEVEL - 1) ∧
        (n / 4000 < u.rd R.SCR_SHED.SHED_HI → u.rd R.SCR_SHED.SHED_LO ≤ n / 4000 → t.rd R.SCR_SHED.LEVEL = u.rd R.SCR_SHED.LEVEL)) ∧
    (∀ (s u : State) (k r w : Nat),
      u = s.runRim (r + deferBound) → s.dct.defer = [(k, r, w)] → s.scribeRuns = true → u.dct.defer = [(k, r, w)] → deferBound ≤ u.tb.rim - r → k ≠ 0x8000 → u.spr.reqs = [] →
      Yields (.overdueTest) s fun t =>
        t.rd R.SCR_TEST.OVERDUE = 1 ∧ t.rd R.SCR_TEST.DEFERRED = 0 ∧ t.dct.overdue = some k ∧ t.dct.defer = [] ∧ (t.spr.reqs.map (·.unit)) = [k]) ∧
    (∀ (s : State) (dt : Nat) (u : State),
      u = s.after dt → u.mayWrite .scribe 15 = true → u.dct.restart = none →
      Yields (.kick dt .scribe) s fun t =>
        t.dct.kick = u.tb.rim ∧ t.regs = u.regs ∧ t.mem = u.mem) ∧
    (∀ (s u : State),
      u = s.runRim (s.dct.kick + wdogClocks) → s.scribeRuns = true → u.rd R.SCR_RST.RESTARTS < 65534 → u.dct.run = [] →
      Yields (.watchdogExpire) s fun t =>
        t.rd R.SCR_RST.ACTIVE = 1 ∧ t.dct.restart = some u.tb.rim ∧ t.rd R.SCR_RST.RESTARTS = u.rd R.SCR_RST.RESTARTS + 1 ∧ t.armed .scribe = false ∧
        (u.rd R.SCR_MB_STAT.STATUS = 1 → t.rd R.SCR_MB_STAT.STATUS = 6)) ∧
    (∀ (s : State) (dt : Nat) (u : State) (x : Nat) (ok : Bool),
      u = s.after dt → u.dct.restart = some x → u.alive = true → u.tb.run = true → u.dct.defer = [] →
      Yields (.restartComplete dt ok) s fun t =>
        t.dct.restart = none ∧ t.dct.kick = u.tb.rim ∧ t.rd R.SCR_RST.ACTIVE = 0 ∧ t.rd R.SCR_RST.ROM = b2n (!ok || u.rd R.MOD_STAT.FOLIO_NONE == 1))

/-- The indirect windows W0 to W3 and the aperture, window 4 (R65 to R67, R448, R449). A read with writes of its own window waiting performs those first and is not stated here. -/
def Obligations.WindowsAndApertureReachTheirSpace : Prop :=
  (∀ (s : State) (dt : Nat) (u : State) (src : Src) (w be : Nat),
      u = s.after dt → w < 4 → be < 16 → u.reads src = true → u.winQ w = [] → u.winAddr w < spaceSize (u.winSpace w) → u.domOn (spaceDom (u.winSpace w) (u.winAddr w)) = true →
      Yields (.indDataRead dt ⟨src, be⟩ w) s fun t =>
        t.out = .reply src (byteSel be (u.spaceGet (u.winSpace w) (u.winAddr w))) :: u.out ∧
        t.rd (R.IND_DATA.DATA.j w) = u.spaceGet (u.winSpace w) (u.winAddr w) % 2 ^ 32 ∧
        4 * t.rd (R.IND_ADDR.ADDR.j w) = (if u.winAddr w + 4 * u.rd (R.IND_SPACE.STEP.j w) < spaceSize (u.winSpace w) then u.winAddr w + 4 * u.rd (R.IND_SPACE.STEP.j w) else 0) ∧
        t.mem = u.mem ∧ OnlyWords [(R.IND_DATA.DATA.j w).addr, (R.IND_ADDR.ADDR.j w).addr, winStat w] u t) ∧
    (∀ (s : State) (dt : Nat) (u : State) (src : Src) (w v : Nat),
      u = s.after dt → w < 4 → isWord v = true → u.reads src = true → (u.winQ w).length < 8 →
      Yields (.indDataWrite dt src w v) s fun t =>
        t.winQ w = u.winQ w ++ [(u.winSpace w, u.winAddr w, v)] ∧ t.rd (R.IND_DATA.DATA.j w) = v ∧ t.mem = u.mem ∧ t.out = u.out ∧
        (∀ k, k ≠ w → t.winQ k = u.winQ k) ∧ t.rd (R.IND_STAT.QDEPTH.j w) = (u.winQ w).length + 1) ∧
    (∀ (s : State) (dt : Nat) (u : State) (src : Src) (w v : Nat),
      u = s.after dt → w < 4 → isWord v = true → u.reads src = true → (u.winQ w).length = 8 →
      Yields (.indDataWrite dt src w v) s fun t =>
        t.winQ w = u.winQ w ∧ t.rd (R.IND_STAT.DROP.j w) = 1 ∧ t.rd (R.IND_ADDR.ADDR.j w) = u.rd (R.IND_ADDR.ADDR.j w) ∧
        t.rd (R.IND_DATA.DATA.j w) = u.rd (R.IND_DATA.DATA.j w) ∧ t.mem = u.mem ∧ t.out = u.out) ∧
    (∀ (s : State) (dt : Nat) (u : State) (w a v : Nat) (q : Window),
      u = s.after dt → w < 5 → a < 0x40000 → a % 4 = 0 → isWord v = true → u.winRuns = true → u.winQ w = (7, a, v) :: q → u.domOn (11 + a / 0x10000) = true →
      Yields (.indWritePerform dt w) s fun t =>
        t.winQ w = q ∧ t.mem32 7 a = v ∧ (∀ b, b < a ∨ a + 3 < b → t.mem8 7 b = u.mem8 7 b) ∧ (∀ r b, r ≠ 7 → r < 8192 → b < p2 24 → t.mem8 r b = u.mem8 r b) ∧
        t.out = u.out ∧ OnlyWords [winStat w] u t) ∧
    (∀ (s : State) (dt : Nat) (u : State) (w a v : Nat) (q : Window),
      u = s.after dt → w < 5 → isWord v = true → u.winRuns = true → u.winQ w = (5, a, v) :: q → a < 0x800000 →
      Yields (.indWritePerform dt w) s fun t =>
        t.winQ w = q ∧ t.rd (winFlag w 9) = 1 ∧ t.mem = u.mem ∧ t.out = u.out ∧ t.blt.log = u.blt.log) ∧
    (∀ (s : State) (dt : Nat) (u : State) (w : Nat) (x : Nat × Nat × Nat) (q : Window),
      u = s.after dt → w < 5 → u.winRuns = true → u.winQ w = x :: q → spaceSize x.1 ≤ x.2.1 →
      Yields (.indWritePerform dt w) s fun t =>
        t.winQ w = q ∧ t.rd (winFlag w 8) = 1 ∧ t.mem = u.mem ∧ t.out = u.out) ∧
    (∀ (s : State) (dt : Nat) (u : State) (src : Src) (w : Nat),
      u = s.after dt → w < 4 → u.winRuns = true → u.reads src = true → u.winQ w = [] →
      Yields (.indTimeout dt w (some src)) s fun t =>
        t.rd (winFlag w 10) = 1 ∧ t.out = .reply src 0 :: u.out ∧ t.mem = u.mem ∧ t.rd (R.IND_DATA.DATA.j w) = 0) ∧
    (∀ (s : State) (dt : Nat) (u : State),
      u = s.after dt → u.winRuns = true → u.reads .host = true → u.winQ 4 = [] →
      Yields (.indTimeout dt 4 (some .host)) s fun t =>
        t.rd (winFlag 4 10) = 1 ∧ t.out = .reply .host 0 :: u.out ∧ t.mem = u.mem) ∧
    (∀ (s : State) (dt : Nat) (u : State) (w : Nat) (x : Nat × Nat × Nat) (q : Window),
      u = s.after dt → w < 5 → u.winRuns = true → u.winQ w = x :: q →
      Yields (.indTimeout dt w none) s fun t =>
        t.rd (winFlag w 10) = 1 ∧ t.winQ w = q ∧ t.mem = u.mem ∧ t.out = u.out) ∧
    (∀ (s : State) (dt : Nat) (u : State) (o be : Nat),
      u = s.after dt → o < 0x400000 → be < 16 → u.srcUp .host = true → u.winQ 4 = [] → u.apAddr o < spaceSize (u.rd R.IND_AP.AP_SPACE) → u.domOn (spaceDom (u.rd R.IND_AP.AP_SPACE) (u.apAddr o)) = true →
      Yields (.apertureRead dt ⟨o, be⟩) s fun t =>
        t.out = .reply .host (byteSel be (u.spaceGet (u.rd R.IND_AP.AP_SPACE) (u.rd R.IND_AP.PAGE * 0x400000 + o / 4 * 4))) :: u.out ∧ t.mem = u.mem ∧ t.regs = u.regs) ∧
    (∀ (s : State) (dt : Nat) (u : State) (o v : Nat),
      u = s.after dt → o < 0x400000 → isWord v = true → u.srcUp .host = true → (u.winQ 4).length < 8 →
      Yields (.apertureWrite dt o v 15) s fun t =>
        t.winQ 4 = u.winQ 4 ++ [(u.rd R.IND_AP.AP_SPACE, u.rd R.IND_AP.PAGE * 0x400000 + o / 4 * 4, v)] ∧ t.mem = u.mem ∧ t.out = u.out ∧
        t.rd R.IND_AP_STAT.QDEPTH = (u.winQ 4).length + 1 ∧ OnlyWords [winStat 4] u t) ∧
    (∀ (s : State) (dt : Nat) (u : State) (o v b : Nat),
      u = s.after dt → o < 0x400000 → isWord v = true → b < 15 → u.srcUp .host = true →
      Yields (.apertureWrite dt o v b) s fun t =>
        t.rd R.CMT_STAT.ACC_PARTIAL = 1 ∧ t.wins = u.wins ∧ t.mem = u.mem ∧ t.out = u.out ∧ OnlyWords [R.CMT_STAT.ACC_PARTIAL.addr] u t)

/-- Register writes (R39, R40). The stored word is stated for an ordinary register, SPR_CFG; the refusals for every address. -/
def Obligations.RegisterWritesAreWholeWordsInPoweredBlocks : Prop :=
  (∀ (s : State) (dt : Nat) (u : State) (src : Src) (v : Nat),
      u = s.after dt → isWord v = true → u.mayWrite src 23 = true → u.mirrors = false →
      Yields (.registerWrite dt src 0x7C0010 v 15) s fun t =>
        t.rd R.SPR_CFG.SCHED_PER = v % 65536 ∧ t.rd R.SPR_CFG.TRANS_WIN = v / 65536 % 4096 ∧ t.rd R.SPR_CFG.TRANS_N = v / 2 ^ 28 ∧
        t.mem = u.mem ∧ t.out = u.out ∧ OnlyWords [0x7C0010] u t) ∧
    (∀ (s : State) (dt : Nat) (u : State) (src : Src) (a v b : Nat),
      u = s.after dt → a < barSize → a % 4 = 0 → isWord v = true → b < 15 → u.reads src = true → (locate a).map u.reachable = some true →
      Yields (.registerWrite dt src a v b) s fun t =>
        t.rd R.CMT_STAT.ACC_PARTIAL = 1 ∧ t.mem = u.mem ∧ t.out = u.out ∧ t.pending = u.pending ∧
        OnlyWords [R.CMT_STAT.ACC_PARTIAL.addr, 0x10024] u t) ∧
    (∀ (s : State) (dt : Nat) (u : State) (src : Src) (a v b : Nat),
      u = s.after dt → a < barSize → a % 4 = 0 → isWord v = true → b < 16 → u.reads src = true → (locate a).map u.reachable = some false →
      Yields (.registerWrite dt src a v b) s fun t =>
        t.rd R.CMT_STAT.ACC_PDOFF = 1 ∧ (b < 15 → t.rd R.CMT_STAT.ACC_PARTIAL = 1) ∧ t.mem = u.mem ∧ t.out = u.out ∧ t.pending = u.pending ∧
        OnlyWords [R.CMT_STAT.ACC_PDOFF.addr, 0x10024] u t) ∧
    (∀ (s : State) (dt : Nat) (u : State) (src : Src) (a v : Nat),
      u = s.after dt → a < barSize → a % 4 = 0 → isWord v = true → u.reads src = true → locate a = none →
      Yields (.registerWrite dt src a v 15) s fun t =>
        t = u) ∧
    (∀ (s : State) (dt : Nat) (u : State) (src : Src) (a v b : Nat),
      u = s.after dt → a < barSize → a % 4 = 0 → isWord v = true → b < 15 → u.reads src = true → locate a = none →
      Yields (.registerWrite dt src a v b) s fun t =>
        t.rd R.CMT_STAT.ACC_PARTIAL = 1 ∧ t.mem = u.mem ∧ t.out = u.out ∧ OnlyWords [R.CMT_STAT.ACC_PARTIAL.addr] u t)

/-- What the time lattice drives (R25 to R27, R246, R311, R362). The boundary is stated for a device in BOOT, whose image is not in force yet; the phase for a torque lane of the group. -/
def Obligations.PeriodsCyclesAndPhases : Prop :=
  (∀ (s u : State) (v : Nat),
      u = s.runTo s.nextB → v < 65536 → s.alive = true → s.tb.run = true → s.mode = 0 → u.mode = 0 → u.dev.rgIn = false → u.dev.pendKind = 0 → u.twin.cfgs = [] → u.tb.actP = false →
      Yields (.baseBoundary v) s fun t =>
        t.tb.latB = u.nextB ∧ t.rd R.TB_PERIOD.INDEX = add32 u.baseK 1 ∧ t.mode = 0) ∧
    (∀ (s u : State) (ch n : Nat),
      s.reach (n) = some u → isCh ch = true → s.cycRuns ch = true → (s.cycNext ch).1 = n → u.role ch = 2 → u.mode = 4 → u.chState ch = 3 → u.dev.pendKind = 0 → u.twin.cfgs = [] → (u.chan ch).par = [] → (u.chan ch).act = none → (u.chan ch).readyAt = none → (u.chan ch).heard = true → (u.chan ch).got = true →
      Yields (.cycleStart ch) s fun t =>
        t.cycNum ch = add32 (u.cycNum ch) (s.cycNext ch).2 ∧ (t.chan ch).at_ = some n ∧ (t.chan ch).noAcc = 0 ∧ (t.chan ch).got = false) ∧
    (∀ (s u : State) (g n : Nat) (r : LaneRun),
      s.reach (s.nextPhase g) = some u → 0 < g → g < 4 → s.alive = true → s.dev.rgIn = true → s.rgDef g = true → u.dev.cfg.axisGroup = [(n, g)] → n < 160 → u.laneOn n = true → u.twin.cfgs = [] → u.inkState = 0 → (u.lane n).run = some r → r.done.isSome = true → r.err = false → u.torqueOff n = false → (u.lane n).tqDue = false →
      Yields (.outputPhase g) s fun t =>
        (t.lane n).run = none ∧ (t.lane n).rel = some r ∧ (t.lane n).mem.out = r.next.out ∧ (t.lane n).cmd = r.next.out ∧ t.log.phases.contains g = true) ∧
    (∀ (s : State) (dt : Nat) (u : State) (m : CfgMsg),
      u = s.after dt → u.twinOn = true → m.crcOk = true → u.twin.seen.contains m.seq = false → u.mode = 3 → u.twin.cfgs = [] → u.ahead m.tick = true →
      Yields (.cfg dt m) s fun t =>
        t.twin.cfgs = [m] ∧ t.regs = u.regs ∧ t.mem = u.mem ∧ t.out = u.out ∧ t.twin.seen = m.seq :: u.twin.seen.take 63) ∧
    (∀ (s : State) (dt : Nat) (u : State) (m : CfgMsg),
      u = s.after dt → u.twinOn = true → m.crcOk = true → u.twin.seen.contains m.seq = true →
      Yields (.cfg dt m) s fun t =>
        t = u)

/-- The supplies of the banks (R466, R468). -/
def Obligations.BanksFollowTheirSupply : Prop :=
  (∀ (s : State) (dt : Nat) (u : State) (n : Nat) (v33 : Bool),
      u = s.after dt → n < 6 → u.taken n = false → u.dev.bankAt.any (fun x => x.1 == n) = false →
      Yields (.bankPowerGoodRise dt n v33) s fun t =>
        t.dev.bankAt = (n, u.tb.boot) :: u.dev.bankAt ∧ bit (t.rd R.DEV_BANK.V33) n = v33 ∧
        (∀ k, k < 6 → k ≠ n → bit (t.rd R.DEV_BANK.V33) k = bit (u.rd R.DEV_BANK.V33) k) ∧ t.rd R.DEV_BANK.PG = u.rd R.DEV_BANK.PG ∧
        t.mem = u.mem ∧ t.out = u.out) ∧
    (∀ (s : State) (dt : Nat) (u : State) (n x : Nat),
      u = s.after dt → n < 6 → u.dev.bankAt.find? (fun y => y.1 == n) = some (n, x) → 10000 ≤ u.tb.boot - x →
      Yields (.bankInputsRestored dt n) s fun t =>
        t.taken n = true ∧ (∀ k, k ≠ n → t.taken k = u.taken k) ∧ t.mem = u.mem ∧ bit t.dev.bankLost n = false) ∧
    (∀ (s : State) (dt : Nat) (u : State) (n x : Nat),
      u = s.after dt → n < 6 → u.dev.bankAt.find? (fun y => y.1 == n) = some (n, x) → u.tb.boot - x < 10000 →
      Yields (.bankInputsRestored dt n) s fun t =>
        t = u) ∧
    (∀ (s : State) (dt : Nat) (u : State) (n : Nat),
      u = s.after dt → n < 6 → u.taken n = true → bit u.dev.bankLost n = false → u.rd R.DEV_BANK_CNT.LOSSES < 32767 →
      Yields (.bankPowerGoodFall dt n) s fun t =>
        t.taken n = false ∧ (∀ k, k ≠ n → t.taken k = u.taken k) ∧ bit (t.rd R.DEV_BANK.LOST) n = true ∧
        t.rd R.DEV_BANK_CNT.LOSSES = u.rd R.DEV_BANK_CNT.LOSSES + 1 ∧ t.mem = u.mem ∧ bit t.dev.bankLost n = true) ∧
    (∀ (s : State) (dt : Nat) (u : State) (n : Nat),
      u = s.after dt → n < 6 → u.taken n = true → bit u.dev.bankLost n = true →
      Yields (.bankPowerGoodFall dt n) s fun t =>
        t.taken n = false ∧ bit (t.rd R.DEV_BANK.LOST) n = true ∧ t.rd R.DEV_BANK_CNT.LOSSES = u.rd R.DEV_BANK_CNT.LOSSES)

/-- The IEEE 1149.1 port (R472). The model numbers the instructions in force 0 to 7 in the order in which R472 lists them. -/
def Obligations.BoundaryScanTakesItsInstructions : Prop :=
  (∀ (s : State) (dt : Nat) (u : State),
      u = s.after dt →
      Yields (.bypass dt) s fun t =>
        t.dev.jtag = 0 ∧ t.dev.bsr = u.dev.bsr ∧ t.regs = u.regs ∧ t.mem = u.mem) ∧
    (∀ (s : State) (dt : Nat) (u : State),
      u = s.after dt →
      Yields (.extest dt) s fun t =>
        t.dev.jtag = 3 ∧ t.dev.bsr = u.dev.bsr ∧ t.regs = u.regs ∧ t.mem = u.mem) ∧
    (∀ (s : State) (dt : Nat) (u : State),
      u = s.after dt →
      Yields (.jtagClamp dt) s fun t =>
        t.dev.jtag = 4 ∧ t.dev.bsr = u.dev.bsr ∧ t.regs = u.regs ∧ t.mem = u.mem) ∧
    (∀ (s : State) (dt : Nat) (u : State),
      u = s.after dt →
      Yields (.highz dt) s fun t =>
        t.dev.jtag = 5 ∧ t.dev.bsr = u.dev.bsr ∧ t.regs = u.regs ∧ t.mem = u.mem) ∧
    (∀ (s : State) (dt : Nat) (u : State),
      u = s.after dt →
      Yields (.extestPulse dt) s fun t =>
        t.dev.jtag = 6 ∧ t.dev.bsr = u.dev.bsr ∧ t.regs = u.regs ∧ t.mem = u.mem) ∧
    (∀ (s : State) (dt : Nat) (u : State),
      u = s.after dt →
      Yields (.extestTrain dt) s fun t =>
        t.dev.jtag = 7 ∧ t.dev.bsr = u.dev.bsr ∧ t.regs = u.regs ∧ t.mem = u.mem) ∧
    (∀ (s : State) (dt : Nat) (u : State),
      u = s.after dt →
      Yields (.idcode dt) s fun t =>
        t.dev.jtag = 1 ∧ t.out.head? = some (.serial outTdo 0 ((List.range 32).map fun i => (0xB71603C5 : Nat).testBit i)) ∧ t.regs = u.regs ∧ t.mem = u.mem) ∧
    (∀ (s : State) (dt : Nat) (u : State) (d : List Bool),
      u = s.after dt →
      Yields (.samplePreload dt d) s fun t =>
        t.dev.jtag = 2 ∧ t.dev.bsr = d ∧ t.regs = u.regs ∧ t.mem = u.mem)

/-- The frame of each command: the register words that may read otherwise (the interrupt status and its pending bits apart), and the parts of the state that may differ; u is the state when the command takes effect, or s where the command is an event of its own tick and time passes first. -/
def Obligations.FramesOfTimeCommands : Prop :=
  (∀ (s : State),
      Yields (.tbWrap) s fun t =>
        OnlyWords ([R.TB_STAT.WRAP.addr] ++ tickWords) s t ∧ t = { s with regs := t.regs, log := t.log, out := t.out, blt := t.blt, dct := t.dct, serifs := t.serifs, tb := t.tb }) ∧
    (∀ (s : State) (dt : Nat) (u : State) (r : Reader),
      u = s.after dt → (Instr.tbNsRead dt r).WellFormed →
      Yields (.tbNsRead dt r) s fun t =>
        OnlyWords [] u t ∧ t = { u with regs := t.regs, log := t.log, out := t.out, tb := t.tb }) ∧
    (∀ (s : State) (dt : Nat) (u : State) (r : Reader),
      u = s.after dt → (Instr.tbPeriodRead dt r).WellFormed →
      Yields (.tbPeriodRead dt r) s fun t =>
        OnlyWords [] u t ∧ t = { u with regs := t.regs, log := t.log, out := t.out, tb := t.tb }) ∧
    (∀ (s : State) (dt : Nat) (u : State) (src : Src) (value : Nat),
      u = s.after dt → (Instr.tbAdj dt src value).WellFormed →
      Yields (.tbAdj dt src value) s fun t =>
        OnlyWords [R.TB_ADJ_REM.REM.addr, R.TB_STAT.WRAP.addr] u t ∧ t = { u with regs := t.regs, log := t.log, out := t.out, blt := t.blt, tb := t.tb }) ∧
    (∀ (s : State) (dt : Nat) (u : State),
      u = s.after dt →
      Yields (.refLoss dt) s fun t =>
        OnlyWords [R.SCR_BLQ.OVF.addr, R.TB_STAT.WRAP.addr] u t ∧ t = { u with regs := t.regs, log := t.log, out := t.out, blt := t.blt, tb := t.tb }) ∧
    (∀ (s : State) (dt : Nat) (u : State) (rising : Bool),
      u = s.after dt → (Instr.ppsEdge dt rising).WellFormed →
      Yields (.ppsEdge dt rising) s fun t =>
        OnlyWords [R.PPS_LAST.NS.addr, R.PPS_STAT.OVF.addr, R.TB_CTRL.REF_SEL.addr, R.TB_RATE.RATE.addr, R.TB_STAT.WRAP.addr] u t ∧ t = { u with regs := t.regs, log := t.log, out := t.out, blt := t.blt, tb := t.tb }) ∧
    (∀ (s : State),
      Yields (.ppsTimeout) s fun t =>
        OnlyWords ([R.TB_CTRL.REF_SEL.addr, R.TB_STAT.WRAP.addr] ++ tickWords) s t ∧ t = { s with regs := t.regs, log := t.log, out := t.out, blt := t.blt, dct := t.dct, serifs := t.serifs, tb := t.tb }) ∧
    (∀ (s : State),
      Yields (.ppsOutPulse) s fun t =>
        OnlyWords ([R.PPS_OUT_AT.AT.addr] ++ tickWords) s t ∧ t = { s with regs := t.regs, log := t.log, out := t.out, blt := t.blt, dct := t.dct, serifs := t.serifs, tb := t.tb }) ∧
    (∀ (s : State) (dt : Nat) (u : State) (r : Reader) (i : Nat),
      u = s.after dt → (Instr.capStampRead dt r i).WellFormed →
      Yields (.capStampRead dt r i) s fun t =>
        OnlyWords [(R.CAP_STAMP.NS.j i).addr, (R.CAP_STAT.LOST.j i).addr] u t ∧ t = { u with regs := t.regs, log := t.log, out := t.out, tb := t.tb }) ∧
    (∀ (s : State) (dt : Nat) (u : State) (src : Src) (j value : Nat),
      u = s.after dt → (Instr.evtAtWrite dt src j value).WellFormed →
      Yields (.evtAtWrite dt src j value) s fun t =>
        OnlyWords [(R.EVT_AT.AT.j j).addr, (R.EVT_STAT.LATE.j j).addr] u t ∧ t = { u with regs := t.regs, log := t.log, out := t.out, blt := t.blt, tb := t.tb }) ∧
    (∀ (s : State) (j : Nat),
      (Instr.evtQueueInstant j).WellFormed →
      Yields (.evtQueueInstant j) s fun t =>
        OnlyWords ([(R.EVT_AT.AT.j j).addr, (R.EVT_STAT.LATE.j j).addr] ++ tickWords) s t ∧ t = { s with regs := t.regs, log := t.log, out := t.out, blt := t.blt, dct := t.dct, serifs := t.serifs, tb := t.tb }) ∧
    (∀ (s : State) (j : Nat),
      (Instr.evtTrainPulse j).WellFormed →
      Yields (.evtTrainPulse j) s fun t =>
        OnlyWords ([(R.EVT_AT.AT.j j).addr, (R.EVT_STAT.LATE.j j).addr, (R.EVT_WID.COUNT.j j).addr] ++ tickWords) s t ∧ t = { s with regs := t.regs, log := t.log, out := t.out, blt := t.blt, dct := t.dct, serifs := t.serifs, tb := t.tb }) ∧
    (∀ (s : State) (j : Nat),
      (Instr.evtConversionPulse j).WellFormed →
      Yields (.evtConversionPulse j) s fun t =>
        OnlyWords tickWords s t ∧ t = { s with regs := t.regs, log := t.log, out := t.out, blt := t.blt, dct := t.dct, serifs := t.serifs, tb := t.tb }) ∧
    (∀ (s : State) (dt : Nat) (u : State) (i : Nat) (rising : Bool),
      u = s.after dt → (Instr.captureEdge dt i rising).WellFormed →
      Yields (.captureEdge dt i rising) s fun t =>
        OnlyWords ([(R.CAP_STAMP.NS.j i).addr, (R.CAP_STAT.LOST.j i).addr] ++ regAll R.FB_FLAGS.LATE_OVF 16 ++ regAll R.FB_LATCH_POS.VALUE 16 ++ regAll R.FB_LATCH_STAMP.VALUE 16 ++ regAll R.FB_STAT.FAULT 16 ++ regAll R.SF_FLAGS.FLT_OVF 4) u t ∧ t = { u with regs := t.regs, log := t.log, out := t.out, blt := t.blt, fbs := t.fbs, serifs := t.serifs, tb := t.tb }) ∧
    (∀ (s : State) (i : Nat),
      (Instr.capWindowClose i).WellFormed →
      Yields (.capWindowClose i) s fun t =>
        OnlyWords ([(R.CAP_CFG.EN.j i).addr, (R.CAP_CLOSE.NS.j i).addr, (R.CAP_OPEN.NS.j i).addr] ++ tickWords) s t ∧ t = { s with regs := t.regs, log := t.log, out := t.out, blt := t.blt, dct := t.dct, serifs := t.serifs, tb := t.tb }) ∧
    (∀ (s : State) (dt : Nat) (u : State) (u0 residualPs : Nat),
      u = s.after dt → (Instr.tsuCalibration dt u0 residualPs).WellFormed →
      Yields (.tsuCalibration dt u0 residualPs) s fun t =>
        OnlyWords [R.SCR_BLQ.OVF.addr, R.SPR_STAT.ACTIVE.addr, R.TB_STAT.WRAP.addr, R.TSU_FAIL.FAIL.addr] u t ∧ t = { u with regs := t.regs, log := t.log, out := t.out, blt := t.blt, spr := t.spr, tb := t.tb })

/-- The frame of each command: the register words that may read otherwise (the interrupt status and its pending bits apart), and the parts of the state that may differ; u is the state when the command takes effect, or s where the command is an event of its own tick and time passes first. -/
def Obligations.FramesOfBusAndSupplyCommands : Prop :=
  (∀ (s : State) (dt : Nat) (u : State) (src : Src) (n value : Nat),
      u = s.after dt → (Instr.intStatClear dt src n value).WellFormed →
      Yields (.intStatClear dt src n value) s fun t =>
        OnlyWords [] u t ∧ t = { u with regs := t.regs, log := t.log, out := t.out }) ∧
    (∀ (s : State) (dt : Nat) (u : State) (src : Src) (n value : Nat),
      u = s.after dt → (Instr.intEnWrite dt src n value).WellFormed →
      Yields (.intEnWrite dt src n value) s fun t =>
        OnlyWords [0x308 + 4 * n] u t ∧ t = { u with regs := t.regs, log := t.log, out := t.out, twin := t.twin }) ∧
    (∀ (s : State) (dt : Nat) (u : State) (how v : Nat),
      u = s.after dt → (Instr.msixUnmask dt how v).WellFormed →
      Yields (.msixUnmask dt how v) s fun t =>
        OnlyWords [(R.MSIX_CTRL.MASK.j v).addr] u t ∧ t = { u with regs := t.regs, log := t.log, out := t.out, bus := t.bus, twin := t.twin }) ∧
    (∀ (s : State) (dt : Nat) (u : State) (byte : Nat) (data : List Nat) (pecOk : Bool),
      u = s.after dt → (Instr.i2cCommand dt byte data pecOk).WellFormed →
      Yields (.i2cCommand dt byte data pecOk) s fun t =>
        OnlyWords [R.DEV_I2C.RST_EN.addr] u t ∧ t = { u with regs := t.regs, log := t.log, out := t.out, blt := t.blt, bus := t.bus }) ∧
    (∀ (s : State) (dt : Nat) (u : State) (n : Nat),
      u = s.after dt → (Instr.i2cRead dt n).WellFormed →
      Yields (.i2cRead dt n) s fun t =>
        OnlyWords [] u t ∧ t = { u with regs := t.regs, log := t.log, out := t.out, bus := t.bus }) ∧
    (∀ (s : State) (dt : Nat) (u : State),
      u = s.after dt →
      Yields (.i2cSclTimeout dt) s fun t =>
        OnlyWords [] u t ∧ t = { u with regs := t.regs, log := t.log, out := t.out, bus := t.bus }) ∧
    (∀ (s : State) (dt : Nat) (u : State) (r : Nat) (ok : Bool) (vout iout temp status : Nat),
      u = s.after dt → (Instr.pmbusTelemetry dt r ok vout iout temp status).WellFormed →
      Yields (.pmbusTelemetry dt r ok vout iout temp status) s fun t =>
        OnlyWords [R.PWR_PMB.RATE.addr, (R.PWR_RAIL.VOUT.j r).addr, (R.PWR_RAIL2.TEMP.j r).addr] u t ∧ t = { u with regs := t.regs, log := t.log, out := t.out, blt := t.blt }) ∧
    (∀ (s : State) (dt : Nat) (u : State) (r status : Nat),
      u = s.after dt → (Instr.pmbAlert dt r status).WellFormed →
      Yields (.pmbAlert dt r status) s fun t =>
        OnlyWords [R.PWR_PMB.RATE.addr, (R.PWR_RAIL2.TEMP.j r).addr] u t ∧ t = { u with regs := t.regs, log := t.log, out := t.out, blt := t.blt }) ∧
    (∀ (s : State) (dt : Nat) (u : State),
      u = s.after dt →
      Yields (.pcieReset dt) s fun t =>
        OnlyWords [] u t ∧ t = { u with regs := t.regs, log := t.log, out := t.out, bus := t.bus }) ∧
    (∀ (s : State) (dt : Nat) (u : State),
      u = s.after dt →
      Yields (.pcieLinkUp dt) s fun t =>
        OnlyWords [] u t ∧ t = { u with regs := t.regs, log := t.log, out := t.out, bus := t.bus }) ∧
    (∀ (s : State),
      Yields (.liveToggle) s fun t =>
        OnlyWords ([R.LIVE_STAT.RUNNING.addr] ++ tickWords) s t ∧ t = { s with regs := t.regs, log := t.log, out := t.out, blt := t.blt, dct := t.dct, serifs := t.serifs, tb := t.tb }) ∧
    (∀ (s : State),
      Yields (.vidStep) s fun t =>
        OnlyWords ([R.PWR_VID.VOLT_MV.addr] ++ tickWords) s t ∧ t = { s with regs := t.regs, log := t.log, out := t.out, blt := t.blt, dct := t.dct, pwr := t.pwr, serifs := t.serifs, tb := t.tb }) ∧
    (∀ (s : State),
      Yields (.servoWindowEnd) s fun t =>
        OnlyWords ([R.PWR_SLACK.MIN_SLACK.addr, R.PWR_VID.VOLT_MV.addr] ++ tickWords) s t ∧ t = { s with regs := t.regs, log := t.log, out := t.out, blt := t.blt, dct := t.dct, pwr := t.pwr, serifs := t.serifs, tb := t.tb }) ∧
    (∀ (s : State),
      Yields (.svHoldEnd) s fun t =>
        OnlyWords ([R.PWR_SUPV.HOLD_TOP.addr] ++ tickWords) s t ∧ t = { s with regs := t.regs, log := t.log, out := t.out, blt := t.blt, dct := t.dct, pwr := t.pwr, serifs := t.serifs, tb := t.tb }) ∧
    (∀ (s : State) (dt : Nat) (u : State) (temps : List Int),
      u = s.after dt → (Instr.tempSense dt temps).WellFormed →
      Yields (.tempSense dt temps) s fun t =>
        OnlyWords [R.PWR_SUPV.HOLD_TOP.addr, R.PWR_TEMP.HOT.addr] u t ∧ t = { u with regs := t.regs, log := t.log, out := t.out, blt := t.blt }) ∧
    (∀ (s : State) (dt : Nat) (u : State) (n : Nat) (v33 : Bool),
      u = s.after dt → (Instr.bankPowerGoodRise dt n v33).WellFormed →
      Yields (.bankPowerGoodRise dt n v33) s fun t =>
        OnlyWords [R.DEV_BANK.LOST.addr] u t ∧ t = { u with regs := t.regs, log := t.log, out := t.out, dev := t.dev }) ∧
    (∀ (s : State) (dt : Nat) (u : State) (n : Nat),
      u = s.after dt → (Instr.bankPowerGoodFall dt n).WellFormed →
      Yields (.bankPowerGoodFall dt n) s fun t =>
        OnlyWords [R.DEV_BANK.LOST.addr, R.DEV_BANK_CNT.OVF.addr] u t ∧ t = { u with regs := t.regs, log := t.log, out := t.out, blt := t.blt, dev := t.dev }) ∧
    (∀ (s : State) (dt : Nat) (u : State) (n : Nat),
      u = s.after dt → (Instr.bankInputsRestored dt n).WellFormed →
      Yields (.bankInputsRestored dt n) s fun t =>
        OnlyWords [R.DEV_BANK.LOST.addr] u t ∧ t = { u with regs := t.regs, log := t.log, out := t.out, dev := t.dev }) ∧
    (∀ (s : State) (dt : Nat) (u : State),
      u = s.after dt →
      Yields (.bypass dt) s fun t =>
        OnlyWords [] u t ∧ t = { u with regs := t.regs, log := t.log, out := t.out, dev := t.dev }) ∧
    (∀ (s : State) (dt : Nat) (u : State),
      u = s.after dt →
      Yields (.idcode dt) s fun t =>
        OnlyWords [] u t ∧ t = { u with regs := t.regs, log := t.log, out := t.out, dev := t.dev }) ∧
    (∀ (s : State) (dt : Nat) (u : State) (data : List Bool),
      u = s.after dt → (Instr.samplePreload dt data).WellFormed →
      Yields (.samplePreload dt data) s fun t =>
        OnlyWords [] u t ∧ t = { u with regs := t.regs, log := t.log, out := t.out, dev := t.dev }) ∧
    (∀ (s : State) (dt : Nat) (u : State),
      u = s.after dt →
      Yields (.extest dt) s fun t =>
        OnlyWords [] u t ∧ t = { u with regs := t.regs, log := t.log, out := t.out, dev := t.dev }) ∧
    (∀ (s : State) (dt : Nat) (u : State),
      u = s.after dt →
      Yields (.jtagClamp dt) s fun t =>
        OnlyWords [] u t ∧ t = { u with regs := t.regs, log := t.log, out := t.out, dev := t.dev }) ∧
    (∀ (s : State) (dt : Nat) (u : State),
      u = s.after dt →
      Yields (.highz dt) s fun t =>
        OnlyWords [] u t ∧ t = { u with regs := t.regs, log := t.log, out := t.out, dev := t.dev }) ∧
    (∀ (s : State) (dt : Nat) (u : State),
      u = s.after dt →
      Yields (.extestPulse dt) s fun t =>
        OnlyWords [] u t ∧ t = { u with regs := t.regs, log := t.log, out := t.out, dev := t.dev }) ∧
    (∀ (s : State) (dt : Nat) (u : State),
      u = s.after dt →
      Yields (.extestTrain dt) s fun t =>
        OnlyWords [] u t ∧ t = { u with regs := t.regs, log := t.log, out := t.out, dev := t.dev }) ∧
    (∀ (s : State) (dt : Nat) (u : State),
      u = s.after dt →
      Yields (.pllLockLoss dt) s fun t =>
        OnlyWords [R.LIVE_STAT.RUNNING.addr] u t ∧ t = { u with regs := t.regs, log := t.log, out := t.out, tb := t.tb }) ∧
    (∀ (s : State) (dt : Nat) (u : State) (straps : Nat),
      u = s.after dt → (Instr.resetRelease dt straps).WellFormed →
      Yields (.resetRelease dt straps) s fun t =>
        OnlyWords [R.DEV_I2C.RST_EN.addr] u t ∧ t = { u with regs := t.regs, log := t.log, out := t.out, dev := t.dev, tb := t.tb }) ∧
    (∀ (s : State) (dt : Nat) (u : State),
      u = s.after dt →
      Yields (.pllLock dt) s fun t =>
        OnlyWords ([R.BLT_CNT.TORN_OVF.addr, R.BLT_HEAD.SEQ.addr, R.BLT_STAT.READY.addr, R.LIVE_STAT.RUNNING.addr, R.PWR_DOM.ON.addr, R.PWR_VID.VOLT_MV.addr, R.SPR_AGE.VALUE.addr, R.SPR_HOURS.VALUE.addr] ++ regAll R.AX_MAP.PHYS 160 ++ regAll R.SPR_GROUP.TOTAL 11) u t ∧ t = { u with regs := t.regs, log := t.log, out := t.out, blt := t.blt, dct := t.dct, pwr := t.pwr, spr := t.spr, tb := t.tb }) ∧
    (∀ (s : State) (dt : Nat) (u : State) (src : Src),
      u = s.after dt → (Instr.hold dt src).WellFormed →
      Yields (.hold dt src) s fun t =>
        OnlyWords ([R.CMT_STAT.ARMED_S.addr, R.MOD_STAT.OVF.addr, R.MOD_STATE.SLOT.addr, R.SCR_BLQ.OVF.addr, R.TB_CTRL.REF_SEL.addr, R.TB_STAT.WRAP.addr, R.TWN_CNT_B.TKO_CNT.addr, R.TWN_FLAGS.FL_OVF.addr, R.TWN_HB.HB_AT.addr, R.TWN_STAT.LINK_UP.addr, R.TWN_SURR.HOLDOFF_REM.addr, R.VIOL_INFO.SRC.addr] ++ regAll R.CHN_RATE.SIGMA 16 ++ regAll R.MGN_SOUT_STAT.DELAY 4) u t ∧ t = { u with regs := t.regs, log := t.log, out := t.out, blt := t.blt, chans := t.chans, delta := t.delta, dev := t.dev, dispIn := t.dispIn, ink := t.ink, mgn := t.mgn, modeIn := t.modeIn, rul := t.rul, tb := t.tb, twin := t.twin }) ∧
    (∀ (s : State) (dt : Nat) (u : State) (src : Src),
      u = s.after dt → (Instr.holdExit dt src).WellFormed →
      Yields (.holdExit dt src) s fun t =>
        OnlyWords ([R.CMT_STAT.ARMED_S.addr, R.MOD_STAT.OVF.addr, R.MOD_STATE.SLOT.addr, R.SCR_BLQ.OVF.addr, R.TB_CTRL.REF_SEL.addr, R.TB_STAT.WRAP.addr, R.TWN_CNT_B.TKO_CNT.addr, R.TWN_FLAGS.FL_OVF.addr, R.TWN_HB.HB_AT.addr, R.TWN_STAT.LINK_UP.addr, R.TWN_SURR.HOLDOFF_REM.addr, R.VIOL_INFO.SRC.addr] ++ regAll R.CHN_RATE.SIGMA 16 ++ regAll R.MGN_SOUT_STAT.DELAY 4) u t ∧ t = { u with regs := t.regs, log := t.log, out := t.out, blt := t.blt, chans := t.chans, delta := t.delta, dev := t.dev, dispIn := t.dispIn, ink := t.ink, mgn := t.mgn, modeIn := t.modeIn, rul := t.rul, tb := t.tb, twin := t.twin }) ∧
    (∀ (s : State) (dt : Nat) (u : State) (src : Src),
      u = s.after dt → (Instr.service dt src).WellFormed →
      Yields (.service dt src) s fun t =>
        OnlyWords ([R.CMT_STAT.ARMED_S.addr, R.MOD_STAT.OVF.addr, R.MOD_STATE.SLOT.addr, R.SCR_BLQ.OVF.addr, R.TB_CTRL.REF_SEL.addr, R.TB_STAT.WRAP.addr, R.TWN_CNT_B.TKO_CNT.addr, R.TWN_FLAGS.FL_OVF.addr, R.TWN_HB.HB_AT.addr, R.TWN_STAT.LINK_UP.addr, R.TWN_SURR.HOLDOFF_REM.addr, R.VIOL_INFO.SRC.addr] ++ regAll R.CHN_RATE.SIGMA 16 ++ regAll R.MGN_SOUT_STAT.DELAY 4) u t ∧ t = { u with regs := t.regs, log := t.log, out := t.out, blt := t.blt, chans := t.chans, delta := t.delta, dev := t.dev, dispIn := t.dispIn, ink := t.ink, mgn := t.mgn, modeIn := t.modeIn, rul := t.rul, tb := t.tb, twin := t.twin }) ∧
    (∀ (s : State) (dt : Nat) (u : State) (src : Src),
      u = s.after dt → (Instr.serviceExit dt src).WellFormed →
      Yields (.serviceExit dt src) s fun t =>
        OnlyWords ([R.CMT_STAT.ARMED_S.addr, R.MOD_STAT.OVF.addr, R.MOD_STATE.SLOT.addr, R.SCR_BLQ.OVF.addr, R.TB_CTRL.REF_SEL.addr, R.TB_STAT.WRAP.addr, R.TWN_CNT_B.TKO_CNT.addr, R.TWN_FLAGS.FL_OVF.addr, R.TWN_HB.HB_AT.addr, R.TWN_STAT.LINK_UP.addr, R.TWN_SURR.HOLDOFF_REM.addr, R.VIOL_INFO.SRC.addr] ++ regAll R.CHN_RATE.SIGMA 16 ++ regAll R.MGN_SOUT_STAT.DELAY 4) u t ∧ t = { u with regs := t.regs, log := t.log, out := t.out, blt := t.blt, chans := t.chans, delta := t.delta, dev := t.dev, dispIn := t.dispIn, ink := t.ink, mgn := t.mgn, modeIn := t.modeIn, rul := t.rul, tb := t.tb, twin := t.twin }) ∧
    (∀ (s : State) (dt : Nat) (u : State) (src : Src),
      u = s.after dt → (Instr.reload dt src).WellFormed →
      Yields (.reload dt src) s fun t =>
        OnlyWords ([R.CMT_STAT.ARMED_S.addr, R.MOD_STAT.OVF.addr, R.MOD_STATE.SLOT.addr, R.SCR_BLQ.OVF.addr, R.TB_CTRL.REF_SEL.addr, R.TB_STAT.WRAP.addr, R.TWN_CNT_B.TKO_CNT.addr, R.TWN_FLAGS.FL_OVF.addr, R.TWN_HB.HB_AT.addr, R.TWN_STAT.LINK_UP.addr, R.TWN_SURR.HOLDOFF_REM.addr, R.VIOL_INFO.SRC.addr] ++ regAll R.CHN_RATE.SIGMA 16 ++ regAll R.MGN_SOUT_STAT.DELAY 4) u t ∧ t = { u with regs := t.regs, log := t.log, out := t.out, blt := t.blt, chans := t.chans, delta := t.delta, dev := t.dev, dispIn := t.dispIn, ink := t.ink, mgn := t.mgn, modeIn := t.modeIn, rul := t.rul, tb := t.tb, twin := t.twin }) ∧
    (∀ (s : State) (dt : Nat) (u : State) (src : Src),
      u = s.after dt → (Instr.surrender dt src).WellFormed →
      Yields (.surrender dt src) s fun t =>
        OnlyWords ([R.CMT_STAT.ARMED_S.addr, R.MOD_STAT.OVF.addr, R.MOD_STATE.SLOT.addr, R.SCR_BLQ.OVF.addr, R.TB_CTRL.REF_SEL.addr, R.TB_STAT.WRAP.addr, R.TWN_CNT_B.TKO_CNT.addr, R.TWN_FLAGS.FL_OVF.addr, R.TWN_HB.HB_AT.addr, R.TWN_STAT.LINK_UP.addr, R.TWN_SURR.HOLDOFF_REM.addr, R.VIOL_INFO.SRC.addr] ++ regAll R.CHN_RATE.SIGMA 16 ++ regAll R.MGN_SOUT_STAT.DELAY 4) u t ∧ t = { u with regs := t.regs, log := t.log, out := t.out, blt := t.blt, chans := t.chans, delta := t.delta, dev := t.dev, dispIn := t.dispIn, ink := t.ink, mgn := t.mgn, modeIn := t.modeIn, rul := t.rul, tb := t.tb, twin := t.twin }) ∧
    (∀ (s : State) (dt : Nat) (u : State) (src : Src) (code : Nat),
      u = s.after dt → (Instr.modReqUndefined dt src code).WellFormed →
      Yields (.modReqUndefined dt src code) s fun t =>
        OnlyWords ([R.CMT_STAT.ARMED_S.addr, R.MOD_STAT.OVF.addr, R.MOD_STATE.SLOT.addr, R.SCR_BLQ.OVF.addr, R.TB_CTRL.REF_SEL.addr, R.TB_STAT.WRAP.addr, R.TWN_CNT_B.TKO_CNT.addr, R.TWN_FLAGS.FL_OVF.addr, R.TWN_HB.HB_AT.addr, R.TWN_STAT.LINK_UP.addr, R.TWN_SURR.HOLDOFF_REM.addr, R.VIOL_INFO.SRC.addr] ++ regAll R.CHN_RATE.SIGMA 16 ++ regAll R.MGN_SOUT_STAT.DELAY 4) u t ∧ t = { u with regs := t.regs, log := t.log, out := t.out, blt := t.blt, chans := t.chans, delta := t.delta, dev := t.dev, dispIn := t.dispIn, ink := t.ink, mgn := t.mgn, modeIn := t.modeIn, rul := t.rul, tb := t.tb, twin := t.twin })

/-- The frame of each command: the register words that may read otherwise (the interrupt status and its pending bits apart), and the parts of the state that may differ; u is the state when the command takes effect, or s where the command is an event of its own tick and time passes first. -/
def Obligations.FramesOfMotionCommands : Prop :=
  (∀ (s : State) (dt : Nat) (u : State) (slot : Nat),
      u = s.after dt → (Instr.laneError dt slot).WellFormed →
      Yields (.laneError dt slot) s fun t =>
        OnlyWords ([R.SPR_STAT.ACTIVE.addr] ++ regAll R.AX_CNT.LANE_ERR 160 ++ regAll R.AX_FLAGS.ERR_OVF 160) u t ∧ t = { u with regs := t.regs, log := t.log, out := t.out, blt := t.blt, lanes := t.lanes, mem := t.mem, spr := t.spr }) ∧
    (∀ (s : State) (dt : Nat) (u : State) (q tile : Nat),
      u = s.after dt → (Instr.tileError dt q tile).WellFormed →
      Yields (.tileError dt q tile) s fun t =>
        OnlyWords [(R.RUL_TILE.IN_USE.j q).addr, R.SPR_FLAGS.CORR_OVF.addr, R.SPR_STAT.ACTIVE.addr] u t ∧ t = { u with regs := t.regs, log := t.log, out := t.out, blt := t.blt, rul := t.rul, spr := t.spr }) ∧
    (∀ (s : State) (dt : Nat) (u : State),
      u = s.after dt →
      Yields (.marginComplete dt) s fun t =>
        OnlyWords [R.MGN_DONE.DONE.addr] u t ∧ t = { u with regs := t.regs, log := t.log, out := t.out, mgn := t.mgn }) ∧
    (∀ (s : State) (j : Nat),
      (Instr.stop1DelayEnd j).WellFormed →
      Yields (.stop1DelayEnd j) s fun t =>
        OnlyWords ([(R.MGN_SOUT_STAT.DELAY.j j).addr] ++ tickWords) s t ∧ t = { s with regs := t.regs, log := t.log, out := t.out, blt := t.blt, dct := t.dct, mgn := t.mgn, serifs := t.serifs, tb := t.tb }) ∧
    (∀ (s : State) (dt : Nat) (u : State) (src : Src) (value : Nat),
      u = s.after dt → (Instr.mgnAck dt src value).WellFormed →
      Yields (.mgnAck dt src value) s fun t =>
        OnlyWords ([R.CMT_STAT.ARMED_S.addr, R.MGN_STAT.DECISION.addr, R.TMR_LAST.OFFSET.addr, R.TMR_SCRUB.OVF.addr, R.VIOL_INFO.SRC.addr] ++ regAll R.MGN_SOUT_STAT.DELAY 4) u t ∧ t = { u with regs := t.regs, log := t.log, out := t.out, blt := t.blt, mgn := t.mgn }) ∧
    (∀ (s : State) (dt : Nat) (u : State) (j ch : Nat),
      u = s.after dt → (Instr.soutTestPulse dt j ch).WellFormed →
      Yields (.soutTestPulse dt j ch) s fun t =>
        OnlyWords [] u t ∧ t = { u with regs := t.regs, log := t.log, out := t.out, mgn := t.mgn }) ∧
    (∀ (s : State) (dt : Nat) (u : State) (j : Nat) (rda rdb : Bool),
      u = s.after dt → (Instr.soutReadbackCheck dt j rda rdb).WellFormed →
      Yields (.soutReadbackCheck dt j rda rdb) s fun t =>
        OnlyWords [R.MGN_FLT.STOPS_OVF.addr, (R.MGN_SOUT_STAT.DELAY.j j).addr] u t ∧ t = { u with regs := t.regs, log := t.log, out := t.out, blt := t.blt, mgn := t.mgn }) ∧
    (∀ (s : State) (dt : Nat) (u : State) (i : Nat),
      u = s.after dt → (Instr.sinDiscrepancy dt i).WellFormed →
      Yields (.sinDiscrepancy dt i) s fun t =>
        OnlyWords ([R.MGN_FLT.STOPS_OVF.addr] ++ regAll R.MGN_SIN_STAT.DISC 8) u t ∧ t = { u with regs := t.regs, log := t.log, out := t.out, blt := t.blt, mgn := t.mgn }) ∧
    (∀ (s : State) (dt : Nat) (u : State),
      u = s.after dt →
      Yields (.separationDelivery dt) s fun t =>
        OnlyWords ([R.SEP_CNT.REC_BAD.addr, R.SEP_DONE.DONE.addr, R.SEP_FLAGS.NOVAR_OVF.addr, R.SEP_STAT.ROWS.addr] ++ regAll R.SEP_OCC.PRESENT 64) u t ∧ t = { u with regs := t.regs, log := t.log, out := t.out, blt := t.blt, rul := t.rul }) ∧
    (∀ (s : State) (dt : Nat) (u : State) (src : Src) (c : Nat),
      u = s.after dt → (Instr.chnPush dt src c).WellFormed →
      Yields (.chnPush dt src c) s fun t =>
        OnlyWords [(R.CHN_FLAGS.DROP_OVF.i c).addr, (R.CHN_PUSH.PUSH.i c).addr, R.CMT_STAT.ARMED_S.addr, R.VIOL_INFO.SRC.addr] u t ∧ t = { u with regs := t.regs, log := t.log, out := t.out, blt := t.blt, queues := t.queues }) ∧
    (∀ (s : State) (dt : Nat) (u : State) (c : Nat),
      u = s.after dt → (Instr.strokeCheck dt c).WellFormed →
      Yields (.strokeCheck dt c) s fun t =>
        OnlyWords [(R.CHN_CNT.ACCEPTED.i c).addr, (R.CHN_FLAGS.DROP_OVF.i c).addr, (R.CHN_PUSH.PUSH.i c).addr, (R.CHN_QSTAT.STATE.i c).addr, (R.CHN_TAG.RUN_TAG.i c).addr, (R.CHN_TAU.TAU.i c).addr] u t ∧ t = { u with regs := t.regs, log := t.log, out := t.out, blt := t.blt, queues := t.queues, twin := t.twin }) ∧
    (∀ (s : State) (dt : Nat) (u : State) (src : Src) (c : Nat),
      u = s.after dt → (Instr.stop dt src c).WellFormed →
      Yields (.stop dt src c) s fun t =>
        OnlyWords [(R.CHN_CMD.ABORT.i c).addr, R.CMT_STAT.ARMED_S.addr, R.VIOL_INFO.SRC.addr] u t ∧ t = { u with regs := t.regs, log := t.log, out := t.out, blt := t.blt }) ∧
    (∀ (s : State) (dt : Nat) (u : State) (src : Src) (c : Nat),
      u = s.after dt → (Instr.resume dt src c).WellFormed →
      Yields (.resume dt src c) s fun t =>
        OnlyWords [(R.CHN_CMD.ABORT.i c).addr, R.CMT_STAT.ARMED_S.addr, R.VIOL_INFO.SRC.addr] u t ∧ t = { u with regs := t.regs, log := t.log, out := t.out, blt := t.blt }) ∧
    (∀ (s : State) (dt : Nat) (u : State) (src : Src) (c : Nat),
      u = s.after dt → (Instr.abort dt src c).WellFormed →
      Yields (.abort dt src c) s fun t =>
        OnlyWords [(R.CHN_CMD.ABORT.i c).addr, R.CMT_STAT.ARMED_S.addr, R.VIOL_INFO.SRC.addr] u t ∧ t = { u with regs := t.regs, log := t.log, out := t.out, blt := t.blt }) ∧
    (∀ (s : State) (dt : Nat) (u : State) (src : Src) (c : Nat),
      u = s.after dt → (Instr.flush dt src c).WellFormed →
      Yields (.flush dt src c) s fun t =>
        OnlyWords [(R.CHN_CMD.ABORT.i c).addr, R.CMT_STAT.ARMED_S.addr, R.VIOL_INFO.SRC.addr] u t ∧ t = { u with regs := t.regs, log := t.log, out := t.out, blt := t.blt }) ∧
    (∀ (s : State) (c : Nat),
      (Instr.syncTmo c).WellFormed →
      Yields (.syncTmo c) s fun t =>
        OnlyWords ([(R.CHN_FLAGS.DROP_OVF.i c).addr] ++ tickWords) s t ∧ t = { s with regs := t.regs, log := t.log, out := t.out, blt := t.blt, dct := t.dct, serifs := t.serifs, tb := t.tb }) ∧
    (∀ (s : State) (dt : Nat) (u : State) (n which : Nat) (level : Bool),
      u = s.after dt → (Instr.limitEdge dt n which level).WellFormed →
      Yields (.limitEdge dt n which level) s fun t =>
        OnlyWords ([(R.STK_FLAGS.ACC_OVERRIDE.i n).addr, (R.STK_LIM_STAT.CHATTER.i n).addr] ++ regAll R.FB_FLAGS.LATE_OVF 16 ++ regAll R.FB_LATCH_POS.VALUE 16 ++ regAll R.FB_LATCH_STAMP.VALUE 16 ++ regAll R.FB_STAT.FAULT 16) u t ∧ t = { u with regs := t.regs, log := t.log, out := t.out, blt := t.blt, fbs := t.fbs, gens := t.gens }) ∧
    (∀ (s : State) (dt : Nat) (u : State) (src : Src) (n : Nat),
      u = s.after dt → (Instr.fltClr dt src n).WellFormed →
      Yields (.fltClr dt src n) s fun t =>
        OnlyWords [(R.AX_CTRL.FLT_CLR.i n).addr, R.CMT_STAT.ARMED_S.addr, R.VIOL_INFO.SRC.addr] u t ∧ t = { u with regs := t.regs, log := t.log, out := t.out, blt := t.blt }) ∧
    (∀ (s : State) (dt : Nat) (u : State) (src : Src) (n : Nat),
      u = s.after dt → (Instr.intRst dt src n).WellFormed →
      Yields (.intRst dt src n) s fun t =>
        OnlyWords [(R.AX_CTRL.FLT_CLR.i n).addr, R.CMT_STAT.ARMED_S.addr, R.VIOL_INFO.SRC.addr] u t ∧ t = { u with regs := t.regs, log := t.log, out := t.out, blt := t.blt, lanes := t.lanes }) ∧
    (∀ (s : State) (dt : Nat) (u : State) (src : Src),
      u = s.after dt → (Instr.inkStop dt src).WellFormed →
      Yields (.inkStop dt src) s fun t =>
        OnlyWords [R.CMT_STAT.ARMED_S.addr, R.INK_CTRL.ARM.addr, R.VIOL_INFO.SRC.addr] u t ∧ t = { u with regs := t.regs, log := t.log, out := t.out, blt := t.blt }) ∧
    (∀ (s : State) (dt : Nat) (u : State) (src : Src),
      u = s.after dt → (Instr.trig dt src).WellFormed →
      Yields (.trig dt src) s fun t =>
        OnlyWords [R.CMT_STAT.ARMED_S.addr, R.INK_CTRL.ARM.addr, R.VIOL_INFO.SRC.addr] u t ∧ t = { u with regs := t.regs, log := t.log, out := t.out, blt := t.blt, ink := t.ink }) ∧
    (∀ (s : State) (dt : Nat) (u : State) (src : Src),
      u = s.after dt → (Instr.arm dt src).WellFormed →
      Yields (.arm dt src) s fun t =>
        OnlyWords [R.CMT_STAT.ARMED_S.addr, R.INK_DEPTH.VALUE.addr, R.INK_STAT.STATE.addr, R.INK_TROW.VALUE.addr, R.INK_TSTAMP.VALUE.addr, R.VIOL_INFO.SRC.addr] u t ∧ t = { u with regs := t.regs, log := t.log, out := t.out, blt := t.blt, ink := t.ink, mem := t.mem }) ∧
    (∀ (s : State) (n which : Nat),
      (Instr.limitLatch n which).WellFormed →
      Yields (.limitLatch n which) s fun t =>
        OnlyWords ([(R.STK_LIM_CAP_N.POS.i n).addr, (R.STK_LIM_CAP_P.POS.i n).addr, (R.STK_LIM_STAT.CHATTER.i n).addr] ++ regAll R.CHN_FLAGS.DROP_OVF 16 ++ tickWords) s t ∧ t = { s with regs := t.regs, log := t.log, out := t.out, blt := t.blt, dct := t.dct, gens := t.gens, queues := t.queues, serifs := t.serifs, tb := t.tb }) ∧
    (∀ (s : State) (slot : Nat),
      (Instr.currentLoopInstant slot).WellFormed →
      Yields (.currentLoopInstant slot) s fun t =>
        OnlyWords (regAll R.FB_ANGLE.ANGLE 16 ++ regAll R.FB_CTRL.FLT_CLR 16 ++ regAll R.FB_FLAGS.LATE_OVF 16 ++ regAll R.FB_SPEED.SPEED 16 ++ regAll R.FB_STAT.FAULT 16 ++ tickWords) s t ∧ t = { s with regs := t.regs, log := t.log, out := t.out, blt := t.blt, dct := t.dct, fbs := t.fbs, lanes := t.lanes, mem := t.mem, serifs := t.serifs, tb := t.tb }) ∧
    (∀ (s : State),
      Yields (.marginDecision) s fun t =>
        OnlyWords ([R.MGN_CNT.STOPS.addr, R.MGN_DONE.DONE.addr, R.MGN_FLT.STOPS_OVF.addr, R.MGN_STAT.DECISION.addr, R.MOD_STAT.OVF.addr, R.MOD_STATE.SLOT.addr, R.SPR_STAT.ACTIVE.addr, R.TB_CTRL.REF_SEL.addr, R.TB_STAT.WRAP.addr, R.TMR_LAST.OFFSET.addr, R.TMR_SCRUB.OVF.addr] ++ regAll R.CHN_FLAGS.DROP_OVF 16 ++ regAll R.CHN_RATE.SIGMA 16 ++ regAll R.MGN_SOUT_STAT.DELAY 4 ++ tickWords) s t ∧ t = { s with regs := t.regs, log := t.log, out := t.out, blt := t.blt, dct := t.dct, delta := t.delta, dev := t.dev, dispIn := t.dispIn, ink := t.ink, mgn := t.mgn, modeIn := t.modeIn, queues := t.queues, rul := t.rul, serifs := t.serifs, spr := t.spr, tb := t.tb }) ∧
    (∀ (s : State) (i : Nat),
      (Instr.sinDemand i).WellFormed →
      Yields (.sinDemand i) s fun t =>
        OnlyWords ([R.MGN_STAT.DECISION.addr, R.MOD_STAT.OVF.addr, R.MOD_STATE.SLOT.addr, R.TB_CTRL.REF_SEL.addr, R.TB_STAT.WRAP.addr] ++ regAll R.CHN_FLAGS.DROP_OVF 16 ++ regAll R.CHN_RATE.SIGMA 16 ++ regAll R.MGN_SOUT_STAT.DELAY 4 ++ tickWords) s t ∧ t = { s with regs := t.regs, log := t.log, out := t.out, blt := t.blt, dct := t.dct, delta := t.delta, dev := t.dev, dispIn := t.dispIn, ink := t.ink, mgn := t.mgn, modeIn := t.modeIn, queues := t.queues, rul := t.rul, serifs := t.serifs, tb := t.tb }) ∧
    (∀ (s : State),
      Yields (.solutionRelease) s fun t =>
        OnlyWords ([R.MOD_STAT.OVF.addr, R.MOD_STATE.SLOT.addr, R.PWR_CNT.OVF.addr, R.PWR_SUPV.HOLD_TOP.addr, R.PWR_VID.VOLT_MV.addr, R.RUL_CNT_BAD.LATE_CNT.addr, R.RUL_CNT_SAT.SAT_CNT.addr, R.RUL_STAT.LATE.addr, R.RUL_STKY.STRUCT_OVF.addr, R.RUL_TIME.SLACK.addr, R.TB_CTRL.REF_SEL.addr, R.TB_STAT.WRAP.addr] ++ regAll R.CHN_RATE.SIGMA 16 ++ regAll R.MGN_SOUT_STAT.DELAY 4 ++ tickWords) s t ∧ t = { s with regs := t.regs, log := t.log, out := t.out, blt := t.blt, dct := t.dct, delta := t.delta, dev := t.dev, dispIn := t.dispIn, ink := t.ink, mgn := t.mgn, modeIn := t.modeIn, pwr := t.pwr, rul := t.rul, serifs := t.serifs, tb := t.tb })

/-- The frame of each command: the register words that may read otherwise (the interrupt status and its pending bits apart), and the parts of the state that may differ; u is the state when the command takes effect, or s where the command is an event of its own tick and time passes first. -/
def Obligations.FramesOfFeedbackAndBridgeCommands : Prop :=
  (∀ (s : State) (k : Nat),
      (Instr.illWindowEnd k).WellFormed →
      Yields (.illWindowEnd k) s fun t =>
        OnlyWords ([(R.FB_STAT.FAULT.i k).addr] ++ tickWords) s t ∧ t = { s with regs := t.regs, log := t.log, out := t.out, blt := t.blt, dct := t.dct, fbs := t.fbs, serifs := t.serifs, tb := t.tb }) ∧
    (∀ (s : State) (k : Nat),
      (Instr.hallTimeout k).WellFormed →
      Yields (.hallTimeout k) s fun t =>
        OnlyWords ([(R.FB_STAT.FAULT.i k).addr] ++ regAll R.CHN_FLAGS.DROP_OVF 16 ++ regAll R.STK_FLAGS.ACC_OVERRIDE 160 ++ regAll R.STK_HOME_STAT.PHASE 160 ++ tickWords) s t ∧ t = { s with regs := t.regs, log := t.log, out := t.out, blt := t.blt, dct := t.dct, gens := t.gens, queues := t.queues, serifs := t.serifs, tb := t.tb }) ∧
    (∀ (s : State) (dt : Nat) (u : State) (src : Src) (k value : Nat),
      u = s.after dt → (Instr.fbCmpWrite dt src k value).WellFormed →
      Yields (.fbCmpWrite dt src k value) s fun t =>
        OnlyWords [R.CMT_STAT.ARMED_S.addr, (R.FB_CMP.VALUE.i k).addr, (R.FB_STAT.FAULT.i k).addr, R.VIOL_INFO.SRC.addr] u t ∧ t = { u with regs := t.regs, log := t.log, out := t.out, blt := t.blt }) ∧
    (∀ (s : State) (dt : Nat) (u : State) (src : Src) (k : Nat) (rev : Bool) (value : Nat),
      u = s.after dt → (Instr.fbPosWrite dt src k rev value).WellFormed →
      Yields (.fbPosWrite dt src k rev value) s fun t =>
        OnlyWords [R.CMT_STAT.ARMED_S.addr, (R.FB_CPOS.VALUE.i k).addr, (R.FB_POS.VALUE.i k).addr, (R.FB_REV.VALUE.i k).addr, (R.FB_STAT.FAULT.i k).addr, R.VIOL_INFO.SRC.addr] u t ∧ t = { u with regs := t.regs, log := t.log, out := t.out, blt := t.blt, fbs := t.fbs }) ∧
    (∀ (s : State) (dt : Nat) (u : State) (src : Src) (k : Nat),
      u = s.after dt → (Instr.fbFltClr dt src k).WellFormed →
      Yields (.fbFltClr dt src k) s fun t =>
        OnlyWords [R.CMT_STAT.ARMED_S.addr, (R.FB_CTRL.FLT_CLR.i k).addr, R.VIOL_INFO.SRC.addr] u t ∧ t = { u with regs := t.regs, log := t.log, out := t.out, blt := t.blt }) ∧
    (∀ (s : State) (dt : Nat) (u : State) (src : Src) (k : Nat),
      u = s.after dt → (Instr.zarm dt src k).WellFormed →
      Yields (.zarm dt src k) s fun t =>
        OnlyWords [R.CMT_STAT.ARMED_S.addr, (R.FB_CTRL.FLT_CLR.i k).addr, (R.FB_STAT.FAULT.i k).addr, R.VIOL_INFO.SRC.addr] u t ∧ t = { u with regs := t.regs, log := t.log, out := t.out, blt := t.blt }) ∧
    (∀ (s : State) (dt k : Nat) (line : Bool),
      (Instr.xferStart dt k line).WellFormed →
      Yields (.xferStart dt k line) s fun t =>
        OnlyWords ([(R.FB_CNT2.CMP_CNT.i k).addr, (R.FB_FLAGS.LATE_OVF.i k).addr] ++ tickWords) s t ∧ t = { s with regs := t.regs, log := t.log, out := t.out, blt := t.blt, dct := t.dct, fbs := t.fbs, serifs := t.serifs, tb := t.tb }) ∧
    (∀ (s : State) (dt k : Nat),
      (Instr.serialTimeout dt k).WellFormed →
      Yields (.serialTimeout dt k) s fun t =>
        OnlyWords ([(R.FB_CNT.ILL_CNT.i k).addr, (R.FB_CNT2.CMP_CNT.i k).addr, (R.FB_FLAGS.LATE_OVF.i k).addr, (R.FB_STAT.FAULT.i k).addr] ++ regAll R.CHN_FLAGS.DROP_OVF 16 ++ regAll R.STK_FLAGS.ACC_OVERRIDE 160 ++ regAll R.STK_HOME_STAT.PHASE 160 ++ tickWords) s t ∧ t = { s with regs := t.regs, log := t.log, out := t.out, blt := t.blt, dct := t.dct, fbs := t.fbs, gens := t.gens, queues := t.queues, serifs := t.serifs, tb := t.tb }) ∧
    (∀ (s : State) (dt : Nat) (u : State) (r : Reader) (k : Nat),
      u = s.after dt → (Instr.fbLatchPosRead dt r k).WellFormed →
      Yields (.fbLatchPosRead dt r k) s fun t =>
        OnlyWords [R.CMT_STAT.ARMED_S.addr, (R.FB_LATCH_POS.VALUE.i k).addr, (R.FB_STAT.FAULT.i k).addr, R.VIOL_INFO.SRC.addr] u t ∧ t = { u with regs := t.regs, log := t.log, out := t.out, blt := t.blt }) ∧
    (∀ (s : State) (dt : Nat) (u : State) (spare k : Nat),
      u = s.after dt → (Instr.samplerMismatch dt spare k).WellFormed →
      Yields (.samplerMismatch dt spare k) s fun t =>
        OnlyWords [R.SPR_STAT.ACTIVE.addr] u t ∧ t = { u with regs := t.regs, log := t.log, out := t.out, spr := t.spr }) ∧
    (∀ (s : State) (b : Nat),
      (Instr.carrierValley b).WellFormed →
      Yields (.carrierValley b) s fun t =>
        OnlyWords ([(R.PB_ACT_U.ON.i b).addr, (R.PB_ACT_V.ON.i b).addr, (R.PB_ACT_W.ON.i b).addr, (R.PB_CNT.TRIP_CNT.i b).addr, (R.PB_DUTY_GO.GO.i b).addr, (R.PB_FLAGS.BOOT_OVF.i b).addr, (R.PB_STAT.TRIP_ACT.i b).addr] ++ tickWords) s t ∧ t = { s with regs := t.regs, log := t.log, out := t.out, blt := t.blt, dct := t.dct, pbs := t.pbs, serifs := t.serifs, tb := t.tb }) ∧
    (∀ (s : State) (b : Nat),
      (Instr.carrierPeak b).WellFormed →
      Yields (.carrierPeak b) s fun t =>
        OnlyWords ([(R.PB_ACT_U.ON.i b).addr, (R.PB_ACT_V.ON.i b).addr, (R.PB_ACT_W.ON.i b).addr, (R.PB_CNT.TRIP_CNT.i b).addr, (R.PB_DUTY_GO.GO.i b).addr, (R.PB_FLAGS.BOOT_OVF.i b).addr, (R.PB_STAT.TRIP_ACT.i b).addr] ++ tickWords) s t ∧ t = { s with regs := t.regs, log := t.log, out := t.out, blt := t.blt, dct := t.dct, pbs := t.pbs, serifs := t.serifs, tb := t.tb }) ∧
    (∀ (s : State) (dt : Nat) (u : State) (src : Src) (b which value : Nat),
      u = s.after dt → (Instr.dutyGo dt src b which value).WellFormed →
      Yields (.dutyGo dt src b which value) s fun t =>
        OnlyWords [R.CMT_STAT.ARMED_S.addr, (R.PB_DUTY_GO.GO.i b).addr, (R.PB_DUTY_U.ON.i b).addr, (R.PB_DUTY_V.ON.i b).addr, (R.PB_DUTY_W.ON.i b).addr, (R.PB_FLAGS.BOOT_OVF.i b).addr, (R.PB_STAT.TRIP_ACT.i b).addr, R.VIOL_INFO.SRC.addr] u t ∧ t = { u with regs := t.regs, log := t.log, out := t.out, blt := t.blt, pbs := t.pbs, twin := t.twin }) ∧
    (∀ (s : State) (dt : Nat) (u : State) (b trips : Nat),
      u = s.after dt → (Instr.tripAccept dt b trips).WellFormed →
      Yields (.tripAccept dt b trips) s fun t =>
        OnlyWords [(R.PB_CNT.TRIP_CNT.i b).addr, (R.PB_FLAGS.BOOT_OVF.i b).addr, (R.PB_STAT.TRIP_ACT.i b).addr, (R.PB_TRIP_STAMP.NS.i b).addr, R.SCR_BLQ.OVF.addr] u t ∧ t = { u with regs := t.regs, log := t.log, out := t.out, blt := t.blt, pbs := t.pbs }) ∧
    (∀ (s : State) (dt : Nat) (u : State) (src : Src) (b trips : Nat),
      u = s.after dt → (Instr.tripClr dt src b trips).WellFormed →
      Yields (.tripClr dt src b trips) s fun t =>
        OnlyWords [R.CMT_STAT.ARMED_S.addr, (R.PB_FLAGS.BOOT_OVF.i b).addr, (R.PB_STAT.TRIP_ACT.i b).addr, R.VIOL_INFO.SRC.addr] u t ∧ t = { u with regs := t.regs, log := t.log, out := t.out, blt := t.blt }) ∧
    (∀ (s : State) (k : Nat) (window : List Bool),
      (Instr.sdResult k window).WellFormed →
      Yields (.sdResult k window) s fun t =>
        OnlyWords ([(R.SD_STAMP.NS.j k).addr, (R.SD_STAT.CLIP.j k).addr, (R.SD_VAL.X.j k).addr] ++ regAll R.SF_FLAGS.FLT_OVF 4 ++ tickWords) s t ∧ t = { s with regs := t.regs, log := t.log, out := t.out, blt := t.blt, dct := t.dct, sds := t.sds, serifs := t.serifs, tb := t.tb })

/-- The frame of each command: the register words that may read otherwise (the interrupt status and its pending bits apart), and the parts of the state that may differ; u is the state when the command takes effect, or s where the command is an event of its own tick and time passes first. -/
def Obligations.FramesOfRingAndTwinCommands : Prop :=
  (∀ (s : State) (ch : Nat),
      (Instr.ringFetch ch).WellFormed →
      Yields (.ringFetch ch) s fun t =>
        OnlyWords tickWords s t ∧ t = { s with regs := t.regs, log := t.log, out := t.out, blt := t.blt, chans := t.chans, dct := t.dct, serifs := t.serifs, tb := t.tb }) ∧
    (∀ (s : State) (dt : Nat) (u : State) (lane : Nat) (spare : Bool),
      u = s.after dt → (Instr.switchRequest dt lane spare).WellFormed →
      Yields (.switchRequest dt lane spare) s fun t =>
        OnlyWords [] u t ∧ t = { u with regs := t.regs, log := t.log, out := t.out, chans := t.chans }) ∧
    (∀ (s : State) (dt : Nat) (u : State) (src : Src) (ch : Nat),
      u = s.after dt → (Instr.revertP0 dt src ch).WellFormed →
      Yields (.revertP0 dt src ch) s fun t =>
        OnlyWords [R.CMT_STAT.ARMED_S.addr, (R.IKL_CTRL.DM_NOW.i ch).addr, R.VIOL_INFO.SRC.addr] u t ∧ t = { u with regs := t.regs, log := t.log, out := t.out, blt := t.blt }) ∧
    (∀ (s : State) (dt : Nat) (u : State) (src : Src) (ch : Nat),
      u = s.after dt → (Instr.revertP1 dt src ch).WellFormed →
      Yields (.revertP1 dt src ch) s fun t =>
        OnlyWords [R.CMT_STAT.ARMED_S.addr, (R.IKL_CTRL.DM_NOW.i ch).addr, R.VIOL_INFO.SRC.addr] u t ∧ t = { u with regs := t.regs, log := t.log, out := t.out, blt := t.blt }) ∧
    (∀ (s : State) (dt : Nat) (u : State) (src : Src) (ch : Nat),
      u = s.after dt → (Instr.dmNow dt src ch).WellFormed →
      Yields (.dmNow dt src ch) s fun t =>
        OnlyWords [R.CMT_STAT.ARMED_S.addr, (R.IKL_CTRL.DM_NOW.i ch).addr, R.VIOL_INFO.SRC.addr] u t ∧ t = { u with regs := t.regs, log := t.log, out := t.out, blt := t.blt }) ∧
    (∀ (s : State) (dt : Nat) (u : State) (ch port : Nat),
      u = s.after dt → (Instr.portDown dt ch port).WellFormed →
      Yields (.portDown dt ch port) s fun t =>
        OnlyWords [(R.IKL_FLAGS.SCHED_SEEN.i ch).addr, (R.IKL_STAT.STATE.i ch).addr, R.SCR_BLQ.OVF.addr] u t ∧ t = { u with regs := t.regs, log := t.log, out := t.out, blt := t.blt, chans := t.chans }) ∧
    (∀ (s : State) (dt : Nat) (u : State) (ch port : Nat),
      u = s.after dt → (Instr.linkBack dt ch port).WellFormed →
      Yields (.linkBack dt ch port) s fun t =>
        OnlyWords [] u t ∧ t = { u with regs := t.regs, log := t.log, out := t.out, chans := t.chans }) ∧
    (∀ (s : State) (dt : Nat) (u : State) (ch : Nat),
      u = s.after dt → (Instr.channelLoss dt ch).WellFormed →
      Yields (.channelLoss dt ch) s fun t =>
        OnlyWords [(R.IKL_STAT.STATE.i ch).addr, R.SCR_BLQ.OVF.addr] u t ∧ t = { u with regs := t.regs, log := t.log, out := t.out, blt := t.blt, chans := t.chans }) ∧
    (∀ (s : State) (dt : Nat) (u : State) (ch : Nat),
      u = s.after dt → (Instr.leaderMissing dt ch).WellFormed →
      Yields (.leaderMissing dt ch) s fun t =>
        OnlyWords [(R.IKL_CS.CS_STATE.i ch).addr] u t ∧ t = { u with regs := t.regs, log := t.log, out := t.out, chans := t.chans, lanes := t.lanes }) ∧
    (∀ (s : State) (dt : Nat) (u : State) (ch : Nat),
      u = s.after dt → (Instr.rejoinTimeout dt ch).WellFormed →
      Yields (.rejoinTimeout dt ch) s fun t =>
        OnlyWords [] u t ∧ t = { u with regs := t.regs, log := t.log, out := t.out, chans := t.chans }) ∧
    (∀ (s : State) (dt : Nat) (u : State) (ch : Nat),
      u = s.after dt → (Instr.listenChannelTimeout dt ch).WellFormed →
      Yields (.listenChannelTimeout dt ch) s fun t =>
        OnlyWords [(R.IKL_CS.CS_STATE.i ch).addr, (R.IKL_STAT.STATE.i ch).addr, R.TB_CTRL.REF_SEL.addr] u t ∧ t = { u with regs := t.regs, log := t.log, out := t.out, chans := t.chans, ring := t.ring }) ∧
    (∀ (s : State) (dt : Nat) (u : State) (m : SnapMsg),
      u = s.after dt → (Instr.snap dt m).WellFormed →
      Yields (.snap dt m) s fun t =>
        OnlyWords [R.TWN_CNT_C.MSG_ERR.addr, R.TWN_FLAGS.FL_OVF.addr] u t ∧ t = { u with regs := t.regs, log := t.log, out := t.out, blt := t.blt, twin := t.twin }) ∧
    (∀ (s : State) (dt : Nat) (u : State) (m : SolveMsg),
      u = s.after dt → (Instr.solve dt m).WellFormed →
      Yields (.solve dt m) s fun t =>
        OnlyWords [R.TWN_CNT_C.MSG_ERR.addr, R.TWN_FLAGS.FL_OVF.addr] u t ∧ t = { u with regs := t.regs, log := t.log, out := t.out, blt := t.blt, twin := t.twin }) ∧
    (∀ (s : State) (dt : Nat) (u : State) (ch : Nat),
      u = s.after dt → (Instr.takeover dt ch).WellFormed →
      Yields (.takeover dt ch) s fun t =>
        OnlyWords [R.MOD_STATE.SLOT.addr, R.TWN_FLAGS.FL_OVF.addr] u t ∧ t = { u with regs := t.regs, log := t.log, out := t.out, blt := t.blt, chans := t.chans, dev := t.dev, twin := t.twin }) ∧
    (∀ (s : State),
      Yields (.holdoffEnd) s fun t =>
        OnlyWords ([R.TWN_CTRL.HB_NOW.addr] ++ tickWords) s t ∧ t = { s with regs := t.regs, log := t.log, out := t.out, blt := t.blt, dct := t.dct, serifs := t.serifs, tb := t.tb, twin := t.twin }) ∧
    (∀ (s : State) (dt : Nat) (u : State) (lane : Nat),
      u = s.after dt → (Instr.laneFault dt lane).WellFormed →
      Yields (.laneFault dt lane) s fun t =>
        OnlyWords [R.TWN_STAT.LINK_UP.addr] u t ∧ t = { u with regs := t.regs, log := t.log, out := t.out, chans := t.chans, free := t.free, mem := t.mem, ring := t.ring }) ∧
    (∀ (s : State) (dt : Nat) (u : State) (lane : Nat),
      u = s.after dt → (Instr.blockLockGain dt lane).WellFormed →
      Yields (.blockLockGain dt lane) s fun t =>
        OnlyWords ([R.TWN_STAT.LINK_UP.addr] ++ regAll R.IKL_STAT.STATE 2) u t ∧ t = { u with regs := t.regs, log := t.log, out := t.out, mem := t.mem, ring := t.ring }) ∧
    (∀ (s : State),
      Yields (.coldStart) s fun t =>
        OnlyWords ([R.MOD_STATE.SLOT.addr, R.TB_CTRL.REF_SEL.addr, R.TB_PERIOD.INDEX.addr] ++ regAll R.IKL_CS.CS_STATE 2 ++ regAll R.IKL_CYCNUM.VALUE 2 ++ regAll R.IKL_STAT.STATE 2 ++ tickWords) s t ∧ t = { s with regs := t.regs, log := t.log, out := t.out, blt := t.blt, chans := t.chans, dct := t.dct, dev := t.dev, pwr := t.pwr, ring := t.ring, serifs := t.serifs, tb := t.tb }) ∧
    (∀ (s : State),
      Yields (.backoffEnd) s fun t =>
        OnlyWords ([R.MOD_STATE.SLOT.addr, R.TB_CTRL.REF_SEL.addr, R.TB_PERIOD.INDEX.addr] ++ regAll R.IKL_CS.CS_STATE 2 ++ regAll R.IKL_CYCNUM.VALUE 2 ++ regAll R.IKL_STAT.STATE 2 ++ tickWords) s t ∧ t = { s with regs := t.regs, log := t.log, out := t.out, blt := t.blt, chans := t.chans, dct := t.dct, dev := t.dev, pwr := t.pwr, ring := t.ring, serifs := t.serifs, tb := t.tb }) ∧
    (∀ (s : State) (dt : Nat) (u : State) (lane : Nat) (m : StatusMsg),
      u = s.after dt → (Instr.status dt lane m).WellFormed →
      Yields (.status dt lane m) s fun t =>
        OnlyWords [R.MOD_STAT.OVF.addr, R.MOD_STATE.SLOT.addr, R.TWN_CNT_B.TKO_CNT.addr, R.TWN_CNT_C.MSG_ERR.addr, R.TWN_CTRL.HB_NOW.addr, R.TWN_FLAGS.FL_OVF.addr, R.TWN_HB.HB_AT.addr, R.TWN_PEER_HI.VALUE.addr, R.TWN_PEER_LO.VALUE.addr, R.TWN_STAT.LINK_UP.addr, R.TWN_SURR.HOLDOFF_REM.addr] u t ∧ t = { u with regs := t.regs, log := t.log, out := t.out, blt := t.blt, chans := t.chans, dev := t.dev, dispIn := t.dispIn, ink := t.ink, twin := t.twin }) ∧
    (∀ (s : State) (dt : Nat) (u : State) (m : ModelMsg),
      u = s.after dt → (Instr.model dt m).WellFormed →
      Yields (.model dt m) s fun t =>
        OnlyWords [R.TWN_CNT_C.MSG_ERR.addr, R.TWN_FLAGS.FL_OVF.addr] u t ∧ t = { u with regs := t.regs, log := t.log, out := t.out, blt := t.blt, mem := t.mem, twin := t.twin }) ∧
    (∀ (s : State) (dt : Nat) (u : State),
      u = s.after dt →
      Yields (.twinLinkDown dt) s fun t =>
        OnlyWords [R.MOD_STATE.SLOT.addr, R.TB_CTRL.REF_SEL.addr, R.TWN_CTRL.HB_NOW.addr, R.TWN_FLAGS.FL_OVF.addr, R.TWN_HB.HB_AT.addr, R.TWN_STAT.LINK_UP.addr] u t ∧ t = { u with regs := t.regs, log := t.log, out := t.out, blt := t.blt, chans := t.chans, dev := t.dev, mem := t.mem, ring := t.ring, twin := t.twin }) ∧
    (∀ (s : State) (dt : Nat) (u : State) (src : Src) (value : Nat),
      u = s.after dt → (Instr.hbNow dt src value).WellFormed →
      Yields (.hbNow dt src value) s fun t =>
        OnlyWords [R.CMT_STAT.ARMED_S.addr, R.MOD_STATE.SLOT.addr, R.TWN_CTRL.HB_NOW.addr, R.TWN_STAT.LINK_UP.addr, R.VIOL_INFO.SRC.addr] u t ∧ t = { u with regs := t.regs, log := t.log, out := t.out, blt := t.blt, dev := t.dev, twin := t.twin })

/-- The frame of each command: the register words that may read otherwise (the interrupt status and its pending bits apart), and the parts of the state that may differ; u is the state when the command takes effect, or s where the command is an event of its own tick and time passes first. -/
def Obligations.FramesOfSerifCommands : Prop :=
  (∀ (s : State) (dt : Nat) (u : State) (d n : Nat),
      u = s.after dt → (Instr.nop dt d n).WellFormed →
      Yields (.nop dt d n) s fun t =>
        OnlyWords ([R.DCT_FLAGS.PAST_OVF.addr, R.DCT_TRACE_PTR.WRAPPED.addr, (R.SF_CNT.LATE_CNT.i d).addr, (R.SF_FLAGS.FLT_OVF.i d).addr, (R.SF_FLT.CAUSE.i d).addr, (R.SF_STAT.STATE.i d).addr] ++ regAll R.DCT_TRACE.STAMP 512 ++ regAll R.DCT_TRACE2.KIND 512) u t ∧ t = { u with regs := t.regs, log := t.log, out := t.out, blt := t.blt, dct := t.dct, serifs := t.serifs }) ∧
    (∀ (s : State) (dt : Nat) (u : State) (d n : Nat),
      u = s.after dt → (Instr.reti dt d n).WellFormed →
      Yields (.reti dt d n) s fun t =>
        OnlyWords ([R.DCT_FLAGS.PAST_OVF.addr, R.DCT_TRACE_PTR.WRAPPED.addr, (R.SF_CNT.LATE_CNT.i d).addr, (R.SF_FLAGS.FLT_OVF.i d).addr, (R.SF_FLT.CAUSE.i d).addr, (R.SF_STAT.STATE.i d).addr] ++ regAll R.DCT_TRACE.STAMP 512 ++ regAll R.DCT_TRACE2.KIND 512) u t ∧ t = { u with regs := t.regs, log := t.log, out := t.out, blt := t.blt, dct := t.dct, serifs := t.serifs }) ∧
    (∀ (s : State) (dt : Nat) (u : State) (d n : Nat),
      u = s.after dt → (Instr.swi dt d n).WellFormed →
      Yields (.swi dt d n) s fun t =>
        OnlyWords ([R.DCT_FLAGS.PAST_OVF.addr, R.DCT_TRACE_PTR.WRAPPED.addr, (R.SF_CNT.LATE_CNT.i d).addr, (R.SF_FLAGS.FLT_OVF.i d).addr, (R.SF_FLT.CAUSE.i d).addr, (R.SF_STAT.STATE.i d).addr] ++ regAll R.DCT_TRACE.STAMP 512 ++ regAll R.DCT_TRACE2.KIND 512) u t ∧ t = { u with regs := t.regs, log := t.log, out := t.out, blt := t.blt, dct := t.dct, serifs := t.serifs }) ∧
    (∀ (s : State) (dt : Nat) (u : State) (d cond target : Nat),
      u = s.after dt → (Instr.br dt d cond target).WellFormed →
      Yields (.br dt d cond target) s fun t =>
        OnlyWords ([R.DCT_FLAGS.PAST_OVF.addr, R.DCT_TRACE_PTR.WRAPPED.addr, (R.SF_CNT.LATE_CNT.i d).addr, (R.SF_FLAGS.FLT_OVF.i d).addr, (R.SF_FLT.CAUSE.i d).addr, (R.SF_STAT.STATE.i d).addr] ++ regAll R.DCT_TRACE.STAMP 512 ++ regAll R.DCT_TRACE2.KIND 512) u t ∧ t = { u with regs := t.regs, log := t.log, out := t.out, blt := t.blt, dct := t.dct, serifs := t.serifs }) ∧
    (∀ (s : State) (dt : Nat) (u : State) (d target : Nat),
      u = s.after dt → (Instr.call dt d target).WellFormed →
      Yields (.call dt d target) s fun t =>
        OnlyWords ([R.DCT_FLAGS.PAST_OVF.addr, R.DCT_TRACE_PTR.WRAPPED.addr, (R.SF_CNT.LATE_CNT.i d).addr, (R.SF_FLAGS.FLT_OVF.i d).addr, (R.SF_FLT.CAUSE.i d).addr, (R.SF_STAT.STATE.i d).addr] ++ regAll R.DCT_TRACE.STAMP 512 ++ regAll R.DCT_TRACE2.KIND 512) u t ∧ t = { u with regs := t.regs, log := t.log, out := t.out, blt := t.blt, dct := t.dct, serifs := t.serifs }) ∧
    (∀ (s : State) (dt : Nat) (u : State) (d n : Nat),
      u = s.after dt → (Instr.ret dt d n).WellFormed →
      Yields (.ret dt d n) s fun t =>
        OnlyWords ([R.DCT_FLAGS.PAST_OVF.addr, R.DCT_TRACE_PTR.WRAPPED.addr, (R.SF_CNT.LATE_CNT.i d).addr, (R.SF_FLAGS.FLT_OVF.i d).addr, (R.SF_FLT.CAUSE.i d).addr, (R.SF_STAT.STATE.i d).addr] ++ regAll R.DCT_TRACE.STAMP 512 ++ regAll R.DCT_TRACE2.KIND 512) u t ∧ t = { u with regs := t.regs, log := t.log, out := t.out, blt := t.blt, dct := t.dct, serifs := t.serifs }) ∧
    (∀ (s : State) (dt : Nat) (u : State) (d immf rotf cnt last : Nat),
      u = s.after dt → (Instr.loop dt d immf rotf cnt last).WellFormed →
      Yields (.loop dt d immf rotf cnt last) s fun t =>
        OnlyWords ([R.DCT_FLAGS.PAST_OVF.addr, R.DCT_TRACE_PTR.WRAPPED.addr, (R.SF_CNT.LATE_CNT.i d).addr, (R.SF_FLAGS.FLT_OVF.i d).addr, (R.SF_FLT.CAUSE.i d).addr, (R.SF_STAT.STATE.i d).addr] ++ regAll R.DCT_TRACE.STAMP 512 ++ regAll R.DCT_TRACE2.KIND 512) u t ∧ t = { u with regs := t.regs, log := t.log, out := t.out, blt := t.blt, dct := t.dct, serifs := t.serifs }) ∧
    (∀ (s : State) (dt : Nat) (u : State) (d n : Nat),
      u = s.after dt → (Instr.lpop dt d n).WellFormed →
      Yields (.lpop dt d n) s fun t =>
        OnlyWords ([R.DCT_FLAGS.PAST_OVF.addr, R.DCT_TRACE_PTR.WRAPPED.addr, (R.SF_CNT.LATE_CNT.i d).addr, (R.SF_FLAGS.FLT_OVF.i d).addr, (R.SF_FLT.CAUSE.i d).addr, (R.SF_STAT.STATE.i d).addr] ++ regAll R.DCT_TRACE.STAMP 512 ++ regAll R.DCT_TRACE2.KIND 512) u t ∧ t = { u with regs := t.regs, log := t.log, out := t.out, blt := t.blt, dct := t.dct, serifs := t.serifs }) ∧
    (∀ (s : State) (dt : Nat) (u : State) (d f sp : Nat),
      u = s.after dt → (Instr.mvd dt d f sp).WellFormed →
      Yields (.mvd dt d f sp) s fun t =>
        OnlyWords ([R.DCT_FLAGS.PAST_OVF.addr, R.DCT_TRACE_PTR.WRAPPED.addr, (R.SF_CNT.LATE_CNT.i d).addr, (R.SF_FLAGS.FLT_OVF.i d).addr, (R.SF_FLT.CAUSE.i d).addr, (R.SF_STAT.STATE.i d).addr] ++ regAll R.DCT_TRACE.STAMP 512 ++ regAll R.DCT_TRACE2.KIND 512) u t ∧ t = { u with regs := t.regs, log := t.log, out := t.out, blt := t.blt, dct := t.dct, serifs := t.serifs }) ∧
    (∀ (s : State) (dt : Nat) (u : State) (d ax ay imm : Nat),
      u = s.after dt → (Instr.ada dt d ax ay imm).WellFormed →
      Yields (.ada dt d ax ay imm) s fun t =>
        OnlyWords ([R.DCT_FLAGS.PAST_OVF.addr, R.DCT_TRACE_PTR.WRAPPED.addr, (R.SF_CNT.LATE_CNT.i d).addr, (R.SF_FLAGS.FLT_OVF.i d).addr, (R.SF_FLT.CAUSE.i d).addr, (R.SF_STAT.STATE.i d).addr] ++ regAll R.DCT_TRACE.STAMP 512 ++ regAll R.DCT_TRACE2.KIND 512) u t ∧ t = { u with regs := t.regs, log := t.log, out := t.out, blt := t.blt, dct := t.dct, serifs := t.serifs }) ∧
    (∀ (s : State) (dt : Nat) (u : State) (d fd fa fb fc : Nat),
      u = s.after dt → (Instr.mvaf dt d fd fa fb fc).WellFormed →
      Yields (.mvaf dt d fd fa fb fc) s fun t =>
        OnlyWords ([R.DCT_FLAGS.PAST_OVF.addr, R.DCT_TRACE_PTR.WRAPPED.addr, (R.SF_CNT.LATE_CNT.i d).addr, (R.SF_FLAGS.FLT_OVF.i d).addr, (R.SF_FLT.CAUSE.i d).addr, (R.SF_STAT.STATE.i d).addr] ++ regAll R.DCT_TRACE.STAMP 512 ++ regAll R.DCT_TRACE2.KIND 512) u t ∧ t = { u with regs := t.regs, log := t.log, out := t.out, blt := t.blt, dct := t.dct, serifs := t.serifs }) ∧
    (∀ (s : State) (dt : Nat) (u : State) (d fd fa fb fc : Nat),
      u = s.after dt → (Instr.mvfa dt d fd fa fb fc).WellFormed →
      Yields (.mvfa dt d fd fa fb fc) s fun t =>
        OnlyWords ([R.DCT_FLAGS.PAST_OVF.addr, R.DCT_TRACE_PTR.WRAPPED.addr, (R.SF_CNT.LATE_CNT.i d).addr, (R.SF_FLAGS.FLT_OVF.i d).addr, (R.SF_FLT.CAUSE.i d).addr, (R.SF_STAT.STATE.i d).addr] ++ regAll R.DCT_TRACE.STAMP 512 ++ regAll R.DCT_TRACE2.KIND 512) u t ∧ t = { u with regs := t.regs, log := t.log, out := t.out, blt := t.blt, dct := t.dct, serifs := t.serifs }) ∧
    (∀ (s : State) (dt : Nat) (u : State) (d fd fa fb fc : Nat),
      u = s.after dt → (Instr.fadd dt d fd fa fb fc).WellFormed →
      Yields (.fadd dt d fd fa fb fc) s fun t =>
        OnlyWords ([R.DCT_FLAGS.PAST_OVF.addr, R.DCT_TRACE_PTR.WRAPPED.addr, (R.SF_CNT.LATE_CNT.i d).addr, (R.SF_FLAGS.FLT_OVF.i d).addr, (R.SF_FLT.CAUSE.i d).addr, (R.SF_STAT.STATE.i d).addr] ++ regAll R.DCT_TRACE.STAMP 512 ++ regAll R.DCT_TRACE2.KIND 512) u t ∧ t = { u with regs := t.regs, log := t.log, out := t.out, blt := t.blt, dct := t.dct, serifs := t.serifs }) ∧
    (∀ (s : State) (dt : Nat) (u : State) (d fd fa fb fc : Nat),
      u = s.after dt → (Instr.fsub dt d fd fa fb fc).WellFormed →
      Yields (.fsub dt d fd fa fb fc) s fun t =>
        OnlyWords ([R.DCT_FLAGS.PAST_OVF.addr, R.DCT_TRACE_PTR.WRAPPED.addr, (R.SF_CNT.LATE_CNT.i d).addr, (R.SF_FLAGS.FLT_OVF.i d).addr, (R.SF_FLT.CAUSE.i d).addr, (R.SF_STAT.STATE.i d).addr] ++ regAll R.DCT_TRACE.STAMP 512 ++ regAll R.DCT_TRACE2.KIND 512) u t ∧ t = { u with regs := t.regs, log := t.log, out := t.out, blt := t.blt, dct := t.dct, serifs := t.serifs }) ∧
    (∀ (s : State) (dt : Nat) (u : State) (d fd fa fb fc : Nat),
      u = s.after dt → (Instr.fmul dt d fd fa fb fc).WellFormed →
      Yields (.fmul dt d fd fa fb fc) s fun t =>
        OnlyWords ([R.DCT_FLAGS.PAST_OVF.addr, R.DCT_TRACE_PTR.WRAPPED.addr, (R.SF_CNT.LATE_CNT.i d).addr, (R.SF_FLAGS.FLT_OVF.i d).addr, (R.SF_FLT.CAUSE.i d).addr, (R.SF_STAT.STATE.i d).addr] ++ regAll R.DCT_TRACE.STAMP 512 ++ regAll R.DCT_TRACE2.KIND 512) u t ∧ t = { u with regs := t.regs, log := t.log, out := t.out, blt := t.blt, dct := t.dct, serifs := t.serifs }) ∧
    (∀ (s : State) (dt : Nat) (u : State) (d fd fa fb fc : Nat),
      u = s.after dt → (Instr.fma dt d fd fa fb fc).WellFormed →
      Yields (.fma dt d fd fa fb fc) s fun t =>
        OnlyWords ([R.DCT_FLAGS.PAST_OVF.addr, R.DCT_TRACE_PTR.WRAPPED.addr, (R.SF_CNT.LATE_CNT.i d).addr, (R.SF_FLAGS.FLT_OVF.i d).addr, (R.SF_FLT.CAUSE.i d).addr, (R.SF_STAT.STATE.i d).addr] ++ regAll R.DCT_TRACE.STAMP 512 ++ regAll R.DCT_TRACE2.KIND 512) u t ∧ t = { u with regs := t.regs, log := t.log, out := t.out, blt := t.blt, dct := t.dct, serifs := t.serifs }) ∧
    (∀ (s : State) (dt : Nat) (u : State) (d fd fa fb fc : Nat),
      u = s.after dt → (Instr.mac dt d fd fa fb fc).WellFormed →
      Yields (.mac dt d fd fa fb fc) s fun t =>
        OnlyWords ([R.DCT_FLAGS.PAST_OVF.addr, R.DCT_TRACE_PTR.WRAPPED.addr, (R.SF_CNT.LATE_CNT.i d).addr, (R.SF_FLAGS.FLT_OVF.i d).addr, (R.SF_FLT.CAUSE.i d).addr, (R.SF_STAT.STATE.i d).addr] ++ regAll R.DCT_TRACE.STAMP 512 ++ regAll R.DCT_TRACE2.KIND 512) u t ∧ t = { u with regs := t.regs, log := t.log, out := t.out, blt := t.blt, dct := t.dct, serifs := t.serifs }) ∧
    (∀ (s : State) (dt : Nat) (u : State) (d fd fa fb fc : Nat),
      u = s.after dt → (Instr.msub dt d fd fa fb fc).WellFormed →
      Yields (.msub dt d fd fa fb fc) s fun t =>
        OnlyWords ([R.DCT_FLAGS.PAST_OVF.addr, R.DCT_TRACE_PTR.WRAPPED.addr, (R.SF_CNT.LATE_CNT.i d).addr, (R.SF_FLAGS.FLT_OVF.i d).addr, (R.SF_FLT.CAUSE.i d).addr, (R.SF_STAT.STATE.i d).addr] ++ regAll R.DCT_TRACE.STAMP 512 ++ regAll R.DCT_TRACE2.KIND 512) u t ∧ t = { u with regs := t.regs, log := t.log, out := t.out, blt := t.blt, dct := t.dct, serifs := t.serifs }) ∧
    (∀ (s : State) (dt : Nat) (u : State) (d fd fa fb fc : Nat),
      u = s.after dt → (Instr.fmin dt d fd fa fb fc).WellFormed →
      Yields (.fmin dt d fd fa fb fc) s fun t =>
        OnlyWords ([R.DCT_FLAGS.PAST_OVF.addr, R.DCT_TRACE_PTR.WRAPPED.addr, (R.SF_CNT.LATE_CNT.i d).addr, (R.SF_FLAGS.FLT_OVF.i d).addr, (R.SF_FLT.CAUSE.i d).addr, (R.SF_STAT.STATE.i d).addr] ++ regAll R.DCT_TRACE.STAMP 512 ++ regAll R.DCT_TRACE2.KIND 512) u t ∧ t = { u with regs := t.regs, log := t.log, out := t.out, blt := t.blt, dct := t.dct, serifs := t.serifs }) ∧
    (∀ (s : State) (dt : Nat) (u : State) (d fd fa fb fc : Nat),
      u = s.after dt → (Instr.fmax dt d fd fa fb fc).WellFormed →
      Yields (.fmax dt d fd fa fb fc) s fun t =>
        OnlyWords ([R.DCT_FLAGS.PAST_OVF.addr, R.DCT_TRACE_PTR.WRAPPED.addr, (R.SF_CNT.LATE_CNT.i d).addr, (R.SF_FLAGS.FLT_OVF.i d).addr, (R.SF_FLT.CAUSE.i d).addr, (R.SF_STAT.STATE.i d).addr] ++ regAll R.DCT_TRACE.STAMP 512 ++ regAll R.DCT_TRACE2.KIND 512) u t ∧ t = { u with regs := t.regs, log := t.log, out := t.out, blt := t.blt, dct := t.dct, serifs := t.serifs }) ∧
    (∀ (s : State) (dt : Nat) (u : State) (d fd fa fb fc : Nat),
      u = s.after dt → (Instr.fabs dt d fd fa fb fc).WellFormed →
      Yields (.fabs dt d fd fa fb fc) s fun t =>
        OnlyWords ([R.DCT_FLAGS.PAST_OVF.addr, R.DCT_TRACE_PTR.WRAPPED.addr, (R.SF_CNT.LATE_CNT.i d).addr, (R.SF_FLAGS.FLT_OVF.i d).addr, (R.SF_FLT.CAUSE.i d).addr, (R.SF_STAT.STATE.i d).addr] ++ regAll R.DCT_TRACE.STAMP 512 ++ regAll R.DCT_TRACE2.KIND 512) u t ∧ t = { u with regs := t.regs, log := t.log, out := t.out, blt := t.blt, dct := t.dct, serifs := t.serifs }) ∧
    (∀ (s : State) (dt : Nat) (u : State) (d fd fa fb fc : Nat),
      u = s.after dt → (Instr.fneg dt d fd fa fb fc).WellFormed →
      Yields (.fneg dt d fd fa fb fc) s fun t =>
        OnlyWords ([R.DCT_FLAGS.PAST_OVF.addr, R.DCT_TRACE_PTR.WRAPPED.addr, (R.SF_CNT.LATE_CNT.i d).addr, (R.SF_FLAGS.FLT_OVF.i d).addr, (R.SF_FLT.CAUSE.i d).addr, (R.SF_STAT.STATE.i d).addr] ++ regAll R.DCT_TRACE.STAMP 512 ++ regAll R.DCT_TRACE2.KIND 512) u t ∧ t = { u with regs := t.regs, log := t.log, out := t.out, blt := t.blt, dct := t.dct, serifs := t.serifs }) ∧
    (∀ (s : State) (dt : Nat) (u : State) (d fd fa fb fc : Nat),
      u = s.after dt → (Instr.fcmp dt d fd fa fb fc).WellFormed →
      Yields (.fcmp dt d fd fa fb fc) s fun t =>
        OnlyWords ([R.DCT_FLAGS.PAST_OVF.addr, R.DCT_TRACE_PTR.WRAPPED.addr, (R.SF_CNT.LATE_CNT.i d).addr, (R.SF_FLAGS.FLT_OVF.i d).addr, (R.SF_FLT.CAUSE.i d).addr, (R.SF_STAT.STATE.i d).addr] ++ regAll R.DCT_TRACE.STAMP 512 ++ regAll R.DCT_TRACE2.KIND 512) u t ∧ t = { u with regs := t.regs, log := t.log, out := t.out, blt := t.blt, dct := t.dct, serifs := t.serifs }) ∧
    (∀ (s : State) (dt : Nat) (u : State) (d fd fa fb fc : Nat),
      u = s.after dt → (Instr.clamp dt d fd fa fb fc).WellFormed →
      Yields (.clamp dt d fd fa fb fc) s fun t =>
        OnlyWords ([R.DCT_FLAGS.PAST_OVF.addr, R.DCT_TRACE_PTR.WRAPPED.addr, (R.SF_CNT.LATE_CNT.i d).addr, (R.SF_FLAGS.FLT_OVF.i d).addr, (R.SF_FLT.CAUSE.i d).addr, (R.SF_STAT.STATE.i d).addr] ++ regAll R.DCT_TRACE.STAMP 512 ++ regAll R.DCT_TRACE2.KIND 512) u t ∧ t = { u with regs := t.regs, log := t.log, out := t.out, blt := t.blt, dct := t.dct, serifs := t.serifs }) ∧
    (∀ (s : State) (dt : Nat) (u : State) (d fd fa fb fc : Nat),
      u = s.after dt → (Instr.rcp dt d fd fa fb fc).WellFormed →
      Yields (.rcp dt d fd fa fb fc) s fun t =>
        OnlyWords ([R.DCT_FLAGS.PAST_OVF.addr, R.DCT_TRACE_PTR.WRAPPED.addr, (R.SF_CNT.LATE_CNT.i d).addr, (R.SF_FLAGS.FLT_OVF.i d).addr, (R.SF_FLT.CAUSE.i d).addr, (R.SF_STAT.STATE.i d).addr] ++ regAll R.DCT_TRACE.STAMP 512 ++ regAll R.DCT_TRACE2.KIND 512) u t ∧ t = { u with regs := t.regs, log := t.log, out := t.out, blt := t.blt, dct := t.dct, serifs := t.serifs }) ∧
    (∀ (s : State) (dt : Nat) (u : State) (d fd fa fb fc : Nat),
      u = s.after dt → (Instr.rsq dt d fd fa fb fc).WellFormed →
      Yields (.rsq dt d fd fa fb fc) s fun t =>
        OnlyWords ([R.DCT_FLAGS.PAST_OVF.addr, R.DCT_TRACE_PTR.WRAPPED.addr, (R.SF_CNT.LATE_CNT.i d).addr, (R.SF_FLAGS.FLT_OVF.i d).addr, (R.SF_FLT.CAUSE.i d).addr, (R.SF_STAT.STATE.i d).addr] ++ regAll R.DCT_TRACE.STAMP 512 ++ regAll R.DCT_TRACE2.KIND 512) u t ∧ t = { u with regs := t.regs, log := t.log, out := t.out, blt := t.blt, dct := t.dct, serifs := t.serifs }) ∧
    (∀ (s : State) (dt : Nat) (u : State) (d fd fa fb fc : Nat),
      u = s.after dt → (Instr.itof dt d fd fa fb fc).WellFormed →
      Yields (.itof dt d fd fa fb fc) s fun t =>
        OnlyWords ([R.DCT_FLAGS.PAST_OVF.addr, R.DCT_TRACE_PTR.WRAPPED.addr, (R.SF_CNT.LATE_CNT.i d).addr, (R.SF_FLAGS.FLT_OVF.i d).addr, (R.SF_FLT.CAUSE.i d).addr, (R.SF_STAT.STATE.i d).addr] ++ regAll R.DCT_TRACE.STAMP 512 ++ regAll R.DCT_TRACE2.KIND 512) u t ∧ t = { u with regs := t.regs, log := t.log, out := t.out, blt := t.blt, dct := t.dct, serifs := t.serifs }) ∧
    (∀ (s : State) (dt : Nat) (u : State) (d fd fa fb fc : Nat),
      u = s.after dt → (Instr.ftoi dt d fd fa fb fc).WellFormed →
      Yields (.ftoi dt d fd fa fb fc) s fun t =>
        OnlyWords ([R.DCT_FLAGS.PAST_OVF.addr, R.DCT_TRACE_PTR.WRAPPED.addr, (R.SF_CNT.LATE_CNT.i d).addr, (R.SF_FLAGS.FLT_OVF.i d).addr, (R.SF_FLT.CAUSE.i d).addr, (R.SF_STAT.STATE.i d).addr] ++ regAll R.DCT_TRACE.STAMP 512 ++ regAll R.DCT_TRACE2.KIND 512) u t ∧ t = { u with regs := t.regs, log := t.log, out := t.out, blt := t.blt, dct := t.dct, serifs := t.serifs }) ∧
    (∀ (s : State) (dt : Nat) (u : State) (d f a pm imm : Nat),
      u = s.after dt → (Instr.ld dt d f a pm imm).WellFormed →
      Yields (.ld dt d f a pm imm) s fun t =>
        OnlyWords ([R.DCT_FLAGS.PAST_OVF.addr, R.DCT_TRACE_PTR.WRAPPED.addr, (R.SF_CNT.LATE_CNT.i d).addr, (R.SF_FLAGS.FLT_OVF.i d).addr, (R.SF_FLT.CAUSE.i d).addr, (R.SF_STAT.STATE.i d).addr] ++ regAll R.DCT_TRACE.STAMP 512 ++ regAll R.DCT_TRACE2.KIND 512) u t ∧ t = { u with regs := t.regs, log := t.log, out := t.out, blt := t.blt, dct := t.dct, serifs := t.serifs }) ∧
    (∀ (s : State) (dt : Nat) (u : State) (d f a pm imm : Nat),
      u = s.after dt → (Instr.st dt d f a pm imm).WellFormed →
      Yields (.st dt d f a pm imm) s fun t =>
        OnlyWords ([R.DCT_FLAGS.PAST_OVF.addr, R.DCT_TRACE_PTR.WRAPPED.addr, (R.SF_CNT.LATE_CNT.i d).addr, (R.SF_FLAGS.FLT_OVF.i d).addr, (R.SF_FLT.CAUSE.i d).addr, (R.SF_STAT.STATE.i d).addr] ++ regAll R.DCT_TRACE.STAMP 512 ++ regAll R.DCT_TRACE2.KIND 512) u t ∧ t = { u with regs := t.regs, log := t.log, out := t.out, blt := t.blt, dct := t.dct, mem := t.mem, serifs := t.serifs }) ∧
    (∀ (s : State) (dt : Nat) (u : State) (d f imm : Nat),
      u = s.after dt → (Instr.ldi dt d f imm).WellFormed →
      Yields (.ldi dt d f imm) s fun t =>
        OnlyWords ([R.DCT_FLAGS.PAST_OVF.addr, R.DCT_TRACE_PTR.WRAPPED.addr, (R.SF_CNT.LATE_CNT.i d).addr, (R.SF_FLAGS.FLT_OVF.i d).addr, (R.SF_FLT.CAUSE.i d).addr, (R.SF_STAT.STATE.i d).addr] ++ regAll R.DCT_TRACE.STAMP 512 ++ regAll R.DCT_TRACE2.KIND 512) u t ∧ t = { u with regs := t.regs, log := t.log, out := t.out, blt := t.blt, dct := t.dct, serifs := t.serifs }) ∧
    (∀ (s : State) (dt : Nat) (u : State) (d fd fc a : Nat),
      u = s.after dt → (Instr.tapm dt d fd fc a).WellFormed →
      Yields (.tapm dt d fd fc a) s fun t =>
        OnlyWords ([R.DCT_FLAGS.PAST_OVF.addr, R.DCT_TRACE_PTR.WRAPPED.addr, (R.SF_CNT.LATE_CNT.i d).addr, (R.SF_FLAGS.FLT_OVF.i d).addr, (R.SF_FLT.CAUSE.i d).addr, (R.SF_STAT.STATE.i d).addr] ++ regAll R.DCT_TRACE.STAMP 512 ++ regAll R.DCT_TRACE2.KIND 512) u t ∧ t = { u with regs := t.regs, log := t.log, out := t.out, blt := t.blt, dct := t.dct, mem := t.mem, serifs := t.serifs }) ∧
    (∀ (s : State) (dt : Nat) (u : State) (d fd fb ax ay sx sy : Nat),
      u = s.after dt → (Instr.ldst dt d fd fb ax ay sx sy).WellFormed →
      Yields (.ldst dt d fd fb ax ay sx sy) s fun t =>
        OnlyWords ([R.DCT_FLAGS.PAST_OVF.addr, R.DCT_TRACE_PTR.WRAPPED.addr, (R.SF_CNT.LATE_CNT.i d).addr, (R.SF_FLAGS.FLT_OVF.i d).addr, (R.SF_FLT.CAUSE.i d).addr, (R.SF_STAT.STATE.i d).addr] ++ regAll R.DCT_TRACE.STAMP 512 ++ regAll R.DCT_TRACE2.KIND 512) u t ∧ t = { u with regs := t.regs, log := t.log, out := t.out, blt := t.blt, dct := t.dct, mem := t.mem, serifs := t.serifs }) ∧
    (∀ (s : State) (dt : Nat) (u : State) (d : Nat),
      u = s.after dt → (Instr.illegalInstruction dt d).WellFormed →
      Yields (.illegalInstruction dt d) s fun t =>
        OnlyWords ([R.DCT_FLAGS.PAST_OVF.addr, R.DCT_TRACE_PTR.WRAPPED.addr, (R.SF_CNT.LATE_CNT.i d).addr, (R.SF_FLAGS.FLT_OVF.i d).addr, (R.SF_FLT.CAUSE.i d).addr, (R.SF_STAT.STATE.i d).addr] ++ regAll R.DCT_TRACE.STAMP 512 ++ regAll R.DCT_TRACE2.KIND 512) u t ∧ t = { u with regs := t.regs, log := t.log, out := t.out, blt := t.blt, dct := t.dct, serifs := t.serifs }) ∧
    (∀ (s : State) (dt : Nat) (u : State) (d : Nat),
      u = s.after dt → (Instr.interruptEntry dt d).WellFormed →
      Yields (.interruptEntry dt d) s fun t =>
        OnlyWords [(R.SF_STAT.STATE.i d).addr] u t ∧ t = { u with regs := t.regs, log := t.log, out := t.out, serifs := t.serifs }) ∧
    (∀ (s : State) (d : Nat),
      (Instr.releaseWarning d).WellFormed →
      Yields (.releaseWarning d) s fun t =>
        OnlyWords ([(R.SF_FLAGS.FLT_OVF.i d).addr] ++ tickWords) s t ∧ t = { s with regs := t.regs, log := t.log, out := t.out, blt := t.blt, dct := t.dct, serifs := t.serifs, tb := t.tb }) ∧
    (∀ (s : State) (d : Nat),
      (Instr.sfTimerExpire d).WellFormed →
      Yields (.sfTimerExpire d) s fun t =>
        OnlyWords ([(R.SF_FLAGS.FLT_OVF.i d).addr] ++ tickWords) s t ∧ t = { s with regs := t.regs, log := t.log, out := t.out, blt := t.blt, dct := t.dct, serifs := t.serifs, tb := t.tb }) ∧
    (∀ (s : State) (dt : Nat) (u : State) (src : Src) (d value : Nat),
      u = s.after dt → (Instr.sfTimerWrite dt src d value).WellFormed →
      Yields (.sfTimerWrite dt src d value) s fun t =>
        OnlyWords [R.CMT_STAT.ARMED_S.addr, (R.SF_STAT.STATE.i d).addr, (R.SF_TIMER.AT.i d).addr, R.VIOL_INFO.SRC.addr] u t ∧ t = { u with regs := t.regs, log := t.log, out := t.out, blt := t.blt, serifs := t.serifs, twin := t.twin }) ∧
    (∀ (s : State) (dt : Nat) (u : State) (src : Src) (d : Nat),
      u = s.after dt → (Instr.doorbell dt src d).WellFormed →
      Yields (.doorbell dt src d) s fun t =>
        OnlyWords [R.CMT_STAT.ARMED_S.addr, (R.SF_CTRL.RUN.i d).addr, (R.SF_FLAGS.FLT_OVF.i d).addr, (R.SF_STAT.STATE.i d).addr, R.VIOL_INFO.SRC.addr] u t ∧ t = { u with regs := t.regs, log := t.log, out := t.out, blt := t.blt, dct := t.dct, serifs := t.serifs }) ∧
    (∀ (s : State) (dt : Nat) (u : State) (src : Src) (d value : Nat),
      u = s.after dt → (Instr.run dt src d value).WellFormed →
      Yields (.run dt src d value) s fun t =>
        OnlyWords [R.CMT_STAT.ARMED_S.addr, (R.SF_CTRL.RUN.i d).addr, (R.SF_FLAGS.FLT_OVF.i d).addr, (R.SF_STAT.STATE.i d).addr, R.VIOL_INFO.SRC.addr] u t ∧ t = { u with regs := t.regs, log := t.log, out := t.out, blt := t.blt, dct := t.dct, serifs := t.serifs, twin := t.twin }) ∧
    (∀ (s : State) (dt : Nat) (u : State) (d n : Nat),
      u = s.after dt → (Instr.endTask dt d n).WellFormed →
      Yields (.endTask dt d n) s fun t =>
        OnlyWords ([R.DCT_FLAGS.PAST_OVF.addr, R.DCT_TRACE_PTR.WRAPPED.addr, R.PWR_CNT.OVF.addr, R.PWR_SUPV.HOLD_TOP.addr, R.PWR_VID.VOLT_MV.addr, R.SCR_BLQ.OVF.addr, (R.SF_STAT.STATE.i d).addr, (R.SF_TIME.SLACK.i d).addr] ++ regAll R.DCT_FLOW.INFLIGHT 16 ++ regAll R.DCT_TRACE.STAMP 512 ++ regAll R.DCT_TRACE2.KIND 512 ++ regAll R.RES_A.VALUE 2 ++ regAll R.RES_B.VALUE 2 ++ regAll R.RES_LVL.VALUE 2) u t ∧ t = { u with regs := t.regs, log := t.log, out := t.out, blt := t.blt, dct := t.dct, mem := t.mem, pwr := t.pwr, serifs := t.serifs }) ∧
    (∀ (s : State) (d : Nat),
      (Instr.serifRelease d).WellFormed →
      Yields (.serifRelease d) s fun t =>
        OnlyWords ([R.PWR_CNT.OVF.addr, R.PWR_SUPV.HOLD_TOP.addr, R.PWR_VID.VOLT_MV.addr, (R.SF_CNT.LATE_CNT.i d).addr, (R.SF_FLAGS.FLT_OVF.i d).addr, (R.SF_TIME.SLACK.i d).addr] ++ tickWords) s t ∧ t = { s with regs := t.regs, log := t.log, out := t.out, app := t.app, blt := t.blt, dct := t.dct, lanes := t.lanes, mem := t.mem, pwr := t.pwr, serifs := t.serifs, tb := t.tb })

/-- The frame of each command: the register words that may read otherwise (the interrupt status and its pending bits apart), and the parts of the state that may differ; u is the state when the command takes effect, or s where the command is an event of its own tick and time passes first. -/
def Obligations.FramesOfScribeAndTestCommands : Prop :=
  (∀ (s : State) (dt : Nat) (u : State) (src : Src) (value : Nat),
      u = s.after dt → (Instr.unlock dt src value).WellFormed →
      Yields (.unlock dt src value) s fun t =>
        OnlyWords [R.CMT_STAT.ARMED_S.addr, R.VIOL_INFO.SRC.addr] u t ∧ t = { u with regs := t.regs, log := t.log, out := t.out, blt := t.blt, cmt := t.cmt }) ∧
    (∀ (s : State) (src : Src),
      (Instr.unlockExpire src).WellFormed →
      Yields (.unlockExpire src) s fun t =>
        OnlyWords ([R.CMT_STAT.ARMED_S.addr] ++ tickWords) s t ∧ t = { s with regs := t.regs, log := t.log, out := t.out, blt := t.blt, dct := t.dct, serifs := t.serifs, tb := t.tb }) ∧
    (∀ (s : State) (dt : Nat) (u : State) (src : Src) (w value : Nat),
      u = s.after dt → (Instr.indDataWrite dt src w value).WellFormed →
      Yields (.indDataWrite dt src w value) s fun t =>
        OnlyWords [(R.IND_ADDR.ADDR.j w).addr, (R.IND_DATA.DATA.j w).addr, winStat w] u t ∧ t = { u with regs := t.regs, log := t.log, out := t.out, blt := t.blt, wins := t.wins }) ∧
    (∀ (s : State) (dt : Nat) (u : State) (ofs value be : Nat),
      u = s.after dt → (Instr.apertureWrite dt ofs value be).WellFormed →
      Yields (.apertureWrite dt ofs value be) s fun t =>
        OnlyWords [R.CMT_STAT.ARMED_S.addr, winStat 4] u t ∧ t = { u with regs := t.regs, log := t.log, out := t.out, blt := t.blt, wins := t.wins }) ∧
    (∀ (s : State) (dt : Nat) (u : State) (core result : Nat),
      u = s.after dt → (Instr.itemEnd dt core result).WellFormed →
      Yields (.itemEnd dt core result) s fun t =>
        OnlyWords ([R.DCT_FLAGS.PAST_OVF.addr, R.DCT_TRACE_PTR.WRAPPED.addr] ++ regAll R.DCT_TRACE.STAMP 512 ++ regAll R.DCT_TRACE2.KIND 512) u t ∧ t = { u with regs := t.regs, log := t.log, out := t.out, blt := t.blt, dct := t.dct }) ∧
    (∀ (s : State) (dt : Nat) (u : State) (r : Reader),
      u = s.after dt → (Instr.resBRead dt r).WellFormed →
      Yields (.resBRead dt r) s fun t =>
        OnlyWords ([R.CMT_STAT.ARMED_S.addr, R.VIOL_INFO.SRC.addr] ++ regAll R.RES_A.VALUE 2 ++ regAll R.RES_B.VALUE 2 ++ regAll R.RES_LVL.VALUE 2) u t ∧ t = { u with regs := t.regs, log := t.log, out := t.out, blt := t.blt, dct := t.dct }) ∧
    (∀ (s : State) (busy : Nat),
      (Instr.loadWindowEnd busy).WellFormed →
      Yields (.loadWindowEnd busy) s fun t =>
        OnlyWords ([R.SCR_LOAD.PEAK.addr, R.SCR_SHED.SHED_HI.addr, R.SCR_TEST.OVF.addr, R.SPR_STAT.ACTIVE.addr, R.SPR_WEAR.WEAR_MV.addr] ++ tickWords) s t ∧ t = { s with regs := t.regs, log := t.log, out := t.out, blt := t.blt, dct := t.dct, serifs := t.serifs, spr := t.spr, tb := t.tb }) ∧
    (∀ (s : State) (dt : Nat) (u : State) (src : Src) (value : Nat),
      u = s.after dt → (Instr.door dt src value).WellFormed →
      Yields (.door dt src value) s fun t =>
        OnlyWords ([R.CMT_STAT.ARMED_S.addr, R.SCR_MB_CTL.DOOR.addr, R.SCR_MB_STAT.STATUS.addr, R.VIOL_INFO.SRC.addr] ++ regAll R.SCR_MB_RSP.WORD 64) u t ∧ t = { u with regs := t.regs, log := t.log, out := t.out, blt := t.blt, dct := t.dct }) ∧
    (∀ (s : State) (dt : Nat) (u : State) (version : Nat),
      u = s.after dt → (Instr.info dt version).WellFormed →
      Yields (.info dt version) s fun t =>
        OnlyWords ([R.SCR_MB_STAT.STATUS.addr] ++ regAll R.SCR_MB_RSP.WORD 64) u t ∧ t = { u with regs := t.regs, log := t.log, out := t.out, blt := t.blt }) ∧
    (∀ (s : State) (dt : Nat) (u : State),
      u = s.after dt →
      Yields (.flashRead dt) s fun t =>
        OnlyWords ([R.SCR_MB_STAT.STATUS.addr] ++ regAll R.SCR_MB_RSP.WORD 64) u t ∧ t = { u with regs := t.regs, log := t.log, out := t.out, blt := t.blt, free := t.free }) ∧
    (∀ (s : State) (dt : Nat) (u : State),
      u = s.after dt →
      Yields (.flashErase dt) s fun t =>
        OnlyWords ([R.SCR_MB_STAT.STATUS.addr] ++ regAll R.SCR_MB_RSP.WORD 64) u t ∧ t = { u with regs := t.regs, log := t.log, out := t.out, blt := t.blt, free := t.free, mem := t.mem }) ∧
    (∀ (s : State) (dt : Nat) (u : State),
      u = s.after dt →
      Yields (.flashWrite dt) s fun t =>
        OnlyWords ([R.SCR_MB_STAT.STATUS.addr] ++ regAll R.SCR_MB_RSP.WORD 64) u t ∧ t = { u with regs := t.regs, log := t.log, out := t.out, blt := t.blt, free := t.free, mem := t.mem }) ∧
    (∀ (s : State) (dt : Nat) (u : State),
      u = s.after dt →
      Yields (.blotterSync dt) s fun t =>
        OnlyWords ([R.SCR_MB_STAT.STATUS.addr] ++ regAll R.SCR_MB_RSP.WORD 64) u t ∧ t = { u with regs := t.regs, log := t.log, out := t.out, blt := t.blt }) ∧
    (∀ (s : State) (dt : Nat) (u : State),
      u = s.after dt →
      Yields (.mailboxUnknownOp dt) s fun t =>
        OnlyWords ([R.SCR_MB_STAT.STATUS.addr] ++ regAll R.SCR_MB_RSP.WORD 64) u t ∧ t = { u with regs := t.regs, log := t.log, out := t.out, blt := t.blt }) ∧
    (∀ (s : State),
      Yields (.overdueTest) s fun t =>
        OnlyWords ([R.SCR_TEST.OVF.addr, R.SPR_STAT.ACTIVE.addr, R.SPR_WEAR.WEAR_MV.addr] ++ tickWords) s t ∧ t = { s with regs := t.regs, log := t.log, out := t.out, blt := t.blt, dct := t.dct, serifs := t.serifs, spr := t.spr, tb := t.tb }) ∧
    (∀ (s : State) (dt : Nat) (u : State) (src : Src),
      u = s.after dt → (Instr.kick dt src).WellFormed →
      Yields (.kick dt src) s fun t =>
        OnlyWords [R.CMT_STAT.ARMED_S.addr, R.VIOL_INFO.SRC.addr] u t ∧ t = { u with regs := t.regs, log := t.log, out := t.out, blt := t.blt, dct := t.dct }) ∧
    (∀ (s : State) (dt : Nat) (u : State) (digestOk : Bool),
      u = s.after dt → (Instr.restartComplete dt digestOk).WellFormed →
      Yields (.restartComplete dt digestOk) s fun t =>
        OnlyWords [R.SCR_RST.OVF.addr, R.SCR_TEST.OVF.addr, R.SPR_STAT.ACTIVE.addr, R.SPR_WEAR.WEAR_MV.addr] u t ∧ t = { u with regs := t.regs, log := t.log, out := t.out, dct := t.dct, spr := t.spr }) ∧
    (∀ (s : State) (dt : Nat) (u : State) (verified : Bool),
      u = s.after dt → (Instr.blotterCommit dt verified).WellFormed →
      Yields (.blotterCommit dt verified) s fun t =>
        OnlyWords [R.BLT_CNT.TORN_OVF.addr, R.BLT_HEAD.SEQ.addr, R.BLT_STAT.READY.addr, R.SCR_BLQ.OVF.addr, R.SPR_STAT.ACTIVE.addr] u t ∧ t = { u with regs := t.regs, log := t.log, out := t.out, blt := t.blt, spr := t.spr }) ∧
    (∀ (s : State) (dt : Nat) (u : State) (verified : Bool),
      u = s.after dt → (Instr.blockEraseComplete dt verified).WellFormed →
      Yields (.blockEraseComplete dt verified) s fun t =>
        OnlyWords [R.BLT_CNT.TORN_OVF.addr, R.BLT_STAT.READY.addr, R.SPR_STAT.ACTIVE.addr] u t ∧ t = { u with regs := t.regs, log := t.log, out := t.out, blt := t.blt, spr := t.spr }) ∧
    (∀ (s : State) (dt : Nat) (u : State) (unit wear : Nat),
      u = s.after dt → (Instr.scheduledTest dt unit wear).WellFormed →
      Yields (.scheduledTest dt unit wear) s fun t =>
        OnlyWords [R.SCR_TEST.OVF.addr, R.SPR_STAT.ACTIVE.addr, R.SPR_WEAR.WEAR_MV.addr] u t ∧ t = { u with regs := t.regs, log := t.log, out := t.out, blt := t.blt, dct := t.dct, spr := t.spr }) ∧
    (∀ (s : State) (meanTj : Rat),
      (Instr.hoursJournal meanTj).WellFormed →
      Yields (.hoursJournal meanTj) s fun t =>
        OnlyWords ([R.SPR_AGE.VALUE.addr, R.SPR_HOURS.VALUE.addr] ++ tickWords) s t ∧ t = { s with regs := t.regs, log := t.log, out := t.out, blt := t.blt, dct := t.dct, serifs := t.serifs, spr := t.spr, tb := t.tb }) ∧
    (∀ (s : State),
      Yields (.delayTick) s fun t =>
        OnlyWords tickWords s t ∧ t = { s with regs := t.regs, log := t.log, out := t.out, blt := t.blt, dct := t.dct, serifs := t.serifs, tb := t.tb }) ∧
    (∀ (s : State) (dt : Nat) (u : State) (r : Reader) (w : Nat),
      u = s.after dt → (Instr.indDataRead dt r w).WellFormed →
      Yields (.indDataRead dt r w) s fun t =>
        OnlyWords [(R.IND_ADDR.ADDR.j w).addr, (R.IND_DATA.DATA.j w).addr, winStat w] u t ∧ t = { u with regs := t.regs, log := t.log, out := t.out, blt := t.blt, mem := t.mem, twin := t.twin, wins := t.wins }) ∧
    (∀ (s : State) (dt : Nat) (u : State) (w : Nat),
      u = s.after dt → (Instr.indWritePerform dt w).WellFormed →
      Yields (.indWritePerform dt w) s fun t =>
        OnlyWords [winStat w] u t ∧ t = { u with regs := t.regs, log := t.log, out := t.out, blt := t.blt, mem := t.mem, twin := t.twin, wins := t.wins }) ∧
    (∀ (s : State) (dt : Nat) (u : State) (w : Nat) (reader : Option Src),
      u = s.after dt → (Instr.indTimeout dt w reader).WellFormed →
      Yields (.indTimeout dt w reader) s fun t =>
        OnlyWords [(R.IND_ADDR.ADDR.j w).addr, (R.IND_DATA.DATA.j w).addr, winStat w] u t ∧ t = { u with regs := t.regs, log := t.log, out := t.out, blt := t.blt, mem := t.mem, twin := t.twin, wins := t.wins }) ∧
    (∀ (s : State) (dt : Nat) (u : State) (a : ApRead),
      u = s.after dt → (Instr.apertureRead dt a).WellFormed →
      Yields (.apertureRead dt a) s fun t =>
        OnlyWords [winStat 4] u t ∧ t = { u with regs := t.regs, log := t.log, out := t.out, blt := t.blt, mem := t.mem, twin := t.twin, wins := t.wins }) ∧
    (∀ (s : State) (dt : Nat) (u : State) (src : Src) (value : Nat),
      u = s.after dt → (Instr.cancel dt src value).WellFormed →
      Yields (.cancel dt src value) s fun t =>
        OnlyWords ([R.CMT_STAT.ARMED_S.addr, R.DCT_CANCEL.GO.addr, R.DCT_FLAGS.PAST_OVF.addr, R.DCT_LISTS.READY_S.addr, R.DCT_TRACE_PTR.WRAPPED.addr, R.VIOL_INFO.SRC.addr] ++ regAll R.DCT_TRACE.STAMP 512 ++ regAll R.DCT_TRACE2.KIND 512) u t ∧ t = { u with regs := t.regs, log := t.log, out := t.out, blt := t.blt, dct := t.dct, free := t.free, twin := t.twin }) ∧
    (∀ (s : State) (dt : Nat) (u : State) (src : Src) (value : Nat),
      u = s.after dt → (Instr.obsWrite dt src value).WellFormed →
      Yields (.obsWrite dt src value) s fun t =>
        OnlyWords ([R.CMT_STAT.ARMED_S.addr, R.DCT_CFG.OBS.addr, R.DCT_TRACE_PTR.WRAPPED.addr, R.VIOL_INFO.SRC.addr] ++ regAll R.DCT_STAT.OVF 16 ++ regAll R.DCT_STAT2.MAXWAIT 16) u t ∧ t = { u with regs := t.regs, log := t.log, out := t.out, blt := t.blt, dct := t.dct, twin := t.twin }) ∧
    (∀ (s : State),
      Yields (.watchdogExpire) s fun t =>
        OnlyWords ([R.CMT_STAT.ARMED_S.addr, R.SCR_MB_STAT.STATUS.addr, R.SCR_RST.OVF.addr] ++ tickWords) s t ∧ t = { s with regs := t.regs, log := t.log, out := t.out, blt := t.blt, dct := t.dct, serifs := t.serifs, tb := t.tb }) ∧
    (∀ (s : State) (dt : Nat) (u : State) (mac row : Nat) (corrected : Bool) (owner : SramOwner),
      u = s.after dt → (Instr.sramError dt mac row corrected owner).WellFormed →
      Yields (.sramError dt mac row corrected owner) s fun t =>
        OnlyWords ([R.DCT_FLAGS.PAST_OVF.addr, R.DCT_TRACE_PTR.WRAPPED.addr, R.SPR_CORR.CORR.addr, R.SPR_FLAGS.CORR_OVF.addr, R.SPR_STAT.ACTIVE.addr] ++ regAll R.AX_CNT.LANE_ERR 160 ++ regAll R.AX_FLAGS.ERR_OVF 160 ++ regAll R.DCT_TRACE.STAMP 512 ++ regAll R.DCT_TRACE2.KIND 512 ++ regAll R.RUL_TILE.IN_USE 4 ++ regAll R.SF_CNT.LATE_CNT 4 ++ regAll R.SF_FLAGS.FLT_OVF 4 ++ regAll R.SF_FLT.CAUSE 4 ++ regAll R.SF_STAT.STATE 4) u t ∧ t = { u with regs := t.regs, log := t.log, out := t.out, blt := t.blt, dct := t.dct, free := t.free, lanes := t.lanes, mem := t.mem, rul := t.rul, serifs := t.serifs, spr := t.spr })

end
end

