-- ==== Sys2Proof/Laws/Tab.lean ====
section
/-! SUPPORT. Laws of the sparse tables: a read after a write, and the canonical form is kept. -/

namespace Sys2Proof.Machine

variable {α : Type}

theorem tget_tdel_same (d : α) (t : List (Nat × α)) (k : Nat) : tget d (tdel k t) k = d := by
  induction t with
  | nil => rfl
  | cons p t ih =>
    obtain ⟨a, v⟩ := p
    by_cases h : a = k <;> simp [tdel, tget, h, ih]

theorem tget_tdel_other (d : α) (t : List (Nat × α)) {k j : Nat} (h : j ≠ k) : tget d (tdel k t) j = tget d t j := by
  induction t with
  | nil => rfl
  | cons p t ih =>
    obtain ⟨a, v⟩ := p
    by_cases ha : a = k
    · subst ha; simp [tdel, tget, ih, h.symm]
    · by_cases hj : a = j
      · subst hj; simp [tdel, tget, ha]
      · simp [tdel, tget, ha, hj, ih]

theorem tget_tins_other (d : α) (t : List (Nat × α)) {k j : Nat} (x : α) (h : j ≠ k) : tget d (tins k x t) j = tget d t j := by
  induction t with
  | nil => simp [tins, tget, h.symm]
  | cons p t ih =>
    obtain ⟨a, v⟩ := p
    by_cases ha : k < a
    · simp [tins, tget, ha, h.symm]
    · by_cases hj : a = j
      · subst hj; simp [tins, tget, ha]
      · simp [tins, tget, ha, hj, ih]

/-- Does a table list a key? -/
def thas (k : Nat) : List (Nat × α) → Prop
  | [] => False
  | (a, _) :: t => a = k ∨ thas k t

theorem not_thas_tdel (k : Nat) (t : List (Nat × α)) : ¬ thas k (tdel k t) := by
  induction t with
  | nil => simp [tdel, thas]
  | cons p t ih =>
    obtain ⟨a, v⟩ := p
    by_cases h : a = k <;> simp [tdel, thas, h, ih]

theorem tget_tins_same (d : α) (t : List (Nat × α)) (k : Nat) (x : α) (h : ¬ thas k t) : tget d (tins k x t) k = x := by
  induction t with
  | nil => simp [tins, tget]
  | cons p t ih =>
    obtain ⟨a, v⟩ := p
    simp only [thas, not_or] at h
    by_cases ha : k < a <;> simp [tins, tget, ha, h.1, ih h.2]

/-- Every key of a table is above a bound. -/
def tAbove (b : Nat) : List (Nat × α) → Prop
  | [] => True
  | (a, _) :: t => b < a ∧ tAbove b t

theorem tAbove_mono {b c : Nat} (h : b ≤ c) : ∀ {t : List (Nat × α)}, tAbove c t → tAbove b t
  | [], _ => trivial
  | _ :: _, ⟨h1, h2⟩ => ⟨by omega, tAbove_mono h h2⟩

theorem tAbove_tdel {b : Nat} (k : Nat) : ∀ {t : List (Nat × α)}, tAbove b t → tAbove b (tdel k t)
  | [], _ => trivial
  | (a, v) :: t, ⟨h1, h2⟩ => by
    by_cases h : a = k
    · simpa [tdel, h] using tAbove_tdel k h2
    · simpa [tdel, h, tAbove] using ⟨h1, tAbove_tdel k h2⟩

theorem tAbove_tins {b k : Nat} (x : α) (hk : b < k) : ∀ {t : List (Nat × α)}, tAbove b t → tAbove b (tins k x t)
  | [], _ => ⟨hk, trivial⟩
  | (a, v) :: t, ⟨h1, h2⟩ => by
    by_cases h : k < a
    · simpa [tins, h, tAbove] using ⟨hk, h1, h2⟩
    · simpa [tins, h, tAbove] using ⟨h1, tAbove_tins x hk h2⟩

variable [DecidableEq α]

/-- A read after a write at the same key gives the value written. -/
@[simp] theorem tget_tput_same (d : α) (t : List (Nat × α)) (k : Nat) (x : α) : tget d (tput d t k x) k = x := by
  unfold tput
  split
  · next h => rw [tget_tdel_same, h]
  · exact tget_tins_same d _ k x (not_thas_tdel k t)

/-- A write leaves every other key alone. -/
theorem tget_tput_other (d d' : α) (t : List (Nat × α)) {k j : Nat} (x : α) (h : j ≠ k) :
    tget d' (tput d t k x) j = tget d' t j := by
  unfold tput
  split
  · exact tget_tdel_other d' t h
  · rw [tget_tins_other d' _ x h, tget_tdel_other d' t h]

/-- The canonical form by its head: the entry is no default, every later key is greater, and the rest is canonical. -/
theorem twf_cons (d : Nat → α) (a : Nat) (v : α) (t : List (Nat × α)) :
    twf d ((a, v) :: t) = true ↔ v ≠ d a ∧ tAbove a t ∧ twf d t = true := by
  induction t generalizing a v with
  | nil => simp [twf, tAbove]
  | cons p t ih =>
    obtain ⟨b, w⟩ := p
    have := ih b w
    simp only [twf, Bool.and_eq_true, decide_eq_true_eq, tAbove]
    constructor
    · rintro ⟨⟨h1, h2⟩, h3⟩
      exact ⟨h1, ⟨h2, tAbove_mono (by omega) (this.mp h3).2.1⟩, h3⟩
    · rintro ⟨h1, ⟨h2, _⟩, h3⟩
      exact ⟨⟨h1, h2⟩, h3⟩

theorem twf_tdel (d : Nat → α) (k : Nat) (t : List (Nat × α)) (h : twf d t = true) : twf d (tdel k t) = true := by
  induction t with
  | nil => rfl
  | cons p t ih =>
    obtain ⟨a, v⟩ := p
    obtain ⟨h1, h2, h3⟩ := (twf_cons d a v t).mp h
    by_cases ha : a = k
    · simpa [tdel, ha] using ih h3
    · simpa [tdel, ha] using (twf_cons d a v _).mpr ⟨h1, tAbove_tdel k h2, ih h3⟩

theorem twf_tins (d : Nat → α) (k : Nat) (x : α) (t : List (Nat × α)) (hx : x ≠ d k) (hk : ¬ thas k t) (h : twf d t = true) :
    twf d (tins k x t) = true := by
  induction t with
  | nil => simpa [tins, twf] using hx
  | cons p t ih =>
    obtain ⟨a, v⟩ := p
    obtain ⟨h1, h2, h3⟩ := (twf_cons d a v t).mp h
    simp only [thas, not_or] at hk
    by_cases ha : k < a
    · have : twf d ((k, x) :: (a, v) :: t) = true :=
        (twf_cons d k x _).mpr ⟨hx, ⟨ha, tAbove_mono (by omega) h2⟩, h⟩
      simpa [tins, ha] using this
    · have hlt : a < k := by omega
      simpa [tins, ha] using (twf_cons d a v _).mpr ⟨h1, tAbove_tins x hlt h2, ih hk.2 h3⟩

/-- A write at a key, with what that key reads as unlisted, keeps the canonical form. -/
theorem twf_tput (d : Nat → α) (t : List (Nat × α)) (k : Nat) (x : α) (h : twf d t = true) :
    twf d (tput (d k) t k x) = true := by
  unfold tput
  split
  · exact twf_tdel d k t h
  · next hx => exact twf_tins d k x _ hx (not_thas_tdel k t) (twf_tdel d k t h)

/-- Leaving entries out keeps the canonical form. -/
theorem twf_filter (d : Nat → α) (p : Nat × α → Bool) (t : List (Nat × α)) (h : twf d t = true) :
    twf d (t.filter p) = true := by
  have above : ∀ {b : Nat} {t : List (Nat × α)}, tAbove b t → tAbove b (t.filter p) := by
    intro b t ht
    induction t with
    | nil => trivial
    | cons q t ih =>
      obtain ⟨a, v⟩ := q
      by_cases hq : p (a, v) = true
      · simpa [List.filter, hq, tAbove] using ⟨ht.1, ih ht.2⟩
      · simpa [List.filter, hq] using ih ht.2
  induction t with
  | nil => rfl
  | cons q t ih =>
    obtain ⟨a, v⟩ := q
    obtain ⟨h1, h2, h3⟩ := (twf_cons d a v t).mp h
    by_cases hq : p (a, v) = true
    · simpa [List.filter, hq] using (twf_cons d a v _).mpr ⟨h1, above h2, ih h3⟩
    · simpa [List.filter, hq] using ih h3

end Sys2Proof.Machine
end

