-- ==== Sys2Proof/Laws/Keeps.lean ====
section
/-! SUPPORT. What every operation keeps: the canonical form of registers and memory, the queue, and the fuses. This file holds the relation and how it passes through conditionals and loops; the files that import it hold one lemma per operation. -/

namespace Sys2Proof.Machine

/-- From s0 to s the canonical form is kept, and the queue and the fuses are unchanged; where w does not allow memory to be written, neither is memory. -/
def Keeps (w : Bool) (s0 s : State) : Prop :=
  (s0.Canonical → s.Canonical) ∧ s.pending = s0.pending ∧ s.dev.fuses = s0.dev.fuses ∧ (w = false → s.mem = s0.mem)

variable {w : Bool}

theorem Keeps.refl (s : State) : Keeps w s s := ⟨id, rfl, rfl, fun _ => rfl⟩

theorem Keeps.trans {a b c : State} (h : Keeps w a b) (k : Keeps w b c) : Keeps w a c :=
  ⟨fun x => k.1 (h.1 x), k.2.1.trans h.2.1, k.2.2.1.trans h.2.2.1, fun e => (k.2.2.2 e).trans (h.2.2.2 e)⟩

/-- A local state may be taken as any state with the property. -/
theorem Keeps.cut {P : Prop} {s0 x : State} (hx : Keeps w s0 x) (k : Keeps w s0 x → P) : P := k hx

/-- A state literal that keeps the four parts of a state. -/
theorem Keeps.lit {s0 s u : State} {regs' : List (Nat × Nat)} {mem' : List Host.Cell} {log' : TickLog} {tb' : TimeBase} {dev' : Dev} {cmt' : Cmt} {wins' : List (Nat × Window)} {dct' : Ductus} {serifs' : List (Nat × Serif)} {dispIn' : Nat} {blt' : Blotter} {spr' : Spares} {pwr' : Power} {bus' : Bus} {gens' : List (Nat × Gen)} {queues' : List (Nat × Queue)} {modeIn' : Nat} {idxN' : List (Nat × Nat)} {rul' : Ruling} {mgn' : Mgn} {lanes' : List (Nat × Lane)} {ink' : Inkwell} {delta' : List (Nat × Int)} {fbs' : List (Nat × Fb)} {pbs' : List (Nat × Pb)} {sds' : List (Nat × Sd)} {app' : List (Nat × AppBuf)} {chans' : List (Nat × Chan)} {ring' : RingDev} {twin' : Twin} {free' : Nat} {out' : List Output} {pending' : List Instr}
    (h1 : regs' = s.regs) (h2 : mem' = s.mem) (h3 : pending' = s.pending) (h4 : dev'.fuses = u.dev.fuses) (h : Keeps w s0 s) (k : Keeps w s0 u) :
    Keeps w s0 (State.mk regs' mem' log' tb' dev' cmt' wins' dct' serifs' dispIn' blt' spr' pwr' bus' gens' queues' modeIn' idxN' rul' mgn' lanes' ink' delta' fbs' pbs' sds' app' chans' ring' twin' free' out' pending') := by
  refine ⟨fun c => ?_, h3.trans h.2.1, h4.trans k.2.2.1, fun e => h2.trans (h.2.2.2 e)⟩
  have k := h.1 c
  unfold State.Canonical at k ⊢
  rw [← h1, ← h2] at k
  exact k

theorem Keeps.ite {s0 a b : State} {c : Prop} [Decidable c] (ha : Keeps w s0 a) (hb : Keeps w s0 b) :
    Keeps w s0 (if c then a else b) := by
  split <;> assumption

theorem Keeps.forEach {α : Type} {s0 : State} {l : List α} {f : α → State → State}
    (hf : ∀ a s, Keeps w s0 s → Keeps w s0 (f a s)) : ∀ {s}, Keeps w s0 s → Keeps w s0 (forEach l f s) := by
  induction l with
  | nil => intro s h; exact h
  | cons a t ih => intro s h; exact ih (hf a s h)

theorem Keeps.onlyIf {s0 s : State} {b : Bool} {f : State → State}
    (hf : ∀ s, Keeps w s0 s → Keeps w s0 (f s)) (h : Keeps w s0 s) : Keeps w s0 (onlyIf b f s) := by
  unfold Machine.onlyIf
  split
  · exact hf s h
  · exact h

theorem Keeps.foldl {α : Type} {s0 : State} {l : List α} {f : State → α → State}
    (hf : ∀ s a, Keeps w s0 s → Keeps w s0 (f s a)) : ∀ {s}, Keeps w s0 s → Keeps w s0 (l.foldl f s) := by
  induction l with
  | nil => intro s h; exact h
  | cons a t ih => intro s h; exact ih (hf s a h)

/-- The same for the state that comes with an answer. -/
def KeepsP {α : Type} (w : Bool) (s0 : State) (p : State × α) : Prop := Keeps w s0 p.1

theorem KeepsP.mk {α : Type} {s0 s : State} {a : α} (h : Keeps w s0 s) : KeepsP w s0 (s, a) := h

theorem KeepsP.get {α : Type} {s0 t : State} {a : α} {p : State × α} (e : p = (t, a)) (h : KeepsP w s0 p) : Keeps w s0 t := by
  rw [e] at h
  exact h

theorem KeepsP.of {α : Type} {s0 : State} {p : State × α} (h : Keeps w s0 p.1) : KeepsP w s0 p := h

theorem KeepsP.ite {α : Type} {s0 : State} {a b : State × α} {c : Prop} [Decidable c] (ha : KeepsP w s0 a) (hb : KeepsP w s0 b) :
    KeepsP w s0 (if c then a else b) := by
  split <;> assumption

theorem KeepsP.foldl {α β : Type} {s0 : State} {l : List β} {f : State × α → β → State × α}
    (hf : ∀ p b, KeepsP w s0 p → KeepsP w s0 (f p b)) : ∀ {p}, KeepsP w s0 p → KeepsP w s0 (l.foldl f p) := by
  induction l with
  | nil => intro p h; exact h
  | cons a t ih => intro p h; exact ih (hf p a h)

/-- The same for a state that may be there. -/
def KeepsO (w : Bool) (s0 : State) (o : Option State) : Prop := ∀ t, o = some t → Keeps w s0 t

theorem KeepsO.some {s0 s : State} (h : Keeps w s0 s) : KeepsO w s0 (Option.some s) := by
  intro t ht
  cases ht
  exact h

theorem KeepsO.none {s0 : State} : KeepsO w s0 Option.none := by
  intro t ht
  cases ht

theorem KeepsO.get {s0 t : State} {o : Option State} (e : o = Option.some t) (h : KeepsO w s0 o) : Keeps w s0 t := h t e

theorem KeepsO.ite {s0 : State} {a b : Option State} {c : Prop} [Decidable c] (ha : KeepsO w s0 a) (hb : KeepsO w s0 b) :
    KeepsO w s0 (if c then a else b) := by
  split <;> assumption

/-- The same for an outcome: if it is a next state, that state keeps them. -/
def KeepsR (w : Bool) (s0 : State) (r : Res) : Prop := ∀ t, r = .next t → Keeps w s0 t

theorem KeepsR.next {s0 s : State} (h : Keeps w s0 s) : KeepsR w s0 (.next s) := by
  intro t ht
  cases ht
  exact h

theorem KeepsR.ite {s0 : State} {a b : Res} {c : Prop} [Decidable c] (ha : KeepsR w s0 a) (hb : KeepsR w s0 b) :
    KeepsR w s0 (if c then a else b) := by
  split <;> assumption

theorem KeepsR.refused {s0 : State} {r : Refusal} : KeepsR w s0 (.refused r) := by
  intro t ht
  cases ht

theorem KeepsR.needs {s0 s : State} {b : Bool} (h : Keeps w s0 s) : KeepsR w s0 (needs b s) := by
  unfold Machine.needs
  split
  · exact KeepsR.next h
  · intro t ht
    cases ht

/-- A register word written. -/
theorem State.putRaw_keeps {s0 s : State} (a v : Nat) (h : Keeps w s0 s) : Keeps w s0 (s.putRaw a v) := by
  obtain ⟨h1, h2, h3, h4⟩ := h
  refine ⟨fun c => ⟨?_, (h1 c).2⟩, h2, h3, h4⟩
  have k := twf_tput regDef s.regs a v (h1 c).1
  unfold State.putRaw
  exact k

theorem putMem8_mem (s : State) (sp a v : Nat) :
    (s.putMem8 sp a v).mem = tput (cellDef (cellKey sp a)) s.mem (cellKey sp a) (BitVec.ofNat 8 v) := by
  unfold State.putMem8
  rfl

theorem putMem8_rest (s : State) (sp a v : Nat) :
    (s.putMem8 sp a v).regs = s.regs ∧ (s.putMem8 sp a v).pending = s.pending ∧ (s.putMem8 sp a v).dev = s.dev := by
  unfold State.putMem8
  exact ⟨rfl, rfl, rfl⟩

/-- A byte of memory written. -/
theorem State.putMem8_keeps {s0 s : State} (sp a v : Nat) (h : Keeps true s0 s) : Keeps true s0 (s.putMem8 sp a v) := by
  obtain ⟨r1, r2, r3⟩ := putMem8_rest s sp a v
  unfold Keeps State.Canonical Memory.wf
  rw [r1, r2, r3, putMem8_mem]
  exact ⟨fun c => ⟨(h.1 c).1, twf_tput cellDef s.mem _ _ (h.1 c).2⟩, h.2.1, h.2.2.1, fun e => Bool.noConfusion e⟩

/-- Words mapped or dropped keep the canonical form. -/
theorem twf_mapWords (f : Nat → Nat → Option Nat) (l : List (Nat × Nat)) (h : twf regDef l = true) :
    twf regDef (mapWords f l) = true := by
  unfold mapWords
  have above : ∀ {b : Nat} {t : List (Nat × Nat)}, tAbove b t → tAbove b (mapWords f t) := by
    intro b t ht
    unfold mapWords
    induction t with
    | nil => trivial
    | cons q t ih =>
      rw [List.filterMap_cons]
      split
      · exact ih ht.2
      · next y hy =>
        have e : y.1 = q.1 := by
          split at hy
          · cases hy
          · split at hy
            · cases hy
            · cases hy; rfl
        exact ⟨by rw [e]; exact ht.1, ih ht.2⟩
  induction l with
  | nil => rfl
  | cons q t ih =>
    obtain ⟨a, v⟩ := q
    obtain ⟨_, h2, h3⟩ := (twf_cons regDef a v t).mp h
    rw [List.filterMap_cons]
    split
    · exact ih h3
    · next y hy =>
      split at hy
      · cases hy
      · split at hy
        · cases hy
        · next hn => cases hy; exact (twf_cons regDef a _ _).mpr ⟨hn, above h2, ih h3⟩

/-- Every register word mapped. -/
theorem State.mapRegs_keeps {s0 s : State} (f : Nat → Nat → Option Nat) (h : Keeps w s0 s) : Keeps w s0 (s.mapRegs f) :=
  ⟨fun c => ⟨twf_mapWords f s.regs (h.1 c).1, (h.1 c).2⟩, h.2.1, h.2.2⟩

/-- Bytes of memory dropped. -/
theorem State.keepMem_keeps {s0 s : State} (p : Host.Cell → Bool) (h : Keeps true s0 s) : Keeps true s0 (s.keepMem p) :=
  ⟨fun c => ⟨(h.1 c).1, twf_filter cellDef p s.mem (h.1 c).2⟩, h.2.1, h.2.2.1, fun e => Bool.noConfusion e⟩

end Sys2Proof.Machine
end

