-- ==== Sys2Proof/Laws/KeepsFlags.lean ====
section
/-! SUPPORT. Every operation of Machine/Flags.lean keeps the canonical form, the queue and the fuses. -/

set_option linter.unusedVariables false
set_option linter.tactic.unusedName false
set_option linter.unusedTactic false
set_option linter.unreachableTactic false

namespace Sys2Proof.Machine

theorem State.putw_keeps {wm : Bool} {s0 s : State} (a : Nat) (v : Nat) (hk : Keeps wm s0 s) : Keeps wm s0 (State.putw s a v) := by
  unfold State.putw
  repeat' with_reducible first
    | assumption
    | (extract_lets (onlyGivenNames := true) x; try (refine Keeps.cut (w := wm) (s0 := s0) (x := x) ?_ (fun hx => ?_); on_goal 1 => (unfold x; clear x)))
    | apply Keeps.ite | apply State.putRaw_keeps

theorem State.putAct_keeps {wm : Bool} {s0 s : State} (a : Nat) (v : Nat) (hk : Keeps wm s0 s) : Keeps wm s0 (State.putAct s a v) := by
  unfold State.putAct
  repeat' with_reducible first
    | assumption
    | (extract_lets (onlyGivenNames := true) x; try (refine Keeps.cut (w := wm) (s0 := s0) (x := x) ?_ (fun hx => ?_); on_goal 1 => (unfold x; clear x)))
    | apply Keeps.ite | apply State.putRaw_keeps

theorem State.wr_keeps {wm : Bool} {s0 s : State} (f : Fld) (v : Nat) (hk : Keeps wm s0 s) : Keeps wm s0 (State.wr s f v) := by
  unfold State.wr
  repeat' with_reducible first
    | assumption | apply State.putRaw_keeps

theorem State.wrB_keeps {wm : Bool} {s0 s : State} (f : Fld) (b : Bool) (hk : Keeps wm s0 s) : Keeps wm s0 (State.wrB s f b) := by
  unfold State.wrB
  repeat' with_reducible first
    | assumption | apply State.wr_keeps

theorem State.wrS_keeps {wm : Bool} {s0 s : State} (f : Fld) (x : Int) (hk : Keeps wm s0 s) : Keeps wm s0 (State.wrS s f x) := by
  unfold State.wrS
  repeat' with_reducible first
    | assumption
    | (extract_lets (onlyGivenNames := true) x; try (refine Keeps.cut (w := wm) (s0 := s0) (x := x) ?_ (fun hx => ?_); on_goal 1 => (unfold x; clear x)))
    | apply State.wr_keeps

theorem State.wrU_keeps {wm : Bool} {s0 s : State} (f : Fld) (x : Nat) (hk : Keeps wm s0 s) : Keeps wm s0 (State.wrU s f x) := by
  unfold State.wrU
  repeat' with_reducible first
    | assumption | apply State.wr_keeps

theorem State.wrBoth_keeps {wm : Bool} {s0 s : State} (f : Fld) (v : Nat) (hk : Keeps wm s0 s) : Keeps wm s0 (State.wrBoth s f v) := by
  unfold State.wrBoth
  repeat' with_reducible first
    | assumption
    | (extract_lets (onlyGivenNames := true) x; try (refine Keeps.cut (w := wm) (s0 := s0) (x := x) ?_ (fun hx => ?_); on_goal 1 => (unfold x; clear x)))
    | apply Keeps.ite | apply State.putRaw_keeps

theorem State.rwh_keeps {wm : Bool} {s0 s : State} (f : Fld) (v : Nat) (hk : Keeps wm s0 s) : Keeps wm s0 (State.rwh s f v) := by
  unfold State.rwh
  repeat' with_reducible first
    | assumption
    | (extract_lets (onlyGivenNames := true) x; try (refine Keeps.cut (w := wm) (s0 := s0) (x := x) ?_ (fun hx => ?_); on_goal 1 => (unfold x; clear x)))
    | apply Keeps.ite | apply State.wr_keeps

theorem State.emit_keeps {wm : Bool} {s0 s : State} (o : Output) (hk : Keeps wm s0 s) : Keeps wm s0 (State.emit s o) := by
  unfold State.emit
  repeat' with_reducible first
    | assumption
    | (extract_lets (onlyGivenNames := true) x; try (refine Keeps.cut (w := wm) (s0 := s0) (x := x) ?_ (fun hx => ?_); on_goal 1 => (unfold x; clear x)))
    | refine Keeps.lit rfl rfl rfl rfl (by assumption) (by assumption) | apply Keeps.ite | split

theorem State.message_keeps {wm : Bool} {s0 s : State} (v : Nat) (hk : Keeps wm s0 s) : Keeps wm s0 (State.message s v) := by
  unfold State.message
  repeat' with_reducible first
    | assumption
    | (extract_lets (onlyGivenNames := true) x; try (refine Keeps.cut (w := wm) (s0 := s0) (x := x) ?_ (fun hx => ?_); on_goal 1 => (unfold x; clear x)))
    | apply Keeps.ite | apply State.emit_keeps | apply State.wr_keeps

theorem State.intRise_keeps {wm : Bool} {s0 s : State} (v : Nat) (hk : Keeps wm s0 s) : Keeps wm s0 (State.intRise s v) := by
  unfold State.intRise
  repeat' with_reducible first
    | assumption
    | (extract_lets (onlyGivenNames := true) x; try (refine Keeps.cut (w := wm) (s0 := s0) (x := x) ?_ (fun hx => ?_); on_goal 1 => (unfold x; clear x)))
    | refine Keeps.lit rfl rfl rfl rfl (by assumption) (by assumption) | apply Keeps.ite | apply State.wr_keeps | apply State.message_keeps

theorem State.toMerge_keeps {wm : Bool} {s0 s : State} (age : Nat) (tsu : Nat) (idx : Nat) (b : MergeBody) (hk : Keeps wm s0 s) : Keeps wm s0 (State.toMerge s age tsu idx b) := by
  unfold State.toMerge
  repeat' with_reducible first
    | (extract_lets (onlyGivenNames := true) x; try (refine Keeps.cut (w := wm) (s0 := s0) (x := x) ?_ (fun hx => ?_); on_goal 1 => (unfold x; clear x)))
    | refine Keeps.lit rfl rfl rfl rfl (by assumption) (by assumption)

theorem State.raiseIntAt_keeps {wm : Bool} {s0 s : State} (v : Nat) (age : Nat) (hk : Keeps wm s0 s) : Keeps wm s0 (State.raiseIntAt s v age) := by
  unfold State.raiseIntAt
  repeat' with_reducible first
    | assumption | apply State.toMerge_keeps

theorem State.raiseInt_keeps {wm : Bool} {s0 s : State} (v : Nat) (hk : Keeps wm s0 s) : Keeps wm s0 (State.raiseInt s v) := by
  unfold State.raiseInt
  repeat' with_reducible first
    | assumption | apply State.raiseIntAt_keeps

theorem State.setMask_keeps {wm : Bool} {s0 s : State} (a : Nat) (mask : Nat) (hk : Keeps wm s0 s) : Keeps wm s0 (State.setMask s a mask) := by
  unfold State.setMask
  repeat' with_reducible first
    | assumption
    | (extract_lets (onlyGivenNames := true) x; try (refine Keeps.cut (w := wm) (s0 := s0) (x := x) ?_ (fun hx => ?_); on_goal 1 => (unfold x; clear x)))
    | refine Keeps.lit rfl rfl rfl rfl (by assumption) (by assumption) | apply Keeps.ite | apply State.putRaw_keeps | apply State.raiseInt_keeps | split

theorem State.flag_keeps {wm : Bool} {s0 s : State} (f : Fld) (hk : Keeps wm s0 s) : Keeps wm s0 (State.flag s f) := by
  unfold State.flag
  repeat' with_reducible first
    | assumption | apply State.setMask_keeps

theorem State.flagBit_keeps {wm : Bool} {s0 s : State} (f : Fld) (b : Nat) (hk : Keeps wm s0 s) : Keeps wm s0 (State.flagBit s f b) := by
  unfold State.flagBit
  repeat' with_reducible first
    | assumption | apply State.setMask_keeps

theorem State.bump_keeps {wm : Bool} {s0 s : State} (f : Fld) (ovf : Fld) (hk : Keeps wm s0 s) : Keeps wm s0 (State.bump s f ovf) := by
  unfold State.bump
  repeat' with_reducible first
    | assumption
    | (extract_lets (onlyGivenNames := true) x; try (refine Keeps.cut (w := wm) (s0 := s0) (x := x) ?_ (fun hx => ?_); on_goal 1 => (unfold x; clear x)))
    | refine Keeps.lit rfl rfl rfl rfl (by assumption) (by assumption) | apply Keeps.ite | apply State.flag_keeps | apply State.wr_keeps

theorem State.bumpN_keeps {wm : Bool} {s0 s : State} (f ovf : Fld) (n : Nat) (h : Keeps wm s0 s) : Keeps wm s0 (s.bumpN f ovf n) := by
  induction n generalizing s with
  | zero => exact h
  | succ n ih => exact ih (State.bump_keeps f ovf h)

theorem State.showHeals_keeps {wm : Bool} {s0 s : State} (hk : Keeps wm s0 s) : Keeps wm s0 (State.showHeals s) := by
  unfold State.showHeals
  repeat' with_reducible first
    | assumption
    | (extract_lets (onlyGivenNames := true) x; try (refine Keeps.cut (w := wm) (s0 := s0) (x := x) ?_ (fun hx => ?_); on_goal 1 => (unfold x; clear x)))
    | apply State.putRaw_keeps | split

theorem State.healWord_keeps {wm : Bool} {s0 s : State} (use : Bool) (c : Nat) (a : Nat) (hk : Keeps wm s0 s) : Keeps wm s0 (State.healWord use c a s) := by
  unfold State.healWord
  repeat' with_reducible first
    | assumption
    | (extract_lets (onlyGivenNames := true) x; try (refine Keeps.cut (w := wm) (s0 := s0) (x := x) ?_ (fun hx => ?_); on_goal 1 => (unfold x; clear x)))
    | refine Keeps.lit rfl rfl rfl rfl (by assumption) (by assumption) | apply Keeps.ite | apply State.putRaw_keeps | apply State.showHeals_keeps

theorem State.tmrUse_keeps {wm : Bool} {s0 s : State} (c : Nat) (hk : Keeps wm s0 s) : Keeps wm s0 (State.tmrUse c s) := by
  unfold State.tmrUse
  repeat' with_reducible first
    | assumption
    | (extract_lets (onlyGivenNames := true) x; try (refine Keeps.cut (w := wm) (s0 := s0) (x := x) ?_ (fun hx => ?_); on_goal 1 => (unfold x; clear x)))
    | apply State.healWord_keeps | (refine Keeps.forEach ?_ ?_; intro a x hx)

theorem State.unscrub_keeps {wm : Bool} {s0 s : State} (a : Nat) (hk : Keeps wm s0 s) : Keeps wm s0 (State.unscrub s a) := by
  unfold State.unscrub
  repeat' with_reducible first
    | assumption
    | (extract_lets (onlyGivenNames := true) x; try (refine Keeps.cut (w := wm) (s0 := s0) (x := x) ?_ (fun hx => ?_); on_goal 1 => (unfold x; clear x)))
    | refine Keeps.lit rfl rfl rfl rfl (by assumption) (by assumption) | apply Keeps.ite | apply State.showHeals_keeps

theorem State.useFree_keeps {wm : Bool} {s0 s : State} (hk : Keeps wm s0 s) : Keeps wm s0 (State.useFree s) := by
  unfold State.useFree
  repeat' with_reducible first
    | refine Keeps.lit rfl rfl rfl rfl (by assumption) (by assumption)

end Sys2Proof.Machine
end

