-- ==== Sys2Proof/Laws/KeepsSched.lean ====
section
/-! SUPPORT. Every operation of Machine/Sched.lean keeps the canonical form, the queue and the fuses. -/

set_option linter.unusedVariables false
set_option linter.tactic.unusedName false
set_option linter.unusedTactic false
set_option linter.unreachableTactic false

namespace Sys2Proof.Machine

theorem State.putSerif_keeps {wm : Bool} {s0 s : State} (d : Nat) (c : Serif) (hk : Keeps wm s0 s) : Keeps wm s0 (State.putSerif s d c) := by
  unfold State.putSerif
  repeat' with_reducible first
    | refine Keeps.lit rfl rfl rfl rfl (by assumption) (by assumption)

theorem State.showSerif_keeps {wm : Bool} {s0 s : State} (d : Nat) (hk : Keeps wm s0 s) : Keeps wm s0 (State.showSerif s d) := by
  unfold State.showSerif
  repeat' with_reducible first
    | assumption
    | (extract_lets (onlyGivenNames := true) x; try (refine Keeps.cut (w := wm) (s0 := s0) (x := x) ?_ (fun hx => ?_); on_goal 1 => (unfold x; clear x)))
    | apply State.putRaw_keeps

theorem State.irqPend_keeps {wm : Bool} {s0 s : State} (d : Nat) (line : Nat) (hk : Keeps wm s0 s) : Keeps wm s0 (State.irqPend s d line) := by
  unfold State.irqPend
  repeat' with_reducible first
    | assumption
    | (extract_lets (onlyGivenNames := true) x; try (refine Keeps.cut (w := wm) (s0 := s0) (x := x) ?_ (fun hx => ?_); on_goal 1 => (unfold x; clear x)))
    | apply Keeps.ite | apply State.flag_keeps | apply State.putSerif_keeps

theorem State.irqSel_keeps {wm : Bool} {s0 s : State} (line : Nat) (f : Fld) (sel : Nat → Bool) (hk : Keeps wm s0 s) : Keeps wm s0 (State.irqSel s line f sel) := by
  unfold State.irqSel
  repeat' with_reducible first
    | assumption
    | (extract_lets (onlyGivenNames := true) x; try (refine Keeps.cut (w := wm) (s0 := s0) (x := x) ?_ (fun hx => ?_); on_goal 1 => (unfold x; clear x)))
    | apply Keeps.ite | apply State.irqPend_keeps | (refine Keeps.forEach ?_ ?_; intro a x hx)

theorem State.putItem_keeps {wm : Bool} {s0 s : State} (n : Nat) (i : Item) (hk : Keeps wm s0 s) : Keeps wm s0 (State.putItem s n i) := by
  unfold State.putItem
  repeat' with_reducible first
    | (extract_lets (onlyGivenNames := true) x; try (refine Keeps.cut (w := wm) (s0 := s0) (x := x) ?_ (fun hx => ?_); on_goal 1 => (unfold x; clear x)))
    | refine Keeps.lit rfl rfl rfl rfl (by assumption) (by assumption)

theorem State.putReady_keeps {wm : Bool} {s0 s : State} (k : Nat) (l : List Nat) (hk : Keeps wm s0 s) : Keeps wm s0 (State.putReady s k l) := by
  unfold State.putReady
  repeat' with_reducible first
    | (extract_lets (onlyGivenNames := true) x; try (refine Keeps.cut (w := wm) (s0 := s0) (x := x) ?_ (fun hx => ?_); on_goal 1 => (unfold x; clear x)))
    | refine Keeps.lit rfl rfl rfl rfl (by assumption) (by assumption)

theorem State.showLists_keeps {wm : Bool} {s0 s : State} (hk : Keeps wm s0 s) : Keeps wm s0 (State.showLists s) := by
  unfold State.showLists
  repeat' with_reducible first
    | assumption
    | (extract_lets (onlyGivenNames := true) x; try (refine Keeps.cut (w := wm) (s0 := s0) (x := x) ?_ (fun hx => ?_); on_goal 1 => (unfold x; clear x)))
    | apply State.wrU_keeps

theorem State.trace_keeps {wm : Bool} {s0 s : State} (kind : Nat) (slot : Nat) (core : Nat) (hk : Keeps wm s0 s) : Keeps wm s0 (State.trace s kind slot core) := by
  unfold State.trace
  repeat' with_reducible first
    | assumption
    | (extract_lets (onlyGivenNames := true) x; try (refine Keeps.cut (w := wm) (s0 := s0) (x := x) ?_ (fun hx => ?_); on_goal 1 => (unfold x; clear x)))
    | refine Keeps.lit rfl rfl rfl rfl (by assumption) (by assumption) | apply Keeps.ite | apply State.flag_keeps | apply State.wr_keeps
    | apply State.putRaw_keeps

theorem State.toReady_keeps {wm : Bool} {s0 s : State} (slot : Nat) (hk : Keeps wm s0 s) : Keeps wm s0 (State.toReady s slot) := by
  unfold State.toReady
  repeat' with_reducible first
    | assumption
    | (extract_lets (onlyGivenNames := true) x; try (refine Keeps.cut (w := wm) (s0 := s0) (x := x) ?_ (fun hx => ?_); on_goal 1 => (unfold x; clear x)))
    | refine Keeps.lit rfl rfl rfl rfl (by assumption) (by assumption) | apply Keeps.ite | apply State.putItem_keeps | apply State.putReady_keeps
    | apply State.showLists_keeps | apply State.wrU_keeps

theorem State.putFifo_keeps {wm : Bool} {s0 s : State} (p : Nat) (l : List ResEntry) (hk : Keeps wm s0 s) : Keeps wm s0 (State.putFifo s p l) := by
  unfold State.putFifo
  repeat' with_reducible first
    | assumption
    | (extract_lets (onlyGivenNames := true) x; try (refine Keeps.cut (w := wm) (s0 := s0) (x := x) ?_ (fun hx => ?_); on_goal 1 => (unfold x; clear x)))
    | refine Keeps.lit rfl rfl rfl rfl (by assumption) (by assumption) | apply Keeps.ite | apply State.wr_keeps

theorem State.endItem_keeps {wm : Bool} {s0 s : State} (slot : Nat) (status : Nat) (result : Nat) (hk : Keeps wm s0 s) : Keeps wm s0 (State.endItem s slot status result) := by
  unfold State.endItem
  repeat' with_reducible first
    | assumption
    | (extract_lets (onlyGivenNames := true) x; try (refine Keeps.cut (w := wm) (s0 := s0) (x := x) ?_ (fun hx => ?_); on_goal 1 => (unfold x; clear x)))
    | refine Keeps.lit rfl rfl rfl rfl (by assumption) (by assumption) | apply State.putItem_keeps

theorem State.showFlow_keeps {wm : Bool} {s0 s : State} (f : Nat) (hk : Keeps wm s0 s) : Keeps wm s0 (State.showFlow s f) := by
  unfold State.showFlow
  repeat' with_reducible first
    | assumption | apply State.wrU_keeps

theorem State.release_keeps {wm : Bool} {s0 s : State} (slot : Nat) (hk : Keeps wm s0 s) : Keeps wm s0 (State.release s slot) := by
  unfold State.release
  repeat' with_reducible first
    | assumption
    | (extract_lets (onlyGivenNames := true) x; try (refine Keeps.cut (w := wm) (s0 := s0) (x := x) ?_ (fun hx => ?_); on_goal 1 => (unfold x; clear x)))
    | refine Keeps.lit rfl rfl rfl rfl (by assumption) (by assumption) | apply Keeps.ite | apply State.trace_keeps | apply State.putFifo_keeps
    | apply State.raiseInt_keeps | apply State.putItem_keeps | apply State.showFlow_keeps | apply State.wr_keeps

theorem State.releaseAll_keeps {wm : Bool} {s0 s : State} (n : Nat) (h : Keeps wm s0 s) : Keeps wm s0 (s.releaseAll n) := by
  induction n generalizing s with
  | zero => exact h
  | succ n ih =>
    unfold State.releaseAll
    split
    · exact h
    · exact ih (State.release_keeps _ h)

theorem State.toDelay_keeps {wm : Bool} {s0 s : State} (slot : Nat) (hk : Keeps wm s0 s) : Keeps wm s0 (State.toDelay s slot) := by
  unfold State.toDelay
  repeat' with_reducible first
    | (extract_lets (onlyGivenNames := true) x; try (refine Keeps.cut (w := wm) (s0 := s0) (x := x) ?_ (fun hx => ?_); on_goal 1 => (unfold x; clear x)))
    | refine Keeps.lit rfl rfl rfl rfl (by assumption) (by assumption) | apply State.showLists_keeps

theorem State.refuse_keeps {wm : Bool} {s0 s : State} (p : Nat) (res : Nat) (f : Fld) (hk : Keeps wm s0 s) : Keeps wm s0 (State.refuse s p res f) := by
  unfold State.refuse
  repeat' with_reducible first
    | assumption
    | (extract_lets (onlyGivenNames := true) x; try (refine Keeps.cut (w := wm) (s0 := s0) (x := x) ?_ (fun hx => ?_); on_goal 1 => (unfold x; clear x)))
    | apply State.wr_keeps | apply State.bump_keeps | apply State.flag_keeps

theorem State.traceRefusal_keeps {wm : Bool} {s0 s : State} (i : Item) (hk : Keeps wm s0 s) : Keeps wm s0 (State.traceRefusal s i) := by
  unfold State.traceRefusal
  repeat' with_reducible first
    | assumption
    | (extract_lets (onlyGivenNames := true) x; try (refine Keeps.cut (w := wm) (s0 := s0) (x := x) ?_ (fun hx => ?_); on_goal 1 => (unfold x; clear x)))
    | apply Keeps.ite | apply State.putItem_keeps | apply State.trace_keeps

theorem State.submitGo_keeps {wm : Bool} {s0 s : State} (p : Nat) (i : Item) (hk : Keeps wm s0 s) : Keeps wm s0 (State.submitGo s p i) := by
  unfold State.submitGo
  repeat' with_reducible first
    | assumption
    | (extract_lets (onlyGivenNames := true) x; try (refine Keeps.cut (w := wm) (s0 := s0) (x := x) ?_ (fun hx => ?_); on_goal 1 => (unfold x; clear x)))
    | refine Keeps.lit rfl rfl rfl rfl (by assumption) (by assumption) | apply Keeps.ite | apply State.refuse_keeps | apply State.traceRefusal_keeps
    | apply State.putItem_keeps | apply State.showFlow_keeps | apply State.trace_keeps | apply State.putRaw_keeps | apply State.bump_keeps
    | apply State.toDelay_keeps | apply State.toReady_keeps | split

theorem State.submitDue_keeps {wm : Bool} {s0 s : State} (p : Nat) (hk : Keeps wm s0 s) : Keeps wm s0 (State.submitDue s p) := by
  unfold State.submitDue
  repeat' with_reducible first
    | assumption
    | (extract_lets (onlyGivenNames := true) x; try (refine Keeps.cut (w := wm) (s0 := s0) (x := x) ?_ (fun hx => ?_); on_goal 1 => (unfold x; clear x)))
    | refine Keeps.lit rfl rfl rfl rfl (by assumption) (by assumption) | apply Keeps.ite | apply State.submitGo_keeps | apply State.wr_keeps | split

theorem State.startItem_keeps {wm : Bool} {s0 s : State} (c : Nat) (slot : Nat) (hk : Keeps wm s0 s) : Keeps wm s0 (State.startItem s c slot) := by
  unfold State.startItem
  repeat' with_reducible first
    | assumption
    | (extract_lets (onlyGivenNames := true) x; try (refine Keeps.cut (w := wm) (s0 := s0) (x := x) ?_ (fun hx => ?_); on_goal 1 => (unfold x; clear x)))
    | refine Keeps.lit rfl rfl rfl rfl (by assumption) (by assumption) | apply Keeps.ite | apply State.putItem_keeps | apply State.putReady_keeps
    | apply State.showLists_keeps | apply State.trace_keeps | apply State.bump_keeps | apply State.wrU_keeps | apply State.putSerif_keeps
    | apply State.showSerif_keeps

theorem State.dispatch_keeps {wm : Bool} {s0 s : State} (c : Nat) (hk : Keeps wm s0 s) : Keeps wm s0 (State.dispatch s c) := by
  unfold State.dispatch
  repeat' with_reducible first
    | assumption
    | (extract_lets (onlyGivenNames := true) x; try (refine Keeps.cut (w := wm) (s0 := s0) (x := x) ?_ (fun hx => ?_); on_goal 1 => (unfold x; clear x)))
    | apply Keeps.ite | apply State.startItem_keeps | split

theorem State.tickEnd_keeps {wm : Bool} {s0 s : State} (hk : Keeps wm s0 s) : Keeps wm s0 (State.tickEnd s) := by
  unfold State.tickEnd
  repeat' with_reducible first
    | assumption
    | (extract_lets (onlyGivenNames := true) x; try (refine Keeps.cut (w := wm) (s0 := s0) (x := x) ?_ (fun hx => ?_); on_goal 1 => (unfold x; clear x)))
    | refine Keeps.lit rfl rfl rfl rfl (by assumption) (by assumption) | apply State.submitDue_keeps | apply State.releaseAll_keeps
    | apply State.dispatch_keeps | (refine Keeps.forEach ?_ ?_; intro a x hx)

end Sys2Proof.Machine
end

