-- ==== Sys2Proof/Laws/KeepsOps.lean ====
section
/-! SUPPORT. Every operation of Machine/Ops.lean keeps the canonical form, the queue and the fuses. -/

set_option linter.unusedVariables false
set_option linter.tactic.unusedName false
set_option linter.unusedTactic false
set_option linter.unreachableTactic false

namespace Sys2Proof.Machine

theorem State.putBytes_keeps {s0 s : State} (sp a : Nat) (l : List Nat) (h : Keeps true s0 s) : Keeps true s0 (s.putBytes sp a l) := by
  induction l generalizing s a with
  | nil => exact h
  | cons b t ih => exact ih (a + 1) (State.putMem8_keeps sp a b h)

theorem State.clockOn_keeps {wm : Bool} {s0 s : State} (n : Nat) (hk : Keeps wm s0 s) : Keeps wm s0 (State.clockOn s n) := by
  unfold State.clockOn
  repeat' with_reducible first
    | assumption
    | (extract_lets (onlyGivenNames := true) x; try (refine Keeps.cut (w := wm) (s0 := s0) (x := x) ?_ (fun hx => ?_); on_goal 1 => (unfold x; clear x)))
    | refine Keeps.lit rfl rfl rfl rfl (by assumption) (by assumption) | apply Keeps.ite | apply State.wr_keeps

theorem State.showQueue_keeps {wm : Bool} {s0 s : State} (hk : Keeps wm s0 s) : Keeps wm s0 (State.showQueue s) := by
  unfold State.showQueue
  repeat' with_reducible first
    | assumption
    | (extract_lets (onlyGivenNames := true) x; try (refine Keeps.cut (w := wm) (s0 := s0) (x := x) ?_ (fun hx => ?_); on_goal 1 => (unfold x; clear x)))
    | apply State.wr_keeps

theorem State.enqueueEntry_keeps {wm : Bool} {s0 s : State} (e : BltEntry) (hk : Keeps wm s0 s) : Keeps wm s0 (State.enqueueEntry s e) := by
  unfold State.enqueueEntry
  repeat' with_reducible first
    | assumption
    | (extract_lets (onlyGivenNames := true) x; try (refine Keeps.cut (w := wm) (s0 := s0) (x := x) ?_ (fun hx => ?_); on_goal 1 => (unfold x; clear x)))
    | refine Keeps.lit rfl rfl rfl rfl (by assumption) (by assumption) | apply Keeps.ite | apply State.showQueue_keeps | apply State.raiseInt_keeps

theorem State.offer_keeps {wm : Bool} {s0 s : State} (e : BltEntry) (hk : Keeps wm s0 s) : Keeps wm s0 (State.offer s e) := by
  unfold State.offer
  repeat' with_reducible first
    | assumption
    | (extract_lets (onlyGivenNames := true) x; try (refine Keeps.cut (w := wm) (s0 := s0) (x := x) ?_ (fun hx => ?_); on_goal 1 => (unfold x; clear x)))
    | refine Keeps.lit rfl rfl rfl rfl (by assumption) (by assumption) | apply Keeps.ite | apply State.bump_keeps | apply State.enqueueEntry_keeps

theorem State.mergeOut_keeps {wm : Bool} {s0 s : State} (b : MergeBody) (hk : Keeps wm s0 s) : Keeps wm s0 (State.mergeOut s b) := by
  unfold State.mergeOut
  repeat' with_reducible first
    | assumption | apply State.intRise_keeps | apply State.offer_keeps | split

theorem State.runOn_keeps {wm : Bool} {s0 s : State} (k n : Nat) (hk : Keeps wm s0 s) : Keeps wm s0 (State.runOn k s n) := by
  induction k generalizing s n with
  | zero => exact State.clockOn_keeps n hk
  | succ k ih =>
    unfold State.runOn
    split
    · exact State.clockOn_keeps n hk
    · next r t _ =>
      extract_lets d x
      have hx : Keeps wm s0 x := State.clockOn_keeps d hk
      exact Keeps.ite (ih _ (State.mergeOut_keeps _ (Keeps.lit rfl rfl rfl rfl hx hx))) (State.clockOn_keeps n hk)

theorem State.pass_keeps {wm : Bool} {s0 s : State} (n : Nat) (hk : Keeps wm s0 s) : Keeps wm s0 (State.pass s n) :=
  State.runOn_keeps _ n hk

theorem State.after_keeps {wm : Bool} {s0 s : State} (n : Nat) (hk : Keeps wm s0 s) : Keeps wm s0 (State.after s n) := by
  unfold State.after
  repeat' with_reducible first
    | assumption
    | (extract_lets (onlyGivenNames := true) x; try (refine Keeps.cut (w := wm) (s0 := s0) (x := x) ?_ (fun hx => ?_); on_goal 1 => (unfold x; clear x)))
    | apply Keeps.ite | apply State.tickEnd_keeps | apply State.pass_keeps | (refine Keeps.onlyIf ?_ ?_; intro x hx)

theorem State.runTo_keeps {wm : Bool} {s0 s : State} (t : Nat) (hk : Keeps wm s0 s) : Keeps wm s0 (State.runTo s t) := by
  unfold State.runTo
  repeat' with_reducible first
    | assumption | apply State.after_keeps

theorem State.reach_keeps {wm : Bool} {s0 s : State} (t : Nat) (hk : Keeps wm s0 s) : KeepsO wm s0 (State.reach s t) := by
  unfold State.reach
  repeat' with_reducible first
    | assumption
    | (extract_lets (onlyGivenNames := true) x; try (refine Keeps.cut (w := wm) (s0 := s0) (x := x) ?_ (fun hx => ?_); on_goal 1 => (unfold x; clear x)))
    | apply KeepsO.ite | apply KeepsO.some | apply KeepsO.none | apply State.runTo_keeps

theorem State.runRim_keeps {wm : Bool} {s0 s : State} (r : Nat) (hk : Keeps wm s0 s) : Keeps wm s0 (State.runRim s r) := by
  unfold State.runRim
  repeat' with_reducible first
    | assumption | apply State.after_keeps

theorem State.setLattice_keeps {wm : Bool} {s0 s : State} (b : Nat) (k : Nat) (hk : Keeps wm s0 s) : Keeps wm s0 (State.setLattice s b k) := by
  unfold State.setLattice
  repeat' with_reducible first
    | assumption
    | (extract_lets (onlyGivenNames := true) x; try (refine Keeps.cut (w := wm) (s0 := s0) (x := x) ?_ (fun hx => ?_); on_goal 1 => (unfold x; clear x)))
    | refine Keeps.lit rfl rfl rfl rfl (by assumption) (by assumption) | apply State.wr_keeps

theorem State.putMem32_keeps {s0 s : State} (sp : Nat) (a : Nat) (v : Nat) (hk : Keeps true s0 s) : Keeps true s0 (State.putMem32 s sp a v) := by
  unfold State.putMem32
  repeat' with_reducible first
    | assumption | apply State.putBytes_keeps

theorem State.journalAs_keeps {wm : Bool} {s0 s : State} (cls : Nat) (sub : Nat) (fault : Bool) (unit : Nat) (stamp : Nat) (wseq : Nat) (data : Nat) (tsu : Nat) (hk : Keeps wm s0 s) : Keeps wm s0 (State.journalAs s cls sub fault unit stamp wseq data tsu) := by
  unfold State.journalAs
  repeat' with_reducible first
    | assumption
    | (extract_lets (onlyGivenNames := true) x; try (refine Keeps.cut (w := wm) (s0 := s0) (x := x) ?_ (fun hx => ?_); on_goal 1 => (unfold x; clear x)))
    | apply Keeps.ite | apply State.toMerge_keeps | apply State.offer_keeps

theorem State.journalBy_keeps {wm : Bool} {s0 s : State} (tsu : Nat) (cls : Nat) (kind : Nat) (fault : Bool) (unit : Nat) (hk : Keeps wm s0 s) : Keeps wm s0 (State.journalBy s tsu cls kind fault unit) := by
  unfold State.journalBy
  repeat' with_reducible first
    | assumption | apply State.journalAs_keeps

theorem State.journal_keeps {wm : Bool} {s0 s : State} (cls : Nat) (kind : Nat) (fault : Bool) (unit : Nat) (hk : Keeps wm s0 s) : Keeps wm s0 (State.journal s cls kind fault unit) := by
  unfold State.journal
  repeat' with_reducible first
    | assumption | apply State.journalBy_keeps

theorem State.showTests_keeps {wm : Bool} {s0 s : State} (hk : Keeps wm s0 s) : Keeps wm s0 (State.showTests s) := by
  unfold State.showTests
  repeat' with_reducible first
    | assumption
    | (extract_lets (onlyGivenNames := true) x; try (refine Keeps.cut (w := wm) (s0 := s0) (x := x) ?_ (fun hx => ?_); on_goal 1 => (unfold x; clear x)))
    | apply State.wr_keeps | apply State.wrU_keeps

theorem State.runTests_keeps {wm : Bool} {s0 s : State} (hk : Keeps wm s0 s) : Keeps wm s0 (State.runTests s) := by
  unfold State.runTests
  repeat' with_reducible first
    | (extract_lets (onlyGivenNames := true) x; try (refine Keeps.cut (w := wm) (s0 := s0) (x := x) ?_ (fun hx => ?_); on_goal 1 => (unfold x; clear x)))
    | refine Keeps.lit rfl rfl rfl rfl (by assumption) (by assumption) | apply State.showTests_keeps

theorem State.unitError_keeps {wm : Bool} {s0 s : State} (unit : Nat) (row : Nat) (hk : Keeps wm s0 s) : Keeps wm s0 (State.unitError s unit row) := by
  unfold State.unitError
  repeat' with_reducible first
    | (extract_lets (onlyGivenNames := true) x; try (refine Keeps.cut (w := wm) (s0 := s0) (x := x) ?_ (fun hx => ?_); on_goal 1 => (unfold x; clear x)))
    | refine Keeps.lit rfl rfl rfl rfl (by assumption) (by assumption) | apply Keeps.ite | apply State.runTests_keeps

theorem State.ppsCheck_keeps {wm : Bool} {s0 s : State} (hk : Keeps wm s0 s) : Keeps wm s0 (State.ppsCheck s) := by
  unfold State.ppsCheck
  repeat' with_reducible first
    | assumption
    | (extract_lets (onlyGivenNames := true) x; try (refine Keeps.cut (w := wm) (s0 := s0) (x := x) ?_ (fun hx => ?_); on_goal 1 => (unfold x; clear x)))
    | refine Keeps.lit rfl rfl rfl rfl (by assumption) (by assumption) | apply Keeps.ite | apply State.wr_keeps

theorem State.setSout_keeps {wm : Bool} {s0 s : State} (j : Nat) (on : Bool) (hk : Keeps wm s0 s) : Keeps wm s0 (State.setSout s j on) := by
  unfold State.setSout
  repeat' with_reducible first
    | assumption
    | (extract_lets (onlyGivenNames := true) x; try (refine Keeps.cut (w := wm) (s0 := s0) (x := x) ?_ (fun hx => ?_); on_goal 1 => (unfold x; clear x)))
    | refine Keeps.lit rfl rfl rfl rfl (by assumption) (by assumption) | apply Keeps.ite | apply State.wrB_keeps | apply State.wr_keeps
    | apply State.emit_keeps

theorem State.soutsOff_keeps {wm : Bool} {s0 s : State} (hk : Keeps wm s0 s) : Keeps wm s0 (State.soutsOff s) := by
  unfold State.soutsOff
  repeat' with_reducible first
    | assumption
    | (extract_lets (onlyGivenNames := true) x; try (refine Keeps.cut (w := wm) (s0 := s0) (x := x) ?_ (fun hx => ?_); on_goal 1 => (unfold x; clear x)))
    | refine Keeps.lit rfl rfl rfl rfl (by assumption) (by assumption) | apply State.setSout_keeps | (refine Keeps.forEach ?_ ?_; intro a x hx)

theorem State.showAux_keeps {wm : Bool} {s0 s : State} (hk : Keeps wm s0 s) : Keeps wm s0 (State.showAux s) := by
  unfold State.showAux
  repeat' with_reducible first
    | assumption
    | (extract_lets (onlyGivenNames := true) x; try (refine Keeps.cut (w := wm) (s0 := s0) (x := x) ?_ (fun hx => ?_); on_goal 1 => (unfold x; clear x)))
    | apply State.wr_keeps | (refine Keeps.forEach ?_ ?_; intro a x hx)

theorem State.zeroSigma_keeps {wm : Bool} {s0 s : State} (hk : Keeps wm s0 s) : Keeps wm s0 (State.zeroSigma s) := by
  unfold State.zeroSigma
  repeat' with_reducible first
    | assumption
    | (extract_lets (onlyGivenNames := true) x; try (refine Keeps.cut (w := wm) (s0 := s0) (x := x) ?_ (fun hx => ?_); on_goal 1 => (unfold x; clear x)))
    | refine Keeps.lit rfl rfl rfl rfl (by assumption) (by assumption) | apply State.wr_keeps | apply State.showAux_keeps
    | (refine Keeps.forEach ?_ ?_; intro a x hx)

theorem State.inkEvent_keeps {wm : Bool} {s0 s : State} (kind : Nat) (n : Nat) (hk : Keeps wm s0 s) : Keeps wm s0 (State.inkEvent s kind n) := by
  unfold State.inkEvent
  repeat' with_reducible first
    | assumption
    | (extract_lets (onlyGivenNames := true) x; try (refine Keeps.cut (w := wm) (s0 := s0) (x := x) ?_ (fun hx => ?_); on_goal 1 => (unfold x; clear x)))
    | refine Keeps.lit rfl rfl rfl rfl (by assumption) (by assumption) | apply Keeps.ite

theorem State.enterMode_keeps {wm : Bool} {s0 s : State} (m : Nat) (takeover : Bool) (hk : Keeps wm s0 s) : Keeps wm s0 (State.enterMode s m takeover) := by
  unfold State.enterMode
  repeat' with_reducible first
    | assumption
    | (extract_lets (onlyGivenNames := true) x; try (refine Keeps.cut (w := wm) (s0 := s0) (x := x) ?_ (fun hx => ?_); on_goal 1 => (unfold x; clear x)))
    | refine Keeps.lit rfl rfl rfl rfl (by assumption) (by assumption) | apply Keeps.ite | apply State.journal_keeps | apply State.wr_keeps
    | apply State.bump_keeps | apply State.raiseInt_keeps | apply State.inkEvent_keeps | apply State.zeroSigma_keeps | apply State.soutsOff_keeps
    | apply State.ppsCheck_keeps

theorem State.setPend_keeps {wm : Bool} {s0 s : State} (m : Nat) (kind : Nat) (at_ : Nat) (hk : Keeps wm s0 s) : Keeps wm s0 (State.setPend s m kind at_) := by
  unfold State.setPend
  repeat' with_reducible first
    | assumption
    | (extract_lets (onlyGivenNames := true) x; try (refine Keeps.cut (w := wm) (s0 := s0) (x := x) ?_ (fun hx => ?_); on_goal 1 => (unfold x; clear x)))
    | refine Keeps.lit rfl rfl rfl rfl (by assumption) (by assumption) | apply State.wr_keeps

theorem State.clearPend_keeps {wm : Bool} {s0 s : State} (hk : Keeps wm s0 s) : Keeps wm s0 (State.clearPend s) := by
  unfold State.clearPend
  repeat' with_reducible first
    | assumption
    | (extract_lets (onlyGivenNames := true) x; try (refine Keeps.cut (w := wm) (s0 := s0) (x := x) ?_ (fun hx => ?_); on_goal 1 => (unfold x; clear x)))
    | refine Keeps.lit rfl rfl rfl rfl (by assumption) (by assumption) | apply State.wr_keeps

theorem State.trigger_keeps {wm : Bool} {s0 s : State} (hk : Keeps wm s0 s) : Keeps wm s0 (State.trigger s) := by
  unfold State.trigger
  repeat' with_reducible first
    | (extract_lets (onlyGivenNames := true) x; try (refine Keeps.cut (w := wm) (s0 := s0) (x := x) ?_ (fun hx => ?_); on_goal 1 => (unfold x; clear x)))
    | refine Keeps.lit rfl rfl rfl rfl (by assumption) (by assumption)

theorem State.hwPend_keeps {wm : Bool} {s0 s : State} (m : Nat) (kind : Nat) (at_ : Nat) (hk : Keeps wm s0 s) : Keeps wm s0 (State.hwPend s m kind at_) := by
  unfold State.hwPend
  repeat' with_reducible first
    | assumption
    | (extract_lets (onlyGivenNames := true) x; try (refine Keeps.cut (w := wm) (s0 := s0) (x := x) ?_ (fun hx => ?_); on_goal 1 => (unfold x; clear x)))
    | apply State.trigger_keeps | apply State.setPend_keeps

theorem State.holdCause_keeps {wm : Bool} {s0 s : State} (hk : Keeps wm s0 s) : Keeps wm s0 (State.holdCause s) := by
  unfold State.holdCause
  repeat' with_reducible first
    | assumption
    | (extract_lets (onlyGivenNames := true) x; try (refine Keeps.cut (w := wm) (s0 := s0) (x := x) ?_ (fun hx => ?_); on_goal 1 => (unfold x; clear x)))
    | refine Keeps.lit rfl rfl rfl rfl (by assumption) (by assumption) | apply Keeps.ite | apply State.trigger_keeps | apply State.enterMode_keeps
    | apply State.clearPend_keeps

theorem State.holdUndo_keeps {wm : Bool} {s0 s : State} (hk : Keeps wm s0 s) : Keeps wm s0 (State.holdUndo s) := by
  unfold State.holdUndo
  repeat' with_reducible first
    | assumption
    | (extract_lets (onlyGivenNames := true) x; try (refine Keeps.cut (w := wm) (s0 := s0) (x := x) ?_ (fun hx => ?_); on_goal 1 => (unfold x; clear x)))
    | refine Keeps.lit rfl rfl rfl rfl (by assumption) (by assumption) | apply State.putRaw_keeps | split

theorem State.disarm_keeps {wm : Bool} {s0 s : State} (src : Src) (hk : Keeps wm s0 s) : Keeps wm s0 (State.disarm s src) := by
  unfold State.disarm
  repeat' with_reducible first
    | assumption | apply State.wr_keeps | split

theorem State.violInfo_keeps {wm : Bool} {s0 s : State} (src : Src) (kind : Nat) (a : Nat) (hk : Keeps wm s0 s) : Keeps wm s0 (State.violInfo s src kind a) := by
  unfold State.violInfo
  repeat' with_reducible first
    | assumption | apply State.putRaw_keeps

theorem State.keyed_keeps {wm : Bool} {s0 s : State} (src : Src) (a : Nat) (f : State → State) (h_f : ∀ x, Keeps wm s0 x → Keeps wm s0 (f x)) (hk : Keeps wm s0 s) : Keeps wm s0 (State.keyed s src a f) := by
  unfold State.keyed
  repeat' with_reducible first
    | assumption
    | (extract_lets (onlyGivenNames := true) x; try (refine Keeps.cut (w := wm) (s0 := s0) (x := x) ?_ (fun hx => ?_); on_goal 1 => (unfold x; clear x)))
    | apply Keeps.ite | apply State.disarm_keeps | apply State.flag_keeps | apply State.violInfo_keeps | apply h_f

theorem State.servo_keeps {wm : Bool} {s0 s : State} (p : Bool) (e : Rat) (ts : Rat) (hk : Keeps wm s0 s) : Keeps wm s0 (State.servo s p e ts) := by
  unfold State.servo
  repeat' with_reducible first
    | assumption
    | (extract_lets (onlyGivenNames := true) x; try (refine Keeps.cut (w := wm) (s0 := s0) (x := x) ?_ (fun hx => ?_); on_goal 1 => (unfold x; clear x)))
    | refine Keeps.lit rfl rfl rfl rfl (by assumption) (by assumption) | apply Keeps.ite | apply State.wr_keeps | apply State.rwh_keeps
    | apply State.wrB_keeps

theorem State.showPend_keeps {wm : Bool} {s0 s : State} (h : Nat) (hk : Keeps wm s0 s) : Keeps wm s0 (State.showPend s h) := by
  unfold State.showPend
  repeat' with_reducible first
    | assumption | apply State.putRaw_keeps

theorem State.dropReq_keeps {wm : Bool} {s0 s : State} (r : CmtReq) (hk : Keeps wm s0 s) : Keeps wm s0 (State.dropReq r s) := by
  unfold State.dropReq
  repeat' with_reducible first
    | assumption
    | (extract_lets (onlyGivenNames := true) x; try (refine Keeps.cut (w := wm) (s0 := s0) (x := x) ?_ (fun hx => ?_); on_goal 1 => (unfold x; clear x)))
    | refine Keeps.lit rfl rfl rfl rfl (by assumption) (by assumption) | apply State.wr_keeps | apply State.raiseInt_keeps | apply State.showPend_keeps
    | (refine Keeps.forEach ?_ ?_; intro a x hx)

theorem State.stepEffects_keeps {wm : Bool} {s0 s : State} (hk : Keeps wm s0 s) : Keeps wm s0 (State.stepEffects s) := by
  unfold State.stepEffects
  repeat' with_reducible first
    | assumption
    | (extract_lets (onlyGivenNames := true) x; try (refine Keeps.cut (w := wm) (s0 := s0) (x := x) ?_ (fun hx => ?_); on_goal 1 => (unfold x; clear x)))
    | refine Keeps.lit rfl rfl rfl rfl (by assumption) (by assumption) | apply Keeps.ite | apply State.dropReq_keeps | apply State.flag_keeps
    | apply State.wr_keeps | (refine Keeps.forEach ?_ ?_; intro a x hx)

theorem State.setActive_keeps {wm : Bool} {s0 s : State} (p : Bool) (hk : Keeps wm s0 s) : Keeps wm s0 (State.setActive s p) := by
  unfold State.setActive
  repeat' with_reducible first
    | assumption
    | (extract_lets (onlyGivenNames := true) x; try (refine Keeps.cut (w := wm) (s0 := s0) (x := x) ?_ (fun hx => ?_); on_goal 1 => (unfold x; clear x)))
    | refine Keeps.lit rfl rfl rfl rfl (by assumption) (by assumption) | apply Keeps.ite | apply State.wr_keeps | apply State.stepEffects_keeps

theorem State.switchDomain_keeps {wm : Bool} {s0 s : State} (p : Bool) (hk : Keeps wm s0 s) : Keeps wm s0 (State.switchDomain s p) := by
  unfold State.switchDomain
  repeat' with_reducible first
    | assumption
    | (extract_lets (onlyGivenNames := true) x; try (refine Keeps.cut (w := wm) (s0 := s0) (x := x) ?_ (fun hx => ?_); on_goal 1 => (unfold x; clear x)))
    | apply Keeps.ite | apply State.setActive_keeps | apply State.setLattice_keeps

theorem State.twinSend_keeps {wm : Bool} {s0 s : State} (typ : Nat) (w : List Nat) (hk : Keeps wm s0 s) : Keeps wm s0 (State.twinSend s typ w) := by
  unfold State.twinSend
  repeat' with_reducible first
    | assumption
    | (extract_lets (onlyGivenNames := true) x; try (refine Keeps.cut (w := wm) (s0 := s0) (x := x) ?_ (fun hx => ?_); on_goal 1 => (unfold x; clear x)))
    | refine Keeps.lit rfl rfl rfl rfl (by assumption) (by assumption) | apply Keeps.ite | apply State.emit_keeps

theorem State.mirror_keeps {wm : Bool} {s0 s : State} (tick : Nat) (kind : Nat) (w : List Nat) (hk : Keeps wm s0 s) : Keeps wm s0 (State.mirror s tick kind w) := by
  unfold State.mirror
  repeat' with_reducible first
    | assumption
    | (extract_lets (onlyGivenNames := true) x; try (refine Keeps.cut (w := wm) (s0 := s0) (x := x) ?_ (fun hx => ?_); on_goal 1 => (unfold x; clear x)))
    | apply Keeps.ite | apply State.twinSend_keeps

end Sys2Proof.Machine
end

