-- ==== Sys2Proof/Laws/KeepsSpares.lean ====
section
/-! SUPPORT. Every operation of Machine/Spares.lean keeps the canonical form, the queue and the fuses. -/

set_option linter.unusedVariables false
set_option linter.tactic.unusedName false
set_option linter.unusedTactic false
set_option linter.unreachableTactic false

namespace Sys2Proof.Machine

theorem State.unitFails_keeps {wm : Bool} {s0 s : State} (u : Nat) (row : Nat) (hk : Keeps wm s0 s) : Keeps wm s0 (State.unitFails s u row) := by
  unfold State.unitFails
  repeat' with_reducible first
    | assumption
    | (extract_lets (onlyGivenNames := true) x; try (refine Keeps.cut (w := wm) (s0 := s0) (x := x) ?_ (fun hx => ?_); on_goal 1 => (unfold x; clear x)))
    | refine Keeps.lit rfl rfl rfl rfl (by assumption) (by assumption) | apply Keeps.ite | apply State.unitError_keeps

theorem State.bringIn_keeps {wm : Bool} {s0 s : State} (u : Nat) (hk : Keeps wm s0 s) : Keeps wm s0 (State.bringIn s u) := by
  unfold State.bringIn
  repeat' with_reducible first
    | (extract_lets (onlyGivenNames := true) x; try (refine Keeps.cut (w := wm) (s0 := s0) (x := x) ?_ (fun hx => ?_); on_goal 1 => (unfold x; clear x)))
    | refine Keeps.lit rfl rfl rfl rfl (by assumption) (by assumption) | apply State.showTests_keeps

end Sys2Proof.Machine
end

