-- ==== Sys2Proof/Laws/KeepsTimeBase.lean ====
section
/-! SUPPORT. Every operation of Machine/TimeBase.lean keeps the canonical form, the queue and the fuses. -/

set_option linter.unusedVariables false
set_option linter.tactic.unusedName false
set_option linter.unusedTactic false
set_option linter.unreachableTactic false

namespace Sys2Proof.Machine

theorem State.pdOff_keeps {wm : Bool} {s0 s : State} (src : Src) (a : Nat) (hk : Keeps wm s0 s) : Keeps wm s0 (State.pdOff s src a) := by
  unfold State.pdOff
  repeat' with_reducible first
    | assumption
    | (extract_lets (onlyGivenNames := true) x; try (refine Keeps.cut (w := wm) (s0 := s0) (x := x) ?_ (fun hx => ?_); on_goal 1 => (unfold x; clear x)))
    | apply State.flag_keeps | apply State.violInfo_keeps

theorem State.swWrite_keeps {wm : Bool} {s0 s : State} (src : Src) (d : Nat) (a : Nat) (f : State → State) (h_f : ∀ x, Keeps wm s0 x → Keeps wm s0 (f x)) (hk : Keeps wm s0 s) : Keeps wm s0 (State.swWrite s src d a f) := by
  unfold State.swWrite
  repeat' with_reducible first
    | assumption
    | (extract_lets (onlyGivenNames := true) x; try (refine Keeps.cut (w := wm) (s0 := s0) (x := x) ?_ (fun hx => ?_); on_goal 1 => (unfold x; clear x)))
    | apply Keeps.ite | apply State.pdOff_keeps | apply h_f

theorem State.mirrorWrite_keeps {wm : Bool} {s0 s : State} (a : Nat) (v : Nat) (hk : Keeps wm s0 s) : Keeps wm s0 (State.mirrorWrite s a v) := by
  unfold State.mirrorWrite
  repeat' with_reducible first
    | assumption | apply State.mirror_keeps

theorem State.wrapNow_keeps {wm : Bool} {s0 s : State} (hk : Keeps wm s0 s) : Keeps wm s0 (State.wrapNow s) := by
  unfold State.wrapNow
  repeat' with_reducible first
    | assumption
    | (extract_lets (onlyGivenNames := true) x; try (refine Keeps.cut (w := wm) (s0 := s0) (x := x) ?_ (fun hx => ?_); on_goal 1 => (unfold x; clear x)))
    | refine Keeps.lit rfl rfl rfl rfl (by assumption) (by assumption) | apply Keeps.ite | apply State.flag_keeps

theorem execTbWrap_keeps {wm : Bool} {s0 s : State} (hk : Keeps wm s0 s) : KeepsR wm s0 (execTbWrap s) := by
  unfold execTbWrap
  repeat' with_reducible first
    | assumption
    | (extract_lets (onlyGivenNames := true) x; try (refine Keeps.cut (w := wm) (s0 := s0) (x := x) ?_ (fun hx => ?_); on_goal 1 => (unfold x; clear x)))
    | apply Keeps.ite | apply KeepsR.next | apply State.wrapNow_keeps | apply State.after_keeps

theorem State.putSnap_keeps {wm : Bool} {s0 s : State} (src : Src) (n : Snap) (hk : Keeps wm s0 s) : Keeps wm s0 (State.putSnap s src n) := by
  unfold State.putSnap
  repeat' with_reducible first
    | (extract_lets (onlyGivenNames := true) x; try (refine Keeps.cut (w := wm) (s0 := s0) (x := x) ?_ (fun hx => ?_); on_goal 1 => (unfold x; clear x)))
    | refine Keeps.lit rfl rfl rfl rfl (by assumption) (by assumption) | split

theorem State.answer_keeps {wm : Bool} {s0 s : State} (src : Src) (be : Nat) (w : Nat) (hk : Keeps wm s0 s) : Keeps wm s0 (State.answer s src be w) := by
  unfold State.answer
  repeat' with_reducible first
    | assumption | apply State.emit_keeps

theorem State.readAt_keeps {wm : Bool} {s0 s : State} (src : Src) (d a be : Nat) (f : State → State × Nat)
    (h_f : ∀ x, Keeps wm s0 x → Keeps wm s0 (f x).1) (hk : Keeps wm s0 s) : Keeps wm s0 (State.readAt s src d a be f) :=
  Keeps.ite hk (Keeps.ite (State.answer_keeps _ _ _ (h_f s hk)) (State.pdOff_keeps _ _ (State.answer_keeps _ _ _ hk)))

theorem execTbNsRead_keeps {wm : Bool} {s0 s : State} (dt : Nat) (r : Reader) (hk : Keeps wm s0 s) : KeepsR wm s0 (execTbNsRead dt r s) := by
  unfold execTbNsRead
  repeat' with_reducible first
    | assumption
    | (extract_lets (onlyGivenNames := true) x; try (refine Keeps.cut (w := wm) (s0 := s0) (x := x) ?_ (fun hx => ?_); on_goal 1 => (unfold x; clear x)))
    | apply Keeps.ite | apply KeepsR.needs | apply State.after_keeps | apply State.putSnap_keeps | apply State.answer_keeps

theorem execTbPeriodRead_keeps {wm : Bool} {s0 s : State} (dt : Nat) (r : Reader) (hk : Keeps wm s0 s) : KeepsR wm s0 (execTbPeriodRead dt r s) := by
  unfold execTbPeriodRead
  repeat' with_reducible first
    | assumption
    | (extract_lets (onlyGivenNames := true) x; try (refine Keeps.cut (w := wm) (s0 := s0) (x := x) ?_ (fun hx => ?_); on_goal 1 => (unfold x; clear x)))
    | apply Keeps.ite | apply KeepsR.needs | apply State.after_keeps | apply State.putSnap_keeps | apply State.answer_keeps

theorem State.stepF_keeps {wm : Bool} {s0 s : State} (x : Int) (hk : Keeps wm s0 s) : Keeps wm s0 (State.stepF s x) := by
  unfold State.stepF
  repeat' with_reducible first
    | assumption
    | (extract_lets (onlyGivenNames := true) x; try (refine Keeps.cut (w := wm) (s0 := s0) (x := x) ?_ (fun hx => ?_); on_goal 1 => (unfold x; clear x)))
    | refine Keeps.lit rfl rfl rfl rfl (by assumption) (by assumption) | apply Keeps.ite | apply State.stepEffects_keeps | apply State.setLattice_keeps

theorem State.stepBy_keeps {wm : Bool} {s0 s : State} (x : Int) (hk : Keeps wm s0 s) : Keeps wm s0 (State.stepBy s x) := by
  unfold State.stepBy
  repeat' with_reducible first
    | assumption | apply State.stepF_keeps

theorem State.tbStepWrite_keeps {wm : Bool} {s0 s : State} (v : Nat) (hk : Keeps wm s0 s) : Keeps wm s0 (State.tbStepWrite s v) := by
  unfold State.tbStepWrite
  repeat' with_reducible first
    | assumption
    | (extract_lets (onlyGivenNames := true) x; try (refine Keeps.cut (w := wm) (s0 := s0) (x := x) ?_ (fun hx => ?_); on_goal 1 => (unfold x; clear x)))
    | apply Keeps.ite | apply State.stepBy_keeps | apply State.flag_keeps

theorem State.rebase_keeps {wm : Bool} {s0 s : State} (hk : Keeps wm s0 s) : Keeps wm s0 (State.rebase s) := by
  unfold State.rebase
  repeat' with_reducible first
    | assumption
    | (extract_lets (onlyGivenNames := true) x; try (refine Keeps.cut (w := wm) (s0 := s0) (x := x) ?_ (fun hx => ?_); on_goal 1 => (unfold x; clear x)))
    | refine Keeps.lit rfl rfl rfl rfl (by assumption) (by assumption) | apply Keeps.ite | apply State.rwh_keeps | apply State.wr_keeps
    | apply State.flag_keeps

theorem execTbStep_keeps {wm : Bool} {s0 s : State} (dt : Nat) (src : Src) (value : Nat) (hk : Keeps wm s0 s) : KeepsR wm s0 (execTbStep dt src value s) := by
  unfold execTbStep
  repeat' with_reducible first
    | assumption
    | (extract_lets (onlyGivenNames := true) x; try (refine Keeps.cut (w := wm) (s0 := s0) (x := x) ?_ (fun hx => ?_); on_goal 1 => (unfold x; clear x)))
    | apply Keeps.ite | apply KeepsR.needs | apply State.after_keeps | apply State.keyed_keeps | apply State.tbStepWrite_keeps | (intro x hx)

theorem State.tbAdjWrite_keeps {wm : Bool} {s0 s : State} (v : Nat) (hk : Keeps wm s0 s) : Keeps wm s0 (State.tbAdjWrite s v) := by
  unfold State.tbAdjWrite
  repeat' with_reducible first
    | assumption
    | (extract_lets (onlyGivenNames := true) x; try (refine Keeps.cut (w := wm) (s0 := s0) (x := x) ?_ (fun hx => ?_); on_goal 1 => (unfold x; clear x)))
    | refine Keeps.lit rfl rfl rfl rfl (by assumption) (by assumption) | apply Keeps.ite | apply State.flag_keeps | apply State.wr_keeps

theorem execTbAdj_keeps {wm : Bool} {s0 s : State} (dt : Nat) (src : Src) (value : Nat) (hk : Keeps wm s0 s) : KeepsR wm s0 (execTbAdj dt src value s) := by
  unfold execTbAdj
  repeat' with_reducible first
    | assumption
    | (extract_lets (onlyGivenNames := true) x; try (refine Keeps.cut (w := wm) (s0 := s0) (x := x) ?_ (fun hx => ?_); on_goal 1 => (unfold x; clear x)))
    | apply Keeps.ite | apply KeepsR.needs | apply State.after_keeps | apply State.tbAdjWrite_keeps

theorem execRefLoss_keeps {wm : Bool} {s0 s : State} (dt : Nat) (hk : Keeps wm s0 s) : KeepsR wm s0 (execRefLoss dt s) := by
  unfold execRefLoss
  repeat' with_reducible first
    | assumption
    | (extract_lets (onlyGivenNames := true) x; try (refine Keeps.cut (w := wm) (s0 := s0) (x := x) ?_ (fun hx => ?_); on_goal 1 => (unfold x; clear x)))
    | refine Keeps.lit rfl rfl rfl rfl (by assumption) (by assumption) | apply Keeps.ite | apply KeepsR.next | apply State.after_keeps
    | apply State.flag_keeps | apply State.journal_keeps

theorem State.ppsAccept_keeps {wm : Bool} {s0 s : State} (e : Rat) (hk : Keeps wm s0 s) : Keeps wm s0 (State.ppsAccept s e) := by
  unfold State.ppsAccept
  repeat' with_reducible first
    | assumption
    | (extract_lets (onlyGivenNames := true) x; try (refine Keeps.cut (w := wm) (s0 := s0) (x := x) ?_ (fun hx => ?_); on_goal 1 => (unfold x; clear x)))
    | refine Keeps.lit rfl rfl rfl rfl (by assumption) (by assumption) | apply Keeps.ite | apply State.flag_keeps | apply State.wr_keeps
    | apply State.wrS_keeps | apply State.rwh_keeps

theorem State.ppsEdge_keeps {wm : Bool} {s0 s : State} (hk : Keeps wm s0 s) : Keeps wm s0 (State.ppsEdge s) := by
  unfold State.ppsEdge
  repeat' with_reducible first
    | assumption
    | (extract_lets (onlyGivenNames := true) x; try (refine Keeps.cut (w := wm) (s0 := s0) (x := x) ?_ (fun hx => ?_); on_goal 1 => (unfold x; clear x)))
    | refine Keeps.lit rfl rfl rfl rfl (by assumption) (by assumption) | apply Keeps.ite | apply State.ppsAccept_keeps | apply State.bump_keeps
    | (clear_value *; split)

theorem execPpsEdge_keeps {wm : Bool} {s0 s : State} (dt : Nat) (rising : Bool) (hk : Keeps wm s0 s) : KeepsR wm s0 (execPpsEdge dt rising s) := by
  unfold execPpsEdge
  repeat' with_reducible first
    | assumption
    | (extract_lets (onlyGivenNames := true) x; try (refine Keeps.cut (w := wm) (s0 := s0) (x := x) ?_ (fun hx => ?_); on_goal 1 => (unfold x; clear x)))
    | apply Keeps.ite | apply KeepsR.next | apply State.after_keeps | apply State.ppsEdge_keeps

theorem execPpsTimeout_keeps {wm : Bool} {s0 s : State} (hk : Keeps wm s0 s) : KeepsR wm s0 (execPpsTimeout s) := by
  unfold execPpsTimeout
  repeat' with_reducible first
    | assumption
    | (extract_lets (onlyGivenNames := true) x; try (refine Keeps.cut (w := wm) (s0 := s0) (x := x) ?_ (fun hx => ?_); on_goal 1 => (unfold x; clear x)))
    | refine Keeps.lit rfl rfl rfl rfl (by assumption) (by assumption) | apply Keeps.ite | apply KeepsR.next | apply State.runRim_keeps
    | apply State.wr_keeps

theorem execPpsOutPulse_keeps {wm : Bool} {s0 s : State} (hk : Keeps wm s0 s) : KeepsR wm s0 (execPpsOutPulse s) := by
  unfold execPpsOutPulse
  repeat' with_reducible first
    | assumption
    | (extract_lets (onlyGivenNames := true) x; try (refine Keeps.cut (w := wm) (s0 := s0) (x := x) ?_ (fun hx => ?_); on_goal 1 => (unfold x; clear x)))
    | refine Keeps.lit rfl rfl rfl rfl (by first | assumption | (refine KeepsO.get (by assumption) ?_; apply State.reach_keeps; assumption)) (by first | assumption | (refine KeepsO.get (by assumption) ?_; apply State.reach_keeps; assumption))
    | apply Keeps.ite | apply KeepsR.next | apply State.emit_keeps | apply State.rwh_keeps | split

theorem execTsuCalibration_keeps {wm : Bool} {s0 s : State} (dt : Nat) (u : Nat) (residualPs : Nat) (hk : Keeps wm s0 s) : KeepsR wm s0 (execTsuCalibration dt u residualPs s) := by
  unfold execTsuCalibration
  repeat' with_reducible first
    | assumption
    | (extract_lets (onlyGivenNames := true) x; try (refine Keeps.cut (w := wm) (s0 := s0) (x := x) ?_ (fun hx => ?_); on_goal 1 => (unfold x; clear x)))
    | refine Keeps.lit rfl rfl rfl rfl (by assumption) (by assumption) | apply Keeps.ite | apply KeepsR.needs | apply State.after_keeps
    | apply State.flagBit_keeps | apply State.flag_keeps | apply State.journalBy_keeps | apply State.unitError_keeps

theorem State.showCap_keeps {wm : Bool} {s0 s : State} (i : Nat) (hk : Keeps wm s0 s) : Keeps wm s0 (State.showCap s i) := by
  unfold State.showCap
  repeat' with_reducible first
    | assumption
    | (extract_lets (onlyGivenNames := true) x; try (refine Keeps.cut (w := wm) (s0 := s0) (x := x) ?_ (fun hx => ?_); on_goal 1 => (unfold x; clear x)))
    | apply State.wr_keeps | apply State.wrB_keeps | (clear_value *; split)

theorem State.capPush_keeps {wm : Bool} {s0 s : State} (i : Nat) (rising : Bool) (hk : Keeps wm s0 s) : Keeps wm s0 (State.capPush s i rising) := by
  unfold State.capPush
  repeat' with_reducible first
    | assumption
    | (extract_lets (onlyGivenNames := true) x; try (refine Keeps.cut (w := wm) (s0 := s0) (x := x) ?_ (fun hx => ?_); on_goal 1 => (unfold x; clear x)))
    | refine Keeps.lit rfl rfl rfl rfl (by assumption) (by assumption) | apply Keeps.ite | apply State.bump_keeps | apply State.showCap_keeps
    | apply State.raiseIntAt_keeps

theorem execCapWindowClose_keeps {wm : Bool} {s0 s : State} (i : Nat) (hk : Keeps wm s0 s) : KeepsR wm s0 (execCapWindowClose i s) := by
  unfold execCapWindowClose
  repeat' with_reducible first
    | assumption
    | (extract_lets (onlyGivenNames := true) x; try (refine Keeps.cut (w := wm) (s0 := s0) (x := x) ?_ (fun hx => ?_); on_goal 1 => (unfold x; clear x)))
    | refine Keeps.lit rfl rfl rfl rfl (by first | assumption | (refine KeepsO.get (by assumption) ?_; apply State.reach_keeps; assumption)) (by first | assumption | (refine KeepsO.get (by assumption) ?_; apply State.reach_keeps; assumption))
    | apply Keeps.ite | apply KeepsR.needs | apply State.putAct_keeps | apply State.wrBoth_keeps | apply State.rwh_keeps | split

theorem State.capRead_keeps {wm : Bool} {s0 s : State} (i : Nat) (hk : Keeps wm s0 s) : Keeps wm s0 (State.capRead s i).1 := by
  show KeepsP wm s0 _
  unfold State.capRead
  repeat' with_reducible first
    | assumption
    | (extract_lets (onlyGivenNames := true) x; try (refine Keeps.cut (w := wm) (s0 := s0) (x := x) ?_ (fun hx => ?_); on_goal 1 => (unfold x; clear x)))
    | refine Keeps.lit rfl rfl rfl rfl (by assumption) (by assumption) | apply KeepsP.mk | apply State.showCap_keeps | apply State.putRaw_keeps | split

theorem execCapStampRead_keeps {wm : Bool} {s0 s : State} (dt : Nat) (r : Reader) (i : Nat) (hk : Keeps wm s0 s) : KeepsR wm s0 (execCapStampRead dt r i s) := by
  unfold execCapStampRead
  repeat' with_reducible first
    | assumption
    | (extract_lets (onlyGivenNames := true) x; try (refine Keeps.cut (w := wm) (s0 := s0) (x := x) ?_ (fun hx => ?_); on_goal 1 => (unfold x; clear x)))
    | apply Keeps.ite | apply KeepsR.needs | apply State.after_keeps | apply State.capRead_keeps | apply State.answer_keeps

theorem State.showEvq_keeps {wm : Bool} {s0 s : State} (j : Nat) (hk : Keeps wm s0 s) : Keeps wm s0 (State.showEvq s j) := by
  unfold State.showEvq
  repeat' with_reducible first
    | assumption
    | (extract_lets (onlyGivenNames := true) x; try (refine Keeps.cut (w := wm) (s0 := s0) (x := x) ?_ (fun hx => ?_); on_goal 1 => (unfold x; clear x)))
    | apply State.wr_keeps | (clear_value *; split)

theorem State.softField_keeps {wm : Bool} {s0 s : State} (f : Fld) (v : Nat) (hk : Keeps wm s0 s) : Keeps wm s0 (State.softField s f v) := by
  unfold State.softField
  repeat' with_reducible first
    | assumption
    | (extract_lets (onlyGivenNames := true) x; try (refine Keeps.cut (w := wm) (s0 := s0) (x := x) ?_ (fun hx => ?_); on_goal 1 => (unfold x; clear x)))
    | refine Keeps.lit rfl rfl rfl rfl (by assumption) (by assumption) | apply State.wr_keeps

theorem State.evtAtWrite_keeps {wm : Bool} {s0 s : State} (j : Nat) (v : Nat) (hk : Keeps wm s0 s) : Keeps wm s0 (State.evtAtWrite s j v) := by
  unfold State.evtAtWrite
  repeat' with_reducible first
    | assumption
    | (extract_lets (onlyGivenNames := true) x; try (refine Keeps.cut (w := wm) (s0 := s0) (x := x) ?_ (fun hx => ?_); on_goal 1 => (unfold x; clear x)))
    | refine Keeps.lit rfl rfl rfl rfl (by assumption) (by assumption) | apply Keeps.ite | apply State.flag_keeps | apply State.showEvq_keeps
    | apply State.softField_keeps

theorem execEvtAtWrite_keeps {wm : Bool} {s0 s : State} (dt : Nat) (src : Src) (j : Nat) (value : Nat) (hk : Keeps wm s0 s) : KeepsR wm s0 (execEvtAtWrite dt src j value s) := by
  unfold execEvtAtWrite
  repeat' with_reducible first
    | assumption
    | (extract_lets (onlyGivenNames := true) x; try (refine Keeps.cut (w := wm) (s0 := s0) (x := x) ?_ (fun hx => ?_); on_goal 1 => (unfold x; clear x)))
    | apply Keeps.ite | apply KeepsR.needs | apply State.after_keeps | apply State.evtAtWrite_keeps

theorem execEvtQueueInstant_keeps {wm : Bool} {s0 s : State} (j : Nat) (hk : Keeps wm s0 s) : KeepsR wm s0 (execEvtQueueInstant j s) := by
  unfold execEvtQueueInstant
  repeat' with_reducible first
    | assumption
    | (extract_lets (onlyGivenNames := true) x; try (refine Keeps.cut (w := wm) (s0 := s0) (x := x) ?_ (fun hx => ?_); on_goal 1 => (unfold x; clear x)))
    | refine Keeps.lit rfl rfl rfl rfl (by first | assumption | (refine KeepsO.get (by assumption) ?_; apply State.reach_keeps; assumption)) (by first | assumption | (refine KeepsO.get (by assumption) ?_; apply State.reach_keeps; assumption))
    | apply Keeps.ite | apply KeepsR.needs | apply State.showEvq_keeps | apply State.wrB_keeps | apply State.emit_keeps | split

theorem State.evPulse_keeps {wm : Bool} {s0 s : State} (j : Nat) (t : Nat) (w : Nat) (hk : Keeps wm s0 s) : Keeps wm s0 (State.evPulse s j t w) := by
  unfold State.evPulse
  repeat' with_reducible first
    | assumption
    | (extract_lets (onlyGivenNames := true) x; try (refine Keeps.cut (w := wm) (s0 := s0) (x := x) ?_ (fun hx => ?_); on_goal 1 => (unfold x; clear x)))
    | refine Keeps.lit rfl rfl rfl rfl (by assumption) (by assumption) | apply Keeps.ite | apply State.emit_keeps

theorem execEvtTrainPulse_keeps {wm : Bool} {s0 s : State} (j : Nat) (hk : Keeps wm s0 s) : KeepsR wm s0 (execEvtTrainPulse j s) := by
  unfold execEvtTrainPulse
  repeat' with_reducible first
    | assumption
    | (extract_lets (onlyGivenNames := true) x; try (refine Keeps.cut (w := wm) (s0 := s0) (x := x) ?_ (fun hx => ?_); on_goal 1 => (unfold x; clear x)))
    | refine Keeps.lit rfl rfl rfl rfl (by first | assumption | (refine KeepsO.get (by assumption) ?_; apply State.reach_keeps; assumption)) (by first | assumption | (refine KeepsO.get (by assumption) ?_; apply State.reach_keeps; assumption))
    | apply Keeps.ite | apply KeepsR.needs | apply State.flag_keeps | apply State.evPulse_keeps | apply State.rwh_keeps | split

theorem execEvtConversionPulse_keeps {wm : Bool} {s0 s : State} (j : Nat) (hk : Keeps wm s0 s) : KeepsR wm s0 (execEvtConversionPulse j s) := by
  unfold execEvtConversionPulse
  repeat' with_reducible first
    | assumption
    | (extract_lets (onlyGivenNames := true) x; try (refine Keeps.cut (w := wm) (s0 := s0) (x := x) ?_ (fun hx => ?_); on_goal 1 => (unfold x; clear x)))
    | refine Keeps.lit rfl rfl rfl rfl (by assumption) (by assumption) | apply Keeps.ite | apply KeepsR.needs | apply State.runTo_keeps
    | apply State.evPulse_keeps | split

theorem State.evDrive_keeps {wm : Bool} {s0 s : State} (j : Nat) (hk : Keeps wm s0 s) : Keeps wm s0 (State.evDrive s j) := by
  unfold State.evDrive
  repeat' with_reducible first
    | assumption
    | (extract_lets (onlyGivenNames := true) x; try (refine Keeps.cut (w := wm) (s0 := s0) (x := x) ?_ (fun hx => ?_); on_goal 1 => (unfold x; clear x)))
    | apply Keeps.ite | apply State.emit_keeps

theorem State.evtCommitted_keeps {wm : Bool} {s0 s : State} (j : Nat) (oldMode : Nat) (oldIdle : Nat) (hk : Keeps wm s0 s) : Keeps wm s0 (State.evtCommitted s j oldMode oldIdle) := by
  unfold State.evtCommitted
  repeat' with_reducible first
    | assumption
    | (extract_lets (onlyGivenNames := true) x; try (refine Keeps.cut (w := wm) (s0 := s0) (x := x) ?_ (fun hx => ?_); on_goal 1 => (unfold x; clear x)))
    | refine Keeps.lit rfl rfl rfl rfl (by assumption) (by assumption) | apply Keeps.ite | apply State.evDrive_keeps | apply State.wr_keeps
    | apply State.flag_keeps

theorem State.pRateCheck_keeps {wm : Bool} {s0 s : State} (hk : Keeps wm s0 s) : Keeps wm s0 (State.pRateCheck s) := by
  unfold State.pRateCheck
  repeat' with_reducible first
    | assumption
    | (extract_lets (onlyGivenNames := true) x; try (refine Keeps.cut (w := wm) (s0 := s0) (x := x) ?_ (fun hx => ?_); on_goal 1 => (unfold x; clear x)))
    | apply Keeps.ite | apply State.flag_keeps

end Sys2Proof.Machine
end

