-- ==== Sys2Proof/Laws/KeepsPower.lean ====
section
/-! SUPPORT. Every operation of Machine/Power.lean keeps the canonical form, the queue and the fuses. -/

set_option linter.unusedVariables false
set_option linter.tactic.unusedName false
set_option linter.unusedTactic false
set_option linter.unreachableTactic false

namespace Sys2Proof.Machine

theorem State.setCode_keeps {wm : Bool} {s0 s : State} (n : Nat) (hk : Keeps wm s0 s) : Keeps wm s0 (State.setCode s n) := by
  unfold State.setCode
  repeat' with_reducible first
    | assumption
    | (extract_lets (onlyGivenNames := true) x; try (refine Keeps.cut (w := wm) (s0 := s0) (x := x) ?_ (fun hx => ?_); on_goal 1 => (unfold x; clear x)))
    | apply State.wr_keeps

theorem State.targetTop_keeps {wm : Bool} {s0 s : State} (hk : Keeps wm s0 s) : Keeps wm s0 (State.targetTop s) := by
  unfold State.targetTop
  repeat' with_reducible first
    | assumption
    | (extract_lets (onlyGivenNames := true) x; try (refine Keeps.cut (w := wm) (s0 := s0) (x := x) ?_ (fun hx => ?_); on_goal 1 => (unfold x; clear x)))
    | apply State.wr_keeps | apply State.raiseInt_keeps

theorem State.vidJump_keeps {wm : Bool} {s0 s : State} (hk : Keeps wm s0 s) : Keeps wm s0 (State.vidJump s) := by
  unfold State.vidJump
  repeat' with_reducible first
    | assumption
    | (extract_lets (onlyGivenNames := true) x; try (refine Keeps.cut (w := wm) (s0 := s0) (x := x) ?_ (fun hx => ?_); on_goal 1 => (unfold x; clear x)))
    | refine Keeps.lit rfl rfl rfl rfl (by assumption) (by assumption) | apply Keeps.ite | apply State.targetTop_keeps | apply State.bump_keeps
    | apply State.flag_keeps | apply State.journal_keeps | apply State.wr_keeps

theorem State.slackReport_keeps {wm : Bool} {s0 s : State} (src : Nat) (idx : Nat) (pct : Rat) (hk : Keeps wm s0 s) : Keeps wm s0 (State.slackReport s src idx pct) := by
  unfold State.slackReport
  repeat' with_reducible first
    | assumption
    | (extract_lets (onlyGivenNames := true) x; try (refine Keeps.cut (w := wm) (s0 := s0) (x := x) ?_ (fun hx => ?_); on_goal 1 => (unfold x; clear x)))
    | refine Keeps.lit rfl rfl rfl rfl (by assumption) (by assumption) | apply Keeps.ite | apply State.vidJump_keeps | split

theorem State.bandStep_keeps {wm : Bool} {s0 s : State} (n : Nat) (hk : Keeps wm s0 s) : Keeps wm s0 (State.bandStep s n) := by
  unfold State.bandStep
  repeat' with_reducible first
    | assumption
    | (extract_lets (onlyGivenNames := true) x; try (refine Keeps.cut (w := wm) (s0 := s0) (x := x) ?_ (fun hx => ?_); on_goal 1 => (unfold x; clear x)))
    | apply Keeps.ite | apply State.wr_keeps | apply State.journal_keeps | apply State.raiseInt_keeps

theorem State.windowEnd_keeps {wm : Bool} {s0 s : State} (hk : Keeps wm s0 s) : Keeps wm s0 (State.windowEnd s) := by
  unfold State.windowEnd
  repeat' with_reducible first
    | assumption
    | (extract_lets (onlyGivenNames := true) x; try (refine Keeps.cut (w := wm) (s0 := s0) (x := x) ?_ (fun hx => ?_); on_goal 1 => (unfold x; clear x)))
    | refine Keeps.lit rfl rfl rfl rfl (by assumption) (by assumption) | apply Keeps.ite | apply State.bandStep_keeps | apply State.wrS_keeps
    | apply State.wr_keeps | split

theorem execServoWindowEnd_keeps {wm : Bool} {s0 s : State} (hk : Keeps wm s0 s) : KeepsR wm s0 (execServoWindowEnd s) := by
  unfold execServoWindowEnd
  repeat' with_reducible first
    | assumption
    | (extract_lets (onlyGivenNames := true) x; try (refine Keeps.cut (w := wm) (s0 := s0) (x := x) ?_ (fun hx => ?_); on_goal 1 => (unfold x; clear x)))
    | refine Keeps.lit rfl rfl rfl rfl (by assumption) (by assumption) | apply Keeps.ite | apply KeepsR.next | apply State.runTo_keeps
    | apply State.windowEnd_keeps

theorem execVidStep_keeps {wm : Bool} {s0 s : State} (hk : Keeps wm s0 s) : KeepsR wm s0 (execVidStep s) := by
  unfold execVidStep
  repeat' with_reducible first
    | assumption
    | (extract_lets (onlyGivenNames := true) x; try (refine Keeps.cut (w := wm) (s0 := s0) (x := x) ?_ (fun hx => ?_); on_goal 1 => (unfold x; clear x)))
    | refine Keeps.lit rfl rfl rfl rfl (by assumption) (by assumption) | apply Keeps.ite | apply KeepsR.next | apply State.runRim_keeps
    | apply State.setCode_keeps | apply State.emit_keeps

theorem execSvHoldEnd_keeps {wm : Bool} {s0 s : State} (hk : Keeps wm s0 s) : KeepsR wm s0 (execSvHoldEnd s) := by
  unfold execSvHoldEnd
  repeat' with_reducible first
    | assumption
    | (extract_lets (onlyGivenNames := true) x; try (refine Keeps.cut (w := wm) (s0 := s0) (x := x) ?_ (fun hx => ?_); on_goal 1 => (unfold x; clear x)))
    | refine Keeps.lit rfl rfl rfl rfl (by assumption) (by assumption) | apply KeepsR.next | apply State.runRim_keeps | apply State.wr_keeps | split

theorem execTempSense_keeps {wm : Bool} {s0 s : State} (dt : Nat) (temps : List Int) (hk : Keeps wm s0 s) : KeepsR wm s0 (execTempSense dt temps s) := by
  unfold execTempSense
  repeat' with_reducible first
    | assumption
    | (extract_lets (onlyGivenNames := true) x; try (refine Keeps.cut (w := wm) (s0 := s0) (x := x) ?_ (fun hx => ?_); on_goal 1 => (unfold x; clear x)))
    | apply Keeps.ite | apply KeepsR.needs | apply State.after_keeps | apply State.wrS_keeps | apply State.wr_keeps | apply State.flag_keeps | split

theorem execLiveToggle_keeps {wm : Bool} {s0 s : State} (hk : Keeps wm s0 s) : KeepsR wm s0 (execLiveToggle s) := by
  unfold execLiveToggle
  repeat' with_reducible first
    | assumption
    | (extract_lets (onlyGivenNames := true) x; try (refine Keeps.cut (w := wm) (s0 := s0) (x := x) ?_ (fun hx => ?_); on_goal 1 => (unfold x; clear x)))
    | apply Keeps.ite | apply KeepsR.next | apply State.runRim_keeps | apply State.wrB_keeps | apply State.wr_keeps | apply State.emit_keeps

end Sys2Proof.Machine
end

