-- ==== Sys2Proof/Laws/KeepsStrokes.lean ====
section
/-! SUPPORT. Every operation of Machine/Strokes.lean keeps the canonical form, the queue and the fuses. -/

set_option linter.unusedVariables false
set_option linter.tactic.unusedName false
set_option linter.unusedTactic false
set_option linter.unreachableTactic false

namespace Sys2Proof.Machine

theorem State.putGen_keeps {wm : Bool} {s0 s : State} (n : Nat) (g : Gen) (hk : Keeps wm s0 s) : Keeps wm s0 (State.putGen s n g) := by
  unfold State.putGen
  repeat' with_reducible first
    | refine Keeps.lit rfl rfl rfl rfl (by assumption) (by assumption)

theorem State.putQueue_keeps {wm : Bool} {s0 s : State} (c : Nat) (q : Queue) (hk : Keeps wm s0 s) : Keeps wm s0 (State.putQueue s c q) := by
  unfold State.putQueue
  repeat' with_reducible first
    | refine Keeps.lit rfl rfl rfl rfl (by assumption) (by assumption)

theorem State.setQ_keeps {wm : Bool} {s0 s : State} (c : Nat) (st : Nat) (hk : Keeps wm s0 s) : Keeps wm s0 (State.setQ s c st) := by
  unfold State.setQ
  repeat' with_reducible first
    | assumption | apply State.wr_keeps

theorem State.showGen_keeps {wm : Bool} {s0 s : State} (n : Nat) (hk : Keeps wm s0 s) : Keeps wm s0 (State.showGen s n) := by
  unfold State.showGen
  repeat' with_reducible first
    | assumption
    | (extract_lets (onlyGivenNames := true) x; try (refine Keeps.cut (w := wm) (s0 := s0) (x := x) ?_ (fun hx => ?_); on_goal 1 => (unfold x; clear x)))
    | apply State.wr_keeps | apply State.wrS_keeps

theorem State.setRef_keeps {wm : Bool} {s0 s : State} (n : Nat) (p : Rat) (v : Rat) (a : Rat) (hk : Keeps wm s0 s) : Keeps wm s0 (State.setRef s n p v a) := by
  unfold State.setRef
  repeat' with_reducible first
    | assumption
    | (extract_lets (onlyGivenNames := true) x; try (refine Keeps.cut (w := wm) (s0 := s0) (x := x) ?_ (fun hx => ?_); on_goal 1 => (unfold x; clear x)))
    | apply Keeps.ite | apply State.putGen_keeps | apply State.flag_keeps | apply State.showGen_keeps

theorem State.setRefs_keeps {wm : Bool} {s0 s : State} (c : Nat) (l : List (Rat × Rat × Rat)) (hk : Keeps wm s0 s) : Keeps wm s0 (State.setRefs s c l) := by
  unfold State.setRefs
  repeat' with_reducible first
    | assumption
    | (extract_lets (onlyGivenNames := true) x; try (refine Keeps.cut (w := wm) (s0 := s0) (x := x) ?_ (fun hx => ?_); on_goal 1 => (unfold x; clear x)))
    | apply State.setRef_keeps | (refine Keeps.forEach ?_ ?_; intro a x hx)

theorem State.axisStop_keeps {wm : Bool} {s0 s : State} (c : Nat) (hk : Keeps wm s0 s) : Keeps wm s0 (State.axisStop s c) := by
  unfold State.axisStop
  repeat' with_reducible first
    | assumption
    | (extract_lets (onlyGivenNames := true) x; try (refine Keeps.cut (w := wm) (s0 := s0) (x := x) ?_ (fun hx => ?_); on_goal 1 => (unfold x; clear x)))
    | apply Keeps.ite | apply State.putGen_keeps | (refine Keeps.forEach ?_ ?_; intro a x hx)

theorem State.showQueueRegs_keeps {wm : Bool} {s0 s : State} (c : Nat) (hk : Keeps wm s0 s) : Keeps wm s0 (State.showQueueRegs s c) := by
  unfold State.showQueueRegs
  repeat' with_reducible first
    | assumption
    | (extract_lets (onlyGivenNames := true) x; try (refine Keeps.cut (w := wm) (s0 := s0) (x := x) ?_ (fun hx => ?_); on_goal 1 => (unfold x; clear x)))
    | apply State.wr_keeps

theorem State.dropRecs_keeps {wm : Bool} {s0 s : State} (c : Nat) (n : Nat) (hk : Keeps wm s0 s) : Keeps wm s0 (State.dropRecs s c n) := by
  unfold State.dropRecs
  repeat' with_reducible first
    | assumption
    | (extract_lets (onlyGivenNames := true) x; try (refine Keeps.cut (w := wm) (s0 := s0) (x := x) ?_ (fun hx => ?_); on_goal 1 => (unfold x; clear x)))
    | apply Keeps.ite | apply State.wr_keeps | apply State.bumpN_keeps | apply State.putQueue_keeps | apply State.showQueueRegs_keeps

theorem State.syncTail_keeps {wm : Bool} {s0 s : State} (c : Nat) (hk : Keeps wm s0 s) : Keeps wm s0 (State.syncTail s c) := by
  unfold State.syncTail
  repeat' with_reducible first
    | assumption
    | (extract_lets (onlyGivenNames := true) x; try (refine Keeps.cut (w := wm) (s0 := s0) (x := x) ?_ (fun hx => ?_); on_goal 1 => (unfold x; clear x)))
    | apply State.putQueue_keeps

theorem State.homeFail_keeps {wm : Bool} {s0 s : State} (n : Nat) (code : Nat) (hk : Keeps wm s0 s) : Keeps wm s0 (State.homeFail s n code) := by
  unfold State.homeFail
  repeat' with_reducible first
    | assumption
    | (extract_lets (onlyGivenNames := true) x; try (refine Keeps.cut (w := wm) (s0 := s0) (x := x) ?_ (fun hx => ?_); on_goal 1 => (unfold x; clear x)))
    | apply State.wr_keeps | apply State.flag_keeps | apply State.putGen_keeps

theorem State.haltQueue_keeps {wm : Bool} {s0 s : State} (c : Nat) (f : Fld) (hk : Keeps wm s0 s) : Keeps wm s0 (State.haltQueue s c f) := by
  unfold State.haltQueue
  repeat' with_reducible first
    | assumption
    | (extract_lets (onlyGivenNames := true) x; try (refine Keeps.cut (w := wm) (s0 := s0) (x := x) ?_ (fun hx => ?_); on_goal 1 => (unfold x; clear x)))
    | apply Keeps.ite | apply State.putGen_keeps | apply State.wr_keeps | apply State.axisStop_keeps | apply State.dropRecs_keeps
    | apply State.putQueue_keeps | apply State.setQ_keeps | apply State.flag_keeps | (clear_value *; split)

theorem State.demandHalt_keeps {wm : Bool} {s0 s : State} (c : Nat) (f : Fld) (hk : Keeps wm s0 s) : Keeps wm s0 (State.demandHalt s c f) := by
  unfold State.demandHalt
  repeat' with_reducible first
    | assumption
    | (extract_lets (onlyGivenNames := true) x; try (refine Keeps.cut (w := wm) (s0 := s0) (x := x) ?_ (fun hx => ?_); on_goal 1 => (unfold x; clear x)))
    | apply Keeps.ite | apply State.flag_keeps | apply State.putQueue_keeps

theorem State.demandHaltOf_keeps {wm : Bool} {s0 s : State} (n : Nat) (f : Fld) (hk : Keeps wm s0 s) : Keeps wm s0 (State.demandHaltOf s n f) := by
  unfold State.demandHaltOf
  repeat' with_reducible first
    | assumption | apply State.demandHalt_keeps | split

theorem State.motAdvance_keeps {wm : Bool} {s0 s : State} (n : Nat) (dt : Rat) (hk : Keeps wm s0 s) : Keeps wm s0 (State.motAdvance s n dt) := by
  unfold State.motAdvance
  repeat' with_reducible first
    | assumption
    | (extract_lets (onlyGivenNames := true) x; try (refine Keeps.cut (w := wm) (s0 := s0) (x := x) ?_ (fun hx => ?_); on_goal 1 => (unfold x; clear x)))
    | apply State.setRef_keeps | apply State.putGen_keeps | split

theorem State.runAxis_keeps {wm : Bool} {s0 s : State} (n : Nat) (w : Rat) (hk : Keeps wm s0 s) : Keeps wm s0 (State.runAxis s n w) := by
  unfold State.runAxis
  repeat' with_reducible first
    | assumption
    | (extract_lets (onlyGivenNames := true) x; try (refine Keeps.cut (w := wm) (s0 := s0) (x := x) ?_ (fun hx => ?_); on_goal 1 => (unfold x; clear x)))
    | apply State.putGen_keeps

theorem State.stopAxis_keeps {wm : Bool} {s0 s : State} (n : Nat) (hk : Keeps wm s0 s) : Keeps wm s0 (State.stopAxis s n) := by
  unfold State.stopAxis
  repeat' with_reducible first
    | assumption
    | (extract_lets (onlyGivenNames := true) x; try (refine Keeps.cut (w := wm) (s0 := s0) (x := x) ?_ (fun hx => ?_); on_goal 1 => (unfold x; clear x)))
    | apply State.putGen_keeps

theorem State.homeStep_keeps {wm : Bool} {s0 s : State} (n : Nat) (h : Homing) (phase : Nat) (hk : Keeps wm s0 s) : Keeps wm s0 (State.homeStep s n h phase) := by
  unfold State.homeStep
  repeat' with_reducible first
    | assumption
    | (extract_lets (onlyGivenNames := true) x; try (refine Keeps.cut (w := wm) (s0 := s0) (x := x) ?_ (fun hx => ?_); on_goal 1 => (unfold x; clear x)))
    | apply State.putGen_keeps | apply State.wr_keeps

theorem State.homeStart_keeps {wm : Bool} {s0 s : State} (n : Nat) (hk : Keeps wm s0 s) : Keeps wm s0 (State.homeStart s n) := by
  unfold State.homeStart
  repeat' with_reducible first
    | assumption
    | (extract_lets (onlyGivenNames := true) x; try (refine Keeps.cut (w := wm) (s0 := s0) (x := x) ?_ (fun hx => ?_); on_goal 1 => (unfold x; clear x)))
    | apply Keeps.ite | apply State.wr_keeps | apply State.homeStep_keeps | apply State.runAxis_keeps

theorem State.stepStart_keeps {wm : Bool} {s0 s : State} (n : Nat) (hk : Keeps wm s0 s) : Keeps wm s0 (State.stepStart s n) := by
  unfold State.stepStart
  repeat' with_reducible first
    | assumption
    | (extract_lets (onlyGivenNames := true) x; try (refine Keeps.cut (w := wm) (s0 := s0) (x := x) ?_ (fun hx => ?_); on_goal 1 => (unfold x; clear x)))
    | apply State.putGen_keeps

theorem State.clearDec_keeps {wm : Bool} {s0 s : State} (c : Nat) (hk : Keeps wm s0 s) : Keeps wm s0 (State.clearDec s c) := by
  unfold State.clearDec
  repeat' with_reducible first
    | assumption
    | (extract_lets (onlyGivenNames := true) x; try (refine Keeps.cut (w := wm) (s0 := s0) (x := x) ?_ (fun hx => ?_); on_goal 1 => (unfold x; clear x)))
    | apply State.wr_keeps | (refine Keeps.forEach ?_ ?_; intro a x hx)

theorem State.startStroke_keeps {wm : Bool} {s0 s : State} (c : Nat) (hk : Keeps wm s0 s) : Keeps wm s0 (State.startStroke s c) := by
  unfold State.startStroke
  repeat' with_reducible first
    | assumption
    | (extract_lets (onlyGivenNames := true) x; try (refine Keeps.cut (w := wm) (s0 := s0) (x := x) ?_ (fun hx => ?_); on_goal 1 => (unfold x; clear x)))
    | apply State.putQueue_keeps | apply State.clearDec_keeps | apply State.setQ_keeps | apply State.wr_keeps | apply State.homeStart_keeps
    | apply State.stepStart_keeps | apply State.showQueueRegs_keeps | split | (clear_value *; split)

theorem State.finishStroke_keeps {wm : Bool} {s0 s : State} (c : Nat) (hk : Keeps wm s0 s) : Keeps wm s0 (State.finishStroke s c) := by
  unfold State.finishStroke
  repeat' with_reducible first
    | assumption
    | (extract_lets (onlyGivenNames := true) x; try (refine Keeps.cut (w := wm) (s0 := s0) (x := x) ?_ (fun hx => ?_); on_goal 1 => (unfold x; clear x)))
    | apply Keeps.ite | apply State.wr_keeps | apply State.putQueue_keeps | apply State.showQueueRegs_keeps | apply State.raiseInt_keeps

theorem State.putRho_keeps {wm : Bool} {s0 s : State} (c : Nat) (r : Nat) (hk : Keeps wm s0 s) : Keeps wm s0 (State.putRho s c r) := by
  unfold State.putRho
  repeat' with_reducible first
    | assumption
    | (extract_lets (onlyGivenNames := true) x; try (refine Keeps.cut (w := wm) (s0 := s0) (x := x) ?_ (fun hx => ?_); on_goal 1 => (unfold x; clear x)))
    | apply State.putQueue_keeps | apply State.wr_keeps

theorem State.goIdle_keeps {wm : Bool} {s0 s : State} (c : Nat) (hk : Keeps wm s0 s) : Keeps wm s0 (State.goIdle s c) := by
  unfold State.goIdle
  repeat' with_reducible first
    | assumption
    | (extract_lets (onlyGivenNames := true) x; try (refine Keeps.cut (w := wm) (s0 := s0) (x := x) ?_ (fun hx => ?_); on_goal 1 => (unfold x; clear x)))
    | apply State.putQueue_keeps | apply State.setQ_keeps | apply State.wr_keeps | apply State.putRho_keeps | apply State.syncTail_keeps

theorem State.goStopped_keeps {wm : Bool} {s0 s : State} (c : Nat) (mark : Bool) (hk : Keeps wm s0 s) : Keeps wm s0 (State.goStopped s c mark) := by
  unfold State.goStopped
  repeat' with_reducible first
    | assumption
    | (extract_lets (onlyGivenNames := true) x; try (refine Keeps.cut (w := wm) (s0 := s0) (x := x) ?_ (fun hx => ?_); on_goal 1 => (unfold x; clear x)))
    | apply State.putQueue_keeps | apply State.setQ_keeps | apply State.putRho_keeps

theorem State.runEmpty_keeps {wm : Bool} {s0 s : State} (c : Nat) (motion : Bool) (hk : Keeps wm s0 s) : Keeps wm s0 (State.runEmpty s c motion) := by
  unfold State.runEmpty
  repeat' with_reducible first
    | assumption
    | (extract_lets (onlyGivenNames := true) x; try (refine Keeps.cut (w := wm) (s0 := s0) (x := x) ?_ (fun hx => ?_); on_goal 1 => (unfold x; clear x)))
    | apply Keeps.ite | apply State.haltQueue_keeps | apply State.goIdle_keeps

theorem State.replanQueue_keeps {wm : Bool} {s0 s : State} (c : Nat) (hk : Keeps wm s0 s) : Keeps wm s0 (State.replanQueue s c) := by
  unfold State.replanQueue
  repeat' with_reducible first
    | assumption
    | (extract_lets (onlyGivenNames := true) x; try (refine Keeps.cut (w := wm) (s0 := s0) (x := x) ?_ (fun hx => ?_); on_goal 1 => (unfold x; clear x)))
    | apply Keeps.ite | apply State.putQueue_keeps | apply State.clearDec_keeps | apply State.flag_keeps | apply State.wrU_keeps | split
    | (clear_value *; split)

theorem State.jogSoft_keeps {wm : Bool} {s0 s : State} (c : Nat) (hk : Keeps wm s0 s) : Keeps wm s0 (State.jogSoft s c) := by
  unfold State.jogSoft
  repeat' with_reducible first
    | assumption
    | (extract_lets (onlyGivenNames := true) x; try (refine Keeps.cut (w := wm) (s0 := s0) (x := x) ?_ (fun hx => ?_); on_goal 1 => (unfold x; clear x)))
    | apply Keeps.ite | apply State.putQueue_keeps | apply State.flag_keeps | split

theorem State.homeApply_keeps {wm : Bool} {s0 s : State} (n : Nat) (cap : Int) (hk : Keeps wm s0 s) : Keeps wm s0 (State.homeApply s n cap) := by
  unfold State.homeApply
  repeat' with_reducible first
    | assumption
    | (extract_lets (onlyGivenNames := true) x; try (refine Keeps.cut (w := wm) (s0 := s0) (x := x) ?_ (fun hx => ?_); on_goal 1 => (unfold x; clear x)))
    | apply Keeps.ite | apply State.putGen_keeps | apply State.wr_keeps | apply State.showGen_keeps

theorem State.homeDone_keeps {wm : Bool} {s0 s : State} (c : Nat) (n : Nat) (hk : Keeps wm s0 s) : Keeps wm s0 (State.homeDone s c n) := by
  unfold State.homeDone
  repeat' with_reducible first
    | assumption
    | (extract_lets (onlyGivenNames := true) x; try (refine Keeps.cut (w := wm) (s0 := s0) (x := x) ?_ (fun hx => ?_); on_goal 1 => (unfold x; clear x)))
    | apply State.homeStep_keeps | apply State.finishStroke_keeps

theorem State.homeHalt_keeps {wm : Bool} {s0 s : State} (c : Nat) (n : Nat) (code : Nat) (dt : Rat) (hk : Keeps wm s0 s) : Keeps wm s0 (State.homeHalt s c n code dt) := by
  unfold State.homeHalt
  repeat' with_reducible first
    | assumption
    | (extract_lets (onlyGivenNames := true) x; try (refine Keeps.cut (w := wm) (s0 := s0) (x := x) ?_ (fun hx => ?_); on_goal 1 => (unfold x; clear x)))
    | apply State.homeFail_keeps | apply State.haltQueue_keeps | apply State.motAdvance_keeps | (refine Keeps.forEach ?_ ?_; intro a x hx)

theorem State.homeEvent_keeps {wm : Bool} {s0 s : State} (n : Nat) (m : Nat) (phase : Nat) (h : Homing) (hk : Keeps wm s0 s) : Keeps wm s0 (State.homeEvent s n m phase h) := by
  unfold State.homeEvent
  repeat' with_reducible first
    | assumption
    | (extract_lets (onlyGivenNames := true) x; try (refine Keeps.cut (w := wm) (s0 := s0) (x := x) ?_ (fun hx => ?_); on_goal 1 => (unfold x; clear x)))
    | apply State.stopAxis_keeps | apply State.homeApply_keeps | apply State.homeStep_keeps

theorem State.homeFinal_keeps {wm : Bool} {s0 s : State} (c : Nat) (n : Nat) (h : Homing) (hk : Keeps wm s0 s) : Keeps wm s0 (State.homeFinal s c n h) := by
  unfold State.homeFinal
  repeat' with_reducible first
    | assumption
    | (extract_lets (onlyGivenNames := true) x; try (refine Keeps.cut (w := wm) (s0 := s0) (x := x) ?_ (fun hx => ?_); on_goal 1 => (unfold x; clear x)))
    | apply Keeps.ite | apply State.homeDone_keeps | apply State.homeStep_keeps | apply State.putGen_keeps

theorem State.homeLimit_keeps {wm : Bool} {s0 s : State} (c : Nat) (n : Nat) (h : Homing) (dt : Rat) (hk : Keeps wm s0 s) : Keeps wm s0 (State.homeLimit s c n h dt) := by
  unfold State.homeLimit
  repeat' with_reducible first
    | assumption
    | (extract_lets (onlyGivenNames := true) x; try (refine Keeps.cut (w := wm) (s0 := s0) (x := x) ?_ (fun hx => ?_); on_goal 1 => (unfold x; clear x)))
    | apply Keeps.ite | apply State.homeHalt_keeps | apply State.homeStep_keeps | apply State.stopAxis_keeps | apply State.motAdvance_keeps

theorem State.homeTurn_keeps {wm : Bool} {s0 s : State} (c : Nat) (n : Nat) (hk : Keeps wm s0 s) : Keeps wm s0 (State.homeTurn s c n) := by
  unfold State.homeTurn
  repeat' with_reducible first
    | assumption
    | (extract_lets (onlyGivenNames := true) x; try (refine Keeps.cut (w := wm) (s0 := s0) (x := x) ?_ (fun hx => ?_); on_goal 1 => (unfold x; clear x)))
    | apply Keeps.ite | apply State.homeStep_keeps | apply State.runAxis_keeps | apply State.stopAxis_keeps | apply State.homeEvent_keeps
    | apply State.homeApply_keeps | apply State.homeFinal_keeps | apply State.setRef_keeps | apply State.homeDone_keeps

theorem State.homeAdvance_keeps {wm : Bool} {s0 s : State} (c : Nat) (n : Nat) (dt : Rat) (hk : Keeps wm s0 s) : Keeps wm s0 (State.homeAdvance s c n dt) := by
  unfold State.homeAdvance
  repeat' with_reducible first
    | assumption
    | (extract_lets (onlyGivenNames := true) x; try (refine Keeps.cut (w := wm) (s0 := s0) (x := x) ?_ (fun hx => ?_); on_goal 1 => (unfold x; clear x)))
    | apply Keeps.ite | apply State.homeLimit_keeps | apply State.homeTurn_keeps | apply State.motAdvance_keeps

theorem State.stepAdvance_keeps {wm : Bool} {s0 s : State} (c : Nat) (n : Nat) (hk : Keeps wm s0 s) : Keeps wm s0 (State.stepAdvance s c n) := by
  unfold State.stepAdvance
  repeat' with_reducible first
    | assumption
    | (extract_lets (onlyGivenNames := true) x; try (refine Keeps.cut (w := wm) (s0 := s0) (x := x) ?_ (fun hx => ?_); on_goal 1 => (unfold x; clear x)))
    | apply Keeps.ite | apply State.flag_keeps | apply State.setRef_keeps

theorem State.homeFbFault_keeps {wm : Bool} {s0 s : State} (n : Nat) (hk : Keeps wm s0 s) : Keeps wm s0 (State.homeFbFault s n) := by
  unfold State.homeFbFault
  repeat' with_reducible first
    | assumption
    | (extract_lets (onlyGivenNames := true) x; try (refine Keeps.cut (w := wm) (s0 := s0) (x := x) ?_ (fun hx => ?_); on_goal 1 => (unfold x; clear x)))
    | apply Keeps.ite | apply State.wr_keeps | apply State.homeFail_keeps | apply State.demandHaltOf_keeps

theorem State.microstep_keeps {wm : Bool} {s0 s : State} (n : Nat) (hk : Keeps wm s0 s) : Keeps wm s0 (State.microstep s n) := by
  unfold State.microstep
  repeat' with_reducible first
    | assumption
    | (extract_lets (onlyGivenNames := true) x; try (refine Keeps.cut (w := wm) (s0 := s0) (x := x) ?_ (fun hx => ?_); on_goal 1 => (unfold x; clear x)))
    | apply Keeps.ite | apply State.wr_keeps | apply State.putGen_keeps

theorem State.beginStop_keeps {wm : Bool} {s0 s : State} (c : Nat) (hk : Keeps wm s0 s) : Keeps wm s0 (State.beginStop s c) := by
  unfold State.beginStop
  repeat' with_reducible first
    | assumption
    | (extract_lets (onlyGivenNames := true) x; try (refine Keeps.cut (w := wm) (s0 := s0) (x := x) ?_ (fun hx => ?_); on_goal 1 => (unfold x; clear x)))
    | apply State.putQueue_keeps | apply State.setQ_keeps

theorem State.beginResume_keeps {wm : Bool} {s0 s : State} (c : Nat) (hk : Keeps wm s0 s) : Keeps wm s0 (State.beginResume s c) := by
  unfold State.beginResume
  repeat' with_reducible first
    | assumption
    | (extract_lets (onlyGivenNames := true) x; try (refine Keeps.cut (w := wm) (s0 := s0) (x := x) ?_ (fun hx => ?_); on_goal 1 => (unfold x; clear x)))
    | apply State.putQueue_keeps | apply State.setQ_keeps

theorem State.removeAll_keeps {wm : Bool} {s0 s : State} (c : Nat) (hk : Keeps wm s0 s) : Keeps wm s0 (State.removeAll s c) := by
  unfold State.removeAll
  repeat' with_reducible first
    | assumption
    | (extract_lets (onlyGivenNames := true) x; try (refine Keeps.cut (w := wm) (s0 := s0) (x := x) ?_ (fun hx => ?_); on_goal 1 => (unfold x; clear x)))
    | apply State.dropRecs_keeps | apply State.putQueue_keeps | apply State.goIdle_keeps

theorem State.removeAtRest_keeps {wm : Bool} {s0 s : State} (c : Nat) (hk : Keeps wm s0 s) : Keeps wm s0 (State.removeAtRest s c) := by
  unfold State.removeAtRest
  repeat' with_reducible first
    | assumption
    | (extract_lets (onlyGivenNames := true) x; try (refine Keeps.cut (w := wm) (s0 := s0) (x := x) ?_ (fun hx => ?_); on_goal 1 => (unfold x; clear x)))
    | apply Keeps.ite | apply State.putQueue_keeps | apply State.removeAll_keeps

theorem State.stopOrAbort_keeps {wm : Bool} {s0 s : State} (c : Nat) (abort : Bool) (hk : Keeps wm s0 s) : Keeps wm s0 (State.stopOrAbort s c abort) := by
  unfold State.stopOrAbort
  repeat' with_reducible first
    | assumption
    | (extract_lets (onlyGivenNames := true) x; try (refine Keeps.cut (w := wm) (s0 := s0) (x := x) ?_ (fun hx => ?_); on_goal 1 => (unfold x; clear x)))
    | apply Keeps.ite | apply State.homeFail_keeps | apply State.haltQueue_keeps | apply State.stopAxis_keeps | apply State.beginStop_keeps
    | apply State.putQueue_keeps | split

theorem State.doCmd_keeps {wm : Bool} {s0 s : State} (c : Nat) (w : Nat) (hk : Keeps wm s0 s) : Keeps wm s0 (State.doCmd s c w) := by
  unfold State.doCmd
  repeat' with_reducible first
    | assumption
    | (extract_lets (onlyGivenNames := true) x; try (refine Keeps.cut (w := wm) (s0 := s0) (x := x) ?_ (fun hx => ?_); on_goal 1 => (unfold x; clear x)))
    | apply Keeps.ite | apply State.flag_keeps | apply State.removeAtRest_keeps | apply State.stopOrAbort_keeps | apply State.goStopped_keeps
    | apply State.putQueue_keeps | apply State.setQ_keeps | apply State.putRho_keeps | apply State.stepStart_keeps | apply State.putGen_keeps
    | apply State.beginResume_keeps | split

theorem State.takeCmd_keeps {wm : Bool} {s0 s : State} (c : Nat) (hk : Keeps wm s0 s) : Keeps wm s0 (State.takeCmd s c) := by
  unfold State.takeCmd
  repeat' with_reducible first
    | assumption
    | (extract_lets (onlyGivenNames := true) x; try (refine Keeps.cut (w := wm) (s0 := s0) (x := x) ?_ (fun hx => ?_); on_goal 1 => (unfold x; clear x)))
    | apply Keeps.ite | apply State.putQueue_keeps | apply State.putRaw_keeps | apply State.flag_keeps | apply State.doCmd_keeps
    | apply State.mirror_keeps

theorem State.refuseCmd_keeps {wm : Bool} {s0 s : State} (c : Nat) (hk : Keeps wm s0 s) : Keeps wm s0 (State.refuseCmd s c) := by
  unfold State.refuseCmd
  repeat' with_reducible first
    | assumption
    | (extract_lets (onlyGivenNames := true) x; try (refine Keeps.cut (w := wm) (s0 := s0) (x := x) ?_ (fun hx => ?_); on_goal 1 => (unfold x; clear x)))
    | apply Keeps.ite | apply State.putQueue_keeps | apply State.putRaw_keeps | apply State.flag_keeps

theorem State.holdQueue_keeps {wm : Bool} {s0 s : State} (c : Nat) (hk : Keeps wm s0 s) : Keeps wm s0 (State.holdQueue s c) := by
  unfold State.holdQueue
  repeat' with_reducible first
    | assumption
    | (extract_lets (onlyGivenNames := true) x; try (refine Keeps.cut (w := wm) (s0 := s0) (x := x) ?_ (fun hx => ?_); on_goal 1 => (unfold x; clear x)))
    | apply Keeps.ite | apply State.stopOrAbort_keeps | apply State.goStopped_keeps

theorem State.deliver_keeps {wm : Bool} {s0 s : State} (c : Nat) (rho : Rat) (drho : Rat) (hk : Keeps wm s0 s) : Keeps wm s0 (State.deliver s c rho drho) := by
  unfold State.deliver
  repeat' with_reducible first
    | assumption
    | (extract_lets (onlyGivenNames := true) x; try (refine Keeps.cut (w := wm) (s0 := s0) (x := x) ?_ (fun hx => ?_); on_goal 1 => (unfold x; clear x)))
    | apply State.setRefs_keeps

theorem State.endStrokes_keeps {wm : Bool} {s0 s : State} (c : Nat) (rho drho : Rat) (prev : Int) (n : Nat) (hk : Keeps wm s0 s) :
    Keeps wm s0 (s.endStrokes c rho drho prev n) := by
  induction n generalizing s prev with
  | zero => exact hk
  | succ n ih =>
    unfold State.endStrokes
    repeat' (first
      | with_reducible assumption
      | (extract_lets (onlyGivenNames := true) x; try (refine Keeps.cut (w := wm) (s0 := s0) (x := x) ?_ (fun hx => ?_); on_goal 1 => (unfold x; clear x)))
      | (with_reducible refine Keeps.lit rfl rfl rfl rfl (by with_reducible assumption) (by with_reducible assumption))
      | with_reducible apply Keeps.ite
      | with_reducible apply State.runEmpty_keeps
      | with_reducible apply State.setQ_keeps
      | with_reducible apply State.startStroke_keeps
      | with_reducible apply State.deliver_keeps
      | with_reducible apply State.finishStroke_keeps
      | with_reducible apply State.setRefs_keeps
      | with_reducible apply State.putQueue_keeps
      | (intro x hx)
      | split
      | (clear_value *; split)
      | with_reducible apply ih)

theorem State.rampEnd_keeps {wm : Bool} {s0 s : State} (c : Nat) (hk : Keeps wm s0 s) : Keeps wm s0 (State.rampEnd s c) := by
  unfold State.rampEnd
  repeat' with_reducible first
    | assumption
    | (extract_lets (onlyGivenNames := true) x; try (refine Keeps.cut (w := wm) (s0 := s0) (x := x) ?_ (fun hx => ?_); on_goal 1 => (unfold x; clear x)))
    | apply Keeps.ite | apply State.putQueue_keeps | apply State.setQ_keeps | apply State.goStopped_keeps | apply State.removeAtRest_keeps | split

theorem State.stopOnto_keeps {wm : Bool} {s0 s : State} (c : Nat) (hk : Keeps wm s0 s) : Keeps wm s0 (State.stopOnto s c) := by
  unfold State.stopOnto
  repeat' with_reducible first
    | assumption
    | (extract_lets (onlyGivenNames := true) x; try (refine Keeps.cut (w := wm) (s0 := s0) (x := x) ?_ (fun hx => ?_); on_goal 1 => (unfold x; clear x)))
    | apply Keeps.ite | apply State.putQueue_keeps | apply State.removeAll_keeps | apply State.goStopped_keeps | apply State.homeFail_keeps
    | apply State.haltQueue_keeps | split

theorem State.runQueue_keeps {wm : Bool} {s0 s : State} (c : Nat) (hk : Keeps wm s0 s) : Keeps wm s0 (State.runQueue s c) := by
  unfold State.runQueue
  repeat' with_reducible first
    | assumption
    | (extract_lets (onlyGivenNames := true) x; try (refine Keeps.cut (w := wm) (s0 := s0) (x := x) ?_ (fun hx => ?_); on_goal 1 => (unfold x; clear x)))
    | apply Keeps.ite | apply State.replanQueue_keeps | apply State.putQueue_keeps | apply State.putRho_keeps | apply State.homeAdvance_keeps
    | apply State.motAdvance_keeps | apply State.stepAdvance_keeps | apply State.setRef_keeps | apply State.finishStroke_keeps
    | apply State.startStroke_keeps | apply State.endStrokes_keeps | apply State.jogSoft_keeps | apply State.stopOnto_keeps | apply State.rampEnd_keeps
    | apply State.setQ_keeps | split

theorem State.moveQueue_keeps {wm : Bool} {s0 s : State} (c : Nat) (hk : Keeps wm s0 s) : Keeps wm s0 (State.moveQueue s c) := by
  unfold State.moveQueue
  repeat' with_reducible first
    | assumption
    | (extract_lets (onlyGivenNames := true) x; try (refine Keeps.cut (w := wm) (s0 := s0) (x := x) ?_ (fun hx => ?_); on_goal 1 => (unfold x; clear x)))
    | apply Keeps.ite | apply State.setQ_keeps | apply State.startStroke_keeps | apply State.putRho_keeps | apply State.endStrokes_keeps
    | apply State.motAdvance_keeps | apply State.removeAll_keeps | apply State.runQueue_keeps | (refine Keeps.forEach ?_ ?_; intro a x hx)

theorem State.nextAfterHome_keeps {wm : Bool} {s0 s : State} (c : Nat) (hk : Keeps wm s0 s) : Keeps wm s0 (State.nextAfterHome s c) := by
  unfold State.nextAfterHome
  repeat' with_reducible first
    | assumption
    | (extract_lets (onlyGivenNames := true) x; try (refine Keeps.cut (w := wm) (s0 := s0) (x := x) ?_ (fun hx => ?_); on_goal 1 => (unfold x; clear x)))
    | apply Keeps.ite | apply State.runEmpty_keeps | apply State.startStroke_keeps

theorem State.clearLatches_keeps {wm : Bool} {s0 s : State} (n : Nat) (hk : Keeps wm s0 s) : Keeps wm s0 (State.clearLatches s n) := by
  unfold State.clearLatches
  repeat' with_reducible first
    | assumption
    | (extract_lets (onlyGivenNames := true) x; try (refine Keeps.cut (w := wm) (s0 := s0) (x := x) ?_ (fun hx => ?_); on_goal 1 => (unfold x; clear x)))
    | apply Keeps.ite | apply State.putGen_keeps | apply State.wr_keeps

theorem State.softClamp_keeps {wm : Bool} {s0 s : State} (n : Nat) (hk : Keeps wm s0 s) : Keeps wm s0 (State.softClamp s n) := by
  unfold State.softClamp
  repeat' with_reducible first
    | assumption
    | (extract_lets (onlyGivenNames := true) x; try (refine Keeps.cut (w := wm) (s0 := s0) (x := x) ?_ (fun hx => ?_); on_goal 1 => (unfold x; clear x)))
    | apply Keeps.ite | apply State.setRef_keeps

theorem State.cmdMove_keeps {wm : Bool} {s0 s : State} (c : Nat) (hk : Keeps wm s0 s) : Keeps wm s0 (State.cmdMove s c) := by
  unfold State.cmdMove
  repeat' with_reducible first
    | assumption
    | (extract_lets (onlyGivenNames := true) x; try (refine Keeps.cut (w := wm) (s0 := s0) (x := x) ?_ (fun hx => ?_); on_goal 1 => (unfold x; clear x)))
    | apply State.takeCmd_keeps | apply State.holdQueue_keeps | apply State.moveQueue_keeps | apply State.nextAfterHome_keeps

theorem State.bareMove_keeps {wm : Bool} {s0 s : State} (c : Nat) (hk : Keeps wm s0 s) : Keeps wm s0 (State.bareMove s c) := by
  unfold State.bareMove
  repeat' with_reducible first
    | assumption
    | (extract_lets (onlyGivenNames := true) x; try (refine Keeps.cut (w := wm) (s0 := s0) (x := x) ?_ (fun hx => ?_); on_goal 1 => (unfold x; clear x)))
    | apply State.refuseCmd_keeps | apply State.holdQueue_keeps | apply State.moveQueue_keeps | apply State.nextAfterHome_keeps

theorem State.advanceQueue_keeps {wm : Bool} {s0 s : State} (c : Nat) (hk : Keeps wm s0 s) : Keeps wm s0 (State.advanceQueue c s) := by
  unfold State.advanceQueue
  repeat' with_reducible first
    | assumption
    | (extract_lets (onlyGivenNames := true) x; try (refine Keeps.cut (w := wm) (s0 := s0) (x := x) ?_ (fun hx => ?_); on_goal 1 => (unfold x; clear x)))
    | apply Keeps.ite | apply State.clearLatches_keeps | apply State.flag_keeps | apply State.haltQueue_keeps | apply State.putQueue_keeps
    | apply State.bareMove_keeps | apply State.cmdMove_keeps | apply State.softClamp_keeps | apply State.microstep_keeps | apply State.syncTail_keeps
    | apply State.showQueueRegs_keeps | (refine Keeps.forEach ?_ ?_; intro a x hx) | split

theorem State.syncMismatch_keeps {wm : Bool} {s0 s : State} (c : Nat) (hk : Keeps wm s0 s) : Keeps wm s0 (State.syncMismatch s c) := by
  unfold State.syncMismatch
  repeat' with_reducible first
    | assumption
    | (extract_lets (onlyGivenNames := true) x; try (refine Keeps.cut (w := wm) (s0 := s0) (x := x) ?_ (fun hx => ?_); on_goal 1 => (unfold x; clear x)))
    | apply Keeps.ite | apply State.flag_keeps | (refine Keeps.forEach ?_ ?_; intro a x hx)

theorem State.syncLeave_keeps {wm : Bool} {s0 s : State} (c : Nat) (hk : Keeps wm s0 s) : Keeps wm s0 (State.syncLeave c s) := by
  unfold State.syncLeave
  repeat' with_reducible first
    | assumption
    | (extract_lets (onlyGivenNames := true) x; try (refine Keeps.cut (w := wm) (s0 := s0) (x := x) ?_ (fun hx => ?_); on_goal 1 => (unfold x; clear x)))
    | apply Keeps.ite | apply State.finishStroke_keeps | apply State.wr_keeps | apply State.setQ_keeps | apply State.putRho_keeps
    | apply State.runEmpty_keeps | apply State.startStroke_keeps | apply State.endStrokes_keeps

theorem State.syncRelease_keeps {wm : Bool} {s0 s : State} (k : Nat) (hk : Keeps wm s0 s) : Keeps wm s0 (State.syncRelease s k) := by
  unfold State.syncRelease
  repeat' with_reducible first
    | assumption
    | (extract_lets (onlyGivenNames := true) x; try (refine Keeps.cut (w := wm) (s0 := s0) (x := x) ?_ (fun hx => ?_); on_goal 1 => (unfold x; clear x)))
    | apply State.syncMismatch_keeps | apply State.syncLeave_keeps | (refine Keeps.forEach ?_ ?_; intro a x hx)

theorem State.idleAdvance_keeps {wm : Bool} {s0 s : State} (k : Nat) (hk : Keeps wm s0 s) : Keeps wm s0 (State.idleAdvance s k) := by
  unfold State.idleAdvance
  repeat' with_reducible first
    | assumption
    | (extract_lets (onlyGivenNames := true) x; try (refine Keeps.cut (w := wm) (s0 := s0) (x := x) ?_ (fun hx => ?_); on_goal 1 => (unfold x; clear x)))
    | apply State.microstep_keeps | (refine Keeps.forEach ?_ ?_; intro a x hx)

theorem State.strokeAdvance_keeps {wm : Bool} {s0 s : State} (k : Nat) (hk : Keeps wm s0 s) : Keeps wm s0 (State.strokeAdvance s k) := by
  unfold State.strokeAdvance
  repeat' with_reducible first
    | assumption
    | (extract_lets (onlyGivenNames := true) x; try (refine Keeps.cut (w := wm) (s0 := s0) (x := x) ?_ (fun hx => ?_); on_goal 1 => (unfold x; clear x)))
    | apply Keeps.ite | apply State.advanceQueue_keeps | apply State.syncRelease_keeps | apply State.idleAdvance_keeps
    | (refine Keeps.forEach ?_ ?_; intro a x hx)

theorem State.accept_keeps {wm : Bool} {s0 s : State} (c : Nat) (r : List Nat) (hk : Keeps wm s0 s) : Keeps wm s0 (State.accept s c r) := by
  unfold State.accept
  repeat' with_reducible first
    | assumption
    | (extract_lets (onlyGivenNames := true) x; try (refine Keeps.cut (w := wm) (s0 := s0) (x := x) ?_ (fun hx => ?_); on_goal 1 => (unfold x; clear x)))
    | apply State.putQueue_keeps | apply State.bump_keeps | apply State.showQueueRegs_keeps

theorem State.pushWrite_keeps {wm : Bool} {s0 s : State} (c : Nat) (hk : Keeps wm s0 s) : Keeps wm s0 (State.pushWrite s c) := by
  unfold State.pushWrite
  repeat' with_reducible first
    | assumption
    | (extract_lets (onlyGivenNames := true) x; try (refine Keeps.cut (w := wm) (s0 := s0) (x := x) ?_ (fun hx => ?_); on_goal 1 => (unfold x; clear x)))
    | apply Keeps.ite | apply State.flag_keeps | apply State.putQueue_keeps | apply State.wr_keeps

theorem execChnPush_keeps {wm : Bool} {s0 s : State} (dt : Nat) (src : Src) (c : Nat) (hk : Keeps wm s0 s) : KeepsR wm s0 (execChnPush dt src c s) := by
  unfold execChnPush
  repeat' with_reducible first
    | assumption
    | (extract_lets (onlyGivenNames := true) x; try (refine Keeps.cut (w := wm) (s0 := s0) (x := x) ?_ (fun hx => ?_); on_goal 1 => (unfold x; clear x)))
    | apply KeepsR.needs | apply State.after_keeps | apply State.swWrite_keeps | apply State.pushWrite_keeps | (intro x hx)

theorem State.checkDone_keeps {wm : Bool} {s0 s : State} (c : Nat) (hk : Keeps wm s0 s) : Keeps wm s0 (State.checkDone s c) := by
  unfold State.checkDone
  repeat' with_reducible first
    | assumption
    | (extract_lets (onlyGivenNames := true) x; try (refine Keeps.cut (w := wm) (s0 := s0) (x := x) ?_ (fun hx => ?_); on_goal 1 => (unfold x; clear x)))
    | apply Keeps.ite | apply State.putQueue_keeps | apply State.wr_keeps | apply State.accept_keeps | apply State.mirror_keeps | apply State.bump_keeps
    | split

theorem execStrokeCheck_keeps {wm : Bool} {s0 s : State} (dt : Nat) (c : Nat) (hk : Keeps wm s0 s) : KeepsR wm s0 (execStrokeCheck dt c s) := by
  unfold execStrokeCheck
  repeat' with_reducible first
    | assumption
    | (extract_lets (onlyGivenNames := true) x; try (refine Keeps.cut (w := wm) (s0 := s0) (x := x) ?_ (fun hx => ?_); on_goal 1 => (unfold x; clear x)))
    | apply Keeps.ite | apply KeepsR.needs | apply State.after_keeps | apply State.checkDone_keeps

theorem State.cmdWrite_keeps {wm : Bool} {s0 s : State} (c : Nat) (bitsW : Nat) (hk : Keeps wm s0 s) : Keeps wm s0 (State.cmdWrite s c bitsW) := by
  unfold State.cmdWrite
  repeat' with_reducible first
    | assumption
    | (extract_lets (onlyGivenNames := true) x; try (refine Keeps.cut (w := wm) (s0 := s0) (x := x) ?_ (fun hx => ?_); on_goal 1 => (unfold x; clear x)))
    | apply State.putRaw_keeps

theorem execStop_keeps {wm : Bool} {s0 s : State} (dt : Nat) (src : Src) (c : Nat) (hk : Keeps wm s0 s) : KeepsR wm s0 (execStop dt src c s) := by
  unfold execStop
  repeat' with_reducible first
    | assumption
    | (extract_lets (onlyGivenNames := true) x; try (refine Keeps.cut (w := wm) (s0 := s0) (x := x) ?_ (fun hx => ?_); on_goal 1 => (unfold x; clear x)))
    | apply KeepsR.needs | apply State.after_keeps | apply State.swWrite_keeps | apply State.cmdWrite_keeps | (intro x hx)

theorem execResume_keeps {wm : Bool} {s0 s : State} (dt : Nat) (src : Src) (c : Nat) (hk : Keeps wm s0 s) : KeepsR wm s0 (execResume dt src c s) := by
  unfold execResume
  repeat' with_reducible first
    | assumption
    | (extract_lets (onlyGivenNames := true) x; try (refine Keeps.cut (w := wm) (s0 := s0) (x := x) ?_ (fun hx => ?_); on_goal 1 => (unfold x; clear x)))
    | apply KeepsR.needs | apply State.after_keeps | apply State.swWrite_keeps | apply State.cmdWrite_keeps | (intro x hx)

theorem execAbort_keeps {wm : Bool} {s0 s : State} (dt : Nat) (src : Src) (c : Nat) (hk : Keeps wm s0 s) : KeepsR wm s0 (execAbort dt src c s) := by
  unfold execAbort
  repeat' with_reducible first
    | assumption
    | (extract_lets (onlyGivenNames := true) x; try (refine Keeps.cut (w := wm) (s0 := s0) (x := x) ?_ (fun hx => ?_); on_goal 1 => (unfold x; clear x)))
    | apply KeepsR.needs | apply State.after_keeps | apply State.swWrite_keeps | apply State.cmdWrite_keeps | (intro x hx)

theorem execFlush_keeps {wm : Bool} {s0 s : State} (dt : Nat) (src : Src) (c : Nat) (hk : Keeps wm s0 s) : KeepsR wm s0 (execFlush dt src c s) := by
  unfold execFlush
  repeat' with_reducible first
    | assumption
    | (extract_lets (onlyGivenNames := true) x; try (refine Keeps.cut (w := wm) (s0 := s0) (x := x) ?_ (fun hx => ?_); on_goal 1 => (unfold x; clear x)))
    | apply KeepsR.needs | apply State.after_keeps | apply State.swWrite_keeps | apply State.cmdWrite_keeps | (intro x hx)

theorem execSyncTmo_keeps {wm : Bool} {s0 s : State} (c : Nat) (hk : Keeps wm s0 s) : KeepsR wm s0 (execSyncTmo c s) := by
  unfold execSyncTmo
  repeat' with_reducible first
    | assumption
    | (extract_lets (onlyGivenNames := true) x; try (refine Keeps.cut (w := wm) (s0 := s0) (x := x) ?_ (fun hx => ?_); on_goal 1 => (unfold x; clear x)))
    | apply Keeps.ite | apply KeepsR.needs | apply State.runRim_keeps | apply State.flag_keeps

theorem State.limEdge_keeps {wm : Bool} {s0 s : State} (n : Nat) (which : Nat) (stamp : Nat) (level : Bool) (hk : Keeps wm s0 s) : Keeps wm s0 (State.limEdge s n which stamp level) := by
  unfold State.limEdge
  repeat' with_reducible first
    | assumption
    | (extract_lets (onlyGivenNames := true) x; try (refine Keeps.cut (w := wm) (s0 := s0) (x := x) ?_ (fun hx => ?_); on_goal 1 => (unfold x; clear x)))
    | apply Keeps.ite | apply State.putGen_keeps | apply State.wrB_keeps | apply State.bump_keeps

theorem State.limInputs_keeps {wm : Bool} {s0 s : State} (stamp : Nat) (p : Nat → Nat → Bool) (level : Bool) (hk : Keeps wm s0 s) : Keeps wm s0 (State.limInputs s stamp p level) := by
  unfold State.limInputs
  repeat' with_reducible first
    | assumption
    | (extract_lets (onlyGivenNames := true) x; try (refine Keeps.cut (w := wm) (s0 := s0) (x := x) ?_ (fun hx => ?_); on_goal 1 => (unfold x; clear x)))
    | apply Keeps.ite | apply State.limEdge_keeps | (refine Keeps.forEach ?_ ?_; intro a x hx)

theorem State.limHalt_keeps {wm : Bool} {s0 s : State} (n : Nat) (pos : Bool) (hk : Keeps wm s0 s) : Keeps wm s0 (State.limHalt s n pos) := by
  unfold State.limHalt
  repeat' with_reducible first
    | assumption
    | (extract_lets (onlyGivenNames := true) x; try (refine Keeps.cut (w := wm) (s0 := s0) (x := x) ?_ (fun hx => ?_); on_goal 1 => (unfold x; clear x)))
    | apply Keeps.ite | apply State.demandHaltOf_keeps

theorem State.limStable_keeps {wm : Bool} {s0 s : State} (n : Nat) (which : Nat) (hk : Keeps wm s0 s) : Keeps wm s0 (State.limStable s n which) := by
  unfold State.limStable
  repeat' with_reducible first
    | assumption
    | (extract_lets (onlyGivenNames := true) x; try (refine Keeps.cut (w := wm) (s0 := s0) (x := x) ?_ (fun hx => ?_); on_goal 1 => (unfold x; clear x)))
    | apply Keeps.ite | apply State.putGen_keeps | apply State.wr_keeps | apply State.limHalt_keeps

theorem execLimitLatch_keeps {wm : Bool} {s0 s : State} (n : Nat) (which : Nat) (hk : Keeps wm s0 s) : KeepsR wm s0 (execLimitLatch n which s) := by
  unfold execLimitLatch
  repeat' with_reducible first
    | assumption
    | (extract_lets (onlyGivenNames := true) x; try (refine Keeps.cut (w := wm) (s0 := s0) (x := x) ?_ (fun hx => ?_); on_goal 1 => (unfold x; clear x)))
    | apply Keeps.ite | apply KeepsR.needs | apply State.runTo_keeps | apply State.limStable_keeps

theorem State.limInterp_keeps {wm : Bool} {s0 s : State} (n : Nat) (stamp : Nat) (p : Int) (hk : Keeps wm s0 s) : Keeps wm s0 (State.limInterp s n stamp p) := by
  unfold State.limInterp
  repeat' with_reducible first
    | assumption
    | (extract_lets (onlyGivenNames := true) x; try (refine Keeps.cut (w := wm) (s0 := s0) (x := x) ?_ (fun hx => ?_); on_goal 1 => (unfold x; clear x)))
    | apply State.putGen_keeps | (refine Keeps.forEach ?_ ?_; intro a x hx) | split

theorem State.idleTake_keeps {wm : Bool} {s0 s : State} (n : Nat) (pfb : Int) (hk : Keeps wm s0 s) : Keeps wm s0 (State.idleTake s n pfb) := by
  unfold State.idleTake
  repeat' with_reducible first
    | assumption
    | (extract_lets (onlyGivenNames := true) x; try (refine Keeps.cut (w := wm) (s0 := s0) (x := x) ?_ (fun hx => ?_); on_goal 1 => (unfold x; clear x)))
    | apply Keeps.ite | apply State.putGen_keeps | apply State.showGen_keeps

end Sys2Proof.Machine
end

