-- ==== Sys2Proof/Laws/KeepsFeedback.lean ====
section
/-! SUPPORT. Every operation of Machine/Feedback.lean keeps the canonical form, the queue and the fuses. -/

set_option linter.unusedVariables false
set_option linter.tactic.unusedName false
set_option linter.unusedTactic false
set_option linter.unreachableTactic false

namespace Sys2Proof.Machine

theorem State.putFb_keeps {wm : Bool} {s0 s : State} (k : Nat) (f : Fb) (hk : Keeps wm s0 s) : Keeps wm s0 (State.putFb s k f) := by
  unfold State.putFb
  repeat' with_reducible first
    | refine Keeps.lit rfl rfl rfl rfl (by assumption) (by assumption)

theorem State.ptRaw_keeps {wm : Bool} {s0 s : State} (k : Nat) (stamp : Nat) (old : Nat) (new : Nat) (hk : Keeps wm s0 s) : Keeps wm s0 (State.ptRaw s k stamp old new) := by
  unfold State.ptRaw
  repeat' with_reducible first
    | assumption
    | (extract_lets (onlyGivenNames := true) x; try (refine Keeps.cut (w := wm) (s0 := s0) (x := x) ?_ (fun hx => ?_); on_goal 1 => (unfold x; clear x)))
    | apply Keeps.ite | apply State.emit_keeps | apply State.useFree_keeps | (refine Keeps.forEach ?_ ?_; intro a x hx)

theorem State.emuOne_keeps {wm : Bool} {s0 s : State} (j : Nat) (r : Nat) (d : Int) (hk : Keeps wm s0 s) : Keeps wm s0 (State.emuOne s j r d) := by
  unfold State.emuOne
  repeat' with_reducible first
    | assumption
    | (extract_lets (onlyGivenNames := true) x; try (refine Keeps.cut (w := wm) (s0 := s0) (x := x) ?_ (fun hx => ?_); on_goal 1 => (unfold x; clear x)))
    | apply Keeps.ite | apply State.putFb_keeps | apply State.emit_keeps | (refine Keeps.forEach ?_ ?_; intro a x hx)

theorem State.emuRun_keeps {wm : Bool} {s0 s : State} (j from_ n : Nat) (hk : Keeps wm s0 s) : Keeps wm s0 (State.emuRun j from_ n s) := by
  induction n generalizing s with
  | zero => exact hk
  | succ n ih =>
    unfold State.emuRun
    exact Keeps.ite hk (ih (State.emuOne_keeps j _ _ hk))

theorem State.emuStep_keeps {wm : Bool} {s0 s : State} (j : Nat) (from_ : Nat) (hk : Keeps wm s0 s) : Keeps wm s0 (State.emuStep s j from_) := by
  unfold State.emuStep
  repeat' with_reducible first
    | assumption
    | (extract_lets (onlyGivenNames := true) x; try (refine Keeps.cut (w := wm) (s0 := s0) (x := x) ?_ (fun hx => ?_); on_goal 1 => (unfold x; clear x)))
    | apply Keeps.ite | apply State.emuRun_keeps | apply State.flag_keeps

theorem State.emuFlush_keeps {wm : Bool} {s0 s : State} (k : Nat) (hk : Keeps wm s0 s) : Keeps wm s0 (State.emuFlush s k) := by
  unfold State.emuFlush
  repeat' with_reducible first
    | assumption
    | (extract_lets (onlyGivenNames := true) x; try (refine Keeps.cut (w := wm) (s0 := s0) (x := x) ?_ (fun hx => ?_); on_goal 1 => (unfold x; clear x)))
    | apply State.emuStep_keeps | (refine Keeps.forEach ?_ ?_; intro a x hx)

theorem State.emuFollow_keeps {wm : Bool} {s0 s : State} (k : Nat) (hk : Keeps wm s0 s) : Keeps wm s0 (State.emuFollow s k) := by
  unfold State.emuFollow
  repeat' with_reducible first
    | assumption
    | (extract_lets (onlyGivenNames := true) x; try (refine Keeps.cut (w := wm) (s0 := s0) (x := x) ?_ (fun hx => ?_); on_goal 1 => (unfold x; clear x)))
    | apply State.emuStep_keeps | (refine Keeps.forEach ?_ ?_; intro a x hx)

theorem State.emuZ_keeps {wm : Bool} {s0 s : State} (k : Nat) (c : Int) (hk : Keeps wm s0 s) : Keeps wm s0 (State.emuZ s k c) := by
  unfold State.emuZ
  repeat' with_reducible first
    | assumption
    | (extract_lets (onlyGivenNames := true) x; try (refine Keeps.cut (w := wm) (s0 := s0) (x := x) ?_ (fun hx => ?_); on_goal 1 => (unfold x; clear x)))
    | apply Keeps.ite | apply State.putFb_keeps | apply State.emit_keeps | (refine Keeps.forEach ?_ ?_; intro a x hx)

theorem State.fbPin_keeps {wm : Bool} {s0 old : State} (s : State) (k : Nat) (h_s : Keeps wm s0 s) (hk : Keeps wm s0 old) : Keeps wm s0 (State.fbPin old s k) := by
  unfold State.fbPin
  repeat' with_reducible first
    | assumption
    | (extract_lets (onlyGivenNames := true) x; try (refine Keeps.cut (w := wm) (s0 := s0) (x := x) ?_ (fun hx => ?_); on_goal 1 => (unfold x; clear x)))
    | apply Keeps.ite | apply State.emit_keeps | (refine Keeps.forEach ?_ ?_; intro a x hx) | split

theorem State.fbPins_keeps {wm : Bool} {s0 old : State} (s : State) (h_s : Keeps wm s0 s) (hk : Keeps wm s0 old) : Keeps wm s0 (State.fbPins old s) := by
  unfold State.fbPins
  repeat' with_reducible first
    | assumption
    | (extract_lets (onlyGivenNames := true) x; try (refine Keeps.cut (w := wm) (s0 := s0) (x := x) ?_ (fun hx => ?_); on_goal 1 => (unfold x; clear x)))
    | apply State.fbPin_keeps | (refine Keeps.forEach ?_ ?_; intro a x hx)

theorem State.fbCause_keeps {wm : Bool} {s0 s : State} (k : Nat) (c : Nat) (b : Bool) (hk : Keeps wm s0 s) : Keeps wm s0 (State.fbCause s k c b) := by
  unfold State.fbCause
  repeat' with_reducible first
    | assumption
    | (extract_lets (onlyGivenNames := true) x; try (refine Keeps.cut (w := wm) (s0 := s0) (x := x) ?_ (fun hx => ?_); on_goal 1 => (unfold x; clear x)))
    | apply State.wr_keeps

theorem State.fbFault_keeps {wm : Bool} {s0 s : State} (k : Nat) (c : Nat) (lost : Bool) (hk : Keeps wm s0 s) : Keeps wm s0 (State.fbFault s k c lost) := by
  unfold State.fbFault
  repeat' with_reducible first
    | assumption
    | (extract_lets (onlyGivenNames := true) x; try (refine Keeps.cut (w := wm) (s0 := s0) (x := x) ?_ (fun hx => ?_); on_goal 1 => (unfold x; clear x)))
    | apply Keeps.ite | apply State.fbCause_keeps | apply State.wr_keeps | apply State.homeFbFault_keeps | apply State.homeFail_keeps
    | apply State.demandHaltOf_keeps | (refine Keeps.forEach ?_ ?_; intro a x hx)

theorem State.fbReference_keeps {wm : Bool} {s0 s : State} (k : Nat) (hk : Keeps wm s0 s) : Keeps wm s0 (State.fbReference s k) := by
  unfold State.fbReference
  repeat' with_reducible first
    | assumption | apply State.wr_keeps

theorem State.fbSet_keeps {wm : Bool} {s0 s : State} (k : Nat) (pos0 : Nat) (rev0 : Nat) (hk : Keeps wm s0 s) : Keeps wm s0 (State.fbSet s k pos0 rev0) := by
  unfold State.fbSet
  repeat' with_reducible first
    | assumption
    | (extract_lets (onlyGivenNames := true) x; try (refine Keeps.cut (w := wm) (s0 := s0) (x := x) ?_ (fun hx => ?_); on_goal 1 => (unfold x; clear x)))
    | apply Keeps.ite | apply State.wr_keeps | apply State.putFb_keeps

theorem State.fbFire_keeps {wm : Bool} {s0 s : State} (k : Nat) (stamp : Nat) (back : Bool) (hk : Keeps wm s0 s) : Keeps wm s0 (State.fbFire s k stamp back) := by
  unfold State.fbFire
  repeat' with_reducible first
    | assumption
    | (extract_lets (onlyGivenNames := true) x; try (refine Keeps.cut (w := wm) (s0 := s0) (x := x) ?_ (fun hx => ?_); on_goal 1 => (unfold x; clear x)))
    | apply Keeps.ite | apply State.bump_keeps | apply State.wr_keeps | apply State.wrB_keeps | apply State.raiseInt_keeps | apply State.rwh_keeps
    | apply State.putFb_keeps | apply State.emit_keeps

theorem State.fbMoved_keeps {wm : Bool} {s0 s : State} (k : Nat) (a : Nat) (stamp : Nat) (d : Int) (hk : Keeps wm s0 s) : Keeps wm s0 (State.fbMoved s k a stamp d) := by
  unfold State.fbMoved
  repeat' with_reducible first
    | assumption
    | (extract_lets (onlyGivenNames := true) x; try (refine Keeps.cut (w := wm) (s0 := s0) (x := x) ?_ (fun hx => ?_); on_goal 1 => (unfold x; clear x)))
    | apply Keeps.ite | apply State.fbFire_keeps | apply State.emuZ_keeps | apply State.emuFollow_keeps

theorem State.fbCount_keeps {wm : Bool} {s0 s : State} (k : Nat) (stamp : Nat) (d0 : Int) (hk : Keeps wm s0 s) : Keeps wm s0 (State.fbCount s k stamp d0) := by
  unfold State.fbCount
  repeat' with_reducible first
    | assumption
    | (extract_lets (onlyGivenNames := true) x; try (refine Keeps.cut (w := wm) (s0 := s0) (x := x) ?_ (fun hx => ?_); on_goal 1 => (unfold x; clear x)))
    | refine Keeps.lit rfl rfl rfl rfl (by assumption) (by assumption) | apply Keeps.ite | apply State.emuFlush_keeps | apply State.fbSet_keeps
    | apply State.flag_keeps | apply State.putFb_keeps | apply State.wrB_keeps | apply State.fbMoved_keeps

theorem State.fbWait_keeps {wm : Bool} {s0 s : State} (k : Nat) (hk : Keeps wm s0 s) : Keeps wm s0 (State.fbWait s k) := by
  unfold State.fbWait
  repeat' with_reducible first
    | assumption
    | (extract_lets (onlyGivenNames := true) x; try (refine Keeps.cut (w := wm) (s0 := s0) (x := x) ?_ (fun hx => ?_); on_goal 1 => (unfold x; clear x)))
    | apply State.putFb_keeps | apply State.wr_keeps | split

theorem State.fbTrigger_keeps {wm : Bool} {s0 s : State} (k : Nat) (stamp : Nat) (hk : Keeps wm s0 s) : Keeps wm s0 (State.fbTrigger s k stamp) := by
  unfold State.fbTrigger
  repeat' with_reducible first
    | assumption
    | (extract_lets (onlyGivenNames := true) x; try (refine Keeps.cut (w := wm) (s0 := s0) (x := x) ?_ (fun hx => ?_); on_goal 1 => (unfold x; clear x)))
    | apply Keeps.ite | apply State.flag_keeps | apply State.putFb_keeps | apply State.fbWait_keeps | apply State.wr_keeps

theorem State.markIndex_keeps {wm : Bool} {s0 s : State} (k : Nat) (hk : Keeps wm s0 s) : Keeps wm s0 (State.markIndex s k) := by
  unfold State.markIndex
  repeat' with_reducible first
    | assumption
    | (extract_lets (onlyGivenNames := true) x; try (refine Keeps.cut (w := wm) (s0 := s0) (x := x) ?_ (fun hx => ?_); on_goal 1 => (unfold x; clear x)))
    | apply State.putFb_keeps

theorem State.fbIndex_keeps {wm : Bool} {s0 s : State} (k : Nat) (stamp : Nat) (hk : Keeps wm s0 s) : Keeps wm s0 (State.fbIndex s k stamp) := by
  unfold State.fbIndex
  repeat' with_reducible first
    | assumption
    | (extract_lets (onlyGivenNames := true) x; try (refine Keeps.cut (w := wm) (s0 := s0) (x := x) ?_ (fun hx => ?_); on_goal 1 => (unfold x; clear x)))
    | refine Keeps.lit rfl rfl rfl rfl (by assumption) (by assumption) | apply Keeps.ite | apply State.wr_keeps | apply State.flag_keeps
    | apply State.fbTrigger_keeps | apply State.fbSet_keeps | apply State.fbReference_keeps | apply State.markIndex_keeps

theorem State.fbIllegal_keeps {wm : Bool} {s0 s : State} (k : Nat) (hk : Keeps wm s0 s) : Keeps wm s0 (State.fbIllegal s k) := by
  unfold State.fbIllegal
  repeat' with_reducible first
    | assumption
    | (extract_lets (onlyGivenNames := true) x; try (refine Keeps.cut (w := wm) (s0 := s0) (x := x) ?_ (fun hx => ?_); on_goal 1 => (unfold x; clear x)))
    | apply Keeps.ite | apply State.bump_keeps | apply State.wr_keeps | apply State.putFb_keeps | apply State.fbFault_keeps

theorem State.hallShow_keeps {wm : Bool} {s0 s : State} (k : Nat) (hk : Keeps wm s0 s) : Keeps wm s0 (State.hallShow s k) := by
  unfold State.hallShow
  repeat' with_reducible first
    | assumption
    | (extract_lets (onlyGivenNames := true) x; try (refine Keeps.cut (w := wm) (s0 := s0) (x := x) ?_ (fun hx => ?_); on_goal 1 => (unfold x; clear x)))
    | apply Keeps.ite | apply State.wr_keeps

theorem State.hallBad_keeps {wm : Bool} {s0 s : State} (k : Nat) (hk : Keeps wm s0 s) : Keeps wm s0 (State.hallBad s k) := by
  unfold State.hallBad
  repeat' with_reducible first
    | assumption
    | (extract_lets (onlyGivenNames := true) x; try (refine Keeps.cut (w := wm) (s0 := s0) (x := x) ?_ (fun hx => ?_); on_goal 1 => (unfold x; clear x)))
    | apply State.flag_keeps | apply State.putFb_keeps

theorem State.hallBegin_keeps {wm : Bool} {s0 s : State} (k : Nat) (hk : Keeps wm s0 s) : Keeps wm s0 (State.hallBegin s k) := by
  unfold State.hallBegin
  repeat' with_reducible first
    | assumption
    | (extract_lets (onlyGivenNames := true) x; try (refine Keeps.cut (w := wm) (s0 := s0) (x := x) ?_ (fun hx => ?_); on_goal 1 => (unfold x; clear x)))
    | apply Keeps.ite | apply State.putFb_keeps | apply State.hallBad_keeps | apply State.wr_keeps | apply State.hallShow_keeps

theorem State.fbHall_keeps {wm : Bool} {s0 s : State} (k : Nat) (new : Nat) (stamp : Nat) (hk : Keeps wm s0 s) : Keeps wm s0 (State.fbHall s k new stamp) := by
  unfold State.fbHall
  repeat' with_reducible first
    | assumption
    | (extract_lets (onlyGivenNames := true) x; try (refine Keeps.cut (w := wm) (s0 := s0) (x := x) ?_ (fun hx => ?_); on_goal 1 => (unfold x; clear x)))
    | apply Keeps.ite | apply State.hallBad_keeps | apply State.putFb_keeps | apply State.fbCause_keeps | apply State.wr_keeps
    | apply State.hallShow_keeps | apply State.fbCount_keeps | apply State.flag_keeps

theorem State.stepEvent_keeps {wm : Bool} {s0 s : State} (k : Nat) (stamp : Nat) (neg : Bool) (hk : Keeps wm s0 s) : Keeps wm s0 (State.stepEvent s k stamp neg) := by
  unfold State.stepEvent
  repeat' with_reducible first
    | assumption
    | (extract_lets (onlyGivenNames := true) x; try (refine Keeps.cut (w := wm) (s0 := s0) (x := x) ?_ (fun hx => ?_); on_goal 1 => (unfold x; clear x)))
    | refine Keeps.lit rfl rfl rfl rfl (by assumption) (by assumption) | apply Keeps.ite | apply State.putGen_keeps | apply State.wr_keeps
    | (refine Keeps.forEach ?_ ?_; intro a x hx)

theorem State.fbSignals_keeps {wm : Bool} {s0 s : State} (k : Nat) (old : Nat) (new : Nat) (hk : Keeps wm s0 s) : Keeps wm s0 (State.fbSignals s k old new) := by
  unfold State.fbSignals
  repeat' with_reducible first
    | assumption
    | (extract_lets (onlyGivenNames := true) x; try (refine Keeps.cut (w := wm) (s0 := s0) (x := x) ?_ (fun hx => ?_); on_goal 1 => (unfold x; clear x)))
    | apply Keeps.ite | apply State.wr_keeps | apply State.ptRaw_keeps | apply State.fbIllegal_keeps | apply State.fbCount_keeps
    | apply State.fbIndex_keeps | apply State.fbHall_keeps | apply State.stepEvent_keeps | split

theorem State.fbAux_keeps {wm : Bool} {s0 s : State} (k : Nat) (old : Nat) (new : Nat) (hk : Keeps wm s0 s) : Keeps wm s0 (State.fbAux s k old new) := by
  unfold State.fbAux
  repeat' with_reducible first
    | assumption
    | (extract_lets (onlyGivenNames := true) x; try (refine Keeps.cut (w := wm) (s0 := s0) (x := x) ?_ (fun hx => ?_); on_goal 1 => (unfold x; clear x)))
    | apply Keeps.ite | apply State.wr_keeps | apply State.limInputs_keeps | apply State.fbTrigger_keeps | (refine Keeps.forEach ?_ ?_; intro a x hx)

theorem execFbEdge_keeps {wm : Bool} {s0 s : State} (dt : Nat) (k : Nat) (ins : Nat) (aux : Nat) (hk : Keeps wm s0 s) : KeepsR wm s0 (execFbEdge dt k ins aux s) := by
  unfold execFbEdge
  repeat' with_reducible first
    | assumption
    | (extract_lets (onlyGivenNames := true) x; try (refine Keeps.cut (w := wm) (s0 := s0) (x := x) ?_ (fun hx => ?_); on_goal 1 => (unfold x; clear x)))
    | apply Keeps.ite | apply KeepsR.needs | apply State.after_keeps | apply State.fbSignals_keeps | apply State.fbAux_keeps

theorem execIllWindowEnd_keeps {wm : Bool} {s0 s : State} (k : Nat) (hk : Keeps wm s0 s) : KeepsR wm s0 (execIllWindowEnd k s) := by
  unfold execIllWindowEnd
  repeat' with_reducible first
    | assumption
    | (extract_lets (onlyGivenNames := true) x; try (refine Keeps.cut (w := wm) (s0 := s0) (x := x) ?_ (fun hx => ?_); on_goal 1 => (unfold x; clear x)))
    | apply Keeps.ite | apply KeepsR.needs | apply State.runRim_keeps | apply State.putFb_keeps | apply State.fbCause_keeps

theorem execHallTimeout_keeps {wm : Bool} {s0 s : State} (k : Nat) (hk : Keeps wm s0 s) : KeepsR wm s0 (execHallTimeout k s) := by
  unfold execHallTimeout
  repeat' with_reducible first
    | assumption
    | (extract_lets (onlyGivenNames := true) x; try (refine Keeps.cut (w := wm) (s0 := s0) (x := x) ?_ (fun hx => ?_); on_goal 1 => (unfold x; clear x)))
    | apply Keeps.ite | apply KeepsR.needs | apply State.runRim_keeps | apply State.fbFault_keeps | split

theorem State.fbCmpWrite_keeps {wm : Bool} {s0 s : State} (k : Nat) (v : Nat) (hk : Keeps wm s0 s) : Keeps wm s0 (State.fbCmpWrite s k v) := by
  unfold State.fbCmpWrite
  repeat' with_reducible first
    | assumption
    | (extract_lets (onlyGivenNames := true) x; try (refine Keeps.cut (w := wm) (s0 := s0) (x := x) ?_ (fun hx => ?_); on_goal 1 => (unfold x; clear x)))
    | apply State.softField_keeps | apply State.wrB_keeps

theorem execFbCmpWrite_keeps {wm : Bool} {s0 s : State} (dt : Nat) (src : Src) (k : Nat) (value : Nat) (hk : Keeps wm s0 s) : KeepsR wm s0 (execFbCmpWrite dt src k value s) := by
  unfold execFbCmpWrite
  repeat' with_reducible first
    | assumption
    | (extract_lets (onlyGivenNames := true) x; try (refine Keeps.cut (w := wm) (s0 := s0) (x := x) ?_ (fun hx => ?_); on_goal 1 => (unfold x; clear x)))
    | apply KeepsR.needs | apply State.after_keeps | apply State.swWrite_keeps | apply State.fbCmpWrite_keeps | (intro x hx)

theorem State.fbPosWrite_keeps {wm : Bool} {s0 s : State} (k : Nat) (rev : Bool) (v : Nat) (hk : Keeps wm s0 s) : Keeps wm s0 (State.fbPosWrite s k rev v) := by
  unfold State.fbPosWrite
  repeat' with_reducible first
    | assumption
    | (extract_lets (onlyGivenNames := true) x; try (refine Keeps.cut (w := wm) (s0 := s0) (x := x) ?_ (fun hx => ?_); on_goal 1 => (unfold x; clear x)))
    | apply Keeps.ite | apply State.fbSet_keeps | apply State.fbReference_keeps

theorem execFbPosWrite_keeps {wm : Bool} {s0 s : State} (dt : Nat) (src : Src) (k : Nat) (rev : Bool) (value : Nat) (hk : Keeps wm s0 s) : KeepsR wm s0 (execFbPosWrite dt src k rev value s) := by
  unfold execFbPosWrite
  repeat' with_reducible first
    | assumption
    | (extract_lets (onlyGivenNames := true) x; try (refine Keeps.cut (w := wm) (s0 := s0) (x := x) ?_ (fun hx => ?_); on_goal 1 => (unfold x; clear x)))
    | apply KeepsR.needs | apply State.after_keeps | apply State.swWrite_keeps | apply State.fbPosWrite_keeps | (intro x hx)

theorem execFbFltClr_keeps {wm : Bool} {s0 s : State} (dt : Nat) (src : Src) (k : Nat) (hk : Keeps wm s0 s) : KeepsR wm s0 (execFbFltClr dt src k s) := by
  unfold execFbFltClr
  repeat' with_reducible first
    | assumption
    | (extract_lets (onlyGivenNames := true) x; try (refine Keeps.cut (w := wm) (s0 := s0) (x := x) ?_ (fun hx => ?_); on_goal 1 => (unfold x; clear x)))
    | apply KeepsR.needs | apply State.after_keeps | apply State.swWrite_keeps | apply State.wr_keeps | (intro x hx)

theorem State.zarmWrite_keeps {wm : Bool} {s0 s : State} (k : Nat) (hk : Keeps wm s0 s) : Keeps wm s0 (State.zarmWrite s k) := by
  unfold State.zarmWrite
  repeat' with_reducible first
    | assumption
    | (extract_lets (onlyGivenNames := true) x; try (refine Keeps.cut (w := wm) (s0 := s0) (x := x) ?_ (fun hx => ?_); on_goal 1 => (unfold x; clear x)))
    | apply State.wr_keeps

theorem execZarm_keeps {wm : Bool} {s0 s : State} (dt : Nat) (src : Src) (k : Nat) (hk : Keeps wm s0 s) : KeepsR wm s0 (execZarm dt src k s) := by
  unfold execZarm
  repeat' with_reducible first
    | assumption
    | (extract_lets (onlyGivenNames := true) x; try (refine Keeps.cut (w := wm) (s0 := s0) (x := x) ?_ (fun hx => ?_); on_goal 1 => (unfold x; clear x)))
    | apply KeepsR.needs | apply State.after_keeps | apply State.swWrite_keeps | apply State.zarmWrite_keeps | (intro x hx)

theorem State.fbClear_keeps {wm : Bool} {s0 s : State} (k : Nat) (hk : Keeps wm s0 s) : Keeps wm s0 (State.fbClear s k) := by
  unfold State.fbClear
  repeat' with_reducible first
    | assumption
    | (extract_lets (onlyGivenNames := true) x; try (refine Keeps.cut (w := wm) (s0 := s0) (x := x) ?_ (fun hx => ?_); on_goal 1 => (unfold x; clear x)))
    | apply Keeps.ite | apply State.wr_keeps | apply State.flag_keeps

theorem State.fbLatch_keeps {wm : Bool} {s0 s : State} (k : Nat) (hk : Keeps wm s0 s) : Keeps wm s0 (State.fbLatch s k) := by
  unfold State.fbLatch
  repeat' with_reducible first
    | assumption
    | (extract_lets (onlyGivenNames := true) x; try (refine Keeps.cut (w := wm) (s0 := s0) (x := x) ?_ (fun hx => ?_); on_goal 1 => (unfold x; clear x)))
    | apply Keeps.ite | apply State.fbClear_keeps | apply State.emuFlush_keeps | apply State.putFb_keeps | apply State.wr_keeps
    | apply State.hallShow_keeps

theorem State.fbLatchAll_keeps {wm : Bool} {s0 s : State} (n : Nat) (hk : Keeps wm s0 s) : Keeps wm s0 (State.fbLatchAll s n) := by
  unfold State.fbLatchAll
  repeat' with_reducible first
    | assumption
    | (extract_lets (onlyGivenNames := true) x; try (refine Keeps.cut (w := wm) (s0 := s0) (x := x) ?_ (fun hx => ?_); on_goal 1 => (unfold x; clear x)))
    | apply Keeps.ite | apply State.fbLatch_keeps | (refine Keeps.forEach ?_ ?_; intro a x hx)

theorem State.badFrame_keeps {wm : Bool} {s0 s : State} (k : Nat) (hk : Keeps wm s0 s) : Keeps wm s0 (State.badFrame s k) := by
  unfold State.badFrame
  repeat' with_reducible first
    | assumption
    | (extract_lets (onlyGivenNames := true) x; try (refine Keeps.cut (w := wm) (s0 := s0) (x := x) ?_ (fun hx => ?_); on_goal 1 => (unfold x; clear x)))
    | apply Keeps.ite | apply State.bump_keeps | apply State.putFb_keeps | apply State.fbFault_keeps

theorem State.xferEnd_keeps {wm : Bool} {s0 s : State} (k : Nat) (hk : Keeps wm s0 s) : Keeps wm s0 (State.xferEnd s k) := by
  unfold State.xferEnd
  repeat' with_reducible first
    | assumption
    | (extract_lets (onlyGivenNames := true) x; try (refine Keeps.cut (w := wm) (s0 := s0) (x := x) ?_ (fun hx => ?_); on_goal 1 => (unfold x; clear x)))
    | apply Keeps.ite | apply State.putFb_keeps | apply State.bump_keeps | split

theorem State.ssiClock_keeps {wm : Bool} {s0 s : State} (k : Nat) (hk : Keeps wm s0 s) : Keeps wm s0 (State.ssiClock s k) := by
  unfold State.ssiClock
  repeat' with_reducible first
    | assumption
    | (extract_lets (onlyGivenNames := true) x; try (refine Keeps.cut (w := wm) (s0 := s0) (x := x) ?_ (fun hx => ?_); on_goal 1 => (unfold x; clear x)))
    | apply State.emit_keeps | (refine Keeps.forEach ?_ ?_; intro a x hx)

theorem State.serialSend_keeps {wm : Bool} {s0 s : State} (k : Nat) (hk : Keeps wm s0 s) : Keeps wm s0 (State.serialSend s k) := by
  unfold State.serialSend
  repeat' with_reducible first
    | assumption
    | (extract_lets (onlyGivenNames := true) x; try (refine Keeps.cut (w := wm) (s0 := s0) (x := x) ?_ (fun hx => ?_); on_goal 1 => (unfold x; clear x)))
    | apply Keeps.ite | apply State.emit_keeps

theorem State.xferGo_keeps {wm : Bool} {s0 s : State} (k : Nat) (i : Nat) (line : Bool) (hk : Keeps wm s0 s) : Keeps wm s0 (State.xferGo s k i line) := by
  unfold State.xferGo
  repeat' with_reducible first
    | assumption
    | (extract_lets (onlyGivenNames := true) x; try (refine Keeps.cut (w := wm) (s0 := s0) (x := x) ?_ (fun hx => ?_); on_goal 1 => (unfold x; clear x)))
    | apply Keeps.ite | apply State.putFb_keeps | apply State.flag_keeps | apply State.ssiClock_keeps | apply State.serialSend_keeps

theorem execXferStart_keeps {wm : Bool} {s0 s : State} (dt : Nat) (k : Nat) (line : Bool) (hk : Keeps wm s0 s) : KeepsR wm s0 (execXferStart dt k line s) := by
  unfold execXferStart
  repeat' with_reducible first
    | assumption
    | (extract_lets (onlyGivenNames := true) x; try (refine Keeps.cut (w := wm) (s0 := s0) (x := x) ?_ (fun hx => ?_); on_goal 1 => (unfold x; clear x)))
    | refine Keeps.lit rfl rfl rfl rfl (by assumption) (by assumption) | apply Keeps.ite | apply KeepsR.ite | apply KeepsR.next | apply KeepsR.needs
    | apply KeepsR.refused | apply State.after_keeps | apply State.runTo_keeps | apply State.putFb_keeps | apply State.bump_keeps
    | apply State.runRim_keeps | apply State.xferGo_keeps | split | (clear_value *; split)

theorem State.goodFrame_keeps {wm : Bool} {s0 s : State} (k : Nat) (pos : Nat) (rev : Nat) (mt : Nat) (stamp : Nat) (wrapped : Bool) (hk : Keeps wm s0 s) : Keeps wm s0 (State.goodFrame s k pos rev mt stamp wrapped) := by
  unfold State.goodFrame
  repeat' with_reducible first
    | assumption
    | (extract_lets (onlyGivenNames := true) x; try (refine Keeps.cut (w := wm) (s0 := s0) (x := x) ?_ (fun hx => ?_); on_goal 1 => (unfold x; clear x)))
    | apply Keeps.ite | apply State.emuFlush_keeps | apply State.fbSet_keeps | apply State.flag_keeps | apply State.putFb_keeps
    | apply State.fbCause_keeps | apply State.wrB_keeps | apply State.fbMoved_keeps | apply State.fbWait_keeps

theorem State.judgeFrame_keeps {wm : Bool} {s0 s : State} (k : Nat) (t0 : Nat) (bad0 : Bool) (fr : List Bool) (hk : Keeps wm s0 s) : Keeps wm s0 (State.judgeFrame s k t0 bad0 fr) := by
  unfold State.judgeFrame
  repeat' with_reducible first
    | assumption
    | (extract_lets (onlyGivenNames := true) x; try (refine Keeps.cut (w := wm) (s0 := s0) (x := x) ?_ (fun hx => ?_); on_goal 1 => (unfold x; clear x)))
    | apply Keeps.ite | apply State.flag_keeps | apply State.badFrame_keeps | apply State.goodFrame_keeps

theorem execAbsFrameComplete_keeps {wm : Bool} {s0 s : State} (dt : Nat) (k : Nat) (frame : List Bool) (hk : Keeps wm s0 s) : KeepsR wm s0 (execAbsFrameComplete dt k frame s) := by
  unfold execAbsFrameComplete
  repeat' with_reducible first
    | assumption
    | (extract_lets (onlyGivenNames := true) x; try (refine Keeps.cut (w := wm) (s0 := s0) (x := x) ?_ (fun hx => ?_); on_goal 1 => (unfold x; clear x)))
    | apply Keeps.ite | apply KeepsR.needs | apply State.after_keeps | apply State.runRim_keeps | apply State.xferEnd_keeps
    | apply State.judgeFrame_keeps | split

theorem execSerialTimeout_keeps {wm : Bool} {s0 s : State} (dt : Nat) (k : Nat) (hk : Keeps wm s0 s) : KeepsR wm s0 (execSerialTimeout dt k s) := by
  unfold execSerialTimeout
  repeat' with_reducible first
    | assumption
    | (extract_lets (onlyGivenNames := true) x; try (refine Keeps.cut (w := wm) (s0 := s0) (x := x) ?_ (fun hx => ?_); on_goal 1 => (unfold x; clear x)))
    | refine Keeps.lit rfl rfl rfl rfl (by assumption) (by assumption) | apply Keeps.ite | apply KeepsR.ite | apply KeepsR.next | apply KeepsR.needs
    | apply KeepsR.refused | apply State.after_keeps | apply State.runRim_keeps | apply State.xferEnd_keeps | apply State.flag_keeps
    | apply State.badFrame_keeps | split | (clear_value *; split)

theorem State.latchRead_keeps {wm : Bool} {s0 s : State} (k : Nat) (hk : Keeps wm s0 s) : Keeps wm s0 (State.latchRead s k).1 := by
  show KeepsP wm s0 _
  unfold State.latchRead
  repeat' with_reducible first
    | assumption
    | (extract_lets (onlyGivenNames := true) x; try (refine Keeps.cut (w := wm) (s0 := s0) (x := x) ?_ (fun hx => ?_); on_goal 1 => (unfold x; clear x)))
    | apply KeepsP.mk | apply State.wr_keeps

theorem execFbLatchPosRead_keeps {wm : Bool} {s0 s : State} (dt : Nat) (r : Reader) (k : Nat) (hk : Keeps wm s0 s) : KeepsR wm s0 (execFbLatchPosRead dt r k s) := by
  unfold execFbLatchPosRead
  repeat' with_reducible first
    | assumption
    | (extract_lets (onlyGivenNames := true) x; try (refine Keeps.cut (w := wm) (s0 := s0) (x := x) ?_ (fun hx => ?_); on_goal 1 => (unfold x; clear x)))
    | apply KeepsR.needs | apply State.after_keeps | apply State.readAt_keeps | apply State.latchRead_keeps | (intro x hx)

theorem State.capTriggers_keeps {wm : Bool} {s0 s : State} (i : Nat) (hk : Keeps wm s0 s) : Keeps wm s0 (State.capTriggers s i) := by
  unfold State.capTriggers
  repeat' with_reducible first
    | assumption
    | (extract_lets (onlyGivenNames := true) x; try (refine Keeps.cut (w := wm) (s0 := s0) (x := x) ?_ (fun hx => ?_); on_goal 1 => (unfold x; clear x)))
    | apply Keeps.ite | apply State.fbTrigger_keeps | (refine Keeps.forEach ?_ ?_; intro a x hx)

theorem State.fbStored_keeps {wm : Bool} {s0 old : State} (s : State) (k : Nat) (off : Nat) (h_s : Keeps wm s0 s) (hk : Keeps wm s0 old) : Keeps wm s0 (State.fbStored old s k off) := by
  unfold State.fbStored
  repeat' with_reducible first
    | assumption
    | (extract_lets (onlyGivenNames := true) x; try (refine Keeps.cut (w := wm) (s0 := s0) (x := x) ?_ (fun hx => ?_); on_goal 1 => (unfold x; clear x)))
    | apply Keeps.ite | apply State.putFb_keeps | apply State.fbPin_keeps

theorem State.fbCommitted_keeps {wm : Bool} {s0 old : State} (s : State) (k : Nat) (h_s : Keeps wm s0 s) (hk : Keeps wm s0 old) : Keeps wm s0 (State.fbCommitted old s k) := by
  unfold State.fbCommitted
  repeat' with_reducible first
    | assumption
    | (extract_lets (onlyGivenNames := true) x; try (refine Keeps.cut (w := wm) (s0 := s0) (x := x) ?_ (fun hx => ?_); on_goal 1 => (unfold x; clear x)))
    | apply Keeps.ite | apply State.putFb_keeps | apply State.fbSet_keeps | apply State.hallShow_keeps | apply State.hallBegin_keeps
    | apply State.flag_keeps | apply State.fbPin_keeps

theorem State.fbBegin_keeps {wm : Bool} {s0 s : State} (hk : Keeps wm s0 s) : Keeps wm s0 (State.fbBegin s) := by
  unfold State.fbBegin
  repeat' with_reducible first
    | assumption
    | (extract_lets (onlyGivenNames := true) x; try (refine Keeps.cut (w := wm) (s0 := s0) (x := x) ?_ (fun hx => ?_); on_goal 1 => (unfold x; clear x)))
    | apply Keeps.ite | apply State.hallBegin_keeps | (refine Keeps.forEach ?_ ?_; intro a x hx)

end Sys2Proof.Machine
end

