-- ==== Sys2Proof/Laws/KeepsRingBuf.lean ====
section
/-! SUPPORT. Every operation of Machine/RingBuf.lean keeps the canonical form, the queue and the fuses. -/

set_option linter.unusedVariables false
set_option linter.tactic.unusedName false
set_option linter.unusedTactic false
set_option linter.unreachableTactic false

namespace Sys2Proof.Machine

theorem State.takeTables_keeps {wm : Bool} {s0 s : State} (ch : Nat) (hk : Keeps wm s0 s) : Keeps wm s0 (State.takeTables s ch) := by
  unfold State.takeTables
  repeat' with_reducible first
    | assumption
    | (extract_lets (onlyGivenNames := true) x; try (refine Keeps.cut (w := wm) (s0 := s0) (x := x) ?_ (fun hx => ?_); on_goal 1 => (unfold x; clear x)))
    | apply Keeps.ite | apply State.putRaw_keeps | apply State.wr_keeps

theorem State.putApp_keeps {wm : Bool} {s0 s : State} (ch : Nat) (a : AppBuf) (hk : Keeps wm s0 s) : Keeps wm s0 (State.putApp s ch a) := by
  unfold State.putApp
  repeat' with_reducible first
    | refine Keeps.lit rfl rfl rfl rfl (by assumption) (by assumption)

theorem State.ringLatch_keeps {wm : Bool} {s0 s : State} (g : Nat) (hk : Keeps wm s0 s) : Keeps wm s0 (State.ringLatch s g) := by
  unfold State.ringLatch
  repeat' with_reducible first
    | assumption
    | (extract_lets (onlyGivenNames := true) x; try (refine Keeps.cut (w := wm) (s0 := s0) (x := x) ?_ (fun hx => ?_); on_goal 1 => (unfold x; clear x)))
    | apply State.putApp_keeps | (refine Keeps.forEach ?_ ?_; intro a x hx)

theorem State.ringPut_keeps {wm : Bool} {s0 s : State} (w : WordMap) (v : Nat) (hk : Keeps wm s0 s) : Keeps wm s0 (State.ringPut s w v) := by
  unfold State.ringPut
  repeat' with_reducible first
    | assumption
    | (extract_lets (onlyGivenNames := true) x; try (refine Keeps.cut (w := wm) (s0 := s0) (x := x) ?_ (fun hx => ?_); on_goal 1 => (unfold x; clear x)))
    | apply State.putApp_keeps

theorem State.laneOutWord_keeps {wm : Bool} {s0 s : State} (n : Nat) (kind : Nat) (v : Nat) (hk : Keeps wm s0 s) : Keeps wm s0 (State.laneOutWord s n kind v) := by
  unfold State.laneOutWord
  repeat' with_reducible first
    | assumption | apply State.ringPut_keeps | split

theorem State.publishCh_keeps {wm : Bool} {s0 s : State} (ch : Nat) (hk : Keeps wm s0 s) : Keeps wm s0 (State.publishCh s ch) := by
  unfold State.publishCh
  repeat' with_reducible first
    | assumption
    | (extract_lets (onlyGivenNames := true) x; try (refine Keeps.cut (w := wm) (s0 := s0) (x := x) ?_ (fun hx => ?_); on_goal 1 => (unfold x; clear x)))
    | apply State.putApp_keeps

theorem State.publish_keeps {wm : Bool} {s0 s : State} (hk : Keeps wm s0 s) : Keeps wm s0 (State.publish s) := by
  unfold State.publish
  repeat' with_reducible first
    | assumption
    | (extract_lets (onlyGivenNames := true) x; try (refine Keeps.cut (w := wm) (s0 := s0) (x := x) ?_ (fun hx => ?_); on_goal 1 => (unfold x; clear x)))
    | apply State.publishCh_keeps

end Sys2Proof.Machine
end

