-- ==== Sys2Proof/Laws/KeepsBridges.lean ====
section
/-! SUPPORT. Every operation of Machine/Bridges.lean keeps the canonical form, the queue and the fuses. -/

set_option linter.unusedVariables false
set_option linter.tactic.unusedName false
set_option linter.unusedTactic false
set_option linter.unreachableTactic false

namespace Sys2Proof.Machine

theorem State.putPb_keeps {wm : Bool} {s0 s : State} (b : Nat) (p : Pb) (hk : Keeps wm s0 s) : Keeps wm s0 (State.putPb s b p) := by
  unfold State.putPb
  repeat' with_reducible first
    | refine Keeps.lit rfl rfl rfl rfl (by assumption) (by assumption)

theorem State.showPb_keeps {wm : Bool} {s0 s : State} (b : Nat) (hk : Keeps wm s0 s) : Keeps wm s0 (State.showPb s b) := by
  unfold State.showPb
  repeat' with_reducible first
    | assumption
    | (extract_lets (onlyGivenNames := true) x; try (refine Keeps.cut (w := wm) (s0 := s0) (x := x) ?_ (fun hx => ?_); on_goal 1 => (unfold x; clear x)))
    | apply State.wrB_keeps

theorem State.pbPulse_keeps {wm : Bool} {s0 s : State} (b : Nat) (p : Nat) (since : Nat) (t : Nat) (high : Bool) (hk : Keeps wm s0 s) : Keeps wm s0 (State.pbPulse s b p since t high) := by
  unfold State.pbPulse
  repeat' with_reducible first
    | assumption
    | (extract_lets (onlyGivenNames := true) x; try (refine Keeps.cut (w := wm) (s0 := s0) (x := x) ?_ (fun hx => ?_); on_goal 1 => (unfold x; clear x)))
    | apply Keeps.ite | apply State.emit_keeps

theorem State.phaseChange_keeps {wm : Bool} {s0 s : State} (b : Nat) (p : Nat) (t : Nat) (lev : Bool) (hk : Keeps wm s0 s) : Keeps wm s0 (State.phaseChange s b p t lev) := by
  unfold State.phaseChange
  repeat' with_reducible first
    | assumption
    | (extract_lets (onlyGivenNames := true) x; try (refine Keeps.cut (w := wm) (s0 := s0) (x := x) ?_ (fun hx => ?_); on_goal 1 => (unfold x; clear x)))
    | apply Keeps.ite | apply State.pbPulse_keeps | apply State.putPb_keeps

theorem State.phaseFlush_keeps {wm : Bool} {s0 s : State} (b : Nat) (p : Nat) (t : Nat) (hk : Keeps wm s0 s) : Keeps wm s0 (State.phaseFlush s b p t) := by
  unfold State.phaseFlush
  repeat' with_reducible first
    | assumption
    | (extract_lets (onlyGivenNames := true) x; try (refine Keeps.cut (w := wm) (s0 := s0) (x := x) ?_ (fun hx => ?_); on_goal 1 => (unfold x; clear x)))
    | apply State.putPb_keeps | apply State.phaseChange_keeps | (refine Keeps.forEach ?_ ?_; intro a x hx)

theorem State.pbFlush_keeps {wm : Bool} {s0 s : State} (b : Nat) (t : Nat) (hk : Keeps wm s0 s) : Keeps wm s0 (State.pbFlush s b t) := by
  unfold State.pbFlush
  repeat' with_reducible first
    | assumption
    | (extract_lets (onlyGivenNames := true) x; try (refine Keeps.cut (w := wm) (s0 := s0) (x := x) ?_ (fun hx => ?_); on_goal 1 => (unfold x; clear x)))
    | apply State.phaseFlush_keeps | (refine Keeps.forEach ?_ ?_; intro a x hx)

theorem State.pbCut_keeps {wm : Bool} {s0 s : State} (b : Nat) (t : Nat) (hk : Keeps wm s0 s) : Keeps wm s0 (State.pbCut s b t) := by
  unfold State.pbCut
  repeat' with_reducible first
    | assumption
    | (extract_lets (onlyGivenNames := true) x; try (refine Keeps.cut (w := wm) (s0 := s0) (x := x) ?_ (fun hx => ?_); on_goal 1 => (unfold x; clear x)))
    | apply State.pbPulse_keeps | (refine Keeps.forEach ?_ ?_; intro a x hx)

theorem State.pbSwitch_keeps {wm : Bool} {s0 old : State} (s : State) (b : Nat) (h_s : Keeps wm s0 s) (hk : Keeps wm s0 old) : Keeps wm s0 (State.pbSwitch old s b) := by
  unfold State.pbSwitch
  repeat' with_reducible first
    | assumption
    | (extract_lets (onlyGivenNames := true) x; try (refine Keeps.cut (w := wm) (s0 := s0) (x := x) ?_ (fun hx => ?_); on_goal 1 => (unfold x; clear x)))
    | apply Keeps.ite | apply State.putPb_keeps | apply State.emit_keeps | (refine Keeps.forEach ?_ ?_; intro a x hx)

theorem State.pbLeave_keeps {wm : Bool} {s0 s : State} (b : Nat) (hk : Keeps wm s0 s) : Keeps wm s0 (State.pbLeave s b) := by
  unfold State.pbLeave
  repeat' with_reducible first
    | assumption
    | (extract_lets (onlyGivenNames := true) x; try (refine Keeps.cut (w := wm) (s0 := s0) (x := x) ?_ (fun hx => ?_); on_goal 1 => (unfold x; clear x)))
    | apply Keeps.ite | apply State.pbFlush_keeps | apply State.pbCut_keeps

theorem State.pbTrip_keeps {wm : Bool} {s0 s : State} (b : Nat) (t : Nat) (hk : Keeps wm s0 s) : Keeps wm s0 (State.pbTrip s b t) := by
  unfold State.pbTrip
  repeat' with_reducible first
    | assumption
    | (extract_lets (onlyGivenNames := true) x; try (refine Keeps.cut (w := wm) (s0 := s0) (x := x) ?_ (fun hx => ?_); on_goal 1 => (unfold x; clear x)))
    | apply Keeps.ite | apply State.pbFlush_keeps | apply State.pbCut_keeps | apply State.wr_keeps | apply State.emit_keeps
    | (refine Keeps.forEach ?_ ?_; intro a x hx)

theorem State.pbKeep_keeps {wm : Bool} {s0 s : State} (b : Nat) (goNow : Bool) (hk : Keeps wm s0 s) : Keeps wm s0 (State.pbKeep s b goNow) := by
  unfold State.pbKeep
  repeat' with_reducible first
    | assumption
    | (extract_lets (onlyGivenNames := true) x; try (refine Keeps.cut (w := wm) (s0 := s0) (x := x) ?_ (fun hx => ?_); on_goal 1 => (unfold x; clear x)))
    | apply State.putPb_keeps

theorem State.pbPut_keeps {wm : Bool} {s0 s : State} (b : Nat) (which : Nat) (v : Nat) (hk : Keeps wm s0 s) : Keeps wm s0 (State.pbPut s b which v) := by
  unfold State.pbPut
  repeat' with_reducible first
    | assumption
    | (extract_lets (onlyGivenNames := true) x; try (refine Keeps.cut (w := wm) (s0 := s0) (x := x) ?_ (fun hx => ?_); on_goal 1 => (unfold x; clear x)))
    | apply Keeps.ite | apply State.pbKeep_keeps | apply State.wr_keeps | apply State.showPb_keeps

theorem State.dutySoft_keeps {wm : Bool} {s0 s : State} (b : Nat) (which : Nat) (v : Nat) (hk : Keeps wm s0 s) : Keeps wm s0 (State.dutySoft s b which v) := by
  unfold State.dutySoft
  repeat' with_reducible first
    | assumption
    | (extract_lets (onlyGivenNames := true) x; try (refine Keeps.cut (w := wm) (s0 := s0) (x := x) ?_ (fun hx => ?_); on_goal 1 => (unfold x; clear x)))
    | apply Keeps.ite | apply State.flag_keeps | apply State.pbPut_keeps

theorem State.dutyLane_keeps {wm : Bool} {s0 s : State} (b : Nat) (on : List Nat) (hk : Keeps wm s0 s) : Keeps wm s0 (State.dutyLane s b on) := by
  unfold State.dutyLane
  repeat' with_reducible first
    | assumption
    | (extract_lets (onlyGivenNames := true) x; try (refine Keeps.cut (w := wm) (s0 := s0) (x := x) ?_ (fun hx => ?_); on_goal 1 => (unfold x; clear x)))
    | apply State.pbPut_keeps | (refine Keeps.forEach ?_ ?_; intro a x hx)

theorem State.pbReload_keeps {wm : Bool} {s0 s : State} (b : Nat) (hk : Keeps wm s0 s) : Keeps wm s0 (State.pbReload s b) := by
  unfold State.pbReload
  repeat' with_reducible first
    | assumption
    | (extract_lets (onlyGivenNames := true) x; try (refine Keeps.cut (w := wm) (s0 := s0) (x := x) ?_ (fun hx => ?_); on_goal 1 => (unfold x; clear x)))
    | apply Keeps.ite | apply State.putPb_keeps | apply State.flag_keeps | apply State.wr_keeps | apply State.showPb_keeps | apply State.pbSwitch_keeps
    | (refine Keeps.forEach ?_ ?_; intro a x hx)

theorem State.putNext_keeps {wm : Bool} {s0 s : State} (b : Nat) (p : Nat) (l : List (Nat × Bool)) (hk : Keeps wm s0 s) : Keeps wm s0 (State.putNext s b p l) := by
  unfold State.putNext
  repeat' with_reducible first
    | assumption
    | (extract_lets (onlyGivenNames := true) x; try (refine Keeps.cut (w := wm) (s0 := s0) (x := x) ?_ (fun hx => ?_); on_goal 1 => (unfold x; clear x)))
    | apply State.putPb_keeps

theorem State.half1_keeps {wm : Bool} {s0 s : State} (b : Nat) (p : Nat) (v : Nat) (hk : Keeps wm s0 s) : Keeps wm s0 (State.half1 s b p v) := by
  unfold State.half1
  repeat' with_reducible first
    | assumption
    | (extract_lets (onlyGivenNames := true) x; try (refine Keeps.cut (w := wm) (s0 := s0) (x := x) ?_ (fun hx => ?_); on_goal 1 => (unfold x; clear x)))
    | apply State.putPb_keeps | apply State.putNext_keeps | apply State.phaseFlush_keeps

theorem State.half2_keeps {wm : Bool} {s0 s : State} (b : Nat) (p : Nat) (pk : Nat) (hk : Keeps wm s0 s) : Keeps wm s0 (State.half2 s b p pk) := by
  unfold State.half2
  repeat' with_reducible first
    | assumption
    | (extract_lets (onlyGivenNames := true) x; try (refine Keeps.cut (w := wm) (s0 := s0) (x := x) ?_ (fun hx => ?_); on_goal 1 => (unfold x; clear x)))
    | apply Keeps.ite | apply State.putPb_keeps | apply State.bump_keeps | apply State.putNext_keeps | apply State.phaseFlush_keeps

theorem State.wholePeriod_keeps {wm : Bool} {s0 s : State} (b : Nat) (p : Nat) (v : Nat) (hk : Keeps wm s0 s) : Keeps wm s0 (State.wholePeriod s b p v) := by
  unfold State.wholePeriod
  repeat' with_reducible first
    | assumption
    | (extract_lets (onlyGivenNames := true) x; try (refine Keeps.cut (w := wm) (s0 := s0) (x := x) ?_ (fun hx => ?_); on_goal 1 => (unfold x; clear x)))
    | apply Keeps.ite | apply State.putPb_keeps | apply State.bump_keeps | apply State.putNext_keeps | apply State.phaseFlush_keeps

theorem State.periodEnd_keeps {wm : Bool} {s0 s : State} (b : Nat) (p : Nat) (v : Nat) (hk : Keeps wm s0 s) : Keeps wm s0 (State.periodEnd s b p v) := by
  unfold State.periodEnd
  repeat' with_reducible first
    | assumption
    | (extract_lets (onlyGivenNames := true) x; try (refine Keeps.cut (w := wm) (s0 := s0) (x := x) ?_ (fun hx => ?_); on_goal 1 => (unfold x; clear x)))
    | apply State.putPb_keeps

theorem execCarrierValley_keeps {wm : Bool} {s0 s : State} (b : Nat) (hk : Keeps wm s0 s) : KeepsR wm s0 (execCarrierValley b s) := by
  unfold execCarrierValley
  repeat' with_reducible first
    | assumption
    | (extract_lets (onlyGivenNames := true) x; try (refine Keeps.cut (w := wm) (s0 := s0) (x := x) ?_ (fun hx => ?_); on_goal 1 => (unfold x; clear x)))
    | apply Keeps.ite | apply KeepsR.needs | apply State.runTo_keeps | apply State.pbFlush_keeps | apply State.periodEnd_keeps | apply State.putPb_keeps
    | apply State.wr_keeps | apply State.showPb_keeps | apply State.pbReload_keeps | apply State.wholePeriod_keeps | apply State.half1_keeps
    | (refine Keeps.forEach ?_ ?_; intro a x hx)

theorem execCarrierPeak_keeps {wm : Bool} {s0 s : State} (b : Nat) (hk : Keeps wm s0 s) : KeepsR wm s0 (execCarrierPeak b s) := by
  unfold execCarrierPeak
  repeat' with_reducible first
    | assumption
    | (extract_lets (onlyGivenNames := true) x; try (refine Keeps.cut (w := wm) (s0 := s0) (x := x) ?_ (fun hx => ?_); on_goal 1 => (unfold x; clear x)))
    | refine Keeps.lit rfl rfl rfl rfl (by first | assumption | (refine KeepsO.get (by assumption) ?_; apply State.reach_keeps; assumption)) (by first | assumption | (refine KeepsO.get (by assumption) ?_; apply State.reach_keeps; assumption))
    | apply Keeps.ite | apply KeepsR.needs | apply State.pbFlush_keeps | apply State.showPb_keeps | apply State.pbReload_keeps | apply State.half2_keeps
    | (refine Keeps.forEach ?_ ?_; intro a x hx) | split

theorem execDutyGo_keeps {wm : Bool} {s0 s : State} (dt : Nat) (src : Src) (b : Nat) (which : Nat) (value : Nat) (hk : Keeps wm s0 s) : KeepsR wm s0 (execDutyGo dt src b which value s) := by
  unfold execDutyGo
  repeat' with_reducible first
    | assumption
    | (extract_lets (onlyGivenNames := true) x; try (refine Keeps.cut (w := wm) (s0 := s0) (x := x) ?_ (fun hx => ?_); on_goal 1 => (unfold x; clear x)))
    | apply Keeps.ite | apply KeepsR.needs | apply State.after_keeps | apply State.swWrite_keeps | apply State.mirrorWrite_keeps
    | apply State.dutySoft_keeps | (intro x hx)

theorem execTripAccept_keeps {wm : Bool} {s0 s : State} (dt : Nat) (b : Nat) (trips : Nat) (hk : Keeps wm s0 s) : KeepsR wm s0 (execTripAccept dt b trips s) := by
  unfold execTripAccept
  repeat' with_reducible first
    | assumption
    | (extract_lets (onlyGivenNames := true) x; try (refine Keeps.cut (w := wm) (s0 := s0) (x := x) ?_ (fun hx => ?_); on_goal 1 => (unfold x; clear x)))
    | apply Keeps.ite | apply KeepsR.needs | apply State.after_keeps | apply State.wr_keeps | apply State.pbFlush_keeps | apply State.flag_keeps
    | apply State.bump_keeps | apply State.journalBy_keeps | apply State.pbTrip_keeps

theorem State.tripClear_keeps {wm : Bool} {s0 s : State} (b : Nat) (trips : Nat) (hk : Keeps wm s0 s) : Keeps wm s0 (State.tripClear s b trips) := by
  unfold State.tripClear
  repeat' with_reducible first
    | assumption
    | (extract_lets (onlyGivenNames := true) x; try (refine Keeps.cut (w := wm) (s0 := s0) (x := x) ?_ (fun hx => ?_); on_goal 1 => (unfold x; clear x)))
    | refine Keeps.lit rfl rfl rfl rfl (by assumption) (by assumption) | apply Keeps.ite | apply State.wr_keeps | apply State.flag_keeps

theorem execTripClr_keeps {wm : Bool} {s0 s : State} (dt : Nat) (src : Src) (b : Nat) (trips : Nat) (hk : Keeps wm s0 s) : KeepsR wm s0 (execTripClr dt src b trips s) := by
  unfold execTripClr
  repeat' with_reducible first
    | assumption
    | (extract_lets (onlyGivenNames := true) x; try (refine Keeps.cut (w := wm) (s0 := s0) (x := x) ?_ (fun hx => ?_); on_goal 1 => (unfold x; clear x)))
    | apply KeepsR.needs | apply State.after_keeps | apply State.swWrite_keeps | apply State.tripClear_keeps | (intro x hx)

theorem State.sdTake_keeps {wm : Bool} {s0 s : State} (k : Nat) (p : Nat) (w : List Bool) (hk : Keeps wm s0 s) : Keeps wm s0 (State.sdTake s k p w) := by
  unfold State.sdTake
  repeat' with_reducible first
    | assumption
    | (extract_lets (onlyGivenNames := true) x; try (refine Keeps.cut (w := wm) (s0 := s0) (x := x) ?_ (fun hx => ?_); on_goal 1 => (unfold x; clear x)))
    | refine Keeps.lit rfl rfl rfl rfl (by assumption) (by assumption) | apply Keeps.ite | apply State.wr_keeps | apply State.flag_keeps
    | apply State.bump_keeps

theorem State.sdIrq_keeps {wm : Bool} {s0 s : State} (k : Nat) (hk : Keeps wm s0 s) : Keeps wm s0 (State.sdIrq s k) := by
  unfold State.sdIrq
  repeat' with_reducible first
    | assumption | apply State.irqSel_keeps

theorem execSdResult_keeps {wm : Bool} {s0 s : State} (k : Nat) (window : List Bool) (hk : Keeps wm s0 s) : KeepsR wm s0 (execSdResult k window s) := by
  unfold execSdResult
  repeat' with_reducible first
    | assumption
    | (extract_lets (onlyGivenNames := true) x; try (refine Keeps.cut (w := wm) (s0 := s0) (x := x) ?_ (fun hx => ?_); on_goal 1 => (unfold x; clear x)))
    | apply Keeps.ite | apply KeepsR.needs | apply State.runTo_keeps | apply State.sdTake_keeps | apply State.sdIrq_keeps | split

end Sys2Proof.Machine
end

