-- ==== Sys2Proof/Laws/KeepsBalls.lean ====
section
/-! SUPPORT. Every operation of Machine/Balls.lean keeps the canonical form, the queue and the fuses. -/

set_option linter.unusedVariables false
set_option linter.tactic.unusedName false
set_option linter.unusedTactic false
set_option linter.unreachableTactic false

namespace Sys2Proof.Machine

theorem State.sdckShow_keeps {wm : Bool} {s0 s : State} (j : Nat) (hk : Keeps wm s0 s) : Keeps wm s0 (State.sdckShow s j) := by
  unfold State.sdckShow
  repeat' with_reducible first
    | assumption
    | (extract_lets (onlyGivenNames := true) x; try (refine Keeps.cut (w := wm) (s0 := s0) (x := x) ?_ (fun hx => ?_); on_goal 1 => (unfold x; clear x)))
    | apply State.emit_keeps

theorem State.pbOffShow_keeps {wm : Bool} {s0 s : State} (b : Nat) (hk : Keeps wm s0 s) : Keeps wm s0 (State.pbOffShow s b) := by
  unfold State.pbOffShow
  repeat' with_reducible first
    | assumption
    | (extract_lets (onlyGivenNames := true) x; try (refine Keeps.cut (w := wm) (s0 := s0) (x := x) ?_ (fun hx => ?_); on_goal 1 => (unfold x; clear x)))
    | apply State.emit_keeps | (refine Keeps.forEach ?_ ?_; intro a x hx)

theorem State.ballsLeave_keeps {wm : Bool} {s0 s : State} (m : Nat) (hk : Keeps wm s0 s) : Keeps wm s0 (State.ballsLeave s m) := by
  unfold State.ballsLeave
  repeat' with_reducible first
    | assumption
    | (extract_lets (onlyGivenNames := true) x; try (refine Keeps.cut (w := wm) (s0 := s0) (x := x) ?_ (fun hx => ?_); on_goal 1 => (unfold x; clear x)))
    | apply Keeps.ite | apply State.pbLeave_keeps | (refine Keeps.forEach ?_ ?_; intro a x hx)

theorem State.ballsTo_keeps {wm : Bool} {s0 old : State} (s : State) (h_s : Keeps wm s0 s) (hk : Keeps wm s0 old) : Keeps wm s0 (State.ballsTo old s) := by
  unfold State.ballsTo
  repeat' with_reducible first
    | assumption
    | (extract_lets (onlyGivenNames := true) x; try (refine Keeps.cut (w := wm) (s0 := s0) (x := x) ?_ (fun hx => ?_); on_goal 1 => (unfold x; clear x)))
    | apply Keeps.ite | apply State.fbPins_keeps | apply State.evDrive_keeps | apply State.emit_keeps | apply State.pbOffShow_keeps
    | apply State.pbSwitch_keeps | apply State.sdckShow_keeps | (refine Keeps.forEach ?_ ?_; intro a x hx)

theorem State.ballsQuit_keeps {wm : Bool} {s0 s : State} (hk : Keeps wm s0 s) : Keeps wm s0 (State.ballsQuit s) := by
  unfold State.ballsQuit
  repeat' with_reducible first
    | assumption
    | (extract_lets (onlyGivenNames := true) x; try (refine Keeps.cut (w := wm) (s0 := s0) (x := x) ?_ (fun hx => ?_); on_goal 1 => (unfold x; clear x)))
    | apply Keeps.ite | apply State.ballsLeave_keeps | apply State.emit_keeps | (refine Keeps.forEach ?_ ?_; intro a x hx)

end Sys2Proof.Machine
end

