-- ==== Sys2Proof/Laws/KeepsLanes.lean ====
section
/-! SUPPORT. Every operation of Machine/Lanes.lean keeps the canonical form, the queue and the fuses. -/

set_option linter.unusedVariables false
set_option linter.tactic.unusedName false
set_option linter.unusedTactic false
set_option linter.unreachableTactic false

namespace Sys2Proof.Machine

theorem State.putLane_keeps {wm : Bool} {s0 s : State} (n : Nat) (l : Lane) (hk : Keeps wm s0 s) : Keeps wm s0 (State.putLane s n l) := by
  unfold State.putLane
  repeat' with_reducible first
    | refine Keeps.lit rfl rfl rfl rfl (by assumption) (by assumption)

theorem State.showBfp_keeps {wm : Bool} {s0 s : State} (f : Fld) (w : Bfp) (hk : Keeps wm s0 s) : Keeps wm s0 (State.showBfp s f w) := by
  unfold State.showBfp
  repeat' with_reducible first
    | assumption | apply State.putRaw_keeps

theorem State.holdHalted_keeps {wm : Bool} {s0 s : State} (n : Nat) (hk : Keeps wm s0 s) : Keeps wm s0 (State.holdHalted s n) := by
  unfold State.holdHalted
  repeat' with_reducible first
    | assumption
    | (extract_lets (onlyGivenNames := true) x; try (refine Keeps.cut (w := wm) (s0 := s0) (x := x) ?_ (fun hx => ?_); on_goal 1 => (unfold x; clear x)))
    | apply Keeps.ite | apply State.putGen_keeps | apply State.showGen_keeps | split

theorem State.axisRaise_keeps {wm : Bool} {s0 s : State} (n : Nat) (mask : Nat) (hk : Keeps wm s0 s) : Keeps wm s0 (State.axisRaise s n mask) := by
  unfold State.axisRaise
  repeat' with_reducible first
    | assumption
    | (extract_lets (onlyGivenNames := true) x; try (refine Keeps.cut (w := wm) (s0 := s0) (x := x) ?_ (fun hx => ?_); on_goal 1 => (unfold x; clear x)))
    | apply Keeps.ite | apply State.putLane_keeps | apply State.wr_keeps | apply State.flag_keeps | apply State.inkEvent_keeps
    | apply State.journal_keeps | apply State.holdHalted_keeps | apply State.demandHaltOf_keeps | apply State.holdCause_keeps
    | (refine Keeps.forEach ?_ ?_; intro a x hx)

theorem State.applyOff_keeps {wm : Bool} {s0 s : State} (n : Nat) (hk : Keeps wm s0 s) : Keeps wm s0 (State.applyOff s n) := by
  unfold State.applyOff
  repeat' with_reducible first
    | assumption
    | (extract_lets (onlyGivenNames := true) x; try (refine Keeps.cut (w := wm) (s0 := s0) (x := x) ?_ (fun hx => ?_); on_goal 1 => (unfold x; clear x)))
    | apply Keeps.ite | apply State.putLane_keeps | apply State.wr_keeps | apply State.showBfp_keeps | apply State.showPb_keeps
    | apply State.pbTrip_keeps

theorem State.axisClear_keeps {wm : Bool} {s0 s : State} (n : Nat) (pfb : Int) (hk : Keeps wm s0 s) : Keeps wm s0 (State.axisClear s n pfb) := by
  unfold State.axisClear
  repeat' with_reducible first
    | assumption
    | (extract_lets (onlyGivenNames := true) x; try (refine Keeps.cut (w := wm) (s0 := s0) (x := x) ?_ (fun hx => ?_); on_goal 1 => (unfold x; clear x)))
    | apply Keeps.ite | apply State.putLane_keeps | apply State.wr_keeps | apply State.showPb_keeps | apply State.putGen_keeps
    | apply State.showGen_keeps

theorem State.migrate_keeps {wm : Bool} {s0 s : State} (n : Nat) (hk : Keeps wm s0 s) : Keeps wm s0 (State.migrate s n) := by
  unfold State.migrate
  repeat' with_reducible first
    | assumption
    | (extract_lets (onlyGivenNames := true) x; try (refine Keeps.cut (w := wm) (s0 := s0) (x := x) ?_ (fun hx => ?_); on_goal 1 => (unfold x; clear x)))
    | refine Keeps.lit rfl rfl rfl rfl (by assumption) (by assumption) | apply Keeps.ite | apply State.putLane_keeps | apply State.bringIn_keeps
    | apply State.wr_keeps | apply State.flag_keeps | split

theorem State.holdSafe_keeps {wm : Bool} {s0 s : State} (n : Nat) (sp : SetPoint) (hk : Keeps wm s0 s) : Keeps wm s0 (State.holdSafe s n sp) := by
  unfold State.holdSafe
  repeat' with_reducible first
    | assumption
    | (extract_lets (onlyGivenNames := true) x; try (refine Keeps.cut (w := wm) (s0 := s0) (x := x) ?_ (fun hx => ?_); on_goal 1 => (unfold x; clear x)))
    | apply Keeps.ite | apply State.putLane_keeps

theorem State.intReset_keeps {wm : Bool} {s0 s : State} (n : Nat) (hk : Keeps wm s0 s) : Keeps wm s0 (State.intReset s n) := by
  unfold State.intReset
  repeat' with_reducible first
    | assumption
    | (extract_lets (onlyGivenNames := true) x; try (refine Keeps.cut (w := wm) (s0 := s0) (x := x) ?_ (fun hx => ?_); on_goal 1 => (unfold x; clear x)))
    | apply Keeps.ite | apply State.wr_keeps | apply State.putLane_keeps

theorem State.limRing_keeps {wm : Bool} {s0 s : State} (ch : Nat) (hk : Keeps wm s0 s) : Keeps wm s0 (State.limRing s ch) := by
  unfold State.limRing
  repeat' with_reducible first
    | assumption
    | (extract_lets (onlyGivenNames := true) x; try (refine Keeps.cut (w := wm) (s0 := s0) (x := x) ?_ (fun hx => ?_); on_goal 1 => (unfold x; clear x)))
    | apply Keeps.ite | apply State.limEdge_keeps | (refine Keeps.forEach ?_ ?_; intro a x hx) | split

theorem State.stkCommitted_keeps {wm : Bool} {s0 s : State} (n : Nat) (hk : Keeps wm s0 s) : Keeps wm s0 (State.stkCommitted s n) := by
  unfold State.stkCommitted
  repeat' with_reducible first
    | assumption
    | (extract_lets (onlyGivenNames := true) x; try (refine Keeps.cut (w := wm) (s0 := s0) (x := x) ?_ (fun hx => ?_); on_goal 1 => (unfold x; clear x)))
    | apply Keeps.ite | apply State.limEdge_keeps | (refine Keeps.forEach ?_ ?_; intro a x hx) | split

theorem execLimitEdge_keeps {wm : Bool} {s0 s : State} (dt : Nat) (n : Nat) (which : Nat) (level : Bool) (hk : Keeps wm s0 s) : KeepsR wm s0 (execLimitEdge dt n which level s) := by
  unfold execLimitEdge
  repeat' with_reducible first
    | assumption
    | (extract_lets (onlyGivenNames := true) x; try (refine Keeps.cut (w := wm) (s0 := s0) (x := x) ?_ (fun hx => ?_); on_goal 1 => (unfold x; clear x)))
    | apply Keeps.ite | apply KeepsR.needs | apply State.after_keeps | apply State.limEdge_keeps | apply State.fbAux_keeps

theorem State.laneStart_keeps {wm : Bool} {s0 s : State} (n : Nat) (g : Nat) (hk : Keeps wm s0 s) : Keeps wm s0 (State.laneStart s n g) := by
  unfold State.laneStart
  repeat' with_reducible first
    | assumption
    | (extract_lets (onlyGivenNames := true) x; try (refine Keeps.cut (w := wm) (s0 := s0) (x := x) ?_ (fun hx => ?_); on_goal 1 => (unfold x; clear x)))
    | apply Keeps.ite | apply State.migrate_keeps | apply State.idleTake_keeps | apply State.limInterp_keeps | apply State.putLane_keeps
    | apply State.wr_keeps | apply State.axisClear_keeps | apply State.flag_keeps | apply State.wrB_keeps | apply State.axisRaise_keeps
    | apply State.holdSafe_keeps | apply State.intReset_keeps

theorem State.lanesStart_keeps {wm : Bool} {s0 s : State} (k : Nat) (hk : Keeps wm s0 s) : Keeps wm s0 (State.lanesStart s k) := by
  unfold State.lanesStart
  repeat' with_reducible first
    | assumption
    | (extract_lets (onlyGivenNames := true) x; try (refine Keeps.cut (w := wm) (s0 := s0) (x := x) ?_ (fun hx => ?_); on_goal 1 => (unfold x; clear x)))
    | apply Keeps.ite | apply State.laneStart_keeps | (refine Keeps.forEach ?_ ?_; intro a x hx) | split

theorem execLaneRunComplete_keeps {wm : Bool} {s0 s : State} (dt : Nat) (slot : Nat) (cur : Bool) (hk : Keeps wm s0 s) : KeepsR wm s0 (execLaneRunComplete dt slot cur s) := by
  unfold execLaneRunComplete
  repeat' with_reducible first
    | assumption
    | (extract_lets (onlyGivenNames := true) x; try (refine Keeps.cut (w := wm) (s0 := s0) (x := x) ?_ (fun hx => ?_); on_goal 1 => (unfold x; clear x)))
    | apply Keeps.ite | apply KeepsR.needs | apply State.after_keeps | apply State.putLane_keeps | apply State.wrB_keeps | apply State.flag_keeps
    | apply State.wr_keeps | apply State.wrS_keeps | apply State.wrU_keeps | apply State.slackReport_keeps | split

theorem State.laneOver_keeps {wm : Bool} {s0 s : State} (n : Nat) (hk : Keeps wm s0 s) : Keeps wm s0 (State.laneOver s n) := by
  unfold State.laneOver
  repeat' with_reducible first
    | assumption
    | (extract_lets (onlyGivenNames := true) x; try (refine Keeps.cut (w := wm) (s0 := s0) (x := x) ?_ (fun hx => ?_); on_goal 1 => (unfold x; clear x)))
    | apply State.bump_keeps | apply State.flag_keeps | apply State.inkEvent_keeps

theorem State.abandon_keeps {wm : Bool} {s0 s : State} (n : Nat) (hk : Keeps wm s0 s) : Keeps wm s0 (State.abandon s n) := by
  unfold State.abandon
  repeat' with_reducible first
    | assumption
    | (extract_lets (onlyGivenNames := true) x; try (refine Keeps.cut (w := wm) (s0 := s0) (x := x) ?_ (fun hx => ?_); on_goal 1 => (unfold x; clear x)))
    | apply Keeps.ite | apply State.laneOver_keeps | apply State.wr_keeps | apply State.slackReport_keeps | apply State.axisRaise_keeps

theorem State.laneWords_keeps {wm : Bool} {s0 s : State} (n : Nat) (mode : Nat) (w : List Nat) (hk : Keeps wm s0 s) : Keeps wm s0 (State.laneWords s n mode w) := by
  unfold State.laneWords
  repeat' with_reducible first
    | assumption
    | (extract_lets (onlyGivenNames := true) x; try (refine Keeps.cut (w := wm) (s0 := s0) (x := x) ?_ (fun hx => ?_); on_goal 1 => (unfold x; clear x)))
    | apply Keeps.ite | apply State.laneOutWord_keeps | (refine Keeps.forEach ?_ ?_; intro a x hx)

theorem State.laneRelease_keeps {wm : Bool} {s0 s : State} (n : Nat) (hk : Keeps wm s0 s) : Keeps wm s0 (State.laneRelease s n) := by
  unfold State.laneRelease
  repeat' with_reducible first
    | assumption
    | (extract_lets (onlyGivenNames := true) x; try (refine Keeps.cut (w := wm) (s0 := s0) (x := x) ?_ (fun hx => ?_); on_goal 1 => (unfold x; clear x)))
    | apply Keeps.ite | apply State.applyOff_keeps | apply State.laneWords_keeps | apply State.putLane_keeps | apply State.bump_keeps
    | apply State.abandon_keeps | apply State.showBfp_keeps | split

theorem State.releaseGroup_keeps {wm : Bool} {s0 s : State} (g : Nat) (hk : Keeps wm s0 s) : Keeps wm s0 (State.releaseGroup s g) := by
  unfold State.releaseGroup
  repeat' with_reducible first
    | assumption
    | (extract_lets (onlyGivenNames := true) x; try (refine Keeps.cut (w := wm) (s0 := s0) (x := x) ?_ (fun hx => ?_); on_goal 1 => (unfold x; clear x)))
    | apply Keeps.ite | apply State.laneRelease_keeps | apply State.publish_keeps | (refine Keeps.forEach ?_ ?_; intro a x hx)

theorem State.laneErr_keeps {wm : Bool} {s0 s : State} (slot : Nat) (hk : Keeps wm s0 s) : Keeps wm s0 (State.laneErr s slot) := by
  unfold State.laneErr
  repeat' with_reducible first
    | assumption
    | (extract_lets (onlyGivenNames := true) x; try (refine Keeps.cut (w := wm) (s0 := s0) (x := x) ?_ (fun hx => ?_); on_goal 1 => (unfold x; clear x)))
    | apply Keeps.ite | apply State.unitFails_keeps | apply State.putLane_keeps | apply State.bump_keeps

theorem execLaneError_keeps {wm : Bool} {s0 s : State} (dt : Nat) (slot : Nat) (hk : Keeps wm s0 s) : KeepsR wm s0 (execLaneError dt slot s) := by
  unfold execLaneError
  repeat' with_reducible first
    | assumption
    | (extract_lets (onlyGivenNames := true) x; try (refine Keeps.cut (w := wm) (s0 := s0) (x := x) ?_ (fun hx => ?_); on_goal 1 => (unfold x; clear x)))
    | apply KeepsR.needs | apply State.after_keeps | apply State.laneErr_keeps

theorem execCurrentLoopInstant_keeps {wm : Bool} {s0 s : State} (slot : Nat) (hk : Keeps wm s0 s) : KeepsR wm s0 (execCurrentLoopInstant slot s) := by
  unfold execCurrentLoopInstant
  repeat' with_reducible first
    | assumption
    | (extract_lets (onlyGivenNames := true) x; try (refine Keeps.cut (w := wm) (s0 := s0) (x := x) ?_ (fun hx => ?_); on_goal 1 => (unfold x; clear x)))
    | apply Keeps.ite | apply KeepsR.needs | apply State.runTo_keeps | apply State.fbLatch_keeps | apply State.putLane_keeps
    | (refine Keeps.forEach ?_ ?_; intro a x hx) | split

theorem execDutyWrite_keeps {wm : Bool} {s0 s : State} (slot : Nat) (hk : Keeps wm s0 s) : KeepsR wm s0 (execDutyWrite slot s) := by
  unfold execDutyWrite
  repeat' with_reducible first
    | assumption
    | (extract_lets (onlyGivenNames := true) x; try (refine Keeps.cut (w := wm) (s0 := s0) (x := x) ?_ (fun hx => ?_); on_goal 1 => (unfold x; clear x)))
    | refine Keeps.lit rfl rfl rfl rfl (by first | assumption | (refine KeepsO.get (by assumption) ?_; apply State.reach_keeps; assumption)) (by first | assumption | (refine KeepsO.get (by assumption) ?_; apply State.reach_keeps; assumption))
    | apply Keeps.ite | apply KeepsR.needs | apply State.putLane_keeps | apply State.dutyLane_keeps | apply State.laneOver_keeps | apply State.wr_keeps
    | apply State.axisRaise_keeps | split

theorem execFltClr_keeps {wm : Bool} {s0 s : State} (dt : Nat) (src : Src) (n : Nat) (hk : Keeps wm s0 s) : KeepsR wm s0 (execFltClr dt src n s) := by
  unfold execFltClr
  repeat' with_reducible first
    | assumption
    | (extract_lets (onlyGivenNames := true) x; try (refine Keeps.cut (w := wm) (s0 := s0) (x := x) ?_ (fun hx => ?_); on_goal 1 => (unfold x; clear x)))
    | apply KeepsR.needs | apply State.after_keeps | apply State.swWrite_keeps | apply State.wr_keeps | (intro x hx)

theorem State.intRstWrite_keeps {wm : Bool} {s0 s : State} (n : Nat) (hk : Keeps wm s0 s) : Keeps wm s0 (State.intRstWrite s n) := by
  unfold State.intRstWrite
  repeat' with_reducible first
    | assumption
    | (extract_lets (onlyGivenNames := true) x; try (refine Keeps.cut (w := wm) (s0 := s0) (x := x) ?_ (fun hx => ?_); on_goal 1 => (unfold x; clear x)))
    | apply State.wr_keeps | apply State.putLane_keeps

theorem execIntRst_keeps {wm : Bool} {s0 s : State} (dt : Nat) (src : Src) (n : Nat) (hk : Keeps wm s0 s) : KeepsR wm s0 (execIntRst dt src n s) := by
  unfold execIntRst
  repeat' with_reducible first
    | assumption
    | (extract_lets (onlyGivenNames := true) x; try (refine Keeps.cut (w := wm) (s0 := s0) (x := x) ?_ (fun hx => ?_); on_goal 1 => (unfold x; clear x)))
    | apply KeepsR.needs | apply State.after_keeps | apply State.swWrite_keeps | apply State.intRstWrite_keeps | (intro x hx)

theorem State.axCommitted_keeps {wm : Bool} {s0 s : State} (n : Nat) (hk : Keeps wm s0 s) : Keeps wm s0 (State.axCommitted s n) := by
  unfold State.axCommitted
  repeat' with_reducible first
    | assumption
    | (extract_lets (onlyGivenNames := true) x; try (refine Keeps.cut (w := wm) (s0 := s0) (x := x) ?_ (fun hx => ?_); on_goal 1 => (unfold x; clear x)))
    | apply Keeps.ite | apply State.putLane_keeps | apply State.showBfp_keeps | apply State.flag_keeps

end Sys2Proof.Machine
end

