-- ==== Sys2Proof/Laws/KeepsRing.lean ====
section
/-! SUPPORT. Every operation of Machine/Ring.lean keeps the canonical form, the queue and the fuses. -/

set_option linter.unusedVariables false
set_option linter.tactic.unusedName false
set_option linter.unusedTactic false
set_option linter.unreachableTactic false

namespace Sys2Proof.Machine

theorem State.putChan_keeps {wm : Bool} {s0 s : State} (ch : Nat) (c : Chan) (hk : Keeps wm s0 s) : Keeps wm s0 (State.putChan s ch c) := by
  unfold State.putChan
  repeat' with_reducible first
    | refine Keeps.lit rfl rfl rfl rfl (by assumption) (by assumption)

theorem State.modChan_keeps {wm : Bool} {s0 s : State} (ch : Nat) (f : Chan → Chan) (hk : Keeps wm s0 s) : Keeps wm s0 (State.modChan s ch f) := by
  unfold State.modChan
  repeat' with_reducible first
    | assumption | apply State.putChan_keeps

theorem State.setCs_keeps {wm : Bool} {s0 s : State} (x : Nat) (hk : Keeps wm s0 s) : Keeps wm s0 (State.setCs s x) := by
  unfold State.setCs
  repeat' with_reducible first
    | assumption
    | (extract_lets (onlyGivenNames := true) x; try (refine Keeps.cut (w := wm) (s0 := s0) (x := x) ?_ (fun hx => ?_); on_goal 1 => (unfold x; clear x)))
    | apply Keeps.ite | apply State.wr_keeps | (refine Keeps.forEach ?_ ?_; intro a x hx)

theorem State.laneBit_keeps {s0 s : State} (l : Nat) (b : Nat) (x : Bool) (hk : Keeps true s0 s) : Keeps true s0 (State.laneBit s l b x) := by
  unfold State.laneBit
  repeat' with_reducible first
    | assumption | apply State.putMem32_keeps

theorem State.showUse_keeps {s0 s : State} (ch : Nat) (port : Nat) (hk : Keeps true s0 s) : Keeps true s0 (State.showUse s ch port) := by
  unfold State.showUse
  repeat' with_reducible first
    | assumption
    | (extract_lets (onlyGivenNames := true) x; try (refine Keeps.cut (w := true) (s0 := s0) (x := x) ?_ (fun hx => ?_); on_goal 1 => (unfold x; clear x)))
    | apply State.laneBit_keeps

theorem State.setSpare_keeps {s0 s : State} (ch : Nat) (port : Nat) (x : Bool) (hk : Keeps true s0 s) : Keeps true s0 (State.setSpare s ch port x) := by
  unfold State.setSpare
  repeat' with_reducible first
    | assumption
    | (extract_lets (onlyGivenNames := true) x; try (refine Keeps.cut (w := true) (s0 := s0) (x := x) ?_ (fun hx => ?_); on_goal 1 => (unfold x; clear x)))
    | apply State.wrB_keeps | apply State.showUse_keeps

theorem State.sendFrame_keeps {wm : Bool} {s0 s : State} (ch : Nat) (port : Nat) (at_ : Nat) (late : Nat) (b : List Nat) (hk : Keeps wm s0 s) : Keeps wm s0 (State.sendFrame s ch port at_ late b) := by
  unfold State.sendFrame
  repeat' with_reducible first
    | assumption
    | (extract_lets (onlyGivenNames := true) x; try (refine Keeps.cut (w := wm) (s0 := s0) (x := x) ?_ (fun hx => ?_); on_goal 1 => (unfold x; clear x)))
    | apply State.putChan_keeps | apply State.emit_keeps | split

theorem State.askLanes_keeps {wm : Bool} {s0 s : State} (ch : Nat) (hk : Keeps wm s0 s) : Keeps wm s0 (State.askLanes s ch) := by
  unfold State.askLanes
  repeat' with_reducible first
    | assumption
    | (extract_lets (onlyGivenNames := true) x; try (refine Keeps.cut (w := wm) (s0 := s0) (x := x) ?_ (fun hx => ?_); on_goal 1 => (unfold x; clear x)))
    | apply Keeps.ite | apply State.emit_keeps | (refine Keeps.forEach ?_ ?_; intro a x hx)

theorem State.forward_keeps {wm : Bool} {s0 s : State} (ch : Nat) (port : Nat) (arr : Nat) (b : List Nat) (err : Bool) (hk : Keeps wm s0 s) : Keeps wm s0 (State.forward s ch port arr b err) := by
  unfold State.forward
  repeat' with_reducible first
    | assumption
    | (extract_lets (onlyGivenNames := true) x; try (refine Keeps.cut (w := wm) (s0 := s0) (x := x) ?_ (fun hx => ?_); on_goal 1 => (unfold x; clear x)))
    | apply State.sendFrame_keeps | apply State.useFree_keeps

theorem State.sendStatus_keeps {wm : Bool} {s0 s : State} (hk : Keeps wm s0 s) : Keeps wm s0 (State.sendStatus s) := by
  unfold State.sendStatus
  repeat' with_reducible first
    | assumption
    | (extract_lets (onlyGivenNames := true) x; try (refine Keeps.cut (w := wm) (s0 := s0) (x := x) ?_ (fun hx => ?_); on_goal 1 => (unfold x; clear x)))
    | refine Keeps.lit rfl rfl rfl rfl (by assumption) (by assumption) | apply State.twinSend_keeps

theorem State.healthCheck_keeps {wm : Bool} {s0 s : State} (hk : Keeps wm s0 s) : Keeps wm s0 (State.healthCheck s) := by
  unfold State.healthCheck
  repeat' with_reducible first
    | assumption
    | (extract_lets (onlyGivenNames := true) x; try (refine Keeps.cut (w := wm) (s0 := s0) (x := x) ?_ (fun hx => ?_); on_goal 1 => (unfold x; clear x)))
    | apply Keeps.ite | apply State.sendStatus_keeps

theorem State.solveSend_keeps {wm : Bool} {s0 s : State} (hk : Keeps wm s0 s) : Keeps wm s0 (State.solveSend s) := by
  unfold State.solveSend
  repeat' with_reducible first
    | assumption
    | (extract_lets (onlyGivenNames := true) x; try (refine Keeps.cut (w := wm) (s0 := s0) (x := x) ?_ (fun hx => ?_); on_goal 1 => (unfold x; clear x)))
    | refine Keeps.lit rfl rfl rfl rfl (by assumption) (by assumption) | apply Keeps.ite | apply State.emit_keeps

theorem State.twinUnsync_keeps {wm : Bool} {s0 s : State} (hk : Keeps wm s0 s) : Keeps wm s0 (State.twinUnsync s) := by
  unfold State.twinUnsync
  repeat' with_reducible first
    | assumption
    | (extract_lets (onlyGivenNames := true) x; try (refine Keeps.cut (w := wm) (s0 := s0) (x := x) ?_ (fun hx => ?_); on_goal 1 => (unfold x; clear x)))
    | refine Keeps.lit rfl rfl rfl rfl (by assumption) (by assumption) | apply State.wr_keeps

theorem State.hbCancel_keeps {wm : Bool} {s0 s : State} (hk : Keeps wm s0 s) : Keeps wm s0 (State.hbCancel s) := by
  unfold State.hbCancel
  repeat' with_reducible first
    | assumption
    | (extract_lets (onlyGivenNames := true) x; try (refine Keeps.cut (w := wm) (s0 := s0) (x := x) ?_ (fun hx => ?_); on_goal 1 => (unfold x; clear x)))
    | refine Keeps.lit rfl rfl rfl rfl (by assumption) (by assumption) | apply Keeps.ite | apply State.wr_keeps | apply State.modChan_keeps
    | apply State.clearPend_keeps | apply State.flag_keeps | (refine Keeps.forEach ?_ ?_; intro a x hx)

theorem State.showVorg_keeps {wm : Bool} {s0 s : State} (hk : Keeps wm s0 s) : Keeps wm s0 (State.showVorg s) := by
  unfold State.showVorg
  repeat' with_reducible first
    | assumption
    | (extract_lets (onlyGivenNames := true) x; try (refine Keeps.cut (w := wm) (s0 := s0) (x := x) ?_ (fun hx => ?_); on_goal 1 => (unfold x; clear x)))
    | apply State.wrU_keeps

theorem State.steerLost_keeps {wm : Bool} {s0 s : State} (hk : Keeps wm s0 s) : Keeps wm s0 (State.steerLost s) := by
  unfold State.steerLost
  repeat' with_reducible first
    | assumption
    | (extract_lets (onlyGivenNames := true) x; try (refine Keeps.cut (w := wm) (s0 := s0) (x := x) ?_ (fun hx => ?_); on_goal 1 => (unfold x; clear x)))
    | refine Keeps.lit rfl rfl rfl rfl (by assumption) (by assumption) | apply Keeps.ite | apply State.wr_keeps

theorem State.listenCh_keeps {wm : Bool} {s0 s : State} (ch : Nat) (hk : Keeps wm s0 s) : Keeps wm s0 (State.listenCh s ch) := by
  unfold State.listenCh
  repeat' with_reducible first
    | assumption
    | (extract_lets (onlyGivenNames := true) x; try (refine Keeps.cut (w := wm) (s0 := s0) (x := x) ?_ (fun hx => ?_); on_goal 1 => (unfold x; clear x)))
    | apply Keeps.ite | apply State.wr_keeps | apply State.wrB_keeps | apply State.steerLost_keeps | apply State.modChan_keeps

theorem State.listenRing_keeps {wm : Bool} {s0 s : State} (fresh : Bool) (hk : Keeps wm s0 s) : Keeps wm s0 (State.listenRing s fresh) := by
  unfold State.listenRing
  repeat' with_reducible first
    | assumption
    | (extract_lets (onlyGivenNames := true) x; try (refine Keeps.cut (w := wm) (s0 := s0) (x := x) ?_ (fun hx => ?_); on_goal 1 => (unfold x; clear x)))
    | refine Keeps.lit rfl rfl rfl rfl (by assumption) (by assumption) | apply Keeps.ite | apply State.listenCh_keeps | apply State.wrB_keeps
    | apply State.wrU_keeps | apply State.setCs_keeps | apply State.showVorg_keeps | (refine Keeps.forEach ?_ ?_; intro a x hx)

theorem State.leadCh_keeps {wm : Bool} {s0 s : State} (ch : Nat) (hk : Keeps wm s0 s) : Keeps wm s0 (State.leadCh s ch) := by
  unfold State.leadCh
  repeat' with_reducible first
    | assumption
    | (extract_lets (onlyGivenNames := true) x; try (refine Keeps.cut (w := wm) (s0 := s0) (x := x) ?_ (fun hx => ?_); on_goal 1 => (unfold x; clear x)))
    | apply State.wr_keeps | apply State.putApp_keeps | apply State.modChan_keeps

theorem State.roleTime_keeps {wm : Bool} {s0 s : State} (oldRole : Nat) (hk : Keeps wm s0 s) : Keeps wm s0 (State.roleTime s oldRole) := by
  unfold State.roleTime
  repeat' with_reducible first
    | assumption
    | (extract_lets (onlyGivenNames := true) x; try (refine Keeps.cut (w := wm) (s0 := s0) (x := x) ?_ (fun hx => ?_); on_goal 1 => (unfold x; clear x)))
    | apply Keeps.ite | apply State.wr_keeps | apply State.switchDomain_keeps

theorem State.modeChange_keeps {wm : Bool} {s0 s : State} (m : Nat) (takeover : Bool) (hk : Keeps wm s0 s) : Keeps wm s0 (State.modeChange s m takeover) := by
  unfold State.modeChange
  repeat' with_reducible first
    | assumption
    | (extract_lets (onlyGivenNames := true) x; try (refine Keeps.cut (w := wm) (s0 := s0) (x := x) ?_ (fun hx => ?_); on_goal 1 => (unfold x; clear x)))
    | refine Keeps.lit rfl rfl rfl rfl (by assumption) (by assumption) | apply Keeps.ite | apply State.takeTables_keeps | apply State.ballsLeave_keeps
    | apply State.enterMode_keeps | apply State.ballsTo_keeps | apply State.fbBegin_keeps | apply State.setCs_keeps | apply State.listenRing_keeps
    | apply State.leadCh_keeps | apply State.modChan_keeps | apply State.showVorg_keeps | apply State.twinUnsync_keeps | apply State.roleTime_keeps
    | apply State.putLane_keeps | apply State.pRateCheck_keeps | apply State.healthCheck_keeps | (refine Keeps.forEach ?_ ?_; intro a x hx)

theorem State.surrenderNow_keeps {wm : Bool} {s0 s : State} (items : Nat) (req : Bool) (hk : Keeps wm s0 s) : Keeps wm s0 (State.surrenderNow s items req) := by
  unfold State.surrenderNow
  repeat' with_reducible first
    | assumption
    | (extract_lets (onlyGivenNames := true) x; try (refine Keeps.cut (w := wm) (s0 := s0) (x := x) ?_ (fun hx => ?_); on_goal 1 => (unfold x; clear x)))
    | refine Keeps.lit rfl rfl rfl rfl (by assumption) (by assumption) | apply Keeps.ite | apply State.holdUndo_keeps | apply State.hbCancel_keeps
    | apply State.trigger_keeps | apply State.wr_keeps | apply State.wrB_keeps | apply State.bump_keeps | apply State.flag_keeps
    | apply State.setPend_keeps | apply State.healthCheck_keeps

theorem State.revertWrite_keeps {wm : Bool} {s0 s : State} (ch : Nat) (port : Nat) (hk : Keeps wm s0 s) : Keeps wm s0 (State.revertWrite s ch port) := by
  unfold State.revertWrite
  repeat' with_reducible first
    | assumption
    | (extract_lets (onlyGivenNames := true) x; try (refine Keeps.cut (w := wm) (s0 := s0) (x := x) ?_ (fun hx => ?_); on_goal 1 => (unfold x; clear x)))
    | apply Keeps.ite | apply State.wr_keeps | apply State.emit_keeps

theorem execRevertP0_keeps {wm : Bool} {s0 s : State} (dt : Nat) (src : Src) (ch : Nat) (hk : Keeps wm s0 s) : KeepsR wm s0 (execRevertP0 dt src ch s) := by
  unfold execRevertP0
  repeat' with_reducible first
    | assumption
    | (extract_lets (onlyGivenNames := true) x; try (refine Keeps.cut (w := wm) (s0 := s0) (x := x) ?_ (fun hx => ?_); on_goal 1 => (unfold x; clear x)))
    | apply KeepsR.needs | apply State.after_keeps | apply State.swWrite_keeps | apply State.revertWrite_keeps | (intro x hx)

theorem execRevertP1_keeps {wm : Bool} {s0 s : State} (dt : Nat) (src : Src) (ch : Nat) (hk : Keeps wm s0 s) : KeepsR wm s0 (execRevertP1 dt src ch s) := by
  unfold execRevertP1
  repeat' with_reducible first
    | assumption
    | (extract_lets (onlyGivenNames := true) x; try (refine Keeps.cut (w := wm) (s0 := s0) (x := x) ?_ (fun hx => ?_); on_goal 1 => (unfold x; clear x)))
    | apply KeepsR.needs | apply State.after_keeps | apply State.swWrite_keeps | apply State.revertWrite_keeps | (intro x hx)

theorem execDmNow_keeps {wm : Bool} {s0 s : State} (dt : Nat) (src : Src) (ch : Nat) (hk : Keeps wm s0 s) : KeepsR wm s0 (execDmNow dt src ch s) := by
  unfold execDmNow
  repeat' with_reducible first
    | assumption
    | (extract_lets (onlyGivenNames := true) x; try (refine Keeps.cut (w := wm) (s0 := s0) (x := x) ?_ (fun hx => ?_); on_goal 1 => (unfold x; clear x)))
    | apply KeepsR.needs | apply State.after_keeps | apply State.swWrite_keeps | apply State.wr_keeps | (intro x hx)

end Sys2Proof.Machine
end

