-- ==== Sys2Proof/Laws/KeepsCell.lean ====
section
/-! SUPPORT. Every operation of Machine/Cell.lean keeps the canonical form, the queue and the fuses. -/

set_option linter.unusedVariables false
set_option linter.tactic.unusedName false
set_option linter.unusedTactic false
set_option linter.unreachableTactic false

namespace Sys2Proof.Machine

theorem State.spCount_keeps {s0 s : State} (o : Nat) (n : Nat) (hk : Keeps true s0 s) : Keeps true s0 (State.spCount s o n) := by
  unfold State.spCount
  repeat' with_reducible first
    | assumption
    | (extract_lets (onlyGivenNames := true) x; try (refine Keeps.cut (w := true) (s0 := s0) (x := x) ?_ (fun hx => ?_); on_goal 1 => (unfold x; clear x)))
    | apply State.putMem32_keeps

theorem State.patchOne_keeps {s0 s : State} (j : Nat) (hk : Keeps true s0 s) : Keeps true s0 (State.patchOne s j) := by
  unfold State.patchOne
  repeat' with_reducible first
    | assumption
    | (extract_lets (onlyGivenNames := true) x; try (refine Keeps.cut (w := true) (s0 := s0) (x := x) ?_ (fun hx => ?_); on_goal 1 => (unfold x; clear x)))
    | apply Keeps.ite | apply State.spCount_keeps | apply State.putMem32_keeps

theorem State.applyPatch_keeps {s0 s : State} (hk : Keeps true s0 s) : Keeps true s0 (State.applyPatch s) := by
  unfold State.applyPatch
  repeat' with_reducible first
    | assumption
    | (extract_lets (onlyGivenNames := true) x; try (refine Keeps.cut (w := true) (s0 := s0) (x := x) ?_ (fun hx => ?_); on_goal 1 => (unfold x; clear x)))
    | apply Keeps.ite | apply State.patchOne_keeps | apply State.putMem32_keeps | (refine Keeps.forEach ?_ ?_; intro a x hx)

theorem State.deltaOne_keeps {s0 s : State} (i : Nat) (hk : Keeps true s0 s) : Keeps true s0 (State.deltaOne s i) := by
  unfold State.deltaOne
  repeat' with_reducible first
    | assumption
    | (extract_lets (onlyGivenNames := true) x; try (refine Keeps.cut (w := true) (s0 := s0) (x := x) ?_ (fun hx => ?_); on_goal 1 => (unfold x; clear x)))
    | apply Keeps.ite | apply State.spCount_keeps | apply State.putMem32_keeps

theorem State.applyDelta_keeps {s0 s : State} (hk : Keeps true s0 s) : Keeps true s0 (State.applyDelta s) := by
  unfold State.applyDelta
  repeat' with_reducible first
    | assumption
    | (extract_lets (onlyGivenNames := true) x; try (refine Keeps.cut (w := true) (s0 := s0) (x := x) ?_ (fun hx => ?_); on_goal 1 => (unfold x; clear x)))
    | apply State.deltaOne_keeps | apply State.putMem32_keeps | (refine Keeps.forEach ?_ ?_; intro a x hx)

theorem State.dqWrite_keeps {s0 s : State} (v : Nat) (hk : Keeps true s0 s) : Keeps true s0 (State.dqWrite s v) := by
  unfold State.dqWrite
  repeat' with_reducible first
    | assumption
    | (extract_lets (onlyGivenNames := true) x; try (refine Keeps.cut (w := true) (s0 := s0) (x := x) ?_ (fun hx => ?_); on_goal 1 => (unfold x; clear x)))
    | refine Keeps.lit rfl rfl rfl rfl (by assumption) (by assumption) | apply Keeps.ite | apply State.putMem32_keeps | apply State.spCount_keeps

theorem State.lookRun_keeps {wm : Bool} {s0 s : State} (c : Nat) (lat : Nat) (hk : Keeps wm s0 s) : Keeps wm s0 (State.lookRun s c lat) := by
  unfold State.lookRun
  repeat' with_reducible first
    | assumption
    | (extract_lets (onlyGivenNames := true) x; try (refine Keeps.cut (w := wm) (s0 := s0) (x := x) ?_ (fun hx => ?_); on_goal 1 => (unfold x; clear x)))
    | apply State.motAdvance_keeps | apply State.putQueue_keeps | apply State.endStrokes_keeps | (refine Keeps.forEach ?_ ?_; intro a x hx) | split

end Sys2Proof.Machine
end

