-- ==== Sys2Proof/Laws/KeepsSeparate.lean ====
section
/-! SUPPORT. Every operation of Machine/Separate.lean keeps the canonical form, the queue and the fuses. -/

set_option linter.unusedVariables false
set_option linter.tactic.unusedName false
set_option linter.unusedTactic false
set_option linter.unreachableTactic false

namespace Sys2Proof.Machine

theorem State.sepRun_keeps {wm : Bool} {s0 s : State} (fr : List (Nat × Frame × List Link)) (lat : Rat) (n : Nat) (hk : Keeps wm s0 s) :
    Keeps wm s0 (s.sepRun fr lat n).1.2.1 :=
  Keeps.trans hk ⟨fun c => ⟨c.1, c.2⟩, rfl, rfl, fun _ => rfl⟩

theorem State.sepTake_keeps {wm : Bool} {s0 s : State} (hk : Keeps wm s0 s) : Keeps wm s0 (State.sepTake s) := by
  unfold State.sepTake
  repeat' with_reducible first
    | assumption
    | (extract_lets (onlyGivenNames := true) x; try (refine Keeps.cut (w := wm) (s0 := s0) (x := x) ?_ (fun hx => ?_); on_goal 1 => (unfold x; clear x)))
    | refine Keeps.lit rfl rfl rfl rfl (by assumption) (by assumption) | apply Keeps.ite | apply State.bumpN_keeps | apply State.flag_keeps
    | (refine Keeps.forEach ?_ ?_; intro a x hx) | split

theorem State.sepShow_keeps {wm : Bool} {s0 s : State} (hk : Keeps wm s0 s) : Keeps wm s0 (State.sepShow s) := by
  unfold State.sepShow
  repeat' with_reducible first
    | assumption
    | (extract_lets (onlyGivenNames := true) x; try (refine Keeps.cut (w := wm) (s0 := s0) (x := x) ?_ (fun hx => ?_); on_goal 1 => (unfold x; clear x)))
    | apply Keeps.ite | apply State.wrB_keeps | apply State.wr_keeps | apply State.flag_keeps | (refine Keeps.forEach ?_ ?_; intro a x hx) | split

theorem execSeparationDelivery_keeps {wm : Bool} {s0 s : State} (dt : Nat) (hk : Keeps wm s0 s) : KeepsR wm s0 (execSeparationDelivery dt s) := by
  unfold execSeparationDelivery
  repeat' with_reducible first
    | assumption
    | (extract_lets (onlyGivenNames := true) x; try (refine Keeps.cut (w := wm) (s0 := s0) (x := x) ?_ (fun hx => ?_); on_goal 1 => (unfold x; clear x)))
    | refine Keeps.lit rfl rfl rfl rfl (by assumption) (by assumption) | apply Keeps.ite | apply KeepsR.next | apply State.after_keeps
    | apply State.wrU_keeps | apply State.wr_keeps | apply State.wrB_keeps | apply State.flag_keeps | apply State.bumpN_keeps
    | (refine Keeps.forEach ?_ ?_; intro a x hx) | split

end Sys2Proof.Machine
end

