-- ==== Sys2Proof/Laws/KeepsRuling.lean ====
section
/-! SUPPORT. Every operation of Machine/Ruling.lean keeps the canonical form, the queue and the fuses. -/

set_option linter.unusedVariables false
set_option linter.tactic.unusedName false
set_option linter.unusedTactic false
set_option linter.unreachableTactic false

namespace Sys2Proof.Machine

theorem State.showTile_keeps {wm : Bool} {s0 s : State} (q : Nat) (hk : Keeps wm s0 s) : Keeps wm s0 (State.showTile s q) := by
  unfold State.showTile
  repeat' with_reducible first
    | assumption
    | (extract_lets (onlyGivenNames := true) x; try (refine Keeps.cut (w := wm) (s0 := s0) (x := x) ?_ (fun hx => ?_); on_goal 1 => (unfold x; clear x)))
    | apply Keeps.ite | apply State.flag_keeps | apply State.wr_keeps | split

theorem State.tilesTake_keeps {wm : Bool} {s0 s : State} (hk : Keeps wm s0 s) : Keeps wm s0 (State.tilesTake s) := by
  unfold State.tilesTake
  repeat' with_reducible first
    | assumption
    | (extract_lets (onlyGivenNames := true) x; try (refine Keeps.cut (w := wm) (s0 := s0) (x := x) ?_ (fun hx => ?_); on_goal 1 => (unfold x; clear x)))
    | refine Keeps.lit rfl rfl rfl rfl (by assumption) (by assumption) | apply State.bringIn_keeps | apply State.wr_keeps | apply State.showTile_keeps
    | (refine Keeps.forEach ?_ ?_; intro a x hx) | split

theorem State.solverSample_keeps {s0 s : State} (k : Nat) (hk : Keeps true s0 s) : Keeps true s0 (State.solverSample s k) := by
  unfold State.solverSample
  repeat' with_reducible first
    | assumption
    | (extract_lets (onlyGivenNames := true) x; try (refine Keeps.cut (w := true) (s0 := s0) (x := x) ?_ (fun hx => ?_); on_goal 1 => (unfold x; clear x)))
    | refine Keeps.lit rfl rfl rfl rfl (by assumption) (by assumption) | apply Keeps.ite | apply State.applyDelta_keeps | apply State.tilesTake_keeps
    | apply State.sepTake_keeps | apply State.sepShow_keeps | apply State.sepRun_keeps | apply State.wr_keeps | apply State.wrB_keeps
    | apply State.bump_keeps | apply State.putMem32_keeps | apply State.putBytes_keeps | apply State.spCount_keeps

theorem execSolveComplete_keeps {wm : Bool} {s0 s : State} (dt : Nat) (asmEnd : Nat) (factEnd : Nat) (hk : Keeps wm s0 s) : KeepsR wm s0 (execSolveComplete dt asmEnd factEnd s) := by
  unfold execSolveComplete
  repeat' with_reducible first
    | assumption
    | (extract_lets (onlyGivenNames := true) x; try (refine Keeps.cut (w := wm) (s0 := s0) (x := x) ?_ (fun hx => ?_); on_goal 1 => (unfold x; clear x)))
    | refine Keeps.lit rfl rfl rfl rfl (by assumption) (by assumption) | apply Keeps.ite | apply KeepsR.needs | apply State.after_keeps
    | apply State.wr_keeps | apply State.wrB_keeps | apply State.flag_keeps | apply State.bump_keeps | apply State.raiseInt_keeps
    | apply State.bumpN_keeps | apply State.wrS_keeps | apply State.wrU_keeps | apply State.solveSend_keeps | apply State.slackReport_keeps | split

theorem State.putSigma_keeps {wm : Bool} {s0 s : State} (sg : List (Nat × Nat)) (hk : Keeps wm s0 s) : Keeps wm s0 (State.putSigma s sg) := by
  unfold State.putSigma
  repeat' with_reducible first
    | assumption
    | (extract_lets (onlyGivenNames := true) x; try (refine Keeps.cut (w := wm) (s0 := s0) (x := x) ?_ (fun hx => ?_); on_goal 1 => (unfold x; clear x)))
    | refine Keeps.lit rfl rfl rfl rfl (by assumption) (by assumption) | apply Keeps.ite | apply State.wr_keeps | apply State.showAux_keeps
    | (refine Keeps.forEach ?_ ?_; intro a x hx)

theorem State.releaseGood_keeps {wm : Bool} {s0 s : State} (p : Problem) (x : List Int) (hk : Keeps wm s0 s) : Keeps wm s0 (State.releaseGood s p x) := by
  unfold State.releaseGood
  repeat' with_reducible first
    | assumption
    | (extract_lets (onlyGivenNames := true) x; try (refine Keeps.cut (w := wm) (s0 := s0) (x := x) ?_ (fun hx => ?_); on_goal 1 => (unfold x; clear x)))
    | refine Keeps.lit rfl rfl rfl rfl (by assumption) (by assumption) | apply State.wr_keeps | apply State.putSigma_keeps

theorem State.releaseBad_keeps {wm : Bool} {s0 s : State} (p : Problem) (hk : Keeps wm s0 s) : Keeps wm s0 (State.releaseBad s p) := by
  unfold State.releaseBad
  repeat' with_reducible first
    | assumption
    | (extract_lets (onlyGivenNames := true) x; try (refine Keeps.cut (w := wm) (s0 := s0) (x := x) ?_ (fun hx => ?_); on_goal 1 => (unfold x; clear x)))
    | refine Keeps.lit rfl rfl rfl rfl (by assumption) (by assumption) | apply Keeps.ite | apply State.wr_keeps | apply State.flag_keeps
    | apply State.journal_keeps | apply State.holdCause_keeps | apply State.putSigma_keeps

theorem execSolutionRelease_keeps {wm : Bool} {s0 s : State} (hk : Keeps wm s0 s) : KeepsR wm s0 (execSolutionRelease s) := by
  unfold execSolutionRelease
  repeat' with_reducible first
    | assumption
    | (extract_lets (onlyGivenNames := true) x; try (refine Keeps.cut (w := wm) (s0 := s0) (x := x) ?_ (fun hx => ?_); on_goal 1 => (unfold x; clear x)))
    | refine Keeps.lit rfl rfl rfl rfl (by first | assumption | (refine KeepsO.get (by assumption) ?_; apply State.reach_keeps; assumption)) (by first | assumption | (refine KeepsO.get (by assumption) ?_; apply State.reach_keeps; assumption))
    | apply Keeps.ite | apply KeepsR.next | apply State.journal_keeps | apply State.inkEvent_keeps | apply State.releaseBad_keeps
    | apply State.releaseGood_keeps | apply State.wr_keeps | apply State.flag_keeps | apply State.wrB_keeps | apply State.bumpN_keeps
    | apply State.bump_keeps | apply State.raiseInt_keeps | apply State.slackReport_keeps | split | (clear_value *; split)

theorem State.tileErr_keeps {wm : Bool} {s0 s : State} (q : Nat) (tile : Nat) (hk : Keeps wm s0 s) : Keeps wm s0 (State.tileErr s q tile) := by
  unfold State.tileErr
  repeat' with_reducible first
    | assumption
    | (extract_lets (onlyGivenNames := true) x; try (refine Keeps.cut (w := wm) (s0 := s0) (x := x) ?_ (fun hx => ?_); on_goal 1 => (unfold x; clear x)))
    | refine Keeps.lit rfl rfl rfl rfl (by assumption) (by assumption) | apply Keeps.ite | apply State.bump_keeps | apply State.unitFails_keeps
    | apply State.showTile_keeps | split | (clear_value *; split)

theorem execTileError_keeps {wm : Bool} {s0 s : State} (dt : Nat) (q : Nat) (tile : Nat) (hk : Keeps wm s0 s) : KeepsR wm s0 (execTileError dt q tile s) := by
  unfold execTileError
  repeat' with_reducible first
    | assumption
    | (extract_lets (onlyGivenNames := true) x; try (refine Keeps.cut (w := wm) (s0 := s0) (x := x) ?_ (fun hx => ?_); on_goal 1 => (unfold x; clear x)))
    | apply KeepsR.needs | apply State.after_keeps | apply State.tileErr_keeps

theorem State.rulCommitted_keeps {s0 s : State} (hk : Keeps true s0 s) : Keeps true s0 (State.rulCommitted s) := by
  unfold State.rulCommitted
  repeat' with_reducible first
    | assumption | apply State.applyPatch_keeps

end Sys2Proof.Machine
end

