-- ==== Sys2Proof/Laws/KeepsMargin.lean ====
section
/-! SUPPORT. Every operation of Machine/Margin.lean keeps the canonical form, the queue and the fuses. -/

set_option linter.unusedVariables false
set_option linter.tactic.unusedName false
set_option linter.unusedTactic false
set_option linter.unreachableTactic false

namespace Sys2Proof.Machine

theorem State.putSin_keeps {wm : Bool} {s0 s : State} (i : Nat) (x : SafeIn) (hk : Keeps wm s0 s) : Keeps wm s0 (State.putSin s i x) := by
  unfold State.putSin
  repeat' with_reducible first
    | (extract_lets (onlyGivenNames := true) x; try (refine Keeps.cut (w := wm) (s0 := s0) (x := x) ?_ (fun hx => ?_); on_goal 1 => (unfold x; clear x)))
    | refine Keeps.lit rfl rfl rfl rfl (by assumption) (by assumption)

theorem State.putSout_keeps {wm : Bool} {s0 s : State} (j : Nat) (x : SafeOut) (hk : Keeps wm s0 s) : Keeps wm s0 (State.putSout s j x) := by
  unfold State.putSout
  repeat' with_reducible first
    | (extract_lets (onlyGivenNames := true) x; try (refine Keeps.cut (w := wm) (s0 := s0) (x := x) ?_ (fun hx => ?_); on_goal 1 => (unfold x; clear x)))
    | refine Keeps.lit rfl rfl rfl rfl (by assumption) (by assumption)

theorem State.mgnCause_keeps {wm : Bool} {s0 s : State} (b : Nat) (on : Bool) (hk : Keeps wm s0 s) : Keeps wm s0 (State.mgnCause s b on) := by
  unfold State.mgnCause
  repeat' with_reducible first
    | (extract_lets (onlyGivenNames := true) x; try (refine Keeps.cut (w := wm) (s0 := s0) (x := x) ?_ (fun hx => ?_); on_goal 1 => (unfold x; clear x)))
    | refine Keeps.lit rfl rfl rfl rfl (by assumption) (by assumption)

theorem State.mgnTake_keeps {wm : Bool} {s0 s : State} (hk : Keeps wm s0 s) : Keeps wm s0 (State.mgnTake s) := by
  unfold State.mgnTake
  repeat' with_reducible first
    | assumption
    | (extract_lets (onlyGivenNames := true) x; try (refine Keeps.cut (w := wm) (s0 := s0) (x := x) ?_ (fun hx => ?_); on_goal 1 => (unfold x; clear x)))
    | refine Keeps.lit rfl rfl rfl rfl (by assumption) (by assumption) | apply Keeps.ite | apply State.flag_keeps
    | (refine Keeps.forEach ?_ ?_; intro a x hx) | split

theorem State.mgnSample_keeps {wm : Bool} {s0 s : State} (k : Nat) (hk : Keeps wm s0 s) : Keeps wm s0 (State.mgnSample s k) := by
  unfold State.mgnSample
  repeat' with_reducible first
    | assumption
    | (extract_lets (onlyGivenNames := true) x; try (refine Keeps.cut (w := wm) (s0 := s0) (x := x) ?_ (fun hx => ?_); on_goal 1 => (unfold x; clear x)))
    | refine Keeps.lit rfl rfl rfl rfl (by assumption) (by assumption) | apply Keeps.ite | apply State.tmrUse_keeps | apply State.mgnTake_keeps
    | apply State.wr_keeps | apply State.mgnCause_keeps | apply State.flag_keeps

theorem execMarginComplete_keeps {wm : Bool} {s0 s : State} (dt : Nat) (hk : Keeps wm s0 s) : KeepsR wm s0 (execMarginComplete dt s) := by
  unfold execMarginComplete
  repeat' with_reducible first
    | assumption
    | (extract_lets (onlyGivenNames := true) x; try (refine Keeps.cut (w := wm) (s0 := s0) (x := x) ?_ (fun hx => ?_); on_goal 1 => (unfold x; clear x)))
    | refine Keeps.lit rfl rfl rfl rfl (by assumption) (by assumption) | apply Keeps.ite | apply KeepsR.next | apply State.after_keeps
    | apply State.wrU_keeps | split

theorem State.stopAxes_keeps {wm : Bool} {s0 s : State} (hk : Keeps wm s0 s) : Keeps wm s0 (State.stopAxes s) := by
  unfold State.stopAxes
  repeat' with_reducible first
    | assumption
    | (extract_lets (onlyGivenNames := true) x; try (refine Keeps.cut (w := wm) (s0 := s0) (x := x) ?_ (fun hx => ?_); on_goal 1 => (unfold x; clear x)))
    | apply Keeps.ite | apply State.demandHalt_keeps | (refine Keeps.forEach ?_ ?_; intro a x hx)

theorem State.rearmUndo_keeps {wm : Bool} {s0 s : State} (hk : Keeps wm s0 s) : Keeps wm s0 (State.rearmUndo s) := by
  unfold State.rearmUndo
  repeat' with_reducible first
    | assumption
    | (extract_lets (onlyGivenNames := true) x; try (refine Keeps.cut (w := wm) (s0 := s0) (x := x) ?_ (fun hx => ?_); on_goal 1 => (unfold x; clear x)))
    | refine Keeps.lit rfl rfl rfl rfl (by assumption) (by assumption) | apply Keeps.ite | apply State.flag_keeps | apply State.wr_keeps
    | (refine Keeps.forEach ?_ ?_; intro a x hx) | split

theorem State.demandMode_keeps {wm : Bool} {s0 s : State} (hk : Keeps wm s0 s) : Keeps wm s0 (State.demandMode s) := by
  unfold State.demandMode
  repeat' with_reducible first
    | assumption
    | (extract_lets (onlyGivenNames := true) x; try (refine Keeps.cut (w := wm) (s0 := s0) (x := x) ?_ (fun hx => ?_); on_goal 1 => (unfold x; clear x)))
    | refine Keeps.lit rfl rfl rfl rfl (by assumption) (by assumption) | apply Keeps.ite | apply State.holdCause_keeps

theorem State.demandStop_keeps {wm : Bool} {s0 s : State} (cat : Nat) (force : Bool) (hk : Keeps wm s0 s) : Keeps wm s0 (State.demandStop s cat force) := by
  unfold State.demandStop
  repeat' with_reducible first
    | assumption
    | (extract_lets (onlyGivenNames := true) x; try (refine Keeps.cut (w := wm) (s0 := s0) (x := x) ?_ (fun hx => ?_); on_goal 1 => (unfold x; clear x)))
    | refine Keeps.lit rfl rfl rfl rfl (by assumption) (by assumption) | apply Keeps.ite | apply State.rearmUndo_keeps | apply State.flag_keeps
    | apply State.setSout_keeps | apply State.wr_keeps | apply State.putSout_keeps | apply State.stopAxes_keeps | apply State.demandMode_keeps
    | (refine Keeps.forEach ?_ ?_; intro a x hx)

theorem State.driveSouts_keeps {wm : Bool} {s0 s : State} (hk : Keeps wm s0 s) : Keeps wm s0 (State.driveSouts s) := by
  unfold State.driveSouts
  repeat' with_reducible first
    | assumption
    | (extract_lets (onlyGivenNames := true) x; try (refine Keeps.cut (w := wm) (s0 := s0) (x := x) ?_ (fun hx => ?_); on_goal 1 => (unfold x; clear x)))
    | apply Keeps.ite | apply State.setSout_keeps | (refine Keeps.forEach ?_ ?_; intro a x hx)

theorem State.rearm_keeps {wm : Bool} {s0 s : State} (hk : Keeps wm s0 s) : Keeps wm s0 (State.rearm s) := by
  unfold State.rearm
  repeat' with_reducible first
    | assumption
    | (extract_lets (onlyGivenNames := true) x; try (refine Keeps.cut (w := wm) (s0 := s0) (x := x) ?_ (fun hx => ?_); on_goal 1 => (unfold x; clear x)))
    | refine Keeps.lit rfl rfl rfl rfl (by assumption) (by assumption) | apply Keeps.ite | apply State.wr_keeps | apply State.driveSouts_keeps

theorem State.setDecision_keeps {wm : Bool} {s0 s : State} (d : Nat) (hk : Keeps wm s0 s) : Keeps wm s0 (State.setDecision s d) := by
  unfold State.setDecision
  repeat' with_reducible first
    | assumption
    | (extract_lets (onlyGivenNames := true) x; try (refine Keeps.cut (w := wm) (s0 := s0) (x := x) ?_ (fun hx => ?_); on_goal 1 => (unfold x; clear x)))
    | apply Keeps.ite | apply State.wr_keeps | apply State.raiseInt_keeps

theorem State.decide__keeps {wm : Bool} {s0 s : State} (r : MgnRun) (hk : Keeps wm s0 s) : Keeps wm s0 (State.decide_ s r) := by
  unfold State.decide_
  repeat' with_reducible first
    | assumption
    | (extract_lets (onlyGivenNames := true) x; try (refine Keeps.cut (w := wm) (s0 := s0) (x := x) ?_ (fun hx => ?_); on_goal 1 => (unfold x; clear x)))
    | refine Keeps.lit rfl rfl rfl rfl (by assumption) (by assumption) | apply Keeps.ite | apply State.mgnCause_keeps | apply State.flag_keeps
    | apply State.wr_keeps | apply State.unitError_keeps | apply State.journal_keeps | apply State.setDecision_keeps | apply State.inkEvent_keeps
    | apply State.bump_keeps | apply State.demandStop_keeps | apply State.rearm_keeps | apply State.driveSouts_keeps | split

theorem execMarginDecision_keeps {wm : Bool} {s0 s : State} (hk : Keeps wm s0 s) : KeepsR wm s0 (execMarginDecision s) := by
  unfold execMarginDecision
  repeat' with_reducible first
    | assumption
    | (extract_lets (onlyGivenNames := true) x; try (refine Keeps.cut (w := wm) (s0 := s0) (x := x) ?_ (fun hx => ?_); on_goal 1 => (unfold x; clear x)))
    | refine Keeps.lit rfl rfl rfl rfl (by first | assumption | (refine KeepsO.get (by assumption) ?_; apply State.reach_keeps; assumption)) (by first | assumption | (refine KeepsO.get (by assumption) ?_; apply State.reach_keeps; assumption))
    | apply Keeps.ite | apply KeepsR.next | apply State.tmrUse_keeps | apply State.decide__keeps | split

theorem execStop1DelayEnd_keeps {wm : Bool} {s0 s : State} (j : Nat) (hk : Keeps wm s0 s) : KeepsR wm s0 (execStop1DelayEnd j s) := by
  unfold execStop1DelayEnd
  repeat' with_reducible first
    | assumption
    | (extract_lets (onlyGivenNames := true) x; try (refine Keeps.cut (w := wm) (s0 := s0) (x := x) ?_ (fun hx => ?_); on_goal 1 => (unfold x; clear x)))
    | apply KeepsR.needs | apply State.runRim_keeps | apply State.setSout_keeps | split

theorem State.ackWrite_keeps {wm : Bool} {s0 s : State} (value : Nat) (hk : Keeps wm s0 s) : Keeps wm s0 (State.ackWrite s value) := by
  unfold State.ackWrite
  repeat' with_reducible first
    | assumption
    | (extract_lets (onlyGivenNames := true) x; try (refine Keeps.cut (w := wm) (s0 := s0) (x := x) ?_ (fun hx => ?_); on_goal 1 => (unfold x; clear x)))
    | refine Keeps.lit rfl rfl rfl rfl (by assumption) (by assumption) | apply Keeps.ite | apply State.tmrUse_keeps | apply State.rearm_keeps

theorem execMgnAck_keeps {wm : Bool} {s0 s : State} (dt : Nat) (src : Src) (value : Nat) (hk : Keeps wm s0 s) : KeepsR wm s0 (execMgnAck dt src value s) := by
  unfold execMgnAck
  repeat' with_reducible first
    | assumption
    | (extract_lets (onlyGivenNames := true) x; try (refine Keeps.cut (w := wm) (s0 := s0) (x := x) ?_ (fun hx => ?_); on_goal 1 => (unfold x; clear x)))
    | apply KeepsR.needs | apply State.after_keeps | apply State.swWrite_keeps | apply State.keyed_keeps | apply State.ackWrite_keeps | (intro x hx)

theorem execSoutTestPulse_keeps {wm : Bool} {s0 s : State} (dt : Nat) (j : Nat) (ch : Nat) (hk : Keeps wm s0 s) : KeepsR wm s0 (execSoutTestPulse dt j ch s) := by
  unfold execSoutTestPulse
  repeat' with_reducible first
    | assumption
    | (extract_lets (onlyGivenNames := true) x; try (refine Keeps.cut (w := wm) (s0 := s0) (x := x) ?_ (fun hx => ?_); on_goal 1 => (unfold x; clear x)))
    | apply Keeps.ite | apply KeepsR.needs | apply State.after_keeps | apply State.putSout_keeps | apply State.emit_keeps

theorem execSoutReadbackCheck_keeps {wm : Bool} {s0 s : State} (dt : Nat) (j : Nat) (rda : Bool) (rdb : Bool) (hk : Keeps wm s0 s) : KeepsR wm s0 (execSoutReadbackCheck dt j rda rdb s) := by
  unfold execSoutReadbackCheck
  repeat' with_reducible first
    | assumption
    | (extract_lets (onlyGivenNames := true) x; try (refine Keeps.cut (w := wm) (s0 := s0) (x := x) ?_ (fun hx => ?_); on_goal 1 => (unfold x; clear x)))
    | apply Keeps.ite | apply KeepsR.needs | apply State.after_keeps | apply State.wrB_keeps | apply State.putSout_keeps | apply State.mgnCause_keeps
    | apply State.flag_keeps

theorem State.sinShow_keeps {wm : Bool} {s0 s : State} (i : Nat) (hk : Keeps wm s0 s) : Keeps wm s0 (State.sinShow s i) := by
  unfold State.sinShow
  repeat' with_reducible first
    | assumption
    | (extract_lets (onlyGivenNames := true) x; try (refine Keeps.cut (w := wm) (s0 := s0) (x := x) ?_ (fun hx => ?_); on_goal 1 => (unfold x; clear x)))
    | apply State.wrB_keeps | apply State.putSin_keeps

theorem State.sinShowAll_keeps {wm : Bool} {s0 s : State} (hk : Keeps wm s0 s) : Keeps wm s0 (State.sinShowAll s) := by
  unfold State.sinShowAll
  repeat' with_reducible first
    | assumption
    | (extract_lets (onlyGivenNames := true) x; try (refine Keeps.cut (w := wm) (s0 := s0) (x := x) ?_ (fun hx => ?_); on_goal 1 => (unfold x; clear x)))
    | apply State.sinShow_keeps | (refine Keeps.forEach ?_ ?_; intro a x hx)

theorem State.sinTake_keeps {wm : Bool} {s0 s : State} (i : Nat) (a : Bool) (b : Bool) (hk : Keeps wm s0 s) : Keeps wm s0 (State.sinTake s i a b) := by
  unfold State.sinTake
  repeat' with_reducible first
    | assumption
    | (extract_lets (onlyGivenNames := true) x; try (refine Keeps.cut (w := wm) (s0 := s0) (x := x) ?_ (fun hx => ?_); on_goal 1 => (unfold x; clear x)))
    | apply State.wrB_keeps | apply State.putSin_keeps

theorem State.sinResets_keeps {wm : Bool} {s0 s : State} (before : State) (h_before : Keeps wm s0 before) (hk : Keeps wm s0 s) : Keeps wm s0 (State.sinResets s before) := by
  unfold State.sinResets
  repeat' with_reducible first
    | assumption
    | (extract_lets (onlyGivenNames := true) x; try (refine Keeps.cut (w := wm) (s0 := s0) (x := x) ?_ (fun hx => ?_); on_goal 1 => (unfold x; clear x)))
    | apply Keeps.ite | apply State.rearm_keeps

theorem State.discCause_keeps {wm : Bool} {s0 s : State} (hk : Keeps wm s0 s) : Keeps wm s0 (State.discCause s) := by
  unfold State.discCause
  repeat' with_reducible first
    | assumption | apply State.mgnCause_keeps

theorem State.sinBoundary_keeps {wm : Bool} {s0 s : State} (w : Nat) (hk : Keeps wm s0 s) : Keeps wm s0 (State.sinBoundary s w) := by
  unfold State.sinBoundary
  repeat' with_reducible first
    | assumption
    | (extract_lets (onlyGivenNames := true) x; try (refine Keeps.cut (w := wm) (s0 := s0) (x := x) ?_ (fun hx => ?_); on_goal 1 => (unfold x; clear x)))
    | apply Keeps.ite | apply State.tmrUse_keeps | apply State.sinTake_keeps | apply State.sinShowAll_keeps | apply State.discCause_keeps
    | apply State.sinResets_keeps | (refine Keeps.forEach ?_ ?_; intro a x hx)

theorem execSinDiscrepancy_keeps {wm : Bool} {s0 s : State} (dt : Nat) (i : Nat) (hk : Keeps wm s0 s) : KeepsR wm s0 (execSinDiscrepancy dt i s) := by
  unfold execSinDiscrepancy
  repeat' with_reducible first
    | assumption
    | (extract_lets (onlyGivenNames := true) x; try (refine Keeps.cut (w := wm) (s0 := s0) (x := x) ?_ (fun hx => ?_); on_goal 1 => (unfold x; clear x)))
    | apply Keeps.ite | apply KeepsR.needs | apply State.after_keeps | apply State.putSin_keeps | apply State.sinShowAll_keeps
    | apply State.discCause_keeps | apply State.flag_keeps | split

theorem execSinDemand_keeps {wm : Bool} {s0 s : State} (i : Nat) (hk : Keeps wm s0 s) : KeepsR wm s0 (execSinDemand i s) := by
  unfold execSinDemand
  repeat' with_reducible first
    | assumption
    | (extract_lets (onlyGivenNames := true) x; try (refine Keeps.cut (w := wm) (s0 := s0) (x := x) ?_ (fun hx => ?_); on_goal 1 => (unfold x; clear x)))
    | refine Keeps.lit rfl rfl rfl rfl (by first | assumption | (refine KeepsO.get (by assumption) ?_; apply State.reach_keeps; assumption)) (by first | assumption | (refine KeepsO.get (by assumption) ?_; apply State.reach_keeps; assumption))
    | apply Keeps.ite | apply KeepsR.needs | apply State.putSin_keeps | apply State.demandStop_keeps | split

end Sys2Proof.Machine
end

