-- ==== Sys2Proof/Laws/KeepsRingNode.lean ====
section
/-! SUPPORT. Every operation of Machine/RingNode.lean keeps the canonical form, the queue and the fuses. -/

set_option linter.unusedVariables false
set_option linter.tactic.unusedName false
set_option linter.unusedTactic false
set_option linter.unreachableTactic false

namespace Sys2Proof.Machine

theorem State.laneMoved_keeps {s0 s : State} (ch : Nat) (port : Nat) (spare : Bool) (hk : Keeps true s0 s) : Keeps true s0 (State.laneMoved s ch port spare) := by
  unfold State.laneMoved
  repeat' with_reducible first
    | assumption
    | (extract_lets (onlyGivenNames := true) x; try (refine Keeps.cut (w := true) (s0 := s0) (x := x) ?_ (fun hx => ?_); on_goal 1 => (unfold x; clear x)))
    | apply State.setSpare_keeps | apply State.modChan_keeps

theorem State.laneSwitched_keeps {s0 s : State} (ch : Nat) (port : Nat) (hk : Keeps true s0 s) : Keeps true s0 (State.laneSwitched s ch port) := by
  unfold State.laneSwitched
  repeat' with_reducible first
    | assumption
    | (extract_lets (onlyGivenNames := true) x; try (refine Keeps.cut (w := true) (s0 := s0) (x := x) ?_ (fun hx => ?_); on_goal 1 => (unfold x; clear x)))
    | apply State.modChan_keeps | apply State.laneMoved_keeps | apply State.flag_keeps | apply State.bump_keeps | apply State.journal_keeps

theorem State.portHeard_keeps {s0 s : State} (ch : Nat) (port : Nat) (hk : Keeps true s0 s) : Keeps true s0 (State.portHeard s ch port) := by
  unfold State.portHeard
  repeat' with_reducible first
    | assumption
    | (extract_lets (onlyGivenNames := true) x; try (refine Keeps.cut (w := true) (s0 := s0) (x := x) ?_ (fun hx => ?_); on_goal 1 => (unfold x; clear x)))
    | apply Keeps.ite | apply State.wr_keeps | apply State.laneMoved_keeps | apply State.laneSwitched_keeps

theorem State.ringHeard_keeps {wm : Bool} {s0 s : State} (ch : Nat) (hk : Keeps wm s0 s) : Keeps wm s0 (State.ringHeard s ch) := by
  unfold State.ringHeard
  repeat' with_reducible first
    | assumption
    | (extract_lets (onlyGivenNames := true) x; try (refine Keeps.cut (w := wm) (s0 := s0) (x := x) ?_ (fun hx => ?_); on_goal 1 => (unfold x; clear x)))
    | refine Keeps.lit rfl rfl rfl rfl (by assumption) (by assumption) | apply State.modChan_keeps

theorem State.crcErr_keeps {wm : Bool} {s0 s : State} (ch : Nat) (port : Nat) (hk : Keeps wm s0 s) : Keeps wm s0 (State.crcErr s ch port) := by
  unfold State.crcErr
  repeat' with_reducible first
    | assumption
    | (extract_lets (onlyGivenNames := true) x; try (refine Keeps.cut (w := wm) (s0 := s0) (x := x) ?_ (fun hx => ?_); on_goal 1 => (unfold x; clear x)))
    | apply State.bump_keeps | apply State.modChan_keeps

theorem State.schedCheck_keeps {wm : Bool} {s0 s : State} (ch : Nat) (h : Hdr) (hk : Keeps wm s0 s) : Keeps wm s0 (State.schedCheck s ch h) := by
  unfold State.schedCheck
  repeat' with_reducible first
    | assumption
    | (extract_lets (onlyGivenNames := true) x; try (refine Keeps.cut (w := wm) (s0 := s0) (x := x) ?_ (fun hx => ?_); on_goal 1 => (unfold x; clear x)))
    | apply Keeps.ite | apply State.wrB_keeps | apply State.flag_keeps

theorem State.ringSample_keeps {wm : Bool} {s0 s : State} (ch : Nat) (ae : Rat) (hk : Keeps wm s0 s) : Keeps wm s0 (State.ringSample s ch ae) := by
  unfold State.ringSample
  repeat' with_reducible first
    | assumption
    | (extract_lets (onlyGivenNames := true) x; try (refine Keeps.cut (w := wm) (s0 := s0) (x := x) ?_ (fun hx => ?_); on_goal 1 => (unfold x; clear x)))
    | apply Keeps.ite | apply State.servo_keeps | apply State.wr_keeps | apply State.pRateCheck_keeps

theorem State.showArr_keeps {wm : Bool} {s0 s : State} (ch : Nat) (ae : Rat) (hk : Keeps wm s0 s) : Keeps wm s0 (State.showArr s ch ae) := by
  unfold State.showArr
  repeat' with_reducible first
    | assumption | apply State.wrS_keeps

theorem State.cycTake_keeps {wm : Bool} {s0 s : State} (ch : Nat) (h : Hdr) (hk : Keeps wm s0 s) : Keeps wm s0 (State.cycTake s ch h) := by
  unfold State.cycTake
  repeat' with_reducible first
    | assumption
    | (extract_lets (onlyGivenNames := true) x; try (refine Keeps.cut (w := wm) (s0 := s0) (x := x) ?_ (fun hx => ?_); on_goal 1 => (unfold x; clear x)))
    | refine Keeps.lit rfl rfl rfl rfl (by assumption) (by assumption) | apply Keeps.ite | apply State.wr_keeps | apply State.modChan_keeps

theorem State.ringStep_keeps {wm : Bool} {s0 s : State} (ch : Nat) (arr : Nat) (h : Hdr) (hk : Keeps wm s0 s) : Keeps wm s0 (State.ringStep s ch arr h) := by
  unfold State.ringStep
  repeat' with_reducible first
    | assumption
    | (extract_lets (onlyGivenNames := true) x; try (refine Keeps.cut (w := wm) (s0 := s0) (x := x) ?_ (fun hx => ?_); on_goal 1 => (unfold x; clear x)))
    | refine Keeps.lit rfl rfl rfl rfl (by assumption) (by assumption) | apply Keeps.ite | apply State.stepF_keeps | apply State.setLattice_keeps

theorem State.intFirst_keeps {wm : Bool} {s0 s : State} (ch : Nat) (arr : Nat) (h : Hdr) (hk : Keeps wm s0 s) : Keeps wm s0 (State.intFirst s ch arr h) := by
  unfold State.intFirst
  repeat' with_reducible first
    | assumption
    | (extract_lets (onlyGivenNames := true) x; try (refine Keeps.cut (w := wm) (s0 := s0) (x := x) ?_ (fun hx => ?_); on_goal 1 => (unfold x; clear x)))
    | refine Keeps.lit rfl rfl rfl rfl (by assumption) (by assumption) | apply Keeps.ite | apply State.wr_keeps | apply State.ringStep_keeps
    | apply State.cycTake_keeps | apply State.modChan_keeps

theorem State.integrate_keeps {wm : Bool} {s0 s : State} (ch : Nat) (arr : Nat) (h : Hdr) (hk : Keeps wm s0 s) : Keeps wm s0 (State.integrate s ch arr h) := by
  unfold State.integrate
  repeat' with_reducible first
    | assumption
    | (extract_lets (onlyGivenNames := true) x; try (refine Keeps.cut (w := wm) (s0 := s0) (x := x) ?_ (fun hx => ?_); on_goal 1 => (unfold x; clear x)))
    | apply Keeps.ite | apply State.intFirst_keeps | apply State.wr_keeps | apply State.cycTake_keeps | apply State.showArr_keeps
    | apply State.ringSample_keeps | apply State.modChan_keeps | apply State.bump_keeps

theorem State.complete_keeps {wm : Bool} {s0 s : State} (ch : Nat) (cyc : Nat) (arr : Nat) (r : RBuf) (hk : Keeps wm s0 s) : Keeps wm s0 (State.complete s ch cyc arr r) := by
  unfold State.complete
  repeat' with_reducible first
    | assumption
    | (extract_lets (onlyGivenNames := true) x; try (refine Keeps.cut (w := wm) (s0 := s0) (x := x) ?_ (fun hx => ?_); on_goal 1 => (unfold x; clear x)))
    | apply State.putApp_keeps | apply State.wr_keeps | apply State.irqSel_keeps | apply State.limRing_keeps

theorem State.cross_keeps {wm : Bool} {s0 s : State} (ch : Nat) (l : List (Nat × List Nat)) (hk : Keeps wm s0 s) : Keeps wm s0 (State.cross s ch l) := by
  unfold State.cross
  repeat' with_reducible first
    | assumption
    | (extract_lets (onlyGivenNames := true) x; try (refine Keeps.cut (w := wm) (s0 := s0) (x := x) ?_ (fun hx => ?_); on_goal 1 => (unfold x; clear x)))
    | apply Keeps.ite | apply State.putApp_keeps | apply State.publishCh_keeps

theorem State.mgnCapture_keeps {wm : Bool} {s0 s : State} (ch : Nat) (arr : Nat) (remap : Bool) (b : List Nat) (hk : Keeps wm s0 s) : Keeps wm s0 (State.mgnCapture s ch arr remap b) := by
  unfold State.mgnCapture
  repeat' with_reducible first
    | assumption
    | (extract_lets (onlyGivenNames := true) x; try (refine Keeps.cut (w := wm) (s0 := s0) (x := x) ?_ (fun hx => ?_); on_goal 1 => (unfold x; clear x)))
    | refine Keeps.lit rfl rfl rfl rfl (by assumption) (by assumption) | apply Keeps.ite | apply State.useFree_keeps
    | (refine Keeps.forEach ?_ ?_; intro a x hx) | (clear_value *; split)

theorem State.readFrame_keeps {wm : Bool} {s0 s : State} (ch : Nat) (port : Nat) (arr : Nat) (h : Hdr) (b : List Nat) (hk : Keeps wm s0 s) : Keeps wm s0 (State.readFrame s ch port arr h b).1 := by
  show KeepsP wm s0 _
  unfold State.readFrame
  repeat' with_reducible first
    | assumption
    | (extract_lets (onlyGivenNames := true) x; try (refine Keeps.cut (w := wm) (s0 := s0) (x := x) ?_ (fun hx => ?_); on_goal 1 => (unfold x; clear x)))
    | apply Keeps.ite | apply KeepsP.mk | apply State.crcErr_keeps | apply State.complete_keeps | apply State.modChan_keeps | apply State.cross_keeps
    | apply State.mgnCapture_keeps | (refine Keeps.forEach ?_ ?_; intro a x hx)

theorem State.lateSeg_keeps {wm : Bool} {s0 s : State} (ch : Nat) (hk : Keeps wm s0 s) : Keeps wm s0 (State.lateSeg s ch) := by
  unfold State.lateSeg
  repeat' with_reducible first
    | assumption
    | (extract_lets (onlyGivenNames := true) x; try (refine Keeps.cut (w := wm) (s0 := s0) (x := x) ?_ (fun hx => ?_); on_goal 1 => (unfold x; clear x)))
    | apply State.bump_keeps | apply State.flag_keeps | apply State.journal_keeps

theorem State.writeFrame_keeps {wm : Bool} {s0 s : State} (ch arr : Nat) (ae : Rat) (h : Hdr) (b : List Nat) (hk : Keeps wm s0 s) :
    Keeps wm s0 (s.writeFrame ch arr ae h b).1 := by
  show KeepsP wm s0 _
  unfold State.writeFrame
  extract_lets step r o
  have hs : ∀ img slot p x, KeepsP wm s0 p → KeepsP wm s0 (step img slot p x) := by
    intro img slot p x hp
    show Keeps wm s0 (if _ then _ else _)
    exact Keeps.ite (State.lateSeg_keeps _ (State.modChan_keeps _ _ hp)) (State.modChan_keeps _ _ hp)
  have hr : KeepsP wm s0 r := KeepsP.foldl (hs ch false) (KeepsP.mk hk)
  exact KeepsP.ite (KeepsP.foldl (hs o true) hr) hr

theorem State.ringAction_keeps {wm : Bool} {s0 s : State} (ch : Nat) (h : Hdr) (hk : Keeps wm s0 s) : Keeps wm s0 (State.ringAction s ch h) := by
  unfold State.ringAction
  repeat' with_reducible first
    | assumption
    | (extract_lets (onlyGivenNames := true) x; try (refine Keeps.cut (w := wm) (s0 := s0) (x := x) ?_ (fun hx => ?_); on_goal 1 => (unfold x; clear x)))
    | refine Keeps.lit rfl rfl rfl rfl (by assumption) (by assumption) | apply Keeps.ite | apply State.putChan_keeps | apply State.wr_keeps
    | apply State.hwPend_keeps | apply State.hbCancel_keeps | split

theorem State.reint_keeps {wm : Bool} {s0 s : State} (ch : Nat) (hk : Keeps wm s0 s) : Keeps wm s0 (State.reint s ch) := by
  unfold State.reint
  repeat' with_reducible first
    | assumption
    | (extract_lets (onlyGivenNames := true) x; try (refine Keeps.cut (w := wm) (s0 := s0) (x := x) ?_ (fun hx => ?_); on_goal 1 => (unfold x; clear x)))
    | apply State.wr_keeps | apply State.flag_keeps | apply State.journal_keeps | apply State.modChan_keeps

theorem State.arrCheck_keeps {wm : Bool} {s0 s : State} (ch : Nat) (ae : Rat) (hk : Keeps wm s0 s) : Keeps wm s0 (State.arrCheck s ch ae) := by
  unfold State.arrCheck
  repeat' with_reducible first
    | assumption
    | (extract_lets (onlyGivenNames := true) x; try (refine Keeps.cut (w := wm) (s0 := s0) (x := x) ?_ (fun hx => ?_); on_goal 1 => (unfold x; clear x)))
    | apply Keeps.ite | apply State.bump_keeps | apply State.flag_keeps | apply State.wr_keeps | apply State.reint_keeps

theorem State.leaderBack_keeps {wm : Bool} {s0 s : State} (ch : Nat) (hk : Keeps wm s0 s) : Keeps wm s0 (State.leaderBack s ch) := by
  unfold State.leaderBack
  repeat' with_reducible first
    | assumption
    | (extract_lets (onlyGivenNames := true) x; try (refine Keeps.cut (w := wm) (s0 := s0) (x := x) ?_ (fun hx => ?_); on_goal 1 => (unfold x; clear x)))
    | apply Keeps.ite | apply State.putLane_keeps | apply State.modChan_keeps | (refine Keeps.forEach ?_ ?_; intro a x hx)

theorem State.acceptFrame_keeps {wm : Bool} {s0 s : State} (ch : Nat) (port : Nat) (arr : Nat) (h : Hdr) (b : List Nat) (hk : Keeps wm s0 s) : Keeps wm s0 (State.acceptFrame s ch port arr h b).1 := by
  show KeepsP wm s0 _
  unfold State.acceptFrame
  repeat' first
    | with_reducible assumption
    | (extract_lets (onlyGivenNames := true) x; try (refine Keeps.cut (w := wm) (s0 := s0) (x := x) ?_ (fun hx => ?_); on_goal 1 => (unfold x; clear x)))
    | (with_reducible refine Keeps.lit rfl rfl rfl rfl (by first | with_reducible assumption | (with_reducible refine KeepsP.get (by with_reducible assumption) ?_; with_reducible refine KeepsP.of ?_; with_reducible apply State.readFrame_keeps; with_reducible assumption) | (with_reducible refine KeepsP.get (by with_reducible assumption) ?_; with_reducible refine KeepsP.of ?_; with_reducible apply State.writeFrame_keeps; with_reducible assumption)) (by first | with_reducible assumption | (with_reducible refine KeepsP.get (by with_reducible assumption) ?_; with_reducible refine KeepsP.of ?_; with_reducible apply State.readFrame_keeps; with_reducible assumption) | (with_reducible refine KeepsP.get (by with_reducible assumption) ?_; with_reducible refine KeepsP.of ?_; with_reducible apply State.writeFrame_keeps; with_reducible assumption)))
    | with_reducible apply Keeps.ite
    | with_reducible apply KeepsP.ite
    | with_reducible apply KeepsP.mk
    | with_reducible apply State.cycTake_keeps
    | with_reducible apply State.wr_keeps
    | with_reducible apply State.showArr_keeps
    | with_reducible apply State.ringSample_keeps
    | with_reducible apply State.wrB_keeps
    | with_reducible apply State.flag_keeps
    | with_reducible apply State.modChan_keeps
    | with_reducible apply State.leaderBack_keeps
    | with_reducible apply State.ringAction_keeps
    | with_reducible apply State.hwPend_keeps
    | with_reducible apply State.bump_keeps
    | with_reducible apply State.arrCheck_keeps
    | with_reducible apply State.readFrame_keeps
    | with_reducible apply State.writeFrame_keeps
    | (show KeepsP wm s0 x; unfold x; with_reducible apply KeepsP.ite <;> with_reducible refine KeepsP.of ?_)

theorem State.dmNode_keeps {wm : Bool} {s0 s : State} (ch : Nat) (arr : Nat) (h : Hdr) (b : List Nat) (hk : Keeps wm s0 s) : Keeps wm s0 (State.dmNode s ch arr h b) := by
  unfold State.dmNode
  repeat' with_reducible first
    | assumption
    | (extract_lets (onlyGivenNames := true) x; try (refine Keeps.cut (w := wm) (s0 := s0) (x := x) ?_ (fun hx => ?_); on_goal 1 => (unfold x; clear x)))
    | apply Keeps.ite | apply State.wrB_keeps | apply State.flag_keeps | apply State.putChan_keeps | apply State.wr_keeps | split

theorem State.nodeFrame_keeps {wm : Bool} {s0 s : State} (ch : Nat) (port : Nat) (arr : Nat) (b : List Nat) (hk : Keeps wm s0 s) : Keeps wm s0 (State.nodeFrame s ch port arr b) := by
  unfold State.nodeFrame
  repeat' with_reducible first
    | assumption
    | (extract_lets (onlyGivenNames := true) x; try (refine Keeps.cut (w := wm) (s0 := s0) (x := x) ?_ (fun hx => ?_); on_goal 1 => (unfold x; clear x)))
    | refine Keeps.lit rfl rfl rfl rfl (by first | assumption | (refine KeepsP.get (by assumption) ?_; refine KeepsP.of ?_; apply State.acceptFrame_keeps; assumption)) (by first | assumption | (refine KeepsP.get (by assumption) ?_; refine KeepsP.of ?_; apply State.acceptFrame_keeps; assumption))
    | apply Keeps.ite | apply State.crcErr_keeps | apply State.forward_keeps | apply State.ringHeard_keeps | apply State.schedCheck_keeps
    | apply State.flag_keeps | apply State.setCs_keeps | apply State.dmNode_keeps | apply State.acceptFrame_keeps | apply State.integrate_keeps

theorem State.csPeer_keeps {wm : Bool} {s0 s : State} (ch : Nat) (h : Hdr) (hk : Keeps wm s0 s) : Keeps wm s0 (State.csPeer s ch h) := by
  unfold State.csPeer
  repeat' with_reducible first
    | assumption
    | (extract_lets (onlyGivenNames := true) x; try (refine Keeps.cut (w := wm) (s0 := s0) (x := x) ?_ (fun hx => ?_); on_goal 1 => (unfold x; clear x)))
    | apply State.wr_keeps

theorem State.csYield_keeps {wm : Bool} {s0 s : State} (ch : Nat) (arr : Nat) (h : Hdr) (hk : Keeps wm s0 s) : Keeps wm s0 (State.csYield s ch arr h) := by
  unfold State.csYield
  repeat' with_reducible first
    | assumption
    | (extract_lets (onlyGivenNames := true) x; try (refine Keeps.cut (w := wm) (s0 := s0) (x := x) ?_ (fun hx => ?_); on_goal 1 => (unfold x; clear x)))
    | apply State.listenCh_keeps | apply State.modChan_keeps | apply State.setCs_keeps | apply State.flag_keeps | apply State.csPeer_keeps
    | apply State.ringHeard_keeps | apply State.integrate_keeps | (refine Keeps.forEach ?_ ?_; intro a x hx)

theorem State.candFrame_keeps {wm : Bool} {s0 s : State} (ch : Nat) (port : Nat) (arr : Nat) (b : List Nat) (hk : Keeps wm s0 s) : Keeps wm s0 (State.candFrame s ch port arr b) := by
  unfold State.candFrame
  repeat' with_reducible first
    | assumption
    | (extract_lets (onlyGivenNames := true) x; try (refine Keeps.cut (w := wm) (s0 := s0) (x := x) ?_ (fun hx => ?_); on_goal 1 => (unfold x; clear x)))
    | apply Keeps.ite | apply State.crcErr_keeps | apply State.modChan_keeps | apply State.ringHeard_keeps | apply State.flag_keeps
    | apply State.csPeer_keeps | apply State.bump_keeps | apply State.csYield_keeps

end Sys2Proof.Machine
end

