-- ==== Sys2Proof/Laws/KeepsRingLead.lean ====
section
/-! SUPPORT. Every operation of Machine/RingLead.lean keeps the canonical form, the queue and the fuses. -/

set_option linter.unusedVariables false
set_option linter.tactic.unusedName false
set_option linter.unusedTactic false
set_option linter.unreachableTactic false

namespace Sys2Proof.Machine

theorem State.nodeCount_keeps {s0 s : State} (ch : Nat) (i : Nat) (o : Nat) (hk : Keeps true s0 s) : Keeps true s0 (State.nodeCount s ch i o) := by
  unfold State.nodeCount
  repeat' with_reducible first
    | assumption
    | (extract_lets (onlyGivenNames := true) x; try (refine Keeps.cut (w := true) (s0 := s0) (x := x) ?_ (fun hx => ?_); on_goal 1 => (unfold x; clear x)))
    | apply Keeps.ite | apply State.putMem32_keeps

theorem State.nodeFlag_keeps {s0 s : State} (ch : Nat) (i : Nat) (b : Nat) (x : Bool) (hk : Keeps true s0 s) : Keeps true s0 (State.nodeFlag s ch i b x) := by
  unfold State.nodeFlag
  repeat' with_reducible first
    | assumption
    | (extract_lets (onlyGivenNames := true) x; try (refine Keeps.cut (w := true) (s0 := s0) (x := x) ?_ (fun hx => ?_); on_goal 1 => (unfold x; clear x)))
    | apply State.putBytes_keeps

theorem State.nodeShow_keeps {s0 s : State} (ch : Nat) (i : Nat) (arr : Nat) (nstat : Nat) (hk : Keeps true s0 s) : Keeps true s0 (State.nodeShow s ch i arr nstat) := by
  unfold State.nodeShow
  repeat' with_reducible first
    | assumption
    | (extract_lets (onlyGivenNames := true) x; try (refine Keeps.cut (w := true) (s0 := s0) (x := x) ?_ (fun hx => ?_); on_goal 1 => (unfold x; clear x)))
    | apply Keeps.ite | apply State.modChan_keeps | apply State.putBytes_keeps | apply State.nodeFlag_keeps | apply State.flag_keeps
    | apply State.journal_keeps

theorem State.takeInput_keeps {s0 s : State} (ch : Nat) (port : Nat) (cyc : Nat) (x : Nat × Seg) (b : List Nat) (hk : Keeps true s0 s) : Keeps true s0 (State.takeInput s ch port cyc x b) := by
  unfold State.takeInput
  repeat' with_reducible first
    | assumption
    | (extract_lets (onlyGivenNames := true) x; try (refine Keeps.cut (w := true) (s0 := s0) (x := x) ?_ (fun hx => ?_); on_goal 1 => (unfold x; clear x)))
    | apply Keeps.ite | apply State.crcErr_keeps | apply State.putChan_keeps | apply State.putApp_keeps | apply State.nodeCount_keeps
    | apply State.bump_keeps | apply State.flag_keeps | apply State.journal_keeps | split

theorem State.nodeStatus_keeps {s0 s : State} (ch : Nat) (b : List Nat) (hk : Keeps true s0 s) : Keeps true s0 (State.nodeStatus s ch b) := by
  unfold State.nodeStatus
  repeat' with_reducible first
    | assumption
    | (extract_lets (onlyGivenNames := true) x; try (refine Keeps.cut (w := true) (s0 := s0) (x := x) ?_ (fun hx => ?_); on_goal 1 => (unfold x; clear x)))
    | apply State.nodeShow_keeps | (refine Keeps.forEach ?_ ?_; intro a x hx) | split

theorem State.takeSlots_keeps {wm : Bool} {s0 s : State} (ch : Nat) (port : Nat) (arr : Nat) (cyc : Nat) (b : List Nat) (hk : Keeps wm s0 s) : Keeps wm s0 (State.takeSlots s ch port arr cyc b) := by
  unfold State.takeSlots
  repeat' with_reducible first
    | assumption
    | (extract_lets (onlyGivenNames := true) x; try (refine Keeps.cut (w := wm) (s0 := s0) (x := x) ?_ (fun hx => ?_); on_goal 1 => (unfold x; clear x)))
    | apply Keeps.ite | apply State.crcErr_keeps | apply State.complete_keeps | (refine Keeps.forEach ?_ ?_; intro a x hx)

theorem State.missCheck_keeps {s0 s : State} (ch : Nat) (hk : Keeps true s0 s) : Keeps true s0 (State.missCheck s ch) := by
  unfold State.missCheck
  repeat' with_reducible first
    | assumption
    | (extract_lets (onlyGivenNames := true) x; try (refine Keeps.cut (w := true) (s0 := s0) (x := x) ?_ (fun hx => ?_); on_goal 1 => (unfold x; clear x)))
    | apply Keeps.ite | apply State.nodeCount_keeps | apply State.modChan_keeps | apply State.nodeFlag_keeps | (refine Keeps.forEach ?_ ?_; intro a x hx)
    | split

theorem State.closeCycle_keeps {s0 s : State} (ch : Nat) (arr : Nat) (hk : Keeps true s0 s) : Keeps true s0 (State.closeCycle s ch arr) := by
  unfold State.closeCycle
  repeat' with_reducible first
    | assumption
    | (extract_lets (onlyGivenNames := true) x; try (refine Keeps.cut (w := true) (s0 := s0) (x := x) ?_ (fun hx => ?_); on_goal 1 => (unfold x; clear x)))
    | apply Keeps.ite | apply State.putChan_keeps | apply State.complete_keeps | apply State.flag_keeps | apply State.missCheck_keeps
    | apply State.cross_keeps | apply State.modChan_keeps | apply State.wr_keeps

theorem State.takeReturn_keeps {s0 s : State} (ch : Nat) (port : Nat) (arr : Nat) (h : Hdr) (b : List Nat) (hk : Keeps true s0 s) : Keeps true s0 (State.takeReturn s ch port arr h b) := by
  unfold State.takeReturn
  repeat' with_reducible first
    | assumption
    | (extract_lets (onlyGivenNames := true) x; try (refine Keeps.cut (w := true) (s0 := s0) (x := x) ?_ (fun hx => ?_); on_goal 1 => (unfold x; clear x)))
    | apply Keeps.ite | apply State.modChan_keeps | apply State.takeInput_keeps | apply State.nodeStatus_keeps | apply State.takeSlots_keeps
    | apply State.mgnCapture_keeps | apply State.closeCycle_keeps | (refine Keeps.forEach ?_ ?_; intro a x hx)

theorem State.dmReturn_keeps {wm : Bool} {s0 s : State} (ch : Nat) (arr : Nat) (h : Hdr) (hk : Keeps wm s0 s) : Keeps wm s0 (State.dmReturn s ch arr h) := by
  unfold State.dmReturn
  repeat' with_reducible first
    | assumption
    | (extract_lets (onlyGivenNames := true) x; try (refine Keeps.cut (w := wm) (s0 := s0) (x := x) ?_ (fun hx => ?_); on_goal 1 => (unfold x; clear x)))
    | apply Keeps.ite | apply State.putChan_keeps | apply State.wr_keeps | apply State.wrB_keeps | apply State.flag_keeps | split

theorem State.leadFrame_keeps {s0 s : State} (ch : Nat) (port : Nat) (arr : Nat) (b : List Nat) (hk : Keeps true s0 s) : Keeps true s0 (State.leadFrame s ch port arr b) := by
  unfold State.leadFrame
  repeat' with_reducible first
    | assumption
    | (extract_lets (onlyGivenNames := true) x; try (refine Keeps.cut (w := true) (s0 := s0) (x := x) ?_ (fun hx => ?_); on_goal 1 => (unfold x; clear x)))
    | apply Keeps.ite | apply State.crcErr_keeps | apply State.modChan_keeps | apply State.ringHeard_keeps | apply State.dmReturn_keeps
    | apply State.takeReturn_keeps | apply State.flag_keeps | apply State.forward_keeps | apply State.surrenderNow_keeps | apply State.bump_keeps

theorem State.coldUndo_keeps {wm : Bool} {s0 s : State} (hk : Keeps wm s0 s) : Keeps wm s0 (State.coldUndo s) := by
  unfold State.coldUndo
  repeat' with_reducible first
    | assumption
    | (extract_lets (onlyGivenNames := true) x; try (refine Keeps.cut (w := wm) (s0 := s0) (x := x) ?_ (fun hx => ?_); on_goal 1 => (unfold x; clear x)))
    | refine Keeps.lit rfl rfl rfl rfl (by assumption) (by assumption) | apply State.putRaw_keeps | apply State.modChan_keeps
    | (refine Keeps.forEach ?_ ?_; intro a x hx) | split

theorem State.frameIn_keeps {s0 s : State} (ch : Nat) (port : Nat) (arr : Nat) (b : List Nat) (hk : Keeps true s0 s) : Keeps true s0 (State.frameIn s ch port arr b) := by
  unfold State.frameIn
  repeat' with_reducible first
    | assumption
    | (extract_lets (onlyGivenNames := true) x; try (refine Keeps.cut (w := true) (s0 := s0) (x := x) ?_ (fun hx => ?_); on_goal 1 => (unfold x; clear x)))
    | apply Keeps.ite | apply State.coldUndo_keeps | apply State.portHeard_keeps | apply State.candFrame_keeps | apply State.leadFrame_keeps
    | apply State.nodeFrame_keeps

theorem State.frameOf_keeps {s0 s : State} (k : Nat) (ch : Nat) (port : Nat) (arr : Nat) (b : List Nat) (hk : Keeps true s0 s) : Keeps true s0 (State.frameOf s k ch port arr b) := by
  unfold State.frameOf
  repeat' with_reducible first
    | assumption
    | (extract_lets (onlyGivenNames := true) x; try (refine Keeps.cut (w := true) (s0 := s0) (x := x) ?_ (fun hx => ?_); on_goal 1 => (unfold x; clear x)))
    | apply Keeps.ite | apply State.frameIn_keeps

theorem execCycleFrameReceive_keeps {s0 s : State} (dt : Nat) (ch : Nat) (port : Nat) (arr : Nat) (bytes : List Nat) (hk : Keeps true s0 s) : KeepsR true s0 (execCycleFrameReceive dt ch port arr bytes s) := by
  unfold execCycleFrameReceive
  repeat' with_reducible first
    | assumption
    | (extract_lets (onlyGivenNames := true) x; try (refine Keeps.cut (w := true) (s0 := s0) (x := x) ?_ (fun hx => ?_); on_goal 1 => (unfold x; clear x)))
    | apply KeepsR.needs | apply State.after_keeps | apply State.frameOf_keeps

theorem execNullFrameReceive_keeps {s0 s : State} (dt : Nat) (ch : Nat) (port : Nat) (arr : Nat) (bytes : List Nat) (hk : Keeps true s0 s) : KeepsR true s0 (execNullFrameReceive dt ch port arr bytes s) := by
  unfold execNullFrameReceive
  repeat' with_reducible first
    | assumption
    | (extract_lets (onlyGivenNames := true) x; try (refine Keeps.cut (w := true) (s0 := s0) (x := x) ?_ (fun hx => ?_); on_goal 1 => (unfold x; clear x)))
    | apply KeepsR.needs | apply State.after_keeps | apply State.frameOf_keeps

theorem execDelayFrameReceive_keeps {s0 s : State} (dt : Nat) (ch : Nat) (port : Nat) (arr : Nat) (bytes : List Nat) (hk : Keeps true s0 s) : KeepsR true s0 (execDelayFrameReceive dt ch port arr bytes s) := by
  unfold execDelayFrameReceive
  repeat' with_reducible first
    | assumption
    | (extract_lets (onlyGivenNames := true) x; try (refine Keeps.cut (w := true) (s0 := s0) (x := x) ?_ (fun hx => ?_); on_goal 1 => (unfold x; clear x)))
    | apply KeepsR.needs | apply State.after_keeps | apply State.frameOf_keeps

theorem execColdStartFrameReceive_keeps {s0 s : State} (dt : Nat) (ch : Nat) (port : Nat) (arr : Nat) (bytes : List Nat) (hk : Keeps true s0 s) : KeepsR true s0 (execColdStartFrameReceive dt ch port arr bytes s) := by
  unfold execColdStartFrameReceive
  repeat' with_reducible first
    | assumption
    | (extract_lets (onlyGivenNames := true) x; try (refine Keeps.cut (w := true) (s0 := s0) (x := x) ?_ (fun hx => ?_); on_goal 1 => (unfold x; clear x)))
    | apply KeepsR.needs | apply State.after_keeps | apply State.frameOf_keeps

theorem execFrameReturn_keeps {s0 s : State} (dt : Nat) (ch : Nat) (port : Nat) (arr : Nat) (bytes : List Nat) (hk : Keeps true s0 s) : KeepsR true s0 (execFrameReturn dt ch port arr bytes s) := by
  unfold execFrameReturn
  repeat' with_reducible first
    | assumption
    | (extract_lets (onlyGivenNames := true) x; try (refine Keeps.cut (w := true) (s0 := s0) (x := x) ?_ (fun hx => ?_); on_goal 1 => (unfold x; clear x)))
    | apply Keeps.ite | apply KeepsR.needs | apply State.after_keeps | apply State.frameIn_keeps

theorem State.showTwinLock_keeps {wm : Bool} {s0 s : State} (l : Nat) (x : Bool) (hk : Keeps wm s0 s) : Keeps wm s0 (State.showTwinLock s l x) := by
  unfold State.showTwinLock
  repeat' with_reducible first
    | assumption
    | (extract_lets (onlyGivenNames := true) x; try (refine Keeps.cut (w := wm) (s0 := s0) (x := x) ?_ (fun hx => ?_); on_goal 1 => (unfold x; clear x)))
    | apply Keeps.ite | apply State.wrB_keeps

theorem State.setLock_keeps {s0 s : State} (l : Nat) (x : Bool) (hk : Keeps true s0 s) : Keeps true s0 (State.setLock s l x) := by
  unfold State.setLock
  repeat' with_reducible first
    | assumption
    | (extract_lets (onlyGivenNames := true) x; try (refine Keeps.cut (w := true) (s0 := s0) (x := x) ?_ (fun hx => ?_); on_goal 1 => (unfold x; clear x)))
    | refine Keeps.lit rfl rfl rfl rfl (by assumption) (by assumption) | apply State.laneBit_keeps | apply State.showTwinLock_keeps

theorem execLaneFault_keeps {s0 s : State} (dt : Nat) (lane : Nat) (hk : Keeps true s0 s) : KeepsR true s0 (execLaneFault dt lane s) := by
  unfold execLaneFault
  repeat' with_reducible first
    | assumption
    | (extract_lets (onlyGivenNames := true) x; try (refine Keeps.cut (w := true) (s0 := s0) (x := x) ?_ (fun hx => ?_); on_goal 1 => (unfold x; clear x)))
    | apply Keeps.ite | apply KeepsR.needs | apply State.after_keeps | apply State.useFree_keeps | apply State.setLock_keeps | apply State.laneBit_keeps
    | apply State.emit_keeps | apply State.modChan_keeps

theorem execBlockLockGain_keeps {s0 s : State} (dt : Nat) (lane : Nat) (hk : Keeps true s0 s) : KeepsR true s0 (execBlockLockGain dt lane s) := by
  unfold execBlockLockGain
  repeat' with_reducible first
    | assumption
    | (extract_lets (onlyGivenNames := true) x; try (refine Keeps.cut (w := true) (s0 := s0) (x := x) ?_ (fun hx => ?_); on_goal 1 => (unfold x; clear x)))
    | apply Keeps.ite | apply KeepsR.needs | apply State.after_keeps | apply State.setLock_keeps | apply State.laneBit_keeps | apply State.wr_keeps
    | apply State.showUse_keeps

theorem execSwitchRequest_keeps {wm : Bool} {s0 s : State} (dt : Nat) (lane : Nat) (spare : Bool) (hk : Keeps wm s0 s) : KeepsR wm s0 (execSwitchRequest dt lane spare s) := by
  unfold execSwitchRequest
  repeat' with_reducible first
    | assumption
    | (extract_lets (onlyGivenNames := true) x; try (refine Keeps.cut (w := wm) (s0 := s0) (x := x) ?_ (fun hx => ?_); on_goal 1 => (unfold x; clear x)))
    | apply Keeps.ite | apply KeepsR.needs | apply State.after_keeps | apply State.modChan_keeps

theorem execPortDown_keeps {wm : Bool} {s0 s : State} (dt : Nat) (ch : Nat) (port : Nat) (hk : Keeps wm s0 s) : KeepsR wm s0 (execPortDown dt ch port s) := by
  unfold execPortDown
  repeat' with_reducible first
    | assumption
    | (extract_lets (onlyGivenNames := true) x; try (refine Keeps.cut (w := wm) (s0 := s0) (x := x) ?_ (fun hx => ?_); on_goal 1 => (unfold x; clear x)))
    | apply Keeps.ite | apply KeepsR.needs | apply State.after_keeps | apply State.wr_keeps | apply State.putChan_keeps | apply State.flag_keeps
    | apply State.journal_keeps

theorem execLinkBack_keeps {wm : Bool} {s0 s : State} (dt : Nat) (ch : Nat) (port : Nat) (hk : Keeps wm s0 s) : KeepsR wm s0 (execLinkBack dt ch port s) := by
  unfold execLinkBack
  repeat' with_reducible first
    | assumption
    | (extract_lets (onlyGivenNames := true) x; try (refine Keeps.cut (w := wm) (s0 := s0) (x := x) ?_ (fun hx => ?_); on_goal 1 => (unfold x; clear x)))
    | apply Keeps.ite | apply KeepsR.needs | apply State.after_keeps | apply State.modChan_keeps

theorem execChannelLoss_keeps {wm : Bool} {s0 s : State} (dt : Nat) (ch : Nat) (hk : Keeps wm s0 s) : KeepsR wm s0 (execChannelLoss dt ch s) := by
  unfold execChannelLoss
  repeat' with_reducible first
    | assumption
    | (extract_lets (onlyGivenNames := true) x; try (refine Keeps.cut (w := wm) (s0 := s0) (x := x) ?_ (fun hx => ?_); on_goal 1 => (unfold x; clear x)))
    | apply Keeps.ite | apply KeepsR.needs | apply State.after_keeps | apply State.wr_keeps | apply State.journal_keeps | apply State.modChan_keeps

theorem State.csBegin_keeps {wm : Bool} {s0 s : State} (hk : Keeps wm s0 s) : Keeps wm s0 (State.csBegin s) := by
  unfold State.csBegin
  repeat' with_reducible first
    | assumption
    | (extract_lets (onlyGivenNames := true) x; try (refine Keeps.cut (w := wm) (s0 := s0) (x := x) ?_ (fun hx => ?_); on_goal 1 => (unfold x; clear x)))
    | apply Keeps.ite | apply State.setLattice_keeps | apply State.setCs_keeps | apply State.listenCh_keeps | apply State.wr_keeps
    | apply State.modChan_keeps | apply State.hwPend_keeps | (refine Keeps.forEach ?_ ?_; intro a x hx)

theorem State.csExpire_keeps {wm : Bool} {s0 s : State} (hk : Keeps wm s0 s) : Keeps wm s0 (State.csExpire s) := by
  unfold State.csExpire
  repeat' with_reducible first
    | assumption
    | (extract_lets (onlyGivenNames := true) x; try (refine Keeps.cut (w := wm) (s0 := s0) (x := x) ?_ (fun hx => ?_); on_goal 1 => (unfold x; clear x)))
    | refine Keeps.lit rfl rfl rfl rfl (by assumption) (by assumption) | apply State.csBegin_keeps

theorem execColdStart_keeps {wm : Bool} {s0 s : State} (hk : Keeps wm s0 s) : KeepsR wm s0 (execColdStart s) := by
  unfold execColdStart
  repeat' with_reducible first
    | assumption
    | (extract_lets (onlyGivenNames := true) x; try (refine Keeps.cut (w := wm) (s0 := s0) (x := x) ?_ (fun hx => ?_); on_goal 1 => (unfold x; clear x)))
    | apply Keeps.ite | apply KeepsR.next | apply State.runRim_keeps | apply State.csExpire_keeps

theorem State.csBackoff_keeps {wm : Bool} {s0 s : State} (ch : Nat) (hk : Keeps wm s0 s) : Keeps wm s0 (State.csBackoff s ch) := by
  unfold State.csBackoff
  repeat' with_reducible first
    | assumption
    | (extract_lets (onlyGivenNames := true) x; try (refine Keeps.cut (w := wm) (s0 := s0) (x := x) ?_ (fun hx => ?_); on_goal 1 => (unfold x; clear x)))
    | refine Keeps.lit rfl rfl rfl rfl (by assumption) (by assumption) | apply State.listenCh_keeps | apply State.modChan_keeps | apply State.setCs_keeps
    | apply State.bump_keeps | (refine Keeps.forEach ?_ ?_; intro a x hx)

theorem execBackoffEnd_keeps {wm : Bool} {s0 s : State} (hk : Keeps wm s0 s) : KeepsR wm s0 (execBackoffEnd s) := by
  unfold execBackoffEnd
  repeat' with_reducible first
    | assumption
    | (extract_lets (onlyGivenNames := true) x; try (refine Keeps.cut (w := wm) (s0 := s0) (x := x) ?_ (fun hx => ?_); on_goal 1 => (unfold x; clear x)))
    | refine Keeps.lit rfl rfl rfl rfl (by assumption) (by assumption) | apply Keeps.ite | apply KeepsR.next | apply State.runRim_keeps
    | apply State.csBegin_keeps | split

theorem State.llPoll_keeps {wm : Bool} {s0 s : State} (ch : Nat) (hk : Keeps wm s0 s) : Keeps wm s0 (State.llPoll s ch) := by
  unfold State.llPoll
  repeat' with_reducible first
    | assumption
    | (extract_lets (onlyGivenNames := true) x; try (refine Keeps.cut (w := wm) (s0 := s0) (x := x) ?_ (fun hx => ?_); on_goal 1 => (unfold x; clear x)))
    | apply Keeps.ite | apply State.wr_keeps

theorem execLeaderMissing_keeps {wm : Bool} {s0 s : State} (dt : Nat) (ch : Nat) (hk : Keeps wm s0 s) : KeepsR wm s0 (execLeaderMissing dt ch s) := by
  unfold execLeaderMissing
  repeat' with_reducible first
    | assumption
    | (extract_lets (onlyGivenNames := true) x; try (refine Keeps.cut (w := wm) (s0 := s0) (x := x) ?_ (fun hx => ?_); on_goal 1 => (unfold x; clear x)))
    | apply Keeps.ite | apply KeepsR.needs | apply State.after_keeps | apply State.wr_keeps | apply State.modChan_keeps | apply State.putLane_keeps
    | apply State.llPoll_keeps | (refine Keeps.forEach ?_ ?_; intro a x hx)

theorem execLeaderLost_keeps {wm : Bool} {s0 s : State} (dt : Nat) (hk : Keeps wm s0 s) : KeepsR wm s0 (execLeaderLost dt s) := by
  unfold execLeaderLost
  repeat' with_reducible first
    | assumption
    | (extract_lets (onlyGivenNames := true) x; try (refine Keeps.cut (w := wm) (s0 := s0) (x := x) ?_ (fun hx => ?_); on_goal 1 => (unfold x; clear x)))
    | apply Keeps.ite | apply KeepsR.next | apply State.after_keeps | apply State.llPoll_keeps | apply State.flag_keeps | apply State.bump_keeps
    | apply State.modChan_keeps | apply State.modeChange_keeps | apply State.clearPend_keeps | apply State.trigger_keeps
    | (refine Keeps.forEach ?_ ?_; intro a x hx)

theorem execRejoinTimeout_keeps {wm : Bool} {s0 s : State} (dt : Nat) (ch : Nat) (hk : Keeps wm s0 s) : KeepsR wm s0 (execRejoinTimeout dt ch s) := by
  unfold execRejoinTimeout
  repeat' with_reducible first
    | assumption
    | (extract_lets (onlyGivenNames := true) x; try (refine Keeps.cut (w := wm) (s0 := s0) (x := x) ?_ (fun hx => ?_); on_goal 1 => (unfold x; clear x)))
    | apply Keeps.ite | apply KeepsR.needs | apply State.after_keeps | apply State.modChan_keeps | split

theorem execListenChannelTimeout_keeps {wm : Bool} {s0 s : State} (dt : Nat) (ch : Nat) (hk : Keeps wm s0 s) : KeepsR wm s0 (execListenChannelTimeout dt ch s) := by
  unfold execListenChannelTimeout
  repeat' with_reducible first
    | assumption
    | (extract_lets (onlyGivenNames := true) x; try (refine Keeps.cut (w := wm) (s0 := s0) (x := x) ?_ (fun hx => ?_); on_goal 1 => (unfold x; clear x)))
    | apply Keeps.ite | apply KeepsR.needs | apply State.after_keeps | apply State.listenCh_keeps

theorem execRingFetch_keeps {wm : Bool} {s0 s : State} (ch : Nat) (hk : Keeps wm s0 s) : KeepsR wm s0 (execRingFetch ch s) := by
  unfold execRingFetch
  repeat' with_reducible first
    | assumption
    | (extract_lets (onlyGivenNames := true) x; try (refine Keeps.cut (w := wm) (s0 := s0) (x := x) ?_ (fun hx => ?_); on_goal 1 => (unfold x; clear x)))
    | refine Keeps.lit rfl rfl rfl rfl (by first | assumption | (refine KeepsO.get (by assumption) ?_; apply State.reach_keeps; assumption)) (by first | assumption | (refine KeepsO.get (by assumption) ?_; apply State.reach_keeps; assumption))
    | apply Keeps.ite | apply KeepsR.needs | apply State.modChan_keeps | split

end Sys2Proof.Machine
end

