-- ==== Sys2Proof/Laws/KeepsTwin.lean ====
section
/-! SUPPORT. Every operation of Machine/Twin.lean keeps the canonical form, the queue and the fuses. -/

set_option linter.unusedVariables false
set_option linter.tactic.unusedName false
set_option linter.unusedTactic false
set_option linter.unreachableTactic false

namespace Sys2Proof.Machine

theorem State.twinTake_keeps {wm : Bool} {s0 s : State} (ok : Bool) (seq : Nat) (f : State → State) (h_f : ∀ x, Keeps wm s0 x → Keeps wm s0 (f x)) (hk : Keeps wm s0 s) : Keeps wm s0 (State.twinTake s ok seq f) := by
  unfold State.twinTake
  repeat' with_reducible first
    | assumption
    | (extract_lets (onlyGivenNames := true) x; try (refine Keeps.cut (w := wm) (s0 := s0) (x := x) ?_ (fun hx => ?_); on_goal 1 => (unfold x; clear x)))
    | refine Keeps.lit rfl rfl rfl rfl (by assumption) (by assumption) | apply Keeps.ite | apply State.bump_keeps | apply h_f

theorem State.setReady_keeps {wm : Bool} {s0 s : State} (x : Bool) (hk : Keeps wm s0 s) : Keeps wm s0 (State.setReady s x) := by
  unfold State.setReady
  repeat' with_reducible first
    | assumption
    | (extract_lets (onlyGivenNames := true) x; try (refine Keeps.cut (w := wm) (s0 := s0) (x := x) ?_ (fun hx => ?_); on_goal 1 => (unfold x; clear x)))
    | refine Keeps.lit rfl rfl rfl rfl (by assumption) (by assumption) | apply Keeps.ite | apply State.wrB_keeps | apply State.wr_keeps

theorem State.hbRaise_keeps {wm : Bool} {s0 s : State} (hk : Keeps wm s0 s) : Keeps wm s0 (State.hbRaise s) := by
  unfold State.hbRaise
  repeat' with_reducible first
    | assumption
    | (extract_lets (onlyGivenNames := true) x; try (refine Keeps.cut (w := wm) (s0 := s0) (x := x) ?_ (fun hx => ?_); on_goal 1 => (unfold x; clear x)))
    | refine Keeps.lit rfl rfl rfl rfl (by assumption) (by assumption) | apply State.wr_keeps

theorem State.twinPoll_keeps {wm : Bool} {s0 s : State} (hk : Keeps wm s0 s) : Keeps wm s0 (State.twinPoll s) := by
  unfold State.twinPoll
  repeat' with_reducible first
    | assumption
    | (extract_lets (onlyGivenNames := true) x; try (refine Keeps.cut (w := wm) (s0 := s0) (x := x) ?_ (fun hx => ?_); on_goal 1 => (unfold x; clear x)))
    | refine Keeps.lit rfl rfl rfl rfl (by assumption) (by assumption) | apply Keeps.ite | apply State.wrB_keeps | apply State.hwPend_keeps
    | apply State.setReady_keeps | apply State.hbRaise_keeps | apply State.healthCheck_keeps

theorem State.hbGrant_keeps {wm : Bool} {s0 s : State} (hk : Keeps wm s0 s) : Keeps wm s0 (State.hbGrant s) := by
  unfold State.hbGrant
  repeat' with_reducible first
    | assumption
    | (extract_lets (onlyGivenNames := true) x; try (refine Keeps.cut (w := wm) (s0 := s0) (x := x) ?_ (fun hx => ?_); on_goal 1 => (unfold x; clear x)))
    | refine Keeps.lit rfl rfl rfl rfl (by assumption) (by assumption) | apply State.modChan_keeps | apply State.wr_keeps | apply State.hwPend_keeps
    | (refine Keeps.forEach ?_ ?_; intro a x hx) | (clear_value *; split)

theorem State.hbLeader_keeps {wm : Bool} {s0 s : State} (hk : Keeps wm s0 s) : Keeps wm s0 (State.hbLeader s) := by
  unfold State.hbLeader
  repeat' with_reducible first
    | assumption
    | (extract_lets (onlyGivenNames := true) x; try (refine Keeps.cut (w := wm) (s0 := s0) (x := x) ?_ (fun hx => ?_); on_goal 1 => (unfold x; clear x)))
    | apply Keeps.ite | apply State.hbCancel_keeps | apply State.hbGrant_keeps | split

theorem State.hbRequester_keeps {wm : Bool} {s0 s : State} (at_ : Nat) (hk : Keeps wm s0 s) : Keeps wm s0 (State.hbRequester s at_) := by
  unfold State.hbRequester
  repeat' with_reducible first
    | assumption
    | (extract_lets (onlyGivenNames := true) x; try (refine Keeps.cut (w := wm) (s0 := s0) (x := x) ?_ (fun hx => ?_); on_goal 1 => (unfold x; clear x)))
    | refine Keeps.lit rfl rfl rfl rfl (by assumption) (by assumption) | apply Keeps.ite | apply State.hbCancel_keeps | apply State.wr_keeps

theorem State.statusTake_keeps {wm : Bool} {s0 s : State} (m : StatusMsg) (hk : Keeps wm s0 s) : Keeps wm s0 (State.statusTake s m) := by
  unfold State.statusTake
  repeat' with_reducible first
    | assumption
    | (extract_lets (onlyGivenNames := true) x; try (refine Keeps.cut (w := wm) (s0 := s0) (x := x) ?_ (fun hx => ?_); on_goal 1 => (unfold x; clear x)))
    | refine Keeps.lit rfl rfl rfl rfl (by assumption) (by assumption) | apply Keeps.ite | apply State.wrB_keeps | apply State.wr_keeps
    | apply State.flag_keeps | apply State.surrenderNow_keeps | apply State.hbRequester_keeps | apply State.hbLeader_keeps | apply State.twinPoll_keeps

theorem execStatus_keeps {wm : Bool} {s0 s : State} (dt : Nat) (lane : Nat) (m : StatusMsg) (hk : Keeps wm s0 s) : KeepsR wm s0 (execStatus dt lane m s) := by
  unfold execStatus
  repeat' with_reducible first
    | assumption
    | (extract_lets (onlyGivenNames := true) x; try (refine Keeps.cut (w := wm) (s0 := s0) (x := x) ?_ (fun hx => ?_); on_goal 1 => (unfold x; clear x)))
    | apply KeepsR.needs | apply State.after_keeps | apply State.twinTake_keeps | apply State.statusTake_keeps | (intro x hx)

theorem State.timeSample_keeps {wm : Bool} {s0 s : State} (m : TimeMsg) (ld : Int) (hk : Keeps wm s0 s) : Keeps wm s0 (State.timeSample s m ld) := by
  unfold State.timeSample
  repeat' with_reducible first
    | assumption
    | (extract_lets (onlyGivenNames := true) x; try (refine Keeps.cut (w := wm) (s0 := s0) (x := x) ?_ (fun hx => ?_); on_goal 1 => (unfold x; clear x)))
    | refine Keeps.lit rfl rfl rfl rfl (by assumption) (by assumption) | apply Keeps.ite | apply State.stepF_keeps | apply State.servo_keeps
    | apply State.wr_keeps | apply State.pRateCheck_keeps

theorem execTime_keeps {wm : Bool} {s0 s : State} (dt : Nat) (lane : Nat) (m : TimeMsg) (hk : Keeps wm s0 s) : KeepsR wm s0 (execTime dt lane m s) := by
  unfold execTime
  repeat' with_reducible first
    | assumption
    | (extract_lets (onlyGivenNames := true) x; try (refine Keeps.cut (w := wm) (s0 := s0) (x := x) ?_ (fun hx => ?_); on_goal 1 => (unfold x; clear x)))
    | refine Keeps.lit rfl rfl rfl rfl (by assumption) (by assumption) | apply Keeps.ite | apply KeepsR.needs | apply State.after_keeps
    | apply State.wrU_keeps | apply State.twinTake_keeps | apply State.timeSample_keeps | apply State.twinPoll_keeps | (intro x hx)

theorem State.sendTime_keeps {wm : Bool} {s0 s : State} (hk : Keeps wm s0 s) : Keeps wm s0 (State.sendTime s) := by
  unfold State.sendTime
  repeat' with_reducible first
    | assumption
    | (extract_lets (onlyGivenNames := true) x; try (refine Keeps.cut (w := wm) (s0 := s0) (x := x) ?_ (fun hx => ?_); on_goal 1 => (unfold x; clear x)))
    | apply State.twinSend_keeps

theorem execSnap_keeps {wm : Bool} {s0 s : State} (dt : Nat) (m : SnapMsg) (hk : Keeps wm s0 s) : KeepsR wm s0 (execSnap dt m s) := by
  unfold execSnap
  repeat' with_reducible first
    | assumption
    | (extract_lets (onlyGivenNames := true) x; try (refine Keeps.cut (w := wm) (s0 := s0) (x := x) ?_ (fun hx => ?_); on_goal 1 => (unfold x; clear x)))
    | refine Keeps.lit rfl rfl rfl rfl (by assumption) (by assumption) | apply Keeps.ite | apply KeepsR.next | apply State.after_keeps
    | apply State.twinTake_keeps | (intro x hx)

theorem execSolve_keeps {wm : Bool} {s0 s : State} (dt : Nat) (m : SolveMsg) (hk : Keeps wm s0 s) : KeepsR wm s0 (execSolve dt m s) := by
  unfold execSolve
  repeat' with_reducible first
    | assumption
    | (extract_lets (onlyGivenNames := true) x; try (refine Keeps.cut (w := wm) (s0 := s0) (x := x) ?_ (fun hx => ?_); on_goal 1 => (unfold x; clear x)))
    | refine Keeps.lit rfl rfl rfl rfl (by assumption) (by assumption) | apply Keeps.ite | apply KeepsR.next | apply State.after_keeps
    | apply State.twinTake_keeps | (intro x hx)

theorem execModel_keeps {s0 s : State} (dt : Nat) (m : ModelMsg) (hk : Keeps true s0 s) : KeepsR true s0 (execModel dt m s) := by
  unfold execModel
  repeat' with_reducible first
    | assumption
    | (extract_lets (onlyGivenNames := true) x; try (refine Keeps.cut (w := true) (s0 := s0) (x := x) ?_ (fun hx => ?_); on_goal 1 => (unfold x; clear x)))
    | refine Keeps.lit rfl rfl rfl rfl (by assumption) (by assumption) | apply Keeps.ite | apply KeepsR.next | apply State.after_keeps
    | apply State.twinTake_keeps | apply State.dqWrite_keeps | apply State.putMem32_keeps | (refine Keeps.forEach ?_ ?_; intro a x hx) | (intro x hx)
    | split

theorem State.queueSnap_keeps {wm : Bool} {s0 s : State} (x : QueueSnap) (hk : Keeps wm s0 s) : Keeps wm s0 (State.queueSnap s x) := by
  unfold State.queueSnap
  repeat' with_reducible first
    | assumption
    | (extract_lets (onlyGivenNames := true) x; try (refine Keeps.cut (w := wm) (s0 := s0) (x := x) ?_ (fun hx => ?_); on_goal 1 => (unfold x; clear x)))
    | apply State.setQ_keeps | apply State.putQueue_keeps | apply State.wr_keeps | apply State.putGen_keeps | (refine Keeps.forEach ?_ ?_; intro a x hx)

theorem State.snapApply_keeps {wm : Bool} {s0 s : State} (hk : Keeps wm s0 s) : Keeps wm s0 (State.snapApply s) := by
  unfold State.snapApply
  repeat' with_reducible first
    | assumption
    | (extract_lets (onlyGivenNames := true) x; try (refine Keeps.cut (w := wm) (s0 := s0) (x := x) ?_ (fun hx => ?_); on_goal 1 => (unfold x; clear x)))
    | refine Keeps.lit rfl rfl rfl rfl (by assumption) (by assumption) | apply Keeps.ite | apply State.bump_keeps | apply State.putLane_keeps
    | apply State.queueSnap_keeps | apply State.wrB_keeps | (refine Keeps.forEach ?_ ?_; intro a x hx) | split

theorem State.solveApply_keeps {s0 s : State} (hk : Keeps true s0 s) : Keeps true s0 (State.solveApply s) := by
  unfold State.solveApply
  repeat' with_reducible first
    | assumption
    | (extract_lets (onlyGivenNames := true) x; try (refine Keeps.cut (w := true) (s0 := s0) (x := x) ?_ (fun hx => ?_); on_goal 1 => (unfold x; clear x)))
    | refine Keeps.lit rfl rfl rfl rfl (by assumption) (by assumption) | apply Keeps.ite | apply State.bump_keeps | apply State.wr_keeps
    | apply State.rulCommitted_keeps | (refine Keeps.forEach ?_ ?_; intro a x hx) | split

theorem State.snapSend_keeps {wm : Bool} {s0 s : State} (hk : Keeps wm s0 s) : Keeps wm s0 (State.snapSend s) := by
  unfold State.snapSend
  repeat' with_reducible first
    | assumption
    | (extract_lets (onlyGivenNames := true) x; try (refine Keeps.cut (w := wm) (s0 := s0) (x := x) ?_ (fun hx => ?_); on_goal 1 => (unfold x; clear x)))
    | refine Keeps.lit rfl rfl rfl rfl (by assumption) (by assumption) | apply Keeps.ite | apply State.emit_keeps

theorem execTwinLinkDown_keeps {s0 s : State} (dt : Nat) (hk : Keeps true s0 s) : KeepsR true s0 (execTwinLinkDown dt s) := by
  unfold execTwinLinkDown
  repeat' with_reducible first
    | assumption
    | (extract_lets (onlyGivenNames := true) x; try (refine Keeps.cut (w := true) (s0 := s0) (x := x) ?_ (fun hx => ?_); on_goal 1 => (unfold x; clear x)))
    | refine Keeps.lit rfl rfl rfl rfl (by assumption) (by assumption) | apply Keeps.ite | apply KeepsR.next | apply State.after_keeps
    | apply State.setLock_keeps | apply State.wr_keeps | apply State.flag_keeps | apply State.hbCancel_keeps | apply State.twinUnsync_keeps
    | apply State.clearPend_keeps | apply State.healthCheck_keeps

theorem execTakeover_keeps {wm : Bool} {s0 s : State} (dt : Nat) (ch : Nat) (hk : Keeps wm s0 s) : KeepsR wm s0 (execTakeover dt ch s) := by
  unfold execTakeover
  repeat' with_reducible first
    | assumption
    | (extract_lets (onlyGivenNames := true) x; try (refine Keeps.cut (w := wm) (s0 := s0) (x := x) ?_ (fun hx => ?_); on_goal 1 => (unfold x; clear x)))
    | refine Keeps.lit rfl rfl rfl rfl (by assumption) (by assumption) | apply Keeps.ite | apply KeepsR.needs | apply State.after_keeps
    | apply State.flag_keeps | apply State.modChan_keeps | apply State.hwPend_keeps | (refine Keeps.forEach ?_ ?_; intro a x hx)

theorem execHoldoffEnd_keeps {wm : Bool} {s0 s : State} (hk : Keeps wm s0 s) : KeepsR wm s0 (execHoldoffEnd s) := by
  unfold execHoldoffEnd
  repeat' with_reducible first
    | assumption
    | (extract_lets (onlyGivenNames := true) x; try (refine Keeps.cut (w := wm) (s0 := s0) (x := x) ?_ (fun hx => ?_); on_goal 1 => (unfold x; clear x)))
    | apply Keeps.ite | apply KeepsR.next | apply State.runRim_keeps | apply State.hbRaise_keeps | apply State.healthCheck_keeps | split

theorem State.hbNowWrite_keeps {wm : Bool} {s0 s : State} (v : Nat) (hk : Keeps wm s0 s) : Keeps wm s0 (State.hbNowWrite s v) := by
  unfold State.hbNowWrite
  repeat' with_reducible first
    | assumption
    | (extract_lets (onlyGivenNames := true) x; try (refine Keeps.cut (w := wm) (s0 := s0) (x := x) ?_ (fun hx => ?_); on_goal 1 => (unfold x; clear x)))
    | apply Keeps.ite | apply State.wr_keeps | apply State.twinPoll_keeps

theorem execHbNow_keeps {wm : Bool} {s0 s : State} (dt : Nat) (src : Src) (value : Nat) (hk : Keeps wm s0 s) : KeepsR wm s0 (execHbNow dt src value s) := by
  unfold execHbNow
  repeat' with_reducible first
    | assumption
    | (extract_lets (onlyGivenNames := true) x; try (refine Keeps.cut (w := wm) (s0 := s0) (x := x) ?_ (fun hx => ?_); on_goal 1 => (unfold x; clear x)))
    | apply KeepsR.needs | apply State.after_keeps | apply State.swWrite_keeps | apply State.keyed_keeps | apply State.hbNowWrite_keeps | (intro x hx)

theorem State.surrPoll_keeps {wm : Bool} {s0 s : State} (hk : Keeps wm s0 s) : Keeps wm s0 (State.surrPoll s) := by
  unfold State.surrPoll
  repeat' with_reducible first
    | assumption
    | (extract_lets (onlyGivenNames := true) x; try (refine Keeps.cut (w := wm) (s0 := s0) (x := x) ?_ (fun hx => ?_); on_goal 1 => (unfold x; clear x)))
    | apply Keeps.ite | apply State.surrenderNow_keeps

theorem State.twinBoundary_keeps {wm : Bool} {s0 s : State} (hk : Keeps wm s0 s) : Keeps wm s0 (State.twinBoundary s) := by
  unfold State.twinBoundary
  repeat' with_reducible first
    | assumption
    | (extract_lets (onlyGivenNames := true) x; try (refine Keeps.cut (w := wm) (s0 := s0) (x := x) ?_ (fun hx => ?_); on_goal 1 => (unfold x; clear x)))
    | apply Keeps.ite | apply State.hbLeader_keeps | apply State.twinPoll_keeps | apply State.wr_keeps | apply State.sendStatus_keeps
    | apply State.sendTime_keeps

end Sys2Proof.Machine
end

