-- ==== Sys2Proof/Laws/KeepsDuctus.lean ====
section
/-! SUPPORT. Every operation of Machine/Ductus.lean keeps the canonical form, the queue and the fuses. -/

set_option linter.unusedVariables false
set_option linter.tactic.unusedName false
set_option linter.unusedTactic false
set_option linter.unreachableTactic false

namespace Sys2Proof.Machine

theorem State.submitWrite_keeps {wm : Bool} {s0 s : State} (p : Nat) (v : Nat) (hk : Keeps wm s0 s) : Keeps wm s0 (State.submitWrite s p v) := by
  unfold State.submitWrite
  repeat' with_reducible first
    | assumption
    | (extract_lets (onlyGivenNames := true) x; try (refine Keeps.cut (w := wm) (s0 := s0) (x := x) ?_ (fun hx => ?_); on_goal 1 => (unfold x; clear x)))
    | refine Keeps.lit rfl rfl rfl rfl (by assumption) (by assumption) | apply Keeps.ite | apply State.putRaw_keeps

theorem execSubmit_keeps {wm : Bool} {s0 s : State} (dt : Nat) (src : Src) (value : Nat) (hk : Keeps wm s0 s) : KeepsR wm s0 (execSubmit dt src value s) := by
  unfold execSubmit
  repeat' with_reducible first
    | assumption
    | (extract_lets (onlyGivenNames := true) x; try (refine Keeps.cut (w := wm) (s0 := s0) (x := x) ?_ (fun hx => ?_); on_goal 1 => (unfold x; clear x)))
    | apply KeepsR.needs | apply State.after_keeps | apply State.swWrite_keeps | apply State.mirrorWrite_keeps | apply State.submitWrite_keeps
    | (intro x hx) | split

theorem State.releaseDue_keeps {wm : Bool} {s0 s : State} (hk : Keeps wm s0 s) : Keeps wm s0 (State.releaseDue s) := by
  unfold State.releaseDue
  repeat' with_reducible first
    | assumption
    | (extract_lets (onlyGivenNames := true) x; try (refine Keeps.cut (w := wm) (s0 := s0) (x := x) ?_ (fun hx => ?_); on_goal 1 => (unfold x; clear x)))
    | refine Keeps.lit rfl rfl rfl rfl (by assumption) (by assumption) | apply State.trace_keeps | apply State.toReady_keeps
    | (refine Keeps.forEach ?_ ?_; intro a x hx)

theorem execDelayTick_keeps {wm : Bool} {s0 s : State} (hk : Keeps wm s0 s) : KeepsR wm s0 (execDelayTick s) := by
  unfold execDelayTick
  repeat' with_reducible first
    | assumption
    | (extract_lets (onlyGivenNames := true) x; try (refine Keeps.cut (w := wm) (s0 := s0) (x := x) ?_ (fun hx => ?_); on_goal 1 => (unfold x; clear x)))
    | apply Keeps.ite | apply KeepsR.next | apply State.runTo_keeps | apply State.releaseDue_keeps

theorem State.scribeEnds_keeps {wm : Bool} {s0 s : State} (core : Nat) (slot : Nat) (status : Nat) (result : Nat) (hk : Keeps wm s0 s) : Keeps wm s0 (State.scribeEnds s core slot status result) := by
  unfold State.scribeEnds
  repeat' with_reducible first
    | assumption
    | (extract_lets (onlyGivenNames := true) x; try (refine Keeps.cut (w := wm) (s0 := s0) (x := x) ?_ (fun hx => ?_); on_goal 1 => (unfold x; clear x)))
    | refine Keeps.lit rfl rfl rfl rfl (by assumption) (by assumption) | apply State.trace_keeps | apply State.endItem_keeps

theorem execItemEnd_keeps {wm : Bool} {s0 s : State} (dt : Nat) (core : Nat) (result : Nat) (hk : Keeps wm s0 s) : KeepsR wm s0 (execItemEnd dt core result s) := by
  unfold execItemEnd
  repeat' with_reducible first
    | assumption
    | (extract_lets (onlyGivenNames := true) x; try (refine Keeps.cut (w := wm) (s0 := s0) (x := x) ?_ (fun hx => ?_); on_goal 1 => (unfold x; clear x)))
    | apply KeepsR.needs | apply State.after_keeps | apply State.scribeEnds_keeps | split

theorem State.resRead_keeps {wm : Bool} {s0 s : State} (p : Nat) (hk : Keeps wm s0 s) : Keeps wm s0 (State.resRead s p).1 := by
  show KeepsP wm s0 _
  unfold State.resRead
  repeat' with_reducible first
    | assumption
    | (extract_lets (onlyGivenNames := true) x; try (refine Keeps.cut (w := wm) (s0 := s0) (x := x) ?_ (fun hx => ?_); on_goal 1 => (unfold x; clear x)))
    | refine Keeps.lit rfl rfl rfl rfl (by assumption) (by assumption) | apply KeepsP.mk | apply State.putFifo_keeps

theorem execResBRead_keeps {wm : Bool} {s0 s : State} (dt : Nat) (r : Reader) (hk : Keeps wm s0 s) : KeepsR wm s0 (execResBRead dt r s) := by
  unfold execResBRead
  repeat' with_reducible first
    | assumption
    | (extract_lets (onlyGivenNames := true) x; try (refine Keeps.cut (w := wm) (s0 := s0) (x := x) ?_ (fun hx => ?_); on_goal 1 => (unfold x; clear x)))
    | apply KeepsR.needs | apply State.after_keeps | apply State.readAt_keeps | apply State.resRead_keeps | (intro x hx) | split

theorem State.cancelItem_keeps {wm : Bool} {s0 s : State} (n : Nat) (hk : Keeps wm s0 s) : Keeps wm s0 (State.cancelItem s n) := by
  unfold State.cancelItem
  repeat' with_reducible first
    | assumption
    | (extract_lets (onlyGivenNames := true) x; try (refine Keeps.cut (w := wm) (s0 := s0) (x := x) ?_ (fun hx => ?_); on_goal 1 => (unfold x; clear x)))
    | refine Keeps.lit rfl rfl rfl rfl (by assumption) (by assumption) | apply Keeps.ite | apply State.trace_keeps | apply State.putReady_keeps
    | apply State.showLists_keeps | apply State.useFree_keeps | apply State.endItem_keeps | apply State.flag_keeps

theorem State.cancelWrite_keeps {wm : Bool} {s0 s : State} (v : Nat) (hk : Keeps wm s0 s) : Keeps wm s0 (State.cancelWrite s v) := by
  unfold State.cancelWrite
  repeat' with_reducible first
    | assumption
    | (extract_lets (onlyGivenNames := true) x; try (refine Keeps.cut (w := wm) (s0 := s0) (x := x) ?_ (fun hx => ?_); on_goal 1 => (unfold x; clear x)))
    | refine Keeps.lit rfl rfl rfl rfl (by assumption) (by assumption) | apply Keeps.ite | apply State.wr_keeps | apply State.cancelItem_keeps

theorem execCancel_keeps {wm : Bool} {s0 s : State} (dt : Nat) (src : Src) (value : Nat) (hk : Keeps wm s0 s) : KeepsR wm s0 (execCancel dt src value s) := by
  unfold execCancel
  repeat' with_reducible first
    | assumption
    | (extract_lets (onlyGivenNames := true) x; try (refine Keeps.cut (w := wm) (s0 := s0) (x := x) ?_ (fun hx => ?_); on_goal 1 => (unfold x; clear x)))
    | apply KeepsR.needs | apply State.after_keeps | apply State.swWrite_keeps | apply State.mirrorWrite_keeps | apply State.cancelWrite_keeps
    | (intro x hx)

theorem State.clearStats_keeps {wm : Bool} {s0 s : State} (hk : Keeps wm s0 s) : Keeps wm s0 (State.clearStats s) := by
  unfold State.clearStats
  repeat' with_reducible first
    | assumption
    | (extract_lets (onlyGivenNames := true) x; try (refine Keeps.cut (w := wm) (s0 := s0) (x := x) ?_ (fun hx => ?_); on_goal 1 => (unfold x; clear x)))
    | apply State.wr_keeps | apply State.putRaw_keeps | (refine Keeps.forEach ?_ ?_; intro a x hx)

theorem State.obsWrite_keeps {wm : Bool} {s0 s : State} (v : Nat) (hk : Keeps wm s0 s) : Keeps wm s0 (State.obsWrite s v) := by
  unfold State.obsWrite
  repeat' with_reducible first
    | assumption
    | (extract_lets (onlyGivenNames := true) x; try (refine Keeps.cut (w := wm) (s0 := s0) (x := x) ?_ (fun hx => ?_); on_goal 1 => (unfold x; clear x)))
    | refine Keeps.lit rfl rfl rfl rfl (by assumption) (by assumption) | apply Keeps.ite | apply State.wr_keeps | apply State.clearStats_keeps

theorem execObsWrite_keeps {wm : Bool} {s0 s : State} (dt : Nat) (src : Src) (value : Nat) (hk : Keeps wm s0 s) : KeepsR wm s0 (execObsWrite dt src value s) := by
  unfold execObsWrite
  repeat' with_reducible first
    | assumption
    | (extract_lets (onlyGivenNames := true) x; try (refine Keeps.cut (w := wm) (s0 := s0) (x := x) ?_ (fun hx => ?_); on_goal 1 => (unfold x; clear x)))
    | apply KeepsR.needs | apply State.after_keeps | apply State.swWrite_keeps | apply State.mirrorWrite_keeps | apply State.obsWrite_keeps
    | (intro x hx)

end Sys2Proof.Machine
end

