-- ==== Sys2Proof/Laws/KeepsSerif.lean ====
section
/-! SUPPORT. Every operation of Machine/Serif.lean keeps the canonical form, the queue and the fuses. -/

set_option linter.unusedVariables false
set_option linter.tactic.unusedName false
set_option linter.unusedTactic false
set_option linter.unreachableTactic false

namespace Sys2Proof.Machine

theorem State.sfPut_keeps {s0 s : State} (d : Nat) (w : Nat) (v : Nat) (hk : Keeps true s0 s) : Keeps true s0 (State.sfPut s d w v) := by
  unfold State.sfPut
  repeat' with_reducible first
    | assumption | apply State.putMem32_keeps

theorem State.imports_keeps {s0 s : State} (d : Nat) (hk : Keeps true s0 s) : Keeps true s0 (State.imports s d) := by
  unfold State.imports
  repeat' with_reducible first
    | assumption
    | (extract_lets (onlyGivenNames := true) x; try (refine Keeps.cut (w := true) (s0 := s0) (x := x) ?_ (fun hx => ?_); on_goal 1 => (unfold x; clear x)))
    | apply Keeps.ite | apply State.sfPut_keeps | (refine Keeps.forEach ?_ ?_; intro a x hx)

theorem State.startTask_keeps {s0 s : State} (d : Nat) (hk : Keeps true s0 s) : Keeps true s0 (State.startTask s d) := by
  unfold State.startTask
  repeat' with_reducible first
    | assumption
    | (extract_lets (onlyGivenNames := true) x; try (refine Keeps.cut (w := true) (s0 := s0) (x := x) ?_ (fun hx => ?_); on_goal 1 => (unfold x; clear x)))
    | apply State.imports_keeps | apply State.putSerif_keeps | apply State.showSerif_keeps

theorem State.serifsStart_keeps {s0 s : State} (k : Nat) (hk : Keeps true s0 s) : Keeps true s0 (State.serifsStart s k) := by
  unfold State.serifsStart
  repeat' with_reducible first
    | assumption
    | (extract_lets (onlyGivenNames := true) x; try (refine Keeps.cut (w := true) (s0 := s0) (x := x) ?_ (fun hx => ?_); on_goal 1 => (unfold x; clear x)))
    | apply Keeps.ite | apply State.putSerif_keeps | apply State.startTask_keeps | (refine Keeps.forEach ?_ ?_; intro a x hx)

theorem State.coreIdle_keeps {s0 s : State} (d : Nat) (hk : Keeps true s0 s) : Keeps true s0 (State.coreIdle s d) := by
  unfold State.coreIdle
  repeat' with_reducible first
    | assumption
    | (extract_lets (onlyGivenNames := true) x; try (refine Keeps.cut (w := true) (s0 := s0) (x := x) ?_ (fun hx => ?_); on_goal 1 => (unfold x; clear x)))
    | refine Keeps.lit rfl rfl rfl rfl (by assumption) (by assumption) | apply Keeps.ite | apply State.startTask_keeps | apply State.putSerif_keeps
    | apply State.showSerif_keeps

theorem State.itemEnds_keeps {wm : Bool} {s0 s : State} (d : Nat) (task : Nat) (slot : Nat) (status : Nat) (result : Nat) (hk : Keeps wm s0 s) : Keeps wm s0 (State.itemEnds s d task slot status result) := by
  unfold State.itemEnds
  repeat' with_reducible first
    | assumption
    | (extract_lets (onlyGivenNames := true) x; try (refine Keeps.cut (w := wm) (s0 := s0) (x := x) ?_ (fun hx => ?_); on_goal 1 => (unfold x; clear x)))
    | refine Keeps.lit rfl rfl rfl rfl (by assumption) (by assumption) | apply Keeps.ite | apply State.trace_keeps | apply State.endItem_keeps

theorem State.serifFault_keeps {s0 s : State} (d : Nat) (cause : Nat) (fpc : Nat) (hk : Keeps true s0 s) : Keeps true s0 (State.serifFault s d cause fpc) := by
  unfold State.serifFault
  repeat' with_reducible first
    | assumption
    | (extract_lets (onlyGivenNames := true) x; try (refine Keeps.cut (w := true) (s0 := s0) (x := x) ?_ (fun hx => ?_); on_goal 1 => (unfold x; clear x)))
    | apply State.putSerif_keeps | apply State.wr_keeps | apply State.bump_keeps | apply State.flag_keeps | apply State.itemEnds_keeps
    | apply State.coreIdle_keeps | apply State.showSerif_keeps

theorem State.sfTime_keeps {wm : Bool} {s0 s : State} (d : Nat) (slack : Nat) (done : Nat) (hk : Keeps wm s0 s) : Keeps wm s0 (State.sfTime s d slack done) := by
  unfold State.sfTime
  repeat' with_reducible first
    | assumption
    | (extract_lets (onlyGivenNames := true) x; try (refine Keeps.cut (w := wm) (s0 := s0) (x := x) ?_ (fun hx => ?_); on_goal 1 => (unfold x; clear x)))
    | apply State.wr_keeps | apply State.wrU_keeps

theorem State.serifEnd_keeps {s0 s : State} (d : Nat) (hk : Keeps true s0 s) : Keeps true s0 (State.serifEnd s d) := by
  unfold State.serifEnd
  repeat' with_reducible first
    | assumption
    | (extract_lets (onlyGivenNames := true) x; try (refine Keeps.cut (w := true) (s0 := s0) (x := x) ?_ (fun hx => ?_); on_goal 1 => (unfold x; clear x)))
    | apply Keeps.ite | apply State.putSerif_keeps | apply State.sfTime_keeps | apply State.slackReport_keeps | apply State.itemEnds_keeps
    | apply State.coreIdle_keeps | apply State.showSerif_keeps | split

theorem State.exportSlot_keeps {wm : Bool} {s0 s : State} (d : Nat) (n : Nat) (w : List Nat) (hk : Keeps wm s0 s) : Keeps wm s0 (State.exportSlot s d n w) := by
  unfold State.exportSlot
  repeat' with_reducible first
    | assumption
    | (extract_lets (onlyGivenNames := true) x; try (refine Keeps.cut (w := wm) (s0 := s0) (x := x) ?_ (fun hx => ?_); on_goal 1 => (unfold x; clear x)))
    | apply Keeps.ite | apply State.flag_keeps | apply State.putLane_keeps

theorem State.exports_keeps {wm : Bool} {s0 s : State} (d : Nat) (hk : Keeps wm s0 s) : Keeps wm s0 (State.exports s d) := by
  unfold State.exports
  repeat' with_reducible first
    | assumption
    | (extract_lets (onlyGivenNames := true) x; try (refine Keeps.cut (w := wm) (s0 := s0) (x := x) ?_ (fun hx => ?_); on_goal 1 => (unfold x; clear x)))
    | apply Keeps.ite | apply State.exportSlot_keeps | apply State.putApp_keeps | (refine Keeps.forEach ?_ ?_; intro a x hx)

theorem execSerifRelease_keeps {s0 s : State} (d : Nat) (hk : Keeps true s0 s) : KeepsR true s0 (execSerifRelease d s) := by
  unfold execSerifRelease
  repeat' with_reducible first
    | assumption
    | (extract_lets (onlyGivenNames := true) x; try (refine Keeps.cut (w := true) (s0 := s0) (x := x) ?_ (fun hx => ?_); on_goal 1 => (unfold x; clear x)))
    | refine Keeps.lit rfl rfl rfl rfl (by first | assumption | (refine KeepsO.get (by assumption) ?_; apply State.reach_keeps; assumption)) (by first | assumption | (refine KeepsO.get (by assumption) ?_; apply State.reach_keeps; assumption))
    | apply Keeps.ite | apply KeepsR.needs | apply State.putSerif_keeps | apply State.exports_keeps | apply State.sfTime_keeps | apply State.bump_keeps
    | apply State.flag_keeps | apply State.slackReport_keeps | apply State.coreIdle_keeps | apply State.showSerif_keeps | split

theorem State.sfCommitted_keeps {wm : Bool} {s0 s : State} (d : Nat) (hk : Keeps wm s0 s) : Keeps wm s0 (State.sfCommitted s d) := by
  unfold State.sfCommitted
  repeat' with_reducible first
    | assumption
    | (extract_lets (onlyGivenNames := true) x; try (refine Keeps.cut (w := wm) (s0 := s0) (x := x) ?_ (fun hx => ?_); on_goal 1 => (unfold x; clear x)))
    | apply Keeps.ite | apply State.putSerif_keeps | apply State.flag_keeps

theorem execInterruptEntry_keeps {wm : Bool} {s0 s : State} (dt : Nat) (d : Nat) (hk : Keeps wm s0 s) : KeepsR wm s0 (execInterruptEntry dt d s) := by
  unfold execInterruptEntry
  repeat' with_reducible first
    | assumption
    | (extract_lets (onlyGivenNames := true) x; try (refine Keeps.cut (w := wm) (s0 := s0) (x := x) ?_ (fun hx => ?_); on_goal 1 => (unfold x; clear x)))
    | apply Keeps.ite | apply KeepsR.needs | apply State.after_keeps | apply State.putSerif_keeps | apply State.showSerif_keeps

theorem State.sfCtrlWrite_keeps {wm : Bool} {s0 s : State} (d : Nat) (v : Nat) (hk : Keeps wm s0 s) : Keeps wm s0 (State.sfCtrlWrite s d v) := by
  unfold State.sfCtrlWrite
  repeat' with_reducible first
    | assumption
    | (extract_lets (onlyGivenNames := true) x; try (refine Keeps.cut (w := wm) (s0 := s0) (x := x) ?_ (fun hx => ?_); on_goal 1 => (unfold x; clear x)))
    | refine Keeps.lit rfl rfl rfl rfl (by assumption) (by assumption) | apply Keeps.ite | apply State.wr_keeps | apply State.putSerif_keeps
    | apply State.irqPend_keeps | apply State.showSerif_keeps

theorem execDoorbell_keeps {wm : Bool} {s0 s : State} (dt : Nat) (src : Src) (d : Nat) (hk : Keeps wm s0 s) : KeepsR wm s0 (execDoorbell dt src d s) := by
  unfold execDoorbell
  repeat' with_reducible first
    | assumption
    | (extract_lets (onlyGivenNames := true) x; try (refine Keeps.cut (w := wm) (s0 := s0) (x := x) ?_ (fun hx => ?_); on_goal 1 => (unfold x; clear x)))
    | apply KeepsR.needs | apply State.after_keeps | apply State.swWrite_keeps | apply State.sfCtrlWrite_keeps | (intro x hx)

theorem execRun_keeps {wm : Bool} {s0 s : State} (dt : Nat) (src : Src) (d : Nat) (value : Nat) (hk : Keeps wm s0 s) : KeepsR wm s0 (execRun dt src d value s) := by
  unfold execRun
  repeat' with_reducible first
    | assumption
    | (extract_lets (onlyGivenNames := true) x; try (refine Keeps.cut (w := wm) (s0 := s0) (x := x) ?_ (fun hx => ?_); on_goal 1 => (unfold x; clear x)))
    | apply KeepsR.needs | apply State.after_keeps | apply State.swWrite_keeps | apply State.mirrorWrite_keeps | apply State.sfCtrlWrite_keeps
    | (intro x hx)

theorem State.sfTimerWrite_keeps {wm : Bool} {s0 s : State} (d : Nat) (v : Nat) (hk : Keeps wm s0 s) : Keeps wm s0 (State.sfTimerWrite s d v) := by
  unfold State.sfTimerWrite
  repeat' with_reducible first
    | assumption
    | (extract_lets (onlyGivenNames := true) x; try (refine Keeps.cut (w := wm) (s0 := s0) (x := x) ?_ (fun hx => ?_); on_goal 1 => (unfold x; clear x)))
    | apply State.wr_keeps | apply State.putSerif_keeps | apply State.showSerif_keeps

theorem execSfTimerWrite_keeps {wm : Bool} {s0 s : State} (dt : Nat) (src : Src) (d : Nat) (value : Nat) (hk : Keeps wm s0 s) : KeepsR wm s0 (execSfTimerWrite dt src d value s) := by
  unfold execSfTimerWrite
  repeat' with_reducible first
    | assumption
    | (extract_lets (onlyGivenNames := true) x; try (refine Keeps.cut (w := wm) (s0 := s0) (x := x) ?_ (fun hx => ?_); on_goal 1 => (unfold x; clear x)))
    | apply KeepsR.needs | apply State.after_keeps | apply State.swWrite_keeps | apply State.mirrorWrite_keeps | apply State.sfTimerWrite_keeps
    | (intro x hx)

theorem execSfTimerExpire_keeps {wm : Bool} {s0 s : State} (d : Nat) (hk : Keeps wm s0 s) : KeepsR wm s0 (execSfTimerExpire d s) := by
  unfold execSfTimerExpire
  repeat' with_reducible first
    | assumption
    | (extract_lets (onlyGivenNames := true) x; try (refine Keeps.cut (w := wm) (s0 := s0) (x := x) ?_ (fun hx => ?_); on_goal 1 => (unfold x; clear x)))
    | refine Keeps.lit rfl rfl rfl rfl (by first | assumption | (refine KeepsO.get (by assumption) ?_; apply State.reach_keeps; assumption)) (by first | assumption | (refine KeepsO.get (by assumption) ?_; apply State.reach_keeps; assumption))
    | apply Keeps.ite | apply KeepsR.needs | apply State.putSerif_keeps | apply State.irqPend_keeps | apply State.showSerif_keeps | split

theorem execReleaseWarning_keeps {wm : Bool} {s0 s : State} (d : Nat) (hk : Keeps wm s0 s) : KeepsR wm s0 (execReleaseWarning d s) := by
  unfold execReleaseWarning
  repeat' with_reducible first
    | assumption
    | (extract_lets (onlyGivenNames := true) x; try (refine Keeps.cut (w := wm) (s0 := s0) (x := x) ?_ (fun hx => ?_); on_goal 1 => (unfold x; clear x)))
    | refine Keeps.lit rfl rfl rfl rfl (by first | assumption | (refine KeepsO.get (by assumption) ?_; apply State.reach_keeps; assumption)) (by first | assumption | (refine KeepsO.get (by assumption) ?_; apply State.reach_keeps; assumption))
    | apply Keeps.ite | apply KeepsR.needs | apply State.irqPend_keeps | split

theorem State.boundary_keeps {s0 s : State} (d : Nat) (at0 : Nat) (e : SfEff) (hk : Keeps true s0 s) : Keeps true s0 (State.boundary s d at0 e) := by
  unfold State.boundary
  repeat' with_reducible first
    | assumption
    | (extract_lets (onlyGivenNames := true) x; try (refine Keeps.cut (w := true) (s0 := s0) (x := x) ?_ (fun hx => ?_); on_goal 1 => (unfold x; clear x)))
    | apply Keeps.ite | apply State.putSerif_keeps | apply State.irqPend_keeps | apply State.serifFault_keeps | apply State.showSerif_keeps
    | apply State.coreIdle_keeps

theorem State.serifRunOne_keeps {s0 s : State} (d : Nat) (word : Nat) (mask : Nat) (body : State → Serif → SfEff) (hk : Keeps true s0 s) : Keeps true s0 (State.serifRunOne s d word mask body) := by
  unfold State.serifRunOne
  repeat' with_reducible first
    | assumption
    | (extract_lets (onlyGivenNames := true) x; try (refine Keeps.cut (w := true) (s0 := s0) (x := x) ?_ (fun hx => ?_); on_goal 1 => (unfold x; clear x)))
    | apply Keeps.ite | apply State.sfPut_keeps | apply State.serifFault_keeps | apply State.boundary_keeps | split

theorem State.serifOp_keeps {s0 s : State} (d : Nat) (word : Nat) (body : State → Serif → SfEff) (hk : Keeps true s0 s) : Keeps true s0 (State.serifOp s d word body) := by
  unfold State.serifOp
  repeat' with_reducible first
    | assumption | apply State.serifRunOne_keeps

theorem State.serifArith_keeps {s0 s : State} (d : Nat) (op : Nat) (fd : Nat) (fa : Nat) (fb : Nat) (fc : Nat) (f : Nat → Nat → Nat → Nat → Nat × Nat) (hk : Keeps true s0 s) : Keeps true s0 (State.serifArith s d op fd fa fb fc f) := by
  unfold State.serifArith
  repeat' with_reducible first
    | assumption | apply State.serifOp_keeps

theorem execNop_keeps {s0 s : State} (dt : Nat) (d : Nat) (n : Nat) (hk : Keeps true s0 s) : KeepsR true s0 (execNop dt d n s) := by
  unfold execNop
  repeat' with_reducible first
    | assumption
    | (extract_lets (onlyGivenNames := true) x; try (refine Keeps.cut (w := true) (s0 := s0) (x := x) ?_ (fun hx => ?_); on_goal 1 => (unfold x; clear x)))
    | apply KeepsR.needs | apply State.after_keeps | apply State.serifOp_keeps

theorem execEndTask_keeps {s0 s : State} (dt : Nat) (d : Nat) (n : Nat) (hk : Keeps true s0 s) : KeepsR true s0 (execEndTask dt d n s) := by
  unfold execEndTask
  repeat' with_reducible first
    | assumption
    | (extract_lets (onlyGivenNames := true) x; try (refine Keeps.cut (w := true) (s0 := s0) (x := x) ?_ (fun hx => ?_); on_goal 1 => (unfold x; clear x)))
    | apply Keeps.ite | apply KeepsR.needs | apply State.after_keeps | apply State.serifEnd_keeps

theorem execReti_keeps {s0 s : State} (dt : Nat) (d : Nat) (n : Nat) (hk : Keeps true s0 s) : KeepsR true s0 (execReti dt d n s) := by
  unfold execReti
  repeat' with_reducible first
    | assumption
    | (extract_lets (onlyGivenNames := true) x; try (refine Keeps.cut (w := true) (s0 := s0) (x := x) ?_ (fun hx => ?_); on_goal 1 => (unfold x; clear x)))
    | apply KeepsR.needs | apply State.after_keeps | apply State.serifOp_keeps

theorem execSwi_keeps {s0 s : State} (dt : Nat) (d : Nat) (n : Nat) (hk : Keeps true s0 s) : KeepsR true s0 (execSwi dt d n s) := by
  unfold execSwi
  repeat' with_reducible first
    | assumption
    | (extract_lets (onlyGivenNames := true) x; try (refine Keeps.cut (w := true) (s0 := s0) (x := x) ?_ (fun hx => ?_); on_goal 1 => (unfold x; clear x)))
    | apply Keeps.ite | apply KeepsR.needs | apply State.after_keeps | apply State.irqPend_keeps | apply State.boundary_keeps

theorem execBr_keeps {s0 s : State} (dt : Nat) (d : Nat) (cond : Nat) (target : Nat) (hk : Keeps true s0 s) : KeepsR true s0 (execBr dt d cond target s) := by
  unfold execBr
  repeat' with_reducible first
    | assumption
    | (extract_lets (onlyGivenNames := true) x; try (refine Keeps.cut (w := true) (s0 := s0) (x := x) ?_ (fun hx => ?_); on_goal 1 => (unfold x; clear x)))
    | apply KeepsR.needs | apply State.after_keeps | apply State.serifOp_keeps

theorem execCall_keeps {s0 s : State} (dt : Nat) (d : Nat) (target : Nat) (hk : Keeps true s0 s) : KeepsR true s0 (execCall dt d target s) := by
  unfold execCall
  repeat' with_reducible first
    | assumption
    | (extract_lets (onlyGivenNames := true) x; try (refine Keeps.cut (w := true) (s0 := s0) (x := x) ?_ (fun hx => ?_); on_goal 1 => (unfold x; clear x)))
    | apply KeepsR.needs | apply State.after_keeps | apply State.serifRunOne_keeps

theorem execRet_keeps {s0 s : State} (dt : Nat) (d : Nat) (n : Nat) (hk : Keeps true s0 s) : KeepsR true s0 (execRet dt d n s) := by
  unfold execRet
  repeat' with_reducible first
    | assumption
    | (extract_lets (onlyGivenNames := true) x; try (refine Keeps.cut (w := true) (s0 := s0) (x := x) ?_ (fun hx => ?_); on_goal 1 => (unfold x; clear x)))
    | apply KeepsR.needs | apply State.after_keeps | apply State.serifOp_keeps

theorem execLoop_keeps {s0 s : State} (dt : Nat) (d : Nat) (immf : Nat) (rotf : Nat) (cnt : Nat) (last : Nat) (hk : Keeps true s0 s) : KeepsR true s0 (execLoop dt d immf rotf cnt last s) := by
  unfold execLoop
  repeat' with_reducible first
    | assumption
    | (extract_lets (onlyGivenNames := true) x; try (refine Keeps.cut (w := true) (s0 := s0) (x := x) ?_ (fun hx => ?_); on_goal 1 => (unfold x; clear x)))
    | apply KeepsR.needs | apply State.after_keeps | apply State.serifOp_keeps

theorem execLpop_keeps {s0 s : State} (dt : Nat) (d : Nat) (n : Nat) (hk : Keeps true s0 s) : KeepsR true s0 (execLpop dt d n s) := by
  unfold execLpop
  repeat' with_reducible first
    | assumption
    | (extract_lets (onlyGivenNames := true) x; try (refine Keeps.cut (w := true) (s0 := s0) (x := x) ?_ (fun hx => ?_); on_goal 1 => (unfold x; clear x)))
    | apply KeepsR.needs | apply State.after_keeps | apply State.serifOp_keeps

theorem execMvs_keeps {s0 s : State} (dt : Nat) (d : Nat) (f : Nat) (sp : Nat) (hk : Keeps true s0 s) : KeepsR true s0 (execMvs dt d f sp s) := by
  unfold execMvs
  repeat' with_reducible first
    | assumption
    | (extract_lets (onlyGivenNames := true) x; try (refine Keeps.cut (w := true) (s0 := s0) (x := x) ?_ (fun hx => ?_); on_goal 1 => (unfold x; clear x)))
    | apply KeepsR.needs | apply State.after_keeps | apply State.serifOp_keeps

theorem execMvd_keeps {s0 s : State} (dt : Nat) (d : Nat) (f : Nat) (sp : Nat) (hk : Keeps true s0 s) : KeepsR true s0 (execMvd dt d f sp s) := by
  unfold execMvd
  repeat' with_reducible first
    | assumption
    | (extract_lets (onlyGivenNames := true) x; try (refine Keeps.cut (w := true) (s0 := s0) (x := x) ?_ (fun hx => ?_); on_goal 1 => (unfold x; clear x)))
    | apply KeepsR.needs | apply State.after_keeps | apply State.serifOp_keeps

theorem execAda_keeps {s0 s : State} (dt : Nat) (d : Nat) (ax : Nat) (ay : Nat) (imm : Nat) (hk : Keeps true s0 s) : KeepsR true s0 (execAda dt d ax ay imm s) := by
  unfold execAda
  repeat' with_reducible first
    | assumption
    | (extract_lets (onlyGivenNames := true) x; try (refine Keeps.cut (w := true) (s0 := s0) (x := x) ?_ (fun hx => ?_); on_goal 1 => (unfold x; clear x)))
    | apply KeepsR.needs | apply State.after_keeps | apply State.serifOp_keeps

theorem execMvaf_keeps {s0 s : State} (dt : Nat) (d : Nat) (fd : Nat) (fa : Nat) (fb : Nat) (fc : Nat) (hk : Keeps true s0 s) : KeepsR true s0 (execMvaf dt d fd fa fb fc s) := by
  unfold execMvaf
  repeat' with_reducible first
    | assumption
    | (extract_lets (onlyGivenNames := true) x; try (refine Keeps.cut (w := true) (s0 := s0) (x := x) ?_ (fun hx => ?_); on_goal 1 => (unfold x; clear x)))
    | apply KeepsR.needs | apply State.after_keeps | apply State.serifOp_keeps

theorem execMvfa_keeps {s0 s : State} (dt : Nat) (d : Nat) (fd : Nat) (fa : Nat) (fb : Nat) (fc : Nat) (hk : Keeps true s0 s) : KeepsR true s0 (execMvfa dt d fd fa fb fc s) := by
  unfold execMvfa
  repeat' with_reducible first
    | assumption
    | (extract_lets (onlyGivenNames := true) x; try (refine Keeps.cut (w := true) (s0 := s0) (x := x) ?_ (fun hx => ?_); on_goal 1 => (unfold x; clear x)))
    | apply KeepsR.needs | apply State.after_keeps | apply State.serifOp_keeps

theorem execFadd_keeps {s0 s : State} (dt : Nat) (d : Nat) (fd : Nat) (fa : Nat) (fb : Nat) (fc : Nat) (hk : Keeps true s0 s) : KeepsR true s0 (execFadd dt d fd fa fb fc s) := by
  unfold execFadd
  repeat' with_reducible first
    | assumption
    | (extract_lets (onlyGivenNames := true) x; try (refine Keeps.cut (w := true) (s0 := s0) (x := x) ?_ (fun hx => ?_); on_goal 1 => (unfold x; clear x)))
    | apply KeepsR.needs | apply State.after_keeps | apply State.serifArith_keeps

theorem execFsub_keeps {s0 s : State} (dt : Nat) (d : Nat) (fd : Nat) (fa : Nat) (fb : Nat) (fc : Nat) (hk : Keeps true s0 s) : KeepsR true s0 (execFsub dt d fd fa fb fc s) := by
  unfold execFsub
  repeat' with_reducible first
    | assumption
    | (extract_lets (onlyGivenNames := true) x; try (refine Keeps.cut (w := true) (s0 := s0) (x := x) ?_ (fun hx => ?_); on_goal 1 => (unfold x; clear x)))
    | apply KeepsR.needs | apply State.after_keeps | apply State.serifArith_keeps

theorem execFmul_keeps {s0 s : State} (dt : Nat) (d : Nat) (fd : Nat) (fa : Nat) (fb : Nat) (fc : Nat) (hk : Keeps true s0 s) : KeepsR true s0 (execFmul dt d fd fa fb fc s) := by
  unfold execFmul
  repeat' with_reducible first
    | assumption
    | (extract_lets (onlyGivenNames := true) x; try (refine Keeps.cut (w := true) (s0 := s0) (x := x) ?_ (fun hx => ?_); on_goal 1 => (unfold x; clear x)))
    | apply KeepsR.needs | apply State.after_keeps | apply State.serifArith_keeps

theorem execFma_keeps {s0 s : State} (dt : Nat) (d : Nat) (fd : Nat) (fa : Nat) (fb : Nat) (fc : Nat) (hk : Keeps true s0 s) : KeepsR true s0 (execFma dt d fd fa fb fc s) := by
  unfold execFma
  repeat' with_reducible first
    | assumption
    | (extract_lets (onlyGivenNames := true) x; try (refine Keeps.cut (w := true) (s0 := s0) (x := x) ?_ (fun hx => ?_); on_goal 1 => (unfold x; clear x)))
    | apply KeepsR.needs | apply State.after_keeps | apply State.serifArith_keeps

theorem execMac_keeps {s0 s : State} (dt : Nat) (d : Nat) (fd : Nat) (fa : Nat) (fb : Nat) (fc : Nat) (hk : Keeps true s0 s) : KeepsR true s0 (execMac dt d fd fa fb fc s) := by
  unfold execMac
  repeat' with_reducible first
    | assumption
    | (extract_lets (onlyGivenNames := true) x; try (refine Keeps.cut (w := true) (s0 := s0) (x := x) ?_ (fun hx => ?_); on_goal 1 => (unfold x; clear x)))
    | apply KeepsR.needs | apply State.after_keeps | apply State.serifArith_keeps

theorem execMsub_keeps {s0 s : State} (dt : Nat) (d : Nat) (fd : Nat) (fa : Nat) (fb : Nat) (fc : Nat) (hk : Keeps true s0 s) : KeepsR true s0 (execMsub dt d fd fa fb fc s) := by
  unfold execMsub
  repeat' with_reducible first
    | assumption
    | (extract_lets (onlyGivenNames := true) x; try (refine Keeps.cut (w := true) (s0 := s0) (x := x) ?_ (fun hx => ?_); on_goal 1 => (unfold x; clear x)))
    | apply KeepsR.needs | apply State.after_keeps | apply State.serifArith_keeps

theorem execFmin_keeps {s0 s : State} (dt : Nat) (d : Nat) (fd : Nat) (fa : Nat) (fb : Nat) (fc : Nat) (hk : Keeps true s0 s) : KeepsR true s0 (execFmin dt d fd fa fb fc s) := by
  unfold execFmin
  repeat' with_reducible first
    | assumption
    | (extract_lets (onlyGivenNames := true) x; try (refine Keeps.cut (w := true) (s0 := s0) (x := x) ?_ (fun hx => ?_); on_goal 1 => (unfold x; clear x)))
    | apply KeepsR.needs | apply State.after_keeps | apply State.serifArith_keeps

theorem execFmax_keeps {s0 s : State} (dt : Nat) (d : Nat) (fd : Nat) (fa : Nat) (fb : Nat) (fc : Nat) (hk : Keeps true s0 s) : KeepsR true s0 (execFmax dt d fd fa fb fc s) := by
  unfold execFmax
  repeat' with_reducible first
    | assumption
    | (extract_lets (onlyGivenNames := true) x; try (refine Keeps.cut (w := true) (s0 := s0) (x := x) ?_ (fun hx => ?_); on_goal 1 => (unfold x; clear x)))
    | apply KeepsR.needs | apply State.after_keeps | apply State.serifArith_keeps

theorem execFabs_keeps {s0 s : State} (dt : Nat) (d : Nat) (fd : Nat) (fa : Nat) (fb : Nat) (fc : Nat) (hk : Keeps true s0 s) : KeepsR true s0 (execFabs dt d fd fa fb fc s) := by
  unfold execFabs
  repeat' with_reducible first
    | assumption
    | (extract_lets (onlyGivenNames := true) x; try (refine Keeps.cut (w := true) (s0 := s0) (x := x) ?_ (fun hx => ?_); on_goal 1 => (unfold x; clear x)))
    | apply KeepsR.needs | apply State.after_keeps | apply State.serifArith_keeps

theorem execFneg_keeps {s0 s : State} (dt : Nat) (d : Nat) (fd : Nat) (fa : Nat) (fb : Nat) (fc : Nat) (hk : Keeps true s0 s) : KeepsR true s0 (execFneg dt d fd fa fb fc s) := by
  unfold execFneg
  repeat' with_reducible first
    | assumption
    | (extract_lets (onlyGivenNames := true) x; try (refine Keeps.cut (w := true) (s0 := s0) (x := x) ?_ (fun hx => ?_); on_goal 1 => (unfold x; clear x)))
    | apply KeepsR.needs | apply State.after_keeps | apply State.serifArith_keeps

theorem execFcmp_keeps {s0 s : State} (dt : Nat) (d : Nat) (fd : Nat) (fa : Nat) (fb : Nat) (fc : Nat) (hk : Keeps true s0 s) : KeepsR true s0 (execFcmp dt d fd fa fb fc s) := by
  unfold execFcmp
  repeat' with_reducible first
    | assumption
    | (extract_lets (onlyGivenNames := true) x; try (refine Keeps.cut (w := true) (s0 := s0) (x := x) ?_ (fun hx => ?_); on_goal 1 => (unfold x; clear x)))
    | apply KeepsR.needs | apply State.after_keeps | apply State.serifOp_keeps

theorem execClamp_keeps {s0 s : State} (dt : Nat) (d : Nat) (fd : Nat) (fa : Nat) (fb : Nat) (fc : Nat) (hk : Keeps true s0 s) : KeepsR true s0 (execClamp dt d fd fa fb fc s) := by
  unfold execClamp
  repeat' with_reducible first
    | assumption
    | (extract_lets (onlyGivenNames := true) x; try (refine Keeps.cut (w := true) (s0 := s0) (x := x) ?_ (fun hx => ?_); on_goal 1 => (unfold x; clear x)))
    | apply KeepsR.needs | apply State.after_keeps | apply State.serifArith_keeps

theorem execRcp_keeps {s0 s : State} (dt : Nat) (d : Nat) (fd : Nat) (fa : Nat) (fb : Nat) (fc : Nat) (hk : Keeps true s0 s) : KeepsR true s0 (execRcp dt d fd fa fb fc s) := by
  unfold execRcp
  repeat' with_reducible first
    | assumption
    | (extract_lets (onlyGivenNames := true) x; try (refine Keeps.cut (w := true) (s0 := s0) (x := x) ?_ (fun hx => ?_); on_goal 1 => (unfold x; clear x)))
    | apply KeepsR.needs | apply State.after_keeps | apply State.serifArith_keeps

theorem execRsq_keeps {s0 s : State} (dt : Nat) (d : Nat) (fd : Nat) (fa : Nat) (fb : Nat) (fc : Nat) (hk : Keeps true s0 s) : KeepsR true s0 (execRsq dt d fd fa fb fc s) := by
  unfold execRsq
  repeat' with_reducible first
    | assumption
    | (extract_lets (onlyGivenNames := true) x; try (refine Keeps.cut (w := true) (s0 := s0) (x := x) ?_ (fun hx => ?_); on_goal 1 => (unfold x; clear x)))
    | apply KeepsR.needs | apply State.after_keeps | apply State.serifArith_keeps

theorem execItof_keeps {s0 s : State} (dt : Nat) (d : Nat) (fd : Nat) (fa : Nat) (fb : Nat) (fc : Nat) (hk : Keeps true s0 s) : KeepsR true s0 (execItof dt d fd fa fb fc s) := by
  unfold execItof
  repeat' with_reducible first
    | assumption
    | (extract_lets (onlyGivenNames := true) x; try (refine Keeps.cut (w := true) (s0 := s0) (x := x) ?_ (fun hx => ?_); on_goal 1 => (unfold x; clear x)))
    | apply KeepsR.needs | apply State.after_keeps | apply State.serifArith_keeps

theorem execFtoi_keeps {s0 s : State} (dt : Nat) (d : Nat) (fd : Nat) (fa : Nat) (fb : Nat) (fc : Nat) (hk : Keeps true s0 s) : KeepsR true s0 (execFtoi dt d fd fa fb fc s) := by
  unfold execFtoi
  repeat' with_reducible first
    | assumption
    | (extract_lets (onlyGivenNames := true) x; try (refine Keeps.cut (w := true) (s0 := s0) (x := x) ?_ (fun hx => ?_); on_goal 1 => (unfold x; clear x)))
    | apply KeepsR.needs | apply State.after_keeps | apply State.serifArith_keeps

theorem execLd_keeps {s0 s : State} (dt : Nat) (d : Nat) (f : Nat) (a : Nat) (pm : Nat) (imm : Nat) (hk : Keeps true s0 s) : KeepsR true s0 (execLd dt d f a pm imm s) := by
  unfold execLd
  repeat' with_reducible first
    | assumption
    | (extract_lets (onlyGivenNames := true) x; try (refine Keeps.cut (w := true) (s0 := s0) (x := x) ?_ (fun hx => ?_); on_goal 1 => (unfold x; clear x)))
    | apply KeepsR.needs | apply State.after_keeps | apply State.serifOp_keeps

theorem execSt_keeps {s0 s : State} (dt : Nat) (d : Nat) (f : Nat) (a : Nat) (pm : Nat) (imm : Nat) (hk : Keeps true s0 s) : KeepsR true s0 (execSt dt d f a pm imm s) := by
  unfold execSt
  repeat' with_reducible first
    | assumption
    | (extract_lets (onlyGivenNames := true) x; try (refine Keeps.cut (w := true) (s0 := s0) (x := x) ?_ (fun hx => ?_); on_goal 1 => (unfold x; clear x)))
    | apply KeepsR.needs | apply State.after_keeps | apply State.serifOp_keeps

theorem execLdi_keeps {s0 s : State} (dt : Nat) (d : Nat) (f : Nat) (imm : Nat) (hk : Keeps true s0 s) : KeepsR true s0 (execLdi dt d f imm s) := by
  unfold execLdi
  repeat' with_reducible first
    | assumption
    | (extract_lets (onlyGivenNames := true) x; try (refine Keeps.cut (w := true) (s0 := s0) (x := x) ?_ (fun hx => ?_); on_goal 1 => (unfold x; clear x)))
    | apply KeepsR.needs | apply State.after_keeps | apply State.serifOp_keeps

theorem execTapm_keeps {s0 s : State} (dt : Nat) (d : Nat) (fd : Nat) (fc : Nat) (a : Nat) (hk : Keeps true s0 s) : KeepsR true s0 (execTapm dt d fd fc a s) := by
  unfold execTapm
  repeat' with_reducible first
    | assumption
    | (extract_lets (onlyGivenNames := true) x; try (refine Keeps.cut (w := true) (s0 := s0) (x := x) ?_ (fun hx => ?_); on_goal 1 => (unfold x; clear x)))
    | apply KeepsR.needs | apply State.after_keeps | apply State.serifOp_keeps

theorem execLdst_keeps {s0 s : State} (dt : Nat) (d : Nat) (fd : Nat) (fb : Nat) (ax : Nat) (ay : Nat) (sx_ : Nat) (sy : Nat) (hk : Keeps true s0 s) : KeepsR true s0 (execLdst dt d fd fb ax ay sx_ sy s) := by
  unfold execLdst
  repeat' with_reducible first
    | assumption
    | (extract_lets (onlyGivenNames := true) x; try (refine Keeps.cut (w := true) (s0 := s0) (x := x) ?_ (fun hx => ?_); on_goal 1 => (unfold x; clear x)))
    | apply KeepsR.needs | apply State.after_keeps | apply State.serifOp_keeps

theorem execIllegalInstruction_keeps {s0 s : State} (dt : Nat) (d : Nat) (hk : Keeps true s0 s) : KeepsR true s0 (execIllegalInstruction dt d s) := by
  unfold execIllegalInstruction
  repeat' with_reducible first
    | assumption
    | (extract_lets (onlyGivenNames := true) x; try (refine Keeps.cut (w := true) (s0 := s0) (x := x) ?_ (fun hx => ?_); on_goal 1 => (unfold x; clear x)))
    | apply Keeps.ite | apply KeepsR.needs | apply State.after_keeps | apply State.serifFault_keeps

end Sys2Proof.Machine
end

