-- ==== Sys2Proof/Laws/KeepsInkwell.lean ====
section
/-! SUPPORT. Every operation of Machine/Inkwell.lean keeps the canonical form, the queue and the fuses. -/

set_option linter.unusedVariables false
set_option linter.tactic.unusedName false
set_option linter.unusedTactic false
set_option linter.unreachableTactic false

namespace Sys2Proof.Machine

theorem State.inkArm_keeps {s0 s : State} (hk : Keeps true s0 s) : Keeps true s0 (State.inkArm s) := by
  unfold State.inkArm
  repeat' with_reducible first
    | assumption
    | (extract_lets (onlyGivenNames := true) x; try (refine Keeps.cut (w := true) (s0 := s0) (x := x) ?_ (fun hx => ?_); on_goal 1 => (unfold x; clear x)))
    | refine Keeps.lit rfl rfl rfl rfl (by assumption) (by assumption) | apply State.keepMem_keeps | apply State.putRaw_keeps | apply State.wr_keeps

theorem State.inkHalt_keeps {wm : Bool} {s0 s : State} (hk : Keeps wm s0 s) : Keeps wm s0 (State.inkHalt s) := by
  unfold State.inkHalt
  repeat' with_reducible first
    | assumption
    | (extract_lets (onlyGivenNames := true) x; try (refine Keeps.cut (w := wm) (s0 := s0) (x := x) ?_ (fun hx => ?_); on_goal 1 => (unfold x; clear x)))
    | apply Keeps.ite | apply State.wr_keeps

theorem State.inkTrig_keeps {wm : Bool} {s0 s : State} (hk : Keeps wm s0 s) : Keeps wm s0 (State.inkTrig s) := by
  unfold State.inkTrig
  repeat' with_reducible first
    | assumption
    | (extract_lets (onlyGivenNames := true) x; try (refine Keeps.cut (w := wm) (s0 := s0) (x := x) ?_ (fun hx => ?_); on_goal 1 => (unfold x; clear x)))
    | refine Keeps.lit rfl rfl rfl rfl (by assumption) (by assumption) | apply Keeps.ite | apply State.wr_keeps

theorem State.inkCtrlWrite_keeps {s0 s : State} (v : Nat) (hk : Keeps true s0 s) : Keeps true s0 (State.inkCtrlWrite s v) := by
  unfold State.inkCtrlWrite
  repeat' with_reducible first
    | assumption
    | (extract_lets (onlyGivenNames := true) x; try (refine Keeps.cut (w := true) (s0 := s0) (x := x) ?_ (fun hx => ?_); on_goal 1 => (unfold x; clear x)))
    | apply Keeps.ite | apply State.putRaw_keeps | apply State.wr_keeps | apply State.inkArm_keeps | apply State.inkHalt_keeps
    | apply State.inkTrig_keeps

theorem execArm_keeps {s0 s : State} (dt : Nat) (src : Src) (hk : Keeps true s0 s) : KeepsR true s0 (execArm dt src s) := by
  unfold execArm
  repeat' with_reducible first
    | assumption
    | (extract_lets (onlyGivenNames := true) x; try (refine Keeps.cut (w := true) (s0 := s0) (x := x) ?_ (fun hx => ?_); on_goal 1 => (unfold x; clear x)))
    | apply KeepsR.next | apply State.after_keeps | apply State.swWrite_keeps | apply State.inkArm_keeps

theorem execInkStop_keeps {wm : Bool} {s0 s : State} (dt : Nat) (src : Src) (hk : Keeps wm s0 s) : KeepsR wm s0 (execInkStop dt src s) := by
  unfold execInkStop
  repeat' with_reducible first
    | assumption
    | (extract_lets (onlyGivenNames := true) x; try (refine Keeps.cut (w := wm) (s0 := s0) (x := x) ?_ (fun hx => ?_); on_goal 1 => (unfold x; clear x)))
    | apply KeepsR.next | apply State.after_keeps | apply State.swWrite_keeps | apply State.inkHalt_keeps

theorem execTrig_keeps {wm : Bool} {s0 s : State} (dt : Nat) (src : Src) (hk : Keeps wm s0 s) : KeepsR wm s0 (execTrig dt src s) := by
  unfold execTrig
  repeat' with_reducible first
    | assumption
    | (extract_lets (onlyGivenNames := true) x; try (refine Keeps.cut (w := wm) (s0 := s0) (x := x) ?_ (fun hx => ?_); on_goal 1 => (unfold x; clear x)))
    | apply KeepsR.next | apply State.after_keeps | apply State.swWrite_keeps | apply State.inkTrig_keeps

theorem State.inkDone_keeps {wm : Bool} {s0 s : State} (hk : Keeps wm s0 s) : Keeps wm s0 (State.inkDone s) := by
  unfold State.inkDone
  repeat' with_reducible first
    | assumption
    | (extract_lets (onlyGivenNames := true) x; try (refine Keeps.cut (w := wm) (s0 := s0) (x := x) ?_ (fun hx => ?_); on_goal 1 => (unfold x; clear x)))
    | apply State.wr_keeps | apply State.raiseInt_keeps

theorem State.inkFire_keeps {wm : Bool} {s0 s : State} (k : Inkwell) (hk : Keeps wm s0 s) : Keeps wm s0 (State.inkFire s k) := by
  unfold State.inkFire
  repeat' with_reducible first
    | assumption
    | (extract_lets (onlyGivenNames := true) x; try (refine Keeps.cut (w := wm) (s0 := s0) (x := x) ?_ (fun hx => ?_); on_goal 1 => (unfold x; clear x)))
    | refine Keeps.lit rfl rfl rfl rfl (by assumption) (by assumption) | apply Keeps.ite | apply State.wr_keeps

theorem State.inkRow_keeps {s0 s : State} (hk : Keeps true s0 s) : Keeps true s0 (State.inkRow s) := by
  unfold State.inkRow
  repeat' with_reducible first
    | assumption
    | (extract_lets (onlyGivenNames := true) x; try (refine Keeps.cut (w := true) (s0 := s0) (x := x) ?_ (fun hx => ?_); on_goal 1 => (unfold x; clear x)))
    | refine Keeps.lit rfl rfl rfl rfl (by assumption) (by assumption) | apply Keeps.ite | apply State.inkDone_keeps | apply State.putBytes_keeps
    | apply State.wr_keeps | apply State.inkFire_keeps | split

theorem State.inkPhase_keeps {s0 s : State} (g : Nat) (hk : Keeps true s0 s) : Keeps true s0 (State.inkPhase s g) := by
  unfold State.inkPhase
  repeat' with_reducible first
    | assumption
    | (extract_lets (onlyGivenNames := true) x; try (refine Keeps.cut (w := true) (s0 := s0) (x := x) ?_ (fun hx => ?_); on_goal 1 => (unfold x; clear x)))
    | refine Keeps.lit rfl rfl rfl rfl (by assumption) (by assumption) | apply Keeps.ite | apply State.inkRow_keeps

theorem execCaptureEdge_keeps {wm : Bool} {s0 s : State} (dt : Nat) (i : Nat) (rising : Bool) (hk : Keeps wm s0 s) : KeepsR wm s0 (execCaptureEdge dt i rising s) := by
  unfold execCaptureEdge
  repeat' with_reducible first
    | assumption
    | (extract_lets (onlyGivenNames := true) x; try (refine Keeps.cut (w := wm) (s0 := s0) (x := x) ?_ (fun hx => ?_); on_goal 1 => (unfold x; clear x)))
    | apply Keeps.ite | apply KeepsR.needs | apply State.after_keeps | apply State.capPush_keeps | apply State.capTriggers_keeps
    | apply State.irqSel_keeps

end Sys2Proof.Machine
end

