-- ==== Sys2Proof/Laws/KeepsVerdicts.lean ====
section
/-! SUPPORT. Every operation of Machine/Verdicts.lean keeps the canonical form, the queue and the fuses. -/

set_option linter.unusedVariables false
set_option linter.tactic.unusedName false
set_option linter.unusedTactic false
set_option linter.unreachableTactic false

namespace Sys2Proof.Machine

theorem State.moveChan_keeps {wm : Bool} {s0 s : State} (k : Nat) (p : Nat) (hk : Keeps wm s0 s) : Keeps wm s0 (State.moveChan s k p) := by
  unfold State.moveChan
  repeat' with_reducible first
    | assumption
    | (extract_lets (onlyGivenNames := true) x; try (refine Keeps.cut (w := wm) (s0 := s0) (x := x) ?_ (fun hx => ?_); on_goal 1 => (unfold x; clear x)))
    | refine Keeps.lit rfl rfl rfl rfl (by assumption) (by assumption) | apply State.bringIn_keeps

theorem State.chanRetired_keeps {wm : Bool} {s0 s : State} (p : Nat) (hk : Keeps wm s0 s) : Keeps wm s0 (State.chanRetired s p) := by
  unfold State.chanRetired
  repeat' with_reducible first
    | assumption
    | (extract_lets (onlyGivenNames := true) x; try (refine Keeps.cut (w := wm) (s0 := s0) (x := x) ?_ (fun hx => ?_); on_goal 1 => (unfold x; clear x)))
    | refine Keeps.lit rfl rfl rfl rfl (by assumption) (by assumption) | apply State.moveChan_keeps | apply State.flag_keeps | apply State.wr_keeps
    | apply State.homeFbFault_keeps | (refine Keeps.forEach ?_ ?_; intro a x hx) | split

theorem State.retire_keeps {wm : Bool} {s0 s : State} (r : TestReq) (hk : Keeps wm s0 s) : Keeps wm s0 (State.retire s r) := by
  unfold State.retire
  repeat' with_reducible first
    | assumption
    | (extract_lets (onlyGivenNames := true) x; try (refine Keeps.cut (w := wm) (s0 := s0) (x := x) ?_ (fun hx => ?_); on_goal 1 => (unfold x; clear x)))
    | refine Keeps.lit rfl rfl rfl rfl (by assumption) (by assumption) | apply Keeps.ite | apply State.wr_keeps | apply State.flag_keeps
    | apply State.showSerif_keeps | apply State.mgnCause_keeps | apply State.chanRetired_keeps | split

theorem State.unitReturns_keeps {wm : Bool} {s0 s : State} (r : TestReq) (hk : Keeps wm s0 s) : Keeps wm s0 (State.unitReturns s r) := by
  unfold State.unitReturns
  repeat' with_reducible first
    | assumption
    | (extract_lets (onlyGivenNames := true) x; try (refine Keeps.cut (w := wm) (s0 := s0) (x := x) ?_ (fun hx => ?_); on_goal 1 => (unfold x; clear x)))
    | refine Keeps.lit rfl rfl rfl rfl (by assumption) (by assumption) | apply Keeps.ite | apply State.bump_keeps | apply State.showSerif_keeps | split

theorem State.verdict_keeps {wm : Bool} {s0 s : State} (r : TestReq) (v : Nat) (hk : Keeps wm s0 s) : Keeps wm s0 (State.verdict s r v) := by
  unfold State.verdict
  repeat' with_reducible first
    | assumption
    | (extract_lets (onlyGivenNames := true) x; try (refine Keeps.cut (w := wm) (s0 := s0) (x := x) ?_ (fun hx => ?_); on_goal 1 => (unfold x; clear x)))
    | apply Keeps.ite | apply State.putRaw_keeps | apply State.wr_keeps | apply State.journalAs_keeps | apply State.unitReturns_keeps
    | apply State.flag_keeps | apply State.retire_keeps

theorem State.testEnds_keeps {wm : Bool} {s0 s : State} (r : TestReq) (pass : Bool) (hk : Keeps wm s0 s) : Keeps wm s0 (State.testEnds s r pass) := by
  unfold State.testEnds
  repeat' with_reducible first
    | assumption
    | (extract_lets (onlyGivenNames := true) x; try (refine Keeps.cut (w := wm) (s0 := s0) (x := x) ?_ (fun hx => ?_); on_goal 1 => (unfold x; clear x)))
    | refine Keeps.lit rfl rfl rfl rfl (by assumption) (by assumption) | apply Keeps.ite | apply State.wr_keeps | apply State.verdict_keeps
    | apply State.runTests_keeps

theorem execSelfTestComplete_keeps {wm : Bool} {s0 s : State} (dt : Nat) (unit : Nat) (pass : Bool) (hk : Keeps wm s0 s) : KeepsR wm s0 (execSelfTestComplete dt unit pass s) := by
  unfold execSelfTestComplete
  repeat' with_reducible first
    | assumption
    | (extract_lets (onlyGivenNames := true) x; try (refine Keeps.cut (w := wm) (s0 := s0) (x := x) ?_ (fun hx => ?_); on_goal 1 => (unfold x; clear x)))
    | apply KeepsR.needs | apply State.after_keeps | apply State.testEnds_keeps | split

theorem State.schedStart_keeps {wm : Bool} {s0 s : State} (u : Nat) (wear : Nat) (hk : Keeps wm s0 s) : Keeps wm s0 (State.schedStart s u wear) := by
  unfold State.schedStart
  repeat' with_reducible first
    | assumption
    | (extract_lets (onlyGivenNames := true) x; try (refine Keeps.cut (w := wm) (s0 := s0) (x := x) ?_ (fun hx => ?_); on_goal 1 => (unfold x; clear x)))
    | refine Keeps.lit rfl rfl rfl rfl (by assumption) (by assumption) | apply Keeps.ite | apply State.wrU_keeps | apply State.runTests_keeps

theorem State.showDefer_keeps {wm : Bool} {s0 s : State} (hk : Keeps wm s0 s) : Keeps wm s0 (State.showDefer s) := by
  unfold State.showDefer
  repeat' with_reducible first
    | assumption | apply State.wrB_keeps

theorem execScheduledTest_keeps {wm : Bool} {s0 s : State} (dt : Nat) (unit : Nat) (wear : Nat) (hk : Keeps wm s0 s) : KeepsR wm s0 (execScheduledTest dt unit wear s) := by
  unfold execScheduledTest
  repeat' with_reducible first
    | assumption
    | (extract_lets (onlyGivenNames := true) x; try (refine Keeps.cut (w := wm) (s0 := s0) (x := x) ?_ (fun hx => ?_); on_goal 1 => (unfold x; clear x)))
    | refine Keeps.lit rfl rfl rfl rfl (by assumption) (by assumption) | apply Keeps.ite | apply KeepsR.needs | apply State.after_keeps
    | apply State.bump_keeps | apply State.showDefer_keeps | apply State.schedStart_keeps

theorem State.sramOwner_keeps {s0 s : State} (w : SramOwner) (hk : Keeps true s0 s) : Keeps true s0 (State.sramOwner s w) := by
  unfold State.sramOwner
  cases w <;> dsimp only
  all_goals   repeat' with_reducible first
    | assumption
    | (extract_lets (onlyGivenNames := true) x; try (refine Keeps.cut (w := true) (s0 := s0) (x := x) ?_ (fun hx => ?_); on_goal 1 => (unfold x; clear x)))
    | refine Keeps.lit rfl rfl rfl rfl (by assumption) (by assumption) | apply Keeps.ite | apply State.laneErr_keeps | apply State.tileErr_keeps
    | apply State.useFree_keeps | apply State.serifFault_keeps | apply State.unitFails_keeps | apply State.showSerif_keeps | apply State.putMem32_keeps
    | split | (clear_value *; split)
theorem execSramError_keeps {s0 s : State} (dt : Nat) (mac : Nat) (row : Nat) (corrected : Bool) (owner : SramOwner) (hk : Keeps true s0 s) : KeepsR true s0 (execSramError dt mac row corrected owner s) := by
  unfold execSramError
  repeat' with_reducible first
    | assumption
    | (extract_lets (onlyGivenNames := true) x; try (refine Keeps.cut (w := true) (s0 := s0) (x := x) ?_ (fun hx => ?_); on_goal 1 => (unfold x; clear x)))
    | refine Keeps.lit rfl rfl rfl rfl (by assumption) (by assumption) | apply Keeps.ite | apply KeepsR.ite | apply KeepsR.next | apply KeepsR.needs
    | apply KeepsR.refused | apply State.after_keeps | apply State.bump_keeps | apply State.flag_keeps | apply State.sramOwner_keeps
    | apply State.unitError_keeps | (intro x hx) | split | (clear_value *; split)

theorem execSamplerMismatch_keeps {wm : Bool} {s0 s : State} (dt : Nat) (spare : Nat) (k : Nat) (hk : Keeps wm s0 s) : KeepsR wm s0 (execSamplerMismatch dt spare k s) := by
  unfold execSamplerMismatch
  repeat' with_reducible first
    | assumption
    | (extract_lets (onlyGivenNames := true) x; try (refine Keeps.cut (w := wm) (s0 := s0) (x := x) ?_ (fun hx => ?_); on_goal 1 => (unfold x; clear x)))
    | apply Keeps.ite | apply KeepsR.needs | apply State.after_keeps | apply State.moveChan_keeps | apply State.unitFails_keeps

theorem State.showBlt_keeps {wm : Bool} {s0 s : State} (hk : Keeps wm s0 s) : Keeps wm s0 (State.showBlt s) := by
  unfold State.showBlt
  repeat' with_reducible first
    | assumption
    | (extract_lets (onlyGivenNames := true) x; try (refine Keeps.cut (w := wm) (s0 := s0) (x := x) ?_ (fun hx => ?_); on_goal 1 => (unfold x; clear x)))
    | apply State.wr_keeps | apply State.wrB_keeps

theorem State.bltMove_keeps {wm : Bool} {s0 s : State} (hk : Keeps wm s0 s) : Keeps wm s0 (State.bltMove s) := by
  unfold State.bltMove
  repeat' with_reducible first
    | assumption
    | (extract_lets (onlyGivenNames := true) x; try (refine Keeps.cut (w := wm) (s0 := s0) (x := x) ?_ (fun hx => ?_); on_goal 1 => (unfold x; clear x)))
    | refine Keeps.lit rfl rfl rfl rfl (by assumption) (by assumption) | apply State.bump_keeps | apply State.showBlt_keeps

theorem State.admitHeld_keeps {wm : Bool} {s0 s : State} (hk : Keeps wm s0 s) : Keeps wm s0 (State.admitHeld s) := by
  unfold State.admitHeld
  repeat' with_reducible first
    | assumption
    | (extract_lets (onlyGivenNames := true) x; try (refine Keeps.cut (w := wm) (s0 := s0) (x := x) ?_ (fun hx => ?_); on_goal 1 => (unfold x; clear x)))
    | refine Keeps.lit rfl rfl rfl rfl (by assumption) (by assumption) | apply State.enqueueEntry_keeps | split

theorem execBlotterCommit_keeps {wm : Bool} {s0 s : State} (dt : Nat) (verified : Bool) (hk : Keeps wm s0 s) : KeepsR wm s0 (execBlotterCommit dt verified s) := by
  unfold execBlotterCommit
  repeat' with_reducible first
    | assumption
    | (extract_lets (onlyGivenNames := true) x; try (refine Keeps.cut (w := wm) (s0 := s0) (x := x) ?_ (fun hx => ?_); on_goal 1 => (unfold x; clear x)))
    | refine Keeps.lit rfl rfl rfl rfl (by assumption) (by assumption) | apply Keeps.ite | apply KeepsR.next | apply State.after_keeps
    | apply State.wr_keeps | apply State.showQueue_keeps | apply State.admitHeld_keeps | apply State.showBlt_keeps | apply State.bltMove_keeps
    | apply State.unitFails_keeps | split

theorem execBlockEraseComplete_keeps {wm : Bool} {s0 s : State} (dt : Nat) (verified : Bool) (hk : Keeps wm s0 s) : KeepsR wm s0 (execBlockEraseComplete dt verified s) := by
  unfold execBlockEraseComplete
  repeat' with_reducible first
    | assumption
    | (extract_lets (onlyGivenNames := true) x; try (refine Keeps.cut (w := wm) (s0 := s0) (x := x) ?_ (fun hx => ?_); on_goal 1 => (unfold x; clear x)))
    | refine Keeps.lit rfl rfl rfl rfl (by assumption) (by assumption) | apply Keeps.ite | apply KeepsR.next | apply State.after_keeps
    | apply State.showBlt_keeps | apply State.bltMove_keeps | apply State.unitFails_keeps | split

theorem State.skipTorn_keeps {wm : Bool} {s0 s : State} (hk : Keeps wm s0 s) : Keeps wm s0 (State.skipTorn s) := by
  unfold State.skipTorn
  repeat' with_reducible first
    | assumption
    | (extract_lets (onlyGivenNames := true) x; try (refine Keeps.cut (w := wm) (s0 := s0) (x := x) ?_ (fun hx => ?_); on_goal 1 => (unfold x; clear x)))
    | refine Keeps.lit rfl rfl rfl rfl (by assumption) (by assumption) | apply State.bump_keeps | (refine Keeps.forEach ?_ ?_; intro a x hx)

theorem State.tearWrite_keeps {wm : Bool} {s0 s : State} (hk : Keeps wm s0 s) : Keeps wm s0 (State.tearWrite s) := by
  unfold State.tearWrite
  repeat' with_reducible first
    | assumption
    | (extract_lets (onlyGivenNames := true) x; try (refine Keeps.cut (w := wm) (s0 := s0) (x := x) ?_ (fun hx => ?_); on_goal 1 => (unfold x; clear x)))
    | refine Keeps.lit rfl rfl rfl rfl (by assumption) (by assumption) | apply Keeps.ite | apply State.useFree_keeps | split

theorem State.showHours_keeps {wm : Bool} {s0 s : State} (hk : Keeps wm s0 s) : Keeps wm s0 (State.showHours s) := by
  unfold State.showHours
  repeat' with_reducible first
    | assumption
    | (extract_lets (onlyGivenNames := true) x; try (refine Keeps.cut (w := wm) (s0 := s0) (x := x) ?_ (fun hx => ?_); on_goal 1 => (unfold x; clear x)))
    | apply State.wrU_keeps

theorem execHoursJournal_keeps {wm : Bool} {s0 s : State} (meanTj : Rat) (hk : Keeps wm s0 s) : KeepsR wm s0 (execHoursJournal meanTj s) := by
  unfold execHoursJournal
  repeat' with_reducible first
    | assumption
    | (extract_lets (onlyGivenNames := true) x; try (refine Keeps.cut (w := wm) (s0 := s0) (x := x) ?_ (fun hx => ?_); on_goal 1 => (unfold x; clear x)))
    | refine Keeps.lit rfl rfl rfl rfl (by assumption) (by assumption) | apply Keeps.ite | apply KeepsR.next | apply State.runRim_keeps
    | apply State.showHours_keeps | apply State.journalAs_keeps

theorem State.restoreHours_keeps {wm : Bool} {s0 s : State} (hk : Keeps wm s0 s) : Keeps wm s0 (State.restoreHours s) := by
  unfold State.restoreHours
  repeat' with_reducible first
    | (extract_lets (onlyGivenNames := true) x; try (refine Keeps.cut (w := wm) (s0 := s0) (x := x) ?_ (fun hx => ?_); on_goal 1 => (unfold x; clear x)))
    | refine Keeps.lit rfl rfl rfl rfl (by assumption) (by assumption) | apply State.showHours_keeps | split

end Sys2Proof.Machine
end

