-- ==== Sys2Proof/Laws/KeepsCommit.lean ====
section
/-! SUPPORT. Every operation of Machine/Commit.lean keeps the canonical form, the queue and the fuses. -/

set_option linter.unusedVariables false
set_option linter.tactic.unusedName false
set_option linter.unusedTactic false
set_option linter.unreachableTactic false

namespace Sys2Proof.Machine

theorem State.copyFrom_keeps {wm : Bool} {s0 s : State} (a : Nat) (w : Nat) (hk : Keeps wm s0 s) : Keeps wm s0 (State.copyFrom a w s) := by
  unfold State.copyFrom
  repeat' with_reducible first
    | assumption
    | (extract_lets (onlyGivenNames := true) x; try (refine Keeps.cut (w := wm) (s0 := s0) (x := x) ?_ (fun hx => ?_); on_goal 1 => (unfold x; clear x)))
    | apply Keeps.ite | apply State.putAct_keeps | split

theorem State.copyWord_keeps {wm : Bool} {s0 s : State} (a : Nat) (hk : Keeps wm s0 s) : Keeps wm s0 (State.copyWord a s) := by
  unfold State.copyWord
  repeat' with_reducible first
    | assumption | apply State.copyFrom_keeps

theorem State.copyRange_keeps {wm : Bool} {s0 s : State} (lo : Nat) (hi : Nat) (hk : Keeps wm s0 s) : Keeps wm s0 (State.copyRange s lo hi) := by
  unfold State.copyRange
  repeat' with_reducible first
    | assumption
    | (extract_lets (onlyGivenNames := true) x; try (refine Keeps.cut (w := wm) (s0 := s0) (x := x) ?_ (fun hx => ?_); on_goal 1 => (unfold x; clear x)))
    | apply State.copyWord_keeps | (refine Keeps.forEach ?_ ?_; intro a x hx)

theorem State.putDirty_keeps {wm : Bool} {s0 s : State} (h : Nat) (x : Bool) (hk : Keeps wm s0 s) : Keeps wm s0 (State.putDirty s h x) := by
  unfold State.putDirty
  repeat' with_reducible first
    | assumption | apply State.putRaw_keeps

theorem State.sdHold_keeps {wm : Bool} {s0 s : State} (k : Nat) (hk : Keeps wm s0 s) : Keeps wm s0 (State.sdHold s k) := by
  unfold State.sdHold
  repeat' with_reducible first
    | assumption
    | (extract_lets (onlyGivenNames := true) x; try (refine Keeps.cut (w := wm) (s0 := s0) (x := x) ?_ (fun hx => ?_); on_goal 1 => (unfold x; clear x)))
    | refine Keeps.lit rfl rfl rfl rfl (by assumption) (by assumption) | apply Keeps.ite | split

theorem State.copyMember_keeps {s0 s : State} (h : Nat) (hk : Keeps true s0 s) : Keeps true s0 (State.copyMember s h) := by
  unfold State.copyMember
  repeat' with_reducible first
    | assumption
    | (extract_lets (onlyGivenNames := true) x; try (refine Keeps.cut (w := true) (s0 := s0) (x := x) ?_ (fun hx => ?_); on_goal 1 => (unfold x; clear x)))
    | apply Keeps.ite | apply State.sdHold_keeps | apply State.copyRange_keeps | apply State.putDirty_keeps | apply State.flag_keeps
    | apply State.tmrUse_keeps | apply State.pbSwitch_keeps | apply State.evtCommitted_keeps | apply State.pRateCheck_keeps
    | apply State.rulCommitted_keeps | apply State.stkCommitted_keeps | apply State.axCommitted_keeps | apply State.fbCommitted_keeps
    | apply State.sfCommitted_keeps | (refine Keeps.forEach ?_ ?_; intro a x hx) | split

theorem State.finishReq_keeps {wm : Bool} {s0 s : State} (r : CmtReq) (hk : Keeps wm s0 s) : Keeps wm s0 (State.finishReq s r) := by
  unfold State.finishReq
  repeat' with_reducible first
    | assumption
    | (extract_lets (onlyGivenNames := true) x; try (refine Keeps.cut (w := wm) (s0 := s0) (x := x) ?_ (fun hx => ?_); on_goal 1 => (unfold x; clear x)))
    | apply Keeps.ite | apply State.dropReq_keeps | apply State.putRaw_keeps

theorem State.putReq_keeps {wm : Bool} {s0 s : State} (r : CmtReq) (r' : CmtReq) (hk : Keeps wm s0 s) : Keeps wm s0 (State.putReq s r r') := by
  unfold State.putReq
  repeat' with_reducible first
    | (extract_lets (onlyGivenNames := true) x; try (refine Keeps.cut (w := wm) (s0 := s0) (x := x) ?_ (fun hx => ?_); on_goal 1 => (unfold x; clear x)))
    | refine Keeps.lit rfl rfl rfl rfl (by assumption) (by assumption)

theorem State.memberDone_keeps {wm : Bool} {s0 s : State} (r : CmtReq) (h : Nat) (hk : Keeps wm s0 s) : Keeps wm s0 (State.memberDone s r h) := by
  unfold State.memberDone
  repeat' with_reducible first
    | assumption
    | (extract_lets (onlyGivenNames := true) x; try (refine Keeps.cut (w := wm) (s0 := s0) (x := x) ?_ (fun hx => ?_); on_goal 1 => (unfold x; clear x)))
    | apply State.putReq_keeps | apply State.showPend_keeps | apply State.finishReq_keeps

theorem State.sdDone_keeps {s0 s : State} (r : CmtReq) (h : Nat) (hk : Keeps true s0 s) : Keeps true s0 (State.sdDone s r h) := by
  unfold State.sdDone
  repeat' with_reducible first
    | assumption
    | (extract_lets (onlyGivenNames := true) x; try (refine Keeps.cut (w := true) (s0 := s0) (x := x) ?_ (fun hx => ?_); on_goal 1 => (unfold x; clear x)))
    | apply Keeps.ite | apply State.putReq_keeps | apply State.copyMember_keeps | apply State.memberDone_keeps

theorem State.replaceReq_keeps {wm : Bool} {s0 s : State} (g : Nat) (hk : Keeps wm s0 s) : Keeps wm s0 (State.replaceReq s g) := by
  unfold State.replaceReq
  repeat' with_reducible first
    | assumption
    | (extract_lets (onlyGivenNames := true) x; try (refine Keeps.cut (w := wm) (s0 := s0) (x := x) ?_ (fun hx => ?_); on_goal 1 => (unfold x; clear x)))
    | refine Keeps.lit rfl rfl rfl rfl (by assumption) (by assumption) | apply State.showPend_keeps | apply State.flag_keeps
    | (refine Keeps.forEach ?_ ?_; intro a x hx) | split

theorem State.requestGroup_keeps {s0 s : State} (abs : Bool) (at_ : Nat) (g : Nat) (hk : Keeps true s0 s) : Keeps true s0 (State.requestGroup abs at_ g s) := by
  unfold State.requestGroup
  repeat' with_reducible first
    | assumption
    | (extract_lets (onlyGivenNames := true) x; try (refine Keeps.cut (w := true) (s0 := s0) (x := x) ?_ (fun hx => ?_); on_goal 1 => (unfold x; clear x)))
    | refine Keeps.lit rfl rfl rfl rfl (by assumption) (by assumption) | apply Keeps.ite | apply State.replaceReq_keeps | apply State.wr_keeps
    | apply State.putRaw_keeps | apply State.showPend_keeps | apply State.copyMember_keeps | apply State.memberDone_keeps
    | (refine Keeps.forEach ?_ ?_; intro a x hx)

theorem State.commitWrite_keeps {s0 s : State} (v : Nat) (hk : Keeps true s0 s) : Keeps true s0 (State.commitWrite s v) := by
  unfold State.commitWrite
  repeat' with_reducible first
    | assumption
    | (extract_lets (onlyGivenNames := true) x; try (refine Keeps.cut (w := true) (s0 := s0) (x := x) ?_ (fun hx => ?_); on_goal 1 => (unfold x; clear x)))
    | refine Keeps.lit rfl rfl rfl rfl (by assumption) (by assumption) | apply Keeps.ite | apply State.wr_keeps | apply State.flag_keeps
    | apply State.requestGroup_keeps | apply State.twinSend_keeps | apply State.mirror_keeps | (refine Keeps.forEach ?_ ?_; intro a x hx) | split

theorem execCommitRequest_keeps {s0 s : State} (dt : Nat) (src : Src) (value : Nat) (hk : Keeps true s0 s) : KeepsR true s0 (execCommitRequest dt src value s) := by
  unfold execCommitRequest
  repeat' with_reducible first
    | assumption
    | (extract_lets (onlyGivenNames := true) x; try (refine Keeps.cut (w := true) (s0 := s0) (x := x) ?_ (fun hx => ?_); on_goal 1 => (unfold x; clear x)))
    | apply Keeps.ite | apply KeepsR.needs | apply State.after_keeps | apply State.commitWrite_keeps

theorem execCommitCopy_keeps {s0 s : State} (inst : Nat) (hk : Keeps true s0 s) : KeepsR true s0 (execCommitCopy inst s) := by
  unfold execCommitCopy
  have hb : ∀ i r, KeepsO true s0 ((s.copyTick r i).bind s.reach) := by
    intro i r t ht
    obtain ⟨a, _, ha⟩ := Option.bind_eq_some_iff.mp ht
    exact State.reach_keeps a hk t ha
  refine KeepsR.needs ?_
  split
  · exact hk
  split
  · exact hk
  split
  · exact hk
  next t ht =>
  have h2 : Keeps true s0 t := hb _ _ t ht
  repeat' (first
    | with_reducible assumption
    | (extract_lets (onlyGivenNames := true) x; try (refine Keeps.cut (w := true) (s0 := s0) (x := x) ?_ (fun hx => ?_); on_goal 1 => (unfold x; clear x)))
    | (with_reducible refine Keeps.lit rfl rfl rfl rfl (by with_reducible assumption) (by with_reducible assumption))
    | with_reducible apply Keeps.ite
    | with_reducible apply KeepsR.ite
    | with_reducible apply KeepsR.next
    | with_reducible apply KeepsR.needs
    | with_reducible apply KeepsR.refused
    | with_reducible apply State.reach_keeps
    | with_reducible apply State.rebase_keeps
    | with_reducible apply State.copyMember_keeps
    | with_reducible apply State.sdDone_keeps
    | with_reducible apply State.memberDone_keeps
    | (intro x hx)
    | split
    | (clear_value *; split))

theorem State.dropMembers_keeps {wm : Bool} {s0 s : State} (gone : Nat → Bool) (hk : Keeps wm s0 s) : Keeps wm s0 (State.dropMembers s gone) := by
  unfold State.dropMembers
  repeat' with_reducible first
    | assumption
    | (extract_lets (onlyGivenNames := true) x; try (refine Keeps.cut (w := wm) (s0 := s0) (x := x) ?_ (fun hx => ?_); on_goal 1 => (unfold x; clear x)))
    | apply State.memberDone_keeps | (refine Keeps.forEach ?_ ?_; intro a x hx) | split

theorem State.unlockWrite_keeps {wm : Bool} {s0 s : State} (src : Src) (v : Nat) (hk : Keeps wm s0 s) : Keeps wm s0 (State.unlockWrite s src v) := by
  unfold State.unlockWrite
  repeat' with_reducible first
    | assumption
    | (extract_lets (onlyGivenNames := true) x; try (refine Keeps.cut (w := wm) (s0 := s0) (x := x) ?_ (fun hx => ?_); on_goal 1 => (unfold x; clear x)))
    | refine Keeps.lit rfl rfl rfl rfl (by assumption) (by assumption) | apply Keeps.ite | apply State.wr_keeps | apply State.disarm_keeps
    | apply State.flag_keeps | apply State.violInfo_keeps | split

theorem execUnlock_keeps {wm : Bool} {s0 s : State} (dt : Nat) (src : Src) (value : Nat) (hk : Keeps wm s0 s) : KeepsR wm s0 (execUnlock dt src value s) := by
  unfold execUnlock
  repeat' with_reducible first
    | assumption
    | (extract_lets (onlyGivenNames := true) x; try (refine Keeps.cut (w := wm) (s0 := s0) (x := x) ?_ (fun hx => ?_); on_goal 1 => (unfold x; clear x)))
    | apply Keeps.ite | apply KeepsR.needs | apply State.after_keeps | apply State.unlockWrite_keeps

theorem execUnlockExpire_keeps {wm : Bool} {s0 s : State} (src : Src) (hk : Keeps wm s0 s) : KeepsR wm s0 (execUnlockExpire src s) := by
  unfold execUnlockExpire
  repeat' with_reducible first
    | assumption
    | (extract_lets (onlyGivenNames := true) x; try (refine Keeps.cut (w := wm) (s0 := s0) (x := x) ?_ (fun hx => ?_); on_goal 1 => (unfold x; clear x)))
    | refine Keeps.lit rfl rfl rfl rfl (by first | assumption | (refine KeepsO.get (by assumption) ?_; apply State.reach_keeps; assumption)) (by first | assumption | (refine KeepsO.get (by assumption) ?_; apply State.reach_keeps; assumption))
    | apply Keeps.ite | apply KeepsR.next | apply State.disarm_keeps | split

theorem execTmrScrub_keeps {wm : Bool} {s0 s : State} (dt : Nat) (hk : Keeps wm s0 s) : KeepsR wm s0 (execTmrScrub dt s) := by
  unfold execTmrScrub
  repeat' with_reducible first
    | assumption
    | (extract_lets (onlyGivenNames := true) x; try (refine Keeps.cut (w := wm) (s0 := s0) (x := x) ?_ (fun hx => ?_); on_goal 1 => (unfold x; clear x)))
    | apply Keeps.ite | apply KeepsR.next | apply State.after_keeps | apply State.healWord_keeps | (refine Keeps.forEach ?_ ?_; intro a x hx)

end Sys2Proof.Machine
end

