-- ==== Sys2Proof/Laws/KeepsStore.lean ====
section
/-! SUPPORT. Every operation of Machine/Store.lean keeps the canonical form, the queue and the fuses. -/

set_option linter.unusedVariables false
set_option linter.tactic.unusedName false
set_option linter.unusedTactic false
set_option linter.unreachableTactic false

namespace Sys2Proof.Machine

theorem State.putField_keeps {wm : Bool} {s0 s : State} (soft : Bool) (a : Nat) (f : FieldRow) (x : Nat) (hk : Keeps wm s0 s) : Keeps wm s0 (State.putField soft a f x s) := by
  unfold State.putField
  repeat' with_reducible first
    | assumption
    | (extract_lets (onlyGivenNames := true) x; try (refine Keeps.cut (w := wm) (s0 := s0) (x := x) ?_ (fun hx => ?_); on_goal 1 => (unfold x; clear x)))
    | refine Keeps.lit rfl rfl rfl rfl (by assumption) (by assumption) | apply Keeps.ite | apply State.putw_keeps

theorem State.onceMore_keeps {wm : Bool} {s0 s : State} (who : Option Src) (a : Nat) (f : FieldRow) (x : Nat) (hk : Keeps wm s0 s) : Keeps wm s0 (State.onceMore s who a f x) := by
  unfold State.onceMore
  repeat' with_reducible first
    | assumption
    | (extract_lets (onlyGivenNames := true) x; try (refine Keeps.cut (w := wm) (s0 := s0) (x := x) ?_ (fun hx => ?_); on_goal 1 => (unfold x; clear x)))
    | apply Keeps.ite | apply State.flag_keeps | apply State.violInfo_keeps | split

theorem State.storeField_keeps {wm : Bool} {s0 s : State} (who : Option Src) (a : Nat) (v : Nat) (f : FieldRow) (hk : Keeps wm s0 s) : Keeps wm s0 (State.storeField who a v f s) := by
  unfold State.storeField
  repeat' with_reducible first
    | assumption
    | (extract_lets (onlyGivenNames := true) x; try (refine Keeps.cut (w := wm) (s0 := s0) (x := x) ?_ (fun hx => ?_); on_goal 1 => (unfold x; clear x)))
    | refine Keeps.lit rfl rfl rfl rfl (by assumption) (by assumption) | apply Keeps.ite | apply State.putField_keeps | apply State.onceMore_keeps

theorem State.storeMask_keeps {wm : Bool} {s0 s : State} (who : Option Src) (a : Nat) (v : Nat) (m : Nat) (key : Bool) (hk : Keeps wm s0 s) : Keeps wm s0 (State.storeMask s who a v m key) := by
  unfold State.storeMask
  repeat' with_reducible first
    | assumption
    | (extract_lets (onlyGivenNames := true) x; try (refine Keeps.cut (w := wm) (s0 := s0) (x := x) ?_ (fun hx => ?_); on_goal 1 => (unfold x; clear x)))
    | apply State.storeField_keeps | (refine Keeps.forEach ?_ ?_; intro a x hx) | split

theorem State.storeWord_keeps {wm : Bool} {s0 s : State} (who : Option Src) (a : Nat) (v : Nat) (key : Bool) (hk : Keeps wm s0 s) : Keeps wm s0 (State.storeWord s who a v key) := by
  unfold State.storeWord
  repeat' with_reducible first
    | assumption | apply State.storeMask_keeps

theorem State.headerWrite_keeps {wm : Bool} {s0 s : State} (l : Loc) (v : Nat) (hk : Keeps wm s0 s) : Keeps wm s0 (State.headerWrite s l v) := by
  unfold State.headerWrite
  repeat' with_reducible first
    | assumption
    | (extract_lets (onlyGivenNames := true) x; try (refine Keeps.cut (w := wm) (s0 := s0) (x := x) ?_ (fun hx => ?_); on_goal 1 => (unfold x; clear x)))
    | apply Keeps.ite | apply State.putRaw_keeps

theorem State.storeBoth_keeps {wm : Bool} {s0 s : State} (who : Option Src) (a : Nat) (v : Nat) (hk : Keeps wm s0 s) : Keeps wm s0 (State.storeBoth s who a v) := by
  unfold State.storeBoth
  repeat' with_reducible first
    | assumption
    | (extract_lets (onlyGivenNames := true) x; try (refine Keeps.cut (w := wm) (s0 := s0) (x := x) ?_ (fun hx => ?_); on_goal 1 => (unfold x; clear x)))
    | apply State.storeWord_keeps | apply State.copyFrom_keeps

theorem State.recount_keeps {wm : Bool} {s0 s : State} (a : Nat) (f : FieldRow) (hk : Keeps wm s0 s) : Keeps wm s0 (State.recount s a f) := by
  unfold State.recount
  repeat' with_reducible first
    | assumption
    | (extract_lets (onlyGivenNames := true) x; try (refine Keeps.cut (w := wm) (s0 := s0) (x := x) ?_ (fun hx => ?_); on_goal 1 => (unfold x; clear x)))
    | apply Keeps.ite | apply State.putRaw_keeps | apply State.setMask_keeps | (clear_value *; split)

theorem State.softClear_keeps {wm : Bool} {s0 s : State} (a : Nat) (v : Nat) (hk : Keeps wm s0 s) : Keeps wm s0 (State.softClear s a v) := by
  unfold State.softClear
  repeat' with_reducible first
    | assumption
    | (extract_lets (onlyGivenNames := true) x; try (refine Keeps.cut (w := wm) (s0 := s0) (x := x) ?_ (fun hx => ?_); on_goal 1 => (unfold x; clear x)))
    | apply Keeps.ite | apply State.putRaw_keeps | split

theorem State.plainMask_keeps {wm : Bool} {s0 s : State} (who : Option Src) (a : Nat) (v : Nat) (m : Nat) (key : Bool) (hk : Keeps wm s0 s) : Keeps wm s0 (State.plainMask s who a v m key) := by
  unfold State.plainMask
  repeat' with_reducible first
    | assumption
    | (extract_lets (onlyGivenNames := true) x; try (refine Keeps.cut (w := wm) (s0 := s0) (x := x) ?_ (fun hx => ?_); on_goal 1 => (unfold x; clear x)))
    | apply Keeps.ite | apply State.unscrub_keeps | apply State.storeMask_keeps | apply State.recount_keeps | apply State.softClear_keeps
    | apply State.putDirty_keeps | (refine Keeps.forEach ?_ ?_; intro a x hx) | split

end Sys2Proof.Machine
end

