-- ==== Sys2Proof/Laws/KeepsFolio.lean ====
section
/-! SUPPORT. Every operation of Machine/Folio.lean keeps the canonical form, the queue and the fuses. -/

set_option linter.unusedVariables false
set_option linter.tactic.unusedName false
set_option linter.unusedTactic false
set_option linter.unreachableTactic false

namespace Sys2Proof.Machine

theorem State.loadSections_keeps {s0 s : State} (i : Img) (hk : Keeps true s0 s) : Keeps true s0 (State.loadSections s i) := by
  unfold State.loadSections
  repeat' with_reducible first
    | assumption
    | (extract_lets (onlyGivenNames := true) x; try (refine Keeps.cut (w := true) (s0 := s0) (x := x) ?_ (fun hx => ?_); on_goal 1 => (unfold x; clear x)))
    | apply State.putBytes_keeps | (refine Keeps.forEach ?_ ?_; intro a x hx)

theorem State.folioWord_keeps {wm : Bool} {s0 s : State} (x : Nat × Nat) (hk : Keeps wm s0 s) : Keeps wm s0 (State.folioWord x s) := by
  unfold State.folioWord
  repeat' with_reducible first
    | assumption
    | (extract_lets (onlyGivenNames := true) x; try (refine Keeps.cut (w := wm) (s0 := s0) (x := x) ?_ (fun hx => ?_); on_goal 1 => (unfold x; clear x)))
    | apply Keeps.ite | apply State.putRaw_keeps

theorem State.clearSections_keeps {s0 s : State} (l : List Sect) (hk : Keeps true s0 s) : Keeps true s0 (State.clearSections s l) := by
  unfold State.clearSections
  repeat' with_reducible first
    | assumption | apply State.keepMem_keeps

theorem State.applyConfig_keeps {wm : Bool} {s0 s : State} (c : DevConfig) (l : List Sect) (hk : Keeps wm s0 s) : Keeps wm s0 (State.applyConfig s c l) := by
  unfold State.applyConfig
  repeat' with_reducible first
    | assumption
    | (extract_lets (onlyGivenNames := true) x; try (refine Keeps.cut (w := wm) (s0 := s0) (x := x) ?_ (fun hx => ?_); on_goal 1 => (unfold x; clear x)))
    | refine Keeps.lit rfl rfl rfl rfl (by assumption) (by assumption) | apply Keeps.ite | apply State.folioWord_keeps | apply State.wr_keeps
    | (refine Keeps.forEach ?_ ?_; intro a x hx)

theorem State.leftOver_keeps {wm : Bool} {s0 s : State} (hk : Keeps wm s0 s) : Keeps wm s0 (State.leftOver s) := by
  unfold State.leftOver
  repeat' with_reducible first
    | assumption
    | (extract_lets (onlyGivenNames := true) x; try (refine Keeps.cut (w := wm) (s0 := s0) (x := x) ?_ (fun hx => ?_); on_goal 1 => (unfold x; clear x)))
    | apply State.wr_keeps | (refine Keeps.forEach ?_ ?_; intro a x hx)

theorem State.applyRetired_keeps {wm : Bool} {s0 s : State} (hk : Keeps wm s0 s) : Keeps wm s0 (State.applyRetired s) := by
  unfold State.applyRetired
  repeat' with_reducible first
    | assumption
    | (extract_lets (onlyGivenNames := true) x; try (refine Keeps.cut (w := wm) (s0 := s0) (x := x) ?_ (fun hx => ?_); on_goal 1 => (unfold x; clear x)))
    | refine Keeps.lit rfl rfl rfl rfl (by assumption) (by assumption) | apply Keeps.ite | apply State.wr_keeps | apply State.leftOver_keeps
    | (refine Keeps.forEach ?_ ?_; intro a x hx) | split

theorem State.showTiles_keeps {wm : Bool} {s0 s : State} (hk : Keeps wm s0 s) : Keeps wm s0 (State.showTiles s) := by
  unfold State.showTiles
  repeat' with_reducible first
    | assumption
    | (extract_lets (onlyGivenNames := true) x; try (refine Keeps.cut (w := wm) (s0 := s0) (x := x) ?_ (fun hx => ?_); on_goal 1 => (unfold x; clear x)))
    | apply State.wr_keeps | apply State.wrB_keeps | (refine Keeps.forEach ?_ ?_; intro a x hx) | (clear_value *; split)

theorem State.presetWord_keeps {wm : Bool} {s0 s : State} (x : Nat × Nat) (hk : Keeps wm s0 s) : Keeps wm s0 (State.presetWord x s) := by
  unfold State.presetWord
  repeat' with_reducible first
    | assumption
    | (extract_lets (onlyGivenNames := true) x; try (refine Keeps.cut (w := wm) (s0 := s0) (x := x) ?_ (fun hx => ?_); on_goal 1 => (unfold x; clear x)))
    | apply Keeps.ite | apply State.headerWrite_keeps | apply State.storeBoth_keeps | split

theorem State.paramWord_keeps {wm : Bool} {s0 s : State} (x : Nat × Nat) (hk : Keeps wm s0 s) : Keeps wm s0 (State.paramWord x s) := by
  unfold State.paramWord
  repeat' with_reducible first
    | assumption
    | (extract_lets (onlyGivenNames := true) x; try (refine Keeps.cut (w := wm) (s0 := s0) (x := x) ?_ (fun hx => ?_); on_goal 1 => (unfold x; clear x)))
    | apply Keeps.ite | apply State.plainMask_keeps | split

theorem State.applyFormats_keeps {wm : Bool} {s0 s : State} (l : List Sect) (hk : Keeps wm s0 s) : Keeps wm s0 (State.applyFormats s l) := by
  unfold State.applyFormats
  repeat' with_reducible first
    | assumption
    | (extract_lets (onlyGivenNames := true) x; try (refine Keeps.cut (w := wm) (s0 := s0) (x := x) ?_ (fun hx => ?_); on_goal 1 => (unfold x; clear x)))
    | apply Keeps.ite | apply State.wr_keeps | (refine Keeps.forEach ?_ ?_; intro a x hx)

theorem State.setVbase_keeps {wm : Bool} {s0 s : State} (ok : Bool) (hk : Keeps wm s0 s) : Keeps wm s0 (State.setVbase s ok) := by
  unfold State.setVbase
  repeat' with_reducible first
    | assumption
    | (extract_lets (onlyGivenNames := true) x; try (refine Keeps.cut (w := wm) (s0 := s0) (x := x) ?_ (fun hx => ?_); on_goal 1 => (unfold x; clear x)))
    | refine Keeps.lit rfl rfl rfl rfl (by assumption) (by assumption) | apply Keeps.ite | apply State.setCode_keeps | apply State.wr_keeps
    | apply State.flag_keeps | apply State.targetTop_keeps

theorem State.candidate_keeps {s0 s : State} (i : Img) (c : DevConfig) (hk : Keeps true s0 s) : Keeps true s0 (State.candidate s i c) := by
  unfold State.candidate
  repeat' with_reducible first
    | assumption
    | (extract_lets (onlyGivenNames := true) x; try (refine Keeps.cut (w := true) (s0 := s0) (x := x) ?_ (fun hx => ?_); on_goal 1 => (unfold x; clear x)))
    | apply State.loadSections_keeps | apply State.applyConfig_keeps

theorem State.acceptImage_keeps {s0 s : State} (b : Bool) (i : Img) (env : LoadEnv) (hk : Keeps true s0 s) : Keeps true s0 (State.acceptImage s b i env) := by
  unfold State.acceptImage
  repeat' with_reducible first
    | assumption
    | (extract_lets (onlyGivenNames := true) x; try (refine Keeps.cut (w := true) (s0 := s0) (x := x) ?_ (fun hx => ?_); on_goal 1 => (unfold x; clear x)))
    | apply Keeps.ite | apply State.candidate_keeps | apply State.storeWord_keeps | apply State.wr_keeps | apply State.takeTables_keeps
    | apply State.wrBoth_keeps | apply State.applyFormats_keeps | apply State.presetWord_keeps | apply State.paramWord_keeps
    | apply State.showTiles_keeps | apply State.showSerif_keeps | apply State.setVbase_keeps | apply State.wrB_keeps | apply State.after_keeps
    | apply State.listenCh_keeps | apply State.modeChange_keeps | apply State.wrU_keeps | (refine Keeps.forEach ?_ ?_; intro a x hx)

theorem State.recordFound_keeps {s0 s : State} (b : Bool) (i : Img) (f : Found) (hk : Keeps true s0 s) : Keeps true s0 (State.recordFound s b i f) := by
  unfold State.recordFound
  repeat' with_reducible first
    | assumption
    | (extract_lets (onlyGivenNames := true) x; try (refine Keeps.cut (w := true) (s0 := s0) (x := x) ?_ (fun hx => ?_); on_goal 1 => (unfold x; clear x)))
    | apply Keeps.ite | apply State.clearSections_keeps | apply State.wr_keeps

theorem State.fallback_keeps {wm : Bool} {s0 s : State} (hk : Keeps wm s0 s) : Keeps wm s0 (State.fallback s) := by
  unfold State.fallback
  repeat' with_reducible first
    | assumption
    | (extract_lets (onlyGivenNames := true) x; try (refine Keeps.cut (w := wm) (s0 := s0) (x := x) ?_ (fun hx => ?_); on_goal 1 => (unfold x; clear x)))
    | apply State.flag_keeps | apply State.journal_keeps

theorem State.noImage_keeps {wm : Bool} {s0 s : State} (hk : Keeps wm s0 s) : Keeps wm s0 (State.noImage s) := by
  unfold State.noImage
  repeat' with_reducible first
    | assumption
    | (extract_lets (onlyGivenNames := true) x; try (refine Keeps.cut (w := wm) (s0 := s0) (x := x) ?_ (fun hx => ?_); on_goal 1 => (unfold x; clear x)))
    | apply State.wr_keeps | apply State.journal_keeps

theorem State.headRecord_keeps {wm : Bool} {s0 s : State} (b : Bool) (env : LoadEnv) (hk : Keeps wm s0 s) : Keeps wm s0 (State.headRecord s b env) := by
  unfold State.headRecord
  repeat' with_reducible first
    | assumption
    | (extract_lets (onlyGivenNames := true) x; try (refine Keeps.cut (w := wm) (s0 := s0) (x := x) ?_ (fun hx => ?_); on_goal 1 => (unfold x; clear x)))
    | apply State.wr_keeps

theorem State.headsDone_keeps {wm : Bool} {s0 s : State} (env : LoadEnv) (hk : Keeps wm s0 s) : Keeps wm s0 (State.headsDone s env) := by
  unfold State.headsDone
  repeat' with_reducible first
    | assumption
    | (extract_lets (onlyGivenNames := true) x; try (refine Keeps.cut (w := wm) (s0 := s0) (x := x) ?_ (fun hx => ?_); on_goal 1 => (unfold x; clear x)))
    | refine Keeps.lit rfl rfl rfl rfl (by assumption) (by assumption) | apply State.putRaw_keeps | apply State.headRecord_keeps

theorem State.loadFolio_keeps {s0 s : State} (env : LoadEnv) (hk : Keeps true s0 s) : Keeps true s0 (State.loadFolio s env) := by
  unfold State.loadFolio
  repeat' with_reducible first
    | assumption
    | (extract_lets (onlyGivenNames := true) x; try (refine Keeps.cut (w := true) (s0 := s0) (x := x) ?_ (fun hx => ?_); on_goal 1 => (unfold x; clear x)))
    | refine Keeps.lit rfl rfl rfl rfl (by assumption) (by assumption) | apply Keeps.ite | apply State.headsDone_keeps | apply State.noImage_keeps
    | apply State.fallback_keeps | apply State.recordFound_keeps | apply State.acceptImage_keeps | split

theorem execFolioLoadComplete_keeps {s0 s : State} (dt : Nat) (env : LoadEnv) (hk : Keeps true s0 s) : KeepsR true s0 (execFolioLoadComplete dt env s) := by
  unfold execFolioLoadComplete
  repeat' with_reducible first
    | assumption
    | (extract_lets (onlyGivenNames := true) x; try (refine Keeps.cut (w := true) (s0 := s0) (x := x) ?_ (fun hx => ?_); on_goal 1 => (unfold x; clear x)))
    | apply Keeps.ite | apply KeepsR.next | apply State.after_keeps | apply State.loadFolio_keeps

theorem execFlashTimeout_keeps {wm : Bool} {s0 s : State} (dt : Nat) (slot : Nat) (hk : Keeps wm s0 s) : KeepsR wm s0 (execFlashTimeout dt slot s) := by
  unfold execFlashTimeout
  repeat' with_reducible first
    | assumption
    | (extract_lets (onlyGivenNames := true) x; try (refine Keeps.cut (w := wm) (s0 := s0) (x := x) ?_ (fun hx => ?_); on_goal 1 => (unfold x; clear x)))
    | refine Keeps.lit rfl rfl rfl rfl (by assumption) (by assumption) | apply Keeps.ite | apply KeepsR.needs | apply State.after_keeps
    | apply State.wr_keeps

end Sys2Proof.Machine
end

