-- ==== Sys2Proof/Laws/KeepsModes.lean ====
section
/-! SUPPORT. Every operation of Machine/Modes.lean keeps the canonical form, the queue and the fuses. -/

set_option linter.unusedVariables false
set_option linter.tactic.unusedName false
set_option linter.unusedTactic false
set_option linter.unreachableTactic false

namespace Sys2Proof.Machine

theorem State.enterReset_keeps {s0 s : State} (por : Bool) (cause : Nat) (hk : Keeps true s0 s) : Keeps true s0 (State.enterReset s por cause) := by
  unfold State.enterReset
  extract_lets c all x z t
  have hx : Keeps true s0 x :=
    State.keepMem_keeps _ (State.mapRegs_keeps _ (State.ballsQuit_keeps (State.soutsOff_keeps (Keeps.ite (State.tearWrite_keeps hk) hk))))
  clear_value x
  exact State.putRaw_keeps _ _ (Keeps.lit rfl rfl rfl rfl hx hx)

theorem execPowerOnResetSupply_keeps {s0 s : State} (dt : Nat) (hk : Keeps true s0 s) : KeepsR true s0 (execPowerOnResetSupply dt s) := by
  unfold execPowerOnResetSupply
  repeat' with_reducible first
    | assumption
    | (extract_lets (onlyGivenNames := true) x; try (refine Keeps.cut (w := true) (s0 := s0) (x := x) ?_ (fun hx => ?_); on_goal 1 => (unfold x; clear x)))
    | apply KeepsR.next | apply State.after_keeps | apply State.enterReset_keeps

theorem execPorstN_keeps {s0 s : State} (dt : Nat) (hk : Keeps true s0 s) : KeepsR true s0 (execPorstN dt s) := by
  unfold execPorstN
  repeat' with_reducible first
    | assumption
    | (extract_lets (onlyGivenNames := true) x; try (refine Keeps.cut (w := true) (s0 := s0) (x := x) ?_ (fun hx => ?_); on_goal 1 => (unfold x; clear x)))
    | apply KeepsR.next | apply State.after_keeps | apply State.enterReset_keeps

theorem execRstN_keeps {s0 s : State} (dt : Nat) (hk : Keeps true s0 s) : KeepsR true s0 (execRstN dt s) := by
  unfold execRstN
  repeat' with_reducible first
    | assumption
    | (extract_lets (onlyGivenNames := true) x; try (refine Keeps.cut (w := true) (s0 := s0) (x := x) ?_ (fun hx => ?_); on_goal 1 => (unfold x; clear x)))
    | apply KeepsR.next | apply State.after_keeps | apply State.enterReset_keeps

theorem State.softReset_keeps {s0 s : State} (hk : Keeps true s0 s) : Keeps true s0 (State.softReset s) := by
  unfold State.softReset
  repeat' with_reducible first
    | assumption
    | (extract_lets (onlyGivenNames := true) x; try (refine Keeps.cut (w := true) (s0 := s0) (x := x) ?_ (fun hx => ?_); on_goal 1 => (unfold x; clear x)))
    | apply Keeps.ite | apply State.enterReset_keeps

theorem State.devCtrlWrite_keeps {s0 s : State} (src : Src) (v : Nat) (hk : Keeps true s0 s) : Keeps true s0 (State.devCtrlWrite s src v) := by
  unfold State.devCtrlWrite
  repeat' with_reducible first
    | assumption
    | (extract_lets (onlyGivenNames := true) x; try (refine Keeps.cut (w := true) (s0 := s0) (x := x) ?_ (fun hx => ?_); on_goal 1 => (unfold x; clear x)))
    | apply Keeps.ite | apply State.keyed_keeps | apply State.softReset_keeps | (intro x hx)

theorem execWarmRst_keeps {s0 s : State} (dt : Nat) (src : Src) (value : Nat) (hk : Keeps true s0 s) : KeepsR true s0 (execWarmRst dt src value s) := by
  unfold execWarmRst
  repeat' with_reducible first
    | assumption
    | (extract_lets (onlyGivenNames := true) x; try (refine Keeps.cut (w := true) (s0 := s0) (x := x) ?_ (fun hx => ?_); on_goal 1 => (unfold x; clear x)))
    | apply Keeps.ite | apply KeepsR.needs | apply State.after_keeps | apply State.devCtrlWrite_keeps

theorem execCoreSupervisor_keeps {s0 s : State} (dt : Nat) (hk : Keeps true s0 s) : KeepsR true s0 (execCoreSupervisor dt s) := by
  unfold execCoreSupervisor
  repeat' with_reducible first
    | assumption
    | (extract_lets (onlyGivenNames := true) x; try (refine Keeps.cut (w := true) (s0 := s0) (x := x) ?_ (fun hx => ?_); on_goal 1 => (unfold x; clear x)))
    | apply Keeps.ite | apply KeepsR.next | apply State.after_keeps | apply State.enterReset_keeps

theorem execResetRelease_keeps {wm : Bool} {s0 s : State} (dt : Nat) (straps : Nat) (hk : Keeps wm s0 s) : KeepsR wm s0 (execResetRelease dt straps s) := by
  unfold execResetRelease
  repeat' with_reducible first
    | assumption
    | (extract_lets (onlyGivenNames := true) x; try (refine Keeps.cut (w := wm) (s0 := s0) (x := x) ?_ (fun hx => ?_); on_goal 1 => (unfold x; clear x)))
    | refine Keeps.lit rfl rfl rfl rfl (by assumption) (by assumption) | apply Keeps.ite | apply KeepsR.needs | apply State.after_keeps
    | apply State.wr_keeps

theorem State.driveVid_keeps {wm : Bool} {s0 s : State} (hk : Keeps wm s0 s) : Keeps wm s0 (State.driveVid s) := by
  unfold State.driveVid
  repeat' with_reducible first
    | assumption
    | (extract_lets (onlyGivenNames := true) x; try (refine Keeps.cut (w := wm) (s0 := s0) (x := x) ?_ (fun hx => ?_); on_goal 1 => (unfold x; clear x)))
    | refine Keeps.lit rfl rfl rfl rfl (by assumption) (by assumption) | apply Keeps.ite | apply State.setCode_keeps | apply State.targetTop_keeps
    | apply State.emit_keeps | (refine Keeps.forEach ?_ ?_; intro a x hx)

theorem State.firstLock_keeps {wm : Bool} {s0 s : State} (hk : Keeps wm s0 s) : Keeps wm s0 (State.firstLock s) := by
  unfold State.firstLock
  repeat' with_reducible first
    | assumption
    | (extract_lets (onlyGivenNames := true) x; try (refine Keeps.cut (w := wm) (s0 := s0) (x := x) ?_ (fun hx => ?_); on_goal 1 => (unfold x; clear x)))
    | refine Keeps.lit rfl rfl rfl rfl (by assumption) (by assumption) | apply State.wr_keeps | apply State.driveVid_keeps | apply State.skipTorn_keeps
    | apply State.restoreHours_keeps | apply State.showBlt_keeps | apply State.applyRetired_keeps

theorem execPllLock_keeps {wm : Bool} {s0 s : State} (dt : Nat) (hk : Keeps wm s0 s) : KeepsR wm s0 (execPllLock dt s) := by
  unfold execPllLock
  repeat' with_reducible first
    | assumption
    | (extract_lets (onlyGivenNames := true) x; try (refine Keeps.cut (w := wm) (s0 := s0) (x := x) ?_ (fun hx => ?_); on_goal 1 => (unfold x; clear x)))
    | refine Keeps.lit rfl rfl rfl rfl (by assumption) (by assumption) | apply Keeps.ite | apply KeepsR.next | apply State.after_keeps
    | apply State.firstLock_keeps | apply State.wrB_keeps

theorem execPllLockLoss_keeps {wm : Bool} {s0 s : State} (dt : Nat) (hk : Keeps wm s0 s) : KeepsR wm s0 (execPllLockLoss dt s) := by
  unfold execPllLockLoss
  repeat' with_reducible first
    | assumption
    | (extract_lets (onlyGivenNames := true) x; try (refine Keeps.cut (w := wm) (s0 := s0) (x := x) ?_ (fun hx => ?_); on_goal 1 => (unfold x; clear x)))
    | refine Keeps.lit rfl rfl rfl rfl (by assumption) (by assumption) | apply Keeps.ite | apply KeepsR.next | apply State.after_keeps
    | apply State.wr_keeps

theorem State.refuseReq_keeps {wm : Bool} {s0 s : State} (reason : Nat) (hk : Keeps wm s0 s) : Keeps wm s0 (State.refuseReq s reason) := by
  unfold State.refuseReq
  repeat' with_reducible first
    | assumption
    | (extract_lets (onlyGivenNames := true) x; try (refine Keeps.cut (w := wm) (s0 := s0) (x := x) ?_ (fun hx => ?_); on_goal 1 => (unfold x; clear x)))
    | apply State.flag_keeps | apply State.wr_keeps

theorem State.takeReq_keeps {wm : Bool} {s0 s : State} (code : Nat) (hk : Keeps wm s0 s) : Keeps wm s0 (State.takeReq s code) := by
  unfold State.takeReq
  repeat' with_reducible first
    | assumption
    | (extract_lets (onlyGivenNames := true) x; try (refine Keeps.cut (w := wm) (s0 := s0) (x := x) ?_ (fun hx => ?_); on_goal 1 => (unfold x; clear x)))
    | refine Keeps.lit rfl rfl rfl rfl (by assumption) (by assumption) | apply Keeps.ite | apply State.enterMode_keeps | apply State.clearPend_keeps
    | apply State.healthCheck_keeps | apply State.setPend_keeps | apply State.surrenderNow_keeps

theorem State.modReq_keeps {wm : Bool} {s0 s : State} (code : Nat) (hk : Keeps wm s0 s) : Keeps wm s0 (State.modReq s code) := by
  unfold State.modReq
  repeat' with_reducible first
    | assumption
    | (extract_lets (onlyGivenNames := true) x; try (refine Keeps.cut (w := wm) (s0 := s0) (x := x) ?_ (fun hx => ?_); on_goal 1 => (unfold x; clear x)))
    | apply Keeps.ite | apply State.refuseReq_keeps | apply State.takeReq_keeps

theorem State.modReqWrite_keeps {wm : Bool} {s0 s : State} (src : Src) (code : Nat) (hk : Keeps wm s0 s) : Keeps wm s0 (State.modReqWrite s src code) := by
  unfold State.modReqWrite
  repeat' with_reducible first
    | assumption
    | (extract_lets (onlyGivenNames := true) x; try (refine Keeps.cut (w := wm) (s0 := s0) (x := x) ?_ (fun hx => ?_); on_goal 1 => (unfold x; clear x)))
    | apply State.keyed_keeps | apply State.modReq_keeps | (intro x hx)

theorem reqOf_keeps {wm : Bool} {s0 s : State} (dt : Nat) (src : Src) (code : Nat) (hk : Keeps wm s0 s) : Keeps wm s0 (reqOf dt src code s) := by
  unfold reqOf
  repeat' with_reducible first
    | assumption
    | (extract_lets (onlyGivenNames := true) x; try (refine Keeps.cut (w := wm) (s0 := s0) (x := x) ?_ (fun hx => ?_); on_goal 1 => (unfold x; clear x)))
    | apply Keeps.ite | apply State.after_keeps | apply State.modReqWrite_keeps

theorem execHold_keeps {wm : Bool} {s0 s : State} (dt : Nat) (src : Src) (hk : Keeps wm s0 s) : KeepsR wm s0 (execHold dt src s) := by
  unfold execHold
  repeat' with_reducible first
    | assumption
    | (extract_lets (onlyGivenNames := true) x; try (refine Keeps.cut (w := wm) (s0 := s0) (x := x) ?_ (fun hx => ?_); on_goal 1 => (unfold x; clear x)))
    | apply KeepsR.next | apply reqOf_keeps

theorem execHoldExit_keeps {wm : Bool} {s0 s : State} (dt : Nat) (src : Src) (hk : Keeps wm s0 s) : KeepsR wm s0 (execHoldExit dt src s) := by
  unfold execHoldExit
  repeat' with_reducible first
    | assumption
    | (extract_lets (onlyGivenNames := true) x; try (refine Keeps.cut (w := wm) (s0 := s0) (x := x) ?_ (fun hx => ?_); on_goal 1 => (unfold x; clear x)))
    | apply KeepsR.next | apply reqOf_keeps

theorem execService_keeps {wm : Bool} {s0 s : State} (dt : Nat) (src : Src) (hk : Keeps wm s0 s) : KeepsR wm s0 (execService dt src s) := by
  unfold execService
  repeat' with_reducible first
    | assumption
    | (extract_lets (onlyGivenNames := true) x; try (refine Keeps.cut (w := wm) (s0 := s0) (x := x) ?_ (fun hx => ?_); on_goal 1 => (unfold x; clear x)))
    | apply KeepsR.next | apply reqOf_keeps

theorem execServiceExit_keeps {wm : Bool} {s0 s : State} (dt : Nat) (src : Src) (hk : Keeps wm s0 s) : KeepsR wm s0 (execServiceExit dt src s) := by
  unfold execServiceExit
  repeat' with_reducible first
    | assumption
    | (extract_lets (onlyGivenNames := true) x; try (refine Keeps.cut (w := wm) (s0 := s0) (x := x) ?_ (fun hx => ?_); on_goal 1 => (unfold x; clear x)))
    | apply KeepsR.next | apply reqOf_keeps

theorem execReload_keeps {wm : Bool} {s0 s : State} (dt : Nat) (src : Src) (hk : Keeps wm s0 s) : KeepsR wm s0 (execReload dt src s) := by
  unfold execReload
  repeat' with_reducible first
    | assumption
    | (extract_lets (onlyGivenNames := true) x; try (refine Keeps.cut (w := wm) (s0 := s0) (x := x) ?_ (fun hx => ?_); on_goal 1 => (unfold x; clear x)))
    | apply KeepsR.next | apply reqOf_keeps

theorem execSurrender_keeps {wm : Bool} {s0 s : State} (dt : Nat) (src : Src) (hk : Keeps wm s0 s) : KeepsR wm s0 (execSurrender dt src s) := by
  unfold execSurrender
  repeat' with_reducible first
    | assumption
    | (extract_lets (onlyGivenNames := true) x; try (refine Keeps.cut (w := wm) (s0 := s0) (x := x) ?_ (fun hx => ?_); on_goal 1 => (unfold x; clear x)))
    | apply KeepsR.next | apply reqOf_keeps

theorem execModReqUndefined_keeps {wm : Bool} {s0 s : State} (dt : Nat) (src : Src) (code : Nat) (hk : Keeps wm s0 s) : KeepsR wm s0 (execModReqUndefined dt src code s) := by
  unfold execModReqUndefined
  repeat' with_reducible first
    | assumption
    | (extract_lets (onlyGivenNames := true) x; try (refine Keeps.cut (w := wm) (s0 := s0) (x := x) ?_ (fun hx => ?_); on_goal 1 => (unfold x; clear x)))
    | apply KeepsR.needs | apply reqOf_keeps

theorem State.reloadNow_keeps {s0 s : State} (hk : Keeps true s0 s) : Keeps true s0 (State.reloadNow s) := by
  unfold State.reloadNow
  repeat' with_reducible first
    | assumption
    | (extract_lets (onlyGivenNames := true) x; try (refine Keeps.cut (w := true) (s0 := s0) (x := x) ?_ (fun hx => ?_); on_goal 1 => (unfold x; clear x)))
    | refine Keeps.lit rfl rfl rfl rfl (by assumption) (by assumption) | apply Keeps.ite | apply State.ballsQuit_keeps | apply State.enterMode_keeps
    | apply State.clearPend_keeps | apply State.switchDomain_keeps | apply State.wr_keeps | apply State.dropMembers_keeps | apply State.mapRegs_keeps
    | apply State.keepMem_keeps | apply State.wrB_keeps | apply State.targetTop_keeps | apply State.applyRetired_keeps

theorem execReloadTransition_keeps {s0 s : State} (hk : Keeps true s0 s) : KeepsR true s0 (execReloadTransition s) := by
  unfold execReloadTransition
  repeat' with_reducible first
    | assumption
    | (extract_lets (onlyGivenNames := true) x; try (refine Keeps.cut (w := true) (s0 := s0) (x := x) ?_ (fun hx => ?_); on_goal 1 => (unfold x; clear x)))
    | apply Keeps.ite | apply KeepsR.next | apply State.runRim_keeps | apply State.reloadNow_keeps

end Sys2Proof.Machine
end

