-- ==== Sys2Proof/Laws/KeepsBus.lean ====
section
/-! SUPPORT. Every operation of Machine/Bus.lean keeps the canonical form, the queue and the fuses. -/

set_option linter.unusedVariables false
set_option linter.tactic.unusedName false
set_option linter.unusedTactic false
set_option linter.unreachableTactic false

namespace Sys2Proof.Machine

theorem State.flushMsix_keeps {wm : Bool} {s0 s : State} (hk : Keeps wm s0 s) : Keeps wm s0 (State.flushMsix s) := by
  unfold State.flushMsix
  repeat' with_reducible first
    | assumption
    | (extract_lets (onlyGivenNames := true) x; try (refine Keeps.cut (w := wm) (s0 := s0) (x := x) ?_ (fun hx => ?_); on_goal 1 => (unfold x; clear x)))
    | apply Keeps.ite | apply State.wr_keeps | apply State.emit_keeps | (refine Keeps.forEach ?_ ?_; intro a x hx)

theorem execPcieReset_keeps {wm : Bool} {s0 s : State} (dt : Nat) (hk : Keeps wm s0 s) : KeepsR wm s0 (execPcieReset dt s) := by
  unfold execPcieReset
  repeat' with_reducible first
    | assumption
    | (extract_lets (onlyGivenNames := true) x; try (refine Keeps.cut (w := wm) (s0 := s0) (x := x) ?_ (fun hx => ?_); on_goal 1 => (unfold x; clear x)))
    | refine Keeps.lit rfl rfl rfl rfl (by assumption) (by assumption) | apply KeepsR.next | apply State.after_keeps

theorem execPcieLinkUp_keeps {wm : Bool} {s0 s : State} (dt : Nat) (hk : Keeps wm s0 s) : KeepsR wm s0 (execPcieLinkUp dt s) := by
  unfold execPcieLinkUp
  repeat' with_reducible first
    | assumption
    | (extract_lets (onlyGivenNames := true) x; try (refine Keeps.cut (w := wm) (s0 := s0) (x := x) ?_ (fun hx => ?_); on_goal 1 => (unfold x; clear x)))
    | refine Keeps.lit rfl rfl rfl rfl (by assumption) (by assumption) | apply Keeps.ite | apply KeepsR.next | apply State.after_keeps
    | apply State.flushMsix_keeps

theorem State.intStatWrite_keeps {wm : Bool} {s0 s : State} (n : Nat) (v : Nat) (hk : Keeps wm s0 s) : Keeps wm s0 (State.intStatWrite s n v) := by
  unfold State.intStatWrite
  repeat' with_reducible first
    | assumption
    | (extract_lets (onlyGivenNames := true) x; try (refine Keeps.cut (w := wm) (s0 := s0) (x := x) ?_ (fun hx => ?_); on_goal 1 => (unfold x; clear x)))
    | refine Keeps.lit rfl rfl rfl rfl (by assumption) (by assumption) | apply Keeps.ite | apply State.putRaw_keeps | apply State.message_keeps
    | (refine Keeps.forEach ?_ ?_; intro a x hx)

theorem State.intEnWrite_keeps {wm : Bool} {s0 s : State} (n : Nat) (v : Nat) (hk : Keeps wm s0 s) : Keeps wm s0 (State.intEnWrite s n v) := by
  unfold State.intEnWrite
  repeat' with_reducible first
    | assumption
    | (extract_lets (onlyGivenNames := true) x; try (refine Keeps.cut (w := wm) (s0 := s0) (x := x) ?_ (fun hx => ?_); on_goal 1 => (unfold x; clear x)))
    | apply Keeps.ite | apply State.putRaw_keeps | apply State.message_keeps | (refine Keeps.forEach ?_ ?_; intro a x hx)

theorem execIntStatClear_keeps {wm : Bool} {s0 s : State} (dt : Nat) (src : Src) (n : Nat) (value : Nat) (hk : Keeps wm s0 s) : KeepsR wm s0 (execIntStatClear dt src n value s) := by
  unfold execIntStatClear
  repeat' with_reducible first
    | assumption
    | (extract_lets (onlyGivenNames := true) x; try (refine Keeps.cut (w := wm) (s0 := s0) (x := x) ?_ (fun hx => ?_); on_goal 1 => (unfold x; clear x)))
    | apply Keeps.ite | apply KeepsR.needs | apply State.after_keeps | apply State.intStatWrite_keeps

theorem execIntEnWrite_keeps {wm : Bool} {s0 s : State} (dt : Nat) (src : Src) (n : Nat) (value : Nat) (hk : Keeps wm s0 s) : KeepsR wm s0 (execIntEnWrite dt src n value s) := by
  unfold execIntEnWrite
  repeat' with_reducible first
    | assumption
    | (extract_lets (onlyGivenNames := true) x; try (refine Keeps.cut (w := wm) (s0 := s0) (x := x) ?_ (fun hx => ?_); on_goal 1 => (unfold x; clear x)))
    | apply Keeps.ite | apply KeepsR.needs | apply State.after_keeps | apply State.mirrorWrite_keeps | apply State.intEnWrite_keeps

theorem State.msixCtrlWrite_keeps {wm : Bool} {s0 s : State} (v : Nat) (w : Nat) (hk : Keeps wm s0 s) : Keeps wm s0 (State.msixCtrlWrite s v w) := by
  unfold State.msixCtrlWrite
  repeat' with_reducible first
    | assumption
    | (extract_lets (onlyGivenNames := true) x; try (refine Keeps.cut (w := wm) (s0 := s0) (x := x) ?_ (fun hx => ?_); on_goal 1 => (unfold x; clear x)))
    | apply State.wr_keeps | apply State.flushMsix_keeps

theorem execMsixUnmask_keeps {wm : Bool} {s0 s : State} (dt : Nat) (how : Nat) (v : Nat) (hk : Keeps wm s0 s) : KeepsR wm s0 (execMsixUnmask dt how v s) := by
  unfold execMsixUnmask
  repeat' with_reducible first
    | assumption
    | (extract_lets (onlyGivenNames := true) x; try (refine Keeps.cut (w := wm) (s0 := s0) (x := x) ?_ (fun hx => ?_); on_goal 1 => (unfold x; clear x)))
    | refine Keeps.lit rfl rfl rfl rfl (by assumption) (by assumption) | apply Keeps.ite | apply KeepsR.needs | apply State.after_keeps
    | apply State.mirrorWrite_keeps | apply State.msixCtrlWrite_keeps | apply State.flushMsix_keeps

theorem execI2cCommand_keeps {wm : Bool} {s0 s : State} (dt : Nat) (byte : Nat) (data : List Nat) (pecOk : Bool) (hk : Keeps wm s0 s) : KeepsR wm s0 (execI2cCommand dt byte data pecOk s) := by
  unfold execI2cCommand
  repeat' with_reducible first
    | assumption
    | (extract_lets (onlyGivenNames := true) x; try (refine Keeps.cut (w := wm) (s0 := s0) (x := x) ?_ (fun hx => ?_); on_goal 1 => (unfold x; clear x)))
    | refine Keeps.lit rfl rfl rfl rfl (by assumption) (by assumption) | apply Keeps.ite | apply KeepsR.needs | apply State.after_keeps
    | apply State.emit_keeps | apply State.flag_keeps

theorem execI2cRead_keeps {wm : Bool} {s0 s : State} (dt : Nat) (n : Nat) (hk : Keeps wm s0 s) : KeepsR wm s0 (execI2cRead dt n s) := by
  unfold execI2cRead
  repeat' with_reducible first
    | assumption
    | (extract_lets (onlyGivenNames := true) x; try (refine Keeps.cut (w := wm) (s0 := s0) (x := x) ?_ (fun hx => ?_); on_goal 1 => (unfold x; clear x)))
    | refine Keeps.lit rfl rfl rfl rfl (by assumption) (by assumption) | apply Keeps.ite | apply KeepsR.next | apply State.after_keeps
    | apply State.emit_keeps

theorem execI2cWarmReset_keeps {s0 s : State} (dt : Nat) (d0 : Nat) (d1 : Nat) (hk : Keeps true s0 s) : KeepsR true s0 (execI2cWarmReset dt d0 d1 s) := by
  unfold execI2cWarmReset
  repeat' with_reducible first
    | assumption
    | (extract_lets (onlyGivenNames := true) x; try (refine Keeps.cut (w := true) (s0 := s0) (x := x) ?_ (fun hx => ?_); on_goal 1 => (unfold x; clear x)))
    | refine Keeps.lit rfl rfl rfl rfl (by assumption) (by assumption) | apply Keeps.ite | apply KeepsR.needs | apply State.after_keeps
    | apply State.softReset_keeps | apply State.emit_keeps

theorem execI2cSclTimeout_keeps {wm : Bool} {s0 s : State} (dt : Nat) (hk : Keeps wm s0 s) : KeepsR wm s0 (execI2cSclTimeout dt s) := by
  unfold execI2cSclTimeout
  repeat' with_reducible first
    | assumption
    | (extract_lets (onlyGivenNames := true) x; try (refine Keeps.cut (w := wm) (s0 := s0) (x := x) ?_ (fun hx => ?_); on_goal 1 => (unfold x; clear x)))
    | refine Keeps.lit rfl rfl rfl rfl (by assumption) (by assumption) | apply KeepsR.next | apply State.after_keeps

theorem execPmbusTelemetry_keeps {wm : Bool} {s0 s : State} (dt : Nat) (r : Nat) (ok : Bool) (vout : Nat) (iout : Nat) (temp : Nat) (status : Nat) (hk : Keeps wm s0 s) : KeepsR wm s0 (execPmbusTelemetry dt r ok vout iout temp status s) := by
  unfold execPmbusTelemetry
  repeat' with_reducible first
    | assumption
    | (extract_lets (onlyGivenNames := true) x; try (refine Keeps.cut (w := wm) (s0 := s0) (x := x) ?_ (fun hx => ?_); on_goal 1 => (unfold x; clear x)))
    | apply Keeps.ite | apply KeepsR.needs | apply State.after_keeps | apply State.wr_keeps | apply State.flagBit_keeps

theorem execPmbAlert_keeps {wm : Bool} {s0 s : State} (dt : Nat) (r : Nat) (status : Nat) (hk : Keeps wm s0 s) : KeepsR wm s0 (execPmbAlert dt r status s) := by
  unfold execPmbAlert
  repeat' with_reducible first
    | assumption
    | (extract_lets (onlyGivenNames := true) x; try (refine Keeps.cut (w := wm) (s0 := s0) (x := x) ?_ (fun hx => ?_); on_goal 1 => (unfold x; clear x)))
    | apply Keeps.ite | apply KeepsR.needs | apply State.after_keeps | apply State.raiseInt_keeps | apply State.flag_keeps | apply State.wr_keeps

end Sys2Proof.Machine
end

