-- ==== Sys2Proof/Laws/KeepsScribe.lean ====
section
/-! SUPPORT. Every operation of Machine/Scribe.lean keeps the canonical form, the queue and the fuses. -/

set_option linter.unusedVariables false
set_option linter.tactic.unusedName false
set_option linter.unusedTactic false
set_option linter.unreachableTactic false

namespace Sys2Proof.Machine

theorem State.doorNow_keeps {wm : Bool} {s0 s : State} (hk : Keeps wm s0 s) : Keeps wm s0 (State.doorNow s) := by
  unfold State.doorNow
  repeat' with_reducible first
    | assumption
    | (extract_lets (onlyGivenNames := true) x; try (refine Keeps.cut (w := wm) (s0 := s0) (x := x) ?_ (fun hx => ?_); on_goal 1 => (unfold x; clear x)))
    | refine Keeps.lit rfl rfl rfl rfl (by assumption) (by assumption) | apply Keeps.ite | apply State.flag_keeps | apply State.wr_keeps
    | apply State.raiseInt_keeps

theorem State.doorWrite_keeps {wm : Bool} {s0 s : State} (v : Nat) (hk : Keeps wm s0 s) : Keeps wm s0 (State.doorWrite s v) := by
  unfold State.doorWrite
  repeat' with_reducible first
    | assumption
    | (extract_lets (onlyGivenNames := true) x; try (refine Keeps.cut (w := wm) (s0 := s0) (x := x) ?_ (fun hx => ?_); on_goal 1 => (unfold x; clear x)))
    | apply State.doorNow_keeps | apply State.softClear_keeps | (refine Keeps.onlyIf ?_ ?_; intro x hx)

theorem execDoor_keeps {wm : Bool} {s0 s : State} (dt : Nat) (src : Src) (value : Nat) (hk : Keeps wm s0 s) : KeepsR wm s0 (execDoor dt src value s) := by
  unfold execDoor
  repeat' with_reducible first
    | assumption
    | (extract_lets (onlyGivenNames := true) x; try (refine Keeps.cut (w := wm) (s0 := s0) (x := x) ?_ (fun hx => ?_); on_goal 1 => (unfold x; clear x)))
    | apply KeepsR.needs | apply State.after_keeps | apply State.swWrite_keeps | apply State.doorWrite_keeps | (intro x hx)

theorem State.mbAnswer_keeps {wm : Bool} {s0 s : State} (st : Nat) (code : Nat) (rsp : List Nat) (hk : Keeps wm s0 s) : Keeps wm s0 (State.mbAnswer s st code rsp) := by
  unfold State.mbAnswer
  repeat' with_reducible first
    | assumption
    | (extract_lets (onlyGivenNames := true) x; try (refine Keeps.cut (w := wm) (s0 := s0) (x := x) ?_ (fun hx => ?_); on_goal 1 => (unfold x; clear x)))
    | apply State.wr_keeps | apply State.raiseInt_keeps | (refine Keeps.forEach ?_ ?_; intro a x hx)

theorem State.mbDone_keeps {wm : Bool} {s0 s : State} (rsp : List Nat) (hk : Keeps wm s0 s) : Keeps wm s0 (State.mbDone s rsp) := by
  unfold State.mbDone
  repeat' with_reducible first
    | assumption | apply State.mbAnswer_keeps

theorem State.mbError_keeps {wm : Bool} {s0 s : State} (code : Nat) (hk : Keeps wm s0 s) : Keeps wm s0 (State.mbError s code) := by
  unfold State.mbError
  repeat' with_reducible first
    | assumption | apply State.mbAnswer_keeps

theorem State.mbOdd_keeps {wm : Bool} {s0 s : State} (hk : Keeps wm s0 s) : Keeps wm s0 (State.mbOdd s) := by
  unfold State.mbOdd
  repeat' with_reducible first
    | assumption
    | (extract_lets (onlyGivenNames := true) x; try (refine Keeps.cut (w := wm) (s0 := s0) (x := x) ?_ (fun hx => ?_); on_goal 1 => (unfold x; clear x)))
    | apply State.useFree_keeps | apply State.mbError_keeps

theorem execInfo_keeps {wm : Bool} {s0 s : State} (dt : Nat) (version : Nat) (hk : Keeps wm s0 s) : KeepsR wm s0 (execInfo dt version s) := by
  unfold execInfo
  repeat' with_reducible first
    | assumption
    | (extract_lets (onlyGivenNames := true) x; try (refine Keeps.cut (w := wm) (s0 := s0) (x := x) ?_ (fun hx => ?_); on_goal 1 => (unfold x; clear x)))
    | apply Keeps.ite | apply KeepsR.needs | apply State.after_keeps | apply State.mbDone_keeps

theorem execFlashRead_keeps {wm : Bool} {s0 s : State} (dt : Nat) (hk : Keeps wm s0 s) : KeepsR wm s0 (execFlashRead dt s) := by
  unfold execFlashRead
  repeat' with_reducible first
    | assumption
    | (extract_lets (onlyGivenNames := true) x; try (refine Keeps.cut (w := wm) (s0 := s0) (x := x) ?_ (fun hx => ?_); on_goal 1 => (unfold x; clear x)))
    | apply Keeps.ite | apply KeepsR.next | apply State.after_keeps | apply State.mbDone_keeps | apply State.mbOdd_keeps

theorem State.flashClear_keeps {s0 s : State} (sp : Nat) (a : Nat) (n : Nat) (hk : Keeps true s0 s) : Keeps true s0 (State.flashClear s sp a n) := by
  unfold State.flashClear
  repeat' with_reducible first
    | assumption | apply State.keepMem_keeps

theorem execFlashErase_keeps {s0 s : State} (dt : Nat) (hk : Keeps true s0 s) : KeepsR true s0 (execFlashErase dt s) := by
  unfold execFlashErase
  repeat' with_reducible first
    | assumption
    | (extract_lets (onlyGivenNames := true) x; try (refine Keeps.cut (w := true) (s0 := s0) (x := x) ?_ (fun hx => ?_); on_goal 1 => (unfold x; clear x)))
    | apply Keeps.ite | apply KeepsR.next | apply State.after_keeps | apply State.mbError_keeps | apply State.flashClear_keeps | apply State.emit_keeps
    | apply State.mbDone_keeps | apply State.mbOdd_keeps

theorem State.flashByte_keeps {s0 s : State} (sp : Nat) (a : Nat) (v : Nat) (hk : Keeps true s0 s) : Keeps true s0 (State.flashByte s sp a v) := by
  unfold State.flashByte
  repeat' with_reducible first
    | assumption
    | (extract_lets (onlyGivenNames := true) x; try (refine Keeps.cut (w := true) (s0 := s0) (x := x) ?_ (fun hx => ?_); on_goal 1 => (unfold x; clear x)))
    | apply State.putMem8_keeps

theorem execFlashWrite_keeps {s0 s : State} (dt : Nat) (hk : Keeps true s0 s) : KeepsR true s0 (execFlashWrite dt s) := by
  unfold execFlashWrite
  repeat' with_reducible first
    | assumption
    | (extract_lets (onlyGivenNames := true) x; try (refine Keeps.cut (w := true) (s0 := s0) (x := x) ?_ (fun hx => ?_); on_goal 1 => (unfold x; clear x)))
    | apply Keeps.ite | apply KeepsR.next | apply State.after_keeps | apply State.mbError_keeps | apply State.flashByte_keeps | apply State.emit_keeps
    | apply State.mbDone_keeps | apply State.mbOdd_keeps | (refine Keeps.forEach ?_ ?_; intro a x hx)

theorem execSlotCheck_keeps {wm : Bool} {s0 s : State} (dt : Nat) (env : LoadEnv) (hk : Keeps wm s0 s) : KeepsR wm s0 (execSlotCheck dt env s) := by
  unfold execSlotCheck
  repeat' with_reducible first
    | assumption
    | (extract_lets (onlyGivenNames := true) x; try (refine Keeps.cut (w := wm) (s0 := s0) (x := x) ?_ (fun hx => ?_); on_goal 1 => (unfold x; clear x)))
    | apply Keeps.ite | apply KeepsR.next | apply State.after_keeps | apply State.mbDone_keeps | apply State.mbOdd_keeps

theorem execSelftest_keeps {wm : Bool} {s0 s : State} (dt : Nat) (pass : Bool) (hk : Keeps wm s0 s) : KeepsR wm s0 (execSelftest dt pass s) := by
  unfold execSelftest
  repeat' with_reducible first
    | assumption
    | (extract_lets (onlyGivenNames := true) x; try (refine Keeps.cut (w := wm) (s0 := s0) (x := x) ?_ (fun hx => ?_); on_goal 1 => (unfold x; clear x)))
    | apply Keeps.ite | apply KeepsR.next | apply State.after_keeps | apply State.testEnds_keeps | apply State.mbDone_keeps | apply State.verdict_keeps
    | apply State.mbOdd_keeps | split

theorem execBlotterSync_keeps {wm : Bool} {s0 s : State} (dt : Nat) (hk : Keeps wm s0 s) : KeepsR wm s0 (execBlotterSync dt s) := by
  unfold execBlotterSync
  repeat' with_reducible first
    | assumption
    | (extract_lets (onlyGivenNames := true) x; try (refine Keeps.cut (w := wm) (s0 := s0) (x := x) ?_ (fun hx => ?_); on_goal 1 => (unfold x; clear x)))
    | apply Keeps.ite | apply KeepsR.next | apply State.after_keeps | apply State.mbDone_keeps

theorem execMailboxUnknownOp_keeps {wm : Bool} {s0 s : State} (dt : Nat) (hk : Keeps wm s0 s) : KeepsR wm s0 (execMailboxUnknownOp dt s) := by
  unfold execMailboxUnknownOp
  repeat' with_reducible first
    | assumption
    | (extract_lets (onlyGivenNames := true) x; try (refine Keeps.cut (w := wm) (s0 := s0) (x := x) ?_ (fun hx => ?_); on_goal 1 => (unfold x; clear x)))
    | apply Keeps.ite | apply KeepsR.next | apply State.after_keeps | apply State.mbError_keeps

theorem State.runDeferred_keeps {wm : Bool} {s0 s : State} (p : Nat × Nat × Nat → Bool) (overdue : Bool) (hk : Keeps wm s0 s) : Keeps wm s0 (State.runDeferred s p overdue) := by
  unfold State.runDeferred
  repeat' with_reducible first
    | assumption
    | (extract_lets (onlyGivenNames := true) x; try (refine Keeps.cut (w := wm) (s0 := s0) (x := x) ?_ (fun hx => ?_); on_goal 1 => (unfold x; clear x)))
    | refine Keeps.lit rfl rfl rfl rfl (by assumption) (by assumption) | apply Keeps.ite | apply State.showDefer_keeps | apply State.wr_keeps
    | apply State.schedStart_keeps | (refine Keeps.forEach ?_ ?_; intro a x hx)

theorem execLoadWindowEnd_keeps {wm : Bool} {s0 s : State} (busy : Nat) (hk : Keeps wm s0 s) : KeepsR wm s0 (execLoadWindowEnd busy s) := by
  unfold execLoadWindowEnd
  repeat' with_reducible first
    | assumption
    | (extract_lets (onlyGivenNames := true) x; try (refine Keeps.cut (w := wm) (s0 := s0) (x := x) ?_ (fun hx => ?_); on_goal 1 => (unfold x; clear x)))
    | apply Keeps.ite | apply KeepsR.needs | apply State.runRim_keeps | apply State.wr_keeps | apply State.runDeferred_keeps

theorem State.runOverdue_keeps {wm : Bool} {s0 s : State} (hk : Keeps wm s0 s) : Keeps wm s0 (State.runOverdue s) := by
  unfold State.runOverdue
  repeat' with_reducible first
    | assumption | apply State.runDeferred_keeps

theorem execOverdueTest_keeps {wm : Bool} {s0 s : State} (hk : Keeps wm s0 s) : KeepsR wm s0 (execOverdueTest s) := by
  unfold execOverdueTest
  repeat' with_reducible first
    | assumption
    | (extract_lets (onlyGivenNames := true) x; try (refine Keeps.cut (w := wm) (s0 := s0) (x := x) ?_ (fun hx => ?_); on_goal 1 => (unfold x; clear x)))
    | apply Keeps.ite | apply KeepsR.next | apply State.runRim_keeps | apply State.runOverdue_keeps | split

theorem State.kickWrite_keeps {wm : Bool} {s0 s : State} (src : Src) (v : Nat) (hk : Keeps wm s0 s) : Keeps wm s0 (State.kickWrite s src v) := by
  unfold State.kickWrite
  repeat' with_reducible first
    | assumption
    | (extract_lets (onlyGivenNames := true) x; try (refine Keeps.cut (w := wm) (s0 := s0) (x := x) ?_ (fun hx => ?_); on_goal 1 => (unfold x; clear x)))
    | refine Keeps.lit rfl rfl rfl rfl (by assumption) (by assumption) | apply Keeps.ite

theorem execKick_keeps {wm : Bool} {s0 s : State} (dt : Nat) (src : Src) (hk : Keeps wm s0 s) : KeepsR wm s0 (execKick dt src s) := by
  unfold execKick
  repeat' with_reducible first
    | assumption
    | (extract_lets (onlyGivenNames := true) x; try (refine Keeps.cut (w := wm) (s0 := s0) (x := x) ?_ (fun hx => ?_); on_goal 1 => (unfold x; clear x)))
    | apply KeepsR.next | apply State.after_keeps | apply State.swWrite_keeps | apply State.kickWrite_keeps | (intro x hx)

theorem State.scribeHeld_keeps {wm : Bool} {s0 s : State} (hk : Keeps wm s0 s) : Keeps wm s0 (State.scribeHeld s) := by
  unfold State.scribeHeld
  repeat' with_reducible first
    | assumption
    | (extract_lets (onlyGivenNames := true) x; try (refine Keeps.cut (w := wm) (s0 := s0) (x := x) ?_ (fun hx => ?_); on_goal 1 => (unfold x; clear x)))
    | refine Keeps.lit rfl rfl rfl rfl (by assumption) (by assumption) | apply Keeps.ite | apply State.wr_keeps | apply State.bump_keeps
    | apply State.journal_keeps | apply State.scribeEnds_keeps | apply State.raiseInt_keeps | apply State.disarm_keeps
    | (refine Keeps.forEach ?_ ?_; intro a x hx)

theorem execWatchdogExpire_keeps {wm : Bool} {s0 s : State} (hk : Keeps wm s0 s) : KeepsR wm s0 (execWatchdogExpire s) := by
  unfold execWatchdogExpire
  repeat' with_reducible first
    | assumption
    | (extract_lets (onlyGivenNames := true) x; try (refine Keeps.cut (w := wm) (s0 := s0) (x := x) ?_ (fun hx => ?_); on_goal 1 => (unfold x; clear x)))
    | apply Keeps.ite | apply KeepsR.next | apply State.runRim_keeps | apply State.scribeHeld_keeps

theorem execRestartComplete_keeps {wm : Bool} {s0 s : State} (dt : Nat) (digestOk : Bool) (hk : Keeps wm s0 s) : KeepsR wm s0 (execRestartComplete dt digestOk s) := by
  unfold execRestartComplete
  repeat' with_reducible first
    | assumption
    | (extract_lets (onlyGivenNames := true) x; try (refine Keeps.cut (w := wm) (s0 := s0) (x := x) ?_ (fun hx => ?_); on_goal 1 => (unfold x; clear x)))
    | refine Keeps.lit rfl rfl rfl rfl (by assumption) (by assumption) | apply Keeps.ite | apply KeepsR.next | apply State.after_keeps
    | apply State.wrU_keeps | apply State.wr_keeps | apply State.wrB_keeps | apply State.runOverdue_keeps | split

end Sys2Proof.Machine
end

