-- ==== Sys2Proof/Laws/KeepsWindows.lean ====
section
/-! SUPPORT. Every operation of Machine/Windows.lean keeps the canonical form, the queue and the fuses. -/

set_option linter.unusedVariables false
set_option linter.tactic.unusedName false
set_option linter.unusedTactic false
set_option linter.unreachableTactic false

namespace Sys2Proof.Machine

theorem State.laneWrite_keeps {s0 s : State} (a : Nat) (v : Nat) (hk : Keeps true s0 s) : Keeps true s0 (State.laneWrite s a v) := by
  unfold State.laneWrite
  repeat' with_reducible first
    | assumption
    | (extract_lets (onlyGivenNames := true) x; try (refine Keeps.cut (w := true) (s0 := s0) (x := x) ?_ (fun hx => ?_); on_goal 1 => (unfold x; clear x)))
    | apply Keeps.ite | apply State.putMem32_keeps

theorem State.modelWrite_keeps {s0 s : State} (a : Nat) (v : Nat) (hk : Keeps true s0 s) : Keeps true s0 (State.modelWrite s a v) := by
  unfold State.modelWrite
  repeat' with_reducible first
    | assumption
    | (extract_lets (onlyGivenNames := true) x; try (refine Keeps.cut (w := true) (s0 := s0) (x := x) ?_ (fun hx => ?_); on_goal 1 => (unfold x; clear x)))
    | refine Keeps.lit rfl rfl rfl rfl (by assumption) (by assumption) | apply Keeps.ite | apply State.twinSend_keeps | apply State.dqWrite_keeps
    | apply State.putMem32_keeps

theorem State.spacePut_keeps {s0 s : State} (sp : Nat) (a : Nat) (v : Nat) (hk : Keeps true s0 s) : Keeps true s0 (State.spacePut s sp a v).1 := by
  show KeepsP true s0 _
  unfold State.spacePut
  repeat' with_reducible first
    | assumption
    | (extract_lets (onlyGivenNames := true) x; try (refine Keeps.cut (w := true) (s0 := s0) (x := x) ?_ (fun hx => ?_); on_goal 1 => (unfold x; clear x)))
    | apply KeepsP.ite | apply KeepsP.mk | apply State.putMem32_keeps | apply State.modelWrite_keeps | apply State.laneWrite_keeps

theorem State.putWinQ_keeps {wm : Bool} {s0 s : State} (w : Nat) (q : Window) (hk : Keeps wm s0 s) : Keeps wm s0 (State.putWinQ s w q) := by
  unfold State.putWinQ
  repeat' with_reducible first
    | assumption
    | (extract_lets (onlyGivenNames := true) x; try (refine Keeps.cut (w := wm) (s0 := s0) (x := x) ?_ (fun hx => ?_); on_goal 1 => (unfold x; clear x)))
    | refine Keeps.lit rfl rfl rfl rfl (by assumption) (by assumption) | apply State.putRaw_keeps | apply State.wrB_keeps

theorem State.winStore_keeps {s0 s : State} (w : Nat) (sp : Nat) (a : Nat) (v : Nat) (hk : Keeps true s0 s) : Keeps true s0 (State.winStore s w sp a v).1 := by
  show KeepsP true s0 _
  unfold State.winStore
  repeat' with_reducible first
    | assumption
    | (extract_lets (onlyGivenNames := true) x; try (refine Keeps.cut (w := true) (s0 := s0) (x := x) ?_ (fun hx => ?_); on_goal 1 => (unfold x; clear x)))
    | refine Keeps.lit rfl rfl rfl rfl (by first | assumption | (refine KeepsP.get (by assumption) ?_; refine KeepsP.of ?_; apply State.spacePut_keeps; assumption)) (by first | assumption | (refine KeepsP.get (by assumption) ?_; refine KeepsP.of ?_; apply State.spacePut_keeps; assumption))
    | apply KeepsP.ite | apply KeepsP.mk | apply State.spacePut_keeps | split

theorem State.winPut_keeps {s0 s : State} (w : Nat) (x : Nat × Nat × Nat) (hk : Keeps true s0 s) : Keeps true s0 (State.winPut s w x) := by
  unfold State.winPut
  repeat' with_reducible first
    | assumption
    | (extract_lets (onlyGivenNames := true) x; try (refine Keeps.cut (w := true) (s0 := s0) (x := x) ?_ (fun hx => ?_); on_goal 1 => (unfold x; clear x)))
    | apply Keeps.ite | apply State.flag_keeps | apply State.winStore_keeps

theorem State.winStep_keeps {s0 s : State} (w : Nat) (hk : Keeps true s0 s) : Keeps true s0 (State.winStep w s) := by
  unfold State.winStep
  repeat' with_reducible first
    | assumption
    | (extract_lets (onlyGivenNames := true) x; try (refine Keeps.cut (w := true) (s0 := s0) (x := x) ?_ (fun hx => ?_); on_goal 1 => (unfold x; clear x)))
    | apply State.putWinQ_keeps | apply State.winPut_keeps | split

theorem State.winDrain_keeps {s0 s : State} (w : Nat) (hk : Keeps true s0 s) : Keeps true s0 (State.winDrain s w) := by
  unfold State.winDrain
  repeat' with_reducible first
    | assumption
    | (extract_lets (onlyGivenNames := true) x; try (refine Keeps.cut (w := true) (s0 := s0) (x := x) ?_ (fun hx => ?_); on_goal 1 => (unfold x; clear x)))
    | apply State.winStep_keeps | (refine Keeps.forEach ?_ ?_; intro a x hx)

theorem State.winGet_keeps {wm : Bool} {s0 s : State} (w : Nat) (sp : Nat) (a : Nat) (hk : Keeps wm s0 s) : Keeps wm s0 (State.winGet s w sp a).1 := by
  show KeepsP wm s0 _
  unfold State.winGet
  repeat' with_reducible first
    | assumption
    | (extract_lets (onlyGivenNames := true) x; try (refine Keeps.cut (w := wm) (s0 := s0) (x := x) ?_ (fun hx => ?_); on_goal 1 => (unfold x; clear x)))
    | apply KeepsP.ite | apply KeepsP.mk | apply State.flag_keeps

theorem State.winAdvance_keeps {wm : Bool} {s0 s : State} (w : Nat) (hk : Keeps wm s0 s) : Keeps wm s0 (State.winAdvance s w) := by
  unfold State.winAdvance
  repeat' with_reducible first
    | assumption
    | (extract_lets (onlyGivenNames := true) x; try (refine Keeps.cut (w := wm) (s0 := s0) (x := x) ?_ (fun hx => ?_); on_goal 1 => (unfold x; clear x)))
    | apply Keeps.ite | apply State.wr_keeps | apply State.flag_keeps

theorem State.winRead_keeps {s0 s : State} (src : Src) (w : Nat) (be : Nat) (hk : Keeps true s0 s) : Keeps true s0 (State.winRead s src w be) := by
  unfold State.winRead
  repeat' with_reducible first
    | assumption
    | (extract_lets (onlyGivenNames := true) x; try (refine Keeps.cut (w := true) (s0 := s0) (x := x) ?_ (fun hx => ?_); on_goal 1 => (unfold x; clear x)))
    | apply State.winDrain_keeps | apply State.winGet_keeps | apply State.wr_keeps | apply State.winAdvance_keeps | apply State.answer_keeps

theorem State.winWrite_keeps {wm : Bool} {s0 s : State} (w : Nat) (v : Nat) (hk : Keeps wm s0 s) : Keeps wm s0 (State.winWrite s w v) := by
  unfold State.winWrite
  repeat' with_reducible first
    | assumption
    | (extract_lets (onlyGivenNames := true) x; try (refine Keeps.cut (w := wm) (s0 := s0) (x := x) ?_ (fun hx => ?_); on_goal 1 => (unfold x; clear x)))
    | apply Keeps.ite | apply State.flag_keeps | apply State.wr_keeps | apply State.putWinQ_keeps | apply State.winAdvance_keeps

theorem execIndDataRead_keeps {s0 s : State} (dt : Nat) (r : Reader) (w : Nat) (hk : Keeps true s0 s) : KeepsR true s0 (execIndDataRead dt r w s) := by
  unfold execIndDataRead
  repeat' with_reducible first
    | assumption
    | (extract_lets (onlyGivenNames := true) x; try (refine Keeps.cut (w := true) (s0 := s0) (x := x) ?_ (fun hx => ?_); on_goal 1 => (unfold x; clear x)))
    | apply Keeps.ite | apply KeepsR.needs | apply State.after_keeps | apply State.winRead_keeps

theorem execIndDataWrite_keeps {wm : Bool} {s0 s : State} (dt : Nat) (src : Src) (w : Nat) (value : Nat) (hk : Keeps wm s0 s) : KeepsR wm s0 (execIndDataWrite dt src w value s) := by
  unfold execIndDataWrite
  repeat' with_reducible first
    | assumption
    | (extract_lets (onlyGivenNames := true) x; try (refine Keeps.cut (w := wm) (s0 := s0) (x := x) ?_ (fun hx => ?_); on_goal 1 => (unfold x; clear x)))
    | apply Keeps.ite | apply KeepsR.needs | apply State.after_keeps | apply State.winWrite_keeps

theorem execIndWritePerform_keeps {s0 s : State} (dt : Nat) (w : Nat) (hk : Keeps true s0 s) : KeepsR true s0 (execIndWritePerform dt w s) := by
  unfold execIndWritePerform
  repeat' with_reducible first
    | assumption
    | (extract_lets (onlyGivenNames := true) x; try (refine Keeps.cut (w := true) (s0 := s0) (x := x) ?_ (fun hx => ?_); on_goal 1 => (unfold x; clear x)))
    | apply Keeps.ite | apply KeepsR.needs | apply State.after_keeps | apply State.winStep_keeps

theorem execIndTimeout_keeps {s0 s : State} (dt : Nat) (w : Nat) (reader : Option Src) (hk : Keeps true s0 s) : KeepsR true s0 (execIndTimeout dt w reader s) := by
  unfold execIndTimeout
  repeat' with_reducible first
    | assumption
    | (extract_lets (onlyGivenNames := true) x; try (refine Keeps.cut (w := true) (s0 := s0) (x := x) ?_ (fun hx => ?_); on_goal 1 => (unfold x; clear x)))
    | apply Keeps.ite | apply KeepsR.needs | apply State.after_keeps | apply State.winDrain_keeps | apply State.flag_keeps | apply State.wr_keeps
    | apply State.winAdvance_keeps | apply State.emit_keeps | apply State.putWinQ_keeps | split

theorem execApertureRead_keeps {s0 s : State} (dt : Nat) (a : ApRead) (hk : Keeps true s0 s) : KeepsR true s0 (execApertureRead dt a s) := by
  unfold execApertureRead
  repeat' with_reducible first
    | assumption
    | (extract_lets (onlyGivenNames := true) x; try (refine Keeps.cut (w := true) (s0 := s0) (x := x) ?_ (fun hx => ?_); on_goal 1 => (unfold x; clear x)))
    | apply Keeps.ite | apply KeepsR.needs | apply State.after_keeps | apply State.winDrain_keeps | apply State.winGet_keeps | apply State.answer_keeps

theorem execApertureWrite_keeps {wm : Bool} {s0 s : State} (dt : Nat) (ofs : Nat) (value : Nat) (be : Nat) (hk : Keeps wm s0 s) : KeepsR wm s0 (execApertureWrite dt ofs value be s) := by
  unfold execApertureWrite
  repeat' with_reducible first
    | assumption
    | (extract_lets (onlyGivenNames := true) x; try (refine Keeps.cut (w := wm) (s0 := s0) (x := x) ?_ (fun hx => ?_); on_goal 1 => (unfold x; clear x)))
    | apply Keeps.ite | apply KeepsR.needs | apply State.after_keeps | apply State.flag_keeps | apply State.putWinQ_keeps

end Sys2Proof.Machine
end

