-- ==== Sys2Proof/Laws/KeepsAccess.lean ====
section
/-! SUPPORT. Every operation of Machine/Access.lean keeps the canonical form, the queue and the fuses. -/

set_option linter.unusedVariables false
set_option linter.tactic.unusedName false
set_option linter.unusedTactic false
set_option linter.unreachableTactic false

namespace Sys2Proof.Machine

theorem State.pbCtrlWrite_keeps {wm : Bool} {s0 s : State} (b : Nat) (v : Nat) (hk : Keeps wm s0 s) : Keeps wm s0 (State.pbCtrlWrite s b v) := by
  unfold State.pbCtrlWrite
  repeat' with_reducible first
    | assumption
    | (extract_lets (onlyGivenNames := true) x; try (refine Keeps.cut (w := wm) (s0 := s0) (x := x) ?_ (fun hx => ?_); on_goal 1 => (unfold x; clear x)))
    | apply Keeps.ite | apply State.pbFlush_keeps | apply State.pbLeave_keeps | apply State.pbSwitch_keeps | apply State.wr_keeps
    | apply State.showPb_keeps | apply State.tripClear_keeps

theorem State.rwWrite_keeps {s0 s : State} (who : Option Src) (a : Nat) (v : Nat) (m : Nat) (key : Bool) (hk : Keeps true s0 s) : Keeps true s0 (State.rwWrite s who a v m key) := by
  unfold State.rwWrite
  repeat' with_reducible first
    | assumption
    | (extract_lets (onlyGivenNames := true) x; try (refine Keeps.cut (w := true) (s0 := s0) (x := x) ?_ (fun hx => ?_); on_goal 1 => (unfold x; clear x)))
    | apply Keeps.ite | apply State.headerWrite_keeps | apply State.plainMask_keeps | apply State.ppsCheck_keeps | apply State.intEnWrite_keeps
    | apply State.msixCtrlWrite_keeps | apply State.dutySoft_keeps | apply State.pbCtrlWrite_keeps | apply State.obsWrite_keeps
    | apply State.sfCtrlWrite_keeps | apply State.sfTimerWrite_keeps | apply State.inkCtrlWrite_keeps | apply State.fbStored_keeps | split

theorem State.special_keeps {s0 s : State} (src : Src) (l : Loc) (a : Nat) (v : Nat) (hk : Keeps true s0 s) : KeepsO true s0 (State.special s src l a v) := by
  unfold State.special
  repeat' with_reducible first
    | assumption
    | (extract_lets (onlyGivenNames := true) x; try (refine Keeps.cut (w := true) (s0 := s0) (x := x) ?_ (fun hx => ?_); on_goal 1 => (unfold x; clear x)))
    | apply Keeps.ite | apply KeepsO.ite | apply KeepsO.some | apply KeepsO.none | apply State.devCtrlWrite_keeps | apply State.intStatWrite_keeps
    | apply State.commitWrite_keeps | apply State.unlockWrite_keeps | apply State.tbAdjWrite_keeps | apply State.keyed_keeps
    | apply State.tbStepWrite_keeps | apply State.evtAtWrite_keeps | apply State.modReqWrite_keeps | apply State.winWrite_keeps
    | apply State.pushWrite_keeps | apply State.cmdWrite_keeps | apply State.ackWrite_keeps | apply State.wr_keeps | apply State.intRstWrite_keeps
    | apply State.fbCmpWrite_keeps | apply State.fbPosWrite_keeps | apply State.zarmWrite_keeps | apply State.dutySoft_keeps
    | apply State.pbCtrlWrite_keeps | apply State.revertWrite_keeps | apply State.hbNowWrite_keeps | apply State.submitWrite_keeps
    | apply State.putRaw_keeps | apply State.cancelWrite_keeps | apply State.kickWrite_keeps | apply State.doorWrite_keeps
    | apply State.sfCtrlWrite_keeps | apply State.inkCtrlWrite_keeps | (intro x hx)

theorem State.takeKey_keeps {wm : Bool} {s0 s : State} (src : Src) (r : RegRow) (a : Nat) (hk : Keeps wm s0 s) : Keeps wm s0 (State.takeKey s src r a).1 := by
  show KeepsP wm s0 _
  unfold State.takeKey
  repeat' with_reducible first
    | assumption
    | (extract_lets (onlyGivenNames := true) x; try (refine Keeps.cut (w := wm) (s0 := s0) (x := x) ?_ (fun hx => ?_); on_goal 1 => (unfold x; clear x)))
    | apply KeepsP.ite | apply KeepsP.mk | apply State.disarm_keeps | apply State.flag_keeps | apply State.violInfo_keeps

theorem State.wordWrite_keeps {s0 s : State} (src : Src) (l : Loc) (r : RegRow) (a : Nat) (v : Nat) (hk : Keeps true s0 s) : Keeps true s0 (State.wordWrite s src l r a v).1 := by
  show KeepsP true s0 _
  unfold State.wordWrite
  repeat' with_reducible first
    | assumption
    | (extract_lets (onlyGivenNames := true) x; try (refine Keeps.cut (w := true) (s0 := s0) (x := x) ?_ (fun hx => ?_); on_goal 1 => (unfold x; clear x)))
    | refine Keeps.lit rfl rfl rfl rfl (by first | assumption | (refine KeepsO.get (by assumption) ?_; apply State.special_keeps; assumption) | (refine KeepsP.get (by assumption) ?_; refine KeepsP.of ?_; apply State.takeKey_keeps; assumption)) (by first | assumption | (refine KeepsO.get (by assumption) ?_; apply State.special_keeps; assumption) | (refine KeepsP.get (by assumption) ?_; refine KeepsP.of ?_; apply State.takeKey_keeps; assumption))
    | apply KeepsP.mk | apply State.takeKey_keeps | apply State.rwWrite_keeps | split

theorem State.hostAgain_keeps {s0 s : State} (l : Loc) (r : RegRow) (a : Nat) (v : Nat) (key : Bool) (hk : Keeps true s0 s) : Keeps true s0 (State.hostAgain s l r a v key) := by
  unfold State.hostAgain
  repeat' with_reducible first
    | assumption
    | (extract_lets (onlyGivenNames := true) x; try (refine Keeps.cut (w := true) (s0 := s0) (x := x) ?_ (fun hx => ?_); on_goal 1 => (unfold x; clear x)))
    | refine Keeps.lit rfl rfl rfl rfl (by first | assumption | (refine KeepsO.get (by assumption) ?_; apply State.special_keeps; assumption)) (by first | assumption | (refine KeepsO.get (by assumption) ?_; apply State.special_keeps; assumption))
    | apply Keeps.ite | apply State.putField_keeps | (refine Keeps.forEach ?_ ?_; intro a x hx) | split

theorem State.regWrite_keeps {s0 s : State} (src : Src) (a : Nat) (v : Nat) (hk : Keeps true s0 s) : Keeps true s0 (State.regWrite s src a v) := by
  unfold State.regWrite
  repeat' with_reducible first
    | assumption
    | (extract_lets (onlyGivenNames := true) x; try (refine Keeps.cut (w := true) (s0 := s0) (x := x) ?_ (fun hx => ?_); on_goal 1 => (unfold x; clear x)))
    | refine Keeps.lit rfl rfl rfl rfl (by first | assumption | (refine KeepsP.get (by assumption) ?_; refine KeepsP.of ?_; apply State.wordWrite_keeps; assumption)) (by first | assumption | (refine KeepsP.get (by assumption) ?_; refine KeepsP.of ?_; apply State.wordWrite_keeps; assumption))
    | apply Keeps.ite | apply State.headerWrite_keeps | apply State.mirrorWrite_keeps | apply State.wordWrite_keeps | apply State.hostAgain_keeps | split

theorem State.ringRefuse_keeps {wm : Bool} {s0 s : State} (a : Nat) (hk : Keeps wm s0 s) : Keeps wm s0 (State.ringRefuse s a) := by
  unfold State.ringRefuse
  repeat' with_reducible first
    | assumption
    | (extract_lets (onlyGivenNames := true) x; try (refine Keeps.cut (w := wm) (s0 := s0) (x := x) ?_ (fun hx => ?_); on_goal 1 => (unfold x; clear x)))
    | apply State.flag_keeps | apply State.violInfo_keeps

theorem State.ringApply_keeps {s0 s : State} (l : Loc) (r : RegRow) (a : Nat) (m : Nat) (v : Nat) (hk : Keeps true s0 s) : Keeps true s0 (State.ringApply s l r a m v) := by
  unfold State.ringApply
  repeat' with_reducible first
    | assumption
    | (extract_lets (onlyGivenNames := true) x; try (refine Keeps.cut (w := true) (s0 := s0) (x := x) ?_ (fun hx => ?_); on_goal 1 => (unfold x; clear x)))
    | refine Keeps.lit rfl rfl rfl rfl (by first | assumption | (refine KeepsO.get (by assumption) ?_; apply State.special_keeps; assumption)) (by first | assumption | (refine KeepsO.get (by assumption) ?_; apply State.special_keeps; assumption))
    | apply Keeps.ite | apply State.rwWrite_keeps | apply State.storeMask_keeps | apply State.putAct_keeps | split

theorem State.ringWrite_keeps {s0 s : State} (x : Nat × Nat × Nat) (hk : Keeps true s0 s) : Keeps true s0 (State.ringWrite x s) := by
  unfold State.ringWrite
  repeat' with_reducible first
    | assumption
    | (extract_lets (onlyGivenNames := true) x; try (refine Keeps.cut (w := true) (s0 := s0) (x := x) ?_ (fun hx => ?_); on_goal 1 => (unfold x; clear x)))
    | apply Keeps.ite | apply State.ringRefuse_keeps | apply State.pdOff_keeps | apply State.ringApply_keeps | apply State.mirror_keeps | split

theorem State.reaches_keeps {wm : Bool} {s0 s : State} (src : Src) (a : Nat) (hk : Keeps wm s0 s) : Keeps wm s0 (State.reaches s src a).1 := by
  show KeepsP wm s0 _
  unfold State.reaches
  repeat' with_reducible first
    | assumption
    | (extract_lets (onlyGivenNames := true) x; try (refine Keeps.cut (w := wm) (s0 := s0) (x := x) ?_ (fun hx => ?_); on_goal 1 => (unfold x; clear x)))
    | apply KeepsP.mk | apply State.pdOff_keeps | split

theorem execRegisterWrite_keeps {s0 s : State} (dt : Nat) (src : Src) (addr : Nat) (value : Nat) (be : Nat) (hk : Keeps true s0 s) : KeepsR true s0 (execRegisterWrite dt src addr value be s) := by
  unfold execRegisterWrite
  repeat' with_reducible first
    | assumption
    | (extract_lets (onlyGivenNames := true) x; try (refine Keeps.cut (w := true) (s0 := s0) (x := x) ?_ (fun hx => ?_); on_goal 1 => (unfold x; clear x)))
    | apply Keeps.ite | apply KeepsR.needs | apply State.after_keeps | apply State.ringWrite_keeps | apply State.reaches_keeps | apply State.flag_keeps
    | apply State.violInfo_keeps | apply State.regWrite_keeps | split

theorem State.regRead_keeps {s0 s : State} (src : Src) (a : Nat) (be : Nat) (hk : Keeps true s0 s) : Keeps true s0 (State.regRead s src a be) := by
  unfold State.regRead
  repeat' with_reducible first
    | assumption
    | (extract_lets (onlyGivenNames := true) x; try (refine Keeps.cut (w := true) (s0 := s0) (x := x) ?_ (fun hx => ?_); on_goal 1 => (unfold x; clear x)))
    | apply Keeps.ite | apply State.reaches_keeps | apply State.answer_keeps | apply State.putSnap_keeps | apply State.capRead_keeps
    | apply State.winRead_keeps | apply State.latchRead_keeps | apply State.resRead_keeps | split

end Sys2Proof.Machine
end

