-- ==== Sys2Proof/Laws/KeepsRingFlow.lean ====
section
/-! SUPPORT. Every operation of Machine/RingFlow.lean keeps the canonical form, the queue and the fuses. -/

set_option linter.unusedVariables false
set_option linter.tactic.unusedName false
set_option linter.unusedTactic false
set_option linter.unreachableTactic false

namespace Sys2Proof.Machine

theorem State.copyNow_keeps {s0 s : State} (g : Nat) (hk : Keeps true s0 s) : Keeps true s0 (State.copyNow s g) := by
  unfold State.copyNow
  repeat' with_reducible first
    | assumption
    | (extract_lets (onlyGivenNames := true) x; try (refine Keeps.cut (w := true) (s0 := s0) (x := x) ?_ (fun hx => ?_); on_goal 1 => (unfold x; clear x)))
    | apply Keeps.ite | apply State.copyMember_keeps | (refine Keeps.forEach ?_ ?_; intro a x hx)

theorem State.cfgCommit_keeps {s0 s : State} (v : Nat) (at_ : Nat) (hk : Keeps true s0 s) : Keeps true s0 (State.cfgCommit s v at_) := by
  unfold State.cfgCommit
  repeat' with_reducible first
    | assumption
    | (extract_lets (onlyGivenNames := true) x; try (refine Keeps.cut (w := true) (s0 := s0) (x := x) ?_ (fun hx => ?_); on_goal 1 => (unfold x; clear x)))
    | apply Keeps.ite | apply State.wr_keeps | apply State.copyNow_keeps | apply State.requestGroup_keeps | (refine Keeps.forEach ?_ ?_; intro a x hx)

theorem State.applyCfg_keeps {s0 s : State} (m : CfgMsg) (hk : Keeps true s0 s) : Keeps true s0 (State.applyCfg m s) := by
  unfold State.applyCfg
  repeat' with_reducible first
    | assumption
    | (extract_lets (onlyGivenNames := true) x; try (refine Keeps.cut (w := true) (s0 := s0) (x := x) ?_ (fun hx => ?_); on_goal 1 => (unfold x; clear x)))
    | apply Keeps.ite | apply State.rwWrite_keeps | apply State.cfgCommit_keeps | apply State.accept_keeps | apply State.putQueue_keeps
    | apply State.ringWrite_keeps | split

theorem State.cfgPoll_keeps {s0 s : State} (hk : Keeps true s0 s) : Keeps true s0 (State.cfgPoll s) := by
  unfold State.cfgPoll
  repeat' with_reducible first
    | assumption
    | (extract_lets (onlyGivenNames := true) x; try (refine Keeps.cut (w := true) (s0 := s0) (x := x) ?_ (fun hx => ?_); on_goal 1 => (unfold x; clear x)))
    | refine Keeps.lit rfl rfl rfl rfl (by assumption) (by assumption) | apply Keeps.ite | apply State.applyCfg_keeps
    | (refine Keeps.forEach ?_ ?_; intro a x hx)

theorem execCfg_keeps {s0 s : State} (dt : Nat) (m : CfgMsg) (hk : Keeps true s0 s) : KeepsR true s0 (execCfg dt m s) := by
  unfold execCfg
  repeat' with_reducible first
    | assumption
    | (extract_lets (onlyGivenNames := true) x; try (refine Keeps.cut (w := true) (s0 := s0) (x := x) ?_ (fun hx => ?_); on_goal 1 => (unfold x; clear x)))
    | refine Keeps.lit rfl rfl rfl rfl (by assumption) (by assumption) | apply Keeps.ite | apply KeepsR.next | apply State.after_keeps
    | apply State.twinTake_keeps | apply State.cfgPoll_keeps | (intro x hx)

theorem State.originate_keeps {wm : Bool} {s0 s : State} (ch : Nat) (t : Nat) (f : Bool → List Nat) (hk : Keeps wm s0 s) : Keeps wm s0 (State.originate s ch t f) := by
  unfold State.originate
  repeat' with_reducible first
    | assumption
    | (extract_lets (onlyGivenNames := true) x; try (refine Keeps.cut (w := wm) (s0 := s0) (x := x) ?_ (fun hx => ?_); on_goal 1 => (unfold x; clear x)))
    | apply Keeps.ite | apply State.sendFrame_keeps

theorem State.sendCycle_keeps {wm : Bool} {s0 s : State} (ch : Nat) (t : Nat) (hk : Keeps wm s0 s) : Keeps wm s0 (State.sendCycle s ch t).1 := by
  show KeepsP wm s0 _
  unfold State.sendCycle
  repeat' with_reducible first
    | assumption
    | (extract_lets (onlyGivenNames := true) x; try (refine Keeps.cut (w := wm) (s0 := s0) (x := x) ?_ (fun hx => ?_); on_goal 1 => (unfold x; clear x)))
    | apply KeepsP.mk | apply State.originate_keeps | apply State.bump_keeps | apply State.flag_keeps | split

theorem State.sendDm_keeps {wm : Bool} {s0 s : State} (ch : Nat) (t : Nat) (n : Nat) (hk : Keeps wm s0 s) : Keeps wm s0 (State.sendDm s ch t n) := by
  unfold State.sendDm
  repeat' with_reducible first
    | assumption
    | (extract_lets (onlyGivenNames := true) x; try (refine Keeps.cut (w := wm) (s0 := s0) (x := x) ?_ (fun hx => ?_); on_goal 1 => (unfold x; clear x)))
    | apply State.putChan_keeps | apply State.sendFrame_keeps

theorem State.judgeCold_keeps {wm : Bool} {s0 s : State} (ch : Nat) (t : Nat) (hk : Keeps wm s0 s) : Keeps wm s0 (State.judgeCold s ch t) := by
  unfold State.judgeCold
  repeat' with_reducible first
    | assumption
    | (extract_lets (onlyGivenNames := true) x; try (refine Keeps.cut (w := wm) (s0 := s0) (x := x) ?_ (fun hx => ?_); on_goal 1 => (unfold x; clear x)))
    | apply Keeps.ite | apply State.csBackoff_keeps | apply State.modChan_keeps

theorem State.judgeLead_keeps {s0 s : State} (ch : Nat) (hk : Keeps true s0 s) : Keeps true s0 (State.judgeLead s ch) := by
  unfold State.judgeLead
  repeat' with_reducible first
    | assumption
    | (extract_lets (onlyGivenNames := true) x; try (refine Keeps.cut (w := true) (s0 := s0) (x := x) ?_ (fun hx => ?_); on_goal 1 => (unfold x; clear x)))
    | apply Keeps.ite | apply State.bump_keeps | apply State.modChan_keeps | apply State.closeCycle_keeps

theorem State.judgeNode_keeps {wm : Bool} {s0 s : State} (ch : Nat) (hk : Keeps wm s0 s) : Keeps wm s0 (State.judgeNode s ch) := by
  unfold State.judgeNode
  repeat' with_reducible first
    | assumption
    | (extract_lets (onlyGivenNames := true) x; try (refine Keeps.cut (w := wm) (s0 := s0) (x := x) ?_ (fun hx => ?_); on_goal 1 => (unfold x; clear x)))
    | apply Keeps.ite | apply State.bump_keeps | apply State.modChan_keeps

theorem State.cycAdvance_keeps {wm : Bool} {s0 s : State} (ch : Nat) (t : Nat) (k : Nat) (hk : Keeps wm s0 s) : Keeps wm s0 (State.cycAdvance s ch t k) := by
  unfold State.cycAdvance
  repeat' with_reducible first
    | assumption
    | (extract_lets (onlyGivenNames := true) x; try (refine Keeps.cut (w := wm) (s0 := s0) (x := x) ?_ (fun hx => ?_); on_goal 1 => (unfold x; clear x)))
    | apply State.wr_keeps | apply State.modChan_keeps | apply State.putApp_keeps

theorem State.handBack_keeps {wm : Bool} {s0 s : State} (hk : Keeps wm s0 s) : Keeps wm s0 (State.handBack s) := by
  unfold State.handBack
  repeat' with_reducible first
    | assumption
    | (extract_lets (onlyGivenNames := true) x; try (refine Keeps.cut (w := wm) (s0 := s0) (x := x) ?_ (fun hx => ?_); on_goal 1 => (unfold x; clear x)))
    | refine Keeps.lit rfl rfl rfl rfl (by assumption) (by assumption) | apply Keeps.ite | apply State.clearPend_keeps | apply State.modeChange_keeps
    | apply State.trigger_keeps | apply State.modChan_keeps | apply State.wr_keeps | apply State.flag_keeps | (refine Keeps.forEach ?_ ?_; intro a x hx)

theorem State.cyclePend_keeps {wm : Bool} {s0 s : State} (ch : Nat) (t : Nat) (hk : Keeps wm s0 s) : Keeps wm s0 (State.cyclePend s ch t) := by
  unfold State.cyclePend
  repeat' with_reducible first
    | assumption
    | (extract_lets (onlyGivenNames := true) x; try (refine Keeps.cut (w := wm) (s0 := s0) (x := x) ?_ (fun hx => ?_); on_goal 1 => (unfold x; clear x)))
    | apply Keeps.ite | apply State.clearPend_keeps | apply State.modeChange_keeps | apply State.flag_keeps | apply State.bump_keeps
    | apply State.handBack_keeps

theorem State.cycleFold_keeps {wm : Bool} {s0 s : State} (ch : Nat) (hk : Keeps wm s0 s) : Keeps wm s0 (State.cycleFold s ch) := by
  unfold State.cycleFold
  repeat' with_reducible first
    | assumption
    | (extract_lets (onlyGivenNames := true) x; try (refine Keeps.cut (w := wm) (s0 := s0) (x := x) ?_ (fun hx => ?_); on_goal 1 => (unfold x; clear x)))
    | apply Keeps.ite | apply State.wrB_keeps | apply State.modChan_keeps | apply State.flag_keeps | apply State.wr_keeps | apply State.journal_keeps
    | split

theorem State.leaveListen_keeps {wm : Bool} {s0 s : State} (m : Nat) (hk : Keeps wm s0 s) : Keeps wm s0 (State.leaveListen s m) := by
  unfold State.leaveListen
  repeat' with_reducible first
    | assumption
    | (extract_lets (onlyGivenNames := true) x; try (refine Keeps.cut (w := wm) (s0 := s0) (x := x) ?_ (fun hx => ?_); on_goal 1 => (unfold x; clear x)))
    | apply State.clearPend_keeps | apply State.modeChange_keeps | apply State.trigger_keeps

theorem State.cycleReady_keeps {wm : Bool} {s0 s : State} (ch : Nat) (t : Nat) (hk : Keeps wm s0 s) : Keeps wm s0 (State.cycleReady s ch t) := by
  unfold State.cycleReady
  repeat' with_reducible first
    | assumption
    | (extract_lets (onlyGivenNames := true) x; try (refine Keeps.cut (w := wm) (s0 := s0) (x := x) ?_ (fun hx => ?_); on_goal 1 => (unfold x; clear x)))
    | apply Keeps.ite | apply State.wr_keeps | apply State.modChan_keeps | apply State.leaveListen_keeps | split

theorem State.cycleParams_keeps {s0 s : State} (ch : Nat) (hk : Keeps true s0 s) : Keeps true s0 (State.cycleParams s ch) := by
  unfold State.cycleParams
  repeat' with_reducible first
    | assumption
    | (extract_lets (onlyGivenNames := true) x; try (refine Keeps.cut (w := true) (s0 := s0) (x := x) ?_ (fun hx => ?_); on_goal 1 => (unfold x; clear x)))
    | apply Keeps.ite | apply State.ringWrite_keeps | apply State.modChan_keeps | (refine Keeps.forEach ?_ ?_; intro a x hx)

theorem State.cycleSend_keeps {wm : Bool} {s0 s : State} (ch : Nat) (t : Nat) (dm : Bool) (hk : Keeps wm s0 s) : Keeps wm s0 (State.cycleSend s ch t dm) := by
  unfold State.cycleSend
  repeat' with_reducible first
    | assumption
    | (extract_lets (onlyGivenNames := true) x; try (refine Keeps.cut (w := wm) (s0 := s0) (x := x) ?_ (fun hx => ?_); on_goal 1 => (unfold x; clear x)))
    | apply Keeps.ite | apply State.originate_keeps | apply State.modChan_keeps | apply State.sendCycle_keeps | apply State.sendDm_keeps
    | apply State.wr_keeps

theorem State.cycleWin_keeps {wm : Bool} {s0 s : State} (t : Nat) (hk : Keeps wm s0 s) : Keeps wm s0 (State.cycleWin s t) := by
  unfold State.cycleWin
  repeat' with_reducible first
    | assumption
    | (extract_lets (onlyGivenNames := true) x; try (refine Keeps.cut (w := wm) (s0 := s0) (x := x) ?_ (fun hx => ?_); on_goal 1 => (unfold x; clear x)))
    | apply Keeps.ite | apply State.leaveListen_keeps

theorem State.cycleStart_keeps {s0 s : State} (ch : Nat) (t : Nat) (k : Nat) (hk : Keeps true s0 s) : Keeps true s0 (State.cycleStart s ch t k) := by
  unfold State.cycleStart
  repeat' with_reducible first
    | assumption
    | (extract_lets (onlyGivenNames := true) x; try (refine Keeps.cut (w := true) (s0 := s0) (x := x) ?_ (fun hx => ?_); on_goal 1 => (unfold x; clear x)))
    | apply Keeps.ite | apply State.cfgPoll_keeps | apply State.hbLeader_keeps | apply State.askLanes_keeps | apply State.judgeCold_keeps
    | apply State.judgeLead_keeps | apply State.judgeNode_keeps | apply State.cycAdvance_keeps | apply State.modChan_keeps | apply State.cycleWin_keeps
    | apply State.cyclePend_keeps | apply State.cycleFold_keeps | apply State.cycleReady_keeps | apply State.cycleParams_keeps
    | apply State.cycleSend_keeps | apply State.llPoll_keeps

theorem execCycleStart_keeps {s0 s : State} (ch : Nat) (hk : Keeps true s0 s) : KeepsR true s0 (execCycleStart ch s) := by
  unfold execCycleStart
  repeat' with_reducible first
    | assumption
    | (extract_lets (onlyGivenNames := true) x; try (refine Keeps.cut (w := true) (s0 := s0) (x := x) ?_ (fun hx => ?_); on_goal 1 => (unfold x; clear x)))
    | refine Keeps.lit rfl rfl rfl rfl (by first | assumption | (refine KeepsO.get (by assumption) ?_; apply State.reach_keeps; assumption)) (by first | assumption | (refine KeepsO.get (by assumption) ?_; apply State.reach_keeps; assumption))
    | apply Keeps.ite | apply KeepsR.needs | apply State.cycleStart_keeps | split

end Sys2Proof.Machine
end

