-- ==== Sys2Proof/Laws/KeepsPeriod.lean ====
section
/-! SUPPORT. Every operation of Machine/Period.lean keeps the canonical form, the queue and the fuses. -/

set_option linter.unusedVariables false
set_option linter.tactic.unusedName false
set_option linter.unusedTactic false
set_option linter.unreachableTactic false

namespace Sys2Proof.Machine

theorem State.takeP_keeps {wm : Bool} {s0 s : State} (hk : Keeps wm s0 s) : Keeps wm s0 (State.takeP s) := by
  unfold State.takeP
  repeat' with_reducible first
    | assumption
    | (extract_lets (onlyGivenNames := true) x; try (refine Keeps.cut (w := wm) (s0 := s0) (x := x) ?_ (fun hx => ?_); on_goal 1 => (unfold x; clear x)))
    | apply Keeps.ite | apply State.after_keeps | apply State.setActive_keeps | apply State.setLattice_keeps

theorem State.boundaryIndex_keeps {wm : Bool} {s0 s : State} (hk : Keeps wm s0 s) : Keeps wm s0 (State.boundaryIndex s) := by
  unfold State.boundaryIndex
  repeat' with_reducible first
    | (extract_lets (onlyGivenNames := true) x; try (refine Keeps.cut (w := wm) (s0 := s0) (x := x) ?_ (fun hx => ?_); on_goal 1 => (unfold x; clear x)))
    | refine Keeps.lit rfl rfl rfl rfl (by assumption) (by assumption) | apply State.wr_keeps

theorem State.boundaryPend_keeps {wm : Bool} {s0 s : State} (hk : Keeps wm s0 s) : Keeps wm s0 (State.boundaryPend s) := by
  unfold State.boundaryPend
  repeat' with_reducible first
    | assumption
    | (extract_lets (onlyGivenNames := true) x; try (refine Keeps.cut (w := wm) (s0 := s0) (x := x) ?_ (fun hx => ?_); on_goal 1 => (unfold x; clear x)))
    | apply Keeps.ite | apply State.clearPend_keeps | apply State.modeChange_keeps | apply State.flag_keeps | apply State.bump_keeps

theorem State.rowLatch_keeps {wm : Bool} {s0 s : State} (k : Nat) (sin : Nat) (hk : Keeps wm s0 s) : Keeps wm s0 (State.rowLatch s k sin) := by
  unfold State.rowLatch
  repeat' with_reducible first
    | assumption
    | (extract_lets (onlyGivenNames := true) x; try (refine Keeps.cut (w := wm) (s0 := s0) (x := x) ?_ (fun hx => ?_); on_goal 1 => (unfold x; clear x)))
    | apply Keeps.ite | apply State.sinBoundary_keeps | apply State.fbLatchAll_keeps | apply State.ringLatch_keeps
    | (refine Keeps.forEach ?_ ?_; intro a x hx)

theorem State.rowStart_keeps {s0 s : State} (k : Nat) (hk : Keeps true s0 s) : Keeps true s0 (State.rowStart s k) := by
  unfold State.rowStart
  repeat' with_reducible first
    | assumption
    | (extract_lets (onlyGivenNames := true) x; try (refine Keeps.cut (w := true) (s0 := s0) (x := x) ?_ (fun hx => ?_); on_goal 1 => (unfold x; clear x)))
    | apply Keeps.ite | apply State.lanesStart_keeps | apply State.solveApply_keeps | apply State.solverSample_keeps | apply State.mgnSample_keeps
    | apply State.serifsStart_keeps

theorem execBaseBoundary_keeps {s0 s : State} (sin : Nat) (hk : Keeps true s0 s) : KeepsR true s0 (execBaseBoundary sin s) := by
  unfold execBaseBoundary
  repeat' with_reducible first
    | assumption
    | (extract_lets (onlyGivenNames := true) x; try (refine Keeps.cut (w := true) (s0 := s0) (x := x) ?_ (fun hx => ?_); on_goal 1 => (unfold x; clear x)))
    | apply Keeps.ite | apply KeepsR.needs | apply State.takeP_keeps | apply State.runTo_keeps | apply State.rebase_keeps
    | apply State.boundaryIndex_keeps | apply State.cfgPoll_keeps | apply State.boundaryPend_keeps | apply State.snapApply_keeps
    | apply State.rowLatch_keeps | apply State.strokeAdvance_keeps | apply State.rowStart_keeps | apply State.surrPoll_keeps
    | apply State.twinBoundary_keeps | apply State.llPoll_keeps

theorem execOutputPhase_keeps {s0 s : State} (g : Nat) (hk : Keeps true s0 s) : KeepsR true s0 (execOutputPhase g s) := by
  unfold execOutputPhase
  repeat' with_reducible first
    | assumption
    | (extract_lets (onlyGivenNames := true) x; try (refine Keeps.cut (w := true) (s0 := s0) (x := x) ?_ (fun hx => ?_); on_goal 1 => (unfold x; clear x)))
    | refine Keeps.lit rfl rfl rfl rfl (by first | assumption | (refine KeepsO.get (by assumption) ?_; apply State.reach_keeps; assumption)) (by first | assumption | (refine KeepsO.get (by assumption) ?_; apply State.reach_keeps; assumption))
    | apply Keeps.ite | apply KeepsR.needs | apply State.cfgPoll_keeps | apply State.releaseGroup_keeps | apply State.inkPhase_keeps
    | apply State.snapSend_keeps | split

end Sys2Proof.Machine
end

