-- ==== Sys2Proof/Laws/KeepsPins.lean ====
section
/-! SUPPORT. Every operation of Machine/Pins.lean keeps the canonical form, the queue and the fuses. -/

set_option linter.unusedVariables false
set_option linter.tactic.unusedName false
set_option linter.unusedTactic false
set_option linter.unreachableTactic false

namespace Sys2Proof.Machine

theorem State.bankHiZ_keeps {wm : Bool} {s0 s : State} (n : Nat) (hk : Keeps wm s0 s) : Keeps wm s0 (State.bankHiZ s n) := by
  unfold State.bankHiZ
  repeat' with_reducible first
    | assumption
    | (extract_lets (onlyGivenNames := true) x; try (refine Keeps.cut (w := wm) (s0 := s0) (x := x) ?_ (fun hx => ?_); on_goal 1 => (unfold x; clear x)))
    | apply Keeps.ite | apply State.emit_keeps | (refine Keeps.forEach ?_ ?_; intro a x hx)

theorem State.bankReturns_keeps {wm : Bool} {s0 s : State} (n : Nat) (hk : Keeps wm s0 s) : Keeps wm s0 (State.bankReturns s n) := by
  unfold State.bankReturns
  repeat' with_reducible first
    | assumption
    | (extract_lets (onlyGivenNames := true) x; try (refine Keeps.cut (w := wm) (s0 := s0) (x := x) ?_ (fun hx => ?_); on_goal 1 => (unfold x; clear x)))
    | apply Keeps.ite | apply State.emit_keeps | apply State.sdckShow_keeps | (refine Keeps.forEach ?_ ?_; intro a x hx) | split

theorem execBankPowerGoodRise_keeps {wm : Bool} {s0 s : State} (dt : Nat) (n : Nat) (v33 : Bool) (hk : Keeps wm s0 s) : KeepsR wm s0 (execBankPowerGoodRise dt n v33 s) := by
  unfold execBankPowerGoodRise
  repeat' with_reducible first
    | assumption
    | (extract_lets (onlyGivenNames := true) x; try (refine Keeps.cut (w := wm) (s0 := s0) (x := x) ?_ (fun hx => ?_); on_goal 1 => (unfold x; clear x)))
    | refine Keeps.lit rfl rfl rfl rfl (by assumption) (by assumption) | apply Keeps.ite | apply KeepsR.needs | apply State.after_keeps
    | apply State.wr_keeps

theorem execBankInputsRestored_keeps {wm : Bool} {s0 s : State} (dt : Nat) (n : Nat) (hk : Keeps wm s0 s) : KeepsR wm s0 (execBankInputsRestored dt n s) := by
  unfold execBankInputsRestored
  repeat' with_reducible first
    | assumption
    | (extract_lets (onlyGivenNames := true) x; try (refine Keeps.cut (w := wm) (s0 := s0) (x := x) ?_ (fun hx => ?_); on_goal 1 => (unfold x; clear x)))
    | refine Keeps.lit rfl rfl rfl rfl (by assumption) (by assumption) | apply Keeps.ite | apply KeepsR.needs | apply State.after_keeps
    | apply State.wr_keeps | apply State.bankReturns_keeps | split

theorem execBankPowerGoodFall_keeps {wm : Bool} {s0 s : State} (dt : Nat) (n : Nat) (hk : Keeps wm s0 s) : KeepsR wm s0 (execBankPowerGoodFall dt n s) := by
  unfold execBankPowerGoodFall
  repeat' with_reducible first
    | assumption
    | (extract_lets (onlyGivenNames := true) x; try (refine Keeps.cut (w := wm) (s0 := s0) (x := x) ?_ (fun hx => ?_); on_goal 1 => (unfold x; clear x)))
    | refine Keeps.lit rfl rfl rfl rfl (by assumption) (by assumption) | apply Keeps.ite | apply KeepsR.needs | apply State.after_keeps
    | apply State.bankHiZ_keeps | apply State.wr_keeps | apply State.flagBit_keeps | apply State.bump_keeps

theorem State.scanTake_keeps {wm : Bool} {s0 s : State} (i : Nat) (hk : Keeps wm s0 s) : Keeps wm s0 (State.scanTake s i) := by
  unfold State.scanTake
  repeat' with_reducible first
    | assumption
    | (extract_lets (onlyGivenNames := true) x; try (refine Keeps.cut (w := wm) (s0 := s0) (x := x) ?_ (fun hx => ?_); on_goal 1 => (unfold x; clear x)))
    | refine Keeps.lit rfl rfl rfl rfl (by assumption) (by assumption) | apply Keeps.ite | apply State.bankReturns_keeps
    | (refine Keeps.forEach ?_ ?_; intro a x hx)

theorem execBypass_keeps {wm : Bool} {s0 s : State} (dt : Nat) (hk : Keeps wm s0 s) : KeepsR wm s0 (execBypass dt s) := by
  unfold execBypass
  repeat' with_reducible first
    | assumption
    | (extract_lets (onlyGivenNames := true) x; try (refine Keeps.cut (w := wm) (s0 := s0) (x := x) ?_ (fun hx => ?_); on_goal 1 => (unfold x; clear x)))
    | apply KeepsR.next | apply State.after_keeps | apply State.scanTake_keeps

theorem execIdcode_keeps {wm : Bool} {s0 s : State} (dt : Nat) (hk : Keeps wm s0 s) : KeepsR wm s0 (execIdcode dt s) := by
  unfold execIdcode
  repeat' with_reducible first
    | assumption
    | (extract_lets (onlyGivenNames := true) x; try (refine Keeps.cut (w := wm) (s0 := s0) (x := x) ?_ (fun hx => ?_); on_goal 1 => (unfold x; clear x)))
    | apply KeepsR.next | apply State.after_keeps | apply State.scanTake_keeps | apply State.emit_keeps

theorem execSamplePreload_keeps {wm : Bool} {s0 s : State} (dt : Nat) (data : List Bool) (hk : Keeps wm s0 s) : KeepsR wm s0 (execSamplePreload dt data s) := by
  unfold execSamplePreload
  repeat' with_reducible first
    | assumption
    | (extract_lets (onlyGivenNames := true) x; try (refine Keeps.cut (w := wm) (s0 := s0) (x := x) ?_ (fun hx => ?_); on_goal 1 => (unfold x; clear x)))
    | refine Keeps.lit rfl rfl rfl rfl (by assumption) (by assumption) | apply KeepsR.next | apply State.after_keeps | apply State.scanTake_keeps

theorem execExtest_keeps {wm : Bool} {s0 s : State} (dt : Nat) (hk : Keeps wm s0 s) : KeepsR wm s0 (execExtest dt s) := by
  unfold execExtest
  repeat' with_reducible first
    | assumption
    | (extract_lets (onlyGivenNames := true) x; try (refine Keeps.cut (w := wm) (s0 := s0) (x := x) ?_ (fun hx => ?_); on_goal 1 => (unfold x; clear x)))
    | apply KeepsR.next | apply State.after_keeps | apply State.scanTake_keeps

theorem execJtagClamp_keeps {wm : Bool} {s0 s : State} (dt : Nat) (hk : Keeps wm s0 s) : KeepsR wm s0 (execJtagClamp dt s) := by
  unfold execJtagClamp
  repeat' with_reducible first
    | assumption
    | (extract_lets (onlyGivenNames := true) x; try (refine Keeps.cut (w := wm) (s0 := s0) (x := x) ?_ (fun hx => ?_); on_goal 1 => (unfold x; clear x)))
    | apply KeepsR.next | apply State.after_keeps | apply State.scanTake_keeps

theorem execHighz_keeps {wm : Bool} {s0 s : State} (dt : Nat) (hk : Keeps wm s0 s) : KeepsR wm s0 (execHighz dt s) := by
  unfold execHighz
  repeat' with_reducible first
    | assumption
    | (extract_lets (onlyGivenNames := true) x; try (refine Keeps.cut (w := wm) (s0 := s0) (x := x) ?_ (fun hx => ?_); on_goal 1 => (unfold x; clear x)))
    | apply KeepsR.next | apply State.bankHiZ_keeps | apply State.after_keeps | apply State.scanTake_keeps | (refine Keeps.forEach ?_ ?_; intro a x hx)

theorem execExtestPulse_keeps {wm : Bool} {s0 s : State} (dt : Nat) (hk : Keeps wm s0 s) : KeepsR wm s0 (execExtestPulse dt s) := by
  unfold execExtestPulse
  repeat' with_reducible first
    | assumption
    | (extract_lets (onlyGivenNames := true) x; try (refine Keeps.cut (w := wm) (s0 := s0) (x := x) ?_ (fun hx => ?_); on_goal 1 => (unfold x; clear x)))
    | apply KeepsR.next | apply State.after_keeps | apply State.scanTake_keeps

theorem execExtestTrain_keeps {wm : Bool} {s0 s : State} (dt : Nat) (hk : Keeps wm s0 s) : KeepsR wm s0 (execExtestTrain dt s) := by
  unfold execExtestTrain
  repeat' with_reducible first
    | assumption
    | (extract_lets (onlyGivenNames := true) x; try (refine Keeps.cut (w := wm) (s0 := s0) (x := x) ?_ (fun hx => ?_); on_goal 1 => (unfold x; clear x)))
    | apply KeepsR.next | apply State.after_keeps | apply State.scanTake_keeps

end Sys2Proof.Machine
end

