-- ==== Sys2Proof/Laws/KeepsExec.lean ====
section
/-! SUPPORT. What one command keeps, over all commands: the canonical form, the queue and the fuses, and memory where the command stores nothing. -/

namespace Sys2Proof.Machine

/-- A command that answers a next state keeps the canonical form of registers and memory, the queue behind it, and the fuses. -/
theorem exec_keeps (c : Instr) (s t : State) (h : exec c s = .next t) : Keeps true s t := by
  have k : KeepsR true s (exec c s) := by
    cases c
    · exact execBaseBoundary_keeps _ (Keeps.refl s)
    · exact execLaneRunComplete_keeps _ _ _ (Keeps.refl s)
    · exact execOutputPhase_keeps _ (Keeps.refl s)
    · exact execCurrentLoopInstant_keeps _ (Keeps.refl s)
    · exact execDutyWrite_keeps _ (Keeps.refl s)
    · exact execLaneError_keeps _ _ (Keeps.refl s)
    · exact execSolveComplete_keeps _ _ _ (Keeps.refl s)
    · exact execSolutionRelease_keeps (Keeps.refl s)
    · exact execTileError_keeps _ _ _ (Keeps.refl s)
    · exact execSeparationDelivery_keeps _ (Keeps.refl s)
    · exact execMarginComplete_keeps _ (Keeps.refl s)
    · exact execMarginDecision_keeps (Keeps.refl s)
    · exact execStop1DelayEnd_keeps _ (Keeps.refl s)
    · exact execMgnAck_keeps _ _ _ (Keeps.refl s)
    · exact execSoutTestPulse_keeps _ _ _ (Keeps.refl s)
    · exact execSoutReadbackCheck_keeps _ _ _ _ (Keeps.refl s)
    · exact execSinDiscrepancy_keeps _ _ (Keeps.refl s)
    · exact execSinDemand_keeps _ (Keeps.refl s)
    · exact execCommitRequest_keeps _ _ _ (Keeps.refl s)
    · exact execCommitCopy_keeps _ (Keeps.refl s)
    · exact execRegisterWrite_keeps _ _ _ _ _ (Keeps.refl s)
    · exact execUnlock_keeps _ _ _ (Keeps.refl s)
    · exact execUnlockExpire_keeps _ (Keeps.refl s)
    · exact execTmrScrub_keeps _ (Keeps.refl s)
    · exact execIndDataRead_keeps _ _ _ (Keeps.refl s)
    · exact execIndDataWrite_keeps _ _ _ _ (Keeps.refl s)
    · exact execIndWritePerform_keeps _ _ (Keeps.refl s)
    · exact execIndTimeout_keeps _ _ _ (Keeps.refl s)
    · exact execApertureRead_keeps _ _ (Keeps.refl s)
    · exact execApertureWrite_keeps _ _ _ _ (Keeps.refl s)
    · exact execTbWrap_keeps (Keeps.refl s)
    · exact execTbNsRead_keeps _ _ (Keeps.refl s)
    · exact execTbPeriodRead_keeps _ _ (Keeps.refl s)
    · exact execTbStep_keeps _ _ _ (Keeps.refl s)
    · exact execTbAdj_keeps _ _ _ (Keeps.refl s)
    · exact execRefLoss_keeps _ (Keeps.refl s)
    · exact execPpsEdge_keeps _ _ (Keeps.refl s)
    · exact execPpsTimeout_keeps (Keeps.refl s)
    · exact execPpsOutPulse_keeps (Keeps.refl s)
    · exact execTsuCalibration_keeps _ _ _ (Keeps.refl s)
    · exact execCaptureEdge_keeps _ _ _ (Keeps.refl s)
    · exact execCapWindowClose_keeps _ (Keeps.refl s)
    · exact execCapStampRead_keeps _ _ _ (Keeps.refl s)
    · exact execEvtAtWrite_keeps _ _ _ _ (Keeps.refl s)
    · exact execEvtQueueInstant_keeps _ (Keeps.refl s)
    · exact execEvtTrainPulse_keeps _ (Keeps.refl s)
    · exact execEvtConversionPulse_keeps _ (Keeps.refl s)
    · exact execPowerOnResetSupply_keeps _ (Keeps.refl s)
    · exact execPorstN_keeps _ (Keeps.refl s)
    · exact execRstN_keeps _ (Keeps.refl s)
    · exact execWarmRst_keeps _ _ _ (Keeps.refl s)
    · exact execCoreSupervisor_keeps _ (Keeps.refl s)
    · exact execResetRelease_keeps _ _ (Keeps.refl s)
    · exact execPllLock_keeps _ (Keeps.refl s)
    · exact execFolioLoadComplete_keeps _ _ (Keeps.refl s)
    · exact execFlashTimeout_keeps _ _ (Keeps.refl s)
    · exact execHold_keeps _ _ (Keeps.refl s)
    · exact execHoldExit_keeps _ _ (Keeps.refl s)
    · exact execService_keeps _ _ (Keeps.refl s)
    · exact execServiceExit_keeps _ _ (Keeps.refl s)
    · exact execReload_keeps _ _ (Keeps.refl s)
    · exact execSurrender_keeps _ _ (Keeps.refl s)
    · exact execModReqUndefined_keeps _ _ _ (Keeps.refl s)
    · exact execReloadTransition_keeps (Keeps.refl s)
    · exact execChnPush_keeps _ _ _ (Keeps.refl s)
    · exact execStrokeCheck_keeps _ _ (Keeps.refl s)
    · exact execStop_keeps _ _ _ (Keeps.refl s)
    · exact execResume_keeps _ _ _ (Keeps.refl s)
    · exact execAbort_keeps _ _ _ (Keeps.refl s)
    · exact execFlush_keeps _ _ _ (Keeps.refl s)
    · exact execSyncTmo_keeps _ (Keeps.refl s)
    · exact execLimitEdge_keeps _ _ _ _ (Keeps.refl s)
    · exact execLimitLatch_keeps _ _ (Keeps.refl s)
    · exact execFltClr_keeps _ _ _ (Keeps.refl s)
    · exact execIntRst_keeps _ _ _ (Keeps.refl s)
    · exact execArm_keeps _ _ (Keeps.refl s)
    · exact execInkStop_keeps _ _ (Keeps.refl s)
    · exact execTrig_keeps _ _ (Keeps.refl s)
    · exact execFbEdge_keeps _ _ _ _ (Keeps.refl s)
    · exact execIllWindowEnd_keeps _ (Keeps.refl s)
    · exact execHallTimeout_keeps _ (Keeps.refl s)
    · exact execFbCmpWrite_keeps _ _ _ _ (Keeps.refl s)
    · exact execFbPosWrite_keeps _ _ _ _ _ (Keeps.refl s)
    · exact execFbFltClr_keeps _ _ _ (Keeps.refl s)
    · exact execZarm_keeps _ _ _ (Keeps.refl s)
    · exact execXferStart_keeps _ _ _ (Keeps.refl s)
    · exact execAbsFrameComplete_keeps _ _ _ (Keeps.refl s)
    · exact execSerialTimeout_keeps _ _ (Keeps.refl s)
    · exact execFbLatchPosRead_keeps _ _ _ (Keeps.refl s)
    · exact execSamplerMismatch_keeps _ _ _ (Keeps.refl s)
    · exact execCarrierValley_keeps _ (Keeps.refl s)
    · exact execCarrierPeak_keeps _ (Keeps.refl s)
    · exact execDutyGo_keeps _ _ _ _ _ (Keeps.refl s)
    · exact execTripAccept_keeps _ _ _ (Keeps.refl s)
    · exact execTripClr_keeps _ _ _ _ (Keeps.refl s)
    · exact execSdResult_keeps _ _ (Keeps.refl s)
    · exact execRingFetch_keeps _ (Keeps.refl s)
    · exact execCycleStart_keeps _ (Keeps.refl s)
    · exact execCycleFrameReceive_keeps _ _ _ _ _ (Keeps.refl s)
    · exact execNullFrameReceive_keeps _ _ _ _ _ (Keeps.refl s)
    · exact execDelayFrameReceive_keeps _ _ _ _ _ (Keeps.refl s)
    · exact execFrameReturn_keeps _ _ _ _ _ (Keeps.refl s)
    · exact execLaneFault_keeps _ _ (Keeps.refl s)
    · exact execSwitchRequest_keeps _ _ _ (Keeps.refl s)
    · exact execRevertP0_keeps _ _ _ (Keeps.refl s)
    · exact execRevertP1_keeps _ _ _ (Keeps.refl s)
    · exact execDmNow_keeps _ _ _ (Keeps.refl s)
    · exact execPortDown_keeps _ _ _ (Keeps.refl s)
    · exact execLinkBack_keeps _ _ _ (Keeps.refl s)
    · exact execChannelLoss_keeps _ _ (Keeps.refl s)
    · exact execColdStart_keeps (Keeps.refl s)
    · exact execColdStartFrameReceive_keeps _ _ _ _ _ (Keeps.refl s)
    · exact execBackoffEnd_keeps (Keeps.refl s)
    · exact execLeaderMissing_keeps _ _ (Keeps.refl s)
    · exact execLeaderLost_keeps _ (Keeps.refl s)
    · exact execRejoinTimeout_keeps _ _ (Keeps.refl s)
    · exact execListenChannelTimeout_keeps _ _ (Keeps.refl s)
    · exact execStatus_keeps _ _ _ (Keeps.refl s)
    · exact execTime_keeps _ _ _ (Keeps.refl s)
    · exact execCfg_keeps _ _ (Keeps.refl s)
    · exact execModel_keeps _ _ (Keeps.refl s)
    · exact execSnap_keeps _ _ (Keeps.refl s)
    · exact execSolve_keeps _ _ (Keeps.refl s)
    · exact execTwinLinkDown_keeps _ (Keeps.refl s)
    · exact execTakeover_keeps _ _ (Keeps.refl s)
    · exact execHoldoffEnd_keeps (Keeps.refl s)
    · exact execHbNow_keeps _ _ _ (Keeps.refl s)
    · exact execNop_keeps _ _ _ (Keeps.refl s)
    · exact execEndTask_keeps _ _ _ (Keeps.refl s)
    · exact execReti_keeps _ _ _ (Keeps.refl s)
    · exact execSwi_keeps _ _ _ (Keeps.refl s)
    · exact execBr_keeps _ _ _ _ (Keeps.refl s)
    · exact execCall_keeps _ _ _ (Keeps.refl s)
    · exact execRet_keeps _ _ _ (Keeps.refl s)
    · exact execLoop_keeps _ _ _ _ _ _ (Keeps.refl s)
    · exact execLpop_keeps _ _ _ (Keeps.refl s)
    · exact execMvs_keeps _ _ _ _ (Keeps.refl s)
    · exact execMvd_keeps _ _ _ _ (Keeps.refl s)
    · exact execAda_keeps _ _ _ _ _ (Keeps.refl s)
    · exact execMvaf_keeps _ _ _ _ _ _ (Keeps.refl s)
    · exact execMvfa_keeps _ _ _ _ _ _ (Keeps.refl s)
    · exact execFadd_keeps _ _ _ _ _ _ (Keeps.refl s)
    · exact execFsub_keeps _ _ _ _ _ _ (Keeps.refl s)
    · exact execFmul_keeps _ _ _ _ _ _ (Keeps.refl s)
    · exact execFma_keeps _ _ _ _ _ _ (Keeps.refl s)
    · exact execMac_keeps _ _ _ _ _ _ (Keeps.refl s)
    · exact execMsub_keeps _ _ _ _ _ _ (Keeps.refl s)
    · exact execFmin_keeps _ _ _ _ _ _ (Keeps.refl s)
    · exact execFmax_keeps _ _ _ _ _ _ (Keeps.refl s)
    · exact execFabs_keeps _ _ _ _ _ _ (Keeps.refl s)
    · exact execFneg_keeps _ _ _ _ _ _ (Keeps.refl s)
    · exact execFcmp_keeps _ _ _ _ _ _ (Keeps.refl s)
    · exact execClamp_keeps _ _ _ _ _ _ (Keeps.refl s)
    · exact execRcp_keeps _ _ _ _ _ _ (Keeps.refl s)
    · exact execRsq_keeps _ _ _ _ _ _ (Keeps.refl s)
    · exact execItof_keeps _ _ _ _ _ _ (Keeps.refl s)
    · exact execFtoi_keeps _ _ _ _ _ _ (Keeps.refl s)
    · exact execLd_keeps _ _ _ _ _ _ (Keeps.refl s)
    · exact execSt_keeps _ _ _ _ _ _ (Keeps.refl s)
    · exact execLdi_keeps _ _ _ _ (Keeps.refl s)
    · exact execTapm_keeps _ _ _ _ _ (Keeps.refl s)
    · exact execLdst_keeps _ _ _ _ _ _ _ _ (Keeps.refl s)
    · exact execIllegalInstruction_keeps _ _ (Keeps.refl s)
    · exact execInterruptEntry_keeps _ _ (Keeps.refl s)
    · exact execDoorbell_keeps _ _ _ (Keeps.refl s)
    · exact execSfTimerWrite_keeps _ _ _ _ (Keeps.refl s)
    · exact execSfTimerExpire_keeps _ (Keeps.refl s)
    · exact execReleaseWarning_keeps _ (Keeps.refl s)
    · exact execRun_keeps _ _ _ _ (Keeps.refl s)
    · exact execSerifRelease_keeps _ (Keeps.refl s)
    · exact execSubmit_keeps _ _ _ (Keeps.refl s)
    · exact execDelayTick_keeps (Keeps.refl s)
    · exact execItemEnd_keeps _ _ _ (Keeps.refl s)
    · exact execResBRead_keeps _ _ (Keeps.refl s)
    · exact execCancel_keeps _ _ _ (Keeps.refl s)
    · exact execObsWrite_keeps _ _ _ (Keeps.refl s)
    · exact execLoadWindowEnd_keeps _ (Keeps.refl s)
    · exact execDoor_keeps _ _ _ (Keeps.refl s)
    · exact execInfo_keeps _ _ (Keeps.refl s)
    · exact execFlashRead_keeps _ (Keeps.refl s)
    · exact execFlashErase_keeps _ (Keeps.refl s)
    · exact execFlashWrite_keeps _ (Keeps.refl s)
    · exact execSlotCheck_keeps _ _ (Keeps.refl s)
    · exact execSelftest_keeps _ _ (Keeps.refl s)
    · exact execBlotterSync_keeps _ (Keeps.refl s)
    · exact execMailboxUnknownOp_keeps _ (Keeps.refl s)
    · exact execOverdueTest_keeps (Keeps.refl s)
    · exact execKick_keeps _ _ (Keeps.refl s)
    · exact execWatchdogExpire_keeps (Keeps.refl s)
    · exact execRestartComplete_keeps _ _ (Keeps.refl s)
    · exact execBlotterCommit_keeps _ _ (Keeps.refl s)
    · exact execBlockEraseComplete_keeps _ _ (Keeps.refl s)
    · exact execSramError_keeps _ _ _ _ _ (Keeps.refl s)
    · exact execSelfTestComplete_keeps _ _ _ (Keeps.refl s)
    · exact execScheduledTest_keeps _ _ _ (Keeps.refl s)
    · exact execHoursJournal_keeps _ (Keeps.refl s)
    · exact execPcieReset_keeps _ (Keeps.refl s)
    · exact execIntStatClear_keeps _ _ _ _ (Keeps.refl s)
    · exact execIntEnWrite_keeps _ _ _ _ (Keeps.refl s)
    · exact execMsixUnmask_keeps _ _ _ (Keeps.refl s)
    · exact execI2cCommand_keeps _ _ _ _ (Keeps.refl s)
    · exact execI2cRead_keeps _ _ (Keeps.refl s)
    · exact execI2cWarmReset_keeps _ _ _ (Keeps.refl s)
    · exact execI2cSclTimeout_keeps _ (Keeps.refl s)
    · exact execPmbusTelemetry_keeps _ _ _ _ _ _ _ (Keeps.refl s)
    · exact execPmbAlert_keeps _ _ _ (Keeps.refl s)
    · exact execLiveToggle_keeps (Keeps.refl s)
    · exact execVidStep_keeps (Keeps.refl s)
    · exact execServoWindowEnd_keeps (Keeps.refl s)
    · exact execSvHoldEnd_keeps (Keeps.refl s)
    · exact execTempSense_keeps _ _ (Keeps.refl s)
    · exact execBankPowerGoodRise_keeps _ _ _ (Keeps.refl s)
    · exact execBankPowerGoodFall_keeps _ _ (Keeps.refl s)
    · exact execBankInputsRestored_keeps _ _ (Keeps.refl s)
    · exact execBypass_keeps _ (Keeps.refl s)
    · exact execIdcode_keeps _ (Keeps.refl s)
    · exact execSamplePreload_keeps _ _ (Keeps.refl s)
    · exact execExtest_keeps _ (Keeps.refl s)
    · exact execJtagClamp_keeps _ (Keeps.refl s)
    · exact execHighz_keeps _ (Keeps.refl s)
    · exact execExtestPulse_keeps _ (Keeps.refl s)
    · exact execExtestTrain_keeps _ (Keeps.refl s)
    · exact execBlockLockGain_keeps _ _ (Keeps.refl s)
    · exact execPcieLinkUp_keeps _ (Keeps.refl s)
    · exact execPllLockLoss_keeps _ (Keeps.refl s)
  exact k t h

/-- A command that stores nothing leaves memory as it is. -/
theorem exec_keeps_memory (c : Instr) (s t : State) (m : c.keepsMemory = true) (h : exec c s = .next t) : t.mem = s.mem := by
  have k : KeepsR false s (exec c s) := by
    cases c <;> first | (exact Bool.noConfusion m) | skip
    · exact execLaneRunComplete_keeps _ _ _ (Keeps.refl s)
    · exact execCurrentLoopInstant_keeps _ (Keeps.refl s)
    · exact execDutyWrite_keeps _ (Keeps.refl s)
    · exact execLaneError_keeps _ _ (Keeps.refl s)
    · exact execSolveComplete_keeps _ _ _ (Keeps.refl s)
    · exact execSolutionRelease_keeps (Keeps.refl s)
    · exact execTileError_keeps _ _ _ (Keeps.refl s)
    · exact execSeparationDelivery_keeps _ (Keeps.refl s)
    · exact execMarginComplete_keeps _ (Keeps.refl s)
    · exact execMarginDecision_keeps (Keeps.refl s)
    · exact execStop1DelayEnd_keeps _ (Keeps.refl s)
    · exact execMgnAck_keeps _ _ _ (Keeps.refl s)
    · exact execSoutTestPulse_keeps _ _ _ (Keeps.refl s)
    · exact execSoutReadbackCheck_keeps _ _ _ _ (Keeps.refl s)
    · exact execSinDiscrepancy_keeps _ _ (Keeps.refl s)
    · exact execSinDemand_keeps _ (Keeps.refl s)
    · exact execUnlock_keeps _ _ _ (Keeps.refl s)
    · exact execUnlockExpire_keeps _ (Keeps.refl s)
    · exact execTmrScrub_keeps _ (Keeps.refl s)
    · exact execIndDataWrite_keeps _ _ _ _ (Keeps.refl s)
    · exact execApertureWrite_keeps _ _ _ _ (Keeps.refl s)
    · exact execTbWrap_keeps (Keeps.refl s)
    · exact execTbNsRead_keeps _ _ (Keeps.refl s)
    · exact execTbPeriodRead_keeps _ _ (Keeps.refl s)
    · exact execTbStep_keeps _ _ _ (Keeps.refl s)
    · exact execTbAdj_keeps _ _ _ (Keeps.refl s)
    · exact execRefLoss_keeps _ (Keeps.refl s)
    · exact execPpsEdge_keeps _ _ (Keeps.refl s)
    · exact execPpsTimeout_keeps (Keeps.refl s)
    · exact execPpsOutPulse_keeps (Keeps.refl s)
    · exact execTsuCalibration_keeps _ _ _ (Keeps.refl s)
    · exact execCaptureEdge_keeps _ _ _ (Keeps.refl s)
    · exact execCapWindowClose_keeps _ (Keeps.refl s)
    · exact execCapStampRead_keeps _ _ _ (Keeps.refl s)
    · exact execEvtAtWrite_keeps _ _ _ _ (Keeps.refl s)
    · exact execEvtQueueInstant_keeps _ (Keeps.refl s)
    · exact execEvtTrainPulse_keeps _ (Keeps.refl s)
    · exact execEvtConversionPulse_keeps _ (Keeps.refl s)
    · exact execResetRelease_keeps _ _ (Keeps.refl s)
    · exact execPllLock_keeps _ (Keeps.refl s)
    · exact execFlashTimeout_keeps _ _ (Keeps.refl s)
    · exact execHold_keeps _ _ (Keeps.refl s)
    · exact execHoldExit_keeps _ _ (Keeps.refl s)
    · exact execService_keeps _ _ (Keeps.refl s)
    · exact execServiceExit_keeps _ _ (Keeps.refl s)
    · exact execReload_keeps _ _ (Keeps.refl s)
    · exact execSurrender_keeps _ _ (Keeps.refl s)
    · exact execModReqUndefined_keeps _ _ _ (Keeps.refl s)
    · exact execChnPush_keeps _ _ _ (Keeps.refl s)
    · exact execStrokeCheck_keeps _ _ (Keeps.refl s)
    · exact execStop_keeps _ _ _ (Keeps.refl s)
    · exact execResume_keeps _ _ _ (Keeps.refl s)
    · exact execAbort_keeps _ _ _ (Keeps.refl s)
    · exact execFlush_keeps _ _ _ (Keeps.refl s)
    · exact execSyncTmo_keeps _ (Keeps.refl s)
    · exact execLimitEdge_keeps _ _ _ _ (Keeps.refl s)
    · exact execLimitLatch_keeps _ _ (Keeps.refl s)
    · exact execFltClr_keeps _ _ _ (Keeps.refl s)
    · exact execIntRst_keeps _ _ _ (Keeps.refl s)
    · exact execInkStop_keeps _ _ (Keeps.refl s)
    · exact execTrig_keeps _ _ (Keeps.refl s)
    · exact execFbEdge_keeps _ _ _ _ (Keeps.refl s)
    · exact execIllWindowEnd_keeps _ (Keeps.refl s)
    · exact execHallTimeout_keeps _ (Keeps.refl s)
    · exact execFbCmpWrite_keeps _ _ _ _ (Keeps.refl s)
    · exact execFbPosWrite_keeps _ _ _ _ _ (Keeps.refl s)
    · exact execFbFltClr_keeps _ _ _ (Keeps.refl s)
    · exact execZarm_keeps _ _ _ (Keeps.refl s)
    · exact execXferStart_keeps _ _ _ (Keeps.refl s)
    · exact execAbsFrameComplete_keeps _ _ _ (Keeps.refl s)
    · exact execSerialTimeout_keeps _ _ (Keeps.refl s)
    · exact execFbLatchPosRead_keeps _ _ _ (Keeps.refl s)
    · exact execSamplerMismatch_keeps _ _ _ (Keeps.refl s)
    · exact execCarrierValley_keeps _ (Keeps.refl s)
    · exact execCarrierPeak_keeps _ (Keeps.refl s)
    · exact execDutyGo_keeps _ _ _ _ _ (Keeps.refl s)
    · exact execTripAccept_keeps _ _ _ (Keeps.refl s)
    · exact execTripClr_keeps _ _ _ _ (Keeps.refl s)
    · exact execSdResult_keeps _ _ (Keeps.refl s)
    · exact execRingFetch_keeps _ (Keeps.refl s)
    · exact execSwitchRequest_keeps _ _ _ (Keeps.refl s)
    · exact execRevertP0_keeps _ _ _ (Keeps.refl s)
    · exact execRevertP1_keeps _ _ _ (Keeps.refl s)
    · exact execDmNow_keeps _ _ _ (Keeps.refl s)
    · exact execPortDown_keeps _ _ _ (Keeps.refl s)
    · exact execLinkBack_keeps _ _ _ (Keeps.refl s)
    · exact execChannelLoss_keeps _ _ (Keeps.refl s)
    · exact execColdStart_keeps (Keeps.refl s)
    · exact execBackoffEnd_keeps (Keeps.refl s)
    · exact execLeaderMissing_keeps _ _ (Keeps.refl s)
    · exact execLeaderLost_keeps _ (Keeps.refl s)
    · exact execRejoinTimeout_keeps _ _ (Keeps.refl s)
    · exact execListenChannelTimeout_keeps _ _ (Keeps.refl s)
    · exact execStatus_keeps _ _ _ (Keeps.refl s)
    · exact execTime_keeps _ _ _ (Keeps.refl s)
    · exact execSnap_keeps _ _ (Keeps.refl s)
    · exact execSolve_keeps _ _ (Keeps.refl s)
    · exact execTakeover_keeps _ _ (Keeps.refl s)
    · exact execHoldoffEnd_keeps (Keeps.refl s)
    · exact execHbNow_keeps _ _ _ (Keeps.refl s)
    · exact execInterruptEntry_keeps _ _ (Keeps.refl s)
    · exact execDoorbell_keeps _ _ _ (Keeps.refl s)
    · exact execSfTimerWrite_keeps _ _ _ _ (Keeps.refl s)
    · exact execSfTimerExpire_keeps _ (Keeps.refl s)
    · exact execReleaseWarning_keeps _ (Keeps.refl s)
    · exact execRun_keeps _ _ _ _ (Keeps.refl s)
    · exact execSubmit_keeps _ _ _ (Keeps.refl s)
    · exact execDelayTick_keeps (Keeps.refl s)
    · exact execItemEnd_keeps _ _ _ (Keeps.refl s)
    · exact execResBRead_keeps _ _ (Keeps.refl s)
    · exact execCancel_keeps _ _ _ (Keeps.refl s)
    · exact execObsWrite_keeps _ _ _ (Keeps.refl s)
    · exact execLoadWindowEnd_keeps _ (Keeps.refl s)
    · exact execDoor_keeps _ _ _ (Keeps.refl s)
    · exact execInfo_keeps _ _ (Keeps.refl s)
    · exact execFlashRead_keeps _ (Keeps.refl s)
    · exact execSlotCheck_keeps _ _ (Keeps.refl s)
    · exact execSelftest_keeps _ _ (Keeps.refl s)
    · exact execBlotterSync_keeps _ (Keeps.refl s)
    · exact execMailboxUnknownOp_keeps _ (Keeps.refl s)
    · exact execOverdueTest_keeps (Keeps.refl s)
    · exact execKick_keeps _ _ (Keeps.refl s)
    · exact execWatchdogExpire_keeps (Keeps.refl s)
    · exact execRestartComplete_keeps _ _ (Keeps.refl s)
    · exact execBlotterCommit_keeps _ _ (Keeps.refl s)
    · exact execBlockEraseComplete_keeps _ _ (Keeps.refl s)
    · exact execSelfTestComplete_keeps _ _ _ (Keeps.refl s)
    · exact execScheduledTest_keeps _ _ _ (Keeps.refl s)
    · exact execHoursJournal_keeps _ (Keeps.refl s)
    · exact execPcieReset_keeps _ (Keeps.refl s)
    · exact execIntStatClear_keeps _ _ _ _ (Keeps.refl s)
    · exact execIntEnWrite_keeps _ _ _ _ (Keeps.refl s)
    · exact execMsixUnmask_keeps _ _ _ (Keeps.refl s)
    · exact execI2cCommand_keeps _ _ _ _ (Keeps.refl s)
    · exact execI2cRead_keeps _ _ (Keeps.refl s)
    · exact execI2cSclTimeout_keeps _ (Keeps.refl s)
    · exact execPmbusTelemetry_keeps _ _ _ _ _ _ _ (Keeps.refl s)
    · exact execPmbAlert_keeps _ _ _ (Keeps.refl s)
    · exact execLiveToggle_keeps (Keeps.refl s)
    · exact execVidStep_keeps (Keeps.refl s)
    · exact execServoWindowEnd_keeps (Keeps.refl s)
    · exact execSvHoldEnd_keeps (Keeps.refl s)
    · exact execTempSense_keeps _ _ (Keeps.refl s)
    · exact execBankPowerGoodRise_keeps _ _ _ (Keeps.refl s)
    · exact execBankPowerGoodFall_keeps _ _ (Keeps.refl s)
    · exact execBankInputsRestored_keeps _ _ (Keeps.refl s)
    · exact execBypass_keeps _ (Keeps.refl s)
    · exact execIdcode_keeps _ (Keeps.refl s)
    · exact execSamplePreload_keeps _ _ (Keeps.refl s)
    · exact execExtest_keeps _ (Keeps.refl s)
    · exact execJtagClamp_keeps _ (Keeps.refl s)
    · exact execHighz_keeps _ (Keeps.refl s)
    · exact execExtestPulse_keeps _ (Keeps.refl s)
    · exact execExtestTrain_keeps _ (Keeps.refl s)
    · exact execPcieLinkUp_keeps _ (Keeps.refl s)
    · exact execPllLockLoss_keeps _ (Keeps.refl s)
  exact (k t h).2.2.2 rfl

end Sys2Proof.Machine
end

