-- ==== Sys2Proof/Laws/State.lean ====
section
/-! SUPPORT. What the shared operations leave alone: one lemma per field of State and update, so that no later proof unfolds a record update. -/

namespace Sys2Proof.Machine


@[simp] theorem State.putRaw_mem (s : State) (a v : Nat) : (s.putRaw a v).mem = s.mem := by unfold State.putRaw; rfl
@[simp] theorem State.putRaw_log (s : State) (a v : Nat) : (s.putRaw a v).log = s.log := by unfold State.putRaw; rfl
@[simp] theorem State.putRaw_tb (s : State) (a v : Nat) : (s.putRaw a v).tb = s.tb := by unfold State.putRaw; rfl
@[simp] theorem State.putRaw_dev (s : State) (a v : Nat) : (s.putRaw a v).dev = s.dev := by unfold State.putRaw; rfl
@[simp] theorem State.putRaw_cmt (s : State) (a v : Nat) : (s.putRaw a v).cmt = s.cmt := by unfold State.putRaw; rfl
@[simp] theorem State.putRaw_wins (s : State) (a v : Nat) : (s.putRaw a v).wins = s.wins := by unfold State.putRaw; rfl
@[simp] theorem State.putRaw_dct (s : State) (a v : Nat) : (s.putRaw a v).dct = s.dct := by unfold State.putRaw; rfl
@[simp] theorem State.putRaw_serifs (s : State) (a v : Nat) : (s.putRaw a v).serifs = s.serifs := by unfold State.putRaw; rfl
@[simp] theorem State.putRaw_dispIn (s : State) (a v : Nat) : (s.putRaw a v).dispIn = s.dispIn := by unfold State.putRaw; rfl
@[simp] theorem State.putRaw_blt (s : State) (a v : Nat) : (s.putRaw a v).blt = s.blt := by unfold State.putRaw; rfl
@[simp] theorem State.putRaw_spr (s : State) (a v : Nat) : (s.putRaw a v).spr = s.spr := by unfold State.putRaw; rfl
@[simp] theorem State.putRaw_pwr (s : State) (a v : Nat) : (s.putRaw a v).pwr = s.pwr := by unfold State.putRaw; rfl
@[simp] theorem State.putRaw_bus (s : State) (a v : Nat) : (s.putRaw a v).bus = s.bus := by unfold State.putRaw; rfl
@[simp] theorem State.putRaw_gens (s : State) (a v : Nat) : (s.putRaw a v).gens = s.gens := by unfold State.putRaw; rfl
@[simp] theorem State.putRaw_queues (s : State) (a v : Nat) : (s.putRaw a v).queues = s.queues := by unfold State.putRaw; rfl
@[simp] theorem State.putRaw_modeIn (s : State) (a v : Nat) : (s.putRaw a v).modeIn = s.modeIn := by unfold State.putRaw; rfl
@[simp] theorem State.putRaw_idxN (s : State) (a v : Nat) : (s.putRaw a v).idxN = s.idxN := by unfold State.putRaw; rfl
@[simp] theorem State.putRaw_rul (s : State) (a v : Nat) : (s.putRaw a v).rul = s.rul := by unfold State.putRaw; rfl
@[simp] theorem State.putRaw_mgn (s : State) (a v : Nat) : (s.putRaw a v).mgn = s.mgn := by unfold State.putRaw; rfl
@[simp] theorem State.putRaw_lanes (s : State) (a v : Nat) : (s.putRaw a v).lanes = s.lanes := by unfold State.putRaw; rfl
@[simp] theorem State.putRaw_ink (s : State) (a v : Nat) : (s.putRaw a v).ink = s.ink := by unfold State.putRaw; rfl
@[simp] theorem State.putRaw_delta (s : State) (a v : Nat) : (s.putRaw a v).delta = s.delta := by unfold State.putRaw; rfl
@[simp] theorem State.putRaw_fbs (s : State) (a v : Nat) : (s.putRaw a v).fbs = s.fbs := by unfold State.putRaw; rfl
@[simp] theorem State.putRaw_pbs (s : State) (a v : Nat) : (s.putRaw a v).pbs = s.pbs := by unfold State.putRaw; rfl
@[simp] theorem State.putRaw_sds (s : State) (a v : Nat) : (s.putRaw a v).sds = s.sds := by unfold State.putRaw; rfl
@[simp] theorem State.putRaw_app (s : State) (a v : Nat) : (s.putRaw a v).app = s.app := by unfold State.putRaw; rfl
@[simp] theorem State.putRaw_chans (s : State) (a v : Nat) : (s.putRaw a v).chans = s.chans := by unfold State.putRaw; rfl
@[simp] theorem State.putRaw_ring (s : State) (a v : Nat) : (s.putRaw a v).ring = s.ring := by unfold State.putRaw; rfl
@[simp] theorem State.putRaw_twin (s : State) (a v : Nat) : (s.putRaw a v).twin = s.twin := by unfold State.putRaw; rfl
@[simp] theorem State.putRaw_free (s : State) (a v : Nat) : (s.putRaw a v).free = s.free := by unfold State.putRaw; rfl
@[simp] theorem State.putRaw_out (s : State) (a v : Nat) : (s.putRaw a v).out = s.out := by unfold State.putRaw; rfl
@[simp] theorem State.putRaw_pending (s : State) (a v : Nat) : (s.putRaw a v).pending = s.pending := by unfold State.putRaw; rfl

@[simp] theorem State.mapRegs_mem (s : State) (f : Nat → Nat → Option Nat) : (s.mapRegs f).mem = s.mem := by unfold State.mapRegs; rfl
@[simp] theorem State.mapRegs_log (s : State) (f : Nat → Nat → Option Nat) : (s.mapRegs f).log = s.log := by unfold State.mapRegs; rfl
@[simp] theorem State.mapRegs_tb (s : State) (f : Nat → Nat → Option Nat) : (s.mapRegs f).tb = s.tb := by unfold State.mapRegs; rfl
@[simp] theorem State.mapRegs_dev (s : State) (f : Nat → Nat → Option Nat) : (s.mapRegs f).dev = s.dev := by unfold State.mapRegs; rfl
@[simp] theorem State.mapRegs_cmt (s : State) (f : Nat → Nat → Option Nat) : (s.mapRegs f).cmt = s.cmt := by unfold State.mapRegs; rfl
@[simp] theorem State.mapRegs_wins (s : State) (f : Nat → Nat → Option Nat) : (s.mapRegs f).wins = s.wins := by unfold State.mapRegs; rfl
@[simp] theorem State.mapRegs_dct (s : State) (f : Nat → Nat → Option Nat) : (s.mapRegs f).dct = s.dct := by unfold State.mapRegs; rfl
@[simp] theorem State.mapRegs_serifs (s : State) (f : Nat → Nat → Option Nat) : (s.mapRegs f).serifs = s.serifs := by unfold State.mapRegs; rfl
@[simp] theorem State.mapRegs_dispIn (s : State) (f : Nat → Nat → Option Nat) : (s.mapRegs f).dispIn = s.dispIn := by unfold State.mapRegs; rfl
@[simp] theorem State.mapRegs_blt (s : State) (f : Nat → Nat → Option Nat) : (s.mapRegs f).blt = s.blt := by unfold State.mapRegs; rfl
@[simp] theorem State.mapRegs_spr (s : State) (f : Nat → Nat → Option Nat) : (s.mapRegs f).spr = s.spr := by unfold State.mapRegs; rfl
@[simp] theorem State.mapRegs_pwr (s : State) (f : Nat → Nat → Option Nat) : (s.mapRegs f).pwr = s.pwr := by unfold State.mapRegs; rfl
@[simp] theorem State.mapRegs_bus (s : State) (f : Nat → Nat → Option Nat) : (s.mapRegs f).bus = s.bus := by unfold State.mapRegs; rfl
@[simp] theorem State.mapRegs_gens (s : State) (f : Nat → Nat → Option Nat) : (s.mapRegs f).gens = s.gens := by unfold State.mapRegs; rfl
@[simp] theorem State.mapRegs_queues (s : State) (f : Nat → Nat → Option Nat) : (s.mapRegs f).queues = s.queues := by unfold State.mapRegs; rfl
@[simp] theorem State.mapRegs_modeIn (s : State) (f : Nat → Nat → Option Nat) : (s.mapRegs f).modeIn = s.modeIn := by unfold State.mapRegs; rfl
@[simp] theorem State.mapRegs_idxN (s : State) (f : Nat → Nat → Option Nat) : (s.mapRegs f).idxN = s.idxN := by unfold State.mapRegs; rfl
@[simp] theorem State.mapRegs_rul (s : State) (f : Nat → Nat → Option Nat) : (s.mapRegs f).rul = s.rul := by unfold State.mapRegs; rfl
@[simp] theorem State.mapRegs_mgn (s : State) (f : Nat → Nat → Option Nat) : (s.mapRegs f).mgn = s.mgn := by unfold State.mapRegs; rfl
@[simp] theorem State.mapRegs_lanes (s : State) (f : Nat → Nat → Option Nat) : (s.mapRegs f).lanes = s.lanes := by unfold State.mapRegs; rfl
@[simp] theorem State.mapRegs_ink (s : State) (f : Nat → Nat → Option Nat) : (s.mapRegs f).ink = s.ink := by unfold State.mapRegs; rfl
@[simp] theorem State.mapRegs_delta (s : State) (f : Nat → Nat → Option Nat) : (s.mapRegs f).delta = s.delta := by unfold State.mapRegs; rfl
@[simp] theorem State.mapRegs_fbs (s : State) (f : Nat → Nat → Option Nat) : (s.mapRegs f).fbs = s.fbs := by unfold State.mapRegs; rfl
@[simp] theorem State.mapRegs_pbs (s : State) (f : Nat → Nat → Option Nat) : (s.mapRegs f).pbs = s.pbs := by unfold State.mapRegs; rfl
@[simp] theorem State.mapRegs_sds (s : State) (f : Nat → Nat → Option Nat) : (s.mapRegs f).sds = s.sds := by unfold State.mapRegs; rfl
@[simp] theorem State.mapRegs_app (s : State) (f : Nat → Nat → Option Nat) : (s.mapRegs f).app = s.app := by unfold State.mapRegs; rfl
@[simp] theorem State.mapRegs_chans (s : State) (f : Nat → Nat → Option Nat) : (s.mapRegs f).chans = s.chans := by unfold State.mapRegs; rfl
@[simp] theorem State.mapRegs_ring (s : State) (f : Nat → Nat → Option Nat) : (s.mapRegs f).ring = s.ring := by unfold State.mapRegs; rfl
@[simp] theorem State.mapRegs_twin (s : State) (f : Nat → Nat → Option Nat) : (s.mapRegs f).twin = s.twin := by unfold State.mapRegs; rfl
@[simp] theorem State.mapRegs_free (s : State) (f : Nat → Nat → Option Nat) : (s.mapRegs f).free = s.free := by unfold State.mapRegs; rfl
@[simp] theorem State.mapRegs_out (s : State) (f : Nat → Nat → Option Nat) : (s.mapRegs f).out = s.out := by unfold State.mapRegs; rfl
@[simp] theorem State.mapRegs_pending (s : State) (f : Nat → Nat → Option Nat) : (s.mapRegs f).pending = s.pending := by unfold State.mapRegs; rfl

@[simp] theorem State.wr_mem (s : State) (f : Fld) (v : Nat) : (s.wr f v).mem = s.mem := by unfold State.wr; simp
@[simp] theorem State.wr_log (s : State) (f : Fld) (v : Nat) : (s.wr f v).log = s.log := by unfold State.wr; simp
@[simp] theorem State.wr_tb (s : State) (f : Fld) (v : Nat) : (s.wr f v).tb = s.tb := by unfold State.wr; simp
@[simp] theorem State.wr_dev (s : State) (f : Fld) (v : Nat) : (s.wr f v).dev = s.dev := by unfold State.wr; simp
@[simp] theorem State.wr_cmt (s : State) (f : Fld) (v : Nat) : (s.wr f v).cmt = s.cmt := by unfold State.wr; simp
@[simp] theorem State.wr_wins (s : State) (f : Fld) (v : Nat) : (s.wr f v).wins = s.wins := by unfold State.wr; simp
@[simp] theorem State.wr_dct (s : State) (f : Fld) (v : Nat) : (s.wr f v).dct = s.dct := by unfold State.wr; simp
@[simp] theorem State.wr_serifs (s : State) (f : Fld) (v : Nat) : (s.wr f v).serifs = s.serifs := by unfold State.wr; simp
@[simp] theorem State.wr_dispIn (s : State) (f : Fld) (v : Nat) : (s.wr f v).dispIn = s.dispIn := by unfold State.wr; simp
@[simp] theorem State.wr_blt (s : State) (f : Fld) (v : Nat) : (s.wr f v).blt = s.blt := by unfold State.wr; simp
@[simp] theorem State.wr_spr (s : State) (f : Fld) (v : Nat) : (s.wr f v).spr = s.spr := by unfold State.wr; simp
@[simp] theorem State.wr_pwr (s : State) (f : Fld) (v : Nat) : (s.wr f v).pwr = s.pwr := by unfold State.wr; simp
@[simp] theorem State.wr_bus (s : State) (f : Fld) (v : Nat) : (s.wr f v).bus = s.bus := by unfold State.wr; simp
@[simp] theorem State.wr_gens (s : State) (f : Fld) (v : Nat) : (s.wr f v).gens = s.gens := by unfold State.wr; simp
@[simp] theorem State.wr_queues (s : State) (f : Fld) (v : Nat) : (s.wr f v).queues = s.queues := by unfold State.wr; simp
@[simp] theorem State.wr_modeIn (s : State) (f : Fld) (v : Nat) : (s.wr f v).modeIn = s.modeIn := by unfold State.wr; simp
@[simp] theorem State.wr_idxN (s : State) (f : Fld) (v : Nat) : (s.wr f v).idxN = s.idxN := by unfold State.wr; simp
@[simp] theorem State.wr_rul (s : State) (f : Fld) (v : Nat) : (s.wr f v).rul = s.rul := by unfold State.wr; simp
@[simp] theorem State.wr_mgn (s : State) (f : Fld) (v : Nat) : (s.wr f v).mgn = s.mgn := by unfold State.wr; simp
@[simp] theorem State.wr_lanes (s : State) (f : Fld) (v : Nat) : (s.wr f v).lanes = s.lanes := by unfold State.wr; simp
@[simp] theorem State.wr_ink (s : State) (f : Fld) (v : Nat) : (s.wr f v).ink = s.ink := by unfold State.wr; simp
@[simp] theorem State.wr_delta (s : State) (f : Fld) (v : Nat) : (s.wr f v).delta = s.delta := by unfold State.wr; simp
@[simp] theorem State.wr_fbs (s : State) (f : Fld) (v : Nat) : (s.wr f v).fbs = s.fbs := by unfold State.wr; simp
@[simp] theorem State.wr_pbs (s : State) (f : Fld) (v : Nat) : (s.wr f v).pbs = s.pbs := by unfold State.wr; simp
@[simp] theorem State.wr_sds (s : State) (f : Fld) (v : Nat) : (s.wr f v).sds = s.sds := by unfold State.wr; simp
@[simp] theorem State.wr_app (s : State) (f : Fld) (v : Nat) : (s.wr f v).app = s.app := by unfold State.wr; simp
@[simp] theorem State.wr_chans (s : State) (f : Fld) (v : Nat) : (s.wr f v).chans = s.chans := by unfold State.wr; simp
@[simp] theorem State.wr_ring (s : State) (f : Fld) (v : Nat) : (s.wr f v).ring = s.ring := by unfold State.wr; simp
@[simp] theorem State.wr_twin (s : State) (f : Fld) (v : Nat) : (s.wr f v).twin = s.twin := by unfold State.wr; simp
@[simp] theorem State.wr_free (s : State) (f : Fld) (v : Nat) : (s.wr f v).free = s.free := by unfold State.wr; simp
@[simp] theorem State.wr_out (s : State) (f : Fld) (v : Nat) : (s.wr f v).out = s.out := by unfold State.wr; simp
@[simp] theorem State.wr_pending (s : State) (f : Fld) (v : Nat) : (s.wr f v).pending = s.pending := by unfold State.wr; simp

@[simp] theorem State.wrB_mem (s : State) (f : Fld) (b : Bool) : (s.wrB f b).mem = s.mem := by unfold State.wrB; simp
@[simp] theorem State.wrB_log (s : State) (f : Fld) (b : Bool) : (s.wrB f b).log = s.log := by unfold State.wrB; simp
@[simp] theorem State.wrB_tb (s : State) (f : Fld) (b : Bool) : (s.wrB f b).tb = s.tb := by unfold State.wrB; simp
@[simp] theorem State.wrB_dev (s : State) (f : Fld) (b : Bool) : (s.wrB f b).dev = s.dev := by unfold State.wrB; simp
@[simp] theorem State.wrB_cmt (s : State) (f : Fld) (b : Bool) : (s.wrB f b).cmt = s.cmt := by unfold State.wrB; simp
@[simp] theorem State.wrB_wins (s : State) (f : Fld) (b : Bool) : (s.wrB f b).wins = s.wins := by unfold State.wrB; simp
@[simp] theorem State.wrB_dct (s : State) (f : Fld) (b : Bool) : (s.wrB f b).dct = s.dct := by unfold State.wrB; simp
@[simp] theorem State.wrB_serifs (s : State) (f : Fld) (b : Bool) : (s.wrB f b).serifs = s.serifs := by unfold State.wrB; simp
@[simp] theorem State.wrB_dispIn (s : State) (f : Fld) (b : Bool) : (s.wrB f b).dispIn = s.dispIn := by unfold State.wrB; simp
@[simp] theorem State.wrB_blt (s : State) (f : Fld) (b : Bool) : (s.wrB f b).blt = s.blt := by unfold State.wrB; simp
@[simp] theorem State.wrB_spr (s : State) (f : Fld) (b : Bool) : (s.wrB f b).spr = s.spr := by unfold State.wrB; simp
@[simp] theorem State.wrB_pwr (s : State) (f : Fld) (b : Bool) : (s.wrB f b).pwr = s.pwr := by unfold State.wrB; simp
@[simp] theorem State.wrB_bus (s : State) (f : Fld) (b : Bool) : (s.wrB f b).bus = s.bus := by unfold State.wrB; simp
@[simp] theorem State.wrB_gens (s : State) (f : Fld) (b : Bool) : (s.wrB f b).gens = s.gens := by unfold State.wrB; simp
@[simp] theorem State.wrB_queues (s : State) (f : Fld) (b : Bool) : (s.wrB f b).queues = s.queues := by unfold State.wrB; simp
@[simp] theorem State.wrB_modeIn (s : State) (f : Fld) (b : Bool) : (s.wrB f b).modeIn = s.modeIn := by unfold State.wrB; simp
@[simp] theorem State.wrB_idxN (s : State) (f : Fld) (b : Bool) : (s.wrB f b).idxN = s.idxN := by unfold State.wrB; simp
@[simp] theorem State.wrB_rul (s : State) (f : Fld) (b : Bool) : (s.wrB f b).rul = s.rul := by unfold State.wrB; simp
@[simp] theorem State.wrB_mgn (s : State) (f : Fld) (b : Bool) : (s.wrB f b).mgn = s.mgn := by unfold State.wrB; simp
@[simp] theorem State.wrB_lanes (s : State) (f : Fld) (b : Bool) : (s.wrB f b).lanes = s.lanes := by unfold State.wrB; simp
@[simp] theorem State.wrB_ink (s : State) (f : Fld) (b : Bool) : (s.wrB f b).ink = s.ink := by unfold State.wrB; simp
@[simp] theorem State.wrB_delta (s : State) (f : Fld) (b : Bool) : (s.wrB f b).delta = s.delta := by unfold State.wrB; simp
@[simp] theorem State.wrB_fbs (s : State) (f : Fld) (b : Bool) : (s.wrB f b).fbs = s.fbs := by unfold State.wrB; simp
@[simp] theorem State.wrB_pbs (s : State) (f : Fld) (b : Bool) : (s.wrB f b).pbs = s.pbs := by unfold State.wrB; simp
@[simp] theorem State.wrB_sds (s : State) (f : Fld) (b : Bool) : (s.wrB f b).sds = s.sds := by unfold State.wrB; simp
@[simp] theorem State.wrB_app (s : State) (f : Fld) (b : Bool) : (s.wrB f b).app = s.app := by unfold State.wrB; simp
@[simp] theorem State.wrB_chans (s : State) (f : Fld) (b : Bool) : (s.wrB f b).chans = s.chans := by unfold State.wrB; simp
@[simp] theorem State.wrB_ring (s : State) (f : Fld) (b : Bool) : (s.wrB f b).ring = s.ring := by unfold State.wrB; simp
@[simp] theorem State.wrB_twin (s : State) (f : Fld) (b : Bool) : (s.wrB f b).twin = s.twin := by unfold State.wrB; simp
@[simp] theorem State.wrB_free (s : State) (f : Fld) (b : Bool) : (s.wrB f b).free = s.free := by unfold State.wrB; simp
@[simp] theorem State.wrB_out (s : State) (f : Fld) (b : Bool) : (s.wrB f b).out = s.out := by unfold State.wrB; simp
@[simp] theorem State.wrB_pending (s : State) (f : Fld) (b : Bool) : (s.wrB f b).pending = s.pending := by unfold State.wrB; simp

@[simp] theorem State.wrS_mem (s : State) (f : Fld) (x : Int) : (s.wrS f x).mem = s.mem := by unfold State.wrS; simp
@[simp] theorem State.wrS_log (s : State) (f : Fld) (x : Int) : (s.wrS f x).log = s.log := by unfold State.wrS; simp
@[simp] theorem State.wrS_tb (s : State) (f : Fld) (x : Int) : (s.wrS f x).tb = s.tb := by unfold State.wrS; simp
@[simp] theorem State.wrS_dev (s : State) (f : Fld) (x : Int) : (s.wrS f x).dev = s.dev := by unfold State.wrS; simp
@[simp] theorem State.wrS_cmt (s : State) (f : Fld) (x : Int) : (s.wrS f x).cmt = s.cmt := by unfold State.wrS; simp
@[simp] theorem State.wrS_wins (s : State) (f : Fld) (x : Int) : (s.wrS f x).wins = s.wins := by unfold State.wrS; simp
@[simp] theorem State.wrS_dct (s : State) (f : Fld) (x : Int) : (s.wrS f x).dct = s.dct := by unfold State.wrS; simp
@[simp] theorem State.wrS_serifs (s : State) (f : Fld) (x : Int) : (s.wrS f x).serifs = s.serifs := by unfold State.wrS; simp
@[simp] theorem State.wrS_dispIn (s : State) (f : Fld) (x : Int) : (s.wrS f x).dispIn = s.dispIn := by unfold State.wrS; simp
@[simp] theorem State.wrS_blt (s : State) (f : Fld) (x : Int) : (s.wrS f x).blt = s.blt := by unfold State.wrS; simp
@[simp] theorem State.wrS_spr (s : State) (f : Fld) (x : Int) : (s.wrS f x).spr = s.spr := by unfold State.wrS; simp
@[simp] theorem State.wrS_pwr (s : State) (f : Fld) (x : Int) : (s.wrS f x).pwr = s.pwr := by unfold State.wrS; simp
@[simp] theorem State.wrS_bus (s : State) (f : Fld) (x : Int) : (s.wrS f x).bus = s.bus := by unfold State.wrS; simp
@[simp] theorem State.wrS_gens (s : State) (f : Fld) (x : Int) : (s.wrS f x).gens = s.gens := by unfold State.wrS; simp
@[simp] theorem State.wrS_queues (s : State) (f : Fld) (x : Int) : (s.wrS f x).queues = s.queues := by unfold State.wrS; simp
@[simp] theorem State.wrS_modeIn (s : State) (f : Fld) (x : Int) : (s.wrS f x).modeIn = s.modeIn := by unfold State.wrS; simp
@[simp] theorem State.wrS_idxN (s : State) (f : Fld) (x : Int) : (s.wrS f x).idxN = s.idxN := by unfold State.wrS; simp
@[simp] theorem State.wrS_rul (s : State) (f : Fld) (x : Int) : (s.wrS f x).rul = s.rul := by unfold State.wrS; simp
@[simp] theorem State.wrS_mgn (s : State) (f : Fld) (x : Int) : (s.wrS f x).mgn = s.mgn := by unfold State.wrS; simp
@[simp] theorem State.wrS_lanes (s : State) (f : Fld) (x : Int) : (s.wrS f x).lanes = s.lanes := by unfold State.wrS; simp
@[simp] theorem State.wrS_ink (s : State) (f : Fld) (x : Int) : (s.wrS f x).ink = s.ink := by unfold State.wrS; simp
@[simp] theorem State.wrS_delta (s : State) (f : Fld) (x : Int) : (s.wrS f x).delta = s.delta := by unfold State.wrS; simp
@[simp] theorem State.wrS_fbs (s : State) (f : Fld) (x : Int) : (s.wrS f x).fbs = s.fbs := by unfold State.wrS; simp
@[simp] theorem State.wrS_pbs (s : State) (f : Fld) (x : Int) : (s.wrS f x).pbs = s.pbs := by unfold State.wrS; simp
@[simp] theorem State.wrS_sds (s : State) (f : Fld) (x : Int) : (s.wrS f x).sds = s.sds := by unfold State.wrS; simp
@[simp] theorem State.wrS_app (s : State) (f : Fld) (x : Int) : (s.wrS f x).app = s.app := by unfold State.wrS; simp
@[simp] theorem State.wrS_chans (s : State) (f : Fld) (x : Int) : (s.wrS f x).chans = s.chans := by unfold State.wrS; simp
@[simp] theorem State.wrS_ring (s : State) (f : Fld) (x : Int) : (s.wrS f x).ring = s.ring := by unfold State.wrS; simp
@[simp] theorem State.wrS_twin (s : State) (f : Fld) (x : Int) : (s.wrS f x).twin = s.twin := by unfold State.wrS; simp
@[simp] theorem State.wrS_free (s : State) (f : Fld) (x : Int) : (s.wrS f x).free = s.free := by unfold State.wrS; simp
@[simp] theorem State.wrS_out (s : State) (f : Fld) (x : Int) : (s.wrS f x).out = s.out := by unfold State.wrS; simp
@[simp] theorem State.wrS_pending (s : State) (f : Fld) (x : Int) : (s.wrS f x).pending = s.pending := by unfold State.wrS; simp

@[simp] theorem State.wrU_mem (s : State) (f : Fld) (x : Nat) : (s.wrU f x).mem = s.mem := by unfold State.wrU; simp
@[simp] theorem State.wrU_log (s : State) (f : Fld) (x : Nat) : (s.wrU f x).log = s.log := by unfold State.wrU; simp
@[simp] theorem State.wrU_tb (s : State) (f : Fld) (x : Nat) : (s.wrU f x).tb = s.tb := by unfold State.wrU; simp
@[simp] theorem State.wrU_dev (s : State) (f : Fld) (x : Nat) : (s.wrU f x).dev = s.dev := by unfold State.wrU; simp
@[simp] theorem State.wrU_cmt (s : State) (f : Fld) (x : Nat) : (s.wrU f x).cmt = s.cmt := by unfold State.wrU; simp
@[simp] theorem State.wrU_wins (s : State) (f : Fld) (x : Nat) : (s.wrU f x).wins = s.wins := by unfold State.wrU; simp
@[simp] theorem State.wrU_dct (s : State) (f : Fld) (x : Nat) : (s.wrU f x).dct = s.dct := by unfold State.wrU; simp
@[simp] theorem State.wrU_serifs (s : State) (f : Fld) (x : Nat) : (s.wrU f x).serifs = s.serifs := by unfold State.wrU; simp
@[simp] theorem State.wrU_dispIn (s : State) (f : Fld) (x : Nat) : (s.wrU f x).dispIn = s.dispIn := by unfold State.wrU; simp
@[simp] theorem State.wrU_blt (s : State) (f : Fld) (x : Nat) : (s.wrU f x).blt = s.blt := by unfold State.wrU; simp
@[simp] theorem State.wrU_spr (s : State) (f : Fld) (x : Nat) : (s.wrU f x).spr = s.spr := by unfold State.wrU; simp
@[simp] theorem State.wrU_pwr (s : State) (f : Fld) (x : Nat) : (s.wrU f x).pwr = s.pwr := by unfold State.wrU; simp
@[simp] theorem State.wrU_bus (s : State) (f : Fld) (x : Nat) : (s.wrU f x).bus = s.bus := by unfold State.wrU; simp
@[simp] theorem State.wrU_gens (s : State) (f : Fld) (x : Nat) : (s.wrU f x).gens = s.gens := by unfold State.wrU; simp
@[simp] theorem State.wrU_queues (s : State) (f : Fld) (x : Nat) : (s.wrU f x).queues = s.queues := by unfold State.wrU; simp
@[simp] theorem State.wrU_modeIn (s : State) (f : Fld) (x : Nat) : (s.wrU f x).modeIn = s.modeIn := by unfold State.wrU; simp
@[simp] theorem State.wrU_idxN (s : State) (f : Fld) (x : Nat) : (s.wrU f x).idxN = s.idxN := by unfold State.wrU; simp
@[simp] theorem State.wrU_rul (s : State) (f : Fld) (x : Nat) : (s.wrU f x).rul = s.rul := by unfold State.wrU; simp
@[simp] theorem State.wrU_mgn (s : State) (f : Fld) (x : Nat) : (s.wrU f x).mgn = s.mgn := by unfold State.wrU; simp
@[simp] theorem State.wrU_lanes (s : State) (f : Fld) (x : Nat) : (s.wrU f x).lanes = s.lanes := by unfold State.wrU; simp
@[simp] theorem State.wrU_ink (s : State) (f : Fld) (x : Nat) : (s.wrU f x).ink = s.ink := by unfold State.wrU; simp
@[simp] theorem State.wrU_delta (s : State) (f : Fld) (x : Nat) : (s.wrU f x).delta = s.delta := by unfold State.wrU; simp
@[simp] theorem State.wrU_fbs (s : State) (f : Fld) (x : Nat) : (s.wrU f x).fbs = s.fbs := by unfold State.wrU; simp
@[simp] theorem State.wrU_pbs (s : State) (f : Fld) (x : Nat) : (s.wrU f x).pbs = s.pbs := by unfold State.wrU; simp
@[simp] theorem State.wrU_sds (s : State) (f : Fld) (x : Nat) : (s.wrU f x).sds = s.sds := by unfold State.wrU; simp
@[simp] theorem State.wrU_app (s : State) (f : Fld) (x : Nat) : (s.wrU f x).app = s.app := by unfold State.wrU; simp
@[simp] theorem State.wrU_chans (s : State) (f : Fld) (x : Nat) : (s.wrU f x).chans = s.chans := by unfold State.wrU; simp
@[simp] theorem State.wrU_ring (s : State) (f : Fld) (x : Nat) : (s.wrU f x).ring = s.ring := by unfold State.wrU; simp
@[simp] theorem State.wrU_twin (s : State) (f : Fld) (x : Nat) : (s.wrU f x).twin = s.twin := by unfold State.wrU; simp
@[simp] theorem State.wrU_free (s : State) (f : Fld) (x : Nat) : (s.wrU f x).free = s.free := by unfold State.wrU; simp
@[simp] theorem State.wrU_out (s : State) (f : Fld) (x : Nat) : (s.wrU f x).out = s.out := by unfold State.wrU; simp
@[simp] theorem State.wrU_pending (s : State) (f : Fld) (x : Nat) : (s.wrU f x).pending = s.pending := by unfold State.wrU; simp

@[simp] theorem State.putMem8_regs (s : State) (sp a v : Nat) : (s.putMem8 sp a v).regs = s.regs := by unfold State.putMem8; rfl
@[simp] theorem State.putMem8_log (s : State) (sp a v : Nat) : (s.putMem8 sp a v).log = s.log := by unfold State.putMem8; rfl
@[simp] theorem State.putMem8_tb (s : State) (sp a v : Nat) : (s.putMem8 sp a v).tb = s.tb := by unfold State.putMem8; rfl
@[simp] theorem State.putMem8_dev (s : State) (sp a v : Nat) : (s.putMem8 sp a v).dev = s.dev := by unfold State.putMem8; rfl
@[simp] theorem State.putMem8_cmt (s : State) (sp a v : Nat) : (s.putMem8 sp a v).cmt = s.cmt := by unfold State.putMem8; rfl
@[simp] theorem State.putMem8_wins (s : State) (sp a v : Nat) : (s.putMem8 sp a v).wins = s.wins := by unfold State.putMem8; rfl
@[simp] theorem State.putMem8_dct (s : State) (sp a v : Nat) : (s.putMem8 sp a v).dct = s.dct := by unfold State.putMem8; rfl
@[simp] theorem State.putMem8_serifs (s : State) (sp a v : Nat) : (s.putMem8 sp a v).serifs = s.serifs := by unfold State.putMem8; rfl
@[simp] theorem State.putMem8_dispIn (s : State) (sp a v : Nat) : (s.putMem8 sp a v).dispIn = s.dispIn := by unfold State.putMem8; rfl
@[simp] theorem State.putMem8_blt (s : State) (sp a v : Nat) : (s.putMem8 sp a v).blt = s.blt := by unfold State.putMem8; rfl
@[simp] theorem State.putMem8_spr (s : State) (sp a v : Nat) : (s.putMem8 sp a v).spr = s.spr := by unfold State.putMem8; rfl
@[simp] theorem State.putMem8_pwr (s : State) (sp a v : Nat) : (s.putMem8 sp a v).pwr = s.pwr := by unfold State.putMem8; rfl
@[simp] theorem State.putMem8_bus (s : State) (sp a v : Nat) : (s.putMem8 sp a v).bus = s.bus := by unfold State.putMem8; rfl
@[simp] theorem State.putMem8_gens (s : State) (sp a v : Nat) : (s.putMem8 sp a v).gens = s.gens := by unfold State.putMem8; rfl
@[simp] theorem State.putMem8_queues (s : State) (sp a v : Nat) : (s.putMem8 sp a v).queues = s.queues := by unfold State.putMem8; rfl
@[simp] theorem State.putMem8_modeIn (s : State) (sp a v : Nat) : (s.putMem8 sp a v).modeIn = s.modeIn := by unfold State.putMem8; rfl
@[simp] theorem State.putMem8_idxN (s : State) (sp a v : Nat) : (s.putMem8 sp a v).idxN = s.idxN := by unfold State.putMem8; rfl
@[simp] theorem State.putMem8_rul (s : State) (sp a v : Nat) : (s.putMem8 sp a v).rul = s.rul := by unfold State.putMem8; rfl
@[simp] theorem State.putMem8_mgn (s : State) (sp a v : Nat) : (s.putMem8 sp a v).mgn = s.mgn := by unfold State.putMem8; rfl
@[simp] theorem State.putMem8_lanes (s : State) (sp a v : Nat) : (s.putMem8 sp a v).lanes = s.lanes := by unfold State.putMem8; rfl
@[simp] theorem State.putMem8_ink (s : State) (sp a v : Nat) : (s.putMem8 sp a v).ink = s.ink := by unfold State.putMem8; rfl
@[simp] theorem State.putMem8_delta (s : State) (sp a v : Nat) : (s.putMem8 sp a v).delta = s.delta := by unfold State.putMem8; rfl
@[simp] theorem State.putMem8_fbs (s : State) (sp a v : Nat) : (s.putMem8 sp a v).fbs = s.fbs := by unfold State.putMem8; rfl
@[simp] theorem State.putMem8_pbs (s : State) (sp a v : Nat) : (s.putMem8 sp a v).pbs = s.pbs := by unfold State.putMem8; rfl
@[simp] theorem State.putMem8_sds (s : State) (sp a v : Nat) : (s.putMem8 sp a v).sds = s.sds := by unfold State.putMem8; rfl
@[simp] theorem State.putMem8_app (s : State) (sp a v : Nat) : (s.putMem8 sp a v).app = s.app := by unfold State.putMem8; rfl
@[simp] theorem State.putMem8_chans (s : State) (sp a v : Nat) : (s.putMem8 sp a v).chans = s.chans := by unfold State.putMem8; rfl
@[simp] theorem State.putMem8_ring (s : State) (sp a v : Nat) : (s.putMem8 sp a v).ring = s.ring := by unfold State.putMem8; rfl
@[simp] theorem State.putMem8_twin (s : State) (sp a v : Nat) : (s.putMem8 sp a v).twin = s.twin := by unfold State.putMem8; rfl
@[simp] theorem State.putMem8_free (s : State) (sp a v : Nat) : (s.putMem8 sp a v).free = s.free := by unfold State.putMem8; rfl
@[simp] theorem State.putMem8_out (s : State) (sp a v : Nat) : (s.putMem8 sp a v).out = s.out := by unfold State.putMem8; rfl
@[simp] theorem State.putMem8_pending (s : State) (sp a v : Nat) : (s.putMem8 sp a v).pending = s.pending := by unfold State.putMem8; rfl

@[simp] theorem State.keepMem_regs (s : State) (p : Host.Cell → Bool) : (s.keepMem p).regs = s.regs := by unfold State.keepMem; rfl
@[simp] theorem State.keepMem_log (s : State) (p : Host.Cell → Bool) : (s.keepMem p).log = s.log := by unfold State.keepMem; rfl
@[simp] theorem State.keepMem_tb (s : State) (p : Host.Cell → Bool) : (s.keepMem p).tb = s.tb := by unfold State.keepMem; rfl
@[simp] theorem State.keepMem_dev (s : State) (p : Host.Cell → Bool) : (s.keepMem p).dev = s.dev := by unfold State.keepMem; rfl
@[simp] theorem State.keepMem_cmt (s : State) (p : Host.Cell → Bool) : (s.keepMem p).cmt = s.cmt := by unfold State.keepMem; rfl
@[simp] theorem State.keepMem_wins (s : State) (p : Host.Cell → Bool) : (s.keepMem p).wins = s.wins := by unfold State.keepMem; rfl
@[simp] theorem State.keepMem_dct (s : State) (p : Host.Cell → Bool) : (s.keepMem p).dct = s.dct := by unfold State.keepMem; rfl
@[simp] theorem State.keepMem_serifs (s : State) (p : Host.Cell → Bool) : (s.keepMem p).serifs = s.serifs := by unfold State.keepMem; rfl
@[simp] theorem State.keepMem_dispIn (s : State) (p : Host.Cell → Bool) : (s.keepMem p).dispIn = s.dispIn := by unfold State.keepMem; rfl
@[simp] theorem State.keepMem_blt (s : State) (p : Host.Cell → Bool) : (s.keepMem p).blt = s.blt := by unfold State.keepMem; rfl
@[simp] theorem State.keepMem_spr (s : State) (p : Host.Cell → Bool) : (s.keepMem p).spr = s.spr := by unfold State.keepMem; rfl
@[simp] theorem State.keepMem_pwr (s : State) (p : Host.Cell → Bool) : (s.keepMem p).pwr = s.pwr := by unfold State.keepMem; rfl
@[simp] theorem State.keepMem_bus (s : State) (p : Host.Cell → Bool) : (s.keepMem p).bus = s.bus := by unfold State.keepMem; rfl
@[simp] theorem State.keepMem_gens (s : State) (p : Host.Cell → Bool) : (s.keepMem p).gens = s.gens := by unfold State.keepMem; rfl
@[simp] theorem State.keepMem_queues (s : State) (p : Host.Cell → Bool) : (s.keepMem p).queues = s.queues := by unfold State.keepMem; rfl
@[simp] theorem State.keepMem_modeIn (s : State) (p : Host.Cell → Bool) : (s.keepMem p).modeIn = s.modeIn := by unfold State.keepMem; rfl
@[simp] theorem State.keepMem_idxN (s : State) (p : Host.Cell → Bool) : (s.keepMem p).idxN = s.idxN := by unfold State.keepMem; rfl
@[simp] theorem State.keepMem_rul (s : State) (p : Host.Cell → Bool) : (s.keepMem p).rul = s.rul := by unfold State.keepMem; rfl
@[simp] theorem State.keepMem_mgn (s : State) (p : Host.Cell → Bool) : (s.keepMem p).mgn = s.mgn := by unfold State.keepMem; rfl
@[simp] theorem State.keepMem_lanes (s : State) (p : Host.Cell → Bool) : (s.keepMem p).lanes = s.lanes := by unfold State.keepMem; rfl
@[simp] theorem State.keepMem_ink (s : State) (p : Host.Cell → Bool) : (s.keepMem p).ink = s.ink := by unfold State.keepMem; rfl
@[simp] theorem State.keepMem_delta (s : State) (p : Host.Cell → Bool) : (s.keepMem p).delta = s.delta := by unfold State.keepMem; rfl
@[simp] theorem State.keepMem_fbs (s : State) (p : Host.Cell → Bool) : (s.keepMem p).fbs = s.fbs := by unfold State.keepMem; rfl
@[simp] theorem State.keepMem_pbs (s : State) (p : Host.Cell → Bool) : (s.keepMem p).pbs = s.pbs := by unfold State.keepMem; rfl
@[simp] theorem State.keepMem_sds (s : State) (p : Host.Cell → Bool) : (s.keepMem p).sds = s.sds := by unfold State.keepMem; rfl
@[simp] theorem State.keepMem_app (s : State) (p : Host.Cell → Bool) : (s.keepMem p).app = s.app := by unfold State.keepMem; rfl
@[simp] theorem State.keepMem_chans (s : State) (p : Host.Cell → Bool) : (s.keepMem p).chans = s.chans := by unfold State.keepMem; rfl
@[simp] theorem State.keepMem_ring (s : State) (p : Host.Cell → Bool) : (s.keepMem p).ring = s.ring := by unfold State.keepMem; rfl
@[simp] theorem State.keepMem_twin (s : State) (p : Host.Cell → Bool) : (s.keepMem p).twin = s.twin := by unfold State.keepMem; rfl
@[simp] theorem State.keepMem_free (s : State) (p : Host.Cell → Bool) : (s.keepMem p).free = s.free := by unfold State.keepMem; rfl
@[simp] theorem State.keepMem_out (s : State) (p : Host.Cell → Bool) : (s.keepMem p).out = s.out := by unfold State.keepMem; rfl
@[simp] theorem State.keepMem_pending (s : State) (p : Host.Cell → Bool) : (s.keepMem p).pending = s.pending := by unfold State.keepMem; rfl

@[simp] theorem State.useFree_regs (s : State) : (s.useFree).regs = s.regs := by unfold State.useFree; rfl
@[simp] theorem State.useFree_mem (s : State) : (s.useFree).mem = s.mem := by unfold State.useFree; rfl
@[simp] theorem State.useFree_log (s : State) : (s.useFree).log = s.log := by unfold State.useFree; rfl
@[simp] theorem State.useFree_tb (s : State) : (s.useFree).tb = s.tb := by unfold State.useFree; rfl
@[simp] theorem State.useFree_dev (s : State) : (s.useFree).dev = s.dev := by unfold State.useFree; rfl
@[simp] theorem State.useFree_cmt (s : State) : (s.useFree).cmt = s.cmt := by unfold State.useFree; rfl
@[simp] theorem State.useFree_wins (s : State) : (s.useFree).wins = s.wins := by unfold State.useFree; rfl
@[simp] theorem State.useFree_dct (s : State) : (s.useFree).dct = s.dct := by unfold State.useFree; rfl
@[simp] theorem State.useFree_serifs (s : State) : (s.useFree).serifs = s.serifs := by unfold State.useFree; rfl
@[simp] theorem State.useFree_dispIn (s : State) : (s.useFree).dispIn = s.dispIn := by unfold State.useFree; rfl
@[simp] theorem State.useFree_blt (s : State) : (s.useFree).blt = s.blt := by unfold State.useFree; rfl
@[simp] theorem State.useFree_spr (s : State) : (s.useFree).spr = s.spr := by unfold State.useFree; rfl
@[simp] theorem State.useFree_pwr (s : State) : (s.useFree).pwr = s.pwr := by unfold State.useFree; rfl
@[simp] theorem State.useFree_bus (s : State) : (s.useFree).bus = s.bus := by unfold State.useFree; rfl
@[simp] theorem State.useFree_gens (s : State) : (s.useFree).gens = s.gens := by unfold State.useFree; rfl
@[simp] theorem State.useFree_queues (s : State) : (s.useFree).queues = s.queues := by unfold State.useFree; rfl
@[simp] theorem State.useFree_modeIn (s : State) : (s.useFree).modeIn = s.modeIn := by unfold State.useFree; rfl
@[simp] theorem State.useFree_idxN (s : State) : (s.useFree).idxN = s.idxN := by unfold State.useFree; rfl
@[simp] theorem State.useFree_rul (s : State) : (s.useFree).rul = s.rul := by unfold State.useFree; rfl
@[simp] theorem State.useFree_mgn (s : State) : (s.useFree).mgn = s.mgn := by unfold State.useFree; rfl
@[simp] theorem State.useFree_lanes (s : State) : (s.useFree).lanes = s.lanes := by unfold State.useFree; rfl
@[simp] theorem State.useFree_ink (s : State) : (s.useFree).ink = s.ink := by unfold State.useFree; rfl
@[simp] theorem State.useFree_delta (s : State) : (s.useFree).delta = s.delta := by unfold State.useFree; rfl
@[simp] theorem State.useFree_fbs (s : State) : (s.useFree).fbs = s.fbs := by unfold State.useFree; rfl
@[simp] theorem State.useFree_pbs (s : State) : (s.useFree).pbs = s.pbs := by unfold State.useFree; rfl
@[simp] theorem State.useFree_sds (s : State) : (s.useFree).sds = s.sds := by unfold State.useFree; rfl
@[simp] theorem State.useFree_app (s : State) : (s.useFree).app = s.app := by unfold State.useFree; rfl
@[simp] theorem State.useFree_chans (s : State) : (s.useFree).chans = s.chans := by unfold State.useFree; rfl
@[simp] theorem State.useFree_ring (s : State) : (s.useFree).ring = s.ring := by unfold State.useFree; rfl
@[simp] theorem State.useFree_twin (s : State) : (s.useFree).twin = s.twin := by unfold State.useFree; rfl
@[simp] theorem State.useFree_out (s : State) : (s.useFree).out = s.out := by unfold State.useFree; rfl
@[simp] theorem State.useFree_pending (s : State) : (s.useFree).pending = s.pending := by unfold State.useFree; rfl

@[simp] theorem State.violInfo_mem (s : State) (src : Src) (kind a : Nat) : (s.violInfo src kind a).mem = s.mem := by unfold State.violInfo; simp
@[simp] theorem State.violInfo_log (s : State) (src : Src) (kind a : Nat) : (s.violInfo src kind a).log = s.log := by unfold State.violInfo; simp
@[simp] theorem State.violInfo_tb (s : State) (src : Src) (kind a : Nat) : (s.violInfo src kind a).tb = s.tb := by unfold State.violInfo; simp
@[simp] theorem State.violInfo_dev (s : State) (src : Src) (kind a : Nat) : (s.violInfo src kind a).dev = s.dev := by unfold State.violInfo; simp
@[simp] theorem State.violInfo_cmt (s : State) (src : Src) (kind a : Nat) : (s.violInfo src kind a).cmt = s.cmt := by unfold State.violInfo; simp
@[simp] theorem State.violInfo_wins (s : State) (src : Src) (kind a : Nat) : (s.violInfo src kind a).wins = s.wins := by unfold State.violInfo; simp
@[simp] theorem State.violInfo_dct (s : State) (src : Src) (kind a : Nat) : (s.violInfo src kind a).dct = s.dct := by unfold State.violInfo; simp
@[simp] theorem State.violInfo_serifs (s : State) (src : Src) (kind a : Nat) : (s.violInfo src kind a).serifs = s.serifs := by unfold State.violInfo; simp
@[simp] theorem State.violInfo_dispIn (s : State) (src : Src) (kind a : Nat) : (s.violInfo src kind a).dispIn = s.dispIn := by unfold State.violInfo; simp
@[simp] theorem State.violInfo_blt (s : State) (src : Src) (kind a : Nat) : (s.violInfo src kind a).blt = s.blt := by unfold State.violInfo; simp
@[simp] theorem State.violInfo_spr (s : State) (src : Src) (kind a : Nat) : (s.violInfo src kind a).spr = s.spr := by unfold State.violInfo; simp
@[simp] theorem State.violInfo_pwr (s : State) (src : Src) (kind a : Nat) : (s.violInfo src kind a).pwr = s.pwr := by unfold State.violInfo; simp
@[simp] theorem State.violInfo_bus (s : State) (src : Src) (kind a : Nat) : (s.violInfo src kind a).bus = s.bus := by unfold State.violInfo; simp
@[simp] theorem State.violInfo_gens (s : State) (src : Src) (kind a : Nat) : (s.violInfo src kind a).gens = s.gens := by unfold State.violInfo; simp
@[simp] theorem State.violInfo_queues (s : State) (src : Src) (kind a : Nat) : (s.violInfo src kind a).queues = s.queues := by unfold State.violInfo; simp
@[simp] theorem State.violInfo_modeIn (s : State) (src : Src) (kind a : Nat) : (s.violInfo src kind a).modeIn = s.modeIn := by unfold State.violInfo; simp
@[simp] theorem State.violInfo_idxN (s : State) (src : Src) (kind a : Nat) : (s.violInfo src kind a).idxN = s.idxN := by unfold State.violInfo; simp
@[simp] theorem State.violInfo_rul (s : State) (src : Src) (kind a : Nat) : (s.violInfo src kind a).rul = s.rul := by unfold State.violInfo; simp
@[simp] theorem State.violInfo_mgn (s : State) (src : Src) (kind a : Nat) : (s.violInfo src kind a).mgn = s.mgn := by unfold State.violInfo; simp
@[simp] theorem State.violInfo_lanes (s : State) (src : Src) (kind a : Nat) : (s.violInfo src kind a).lanes = s.lanes := by unfold State.violInfo; simp
@[simp] theorem State.violInfo_ink (s : State) (src : Src) (kind a : Nat) : (s.violInfo src kind a).ink = s.ink := by unfold State.violInfo; simp
@[simp] theorem State.violInfo_delta (s : State) (src : Src) (kind a : Nat) : (s.violInfo src kind a).delta = s.delta := by unfold State.violInfo; simp
@[simp] theorem State.violInfo_fbs (s : State) (src : Src) (kind a : Nat) : (s.violInfo src kind a).fbs = s.fbs := by unfold State.violInfo; simp
@[simp] theorem State.violInfo_pbs (s : State) (src : Src) (kind a : Nat) : (s.violInfo src kind a).pbs = s.pbs := by unfold State.violInfo; simp
@[simp] theorem State.violInfo_sds (s : State) (src : Src) (kind a : Nat) : (s.violInfo src kind a).sds = s.sds := by unfold State.violInfo; simp
@[simp] theorem State.violInfo_app (s : State) (src : Src) (kind a : Nat) : (s.violInfo src kind a).app = s.app := by unfold State.violInfo; simp
@[simp] theorem State.violInfo_chans (s : State) (src : Src) (kind a : Nat) : (s.violInfo src kind a).chans = s.chans := by unfold State.violInfo; simp
@[simp] theorem State.violInfo_ring (s : State) (src : Src) (kind a : Nat) : (s.violInfo src kind a).ring = s.ring := by unfold State.violInfo; simp
@[simp] theorem State.violInfo_twin (s : State) (src : Src) (kind a : Nat) : (s.violInfo src kind a).twin = s.twin := by unfold State.violInfo; simp
@[simp] theorem State.violInfo_free (s : State) (src : Src) (kind a : Nat) : (s.violInfo src kind a).free = s.free := by unfold State.violInfo; simp
@[simp] theorem State.violInfo_out (s : State) (src : Src) (kind a : Nat) : (s.violInfo src kind a).out = s.out := by unfold State.violInfo; simp
@[simp] theorem State.violInfo_pending (s : State) (src : Src) (kind a : Nat) : (s.violInfo src kind a).pending = s.pending := by unfold State.violInfo; simp

@[simp] theorem State.showQueue_mem (s : State) : (s.showQueue).mem = s.mem := by unfold State.showQueue; simp
@[simp] theorem State.showQueue_log (s : State) : (s.showQueue).log = s.log := by unfold State.showQueue; simp
@[simp] theorem State.showQueue_tb (s : State) : (s.showQueue).tb = s.tb := by unfold State.showQueue; simp
@[simp] theorem State.showQueue_dev (s : State) : (s.showQueue).dev = s.dev := by unfold State.showQueue; simp
@[simp] theorem State.showQueue_cmt (s : State) : (s.showQueue).cmt = s.cmt := by unfold State.showQueue; simp
@[simp] theorem State.showQueue_wins (s : State) : (s.showQueue).wins = s.wins := by unfold State.showQueue; simp
@[simp] theorem State.showQueue_dct (s : State) : (s.showQueue).dct = s.dct := by unfold State.showQueue; simp
@[simp] theorem State.showQueue_serifs (s : State) : (s.showQueue).serifs = s.serifs := by unfold State.showQueue; simp
@[simp] theorem State.showQueue_dispIn (s : State) : (s.showQueue).dispIn = s.dispIn := by unfold State.showQueue; simp
@[simp] theorem State.showQueue_blt (s : State) : (s.showQueue).blt = s.blt := by unfold State.showQueue; simp
@[simp] theorem State.showQueue_spr (s : State) : (s.showQueue).spr = s.spr := by unfold State.showQueue; simp
@[simp] theorem State.showQueue_pwr (s : State) : (s.showQueue).pwr = s.pwr := by unfold State.showQueue; simp
@[simp] theorem State.showQueue_bus (s : State) : (s.showQueue).bus = s.bus := by unfold State.showQueue; simp
@[simp] theorem State.showQueue_gens (s : State) : (s.showQueue).gens = s.gens := by unfold State.showQueue; simp
@[simp] theorem State.showQueue_queues (s : State) : (s.showQueue).queues = s.queues := by unfold State.showQueue; simp
@[simp] theorem State.showQueue_modeIn (s : State) : (s.showQueue).modeIn = s.modeIn := by unfold State.showQueue; simp
@[simp] theorem State.showQueue_idxN (s : State) : (s.showQueue).idxN = s.idxN := by unfold State.showQueue; simp
@[simp] theorem State.showQueue_rul (s : State) : (s.showQueue).rul = s.rul := by unfold State.showQueue; simp
@[simp] theorem State.showQueue_mgn (s : State) : (s.showQueue).mgn = s.mgn := by unfold State.showQueue; simp
@[simp] theorem State.showQueue_lanes (s : State) : (s.showQueue).lanes = s.lanes := by unfold State.showQueue; simp
@[simp] theorem State.showQueue_ink (s : State) : (s.showQueue).ink = s.ink := by unfold State.showQueue; simp
@[simp] theorem State.showQueue_delta (s : State) : (s.showQueue).delta = s.delta := by unfold State.showQueue; simp
@[simp] theorem State.showQueue_fbs (s : State) : (s.showQueue).fbs = s.fbs := by unfold State.showQueue; simp
@[simp] theorem State.showQueue_pbs (s : State) : (s.showQueue).pbs = s.pbs := by unfold State.showQueue; simp
@[simp] theorem State.showQueue_sds (s : State) : (s.showQueue).sds = s.sds := by unfold State.showQueue; simp
@[simp] theorem State.showQueue_app (s : State) : (s.showQueue).app = s.app := by unfold State.showQueue; simp
@[simp] theorem State.showQueue_chans (s : State) : (s.showQueue).chans = s.chans := by unfold State.showQueue; simp
@[simp] theorem State.showQueue_ring (s : State) : (s.showQueue).ring = s.ring := by unfold State.showQueue; simp
@[simp] theorem State.showQueue_twin (s : State) : (s.showQueue).twin = s.twin := by unfold State.showQueue; simp
@[simp] theorem State.showQueue_free (s : State) : (s.showQueue).free = s.free := by unfold State.showQueue; simp
@[simp] theorem State.showQueue_out (s : State) : (s.showQueue).out = s.out := by unfold State.showQueue; simp
@[simp] theorem State.showQueue_pending (s : State) : (s.showQueue).pending = s.pending := by unfold State.showQueue; simp

@[simp] theorem State.showTests_mem (s : State) : (s.showTests).mem = s.mem := by unfold State.showTests; simp
@[simp] theorem State.showTests_log (s : State) : (s.showTests).log = s.log := by unfold State.showTests; simp
@[simp] theorem State.showTests_tb (s : State) : (s.showTests).tb = s.tb := by unfold State.showTests; simp
@[simp] theorem State.showTests_dev (s : State) : (s.showTests).dev = s.dev := by unfold State.showTests; simp
@[simp] theorem State.showTests_cmt (s : State) : (s.showTests).cmt = s.cmt := by unfold State.showTests; simp
@[simp] theorem State.showTests_wins (s : State) : (s.showTests).wins = s.wins := by unfold State.showTests; simp
@[simp] theorem State.showTests_dct (s : State) : (s.showTests).dct = s.dct := by unfold State.showTests; simp
@[simp] theorem State.showTests_serifs (s : State) : (s.showTests).serifs = s.serifs := by unfold State.showTests; simp
@[simp] theorem State.showTests_dispIn (s : State) : (s.showTests).dispIn = s.dispIn := by unfold State.showTests; simp
@[simp] theorem State.showTests_blt (s : State) : (s.showTests).blt = s.blt := by unfold State.showTests; simp
@[simp] theorem State.showTests_spr (s : State) : (s.showTests).spr = s.spr := by unfold State.showTests; simp
@[simp] theorem State.showTests_pwr (s : State) : (s.showTests).pwr = s.pwr := by unfold State.showTests; simp
@[simp] theorem State.showTests_bus (s : State) : (s.showTests).bus = s.bus := by unfold State.showTests; simp
@[simp] theorem State.showTests_gens (s : State) : (s.showTests).gens = s.gens := by unfold State.showTests; simp
@[simp] theorem State.showTests_queues (s : State) : (s.showTests).queues = s.queues := by unfold State.showTests; simp
@[simp] theorem State.showTests_modeIn (s : State) : (s.showTests).modeIn = s.modeIn := by unfold State.showTests; simp
@[simp] theorem State.showTests_idxN (s : State) : (s.showTests).idxN = s.idxN := by unfold State.showTests; simp
@[simp] theorem State.showTests_rul (s : State) : (s.showTests).rul = s.rul := by unfold State.showTests; simp
@[simp] theorem State.showTests_mgn (s : State) : (s.showTests).mgn = s.mgn := by unfold State.showTests; simp
@[simp] theorem State.showTests_lanes (s : State) : (s.showTests).lanes = s.lanes := by unfold State.showTests; simp
@[simp] theorem State.showTests_ink (s : State) : (s.showTests).ink = s.ink := by unfold State.showTests; simp
@[simp] theorem State.showTests_delta (s : State) : (s.showTests).delta = s.delta := by unfold State.showTests; simp
@[simp] theorem State.showTests_fbs (s : State) : (s.showTests).fbs = s.fbs := by unfold State.showTests; simp
@[simp] theorem State.showTests_pbs (s : State) : (s.showTests).pbs = s.pbs := by unfold State.showTests; simp
@[simp] theorem State.showTests_sds (s : State) : (s.showTests).sds = s.sds := by unfold State.showTests; simp
@[simp] theorem State.showTests_app (s : State) : (s.showTests).app = s.app := by unfold State.showTests; simp
@[simp] theorem State.showTests_chans (s : State) : (s.showTests).chans = s.chans := by unfold State.showTests; simp
@[simp] theorem State.showTests_ring (s : State) : (s.showTests).ring = s.ring := by unfold State.showTests; simp
@[simp] theorem State.showTests_twin (s : State) : (s.showTests).twin = s.twin := by unfold State.showTests; simp
@[simp] theorem State.showTests_free (s : State) : (s.showTests).free = s.free := by unfold State.showTests; simp
@[simp] theorem State.showTests_out (s : State) : (s.showTests).out = s.out := by unfold State.showTests; simp
@[simp] theorem State.showTests_pending (s : State) : (s.showTests).pending = s.pending := by unfold State.showTests; simp

@[simp] theorem State.showPend_mem (s : State) (h : Nat) : (s.showPend h).mem = s.mem := by unfold State.showPend; simp
@[simp] theorem State.showPend_log (s : State) (h : Nat) : (s.showPend h).log = s.log := by unfold State.showPend; simp
@[simp] theorem State.showPend_tb (s : State) (h : Nat) : (s.showPend h).tb = s.tb := by unfold State.showPend; simp
@[simp] theorem State.showPend_dev (s : State) (h : Nat) : (s.showPend h).dev = s.dev := by unfold State.showPend; simp
@[simp] theorem State.showPend_cmt (s : State) (h : Nat) : (s.showPend h).cmt = s.cmt := by unfold State.showPend; simp
@[simp] theorem State.showPend_wins (s : State) (h : Nat) : (s.showPend h).wins = s.wins := by unfold State.showPend; simp
@[simp] theorem State.showPend_dct (s : State) (h : Nat) : (s.showPend h).dct = s.dct := by unfold State.showPend; simp
@[simp] theorem State.showPend_serifs (s : State) (h : Nat) : (s.showPend h).serifs = s.serifs := by unfold State.showPend; simp
@[simp] theorem State.showPend_dispIn (s : State) (h : Nat) : (s.showPend h).dispIn = s.dispIn := by unfold State.showPend; simp
@[simp] theorem State.showPend_blt (s : State) (h : Nat) : (s.showPend h).blt = s.blt := by unfold State.showPend; simp
@[simp] theorem State.showPend_spr (s : State) (h : Nat) : (s.showPend h).spr = s.spr := by unfold State.showPend; simp
@[simp] theorem State.showPend_pwr (s : State) (h : Nat) : (s.showPend h).pwr = s.pwr := by unfold State.showPend; simp
@[simp] theorem State.showPend_bus (s : State) (h : Nat) : (s.showPend h).bus = s.bus := by unfold State.showPend; simp
@[simp] theorem State.showPend_gens (s : State) (h : Nat) : (s.showPend h).gens = s.gens := by unfold State.showPend; simp
@[simp] theorem State.showPend_queues (s : State) (h : Nat) : (s.showPend h).queues = s.queues := by unfold State.showPend; simp
@[simp] theorem State.showPend_modeIn (s : State) (h : Nat) : (s.showPend h).modeIn = s.modeIn := by unfold State.showPend; simp
@[simp] theorem State.showPend_idxN (s : State) (h : Nat) : (s.showPend h).idxN = s.idxN := by unfold State.showPend; simp
@[simp] theorem State.showPend_rul (s : State) (h : Nat) : (s.showPend h).rul = s.rul := by unfold State.showPend; simp
@[simp] theorem State.showPend_mgn (s : State) (h : Nat) : (s.showPend h).mgn = s.mgn := by unfold State.showPend; simp
@[simp] theorem State.showPend_lanes (s : State) (h : Nat) : (s.showPend h).lanes = s.lanes := by unfold State.showPend; simp
@[simp] theorem State.showPend_ink (s : State) (h : Nat) : (s.showPend h).ink = s.ink := by unfold State.showPend; simp
@[simp] theorem State.showPend_delta (s : State) (h : Nat) : (s.showPend h).delta = s.delta := by unfold State.showPend; simp
@[simp] theorem State.showPend_fbs (s : State) (h : Nat) : (s.showPend h).fbs = s.fbs := by unfold State.showPend; simp
@[simp] theorem State.showPend_pbs (s : State) (h : Nat) : (s.showPend h).pbs = s.pbs := by unfold State.showPend; simp
@[simp] theorem State.showPend_sds (s : State) (h : Nat) : (s.showPend h).sds = s.sds := by unfold State.showPend; simp
@[simp] theorem State.showPend_app (s : State) (h : Nat) : (s.showPend h).app = s.app := by unfold State.showPend; simp
@[simp] theorem State.showPend_chans (s : State) (h : Nat) : (s.showPend h).chans = s.chans := by unfold State.showPend; simp
@[simp] theorem State.showPend_ring (s : State) (h : Nat) : (s.showPend h).ring = s.ring := by unfold State.showPend; simp
@[simp] theorem State.showPend_twin (s : State) (h : Nat) : (s.showPend h).twin = s.twin := by unfold State.showPend; simp
@[simp] theorem State.showPend_free (s : State) (h : Nat) : (s.showPend h).free = s.free := by unfold State.showPend; simp
@[simp] theorem State.showPend_out (s : State) (h : Nat) : (s.showPend h).out = s.out := by unfold State.showPend; simp
@[simp] theorem State.showPend_pending (s : State) (h : Nat) : (s.showPend h).pending = s.pending := by unfold State.showPend; simp

@[simp] theorem State.setPend_mem (s : State) (m kind at_ : Nat) : (s.setPend m kind at_).mem = s.mem := by unfold State.setPend; simp
@[simp] theorem State.setPend_log (s : State) (m kind at_ : Nat) : (s.setPend m kind at_).log = s.log := by unfold State.setPend; simp
@[simp] theorem State.setPend_tb (s : State) (m kind at_ : Nat) : (s.setPend m kind at_).tb = s.tb := by unfold State.setPend; simp
@[simp] theorem State.setPend_cmt (s : State) (m kind at_ : Nat) : (s.setPend m kind at_).cmt = s.cmt := by unfold State.setPend; simp
@[simp] theorem State.setPend_wins (s : State) (m kind at_ : Nat) : (s.setPend m kind at_).wins = s.wins := by unfold State.setPend; simp
@[simp] theorem State.setPend_dct (s : State) (m kind at_ : Nat) : (s.setPend m kind at_).dct = s.dct := by unfold State.setPend; simp
@[simp] theorem State.setPend_serifs (s : State) (m kind at_ : Nat) : (s.setPend m kind at_).serifs = s.serifs := by unfold State.setPend; simp
@[simp] theorem State.setPend_dispIn (s : State) (m kind at_ : Nat) : (s.setPend m kind at_).dispIn = s.dispIn := by unfold State.setPend; simp
@[simp] theorem State.setPend_blt (s : State) (m kind at_ : Nat) : (s.setPend m kind at_).blt = s.blt := by unfold State.setPend; simp
@[simp] theorem State.setPend_spr (s : State) (m kind at_ : Nat) : (s.setPend m kind at_).spr = s.spr := by unfold State.setPend; simp
@[simp] theorem State.setPend_pwr (s : State) (m kind at_ : Nat) : (s.setPend m kind at_).pwr = s.pwr := by unfold State.setPend; simp
@[simp] theorem State.setPend_bus (s : State) (m kind at_ : Nat) : (s.setPend m kind at_).bus = s.bus := by unfold State.setPend; simp
@[simp] theorem State.setPend_gens (s : State) (m kind at_ : Nat) : (s.setPend m kind at_).gens = s.gens := by unfold State.setPend; simp
@[simp] theorem State.setPend_queues (s : State) (m kind at_ : Nat) : (s.setPend m kind at_).queues = s.queues := by unfold State.setPend; simp
@[simp] theorem State.setPend_modeIn (s : State) (m kind at_ : Nat) : (s.setPend m kind at_).modeIn = s.modeIn := by unfold State.setPend; simp
@[simp] theorem State.setPend_idxN (s : State) (m kind at_ : Nat) : (s.setPend m kind at_).idxN = s.idxN := by unfold State.setPend; simp
@[simp] theorem State.setPend_rul (s : State) (m kind at_ : Nat) : (s.setPend m kind at_).rul = s.rul := by unfold State.setPend; simp
@[simp] theorem State.setPend_mgn (s : State) (m kind at_ : Nat) : (s.setPend m kind at_).mgn = s.mgn := by unfold State.setPend; simp
@[simp] theorem State.setPend_lanes (s : State) (m kind at_ : Nat) : (s.setPend m kind at_).lanes = s.lanes := by unfold State.setPend; simp
@[simp] theorem State.setPend_ink (s : State) (m kind at_ : Nat) : (s.setPend m kind at_).ink = s.ink := by unfold State.setPend; simp
@[simp] theorem State.setPend_delta (s : State) (m kind at_ : Nat) : (s.setPend m kind at_).delta = s.delta := by unfold State.setPend; simp
@[simp] theorem State.setPend_fbs (s : State) (m kind at_ : Nat) : (s.setPend m kind at_).fbs = s.fbs := by unfold State.setPend; simp
@[simp] theorem State.setPend_pbs (s : State) (m kind at_ : Nat) : (s.setPend m kind at_).pbs = s.pbs := by unfold State.setPend; simp
@[simp] theorem State.setPend_sds (s : State) (m kind at_ : Nat) : (s.setPend m kind at_).sds = s.sds := by unfold State.setPend; simp
@[simp] theorem State.setPend_app (s : State) (m kind at_ : Nat) : (s.setPend m kind at_).app = s.app := by unfold State.setPend; simp
@[simp] theorem State.setPend_chans (s : State) (m kind at_ : Nat) : (s.setPend m kind at_).chans = s.chans := by unfold State.setPend; simp
@[simp] theorem State.setPend_ring (s : State) (m kind at_ : Nat) : (s.setPend m kind at_).ring = s.ring := by unfold State.setPend; simp
@[simp] theorem State.setPend_twin (s : State) (m kind at_ : Nat) : (s.setPend m kind at_).twin = s.twin := by unfold State.setPend; simp
@[simp] theorem State.setPend_free (s : State) (m kind at_ : Nat) : (s.setPend m kind at_).free = s.free := by unfold State.setPend; simp
@[simp] theorem State.setPend_out (s : State) (m kind at_ : Nat) : (s.setPend m kind at_).out = s.out := by unfold State.setPend; simp
@[simp] theorem State.setPend_pending (s : State) (m kind at_ : Nat) : (s.setPend m kind at_).pending = s.pending := by unfold State.setPend; simp

@[simp] theorem State.clearPend_mem (s : State) : (s.clearPend).mem = s.mem := by unfold State.clearPend; simp
@[simp] theorem State.clearPend_log (s : State) : (s.clearPend).log = s.log := by unfold State.clearPend; simp
@[simp] theorem State.clearPend_tb (s : State) : (s.clearPend).tb = s.tb := by unfold State.clearPend; simp
@[simp] theorem State.clearPend_cmt (s : State) : (s.clearPend).cmt = s.cmt := by unfold State.clearPend; simp
@[simp] theorem State.clearPend_wins (s : State) : (s.clearPend).wins = s.wins := by unfold State.clearPend; simp
@[simp] theorem State.clearPend_dct (s : State) : (s.clearPend).dct = s.dct := by unfold State.clearPend; simp
@[simp] theorem State.clearPend_serifs (s : State) : (s.clearPend).serifs = s.serifs := by unfold State.clearPend; simp
@[simp] theorem State.clearPend_dispIn (s : State) : (s.clearPend).dispIn = s.dispIn := by unfold State.clearPend; simp
@[simp] theorem State.clearPend_blt (s : State) : (s.clearPend).blt = s.blt := by unfold State.clearPend; simp
@[simp] theorem State.clearPend_spr (s : State) : (s.clearPend).spr = s.spr := by unfold State.clearPend; simp
@[simp] theorem State.clearPend_pwr (s : State) : (s.clearPend).pwr = s.pwr := by unfold State.clearPend; simp
@[simp] theorem State.clearPend_bus (s : State) : (s.clearPend).bus = s.bus := by unfold State.clearPend; simp
@[simp] theorem State.clearPend_gens (s : State) : (s.clearPend).gens = s.gens := by unfold State.clearPend; simp
@[simp] theorem State.clearPend_queues (s : State) : (s.clearPend).queues = s.queues := by unfold State.clearPend; simp
@[simp] theorem State.clearPend_modeIn (s : State) : (s.clearPend).modeIn = s.modeIn := by unfold State.clearPend; simp
@[simp] theorem State.clearPend_idxN (s : State) : (s.clearPend).idxN = s.idxN := by unfold State.clearPend; simp
@[simp] theorem State.clearPend_rul (s : State) : (s.clearPend).rul = s.rul := by unfold State.clearPend; simp
@[simp] theorem State.clearPend_mgn (s : State) : (s.clearPend).mgn = s.mgn := by unfold State.clearPend; simp
@[simp] theorem State.clearPend_lanes (s : State) : (s.clearPend).lanes = s.lanes := by unfold State.clearPend; simp
@[simp] theorem State.clearPend_ink (s : State) : (s.clearPend).ink = s.ink := by unfold State.clearPend; simp
@[simp] theorem State.clearPend_delta (s : State) : (s.clearPend).delta = s.delta := by unfold State.clearPend; simp
@[simp] theorem State.clearPend_fbs (s : State) : (s.clearPend).fbs = s.fbs := by unfold State.clearPend; simp
@[simp] theorem State.clearPend_pbs (s : State) : (s.clearPend).pbs = s.pbs := by unfold State.clearPend; simp
@[simp] theorem State.clearPend_sds (s : State) : (s.clearPend).sds = s.sds := by unfold State.clearPend; simp
@[simp] theorem State.clearPend_app (s : State) : (s.clearPend).app = s.app := by unfold State.clearPend; simp
@[simp] theorem State.clearPend_chans (s : State) : (s.clearPend).chans = s.chans := by unfold State.clearPend; simp
@[simp] theorem State.clearPend_ring (s : State) : (s.clearPend).ring = s.ring := by unfold State.clearPend; simp
@[simp] theorem State.clearPend_twin (s : State) : (s.clearPend).twin = s.twin := by unfold State.clearPend; simp
@[simp] theorem State.clearPend_free (s : State) : (s.clearPend).free = s.free := by unfold State.clearPend; simp
@[simp] theorem State.clearPend_out (s : State) : (s.clearPend).out = s.out := by unfold State.clearPend; simp
@[simp] theorem State.clearPend_pending (s : State) : (s.clearPend).pending = s.pending := by unfold State.clearPend; simp

@[simp] theorem State.putw_mem (s : State) (a v : Nat) : (s.putw a v).mem = s.mem := by unfold State.putw; split <;> simp
@[simp] theorem State.putw_log (s : State) (a v : Nat) : (s.putw a v).log = s.log := by unfold State.putw; split <;> simp
@[simp] theorem State.putw_tb (s : State) (a v : Nat) : (s.putw a v).tb = s.tb := by unfold State.putw; split <;> simp
@[simp] theorem State.putw_dev (s : State) (a v : Nat) : (s.putw a v).dev = s.dev := by unfold State.putw; split <;> simp
@[simp] theorem State.putw_cmt (s : State) (a v : Nat) : (s.putw a v).cmt = s.cmt := by unfold State.putw; split <;> simp
@[simp] theorem State.putw_wins (s : State) (a v : Nat) : (s.putw a v).wins = s.wins := by unfold State.putw; split <;> simp
@[simp] theorem State.putw_dct (s : State) (a v : Nat) : (s.putw a v).dct = s.dct := by unfold State.putw; split <;> simp
@[simp] theorem State.putw_serifs (s : State) (a v : Nat) : (s.putw a v).serifs = s.serifs := by unfold State.putw; split <;> simp
@[simp] theorem State.putw_dispIn (s : State) (a v : Nat) : (s.putw a v).dispIn = s.dispIn := by unfold State.putw; split <;> simp
@[simp] theorem State.putw_blt (s : State) (a v : Nat) : (s.putw a v).blt = s.blt := by unfold State.putw; split <;> simp
@[simp] theorem State.putw_spr (s : State) (a v : Nat) : (s.putw a v).spr = s.spr := by unfold State.putw; split <;> simp
@[simp] theorem State.putw_pwr (s : State) (a v : Nat) : (s.putw a v).pwr = s.pwr := by unfold State.putw; split <;> simp
@[simp] theorem State.putw_bus (s : State) (a v : Nat) : (s.putw a v).bus = s.bus := by unfold State.putw; split <;> simp
@[simp] theorem State.putw_gens (s : State) (a v : Nat) : (s.putw a v).gens = s.gens := by unfold State.putw; split <;> simp
@[simp] theorem State.putw_queues (s : State) (a v : Nat) : (s.putw a v).queues = s.queues := by unfold State.putw; split <;> simp
@[simp] theorem State.putw_modeIn (s : State) (a v : Nat) : (s.putw a v).modeIn = s.modeIn := by unfold State.putw; split <;> simp
@[simp] theorem State.putw_idxN (s : State) (a v : Nat) : (s.putw a v).idxN = s.idxN := by unfold State.putw; split <;> simp
@[simp] theorem State.putw_rul (s : State) (a v : Nat) : (s.putw a v).rul = s.rul := by unfold State.putw; split <;> simp
@[simp] theorem State.putw_mgn (s : State) (a v : Nat) : (s.putw a v).mgn = s.mgn := by unfold State.putw; split <;> simp
@[simp] theorem State.putw_lanes (s : State) (a v : Nat) : (s.putw a v).lanes = s.lanes := by unfold State.putw; split <;> simp
@[simp] theorem State.putw_ink (s : State) (a v : Nat) : (s.putw a v).ink = s.ink := by unfold State.putw; split <;> simp
@[simp] theorem State.putw_delta (s : State) (a v : Nat) : (s.putw a v).delta = s.delta := by unfold State.putw; split <;> simp
@[simp] theorem State.putw_fbs (s : State) (a v : Nat) : (s.putw a v).fbs = s.fbs := by unfold State.putw; split <;> simp
@[simp] theorem State.putw_pbs (s : State) (a v : Nat) : (s.putw a v).pbs = s.pbs := by unfold State.putw; split <;> simp
@[simp] theorem State.putw_sds (s : State) (a v : Nat) : (s.putw a v).sds = s.sds := by unfold State.putw; split <;> simp
@[simp] theorem State.putw_app (s : State) (a v : Nat) : (s.putw a v).app = s.app := by unfold State.putw; split <;> simp
@[simp] theorem State.putw_chans (s : State) (a v : Nat) : (s.putw a v).chans = s.chans := by unfold State.putw; split <;> simp
@[simp] theorem State.putw_ring (s : State) (a v : Nat) : (s.putw a v).ring = s.ring := by unfold State.putw; split <;> simp
@[simp] theorem State.putw_twin (s : State) (a v : Nat) : (s.putw a v).twin = s.twin := by unfold State.putw; split <;> simp
@[simp] theorem State.putw_free (s : State) (a v : Nat) : (s.putw a v).free = s.free := by unfold State.putw; split <;> simp
@[simp] theorem State.putw_out (s : State) (a v : Nat) : (s.putw a v).out = s.out := by unfold State.putw; split <;> simp
@[simp] theorem State.putw_pending (s : State) (a v : Nat) : (s.putw a v).pending = s.pending := by unfold State.putw; split <;> simp

@[simp] theorem State.putAct_mem (s : State) (a v : Nat) : (s.putAct a v).mem = s.mem := by unfold State.putAct; split <;> simp
@[simp] theorem State.putAct_log (s : State) (a v : Nat) : (s.putAct a v).log = s.log := by unfold State.putAct; split <;> simp
@[simp] theorem State.putAct_tb (s : State) (a v : Nat) : (s.putAct a v).tb = s.tb := by unfold State.putAct; split <;> simp
@[simp] theorem State.putAct_dev (s : State) (a v : Nat) : (s.putAct a v).dev = s.dev := by unfold State.putAct; split <;> simp
@[simp] theorem State.putAct_cmt (s : State) (a v : Nat) : (s.putAct a v).cmt = s.cmt := by unfold State.putAct; split <;> simp
@[simp] theorem State.putAct_wins (s : State) (a v : Nat) : (s.putAct a v).wins = s.wins := by unfold State.putAct; split <;> simp
@[simp] theorem State.putAct_dct (s : State) (a v : Nat) : (s.putAct a v).dct = s.dct := by unfold State.putAct; split <;> simp
@[simp] theorem State.putAct_serifs (s : State) (a v : Nat) : (s.putAct a v).serifs = s.serifs := by unfold State.putAct; split <;> simp
@[simp] theorem State.putAct_dispIn (s : State) (a v : Nat) : (s.putAct a v).dispIn = s.dispIn := by unfold State.putAct; split <;> simp
@[simp] theorem State.putAct_blt (s : State) (a v : Nat) : (s.putAct a v).blt = s.blt := by unfold State.putAct; split <;> simp
@[simp] theorem State.putAct_spr (s : State) (a v : Nat) : (s.putAct a v).spr = s.spr := by unfold State.putAct; split <;> simp
@[simp] theorem State.putAct_pwr (s : State) (a v : Nat) : (s.putAct a v).pwr = s.pwr := by unfold State.putAct; split <;> simp
@[simp] theorem State.putAct_bus (s : State) (a v : Nat) : (s.putAct a v).bus = s.bus := by unfold State.putAct; split <;> simp
@[simp] theorem State.putAct_gens (s : State) (a v : Nat) : (s.putAct a v).gens = s.gens := by unfold State.putAct; split <;> simp
@[simp] theorem State.putAct_queues (s : State) (a v : Nat) : (s.putAct a v).queues = s.queues := by unfold State.putAct; split <;> simp
@[simp] theorem State.putAct_modeIn (s : State) (a v : Nat) : (s.putAct a v).modeIn = s.modeIn := by unfold State.putAct; split <;> simp
@[simp] theorem State.putAct_idxN (s : State) (a v : Nat) : (s.putAct a v).idxN = s.idxN := by unfold State.putAct; split <;> simp
@[simp] theorem State.putAct_rul (s : State) (a v : Nat) : (s.putAct a v).rul = s.rul := by unfold State.putAct; split <;> simp
@[simp] theorem State.putAct_mgn (s : State) (a v : Nat) : (s.putAct a v).mgn = s.mgn := by unfold State.putAct; split <;> simp
@[simp] theorem State.putAct_lanes (s : State) (a v : Nat) : (s.putAct a v).lanes = s.lanes := by unfold State.putAct; split <;> simp
@[simp] theorem State.putAct_ink (s : State) (a v : Nat) : (s.putAct a v).ink = s.ink := by unfold State.putAct; split <;> simp
@[simp] theorem State.putAct_delta (s : State) (a v : Nat) : (s.putAct a v).delta = s.delta := by unfold State.putAct; split <;> simp
@[simp] theorem State.putAct_fbs (s : State) (a v : Nat) : (s.putAct a v).fbs = s.fbs := by unfold State.putAct; split <;> simp
@[simp] theorem State.putAct_pbs (s : State) (a v : Nat) : (s.putAct a v).pbs = s.pbs := by unfold State.putAct; split <;> simp
@[simp] theorem State.putAct_sds (s : State) (a v : Nat) : (s.putAct a v).sds = s.sds := by unfold State.putAct; split <;> simp
@[simp] theorem State.putAct_app (s : State) (a v : Nat) : (s.putAct a v).app = s.app := by unfold State.putAct; split <;> simp
@[simp] theorem State.putAct_chans (s : State) (a v : Nat) : (s.putAct a v).chans = s.chans := by unfold State.putAct; split <;> simp
@[simp] theorem State.putAct_ring (s : State) (a v : Nat) : (s.putAct a v).ring = s.ring := by unfold State.putAct; split <;> simp
@[simp] theorem State.putAct_twin (s : State) (a v : Nat) : (s.putAct a v).twin = s.twin := by unfold State.putAct; split <;> simp
@[simp] theorem State.putAct_free (s : State) (a v : Nat) : (s.putAct a v).free = s.free := by unfold State.putAct; split <;> simp
@[simp] theorem State.putAct_out (s : State) (a v : Nat) : (s.putAct a v).out = s.out := by unfold State.putAct; split <;> simp
@[simp] theorem State.putAct_pending (s : State) (a v : Nat) : (s.putAct a v).pending = s.pending := by unfold State.putAct; split <;> simp

@[simp] theorem State.wrBoth_mem (s : State) (f : Fld) (v : Nat) : (s.wrBoth f v).mem = s.mem := by unfold State.wrBoth; dsimp only; split <;> simp
@[simp] theorem State.wrBoth_log (s : State) (f : Fld) (v : Nat) : (s.wrBoth f v).log = s.log := by unfold State.wrBoth; dsimp only; split <;> simp
@[simp] theorem State.wrBoth_tb (s : State) (f : Fld) (v : Nat) : (s.wrBoth f v).tb = s.tb := by unfold State.wrBoth; dsimp only; split <;> simp
@[simp] theorem State.wrBoth_dev (s : State) (f : Fld) (v : Nat) : (s.wrBoth f v).dev = s.dev := by unfold State.wrBoth; dsimp only; split <;> simp
@[simp] theorem State.wrBoth_cmt (s : State) (f : Fld) (v : Nat) : (s.wrBoth f v).cmt = s.cmt := by unfold State.wrBoth; dsimp only; split <;> simp
@[simp] theorem State.wrBoth_wins (s : State) (f : Fld) (v : Nat) : (s.wrBoth f v).wins = s.wins := by unfold State.wrBoth; dsimp only; split <;> simp
@[simp] theorem State.wrBoth_dct (s : State) (f : Fld) (v : Nat) : (s.wrBoth f v).dct = s.dct := by unfold State.wrBoth; dsimp only; split <;> simp
@[simp] theorem State.wrBoth_serifs (s : State) (f : Fld) (v : Nat) : (s.wrBoth f v).serifs = s.serifs := by unfold State.wrBoth; dsimp only; split <;> simp
@[simp] theorem State.wrBoth_dispIn (s : State) (f : Fld) (v : Nat) : (s.wrBoth f v).dispIn = s.dispIn := by unfold State.wrBoth; dsimp only; split <;> simp
@[simp] theorem State.wrBoth_blt (s : State) (f : Fld) (v : Nat) : (s.wrBoth f v).blt = s.blt := by unfold State.wrBoth; dsimp only; split <;> simp
@[simp] theorem State.wrBoth_spr (s : State) (f : Fld) (v : Nat) : (s.wrBoth f v).spr = s.spr := by unfold State.wrBoth; dsimp only; split <;> simp
@[simp] theorem State.wrBoth_pwr (s : State) (f : Fld) (v : Nat) : (s.wrBoth f v).pwr = s.pwr := by unfold State.wrBoth; dsimp only; split <;> simp
@[simp] theorem State.wrBoth_bus (s : State) (f : Fld) (v : Nat) : (s.wrBoth f v).bus = s.bus := by unfold State.wrBoth; dsimp only; split <;> simp
@[simp] theorem State.wrBoth_gens (s : State) (f : Fld) (v : Nat) : (s.wrBoth f v).gens = s.gens := by unfold State.wrBoth; dsimp only; split <;> simp
@[simp] theorem State.wrBoth_queues (s : State) (f : Fld) (v : Nat) : (s.wrBoth f v).queues = s.queues := by unfold State.wrBoth; dsimp only; split <;> simp
@[simp] theorem State.wrBoth_modeIn (s : State) (f : Fld) (v : Nat) : (s.wrBoth f v).modeIn = s.modeIn := by unfold State.wrBoth; dsimp only; split <;> simp
@[simp] theorem State.wrBoth_idxN (s : State) (f : Fld) (v : Nat) : (s.wrBoth f v).idxN = s.idxN := by unfold State.wrBoth; dsimp only; split <;> simp
@[simp] theorem State.wrBoth_rul (s : State) (f : Fld) (v : Nat) : (s.wrBoth f v).rul = s.rul := by unfold State.wrBoth; dsimp only; split <;> simp
@[simp] theorem State.wrBoth_mgn (s : State) (f : Fld) (v : Nat) : (s.wrBoth f v).mgn = s.mgn := by unfold State.wrBoth; dsimp only; split <;> simp
@[simp] theorem State.wrBoth_lanes (s : State) (f : Fld) (v : Nat) : (s.wrBoth f v).lanes = s.lanes := by unfold State.wrBoth; dsimp only; split <;> simp
@[simp] theorem State.wrBoth_ink (s : State) (f : Fld) (v : Nat) : (s.wrBoth f v).ink = s.ink := by unfold State.wrBoth; dsimp only; split <;> simp
@[simp] theorem State.wrBoth_delta (s : State) (f : Fld) (v : Nat) : (s.wrBoth f v).delta = s.delta := by unfold State.wrBoth; dsimp only; split <;> simp
@[simp] theorem State.wrBoth_fbs (s : State) (f : Fld) (v : Nat) : (s.wrBoth f v).fbs = s.fbs := by unfold State.wrBoth; dsimp only; split <;> simp
@[simp] theorem State.wrBoth_pbs (s : State) (f : Fld) (v : Nat) : (s.wrBoth f v).pbs = s.pbs := by unfold State.wrBoth; dsimp only; split <;> simp
@[simp] theorem State.wrBoth_sds (s : State) (f : Fld) (v : Nat) : (s.wrBoth f v).sds = s.sds := by unfold State.wrBoth; dsimp only; split <;> simp
@[simp] theorem State.wrBoth_app (s : State) (f : Fld) (v : Nat) : (s.wrBoth f v).app = s.app := by unfold State.wrBoth; dsimp only; split <;> simp
@[simp] theorem State.wrBoth_chans (s : State) (f : Fld) (v : Nat) : (s.wrBoth f v).chans = s.chans := by unfold State.wrBoth; dsimp only; split <;> simp
@[simp] theorem State.wrBoth_ring (s : State) (f : Fld) (v : Nat) : (s.wrBoth f v).ring = s.ring := by unfold State.wrBoth; dsimp only; split <;> simp
@[simp] theorem State.wrBoth_twin (s : State) (f : Fld) (v : Nat) : (s.wrBoth f v).twin = s.twin := by unfold State.wrBoth; dsimp only; split <;> simp
@[simp] theorem State.wrBoth_free (s : State) (f : Fld) (v : Nat) : (s.wrBoth f v).free = s.free := by unfold State.wrBoth; dsimp only; split <;> simp
@[simp] theorem State.wrBoth_out (s : State) (f : Fld) (v : Nat) : (s.wrBoth f v).out = s.out := by unfold State.wrBoth; dsimp only; split <;> simp
@[simp] theorem State.wrBoth_pending (s : State) (f : Fld) (v : Nat) : (s.wrBoth f v).pending = s.pending := by unfold State.wrBoth; dsimp only; split <;> simp

@[simp] theorem State.rwh_mem (s : State) (f : Fld) (v : Nat) : (s.rwh f v).mem = s.mem := by unfold State.rwh; split <;> simp
@[simp] theorem State.rwh_log (s : State) (f : Fld) (v : Nat) : (s.rwh f v).log = s.log := by unfold State.rwh; split <;> simp
@[simp] theorem State.rwh_tb (s : State) (f : Fld) (v : Nat) : (s.rwh f v).tb = s.tb := by unfold State.rwh; split <;> simp
@[simp] theorem State.rwh_dev (s : State) (f : Fld) (v : Nat) : (s.rwh f v).dev = s.dev := by unfold State.rwh; split <;> simp
@[simp] theorem State.rwh_cmt (s : State) (f : Fld) (v : Nat) : (s.rwh f v).cmt = s.cmt := by unfold State.rwh; split <;> simp
@[simp] theorem State.rwh_wins (s : State) (f : Fld) (v : Nat) : (s.rwh f v).wins = s.wins := by unfold State.rwh; split <;> simp
@[simp] theorem State.rwh_dct (s : State) (f : Fld) (v : Nat) : (s.rwh f v).dct = s.dct := by unfold State.rwh; split <;> simp
@[simp] theorem State.rwh_serifs (s : State) (f : Fld) (v : Nat) : (s.rwh f v).serifs = s.serifs := by unfold State.rwh; split <;> simp
@[simp] theorem State.rwh_dispIn (s : State) (f : Fld) (v : Nat) : (s.rwh f v).dispIn = s.dispIn := by unfold State.rwh; split <;> simp
@[simp] theorem State.rwh_blt (s : State) (f : Fld) (v : Nat) : (s.rwh f v).blt = s.blt := by unfold State.rwh; split <;> simp
@[simp] theorem State.rwh_spr (s : State) (f : Fld) (v : Nat) : (s.rwh f v).spr = s.spr := by unfold State.rwh; split <;> simp
@[simp] theorem State.rwh_pwr (s : State) (f : Fld) (v : Nat) : (s.rwh f v).pwr = s.pwr := by unfold State.rwh; split <;> simp
@[simp] theorem State.rwh_bus (s : State) (f : Fld) (v : Nat) : (s.rwh f v).bus = s.bus := by unfold State.rwh; split <;> simp
@[simp] theorem State.rwh_gens (s : State) (f : Fld) (v : Nat) : (s.rwh f v).gens = s.gens := by unfold State.rwh; split <;> simp
@[simp] theorem State.rwh_queues (s : State) (f : Fld) (v : Nat) : (s.rwh f v).queues = s.queues := by unfold State.rwh; split <;> simp
@[simp] theorem State.rwh_modeIn (s : State) (f : Fld) (v : Nat) : (s.rwh f v).modeIn = s.modeIn := by unfold State.rwh; split <;> simp
@[simp] theorem State.rwh_idxN (s : State) (f : Fld) (v : Nat) : (s.rwh f v).idxN = s.idxN := by unfold State.rwh; split <;> simp
@[simp] theorem State.rwh_rul (s : State) (f : Fld) (v : Nat) : (s.rwh f v).rul = s.rul := by unfold State.rwh; split <;> simp
@[simp] theorem State.rwh_mgn (s : State) (f : Fld) (v : Nat) : (s.rwh f v).mgn = s.mgn := by unfold State.rwh; split <;> simp
@[simp] theorem State.rwh_lanes (s : State) (f : Fld) (v : Nat) : (s.rwh f v).lanes = s.lanes := by unfold State.rwh; split <;> simp
@[simp] theorem State.rwh_ink (s : State) (f : Fld) (v : Nat) : (s.rwh f v).ink = s.ink := by unfold State.rwh; split <;> simp
@[simp] theorem State.rwh_delta (s : State) (f : Fld) (v : Nat) : (s.rwh f v).delta = s.delta := by unfold State.rwh; split <;> simp
@[simp] theorem State.rwh_fbs (s : State) (f : Fld) (v : Nat) : (s.rwh f v).fbs = s.fbs := by unfold State.rwh; split <;> simp
@[simp] theorem State.rwh_pbs (s : State) (f : Fld) (v : Nat) : (s.rwh f v).pbs = s.pbs := by unfold State.rwh; split <;> simp
@[simp] theorem State.rwh_sds (s : State) (f : Fld) (v : Nat) : (s.rwh f v).sds = s.sds := by unfold State.rwh; split <;> simp
@[simp] theorem State.rwh_app (s : State) (f : Fld) (v : Nat) : (s.rwh f v).app = s.app := by unfold State.rwh; split <;> simp
@[simp] theorem State.rwh_chans (s : State) (f : Fld) (v : Nat) : (s.rwh f v).chans = s.chans := by unfold State.rwh; split <;> simp
@[simp] theorem State.rwh_ring (s : State) (f : Fld) (v : Nat) : (s.rwh f v).ring = s.ring := by unfold State.rwh; split <;> simp
@[simp] theorem State.rwh_twin (s : State) (f : Fld) (v : Nat) : (s.rwh f v).twin = s.twin := by unfold State.rwh; split <;> simp
@[simp] theorem State.rwh_free (s : State) (f : Fld) (v : Nat) : (s.rwh f v).free = s.free := by unfold State.rwh; split <;> simp
@[simp] theorem State.rwh_out (s : State) (f : Fld) (v : Nat) : (s.rwh f v).out = s.out := by unfold State.rwh; split <;> simp
@[simp] theorem State.rwh_pending (s : State) (f : Fld) (v : Nat) : (s.rwh f v).pending = s.pending := by unfold State.rwh; split <;> simp

@[simp] theorem State.emit_regs (s : State) (o : Output) : (s.emit o).regs = s.regs := by
  unfold State.emit; repeat' split
  all_goals rfl
@[simp] theorem State.emit_mem (s : State) (o : Output) : (s.emit o).mem = s.mem := by
  unfold State.emit; repeat' split
  all_goals rfl
@[simp] theorem State.emit_log (s : State) (o : Output) : (s.emit o).log = s.log := by
  unfold State.emit; repeat' split
  all_goals rfl
@[simp] theorem State.emit_tb (s : State) (o : Output) : (s.emit o).tb = s.tb := by
  unfold State.emit; repeat' split
  all_goals rfl
@[simp] theorem State.emit_dev (s : State) (o : Output) : (s.emit o).dev = s.dev := by
  unfold State.emit; repeat' split
  all_goals rfl
@[simp] theorem State.emit_cmt (s : State) (o : Output) : (s.emit o).cmt = s.cmt := by
  unfold State.emit; repeat' split
  all_goals rfl
@[simp] theorem State.emit_wins (s : State) (o : Output) : (s.emit o).wins = s.wins := by
  unfold State.emit; repeat' split
  all_goals rfl
@[simp] theorem State.emit_dct (s : State) (o : Output) : (s.emit o).dct = s.dct := by
  unfold State.emit; repeat' split
  all_goals rfl
@[simp] theorem State.emit_serifs (s : State) (o : Output) : (s.emit o).serifs = s.serifs := by
  unfold State.emit; repeat' split
  all_goals rfl
@[simp] theorem State.emit_dispIn (s : State) (o : Output) : (s.emit o).dispIn = s.dispIn := by
  unfold State.emit; repeat' split
  all_goals rfl
@[simp] theorem State.emit_blt (s : State) (o : Output) : (s.emit o).blt = s.blt := by
  unfold State.emit; repeat' split
  all_goals rfl
@[simp] theorem State.emit_spr (s : State) (o : Output) : (s.emit o).spr = s.spr := by
  unfold State.emit; repeat' split
  all_goals rfl
@[simp] theorem State.emit_pwr (s : State) (o : Output) : (s.emit o).pwr = s.pwr := by
  unfold State.emit; repeat' split
  all_goals rfl
@[simp] theorem State.emit_bus (s : State) (o : Output) : (s.emit o).bus = s.bus := by
  unfold State.emit; repeat' split
  all_goals rfl
@[simp] theorem State.emit_gens (s : State) (o : Output) : (s.emit o).gens = s.gens := by
  unfold State.emit; repeat' split
  all_goals rfl
@[simp] theorem State.emit_queues (s : State) (o : Output) : (s.emit o).queues = s.queues := by
  unfold State.emit; repeat' split
  all_goals rfl
@[simp] theorem State.emit_modeIn (s : State) (o : Output) : (s.emit o).modeIn = s.modeIn := by
  unfold State.emit; repeat' split
  all_goals rfl
@[simp] theorem State.emit_idxN (s : State) (o : Output) : (s.emit o).idxN = s.idxN := by
  unfold State.emit; repeat' split
  all_goals rfl
@[simp] theorem State.emit_rul (s : State) (o : Output) : (s.emit o).rul = s.rul := by
  unfold State.emit; repeat' split
  all_goals rfl
@[simp] theorem State.emit_mgn (s : State) (o : Output) : (s.emit o).mgn = s.mgn := by
  unfold State.emit; repeat' split
  all_goals rfl
@[simp] theorem State.emit_lanes (s : State) (o : Output) : (s.emit o).lanes = s.lanes := by
  unfold State.emit; repeat' split
  all_goals rfl
@[simp] theorem State.emit_ink (s : State) (o : Output) : (s.emit o).ink = s.ink := by
  unfold State.emit; repeat' split
  all_goals rfl
@[simp] theorem State.emit_delta (s : State) (o : Output) : (s.emit o).delta = s.delta := by
  unfold State.emit; repeat' split
  all_goals rfl
@[simp] theorem State.emit_fbs (s : State) (o : Output) : (s.emit o).fbs = s.fbs := by
  unfold State.emit; repeat' split
  all_goals rfl
@[simp] theorem State.emit_pbs (s : State) (o : Output) : (s.emit o).pbs = s.pbs := by
  unfold State.emit; repeat' split
  all_goals rfl
@[simp] theorem State.emit_sds (s : State) (o : Output) : (s.emit o).sds = s.sds := by
  unfold State.emit; repeat' split
  all_goals rfl
@[simp] theorem State.emit_app (s : State) (o : Output) : (s.emit o).app = s.app := by
  unfold State.emit; repeat' split
  all_goals rfl
@[simp] theorem State.emit_chans (s : State) (o : Output) : (s.emit o).chans = s.chans := by
  unfold State.emit; repeat' split
  all_goals rfl
@[simp] theorem State.emit_ring (s : State) (o : Output) : (s.emit o).ring = s.ring := by
  unfold State.emit; repeat' split
  all_goals rfl
@[simp] theorem State.emit_twin (s : State) (o : Output) : (s.emit o).twin = s.twin := by
  unfold State.emit; repeat' split
  all_goals rfl
@[simp] theorem State.emit_free (s : State) (o : Output) : (s.emit o).free = s.free := by
  unfold State.emit; repeat' split
  all_goals rfl
@[simp] theorem State.emit_pending (s : State) (o : Output) : (s.emit o).pending = s.pending := by
  unfold State.emit; repeat' split
  all_goals rfl

@[simp] theorem State.disarm_mem (s : State) (src : Src) : (s.disarm src).mem = s.mem := by unfold State.disarm; split <;> simp
@[simp] theorem State.disarm_log (s : State) (src : Src) : (s.disarm src).log = s.log := by unfold State.disarm; split <;> simp
@[simp] theorem State.disarm_tb (s : State) (src : Src) : (s.disarm src).tb = s.tb := by unfold State.disarm; split <;> simp
@[simp] theorem State.disarm_dev (s : State) (src : Src) : (s.disarm src).dev = s.dev := by unfold State.disarm; split <;> simp
@[simp] theorem State.disarm_cmt (s : State) (src : Src) : (s.disarm src).cmt = s.cmt := by unfold State.disarm; split <;> simp
@[simp] theorem State.disarm_wins (s : State) (src : Src) : (s.disarm src).wins = s.wins := by unfold State.disarm; split <;> simp
@[simp] theorem State.disarm_dct (s : State) (src : Src) : (s.disarm src).dct = s.dct := by unfold State.disarm; split <;> simp
@[simp] theorem State.disarm_serifs (s : State) (src : Src) : (s.disarm src).serifs = s.serifs := by unfold State.disarm; split <;> simp
@[simp] theorem State.disarm_dispIn (s : State) (src : Src) : (s.disarm src).dispIn = s.dispIn := by unfold State.disarm; split <;> simp
@[simp] theorem State.disarm_blt (s : State) (src : Src) : (s.disarm src).blt = s.blt := by unfold State.disarm; split <;> simp
@[simp] theorem State.disarm_spr (s : State) (src : Src) : (s.disarm src).spr = s.spr := by unfold State.disarm; split <;> simp
@[simp] theorem State.disarm_pwr (s : State) (src : Src) : (s.disarm src).pwr = s.pwr := by unfold State.disarm; split <;> simp
@[simp] theorem State.disarm_bus (s : State) (src : Src) : (s.disarm src).bus = s.bus := by unfold State.disarm; split <;> simp
@[simp] theorem State.disarm_gens (s : State) (src : Src) : (s.disarm src).gens = s.gens := by unfold State.disarm; split <;> simp
@[simp] theorem State.disarm_queues (s : State) (src : Src) : (s.disarm src).queues = s.queues := by unfold State.disarm; split <;> simp
@[simp] theorem State.disarm_modeIn (s : State) (src : Src) : (s.disarm src).modeIn = s.modeIn := by unfold State.disarm; split <;> simp
@[simp] theorem State.disarm_idxN (s : State) (src : Src) : (s.disarm src).idxN = s.idxN := by unfold State.disarm; split <;> simp
@[simp] theorem State.disarm_rul (s : State) (src : Src) : (s.disarm src).rul = s.rul := by unfold State.disarm; split <;> simp
@[simp] theorem State.disarm_mgn (s : State) (src : Src) : (s.disarm src).mgn = s.mgn := by unfold State.disarm; split <;> simp
@[simp] theorem State.disarm_lanes (s : State) (src : Src) : (s.disarm src).lanes = s.lanes := by unfold State.disarm; split <;> simp
@[simp] theorem State.disarm_ink (s : State) (src : Src) : (s.disarm src).ink = s.ink := by unfold State.disarm; split <;> simp
@[simp] theorem State.disarm_delta (s : State) (src : Src) : (s.disarm src).delta = s.delta := by unfold State.disarm; split <;> simp
@[simp] theorem State.disarm_fbs (s : State) (src : Src) : (s.disarm src).fbs = s.fbs := by unfold State.disarm; split <;> simp
@[simp] theorem State.disarm_pbs (s : State) (src : Src) : (s.disarm src).pbs = s.pbs := by unfold State.disarm; split <;> simp
@[simp] theorem State.disarm_sds (s : State) (src : Src) : (s.disarm src).sds = s.sds := by unfold State.disarm; split <;> simp
@[simp] theorem State.disarm_app (s : State) (src : Src) : (s.disarm src).app = s.app := by unfold State.disarm; split <;> simp
@[simp] theorem State.disarm_chans (s : State) (src : Src) : (s.disarm src).chans = s.chans := by unfold State.disarm; split <;> simp
@[simp] theorem State.disarm_ring (s : State) (src : Src) : (s.disarm src).ring = s.ring := by unfold State.disarm; split <;> simp
@[simp] theorem State.disarm_twin (s : State) (src : Src) : (s.disarm src).twin = s.twin := by unfold State.disarm; split <;> simp
@[simp] theorem State.disarm_free (s : State) (src : Src) : (s.disarm src).free = s.free := by unfold State.disarm; split <;> simp
@[simp] theorem State.disarm_out (s : State) (src : Src) : (s.disarm src).out = s.out := by unfold State.disarm; split <;> simp
@[simp] theorem State.disarm_pending (s : State) (src : Src) : (s.disarm src).pending = s.pending := by unfold State.disarm; split <;> simp

@[simp] theorem State.message_mem (s : State) (v : Nat) : (s.message v).mem = s.mem := by unfold State.message; split <;> simp
@[simp] theorem State.message_log (s : State) (v : Nat) : (s.message v).log = s.log := by unfold State.message; split <;> simp
@[simp] theorem State.message_tb (s : State) (v : Nat) : (s.message v).tb = s.tb := by unfold State.message; split <;> simp
@[simp] theorem State.message_dev (s : State) (v : Nat) : (s.message v).dev = s.dev := by unfold State.message; split <;> simp
@[simp] theorem State.message_cmt (s : State) (v : Nat) : (s.message v).cmt = s.cmt := by unfold State.message; split <;> simp
@[simp] theorem State.message_wins (s : State) (v : Nat) : (s.message v).wins = s.wins := by unfold State.message; split <;> simp
@[simp] theorem State.message_dct (s : State) (v : Nat) : (s.message v).dct = s.dct := by unfold State.message; split <;> simp
@[simp] theorem State.message_serifs (s : State) (v : Nat) : (s.message v).serifs = s.serifs := by unfold State.message; split <;> simp
@[simp] theorem State.message_dispIn (s : State) (v : Nat) : (s.message v).dispIn = s.dispIn := by unfold State.message; split <;> simp
@[simp] theorem State.message_blt (s : State) (v : Nat) : (s.message v).blt = s.blt := by unfold State.message; split <;> simp
@[simp] theorem State.message_spr (s : State) (v : Nat) : (s.message v).spr = s.spr := by unfold State.message; split <;> simp
@[simp] theorem State.message_pwr (s : State) (v : Nat) : (s.message v).pwr = s.pwr := by unfold State.message; split <;> simp
@[simp] theorem State.message_bus (s : State) (v : Nat) : (s.message v).bus = s.bus := by unfold State.message; split <;> simp
@[simp] theorem State.message_gens (s : State) (v : Nat) : (s.message v).gens = s.gens := by unfold State.message; split <;> simp
@[simp] theorem State.message_queues (s : State) (v : Nat) : (s.message v).queues = s.queues := by unfold State.message; split <;> simp
@[simp] theorem State.message_modeIn (s : State) (v : Nat) : (s.message v).modeIn = s.modeIn := by unfold State.message; split <;> simp
@[simp] theorem State.message_idxN (s : State) (v : Nat) : (s.message v).idxN = s.idxN := by unfold State.message; split <;> simp
@[simp] theorem State.message_rul (s : State) (v : Nat) : (s.message v).rul = s.rul := by unfold State.message; split <;> simp
@[simp] theorem State.message_mgn (s : State) (v : Nat) : (s.message v).mgn = s.mgn := by unfold State.message; split <;> simp
@[simp] theorem State.message_lanes (s : State) (v : Nat) : (s.message v).lanes = s.lanes := by unfold State.message; split <;> simp
@[simp] theorem State.message_ink (s : State) (v : Nat) : (s.message v).ink = s.ink := by unfold State.message; split <;> simp
@[simp] theorem State.message_delta (s : State) (v : Nat) : (s.message v).delta = s.delta := by unfold State.message; split <;> simp
@[simp] theorem State.message_fbs (s : State) (v : Nat) : (s.message v).fbs = s.fbs := by unfold State.message; split <;> simp
@[simp] theorem State.message_pbs (s : State) (v : Nat) : (s.message v).pbs = s.pbs := by unfold State.message; split <;> simp
@[simp] theorem State.message_sds (s : State) (v : Nat) : (s.message v).sds = s.sds := by unfold State.message; split <;> simp
@[simp] theorem State.message_app (s : State) (v : Nat) : (s.message v).app = s.app := by unfold State.message; split <;> simp
@[simp] theorem State.message_chans (s : State) (v : Nat) : (s.message v).chans = s.chans := by unfold State.message; split <;> simp
@[simp] theorem State.message_ring (s : State) (v : Nat) : (s.message v).ring = s.ring := by unfold State.message; split <;> simp
@[simp] theorem State.message_twin (s : State) (v : Nat) : (s.message v).twin = s.twin := by unfold State.message; split <;> simp
@[simp] theorem State.message_free (s : State) (v : Nat) : (s.message v).free = s.free := by unfold State.message; split <;> simp
@[simp] theorem State.message_pending (s : State) (v : Nat) : (s.message v).pending = s.pending := by unfold State.message; split <;> simp

@[simp] theorem State.toMerge_regs (s : State) (age tsu idx : Nat) (b : MergeBody) : (s.toMerge age tsu idx b).regs = s.regs := by unfold State.toMerge; rfl
@[simp] theorem State.toMerge_mem (s : State) (age tsu idx : Nat) (b : MergeBody) : (s.toMerge age tsu idx b).mem = s.mem := by unfold State.toMerge; rfl
@[simp] theorem State.toMerge_log (s : State) (age tsu idx : Nat) (b : MergeBody) : (s.toMerge age tsu idx b).log = s.log := by unfold State.toMerge; rfl
@[simp] theorem State.toMerge_tb (s : State) (age tsu idx : Nat) (b : MergeBody) : (s.toMerge age tsu idx b).tb = s.tb := by unfold State.toMerge; rfl
@[simp] theorem State.toMerge_dev (s : State) (age tsu idx : Nat) (b : MergeBody) : (s.toMerge age tsu idx b).dev = s.dev := by unfold State.toMerge; rfl
@[simp] theorem State.toMerge_cmt (s : State) (age tsu idx : Nat) (b : MergeBody) : (s.toMerge age tsu idx b).cmt = s.cmt := by unfold State.toMerge; rfl
@[simp] theorem State.toMerge_wins (s : State) (age tsu idx : Nat) (b : MergeBody) : (s.toMerge age tsu idx b).wins = s.wins := by unfold State.toMerge; rfl
@[simp] theorem State.toMerge_dct (s : State) (age tsu idx : Nat) (b : MergeBody) : (s.toMerge age tsu idx b).dct = s.dct := by unfold State.toMerge; rfl
@[simp] theorem State.toMerge_serifs (s : State) (age tsu idx : Nat) (b : MergeBody) : (s.toMerge age tsu idx b).serifs = s.serifs := by unfold State.toMerge; rfl
@[simp] theorem State.toMerge_dispIn (s : State) (age tsu idx : Nat) (b : MergeBody) : (s.toMerge age tsu idx b).dispIn = s.dispIn := by unfold State.toMerge; rfl
@[simp] theorem State.toMerge_spr (s : State) (age tsu idx : Nat) (b : MergeBody) : (s.toMerge age tsu idx b).spr = s.spr := by unfold State.toMerge; rfl
@[simp] theorem State.toMerge_pwr (s : State) (age tsu idx : Nat) (b : MergeBody) : (s.toMerge age tsu idx b).pwr = s.pwr := by unfold State.toMerge; rfl
@[simp] theorem State.toMerge_bus (s : State) (age tsu idx : Nat) (b : MergeBody) : (s.toMerge age tsu idx b).bus = s.bus := by unfold State.toMerge; rfl
@[simp] theorem State.toMerge_gens (s : State) (age tsu idx : Nat) (b : MergeBody) : (s.toMerge age tsu idx b).gens = s.gens := by unfold State.toMerge; rfl
@[simp] theorem State.toMerge_queues (s : State) (age tsu idx : Nat) (b : MergeBody) : (s.toMerge age tsu idx b).queues = s.queues := by unfold State.toMerge; rfl
@[simp] theorem State.toMerge_modeIn (s : State) (age tsu idx : Nat) (b : MergeBody) : (s.toMerge age tsu idx b).modeIn = s.modeIn := by unfold State.toMerge; rfl
@[simp] theorem State.toMerge_idxN (s : State) (age tsu idx : Nat) (b : MergeBody) : (s.toMerge age tsu idx b).idxN = s.idxN := by unfold State.toMerge; rfl
@[simp] theorem State.toMerge_rul (s : State) (age tsu idx : Nat) (b : MergeBody) : (s.toMerge age tsu idx b).rul = s.rul := by unfold State.toMerge; rfl
@[simp] theorem State.toMerge_mgn (s : State) (age tsu idx : Nat) (b : MergeBody) : (s.toMerge age tsu idx b).mgn = s.mgn := by unfold State.toMerge; rfl
@[simp] theorem State.toMerge_lanes (s : State) (age tsu idx : Nat) (b : MergeBody) : (s.toMerge age tsu idx b).lanes = s.lanes := by unfold State.toMerge; rfl
@[simp] theorem State.toMerge_ink (s : State) (age tsu idx : Nat) (b : MergeBody) : (s.toMerge age tsu idx b).ink = s.ink := by unfold State.toMerge; rfl
@[simp] theorem State.toMerge_delta (s : State) (age tsu idx : Nat) (b : MergeBody) : (s.toMerge age tsu idx b).delta = s.delta := by unfold State.toMerge; rfl
@[simp] theorem State.toMerge_fbs (s : State) (age tsu idx : Nat) (b : MergeBody) : (s.toMerge age tsu idx b).fbs = s.fbs := by unfold State.toMerge; rfl
@[simp] theorem State.toMerge_pbs (s : State) (age tsu idx : Nat) (b : MergeBody) : (s.toMerge age tsu idx b).pbs = s.pbs := by unfold State.toMerge; rfl
@[simp] theorem State.toMerge_sds (s : State) (age tsu idx : Nat) (b : MergeBody) : (s.toMerge age tsu idx b).sds = s.sds := by unfold State.toMerge; rfl
@[simp] theorem State.toMerge_app (s : State) (age tsu idx : Nat) (b : MergeBody) : (s.toMerge age tsu idx b).app = s.app := by unfold State.toMerge; rfl
@[simp] theorem State.toMerge_chans (s : State) (age tsu idx : Nat) (b : MergeBody) : (s.toMerge age tsu idx b).chans = s.chans := by unfold State.toMerge; rfl
@[simp] theorem State.toMerge_ring (s : State) (age tsu idx : Nat) (b : MergeBody) : (s.toMerge age tsu idx b).ring = s.ring := by unfold State.toMerge; rfl
@[simp] theorem State.toMerge_twin (s : State) (age tsu idx : Nat) (b : MergeBody) : (s.toMerge age tsu idx b).twin = s.twin := by unfold State.toMerge; rfl
@[simp] theorem State.toMerge_free (s : State) (age tsu idx : Nat) (b : MergeBody) : (s.toMerge age tsu idx b).free = s.free := by unfold State.toMerge; rfl
@[simp] theorem State.toMerge_out (s : State) (age tsu idx : Nat) (b : MergeBody) : (s.toMerge age tsu idx b).out = s.out := by unfold State.toMerge; rfl
@[simp] theorem State.toMerge_pending (s : State) (age tsu idx : Nat) (b : MergeBody) : (s.toMerge age tsu idx b).pending = s.pending := by unfold State.toMerge; rfl

@[simp] theorem State.raiseIntAt_regs (s : State) (v age : Nat) : (s.raiseIntAt v age).regs = s.regs := State.toMerge_regs s _ _ _ _
@[simp] theorem State.raiseIntAt_mem (s : State) (v age : Nat) : (s.raiseIntAt v age).mem = s.mem := State.toMerge_mem s _ _ _ _
@[simp] theorem State.raiseIntAt_log (s : State) (v age : Nat) : (s.raiseIntAt v age).log = s.log := State.toMerge_log s _ _ _ _
@[simp] theorem State.raiseIntAt_tb (s : State) (v age : Nat) : (s.raiseIntAt v age).tb = s.tb := State.toMerge_tb s _ _ _ _
@[simp] theorem State.raiseIntAt_dev (s : State) (v age : Nat) : (s.raiseIntAt v age).dev = s.dev := State.toMerge_dev s _ _ _ _
@[simp] theorem State.raiseIntAt_cmt (s : State) (v age : Nat) : (s.raiseIntAt v age).cmt = s.cmt := State.toMerge_cmt s _ _ _ _
@[simp] theorem State.raiseIntAt_wins (s : State) (v age : Nat) : (s.raiseIntAt v age).wins = s.wins := State.toMerge_wins s _ _ _ _
@[simp] theorem State.raiseIntAt_dct (s : State) (v age : Nat) : (s.raiseIntAt v age).dct = s.dct := State.toMerge_dct s _ _ _ _
@[simp] theorem State.raiseIntAt_serifs (s : State) (v age : Nat) : (s.raiseIntAt v age).serifs = s.serifs := State.toMerge_serifs s _ _ _ _
@[simp] theorem State.raiseIntAt_dispIn (s : State) (v age : Nat) : (s.raiseIntAt v age).dispIn = s.dispIn := State.toMerge_dispIn s _ _ _ _
@[simp] theorem State.raiseIntAt_spr (s : State) (v age : Nat) : (s.raiseIntAt v age).spr = s.spr := State.toMerge_spr s _ _ _ _
@[simp] theorem State.raiseIntAt_pwr (s : State) (v age : Nat) : (s.raiseIntAt v age).pwr = s.pwr := State.toMerge_pwr s _ _ _ _
@[simp] theorem State.raiseIntAt_bus (s : State) (v age : Nat) : (s.raiseIntAt v age).bus = s.bus := State.toMerge_bus s _ _ _ _
@[simp] theorem State.raiseIntAt_gens (s : State) (v age : Nat) : (s.raiseIntAt v age).gens = s.gens := State.toMerge_gens s _ _ _ _
@[simp] theorem State.raiseIntAt_queues (s : State) (v age : Nat) : (s.raiseIntAt v age).queues = s.queues := State.toMerge_queues s _ _ _ _
@[simp] theorem State.raiseIntAt_modeIn (s : State) (v age : Nat) : (s.raiseIntAt v age).modeIn = s.modeIn := State.toMerge_modeIn s _ _ _ _
@[simp] theorem State.raiseIntAt_idxN (s : State) (v age : Nat) : (s.raiseIntAt v age).idxN = s.idxN := State.toMerge_idxN s _ _ _ _
@[simp] theorem State.raiseIntAt_rul (s : State) (v age : Nat) : (s.raiseIntAt v age).rul = s.rul := State.toMerge_rul s _ _ _ _
@[simp] theorem State.raiseIntAt_mgn (s : State) (v age : Nat) : (s.raiseIntAt v age).mgn = s.mgn := State.toMerge_mgn s _ _ _ _
@[simp] theorem State.raiseIntAt_lanes (s : State) (v age : Nat) : (s.raiseIntAt v age).lanes = s.lanes := State.toMerge_lanes s _ _ _ _
@[simp] theorem State.raiseIntAt_ink (s : State) (v age : Nat) : (s.raiseIntAt v age).ink = s.ink := State.toMerge_ink s _ _ _ _
@[simp] theorem State.raiseIntAt_delta (s : State) (v age : Nat) : (s.raiseIntAt v age).delta = s.delta := State.toMerge_delta s _ _ _ _
@[simp] theorem State.raiseIntAt_fbs (s : State) (v age : Nat) : (s.raiseIntAt v age).fbs = s.fbs := State.toMerge_fbs s _ _ _ _
@[simp] theorem State.raiseIntAt_pbs (s : State) (v age : Nat) : (s.raiseIntAt v age).pbs = s.pbs := State.toMerge_pbs s _ _ _ _
@[simp] theorem State.raiseIntAt_sds (s : State) (v age : Nat) : (s.raiseIntAt v age).sds = s.sds := State.toMerge_sds s _ _ _ _
@[simp] theorem State.raiseIntAt_app (s : State) (v age : Nat) : (s.raiseIntAt v age).app = s.app := State.toMerge_app s _ _ _ _
@[simp] theorem State.raiseIntAt_chans (s : State) (v age : Nat) : (s.raiseIntAt v age).chans = s.chans := State.toMerge_chans s _ _ _ _
@[simp] theorem State.raiseIntAt_ring (s : State) (v age : Nat) : (s.raiseIntAt v age).ring = s.ring := State.toMerge_ring s _ _ _ _
@[simp] theorem State.raiseIntAt_twin (s : State) (v age : Nat) : (s.raiseIntAt v age).twin = s.twin := State.toMerge_twin s _ _ _ _
@[simp] theorem State.raiseIntAt_free (s : State) (v age : Nat) : (s.raiseIntAt v age).free = s.free := State.toMerge_free s _ _ _ _
@[simp] theorem State.raiseIntAt_out (s : State) (v age : Nat) : (s.raiseIntAt v age).out = s.out := State.toMerge_out s _ _ _ _
@[simp] theorem State.raiseIntAt_pending (s : State) (v age : Nat) : (s.raiseIntAt v age).pending = s.pending := State.toMerge_pending s _ _ _ _

@[simp] theorem State.raiseInt_regs (s : State) (v : Nat) : (s.raiseInt v).regs = s.regs := State.raiseIntAt_regs s _ _
@[simp] theorem State.raiseInt_mem (s : State) (v : Nat) : (s.raiseInt v).mem = s.mem := State.raiseIntAt_mem s _ _
@[simp] theorem State.raiseInt_log (s : State) (v : Nat) : (s.raiseInt v).log = s.log := State.raiseIntAt_log s _ _
@[simp] theorem State.raiseInt_tb (s : State) (v : Nat) : (s.raiseInt v).tb = s.tb := State.raiseIntAt_tb s _ _
@[simp] theorem State.raiseInt_dev (s : State) (v : Nat) : (s.raiseInt v).dev = s.dev := State.raiseIntAt_dev s _ _
@[simp] theorem State.raiseInt_cmt (s : State) (v : Nat) : (s.raiseInt v).cmt = s.cmt := State.raiseIntAt_cmt s _ _
@[simp] theorem State.raiseInt_wins (s : State) (v : Nat) : (s.raiseInt v).wins = s.wins := State.raiseIntAt_wins s _ _
@[simp] theorem State.raiseInt_dct (s : State) (v : Nat) : (s.raiseInt v).dct = s.dct := State.raiseIntAt_dct s _ _
@[simp] theorem State.raiseInt_serifs (s : State) (v : Nat) : (s.raiseInt v).serifs = s.serifs := State.raiseIntAt_serifs s _ _
@[simp] theorem State.raiseInt_dispIn (s : State) (v : Nat) : (s.raiseInt v).dispIn = s.dispIn := State.raiseIntAt_dispIn s _ _
@[simp] theorem State.raiseInt_spr (s : State) (v : Nat) : (s.raiseInt v).spr = s.spr := State.raiseIntAt_spr s _ _
@[simp] theorem State.raiseInt_pwr (s : State) (v : Nat) : (s.raiseInt v).pwr = s.pwr := State.raiseIntAt_pwr s _ _
@[simp] theorem State.raiseInt_bus (s : State) (v : Nat) : (s.raiseInt v).bus = s.bus := State.raiseIntAt_bus s _ _
@[simp] theorem State.raiseInt_gens (s : State) (v : Nat) : (s.raiseInt v).gens = s.gens := State.raiseIntAt_gens s _ _
@[simp] theorem State.raiseInt_queues (s : State) (v : Nat) : (s.raiseInt v).queues = s.queues := State.raiseIntAt_queues s _ _
@[simp] theorem State.raiseInt_modeIn (s : State) (v : Nat) : (s.raiseInt v).modeIn = s.modeIn := State.raiseIntAt_modeIn s _ _
@[simp] theorem State.raiseInt_idxN (s : State) (v : Nat) : (s.raiseInt v).idxN = s.idxN := State.raiseIntAt_idxN s _ _
@[simp] theorem State.raiseInt_rul (s : State) (v : Nat) : (s.raiseInt v).rul = s.rul := State.raiseIntAt_rul s _ _
@[simp] theorem State.raiseInt_mgn (s : State) (v : Nat) : (s.raiseInt v).mgn = s.mgn := State.raiseIntAt_mgn s _ _
@[simp] theorem State.raiseInt_lanes (s : State) (v : Nat) : (s.raiseInt v).lanes = s.lanes := State.raiseIntAt_lanes s _ _
@[simp] theorem State.raiseInt_ink (s : State) (v : Nat) : (s.raiseInt v).ink = s.ink := State.raiseIntAt_ink s _ _
@[simp] theorem State.raiseInt_delta (s : State) (v : Nat) : (s.raiseInt v).delta = s.delta := State.raiseIntAt_delta s _ _
@[simp] theorem State.raiseInt_fbs (s : State) (v : Nat) : (s.raiseInt v).fbs = s.fbs := State.raiseIntAt_fbs s _ _
@[simp] theorem State.raiseInt_pbs (s : State) (v : Nat) : (s.raiseInt v).pbs = s.pbs := State.raiseIntAt_pbs s _ _
@[simp] theorem State.raiseInt_sds (s : State) (v : Nat) : (s.raiseInt v).sds = s.sds := State.raiseIntAt_sds s _ _
@[simp] theorem State.raiseInt_app (s : State) (v : Nat) : (s.raiseInt v).app = s.app := State.raiseIntAt_app s _ _
@[simp] theorem State.raiseInt_chans (s : State) (v : Nat) : (s.raiseInt v).chans = s.chans := State.raiseIntAt_chans s _ _
@[simp] theorem State.raiseInt_ring (s : State) (v : Nat) : (s.raiseInt v).ring = s.ring := State.raiseIntAt_ring s _ _
@[simp] theorem State.raiseInt_twin (s : State) (v : Nat) : (s.raiseInt v).twin = s.twin := State.raiseIntAt_twin s _ _
@[simp] theorem State.raiseInt_free (s : State) (v : Nat) : (s.raiseInt v).free = s.free := State.raiseIntAt_free s _ _
@[simp] theorem State.raiseInt_out (s : State) (v : Nat) : (s.raiseInt v).out = s.out := State.raiseIntAt_out s _ _
@[simp] theorem State.raiseInt_pending (s : State) (v : Nat) : (s.raiseInt v).pending = s.pending := State.raiseIntAt_pending s _ _

@[simp] theorem State.setMask_mem (s : State) (a m : Nat) : (s.setMask a m).mem = s.mem := by
  unfold State.setMask; dsimp only; repeat' split
  all_goals simp
@[simp] theorem State.setMask_tb (s : State) (a m : Nat) : (s.setMask a m).tb = s.tb := by
  unfold State.setMask; dsimp only; repeat' split
  all_goals simp
@[simp] theorem State.setMask_dev (s : State) (a m : Nat) : (s.setMask a m).dev = s.dev := by
  unfold State.setMask; dsimp only; repeat' split
  all_goals simp
@[simp] theorem State.setMask_cmt (s : State) (a m : Nat) : (s.setMask a m).cmt = s.cmt := by
  unfold State.setMask; dsimp only; repeat' split
  all_goals simp
@[simp] theorem State.setMask_wins (s : State) (a m : Nat) : (s.setMask a m).wins = s.wins := by
  unfold State.setMask; dsimp only; repeat' split
  all_goals simp
@[simp] theorem State.setMask_dct (s : State) (a m : Nat) : (s.setMask a m).dct = s.dct := by
  unfold State.setMask; dsimp only; repeat' split
  all_goals simp
@[simp] theorem State.setMask_serifs (s : State) (a m : Nat) : (s.setMask a m).serifs = s.serifs := by
  unfold State.setMask; dsimp only; repeat' split
  all_goals simp
@[simp] theorem State.setMask_dispIn (s : State) (a m : Nat) : (s.setMask a m).dispIn = s.dispIn := by
  unfold State.setMask; dsimp only; repeat' split
  all_goals simp
@[simp] theorem State.setMask_spr (s : State) (a m : Nat) : (s.setMask a m).spr = s.spr := by
  unfold State.setMask; dsimp only; repeat' split
  all_goals simp
@[simp] theorem State.setMask_pwr (s : State) (a m : Nat) : (s.setMask a m).pwr = s.pwr := by
  unfold State.setMask; dsimp only; repeat' split
  all_goals simp
@[simp] theorem State.setMask_bus (s : State) (a m : Nat) : (s.setMask a m).bus = s.bus := by
  unfold State.setMask; dsimp only; repeat' split
  all_goals simp
@[simp] theorem State.setMask_gens (s : State) (a m : Nat) : (s.setMask a m).gens = s.gens := by
  unfold State.setMask; dsimp only; repeat' split
  all_goals simp
@[simp] theorem State.setMask_queues (s : State) (a m : Nat) : (s.setMask a m).queues = s.queues := by
  unfold State.setMask; dsimp only; repeat' split
  all_goals simp
@[simp] theorem State.setMask_modeIn (s : State) (a m : Nat) : (s.setMask a m).modeIn = s.modeIn := by
  unfold State.setMask; dsimp only; repeat' split
  all_goals simp
@[simp] theorem State.setMask_idxN (s : State) (a m : Nat) : (s.setMask a m).idxN = s.idxN := by
  unfold State.setMask; dsimp only; repeat' split
  all_goals simp
@[simp] theorem State.setMask_rul (s : State) (a m : Nat) : (s.setMask a m).rul = s.rul := by
  unfold State.setMask; dsimp only; repeat' split
  all_goals simp
@[simp] theorem State.setMask_mgn (s : State) (a m : Nat) : (s.setMask a m).mgn = s.mgn := by
  unfold State.setMask; dsimp only; repeat' split
  all_goals simp
@[simp] theorem State.setMask_lanes (s : State) (a m : Nat) : (s.setMask a m).lanes = s.lanes := by
  unfold State.setMask; dsimp only; repeat' split
  all_goals simp
@[simp] theorem State.setMask_ink (s : State) (a m : Nat) : (s.setMask a m).ink = s.ink := by
  unfold State.setMask; dsimp only; repeat' split
  all_goals simp
@[simp] theorem State.setMask_delta (s : State) (a m : Nat) : (s.setMask a m).delta = s.delta := by
  unfold State.setMask; dsimp only; repeat' split
  all_goals simp
@[simp] theorem State.setMask_fbs (s : State) (a m : Nat) : (s.setMask a m).fbs = s.fbs := by
  unfold State.setMask; dsimp only; repeat' split
  all_goals simp
@[simp] theorem State.setMask_pbs (s : State) (a m : Nat) : (s.setMask a m).pbs = s.pbs := by
  unfold State.setMask; dsimp only; repeat' split
  all_goals simp
@[simp] theorem State.setMask_sds (s : State) (a m : Nat) : (s.setMask a m).sds = s.sds := by
  unfold State.setMask; dsimp only; repeat' split
  all_goals simp
@[simp] theorem State.setMask_app (s : State) (a m : Nat) : (s.setMask a m).app = s.app := by
  unfold State.setMask; dsimp only; repeat' split
  all_goals simp
@[simp] theorem State.setMask_chans (s : State) (a m : Nat) : (s.setMask a m).chans = s.chans := by
  unfold State.setMask; dsimp only; repeat' split
  all_goals simp
@[simp] theorem State.setMask_ring (s : State) (a m : Nat) : (s.setMask a m).ring = s.ring := by
  unfold State.setMask; dsimp only; repeat' split
  all_goals simp
@[simp] theorem State.setMask_twin (s : State) (a m : Nat) : (s.setMask a m).twin = s.twin := by
  unfold State.setMask; dsimp only; repeat' split
  all_goals simp
@[simp] theorem State.setMask_free (s : State) (a m : Nat) : (s.setMask a m).free = s.free := by
  unfold State.setMask; dsimp only; repeat' split
  all_goals simp
@[simp] theorem State.setMask_out (s : State) (a m : Nat) : (s.setMask a m).out = s.out := by
  unfold State.setMask; dsimp only; repeat' split
  all_goals simp
@[simp] theorem State.setMask_pending (s : State) (a m : Nat) : (s.setMask a m).pending = s.pending := by
  unfold State.setMask; dsimp only; repeat' split
  all_goals simp

@[simp] theorem State.flag_mem (s : State) (f : Fld) : (s.flag f).mem = s.mem := State.setMask_mem s _ _
@[simp] theorem State.flag_tb (s : State) (f : Fld) : (s.flag f).tb = s.tb := State.setMask_tb s _ _
@[simp] theorem State.flag_dev (s : State) (f : Fld) : (s.flag f).dev = s.dev := State.setMask_dev s _ _
@[simp] theorem State.flag_cmt (s : State) (f : Fld) : (s.flag f).cmt = s.cmt := State.setMask_cmt s _ _
@[simp] theorem State.flag_wins (s : State) (f : Fld) : (s.flag f).wins = s.wins := State.setMask_wins s _ _
@[simp] theorem State.flag_dct (s : State) (f : Fld) : (s.flag f).dct = s.dct := State.setMask_dct s _ _
@[simp] theorem State.flag_serifs (s : State) (f : Fld) : (s.flag f).serifs = s.serifs := State.setMask_serifs s _ _
@[simp] theorem State.flag_dispIn (s : State) (f : Fld) : (s.flag f).dispIn = s.dispIn := State.setMask_dispIn s _ _
@[simp] theorem State.flag_spr (s : State) (f : Fld) : (s.flag f).spr = s.spr := State.setMask_spr s _ _
@[simp] theorem State.flag_pwr (s : State) (f : Fld) : (s.flag f).pwr = s.pwr := State.setMask_pwr s _ _
@[simp] theorem State.flag_bus (s : State) (f : Fld) : (s.flag f).bus = s.bus := State.setMask_bus s _ _
@[simp] theorem State.flag_gens (s : State) (f : Fld) : (s.flag f).gens = s.gens := State.setMask_gens s _ _
@[simp] theorem State.flag_queues (s : State) (f : Fld) : (s.flag f).queues = s.queues := State.setMask_queues s _ _
@[simp] theorem State.flag_modeIn (s : State) (f : Fld) : (s.flag f).modeIn = s.modeIn := State.setMask_modeIn s _ _
@[simp] theorem State.flag_idxN (s : State) (f : Fld) : (s.flag f).idxN = s.idxN := State.setMask_idxN s _ _
@[simp] theorem State.flag_rul (s : State) (f : Fld) : (s.flag f).rul = s.rul := State.setMask_rul s _ _
@[simp] theorem State.flag_mgn (s : State) (f : Fld) : (s.flag f).mgn = s.mgn := State.setMask_mgn s _ _
@[simp] theorem State.flag_lanes (s : State) (f : Fld) : (s.flag f).lanes = s.lanes := State.setMask_lanes s _ _
@[simp] theorem State.flag_ink (s : State) (f : Fld) : (s.flag f).ink = s.ink := State.setMask_ink s _ _
@[simp] theorem State.flag_delta (s : State) (f : Fld) : (s.flag f).delta = s.delta := State.setMask_delta s _ _
@[simp] theorem State.flag_fbs (s : State) (f : Fld) : (s.flag f).fbs = s.fbs := State.setMask_fbs s _ _
@[simp] theorem State.flag_pbs (s : State) (f : Fld) : (s.flag f).pbs = s.pbs := State.setMask_pbs s _ _
@[simp] theorem State.flag_sds (s : State) (f : Fld) : (s.flag f).sds = s.sds := State.setMask_sds s _ _
@[simp] theorem State.flag_app (s : State) (f : Fld) : (s.flag f).app = s.app := State.setMask_app s _ _
@[simp] theorem State.flag_chans (s : State) (f : Fld) : (s.flag f).chans = s.chans := State.setMask_chans s _ _
@[simp] theorem State.flag_ring (s : State) (f : Fld) : (s.flag f).ring = s.ring := State.setMask_ring s _ _
@[simp] theorem State.flag_twin (s : State) (f : Fld) : (s.flag f).twin = s.twin := State.setMask_twin s _ _
@[simp] theorem State.flag_free (s : State) (f : Fld) : (s.flag f).free = s.free := State.setMask_free s _ _
@[simp] theorem State.flag_out (s : State) (f : Fld) : (s.flag f).out = s.out := State.setMask_out s _ _
@[simp] theorem State.flag_pending (s : State) (f : Fld) : (s.flag f).pending = s.pending := State.setMask_pending s _ _

@[simp] theorem State.flagBit_mem (s : State) (f : Fld) (b : Nat) : (s.flagBit f b).mem = s.mem := State.setMask_mem s _ _
@[simp] theorem State.flagBit_tb (s : State) (f : Fld) (b : Nat) : (s.flagBit f b).tb = s.tb := State.setMask_tb s _ _
@[simp] theorem State.flagBit_dev (s : State) (f : Fld) (b : Nat) : (s.flagBit f b).dev = s.dev := State.setMask_dev s _ _
@[simp] theorem State.flagBit_cmt (s : State) (f : Fld) (b : Nat) : (s.flagBit f b).cmt = s.cmt := State.setMask_cmt s _ _
@[simp] theorem State.flagBit_wins (s : State) (f : Fld) (b : Nat) : (s.flagBit f b).wins = s.wins := State.setMask_wins s _ _
@[simp] theorem State.flagBit_dct (s : State) (f : Fld) (b : Nat) : (s.flagBit f b).dct = s.dct := State.setMask_dct s _ _
@[simp] theorem State.flagBit_serifs (s : State) (f : Fld) (b : Nat) : (s.flagBit f b).serifs = s.serifs := State.setMask_serifs s _ _
@[simp] theorem State.flagBit_dispIn (s : State) (f : Fld) (b : Nat) : (s.flagBit f b).dispIn = s.dispIn := State.setMask_dispIn s _ _
@[simp] theorem State.flagBit_spr (s : State) (f : Fld) (b : Nat) : (s.flagBit f b).spr = s.spr := State.setMask_spr s _ _
@[simp] theorem State.flagBit_pwr (s : State) (f : Fld) (b : Nat) : (s.flagBit f b).pwr = s.pwr := State.setMask_pwr s _ _
@[simp] theorem State.flagBit_bus (s : State) (f : Fld) (b : Nat) : (s.flagBit f b).bus = s.bus := State.setMask_bus s _ _
@[simp] theorem State.flagBit_gens (s : State) (f : Fld) (b : Nat) : (s.flagBit f b).gens = s.gens := State.setMask_gens s _ _
@[simp] theorem State.flagBit_queues (s : State) (f : Fld) (b : Nat) : (s.flagBit f b).queues = s.queues := State.setMask_queues s _ _
@[simp] theorem State.flagBit_modeIn (s : State) (f : Fld) (b : Nat) : (s.flagBit f b).modeIn = s.modeIn := State.setMask_modeIn s _ _
@[simp] theorem State.flagBit_idxN (s : State) (f : Fld) (b : Nat) : (s.flagBit f b).idxN = s.idxN := State.setMask_idxN s _ _
@[simp] theorem State.flagBit_rul (s : State) (f : Fld) (b : Nat) : (s.flagBit f b).rul = s.rul := State.setMask_rul s _ _
@[simp] theorem State.flagBit_mgn (s : State) (f : Fld) (b : Nat) : (s.flagBit f b).mgn = s.mgn := State.setMask_mgn s _ _
@[simp] theorem State.flagBit_lanes (s : State) (f : Fld) (b : Nat) : (s.flagBit f b).lanes = s.lanes := State.setMask_lanes s _ _
@[simp] theorem State.flagBit_ink (s : State) (f : Fld) (b : Nat) : (s.flagBit f b).ink = s.ink := State.setMask_ink s _ _
@[simp] theorem State.flagBit_delta (s : State) (f : Fld) (b : Nat) : (s.flagBit f b).delta = s.delta := State.setMask_delta s _ _
@[simp] theorem State.flagBit_fbs (s : State) (f : Fld) (b : Nat) : (s.flagBit f b).fbs = s.fbs := State.setMask_fbs s _ _
@[simp] theorem State.flagBit_pbs (s : State) (f : Fld) (b : Nat) : (s.flagBit f b).pbs = s.pbs := State.setMask_pbs s _ _
@[simp] theorem State.flagBit_sds (s : State) (f : Fld) (b : Nat) : (s.flagBit f b).sds = s.sds := State.setMask_sds s _ _
@[simp] theorem State.flagBit_app (s : State) (f : Fld) (b : Nat) : (s.flagBit f b).app = s.app := State.setMask_app s _ _
@[simp] theorem State.flagBit_chans (s : State) (f : Fld) (b : Nat) : (s.flagBit f b).chans = s.chans := State.setMask_chans s _ _
@[simp] theorem State.flagBit_ring (s : State) (f : Fld) (b : Nat) : (s.flagBit f b).ring = s.ring := State.setMask_ring s _ _
@[simp] theorem State.flagBit_twin (s : State) (f : Fld) (b : Nat) : (s.flagBit f b).twin = s.twin := State.setMask_twin s _ _
@[simp] theorem State.flagBit_free (s : State) (f : Fld) (b : Nat) : (s.flagBit f b).free = s.free := State.setMask_free s _ _
@[simp] theorem State.flagBit_out (s : State) (f : Fld) (b : Nat) : (s.flagBit f b).out = s.out := State.setMask_out s _ _
@[simp] theorem State.flagBit_pending (s : State) (f : Fld) (b : Nat) : (s.flagBit f b).pending = s.pending := State.setMask_pending s _ _

@[simp] theorem State.bump_mem (s : State) (f g : Fld) : (s.bump f g).mem = s.mem := by
  unfold State.bump; dsimp only; repeat' split
  all_goals simp
@[simp] theorem State.bump_tb (s : State) (f g : Fld) : (s.bump f g).tb = s.tb := by
  unfold State.bump; dsimp only; repeat' split
  all_goals simp
@[simp] theorem State.bump_dev (s : State) (f g : Fld) : (s.bump f g).dev = s.dev := by
  unfold State.bump; dsimp only; repeat' split
  all_goals simp
@[simp] theorem State.bump_cmt (s : State) (f g : Fld) : (s.bump f g).cmt = s.cmt := by
  unfold State.bump; dsimp only; repeat' split
  all_goals simp
@[simp] theorem State.bump_wins (s : State) (f g : Fld) : (s.bump f g).wins = s.wins := by
  unfold State.bump; dsimp only; repeat' split
  all_goals simp
@[simp] theorem State.bump_dct (s : State) (f g : Fld) : (s.bump f g).dct = s.dct := by
  unfold State.bump; dsimp only; repeat' split
  all_goals simp
@[simp] theorem State.bump_serifs (s : State) (f g : Fld) : (s.bump f g).serifs = s.serifs := by
  unfold State.bump; dsimp only; repeat' split
  all_goals simp
@[simp] theorem State.bump_dispIn (s : State) (f g : Fld) : (s.bump f g).dispIn = s.dispIn := by
  unfold State.bump; dsimp only; repeat' split
  all_goals simp
@[simp] theorem State.bump_spr (s : State) (f g : Fld) : (s.bump f g).spr = s.spr := by
  unfold State.bump; dsimp only; repeat' split
  all_goals simp
@[simp] theorem State.bump_pwr (s : State) (f g : Fld) : (s.bump f g).pwr = s.pwr := by
  unfold State.bump; dsimp only; repeat' split
  all_goals simp
@[simp] theorem State.bump_bus (s : State) (f g : Fld) : (s.bump f g).bus = s.bus := by
  unfold State.bump; dsimp only; repeat' split
  all_goals simp
@[simp] theorem State.bump_gens (s : State) (f g : Fld) : (s.bump f g).gens = s.gens := by
  unfold State.bump; dsimp only; repeat' split
  all_goals simp
@[simp] theorem State.bump_queues (s : State) (f g : Fld) : (s.bump f g).queues = s.queues := by
  unfold State.bump; dsimp only; repeat' split
  all_goals simp
@[simp] theorem State.bump_modeIn (s : State) (f g : Fld) : (s.bump f g).modeIn = s.modeIn := by
  unfold State.bump; dsimp only; repeat' split
  all_goals simp
@[simp] theorem State.bump_idxN (s : State) (f g : Fld) : (s.bump f g).idxN = s.idxN := by
  unfold State.bump; dsimp only; repeat' split
  all_goals simp
@[simp] theorem State.bump_rul (s : State) (f g : Fld) : (s.bump f g).rul = s.rul := by
  unfold State.bump; dsimp only; repeat' split
  all_goals simp
@[simp] theorem State.bump_mgn (s : State) (f g : Fld) : (s.bump f g).mgn = s.mgn := by
  unfold State.bump; dsimp only; repeat' split
  all_goals simp
@[simp] theorem State.bump_lanes (s : State) (f g : Fld) : (s.bump f g).lanes = s.lanes := by
  unfold State.bump; dsimp only; repeat' split
  all_goals simp
@[simp] theorem State.bump_ink (s : State) (f g : Fld) : (s.bump f g).ink = s.ink := by
  unfold State.bump; dsimp only; repeat' split
  all_goals simp
@[simp] theorem State.bump_delta (s : State) (f g : Fld) : (s.bump f g).delta = s.delta := by
  unfold State.bump; dsimp only; repeat' split
  all_goals simp
@[simp] theorem State.bump_fbs (s : State) (f g : Fld) : (s.bump f g).fbs = s.fbs := by
  unfold State.bump; dsimp only; repeat' split
  all_goals simp
@[simp] theorem State.bump_pbs (s : State) (f g : Fld) : (s.bump f g).pbs = s.pbs := by
  unfold State.bump; dsimp only; repeat' split
  all_goals simp
@[simp] theorem State.bump_sds (s : State) (f g : Fld) : (s.bump f g).sds = s.sds := by
  unfold State.bump; dsimp only; repeat' split
  all_goals simp
@[simp] theorem State.bump_app (s : State) (f g : Fld) : (s.bump f g).app = s.app := by
  unfold State.bump; dsimp only; repeat' split
  all_goals simp
@[simp] theorem State.bump_chans (s : State) (f g : Fld) : (s.bump f g).chans = s.chans := by
  unfold State.bump; dsimp only; repeat' split
  all_goals simp
@[simp] theorem State.bump_ring (s : State) (f g : Fld) : (s.bump f g).ring = s.ring := by
  unfold State.bump; dsimp only; repeat' split
  all_goals simp
@[simp] theorem State.bump_twin (s : State) (f g : Fld) : (s.bump f g).twin = s.twin := by
  unfold State.bump; dsimp only; repeat' split
  all_goals simp
@[simp] theorem State.bump_free (s : State) (f g : Fld) : (s.bump f g).free = s.free := by
  unfold State.bump; dsimp only; repeat' split
  all_goals simp
@[simp] theorem State.bump_out (s : State) (f g : Fld) : (s.bump f g).out = s.out := by
  unfold State.bump; dsimp only; repeat' split
  all_goals simp
@[simp] theorem State.bump_pending (s : State) (f g : Fld) : (s.bump f g).pending = s.pending := by
  unfold State.bump; dsimp only; repeat' split
  all_goals simp

@[simp] theorem State.bumpN_mem (s : State) (f g : Fld) (n : Nat) : (s.bumpN f g n).mem = s.mem := by
  induction n generalizing s with
  | zero => rfl
  | succ n ih => unfold State.bumpN; rw [ih]; simp
@[simp] theorem State.bumpN_tb (s : State) (f g : Fld) (n : Nat) : (s.bumpN f g n).tb = s.tb := by
  induction n generalizing s with
  | zero => rfl
  | succ n ih => unfold State.bumpN; rw [ih]; simp
@[simp] theorem State.bumpN_dev (s : State) (f g : Fld) (n : Nat) : (s.bumpN f g n).dev = s.dev := by
  induction n generalizing s with
  | zero => rfl
  | succ n ih => unfold State.bumpN; rw [ih]; simp
@[simp] theorem State.bumpN_cmt (s : State) (f g : Fld) (n : Nat) : (s.bumpN f g n).cmt = s.cmt := by
  induction n generalizing s with
  | zero => rfl
  | succ n ih => unfold State.bumpN; rw [ih]; simp
@[simp] theorem State.bumpN_wins (s : State) (f g : Fld) (n : Nat) : (s.bumpN f g n).wins = s.wins := by
  induction n generalizing s with
  | zero => rfl
  | succ n ih => unfold State.bumpN; rw [ih]; simp
@[simp] theorem State.bumpN_dct (s : State) (f g : Fld) (n : Nat) : (s.bumpN f g n).dct = s.dct := by
  induction n generalizing s with
  | zero => rfl
  | succ n ih => unfold State.bumpN; rw [ih]; simp
@[simp] theorem State.bumpN_serifs (s : State) (f g : Fld) (n : Nat) : (s.bumpN f g n).serifs = s.serifs := by
  induction n generalizing s with
  | zero => rfl
  | succ n ih => unfold State.bumpN; rw [ih]; simp
@[simp] theorem State.bumpN_dispIn (s : State) (f g : Fld) (n : Nat) : (s.bumpN f g n).dispIn = s.dispIn := by
  induction n generalizing s with
  | zero => rfl
  | succ n ih => unfold State.bumpN; rw [ih]; simp
@[simp] theorem State.bumpN_spr (s : State) (f g : Fld) (n : Nat) : (s.bumpN f g n).spr = s.spr := by
  induction n generalizing s with
  | zero => rfl
  | succ n ih => unfold State.bumpN; rw [ih]; simp
@[simp] theorem State.bumpN_pwr (s : State) (f g : Fld) (n : Nat) : (s.bumpN f g n).pwr = s.pwr := by
  induction n generalizing s with
  | zero => rfl
  | succ n ih => unfold State.bumpN; rw [ih]; simp
@[simp] theorem State.bumpN_bus (s : State) (f g : Fld) (n : Nat) : (s.bumpN f g n).bus = s.bus := by
  induction n generalizing s with
  | zero => rfl
  | succ n ih => unfold State.bumpN; rw [ih]; simp
@[simp] theorem State.bumpN_gens (s : State) (f g : Fld) (n : Nat) : (s.bumpN f g n).gens = s.gens := by
  induction n generalizing s with
  | zero => rfl
  | succ n ih => unfold State.bumpN; rw [ih]; simp
@[simp] theorem State.bumpN_queues (s : State) (f g : Fld) (n : Nat) : (s.bumpN f g n).queues = s.queues := by
  induction n generalizing s with
  | zero => rfl
  | succ n ih => unfold State.bumpN; rw [ih]; simp
@[simp] theorem State.bumpN_modeIn (s : State) (f g : Fld) (n : Nat) : (s.bumpN f g n).modeIn = s.modeIn := by
  induction n generalizing s with
  | zero => rfl
  | succ n ih => unfold State.bumpN; rw [ih]; simp
@[simp] theorem State.bumpN_idxN (s : State) (f g : Fld) (n : Nat) : (s.bumpN f g n).idxN = s.idxN := by
  induction n generalizing s with
  | zero => rfl
  | succ n ih => unfold State.bumpN; rw [ih]; simp
@[simp] theorem State.bumpN_rul (s : State) (f g : Fld) (n : Nat) : (s.bumpN f g n).rul = s.rul := by
  induction n generalizing s with
  | zero => rfl
  | succ n ih => unfold State.bumpN; rw [ih]; simp
@[simp] theorem State.bumpN_mgn (s : State) (f g : Fld) (n : Nat) : (s.bumpN f g n).mgn = s.mgn := by
  induction n generalizing s with
  | zero => rfl
  | succ n ih => unfold State.bumpN; rw [ih]; simp
@[simp] theorem State.bumpN_lanes (s : State) (f g : Fld) (n : Nat) : (s.bumpN f g n).lanes = s.lanes := by
  induction n generalizing s with
  | zero => rfl
  | succ n ih => unfold State.bumpN; rw [ih]; simp
@[simp] theorem State.bumpN_ink (s : State) (f g : Fld) (n : Nat) : (s.bumpN f g n).ink = s.ink := by
  induction n generalizing s with
  | zero => rfl
  | succ n ih => unfold State.bumpN; rw [ih]; simp
@[simp] theorem State.bumpN_delta (s : State) (f g : Fld) (n : Nat) : (s.bumpN f g n).delta = s.delta := by
  induction n generalizing s with
  | zero => rfl
  | succ n ih => unfold State.bumpN; rw [ih]; simp
@[simp] theorem State.bumpN_fbs (s : State) (f g : Fld) (n : Nat) : (s.bumpN f g n).fbs = s.fbs := by
  induction n generalizing s with
  | zero => rfl
  | succ n ih => unfold State.bumpN; rw [ih]; simp
@[simp] theorem State.bumpN_pbs (s : State) (f g : Fld) (n : Nat) : (s.bumpN f g n).pbs = s.pbs := by
  induction n generalizing s with
  | zero => rfl
  | succ n ih => unfold State.bumpN; rw [ih]; simp
@[simp] theorem State.bumpN_sds (s : State) (f g : Fld) (n : Nat) : (s.bumpN f g n).sds = s.sds := by
  induction n generalizing s with
  | zero => rfl
  | succ n ih => unfold State.bumpN; rw [ih]; simp
@[simp] theorem State.bumpN_app (s : State) (f g : Fld) (n : Nat) : (s.bumpN f g n).app = s.app := by
  induction n generalizing s with
  | zero => rfl
  | succ n ih => unfold State.bumpN; rw [ih]; simp
@[simp] theorem State.bumpN_chans (s : State) (f g : Fld) (n : Nat) : (s.bumpN f g n).chans = s.chans := by
  induction n generalizing s with
  | zero => rfl
  | succ n ih => unfold State.bumpN; rw [ih]; simp
@[simp] theorem State.bumpN_ring (s : State) (f g : Fld) (n : Nat) : (s.bumpN f g n).ring = s.ring := by
  induction n generalizing s with
  | zero => rfl
  | succ n ih => unfold State.bumpN; rw [ih]; simp
@[simp] theorem State.bumpN_twin (s : State) (f g : Fld) (n : Nat) : (s.bumpN f g n).twin = s.twin := by
  induction n generalizing s with
  | zero => rfl
  | succ n ih => unfold State.bumpN; rw [ih]; simp
@[simp] theorem State.bumpN_free (s : State) (f g : Fld) (n : Nat) : (s.bumpN f g n).free = s.free := by
  induction n generalizing s with
  | zero => rfl
  | succ n ih => unfold State.bumpN; rw [ih]; simp
@[simp] theorem State.bumpN_out (s : State) (f g : Fld) (n : Nat) : (s.bumpN f g n).out = s.out := by
  induction n generalizing s with
  | zero => rfl
  | succ n ih => unfold State.bumpN; rw [ih]; simp
@[simp] theorem State.bumpN_pending (s : State) (f g : Fld) (n : Nat) : (s.bumpN f g n).pending = s.pending := by
  induction n generalizing s with
  | zero => rfl
  | succ n ih => unfold State.bumpN; rw [ih]; simp

@[simp] theorem State.intRise_mem (s : State) (v : Nat) : (s.intRise v).mem = s.mem := by
  unfold State.intRise; dsimp only; repeat' split
  all_goals simp
@[simp] theorem State.intRise_tb (s : State) (v : Nat) : (s.intRise v).tb = s.tb := by
  unfold State.intRise; dsimp only; repeat' split
  all_goals simp
@[simp] theorem State.intRise_dev (s : State) (v : Nat) : (s.intRise v).dev = s.dev := by
  unfold State.intRise; dsimp only; repeat' split
  all_goals simp
@[simp] theorem State.intRise_cmt (s : State) (v : Nat) : (s.intRise v).cmt = s.cmt := by
  unfold State.intRise; dsimp only; repeat' split
  all_goals simp
@[simp] theorem State.intRise_wins (s : State) (v : Nat) : (s.intRise v).wins = s.wins := by
  unfold State.intRise; dsimp only; repeat' split
  all_goals simp
@[simp] theorem State.intRise_dct (s : State) (v : Nat) : (s.intRise v).dct = s.dct := by
  unfold State.intRise; dsimp only; repeat' split
  all_goals simp
@[simp] theorem State.intRise_serifs (s : State) (v : Nat) : (s.intRise v).serifs = s.serifs := by
  unfold State.intRise; dsimp only; repeat' split
  all_goals simp
@[simp] theorem State.intRise_dispIn (s : State) (v : Nat) : (s.intRise v).dispIn = s.dispIn := by
  unfold State.intRise; dsimp only; repeat' split
  all_goals simp
@[simp] theorem State.intRise_blt (s : State) (v : Nat) : (s.intRise v).blt = s.blt := by
  unfold State.intRise; dsimp only; repeat' split
  all_goals simp
@[simp] theorem State.intRise_spr (s : State) (v : Nat) : (s.intRise v).spr = s.spr := by
  unfold State.intRise; dsimp only; repeat' split
  all_goals simp
@[simp] theorem State.intRise_pwr (s : State) (v : Nat) : (s.intRise v).pwr = s.pwr := by
  unfold State.intRise; dsimp only; repeat' split
  all_goals simp
@[simp] theorem State.intRise_bus (s : State) (v : Nat) : (s.intRise v).bus = s.bus := by
  unfold State.intRise; dsimp only; repeat' split
  all_goals simp
@[simp] theorem State.intRise_gens (s : State) (v : Nat) : (s.intRise v).gens = s.gens := by
  unfold State.intRise; dsimp only; repeat' split
  all_goals simp
@[simp] theorem State.intRise_queues (s : State) (v : Nat) : (s.intRise v).queues = s.queues := by
  unfold State.intRise; dsimp only; repeat' split
  all_goals simp
@[simp] theorem State.intRise_modeIn (s : State) (v : Nat) : (s.intRise v).modeIn = s.modeIn := by
  unfold State.intRise; dsimp only; repeat' split
  all_goals simp
@[simp] theorem State.intRise_idxN (s : State) (v : Nat) : (s.intRise v).idxN = s.idxN := by
  unfold State.intRise; dsimp only; repeat' split
  all_goals simp
@[simp] theorem State.intRise_rul (s : State) (v : Nat) : (s.intRise v).rul = s.rul := by
  unfold State.intRise; dsimp only; repeat' split
  all_goals simp
@[simp] theorem State.intRise_mgn (s : State) (v : Nat) : (s.intRise v).mgn = s.mgn := by
  unfold State.intRise; dsimp only; repeat' split
  all_goals simp
@[simp] theorem State.intRise_lanes (s : State) (v : Nat) : (s.intRise v).lanes = s.lanes := by
  unfold State.intRise; dsimp only; repeat' split
  all_goals simp
@[simp] theorem State.intRise_ink (s : State) (v : Nat) : (s.intRise v).ink = s.ink := by
  unfold State.intRise; dsimp only; repeat' split
  all_goals simp
@[simp] theorem State.intRise_delta (s : State) (v : Nat) : (s.intRise v).delta = s.delta := by
  unfold State.intRise; dsimp only; repeat' split
  all_goals simp
@[simp] theorem State.intRise_fbs (s : State) (v : Nat) : (s.intRise v).fbs = s.fbs := by
  unfold State.intRise; dsimp only; repeat' split
  all_goals simp
@[simp] theorem State.intRise_pbs (s : State) (v : Nat) : (s.intRise v).pbs = s.pbs := by
  unfold State.intRise; dsimp only; repeat' split
  all_goals simp
@[simp] theorem State.intRise_sds (s : State) (v : Nat) : (s.intRise v).sds = s.sds := by
  unfold State.intRise; dsimp only; repeat' split
  all_goals simp
@[simp] theorem State.intRise_app (s : State) (v : Nat) : (s.intRise v).app = s.app := by
  unfold State.intRise; dsimp only; repeat' split
  all_goals simp
@[simp] theorem State.intRise_chans (s : State) (v : Nat) : (s.intRise v).chans = s.chans := by
  unfold State.intRise; dsimp only; repeat' split
  all_goals simp
@[simp] theorem State.intRise_ring (s : State) (v : Nat) : (s.intRise v).ring = s.ring := by
  unfold State.intRise; dsimp only; repeat' split
  all_goals simp
@[simp] theorem State.intRise_twin (s : State) (v : Nat) : (s.intRise v).twin = s.twin := by
  unfold State.intRise; dsimp only; repeat' split
  all_goals simp
@[simp] theorem State.intRise_free (s : State) (v : Nat) : (s.intRise v).free = s.free := by
  unfold State.intRise; dsimp only; repeat' split
  all_goals simp
@[simp] theorem State.intRise_pending (s : State) (v : Nat) : (s.intRise v).pending = s.pending := by
  unfold State.intRise; dsimp only; repeat' split
  all_goals simp

@[simp] theorem State.putBytes_regs (s : State) (sp a : Nat) (l : List Nat) : (s.putBytes sp a l).regs = s.regs := by
  induction l generalizing s a with
  | nil => rfl
  | cons b t ih => unfold State.putBytes; rw [ih]; simp
@[simp] theorem State.putBytes_log (s : State) (sp a : Nat) (l : List Nat) : (s.putBytes sp a l).log = s.log := by
  induction l generalizing s a with
  | nil => rfl
  | cons b t ih => unfold State.putBytes; rw [ih]; simp
@[simp] theorem State.putBytes_tb (s : State) (sp a : Nat) (l : List Nat) : (s.putBytes sp a l).tb = s.tb := by
  induction l generalizing s a with
  | nil => rfl
  | cons b t ih => unfold State.putBytes; rw [ih]; simp
@[simp] theorem State.putBytes_dev (s : State) (sp a : Nat) (l : List Nat) : (s.putBytes sp a l).dev = s.dev := by
  induction l generalizing s a with
  | nil => rfl
  | cons b t ih => unfold State.putBytes; rw [ih]; simp
@[simp] theorem State.putBytes_cmt (s : State) (sp a : Nat) (l : List Nat) : (s.putBytes sp a l).cmt = s.cmt := by
  induction l generalizing s a with
  | nil => rfl
  | cons b t ih => unfold State.putBytes; rw [ih]; simp
@[simp] theorem State.putBytes_wins (s : State) (sp a : Nat) (l : List Nat) : (s.putBytes sp a l).wins = s.wins := by
  induction l generalizing s a with
  | nil => rfl
  | cons b t ih => unfold State.putBytes; rw [ih]; simp
@[simp] theorem State.putBytes_dct (s : State) (sp a : Nat) (l : List Nat) : (s.putBytes sp a l).dct = s.dct := by
  induction l generalizing s a with
  | nil => rfl
  | cons b t ih => unfold State.putBytes; rw [ih]; simp
@[simp] theorem State.putBytes_serifs (s : State) (sp a : Nat) (l : List Nat) : (s.putBytes sp a l).serifs = s.serifs := by
  induction l generalizing s a with
  | nil => rfl
  | cons b t ih => unfold State.putBytes; rw [ih]; simp
@[simp] theorem State.putBytes_dispIn (s : State) (sp a : Nat) (l : List Nat) : (s.putBytes sp a l).dispIn = s.dispIn := by
  induction l generalizing s a with
  | nil => rfl
  | cons b t ih => unfold State.putBytes; rw [ih]; simp
@[simp] theorem State.putBytes_blt (s : State) (sp a : Nat) (l : List Nat) : (s.putBytes sp a l).blt = s.blt := by
  induction l generalizing s a with
  | nil => rfl
  | cons b t ih => unfold State.putBytes; rw [ih]; simp
@[simp] theorem State.putBytes_spr (s : State) (sp a : Nat) (l : List Nat) : (s.putBytes sp a l).spr = s.spr := by
  induction l generalizing s a with
  | nil => rfl
  | cons b t ih => unfold State.putBytes; rw [ih]; simp
@[simp] theorem State.putBytes_pwr (s : State) (sp a : Nat) (l : List Nat) : (s.putBytes sp a l).pwr = s.pwr := by
  induction l generalizing s a with
  | nil => rfl
  | cons b t ih => unfold State.putBytes; rw [ih]; simp
@[simp] theorem State.putBytes_bus (s : State) (sp a : Nat) (l : List Nat) : (s.putBytes sp a l).bus = s.bus := by
  induction l generalizing s a with
  | nil => rfl
  | cons b t ih => unfold State.putBytes; rw [ih]; simp
@[simp] theorem State.putBytes_gens (s : State) (sp a : Nat) (l : List Nat) : (s.putBytes sp a l).gens = s.gens := by
  induction l generalizing s a with
  | nil => rfl
  | cons b t ih => unfold State.putBytes; rw [ih]; simp
@[simp] theorem State.putBytes_queues (s : State) (sp a : Nat) (l : List Nat) : (s.putBytes sp a l).queues = s.queues := by
  induction l generalizing s a with
  | nil => rfl
  | cons b t ih => unfold State.putBytes; rw [ih]; simp
@[simp] theorem State.putBytes_modeIn (s : State) (sp a : Nat) (l : List Nat) : (s.putBytes sp a l).modeIn = s.modeIn := by
  induction l generalizing s a with
  | nil => rfl
  | cons b t ih => unfold State.putBytes; rw [ih]; simp
@[simp] theorem State.putBytes_idxN (s : State) (sp a : Nat) (l : List Nat) : (s.putBytes sp a l).idxN = s.idxN := by
  induction l generalizing s a with
  | nil => rfl
  | cons b t ih => unfold State.putBytes; rw [ih]; simp
@[simp] theorem State.putBytes_rul (s : State) (sp a : Nat) (l : List Nat) : (s.putBytes sp a l).rul = s.rul := by
  induction l generalizing s a with
  | nil => rfl
  | cons b t ih => unfold State.putBytes; rw [ih]; simp
@[simp] theorem State.putBytes_mgn (s : State) (sp a : Nat) (l : List Nat) : (s.putBytes sp a l).mgn = s.mgn := by
  induction l generalizing s a with
  | nil => rfl
  | cons b t ih => unfold State.putBytes; rw [ih]; simp
@[simp] theorem State.putBytes_lanes (s : State) (sp a : Nat) (l : List Nat) : (s.putBytes sp a l).lanes = s.lanes := by
  induction l generalizing s a with
  | nil => rfl
  | cons b t ih => unfold State.putBytes; rw [ih]; simp
@[simp] theorem State.putBytes_ink (s : State) (sp a : Nat) (l : List Nat) : (s.putBytes sp a l).ink = s.ink := by
  induction l generalizing s a with
  | nil => rfl
  | cons b t ih => unfold State.putBytes; rw [ih]; simp
@[simp] theorem State.putBytes_delta (s : State) (sp a : Nat) (l : List Nat) : (s.putBytes sp a l).delta = s.delta := by
  induction l generalizing s a with
  | nil => rfl
  | cons b t ih => unfold State.putBytes; rw [ih]; simp
@[simp] theorem State.putBytes_fbs (s : State) (sp a : Nat) (l : List Nat) : (s.putBytes sp a l).fbs = s.fbs := by
  induction l generalizing s a with
  | nil => rfl
  | cons b t ih => unfold State.putBytes; rw [ih]; simp
@[simp] theorem State.putBytes_pbs (s : State) (sp a : Nat) (l : List Nat) : (s.putBytes sp a l).pbs = s.pbs := by
  induction l generalizing s a with
  | nil => rfl
  | cons b t ih => unfold State.putBytes; rw [ih]; simp
@[simp] theorem State.putBytes_sds (s : State) (sp a : Nat) (l : List Nat) : (s.putBytes sp a l).sds = s.sds := by
  induction l generalizing s a with
  | nil => rfl
  | cons b t ih => unfold State.putBytes; rw [ih]; simp
@[simp] theorem State.putBytes_app (s : State) (sp a : Nat) (l : List Nat) : (s.putBytes sp a l).app = s.app := by
  induction l generalizing s a with
  | nil => rfl
  | cons b t ih => unfold State.putBytes; rw [ih]; simp
@[simp] theorem State.putBytes_chans (s : State) (sp a : Nat) (l : List Nat) : (s.putBytes sp a l).chans = s.chans := by
  induction l generalizing s a with
  | nil => rfl
  | cons b t ih => unfold State.putBytes; rw [ih]; simp
@[simp] theorem State.putBytes_ring (s : State) (sp a : Nat) (l : List Nat) : (s.putBytes sp a l).ring = s.ring := by
  induction l generalizing s a with
  | nil => rfl
  | cons b t ih => unfold State.putBytes; rw [ih]; simp
@[simp] theorem State.putBytes_twin (s : State) (sp a : Nat) (l : List Nat) : (s.putBytes sp a l).twin = s.twin := by
  induction l generalizing s a with
  | nil => rfl
  | cons b t ih => unfold State.putBytes; rw [ih]; simp
@[simp] theorem State.putBytes_free (s : State) (sp a : Nat) (l : List Nat) : (s.putBytes sp a l).free = s.free := by
  induction l generalizing s a with
  | nil => rfl
  | cons b t ih => unfold State.putBytes; rw [ih]; simp
@[simp] theorem State.putBytes_out (s : State) (sp a : Nat) (l : List Nat) : (s.putBytes sp a l).out = s.out := by
  induction l generalizing s a with
  | nil => rfl
  | cons b t ih => unfold State.putBytes; rw [ih]; simp
@[simp] theorem State.putBytes_pending (s : State) (sp a : Nat) (l : List Nat) : (s.putBytes sp a l).pending = s.pending := by
  induction l generalizing s a with
  | nil => rfl
  | cons b t ih => unfold State.putBytes; rw [ih]; simp

@[simp] theorem State.putMem32_regs (s : State) (sp a v : Nat) : (s.putMem32 sp a v).regs = s.regs := State.putBytes_regs s _ _ _
@[simp] theorem State.putMem32_log (s : State) (sp a v : Nat) : (s.putMem32 sp a v).log = s.log := State.putBytes_log s _ _ _
@[simp] theorem State.putMem32_tb (s : State) (sp a v : Nat) : (s.putMem32 sp a v).tb = s.tb := State.putBytes_tb s _ _ _
@[simp] theorem State.putMem32_dev (s : State) (sp a v : Nat) : (s.putMem32 sp a v).dev = s.dev := State.putBytes_dev s _ _ _
@[simp] theorem State.putMem32_cmt (s : State) (sp a v : Nat) : (s.putMem32 sp a v).cmt = s.cmt := State.putBytes_cmt s _ _ _
@[simp] theorem State.putMem32_wins (s : State) (sp a v : Nat) : (s.putMem32 sp a v).wins = s.wins := State.putBytes_wins s _ _ _
@[simp] theorem State.putMem32_dct (s : State) (sp a v : Nat) : (s.putMem32 sp a v).dct = s.dct := State.putBytes_dct s _ _ _
@[simp] theorem State.putMem32_serifs (s : State) (sp a v : Nat) : (s.putMem32 sp a v).serifs = s.serifs := State.putBytes_serifs s _ _ _
@[simp] theorem State.putMem32_dispIn (s : State) (sp a v : Nat) : (s.putMem32 sp a v).dispIn = s.dispIn := State.putBytes_dispIn s _ _ _
@[simp] theorem State.putMem32_blt (s : State) (sp a v : Nat) : (s.putMem32 sp a v).blt = s.blt := State.putBytes_blt s _ _ _
@[simp] theorem State.putMem32_spr (s : State) (sp a v : Nat) : (s.putMem32 sp a v).spr = s.spr := State.putBytes_spr s _ _ _
@[simp] theorem State.putMem32_pwr (s : State) (sp a v : Nat) : (s.putMem32 sp a v).pwr = s.pwr := State.putBytes_pwr s _ _ _
@[simp] theorem State.putMem32_bus (s : State) (sp a v : Nat) : (s.putMem32 sp a v).bus = s.bus := State.putBytes_bus s _ _ _
@[simp] theorem State.putMem32_gens (s : State) (sp a v : Nat) : (s.putMem32 sp a v).gens = s.gens := State.putBytes_gens s _ _ _
@[simp] theorem State.putMem32_queues (s : State) (sp a v : Nat) : (s.putMem32 sp a v).queues = s.queues := State.putBytes_queues s _ _ _
@[simp] theorem State.putMem32_modeIn (s : State) (sp a v : Nat) : (s.putMem32 sp a v).modeIn = s.modeIn := State.putBytes_modeIn s _ _ _
@[simp] theorem State.putMem32_idxN (s : State) (sp a v : Nat) : (s.putMem32 sp a v).idxN = s.idxN := State.putBytes_idxN s _ _ _
@[simp] theorem State.putMem32_rul (s : State) (sp a v : Nat) : (s.putMem32 sp a v).rul = s.rul := State.putBytes_rul s _ _ _
@[simp] theorem State.putMem32_mgn (s : State) (sp a v : Nat) : (s.putMem32 sp a v).mgn = s.mgn := State.putBytes_mgn s _ _ _
@[simp] theorem State.putMem32_lanes (s : State) (sp a v : Nat) : (s.putMem32 sp a v).lanes = s.lanes := State.putBytes_lanes s _ _ _
@[simp] theorem State.putMem32_ink (s : State) (sp a v : Nat) : (s.putMem32 sp a v).ink = s.ink := State.putBytes_ink s _ _ _
@[simp] theorem State.putMem32_delta (s : State) (sp a v : Nat) : (s.putMem32 sp a v).delta = s.delta := State.putBytes_delta s _ _ _
@[simp] theorem State.putMem32_fbs (s : State) (sp a v : Nat) : (s.putMem32 sp a v).fbs = s.fbs := State.putBytes_fbs s _ _ _
@[simp] theorem State.putMem32_pbs (s : State) (sp a v : Nat) : (s.putMem32 sp a v).pbs = s.pbs := State.putBytes_pbs s _ _ _
@[simp] theorem State.putMem32_sds (s : State) (sp a v : Nat) : (s.putMem32 sp a v).sds = s.sds := State.putBytes_sds s _ _ _
@[simp] theorem State.putMem32_app (s : State) (sp a v : Nat) : (s.putMem32 sp a v).app = s.app := State.putBytes_app s _ _ _
@[simp] theorem State.putMem32_chans (s : State) (sp a v : Nat) : (s.putMem32 sp a v).chans = s.chans := State.putBytes_chans s _ _ _
@[simp] theorem State.putMem32_ring (s : State) (sp a v : Nat) : (s.putMem32 sp a v).ring = s.ring := State.putBytes_ring s _ _ _
@[simp] theorem State.putMem32_twin (s : State) (sp a v : Nat) : (s.putMem32 sp a v).twin = s.twin := State.putBytes_twin s _ _ _
@[simp] theorem State.putMem32_free (s : State) (sp a v : Nat) : (s.putMem32 sp a v).free = s.free := State.putBytes_free s _ _ _
@[simp] theorem State.putMem32_out (s : State) (sp a v : Nat) : (s.putMem32 sp a v).out = s.out := State.putBytes_out s _ _ _
@[simp] theorem State.putMem32_pending (s : State) (sp a v : Nat) : (s.putMem32 sp a v).pending = s.pending := State.putBytes_pending s _ _ _

@[simp] theorem State.enqueueEntry_mem (s : State) (e : BltEntry) : (s.enqueueEntry e).mem = s.mem := by unfold State.enqueueEntry; dsimp only; split <;> simp
@[simp] theorem State.enqueueEntry_log (s : State) (e : BltEntry) : (s.enqueueEntry e).log = s.log := by unfold State.enqueueEntry; dsimp only; split <;> simp
@[simp] theorem State.enqueueEntry_tb (s : State) (e : BltEntry) : (s.enqueueEntry e).tb = s.tb := by unfold State.enqueueEntry; dsimp only; split <;> simp
@[simp] theorem State.enqueueEntry_dev (s : State) (e : BltEntry) : (s.enqueueEntry e).dev = s.dev := by unfold State.enqueueEntry; dsimp only; split <;> simp
@[simp] theorem State.enqueueEntry_cmt (s : State) (e : BltEntry) : (s.enqueueEntry e).cmt = s.cmt := by unfold State.enqueueEntry; dsimp only; split <;> simp
@[simp] theorem State.enqueueEntry_wins (s : State) (e : BltEntry) : (s.enqueueEntry e).wins = s.wins := by unfold State.enqueueEntry; dsimp only; split <;> simp
@[simp] theorem State.enqueueEntry_dct (s : State) (e : BltEntry) : (s.enqueueEntry e).dct = s.dct := by unfold State.enqueueEntry; dsimp only; split <;> simp
@[simp] theorem State.enqueueEntry_serifs (s : State) (e : BltEntry) : (s.enqueueEntry e).serifs = s.serifs := by unfold State.enqueueEntry; dsimp only; split <;> simp
@[simp] theorem State.enqueueEntry_dispIn (s : State) (e : BltEntry) : (s.enqueueEntry e).dispIn = s.dispIn := by unfold State.enqueueEntry; dsimp only; split <;> simp
@[simp] theorem State.enqueueEntry_spr (s : State) (e : BltEntry) : (s.enqueueEntry e).spr = s.spr := by unfold State.enqueueEntry; dsimp only; split <;> simp
@[simp] theorem State.enqueueEntry_pwr (s : State) (e : BltEntry) : (s.enqueueEntry e).pwr = s.pwr := by unfold State.enqueueEntry; dsimp only; split <;> simp
@[simp] theorem State.enqueueEntry_bus (s : State) (e : BltEntry) : (s.enqueueEntry e).bus = s.bus := by unfold State.enqueueEntry; dsimp only; split <;> simp
@[simp] theorem State.enqueueEntry_gens (s : State) (e : BltEntry) : (s.enqueueEntry e).gens = s.gens := by unfold State.enqueueEntry; dsimp only; split <;> simp
@[simp] theorem State.enqueueEntry_queues (s : State) (e : BltEntry) : (s.enqueueEntry e).queues = s.queues := by unfold State.enqueueEntry; dsimp only; split <;> simp
@[simp] theorem State.enqueueEntry_modeIn (s : State) (e : BltEntry) : (s.enqueueEntry e).modeIn = s.modeIn := by unfold State.enqueueEntry; dsimp only; split <;> simp
@[simp] theorem State.enqueueEntry_idxN (s : State) (e : BltEntry) : (s.enqueueEntry e).idxN = s.idxN := by unfold State.enqueueEntry; dsimp only; split <;> simp
@[simp] theorem State.enqueueEntry_rul (s : State) (e : BltEntry) : (s.enqueueEntry e).rul = s.rul := by unfold State.enqueueEntry; dsimp only; split <;> simp
@[simp] theorem State.enqueueEntry_mgn (s : State) (e : BltEntry) : (s.enqueueEntry e).mgn = s.mgn := by unfold State.enqueueEntry; dsimp only; split <;> simp
@[simp] theorem State.enqueueEntry_lanes (s : State) (e : BltEntry) : (s.enqueueEntry e).lanes = s.lanes := by unfold State.enqueueEntry; dsimp only; split <;> simp
@[simp] theorem State.enqueueEntry_ink (s : State) (e : BltEntry) : (s.enqueueEntry e).ink = s.ink := by unfold State.enqueueEntry; dsimp only; split <;> simp
@[simp] theorem State.enqueueEntry_delta (s : State) (e : BltEntry) : (s.enqueueEntry e).delta = s.delta := by unfold State.enqueueEntry; dsimp only; split <;> simp
@[simp] theorem State.enqueueEntry_fbs (s : State) (e : BltEntry) : (s.enqueueEntry e).fbs = s.fbs := by unfold State.enqueueEntry; dsimp only; split <;> simp
@[simp] theorem State.enqueueEntry_pbs (s : State) (e : BltEntry) : (s.enqueueEntry e).pbs = s.pbs := by unfold State.enqueueEntry; dsimp only; split <;> simp
@[simp] theorem State.enqueueEntry_sds (s : State) (e : BltEntry) : (s.enqueueEntry e).sds = s.sds := by unfold State.enqueueEntry; dsimp only; split <;> simp
@[simp] theorem State.enqueueEntry_app (s : State) (e : BltEntry) : (s.enqueueEntry e).app = s.app := by unfold State.enqueueEntry; dsimp only; split <;> simp
@[simp] theorem State.enqueueEntry_chans (s : State) (e : BltEntry) : (s.enqueueEntry e).chans = s.chans := by unfold State.enqueueEntry; dsimp only; split <;> simp
@[simp] theorem State.enqueueEntry_ring (s : State) (e : BltEntry) : (s.enqueueEntry e).ring = s.ring := by unfold State.enqueueEntry; dsimp only; split <;> simp
@[simp] theorem State.enqueueEntry_twin (s : State) (e : BltEntry) : (s.enqueueEntry e).twin = s.twin := by unfold State.enqueueEntry; dsimp only; split <;> simp
@[simp] theorem State.enqueueEntry_free (s : State) (e : BltEntry) : (s.enqueueEntry e).free = s.free := by unfold State.enqueueEntry; dsimp only; split <;> simp
@[simp] theorem State.enqueueEntry_out (s : State) (e : BltEntry) : (s.enqueueEntry e).out = s.out := by unfold State.enqueueEntry; dsimp only; split <;> simp
@[simp] theorem State.enqueueEntry_pending (s : State) (e : BltEntry) : (s.enqueueEntry e).pending = s.pending := by unfold State.enqueueEntry; dsimp only; split <;> simp

@[simp] theorem State.offer_mem (s : State) (e : BltEntry) : (s.offer e).mem = s.mem := by
  unfold State.offer; dsimp only; repeat' split
  all_goals simp
@[simp] theorem State.offer_tb (s : State) (e : BltEntry) : (s.offer e).tb = s.tb := by
  unfold State.offer; dsimp only; repeat' split
  all_goals simp
@[simp] theorem State.offer_dev (s : State) (e : BltEntry) : (s.offer e).dev = s.dev := by
  unfold State.offer; dsimp only; repeat' split
  all_goals simp
@[simp] theorem State.offer_cmt (s : State) (e : BltEntry) : (s.offer e).cmt = s.cmt := by
  unfold State.offer; dsimp only; repeat' split
  all_goals simp
@[simp] theorem State.offer_wins (s : State) (e : BltEntry) : (s.offer e).wins = s.wins := by
  unfold State.offer; dsimp only; repeat' split
  all_goals simp
@[simp] theorem State.offer_dct (s : State) (e : BltEntry) : (s.offer e).dct = s.dct := by
  unfold State.offer; dsimp only; repeat' split
  all_goals simp
@[simp] theorem State.offer_serifs (s : State) (e : BltEntry) : (s.offer e).serifs = s.serifs := by
  unfold State.offer; dsimp only; repeat' split
  all_goals simp
@[simp] theorem State.offer_dispIn (s : State) (e : BltEntry) : (s.offer e).dispIn = s.dispIn := by
  unfold State.offer; dsimp only; repeat' split
  all_goals simp
@[simp] theorem State.offer_spr (s : State) (e : BltEntry) : (s.offer e).spr = s.spr := by
  unfold State.offer; dsimp only; repeat' split
  all_goals simp
@[simp] theorem State.offer_pwr (s : State) (e : BltEntry) : (s.offer e).pwr = s.pwr := by
  unfold State.offer; dsimp only; repeat' split
  all_goals simp
@[simp] theorem State.offer_bus (s : State) (e : BltEntry) : (s.offer e).bus = s.bus := by
  unfold State.offer; dsimp only; repeat' split
  all_goals simp
@[simp] theorem State.offer_gens (s : State) (e : BltEntry) : (s.offer e).gens = s.gens := by
  unfold State.offer; dsimp only; repeat' split
  all_goals simp
@[simp] theorem State.offer_queues (s : State) (e : BltEntry) : (s.offer e).queues = s.queues := by
  unfold State.offer; dsimp only; repeat' split
  all_goals simp
@[simp] theorem State.offer_modeIn (s : State) (e : BltEntry) : (s.offer e).modeIn = s.modeIn := by
  unfold State.offer; dsimp only; repeat' split
  all_goals simp
@[simp] theorem State.offer_idxN (s : State) (e : BltEntry) : (s.offer e).idxN = s.idxN := by
  unfold State.offer; dsimp only; repeat' split
  all_goals simp
@[simp] theorem State.offer_rul (s : State) (e : BltEntry) : (s.offer e).rul = s.rul := by
  unfold State.offer; dsimp only; repeat' split
  all_goals simp
@[simp] theorem State.offer_mgn (s : State) (e : BltEntry) : (s.offer e).mgn = s.mgn := by
  unfold State.offer; dsimp only; repeat' split
  all_goals simp
@[simp] theorem State.offer_lanes (s : State) (e : BltEntry) : (s.offer e).lanes = s.lanes := by
  unfold State.offer; dsimp only; repeat' split
  all_goals simp
@[simp] theorem State.offer_ink (s : State) (e : BltEntry) : (s.offer e).ink = s.ink := by
  unfold State.offer; dsimp only; repeat' split
  all_goals simp
@[simp] theorem State.offer_delta (s : State) (e : BltEntry) : (s.offer e).delta = s.delta := by
  unfold State.offer; dsimp only; repeat' split
  all_goals simp
@[simp] theorem State.offer_fbs (s : State) (e : BltEntry) : (s.offer e).fbs = s.fbs := by
  unfold State.offer; dsimp only; repeat' split
  all_goals simp
@[simp] theorem State.offer_pbs (s : State) (e : BltEntry) : (s.offer e).pbs = s.pbs := by
  unfold State.offer; dsimp only; repeat' split
  all_goals simp
@[simp] theorem State.offer_sds (s : State) (e : BltEntry) : (s.offer e).sds = s.sds := by
  unfold State.offer; dsimp only; repeat' split
  all_goals simp
@[simp] theorem State.offer_app (s : State) (e : BltEntry) : (s.offer e).app = s.app := by
  unfold State.offer; dsimp only; repeat' split
  all_goals simp
@[simp] theorem State.offer_chans (s : State) (e : BltEntry) : (s.offer e).chans = s.chans := by
  unfold State.offer; dsimp only; repeat' split
  all_goals simp
@[simp] theorem State.offer_ring (s : State) (e : BltEntry) : (s.offer e).ring = s.ring := by
  unfold State.offer; dsimp only; repeat' split
  all_goals simp
@[simp] theorem State.offer_twin (s : State) (e : BltEntry) : (s.offer e).twin = s.twin := by
  unfold State.offer; dsimp only; repeat' split
  all_goals simp
@[simp] theorem State.offer_free (s : State) (e : BltEntry) : (s.offer e).free = s.free := by
  unfold State.offer; dsimp only; repeat' split
  all_goals simp
@[simp] theorem State.offer_out (s : State) (e : BltEntry) : (s.offer e).out = s.out := by
  unfold State.offer; dsimp only; repeat' split
  all_goals simp
@[simp] theorem State.offer_pending (s : State) (e : BltEntry) : (s.offer e).pending = s.pending := by
  unfold State.offer; dsimp only; repeat' split
  all_goals simp

@[simp] theorem State.mergeOut_mem (s : State) (b : MergeBody) : (s.mergeOut b).mem = s.mem := by unfold State.mergeOut; split <;> simp
@[simp] theorem State.mergeOut_tb (s : State) (b : MergeBody) : (s.mergeOut b).tb = s.tb := by unfold State.mergeOut; split <;> simp
@[simp] theorem State.mergeOut_dev (s : State) (b : MergeBody) : (s.mergeOut b).dev = s.dev := by unfold State.mergeOut; split <;> simp
@[simp] theorem State.mergeOut_cmt (s : State) (b : MergeBody) : (s.mergeOut b).cmt = s.cmt := by unfold State.mergeOut; split <;> simp
@[simp] theorem State.mergeOut_wins (s : State) (b : MergeBody) : (s.mergeOut b).wins = s.wins := by unfold State.mergeOut; split <;> simp
@[simp] theorem State.mergeOut_dct (s : State) (b : MergeBody) : (s.mergeOut b).dct = s.dct := by unfold State.mergeOut; split <;> simp
@[simp] theorem State.mergeOut_serifs (s : State) (b : MergeBody) : (s.mergeOut b).serifs = s.serifs := by unfold State.mergeOut; split <;> simp
@[simp] theorem State.mergeOut_dispIn (s : State) (b : MergeBody) : (s.mergeOut b).dispIn = s.dispIn := by unfold State.mergeOut; split <;> simp
@[simp] theorem State.mergeOut_spr (s : State) (b : MergeBody) : (s.mergeOut b).spr = s.spr := by unfold State.mergeOut; split <;> simp
@[simp] theorem State.mergeOut_pwr (s : State) (b : MergeBody) : (s.mergeOut b).pwr = s.pwr := by unfold State.mergeOut; split <;> simp
@[simp] theorem State.mergeOut_bus (s : State) (b : MergeBody) : (s.mergeOut b).bus = s.bus := by unfold State.mergeOut; split <;> simp
@[simp] theorem State.mergeOut_gens (s : State) (b : MergeBody) : (s.mergeOut b).gens = s.gens := by unfold State.mergeOut; split <;> simp
@[simp] theorem State.mergeOut_queues (s : State) (b : MergeBody) : (s.mergeOut b).queues = s.queues := by unfold State.mergeOut; split <;> simp
@[simp] theorem State.mergeOut_modeIn (s : State) (b : MergeBody) : (s.mergeOut b).modeIn = s.modeIn := by unfold State.mergeOut; split <;> simp
@[simp] theorem State.mergeOut_idxN (s : State) (b : MergeBody) : (s.mergeOut b).idxN = s.idxN := by unfold State.mergeOut; split <;> simp
@[simp] theorem State.mergeOut_rul (s : State) (b : MergeBody) : (s.mergeOut b).rul = s.rul := by unfold State.mergeOut; split <;> simp
@[simp] theorem State.mergeOut_mgn (s : State) (b : MergeBody) : (s.mergeOut b).mgn = s.mgn := by unfold State.mergeOut; split <;> simp
@[simp] theorem State.mergeOut_lanes (s : State) (b : MergeBody) : (s.mergeOut b).lanes = s.lanes := by unfold State.mergeOut; split <;> simp
@[simp] theorem State.mergeOut_ink (s : State) (b : MergeBody) : (s.mergeOut b).ink = s.ink := by unfold State.mergeOut; split <;> simp
@[simp] theorem State.mergeOut_delta (s : State) (b : MergeBody) : (s.mergeOut b).delta = s.delta := by unfold State.mergeOut; split <;> simp
@[simp] theorem State.mergeOut_fbs (s : State) (b : MergeBody) : (s.mergeOut b).fbs = s.fbs := by unfold State.mergeOut; split <;> simp
@[simp] theorem State.mergeOut_pbs (s : State) (b : MergeBody) : (s.mergeOut b).pbs = s.pbs := by unfold State.mergeOut; split <;> simp
@[simp] theorem State.mergeOut_sds (s : State) (b : MergeBody) : (s.mergeOut b).sds = s.sds := by unfold State.mergeOut; split <;> simp
@[simp] theorem State.mergeOut_app (s : State) (b : MergeBody) : (s.mergeOut b).app = s.app := by unfold State.mergeOut; split <;> simp
@[simp] theorem State.mergeOut_chans (s : State) (b : MergeBody) : (s.mergeOut b).chans = s.chans := by unfold State.mergeOut; split <;> simp
@[simp] theorem State.mergeOut_ring (s : State) (b : MergeBody) : (s.mergeOut b).ring = s.ring := by unfold State.mergeOut; split <;> simp
@[simp] theorem State.mergeOut_twin (s : State) (b : MergeBody) : (s.mergeOut b).twin = s.twin := by unfold State.mergeOut; split <;> simp
@[simp] theorem State.mergeOut_free (s : State) (b : MergeBody) : (s.mergeOut b).free = s.free := by unfold State.mergeOut; split <;> simp
@[simp] theorem State.mergeOut_pending (s : State) (b : MergeBody) : (s.mergeOut b).pending = s.pending := by unfold State.mergeOut; split <;> simp

@[simp] theorem State.journalAs_mem (s : State) (c k : Nat) (f : Bool) (u t w d n : Nat) : (s.journalAs c k f u t w d n).mem = s.mem := by unfold State.journalAs; dsimp only; split <;> simp
@[simp] theorem State.journalAs_tb (s : State) (c k : Nat) (f : Bool) (u t w d n : Nat) : (s.journalAs c k f u t w d n).tb = s.tb := by unfold State.journalAs; dsimp only; split <;> simp
@[simp] theorem State.journalAs_dev (s : State) (c k : Nat) (f : Bool) (u t w d n : Nat) : (s.journalAs c k f u t w d n).dev = s.dev := by unfold State.journalAs; dsimp only; split <;> simp
@[simp] theorem State.journalAs_cmt (s : State) (c k : Nat) (f : Bool) (u t w d n : Nat) : (s.journalAs c k f u t w d n).cmt = s.cmt := by unfold State.journalAs; dsimp only; split <;> simp
@[simp] theorem State.journalAs_wins (s : State) (c k : Nat) (f : Bool) (u t w d n : Nat) : (s.journalAs c k f u t w d n).wins = s.wins := by unfold State.journalAs; dsimp only; split <;> simp
@[simp] theorem State.journalAs_dct (s : State) (c k : Nat) (f : Bool) (u t w d n : Nat) : (s.journalAs c k f u t w d n).dct = s.dct := by unfold State.journalAs; dsimp only; split <;> simp
@[simp] theorem State.journalAs_serifs (s : State) (c k : Nat) (f : Bool) (u t w d n : Nat) : (s.journalAs c k f u t w d n).serifs = s.serifs := by unfold State.journalAs; dsimp only; split <;> simp
@[simp] theorem State.journalAs_dispIn (s : State) (c k : Nat) (f : Bool) (u t w d n : Nat) : (s.journalAs c k f u t w d n).dispIn = s.dispIn := by unfold State.journalAs; dsimp only; split <;> simp
@[simp] theorem State.journalAs_spr (s : State) (c k : Nat) (f : Bool) (u t w d n : Nat) : (s.journalAs c k f u t w d n).spr = s.spr := by unfold State.journalAs; dsimp only; split <;> simp
@[simp] theorem State.journalAs_pwr (s : State) (c k : Nat) (f : Bool) (u t w d n : Nat) : (s.journalAs c k f u t w d n).pwr = s.pwr := by unfold State.journalAs; dsimp only; split <;> simp
@[simp] theorem State.journalAs_bus (s : State) (c k : Nat) (f : Bool) (u t w d n : Nat) : (s.journalAs c k f u t w d n).bus = s.bus := by unfold State.journalAs; dsimp only; split <;> simp
@[simp] theorem State.journalAs_gens (s : State) (c k : Nat) (f : Bool) (u t w d n : Nat) : (s.journalAs c k f u t w d n).gens = s.gens := by unfold State.journalAs; dsimp only; split <;> simp
@[simp] theorem State.journalAs_queues (s : State) (c k : Nat) (f : Bool) (u t w d n : Nat) : (s.journalAs c k f u t w d n).queues = s.queues := by unfold State.journalAs; dsimp only; split <;> simp
@[simp] theorem State.journalAs_modeIn (s : State) (c k : Nat) (f : Bool) (u t w d n : Nat) : (s.journalAs c k f u t w d n).modeIn = s.modeIn := by unfold State.journalAs; dsimp only; split <;> simp
@[simp] theorem State.journalAs_idxN (s : State) (c k : Nat) (f : Bool) (u t w d n : Nat) : (s.journalAs c k f u t w d n).idxN = s.idxN := by unfold State.journalAs; dsimp only; split <;> simp
@[simp] theorem State.journalAs_rul (s : State) (c k : Nat) (f : Bool) (u t w d n : Nat) : (s.journalAs c k f u t w d n).rul = s.rul := by unfold State.journalAs; dsimp only; split <;> simp
@[simp] theorem State.journalAs_mgn (s : State) (c k : Nat) (f : Bool) (u t w d n : Nat) : (s.journalAs c k f u t w d n).mgn = s.mgn := by unfold State.journalAs; dsimp only; split <;> simp
@[simp] theorem State.journalAs_lanes (s : State) (c k : Nat) (f : Bool) (u t w d n : Nat) : (s.journalAs c k f u t w d n).lanes = s.lanes := by unfold State.journalAs; dsimp only; split <;> simp
@[simp] theorem State.journalAs_ink (s : State) (c k : Nat) (f : Bool) (u t w d n : Nat) : (s.journalAs c k f u t w d n).ink = s.ink := by unfold State.journalAs; dsimp only; split <;> simp
@[simp] theorem State.journalAs_delta (s : State) (c k : Nat) (f : Bool) (u t w d n : Nat) : (s.journalAs c k f u t w d n).delta = s.delta := by unfold State.journalAs; dsimp only; split <;> simp
@[simp] theorem State.journalAs_fbs (s : State) (c k : Nat) (f : Bool) (u t w d n : Nat) : (s.journalAs c k f u t w d n).fbs = s.fbs := by unfold State.journalAs; dsimp only; split <;> simp
@[simp] theorem State.journalAs_pbs (s : State) (c k : Nat) (f : Bool) (u t w d n : Nat) : (s.journalAs c k f u t w d n).pbs = s.pbs := by unfold State.journalAs; dsimp only; split <;> simp
@[simp] theorem State.journalAs_sds (s : State) (c k : Nat) (f : Bool) (u t w d n : Nat) : (s.journalAs c k f u t w d n).sds = s.sds := by unfold State.journalAs; dsimp only; split <;> simp
@[simp] theorem State.journalAs_app (s : State) (c k : Nat) (f : Bool) (u t w d n : Nat) : (s.journalAs c k f u t w d n).app = s.app := by unfold State.journalAs; dsimp only; split <;> simp
@[simp] theorem State.journalAs_chans (s : State) (c k : Nat) (f : Bool) (u t w d n : Nat) : (s.journalAs c k f u t w d n).chans = s.chans := by unfold State.journalAs; dsimp only; split <;> simp
@[simp] theorem State.journalAs_ring (s : State) (c k : Nat) (f : Bool) (u t w d n : Nat) : (s.journalAs c k f u t w d n).ring = s.ring := by unfold State.journalAs; dsimp only; split <;> simp
@[simp] theorem State.journalAs_twin (s : State) (c k : Nat) (f : Bool) (u t w d n : Nat) : (s.journalAs c k f u t w d n).twin = s.twin := by unfold State.journalAs; dsimp only; split <;> simp
@[simp] theorem State.journalAs_free (s : State) (c k : Nat) (f : Bool) (u t w d n : Nat) : (s.journalAs c k f u t w d n).free = s.free := by unfold State.journalAs; dsimp only; split <;> simp
@[simp] theorem State.journalAs_out (s : State) (c k : Nat) (f : Bool) (u t w d n : Nat) : (s.journalAs c k f u t w d n).out = s.out := by unfold State.journalAs; dsimp only; split <;> simp
@[simp] theorem State.journalAs_pending (s : State) (c k : Nat) (f : Bool) (u t w d n : Nat) : (s.journalAs c k f u t w d n).pending = s.pending := by unfold State.journalAs; dsimp only; split <;> simp

@[simp] theorem State.journalBy_mem (s : State) (n c k : Nat) (f : Bool) (u : Nat) : (s.journalBy n c k f u).mem = s.mem := State.journalAs_mem s _ _ _ _ _ _ _ _
@[simp] theorem State.journalBy_tb (s : State) (n c k : Nat) (f : Bool) (u : Nat) : (s.journalBy n c k f u).tb = s.tb := State.journalAs_tb s _ _ _ _ _ _ _ _
@[simp] theorem State.journalBy_dev (s : State) (n c k : Nat) (f : Bool) (u : Nat) : (s.journalBy n c k f u).dev = s.dev := State.journalAs_dev s _ _ _ _ _ _ _ _
@[simp] theorem State.journalBy_cmt (s : State) (n c k : Nat) (f : Bool) (u : Nat) : (s.journalBy n c k f u).cmt = s.cmt := State.journalAs_cmt s _ _ _ _ _ _ _ _
@[simp] theorem State.journalBy_wins (s : State) (n c k : Nat) (f : Bool) (u : Nat) : (s.journalBy n c k f u).wins = s.wins := State.journalAs_wins s _ _ _ _ _ _ _ _
@[simp] theorem State.journalBy_dct (s : State) (n c k : Nat) (f : Bool) (u : Nat) : (s.journalBy n c k f u).dct = s.dct := State.journalAs_dct s _ _ _ _ _ _ _ _
@[simp] theorem State.journalBy_serifs (s : State) (n c k : Nat) (f : Bool) (u : Nat) : (s.journalBy n c k f u).serifs = s.serifs := State.journalAs_serifs s _ _ _ _ _ _ _ _
@[simp] theorem State.journalBy_dispIn (s : State) (n c k : Nat) (f : Bool) (u : Nat) : (s.journalBy n c k f u).dispIn = s.dispIn := State.journalAs_dispIn s _ _ _ _ _ _ _ _
@[simp] theorem State.journalBy_spr (s : State) (n c k : Nat) (f : Bool) (u : Nat) : (s.journalBy n c k f u).spr = s.spr := State.journalAs_spr s _ _ _ _ _ _ _ _
@[simp] theorem State.journalBy_pwr (s : State) (n c k : Nat) (f : Bool) (u : Nat) : (s.journalBy n c k f u).pwr = s.pwr := State.journalAs_pwr s _ _ _ _ _ _ _ _
@[simp] theorem State.journalBy_bus (s : State) (n c k : Nat) (f : Bool) (u : Nat) : (s.journalBy n c k f u).bus = s.bus := State.journalAs_bus s _ _ _ _ _ _ _ _
@[simp] theorem State.journalBy_gens (s : State) (n c k : Nat) (f : Bool) (u : Nat) : (s.journalBy n c k f u).gens = s.gens := State.journalAs_gens s _ _ _ _ _ _ _ _
@[simp] theorem State.journalBy_queues (s : State) (n c k : Nat) (f : Bool) (u : Nat) : (s.journalBy n c k f u).queues = s.queues := State.journalAs_queues s _ _ _ _ _ _ _ _
@[simp] theorem State.journalBy_modeIn (s : State) (n c k : Nat) (f : Bool) (u : Nat) : (s.journalBy n c k f u).modeIn = s.modeIn := State.journalAs_modeIn s _ _ _ _ _ _ _ _
@[simp] theorem State.journalBy_idxN (s : State) (n c k : Nat) (f : Bool) (u : Nat) : (s.journalBy n c k f u).idxN = s.idxN := State.journalAs_idxN s _ _ _ _ _ _ _ _
@[simp] theorem State.journalBy_rul (s : State) (n c k : Nat) (f : Bool) (u : Nat) : (s.journalBy n c k f u).rul = s.rul := State.journalAs_rul s _ _ _ _ _ _ _ _
@[simp] theorem State.journalBy_mgn (s : State) (n c k : Nat) (f : Bool) (u : Nat) : (s.journalBy n c k f u).mgn = s.mgn := State.journalAs_mgn s _ _ _ _ _ _ _ _
@[simp] theorem State.journalBy_lanes (s : State) (n c k : Nat) (f : Bool) (u : Nat) : (s.journalBy n c k f u).lanes = s.lanes := State.journalAs_lanes s _ _ _ _ _ _ _ _
@[simp] theorem State.journalBy_ink (s : State) (n c k : Nat) (f : Bool) (u : Nat) : (s.journalBy n c k f u).ink = s.ink := State.journalAs_ink s _ _ _ _ _ _ _ _
@[simp] theorem State.journalBy_delta (s : State) (n c k : Nat) (f : Bool) (u : Nat) : (s.journalBy n c k f u).delta = s.delta := State.journalAs_delta s _ _ _ _ _ _ _ _
@[simp] theorem State.journalBy_fbs (s : State) (n c k : Nat) (f : Bool) (u : Nat) : (s.journalBy n c k f u).fbs = s.fbs := State.journalAs_fbs s _ _ _ _ _ _ _ _
@[simp] theorem State.journalBy_pbs (s : State) (n c k : Nat) (f : Bool) (u : Nat) : (s.journalBy n c k f u).pbs = s.pbs := State.journalAs_pbs s _ _ _ _ _ _ _ _
@[simp] theorem State.journalBy_sds (s : State) (n c k : Nat) (f : Bool) (u : Nat) : (s.journalBy n c k f u).sds = s.sds := State.journalAs_sds s _ _ _ _ _ _ _ _
@[simp] theorem State.journalBy_app (s : State) (n c k : Nat) (f : Bool) (u : Nat) : (s.journalBy n c k f u).app = s.app := State.journalAs_app s _ _ _ _ _ _ _ _
@[simp] theorem State.journalBy_chans (s : State) (n c k : Nat) (f : Bool) (u : Nat) : (s.journalBy n c k f u).chans = s.chans := State.journalAs_chans s _ _ _ _ _ _ _ _
@[simp] theorem State.journalBy_ring (s : State) (n c k : Nat) (f : Bool) (u : Nat) : (s.journalBy n c k f u).ring = s.ring := State.journalAs_ring s _ _ _ _ _ _ _ _
@[simp] theorem State.journalBy_twin (s : State) (n c k : Nat) (f : Bool) (u : Nat) : (s.journalBy n c k f u).twin = s.twin := State.journalAs_twin s _ _ _ _ _ _ _ _
@[simp] theorem State.journalBy_free (s : State) (n c k : Nat) (f : Bool) (u : Nat) : (s.journalBy n c k f u).free = s.free := State.journalAs_free s _ _ _ _ _ _ _ _
@[simp] theorem State.journalBy_out (s : State) (n c k : Nat) (f : Bool) (u : Nat) : (s.journalBy n c k f u).out = s.out := State.journalAs_out s _ _ _ _ _ _ _ _
@[simp] theorem State.journalBy_pending (s : State) (n c k : Nat) (f : Bool) (u : Nat) : (s.journalBy n c k f u).pending = s.pending := State.journalAs_pending s _ _ _ _ _ _ _ _

@[simp] theorem State.journal_mem (s : State) (c k : Nat) (f : Bool) (u : Nat) : (s.journal c k f u).mem = s.mem := State.journalBy_mem s _ _ _ _ _
@[simp] theorem State.journal_tb (s : State) (c k : Nat) (f : Bool) (u : Nat) : (s.journal c k f u).tb = s.tb := State.journalBy_tb s _ _ _ _ _
@[simp] theorem State.journal_dev (s : State) (c k : Nat) (f : Bool) (u : Nat) : (s.journal c k f u).dev = s.dev := State.journalBy_dev s _ _ _ _ _
@[simp] theorem State.journal_cmt (s : State) (c k : Nat) (f : Bool) (u : Nat) : (s.journal c k f u).cmt = s.cmt := State.journalBy_cmt s _ _ _ _ _
@[simp] theorem State.journal_wins (s : State) (c k : Nat) (f : Bool) (u : Nat) : (s.journal c k f u).wins = s.wins := State.journalBy_wins s _ _ _ _ _
@[simp] theorem State.journal_dct (s : State) (c k : Nat) (f : Bool) (u : Nat) : (s.journal c k f u).dct = s.dct := State.journalBy_dct s _ _ _ _ _
@[simp] theorem State.journal_serifs (s : State) (c k : Nat) (f : Bool) (u : Nat) : (s.journal c k f u).serifs = s.serifs := State.journalBy_serifs s _ _ _ _ _
@[simp] theorem State.journal_dispIn (s : State) (c k : Nat) (f : Bool) (u : Nat) : (s.journal c k f u).dispIn = s.dispIn := State.journalBy_dispIn s _ _ _ _ _
@[simp] theorem State.journal_spr (s : State) (c k : Nat) (f : Bool) (u : Nat) : (s.journal c k f u).spr = s.spr := State.journalBy_spr s _ _ _ _ _
@[simp] theorem State.journal_pwr (s : State) (c k : Nat) (f : Bool) (u : Nat) : (s.journal c k f u).pwr = s.pwr := State.journalBy_pwr s _ _ _ _ _
@[simp] theorem State.journal_bus (s : State) (c k : Nat) (f : Bool) (u : Nat) : (s.journal c k f u).bus = s.bus := State.journalBy_bus s _ _ _ _ _
@[simp] theorem State.journal_gens (s : State) (c k : Nat) (f : Bool) (u : Nat) : (s.journal c k f u).gens = s.gens := State.journalBy_gens s _ _ _ _ _
@[simp] theorem State.journal_queues (s : State) (c k : Nat) (f : Bool) (u : Nat) : (s.journal c k f u).queues = s.queues := State.journalBy_queues s _ _ _ _ _
@[simp] theorem State.journal_modeIn (s : State) (c k : Nat) (f : Bool) (u : Nat) : (s.journal c k f u).modeIn = s.modeIn := State.journalBy_modeIn s _ _ _ _ _
@[simp] theorem State.journal_idxN (s : State) (c k : Nat) (f : Bool) (u : Nat) : (s.journal c k f u).idxN = s.idxN := State.journalBy_idxN s _ _ _ _ _
@[simp] theorem State.journal_rul (s : State) (c k : Nat) (f : Bool) (u : Nat) : (s.journal c k f u).rul = s.rul := State.journalBy_rul s _ _ _ _ _
@[simp] theorem State.journal_mgn (s : State) (c k : Nat) (f : Bool) (u : Nat) : (s.journal c k f u).mgn = s.mgn := State.journalBy_mgn s _ _ _ _ _
@[simp] theorem State.journal_lanes (s : State) (c k : Nat) (f : Bool) (u : Nat) : (s.journal c k f u).lanes = s.lanes := State.journalBy_lanes s _ _ _ _ _
@[simp] theorem State.journal_ink (s : State) (c k : Nat) (f : Bool) (u : Nat) : (s.journal c k f u).ink = s.ink := State.journalBy_ink s _ _ _ _ _
@[simp] theorem State.journal_delta (s : State) (c k : Nat) (f : Bool) (u : Nat) : (s.journal c k f u).delta = s.delta := State.journalBy_delta s _ _ _ _ _
@[simp] theorem State.journal_fbs (s : State) (c k : Nat) (f : Bool) (u : Nat) : (s.journal c k f u).fbs = s.fbs := State.journalBy_fbs s _ _ _ _ _
@[simp] theorem State.journal_pbs (s : State) (c k : Nat) (f : Bool) (u : Nat) : (s.journal c k f u).pbs = s.pbs := State.journalBy_pbs s _ _ _ _ _
@[simp] theorem State.journal_sds (s : State) (c k : Nat) (f : Bool) (u : Nat) : (s.journal c k f u).sds = s.sds := State.journalBy_sds s _ _ _ _ _
@[simp] theorem State.journal_app (s : State) (c k : Nat) (f : Bool) (u : Nat) : (s.journal c k f u).app = s.app := State.journalBy_app s _ _ _ _ _
@[simp] theorem State.journal_chans (s : State) (c k : Nat) (f : Bool) (u : Nat) : (s.journal c k f u).chans = s.chans := State.journalBy_chans s _ _ _ _ _
@[simp] theorem State.journal_ring (s : State) (c k : Nat) (f : Bool) (u : Nat) : (s.journal c k f u).ring = s.ring := State.journalBy_ring s _ _ _ _ _
@[simp] theorem State.journal_twin (s : State) (c k : Nat) (f : Bool) (u : Nat) : (s.journal c k f u).twin = s.twin := State.journalBy_twin s _ _ _ _ _
@[simp] theorem State.journal_free (s : State) (c k : Nat) (f : Bool) (u : Nat) : (s.journal c k f u).free = s.free := State.journalBy_free s _ _ _ _ _
@[simp] theorem State.journal_out (s : State) (c k : Nat) (f : Bool) (u : Nat) : (s.journal c k f u).out = s.out := State.journalBy_out s _ _ _ _ _
@[simp] theorem State.journal_pending (s : State) (c k : Nat) (f : Bool) (u : Nat) : (s.journal c k f u).pending = s.pending := State.journalBy_pending s _ _ _ _ _

@[simp] theorem State.runTests_mem (s : State) : (s.runTests).mem = s.mem := by unfold State.runTests; simp
@[simp] theorem State.runTests_log (s : State) : (s.runTests).log = s.log := by unfold State.runTests; simp
@[simp] theorem State.runTests_tb (s : State) : (s.runTests).tb = s.tb := by unfold State.runTests; simp
@[simp] theorem State.runTests_dev (s : State) : (s.runTests).dev = s.dev := by unfold State.runTests; simp
@[simp] theorem State.runTests_cmt (s : State) : (s.runTests).cmt = s.cmt := by unfold State.runTests; simp
@[simp] theorem State.runTests_wins (s : State) : (s.runTests).wins = s.wins := by unfold State.runTests; simp
@[simp] theorem State.runTests_dct (s : State) : (s.runTests).dct = s.dct := by unfold State.runTests; simp
@[simp] theorem State.runTests_serifs (s : State) : (s.runTests).serifs = s.serifs := by unfold State.runTests; simp
@[simp] theorem State.runTests_dispIn (s : State) : (s.runTests).dispIn = s.dispIn := by unfold State.runTests; simp
@[simp] theorem State.runTests_blt (s : State) : (s.runTests).blt = s.blt := by unfold State.runTests; simp
@[simp] theorem State.runTests_pwr (s : State) : (s.runTests).pwr = s.pwr := by unfold State.runTests; simp
@[simp] theorem State.runTests_bus (s : State) : (s.runTests).bus = s.bus := by unfold State.runTests; simp
@[simp] theorem State.runTests_gens (s : State) : (s.runTests).gens = s.gens := by unfold State.runTests; simp
@[simp] theorem State.runTests_queues (s : State) : (s.runTests).queues = s.queues := by unfold State.runTests; simp
@[simp] theorem State.runTests_modeIn (s : State) : (s.runTests).modeIn = s.modeIn := by unfold State.runTests; simp
@[simp] theorem State.runTests_idxN (s : State) : (s.runTests).idxN = s.idxN := by unfold State.runTests; simp
@[simp] theorem State.runTests_rul (s : State) : (s.runTests).rul = s.rul := by unfold State.runTests; simp
@[simp] theorem State.runTests_mgn (s : State) : (s.runTests).mgn = s.mgn := by unfold State.runTests; simp
@[simp] theorem State.runTests_lanes (s : State) : (s.runTests).lanes = s.lanes := by unfold State.runTests; simp
@[simp] theorem State.runTests_ink (s : State) : (s.runTests).ink = s.ink := by unfold State.runTests; simp
@[simp] theorem State.runTests_delta (s : State) : (s.runTests).delta = s.delta := by unfold State.runTests; simp
@[simp] theorem State.runTests_fbs (s : State) : (s.runTests).fbs = s.fbs := by unfold State.runTests; simp
@[simp] theorem State.runTests_pbs (s : State) : (s.runTests).pbs = s.pbs := by unfold State.runTests; simp
@[simp] theorem State.runTests_sds (s : State) : (s.runTests).sds = s.sds := by unfold State.runTests; simp
@[simp] theorem State.runTests_app (s : State) : (s.runTests).app = s.app := by unfold State.runTests; simp
@[simp] theorem State.runTests_chans (s : State) : (s.runTests).chans = s.chans := by unfold State.runTests; simp
@[simp] theorem State.runTests_ring (s : State) : (s.runTests).ring = s.ring := by unfold State.runTests; simp
@[simp] theorem State.runTests_twin (s : State) : (s.runTests).twin = s.twin := by unfold State.runTests; simp
@[simp] theorem State.runTests_free (s : State) : (s.runTests).free = s.free := by unfold State.runTests; simp
@[simp] theorem State.runTests_out (s : State) : (s.runTests).out = s.out := by unfold State.runTests; simp
@[simp] theorem State.runTests_pending (s : State) : (s.runTests).pending = s.pending := by unfold State.runTests; simp

@[simp] theorem State.unitError_mem (s : State) (u r : Nat) : (s.unitError u r).mem = s.mem := by unfold State.unitError; split <;> simp
@[simp] theorem State.unitError_log (s : State) (u r : Nat) : (s.unitError u r).log = s.log := by unfold State.unitError; split <;> simp
@[simp] theorem State.unitError_tb (s : State) (u r : Nat) : (s.unitError u r).tb = s.tb := by unfold State.unitError; split <;> simp
@[simp] theorem State.unitError_dev (s : State) (u r : Nat) : (s.unitError u r).dev = s.dev := by unfold State.unitError; split <;> simp
@[simp] theorem State.unitError_cmt (s : State) (u r : Nat) : (s.unitError u r).cmt = s.cmt := by unfold State.unitError; split <;> simp
@[simp] theorem State.unitError_wins (s : State) (u r : Nat) : (s.unitError u r).wins = s.wins := by unfold State.unitError; split <;> simp
@[simp] theorem State.unitError_dct (s : State) (u r : Nat) : (s.unitError u r).dct = s.dct := by unfold State.unitError; split <;> simp
@[simp] theorem State.unitError_serifs (s : State) (u r : Nat) : (s.unitError u r).serifs = s.serifs := by unfold State.unitError; split <;> simp
@[simp] theorem State.unitError_dispIn (s : State) (u r : Nat) : (s.unitError u r).dispIn = s.dispIn := by unfold State.unitError; split <;> simp
@[simp] theorem State.unitError_blt (s : State) (u r : Nat) : (s.unitError u r).blt = s.blt := by unfold State.unitError; split <;> simp
@[simp] theorem State.unitError_pwr (s : State) (u r : Nat) : (s.unitError u r).pwr = s.pwr := by unfold State.unitError; split <;> simp
@[simp] theorem State.unitError_bus (s : State) (u r : Nat) : (s.unitError u r).bus = s.bus := by unfold State.unitError; split <;> simp
@[simp] theorem State.unitError_gens (s : State) (u r : Nat) : (s.unitError u r).gens = s.gens := by unfold State.unitError; split <;> simp
@[simp] theorem State.unitError_queues (s : State) (u r : Nat) : (s.unitError u r).queues = s.queues := by unfold State.unitError; split <;> simp
@[simp] theorem State.unitError_modeIn (s : State) (u r : Nat) : (s.unitError u r).modeIn = s.modeIn := by unfold State.unitError; split <;> simp
@[simp] theorem State.unitError_idxN (s : State) (u r : Nat) : (s.unitError u r).idxN = s.idxN := by unfold State.unitError; split <;> simp
@[simp] theorem State.unitError_rul (s : State) (u r : Nat) : (s.unitError u r).rul = s.rul := by unfold State.unitError; split <;> simp
@[simp] theorem State.unitError_mgn (s : State) (u r : Nat) : (s.unitError u r).mgn = s.mgn := by unfold State.unitError; split <;> simp
@[simp] theorem State.unitError_lanes (s : State) (u r : Nat) : (s.unitError u r).lanes = s.lanes := by unfold State.unitError; split <;> simp
@[simp] theorem State.unitError_ink (s : State) (u r : Nat) : (s.unitError u r).ink = s.ink := by unfold State.unitError; split <;> simp
@[simp] theorem State.unitError_delta (s : State) (u r : Nat) : (s.unitError u r).delta = s.delta := by unfold State.unitError; split <;> simp
@[simp] theorem State.unitError_fbs (s : State) (u r : Nat) : (s.unitError u r).fbs = s.fbs := by unfold State.unitError; split <;> simp
@[simp] theorem State.unitError_pbs (s : State) (u r : Nat) : (s.unitError u r).pbs = s.pbs := by unfold State.unitError; split <;> simp
@[simp] theorem State.unitError_sds (s : State) (u r : Nat) : (s.unitError u r).sds = s.sds := by unfold State.unitError; split <;> simp
@[simp] theorem State.unitError_app (s : State) (u r : Nat) : (s.unitError u r).app = s.app := by unfold State.unitError; split <;> simp
@[simp] theorem State.unitError_chans (s : State) (u r : Nat) : (s.unitError u r).chans = s.chans := by unfold State.unitError; split <;> simp
@[simp] theorem State.unitError_ring (s : State) (u r : Nat) : (s.unitError u r).ring = s.ring := by unfold State.unitError; split <;> simp
@[simp] theorem State.unitError_twin (s : State) (u r : Nat) : (s.unitError u r).twin = s.twin := by unfold State.unitError; split <;> simp
@[simp] theorem State.unitError_free (s : State) (u r : Nat) : (s.unitError u r).free = s.free := by unfold State.unitError; split <;> simp
@[simp] theorem State.unitError_out (s : State) (u r : Nat) : (s.unitError u r).out = s.out := by unfold State.unitError; split <;> simp
@[simp] theorem State.unitError_pending (s : State) (u r : Nat) : (s.unitError u r).pending = s.pending := by unfold State.unitError; split <;> simp

@[simp] theorem State.twinSend_regs (s : State) (t : Nat) (w : List Nat) : (s.twinSend t w).regs = s.regs := by unfold State.twinSend; split <;> simp
@[simp] theorem State.twinSend_mem (s : State) (t : Nat) (w : List Nat) : (s.twinSend t w).mem = s.mem := by unfold State.twinSend; split <;> simp
@[simp] theorem State.twinSend_log (s : State) (t : Nat) (w : List Nat) : (s.twinSend t w).log = s.log := by unfold State.twinSend; split <;> simp
@[simp] theorem State.twinSend_tb (s : State) (t : Nat) (w : List Nat) : (s.twinSend t w).tb = s.tb := by unfold State.twinSend; split <;> simp
@[simp] theorem State.twinSend_dev (s : State) (t : Nat) (w : List Nat) : (s.twinSend t w).dev = s.dev := by unfold State.twinSend; split <;> simp
@[simp] theorem State.twinSend_cmt (s : State) (t : Nat) (w : List Nat) : (s.twinSend t w).cmt = s.cmt := by unfold State.twinSend; split <;> simp
@[simp] theorem State.twinSend_wins (s : State) (t : Nat) (w : List Nat) : (s.twinSend t w).wins = s.wins := by unfold State.twinSend; split <;> simp
@[simp] theorem State.twinSend_dct (s : State) (t : Nat) (w : List Nat) : (s.twinSend t w).dct = s.dct := by unfold State.twinSend; split <;> simp
@[simp] theorem State.twinSend_serifs (s : State) (t : Nat) (w : List Nat) : (s.twinSend t w).serifs = s.serifs := by unfold State.twinSend; split <;> simp
@[simp] theorem State.twinSend_dispIn (s : State) (t : Nat) (w : List Nat) : (s.twinSend t w).dispIn = s.dispIn := by unfold State.twinSend; split <;> simp
@[simp] theorem State.twinSend_blt (s : State) (t : Nat) (w : List Nat) : (s.twinSend t w).blt = s.blt := by unfold State.twinSend; split <;> simp
@[simp] theorem State.twinSend_spr (s : State) (t : Nat) (w : List Nat) : (s.twinSend t w).spr = s.spr := by unfold State.twinSend; split <;> simp
@[simp] theorem State.twinSend_pwr (s : State) (t : Nat) (w : List Nat) : (s.twinSend t w).pwr = s.pwr := by unfold State.twinSend; split <;> simp
@[simp] theorem State.twinSend_bus (s : State) (t : Nat) (w : List Nat) : (s.twinSend t w).bus = s.bus := by unfold State.twinSend; split <;> simp
@[simp] theorem State.twinSend_gens (s : State) (t : Nat) (w : List Nat) : (s.twinSend t w).gens = s.gens := by unfold State.twinSend; split <;> simp
@[simp] theorem State.twinSend_queues (s : State) (t : Nat) (w : List Nat) : (s.twinSend t w).queues = s.queues := by unfold State.twinSend; split <;> simp
@[simp] theorem State.twinSend_modeIn (s : State) (t : Nat) (w : List Nat) : (s.twinSend t w).modeIn = s.modeIn := by unfold State.twinSend; split <;> simp
@[simp] theorem State.twinSend_idxN (s : State) (t : Nat) (w : List Nat) : (s.twinSend t w).idxN = s.idxN := by unfold State.twinSend; split <;> simp
@[simp] theorem State.twinSend_rul (s : State) (t : Nat) (w : List Nat) : (s.twinSend t w).rul = s.rul := by unfold State.twinSend; split <;> simp
@[simp] theorem State.twinSend_mgn (s : State) (t : Nat) (w : List Nat) : (s.twinSend t w).mgn = s.mgn := by unfold State.twinSend; split <;> simp
@[simp] theorem State.twinSend_lanes (s : State) (t : Nat) (w : List Nat) : (s.twinSend t w).lanes = s.lanes := by unfold State.twinSend; split <;> simp
@[simp] theorem State.twinSend_ink (s : State) (t : Nat) (w : List Nat) : (s.twinSend t w).ink = s.ink := by unfold State.twinSend; split <;> simp
@[simp] theorem State.twinSend_delta (s : State) (t : Nat) (w : List Nat) : (s.twinSend t w).delta = s.delta := by unfold State.twinSend; split <;> simp
@[simp] theorem State.twinSend_fbs (s : State) (t : Nat) (w : List Nat) : (s.twinSend t w).fbs = s.fbs := by unfold State.twinSend; split <;> simp
@[simp] theorem State.twinSend_pbs (s : State) (t : Nat) (w : List Nat) : (s.twinSend t w).pbs = s.pbs := by unfold State.twinSend; split <;> simp
@[simp] theorem State.twinSend_sds (s : State) (t : Nat) (w : List Nat) : (s.twinSend t w).sds = s.sds := by unfold State.twinSend; split <;> simp
@[simp] theorem State.twinSend_app (s : State) (t : Nat) (w : List Nat) : (s.twinSend t w).app = s.app := by unfold State.twinSend; split <;> simp
@[simp] theorem State.twinSend_chans (s : State) (t : Nat) (w : List Nat) : (s.twinSend t w).chans = s.chans := by unfold State.twinSend; split <;> simp
@[simp] theorem State.twinSend_ring (s : State) (t : Nat) (w : List Nat) : (s.twinSend t w).ring = s.ring := by unfold State.twinSend; split <;> simp
@[simp] theorem State.twinSend_free (s : State) (t : Nat) (w : List Nat) : (s.twinSend t w).free = s.free := by unfold State.twinSend; split <;> simp
@[simp] theorem State.twinSend_pending (s : State) (t : Nat) (w : List Nat) : (s.twinSend t w).pending = s.pending := by unfold State.twinSend; split <;> simp

@[simp] theorem State.mirror_regs (s : State) (t k : Nat) (w : List Nat) : (s.mirror t k w).regs = s.regs := by unfold State.mirror; split <;> simp
@[simp] theorem State.mirror_mem (s : State) (t k : Nat) (w : List Nat) : (s.mirror t k w).mem = s.mem := by unfold State.mirror; split <;> simp
@[simp] theorem State.mirror_log (s : State) (t k : Nat) (w : List Nat) : (s.mirror t k w).log = s.log := by unfold State.mirror; split <;> simp
@[simp] theorem State.mirror_tb (s : State) (t k : Nat) (w : List Nat) : (s.mirror t k w).tb = s.tb := by unfold State.mirror; split <;> simp
@[simp] theorem State.mirror_dev (s : State) (t k : Nat) (w : List Nat) : (s.mirror t k w).dev = s.dev := by unfold State.mirror; split <;> simp
@[simp] theorem State.mirror_cmt (s : State) (t k : Nat) (w : List Nat) : (s.mirror t k w).cmt = s.cmt := by unfold State.mirror; split <;> simp
@[simp] theorem State.mirror_wins (s : State) (t k : Nat) (w : List Nat) : (s.mirror t k w).wins = s.wins := by unfold State.mirror; split <;> simp
@[simp] theorem State.mirror_dct (s : State) (t k : Nat) (w : List Nat) : (s.mirror t k w).dct = s.dct := by unfold State.mirror; split <;> simp
@[simp] theorem State.mirror_serifs (s : State) (t k : Nat) (w : List Nat) : (s.mirror t k w).serifs = s.serifs := by unfold State.mirror; split <;> simp
@[simp] theorem State.mirror_dispIn (s : State) (t k : Nat) (w : List Nat) : (s.mirror t k w).dispIn = s.dispIn := by unfold State.mirror; split <;> simp
@[simp] theorem State.mirror_blt (s : State) (t k : Nat) (w : List Nat) : (s.mirror t k w).blt = s.blt := by unfold State.mirror; split <;> simp
@[simp] theorem State.mirror_spr (s : State) (t k : Nat) (w : List Nat) : (s.mirror t k w).spr = s.spr := by unfold State.mirror; split <;> simp
@[simp] theorem State.mirror_pwr (s : State) (t k : Nat) (w : List Nat) : (s.mirror t k w).pwr = s.pwr := by unfold State.mirror; split <;> simp
@[simp] theorem State.mirror_bus (s : State) (t k : Nat) (w : List Nat) : (s.mirror t k w).bus = s.bus := by unfold State.mirror; split <;> simp
@[simp] theorem State.mirror_gens (s : State) (t k : Nat) (w : List Nat) : (s.mirror t k w).gens = s.gens := by unfold State.mirror; split <;> simp
@[simp] theorem State.mirror_queues (s : State) (t k : Nat) (w : List Nat) : (s.mirror t k w).queues = s.queues := by unfold State.mirror; split <;> simp
@[simp] theorem State.mirror_modeIn (s : State) (t k : Nat) (w : List Nat) : (s.mirror t k w).modeIn = s.modeIn := by unfold State.mirror; split <;> simp
@[simp] theorem State.mirror_idxN (s : State) (t k : Nat) (w : List Nat) : (s.mirror t k w).idxN = s.idxN := by unfold State.mirror; split <;> simp
@[simp] theorem State.mirror_rul (s : State) (t k : Nat) (w : List Nat) : (s.mirror t k w).rul = s.rul := by unfold State.mirror; split <;> simp
@[simp] theorem State.mirror_mgn (s : State) (t k : Nat) (w : List Nat) : (s.mirror t k w).mgn = s.mgn := by unfold State.mirror; split <;> simp
@[simp] theorem State.mirror_lanes (s : State) (t k : Nat) (w : List Nat) : (s.mirror t k w).lanes = s.lanes := by unfold State.mirror; split <;> simp
@[simp] theorem State.mirror_ink (s : State) (t k : Nat) (w : List Nat) : (s.mirror t k w).ink = s.ink := by unfold State.mirror; split <;> simp
@[simp] theorem State.mirror_delta (s : State) (t k : Nat) (w : List Nat) : (s.mirror t k w).delta = s.delta := by unfold State.mirror; split <;> simp
@[simp] theorem State.mirror_fbs (s : State) (t k : Nat) (w : List Nat) : (s.mirror t k w).fbs = s.fbs := by unfold State.mirror; split <;> simp
@[simp] theorem State.mirror_pbs (s : State) (t k : Nat) (w : List Nat) : (s.mirror t k w).pbs = s.pbs := by unfold State.mirror; split <;> simp
@[simp] theorem State.mirror_sds (s : State) (t k : Nat) (w : List Nat) : (s.mirror t k w).sds = s.sds := by unfold State.mirror; split <;> simp
@[simp] theorem State.mirror_app (s : State) (t k : Nat) (w : List Nat) : (s.mirror t k w).app = s.app := by unfold State.mirror; split <;> simp
@[simp] theorem State.mirror_chans (s : State) (t k : Nat) (w : List Nat) : (s.mirror t k w).chans = s.chans := by unfold State.mirror; split <;> simp
@[simp] theorem State.mirror_ring (s : State) (t k : Nat) (w : List Nat) : (s.mirror t k w).ring = s.ring := by unfold State.mirror; split <;> simp
@[simp] theorem State.mirror_free (s : State) (t k : Nat) (w : List Nat) : (s.mirror t k w).free = s.free := by unfold State.mirror; split <;> simp
@[simp] theorem State.mirror_pending (s : State) (t k : Nat) (w : List Nat) : (s.mirror t k w).pending = s.pending := by unfold State.mirror; split <;> simp

end Sys2Proof.Machine
end

