-- ==== Sys2Proof/Laws/Regs.lean ====
section
/-! SUPPORT. Laws of register words and fields: a field read after it is written gives the value written, and a write leaves every other field alone. -/

namespace Sys2Proof

theorem bits_lt (w hi lo : Nat) : bits w hi lo < p2 (hi + 1 - lo) := Nat.mod_lt _ (Nat.two_pow_pos _)

/-- The bits of a word as Boolean tests. -/
theorem testBit_bits (w hi lo i : Nat) : (bits w hi lo).testBit i = (decide (i < hi + 1 - lo) && w.testBit (lo + i)) := by
  unfold bits p2
  rw [Nat.testBit_mod_two_pow, Nat.testBit_div_two_pow, Nat.add_comm i lo]

/-- A word is the part above a field, the field, and the part below it. -/
theorem setBits_eq (w hi lo v : Nat) (h : lo ≤ hi + 1) :
    setBits w hi lo v = w / p2 (hi + 1) * p2 (hi + 1) + ((v % p2 (hi + 1 - lo)) * p2 lo + w % p2 lo) := by
  unfold setBits bits
  have e : p2 (hi + 1) = p2 lo * p2 (hi + 1 - lo) := by unfold p2; rw [← pow_add]; congr 1; omega
  have h1 : w = p2 lo * (w / p2 lo) + w % p2 lo := (Nat.div_add_mod w (p2 lo)).symm
  have h2 : w / p2 lo = p2 (hi + 1 - lo) * (w / p2 lo / p2 (hi + 1 - lo)) + w / p2 lo % p2 (hi + 1 - lo) :=
    (Nat.div_add_mod _ _).symm
  have h3 : w / p2 (hi + 1) = w / p2 lo / p2 (hi + 1 - lo) := by rw [e, Nat.div_div_eq_div_mul]
  rw [h3, e]
  generalize w / p2 lo / p2 (hi + 1 - lo) = q at *
  generalize w / p2 lo % p2 (hi + 1 - lo) = r at *
  generalize w % p2 lo = m at *
  rw [h2] at h1
  have h4 : w = q * (p2 lo * p2 (hi + 1 - lo)) + r * p2 lo + m := by rw [h1]; ring
  rw [h4]
  have : q * (p2 lo * p2 (hi + 1 - lo)) + r * p2 lo + m - r * p2 lo = q * (p2 lo * p2 (hi + 1 - lo)) + m := by omega
  rw [this]; ring

/-- The field that was set. -/
theorem bits_setBits_same (w hi lo v : Nat) (h : lo ≤ hi + 1) : bits (setBits w hi lo v) hi lo = v % p2 (hi + 1 - lo) := by
  rw [setBits_eq w hi lo v h]
  unfold bits
  have e : p2 (hi + 1) = p2 (hi + 1 - lo) * p2 lo := by unfold p2; rw [← pow_add]; congr 1; omega
  have hp : 0 < p2 lo := Nat.two_pow_pos _
  have hm : w % p2 lo < p2 lo := Nat.mod_lt _ hp
  have : (w / p2 (hi + 1) * p2 (hi + 1) + ((v % p2 (hi + 1 - lo)) * p2 lo + w % p2 lo)) / p2 lo =
      w / p2 (hi + 1) * p2 (hi + 1 - lo) + v % p2 (hi + 1 - lo) := by
    rw [e]
    generalize w / (p2 (hi + 1 - lo) * p2 lo) = q
    generalize v % p2 (hi + 1 - lo) = r
    have : q * (p2 (hi + 1 - lo) * p2 lo) + (r * p2 lo + w % p2 lo) = w % p2 lo + p2 lo * (q * p2 (hi + 1 - lo) + r) := by ring
    rw [this, Nat.add_mul_div_left _ _ hp, Nat.div_eq_of_lt hm, zero_add]
  rw [this, Nat.mul_add_mod', Nat.mod_mod]

/-- A field above or below the one that was set. -/
theorem bits_setBits_apart (w hi lo v hi' lo' : Nat) (h : lo ≤ hi + 1) (a : hi < lo' ∨ hi' < lo) :
    bits (setBits w hi lo v) hi' lo' = bits w hi' lo' := by
  have tb : ∀ i, (i < lo ∨ hi < i) → (setBits w hi lo v).testBit i = w.testBit i := by
    intro i hi_
    rw [setBits_eq w hi lo v h]
    have low : (v % p2 (hi + 1 - lo)) * p2 lo + w % p2 lo < p2 (hi + 1) := by
      have e : p2 (hi + 1) = p2 (hi + 1 - lo) * p2 lo := by unfold p2; rw [← pow_add]; congr 1; omega
      have h1 : v % p2 (hi + 1 - lo) < p2 (hi + 1 - lo) := Nat.mod_lt _ (Nat.two_pow_pos _)
      have h2 : w % p2 lo < p2 lo := Nat.mod_lt _ (Nat.two_pow_pos _)
      rw [e]
      calc _ < (v % p2 (hi + 1 - lo)) * p2 lo + p2 lo := by omega
        _ = (v % p2 (hi + 1 - lo) + 1) * p2 lo := by ring
        _ ≤ _ := Nat.mul_le_mul_right _ h1
    rcases hi_ with hlo | hhi
    · have hh : i < hi + 1 := by omega
      rw [mul_comm, Nat.testBit_two_pow_mul_add _ low, if_pos hh]
      have h2 : w % p2 lo < p2 lo := Nat.mod_lt _ (Nat.two_pow_pos _)
      rw [mul_comm, Nat.testBit_two_pow_mul_add _ h2, if_pos hlo, Nat.testBit_mod_two_pow]
      simp [hlo]
    · have hh : ¬ i < hi + 1 := by omega
      rw [mul_comm, Nat.testBit_two_pow_mul_add _ low, if_neg hh, Nat.testBit_div_two_pow]
      congr 1; omega
  apply Nat.eq_of_testBit_eq
  intro i
  rw [testBit_bits, testBit_bits]
  by_cases hb : i < hi' + 1 - lo'
  · rw [tb]
    omega
  · simp [hb]

namespace Machine

/-- A stored word after it is replaced. -/
theorem raw_putRaw_same (s : State) (a v : Nat) : (s.putRaw a v).raw a = v := by
  unfold State.raw State.putRaw
  exact tget_tput_same _ _ _ _

/-- The other stored words. -/
theorem raw_putRaw_other (s : State) {a b : Nat} (v : Nat) (h : b ≠ a) : (s.putRaw a v).raw b = s.raw b := by
  unfold State.raw State.putRaw
  exact tget_tput_other _ _ _ _ h

/-- A word that is not triplicated. -/
theorem rdw_plain (s : State) {a : Nat} (h : isTmr a = false) : s.rdw a = s.raw a := by
  unfold State.rdw
  rw [h]
  rfl

/-- A field read after hardware wrote it. -/
theorem rd_wr_same (s : State) (f : Fld) (v : Nat) (h : isTmr f.addr = false) (o : f.lo ≤ f.hi + 1) :
    (s.wr f v).rd f = v % p2 (f.hi + 1 - f.lo) := by
  unfold State.rd State.wr
  rw [rdw_plain _ h, raw_putRaw_same, bits_setBits_same _ _ _ _ o]

/-- A field of another register. -/
theorem rd_wr_other (s : State) (f g : Fld) (v : Nat) (h : g.addr ≠ f.addr) (k : f.addr < barSize) :
    (s.wr f v).rd g = s.rd g := by
  unfold State.rd State.wr State.rdw
  rw [raw_putRaw_other _ _ h, raw_putRaw_other _ _ (by omega), raw_putRaw_other _ _ (by omega)]

/-- Another field of the same register. -/
theorem rd_wr_apart (s : State) (f g : Fld) (v : Nat) (e : g.addr = f.addr) (h : isTmr f.addr = false) (o : f.lo ≤ f.hi + 1)
    (a : f.hi < g.lo ∨ g.hi < f.lo) : (s.wr f v).rd g = s.rd g := by
  unfold State.rd State.wr
  rw [e, rdw_plain _ h, rdw_plain _ h, raw_putRaw_same, bits_setBits_apart _ _ _ _ _ _ o a]

/-- A register word depends on the registers alone. -/
theorem raw_congr {s t : State} (h : t.regs = s.regs) (a : Nat) : t.raw a = s.raw a := by
  unfold State.raw
  rw [h]

theorem rdw_congr {s t : State} (h : t.regs = s.regs) (a : Nat) : t.rdw a = s.rdw a := by
  unfold State.rdw
  simp only [raw_congr h]

theorem rd_congr {s t : State} (h : t.regs = s.regs) (f : Fld) : t.rd f = s.rd f := by
  unfold State.rd
  rw [rdw_congr h]

/-- A field reads as before where its word and the copies of it do. -/
theorem rd_of_raw {s t : State} {f : Fld} (h : ∀ k, k ≤ 4 → t.raw (f.addr + k * barSize) = s.raw (f.addr + k * barSize)) :
    t.rd f = s.rd f := by
  have h0 := h 0 (by omega)
  have h2 := h 2 (by omega)
  have h4 := h 4 (by omega)
  simp only [Nat.zero_mul, Nat.add_zero] at h0
  unfold State.rd State.rdw
  rw [h0, h2, h4]

@[simp] theorem rd_emit (s : State) (o : Output) (f : Fld) : (s.emit o).rd f = s.rd f := rd_congr (State.emit_regs s o) f

/-- The words of the interrupt status and of the PBA, which a raised vector may write. -/
def intWord (b : Nat) : Bool := b == 0x300 || b == 0x304 || b == 0x1800 || b == 0x1804

theorem raw_wr_other (s : State) (f : Fld) {b : Nat} (v : Nat) (h : b ≠ f.addr) : (s.wr f v).raw b = s.raw b :=
  raw_putRaw_other s _ h

theorem raw_message (s : State) {v b : Nat} (hv : v < 64) (h : intWord b = false) : (s.message v).raw b = s.raw b := by
  simp only [intWord, Bool.or_eq_false_iff, beq_eq_false_iff_ne] at h
  unfold State.message
  split
  · exact raw_congr (State.emit_regs s _) b
  · refine raw_wr_other s _ _ ?_
    have : v / 32 = 0 ∨ v / 32 = 1 := by omega
    unfold pbaBit
    rcases this with e | e <;> simp only [e] <;> omega

/-- A vector whose record leaves the merge writes its status bit and its pending bit, and no other word. -/
theorem raw_intRise (s : State) {v b : Nat} (hv : v < 64) (h : intWord b = false) : (s.intRise v).raw b = s.raw b := by
  have h' := h
  simp only [intWord, Bool.or_eq_false_iff, beq_eq_false_iff_ne] at h'
  have a : b ≠ (intStat v).addr := by
    unfold intStat
    dsimp only
    split <;> omega
  unfold State.intRise
  split
  · exact raw_congr rfl b
  · dsimp only
    split
    · rw [raw_message _ hv h]
      exact raw_wr_other s _ _ a
    · exact raw_wr_other s _ _ a

/-- A raised vector writes no register: its record enters the merge (R88). -/
@[simp] theorem rd_raiseInt (s : State) (v : Nat) (x : Fld) : (s.raiseInt v).rd x = s.rd x := rd_congr (State.raiseInt_regs s v) x

/-- The flags of a register after hardware sets some of them. -/
theorem raw_setMask_same (s : State) (a m : Nat) : (s.setMask a m).raw a = s.raw a ||| m := by
  unfold State.setMask
  dsimp only
  repeat' split
  all_goals first
    | (rw [raw_congr (State.raiseInt_regs _ _)]; exact raw_putRaw_same _ _ _)
    | exact raw_putRaw_same _ _ _

theorem raw_setMask_other (s : State) {a b : Nat} (m : Nat) (n : b ≠ a) : (s.setMask a m).raw b = s.raw b := by
  unfold State.setMask
  dsimp only
  repeat' split
  all_goals first
    | (rw [raw_congr (State.raiseInt_regs _ _)]; exact raw_putRaw_other _ _ n)
    | exact raw_putRaw_other _ _ n

/-- A flag that hardware set reads 1. -/
theorem rd_flag_same (s : State) (f : Fld) (h : isTmr f.addr = false) (o : f.hi = f.lo) : (s.flag f).rd f = 1 := by
  unfold State.rd State.flag
  rw [rdw_plain _ h, raw_setMask_same]
  have m : f.mask = 2 ^ f.lo := by simp [Fld.mask, p2, o]
  rw [m, o]
  apply Nat.eq_of_testBit_eq
  intro j
  rw [testBit_bits, Nat.testBit_or, Nat.testBit_two_pow]
  have e : f.lo + 1 - f.lo = 1 := by omega
  rw [e]
  rcases j with _ | j <;> simp [Nat.testBit_succ]

/-- A flag leaves the fields of other registers alone. -/
theorem rd_flag_other (s : State) (f g : Fld) (n : g.addr ≠ f.addr) (k : f.addr < barSize) :
    (s.flag f).rd g = s.rd g := by
  apply rd_of_raw
  intro j _
  have hk : (g.addr + j * barSize) ≠ f.addr := by
    rcases j with _ | j
    · simpa using n
    · have : barSize ≤ (j + 1) * barSize := Nat.le_mul_of_pos_left _ (by omega)
      omega
  exact raw_setMask_other _ _ hk

/-- A flag leaves the other fields of its register alone. -/
theorem rd_flag_apart (s : State) (f g : Fld) (e : g.addr = f.addr) (h : isTmr f.addr = false)
    (o : f.hi = f.lo) (a : f.hi < g.lo ∨ g.hi < f.lo) : (s.flag f).rd g = s.rd g := by
  unfold State.rd State.flag
  rw [e, rdw_plain _ h, rdw_plain _ h, raw_setMask_same]
  have m : f.mask = 2 ^ f.lo := by simp [Fld.mask, p2, o]
  rw [m]
  apply Nat.eq_of_testBit_eq
  intro j
  rw [testBit_bits, testBit_bits, Nat.testBit_or, Nat.testBit_two_pow]
  by_cases hj : j < g.hi + 1 - g.lo
  · have : f.lo ≠ g.lo + j := by omega
    simp [this]
  · simp [hj]

/-- A count takes one event. -/
theorem rd_bump_same (s : State) (f g : Fld) (h : isTmr f.addr = false) (o : f.lo ≤ f.hi)
    (e : g.hi = g.lo) (a : g.addr ≠ f.addr ∨ f.hi < g.lo ∨ g.hi < f.lo) (k : g.addr < barSize) (hg : isTmr g.addr = false)
    (n : s.rd f < p2 (f.hi + 1 - f.lo) - 1) : (s.bump f g).rd f = s.rd f + 1 := by
  have hv : bits (s.raw f.addr) f.hi f.lo = s.rd f := by unfold State.rd; rw [rdw_plain _ h]
  have lift : ∀ t : State, t.regs = s.regs → (t.wr f (s.rd f + 1)).rd f = s.rd f + 1 := by
    intro t _
    rw [rd_wr_same _ _ _ h (by omega), Nat.mod_eq_of_lt (by omega)]
  unfold State.bump
  dsimp only
  rw [hv, if_neg (by omega)]
  split
  · rcases a with a | a
    · rw [rd_flag_other _ _ _ (Ne.symm a) k]
      exact lift _ rfl
    · by_cases ne : g.addr = f.addr
      · rw [rd_flag_apart _ _ _ ne.symm hg e (by omega)]
        exact lift _ rfl
      · rw [rd_flag_other _ _ _ (Ne.symm ne) k]
        exact lift _ rfl
  · exact lift _ rfl

/-- A count leaves the fields of other registers alone. -/
theorem rd_bump_other (s : State) (f g x : Fld) (hf : x.addr ≠ f.addr) (hg : x.addr ≠ g.addr) (kf : f.addr < barSize)
    (kg : g.addr < barSize) : (s.bump f g).rd x = s.rd x := by
  unfold State.bump
  dsimp only
  repeat' split
  · rw [rd_flag_other _ _ _ hg kg]
    exact rd_congr rfl x
  · exact rd_congr rfl x
  · rw [rd_flag_other _ _ _ hg kg, rd_wr_other _ _ _ _ hf kf]
    exact rd_congr rfl x
  · rw [rd_wr_other _ _ _ _ hf kf]
    exact rd_congr rfl x

/-- The journal writes the register that shows its queue and no other. -/
theorem rd_offer (s : State) (e : BltEntry) (x : Fld) (n : x.addr ≠ 0x740210) : (s.offer e).rd x = s.rd x := by
  have q : ∀ t : State, (t.showQueue).rd x = t.rd x := by
    intro t
    unfold State.showQueue
    rw [rd_wr_other _ _ _ _ n (by decide), rd_wr_other _ _ _ _ n (by decide)]
  have en : ∀ (t : State) (e : BltEntry), (t.enqueueEntry e).rd x = t.rd x := by
    intro t e
    unfold State.enqueueEntry
    dsimp only
    split
    · rw [rd_raiseInt, q]
      exact rd_congr rfl x
    · rw [q]
      exact rd_congr rfl x
  have b : ∀ t : State, (t.bump R.SCR_BLQ.DROPPED R.SCR_BLQ.OVF).rd x = t.rd x := by
    intro t
    exact rd_bump_other t _ _ _ n n (by decide) (by decide)
  unfold State.offer
  dsimp only
  repeat' split
  all_goals first
    | (rw [en, b]; exact rd_congr rfl x)
    | (rw [en])
    | (rw [b])
    | exact rd_congr rfl x

/-- An event that is journalled writes no other register: its record enters the merge (R88). -/
theorem rd_journal (s : State) (c k : Nat) (f : Bool) (u : Nat) (x : Fld) (n : x.addr ≠ 0x740210) :
    (s.journal c k f u).rd x = s.rd x := by
  unfold State.journal State.journalBy State.journalAs
  dsimp only
  split
  · exact rd_congr (State.toMerge_regs _ _ _ _ _) x
  · exact rd_offer s _ x n

/-- What leaves the merge writes the words of the vectors and the register that shows the queue, and no other. -/
theorem rd_mergeOut (s : State) (b : MergeBody) (x : Fld) (n : x.addr ≠ 0x740210) (hv : ∀ v, b = .int v → v < 64)
    (i : intWord x.addr = false) : (s.mergeOut b).rd x = s.rd x := by
  unfold State.mergeOut
  split
  · next v =>
    apply rd_of_raw
    intro j _
    apply raw_intRise _ (hv v rfl)
    rcases j with _ | j
    · simpa using i
    · have : barSize ≤ (j + 1) * barSize := Nat.le_mul_of_pos_left _ (by omega)
      have : 0x1805 ≤ barSize := by decide
      simp only [intWord, Bool.or_eq_false_iff, beq_eq_false_iff_ne]
      omega
  · exact rd_offer s _ x n

end Machine

end Sys2Proof
end

