-- ==== Sys2Proof/Tests/Slice0.lean ====
section
/-! SUPPORT. Tests: the states they start from, ill-formed commands that are refused, single steps checked against the spec's numbers, and a witness for the hypotheses of every statement. -/

namespace Sys2Proof

open Machine

set_option Elab.async false
set_option linter.unusedVariables false

/-- Fields set, in the shadow and in a second copy of a triplicated word as well. -/
def Machine.State.put (s : State) (l : List (Fld × Nat)) : State :=
  l.foldl (fun s x =>
    let s := s.wrBoth x.1 x.2
    if isTmr x.1.addr then s.wrBoth { x.1 with addr := x.1.addr + 2 * barSize } x.2 else s) s
/-- Out of reset, clocked, every domain and bank on, the host link up, in LISTEN. -/
def up : State :=
  State.put { State.reset with
    dev := { State.reset.dev with inReset := false, por := false }
    tb := { State.reset.tb with run := true }
    bus := { State.reset.bus with link := true } }
    [(R.PWR_DOM.ON, 16777215), (R.DEV_BANK.PG, 63), (R.MOD_STATE.MODE, 1)]
/-- The same in LEAD, with the rate groups in force. -/
def lead : State := State.put { up with dev := { up.dev with rgIn := true } } [(R.MOD_STATE.MODE, 2)]
/-- A ring frame of a type with a good header CRC. -/
def frameOfType (k : Nat) : List Nat :=
  let h := k :: 0 :: List.replicate 28 0
  h ++ leBytes 2 (crc16 h) ++ List.replicate 32 0
/-- A frame header with its claim, leader address and serial bytes. -/
def frameHdr (h : List Nat) : List Nat := h ++ leBytes 2 (crc16 h) ++ List.replicate 32 0
/-- A null frame of an originator with claim 7. -/
def nullClaimed : List Nat := frameHdr (2 :: (List.replicate 11 0 ++ [7] ++ List.replicate 17 0))
/-- A cold-start frame of address 5. -/
def coldFrame : List Nat := frameHdr (3 :: (List.replicate 13 0 ++ [5, 0] ++ List.replicate 14 0))
/-- Channel 1 ends at this node. -/
def node1 : State := State.put { lead with dev := { lead.dev with rgIn := true } } [(R.MOD_STATE.MODE, 4), (R.IKL_CFG.ROLE.i 1, 2), (R.IKL_CFG.ADDR.i 1, 5), (R.IKL_STAT.STATE.i 1, 1)]
/-- Channel 0 is led by this device. -/
def lead0 : State := State.put lead [(R.IKL_CFG.ROLE.i 0, 1), (R.IKL_STAT.STATE.i 0, 3)]
/-- The same, address 5 being named as cold-start capable. -/
def named1 : State := node1.putMem32 (schedSp 1) 0x18 5
/-- In LEAD, with one variable of a resolved-rate model to solve for. -/
def solver0 : State := (lead.putMem8 3 0x0C 1).putMem8 3 0x40000 1
/-- An empty problem whose solve is due at tick 1000; five substitutes in a row are allowed. -/
def prob0 : Problem :=
  ⟨0, 1000, [], [], [], [], [], [], [], 0, false, [], [], [], 0, false, true, [8, 0, 0, 0, 5, 0], ⟨3, 0, [63], true⟩, false⟩
/-- A standby in SHADOW with its twin link up. -/
def shadow0 : State := State.put lead [(R.MOD_STATE.MODE, 3), (R.TWN_CFG.EN, 1), (R.TWN_STAT.LINK_UP, 1)]
/-- The status of a peer. -/
def status0 : StatusMsg := ⟨true, 5, 2, 0, 7, 7, 0, 9, 0, 0, 0, 0⟩
/-- Core 1 runs its periodic task and stands before a word. -/
def coreAt (w : Nat) : State :=
  (up.putMem32 6 0x8000 w).putSerif 1 { up.serif 1 with task := 1, f := [(1, 0x3F800000), (2, 0x40000000)] }
/-- A board without flash. -/
def env0 : LoadEnv := ⟨noFlash, noFlash, none, none, .empty, .empty, true⟩
/-- The flash cells of a smallest valid image of a node in slot A: its header, and four empty sections with their digests; every other byte is as erased. -/
def img0 : List Host.Cell :=
  [(4294967296, 70), (4294967297, 76), (4294967298, 73), (4294967299, 79), (4294967300, 96), (4294967301, 113), (4294967302, 176), (4294967303, 3), (4294967304, 1), (4294967305, 0), (4294967306, 0), (4294967307, 0)] ++
  [(4294967308, 0), (4294967309, 16), (4294967310, 0), (4294967311, 0), (4294967312, 4), (4294967313, 0), (4294967314, 2), (4294967316, 1), (4294967317, 0), (4294967318, 0), (4294967319, 0), (4294967328, 1)] ++
  [(4294967332, 0), (4294967333, 16), (4294967334, 0), (4294967335, 0), (4294967336, 0), (4294967337, 0), (4294967338, 0), (4294967339, 0), (4294967340, 0), (4294967341, 0), (4294967342, 0), (4294967343, 0)] ++
  [(4294967344, 227), (4294967345, 176), (4294967346, 196), (4294967347, 66), (4294967348, 152), (4294967349, 252), (4294967350, 28), (4294967351, 20), (4294967352, 154), (4294967353, 251), (4294967354, 244), (4294967355, 200)] ++
  [(4294967356, 153), (4294967357, 111), (4294967358, 185), (4294967359, 36), (4294967360, 39), (4294967361, 174), (4294967362, 65), (4294967363, 228), (4294967364, 100), (4294967365, 155), (4294967366, 147), (4294967367, 76)] ++
  [(4294967368, 164), (4294967369, 149), (4294967370, 153), (4294967371, 27), (4294967372, 120), (4294967373, 82), (4294967374, 184), (4294967375, 85), (4294967376, 2), (4294967380, 0), (4294967381, 16), (4294967382, 0)] ++
  [(4294967383, 0), (4294967384, 0), (4294967385, 0), (4294967386, 0), (4294967387, 0), (4294967388, 0), (4294967389, 0), (4294967390, 0), (4294967391, 0), (4294967392, 227), (4294967393, 176), (4294967394, 196)] ++
  [(4294967395, 66), (4294967396, 152), (4294967397, 252), (4294967398, 28), (4294967399, 20), (4294967400, 154), (4294967401, 251), (4294967402, 244), (4294967403, 200), (4294967404, 153), (4294967405, 111), (4294967406, 185)] ++
  [(4294967407, 36), (4294967408, 39), (4294967409, 174), (4294967410, 65), (4294967411, 228), (4294967412, 100), (4294967413, 155), (4294967414, 147), (4294967415, 76), (4294967416, 164), (4294967417, 149), (4294967418, 153)] ++
  [(4294967419, 27), (4294967420, 120), (4294967421, 82), (4294967422, 184), (4294967423, 85), (4294967424, 4), (4294967428, 0), (4294967429, 16), (4294967430, 0), (4294967431, 0), (4294967432, 0), (4294967433, 0)] ++
  [(4294967434, 0), (4294967435, 0), (4294967436, 0), (4294967437, 0), (4294967438, 0), (4294967439, 0), (4294967440, 227), (4294967441, 176), (4294967442, 196), (4294967443, 66), (4294967444, 152), (4294967445, 252)] ++
  [(4294967446, 28), (4294967447, 20), (4294967448, 154), (4294967449, 251), (4294967450, 244), (4294967451, 200), (4294967452, 153), (4294967453, 111), (4294967454, 185), (4294967455, 36), (4294967456, 39), (4294967457, 174)] ++
  [(4294967458, 65), (4294967459, 228), (4294967460, 100), (4294967461, 155), (4294967462, 147), (4294967463, 76), (4294967464, 164), (4294967465, 149), (4294967466, 153), (4294967467, 27), (4294967468, 120), (4294967469, 82)] ++
  [(4294967470, 184), (4294967471, 85), (4294967472, 8), (4294967476, 0), (4294967477, 16), (4294967478, 0), (4294967479, 0), (4294967480, 0), (4294967481, 0), (4294967482, 0), (4294967483, 0), (4294967484, 0)] ++
  [(4294967485, 0), (4294967486, 0), (4294967487, 0), (4294967488, 227), (4294967489, 176), (4294967490, 196), (4294967491, 66), (4294967492, 152), (4294967493, 252), (4294967494, 28), (4294967495, 20), (4294967496, 154)] ++
  [(4294967497, 251), (4294967498, 244), (4294967499, 200), (4294967500, 153), (4294967501, 111), (4294967502, 185), (4294967503, 36), (4294967504, 39), (4294967505, 174), (4294967506, 65), (4294967507, 228), (4294967508, 100)] ++
  [(4294967509, 155), (4294967510, 147), (4294967511, 76), (4294967512, 164), (4294967513, 149), (4294967514, 153), (4294967515, 27), (4294967516, 120), (4294967517, 82), (4294967518, 184), (4294967519, 85), (4294971260, 193)] ++
  [(4294971261, 253), (4294971262, 166), (4294971263, 74)]
/-- In BOOT, with that image in slot A. -/
def boot0 : State := { up.put [(R.MOD_STATE.MODE, 0)] with mem := img0 }
/-- A board with one chip select of flash. -/
def env1 : LoadEnv := ⟨⟨true, false, false, 0, 16777216⟩, noFlash, none, none, .empty, .empty, true⟩
/-- Scribe runs a mailbox operation with its request words, over one chip select of flash. -/
def mbox (op : Nat) (req : List Nat) : State :=
  let s := up.put [(R.SCR_MB_STAT.STATUS, 1), (R.SCR_MB_STAT.OP, op)]
  { s with dct := { s.dct with req := req }, dev := { s.dev with envA := ⟨true, false, false, 0, 1048576⟩ } }

/-- An option that holds something is that something. -/
theorem some_of_isSome {α : Type} {o : Option α} {d : α} (h : o.isSome = true) : o = some (o.getD d) := by
  cases o with
  | none => cases h
  | some a => rfl

/-! ### An ill-formed command is refused -/

theorem test_wf_refuses_axis : wfCommand (.laneError 0 160) = false := by decide

theorem test_wf_refuses_chain : wfCommand (.stop 0 .host 16) = false := by decide

theorem test_wf_refuses_bridge : wfCommand (.carrierValley 12) = false := by decide

theorem test_wf_refuses_sigma_delta_input : wfCommand (.sdResult 24 []) = false := by decide

theorem test_wf_refuses_ring_channel : wfCommand (.cycleStart 2) = false := by decide

theorem test_wf_refuses_port : wfCommand (.linkBack 0 0 2) = false := by decide

theorem test_wf_refuses_feedback_channel : wfCommand (.zarm 0 .host 16) = false := by decide

theorem test_wf_refuses_capture_input : wfCommand (.capStampRead 0 ⟨.host, 15⟩ 8) = false := by decide

theorem test_wf_refuses_window : wfCommand (.indDataRead 0 ⟨.host, 15⟩ 4) = false := by decide

theorem test_wf_refuses_word : wfCommand (.unlock 0 .host 4294967296) = false := by decide

theorem test_wf_refuses_vector : wfCommand (.msixUnmask 0 0 64) = false := by decide

theorem test_wf_refuses_unmask_kind : wfCommand (.msixUnmask 0 3 0) = false := by decide

theorem test_wf_refuses_core : wfCommand (.nop 0 4 0) = false := by decide

theorem test_wf_refuses_n_field : wfCommand (.nop 0 0 8) = false := by decide

theorem test_wf_refuses_register_of_a_core : wfCommand (.fadd 0 0 32 0 0 0) = false := by decide

theorem test_wf_refuses_address_register : wfCommand (.ld 0 0 0 8 0 0) = false := by decide

theorem test_wf_refuses_branch_target : wfCommand (.br 0 0 0 8192) = false := by decide

theorem test_wf_refuses_special_register : wfCommand (.mvs 0 0 0 14) = false := by decide

theorem test_wf_refuses_step_code : wfCommand (.ldst 0 0 0 0 0 0 3 0) = false := by decide

theorem test_wf_refuses_slot : wfCommand (.flashTimeout 0 2) = false := by decide

theorem test_wf_refuses_straps : wfCommand (.resetRelease 0 8) = false := by decide

theorem test_wf_refuses_byte_enable : wfCommand (.registerWrite 0 .host 16 0 16) = false := by decide

theorem test_wf_refuses_unaligned_offset : wfCommand (.registerWrite 0 .host 18 0 15) = false := by decide

theorem test_wf_refuses_offset_past_bar0 : wfCommand (.registerWrite 0 .host 8388608 0 15) = false := by decide

theorem test_wf_refuses_offset_past_bar2 : wfCommand (.apertureRead 0 ⟨4194304, 15⟩) = false := by decide

theorem test_wf_refuses_mac : wfCommand (.sramError 0 240 0 false (.solver 0)) = false := by decide

theorem test_wf_refuses_temperatures : wfCommand (.tempSense 0 [1]) = false := by decide

theorem test_wf_refuses_serdes_lane : wfCommand (.laneFault 0 10) = false := by decide

theorem test_wf_refuses_read_byte_enable : wfCommand (.tbNsRead 0 ⟨.host, 16⟩) = false := by decide

theorem test_wf_refuses_defined_mode_request : wfCommand (.modReqUndefined 0 .host 1) = false := by decide

theorem test_wf_refuses_frame_byte : wfCommand (.cycleFrameReceive 0 0 0 0 [256]) = false := by decide

theorem test_wf_refuses_safe_input : wfCommand (.sinDemand 8) = false := by decide

theorem test_wf_refuses_safe_output : wfCommand (.stop1DelayEnd 4) = false := by decide

theorem test_wf_refuses_unit : wfCommand (.selfTestComplete 0 99999 0) = false := by decide

theorem test_wf_refuses_bank : wfCommand (.bankPowerGoodFall 0 6) = false := by decide

theorem test_wf_refuses_rail : wfCommand (.pmbAlert 0 8 0) = false := by decide

theorem test_wf_refuses_i2c_byte : wfCommand (.i2cCommand 0 256 [] true) = false := by decide

theorem test_wf_refuses_time_stamp_unit : wfCommand (.tsuCalibration 0 24 0) = false := by decide

theorem test_wf_refuses_load_window : wfCommand (.loadWindowEnd 4000001) = false := by decide

theorem test_wf_refuses_rate_group : wfCommand (.outputPhase 4) = false := by decide

theorem test_wf_refuses_boundary_inputs : wfCommand (.baseBoundary 65536) = false := by decide

theorem test_wf_refuses_copy_instance : wfCommand (.commitCopy 1) = false := by decide

theorem test_ill_formed_command_stops : exec (.carrierValley 12) up = .fault .noSuchInstance := rfl

/-! ### Numbers of the spec -/

/-- The example of R11: two stamps across a wrap are 400 ns apart. -/
theorem test_difference_across_a_wrap : sub32 0x000000C8 0xFFFFFF38 = 400 := by decide

/-- The example of R229: a gain of 0.0002 A per increment/s is the register word 0x68DB8C13. -/
theorem test_block_floating_point_word : bfpWord ⟨6871948, 19⟩ = 0x68DB8C13 := by decide

/-- The example of R77: PPS stamps 1,000,000,037 ns apart take 79 units off TB_RATE and read as an error of +37. -/
theorem test_pps_corrects_the_rate :
    let s := State.put { up with tb := { up.tb with ppsRef := some (500000000 * 65536, 0), accL := 1500000037 * 4294967296, ppsAt := 0 } }
      [(R.MOD_STATE.MODE, 2), (R.TB_CTRL.PPS_EN, 1), (R.PPS_CFG.PPS_GAIN, 8), (R.TB_RATE.RATE, 21475)]
    (match exec (.ppsEdge 0 true) s with
      | .next t => (t.rd R.TB_RATE.RATE, t.rd R.PPS_STAT.ERR)
      | _ => (0, 0)) = (21396, 37) := by decide +kernel

/-- The example of Inkwell: rows of 16 probes give a depth of 61,680 rows, of which 30,840 precede the trigger at PRE = 8. -/
theorem test_inkwell_depth : Inkwell.depth { Inkwell.zero with ctrl := 8 * 4096 + 16 } = 61680 ∧
    Inkwell.pre { Inkwell.zero with ctrl := 8 * 4096 + 16 } = 30840 := by decide

/-- CRC-16 with polynomial 0x1021 and start 0xFFFF over the nine digits is 0x29B1; CRC-8 with polynomial 0x07 is 0xF4 (the published check values of the two). -/
theorem test_crc_check_values : crc16 [49, 50, 51, 52, 53, 54, 55, 56, 57] = 0x29B1 ∧
    crc8 [49, 50, 51, 52, 53, 54, 55, 56, 57] = 0xF4 := by decide +kernel

/-- 1.5 + 2.25 = 3.75 and 1.5 × 2.25 = 3.375 in binary32; the product of the largest number with 2 overflows to infinity. -/
theorem test_binary32 : fAdd 0x3FC00000 0x40100000 = (0x40700000, 0) ∧ fMul 0x3FC00000 0x40100000 = (0x40580000, 0) ∧
    (fMul 0x7F7FFFFF 0x40000000).1 = 0x7F800000 := by decide +kernel

/-- The example of R197: a solve done 46,200 ns after its sample, of 62,500, has a slack of 26 %. -/
theorem test_slack_is_rounded_down : slackInt (slackPct 62500 46200) = 26 := by decide +kernel

/-- R472: IDCODE reads 0xB71603C5, least significant bit first. -/
theorem test_idcode : (idcodeBits.zipIdx.map fun x => b2n x.1 * 2 ^ x.2).sum = 0xB71603C5 := by decide

/-- Words spell no command: the table gives its rows no bits. -/
theorem test_no_word_spells_a_command : decodeTableWord 32 0xFFFFFFFF = none := rfl

/-- The command at the front of the queue runs first, and the queue keeps the rest. -/
theorem test_first_in_first_out :
    (match step { up with pending := [.unlock 0 .host 0x5EA1, .bypass 0] } with
      | .next t => (t.rd R.CMT_STAT.ARMED_H, t.pending)
      | _ => (0, [])) = (1, [.bypass 0]) := by decide +kernel


/-! ### A smallest image -/

/-- A key that no cell has reads as unlisted. -/
theorem tget_unlisted {α : Type} (d : α) (l : List (Nat × α)) (k : Nat) (h : ∀ x ∈ l, x.1 ≠ k) : tget d l k = d := by
  induction l with
  | nil => rfl
  | cons x t ih =>
    obtain ⟨a, v⟩ := x
    have h0 : a ≠ k := h (a, v) List.mem_cons_self
    simp only [tget, if_neg h0]
    exact ih fun y hy => h y (List.mem_cons_of_mem _ hy)

/-- The bytes of img0 between its section table and its CRC are as erased. -/
theorem img0_bytes (s : State) (h : s.mem = img0) :
    s.memBytes 0x100 0 0xF7C = boot0.memBytes 0x100 0 0xE0 ++ List.replicate (0xF7C - 0xE0) 255 := by
  have hk : img0.all (fun x => decide (x.1 < 4294967296 + 0xE0) || decide (4294967296 + 0xF7C ≤ x.1)) = true := by decide +kernel
  refine List.ext_getElem (by
    rw [List.length_append, List.length_replicate]; simp only [State.memBytes, List.length_map, List.length_range]) fun i h1 h2 => ?_
  simp only [State.memBytes, List.getElem_append, List.length_map, List.length_range]
  split
  · rename_i h3
    simp [State.mem8, h, boot0]
  · rename_i h3
    simp only [List.getElem_map, List.getElem_range, List.getElem_replicate, State.mem8, h]
    have h4 : i < 0xF7C := by simpa [State.memBytes] using h1
    have h5 : cellKey 0x100 (0 + i) = 4294967296 + i := by
      simp only [cellKey, Nat.zero_add]
      have : 256 * p2 24 = 4294967296 := by decide +kernel
      omega
    rw [h5, tget_unlisted]
    · have h6 : (4294967296 + i) / p2 32 = 1 := by
        have : p2 32 = 4294967296 := by decide +kernel
        rw [this]; omega
      simp [cellDef, h6]
    · intro x hx
      have := List.all_eq_true.mp hk x hx
      simp only [Bool.or_eq_true, decide_eq_true_eq] at this
      omega

/-- The CRC of its header. -/
theorem img0_crc : crc32 (boot0.memBytes 0x100 0 0xE0 ++ List.replicate (0xF7C - 0xE0) 255) = boot0.memN 4 0x100 0xF7C := by decide +kernel

/-- Checks 1 to 4 one by one. -/
theorem imgFail_one (s : State) (i : Img) (f : Bool) : s.imgFail i f 1 = if f then 0 else 1 := by simp only [State.imgFail, if_true]
theorem imgFail_two (s : State) (i : Img) (f : Bool) : s.imgFail i f 2 = if s.fw i 0 4 = 0x4F494C46 then 0 else 3 := by
  simp only [State.imgFail, if_true, (by decide : ¬ 2 = 1), if_false]
theorem imgFail_four (s : State) (i : Img) (f : Bool) : s.imgFail i f 4 = if crc32 (s.fby i 0 0xF7C) = s.fw i 0xF7C 4 then 0 else 5 := by
  simp only [State.imgFail, if_true, (by decide : ¬ 4 = 1), (by decide : ¬ 4 = 2), (by decide : ¬ 4 = 3), if_false]
theorem imgFail_five (s : State) (i : Img) (f : Bool) : s.imgFail i f 5 = s.sigFail i := by
  simp only [State.imgFail, if_true, (by decide : ¬ 5 = 1), (by decide : ¬ 5 = 2), (by decide : ¬ 5 = 3), (by decide : ¬ 5 = 4), if_false]

/-- Slot A of img0 passes checks 1 to 5, and slot B fails check 2, in every state that holds it, unsigned and with no flash time-out. -/
theorem img0_head (s : State) (h : s.mem = img0) (hf : s.dev.flashTo = 0) (hp : s.dev.fuses.prog = 0) :
    s.headCheck false env1 = 0 ∧ s.headCheck true env1 = 3 := by
  have fw : ∀ i o n, s.fw i o n = boot0.fw i o n := fun i o n => by
    simp only [State.fw, State.memN, State.memBytes, State.mem8, h, boot0]
  have t : ∀ b, s.toOf b env1 = none := fun b => by cases b <;> simp [State.toOf, hf, env1, bit]
  have c1 : ∀ i, s.imgFail i true 1 = 0 := fun i => by rw [imgFail_one, if_pos rfl]
  have c2 : s.imgFail ⟨256, 0⟩ true 2 = 0 := by
    rw [imgFail_two, fw]; decide +kernel
  have c3 : s.imgFail ⟨256, 0⟩ true 3 = 0 := by
    simp only [State.imgFail, State.imgRole, fw, (by decide : ¬ 3 = 1), (by decide : ¬ 3 = 2), if_false, if_true]
    decide +kernel
  have c4 : s.imgFail ⟨256, 0⟩ true 4 = 0 := by
    rw [imgFail_four, State.fby, Nat.zero_add, img0_bytes s h, img0_crc, fw, if_pos (by rfl)]
  have c5 : ∀ i, s.sigFail i = 0 := fun i => by simp [State.sigFail, hp]
  have b2 : s.imgFail ⟨256, 8388608⟩ true 2 = 3 := by
    rw [imgFail_two, fw]; decide +kernel
  constructor
  · show runChecks (s.toOf false env1) (s.imgFail ⟨256, 0⟩ true) _ = 0
    simp only [t, runChecks, List.findSome?, c1, c2, c3, c4, imgFail_five, c5]
    rfl
  · show runChecks (s.toOf true env1) (s.imgFail ⟨256, 8388608⟩ true) _ = 3
    simp only [t, runChecks, List.findSome?, b2, c1]
    rfl

/-- The sequence numbers that the heads show. -/
theorem img0_seq (s : State) (b : Bool) (h : s.mem = img0) (hf : s.dev.flashTo = 0) :
    (if runChecks (s.toOf b env1) (s.imgFail (imgOf b env1.cs0 env1.cs1) (imgFitted b env1.cs0 env1.cs1)) [1, 2] == 0
      then s.fw (imgOf b env1.cs0 env1.cs1) 8 4 else 0) = (if b then 0 else 1) := by
  have fw : ∀ i o n, s.fw i o n = boot0.fw i o n := fun i o n => by
    simp only [State.fw, State.memN, State.memBytes, State.mem8, h, boot0]
  have t : s.toOf b env1 = none := by cases b <;> simp [State.toOf, hf, env1, bit]
  have f : imgFitted b env1.cs0 env1.cs1 = true := by cases b <;> rfl
  have r : runChecks none (s.imgFail (imgOf b env1.cs0 env1.cs1) true) [1, 2] = if b then 3 else 0 := by
    have c1 : s.imgFail (imgOf b env1.cs0 env1.cs1) true 1 = 0 := by rw [imgFail_one, if_pos rfl]
    have c2 : s.imgFail (imgOf b env1.cs0 env1.cs1) true 2 = if b then 3 else 0 := by
      rw [imgFail_two, fw]; cases b <;> decide +kernel
    simp only [runChecks, List.findSome?, c1, c2]
    cases b <;> decide
  rw [t, f, r, fw]
  cases b <;> decide +kernel

/-- What is recorded of the heads. -/
theorem img0_record (s : State) (b : Bool) (h : s.mem = img0) (hf : s.dev.flashTo = 0) (hp : s.dev.fuses.prog = 0) :
    s.headRecord b env1 = (s.wr (errF b) (if b then 3 else 0)).wr (if b then R.FOLIO_SEQ_B.SEQ else R.FOLIO_SEQ_A.SEQ) (if b then 0 else 1) := by
  have a := img0_head s h hf hp
  have c : s.headCheck b env1 = if b then 3 else 0 := by
    cases b
    · rw [a.1]; rfl
    · rw [a.2]; rfl
  unfold State.headRecord
  dsimp only
  rw [img0_seq s b h hf, c]

/-- The body of slot A's image passes checks 6 to 9 once the heads are recorded. -/
theorem img0_body : ((boot0.headsDone env1).bodyCheck false env1).code = 0 := by
  unfold State.headsDone
  dsimp only
  rw [img0_record _ false rfl rfl rfl, img0_record _ true rfl rfl rfl]
  decide +kernel

/-! ### The hypotheses of the statements are met -/

theorem test_wit_SoundStatesNeverStop : ∃ s : State, s.Canonical ∧ s.QueueOk ∧ s.pending ≠ [] :=

  ⟨{ up with pending := [.tbWrap] }, by unfold State.Canonical; decide +kernel, by unfold State.QueueOk; decide +kernel, by decide +kernel⟩

theorem test_wit_StepsKeepTheCanonicalForm : ∃ s : State, s.Canonical ∧ ∃ t, s.Steps t :=

  ⟨{ up with pending := [.tbWrap] }, by unfold State.Canonical; decide +kernel, _, rfl⟩

theorem test_wit_WellFormedCommandsComplete : (∃ c : Instr, c.WellFormed) ∧ ∃ c : Instr, ¬ c.WellFormed :=

  ⟨⟨.tbWrap, by decide⟩, ⟨.carrierValley 12, by decide⟩⟩

theorem test_wit_MemoryChangesOnlyByItsCommands : ∃ (c : Instr) (s t : State), c.keepsMemory = true ∧ exec c s = .next t :=

  ⟨.tbWrap, up, _, by decide, rfl⟩

theorem test_wit_ReservedBitsReadAsZero_1 : ∃ (a b : Nat) (l : Loc) (r : RegRow), locate a = some l ∧ 16 ≤ l.off ∧ rowIn l.blk l.off = some r ∧ ∀ f ∈ r.fs, ¬ (f.lo ≤ b ∧ b ≤ f.hi) :=

  ⟨0x10010, 29, _, _, rfl, by decide, rfl, by decide⟩

theorem test_wit_ReservedBitsReadAsZero_2 : ∃ (a : Nat) (l : Loc), locate a = some l ∧ 16 ≤ l.off ∧ rowIn l.blk l.off = none ∧ up.reachable l = true ∧ a < barSize ∧ a % 4 = 0 :=

  ⟨0x1FFF0, _, rfl, by decide, rfl, by decide +kernel, by decide, by decide⟩

theorem test_wit_ReservedBitsReadAsZero_3 : ∃ (a : Nat) (l : Loc), locate a = some l ∧ l.off = 12 ∧ rowIn l.blk l.off = none ∧ up.reachable l = true ∧ a < barSize ∧ a % 4 = 0 :=

  ⟨0x1000C, _, rfl, by decide, rfl, by decide +kernel, by decide, by decide⟩

theorem test_wit_TimeReadsLatchTheirPair_1 : ∃ (s : State) (dt : Nat) (u : State) (src : Src) (be : Nat), u = s.after dt ∧ be < 16 ∧ u.reads src = true :=
  ⟨up, 77, State.after up 77, .host, 15, rfl, by decide +kernel, by decide +kernel⟩

theorem test_wit_TimeReadsLatchTheirPair_2 : ∃ (s : State) (dt : Nat) (u : State) (src : Src) (be : Nat), u = s.after dt ∧ be < 16 ∧ u.reads src = true :=
  ⟨up, 77, State.after up 77, .scribe, 15, rfl, by decide +kernel, by decide +kernel⟩

theorem test_wit_EventQueueTakesOrDiscardsAnInstant_1 : ∃ (s : State) (dt : Nat) (u : State) (src : Src) (j v : Nat), u = s.after dt ∧ isCap j = true ∧ isWord v = true ∧ u.reads src = true ∧ u.tb.run = true ∧ u.evMode j = 1 ∧ 64 ≤ sub32 v u.now ∧ sub32 v u.now < 2 ^ 31 ∧ (tget [] u.tb.evq j).length < 4 :=
  ⟨{ up.put [(R.EVT_CFG.MODE.j 7, 1)] with tb := { up.tb with evq := [(7, [10, 100, 2147483000])] } }, 0, State.after ({ up.put [(R.EVT_CFG.MODE.j 7, 1)] with tb := { up.tb with evq := [(7, [10, 100, 2147483000])] } }) 0, .host, 7, 64, rfl, by decide +kernel, by decide +kernel, by decide +kernel, by decide +kernel, by decide +kernel, by decide +kernel, by decide +kernel, by decide +kernel⟩

theorem test_wit_EventQueueTakesOrDiscardsAnInstant_2 : ∃ (s : State) (dt : Nat) (u : State) (src : Src) (j v : Nat), u = s.after dt ∧ isCap j = true ∧ isWord v = true ∧ u.reads src = true ∧ u.tb.run = true ∧ u.evMode j = 1 ∧ (sub32 v u.now < 64 ∨ 2 ^ 31 ≤ sub32 v u.now) :=
  ⟨up.put [(R.EVT_CFG.MODE.j 0, 1)], 0, State.after (up.put [(R.EVT_CFG.MODE.j 0, 1)]) 0, .host, 0, 63, rfl, by decide +kernel, by decide +kernel, by decide +kernel, by decide +kernel, by decide +kernel, by decide +kernel⟩

theorem test_wit_EventQueueTakesOrDiscardsAnInstant_3 : ∃ (s : State) (dt : Nat) (u : State) (src : Src) (j v : Nat), u = s.after dt ∧ isCap j = true ∧ isWord v = true ∧ u.reads src = true ∧ u.tb.run = true ∧ u.evMode j = 1 ∧ 64 ≤ sub32 v u.now ∧ sub32 v u.now < 2 ^ 31 ∧ 4 ≤ (tget [] u.tb.evq j).length :=
  ⟨{ up.put [(R.EVT_CFG.MODE.j 7, 1)] with tb := { up.tb with evq := [(7, [10, 100, 200, 2147483000])] } }, 0, State.after ({ up.put [(R.EVT_CFG.MODE.j 7, 1)] with tb := { up.tb with evq := [(7, [10, 100, 200, 2147483000])] } }) 0, .host, 7, 2147483647, rfl, by decide +kernel, by decide +kernel, by decide +kernel, by decide +kernel, by decide +kernel, by decide +kernel, by decide +kernel, by decide +kernel⟩

theorem test_wit_EventQueueTakesOrDiscardsAnInstant_4 : ∃ (s u : State) (j x : Nat) (r : List Nat), s.reach (x) = some u ∧ isCap j = true ∧ s.tb.evq = [(j, x :: x :: r)] ∧ r.head? ≠ some x ∧ s.evMode j = 1 :=
  ⟨{ up.put [(R.EVT_CFG.MODE.j 2, 1)] with tb := { up.tb with evq := [(2, [100, 100, 300])] } }, (({ up.put [(R.EVT_CFG.MODE.j 2, 1)] with tb := { up.tb with evq := [(2, [100, 100, 300])] } }).reach ((100 : Nat))).getD ({ up.put [(R.EVT_CFG.MODE.j 2, 1)] with tb := { up.tb with evq := [(2, [100, 100, 300])] } }), 2, 100, [300], some_of_isSome (by decide +kernel), by decide +kernel, by decide +kernel, by decide +kernel, by decide +kernel⟩

theorem test_wit_FlashOfTheRunningSlotIsGuarded_1 : ∃ (s : State) (dt : Nat) (u : State) (cs b m x : Nat), u = s.after dt ∧ u.mbRuns 3 = true ∧ u.mode ≠ 0 ∧ u.mode ≠ 1 ∧ u.slotRange = some (cs, b, m) ∧ u.mbArg 1 = cs ∧ b ≤ x ∧ x < b + m ∧ u.mbArg 2 / 4096 * 4096 ≤ x ∧ x < u.mbArg 2 / 4096 * 4096 + 4096 * u.mbArg 3 :=
  ⟨(mbox 3 [0, 0, 524287, 1]).put [(R.MOD_STATE.MODE, 2), (R.MOD_STATE.SLOT, 1)], 0, State.after ((mbox 3 [0, 0, 524287, 1]).put [(R.MOD_STATE.MODE, 2), (R.MOD_STATE.SLOT, 1)]) 0, 0, 0, 524288, 524287, rfl, by decide +kernel, by decide +kernel, by decide +kernel, by decide +kernel, by decide +kernel, by decide +kernel, by decide +kernel, by decide +kernel, by decide +kernel⟩

theorem test_wit_FlashOfTheRunningSlotIsGuarded_2 : ∃ (s : State) (dt : Nat) (u : State) (cs b m x : Nat), u = s.after dt ∧ u.mbRuns 4 = true ∧ u.mode ≠ 0 ∧ u.mode ≠ 1 ∧ u.slotRange = some (cs, b, m) ∧ u.mbArg 1 = cs ∧ b ≤ x ∧ x < b + m ∧ u.mbArg 2 ≤ x ∧ x < u.mbArg 2 + 4 * u.mbArg 3 :=
  ⟨(mbox 4 [0, 0, 524284, 60]).put [(R.MOD_STATE.MODE, 6), (R.MOD_STATE.SLOT, 2)], 0, State.after ((mbox 4 [0, 0, 524284, 60]).put [(R.MOD_STATE.MODE, 6), (R.MOD_STATE.SLOT, 2)]) 0, 0, 524288, 524288, 524288, rfl, by decide +kernel, by decide +kernel, by decide +kernel, by decide +kernel, by decide +kernel, by decide +kernel, by decide +kernel, by decide +kernel, by decide +kernel⟩

theorem test_wit_ReadsAnswerTheirSource_1 : ∃ (s : State) (dt : Nat) (u : State) (src : Src) (be : Nat), u = s.after dt ∧ be < 16 ∧ u.reads src = true :=
  ⟨up, 0, State.after up 0, .host, 15, rfl, by decide +kernel, by decide +kernel⟩

theorem test_wit_ReadsAnswerTheirSource_2 : ∃ (s : State) (dt : Nat) (u : State) (src : Src) (be : Nat), u = s.after dt ∧ be < 16 ∧ u.reads src = true :=
  ⟨up, 0, State.after up 0, .host, 15, rfl, by decide +kernel, by decide +kernel⟩

theorem test_wit_ReadsAnswerTheirSource_3 : ∃ (s : State) (dt : Nat) (u : State) (src : Src) (i be : Nat) (e : CapEntry) (q : List CapEntry), u = s.after dt ∧ be < 16 ∧ isCap i = true ∧ u.reads src = true ∧ tget [] u.tb.caps i = e :: q ∧ (u.log.caps.any fun x => x.1 == i) = false :=
  ⟨{ up with tb := { up.tb with caps := [(2, [(⟨5, 0, true⟩ : CapEntry)])] } }, 0, State.after ({ up with tb := { up.tb with caps := [(2, [(⟨5, 0, true⟩ : CapEntry)])] } }) 0, .host, 2, 15, ⟨5, 0, true⟩, [], rfl, by decide +kernel, by decide +kernel, by decide +kernel, by decide +kernel, by decide +kernel⟩

theorem test_wit_ReadsAnswerTheirSource_4 : ∃ (s : State) (dt : Nat) (u : State) (src : Src) (k be : Nat), u = s.after dt ∧ be < 16 ∧ isFb k = true ∧ u.mayWrite src 21 = true :=
  ⟨up, 0, State.after up 0, .host, 3, 15, rfl, by decide +kernel, by decide +kernel, by decide +kernel⟩

theorem test_wit_ReadsAnswerTheirSource_5 : ∃ (s : State) (dt : Nat) (u : State) (src : Src) (p be : Nat) (e : ResEntry) (l : List ResEntry), u = s.after dt ∧ be < 16 ∧ portOf src = some p ∧ u.mayWrite src 15 = true ∧ u.fifo p = e :: l :=
  ⟨State.putFifo up 0 [⟨4, 5⟩], 0, State.after (State.putFifo up 0 [⟨4, 5⟩]) 0, .host, 0, 15, ⟨4, 5⟩, [], rfl, by decide +kernel, by decide +kernel, by decide +kernel, by decide +kernel⟩

theorem test_wit_ClockCommandsMoveTheTimeBase_1 : ∃ (s u : State), u = (if s.tb.wrapDue then s else s.after (s.clocksFor (p2 64 - s.acc))) ∧ s.tb.run = true :=
  ⟨{ up with tb := { up.tb with wrapDue := true } }, (if ({ up with tb := { up.tb with wrapDue := true } } : State).tb.wrapDue then ({ up with tb := { up.tb with wrapDue := true } } : State) else ({ up with tb := { up.tb with wrapDue := true } } : State).after (({ up with tb := { up.tb with wrapDue := true } } : State).clocksFor (p2 64 - ({ up with tb := { up.tb with wrapDue := true } } : State).acc))), rfl, by decide +kernel⟩

theorem test_wit_ClockCommandsMoveTheTimeBase_2 : ∃ (s : State) (dt : Nat) (u : State) (src : Src) (v : Nat), u = s.after dt ∧ isWord v = true ∧ u.reads src = true ∧ u.armed src = true ∧ u.mode ≤ 1 ∧ u.tb.run = true :=
  ⟨up.put [(R.CMT_STAT.ARMED_H, 1)], 0, State.after (up.put [(R.CMT_STAT.ARMED_H, 1)]) 0, .host, 4294967290, rfl, by decide +kernel, by decide +kernel, by decide +kernel, by decide +kernel, by decide +kernel⟩

theorem test_wit_ClockCommandsMoveTheTimeBase_3 : ∃ (s : State) (dt : Nat) (u : State) (src : Src) (v : Nat), u = s.after dt ∧ isWord v = true ∧ u.reads src = true ∧ u.armed src = true ∧ 2 ≤ u.mode :=
  ⟨lead.put [(R.CMT_STAT.ARMED_H, 1)], 0, State.after (lead.put [(R.CMT_STAT.ARMED_H, 1)]) 0, .host, 4294967290, rfl, by decide +kernel, by decide +kernel, by decide +kernel, by decide +kernel⟩

theorem test_wit_ClockCommandsMoveTheTimeBase_4 : ∃ (s : State) (dt : Nat) (u : State) (src : Src) (v : Nat), u = s.after dt ∧ isWord v = true ∧ u.reads src = true ∧ u.mode = 2 ∧ (u.tb.remF + sx 32 v * 4294967296).natAbs ≤ 1000000 * 4294967296 :=
  ⟨lead, 0, State.after lead 0, .host, 4294967290, rfl, by decide +kernel, by decide +kernel, by decide +kernel, by decide +kernel⟩

theorem test_wit_ClockCommandsMoveTheTimeBase_5 : ∃ (s : State) (dt : Nat) (u : State), u = s.after dt ∧ u.tb.run = true :=
  ⟨up, 0, State.after up 0, rfl, by decide +kernel⟩

theorem test_wit_PpsAndCalibrationCommands_1 : ∃ (s : State) (dt : Nat) (u : State) (rising : Bool), u = s.after dt ∧ u.alive = true ∧ u.mode ≠ 0 ∧ u.taken 0 = true ∧ (u.rd R.TB_CTRL.PPS_EDGE == 1) ≠ rising :=
  ⟨up, 0, State.after up 0, true, rfl, by decide +kernel, by decide +kernel, by decide +kernel, by decide +kernel⟩

theorem test_wit_PpsAndCalibrationCommands_2 : ∃ (s : State), s.tb.run = true ∧ s.ppsOn = true :=
  ⟨lead.put [(R.TB_CTRL.PPS_EN, 1)], by decide +kernel, by decide +kernel⟩

theorem test_wit_PpsAndCalibrationCommands_3 : ∃ (s u : State), s.reach (s.dueOf R.PPS_OUT_AT.AT) = some u ∧ s.alive = true ∧ s.mode ≠ 0 ∧ s.act R.PPS_CFG.PPS_WIDTH ≠ 0 ∧ u.taken 0 = true ∧ u.scanned 0 = false ∧ u.log.wrote = [] :=
  ⟨lead.put [(R.PPS_CFG.PPS_WIDTH, 7), (R.PPS_OUT_AT.AT, 100)], ((lead.put [(R.PPS_CFG.PPS_WIDTH, 7), (R.PPS_OUT_AT.AT, 100)]).reach ((lead.put [(R.PPS_CFG.PPS_WIDTH, 7), (R.PPS_OUT_AT.AT, 100)] : State).dueOf R.PPS_OUT_AT.AT)).getD (lead.put [(R.PPS_CFG.PPS_WIDTH, 7), (R.PPS_OUT_AT.AT, 100)]), some_of_isSome (by decide +kernel), by decide +kernel, by decide +kernel, by decide +kernel, by decide +kernel, by decide +kernel, by decide +kernel⟩

theorem test_wit_PpsAndCalibrationCommands_4 : ∃ (s : State) (dt : Nat) (u : State) (k ps : Nat), u = s.after dt ∧ k < 24 ∧ 500 < ps ∧ u.tb.run = true :=
  ⟨up, 0, State.after up 0, 23, 501, rfl, by decide +kernel, by decide +kernel, by decide +kernel⟩

theorem test_wit_PpsAndCalibrationCommands_5 : ∃ (s : State) (dt : Nat) (u : State) (k ps : Nat), u = s.after dt ∧ k < 24 ∧ ps ≤ 500 :=
  ⟨up, 0, State.after up 0, 23, 500, rfl, by decide +kernel, by decide +kernel⟩

theorem test_wit_CaptureCommands_1 : ∃ (s : State) (dt : Nat) (u : State) (i : Nat) (rising : Bool), u = s.after dt ∧ isCap i = true ∧ u.tb.run = true ∧ u.taken 0 = true ∧ u.capTakes i rising = true ∧ (tget [] u.tb.caps i).length < 4 :=
  ⟨lead.put [(R.CAP_CFG.EDGE.j 3, 3), (R.CAP_CFG.EN.j 3, 1)], 0, State.after (lead.put [(R.CAP_CFG.EDGE.j 3, 3), (R.CAP_CFG.EN.j 3, 1)]) 0, 3, true, rfl, by decide +kernel, by decide +kernel, by decide +kernel, by decide +kernel, by decide +kernel⟩

theorem test_wit_CaptureCommands_2 : ∃ (s u : State) (i : Nat), s.reach (s.dueOf (R.CAP_CLOSE.NS.j i)) = some u ∧ isCap i = true ∧ s.alive = true ∧ s.on (R.CAP_CFG.WIN_EN.j i) = true ∧ u.act (R.CAP_CFG.WIN_PER.j i) = 0 :=
  ⟨up.put [(R.CAP_CFG.WIN_EN.j 3, 1), (R.CAP_CLOSE.NS.j 3, 100)], ((up.put [(R.CAP_CFG.WIN_EN.j 3, 1), (R.CAP_CLOSE.NS.j 3, 100)]).reach ((up.put [(R.CAP_CFG.WIN_EN.j 3, 1), (R.CAP_CLOSE.NS.j 3, 100)] : State).dueOf (R.CAP_CLOSE.NS.j (3 : Nat)))).getD (up.put [(R.CAP_CFG.WIN_EN.j 3, 1), (R.CAP_CLOSE.NS.j 3, 100)]), 3, some_of_isSome (by decide +kernel), by decide +kernel, by decide +kernel, by decide +kernel, by decide +kernel⟩

theorem test_wit_CaptureCommands_3 : ∃ (s u : State) (i : Nat), s.reach (s.dueOf (R.CAP_CLOSE.NS.j i)) = some u ∧ isCap i = true ∧ s.alive = true ∧ s.on (R.CAP_CFG.WIN_EN.j i) = true ∧ u.act (R.CAP_CFG.WIN_PER.j i) ≠ 0 ∧ u.log.wrote = [] ∧ u.log.soft = [] :=
  ⟨up.put [(R.CAP_CFG.WIN_EN.j 7, 1), (R.CAP_CFG.WIN_PER.j 7, 9), (R.CAP_CLOSE.NS.j 7, 100)], ((up.put [(R.CAP_CFG.WIN_EN.j 7, 1), (R.CAP_CFG.WIN_PER.j 7, 9), (R.CAP_CLOSE.NS.j 7, 100)]).reach ((up.put [(R.CAP_CFG.WIN_EN.j 7, 1), (R.CAP_CFG.WIN_PER.j 7, 9), (R.CAP_CLOSE.NS.j 7, 100)] : State).dueOf (R.CAP_CLOSE.NS.j (7 : Nat)))).getD (up.put [(R.CAP_CFG.WIN_EN.j 7, 1), (R.CAP_CFG.WIN_PER.j 7, 9), (R.CAP_CLOSE.NS.j 7, 100)]), 7, some_of_isSome (by decide +kernel), by decide +kernel, by decide +kernel, by decide +kernel, by decide +kernel, by decide +kernel, by decide +kernel⟩

theorem test_wit_EventOutputCommands_1 : ∃ (s : State) (dt : Nat) (u : State) (src : Src) (j v : Nat), u = s.after dt ∧ isCap j = true ∧ isWord v = true ∧ u.reads src = true ∧ u.tb.run = true ∧ u.evMode j ≠ 1 :=
  ⟨up, 0, State.after up 0, .host, 7, 4294967295, rfl, by decide +kernel, by decide +kernel, by decide +kernel, by decide +kernel, by decide +kernel⟩

theorem test_wit_EventOutputCommands_2 : ∃ (s : State) (dt : Nat) (u : State) (src : Src) (j v : Nat), u = s.after dt ∧ isCap j = true ∧ isWord v = true ∧ u.reads src = true ∧ u.tb.run = true ∧ u.evMode j = 1 ∧ 64 ≤ sub32 v u.now ∧ sub32 v u.now < 2147483648 ∧ (tget [] u.tb.evq j).length < 4 :=
  ⟨up.put [(R.EVT_CFG.MODE.j 0, 1)], 0, State.after (up.put [(R.EVT_CFG.MODE.j 0, 1)]) 0, .host, 0, 64, rfl, by decide +kernel, by decide +kernel, by decide +kernel, by decide +kernel, by decide +kernel, by decide +kernel, by decide +kernel, by decide +kernel⟩

theorem test_wit_EventOutputCommands_3 : ∃ (s u : State) (j x : Nat) (r : List Nat), s.reach (x) = some u ∧ isCap j = true ∧ tget [] s.tb.evq j = x :: r ∧ s.evMode j = 1 :=
  ⟨{ up.put [(R.EVT_CFG.MODE.j 2, 1)] with tb := { up.tb with evq := [(2, [100, 100, 100])] } }, (({ up.put [(R.EVT_CFG.MODE.j 2, 1)] with tb := { up.tb with evq := [(2, [100, 100, 100])] } }).reach ((100 : Nat))).getD ({ up.put [(R.EVT_CFG.MODE.j 2, 1)] with tb := { up.tb with evq := [(2, [100, 100, 100])] } }), 2, 100, [100, 100], some_of_isSome (by decide +kernel), by decide +kernel, by decide +kernel, by decide +kernel⟩

theorem test_wit_EventOutputCommands_4 : ∃ (s u : State) (j : Nat), s.reach (s.dueOf (R.EVT_AT.AT.j j)) = some u ∧ isCap j = true ∧ s.alive = true ∧ s.evMode j = 2 ∧ s.tb.evStop.contains j = false ∧ 8 ≤ s.act (R.EVT_PER.PER.j j) ∧ u.log.wrote = [] :=
  ⟨lead.put [(R.EVT_CFG.MODE.j 2, 2), (R.EVT_AT.AT.j 2, 50), (R.EVT_PER.PER.j 2, 8)], ((lead.put [(R.EVT_CFG.MODE.j 2, 2), (R.EVT_AT.AT.j 2, 50), (R.EVT_PER.PER.j 2, 8)]).reach ((lead.put [(R.EVT_CFG.MODE.j 2, 2), (R.EVT_AT.AT.j 2, 50), (R.EVT_PER.PER.j 2, 8)] : State).dueOf (R.EVT_AT.AT.j (2 : Nat)))).getD (lead.put [(R.EVT_CFG.MODE.j 2, 2), (R.EVT_AT.AT.j 2, 50), (R.EVT_PER.PER.j 2, 8)]), 2, some_of_isSome (by decide +kernel), by decide +kernel, by decide +kernel, by decide +kernel, by decide +kernel, by decide +kernel, by decide +kernel⟩

theorem test_wit_EventOutputCommands_5 : ∃ (s u : State) (j a per : Nat), u = s.runTo (s.nextInst ((s.tb.evLast.find? fun x => x.1 == j).map (·.2)) a per (s.actS (R.EVT_CFG.OFS.j j))) ∧ isCap j = true ∧ s.alive = true ∧ s.tb.run = true ∧ s.evMode j = 3 ∧ s.evSource (s.act (R.EVT_CFG.SRC.j j)) = some (a, per) :=
  ⟨{ lead.put [(R.EVT_CFG.MODE.j 2, 3)] with dev := { lead.dev with cfg := { lead.dev.cfg with rgDef := 1 } } }, ({ lead.put [(R.EVT_CFG.MODE.j 2, 3)] with dev := { lead.dev with cfg := { lead.dev.cfg with rgDef := 1 } } } : State).runTo (({ lead.put [(R.EVT_CFG.MODE.j 2, 3)] with dev := { lead.dev with cfg := { lead.dev.cfg with rgDef := 1 } } } : State).nextInst ((({ lead.put [(R.EVT_CFG.MODE.j 2, 3)] with dev := { lead.dev with cfg := { lead.dev.cfg with rgDef := 1 } } } : State).tb.evLast.find? fun x => x.1 == (2 : Nat)).map (·.2)) (0 : Nat) (31250 : Nat) (({ lead.put [(R.EVT_CFG.MODE.j 2, 3)] with dev := { lead.dev with cfg := { lead.dev.cfg with rgDef := 1 } } } : State).actS (R.EVT_CFG.OFS.j (2 : Nat)))), 2, 0, 31250, rfl, by decide +kernel, by decide +kernel, by decide +kernel, by decide +kernel, by decide +kernel⟩

theorem test_wit_PowerCommandsMoveTheCore_1 : ∃ (s : State), s.tb.run = true :=
  ⟨up, by decide +kernel⟩

theorem test_wit_PowerCommandsMoveTheCore_2 : ∃ (s : State) (w i j : Nat), s.tb.run = true ∧ s.pwr.wmin = some ((w : Rat), i, j) :=
  ⟨{ up with pwr := { up.pwr with wmin := some (3, 2, 9) } }, 3, 2, 9, by decide +kernel, by decide +kernel⟩

theorem test_wit_PowerCommandsMoveTheCore_3 : ∃ (s u : State), u = s.runRim (s.pwr.stepAt + 1000) ∧ s.tb.run = true ∧ s.pwr.driven = true ∧ s.rd R.PWR_VID.CODE ≠ s.rd R.PWR_VID.TARGET :=
  ⟨{ up.put [(R.PWR_VID.CODE, 5), (R.PWR_VID.TARGET, 3)] with pwr := { up.pwr with driven := true } }, ({ up.put [(R.PWR_VID.CODE, 5), (R.PWR_VID.TARGET, 3)] with pwr := { up.pwr with driven := true } } : State).runRim (({ up.put [(R.PWR_VID.CODE, 5), (R.PWR_VID.TARGET, 3)] with pwr := { up.pwr with driven := true } } : State).pwr.stepAt + 1000), rfl, by decide +kernel, by decide +kernel, by decide +kernel⟩

theorem test_wit_PowerCommandsMoveTheCore_4 : ∃ (s : State) (h : Nat), s.pwr.hold = some h :=
  ⟨{ up with pwr := { up.pwr with hold := some 7 } }, 7, by decide +kernel⟩

theorem test_wit_PowerCommandsMoveTheCore_5 : ∃ (s : State) (dt : Nat) (u : State) (temps : List Int) (x : Int) (i : Nat), u = s.after dt ∧ temps.length = 8 ∧ hottest temps 0 = some (x, i) :=
  ⟨up, 0, State.after up 0, [1, 2, 300, 4, 5, 6, 7, 8], 300, 2, rfl, by decide +kernel, by decide +kernel⟩

theorem test_wit_PowerCommandsMoveTheCore_6 : ∃ (s u : State), u = s.runRim ((s.tb.rim / 500000 + 1) * 500000) ∧ s.liveRuns = true :=
  ⟨up, (up : State).runRim (((up : State).tb.rim / 500000 + 1) * 500000), rfl, by decide +kernel⟩

theorem test_wit_QueueCommandWordsWaitForTheirBoundary_1 : ∃ (s : State) (dt : Nat) (u : State) (src : Src) (c : Nat), u = s.after dt ∧ isChain c = true ∧ u.mayWrite src 10 = true ∧ u.rd (R.CHN_PUSH.PUSH.i c) = 0 :=
  ⟨up, 0, State.after up 0, .host, 15, rfl, by decide +kernel, by decide +kernel, by decide +kernel⟩

theorem test_wit_QueueCommandWordsWaitForTheirBoundary_2 : ∃ (s : State) (dt : Nat) (u : State) (src : Src) (c : Nat), u = s.after dt ∧ isChain c = true ∧ u.mayWrite src 10 = true ∧ u.rd (R.CHN_PUSH.PUSH.i c) = 1 :=
  ⟨up.put [(R.CHN_PUSH.PUSH.i 3, 1)], 0, State.after (up.put [(R.CHN_PUSH.PUSH.i 3, 1)]) 0, .host, 3, rfl, by decide +kernel, by decide +kernel, by decide +kernel⟩

theorem test_wit_QueueCommandWordsWaitForTheirBoundary_3 : ∃ (s : State) (dt : Nat) (u : State) (src : Src) (c : Nat), u = s.after dt ∧ isChain c = true ∧ u.mayWrite src 10 = true :=
  ⟨up, 0, State.after up 0, .host, 15, rfl, by decide +kernel, by decide +kernel⟩

theorem test_wit_QueueCommandWordsWaitForTheirBoundary_4 : ∃ (s : State) (dt : Nat) (u : State) (src : Src) (c : Nat), u = s.after dt ∧ isChain c = true ∧ u.mayWrite src 10 = true :=
  ⟨up, 0, State.after up 0, .host, 0, rfl, by decide +kernel, by decide +kernel⟩

theorem test_wit_QueueCommandWordsWaitForTheirBoundary_5 : ∃ (s : State) (dt : Nat) (u : State) (src : Src) (c : Nat), u = s.after dt ∧ isChain c = true ∧ u.mayWrite src 10 = true :=
  ⟨up, 0, State.after up 0, .host, 7, rfl, by decide +kernel, by decide +kernel⟩

theorem test_wit_QueueCommandWordsWaitForTheirBoundary_6 : ∃ (s : State) (dt : Nat) (u : State) (src : Src) (c : Nat), u = s.after dt ∧ isChain c = true ∧ u.mayWrite src 10 = true :=
  ⟨up, 0, State.after up 0, .host, 7, rfl, by decide +kernel, by decide +kernel⟩

theorem test_wit_StrokeChecksAndLimitInputs_1 : ∃ (s : State) (dt : Nat) (u : State) (c : Nat) (r : List Nat), u = s.after dt ∧ isChain c = true ∧ u.alive = true ∧ (u.queue c).chk = some r ∧ u.checkRec c r = 0 :=
  ⟨{ lead with queues := [(3, { Queue.empty with chk := some (3 * 2 ^ 28 :: List.replicate 63 0) })] }, 0, State.after ({ lead with queues := [(3, { Queue.empty with chk := some (3 * 2 ^ 28 :: List.replicate 63 0) })] }) 0, 3, 3 * 2 ^ 28 :: List.replicate 63 0, rfl, by decide +kernel, by decide +kernel, by decide +kernel, by decide +kernel⟩

theorem test_wit_StrokeChecksAndLimitInputs_2 : ∃ (s : State) (dt : Nat) (u : State) (c : Nat) (r : List Nat), u = s.after dt ∧ isChain c = true ∧ u.alive = true ∧ (u.queue c).chk = some r ∧ u.checkRec c r ≠ 0 ∧ u.rd (R.CHN_CNT.REJECTED.i c) < 65534 :=
  ⟨{ up with queues := [(3, { Queue.empty with chk := some [] })] }, 0, State.after ({ up with queues := [(3, { Queue.empty with chk := some [] })] }) 0, 3, [], rfl, by decide +kernel, by decide +kernel, by decide +kernel, by decide +kernel, by decide +kernel⟩

theorem test_wit_StrokeChecksAndLimitInputs_3 : ∃ (s : State) (c : Nat), isChain c = true ∧ s.alive = true ∧ s.waiting c = true ∧ s.act (R.CHN_SYNC.TMO.i c) ≠ 0 :=
  ⟨up.put [(R.CHN_SYNC.TMO.i 2, 3), (R.CHN_QSTAT.STATE.i 2, 5)], 2, by decide +kernel, by decide +kernel, by decide +kernel, by decide +kernel⟩

theorem test_wit_StrokeChecksAndLimitInputs_4 : ∃ (s : State) (dt : Nat) (u : State) (n which : Nat) (level : Bool), u = s.after dt ∧ isAxis n = true ∧ which < 3 ∧ u.alive = true ∧ u.mode ≠ 0 ∧ u.dom 10 = true ∧ 0x80 ≤ (u.limSrc n which).1 ∧ (level != ((u.limSrc n which).2 == 1)) ≠ (genLim (u.gen n) which).raw :=
  ⟨up.put [(R.STK_LIM_CFG.SRC_N.i 159, 0x90)], 0, State.after (up.put [(R.STK_LIM_CFG.SRC_N.i 159, 0x90)]) 0, 159, 1, true, rfl, by decide +kernel, by decide +kernel, by decide +kernel, by decide +kernel, by decide +kernel, by decide +kernel, by decide +kernel⟩

theorem test_wit_StrokeChecksAndLimitInputs_5 : ∃ (s : State) (dt : Nat) (u : State) (n which k b : Nat) (level : Bool), u = s.after dt ∧ isAxis n = true ∧ which < 3 ∧ u.alive = true ∧ u.mode ≠ 0 ∧ u.dom 10 = true ∧ u.fbRuns = true ∧ isFb k = true ∧ b < 3 ∧ (u.limSrc n which).1 = 1 + 3 * k + b ∧ u.taken (fbBank k) = true ∧ bit (u.rd (R.FB_STAT.AUX.i k)) b ≠ level ∧ (level != ((u.limSrc n which).2 == 1)) ≠ (genLim (u.gen n) which).raw :=
  ⟨up.put [(R.STK_LIM_CFG.SRC_N.i 159, 0x30)], 0, State.after (up.put [(R.STK_LIM_CFG.SRC_N.i 159, 0x30)]) 0, 159, 1, 15, 2, true, rfl, by decide +kernel, by decide +kernel, by decide +kernel, by decide +kernel, by decide +kernel, by decide +kernel, by decide +kernel, by decide +kernel, by decide +kernel, by decide +kernel, by decide +kernel, by decide +kernel⟩

theorem test_wit_StrokeChecksAndLimitInputs_6 : ∃ (s u : State) (n which : Nat), u = s.runTo (add32 (genLim (s.gen n) which).since (s.debTicks n)) ∧ isAxis n = true ∧ which < 3 ∧ s.alive = true ∧ s.mode ≠ 0 ∧ s.dom 10 = true ∧ limUsed (s.limSrc n which).1 = true ∧ (genLim (s.gen n) which).raw = false ∧ (genLim (s.gen n) which).stable = true :=
  ⟨{ up.put [(R.STK_LIM_CFG.SRC_P.i 0, 1)] with gens := [(0, genPutLim .zero 0 { (genLim .zero 0) with stable := true, cand := 9 })] }, ({ up.put [(R.STK_LIM_CFG.SRC_P.i 0, 1)] with gens := [(0, genPutLim .zero 0 { (genLim .zero 0) with stable := true, cand := 9 })] } : State).runTo (add32 (genLim (({ up.put [(R.STK_LIM_CFG.SRC_P.i 0, 1)] with gens := [(0, genPutLim .zero 0 { (genLim .zero 0) with stable := true, cand := 9 })] } : State).gen (0 : Nat)) (0 : Nat)).since (({ up.put [(R.STK_LIM_CFG.SRC_P.i 0, 1)] with gens := [(0, genPutLim .zero 0 { (genLim .zero 0) with stable := true, cand := 9 })] } : State).debTicks (0 : Nat))), 0, 0, rfl, by decide +kernel, by decide +kernel, by decide +kernel, by decide +kernel, by decide +kernel, by decide +kernel, by decide +kernel, by decide +kernel⟩

theorem test_wit_StrokeChecksAndLimitInputs_7 : ∃ (s : State) (n : Nat), isAxis n = true ∧ s.alive = true ∧ s.mode ≠ 0 ∧ s.dom 10 = true ∧ limUsed (s.limSrc n 2).1 = true ∧ (genLim (s.gen n) 2).raw = true ∧ (genLim (s.gen n) 2).stable = false :=
  ⟨{ up.put [(R.STK_LIM_CFG.SRC_H.i 7, 0x80)] with gens := [(7, genPutLim .zero 2 { (genLim .zero 2) with raw := true, cand := 9 })] }, 7, by decide +kernel, by decide +kernel, by decide +kernel, by decide +kernel, by decide +kernel, by decide +kernel, by decide +kernel⟩

theorem test_wit_FeedbackWritesTakeEffect_1 : ∃ (s : State) (dt : Nat) (u : State) (src : Src) (k v : Nat), u = s.after dt ∧ isFb k = true ∧ isWord v = true ∧ u.mayWrite src 21 = true :=
  ⟨up, 0, State.after up 0, .host, 15, 4294967295, rfl, by decide +kernel, by decide +kernel, by decide +kernel⟩

theorem test_wit_FeedbackWritesTakeEffect_2 : ∃ (s : State) (dt : Nat) (u : State) (src : Src) (k v : Nat), u = s.after dt ∧ isFb k = true ∧ isWord v = true ∧ u.mayWrite src 21 = true ∧ u.fbAbs k = false ∧ u.log.moved = [] ∧ v < u.fbMod k :=
  ⟨up, 0, State.after up 0, .host, 15, 4294967295, rfl, by decide +kernel, by decide +kernel, by decide +kernel, by decide +kernel, by decide +kernel, by decide +kernel⟩

theorem test_wit_FeedbackWritesTakeEffect_3 : ∃ (s : State) (dt : Nat) (u : State) (src : Src) (k v : Nat), u = s.after dt ∧ isFb k = true ∧ isWord v = true ∧ u.mayWrite src 21 = true ∧ u.fbAbs k = false ∧ u.log.moved = [] ∧ u.fbPos k < u.fbMod k :=
  ⟨up, 0, State.after up 0, .host, 0, 4294967295, rfl, by decide +kernel, by decide +kernel, by decide +kernel, by decide +kernel, by decide +kernel, by decide +kernel⟩

theorem test_wit_FeedbackWritesTakeEffect_4 : ∃ (s : State) (dt : Nat) (u : State) (src : Src) (k : Nat), u = s.after dt ∧ isFb k = true ∧ u.mayWrite src 21 = true :=
  ⟨up, 0, State.after up 0, .host, 15, rfl, by decide +kernel, by decide +kernel⟩

theorem test_wit_FeedbackWritesTakeEffect_5 : ∃ (s : State) (dt : Nat) (u : State) (src : Src) (k : Nat), u = s.after dt ∧ isFb k = true ∧ u.mayWrite src 21 = true :=
  ⟨up, 0, State.after up 0, .host, 15, rfl, by decide +kernel, by decide +kernel⟩

theorem test_wit_FeedbackEdgesAndWindows_1 : ∃ (s : State) (dt : Nat) (u : State) (k ins : Nat), u = s.after dt ∧ isFb k = true ∧ ins < 8 ∧ u.fbRuns = true ∧ u.taken (fbBank k) = true ∧ u.fbMode k = 0 :=
  ⟨up, 0, State.after up 0, 15, 7, rfl, by decide +kernel, by decide +kernel, by decide +kernel, by decide +kernel, by decide +kernel⟩

theorem test_wit_FeedbackEdgesAndWindows_2 : ∃ (s : State) (dt : Nat) (u : State) (k ins : Nat) (d : Int), u = s.after dt ∧ isFb k = true ∧ ins < 8 ∧ u.fbRuns = true ∧ u.taken (fbBank k) = true ∧ u.fbMode k = 1 ∧ bit (u.rd (R.FB_STAT.IN.i k)) 2 = bit ins 2 ∧ (bit (u.rd (R.FB_STAT.IN.i k)) 0 = bit ins 0 ∨ bit (u.rd (R.FB_STAT.IN.i k)) 1 = bit ins 1) ∧ d = quadCount (u.act (R.FB_CFG.DECODE.i k)) (bit (u.rd (R.FB_STAT.IN.i k)) 0) (bit (u.rd (R.FB_STAT.IN.i k)) 1) (bit ins 0) (bit ins 1) ∧ d ≠ 0 ∧ u.act (R.FB_CFG.DIR_INV.i k) = 0 :=
  ⟨up.put [(R.FB_CFG.MODE.i 4, 1), (R.FB_CFG.DECODE.i 4, 2)], 0, State.after (up.put [(R.FB_CFG.MODE.i 4, 1), (R.FB_CFG.DECODE.i 4, 2)]) 0, 4, 1, 1, rfl, by decide +kernel, by decide +kernel, by decide +kernel, by decide +kernel, by decide +kernel, by decide +kernel, by decide +kernel, by decide +kernel, by decide +kernel, by decide +kernel⟩

theorem test_wit_FeedbackEdgesAndWindows_3 : ∃ (s : State) (dt : Nat) (u : State) (k ins : Nat), u = s.after dt ∧ isFb k = true ∧ ins < 8 ∧ u.fbRuns = true ∧ u.taken (fbBank k) = true ∧ u.fbMode k = 4 ∧ bit (u.rd (R.FB_STAT.IN.i k)) 0 ≠ bit ins 0 ∧ bit (u.rd (R.FB_STAT.IN.i k)) 1 ≠ bit ins 1 ∧ u.act (R.FB_ILL.ILL_LIMIT.i k) = 0 ∧ u.rd (R.FB_CNT.ILL_CNT.i k) < 65534 :=
  ⟨up.put [(R.FB_CFG.MODE.i 4, 4), (R.FB_ILL.ILL_LIMIT.i 4, 0)], 0, State.after (up.put [(R.FB_CFG.MODE.i 4, 4), (R.FB_ILL.ILL_LIMIT.i 4, 0)]) 0, 4, 3, rfl, by decide +kernel, by decide +kernel, by decide +kernel, by decide +kernel, by decide +kernel, by decide +kernel, by decide +kernel, by decide +kernel, by decide +kernel⟩

theorem test_wit_FeedbackEdgesAndWindows_4 : ∃ (s u : State) (k : Nat), u = s.runRim ((s.fb k).illAt + 1000000 * max 1 (s.act (R.FB_ILL.ILL_WINDOW.i k))) ∧ isFb k = true ∧ s.fbRuns = true ∧ (s.fb k).illN ≠ 0 :=
  ⟨{ up with fbs := [(2, { Fb.zero with illN := 3 })] }, ({ up with fbs := [(2, { Fb.zero with illN := 3 })] } : State).runRim ((({ up with fbs := [(2, { Fb.zero with illN := 3 })] } : State).fb (2 : Nat)).illAt + 1000000 * max 1 (({ up with fbs := [(2, { Fb.zero with illN := 3 })] } : State).act (R.FB_ILL.ILL_WINDOW.i (2 : Nat)))), 2, rfl, by decide +kernel, by decide +kernel, by decide +kernel⟩

theorem test_wit_FeedbackEdgesAndWindows_5 : ∃ (s u : State) (k r : Nat), u = s.runRim (r + 1000 * max 1 (s.act (R.FB_HALL.HALL_TMO.i k))) ∧ isFb k = true ∧ (s.fb k).badAt = some r ∧ s.fbRuns = true ∧ s.fbMode k = 2 ∧ bit (s.rd (R.FB_STAT.CAUSE.i k)) fbcHall = false ∧ u.fbReaders k = [] :=
  ⟨{ up.put [(R.FB_CFG.MODE.i 5, 2)] with fbs := [(5, { Fb.zero with badAt := some 3 })] }, ({ up.put [(R.FB_CFG.MODE.i 5, 2)] with fbs := [(5, { Fb.zero with badAt := some 3 })] } : State).runRim ((3 : Nat) + 1000 * max 1 (({ up.put [(R.FB_CFG.MODE.i 5, 2)] with fbs := [(5, { Fb.zero with badAt := some 3 })] } : State).act (R.FB_HALL.HALL_TMO.i (5 : Nat)))), 5, 3, rfl, by decide +kernel, by decide +kernel, by decide +kernel, by decide +kernel, by decide +kernel, by decide +kernel⟩

theorem test_wit_AbsoluteEncoderTransfers_1 : ∃ (s u : State) (dt k : Nat) (line : Bool) (a per : Nat), u = (s.after dt).runTo ((s.after dt).xferAt k a per) ∧ isFb k = true ∧ (s.after dt).fbRuns = true ∧ (s.after dt).dev.rgIn = true ∧ (s.after dt).xferGrid k = some (a, per) ∧ (s.after dt).fbMode k = 6 ∧ (u.fb k).xfer = none :=
  ⟨{ lead.put [(R.FB_CFG.MODE.i 3, 6), (R.FB_FRAME2.REQ_LEN.i 3, 7)] with dev := { lead.dev with cfg := { lead.dev.cfg with rgDef := 1 } } }, (({ lead.put [(R.FB_CFG.MODE.i 3, 6), (R.FB_FRAME2.REQ_LEN.i 3, 7)] with dev := { lead.dev with cfg := { lead.dev.cfg with rgDef := 1 } } } : State).after (0 : Nat)).runTo ((({ lead.put [(R.FB_CFG.MODE.i 3, 6), (R.FB_FRAME2.REQ_LEN.i 3, 7)] with dev := { lead.dev with cfg := { lead.dev.cfg with rgDef := 1 } } } : State).after (0 : Nat)).xferAt (3 : Nat) (0 : Nat) (31250 : Nat)), 0, 3, true, 0, 31250, rfl, by decide +kernel, by decide +kernel, by decide +kernel, by decide +kernel, by decide +kernel, by decide +kernel⟩

theorem test_wit_AbsoluteEncoderTransfers_2 : ∃ (s u : State) (dt k : Nat) (line : Bool) (a per : Nat), u = (if (((s.after dt).runTo ((s.after dt).xferAt k a per)).fb k).xEnd = 0 then (s.after dt).runTo ((s.after dt).xferAt k a per) else ((s.after dt).runTo ((s.after dt).xferAt k a per)).runRim ((((s.after dt).runTo ((s.after dt).xferAt k a per)).fb k).xEnd + 1000 * ((s.after dt).runTo ((s.after dt).xferAt k a per)).act (R.FB_XFER2.TM.i k))) ∧ isFb k = true ∧ (s.after dt).fbRuns = true ∧ (s.after dt).dev.rgIn = true ∧ (s.after dt).xferGrid k = some (a, per) ∧ (s.after dt).fbMode k = 5 ∧ (u.fb k).xfer = none :=
  ⟨{ lead.put [(R.FB_CFG.MODE.i 3, 5)] with dev := { lead.dev with cfg := { lead.dev.cfg with rgDef := 1 } }, fbs := [(3, { Fb.zero with xEnd := 400 })] }, (if (((({ lead.put [(R.FB_CFG.MODE.i 3, 5)] with dev := { lead.dev with cfg := { lead.dev.cfg with rgDef := 1 } }, fbs := [(3, { Fb.zero with xEnd := 400 })] } : State).after (0 : Nat)).runTo ((({ lead.put [(R.FB_CFG.MODE.i 3, 5)] with dev := { lead.dev with cfg := { lead.dev.cfg with rgDef := 1 } }, fbs := [(3, { Fb.zero with xEnd := 400 })] } : State).after (0 : Nat)).xferAt (3 : Nat) (0 : Nat) (31250 : Nat))).fb (3 : Nat)).xEnd = 0 then (({ lead.put [(R.FB_CFG.MODE.i 3, 5)] with dev := { lead.dev with cfg := { lead.dev.cfg with rgDef := 1 } }, fbs := [(3, { Fb.zero with xEnd := 400 })] } : State).after (0 : Nat)).runTo ((({ lead.put [(R.FB_CFG.MODE.i 3, 5)] with dev := { lead.dev with cfg := { lead.dev.cfg with rgDef := 1 } }, fbs := [(3, { Fb.zero with xEnd := 400 })] } : State).after (0 : Nat)).xferAt (3 : Nat) (0 : Nat) (31250 : Nat)) else ((({ lead.put [(R.FB_CFG.MODE.i 3, 5)] with dev := { lead.dev with cfg := { lead.dev.cfg with rgDef := 1 } }, fbs := [(3, { Fb.zero with xEnd := 400 })] } : State).after (0 : Nat)).runTo ((({ lead.put [(R.FB_CFG.MODE.i 3, 5)] with dev := { lead.dev with cfg := { lead.dev.cfg with rgDef := 1 } }, fbs := [(3, { Fb.zero with xEnd := 400 })] } : State).after (0 : Nat)).xferAt (3 : Nat) (0 : Nat) (31250 : Nat))).runRim ((((({ lead.put [(R.FB_CFG.MODE.i 3, 5)] with dev := { lead.dev with cfg := { lead.dev.cfg with rgDef := 1 } }, fbs := [(3, { Fb.zero with xEnd := 400 })] } : State).after (0 : Nat)).runTo ((({ lead.put [(R.FB_CFG.MODE.i 3, 5)] with dev := { lead.dev with cfg := { lead.dev.cfg with rgDef := 1 } }, fbs := [(3, { Fb.zero with xEnd := 400 })] } : State).after (0 : Nat)).xferAt (3 : Nat) (0 : Nat) (31250 : Nat))).fb (3 : Nat)).xEnd + 1000 * ((({ lead.put [(R.FB_CFG.MODE.i 3, 5)] with dev := { lead.dev with cfg := { lead.dev.cfg with rgDef := 1 } }, fbs := [(3, { Fb.zero with xEnd := 400 })] } : State).after (0 : Nat)).runTo ((({ lead.put [(R.FB_CFG.MODE.i 3, 5)] with dev := { lead.dev with cfg := { lead.dev.cfg with rgDef := 1 } }, fbs := [(3, { Fb.zero with xEnd := 400 })] } : State).after (0 : Nat)).xferAt (3 : Nat) (0 : Nat) (31250 : Nat))).act (R.FB_XFER2.TM.i (3 : Nat)))), 0, 3, false, 0, 31250, rfl, by decide +kernel, by decide +kernel, by decide +kernel, by decide +kernel, by decide +kernel, by decide +kernel⟩

theorem test_wit_AbsoluteEncoderTransfers_3 : ∃ (s u : State) (dt k : Nat) (line : Bool) (a per : Nat), u = (s.after dt).runTo ((s.after dt).xferAt k a per) ∧ isFb k = true ∧ (s.after dt).fbRuns = true ∧ (s.after dt).dev.rgIn = true ∧ (s.after dt).xferGrid k = some (a, per) ∧ (s.after dt).fbAbs k = true ∧ (u.fb k).xfer.isSome = true ∧ u.rd (R.FB_CNT2.XFER_LATE.i k) < 65534 :=
  ⟨{ lead.put [(R.FB_CFG.MODE.i 3, 5)] with dev := { lead.dev with cfg := { lead.dev.cfg with rgDef := 1 } }, fbs := [(3, { Fb.zero with xfer := some (1, 2, false, 0) })] }, (({ lead.put [(R.FB_CFG.MODE.i 3, 5)] with dev := { lead.dev with cfg := { lead.dev.cfg with rgDef := 1 } }, fbs := [(3, { Fb.zero with xfer := some (1, 2, false, 0) })] } : State).after (0 : Nat)).runTo ((({ lead.put [(R.FB_CFG.MODE.i 3, 5)] with dev := { lead.dev with cfg := { lead.dev.cfg with rgDef := 1 } }, fbs := [(3, { Fb.zero with xfer := some (1, 2, false, 0) })] } : State).after (0 : Nat)).xferAt (3 : Nat) (0 : Nat) (31250 : Nat)), 0, 3, true, 0, 31250, rfl, by decide +kernel, by decide +kernel, by decide +kernel, by decide +kernel, by decide +kernel, by decide +kernel, by decide +kernel⟩

theorem test_wit_AbsoluteEncoderTransfers_4 : ∃ (s : State) (dt : Nat) (u : State) (k : Nat) (frame : List Bool) (t0 i0 r : Nat), u = s.after dt ∧ isFb k = true ∧ u.fbRuns = true ∧ u.fbMode k = 6 ∧ (u.fb k).xfer = some (t0, i0, false, r) ∧ u.taken (fbBank k) = true ∧ frame.length = u.nbits k ∧ u.crcW k = 0 ∧ u.act (R.FB_FRAME2.ERR_MASK.i k) = 0 ∧ u.act (R.FB_JUMP.JUMP_MAX.i k) = 0 ∧ u.act (R.FB_CFG.GRAY.i k) = 0 :=
  ⟨{ lead.put [(R.FB_CFG.MODE.i 3, 6), (R.FB_FRAME.NBITS.i 3, 8), (R.FB_FRAME.POS_LEN.i 3, 8)] with fbs := [(3, { Fb.zero with xfer := some (1, 2, false, 0) })] }, 0, State.after ({ lead.put [(R.FB_CFG.MODE.i 3, 6), (R.FB_FRAME.NBITS.i 3, 8), (R.FB_FRAME.POS_LEN.i 3, 8)] with fbs := [(3, { Fb.zero with xfer := some (1, 2, false, 0) })] }) 0, 3, [true, false, true, true, false, false, true, true], 1, 2, 0, rfl, by decide +kernel, by decide +kernel, by decide +kernel, by decide +kernel, by decide +kernel, by decide +kernel, by decide +kernel, by decide +kernel, by decide +kernel, by decide +kernel⟩

theorem test_wit_AbsoluteEncoderTransfers_5 : ∃ (s u : State) (k : Nat) (frame : List Bool) (x : Nat × Nat × Bool × Nat), u = s.runRim (x.2.2.2 + 2 * s.bitTime k * (s.nbits k + 1) + s.act (R.FB_XFER2.DATA_DLY.i k)) ∧ isFb k = true ∧ s.fbRuns = true ∧ s.fbMode k = 5 ∧ (s.fb k).xfer = some x ∧ (u.fb k).xfer = some x :=
  ⟨{ lead.put [(R.FB_CFG.MODE.i 3, 5)] with fbs := [(3, { Fb.zero with xfer := some (1, 2, true, 0) })] }, ({ lead.put [(R.FB_CFG.MODE.i 3, 5)] with fbs := [(3, { Fb.zero with xfer := some (1, 2, true, 0) })] } : State).runRim (((1, 2, true, 0) : Nat × Nat × Bool × Nat).2.2.2 + 2 * ({ lead.put [(R.FB_CFG.MODE.i 3, 5)] with fbs := [(3, { Fb.zero with xfer := some (1, 2, true, 0) })] } : State).bitTime (3 : Nat) * (({ lead.put [(R.FB_CFG.MODE.i 3, 5)] with fbs := [(3, { Fb.zero with xfer := some (1, 2, true, 0) })] } : State).nbits (3 : Nat) + 1) + ({ lead.put [(R.FB_CFG.MODE.i 3, 5)] with fbs := [(3, { Fb.zero with xfer := some (1, 2, true, 0) })] } : State).act (R.FB_XFER2.DATA_DLY.i (3 : Nat))), 3, [true, false], (1, 2, true, 0), rfl, by decide +kernel, by decide +kernel, by decide +kernel, by decide +kernel, by decide +kernel⟩

theorem test_wit_AbsoluteEncoderTransfers_6 : ∃ (s u : State) (dt k : Nat) (x : Nat × Nat × Bool × Nat), u = (s.after dt).runRim (x.2.2.2 + (s.after dt).reqLen k * (s.after dt).bitTime k + 1000 * (s.after dt).act (R.FB_XFER2.TM.i k)) ∧ isFb k = true ∧ (s.after dt).fbRuns = true ∧ (s.after dt).fbMode k = 6 ∧ ((s.after dt).fb k).xfer = some x ∧ (u.fb k).xfer = some x :=
  ⟨{ lead.put [(R.FB_CFG.MODE.i 15, 6)] with fbs := [(15, { Fb.zero with xfer := some (1, 2, true, 0) })] }, (({ lead.put [(R.FB_CFG.MODE.i 15, 6)] with fbs := [(15, { Fb.zero with xfer := some (1, 2, true, 0) })] } : State).after (0 : Nat)).runRim (((1, 2, true, 0) : Nat × Nat × Bool × Nat).2.2.2 + (({ lead.put [(R.FB_CFG.MODE.i 15, 6)] with fbs := [(15, { Fb.zero with xfer := some (1, 2, true, 0) })] } : State).after (0 : Nat)).reqLen (15 : Nat) * (({ lead.put [(R.FB_CFG.MODE.i 15, 6)] with fbs := [(15, { Fb.zero with xfer := some (1, 2, true, 0) })] } : State).after (0 : Nat)).bitTime (15 : Nat) + 1000 * (({ lead.put [(R.FB_CFG.MODE.i 15, 6)] with fbs := [(15, { Fb.zero with xfer := some (1, 2, true, 0) })] } : State).after (0 : Nat)).act (R.FB_XFER2.TM.i (15 : Nat))), 0, 15, (1, 2, true, 0), rfl, by decide +kernel, by decide +kernel, by decide +kernel, by decide +kernel, by decide +kernel⟩

theorem test_wit_AbsoluteEncoderTransfers_7 : ∃ (s : State) (dt : Nat) (u : State) (i k : Nat), u = s.after dt ∧ i < 18 ∧ isFb k = true ∧ u.fbRuns = true ∧ u.unitGone (uSamp i) = false ∧ (u.sampChan i) = none :=
  ⟨up, 0, State.after up 0, 17, 4, rfl, by decide +kernel, by decide +kernel, by decide +kernel, by decide +kernel, by decide +kernel⟩

theorem test_wit_BridgesFollowTheirCarrierAndTrips_1 : ∃ (s u : State) (b : Nat), u = s.runTo (s.nextInst (s.pb b).valley s.msAnchor (s.pbPer b) (s.rd (R.PB_CAR.CAR_PH.i b) : Int)) ∧ isPb b = true ∧ s.carrierOn b = true ∧ (s.pb b).valley = none :=
  ⟨{ lead with dev := { lead.dev with cfg := { lead.dev.cfg with pbMask := 4095 } } }, ({ lead with dev := { lead.dev with cfg := { lead.dev.cfg with pbMask := 4095 } } } : State).runTo (({ lead with dev := { lead.dev with cfg := { lead.dev.cfg with pbMask := 4095 } } } : State).nextInst (({ lead with dev := { lead.dev with cfg := { lead.dev.cfg with pbMask := 4095 } } } : State).pb (11 : Nat)).valley ({ lead with dev := { lead.dev with cfg := { lead.dev.cfg with pbMask := 4095 } } } : State).msAnchor (({ lead with dev := { lead.dev with cfg := { lead.dev.cfg with pbMask := 4095 } } } : State).pbPer (11 : Nat)) (({ lead with dev := { lead.dev with cfg := { lead.dev.cfg with pbMask := 4095 } } } : State).rd (R.PB_CAR.CAR_PH.i (11 : Nat)) : Int)), 11, rfl, by decide +kernel, by decide +kernel, by decide +kernel⟩

theorem test_wit_BridgesFollowTheirCarrierAndTrips_2 : ∃ (s u : State) (b v : Nat), u = s.runTo (s.nextInst (some v) s.msAnchor (s.pbPer b) (s.rd (R.PB_CAR.CAR_PH.i b) : Int)) ∧ isPb b = true ∧ s.carrierOn b = true ∧ (s.pb b).valley = some v :=
  ⟨{ lead with dev := { lead.dev with cfg := { lead.dev.cfg with pbMask := 4095 } }, pbs := [(2, { Pb.zero with valley := some 0 })] }, ({ lead with dev := { lead.dev with cfg := { lead.dev.cfg with pbMask := 4095 } }, pbs := [(2, { Pb.zero with valley := some 0 })] } : State).runTo (({ lead with dev := { lead.dev with cfg := { lead.dev.cfg with pbMask := 4095 } }, pbs := [(2, { Pb.zero with valley := some 0 })] } : State).nextInst (some (0 : Nat)) ({ lead with dev := { lead.dev with cfg := { lead.dev.cfg with pbMask := 4095 } }, pbs := [(2, { Pb.zero with valley := some 0 })] } : State).msAnchor (({ lead with dev := { lead.dev with cfg := { lead.dev.cfg with pbMask := 4095 } }, pbs := [(2, { Pb.zero with valley := some 0 })] } : State).pbPer (2 : Nat)) (({ lead with dev := { lead.dev with cfg := { lead.dev.cfg with pbMask := 4095 } }, pbs := [(2, { Pb.zero with valley := some 0 })] } : State).rd (R.PB_CAR.CAR_PH.i (2 : Nat)) : Int)), 2, 0, rfl, by decide +kernel, by decide +kernel, by decide +kernel⟩

theorem test_wit_BridgesFollowTheirCarrierAndTrips_3 : ∃ (s u : State) (b v : Nat), s.reach (add32 v (s.pbPer b / 2)) = some u ∧ isPb b = true ∧ s.carrierOn b = true ∧ s.pbEdge b = false ∧ (s.pb b).valley = some v ∧ u.pbRld b ≠ 0 :=
  ⟨{ lead with dev := { lead.dev with cfg := { lead.dev.cfg with pbMask := 4095 } }, pbs := [(2, { Pb.zero with valley := some 0 })] }.put [(R.PB_CFG.RLD.i 2, 2), (R.PB_CFG.CAR.i 2, 0)], (({ lead with dev := { lead.dev with cfg := { lead.dev.cfg with pbMask := 4095 } }, pbs := [(2, { Pb.zero with valley := some 0 })] }.put [(R.PB_CFG.RLD.i 2, 2), (R.PB_CFG.CAR.i 2, 0)]).reach (add32 (0 : Nat) (({ lead with dev := { lead.dev with cfg := { lead.dev.cfg with pbMask := 4095 } }, pbs := [(2, { Pb.zero with valley := some 0 })] }.put [(R.PB_CFG.RLD.i 2, 2), (R.PB_CFG.CAR.i 2, 0)] : State).pbPer (2 : Nat) / 2))).getD ({ lead with dev := { lead.dev with cfg := { lead.dev.cfg with pbMask := 4095 } }, pbs := [(2, { Pb.zero with valley := some 0 })] }.put [(R.PB_CFG.RLD.i 2, 2), (R.PB_CFG.CAR.i 2, 0)]), 2, 0, some_of_isSome (by decide +kernel), by decide +kernel, by decide +kernel, by decide +kernel, by decide +kernel, by decide +kernel⟩

theorem test_wit_BridgesFollowTheirCarrierAndTrips_4 : ∃ (s : State) (dt : Nat) (u : State) (src : Src) (b which v : Nat), u = s.after dt ∧ isPb b = true ∧ which < 3 ∧ isWord v = true ∧ u.mayWrite src 21 = true ∧ u.pbOwner b = none :=
  ⟨up, 0, State.after up 0, .host, 11, 2, 999, rfl, by decide +kernel, by decide +kernel, by decide +kernel, by decide +kernel, by decide +kernel⟩

theorem test_wit_BridgesFollowTheirCarrierAndTrips_5 : ∃ (s : State) (dt : Nat) (u : State) (src : Src) (b v : Nat), u = s.after dt ∧ isPb b = true ∧ isWord v = true ∧ bit v 31 = true ∧ u.mayWrite src 21 = true ∧ u.pbOwner b = none :=
  ⟨up, 0, State.after up 0, .host, 11, 4294967295, rfl, by decide +kernel, by decide +kernel, by decide +kernel, by decide +kernel, by decide +kernel⟩

theorem test_wit_BridgesFollowTheirCarrierAndTrips_6 : ∃ (s : State) (dt : Nat) (u : State) (src : Src) (b which v : Nat), u = s.after dt ∧ isPb b = true ∧ which < 4 ∧ isWord v = true ∧ u.mayWrite src 21 = true ∧ (u.pbOwner b).isSome = true :=
  ⟨lead.put [(R.AX_CFG.OUT_MODE.i 9, 4), (R.AX_CLCFG.BRIDGE.i 9, 3), (R.AX_CLCFG.CL_EN.i 9, 1)], 0, State.after (lead.put [(R.AX_CFG.OUT_MODE.i 9, 4), (R.AX_CLCFG.BRIDGE.i 9, 3), (R.AX_CLCFG.CL_EN.i 9, 1)]) 0, .host, 3, 1, 5, rfl, by decide +kernel, by decide +kernel, by decide +kernel, by decide +kernel, by decide +kernel⟩

theorem test_wit_BridgesFollowTheirCarrierAndTrips_7 : ∃ (s : State) (dt : Nat) (u : State) (b trips : Nat), u = s.after dt ∧ isPb b = true ∧ trips < 4096 ∧ u.alive = true ∧ u.mode ≠ 0 ∧ u.dom 21 = true ∧ u.tb.run = true ∧ u.taken 4 = true ∧ (trips &&& u.act (R.PB_TRIP_CFG.TRIP_MASK.i b)) = 0 :=
  ⟨up.put [(R.PB_TRIP_CFG.TRIP_MASK.i 11, 0)], 0, State.after (up.put [(R.PB_TRIP_CFG.TRIP_MASK.i 11, 0)]) 0, 11, 4095, rfl, by decide +kernel, by decide +kernel, by decide +kernel, by decide +kernel, by decide +kernel, by decide +kernel, by decide +kernel, by decide +kernel⟩

theorem test_wit_BridgesFollowTheirCarrierAndTrips_8 : ∃ (s : State) (dt : Nat) (u : State) (b trips : Nat), u = s.after dt ∧ isPb b = true ∧ trips < 4096 ∧ u.alive = true ∧ u.mode ≠ 0 ∧ u.dom 21 = true ∧ u.tb.run = true ∧ u.taken 4 = true ∧ (trips &&& u.act (R.PB_TRIP_CFG.TRIP_MASK.i b)) ≠ 0 ∧ u.act (R.PB_BLANK.BLANK_SRC.i b) = 0 :=
  ⟨up.put [(R.PB_TRIP_CFG.TRIP_MASK.i 4, 16)], 0, State.after (up.put [(R.PB_TRIP_CFG.TRIP_MASK.i 4, 16)]) 0, 4, 31, rfl, by decide +kernel, by decide +kernel, by decide +kernel, by decide +kernel, by decide +kernel, by decide +kernel, by decide +kernel, by decide +kernel, by decide +kernel⟩

theorem test_wit_BridgesFollowTheirCarrierAndTrips_9 : ∃ (s : State) (dt : Nat) (u : State) (src : Src) (b trips : Nat), u = s.after dt ∧ isPb b = true ∧ trips < 4096 ∧ u.mayWrite src 21 = true ∧ (trips &&& u.act (R.PB_TRIP_CFG.TRIP_MASK.i b)) ≠ 0 :=
  ⟨up.put [(R.PB_TRIP_CFG.TRIP_MASK.i 4, 16)], 0, State.after (up.put [(R.PB_TRIP_CFG.TRIP_MASK.i 4, 16)]) 0, .host, 4, 31, rfl, by decide +kernel, by decide +kernel, by decide +kernel, by decide +kernel⟩

theorem test_wit_BridgesFollowTheirCarrierAndTrips_10 : ∃ (s : State) (dt : Nat) (u : State) (src : Src) (b trips : Nat), u = s.after dt ∧ isPb b = true ∧ trips < 4096 ∧ u.mayWrite src 21 = true ∧ (trips &&& u.act (R.PB_TRIP_CFG.TRIP_MASK.i b)) = 0 ∧ bit (u.setsOf (R.PB_STAT.TRIP_ACT.i b).addr) 31 = false :=
  ⟨up.put [(R.PB_STAT.TRIP_ACT.i 4, 1), (R.PB_TRIP_CFG.TRIP_MASK.i 4, 0)], 0, State.after (up.put [(R.PB_STAT.TRIP_ACT.i 4, 1), (R.PB_TRIP_CFG.TRIP_MASK.i 4, 0)]) 0, .host, 4, 31, rfl, by decide +kernel, by decide +kernel, by decide +kernel, by decide +kernel, by decide +kernel⟩

theorem test_wit_BridgesFollowTheirCarrierAndTrips_11 : ∃ (s u : State) (k c : Nat) (w : List Bool), u = s.runTo c ∧ isSd k = true ∧ s.alive = true ∧ s.tb.run = true ∧ s.mode ≠ 0 ∧ s.dom 21 = true ∧ s.rd (R.SD_CFG.EN.j k) = 1 ∧ s.rd (R.SD_CK.EN.j (s.rd (R.SD_CFG.CKSEL.j k))) = 1 ∧ w.length = 3 * s.sdOsr k ∧ s.sdPoint k = some c :=
  ⟨{ lead.put [(R.SD_CFG.EN.j 23, 1), (R.SD_CK.EN.j 0, 1), (R.SD_CFG.FSRC.j 23, 31), (R.SD_CFG.OSR.j 23, 8)] with sds := [(23, { Sd.zero with last := some 0 })] }, ({ lead.put [(R.SD_CFG.EN.j 23, 1), (R.SD_CK.EN.j 0, 1), (R.SD_CFG.FSRC.j 23, 31), (R.SD_CFG.OSR.j 23, 8)] with sds := [(23, { Sd.zero with last := some 0 })] } : State).runTo (16 + State.sdD (lead.put [(R.SD_CFG.EN.j 23, 1), (R.SD_CK.EN.j 0, 1), (R.SD_CFG.FSRC.j 23, 31), (R.SD_CFG.OSR.j 23, 8)]) 23 : Nat), 23, 16 + State.sdD (lead.put [(R.SD_CFG.EN.j 23, 1), (R.SD_CK.EN.j 0, 1), (R.SD_CFG.FSRC.j 23, 31), (R.SD_CFG.OSR.j 23, 8)]) 23, List.replicate 24 true, rfl, by decide +kernel, by decide +kernel, by decide +kernel, by decide +kernel, by decide +kernel, by decide +kernel, by decide +kernel, by decide +kernel, by decide +kernel⟩

theorem test_wit_LaneRunsAndCurrentLoops_1 : ∃ (s : State) (dt : Nat) (u : State) (n : Nat) (r : LaneRun), u = s.after dt ∧ isAxis n = true ∧ u.laneOn n = true ∧ (u.lane n).run = some r ∧ r.done = none ∧ r.err = false ∧ u.since r.start < sub32 r.due r.start :=
  ⟨{ lead.put [(R.AX_CFG.OUT_MODE.i 7, 1)] with dev := { lead.dev with cfg := { lead.dev.cfg with rgDef := 1, axisGroup := [(7, 0)] } }, lanes := [(7, { Lane.zero with run := some ⟨0, 100, none, false, .zero, true, false, [], 0, 0, 0, 0, 1, []⟩ })] }, 0, State.after ({ lead.put [(R.AX_CFG.OUT_MODE.i 7, 1)] with dev := { lead.dev with cfg := { lead.dev.cfg with rgDef := 1, axisGroup := [(7, 0)] } }, lanes := [(7, { Lane.zero with run := some ⟨0, 100, none, false, .zero, true, false, [], 0, 0, 0, 0, 1, []⟩ })] }) 0, 7, ⟨0, 100, none, false, .zero, true, false, [], 0, 0, 0, 0, 1, []⟩, rfl, by decide +kernel, by decide +kernel, by decide +kernel, by decide +kernel, by decide +kernel, by decide +kernel⟩

theorem test_wit_LaneRunsAndCurrentLoops_2 : ∃ (s : State) (dt : Nat) (u : State) (n : Nat) (r : ClRun), u = s.after dt ∧ isAxis n = true ∧ u.laneOn n = true ∧ (u.lane n).cl = some r ∧ r.done = none ∧ u.since r.start < sub32 (add32 r.start (u.rd (R.AX_CLCFG.CL_OFS.i n))) r.start :=
  ⟨{ lead.put [(R.AX_CFG.OUT_MODE.i 7, 4), (R.AX_CLCFG.CL_OFS.i 7, 50)] with dev := { lead.dev with cfg := { lead.dev.cfg with rgDef := 1, axisGroup := [(7, 0)] } }, lanes := [(7, { Lane.zero with cl := some ⟨0, none, .zero, .zero, true, true, [], [], 0⟩ })] }, 0, State.after ({ lead.put [(R.AX_CFG.OUT_MODE.i 7, 4), (R.AX_CLCFG.CL_OFS.i 7, 50)] with dev := { lead.dev with cfg := { lead.dev.cfg with rgDef := 1, axisGroup := [(7, 0)] } }, lanes := [(7, { Lane.zero with cl := some ⟨0, none, .zero, .zero, true, true, [], [], 0⟩ })] }) 0, 7, ⟨0, none, .zero, .zero, true, true, [], [], 0⟩, rfl, by decide +kernel, by decide +kernel, by decide +kernel, by decide +kernel, by decide +kernel⟩

theorem test_wit_LaneRunsAndCurrentLoops_3 : ∃ (s : State) (dt : Nat) (u : State) (n : Nat), u = s.after dt ∧ isAxis n = true ∧ u.laneOn n = true ∧ u.spr.laneDead.contains n = false :=
  ⟨{ lead.put [(R.AX_CFG.OUT_MODE.i 159, 4), (R.AX_CLCFG.CL_OFS.i 7, 50)] with dev := { lead.dev with cfg := { lead.dev.cfg with rgDef := 1, axisGroup := [(159, 0)] } } }, 0, State.after ({ lead.put [(R.AX_CFG.OUT_MODE.i 159, 4), (R.AX_CLCFG.CL_OFS.i 7, 50)] with dev := { lead.dev with cfg := { lead.dev.cfg with rgDef := 1, axisGroup := [(159, 0)] } } }) 0, 159, rfl, by decide +kernel, by decide +kernel, by decide +kernel⟩

theorem test_wit_LaneRunsAndCurrentLoops_4 : ∃ (s u : State) (n g : Nat), u = s.runTo (s.nextInst (s.lane n).clAt (s.rgAnchor g) (s.clPer n) 0) ∧ isAxis n = true ∧ s.clOn n = true ∧ s.dev.rgIn = true ∧ s.axGroup n = some g ∧ ((List.range 16).all fun k => s.rd (R.FB_CFG.OWNER.i k) != n) = true ∧ (s.lane n).failed = false ∧ u.spr.laneDead.contains n = false ∧ u.torqueOff n = false :=
  ⟨{ lead.put [(R.AX_CFG.OUT_MODE.i 7, 5), (R.AX_CLCFG.CL_EN.i 7, 1), (R.AX_STAT.TORQUE_OFF.i 7, 0)] with dev := { lead.dev with cfg := { lead.dev.cfg with rgDef := 1, axisGroup := [(7, 0)] } } }, ({ lead.put [(R.AX_CFG.OUT_MODE.i 7, 5), (R.AX_CLCFG.CL_EN.i 7, 1), (R.AX_STAT.TORQUE_OFF.i 7, 0)] with dev := { lead.dev with cfg := { lead.dev.cfg with rgDef := 1, axisGroup := [(7, 0)] } } } : State).runTo (({ lead.put [(R.AX_CFG.OUT_MODE.i 7, 5), (R.AX_CLCFG.CL_EN.i 7, 1), (R.AX_STAT.TORQUE_OFF.i 7, 0)] with dev := { lead.dev with cfg := { lead.dev.cfg with rgDef := 1, axisGroup := [(7, 0)] } } } : State).nextInst (({ lead.put [(R.AX_CFG.OUT_MODE.i 7, 5), (R.AX_CLCFG.CL_EN.i 7, 1), (R.AX_STAT.TORQUE_OFF.i 7, 0)] with dev := { lead.dev with cfg := { lead.dev.cfg with rgDef := 1, axisGroup := [(7, 0)] } } } : State).lane (7 : Nat)).clAt (({ lead.put [(R.AX_CFG.OUT_MODE.i 7, 5), (R.AX_CLCFG.CL_EN.i 7, 1), (R.AX_STAT.TORQUE_OFF.i 7, 0)] with dev := { lead.dev with cfg := { lead.dev.cfg with rgDef := 1, axisGroup := [(7, 0)] } } } : State).rgAnchor (0 : Nat)) (({ lead.put [(R.AX_CFG.OUT_MODE.i 7, 5), (R.AX_CLCFG.CL_EN.i 7, 1), (R.AX_STAT.TORQUE_OFF.i 7, 0)] with dev := { lead.dev with cfg := { lead.dev.cfg with rgDef := 1, axisGroup := [(7, 0)] } } } : State).clPer (7 : Nat)) 0), 7, 0, rfl, by decide +kernel, by decide +kernel, by decide +kernel, by decide +kernel, by decide +kernel, by decide +kernel, by decide +kernel, by decide +kernel⟩

theorem test_wit_LaneRunsAndCurrentLoops_5 : ∃ (s u : State) (n g : Nat), u = s.runTo (s.nextInst (s.lane n).clAt (s.rgAnchor g) (s.clPer n) 0) ∧ isAxis n = true ∧ s.clOn n = true ∧ s.dev.rgIn = true ∧ s.axGroup n = some g :=
  ⟨{ lead.put [(R.AX_CFG.OUT_MODE.i 7, 5), (R.AX_CLCFG.CL_EN.i 7, 1), (R.AX_STAT.TORQUE_OFF.i 7, 1)] with dev := { lead.dev with cfg := { lead.dev.cfg with rgDef := 1, axisGroup := [(7, 0)] } } }, ({ lead.put [(R.AX_CFG.OUT_MODE.i 7, 5), (R.AX_CLCFG.CL_EN.i 7, 1), (R.AX_STAT.TORQUE_OFF.i 7, 1)] with dev := { lead.dev with cfg := { lead.dev.cfg with rgDef := 1, axisGroup := [(7, 0)] } } } : State).runTo (({ lead.put [(R.AX_CFG.OUT_MODE.i 7, 5), (R.AX_CLCFG.CL_EN.i 7, 1), (R.AX_STAT.TORQUE_OFF.i 7, 1)] with dev := { lead.dev with cfg := { lead.dev.cfg with rgDef := 1, axisGroup := [(7, 0)] } } } : State).nextInst (({ lead.put [(R.AX_CFG.OUT_MODE.i 7, 5), (R.AX_CLCFG.CL_EN.i 7, 1), (R.AX_STAT.TORQUE_OFF.i 7, 1)] with dev := { lead.dev with cfg := { lead.dev.cfg with rgDef := 1, axisGroup := [(7, 0)] } } } : State).lane (7 : Nat)).clAt (({ lead.put [(R.AX_CFG.OUT_MODE.i 7, 5), (R.AX_CLCFG.CL_EN.i 7, 1), (R.AX_STAT.TORQUE_OFF.i 7, 1)] with dev := { lead.dev with cfg := { lead.dev.cfg with rgDef := 1, axisGroup := [(7, 0)] } } } : State).rgAnchor (0 : Nat)) (({ lead.put [(R.AX_CFG.OUT_MODE.i 7, 5), (R.AX_CLCFG.CL_EN.i 7, 1), (R.AX_STAT.TORQUE_OFF.i 7, 1)] with dev := { lead.dev with cfg := { lead.dev.cfg with rgDef := 1, axisGroup := [(7, 0)] } } } : State).clPer (7 : Nat)) 0), 7, 0, rfl, by decide +kernel, by decide +kernel, by decide +kernel, by decide +kernel⟩

theorem test_wit_LaneRunsAndCurrentLoops_6 : ∃ (s u : State) (n : Nat) (r : ClRun), s.reach (add32 r.start (s.rd (R.AX_CLCFG.CL_OFS.i n))) = some u ∧ isAxis n = true ∧ (s.lane n).cl = some r ∧ s.clOn n = true ∧ r.done.isSome = true ∧ u.driven = true ∧ u.torqueOff n = false :=
  ⟨{ lead.put [(R.AX_CFG.OUT_MODE.i 7, 5), (R.AX_CLCFG.CL_EN.i 7, 1), (R.AX_STAT.TORQUE_OFF.i 7, 0)] with dev := { lead.dev with cfg := { lead.dev.cfg with rgDef := 1, axisGroup := [(7, 0)] } }, lanes := [(7, { Lane.zero with cl := some ⟨0, some 5, .zero, .zero, true, true, [7, 8, 9], [], 0⟩ })] }, (({ lead.put [(R.AX_CFG.OUT_MODE.i 7, 5), (R.AX_CLCFG.CL_EN.i 7, 1), (R.AX_STAT.TORQUE_OFF.i 7, 0)] with dev := { lead.dev with cfg := { lead.dev.cfg with rgDef := 1, axisGroup := [(7, 0)] } }, lanes := [(7, { Lane.zero with cl := some ⟨0, some 5, .zero, .zero, true, true, [7, 8, 9], [], 0⟩ })] }).reach (add32 (⟨0, some 5, .zero, .zero, true, true, [7, 8, 9], [], 0⟩ : ClRun).start (({ lead.put [(R.AX_CFG.OUT_MODE.i 7, 5), (R.AX_CLCFG.CL_EN.i 7, 1), (R.AX_STAT.TORQUE_OFF.i 7, 0)] with dev := { lead.dev with cfg := { lead.dev.cfg with rgDef := 1, axisGroup := [(7, 0)] } }, lanes := [(7, { Lane.zero with cl := some ⟨0, some 5, .zero, .zero, true, true, [7, 8, 9], [], 0⟩ })] } : State).rd (R.AX_CLCFG.CL_OFS.i (7 : Nat))))).getD ({ lead.put [(R.AX_CFG.OUT_MODE.i 7, 5), (R.AX_CLCFG.CL_EN.i 7, 1), (R.AX_STAT.TORQUE_OFF.i 7, 0)] with dev := { lead.dev with cfg := { lead.dev.cfg with rgDef := 1, axisGroup := [(7, 0)] } }, lanes := [(7, { Lane.zero with cl := some ⟨0, some 5, .zero, .zero, true, true, [7, 8, 9], [], 0⟩ })] }), 7, ⟨0, some 5, .zero, .zero, true, true, [7, 8, 9], [], 0⟩, some_of_isSome (by decide +kernel), by decide +kernel, by decide +kernel, by decide +kernel, by decide +kernel, by decide +kernel, by decide +kernel⟩

theorem test_wit_LaneRunsAndCurrentLoops_7 : ∃ (s u : State) (n : Nat) (r : ClRun), s.reach (add32 r.start (s.rd (R.AX_CLCFG.CL_OFS.i n))) = some u ∧ isAxis n = true ∧ (s.lane n).cl = some r ∧ s.clOn n = true ∧ r.done = none ∧ u.rd (R.AX_CNT.LANE_OVR.i n) < 65534 ∧ (u.lane n).clConsec + 1 < u.ovrN n :=
  ⟨{ lead.put [(R.AX_CFG.OUT_MODE.i 7, 5), (R.AX_CLCFG.CL_EN.i 7, 1), (R.AX_REACT.OVR_N.i 7, 3)] with dev := { lead.dev with cfg := { lead.dev.cfg with rgDef := 1, axisGroup := [(7, 0)] } }, lanes := [(7, { Lane.zero with cl := some ⟨0, none, .zero, .zero, true, true, [], [], 0⟩ })] }, (({ lead.put [(R.AX_CFG.OUT_MODE.i 7, 5), (R.AX_CLCFG.CL_EN.i 7, 1), (R.AX_REACT.OVR_N.i 7, 3)] with dev := { lead.dev with cfg := { lead.dev.cfg with rgDef := 1, axisGroup := [(7, 0)] } }, lanes := [(7, { Lane.zero with cl := some ⟨0, none, .zero, .zero, true, true, [], [], 0⟩ })] }).reach (add32 (⟨0, none, .zero, .zero, true, true, [], [], 0⟩ : ClRun).start (({ lead.put [(R.AX_CFG.OUT_MODE.i 7, 5), (R.AX_CLCFG.CL_EN.i 7, 1), (R.AX_REACT.OVR_N.i 7, 3)] with dev := { lead.dev with cfg := { lead.dev.cfg with rgDef := 1, axisGroup := [(7, 0)] } }, lanes := [(7, { Lane.zero with cl := some ⟨0, none, .zero, .zero, true, true, [], [], 0⟩ })] } : State).rd (R.AX_CLCFG.CL_OFS.i (7 : Nat))))).getD ({ lead.put [(R.AX_CFG.OUT_MODE.i 7, 5), (R.AX_CLCFG.CL_EN.i 7, 1), (R.AX_REACT.OVR_N.i 7, 3)] with dev := { lead.dev with cfg := { lead.dev.cfg with rgDef := 1, axisGroup := [(7, 0)] } }, lanes := [(7, { Lane.zero with cl := some ⟨0, none, .zero, .zero, true, true, [], [], 0⟩ })] }), 7, ⟨0, none, .zero, .zero, true, true, [], [], 0⟩, some_of_isSome (by decide +kernel), by decide +kernel, by decide +kernel, by decide +kernel, by decide +kernel, by decide +kernel, by decide +kernel⟩

theorem test_wit_LaneRunsAndCurrentLoops_8 : ∃ (s : State) (dt : Nat) (u : State) (src : Src) (n : Nat), u = s.after dt ∧ isAxis n = true ∧ u.mayWrite src (laneDom n) = true :=
  ⟨up, 0, State.after up 0, .host, 159, rfl, by decide +kernel, by decide +kernel⟩

theorem test_wit_LaneRunsAndCurrentLoops_9 : ∃ (s : State) (dt : Nat) (u : State) (src : Src) (n : Nat), u = s.after dt ∧ isAxis n = true ∧ u.mayWrite src (laneDom n) = true :=
  ⟨up, 0, State.after up 0, .host, 159, rfl, by decide +kernel, by decide +kernel⟩

theorem test_wit_RingPortsMoveAndFold_1 : ∃ (s : State) (dt : Nat) (u : State) (src : Src) (ch : Nat), u = s.after dt ∧ isCh ch = true ∧ u.mayWrite src (17 + ch) = true ∧ u.ringUp ch = true :=
  ⟨lead0, 0, State.after lead0 0, .host, 0, rfl, by decide +kernel, by decide +kernel, by decide +kernel⟩

theorem test_wit_RingPortsMoveAndFold_2 : ∃ (s : State) (dt : Nat) (u : State) (src : Src) (ch : Nat), u = s.after dt ∧ isCh ch = true ∧ u.mayWrite src (17 + ch) = true ∧ u.ringUp ch = true :=
  ⟨node1, 0, State.after node1 0, .host, 1, rfl, by decide +kernel, by decide +kernel, by decide +kernel⟩

theorem test_wit_RingPortsMoveAndFold_3 : ∃ (s : State) (dt : Nat) (u : State) (src : Src) (ch : Nat), u = s.after dt ∧ isCh ch = true ∧ u.mayWrite src (17 + ch) = true :=
  ⟨up, 0, State.after up 0, .host, 1, rfl, by decide +kernel, by decide +kernel⟩

theorem test_wit_RingPortsMoveAndFold_4 : ∃ (s : State) (dt : Nat) (u : State) (ch port : Nat), u = s.after dt ∧ isCh ch = true ∧ isPort port = true ∧ u.ringUp ch = true ∧ u.onSpare ch port = false ∧ u.locked (4 * ch + 2 * port + 1) = true :=
  ⟨lead0.setLock 1 true, 0, State.after (lead0.setLock 1 true) 0, 0, 0, rfl, by decide +kernel, by decide +kernel, by decide +kernel, by decide +kernel, by decide +kernel⟩

theorem test_wit_RingPortsMoveAndFold_5 : ∃ (s : State) (dt : Nat) (u : State) (lane : Nat), u = s.after dt ∧ (lane = 8 ∨ lane = 9) ∧ u.alive = true ∧ u.tb.run = true ∧ u.mode ≠ 0 :=
  ⟨up.setLock 9 true, 0, State.after (up.setLock 9 true) 0, 9, rfl, by decide +kernel, by decide +kernel, by decide +kernel, by decide +kernel⟩

theorem test_wit_RingPortsMoveAndFold_6 : ∃ (s : State) (dt : Nat) (u : State) (lane : Nat), u = s.after dt ∧ lane < 8 ∧ u.ringUp (lane / 4) = true :=
  ⟨node1, 0, State.after node1 0, 7, rfl, by decide +kernel, by decide +kernel⟩

theorem test_wit_RingPortsMoveAndFold_7 : ∃ (s : State) (dt : Nat) (u : State) (lane : Nat), u = s.after dt ∧ (lane = 8 ∨ lane = 9) ∧ u.alive = true ∧ u.tb.run = true ∧ u.mode ≠ 0 :=
  ⟨up, 0, State.after up 0, 8, rfl, by decide +kernel, by decide +kernel, by decide +kernel, by decide +kernel⟩

theorem test_wit_RingPortsMoveAndFold_8 : ∃ (s : State) (dt : Nat) (u : State) (lane : Nat) (spare : Bool), u = s.after dt ∧ lane < 8 ∧ u.ringUp (lane / 4) = true :=
  ⟨lead0, 0, State.after lead0 0, 3, true, rfl, by decide +kernel, by decide +kernel⟩

theorem test_wit_RingPortsMoveAndFold_9 : ∃ (s : State) (dt : Nat) (u : State) (ch port : Nat), u = s.after dt ∧ isCh ch = true ∧ isPort port = true ∧ u.ringUp ch = true ∧ u.down ch port = false ∧ u.locked (laneNo ch port false) = false ∧ u.locked (laneNo ch port false + 1) = false ∧ 2000 ≤ u.lockAge (laneNo ch port false) ∧ 2000 ≤ u.lockAge (laneNo ch port false + 1) :=
  ⟨{ node1.put [(R.IKL_CFG.FOLD_OK.i 1, 1)] with tb := { node1.tb with rim := 2000 } }, 0, State.after ({ node1.put [(R.IKL_CFG.FOLD_OK.i 1, 1)] with tb := { node1.tb with rim := 2000 } }) 0, 1, 1, rfl, by decide +kernel, by decide +kernel, by decide +kernel, by decide +kernel, by decide +kernel, by decide +kernel, by decide +kernel, by decide +kernel⟩

theorem test_wit_RingPortsMoveAndFold_10 : ∃ (s : State) (dt : Nat) (u : State) (ch port : Nat), u = s.after dt ∧ isCh ch = true ∧ isPort port = true ∧ u.ringUp ch = true ∧ (u.chan ch).fp.contains port = true ∧ u.locked (laneNo ch port false) = true ∧ 1000000 ≤ u.lockAge (laneNo ch port false) :=
  ⟨{ (node1.setLock 6 true).modChan 1 fun c => { c with fp := [1] } with tb := { node1.tb with rim := 1000000 } }, 0, State.after ({ (node1.setLock 6 true).modChan 1 fun c => { c with fp := [1] } with tb := { node1.tb with rim := 1000000 } }) 0, 1, 1, rfl, by decide +kernel, by decide +kernel, by decide +kernel, by decide +kernel, by decide +kernel, by decide +kernel⟩

theorem test_wit_RingChannelsStartAndAreLost_1 : ∃ (s : State) (dt : Nat) (u : State) (ch : Nat), u = s.after dt ∧ isCh ch = true ∧ u.ringUp ch = true ∧ u.leads ch = true ∧ u.chState ch = 3 ∧ u.lossN ch ≤ (u.chan ch).noRet :=
  ⟨(lead0.put [(R.IKL_LEN.NNODES.i 0, 2)]).modChan 0 fun c => { c with noRet := 99999 }, 0, State.after ((lead0.put [(R.IKL_LEN.NNODES.i 0, 2)]).modChan 0 fun c => { c with noRet := 99999 }) 0, 0, rfl, by decide +kernel, by decide +kernel, by decide +kernel, by decide +kernel, by decide +kernel⟩

theorem test_wit_RingChannelsStartAndAreLost_2 : ∃ (s u : State), u = s.runRim (s.ring.csFrom + s.tWait) ∧ s.alive = true ∧ s.tb.run = true ∧ s.mode = 1 ∧ s.csCap = true ∧ s.csState = 1 ∧ s.twinUp = false :=
  ⟨{ up.put [(R.IKL_CFG.ROLE.i 1, 1), (R.IKL_CS.CS_STATE.i 1, 1)] with dev := { up.dev with cfg := { up.dev.cfg with coldStart := true } } }, ({ up.put [(R.IKL_CFG.ROLE.i 1, 1), (R.IKL_CS.CS_STATE.i 1, 1)] with dev := { up.dev with cfg := { up.dev.cfg with coldStart := true } } } : State).runRim (({ up.put [(R.IKL_CFG.ROLE.i 1, 1), (R.IKL_CS.CS_STATE.i 1, 1)] with dev := { up.dev with cfg := { up.dev.cfg with coldStart := true } } } : State).ring.csFrom + ({ up.put [(R.IKL_CFG.ROLE.i 1, 1), (R.IKL_CS.CS_STATE.i 1, 1)] with dev := { up.dev with cfg := { up.dev.cfg with coldStart := true } } } : State).tWait), rfl, by decide +kernel, by decide +kernel, by decide +kernel, by decide +kernel, by decide +kernel, by decide +kernel⟩

theorem test_wit_RingChannelsStartAndAreLost_3 : ∃ (s : State) (r : Nat), s.ring.backAt = some r ∧ s.alive = true ∧ s.tb.run = true ∧ s.mode = 1 ∧ s.csState = 3 ∧ (s.used 0 || s.used 1) = true :=
  ⟨{ up.put [(R.IKL_CFG.ROLE.i 1, 1), (R.IKL_CS.CS_STATE.i 1, 3)] with ring := { up.ring with backAt := some 50 } }, 50, by decide +kernel, by decide +kernel, by decide +kernel, by decide +kernel, by decide +kernel, by decide +kernel⟩

theorem test_wit_RingChannelsStartAndAreLost_4 : ∃ (s : State) (dt : Nat) (u : State) (ch : Nat), u = s.after dt ∧ isCh ch = true ∧ u.ringUp ch = true ∧ u.chState ch = 3 ∧ u.leadSide ch = false ∧ u.lossCyc ch ≤ (u.chan ch).noAcc ∧ (u.chan ch).missing = false :=
  ⟨(node1.put [(R.IKL_STAT.STATE.i 1, 3)]).modChan 1 fun c => { c with noAcc := 99999 }, 0, State.after ((node1.put [(R.IKL_STAT.STATE.i 1, 3)]).modChan 1 fun c => { c with noAcc := 99999 }) 0, 1, rfl, by decide +kernel, by decide +kernel, by decide +kernel, by decide +kernel, by decide +kernel, by decide +kernel⟩

theorem test_wit_RingChannelsStartAndAreLost_5 : ∃ (s : State) (dt : Nat) (u : State) (ch : Nat), u = s.after dt ∧ u.alive = true ∧ u.tb.run = true ∧ u.readChs = [ch] ∧ (u.chan ch).missing = true ∧ u.rd (R.IKL_CS.LL_ACT.i 0) = 0 ∧ u.rd (R.IKL_CS.LL_ACT.i 1) = 0 :=
  ⟨node1.modChan 1 fun c => { c with missing := true }, 0, State.after (node1.modChan 1 fun c => { c with missing := true }) 0, 1, rfl, by decide +kernel, by decide +kernel, by decide +kernel, by decide +kernel, by decide +kernel, by decide +kernel⟩

theorem test_wit_RingChannelsStartAndAreLost_6 : ∃ (s : State) (dt : Nat) (u : State) (ch n : Nat), u = s.after dt ∧ isCh ch = true ∧ (u.chan ch).rejoin = some n ∧ u.ringUp ch = true ∧ u.chState ch = 2 ∧ max 1 (u.act (R.IKL_START.REJOIN_TMO.i ch)) ≤ n :=
  ⟨(node1.put [(R.IKL_STAT.STATE.i 1, 2)]).modChan 1 fun c => { c with rejoin := some 65536 }, 0, State.after ((node1.put [(R.IKL_STAT.STATE.i 1, 2)]).modChan 1 fun c => { c with rejoin := some 65536 }) 0, 1, 65536, rfl, by decide +kernel, by decide +kernel, by decide +kernel, by decide +kernel, by decide +kernel⟩

theorem test_wit_RingChannelsStartAndAreLost_7 : ∃ (s : State) (dt : Nat) (u : State) (ch : Nat), u = s.after dt ∧ isCh ch = true ∧ u.ringUp ch = true ∧ u.leadSide ch = false ∧ u.lossCyc ch ≤ (u.chan ch).quiet ∧ u.csState ≠ 2 ∧ u.chState ch = 2 :=
  ⟨(node1.put [(R.IKL_STAT.STATE.i 1, 2)]).modChan 1 fun c => { c with quiet := 65536 }, 0, State.after ((node1.put [(R.IKL_STAT.STATE.i 1, 2)]).modChan 1 fun c => { c with quiet := 65536 }) 0, 1, rfl, by decide +kernel, by decide +kernel, by decide +kernel, by decide +kernel, by decide +kernel, by decide +kernel⟩

theorem test_wit_RingChannelsStartAndAreLost_8 : ∃ (s u : State) (ch : Nat), s.reach (sub32 (s.nextCyc ch) 500) = some u ∧ isCh ch = true ∧ s.ringUp ch = true ∧ s.leads ch = true :=
  ⟨lead0.put [(R.IKL_LEN.NNODES.i 0, 2)], ((lead0.put [(R.IKL_LEN.NNODES.i 0, 2)]).reach (sub32 ((lead0.put [(R.IKL_LEN.NNODES.i 0, 2)] : State).nextCyc (0 : Nat)) 500)).getD (lead0.put [(R.IKL_LEN.NNODES.i 0, 2)]), 0, some_of_isSome (by decide +kernel), by decide +kernel, by decide +kernel, by decide +kernel⟩

theorem test_wit_RingFramesAreHeard_1 : ∃ (s : State) (dt : Nat) (u : State) (ch port arr : Nat) (b : List Nat), u = s.after dt ∧ frameOk ch port arr b = true ∧ u.ringUp ch = true ∧ u.mode = 4 ∧ u.leadSide ch = false ∧ u.chState ch = 1 ∧ hcrcOk b = true ∧ b.getD 0 0 = 1 :=
  ⟨node1, 0, State.after node1 0, 1, 1, 77, frameOfType 1, rfl, by decide +kernel, by decide +kernel, by decide +kernel, by decide +kernel, by decide +kernel, by decide +kernel, by decide +kernel⟩

theorem test_wit_RingFramesAreHeard_2 : ∃ (s : State) (dt : Nat) (u : State) (ch port arr : Nat) (b : List Nat), u = s.after dt ∧ frameOk ch port arr b = true ∧ u.ringUp ch = true ∧ u.mode = 4 ∧ u.leadSide ch = false ∧ u.chState ch = 1 ∧ hcrcOk b = true ∧ b.getD 0 0 = 2 :=
  ⟨node1, 0, State.after node1 0, 1, 1, 77, frameOfType 2, rfl, by decide +kernel, by decide +kernel, by decide +kernel, by decide +kernel, by decide +kernel, by decide +kernel, by decide +kernel⟩

theorem test_wit_RingFramesAreHeard_3 : ∃ (s : State) (dt : Nat) (u : State) (ch port arr : Nat) (b : List Nat), u = s.after dt ∧ frameOk ch port arr b = true ∧ u.ringUp ch = true ∧ u.mode = 4 ∧ u.leadSide ch = false ∧ u.chState ch = 1 ∧ hcrcOk b = true ∧ b.getD 0 0 = 2 ∧ (u.chan ch).req.contains port = true :=
  ⟨node1.modChan 1 fun c => { c with req := [1] }, 0, State.after (node1.modChan 1 fun c => { c with req := [1] }) 0, 1, 1, 77, frameOfType 2, rfl, by decide +kernel, by decide +kernel, by decide +kernel, by decide +kernel, by decide +kernel, by decide +kernel, by decide +kernel, by decide +kernel⟩

theorem test_wit_RingFramesAreHeard_4 : ∃ (s : State) (dt : Nat) (u : State) (ch port arr : Nat) (b : List Nat), u = s.after dt ∧ frameOk ch port arr b = true ∧ u.ringUp ch = true ∧ u.mode = 4 ∧ u.leadSide ch = false ∧ u.chState ch = 3 ∧ hcrcOk b = true ∧ b.getD 0 0 = 2 ∧ u.accepts ch (hdrOf b) = true ∧ u.rd (R.IKL_CNT_A.NULL.i ch) < 65534 :=
  ⟨node1.put [(R.IKL_STAT.STATE.i 1, 3)], 0, State.after (node1.put [(R.IKL_STAT.STATE.i 1, 3)]) 0, 1, 0, 77, nullClaimed, rfl, by decide +kernel, by decide +kernel, by decide +kernel, by decide +kernel, by decide +kernel, by decide +kernel, by decide +kernel, by decide +kernel, by decide +kernel⟩

theorem test_wit_RingFramesAreHeard_5 : ∃ (s : State) (dt : Nat) (u : State) (ch port arr : Nat) (b : List Nat), u = s.after dt ∧ frameOk ch port arr b = true ∧ u.ringUp ch = true ∧ u.mode = 4 ∧ u.leadSide ch = false ∧ u.chState ch = 3 ∧ hcrcOk b = true ∧ b.getD 0 0 = 1 ∧ u.accepts ch (hdrOf b) = true :=
  ⟨node1.put [(R.IKL_STAT.STATE.i 1, 3)], 0, State.after (node1.put [(R.IKL_STAT.STATE.i 1, 3)]) 0, 1, 0, 77, frameHdr (1 :: (List.replicate 11 0 ++ [7] ++ List.replicate 17 0)), rfl, by decide +kernel, by decide +kernel, by decide +kernel, by decide +kernel, by decide +kernel, by decide +kernel, by decide +kernel, by decide +kernel⟩

theorem test_wit_RingFramesAreHeard_6 : ∃ (s : State) (dt : Nat) (u : State) (ch port arr : Nat) (b : List Nat), u = s.after dt ∧ frameOk ch port arr b = true ∧ u.ringUp ch = true ∧ u.mode = 4 ∧ u.leadSide ch = false ∧ u.chState ch = 1 ∧ hcrcOk b = true ∧ b.getD 0 0 = 4 :=
  ⟨node1, 0, State.after node1 0, 1, 0, 77, frameOfType 4, rfl, by decide +kernel, by decide +kernel, by decide +kernel, by decide +kernel, by decide +kernel, by decide +kernel, by decide +kernel⟩

theorem test_wit_RingFramesAreHeard_7 : ∃ (s : State) (dt : Nat) (u : State) (ch port arr : Nat) (b : List Nat), u = s.after dt ∧ frameOk ch port arr b = true ∧ u.ringUp ch = true ∧ u.mode = 4 ∧ u.leadSide ch = false ∧ u.chState ch = 1 ∧ hcrcOk b = true ∧ b.getD 0 0 = 3 ∧ u.csNamed ch (hdrOf b).addr = true :=
  ⟨named1, 0, State.after named1 0, 1, 0, 77, coldFrame, rfl, by decide +kernel, by decide +kernel, by decide +kernel, by decide +kernel, by decide +kernel, by decide +kernel, by decide +kernel, by decide +kernel⟩

theorem test_wit_RingFramesAreHeard_8 : ∃ (s : State) (dt : Nat) (u : State) (ch port arr : Nat) (b : List Nat), u = s.after dt ∧ frameOk ch port arr b = true ∧ u.ringUp ch = true ∧ u.mode = 2 ∧ u.leadSide ch = true ∧ hcrcOk b = true ∧ b.getD 0 0 = 4 ∧ u.ownFrame ch (hdrOf b) = true :=
  ⟨lead0, 0, State.after lead0 0, 0, 1, 9, frameOfType 4, rfl, by decide +kernel, by decide +kernel, by decide +kernel, by decide +kernel, by decide +kernel, by decide +kernel, by decide +kernel⟩

theorem test_wit_SolverAndSeparationDeliver_1 : ∃ (s : State) (dt : Nat) (u : State) (p : Problem), u = s.after dt ∧ u.rul.prob = some p ∧ p.sepDone = false ∧ u.dom 8 = true :=
  ⟨{ solver0 with rul := { solver0.rul with prob := some prob0 } }, 0, State.after ({ solver0 with rul := { solver0.rul with prob := some prob0 } }) 0, prob0, rfl, by decide +kernel, by decide +kernel, by decide +kernel⟩

theorem test_wit_SolverAndSeparationDeliver_2 : ∃ (s : State) (dt : Nat) (u : State) (p : Problem) (a f : Nat), u = s.after dt ∧ a < 65536 ∧ f < 65536 ∧ u.rul.prob = some p ∧ u.rul.res = none ∧ p.sepDone = true ∧ u.solving = true ∧ sub32 u.now p.start < sub32 p.due p.start :=
  ⟨{ solver0 with rul := { solver0.rul with prob := some { prob0 with sepDone := true } } }, 0, State.after ({ solver0 with rul := { solver0.rul with prob := some { prob0 with sepDone := true } } }) 0, { prob0 with sepDone := true }, 65535, 0, rfl, by decide +kernel, by decide +kernel, by decide +kernel, by decide +kernel, by decide +kernel, by decide +kernel, by decide +kernel⟩

theorem test_wit_SolverAndSeparationDeliver_3 : ∃ (s u : State) (p : Problem) (r : SolveRes), s.reach (p.due) = some u ∧ s.rul.prob = some p ∧ s.rul.res = some r ∧ r.bad = false ∧ s.solving = true :=
  ⟨{ solver0 with rul := { solver0.rul with prob := some prob0, res := some ⟨[], false⟩ } }, (({ solver0 with rul := { solver0.rul with prob := some prob0, res := some ⟨[], false⟩ } }).reach ((prob0 : Problem).due)).getD ({ solver0 with rul := { solver0.rul with prob := some prob0, res := some ⟨[], false⟩ } }), prob0, ⟨[], false⟩, some_of_isSome (by decide +kernel), by decide +kernel, by decide +kernel, by decide +kernel, by decide +kernel⟩

theorem test_wit_SolverAndSeparationDeliver_4 : ∃ (s u : State) (p : Problem), s.reach (p.due) = some u ∧ s.rul.prob = some p ∧ s.rul.res = none ∧ s.solving = true ∧ u.rd R.RUL_STAT.CONSEC + 1 < p.k ∧ u.rd R.RUL_CNT_BAD.LATE_CNT < 65534 :=
  ⟨{ solver0 with rul := { solver0.rul with prob := some prob0 } }, (({ solver0 with rul := { solver0.rul with prob := some prob0 } }).reach ((prob0 : Problem).due)).getD ({ solver0 with rul := { solver0.rul with prob := some prob0 } }), prob0, some_of_isSome (by decide +kernel), by decide +kernel, by decide +kernel, by decide +kernel, by decide +kernel, by decide +kernel⟩

theorem test_wit_SolverAndSeparationDeliver_5 : ∃ (s u : State) (p : Problem) (r : SolveRes), s.reach (p.due) = some u ∧ s.rul.prob = some p ∧ s.rul.res = some r ∧ r.bad = true ∧ s.solving = true ∧ u.rd R.RUL_STAT.CONSEC + 1 < p.k :=
  ⟨{ solver0 with rul := { solver0.rul with prob := some prob0, res := some ⟨[], true⟩ } }, (({ solver0 with rul := { solver0.rul with prob := some prob0, res := some ⟨[], true⟩ } }).reach ((prob0 : Problem).due)).getD ({ solver0 with rul := { solver0.rul with prob := some prob0, res := some ⟨[], true⟩ } }), prob0, ⟨[], true⟩, some_of_isSome (by decide +kernel), by decide +kernel, by decide +kernel, by decide +kernel, by decide +kernel, by decide +kernel⟩

theorem test_wit_SolverAndSeparationDeliver_6 : ∃ (s u : State) (p : Problem), s.reach (p.due) = some u ∧ s.rul.prob = some p ∧ s.rul.res = none ∧ s.solving = true ∧ u.mode = 2 ∧ p.k ≤ u.rd R.RUL_STAT.CONSEC + 1 ∧ u.dev.surrender = false :=
  ⟨{ (solver0.put [(R.RUL_STAT.CONSEC, 7)]) with rul := { solver0.rul with prob := some prob0 } }, (({ (solver0.put [(R.RUL_STAT.CONSEC, 7)]) with rul := { solver0.rul with prob := some prob0 } }).reach ((prob0 : Problem).due)).getD ({ (solver0.put [(R.RUL_STAT.CONSEC, 7)]) with rul := { solver0.rul with prob := some prob0 } }), prob0, some_of_isSome (by decide +kernel), by decide +kernel, by decide +kernel, by decide +kernel, by decide +kernel, by decide +kernel, by decide +kernel⟩

theorem test_wit_SolverAndSeparationDeliver_7 : ∃ (s : State) (dt : Nat) (u : State) (q k : Nat), u = s.after dt ∧ q < 4 ∧ k < 17 ∧ u.alive = true ∧ u.dom q = true ∧ u.rd (R.RUL_TILE.ERR_CNT.j q) < 32766 :=
  ⟨up, 0, State.after up 0, 3, 16, rfl, by decide +kernel, by decide +kernel, by decide +kernel, by decide +kernel, by decide +kernel⟩

theorem test_wit_MarginDecidesInTime_1 : ∃ (s : State) (dt : Nat) (u : State) (r : MgnRun), u = s.after dt ∧ u.mgn.run = some r ∧ r.done = none ∧ sub32 u.now r.start < 48000 ∧ u.mgnRuns = true :=
  ⟨{ up with mgn := { up.mgn with run := some ⟨0, none, 0, 5, 0⟩ } }, 0, State.after ({ up with mgn := { up.mgn with run := some ⟨0, none, 0, 5, 0⟩ } }) 0, ⟨0, none, 0, 5, 0⟩, rfl, by decide +kernel, by decide +kernel, by decide +kernel, by decide +kernel⟩

theorem test_wit_MarginDecidesInTime_2 : ∃ (s u : State) (r : MgnRun), s.reach (add32 r.start 48000) = some u ∧ s.mgn.run = some r ∧ r.done.isSome = true ∧ r.dec = 1 ∧ s.mgnRuns = true ∧ u.mgn.causes = 0 ∧ u.act R.MGN_CFG.AUTO_REARM = 0 :=
  ⟨{ up with mgn := { up.mgn with run := some ⟨0, some 9, 1, 5, 3⟩ } }, (({ up with mgn := { up.mgn with run := some ⟨0, some 9, 1, 5, 3⟩ } }).reach (add32 (⟨0, some 9, 1, 5, 3⟩ : MgnRun).start 48000)).getD ({ up with mgn := { up.mgn with run := some ⟨0, some 9, 1, 5, 3⟩ } }), ⟨0, some 9, 1, 5, 3⟩, some_of_isSome (by decide +kernel), by decide +kernel, by decide +kernel, by decide +kernel, by decide +kernel, by decide +kernel, by decide +kernel⟩

theorem test_wit_MarginDecidesInTime_3 : ∃ (s u : State) (r : MgnRun), s.reach (add32 r.start 48000) = some u ∧ s.mgn.run = some r ∧ r.done = none ∧ s.mgnRuns = true :=
  ⟨{ up with mgn := { up.mgn with run := some ⟨0, none, 1, 5, 3⟩ } }, (({ up with mgn := { up.mgn with run := some ⟨0, none, 1, 5, 3⟩ } }).reach (add32 (⟨0, none, 1, 5, 3⟩ : MgnRun).start 48000)).getD ({ up with mgn := { up.mgn with run := some ⟨0, none, 1, 5, 3⟩ } }), ⟨0, none, 1, 5, 3⟩, some_of_isSome (by decide +kernel), by decide +kernel, by decide +kernel, by decide +kernel⟩

theorem test_wit_MarginDecidesInTime_4 : ∃ (s : State) (dt : Nat) (u : State) (src : Src) (v : Nat), u = s.after dt ∧ isWord v = true ∧ u.mayWrite src 9 = true ∧ u.armed src = true ∧ bit v 31 = true ∧ u.mgnRuns = true ∧ u.act R.MGN_CFG.AUTO_REARM = 0 ∧ u.rd R.MGN_STAT.LATCHED = 1 ∧ max 1 (u.act R.MGN_CFG.REARM_N) ≤ u.mgn.clear ∧ u.sinDemanding = false :=
  ⟨{ up.put [(R.CMT_STAT.ARMED_H, 1), (R.MGN_STAT.LATCHED, 1), (R.MGN_CFG.AUTO_REARM, 0)] with mgn := { up.mgn with clear := 1024, ins := [] } }, 0, State.after ({ up.put [(R.CMT_STAT.ARMED_H, 1), (R.MGN_STAT.LATCHED, 1), (R.MGN_CFG.AUTO_REARM, 0)] with mgn := { up.mgn with clear := 1024, ins := [] } }) 0, .host, 4294967295, rfl, by decide +kernel, by decide +kernel, by decide +kernel, by decide +kernel, by decide +kernel, by decide +kernel, by decide +kernel, by decide +kernel, by decide +kernel⟩

theorem test_wit_MarginDecidesInTime_5 : ∃ (s : State) (dt : Nat) (u : State) (src : Src) (v : Nat), u = s.after dt ∧ isWord v = true ∧ u.mayWrite src 9 = true ∧ u.armed src = false :=
  ⟨up, 0, State.after up 0, .host, 4294967295, rfl, by decide +kernel, by decide +kernel, by decide +kernel⟩

theorem test_wit_SafeInputsAndOutputs_1 : ∃ (s u : State) (j k r : Nat), u = s.runRim r ∧ isSout j = true ∧ (s.soutOf j).delay = some (k, r) ∧ u.rd (R.MGN_SOUT_STAT.ENERGISED.j j) = 1 :=
  ⟨State.putSout (lead.put [(R.MGN_SOUT_STAT.ENERGISED.j 3, 1)]) 3 { SafeOut.zero with delay := some (5, 9) }, (State.putSout (lead.put [(R.MGN_SOUT_STAT.ENERGISED.j 3, 1)]) 3 { SafeOut.zero with delay := some (5, 9) } : State).runRim (9 : Nat), 3, 5, 9, rfl, by decide +kernel, by decide +kernel, by decide +kernel⟩

theorem test_wit_SafeInputsAndOutputs_2 : ∃ (s : State) (dt : Nat) (u : State) (j : Nat), u = s.after dt ∧ isSout j = true ∧ u.mgnRuns = true ∧ u.rd (R.MGN_SOUT_STAT.ENERGISED.j j) = 1 ∧ (u.soutOf j).lastA = 0 ∧ u.taken 5 = true ∧ u.scanned outSout = false :=
  ⟨lead.put [(R.MGN_SOUT_STAT.ENERGISED.j 3, 1)], 0, State.after (lead.put [(R.MGN_SOUT_STAT.ENERGISED.j 3, 1)]) 0, 3, rfl, by decide +kernel, by decide +kernel, by decide +kernel, by decide +kernel, by decide +kernel, by decide +kernel⟩

theorem test_wit_SafeInputsAndOutputs_3 : ∃ (s : State) (dt : Nat) (u : State) (j : Nat), u = s.after dt ∧ isSout j = true ∧ u.mgnRuns = true ∧ u.rd (R.MGN_SOUT_STAT.ENERGISED.j j) = 1 ∧ (u.soutOf j).lastA ≠ 0 ∧ u.tb.rim = (u.soutOf j).lastA + 500000000 ∧ u.taken 5 = true ∧ u.scanned outSout = false :=
  ⟨State.putSout { lead.put [(R.MGN_SOUT_STAT.ENERGISED.j 3, 1)] with tb := { lead.tb with rim := 500000007 } } 3 { SafeOut.zero with lastA := 7 }, 0, State.after (State.putSout { lead.put [(R.MGN_SOUT_STAT.ENERGISED.j 3, 1)] with tb := { lead.tb with rim := 500000007 } } 3 { SafeOut.zero with lastA := 7 }) 0, 3, rfl, by decide +kernel, by decide +kernel, by decide +kernel, by decide +kernel, by decide +kernel, by decide +kernel, by decide +kernel⟩

theorem test_wit_SafeInputsAndOutputs_4 : ∃ (s : State) (dt : Nat) (u : State) (j : Nat) (a b : Bool), u = s.after dt ∧ isSout j = true ∧ u.mgnRuns = true ∧ ((u.rbStep j 0 a).2 || (u.rbStep j 1 b).2) = true :=
  ⟨State.putSout { lead with tb := { lead.tb with rim := 100001 } } 0 { SafeOut.zero with offA := some 0 }, 0, State.after (State.putSout { lead with tb := { lead.tb with rim := 100001 } } 0 { SafeOut.zero with offA := some 0 }) 0, 0, true, false, rfl, by decide +kernel, by decide +kernel, by decide +kernel⟩

theorem test_wit_SafeInputsAndOutputs_5 : ∃ (s : State) (dt : Nat) (u : State) (j : Nat), u = s.after dt ∧ isSout j = true ∧ u.mgnRuns = true ∧ (u.soutOf j).pulse = none :=
  ⟨{ lead with mgn := { lead.mgn with causes := 4 } }, 0, State.after ({ lead with mgn := { lead.mgn with causes := 4 } }) 0, 2, rfl, by decide +kernel, by decide +kernel, by decide +kernel⟩

theorem test_wit_SafeInputsAndOutputs_6 : ∃ (s : State) (dt : Nat) (u : State) (i r : Nat), u = s.after dt ∧ isSin i = true ∧ (u.sinOf i).since = some r ∧ u.mgnRuns = true ∧ u.sinFunc i ≠ 0 ∧ 1000000 * u.act (R.MGN_SIN_CFG.DISC_T.j i) < u.tb.rim - r :=
  ⟨State.putSin { lead.put [(R.MGN_SIN_CFG.FUNC.j 7, 2)] with tb := { lead.tb with rim := 70000000000 } } 7 { SafeIn.zero with since := some 5 }, 0, State.after (State.putSin { lead.put [(R.MGN_SIN_CFG.FUNC.j 7, 2)] with tb := { lead.tb with rim := 70000000000 } } 7 { SafeIn.zero with since := some 5 }) 0, 7, 5, rfl, by decide +kernel, by decide +kernel, by decide +kernel, by decide +kernel, by decide +kernel⟩

theorem test_wit_SafeInputsAndOutputs_7 : ∃ (s u : State) (i x : Nat), s.reach (x) = some u ∧ isSin i = true ∧ (s.sinOf i).due = some x ∧ s.mgnRuns = true :=
  ⟨State.putSin lead 7 { SafeIn.zero with due := some 1000 }, ((State.putSin lead 7 { SafeIn.zero with due := some 1000 }).reach ((1000 : Nat))).getD (State.putSin lead 7 { SafeIn.zero with due := some 1000 }), 7, 1000, some_of_isSome (by decide +kernel), by decide +kernel, by decide +kernel, by decide +kernel⟩

theorem test_wit_TwinMessagesAreTaken_1 : ∃ (s : State) (dt : Nat) (u : State) (lane : Nat) (m : StatusMsg), u = s.after dt ∧ (lane = 8 ∨ lane = 9) ∧ u.twinOn = true ∧ m.crcOk = true ∧ u.twin.seen.contains m.seq = false ∧ u.mode = 3 :=
  ⟨shadow0, 0, State.after shadow0 0, 8, status0, rfl, by decide +kernel, by decide +kernel, by decide +kernel, by decide +kernel, by decide +kernel⟩

theorem test_wit_TwinMessagesAreTaken_2 : ∃ (s : State) (dt : Nat) (u : State) (lane : Nat) (m : StatusMsg), u = s.after dt ∧ (lane = 8 ∨ lane = 9) ∧ u.twinOn = true ∧ m.crcOk = false ∧ u.rd R.TWN_CNT_C.MSG_ERR < 65534 :=
  ⟨shadow0, 0, State.after shadow0 0, 9, { status0 with crcOk := false }, rfl, by decide +kernel, by decide +kernel, by decide +kernel, by decide +kernel⟩

theorem test_wit_TwinMessagesAreTaken_3 : ∃ (s : State) (dt : Nat) (u : State) (lane : Nat) (m : TimeMsg), u = s.after dt ∧ (lane = 8 ∨ lane = 9) ∧ u.twinOn = true ∧ m.crcOk = true ∧ u.twin.seen.contains m.seq = false :=
  ⟨shadow0, 0, State.after shadow0 0, 9, ⟨true, 6, 0, 0, 0, 0, 0⟩, rfl, by decide +kernel, by decide +kernel, by decide +kernel, by decide +kernel⟩

theorem test_wit_TwinMessagesAreTaken_4 : ∃ (s : State) (dt : Nat) (u : State) (m : SnapMsg), u = s.after dt ∧ u.twinOn = true ∧ m.crcOk = true ∧ u.twin.seen.contains m.seq = false ∧ u.mode = 3 ∧ 0 ≤ sx 32 (sub32 m.phase (u.rgAnchor 0)) :=
  ⟨shadow0, 0, State.after shadow0 0, ⟨true, 6, 100, [], [], false, 0, []⟩, rfl, by decide +kernel, by decide +kernel, by decide +kernel, by decide +kernel, by decide +kernel⟩

theorem test_wit_TwinMessagesAreTaken_5 : ∃ (s : State) (dt : Nat) (u : State) (m : SolveMsg), u = s.after dt ∧ u.twinOn = true ∧ m.crcOk = true ∧ u.twin.seen.contains m.seq = false ∧ u.mode = 3 ∧ 0 ≤ sx 32 (sub32 m.phase u.solveAnchor) :=
  ⟨shadow0, 0, State.after shadow0 0, ⟨true, 6, 100, ⟨0, [], [], []⟩, [], [], 0⟩, rfl, by decide +kernel, by decide +kernel, by decide +kernel, by decide +kernel, by decide +kernel⟩

theorem test_wit_TwinMessagesAreTaken_6 : ∃ (s : State) (dt : Nat) (u : State) (m : ModelMsg) (x : Nat), u = s.after dt ∧ u.twinOn = true ∧ m.crcOk = true ∧ u.twin.seen.contains m.seq = false ∧ u.mode = 3 ∧ m.writes = [] ∧ m.commit = some x :=
  ⟨shadow0, 0, State.after shadow0 0, ⟨true, 6, [], some 4⟩, 4, rfl, by decide +kernel, by decide +kernel, by decide +kernel, by decide +kernel, by decide +kernel, by decide +kernel⟩

theorem test_wit_TwinMessagesAreTaken_7 : ∃ (s : State) (dt : Nat) (u : State) (m : ModelMsg) (o v : Nat), u = s.after dt ∧ u.twinOn = true ∧ m.crcOk = true ∧ u.twin.seen.contains m.seq = false ∧ u.mode = 3 ∧ m.writes = [(o, v)] ∧ m.commit = none ∧ o < 0x90000 ∧ o % 4 = 0 ∧ v < 4294967296 :=
  ⟨shadow0, 0, State.after shadow0 0, ⟨true, 6, [(0x8FFFC, 4294967295)], none⟩, 0x8FFFC, 4294967295, rfl, by decide +kernel, by decide +kernel, by decide +kernel, by decide +kernel, by decide +kernel, by decide +kernel, by decide +kernel, by decide +kernel, by decide +kernel⟩

theorem test_wit_TwinTakesOverAndHandsBack_1 : ∃ (s : State) (dt : Nat) (u : State), u = s.after dt ∧ u.twinOn = true ∧ u.twinUp = true :=
  ⟨shadow0, 0, State.after shadow0 0, rfl, by decide +kernel, by decide +kernel⟩

theorem test_wit_TwinTakesOverAndHandsBack_2 : ∃ (s : State) (dt : Nat) (u : State) (ch : Nat), u = s.after dt ∧ isCh ch = true ∧ u.twinOn = true ∧ u.mode = 3 ∧ u.rd R.MOD_STATE.PEND = 15 ∧ u.peerYields = true ∧ u.rd R.TWN_STAT.READY = 0 :=
  ⟨{ shadow0.put [(R.MOD_STATE.PEND, 15)] with twin := { shadow0.twin with peer := some { status0 with health := 8 } } }, 0, State.after ({ shadow0.put [(R.MOD_STATE.PEND, 15)] with twin := { shadow0.twin with peer := some { status0 with health := 8 } } }) 0, 0, rfl, by decide +kernel, by decide +kernel, by decide +kernel, by decide +kernel, by decide +kernel, by decide +kernel⟩

theorem test_wit_TwinTakesOverAndHandsBack_3 : ∃ (s : State) (dt : Nat) (u : State) (ch : Nat) (p : StatusMsg), u = s.after dt ∧ isCh ch = true ∧ u.twinOn = true ∧ u.mode = 3 ∧ u.rd R.MOD_STATE.PEND = 15 ∧ u.peerYields = true ∧ u.twin.peer = some p ∧ bit p.health 2 = false ∧ u.rd R.TWN_STAT.READY = 1 ∧ u.matched = true ∧ u.role 0 ≠ 1 ∧ u.role 1 ≠ 1 :=
  ⟨{ shadow0.put [(R.MOD_STATE.PEND, 15), (R.TWN_STAT.READY, 1)] with twin := { shadow0.twin with peer := some { status0 with health := 8 } } }, 0, State.after ({ shadow0.put [(R.MOD_STATE.PEND, 15), (R.TWN_STAT.READY, 1)] with twin := { shadow0.twin with peer := some { status0 with health := 8 } } }) 0, 0, { status0 with health := 8 }, rfl, by decide +kernel, by decide +kernel, by decide +kernel, by decide +kernel, by decide +kernel, by decide +kernel, by decide +kernel, by decide +kernel, by decide +kernel, by decide +kernel, by decide +kernel⟩

theorem test_wit_TwinTakesOverAndHandsBack_4 : ∃ (s : State) (dt : Nat) (u : State) (ch : Nat) (p : StatusMsg), u = s.after dt ∧ isCh ch = true ∧ u.twinOn = true ∧ u.mode = 3 ∧ u.rd R.MOD_STATE.PEND = 15 ∧ u.peerYields = true ∧ u.twin.peer = some p ∧ bit p.health 2 = false ∧ u.rd R.TWN_STAT.READY = 1 ∧ u.matched = true ∧ u.role 0 = 1 ∧ u.nNodes 0 ≠ 0 :=
  ⟨{ shadow0.put [(R.MOD_STATE.PEND, 15), (R.TWN_STAT.READY, 1), (R.IKL_CFG.ROLE.i 0, 1), (R.IKL_LEN.NNODES.i 0, 3)] with twin := { shadow0.twin with peer := some { status0 with health := 8 } } }, 0, State.after ({ shadow0.put [(R.MOD_STATE.PEND, 15), (R.TWN_STAT.READY, 1), (R.IKL_CFG.ROLE.i 0, 1), (R.IKL_LEN.NNODES.i 0, 3)] with twin := { shadow0.twin with peer := some { status0 with health := 8 } } }) 0, 1, { status0 with health := 8 }, rfl, by decide +kernel, by decide +kernel, by decide +kernel, by decide +kernel, by decide +kernel, by decide +kernel, by decide +kernel, by decide +kernel, by decide +kernel, by decide +kernel, by decide +kernel⟩

theorem test_wit_TwinTakesOverAndHandsBack_5 : ∃ (s u : State) (r : Nat), u = s.runRim (r + s.holdoff) ∧ s.twin.readyAt = some r ∧ s.twinOn = true ∧ s.twin.hbReq = false ∧ s.mayRevert = true :=
  ⟨{ shadow0.put [(R.TWN_STAT.READY, 1), (R.TWN_CFG.REVERT, 1), (R.TWN_CFG.CLAIM_CFG, 9)] with twin := { shadow0.twin with readyAt := some 4, peer := some status0 } }, ({ shadow0.put [(R.TWN_STAT.READY, 1), (R.TWN_CFG.REVERT, 1), (R.TWN_CFG.CLAIM_CFG, 9)] with twin := { shadow0.twin with readyAt := some 4, peer := some status0 } } : State).runRim ((4 : Nat) + ({ shadow0.put [(R.TWN_STAT.READY, 1), (R.TWN_CFG.REVERT, 1), (R.TWN_CFG.CLAIM_CFG, 9)] with twin := { shadow0.twin with readyAt := some 4, peer := some status0 } } : State).holdoff), 4, rfl, by decide +kernel, by decide +kernel, by decide +kernel, by decide +kernel⟩

theorem test_wit_TwinTakesOverAndHandsBack_6 : ∃ (s : State) (dt : Nat) (u : State) (src : Src) (v : Nat), u = s.after dt ∧ isWord v = true ∧ bit v 31 = true ∧ u.mayWrite src 19 = true ∧ u.armed src = true ∧ u.rd R.TWN_STAT.READY = 1 :=
  ⟨lead.put [(R.TWN_STAT.READY, 1), (R.CMT_STAT.ARMED_H, 1)], 0, State.after (lead.put [(R.TWN_STAT.READY, 1), (R.CMT_STAT.ARMED_H, 1)]) 0, .host, 4294967295, rfl, by decide +kernel, by decide +kernel, by decide +kernel, by decide +kernel, by decide +kernel⟩

theorem test_wit_TwinTakesOverAndHandsBack_7 : ∃ (s : State) (dt : Nat) (u : State) (src : Src) (v : Nat), u = s.after dt ∧ isWord v = true ∧ bit v 31 = true ∧ u.mayWrite src 19 = true ∧ u.armed src = false :=
  ⟨lead, 0, State.after lead 0, .host, 4294967295, rfl, by decide +kernel, by decide +kernel, by decide +kernel, by decide +kernel⟩

theorem test_wit_DuctusItemsMoveThroughTheirStages_1 : ∃ (s : State) (dt : Nat) (u : State) (src : Src) (p v n : Nat), u = s.after dt ∧ isWord v = true ∧ bits v 31 29 = 4 ∧ bits v 19 16 = 0 ∧ portOf src = some p ∧ u.mayWrite src 15 = true ∧ tget none u.dct.subs p = none ∧ u.freeSlot = some n :=
  ⟨up, 0, State.after up 0, .host, 0, 2214592512, 0, rfl, by decide +kernel, by decide +kernel, by decide +kernel, by decide +kernel, by decide +kernel, by decide +kernel, by decide +kernel⟩

theorem test_wit_DuctusItemsMoveThroughTheirStages_2 : ∃ (s u : State), u = s.runTo ((s.now / 1024 + 1) * 1024 % 4294967296) ∧ s.dctOn = true :=
  ⟨{ up with dct := { up.dct with delay := [3, 7], items := [(3, { Item.none with due := 9 }), (7, { Item.none with due := 99999 })] } }, ({ up with dct := { up.dct with delay := [3, 7], items := [(3, { Item.none with due := 9 }), (7, { Item.none with due := 99999 })] } } : State).runTo ((({ up with dct := { up.dct with delay := [3, 7], items := [(3, { Item.none with due := 9 }), (7, { Item.none with due := 99999 })] } } : State).now / 1024 + 1) * 1024 % 4294967296), rfl, by decide +kernel⟩

theorem test_wit_DuctusItemsMoveThroughTheirStages_3 : ∃ (s : State) (dt : Nat) (u : State) (core slot r : Nat), u = s.after dt ∧ core < 4 ∧ isWord r = true ∧ u.dct.run = [(core, slot)] :=
  ⟨{ up with dct := { up.dct with run := [(3, 8)] } }, 0, State.after ({ up with dct := { up.dct with run := [(3, 8)] } }) 0, 3, 8, 4294967295, rfl, by decide +kernel, by decide +kernel, by decide +kernel⟩

theorem test_wit_DuctusItemsMoveThroughTheirStages_4 : ∃ (s : State) (dt : Nat) (u : State) (src : Src) (v : Nat), u = s.after dt ∧ isWord v = true ∧ bit v 31 = true ∧ u.mayWrite src 15 = true ∧ ((u.item (v % 256)).stage = 1 ∨ (u.item (v % 256)).stage = 0) :=
  ⟨{ up with dct := { up.dct with items := [(3, { Item.none with stage := 1 })] } }, 0, State.after ({ up with dct := { up.dct with items := [(3, { Item.none with stage := 1 })] } }) 0, .host, 2147483651, rfl, by decide +kernel, by decide +kernel, by decide +kernel, by decide +kernel⟩

theorem test_wit_DuctusItemsMoveThroughTheirStages_5 : ∃ (s : State) (dt : Nat) (u : State) (src : Src) (v : Nat), u = s.after dt ∧ isWord v = true ∧ bit v 31 = true ∧ u.mayWrite src 15 = true ∧ 1 < (u.item (v % 256)).stage :=
  ⟨up, 0, State.after up 0, .host, 2147483903, rfl, by decide +kernel, by decide +kernel, by decide +kernel, by decide +kernel⟩

theorem test_wit_DuctusItemsMoveThroughTheirStages_6 : ∃ (s : State) (dt : Nat) (u : State) (src : Src) (v : Nat), u = s.after dt ∧ isWord v = true ∧ u.mayWrite src 15 = true :=
  ⟨up, 0, State.after up 0, .host, 1610612736, rfl, by decide +kernel, by decide +kernel⟩

theorem test_wit_SerifArithmeticWritesItsResult_1 : ∃ (s : State) (dt : Nat) (u : State) (d fd fa fb fc : Nat), u = s.after dt ∧ isR d fd fa fb fc = true ∧ u.atWord d (encR 0x10 fd fa fb fc) = true :=
  ⟨coreAt (encR 0x10 31 1 16 2), 0, State.after (coreAt (encR 0x10 31 1 16 2)) 0, 1, 31, 1, 16, 2, rfl, by decide +kernel, by decide +kernel⟩

theorem test_wit_SerifArithmeticWritesItsResult_2 : ∃ (s : State) (dt : Nat) (u : State) (d fd fa fb fc : Nat), u = s.after dt ∧ isR d fd fa fb fc = true ∧ u.atWord d (encR 0x11 fd fa fb fc) = true :=
  ⟨coreAt (encR 0x11 31 1 16 2), 0, State.after (coreAt (encR 0x11 31 1 16 2)) 0, 1, 31, 1, 16, 2, rfl, by decide +kernel, by decide +kernel⟩

theorem test_wit_SerifArithmeticWritesItsResult_3 : ∃ (s : State) (dt : Nat) (u : State) (d fd fa fb fc : Nat), u = s.after dt ∧ isR d fd fa fb fc = true ∧ u.atWord d (encR 0x12 fd fa fb fc) = true :=
  ⟨coreAt (encR 0x12 31 1 16 2), 0, State.after (coreAt (encR 0x12 31 1 16 2)) 0, 1, 31, 1, 16, 2, rfl, by decide +kernel, by decide +kernel⟩

theorem test_wit_SerifArithmeticWritesItsResult_4 : ∃ (s : State) (dt : Nat) (u : State) (d fd fa fb fc : Nat), u = s.after dt ∧ isR d fd fa fb fc = true ∧ u.atWord d (encR 0x13 fd fa fb fc) = true :=
  ⟨coreAt (encR 0x13 31 1 16 2), 0, State.after (coreAt (encR 0x13 31 1 16 2)) 0, 1, 31, 1, 16, 2, rfl, by decide +kernel, by decide +kernel⟩

theorem test_wit_SerifArithmeticWritesItsResult_5 : ∃ (s : State) (dt : Nat) (u : State) (d fd fa fb fc : Nat), u = s.after dt ∧ isR d fd fa fb fc = true ∧ u.atWord d (encR 0x14 fd fa fb fc) = true :=
  ⟨coreAt (encR 0x14 31 1 16 2), 0, State.after (coreAt (encR 0x14 31 1 16 2)) 0, 1, 31, 1, 16, 2, rfl, by decide +kernel, by decide +kernel⟩

theorem test_wit_SerifArithmeticWritesItsResult_6 : ∃ (s : State) (dt : Nat) (u : State) (d fd fa fb fc : Nat), u = s.after dt ∧ isR d fd fa fb fc = true ∧ u.atWord d (encR 0x15 fd fa fb fc) = true :=
  ⟨coreAt (encR 0x15 31 1 16 2), 0, State.after (coreAt (encR 0x15 31 1 16 2)) 0, 1, 31, 1, 16, 2, rfl, by decide +kernel, by decide +kernel⟩

theorem test_wit_SerifArithmeticWritesItsResult_7 : ∃ (s : State) (dt : Nat) (u : State) (d fd fa fb fc : Nat), u = s.after dt ∧ isR d fd fa fb fc = true ∧ u.atWord d (encR 0x1C fd fa fb fc) = true :=
  ⟨coreAt (encR 0x1C 31 1 16 2), 0, State.after (coreAt (encR 0x1C 31 1 16 2)) 0, 1, 31, 1, 16, 2, rfl, by decide +kernel, by decide +kernel⟩

theorem test_wit_SerifArithmeticWritesItsResult_8 : ∃ (s : State) (dt : Nat) (u : State) (d fd fa fb fc : Nat), u = s.after dt ∧ isR d fd fa fb fc = true ∧ u.atWord d (encR 0x1D fd fa fb fc) = true :=
  ⟨coreAt (encR 0x1D 31 1 16 2), 0, State.after (coreAt (encR 0x1D 31 1 16 2)) 0, 1, 31, 1, 16, 2, rfl, by decide +kernel, by decide +kernel⟩

theorem test_wit_SerifArithmeticWritesItsResult_9 : ∃ (s : State) (dt : Nat) (u : State) (d fd fa fb fc : Nat), u = s.after dt ∧ isR d fd fa fb fc = true ∧ u.atWord d (encR 0x1E fd fa fb fc) = true :=
  ⟨coreAt (encR 0x1E 31 1 16 2), 0, State.after (coreAt (encR 0x1E 31 1 16 2)) 0, 1, 31, 1, 16, 2, rfl, by decide +kernel, by decide +kernel⟩

theorem test_wit_SerifArithmeticWritesItsResult_10 : ∃ (s : State) (dt : Nat) (u : State) (d fd fa fb fc : Nat), u = s.after dt ∧ isR d fd fa fb fc = true ∧ u.atWord d (encR 0x1F fd fa fb fc) = true :=
  ⟨coreAt (encR 0x1F 31 1 16 2), 0, State.after (coreAt (encR 0x1F 31 1 16 2)) 0, 1, 31, 1, 16, 2, rfl, by decide +kernel, by decide +kernel⟩

theorem test_wit_SerifSelectionAndComparison_1 : ∃ (s : State) (dt : Nat) (u : State) (d fd fa fb fc : Nat), u = s.after dt ∧ isR d fd fa fb fc = true ∧ u.atWord d (encR 0x16 fd fa fb fc) = true :=
  ⟨coreAt (encR 0x16 31 1 16 2), 0, State.after (coreAt (encR 0x16 31 1 16 2)) 0, 1, 31, 1, 16, 2, rfl, by decide +kernel, by decide +kernel⟩

theorem test_wit_SerifSelectionAndComparison_2 : ∃ (s : State) (dt : Nat) (u : State) (d fd fa fb fc : Nat), u = s.after dt ∧ isR d fd fa fb fc = true ∧ u.atWord d (encR 0x17 fd fa fb fc) = true :=
  ⟨coreAt (encR 0x17 31 1 16 2), 0, State.after (coreAt (encR 0x17 31 1 16 2)) 0, 1, 31, 1, 16, 2, rfl, by decide +kernel, by decide +kernel⟩

theorem test_wit_SerifSelectionAndComparison_3 : ∃ (s : State) (dt : Nat) (u : State) (d fd fa fb fc : Nat), u = s.after dt ∧ isR d fd fa fb fc = true ∧ u.atWord d (encR 0x18 fd fa fb fc) = true :=
  ⟨coreAt (encR 0x18 31 1 16 2), 0, State.after (coreAt (encR 0x18 31 1 16 2)) 0, 1, 31, 1, 16, 2, rfl, by decide +kernel, by decide +kernel⟩

theorem test_wit_SerifSelectionAndComparison_4 : ∃ (s : State) (dt : Nat) (u : State) (d fd fa fb fc : Nat), u = s.after dt ∧ isR d fd fa fb fc = true ∧ u.atWord d (encR 0x19 fd fa fb fc) = true :=
  ⟨coreAt (encR 0x19 31 1 16 2), 0, State.after (coreAt (encR 0x19 31 1 16 2)) 0, 1, 31, 1, 16, 2, rfl, by decide +kernel, by decide +kernel⟩

theorem test_wit_SerifSelectionAndComparison_5 : ∃ (s : State) (dt : Nat) (u : State) (d fd fa fb fc : Nat), u = s.after dt ∧ isR d fd fa fb fc = true ∧ u.atWord d (encR 0x1A fd fa fb fc) = true :=
  ⟨coreAt (encR 0x1A 0 1 2 0), 0, State.after (coreAt (encR 0x1A 0 1 2 0)) 0, 1, 0, 1, 2, 0, rfl, by decide +kernel, by decide +kernel⟩

theorem test_wit_SerifSelectionAndComparison_6 : ∃ (s : State) (dt : Nat) (u : State) (d fd fa fb fc : Nat), u = s.after dt ∧ isR d fd fa fb fc = true ∧ u.atWord d (encR 0x1B fd fa fb fc) = true :=
  ⟨coreAt (encR 0x1B 31 1 16 2), 0, State.after (coreAt (encR 0x1B 31 1 16 2)) 0, 1, 31, 1, 16, 2, rfl, by decide +kernel, by decide +kernel⟩

theorem test_wit_SerifMovesAndMemory_1 : ∃ (s : State) (dt : Nat) (u : State) (d f sp : Nat), u = s.after dt ∧ isSerif d = true ∧ f < 32 ∧ sp < 14 ∧ u.atWord d (encS 9 f sp) = true :=
  ⟨coreAt (encS 9 31 13), 0, State.after (coreAt (encS 9 31 13)) 0, 1, 31, 13, rfl, by decide +kernel, by decide +kernel, by decide +kernel, by decide +kernel⟩

theorem test_wit_SerifMovesAndMemory_2 : ∃ (s : State) (dt : Nat) (u : State) (d f sp : Nat), u = s.after dt ∧ isSerif d = true ∧ f < 32 ∧ 1 ≤ sp ∧ sp < 14 ∧ u.atWord d (encS 10 f sp) = true ∧ (u.serif d).ldepth = 0 :=
  ⟨coreAt (encS 10 31 11), 0, State.after (coreAt (encS 10 31 11)) 0, 1, 31, 11, rfl, by decide +kernel, by decide +kernel, by decide +kernel, by decide +kernel, by decide +kernel, by decide +kernel⟩

theorem test_wit_SerifMovesAndMemory_3 : ∃ (s : State) (dt : Nat) (u : State) (d f : Nat), u = s.after dt ∧ isSerif d = true ∧ f < 32 ∧ u.atWord d (encS 10 f 0) = true ∧ bits (stWord ((u.serif d).getF f)) 13 12 = 0 :=
  ⟨coreAt (encS 10 31 0), 0, State.after (coreAt (encS 10 31 0)) 0, 1, 31, rfl, by decide +kernel, by decide +kernel, by decide +kernel, by decide +kernel⟩

theorem test_wit_SerifMovesAndMemory_4 : ∃ (s : State) (dt : Nat) (u : State) (d ax ay imm : Nat), u = s.after dt ∧ isSerif d = true ∧ ax < 8 ∧ ay < 8 ∧ imm < 65536 ∧ u.atWord d (0x0B * p2 26 + ax * p2 23 + ay * p2 20 + imm) = true :=
  ⟨coreAt (0x0B * p2 26 + 7 * p2 23 + 1 * p2 20 + 65535), 0, State.after (coreAt (0x0B * p2 26 + 7 * p2 23 + 1 * p2 20 + 65535)) 0, 1, 7, 1, 65535, rfl, by decide +kernel, by decide +kernel, by decide +kernel, by decide +kernel, by decide +kernel⟩

theorem test_wit_SerifMovesAndMemory_5 : ∃ (s : State) (dt : Nat) (u : State) (d fd fa fb fc : Nat), u = s.after dt ∧ isR d fd fa fb fc = true ∧ u.atWord d (encR 0x0C fd fa fb fc) = true :=
  ⟨coreAt (encR 0x0C 3 1 0 0), 0, State.after (coreAt (encR 0x0C 3 1 0 0)) 0, 1, 3, 1, 0, 0, rfl, by decide +kernel, by decide +kernel⟩

theorem test_wit_SerifMovesAndMemory_6 : ∃ (s : State) (dt : Nat) (u : State) (d fd fa fb fc : Nat), u = s.after dt ∧ isR d fd fa fb fc = true ∧ u.atWord d (encR 0x0D fd fa fb fc) = true :=
  ⟨coreAt (encR 0x0D 3 1 0 0), 0, State.after (coreAt (encR 0x0D 3 1 0 0)) 0, 1, 3, 1, 0, 0, rfl, by decide +kernel, by decide +kernel⟩

theorem test_wit_SerifMovesAndMemory_7 : ∃ (s : State) (dt : Nat) (u : State) (d f imm : Nat), u = s.after dt ∧ isSerif d = true ∧ f < 32 ∧ imm < 65536 ∧ u.atWord d (0x22 * p2 26 + f * p2 21 + imm) = true :=
  ⟨coreAt (0x22 * p2 26 + 31 * p2 21 + 65535), 0, State.after (coreAt (0x22 * p2 26 + 31 * p2 21 + 65535)) 0, 1, 31, 65535, rfl, by decide +kernel, by decide +kernel, by decide +kernel, by decide +kernel⟩

theorem test_wit_SerifMovesAndMemory_8 : ∃ (s : State) (dt : Nat) (u : State) (d f a pm imm : Nat), u = s.after dt ∧ isM d f a pm imm = true ∧ u.atWord d (encM 0x20 f a pm imm) = true :=
  ⟨coreAt (encM 0x20 3 1 1 65535), 0, State.after (coreAt (encM 0x20 3 1 1 65535)) 0, 1, 3, 1, 1, 65535, rfl, by decide +kernel, by decide +kernel⟩

theorem test_wit_SerifMovesAndMemory_9 : ∃ (s : State) (dt : Nat) (u : State) (d f a pm imm : Nat), u = s.after dt ∧ isM d f a pm imm = true ∧ u.atWord d (encM 0x21 f a pm imm) = true :=
  ⟨coreAt (encM 0x21 3 1 0 65535), 0, State.after (coreAt (encM 0x21 3 1 0 65535)) 0, 1, 3, 1, 0, 65535, rfl, by decide +kernel, by decide +kernel⟩

theorem test_wit_SerifMovesAndMemory_10 : ∃ (s : State) (dt : Nat) (u : State) (d fd fc a : Nat), u = s.after dt ∧ isSerif d = true ∧ fd < 32 ∧ fc < 32 ∧ a < 8 ∧ u.atWord d (0x23 * p2 26 + fd * p2 21 + fc * p2 16 + a * p2 13) = true ∧ (u.serif d).goesOn = true :=
  ⟨coreAt (0x23 * p2 26 + 3 * p2 21 + 4 * p2 16 + 2 * p2 13), 0, State.after (coreAt (0x23 * p2 26 + 3 * p2 21 + 4 * p2 16 + 2 * p2 13)) 0, 1, 3, 4, 2, rfl, by decide +kernel, by decide +kernel, by decide +kernel, by decide +kernel, by decide +kernel, by decide +kernel⟩

theorem test_wit_SerifMovesAndMemory_11 : ∃ (s : State) (dt : Nat) (u : State) (d fd fb ax ay p q : Nat), u = s.after dt ∧ isSerif d = true ∧ fd < 32 ∧ fb < 32 ∧ ax < 8 ∧ ay < 8 ∧ p < 3 ∧ q < 3 ∧ u.atWord d (0x24 * p2 26 + fd * p2 21 + fb * p2 16 + ax * p2 13 + ay * p2 10 + p * p2 8 + q * p2 6) = true :=
  ⟨coreAt (0x24 * p2 26 + 3 * p2 21 + 4 * p2 16 + 1 * p2 13 + 2 * p2 10 + 1 * p2 8 + 2 * p2 6), 0, State.after (coreAt (0x24 * p2 26 + 3 * p2 21 + 4 * p2 16 + 1 * p2 13 + 2 * p2 10 + 1 * p2 8 + 2 * p2 6)) 0, 1, 3, 4, 1, 2, 1, 2, rfl, by decide +kernel, by decide +kernel, by decide +kernel, by decide +kernel, by decide +kernel, by decide +kernel, by decide +kernel, by decide +kernel⟩

theorem test_wit_SerifControlFlow_1 : ∃ (s : State) (dt : Nat) (u : State) (d n : Nat), u = s.after dt ∧ isN d n = true ∧ u.atWord d n = true :=
  ⟨coreAt 7, 0, State.after (coreAt 7) 0, 1, 7, rfl, by decide +kernel, by decide +kernel⟩

theorem test_wit_SerifControlFlow_2 : ∃ (s : State) (dt : Nat) (u : State) (d k x : Nat), u = s.after dt ∧ isSerif d = true ∧ k < 8 ∧ x < 8192 ∧ u.atWord d (4 * p2 26 + k * p2 22 + x) = true ∧ (u.serif d).goesOn = true :=
  ⟨coreAt (4 * p2 26 + 8191), 0, State.after (coreAt (4 * p2 26 + 8191)) 0, 1, 0, 8191, rfl, by decide +kernel, by decide +kernel, by decide +kernel, by decide +kernel, by decide +kernel⟩

theorem test_wit_SerifControlFlow_3 : ∃ (s : State) (dt : Nat) (u : State) (d x : Nat), u = s.after dt ∧ isSerif d = true ∧ x < 8192 ∧ u.atWord d (5 * p2 26 + x) = true ∧ (u.serif d).goesOn = true :=
  ⟨coreAt (5 * p2 26 + 8191), 0, State.after (coreAt (5 * p2 26 + 8191)) 0, 1, 8191, rfl, by decide +kernel, by decide +kernel, by decide +kernel, by decide +kernel⟩

theorem test_wit_SerifControlFlow_4 : ∃ (s : State) (dt : Nat) (u : State) (d n : Nat), u = s.after dt ∧ isN d n = true ∧ u.atWord d (encN 6 n) = true ∧ (u.serif d).goesOn = true ∧ (u.serif d).lr < 8192 :=
  ⟨coreAt (encN 6 0), 0, State.after (coreAt (encN 6 0)) 0, 1, 0, rfl, by decide +kernel, by decide +kernel, by decide +kernel, by decide +kernel⟩

theorem test_wit_SerifControlFlow_5 : ∃ (s : State) (dt : Nat) (u : State) (d m r k last : Nat), u = s.after dt ∧ isSerif d = true ∧ m < 2 ∧ r < 2 ∧ k < 2048 ∧ last < 8192 ∧ u.atWord d (7 * p2 26 + m * p2 25 + r * p2 24 + k * p2 13 + last) = true ∧ (if m = 1 then k else (u.serif d).getA (k % 8)) ≠ 0 ∧ (u.serif d).ldepth < 2 ∧ last ≠ (u.serif d).pc :=
  ⟨coreAt (7 * p2 26 + 1 * p2 25 + 0 * p2 24 + 5 * p2 13 + 40), 0, State.after (coreAt (7 * p2 26 + 1 * p2 25 + 0 * p2 24 + 5 * p2 13 + 40)) 0, 1, 1, 0, 5, 40, rfl, by decide +kernel, by decide +kernel, by decide +kernel, by decide +kernel, by decide +kernel, by decide +kernel, by decide +kernel, by decide +kernel, by decide +kernel⟩

theorem test_wit_SerifControlFlow_6 : ∃ (s : State) (dt : Nat) (u : State) (d m r k last : Nat), u = s.after dt ∧ isSerif d = true ∧ m < 2 ∧ r < 2 ∧ k < 2048 ∧ last < 8191 ∧ u.atWord d (7 * p2 26 + m * p2 25 + r * p2 24 + k * p2 13 + last) = true ∧ (if m = 1 then k else (u.serif d).getA (k % 8)) = 0 ∧ (u.serif d).ldepth < 2 ∧ (u.serif d).goesOn = true :=
  ⟨coreAt (7 * p2 26 + 1 * p2 25 + 1 * p2 24 + 40), 0, State.after (coreAt (7 * p2 26 + 1 * p2 25 + 1 * p2 24 + 40)) 0, 1, 1, 1, 0, 40, rfl, by decide +kernel, by decide +kernel, by decide +kernel, by decide +kernel, by decide +kernel, by decide +kernel, by decide +kernel, by decide +kernel, by decide +kernel⟩

theorem test_wit_SerifControlFlow_7 : ∃ (s : State) (dt : Nat) (u : State) (d n : Nat), u = s.after dt ∧ isN d n = true ∧ u.atWord d (encN 8 n) = true ∧ (u.serif d).ldepth = 1 ∧ (u.serif d).lmask = 0 :=
  ⟨(coreAt (encN 8 0)).putSerif 1 { (coreAt (encN 8 0)).serif 1 with st := 4096 }, 0, State.after ((coreAt (encN 8 0)).putSerif 1 { (coreAt (encN 8 0)).serif 1 with st := 4096 }) 0, 1, 0, rfl, by decide +kernel, by decide +kernel, by decide +kernel, by decide +kernel⟩

theorem test_wit_SerifControlFlow_8 : ∃ (s : State) (dt : Nat) (u : State) (d n : Nat), u = s.after dt ∧ isN d n = true ∧ u.atWord d (encN 2 n) = true ∧ (bit (u.serif d).istat 15 && (u.serif d).ie) = false ∧ bits (u.serif d).istat 13 10 = 0 ∧ (u.serif d).ipc < 8192 ∧ (u.serif d).task ≠ 0 :=
  ⟨coreAt (encN 2 0), 0, State.after (coreAt (encN 2 0)) 0, 1, 0, rfl, by decide +kernel, by decide +kernel, by decide +kernel, by decide +kernel, by decide +kernel, by decide +kernel⟩

theorem test_wit_SerifControlFlow_9 : ∃ (s : State) (dt : Nat) (u : State) (d n : Nat), u = s.after dt ∧ isN d n = true ∧ u.atWord d (encN 3 n) = true ∧ (u.serif d).goesOn = true :=
  ⟨coreAt (encN 3 7), 0, State.after (coreAt (encN 3 7)) 0, 1, 7, rfl, by decide +kernel, by decide +kernel, by decide +kernel⟩

theorem test_wit_SerifControlFlow_10 : ∃ (s : State) (dt : Nat) (u : State) (d n : Nat), u = s.after dt ∧ isN d n = true ∧ u.atWord d (encN 1 n) = true ∧ (u.serif d).task = 2 ∧ (u.serif d).wait = false :=
  ⟨(coreAt (encN 1 0)).putSerif 1 { (coreAt (encN 1 0)).serif 1 with task := 2, slot := 9 }, 0, State.after ((coreAt (encN 1 0)).putSerif 1 { (coreAt (encN 1 0)).serif 1 with task := 2, slot := 9 }) 0, 1, 0, rfl, by decide +kernel, by decide +kernel, by decide +kernel, by decide +kernel⟩

theorem test_wit_SerifControlFlow_11 : ∃ (s : State) (dt : Nat) (u : State) (d w : Nat), u = s.after dt ∧ isSerif d = true ∧ u.atWord d w = true ∧ legal w = false ∧ (u.serif d).wait = false :=
  ⟨coreAt 4294967295, 0, State.after (coreAt 4294967295) 0, 1, 4294967295, rfl, by decide +kernel, by decide +kernel, by decide +kernel, by decide +kernel⟩

theorem test_wit_SerifTasksAndInterrupts_1 : ∃ (s : State) (dt : Nat) (u : State) (d : Nat), u = s.after dt ∧ isSerif d = true ∧ u.serifOn d = true ∧ (u.serif d).takeable = true ∧ (u.serif d).irq = true :=
  ⟨up.putSerif 3 { up.serif 3 with task := 1, irq := true, st := 32768, ien := 255, ipend := 128 }, 0, State.after (up.putSerif 3 { up.serif 3 with task := 1, irq := true, st := 32768, ien := 255, ipend := 128 }) 0, 3, rfl, by decide +kernel, by decide +kernel, by decide +kernel, by decide +kernel⟩

theorem test_wit_SerifTasksAndInterrupts_2 : ∃ (s : State) (dt : Nat) (u : State) (src : Src) (d : Nat), u = s.after dt ∧ isSerif d = true ∧ u.mayWrite src (11 + d) = true ∧ bit (u.serif d).ipend 1 = false :=
  ⟨up, 0, State.after up 0, .host, 3, rfl, by decide +kernel, by decide +kernel, by decide +kernel⟩

theorem test_wit_SerifTasksAndInterrupts_3 : ∃ (s : State) (dt : Nat) (u : State) (src : Src) (d v : Nat), u = s.after dt ∧ isSerif d = true ∧ isWord v = true ∧ u.mayWrite src (11 + d) = true :=
  ⟨up, 0, State.after up 0, .host, 3, 2147483648, rfl, by decide +kernel, by decide +kernel, by decide +kernel⟩

theorem test_wit_SerifTasksAndInterrupts_4 : ∃ (s : State) (dt : Nat) (u : State) (src : Src) (d v : Nat), u = s.after dt ∧ isSerif d = true ∧ isWord v = true ∧ u.mayWrite src (11 + d) = true :=
  ⟨up, 0, State.after up 0, .host, 3, 4294967295, rfl, by decide +kernel, by decide +kernel, by decide +kernel⟩

theorem test_wit_SerifTasksAndInterrupts_5 : ∃ (s u : State) (d : Nat), s.reach (s.rd (R.SF_TIMER.AT.i d)) = some u ∧ isSerif d = true ∧ (s.serif d).armed = true ∧ u.alive = true ∧ u.dom (11 + d) = true :=
  ⟨(up.put [(R.SF_TIMER.AT.i 2, 77)]).putSerif 2 { up.serif 2 with armed := true }, (((up.put [(R.SF_TIMER.AT.i 2, 77)]).putSerif 2 { up.serif 2 with armed := true }).reach (((up.put [(R.SF_TIMER.AT.i 2, 77)]).putSerif 2 { up.serif 2 with armed := true } : State).rd (R.SF_TIMER.AT.i (2 : Nat)))).getD ((up.put [(R.SF_TIMER.AT.i 2, 77)]).putSerif 2 { up.serif 2 with armed := true }), 2, some_of_isSome (by decide +kernel), by decide +kernel, by decide +kernel, by decide +kernel, by decide +kernel⟩

theorem test_wit_SerifTasksAndInterrupts_6 : ∃ (s u : State) (d x due : Nat), s.reach (sub32 due (s.act (R.SF_IRQ.WARN.i d))) = some u ∧ isSerif d = true ∧ (s.serif d).per = some (x, due) ∧ (s.serif d).task = 1 ∧ s.act (R.SF_IRQ.WARN.i d) ≠ 0 ∧ u.alive = true ∧ u.dom (11 + d) = true :=
  ⟨(up.put [(R.SF_IRQ.WARN.i 2, 77)]).putSerif 2 { up.serif 2 with task := 1, per := some (0, 100) }, (((up.put [(R.SF_IRQ.WARN.i 2, 77)]).putSerif 2 { up.serif 2 with task := 1, per := some (0, 100) }).reach (sub32 (100 : Nat) (((up.put [(R.SF_IRQ.WARN.i 2, 77)]).putSerif 2 { up.serif 2 with task := 1, per := some (0, 100) } : State).act (R.SF_IRQ.WARN.i (2 : Nat))))).getD ((up.put [(R.SF_IRQ.WARN.i 2, 77)]).putSerif 2 { up.serif 2 with task := 1, per := some (0, 100) }), 2, 0, 100, some_of_isSome (by decide +kernel), by decide +kernel, by decide +kernel, by decide +kernel, by decide +kernel, by decide +kernel, by decide +kernel⟩

theorem test_wit_SerifTasksAndInterrupts_7 : ∃ (s u : State) (d x due : Nat), s.reach (due) = some u ∧ isSerif d = true ∧ (s.serif d).per = some (x, due) ∧ (u.serif d).endAt = none ∧ (u.serif d).task = 1 ∧ (u.serif d).hdl = 0 ∧ (u.serif d).halt = false ∧ u.rd (R.SF_CNT.LATE_CNT.i d) < 65534 :=
  ⟨up.putSerif 2 { up.serif 2 with task := 1, per := some (0, 100) }, ((up.putSerif 2 { up.serif 2 with task := 1, per := some (0, 100) }).reach ((100 : Nat))).getD (up.putSerif 2 { up.serif 2 with task := 1, per := some (0, 100) }), 2, 0, 100, some_of_isSome (by decide +kernel), by decide +kernel, by decide +kernel, by decide +kernel, by decide +kernel, by decide +kernel, by decide +kernel, by decide +kernel⟩

theorem test_wit_SerifTasksAndInterrupts_8 : ∃ (s u : State) (d x due e : Nat), s.reach (due) = some u ∧ isSerif d = true ∧ (s.serif d).per = some (x, due) ∧ (u.serif d).endAt = some e ∧ e ≠ due :=
  ⟨up.putSerif 2 { up.serif 2 with per := some (0, 100), endAt := some 60 }, ((up.putSerif 2 { up.serif 2 with per := some (0, 100), endAt := some 60 }).reach ((100 : Nat))).getD (up.putSerif 2 { up.serif 2 with per := some (0, 100), endAt := some 60 }), 2, 0, 100, 60, some_of_isSome (by decide +kernel), by decide +kernel, by decide +kernel, by decide +kernel, by decide +kernel⟩

theorem test_wit_InkwellIsArmedAndTriggered_1 : ∃ (s : State) (dt : Nat) (u : State) (src : Src), u = s.after dt ∧ u.mayWrite src 16 = true :=
  ⟨(up.putMem8 8 4 9).putMem8 6 4 7, 0, State.after ((up.putMem8 8 4 9).putMem8 6 4 7) 0, .host, rfl, by decide +kernel⟩

theorem test_wit_InkwellIsArmedAndTriggered_2 : ∃ (s : State) (dt : Nat) (u : State) (src : Src), u = s.after dt ∧ u.mayWrite src 16 = true ∧ (u.inkState = 1 ∨ u.inkState = 2) :=
  ⟨up.put [(R.INK_STAT.STATE, 2)], 0, State.after (up.put [(R.INK_STAT.STATE, 2)]) 0, .host, rfl, by decide +kernel, by decide +kernel⟩

theorem test_wit_InkwellIsArmedAndTriggered_3 : ∃ (s : State) (dt : Nat) (u : State) (src : Src), u = s.after dt ∧ u.mayWrite src 16 = true ∧ u.inkState = 1 ∧ u.ink.kind = 0 :=
  ⟨up.put [(R.INK_STAT.STATE, 1)], 0, State.after (up.put [(R.INK_STAT.STATE, 1)]) 0, .host, rfl, by decide +kernel, by decide +kernel, by decide +kernel⟩

theorem test_wit_TestsOfUnitsRunAndEnd_1 : ∃ (s : State) (dt : Nat) (u : State) (k : Nat) (r : TestReq), u = s.after dt ∧ isUnit k = true ∧ u.spr.reqs = [r] ∧ r.unit = k ∧ u.testRun r = true ∧ r.sched = true ∧ r.again = false ∧ u.dct.overdue = none :=
  ⟨{ up with tb := { up.tb with boot := 20000003 }, spr := { up.spr with reqs := [⟨0x9001, 0, some 3, false, true, 0⟩] } }, 0, State.after ({ up with tb := { up.tb with boot := 20000003 }, spr := { up.spr with reqs := [⟨0x9001, 0, some 3, false, true, 0⟩] } }) 0, 0x9001, ⟨0x9001, 0, some 3, false, true, 0⟩, rfl, by decide +kernel, by decide +kernel, by decide +kernel, by decide +kernel, by decide +kernel, by decide +kernel, by decide +kernel⟩

theorem test_wit_TestsOfUnitsRunAndEnd_2 : ∃ (s : State) (dt : Nat) (u : State) (k : Nat) (r : TestReq), u = s.after dt ∧ isUnit k = true ∧ u.spr.reqs = [r] ∧ r.unit = k ∧ u.testRun r = true ∧ r.sched = false ∧ u.dct.overdue = none :=
  ⟨{ up with tb := { up.tb with boot := 20000003 }, spr := { up.spr with reqs := [⟨0x9001, 0, some 3, false, false, 0⟩] } }, 0, State.after ({ up with tb := { up.tb with boot := 20000003 }, spr := { up.spr with reqs := [⟨0x9001, 0, some 3, false, false, 0⟩] } }) 0, 0x9001, ⟨0x9001, 0, some 3, false, false, 0⟩, rfl, by decide +kernel, by decide +kernel, by decide +kernel, by decide +kernel, by decide +kernel, by decide +kernel⟩

theorem test_wit_TestsOfUnitsRunAndEnd_3 : ∃ (s : State) (dt : Nat) (u : State) (k w : Nat), u = s.after dt ∧ isUnit k = true ∧ u.alive = true ∧ u.tb.run = true ∧ u.schedFree k = true ∧ 2 ≤ u.rd R.SCR_SHED.LEVEL :=
  ⟨up.put [(R.SCR_SHED.LEVEL, 3)], 0, State.after (up.put [(R.SCR_SHED.LEVEL, 3)]) 0, 0x8000, 7, rfl, by decide +kernel, by decide +kernel, by decide +kernel, by decide +kernel, by decide +kernel⟩

theorem test_wit_TestsOfUnitsRunAndEnd_4 : ∃ (s : State) (dt : Nat) (u : State) (w : Nat), u = s.after dt ∧ u.alive = true ∧ u.tb.run = true ∧ u.schedFree 0x8000 = true ∧ u.rd R.SCR_SHED.LEVEL < 2 ∧ u.spr.reqs = [] :=
  ⟨up, 0, State.after up 0, 7, rfl, by decide +kernel, by decide +kernel, by decide +kernel, by decide +kernel, by decide +kernel⟩

theorem test_wit_TestsOfUnitsRunAndEnd_5 : ∃ (s : State) (dt : Nat) (u : State) (mac row : Nat), u = s.after dt ∧ mac < 240 ∧ row < 1024 ∧ u.alive = true ∧ u.tb.run = true ∧ u.spr.rowStuck = [] ∧ u.spr.reqs = [] ∧ u.rowsGone mac < 8 ∧ u.rd R.SPR_CORR.CORR < 4294967294 :=
  ⟨up, 0, State.after up 0, 239, 1023, rfl, by decide +kernel, by decide +kernel, by decide +kernel, by decide +kernel, by decide +kernel, by decide +kernel, by decide +kernel, by decide +kernel⟩

theorem test_wit_TestsOfUnitsRunAndEnd_6 : ∃ (s : State) (dt : Nat) (u : State) (mac row n : Nat), u = s.after dt ∧ mac < 240 ∧ row < 1024 ∧ u.alive = true ∧ u.tb.run = true ∧ n < 1048576 :=
  ⟨up.putMem32 8 20 77, 0, State.after (up.putMem32 8 20 77) 0, 239, 1023, 5, rfl, by decide +kernel, by decide +kernel, by decide +kernel, by decide +kernel, by decide +kernel⟩

theorem test_wit_BlotterEntriesAreWrittenAndErased_1 : ∃ (s : State) (dt : Nat) (u : State) (e : BltEntry) (q : List BltEntry), u = s.after dt ∧ u.alive = true ∧ u.rd R.BLT_STAT.READY = 1 ∧ u.blt.fill < 511 ∧ u.blt.queue = e :: q ∧ u.blt.held = [] ∧ u.drainFaults = false :=
  ⟨{ up.put [(R.BLT_STAT.READY, 1)] with blt := { up.blt with queue := [⟨0, 1, 0, 0, 61440, 1024, 1, 0, 0⟩] } }, 0, State.after ({ up.put [(R.BLT_STAT.READY, 1)] with blt := { up.blt with queue := [⟨0, 1, 0, 0, 61440, 1024, 1, 0, 0⟩] } }) 0, ⟨0, 1, 0, 0, 61440, 1024, 1, 0, 0⟩, [], rfl, by decide +kernel, by decide +kernel, by decide +kernel, by decide +kernel, by decide +kernel, by decide +kernel⟩

theorem test_wit_BlotterEntriesAreWrittenAndErased_2 : ∃ (s : State) (dt : Nat) (u : State) (b : Nat), u = s.after dt ∧ u.blt.erase = some b ∧ u.blt.fill < 512 :=
  ⟨{ up with blt := { up.blt with erase := some 3 } }, 0, State.after ({ up with blt := { up.blt with erase := some 3 } }) 0, 3, rfl, by decide +kernel, by decide +kernel⟩

theorem test_wit_BlotterEntriesAreWrittenAndErased_3 : ∃ (s : State) (dt : Nat) (u : State) (b : Nat), u = s.after dt ∧ u.blt.erase = some b :=
  ⟨{ up with blt := { up.blt with erase := some 3 } }, 0, State.after ({ up with blt := { up.blt with erase := some 3 } }) 0, 3, rfl, by decide +kernel⟩

theorem test_wit_BlotterEntriesAreWrittenAndErased_4 : ∃ (s : State) (x : Rat), s.alive = true ∧ s.tb.run = true ∧ s.spr.hoursN < 20000000000 :=
  ⟨up, 40, by decide +kernel, by decide +kernel, by decide +kernel⟩

theorem test_wit_GuardsAndCommits_1 : ∃ (s : State) (dt : Nat) (u : State) (src : Src), u = s.after dt ∧ u.reads src = true :=
  ⟨up, 0, State.after up 0, .scribe, rfl, by decide +kernel⟩

theorem test_wit_GuardsAndCommits_2 : ∃ (s : State) (dt : Nat) (u : State) (src : Src) (v : Nat), u = s.after dt ∧ isWord v = true ∧ v ≠ 0x5EA1 ∧ u.reads src = true :=
  ⟨up.put [(R.CMT_STAT.ARMED_H, 1)], 0, State.after (up.put [(R.CMT_STAT.ARMED_H, 1)]) 0, .host, 0, rfl, by decide +kernel, by decide +kernel, by decide +kernel⟩

theorem test_wit_GuardsAndCommits_3 : ∃ (s u : State) (src : Src), s.reach (add32 (if src = .scribe then s.cmt.keyS else s.cmt.keyH) 1000000) = some u ∧ s.armed src = true :=
  ⟨up.put [(R.CMT_STAT.ARMED_S, 1)], ((up.put [(R.CMT_STAT.ARMED_S, 1)]).reach (add32 (if (.scribe : Src) = .scribe then (up.put [(R.CMT_STAT.ARMED_S, 1)] : State).cmt.keyS else (up.put [(R.CMT_STAT.ARMED_S, 1)] : State).cmt.keyH) 1000000)).getD (up.put [(R.CMT_STAT.ARMED_S, 1)]), .scribe, some_of_isSome (by decide +kernel), by decide +kernel⟩

theorem test_wit_GuardsAndCommits_4 : ∃ (s : State) (dt : Nat) (u : State) (src : Src) (v : Nat), u = s.after dt ∧ isWord v = true ∧ u.reads src = true ∧ bit v 31 = false :=
  ⟨up, 0, State.after up 0, .host, 1073741833, rfl, by decide +kernel, by decide +kernel, by decide +kernel⟩

theorem test_wit_GuardsAndCommits_5 : ∃ (s : State) (dt : Nat) (u : State) (src : Src) (v : Nat), u = s.after dt ∧ isWord v = true ∧ u.reads src = true ∧ bit v 31 = true ∧ bit v 30 = true ∧ sub32 (u.rd R.CMT_AT.AT) u.now < 1000 :=
  ⟨up, 0, State.after up 0, .host, 3221225481, rfl, by decide +kernel, by decide +kernel, by decide +kernel, by decide +kernel, by decide +kernel⟩

theorem test_wit_GuardsAndCommits_6 : ∃ (s : State) (dt : Nat) (u : State) (src : Src) (g v : Nat), u = s.after dt ∧ isWord v = true ∧ u.reads src = true ∧ g < 16 ∧ v = 2147483648 + 2 ^ g ∧ u.cmt.reqs = [] ∧ (shadowHeads.all fun h => u.cgsel h != g) = true :=
  ⟨up, 0, State.after up 0, .host, 9, 2147484160, rfl, by decide +kernel, by decide +kernel, by decide +kernel, by decide +kernel, by decide +kernel, by decide +kernel⟩

theorem test_wit_GuardsAndCommits_7 : ∃ (s : State) (dt : Nat) (u : State) (src : Src) (g v : Nat), u = s.after dt ∧ isWord v = true ∧ u.reads src = true ∧ g < 16 ∧ v = 3221225472 + 2 ^ g ∧ u.cmt.reqs = [] ∧ u.mirrors = false ∧ 1000 ≤ sub32 (u.rd R.CMT_AT.AT) u.now ∧ sub32 (u.rd R.CMT_AT.AT) u.now < 2147483648 ∧ (shadowHeads.any fun h => u.member true g h) = true ∧ u.member true g sdHead = false :=
  ⟨(up.putRaw 0x600004 9).put [(R.CMT_AT.AT, 5000)], 0, State.after ((up.putRaw 0x600004 9).put [(R.CMT_AT.AT, 5000)]) 0, .host, 9, 3221225984, rfl, by decide +kernel, by decide +kernel, by decide +kernel, by decide +kernel, by decide +kernel, by decide +kernel, by decide +kernel, by decide +kernel, by decide +kernel, by decide +kernel⟩

theorem test_wit_GuardsAndCommits_8 : ∃ (s u : State) (g k x : Nat), s.reach (x) = some u ∧ isFb k = true ∧ s.alive = true ∧ s.cmt.reqs = [⟨g, true, x, [0x600000 + 0x200 * k], []⟩] ∧ g < 16 ∧ u.tb.actP = false :=
  ⟨{ up.wr (R.FB_CFG.FILT.i 15) 5 with cmt := { up.cmt with reqs := [⟨3, true, 2000, [0x600000 + 0x200 * 15], []⟩] } }, (({ up.wr (R.FB_CFG.FILT.i 15) 5 with cmt := { up.cmt with reqs := [⟨3, true, 2000, [0x600000 + 0x200 * 15], []⟩] } }).reach ((2000 : Nat))).getD ({ up.wr (R.FB_CFG.FILT.i 15) 5 with cmt := { up.cmt with reqs := [⟨3, true, 2000, [0x600000 + 0x200 * 15], []⟩] } }), 3, 15, 2000, some_of_isSome (by decide +kernel), by decide +kernel, by decide +kernel, by decide +kernel, by decide +kernel, by decide +kernel⟩

theorem test_wit_GuardsAndCommits_9 : ∃ (s : State) (dt : Nat) (u : State), u = s.after dt ∧ u.alive = true ∧ u.tb.run = true ∧ u.dom 9 = true :=
  ⟨up.putRaw 0x3C0010 77, 0, State.after (up.putRaw 0x3C0010 77) 0, rfl, by decide +kernel, by decide +kernel, by decide +kernel⟩

theorem test_wit_ResetsAddTheirCause_1 : ∃ (s : State) (dt : Nat) (u : State), u = s.after dt :=
  ⟨up, 0, State.after up 0, rfl⟩

theorem test_wit_ResetsAddTheirCause_2 : ∃ (s : State) (dt : Nat) (u : State), u = s.after dt :=
  ⟨up, 0, State.after up 0, rfl⟩

theorem test_wit_ResetsAddTheirCause_3 : ∃ (s : State) (dt : Nat) (u : State), u = s.after dt :=
  ⟨{ up with dev := { up.dev with inReset := true, por := true, cause := 1 } }, 0, State.after ({ up with dev := { up.dev with inReset := true, por := true, cause := 1 } }) 0, rfl⟩

theorem test_wit_ResetsAddTheirCause_4 : ∃ (s : State) (dt : Nat) (u : State) (src : Src) (v : Nat), u = s.after dt ∧ isWord v = true ∧ u.reads src = true ∧ u.armed src = true ∧ bit v 31 = true :=
  ⟨up.put [(R.CMT_STAT.ARMED_H, 1)], 0, State.after (up.put [(R.CMT_STAT.ARMED_H, 1)]) 0, .host, 2147483648, rfl, by decide +kernel, by decide +kernel, by decide +kernel, by decide +kernel⟩

theorem test_wit_ResetsAddTheirCause_5 : ∃ (s : State) (dt : Nat) (u : State), u = s.after dt ∧ u.alive = true :=
  ⟨up, 0, State.after up 0, rfl, by decide +kernel⟩

theorem test_wit_ResetsAddTheirCause_6 : ∃ (s : State) (dt : Nat) (u : State) (x : Nat), u = s.after dt ∧ x < 8 ∧ u.dev.inReset = true :=
  ⟨{ up with dev := { up.dev with inReset := true, por := true } }, 0, State.after ({ up with dev := { up.dev with inReset := true, por := true } }) 0, 7, rfl, by decide +kernel, by decide +kernel⟩

theorem test_wit_ClocksStartAndStop_1 : ∃ (s : State) (dt : Nat) (u : State), u = s.after dt ∧ u.alive = true ∧ u.tb.run = false ∧ u.dom 15 = true :=
  ⟨{ up with tb := { up.tb with run := false } }, 0, State.after ({ up with tb := { up.tb with run := false } }) 0, rfl, by decide +kernel, by decide +kernel, by decide +kernel⟩

theorem test_wit_ClocksStartAndStop_2 : ∃ (s : State) (dt : Nat) (u : State), u = s.after dt ∧ u.tb.run = true :=
  ⟨up, 0, State.after up 0, rfl, by decide +kernel⟩

theorem test_wit_ClocksStartAndStop_3 : ∃ (s : State) (dt : Nat) (u : State), u = s.after dt :=
  ⟨up, 0, State.after up 0, rfl⟩

theorem test_wit_ClocksStartAndStop_4 : ∃ (s : State) (dt : Nat) (u : State), u = s.after dt ∧ u.alive = true ∧ u.dom 20 = true :=
  ⟨up, 0, State.after up 0, rfl, by decide +kernel, by decide +kernel⟩

theorem test_wit_ClocksStartAndStop_5 : ∃ (s : State) (dt : Nat) (u : State) (k : Nat), u = s.after dt ∧ k < 2 ∧ u.alive = true ∧ u.tb.run = true ∧ u.mode = 0 ∧ u.rd R.MOD_STAT.FOLIO_NONE = 0 :=
  ⟨up.put [(R.MOD_STATE.MODE, 0)], 0, State.after (up.put [(R.MOD_STATE.MODE, 0)]) 0, 1, rfl, by decide +kernel, by decide +kernel, by decide +kernel, by decide +kernel, by decide +kernel⟩

theorem test_wit_ClocksStartAndStop_6 : ∃ (s : State) (dt : Nat) (u : State) (e : LoadEnv), u = s.after dt ∧ u.alive = true ∧ u.tb.run = true ∧ u.mode = 0 ∧ u.rd R.MOD_STAT.FOLIO_NONE = 0 ∧ e.cs0.fitted = false ∧ e.cs1.fitted = false :=
  ⟨up.put [(R.MOD_STATE.MODE, 0)], 0, State.after (up.put [(R.MOD_STATE.MODE, 0)]) 0, env0, rfl, by decide +kernel, by decide +kernel, by decide +kernel, by decide +kernel, by decide +kernel, by decide +kernel⟩

theorem test_wit_ClocksStartAndStop_7 : ∃ (s : State) (dt : Nat) (u : State) (e : LoadEnv) (b : Bool), u = s.after dt ∧ u.alive = true ∧ u.tb.run = true ∧ u.mode = 0 ∧ u.rd R.MOD_STAT.FOLIO_NONE = 0 ∧ u.headCheck b e = 0 ∧ u.headCheck (!b) e ≠ 0 ∧ ((u.headsDone e).bodyCheck b e).code = 0 :=
  ⟨boot0, 0, boot0, env1, false, rfl, by decide +kernel, by decide +kernel, by decide +kernel, by decide +kernel, (img0_head boot0 rfl rfl rfl).1, by rw [Bool.not_false, (img0_head boot0 rfl rfl rfl).2]; decide, img0_body⟩

theorem test_wit_ModeRequestsOfTheHostAndScribe_1 : ∃ (s : State) (dt : Nat) (u : State) (src : Src), u = s.after dt ∧ u.mayRequest src = true ∧ (u.mode = 2 ∨ u.mode = 4 ∨ u.mode = 5) :=
  ⟨lead.put [(R.CMT_STAT.ARMED_H, 1), (R.MOD_STATE.PEND, 15)], 0, State.after (lead.put [(R.CMT_STAT.ARMED_H, 1), (R.MOD_STATE.PEND, 15)]) 0, .host, rfl, by decide +kernel, by decide +kernel⟩

theorem test_wit_ModeRequestsOfTheHostAndScribe_2 : ∃ (s : State) (dt : Nat) (u : State) (src : Src), u = s.after dt ∧ u.mayRequest src = true ∧ u.mode = 6 ∧ u.holdActive = false :=
  ⟨lead.put [(R.CMT_STAT.ARMED_H, 1), (R.MOD_STATE.PEND, 15), (R.MOD_STATE.MODE, 6), (R.MOD_STATE.FROM, 2)], 0, State.after (lead.put [(R.CMT_STAT.ARMED_H, 1), (R.MOD_STATE.PEND, 15), (R.MOD_STATE.MODE, 6), (R.MOD_STATE.FROM, 2)]) 0, .host, rfl, by decide +kernel, by decide +kernel, by decide +kernel⟩

theorem test_wit_ModeRequestsOfTheHostAndScribe_3 : ∃ (s : State) (dt : Nat) (u : State) (src : Src), u = s.after dt ∧ u.mayRequest src = true ∧ u.mode = 1 ∧ ((List.range 8).any fun i => u.sinFunc i == 3) = true :=
  ⟨up.put [(R.CMT_STAT.ARMED_H, 1), (R.MOD_STATE.PEND, 15), (R.MGN_SIN_CFG.FUNC.j 2, 3)], 0, State.after (up.put [(R.CMT_STAT.ARMED_H, 1), (R.MOD_STATE.PEND, 15), (R.MGN_SIN_CFG.FUNC.j 2, 3)]) 0, .host, rfl, by decide +kernel, by decide +kernel, by decide +kernel⟩

theorem test_wit_ModeRequestsOfTheHostAndScribe_4 : ∃ (s : State) (dt : Nat) (u : State) (src : Src), u = s.after dt ∧ u.mayRequest src = true ∧ u.mode = 7 :=
  ⟨up.put [(R.CMT_STAT.ARMED_H, 1), (R.MOD_STATE.PEND, 15), (R.MOD_STATE.MODE, 7), (R.MOD_STATE.FROM, 1)], 0, State.after (up.put [(R.CMT_STAT.ARMED_H, 1), (R.MOD_STATE.PEND, 15), (R.MOD_STATE.MODE, 7), (R.MOD_STATE.FROM, 1)]) 0, .host, rfl, by decide +kernel, by decide +kernel⟩

theorem test_wit_ModeRequestsOfTheHostAndScribe_5 : ∃ (s : State) (dt : Nat) (u : State) (src : Src), u = s.after dt ∧ u.mayRequest src = true ∧ (u.mode = 1 ∨ u.mode = 6 ∨ u.mode = 7) :=
  ⟨up.put [(R.CMT_STAT.ARMED_H, 1), (R.MOD_STATE.PEND, 15)], 0, State.after (up.put [(R.CMT_STAT.ARMED_H, 1), (R.MOD_STATE.PEND, 15)]) 0, .host, rfl, by decide +kernel, by decide +kernel⟩

theorem test_wit_ModeRequestsOfTheHostAndScribe_6 : ∃ (s : State) (dt : Nat) (u : State) (src : Src), u = s.after dt ∧ u.mayRequest src = true ∧ u.mode = 2 ∧ u.claim ≠ 0 ∧ u.leadsAny = false ∧ u.rd R.TWN_STAT.HB_PEND = 0 ∧ u.twinOn = false :=
  ⟨lead.put [(R.CMT_STAT.ARMED_H, 1), (R.MOD_STATE.PEND, 15), (R.TWN_CFG.CLAIM_CFG, 5)], 0, State.after (lead.put [(R.CMT_STAT.ARMED_H, 1), (R.MOD_STATE.PEND, 15), (R.TWN_CFG.CLAIM_CFG, 5)]) 0, .host, rfl, by decide +kernel, by decide +kernel, by decide +kernel, by decide +kernel, by decide +kernel, by decide +kernel⟩

theorem test_wit_ModeRequestsOfTheHostAndScribe_7 : ∃ (s : State) (dt : Nat) (u : State) (src : Src) (k : Nat), u = s.after dt ∧ (k = 0 ∨ 6 < k) ∧ k < 16 ∧ u.mayRequest src = true :=
  ⟨lead.put [(R.CMT_STAT.ARMED_H, 1), (R.MOD_STATE.PEND, 15)], 0, State.after (lead.put [(R.CMT_STAT.ARMED_H, 1), (R.MOD_STATE.PEND, 15)]) 0, .host, 7, rfl, by decide +kernel, by decide +kernel, by decide +kernel⟩

theorem test_wit_ModeRequestsOfTheHostAndScribe_8 : ∃ (s : State) (dt : Nat) (u : State) (src : Src), u = s.after dt ∧ u.reads src = true ∧ u.armed src = false :=
  ⟨lead, 0, State.after lead 0, .host, rfl, by decide +kernel, by decide +kernel⟩

theorem test_wit_ModeRequestsOfTheHostAndScribe_9 : ∃ (s u : State), u = s.runRim s.dev.pendAt ∧ s.alive = true ∧ s.tb.run = true ∧ s.dev.pendKind = 3 ∧ s.rd R.MOD_STATE.PEND = 0 :=
  ⟨{ up.put [(R.MOD_STATE.PEND, 0)] with dev := { up.dev with pendKind := 3, pendAt := 1000 } }, ({ up.put [(R.MOD_STATE.PEND, 0)] with dev := { up.dev with pendKind := 3, pendAt := 1000 } } : State).runRim ({ up.put [(R.MOD_STATE.PEND, 0)] with dev := { up.dev with pendKind := 3, pendAt := 1000 } } : State).dev.pendAt, rfl, by decide +kernel, by decide +kernel, by decide +kernel, by decide +kernel⟩

theorem test_wit_InterruptsAndMessages_1 : ∃ (s : State) (dt : Nat) (u : State) (src : Src) (n v : Nat), u = s.after dt ∧ n < 2 ∧ isWord v = true ∧ u.reads src = true ∧ u.log = .none :=
  ⟨{ up with regs := (up.putRaw 0x304 0xFF).regs }, 0, State.after ({ up with regs := (up.putRaw 0x304 0xFF).regs }) 0, .host, 1, 0x0F, rfl, by decide +kernel, by decide +kernel, by decide +kernel, by decide +kernel⟩

theorem test_wit_InterruptsAndMessages_2 : ∃ (s : State) (dt : Nat) (u : State) (src : Src) (n v : Nat), u = s.after dt ∧ n < 2 ∧ isWord v = true ∧ u.reads src = true ∧ u.raw (0x300 + 4 * n) = 0 ∧ u.mirrors = false :=
  ⟨up, 0, State.after up 0, .host, 1, 4294967295, rfl, by decide +kernel, by decide +kernel, by decide +kernel, by decide +kernel, by decide +kernel⟩

theorem test_wit_InterruptsAndMessages_3 : ∃ (s : State) (dt : Nat) (u : State) (src : Src) (v : Nat), u = s.after dt ∧ isWord (2 ^ v) = true ∧ v < 32 ∧ u.reads src = true ∧ u.mirrors = false ∧ u.rd (intStat v) = 1 ∧ u.msixOpen v = true :=
  ⟨{ up.put [(intStat 9, 1), (R.MSIX_CTRL.MASK.j 9, 0)] with bus := { up.bus with msixEn := true } }, 0, State.after ({ up.put [(intStat 9, 1), (R.MSIX_CTRL.MASK.j 9, 0)] with bus := { up.bus with msixEn := true } }) 0, .host, 9, rfl, by decide +kernel, by decide +kernel, by decide +kernel, by decide +kernel, by decide +kernel, by decide +kernel⟩

theorem test_wit_InterruptsAndMessages_4 : ∃ (s : State) (dt : Nat) (u : State), u = s.after dt ∧ u.srcUp .host = true :=
  ⟨{ up with bus := { up.bus with fmask := true } }, 0, State.after ({ up with bus := { up.bus with fmask := true } }) 0, rfl, by decide +kernel⟩

theorem test_wit_InterruptsAndMessages_5 : ∃ (s : State) (dt : Nat) (u : State), u = s.after dt ∧ u.srcUp .host = true :=
  ⟨up, 0, State.after up 0, rfl, by decide +kernel⟩

theorem test_wit_InterruptsAndMessages_6 : ∃ (s : State) (dt : Nat) (u : State) (v : Nat), u = s.after dt ∧ isVec v = true ∧ u.srcUp .host = true ∧ u.mirrors = false :=
  ⟨up.put [(R.MSIX_CTRL.MASK.j 63, 1)], 0, State.after (up.put [(R.MSIX_CTRL.MASK.j 63, 1)]) 0, 63, rfl, by decide +kernel, by decide +kernel, by decide +kernel⟩

theorem test_wit_ManagementBusCommands_1 : ∃ (s : State) (dt : Nat) (u : State) (c : Nat) (d : List Nat) (ok : Bool), u = s.after dt ∧ c < 8 ∧ d.all (· < 256) = true ∧ u.alive = true ∧ (ok = false → d = []) :=
  ⟨up, 0, State.after up 0, 7, [], false, rfl, by decide +kernel, by decide +kernel, by decide +kernel, by decide +kernel⟩

theorem test_wit_ManagementBusCommands_2 : ∃ (s : State) (dt : Nat) (u : State) (c : Nat) (d : List Nat) (ok : Bool), u = s.after dt ∧ 7 < c ∧ c < 256 ∧ c ≠ 16 ∧ d.all (· < 256) = true ∧ u.alive = true :=
  ⟨up, 0, State.after up 0, 255, [1], false, rfl, by decide +kernel, by decide +kernel, by decide +kernel, by decide +kernel, by decide +kernel⟩

theorem test_wit_ManagementBusCommands_3 : ∃ (s : State) (dt : Nat) (u : State) (c : Nat) (d : List Nat), u = s.after dt ∧ c < 8 ∧ d.all (· < 256) = true ∧ d ≠ [] ∧ u.alive = true :=
  ⟨up, 0, State.after up 0, 0, [1], rfl, by decide +kernel, by decide +kernel, by decide +kernel, by decide +kernel⟩

theorem test_wit_ManagementBusCommands_4 : ∃ (s : State) (dt : Nat) (u : State) (n : Nat), u = s.after dt ∧ u.alive = true ∧ u.bus.idle = false :=
  ⟨{ up with bus := { up.bus with idle := false, cmd := 3, snap := [1, 2] } }, 0, State.after ({ up with bus := { up.bus with idle := false, cmd := 3, snap := [1, 2] } }) 0, 4, rfl, by decide +kernel, by decide +kernel⟩

theorem test_wit_ManagementBusCommands_5 : ∃ (s : State) (dt : Nat) (u : State), u = s.after dt ∧ u.alive = true ∧ u.rd R.DEV_I2C.RST_EN = 1 :=
  ⟨up.put [(R.DEV_I2C.RST_EN, 1)], 0, State.after (up.put [(R.DEV_I2C.RST_EN, 1)]) 0, rfl, by decide +kernel, by decide +kernel⟩

theorem test_wit_ManagementBusCommands_6 : ∃ (s : State) (dt : Nat) (u : State) (a b : Nat), u = s.after dt ∧ a < 256 ∧ b < 256 ∧ (a ≠ 0x5E ∨ b ≠ 0xA1) ∧ u.alive = true :=
  ⟨up, 0, State.after up 0, 0x5E, 0xA0, rfl, by decide +kernel, by decide +kernel, by decide +kernel, by decide +kernel⟩

theorem test_wit_ManagementBusCommands_7 : ∃ (s : State) (dt : Nat) (u : State), u = s.after dt :=
  ⟨up, 0, State.after up 0, rfl⟩

theorem test_wit_ManagementBusCommands_8 : ∃ (s : State) (dt : Nat) (u : State) (r v i x y : Nat), u = s.after dt ∧ r < 8 ∧ v < 65536 ∧ i < 65536 ∧ x < 256 ∧ y < 65536 ∧ u.alive = true ∧ u.tb.run = true ∧ u.dct.restart = none ∧ r < u.rd R.PWR_PMB.NRAIL :=
  ⟨up.put [(R.PWR_PMB.NRAIL, 8)], 0, State.after (up.put [(R.PWR_PMB.NRAIL, 8)]) 0, 7, 65535, 1, 255, 2, rfl, by decide +kernel, by decide +kernel, by decide +kernel, by decide +kernel, by decide +kernel, by decide +kernel, by decide +kernel, by decide +kernel, by decide +kernel⟩

theorem test_wit_ManagementBusCommands_9 : ∃ (s : State) (dt : Nat) (u : State) (r v i x y : Nat), u = s.after dt ∧ r < 8 ∧ v < 65536 ∧ i < 65536 ∧ x < 256 ∧ y < 65536 ∧ u.alive = true ∧ u.tb.run = true ∧ u.dct.restart = none ∧ r < u.rd R.PWR_PMB.NRAIL :=
  ⟨up.put [(R.PWR_PMB.NRAIL, 8)], 0, State.after (up.put [(R.PWR_PMB.NRAIL, 8)]) 0, 7, 65535, 1, 255, 2, rfl, by decide +kernel, by decide +kernel, by decide +kernel, by decide +kernel, by decide +kernel, by decide +kernel, by decide +kernel, by decide +kernel, by decide +kernel⟩

theorem test_wit_ManagementBusCommands_10 : ∃ (s : State) (dt : Nat) (u : State) (r y : Nat), u = s.after dt ∧ r < 8 ∧ y < 65536 ∧ u.alive = true ∧ u.tb.run = true ∧ u.dct.restart = none ∧ r < u.rd R.PWR_PMB.NRAIL ∧ u.rd R.PWR_PMB.ALERT = 0 :=
  ⟨up.put [(R.PWR_PMB.NRAIL, 8)], 0, State.after (up.put [(R.PWR_PMB.NRAIL, 8)]) 0, 7, 65535, rfl, by decide +kernel, by decide +kernel, by decide +kernel, by decide +kernel, by decide +kernel, by decide +kernel, by decide +kernel⟩

theorem test_wit_MailboxRequestsAreAnswered_1 : ∃ (s : State) (dt : Nat) (u : State) (src : Src) (v : Nat), u = s.after dt ∧ isWord v = true ∧ bit v 31 = true ∧ u.mayWrite src 15 = true ∧ u.rd R.SCR_MB_STAT.STATUS ≠ 1 ∧ u.dct.overdue = none ∧ u.dct.restart = none ∧ u.rd R.SCR_SHED.LEVEL = 0 :=
  ⟨up.put [(R.SCR_MB_REQ.WORD.j 0, 16777221)], 0, State.after (up.put [(R.SCR_MB_REQ.WORD.j 0, 16777221)]) 0, .host, 2147483648, rfl, by decide +kernel, by decide +kernel, by decide +kernel, by decide +kernel, by decide +kernel, by decide +kernel, by decide +kernel⟩

theorem test_wit_MailboxRequestsAreAnswered_2 : ∃ (s : State) (dt : Nat) (u : State) (src : Src) (v : Nat), u = s.after dt ∧ isWord v = true ∧ bit v 31 = true ∧ u.mayWrite src 15 = true ∧ u.rd R.SCR_MB_STAT.STATUS = 1 ∧ bit v 30 = false :=
  ⟨up.put [(R.SCR_MB_STAT.STATUS, 1)], 0, State.after (up.put [(R.SCR_MB_STAT.STATUS, 1)]) 0, .host, 2147483648, rfl, by decide +kernel, by decide +kernel, by decide +kernel, by decide +kernel, by decide +kernel⟩

theorem test_wit_MailboxRequestsAreAnswered_3 : ∃ (s : State) (dt : Nat) (u : State) (v : Nat), u = s.after dt ∧ isWord v = true ∧ u.mbRuns 1 = true :=
  ⟨up.put [(R.SCR_MB_STAT.STATUS, 1), (R.SCR_MB_STAT.OP, 1)], 0, State.after (up.put [(R.SCR_MB_STAT.STATUS, 1), (R.SCR_MB_STAT.OP, 1)]) 0, 4294967295, rfl, by decide +kernel, by decide +kernel⟩

theorem test_wit_MailboxRequestsAreAnswered_4 : ∃ (s : State) (dt : Nat) (u : State), u = s.after dt ∧ u.mbRuns 2 = true ∧ u.mbArg 3 ≤ 60 ∧ u.flashHas (u.mbArg 1) (u.mbArg 2) (4 * u.mbArg 3) = true :=
  ⟨mbox 2 [0, 0, 16, 60], 0, State.after (mbox 2 [0, 0, 16, 60]) 0, rfl, by decide +kernel, by decide +kernel, by decide +kernel⟩

theorem test_wit_MailboxRequestsAreAnswered_5 : ∃ (s : State) (dt : Nat) (u : State), u = s.after dt ∧ u.mbRuns 3 = true ∧ u.slotGuard (u.mbArg 1) (u.mbArg 2 / 4096 * 4096) (4096 * u.mbArg 3) = false ∧ u.flashHas (u.mbArg 1) (u.mbArg 2 / 4096 * 4096) (4096 * u.mbArg 3) = true :=
  ⟨(((mbox 3 [0, 0, 4100, 2]).putMem8 0x100 4097 7).putMem8 0x100 12289 8).putMem8 3 4 5, 0, State.after ((((mbox 3 [0, 0, 4100, 2]).putMem8 0x100 4097 7).putMem8 0x100 12289 8).putMem8 3 4 5) 0, rfl, by decide +kernel, by decide +kernel, by decide +kernel⟩

theorem test_wit_MailboxRequestsAreAnswered_6 : ∃ (s : State) (dt : Nat) (u : State) (v : Nat), u = s.after dt ∧ u.mbRuns 4 = true ∧ u.mbArg 3 = 1 ∧ u.mbArg 4 = v ∧ isWord v = true ∧ u.slotGuard (u.mbArg 1) (u.mbArg 2) 4 = false ∧ u.flashHas (u.mbArg 1) (u.mbArg 2) 4 = true ∧ u.mem32 (flashSp (u.mbArg 1)) (u.mbArg 2) = 4294967295 :=
  ⟨mbox 4 [0, 0, 16, 1, 4294967290], 0, State.after (mbox 4 [0, 0, 16, 1, 4294967290]) 0, 4294967290, rfl, by decide +kernel, by decide +kernel, by decide +kernel, by decide +kernel, by decide +kernel, by decide +kernel, by decide +kernel⟩

theorem test_wit_MailboxRequestsAreAnswered_7 : ∃ (s : State) (dt : Nat) (u : State) (e : LoadEnv), u = s.after dt ∧ u.mbRuns 5 = true ∧ u.mbArg 1 = 2 ∧ u.headCheck true e ≠ 0 ∧ u.headCheck true e < 16 :=
  ⟨mbox 5 [0, 2], 0, State.after (mbox 5 [0, 2]) 0, env0, rfl, by decide +kernel, by decide +kernel, by decide +kernel, by decide +kernel⟩

theorem test_wit_MailboxRequestsAreAnswered_8 : ∃ (s : State) (dt : Nat) (u : State) (k : Nat), u = s.after dt ∧ u.mbRuns 6 = true ∧ u.mbArg 1 = k ∧ isUnit k = true ∧ u.spr.reqs = [] :=
  ⟨mbox 6 [0, 0x9001], 0, State.after (mbox 6 [0, 0x9001]) 0, 0x9001, rfl, by decide +kernel, by decide +kernel, by decide +kernel, by decide +kernel⟩

theorem test_wit_MailboxRequestsAreAnswered_9 : ∃ (s : State) (dt : Nat) (u : State), u = s.after dt ∧ u.mbRuns 7 = true ∧ u.blt.queue = [] :=
  ⟨mbox 7 [0], 0, State.after (mbox 7 [0]) 0, rfl, by decide +kernel, by decide +kernel⟩

theorem test_wit_MailboxRequestsAreAnswered_10 : ∃ (s : State) (dt : Nat) (u : State) (k : Nat), u = s.after dt ∧ (k = 0 ∨ 7 < k) ∧ u.mbRuns k = true :=
  ⟨mbox 8 [0], 0, State.after (mbox 8 [0]) 0, 8, rfl, by decide +kernel, by decide +kernel⟩

theorem test_wit_ScribeSupervision_1 : ∃ (s u : State) (n : Nat), u = s.runRim ((s.tb.rim / loadWindow + 1) * loadWindow) ∧ n ≤ 4000000 ∧ s.alive = true ∧ s.tb.run = true ∧ u.dct.defer = [] :=
  ⟨up, (up : State).runRim (((up : State).tb.rim / loadWindow + 1) * loadWindow), 4000000, rfl, by decide +kernel, by decide +kernel, by decide +kernel, by decide +kernel⟩

theorem test_wit_ScribeSupervision_2 : ∃ (s u : State) (k r w : Nat), u = s.runRim (r + deferBound) ∧ s.dct.defer = [(k, r, w)] ∧ s.scribeRuns = true ∧ u.dct.defer = [(k, r, w)] ∧ deferBound ≤ u.tb.rim - r ∧ k ≠ 0x8000 ∧ u.spr.reqs = [] :=
  ⟨{ up with dct := { up.dct with defer := [(0x1029, 5, 0)] } }, ({ up with dct := { up.dct with defer := [(0x1029, 5, 0)] } } : State).runRim ((5 : Nat) + deferBound), 0x1029, 5, 0, rfl, by decide +kernel, by decide +kernel, by decide +kernel, by decide +kernel, by decide +kernel, by decide +kernel⟩

theorem test_wit_ScribeSupervision_3 : ∃ (s : State) (dt : Nat) (u : State), u = s.after dt ∧ u.mayWrite .scribe 15 = true ∧ u.dct.restart = none :=
  ⟨up, 0, State.after up 0, rfl, by decide +kernel, by decide +kernel⟩

theorem test_wit_ScribeSupervision_4 : ∃ (s u : State), u = s.runRim (s.dct.kick + wdogClocks) ∧ s.scribeRuns = true ∧ u.rd R.SCR_RST.RESTARTS < 65534 ∧ u.dct.run = [] :=
  ⟨up, (up : State).runRim ((up : State).dct.kick + wdogClocks), rfl, by decide +kernel, by decide +kernel, by decide +kernel⟩

theorem test_wit_ScribeSupervision_5 : ∃ (s : State) (dt : Nat) (u : State) (x : Nat) (ok : Bool), u = s.after dt ∧ u.dct.restart = some x ∧ u.alive = true ∧ u.tb.run = true ∧ u.dct.defer = [] :=
  ⟨{ up with dct := { up.dct with restart := some 0 } }, 0, State.after ({ up with dct := { up.dct with restart := some 0 } }) 0, 0, false, rfl, by decide +kernel, by decide +kernel, by decide +kernel, by decide +kernel⟩

theorem test_wit_WindowsAndApertureReachTheirSpace_1 : ∃ (s : State) (dt : Nat) (u : State) (src : Src) (w be : Nat), u = s.after dt ∧ w < 4 ∧ be < 16 ∧ u.reads src = true ∧ u.winQ w = [] ∧ u.winAddr w < spaceSize (u.winSpace w) ∧ u.domOn (spaceDom (u.winSpace w) (u.winAddr w)) = true :=
  ⟨(up.put [(R.IND_SPACE.SPACE.j 3, 7), (R.IND_SPACE.STEP.j 3, 1), (R.IND_ADDR.ADDR.j 3, 65535)]).putMem32 7 0x3FFFC 77, 0, State.after ((up.put [(R.IND_SPACE.SPACE.j 3, 7), (R.IND_SPACE.STEP.j 3, 1), (R.IND_ADDR.ADDR.j 3, 65535)]).putMem32 7 0x3FFFC 77) 0, .host, 3, 15, rfl, by decide +kernel, by decide +kernel, by decide +kernel, by decide +kernel, by decide +kernel, by decide +kernel⟩

theorem test_wit_WindowsAndApertureReachTheirSpace_2 : ∃ (s : State) (dt : Nat) (u : State) (src : Src) (w v : Nat), u = s.after dt ∧ w < 4 ∧ isWord v = true ∧ u.reads src = true ∧ (u.winQ w).length < 8 :=
  ⟨{ up with wins := [(3, List.replicate 7 (7, 0, 0))] }, 0, State.after ({ up with wins := [(3, List.replicate 7 (7, 0, 0))] }) 0, .host, 3, 4294967295, rfl, by decide +kernel, by decide +kernel, by decide +kernel, by decide +kernel⟩

theorem test_wit_WindowsAndApertureReachTheirSpace_3 : ∃ (s : State) (dt : Nat) (u : State) (src : Src) (w v : Nat), u = s.after dt ∧ w < 4 ∧ isWord v = true ∧ u.reads src = true ∧ (u.winQ w).length = 8 :=
  ⟨{ up with wins := [(3, List.replicate 8 (7, 0, 0))] }, 0, State.after ({ up with wins := [(3, List.replicate 8 (7, 0, 0))] }) 0, .host, 3, 4294967295, rfl, by decide +kernel, by decide +kernel, by decide +kernel, by decide +kernel⟩

theorem test_wit_WindowsAndApertureReachTheirSpace_4 : ∃ (s : State) (dt : Nat) (u : State) (w a v : Nat) (q : Window), u = s.after dt ∧ w < 5 ∧ a < 0x40000 ∧ a % 4 = 0 ∧ isWord v = true ∧ u.winRuns = true ∧ u.winQ w = (7, a, v) :: q ∧ u.domOn (11 + a / 0x10000) = true :=
  ⟨{ up with wins := [(4, [(7, 0x3FFFC, 5), (5, 0, 0)])] }, 0, State.after ({ up with wins := [(4, [(7, 0x3FFFC, 5), (5, 0, 0)])] }) 0, 4, 0x3FFFC, 5, [(5, 0, 0)], rfl, by decide +kernel, by decide +kernel, by decide +kernel, by decide +kernel, by decide +kernel, by decide +kernel, by decide +kernel⟩

theorem test_wit_WindowsAndApertureReachTheirSpace_5 : ∃ (s : State) (dt : Nat) (u : State) (w a v : Nat) (q : Window), u = s.after dt ∧ w < 5 ∧ isWord v = true ∧ u.winRuns = true ∧ u.winQ w = (5, a, v) :: q ∧ a < 0x800000 :=
  ⟨{ up with wins := [(4, [(5, 0x7FFFFC, 5)])] }, 0, State.after ({ up with wins := [(4, [(5, 0x7FFFFC, 5)])] }) 0, 4, 0x7FFFFC, 5, [], rfl, by decide +kernel, by decide +kernel, by decide +kernel, by decide +kernel, by decide +kernel⟩

theorem test_wit_WindowsAndApertureReachTheirSpace_6 : ∃ (s : State) (dt : Nat) (u : State) (w : Nat) (x : Nat × Nat × Nat) (q : Window), u = s.after dt ∧ w < 5 ∧ u.winRuns = true ∧ u.winQ w = x :: q ∧ spaceSize x.1 ≤ x.2.1 :=
  ⟨{ up with wins := [(4, [(9, 0, 5)])] }, 0, State.after ({ up with wins := [(4, [(9, 0, 5)])] }) 0, 4, (9, 0, 5), [], rfl, by decide +kernel, by decide +kernel, by decide +kernel, by decide +kernel⟩

theorem test_wit_WindowsAndApertureReachTheirSpace_7 : ∃ (s : State) (dt : Nat) (u : State) (src : Src) (w : Nat), u = s.after dt ∧ w < 4 ∧ u.winRuns = true ∧ u.reads src = true ∧ u.winQ w = [] :=
  ⟨up, 0, State.after up 0, .host, 3, rfl, by decide +kernel, by decide +kernel, by decide +kernel, by decide +kernel⟩

theorem test_wit_WindowsAndApertureReachTheirSpace_8 : ∃ (s : State) (dt : Nat) (u : State), u = s.after dt ∧ u.winRuns = true ∧ u.reads .host = true ∧ u.winQ 4 = [] :=
  ⟨up, 0, State.after up 0, rfl, by decide +kernel, by decide +kernel, by decide +kernel⟩

theorem test_wit_WindowsAndApertureReachTheirSpace_9 : ∃ (s : State) (dt : Nat) (u : State) (w : Nat) (x : Nat × Nat × Nat) (q : Window), u = s.after dt ∧ w < 5 ∧ u.winRuns = true ∧ u.winQ w = x :: q :=
  ⟨{ up with wins := [(4, [(9, 0, 5)])] }, 0, State.after ({ up with wins := [(4, [(9, 0, 5)])] }) 0, 4, (9, 0, 5), [], rfl, by decide +kernel, by decide +kernel, by decide +kernel⟩

theorem test_wit_WindowsAndApertureReachTheirSpace_10 : ∃ (s : State) (dt : Nat) (u : State) (o be : Nat), u = s.after dt ∧ o < 0x400000 ∧ be < 16 ∧ u.srcUp .host = true ∧ u.winQ 4 = [] ∧ u.apAddr o < spaceSize (u.rd R.IND_AP.AP_SPACE) ∧ u.domOn (spaceDom (u.rd R.IND_AP.AP_SPACE) (u.apAddr o)) = true :=
  ⟨up, 0, State.after up 0, 0x3FFFFF, 6, rfl, by decide +kernel, by decide +kernel, by decide +kernel, by decide +kernel, by decide +kernel, by decide +kernel⟩

theorem test_wit_WindowsAndApertureReachTheirSpace_11 : ∃ (s : State) (dt : Nat) (u : State) (o v : Nat), u = s.after dt ∧ o < 0x400000 ∧ isWord v = true ∧ u.srcUp .host = true ∧ (u.winQ 4).length < 8 :=
  ⟨up, 0, State.after up 0, 0x3FFFFF, 4294967295, rfl, by decide +kernel, by decide +kernel, by decide +kernel, by decide +kernel⟩

theorem test_wit_WindowsAndApertureReachTheirSpace_12 : ∃ (s : State) (dt : Nat) (u : State) (o v b : Nat), u = s.after dt ∧ o < 0x400000 ∧ isWord v = true ∧ b < 15 ∧ u.srcUp .host = true :=
  ⟨up, 0, State.after up 0, 0x3FFFFF, 0, 14, rfl, by decide +kernel, by decide +kernel, by decide +kernel, by decide +kernel⟩

theorem test_wit_RegisterWritesAreWholeWordsInPoweredBlocks_1 : ∃ (s : State) (dt : Nat) (u : State) (src : Src) (v : Nat), u = s.after dt ∧ isWord v = true ∧ u.mayWrite src 23 = true ∧ u.mirrors = false :=
  ⟨up, 0, State.after up 0, .host, 0xFEDCBA98, rfl, by decide +kernel, by decide +kernel, by decide +kernel⟩

theorem test_wit_RegisterWritesAreWholeWordsInPoweredBlocks_2 : ∃ (s : State) (dt : Nat) (u : State) (src : Src) (a v b : Nat), u = s.after dt ∧ a < barSize ∧ a % 4 = 0 ∧ isWord v = true ∧ b < 15 ∧ u.reads src = true ∧ (locate a).map u.reachable = some true :=
  ⟨up, 0, State.after up 0, .host, 0x7C0010, 5, 14, rfl, by decide +kernel, by decide +kernel, by decide +kernel, by decide +kernel, by decide +kernel, by decide +kernel⟩

theorem test_wit_RegisterWritesAreWholeWordsInPoweredBlocks_3 : ∃ (s : State) (dt : Nat) (u : State) (src : Src) (a v b : Nat), u = s.after dt ∧ a < barSize ∧ a % 4 = 0 ∧ isWord v = true ∧ b < 16 ∧ u.reads src = true ∧ (locate a).map u.reachable = some false :=
  ⟨up.put [(R.PWR_DOM.ON, 0)], 0, State.after (up.put [(R.PWR_DOM.ON, 0)]) 0, .host, 0x100020, 5, 15, rfl, by decide +kernel, by decide +kernel, by decide +kernel, by decide +kernel, by decide +kernel, by decide +kernel⟩

theorem test_wit_RegisterWritesAreWholeWordsInPoweredBlocks_4 : ∃ (s : State) (dt : Nat) (u : State) (src : Src) (a v : Nat), u = s.after dt ∧ a < barSize ∧ a % 4 = 0 ∧ isWord v = true ∧ u.reads src = true ∧ locate a = none :=
  ⟨up, 0, State.after up 0, .host, 0x50000, 5, rfl, by decide +kernel, by decide +kernel, by decide +kernel, by decide +kernel, by decide +kernel⟩

theorem test_wit_RegisterWritesAreWholeWordsInPoweredBlocks_5 : ∃ (s : State) (dt : Nat) (u : State) (src : Src) (a v b : Nat), u = s.after dt ∧ a < barSize ∧ a % 4 = 0 ∧ isWord v = true ∧ b < 15 ∧ u.reads src = true ∧ locate a = none :=
  ⟨up, 0, State.after up 0, .host, 0x50000, 5, 0, rfl, by decide +kernel, by decide +kernel, by decide +kernel, by decide +kernel, by decide +kernel, by decide +kernel⟩

theorem test_wit_PeriodsCyclesAndPhases_1 : ∃ (s u : State) (v : Nat), u = s.runTo s.nextB ∧ v < 65536 ∧ s.alive = true ∧ s.tb.run = true ∧ s.mode = 0 ∧ u.mode = 0 ∧ u.dev.rgIn = false ∧ u.dev.pendKind = 0 ∧ u.twin.cfgs = [] ∧ u.tb.actP = false :=
  ⟨up.put [(R.MOD_STATE.MODE, 0)], (up.put [(R.MOD_STATE.MODE, 0)] : State).runTo (up.put [(R.MOD_STATE.MODE, 0)] : State).nextB, 65535, rfl, by decide +kernel, by decide +kernel, by decide +kernel, by decide +kernel, by decide +kernel, by decide +kernel, by decide +kernel, by decide +kernel, by decide +kernel⟩

theorem test_wit_PeriodsCyclesAndPhases_2 : ∃ (s u : State) (ch n : Nat), s.reach (n) = some u ∧ isCh ch = true ∧ s.cycRuns ch = true ∧ (s.cycNext ch).1 = n ∧ u.role ch = 2 ∧ u.mode = 4 ∧ u.chState ch = 3 ∧ u.dev.pendKind = 0 ∧ u.twin.cfgs = [] ∧ (u.chan ch).par = [] ∧ (u.chan ch).act = none ∧ (u.chan ch).readyAt = none ∧ (u.chan ch).heard = true ∧ (u.chan ch).got = true :=
  ⟨State.put { node1 with chans := [(1, { Chan.zero with got := true, heard := true, at_ := some 0 })] } [(R.IKL_STAT.STATE.i 1, 3), (R.IKL_CYC.VALUE.i 1, 31250)], ((State.put { node1 with chans := [(1, { Chan.zero with got := true, heard := true, at_ := some 0 })] } [(R.IKL_STAT.STATE.i 1, 3), (R.IKL_CYC.VALUE.i 1, 31250)]).reach (((State.cycNext (State.put { node1 with chans := [(1, { Chan.zero with got := true, heard := true, at_ := some 0 })] } [(R.IKL_STAT.STATE.i 1, 3), (R.IKL_CYC.VALUE.i 1, 31250)]) 1).1 : Nat))).getD (State.put { node1 with chans := [(1, { Chan.zero with got := true, heard := true, at_ := some 0 })] } [(R.IKL_STAT.STATE.i 1, 3), (R.IKL_CYC.VALUE.i 1, 31250)]), 1, (State.cycNext (State.put { node1 with chans := [(1, { Chan.zero with got := true, heard := true, at_ := some 0 })] } [(R.IKL_STAT.STATE.i 1, 3), (R.IKL_CYC.VALUE.i 1, 31250)]) 1).1, some_of_isSome (by decide +kernel), by decide +kernel, by decide +kernel, by decide +kernel, by decide +kernel, by decide +kernel, by decide +kernel, by decide +kernel, by decide +kernel, by decide +kernel, by decide +kernel, by decide +kernel, by decide +kernel, by decide +kernel⟩

theorem test_wit_PeriodsCyclesAndPhases_3 : ∃ (s u : State) (g n : Nat) (r : LaneRun), s.reach (s.nextPhase g) = some u ∧ 0 < g ∧ g < 4 ∧ s.alive = true ∧ s.dev.rgIn = true ∧ s.rgDef g = true ∧ u.dev.cfg.axisGroup = [(n, g)] ∧ n < 160 ∧ u.laneOn n = true ∧ u.twin.cfgs = [] ∧ u.inkState = 0 ∧ (u.lane n).run = some r ∧ r.done.isSome = true ∧ r.err = false ∧ u.torqueOff n = false ∧ (u.lane n).tqDue = false :=
  ⟨State.put { lead with dev := { lead.dev with cfg := { lead.dev.cfg with rgDef := 15, axisGroup := [(7, 3)] } }, lanes := [(7, { Lane.zero with run := some ⟨0, 100, some 50, false, .zero, true, false, [], 0, 0, 0, 0, 1, []⟩ })] } [(R.AX_CFG.OUT_MODE.i 7, 1)], ((State.put { lead with dev := { lead.dev with cfg := { lead.dev.cfg with rgDef := 15, axisGroup := [(7, 3)] } }, lanes := [(7, { Lane.zero with run := some ⟨0, 100, some 50, false, .zero, true, false, [], 0, 0, 0, 0, 1, []⟩ })] } [(R.AX_CFG.OUT_MODE.i 7, 1)]).reach ((State.put { lead with dev := { lead.dev with cfg := { lead.dev.cfg with rgDef := 15, axisGroup := [(7, 3)] } }, lanes := [(7, { Lane.zero with run := some ⟨0, 100, some 50, false, .zero, true, false, [], 0, 0, 0, 0, 1, []⟩ })] } [(R.AX_CFG.OUT_MODE.i 7, 1)] : State).nextPhase (3 : Nat))).getD (State.put { lead with dev := { lead.dev with cfg := { lead.dev.cfg with rgDef := 15, axisGroup := [(7, 3)] } }, lanes := [(7, { Lane.zero with run := some ⟨0, 100, some 50, false, .zero, true, false, [], 0, 0, 0, 0, 1, []⟩ })] } [(R.AX_CFG.OUT_MODE.i 7, 1)]), 3, 7, ⟨0, 100, some 50, false, .zero, true, false, [], 0, 0, 0, 0, 1, []⟩, some_of_isSome (by decide +kernel), by decide +kernel, by decide +kernel, by decide +kernel, by decide +kernel, by decide +kernel, by decide +kernel, by decide +kernel, by decide +kernel, by decide +kernel, by decide +kernel, by decide +kernel, by decide +kernel, by decide +kernel, by decide +kernel, by decide +kernel⟩

theorem test_wit_PeriodsCyclesAndPhases_4 : ∃ (s : State) (dt : Nat) (u : State) (m : CfgMsg), u = s.after dt ∧ u.twinOn = true ∧ m.crcOk = true ∧ u.twin.seen.contains m.seq = false ∧ u.mode = 3 ∧ u.twin.cfgs = [] ∧ u.ahead m.tick = true :=
  ⟨shadow0, 0, State.after shadow0 0, ⟨true, 3, 1000, .write 0x7C0010 5⟩, rfl, by decide +kernel, by decide +kernel, by decide +kernel, by decide +kernel, by decide +kernel, by decide +kernel⟩

theorem test_wit_PeriodsCyclesAndPhases_5 : ∃ (s : State) (dt : Nat) (u : State) (m : CfgMsg), u = s.after dt ∧ u.twinOn = true ∧ m.crcOk = true ∧ u.twin.seen.contains m.seq = true :=
  ⟨{ shadow0 with twin := { shadow0.twin with seen := [3] } }, 0, State.after ({ shadow0 with twin := { shadow0.twin with seen := [3] } }) 0, ⟨true, 3, 1000, .write 0x7C0010 5⟩, rfl, by decide +kernel, by decide +kernel, by decide +kernel⟩

theorem test_wit_BanksFollowTheirSupply_1 : ∃ (s : State) (dt : Nat) (u : State) (n : Nat) (v33 : Bool), u = s.after dt ∧ n < 6 ∧ u.taken n = false ∧ u.dev.bankAt.any (fun x => x.1 == n) = false :=
  ⟨up.put [(R.DEV_BANK.PG, 31)], 0, State.after (up.put [(R.DEV_BANK.PG, 31)]) 0, 5, true, rfl, by decide +kernel, by decide +kernel, by decide +kernel⟩

theorem test_wit_BanksFollowTheirSupply_2 : ∃ (s : State) (dt : Nat) (u : State) (n x : Nat), u = s.after dt ∧ n < 6 ∧ u.dev.bankAt.find? (fun y => y.1 == n) = some (n, x) ∧ 10000 ≤ u.tb.boot - x :=
  ⟨{ up.put [(R.DEV_BANK.PG, 31)] with tb := { up.tb with boot := 10000 }, dev := { (up.put [(R.DEV_BANK.PG, 31)]).dev with bankAt := [(5, 0)] } }, 0, State.after ({ up.put [(R.DEV_BANK.PG, 31)] with tb := { up.tb with boot := 10000 }, dev := { (up.put [(R.DEV_BANK.PG, 31)]).dev with bankAt := [(5, 0)] } }) 0, 5, 0, rfl, by decide +kernel, by decide +kernel, by decide +kernel⟩

theorem test_wit_BanksFollowTheirSupply_3 : ∃ (s : State) (dt : Nat) (u : State) (n x : Nat), u = s.after dt ∧ n < 6 ∧ u.dev.bankAt.find? (fun y => y.1 == n) = some (n, x) ∧ u.tb.boot - x < 10000 :=
  ⟨{ up.put [(R.DEV_BANK.PG, 31)] with tb := { up.tb with boot := 9999 }, dev := { (up.put [(R.DEV_BANK.PG, 31)]).dev with bankAt := [(5, 0)] } }, 0, State.after ({ up.put [(R.DEV_BANK.PG, 31)] with tb := { up.tb with boot := 9999 }, dev := { (up.put [(R.DEV_BANK.PG, 31)]).dev with bankAt := [(5, 0)] } }) 0, 5, 0, rfl, by decide +kernel, by decide +kernel, by decide +kernel⟩

theorem test_wit_BanksFollowTheirSupply_4 : ∃ (s : State) (dt : Nat) (u : State) (n : Nat), u = s.after dt ∧ n < 6 ∧ u.taken n = true ∧ bit u.dev.bankLost n = false ∧ u.rd R.DEV_BANK_CNT.LOSSES < 32767 :=
  ⟨up, 0, State.after up 0, 5, rfl, by decide +kernel, by decide +kernel, by decide +kernel, by decide +kernel⟩

theorem test_wit_BanksFollowTheirSupply_5 : ∃ (s : State) (dt : Nat) (u : State) (n : Nat), u = s.after dt ∧ n < 6 ∧ u.taken n = true ∧ bit u.dev.bankLost n = true :=
  ⟨{ up with dev := { up.dev with bankLost := 63 } }, 0, State.after ({ up with dev := { up.dev with bankLost := 63 } }) 0, 5, rfl, by decide +kernel, by decide +kernel, by decide +kernel⟩

theorem test_wit_BoundaryScanTakesItsInstructions_1 : ∃ (s : State) (dt : Nat) (u : State), u = s.after dt :=
  ⟨up, 0, State.after up 0, rfl⟩

theorem test_wit_BoundaryScanTakesItsInstructions_2 : ∃ (s : State) (dt : Nat) (u : State), u = s.after dt :=
  ⟨up, 0, State.after up 0, rfl⟩

theorem test_wit_BoundaryScanTakesItsInstructions_3 : ∃ (s : State) (dt : Nat) (u : State), u = s.after dt :=
  ⟨up, 0, State.after up 0, rfl⟩

theorem test_wit_BoundaryScanTakesItsInstructions_4 : ∃ (s : State) (dt : Nat) (u : State), u = s.after dt :=
  ⟨up, 0, State.after up 0, rfl⟩

theorem test_wit_BoundaryScanTakesItsInstructions_5 : ∃ (s : State) (dt : Nat) (u : State), u = s.after dt :=
  ⟨up, 0, State.after up 0, rfl⟩

theorem test_wit_BoundaryScanTakesItsInstructions_6 : ∃ (s : State) (dt : Nat) (u : State), u = s.after dt :=
  ⟨up, 0, State.after up 0, rfl⟩

theorem test_wit_BoundaryScanTakesItsInstructions_7 : ∃ (s : State) (dt : Nat) (u : State), u = s.after dt :=
  ⟨up, 0, State.after up 0, rfl⟩

theorem test_wit_BoundaryScanTakesItsInstructions_8 : ∃ (s : State) (dt : Nat) (u : State) (d : List Bool), u = s.after dt :=
  ⟨up, 0, State.after up 0, [true, false], rfl⟩

theorem test_wit_FramesOfTimeCommands :
    (Instr.tbNsRead 0 (⟨.host, 15⟩)).WellFormed ∧
      (Instr.tbPeriodRead 0 (⟨.host, 15⟩)).WellFormed ∧
      (Instr.tbAdj 0 .host 4294967290).WellFormed ∧
      (Instr.ppsEdge 0 true).WellFormed ∧
      (Instr.capStampRead 0 (⟨.host, 15⟩) 2).WellFormed ∧
      (Instr.evtAtWrite 0 .host 7 4294967295).WellFormed ∧
      (Instr.evtQueueInstant 2).WellFormed ∧
      (Instr.evtTrainPulse 2).WellFormed ∧
      (Instr.evtConversionPulse 2).WellFormed ∧
      (Instr.captureEdge 0 3 true).WellFormed ∧
      (Instr.capWindowClose 3).WellFormed ∧
      (Instr.tsuCalibration 0 23 501).WellFormed := by
  decide

theorem test_wit_FramesOfBusAndSupplyCommands :
    (Instr.intStatClear 0 .host 1 (0x0F)).WellFormed ∧
      (Instr.intEnWrite 0 .host 1 4294967295).WellFormed ∧
      (Instr.msixUnmask 0 1 0).WellFormed ∧
      (Instr.i2cCommand 0 7 ([]) false).WellFormed ∧
      (Instr.i2cRead 0 4).WellFormed ∧
      (Instr.pmbusTelemetry 0 7 true 65535 1 255 2).WellFormed ∧
      (Instr.pmbAlert 0 7 65535).WellFormed ∧
      (Instr.tempSense 0 ([1, 2, 300, 4, 5, 6, 7, 8])).WellFormed ∧
      (Instr.bankPowerGoodRise 0 5 true).WellFormed ∧
      (Instr.bankPowerGoodFall 0 5).WellFormed ∧
      (Instr.bankInputsRestored 0 5).WellFormed ∧
      (Instr.samplePreload 0 ([true, false])).WellFormed ∧
      (Instr.resetRelease 0 7).WellFormed ∧
      (Instr.hold 0 .host).WellFormed ∧
      (Instr.holdExit 0 .host).WellFormed ∧
      (Instr.service 0 .host).WellFormed ∧
      (Instr.serviceExit 0 .host).WellFormed ∧
      (Instr.reload 0 .host).WellFormed ∧
      (Instr.surrender 0 .host).WellFormed ∧
      (Instr.modReqUndefined 0 .host 7).WellFormed := by
  decide

theorem test_wit_FramesOfMotionCommands :
    (Instr.laneError 0 159).WellFormed ∧
      (Instr.tileError 0 3 16).WellFormed ∧
      (Instr.stop1DelayEnd 3).WellFormed ∧
      (Instr.mgnAck 0 .host 4294967295).WellFormed ∧
      (Instr.soutTestPulse 0 3 0).WellFormed ∧
      (Instr.soutReadbackCheck 0 0 true false).WellFormed ∧
      (Instr.sinDiscrepancy 0 7).WellFormed ∧
      (Instr.chnPush 0 .host 15).WellFormed ∧
      (Instr.strokeCheck 0 3).WellFormed ∧
      (Instr.stop 0 .host 15).WellFormed ∧
      (Instr.resume 0 .host 0).WellFormed ∧
      (Instr.abort 0 .host 7).WellFormed ∧
      (Instr.flush 0 .host 7).WellFormed ∧
      (Instr.syncTmo 2).WellFormed ∧
      (Instr.limitEdge 0 159 1 true).WellFormed ∧
      (Instr.fltClr 0 .host 159).WellFormed ∧
      (Instr.intRst 0 .host 159).WellFormed ∧
      (Instr.inkStop 0 .host).WellFormed ∧
      (Instr.trig 0 .host).WellFormed ∧
      (Instr.arm 0 .host).WellFormed ∧
      (Instr.limitLatch 0 0).WellFormed ∧
      (Instr.currentLoopInstant 7).WellFormed ∧
      (Instr.sinDemand 7).WellFormed := by
  decide

theorem test_wit_FramesOfFeedbackAndBridgeCommands :
    (Instr.illWindowEnd 2).WellFormed ∧
      (Instr.hallTimeout 5).WellFormed ∧
      (Instr.fbCmpWrite 0 .host 15 4294967295).WellFormed ∧
      (Instr.fbPosWrite 0 .host 15 false 4294967295).WellFormed ∧
      (Instr.fbFltClr 0 .host 15).WellFormed ∧
      (Instr.zarm 0 .host 15).WellFormed ∧
      (Instr.xferStart 0 3 true).WellFormed ∧
      (Instr.serialTimeout 0 15).WellFormed ∧
      (Instr.fbLatchPosRead 0 (⟨.host, 15⟩) 3).WellFormed ∧
      (Instr.samplerMismatch 0 17 4).WellFormed ∧
      (Instr.carrierValley 11).WellFormed ∧
      (Instr.carrierPeak 2).WellFormed ∧
      (Instr.dutyGo 0 .host 11 2 999).WellFormed ∧
      (Instr.tripAccept 0 11 4095).WellFormed ∧
      (Instr.tripClr 0 .host 4 31).WellFormed ∧
      (Instr.sdResult 23 (List.replicate 24 true)).WellFormed := by
  decide

theorem test_wit_FramesOfRingAndTwinCommands :
    (Instr.ringFetch 0).WellFormed ∧
      (Instr.switchRequest 0 3 true).WellFormed ∧
      (Instr.revertP0 0 .host 0).WellFormed ∧
      (Instr.revertP1 0 .host 1).WellFormed ∧
      (Instr.dmNow 0 .host 1).WellFormed ∧
      (Instr.portDown 0 1 1).WellFormed ∧
      (Instr.linkBack 0 1 1).WellFormed ∧
      (Instr.channelLoss 0 0).WellFormed ∧
      (Instr.leaderMissing 0 1).WellFormed ∧
      (Instr.rejoinTimeout 0 1).WellFormed ∧
      (Instr.listenChannelTimeout 0 1).WellFormed ∧
      (Instr.snap 0 (⟨true, 6, 100, [], [], false, 0, []⟩)).WellFormed ∧
      (Instr.solve 0 (⟨true, 6, 100, ⟨0, [], [], []⟩, [], [], 0⟩)).WellFormed ∧
      (Instr.takeover 0 0).WellFormed ∧
      (Instr.laneFault 0 ((4 * 0 + 2 * 0))).WellFormed ∧
      (Instr.blockLockGain 0 7).WellFormed ∧
      (Instr.status 0 8 (status0)).WellFormed ∧
      (Instr.model 0 (⟨true, 6, [], some 4⟩)).WellFormed ∧
      (Instr.hbNow 0 .host 4294967295).WellFormed := by
  decide

theorem test_wit_FramesOfSerifCommands :
    (Instr.nop 0 1 7).WellFormed ∧
      (Instr.reti 0 1 0).WellFormed ∧
      (Instr.swi 0 1 7).WellFormed ∧
      (Instr.br 0 1 0 8191).WellFormed ∧
      (Instr.call 0 1 8191).WellFormed ∧
      (Instr.ret 0 1 0).WellFormed ∧
      (Instr.loop 0 1 1 0 5 40).WellFormed ∧
      (Instr.lpop 0 1 0).WellFormed ∧
      (Instr.mvd 0 1 31 11).WellFormed ∧
      (Instr.ada 0 1 7 1 65535).WellFormed ∧
      (Instr.mvaf 0 1 3 1 0 0).WellFormed ∧
      (Instr.mvfa 0 1 3 1 0 0).WellFormed ∧
      (Instr.fadd 0 1 31 1 16 2).WellFormed ∧
      (Instr.fsub 0 1 31 1 16 2).WellFormed ∧
      (Instr.fmul 0 1 31 1 16 2).WellFormed ∧
      (Instr.fma 0 1 31 1 16 2).WellFormed ∧
      (Instr.mac 0 1 31 1 16 2).WellFormed ∧
      (Instr.msub 0 1 31 1 16 2).WellFormed ∧
      (Instr.fmin 0 1 31 1 16 2).WellFormed ∧
      (Instr.fmax 0 1 31 1 16 2).WellFormed ∧
      (Instr.fabs 0 1 31 1 16 2).WellFormed ∧
      (Instr.fneg 0 1 31 1 16 2).WellFormed ∧
      (Instr.fcmp 0 1 0 1 2 0).WellFormed ∧
      (Instr.clamp 0 1 31 1 16 2).WellFormed ∧
      (Instr.rcp 0 1 31 1 16 2).WellFormed ∧
      (Instr.rsq 0 1 31 1 16 2).WellFormed ∧
      (Instr.itof 0 1 31 1 16 2).WellFormed ∧
      (Instr.ftoi 0 1 31 1 16 2).WellFormed ∧
      (Instr.ld 0 1 3 1 1 65535).WellFormed ∧
      (Instr.st 0 1 3 1 0 65535).WellFormed ∧
      (Instr.ldi 0 1 31 65535).WellFormed ∧
      (Instr.tapm 0 1 3 4 2).WellFormed ∧
      (Instr.ldst 0 1 3 4 1 2 1 2).WellFormed ∧
      (Instr.illegalInstruction 0 1).WellFormed ∧
      (Instr.interruptEntry 0 3).WellFormed ∧
      (Instr.releaseWarning 2).WellFormed ∧
      (Instr.sfTimerExpire 2).WellFormed ∧
      (Instr.sfTimerWrite 0 .host 3 4294967295).WellFormed ∧
      (Instr.doorbell 0 .host 3).WellFormed ∧
      (Instr.run 0 .host 3 2147483648).WellFormed ∧
      (Instr.endTask 0 1 0).WellFormed ∧
      (Instr.serifRelease 2).WellFormed := by
  decide

theorem test_wit_FramesOfScribeAndTestCommands :
    (Instr.unlock 0 .scribe (0x5EA1)).WellFormed ∧
      (Instr.unlockExpire .scribe).WellFormed ∧
      (Instr.indDataWrite 0 .host 3 4294967295).WellFormed ∧
      (Instr.apertureWrite 0 (0x3FFFFF) 4294967295 15).WellFormed ∧
      (Instr.itemEnd 0 3 4294967295).WellFormed ∧
      (Instr.resBRead 0 (⟨.host, 15⟩)).WellFormed ∧
      (Instr.loadWindowEnd 4000000).WellFormed ∧
      (Instr.door 0 .host 2147483648).WellFormed ∧
      (Instr.info 0 4294967295).WellFormed ∧
      (Instr.kick 0 .scribe).WellFormed ∧
      (Instr.restartComplete 0 false).WellFormed ∧
      (Instr.blotterCommit 0 true).WellFormed ∧
      (Instr.blockEraseComplete 0 true).WellFormed ∧
      (Instr.scheduledTest 0 (0x8000) 7).WellFormed ∧
      (Instr.hoursJournal 40).WellFormed ∧
      (Instr.indDataRead 0 (⟨.host, 15⟩) 3).WellFormed ∧
      (Instr.indWritePerform 0 4).WellFormed ∧
      (Instr.indTimeout 0 3 ((some .host))).WellFormed ∧
      (Instr.apertureRead 0 (⟨(0x3FFFFF), 6⟩)).WellFormed ∧
      (Instr.cancel 0 .host 2147483651).WellFormed ∧
      (Instr.obsWrite 0 .host 1610612736).WellFormed ∧
      (Instr.sramError 0 239 1023 true .other).WellFormed := by
  decide

end Sys2Proof
end

section
namespace Sys2Proof

/-! PROOFS. What registers read at reset (R12, R97), and what reserved bits and offsets read as and ignore (R13). -/

/-! ### Words merged under a mask -/

/-- Two words that share no bit add up without a carry. -/
theorem add_eq_lor_of_land_eq_zero {a b : Nat} (h : a &&& b = 0) : a + b = a ||| b := by
  have hlt : a + b < 2 ^ (a + b) := Nat.lt_two_pow_self
  have ha : a % 2 ^ (a + b) = a := Nat.mod_eq_of_lt (by omega)
  have hb : b % 2 ^ (a + b) = b := Nat.mod_eq_of_lt (by omega)
  have key := congrArg BitVec.toNat
    (BitVec.add_eq_or_of_and_eq_zero (BitVec.ofNat (a + b) a) (BitVec.ofNat (a + b) b)
      (BitVec.eq_of_toNat_eq (by simp [ha, hb, h])))
  simpa [ha, hb, Nat.mod_eq_of_lt hlt] using key

/-- Subtracting the masked part of a word clears the bits of the mask. -/
theorem sub_land_eq_ldiff (w m : Nat) : w - (w &&& m) = Nat.ldiff w m := by
  have apart : (w &&& m) &&& Nat.ldiff w m = 0 := by
    apply Nat.eq_of_testBit_eq
    intro i
    cases hm : m.testBit i <;> simp [Nat.testBit_ldiff, hm]
  have whole : (w &&& m) ||| Nat.ldiff w m = w := by
    apply Nat.eq_of_testBit_eq
    intro i
    cases hm : m.testBit i <;> simp [Nat.testBit_ldiff, hm]
  have sum := add_eq_lor_of_land_eq_zero apart
  omega

namespace Machine

/-- A merged word takes the new bits under the mask and keeps the old ones elsewhere. -/
theorem testBit_merge (old m v i : Nat) :
    (merge old m v).testBit i = if m.testBit i then v.testBit i else old.testBit i := by
  have apart : Nat.ldiff old m &&& (v &&& m) = 0 := by
    apply Nat.eq_of_testBit_eq
    intro j
    cases hm : m.testBit j <;> simp [Nat.testBit_ldiff, hm]
  unfold merge
  rw [sub_land_eq_ldiff, add_eq_lor_of_land_eq_zero apart]
  cases hm : m.testBit i <;> simp [Nat.testBit_ldiff, hm]

/-! ### The masks of a register row -/

/-- Bit i lies in no field of the row: it is reserved (R13). -/
def RegRow.reservedBit (r : RegRow) (i : Nat) : Prop := ∀ f ∈ r.fs, ¬ (f.lo ≤ i ∧ i ≤ f.hi)

/-- A bit that a field does not cover is not in the mask of the field. -/
theorem testBit_fieldMask_outside {hi lo i : Nat} (h : ¬ (lo ≤ i ∧ i ≤ hi)) :
    ((p2 (hi + 1 - lo) - 1) * p2 lo).testBit i = false := by
  rw [Nat.testBit_mul_two_pow, Nat.testBit_two_pow_sub_one]
  simp only [Bool.and_eq_false_iff, decide_eq_false_iff_not]
  omega

/-- A mask that gathers fields of a row has no reserved bit. -/
theorem testBit_gather_reserved {r : RegRow} {i : Nat} (h : r.reservedBit i) (g : Nat → FieldRow → Nat)
    (hg : ∀ m f, g m f = m ∨ g m f = m ||| ((p2 (f.hi + 1 - f.lo) - 1) * p2 f.lo)) :
    (r.fs.foldl g 0).testBit i = false := by
  refine List.foldlRecOn (motive := fun m => m.testBit i = false) r.fs g (Nat.zero_testBit i) fun m hm f hf => ?_
  rcases hg m f with e | e
  · rw [e, hm]
  · rw [e, Nat.testBit_or, hm, testBit_fieldMask_outside (h f hf), Bool.or_false]

theorem testBit_readable_reserved {r : RegRow} {i : Nat} (h : r.reservedBit i) : r.readable.testBit i = false :=
  testBit_gather_reserved h _ fun m f => by split <;> simp

theorem testBit_shadow_reserved {r : RegRow} {i : Nat} (h : r.reservedBit i) : r.shadow.testBit i = false := by
  unfold RegRow.shadow
  split
  · exact testBit_gather_reserved h _ fun m f => by split <;> simp
  · exact Nat.zero_testBit i

/-! ### What an offset shows (R38, R40, R42, R45) -/

section
variable {s : State} {src : Src} {a : Nat} {l : Loc}

theorem peek_header (hl : locate a = some l) (ho : l.off < 0x10) : s.peek src a = s.header l := by
  simp [State.peek, hl, ho]

theorem peek_unreachable (hl : locate a = some l) (ho : 16 ≤ l.off) (hr : s.reachable l = false) : s.peek src a = 0 := by
  simp [State.peek, hl, Nat.not_lt.mpr ho, hr]

theorem peek_noRow (hl : locate a = some l) (ho : 16 ≤ l.off) (hn : rowIn l.blk l.off = none) : s.peek src a = 0 := by
  simp [State.peek, hl, Nat.not_lt.mpr ho, hn]

/-- A register shows its readable bits; through VIEW, those of its shadowed fields come from the active copy. -/
theorem peek_row {r : RegRow} (hl : locate a = some l) (ho : 16 ≤ l.off) (hr : s.reachable l = true)
    (hrow : rowIn l.blk l.off = some r) :
    s.peek src a =
      if r.shadow ≠ 0 ∧ s.view l = true then merge (s.live src a (s.rdw a) &&& r.readable) r.shadow (s.actw a)
      else s.live src a (s.rdw a) &&& r.readable := by
  simp [State.peek, merge, hl, Nat.not_lt.mpr ho, hr, hrow]

/-- A reserved bit of a register reads as 0, whatever word is stored and whichever copy VIEW selects. -/
theorem testBit_peek_reserved {r : RegRow} {i : Nat} (hl : locate a = some l) (ho : 16 ≤ l.off)
    (hrow : rowIn l.blk l.off = some r) (h : r.reservedBit i) : (s.peek src a).testBit i = false := by
  cases hr : s.reachable l with
  | false => rw [peek_unreachable hl ho hr, Nat.zero_testBit]
  | true =>
    have shown : (s.live src a (s.rdw a) &&& r.readable).testBit i = false := by
      rw [Nat.testBit_and, testBit_readable_reserved h, Bool.and_false]
    rw [peek_row hl ho hr hrow]
    split
    · simp [testBit_merge, testBit_shadow_reserved h, shown]
    · exact shown

/-! ### A whole word written where no register lies -/

theorem reaches_reachable (hl : locate a = some l) (hr : s.reachable l = true) : s.reaches src a = (s, some l) := by
  simp [State.reaches, hl, hr]

theorem regWrite_noRow (v : Nat) (hl : locate a = some l) (h4 : l.off ≠ 4) (hn : rowIn l.blk l.off = none) :
    s.regWrite src a v = s := by
  simp [State.regWrite, hl, h4, hn]

theorem exec_registerWrite (dt : Nat) (src : Src) (a v be : Nat) (s : State) :
    exec (.registerWrite dt src a v be) s = execRegisterWrite dt src a v be s := rfl

/-- A whole word that the host or Scribe writes to a reachable offset is a register write once its tick has come; with the source down nothing happens. -/
theorem exec_registerWrite_word {dt v : Nat} (ha : a < barSize) (h4 : a % 4 = 0) (hv : isWord v = true) (hs : src ≠ .ring)
    (hl : locate a = some l) (hr : (s.after dt).reachable l = true) :
    exec (.registerWrite dt src a v 15) s =
      .next (if (s.after dt).srcUp src then (s.after dt).regWrite src a v else s.after dt) := by
  rw [exec_registerWrite]
  cases hu : (s.after dt).srcUp src <;>
    simp [execRegisterWrite, needs, reaches_reachable hl hr, ha, h4, hv, hs, hu]

end

/-! ### Registers at reset -/

/-- Every stored word but that of DEV_RST_CAUSE is at the reset value of its map. -/
theorem raw_reset {a : Nat} (h : a ≠ R.DEV_RST_CAUSE.POR_SUP.addr) : State.reset.raw a = regDef a :=
  if_neg (Ne.symm h)

/-- The copies of a register have the reset value of the register. -/
theorem regDef_copy {a : Nat} (c : Nat) (h : a < barSize) : regDef (a + c * barSize) = regReset a := by
  unfold regDef
  rw [Nat.add_mul_mod_self_right, Nat.mod_eq_of_lt h]

/-- The majority of three equal words (R60). -/
theorem maj3_self (w : Nat) : maj3 w w w = w := by simp [maj3]

/-- A register reads its reset word, triplicated or not. -/
theorem rdw_reset {a : Nat} (h : a ≠ R.DEV_RST_CAUSE.POR_SUP.addr) (hb : a < barSize) : State.reset.rdw a = regReset a := by
  have far : ∀ c, State.reset.raw (a + (c + 1) * barSize) = regReset a := fun c => by
    have hne : a + (c + 1) * barSize ≠ R.DEV_RST_CAUSE.POR_SUP.addr := by
      simp only [barSize, R.DEV_RST_CAUSE.POR_SUP]
      omega
    rw [raw_reset hne, regDef_copy _ hb]
  have near : State.reset.raw a = regReset a := by
    rw [raw_reset h]
    simpa using regDef_copy 0 hb
  unfold State.rdw
  rw [near, far 1, far 3, maj3_self, ite_self]

/-- The maps give a field this reset value, and no entry of the state after reset replaces it. -/
abbrev MapStates (x : Fld × Nat) : Prop :=
  x.1.addr ≠ R.DEV_RST_CAUSE.POR_SUP.addr ∧ x.1.addr < barSize ∧ bits (regReset x.1.addr) x.1.hi x.1.lo = x.2

theorem rd_reset_of_mapStates {x : Fld × Nat} (h : MapStates x) : State.reset.rd x.1 = x.2 := by
  obtain ⟨hne, hlt, hval⟩ := h
  rw [State.rd, rdw_reset hne hlt, hval]

theorem reset_canonical : State.reset.Canonical := ⟨by decide, rfl⟩

end Machine

open Machine

/-- Settles O7: the masks of a row hold no reserved bit, and offsets without a row show 0 and take no word. -/
theorem reservedBitsReadAsZero : Obligations.ReservedBitsReadAsZero := by
  unfold Obligations.ReservedBitsReadAsZero
  refine ⟨?bits, ?offset, ?header, ?write⟩
  case bits =>
    intro s src a b l r hl ho hrow hfree
    exact testBit_peek_reserved hl ho hrow hfree
  case offset =>
    intro s src a l hl ho hn
    exact peek_noRow hl ho hn
  case header =>
    intro s src a l hl ho
    rw [peek_header hl (by omega)]
    simp [State.header, ho]
  case write =>
    intro s dt src a v l ha h4 hv hs hl ho hn hr
    refine ⟨_, exec_registerWrite_word ha h4 hv hs hl hr, ?_⟩
    rw [regWrite_noRow v hl (by omega) hn, ite_self]

/-- Settles O2: all but the cause register stands at the reset values of the maps, which state the listed ones. -/
theorem resetHoldsTheStatedValues : Obligations.ResetHoldsTheStatedValues := by
  unfold Obligations.ResetHoldsTheStatedValues
  refine ⟨reset_canonical, rfl, rfl, rfl, rfl, ?mode, ?cause, fun x hx => rd_reset_of_mapStates ?listed⟩
  case mode => exact rd_reset_of_mapStates (x := (R.MOD_STATE.MODE, 0)) (by decide)
  case cause => decide
  case listed =>
    revert x
    decide

end Sys2Proof
end

section
namespace Sys2Proof

/-! PROOFS. What the time lattice drives (R22 to R28, R310, R362): a base boundary of a device in BOOT, the cycle start of a node channel, the output phase of a group with one lane, and CFG records. -/

namespace Machine

/-! ### Loops -/

/-- A loop keeps what each of its steps keeps. -/
theorem forEach_keeps {α β σ : Type} (p : σ → β) {l : List α} {f : α → σ → σ} (hf : ∀ a s, p (f a s) = p s) (s : σ) :
    p (forEach l f s) = p s := by
  induction l generalizing s with
  | nil => rfl
  | cons a t ih => rw [forEach, ih, hf]

/-- A loop whose steps all leave the state as it is. -/
theorem forEach_idle {α σ : Type} {l : List α} {f : α → σ → σ} {s : σ} (hf : ∀ a ∈ l, f a s = s) : forEach l f s = s := by
  induction l with
  | nil => rfl
  | cons a t ih =>
    rw [forEach, hf a List.mem_cons_self]
    exact ih fun b hb => hf b (List.mem_cons_of_mem a hb)

/-- A loop of which only the step of n does anything, as long as a property holds that this step keeps. -/
theorem forEach_only {α σ : Type} (P : σ → Prop) {l : List α} {f : α → σ → σ} {n : α} {s : σ}
    (hl : l.Nodup) (hn : n ∈ l) (hs : P s) (hk : P (f n s)) (hf : ∀ a t, a ≠ n → P t → f a t = t) :
    forEach l f s = f n s := by
  induction l with
  | nil => cases hn
  | cons a t ih =>
    obtain ⟨hat, ht⟩ := List.nodup_cons.mp hl
    rw [forEach]
    by_cases ha : a = n
    · subst ha
      exact forEach_idle fun b hb => hf b _ (fun e => hat (e ▸ hb)) hk
    · rw [hf a s ha hs]
      exact ih ht ((List.mem_cons.mp hn).resolve_left (Ne.symm ha))

/-! ### What waits for a tick -/

section
variable {s : State}

/-- With no CFG record waiting, none is applied (R362). -/
theorem cfgPoll_empty (h : s.twin.cfgs = []) : s.cfgPoll = s := by
  simp [State.cfgPoll, h]

/-- A record whose tick is ahead waits. -/
theorem cfgPoll_ahead {m : CfgMsg} (h : s.twin.cfgs = [m]) (ha : s.ahead m.tick = true) : s.cfgPoll = s := by
  simp [State.cfgPoll, h, ha]

theorem boundaryPend_none (h : s.dev.pendKind = 0) : s.boundaryPend = s := by
  simp [State.boundaryPend, h]

/-- Only domain P is rebased from (R84). -/
theorem rebase_domL (h : s.tb.actP = false) : s.rebase = s := by
  simp [State.rebase, h]

/-! ### A base boundary in BOOT -/

/-- With the rate-group settings not in force, no base index is a boundary of a group (R24). -/
theorem rgAt_notIn (h : s.dev.rgIn = false) (g k : Nat) : s.rgAt g k = false := by
  simp [State.rgAt, h]

theorem takeP_boot (h : s.mode = 0) : s.takeP = s := by
  simp [State.takeP, h]

theorem sinBoundary_boot (h : s.mode = 0) (w : Nat) : s.sinBoundary w = s := by
  simp [State.sinBoundary, State.mgnRuns, h]

theorem fbLatchAll_notIn (h : s.dev.rgIn = false) (k : Nat) : s.fbLatchAll k = s :=
  forEach_idle fun _ _ => by simp [rgAt_notIn h]

theorem rowLatch_boot (hm : s.mode = 0) (hr : s.dev.rgIn = false) (k sin : Nat) : s.rowLatch k sin = s := by
  rw [State.rowLatch, sinBoundary_boot hm, fbLatchAll_notIn hr]
  exact forEach_idle fun _ _ => by simp [rgAt_notIn hr]

theorem strokeAdvance_boot (h : s.mode = 0) (k : Nat) : s.strokeAdvance k = s := by
  simp [State.strokeAdvance, State.strokesRun, h]

theorem lanesStart_notIn (h : s.dev.rgIn = false) (k : Nat) : s.lanesStart k = s :=
  forEach_idle fun n _ => by cases s.axGroup n <;> simp [rgAt_notIn h]

theorem mgnSample_boot (h : s.mode = 0) (k : Nat) : s.mgnSample k = s := by
  simp [State.mgnSample, State.mgnRuns, h]

theorem serifsStart_notIn (h : s.dev.rgIn = false) (k : Nat) : s.serifsStart k = s :=
  forEach_idle fun _ _ => by simp [rgAt_notIn h]

theorem twinBoundary_boot (h : s.mode = 0) : s.twinBoundary = s := by
  simp [State.twinBoundary, State.twinOn, h]

theorem solveApply_boot (h : s.mode = 0) : s.solveApply = { s with twin := { s.twin with solve := none, models := [] } } := by
  simp [State.solveApply, h]

end

/-- The registers, the time base and the device block of a state: what decides its mode, its lattice and what is pending. -/
def State.regsTimeDev (s : State) : List (Nat × Nat) × TimeBase × Dev := (s.regs, s.tb, s.dev)

section
variable {s t : State}

theorem regsTimeDev_eq (hr : t.regs = s.regs) (ht : t.tb = s.tb) (hd : t.dev = s.dev) : t.regsTimeDev = s.regsTimeDev := by
  simp [State.regsTimeDev, hr, ht, hd]

theorem regsTimeDev_with_rul (s : State) (r : Ruling) : State.regsTimeDev { s with rul := r } = s.regsTimeDev := rfl

theorem regs_of_regsTimeDev (h : t.regsTimeDev = s.regsTimeDev) : t.regs = s.regs := congrArg (·.1) h
theorem tb_of_regsTimeDev (h : t.regsTimeDev = s.regsTimeDev) : t.tb = s.tb := congrArg (·.2.1) h
theorem dev_of_regsTimeDev (h : t.regsTimeDev = s.regsTimeDev) : t.dev = s.dev := congrArg (·.2.2) h

theorem mode_congr (h : t.regs = s.regs) : t.mode = s.mode := rd_congr h _

/-- The delta queue is written to memory. -/
theorem applyDelta_regsTimeDev (s : State) : s.applyDelta.regsTimeDev = s.regsTimeDev := by
  have one : ∀ i (t : State), (t.deltaOne i).regsTimeDev = t.regsTimeDev := fun i t => by
    unfold State.deltaOne State.spCount
    dsimp only
    split <;> exact regsTimeDev_eq (by simp) (by simp) (by simp)
  unfold State.applyDelta
  dsimp only
  refine (regsTimeDev_eq (State.putMem32_regs _ _ _ _) (State.putMem32_tb _ _ _ _) (State.putMem32_dev _ _ _ _)).trans ?_
  exact forEach_keeps State.regsTimeDev (fun i t => one _ t) s

theorem solving_boot (h : s.mode = 0) : s.solving = false := by
  simp [State.solving, h]

/-- Where no solve runs, the sample instant applies the delta queue and builds no problem (R194). -/
theorem solverSample_idle (h : s.applyDelta.solving = false) (k : Nat) :
    s.solverSample k = { s.applyDelta with rul := { s.applyDelta.rul with prob := none, res := none } } := by
  delta State.solverSample
  exact if_pos (by simp [h])

theorem solverSample_boot_regsTimeDev (h : s.mode = 0) (k : Nat) : (s.solverSample k).regsTimeDev = s.regsTimeDev := by
  have hk := applyDelta_regsTimeDev s
  rw [solverSample_idle (solving_boot ((mode_congr (regs_of_regsTimeDev hk)).trans h))]
  exact (regsTimeDev_with_rul _ _).trans hk

/-- Row 6 of R27 in BOOT. -/
theorem rowStart_boot_regsTimeDev (hm : s.mode = 0) (hr : s.dev.rgIn = false) (k : Nat) : (s.rowStart k).regsTimeDev = s.regsTimeDev := by
  unfold State.rowStart
  rw [lanesStart_notIn hr]
  dsimp only
  have hk : (if s.solveAt k then s.solveApply.solverSample k else s).regsTimeDev = s.regsTimeDev := by
    split
    · rw [solveApply_boot hm]
      exact solverSample_boot_regsTimeDev (s := { s with twin := { s.twin with solve := none, models := [] } }) hm k
    · rfl
  generalize (if s.solveAt k then s.solveApply.solverSample k else s) = t at hk ⊢
  rw [mgnSample_boot ((mode_congr (regs_of_regsTimeDev hk)).trans hm), serifsStart_notIn (by rw [dev_of_regsTimeDev hk, hr])]
  exact hk

/-! ### LL_ACT -/

@[simp] theorem llPoll_tb (s : State) (c : Nat) : (s.llPoll c).tb = s.tb := by
  unfold State.llPoll
  split <;> simp

@[simp] theorem llPoll_chans (s : State) (c : Nat) : (s.llPoll c).chans = s.chans := by
  unfold State.llPoll
  split <;> simp

/-- The end of a lane's reactions clears LL_ACT and writes no other register. -/
theorem rd_llPoll (s : State) {c : Nat} {x : Fld} (hc : c < 2) (h : x.addr ≠ (R.IKL_CS.LL_ACT.i c).addr) :
    (s.llPoll c).rd x = s.rd x := by
  unfold State.llPoll
  split
  · exact rd_wr_other s _ x 0 h (by simp only [Fld.i, R.IKL_CS.LL_ACT, barSize]; omega)
  · rfl

/-! ### BASE_BOUNDARY -/

theorem boundaryIndex_tb (s : State) : s.boundaryIndex.tb = { s.tb with latB := s.nextB } := by
  simp [State.boundaryIndex]

theorem boundaryIndex_dev (s : State) : s.boundaryIndex.dev = s.dev := by
  simp [State.boundaryIndex]

theorem boundaryIndex_twin (s : State) : s.boundaryIndex.twin = s.twin := by
  simp [State.boundaryIndex]

theorem boundaryIndex_baseK (s : State) : s.boundaryIndex.baseK = add32 s.baseK 1 := by
  rw [State.baseK, State.boundaryIndex, rd_wr_same _ _ _ (by decide) (by decide)]
  simp [add32, R.TB_PERIOD.INDEX]

theorem boundaryIndex_mode (s : State) : s.boundaryIndex.mode = s.mode := by
  refine (rd_wr_other _ _ _ _ (by decide) (by decide)).trans ?_
  exact rd_congr (by rfl) _

theorem exec_baseBoundary (sin : Nat) (s : State) : exec (.baseBoundary sin) s = execBaseBoundary sin s := rfl

/-- In BOOT a base boundary of domain L has its index, and row 6 and LL_ACT are all that follows. -/
theorem exec_baseBoundary_boot {u : State} {v : Nat} (hu : u = s.runTo s.nextB) (hv : v < 65536) (ha : s.alive = true)
    (hrun : s.tb.run = true) (hs : s.mode = 0) (hm : u.mode = 0) (hr : u.dev.rgIn = false) (hp : u.dev.pendKind = 0)
    (hc : u.twin.cfgs = []) (hd : u.tb.actP = false) :
    exec (.baseBoundary v) s =
      .next (((u.boundaryIndex.rowStart u.boundaryIndex.baseK).llPoll 0).llPoll 1) := by
  have hm' : u.boundaryIndex.mode = 0 := (boundaryIndex_mode u).trans hm
  have hr' : u.boundaryIndex.dev.rgIn = false := by rw [boundaryIndex_dev, hr]
  have hp' : u.boundaryIndex.dev.pendKind = 0 := by rw [boundaryIndex_dev, hp]
  have hc' : u.boundaryIndex.twin.cfgs = [] := by rw [boundaryIndex_twin, hc]
  have hd' : u.boundaryIndex.tb.actP = false := by rw [boundaryIndex_tb]; exact hd
  have hk := rowStart_boot_regsTimeDev hm' hr' u.boundaryIndex.baseK
  have hmk := (mode_congr (regs_of_regsTimeDev hk)).trans hm'
  have hrk : (u.boundaryIndex.rowStart u.boundaryIndex.baseK).dev.rgIn = false := by rw [dev_of_regsTimeDev hk, hr']
  rw [exec_baseBoundary]
  simp only [execBaseBoundary, needs, hv, ha, hrun, takeP_boot hs, ← hu, rebase_domL hd, cfgPoll_empty hc', boundaryPend_none hp',
    rebase_domL hd', rgAt_notIn hr', rowLatch_boot hm' hr', strokeAdvance_boot hm', rgAt_notIn hrk, twinBoundary_boot hmk,
    p2, Nat.reducePow, decide_true, Bool.and_self, Bool.false_eq_true, if_true, if_false]

/-- The boundary is latched with its index, and the device stays in BOOT. -/
theorem baseBoundary_boot_lattice {u : State} (hm : u.mode = 0) (hr : u.dev.rgIn = false) :
    (((u.boundaryIndex.rowStart u.boundaryIndex.baseK).llPoll 0).llPoll 1).tb.latB = u.nextB ∧
      (((u.boundaryIndex.rowStart u.boundaryIndex.baseK).llPoll 0).llPoll 1).rd R.TB_PERIOD.INDEX = add32 u.baseK 1 ∧
      (((u.boundaryIndex.rowStart u.boundaryIndex.baseK).llPoll 0).llPoll 1).mode = 0 := by
  have hm' : u.boundaryIndex.mode = 0 := (boundaryIndex_mode u).trans hm
  have hk := rowStart_boot_regsTimeDev hm' (by rw [boundaryIndex_dev, hr]) u.boundaryIndex.baseK
  refine ⟨?_, ?_, ?_⟩
  · rw [llPoll_tb, llPoll_tb, tb_of_regsTimeDev hk, boundaryIndex_tb]
  · rw [rd_llPoll _ (by decide) (by decide), rd_llPoll _ (by decide) (by decide), rd_congr (regs_of_regsTimeDev hk)]
    exact boundaryIndex_baseK u
  · rw [State.mode, rd_llPoll _ (by decide) (by decide), rd_llPoll _ (by decide) (by decide)]
    exact (mode_congr (regs_of_regsTimeDev hk)).trans hm'

end

/-! ### Channels -/

section
variable {s t : State} {ch : Nat}

@[simp] theorem modChan_regs (s : State) (c : Nat) (f : Chan → Chan) : (s.modChan c f).regs = s.regs := rfl
@[simp] theorem modChan_dev (s : State) (c : Nat) (f : Chan → Chan) : (s.modChan c f).dev = s.dev := rfl

@[simp] theorem putApp_regs (s : State) (c : Nat) (a : AppBuf) : (s.putApp c a).regs = s.regs := rfl
@[simp] theorem putApp_dev (s : State) (c : Nat) (a : AppBuf) : (s.putApp c a).dev = s.dev := rfl
@[simp] theorem putApp_chans (s : State) (c : Nat) (a : AppBuf) : (s.putApp c a).chans = s.chans := rfl

theorem chan_congr (h : t.chans = s.chans) (c : Nat) : t.chan c = s.chan c := by
  rw [State.chan, State.chan, h]

@[simp] theorem chan_modChan_same (s : State) (c : Nat) (f : Chan → Chan) : (s.modChan c f).chan c = f (s.chan c) :=
  tget_tput_same _ _ _ _

theorem chan_modChan_other (s : State) {c d : Nat} (f : Chan → Chan) (h : d ≠ c) : (s.modChan c f).chan d = s.chan d :=
  tget_tput_other _ _ _ _ h

/-- Both channels changed. -/
theorem chan_forEach_modChan (s : State) (f : Chan → Chan) (h : ch < 2) :
    (forEach [0, 1] (fun c s => s.modChan c f) s).chan ch = f (s.chan ch) := by
  obtain rfl | rfl : ch = 0 ∨ ch = 1 := by omega
  · rw [forEach, forEach, forEach, chan_modChan_other _ _ (by decide), chan_modChan_same]
  · rw [forEach, forEach, forEach, chan_modChan_same, chan_modChan_other _ _ (by decide)]

/-! ### A node channel with nothing pending -/

/-- A channel has the same ring parameters staged, the same ACTION and the same start of running due. -/
def Chan.SamePending (c d : Chan) : Prop := d.par = c.par ∧ d.act = c.act ∧ d.readyAt = c.readyAt

/-- The device is a node on the channel, and no transition, ring parameter, ACTION or start of running is pending. -/
structure State.NodeAtRest (s : State) (ch : Nat) : Prop where
  mode : s.mode = 4
  role : s.role ch = 2
  pend : s.dev.pendKind = 0
  par : (s.chan ch).par = []
  act : (s.chan ch).act = none
  ready : (s.chan ch).readyAt = none

theorem State.NodeAtRest.congr (h : s.NodeAtRest ch) (hm : t.rd R.MOD_STATE.MODE = s.rd R.MOD_STATE.MODE)
    (hr : t.rd (R.IKL_CFG.ROLE.i ch) = s.rd (R.IKL_CFG.ROLE.i ch)) (hd : t.dev = s.dev)
    (hc : (s.chan ch).SamePending (t.chan ch)) : t.NodeAtRest ch := by
  obtain ⟨hpar, hact, hready⟩ := hc
  have role : t.role ch = s.role ch := by rw [State.role, State.role, hr]
  exact ⟨hm.trans h.mode, role.trans h.role, by rw [hd, h.pend], hpar.trans h.par, hact.trans h.act, hready.trans h.ready⟩

theorem State.NodeAtRest.congr_regs (h : s.NodeAtRest ch) (hr : t.regs = s.regs) (hd : t.dev = s.dev)
    (hc : (s.chan ch).SamePending (t.chan ch)) : t.NodeAtRest ch :=
  h.congr (rd_congr hr _) (rd_congr hr _) hd hc

section
variable (h : s.NodeAtRest ch)
include h

theorem candidates_node : s.candidates = false := by
  simp [State.candidates, h.mode]

theorem leadSide_node : s.leadSide ch = false := by
  simp [State.leadSide, h.role]

theorem originSide_node : s.originSide ch = false := by
  simp [State.originSide, leadSide_node h, candidates_node h]

theorem leads_node : s.leads ch = false := by
  simp [State.leads, h.role]

end

/-! ### What precedes the judgment of the cycle -/

/-- The end of a hand-back, while no transition is pending, clears the fields of TWN_STAT and TWN_HB, drops ACTION 0x02, and sets its flag. -/
theorem hbCancel_eq (h : s.dev.pendKind = 0) : s.hbCancel = s ∨
    ∃ (t : State) (f : Chan → Chan), s.hbCancel = t.flag R.TWN_FLAGS.HB_CANCEL ∧ t.dev = s.dev ∧
      (∀ x : Fld, x.addr ≠ 0x700020 → x.addr ≠ 0x700038 → t.rd x = s.rd x) ∧ (∀ c, c < 2 → t.chan c = f (s.chan c)) ∧
      ∀ c : Chan, c.act = none → c.SamePending (f c) ∧ (f c).got = c.got := by
  unfold State.hbCancel
  split
  · exact .inl rfl
  · extract_lets s1 ra tw s2 s3 s4
    have d1 : s1.dev = s.dev := by simp [s1]
    have c1 : s1.chans = s.chans := by simp [s1]
    have r1 : ∀ x : Fld, x.addr ≠ 0x700020 → x.addr ≠ 0x700038 → s1.rd x = s.rd x := fun x hs hh => by
      unfold s1
      rw [rd_wr_other _ _ _ _ hh (by decide), rd_wr_other _ _ _ _ hs (by decide), rd_wr_other _ _ _ _ hs (by decide)]
    have c2 : s2.chans = s.chans := (show s2.chans = s1.chans from rfl).trans c1
    have d3 : s3.dev = s1.dev := forEach_keeps State.dev (fun _ _ => modChan_dev _ _ _) s2
    have r3 : s3.regs = s1.regs := forEach_keeps State.regs (fun _ _ => modChan_regs _ _ _) s2
    obtain ⟨f, e3, hf⟩ : ∃ f : Chan → Chan, s3 = forEach [0, 1] (fun c s => s.modChan c f) s2 ∧
        ∀ c : Chan, c.act = none → c.SamePending (f c) ∧ (f c).got = c.got :=
      ⟨_, rfl, fun c ha => ⟨⟨rfl, by simp [ha], rfl⟩, rfl⟩⟩
    have e4 : s4 = s3 := if_neg (by rw [d3, d1, h]; decide)
    refine .inr ⟨s3, f, by rw [e4], d3.trans d1, fun x hs hh => (rd_congr r3 x).trans (r1 x hs hh), fun c hc => ?_, hf⟩
    rw [e3, chan_forEach_modChan s2 f hc, chan_congr c2]

theorem hbCancel_dev (h : s.dev.pendKind = 0) : s.hbCancel.dev = s.dev := by
  obtain e | ⟨t, f, e, hdev, -⟩ := hbCancel_eq h
  · rw [e]
  · rw [e, State.flag_dev, hdev]

/-- The registers of the rings are not among those that the end of a hand-back writes. -/
theorem rd_hbCancel (h : s.dev.pendKind = 0) {x : Fld} (hx : x.addr < 0x700000) : s.hbCancel.rd x = s.rd x := by
  obtain e | ⟨t, f, e, -, hrd, -⟩ := hbCancel_eq h
  · rw [e]
  · rw [e, rd_flag_other _ _ _ (by simp only [R.TWN_FLAGS.HB_CANCEL]; omega) (by decide), hrd x (by omega) (by omega)]

/-- A channel without an ACTION keeps what is pending, and whether a frame was taken. -/
theorem chan_hbCancel (h : s.dev.pendKind = 0) (hch : ch < 2) (ha : (s.chan ch).act = none) :
    (s.chan ch).SamePending (s.hbCancel.chan ch) ∧ (s.hbCancel.chan ch).got = (s.chan ch).got := by
  obtain e | ⟨t, f, e, -, -, hchan, hf⟩ := hbCancel_eq h
  · rw [e]
    exact ⟨⟨rfl, rfl, rfl⟩, rfl⟩
  · rw [e, chan_congr (State.flag_chans _ _), hchan ch hch]
    exact hf _ ha

/-- In a mode other than LEAD, the leader's part of hand-back can only end one. -/
theorem hbLeader_not_lead (h : s.mode ≠ 2) : s.hbLeader = s ∨ s.hbLeader = s.hbCancel := by
  unfold State.hbLeader
  split
  · exact .inl rfl
  · dsimp only
    split
    · split
      · exact .inr rfl
      · exact .inl rfl
    · exact .inl (if_neg (by simp [h]))

/-- The switch requests leave what no output touches. -/
theorem askLanes_keeps {β : Type} (p : State → β) (hp : ∀ s o, p (s.emit o) = p s) (s : State) (c : Nat) :
    p (s.askLanes c) = p s := by
  refine forEach_keeps p (fun port t => ?_) s
  dsimp only
  repeat' split
  all_goals simp only [hp]

/-- Hand-back, where twin operation is enabled, and the switch requests leave a node channel at rest, with its cycle number. -/
theorem node_before_judgment (h : s.NodeAtRest ch) (hch : ch < 2) (ht : t = (if s.twinOn then s.hbLeader else s).askLanes ch) :
    t.NodeAtRest ch ∧ (t.chan ch).got = (s.chan ch).got ∧ t.cycNum ch = s.cycNum ch := by
  have hu : (if s.twinOn then s.hbLeader else s) = s ∨ (if s.twinOn then s.hbLeader else s) = s.hbCancel := by
    split
    · exact hbLeader_not_lead (by rw [h.mode]; decide)
    · exact .inl rfl
  generalize (if s.twinOn then s.hbLeader else s) = u at hu ht
  have huv : u.NodeAtRest ch ∧ (u.chan ch).got = (s.chan ch).got ∧ u.cycNum ch = s.cycNum ch := by
    rcases hu with rfl | rfl
    · exact ⟨h, rfl, rfl⟩
    · obtain ⟨hpending, hgot⟩ := chan_hbCancel h.pend hch h.act
      have hrole : (R.IKL_CFG.ROLE.i ch).addr < 0x700000 := by simp only [Fld.i, R.IKL_CFG.ROLE]; omega
      have hcyc : (R.IKL_CYCNUM.VALUE.i ch).addr < 0x700000 := by simp only [Fld.i, R.IKL_CYCNUM.VALUE]; omega
      exact ⟨h.congr (rd_hbCancel h.pend (by decide)) (rd_hbCancel h.pend hrole) (hbCancel_dev h.pend) hpending, hgot,
        rd_hbCancel h.pend hcyc⟩
  have hregs : t.regs = u.regs := ht ▸ askLanes_keeps State.regs State.emit_regs u ch
  have hdev : t.dev = u.dev := ht ▸ askLanes_keeps State.dev State.emit_dev u ch
  have hchans : t.chans = u.chans := ht ▸ askLanes_keeps State.chans State.emit_chans u ch
  obtain ⟨hrest, hgot, hcyc⟩ := huv
  refine ⟨hrest.congr_regs hregs hdev ?_, ?_, (rd_congr hregs _).trans hcyc⟩
  · rw [chan_congr hchans]
    exact ⟨rfl, rfl, rfl⟩
  · rw [chan_congr hchans, hgot]

/-! ### The judgment and the new cycle -/

/-- The judgment of a cycle whose frame was taken: the count of cycles without one is 0 (R320, R351). -/
theorem judgeNode_got (h : (s.chan ch).got = true) :
    (s.judgeNode ch).regs = s.regs ∧ (s.judgeNode ch).dev = s.dev ∧
      (s.chan ch).SamePending ((s.judgeNode ch).chan ch) ∧ ((s.judgeNode ch).chan ch).noAcc = 0 := by
  unfold State.judgeNode
  simp only [h, Bool.not_true, Bool.false_and, Bool.false_eq_true, if_false, chan_modChan_same, modChan_regs, modChan_dev,
    if_true, Chan.SamePending, and_self]

/-- The start of a cycle writes the cycle number and no other register. -/
theorem cycAdvance_regs (n k : Nat) :
    (s.cycAdvance ch n k).regs = (s.wr (R.IKL_CYCNUM.VALUE.i ch) (add32 (s.cycNum ch) k)).regs := by
  unfold State.cycAdvance
  rw [putApp_regs, modChan_regs]

theorem cycAdvance_dev (n k : Nat) : (s.cycAdvance ch n k).dev = s.dev := by
  unfold State.cycAdvance
  rw [putApp_dev, modChan_dev, State.wr_dev]

theorem rd_cycAdvance_other {x : Fld} (hch : ch < 2) (hx : x.addr ≠ (R.IKL_CYCNUM.VALUE.i ch).addr) (n k : Nat) :
    (s.cycAdvance ch n k).rd x = s.rd x := by
  rw [rd_congr (cycAdvance_regs n k)]
  exact rd_wr_other _ _ _ _ hx (by simp only [Fld.i, R.IKL_CYCNUM.VALUE, barSize]; omega)

theorem cycNum_cycAdvance (hch : ch < 2) (n k : Nat) : (s.cycAdvance ch n k).cycNum ch = add32 (s.cycNum ch) k := by
  have plain : isTmr (R.IKL_CYCNUM.VALUE.i ch).addr = false := by
    obtain rfl | rfl : ch = 0 ∨ ch = 1 := by omega
    all_goals decide
  rw [State.cycNum, rd_congr (cycAdvance_regs n k), rd_wr_same _ _ _ plain (by simp [Fld.i, R.IKL_CYCNUM.VALUE])]
  simp [add32, Fld.i, R.IKL_CYCNUM.VALUE]

/-- The record of the new cycle: its tick, and no frame taken yet (R310). -/
theorem chan_cycAdvance (n k : Nat) :
    (s.chan ch).SamePending ((s.cycAdvance ch n k).chan ch) ∧ ((s.cycAdvance ch n k).chan ch).at_ = some n ∧
      ((s.cycAdvance ch n k).chan ch).got = false ∧ ((s.cycAdvance ch n k).chan ch).noAcc = (s.chan ch).noAcc := by
  unfold State.cycAdvance
  extract_lets s1 s2
  have c1 : s1.chan ch = s.chan ch := chan_congr (State.wr_chans _ _ _) ch
  rw [chan_congr (putApp_chans _ _ _), chan_modChan_same, c1]
  exact ⟨⟨rfl, rfl, rfl⟩, rfl, rfl, rfl⟩

/-! ### What takes effect at a cycle start -/

section
variable (h : s.NodeAtRest ch)
include h

theorem cycleWin_node (n : Nat) : s.cycleWin n = s := by
  simp [State.cycleWin, candidates_node h]

theorem cyclePend_node (n : Nat) : s.cyclePend ch n = s := by
  simp [State.cyclePend, h.pend]

theorem cycleFold_node : s.cycleFold ch = s := by
  simp [State.cycleFold, leadSide_node h, originSide_node h, h.act]

theorem cycleReady_node (n : Nat) : s.cycleReady ch n = s := by
  simp [State.cycleReady, h.ready]

theorem cycleParams_node : s.cycleParams ch = s := by
  simp [State.cycleParams, h.par]

/-- A node sends no frame of its own; a delay measurement asked for stays so. -/
theorem cycleSend_node (n : Nat) (dm : Bool) :
    s.cycleSend ch n dm = if dm then s.modChan ch fun c => { c with dm := true } else s := by
  simp [State.cycleSend, candidates_node h, leads_node h]

/-- Nothing but the delay measurement asked for takes effect at the cycle start of a node channel at rest. -/
theorem cycleEffects_node (n : Nat) (dm : Bool) :
    (((((s.cycleWin n).cyclePend ch n).cycleFold ch).cycleReady ch n).cycleParams ch).cycleSend ch n dm =
      if dm then s.modChan ch fun c => { c with dm := true } else s := by
  rw [cycleWin_node h, cyclePend_node h, cycleFold_node h, cycleReady_node h, cycleParams_node h, cycleSend_node h]

end

/-- The cycle start of a node channel at rest: hand-back and switch requests, the judgment, the new cycle, and the delay measurement that stays asked for. -/
theorem cycleStart_node {u v w : State} {n k : Nat} (h : u.NodeAtRest ch) (hch : ch < 2) (hc : u.twin.cfgs = [])
    (hgot : (u.chan ch).got = true) (hv : v = (if u.twinOn then u.hbLeader else u).askLanes ch)
    (hw : w = (v.judgeNode ch).cycAdvance ch n k) :
    ∃ dm : Bool, u.cycleStart ch n k = (((if dm
      then (w.modChan ch fun c => { c with dm := false }).modChan ch fun c => { c with dm := true }
      else w.modChan ch fun c => { c with dm := false }).llPoll 0).llPoll 1) := by
  obtain ⟨hrest, hvgot, -⟩ := node_before_judgment h hch hv
  obtain ⟨hjr, hjd, hjc, -⟩ := judgeNode_got (hvgot.trans hgot)
  have hj : (v.judgeNode ch).NodeAtRest ch := hrest.congr_regs hjr hjd hjc
  have hrole : (R.IKL_CFG.ROLE.i ch).addr ≠ (R.IKL_CYCNUM.VALUE.i ch).addr := by simp [Fld.i, R.IKL_CFG.ROLE, R.IKL_CYCNUM.VALUE]
  have hmode : R.MOD_STATE.MODE.addr ≠ (R.IKL_CYCNUM.VALUE.i ch).addr := by
    simp only [Fld.i, R.MOD_STATE.MODE, R.IKL_CYCNUM.VALUE]; omega
  have hwr : w.NodeAtRest ch := by
    subst hw
    exact hj.congr (rd_cycAdvance_other hch hmode n k) (rd_cycAdvance_other hch hrole n k) (cycAdvance_dev n k) (chan_cycAdvance n k).1
  have hwr' : (w.modChan ch fun c => { c with dm := false }).NodeAtRest ch := by
    refine hwr.congr_regs (modChan_regs _ _ _) (modChan_dev _ _ _) ?_
    rw [chan_modChan_same]
    exact ⟨rfl, rfl, rfl⟩
  refine ⟨(w.chan ch).dm || w.rd (R.IKL_CTRL.DM_NOW.i ch) == 1, ?_⟩
  simp only [State.cycleStart, cfgPoll_empty hc, ← hv, candidates_node hrest, leadSide_node hrest, Bool.false_eq_true, if_false,
    Bool.false_and, ← hw, cycleEffects_node hwr']

/-- The cycle start of a node channel at rest whose frame was taken (R310, R320). -/
theorem cycleStart_node_channel {u : State} {n k : Nat} (h : u.NodeAtRest ch) (hch : ch < 2) (hc : u.twin.cfgs = [])
    (hgot : (u.chan ch).got = true) :
    (u.cycleStart ch n k).cycNum ch = add32 (u.cycNum ch) k ∧ ((u.cycleStart ch n k).chan ch).at_ = some n ∧
      ((u.cycleStart ch n k).chan ch).noAcc = 0 ∧ ((u.cycleStart ch n k).chan ch).got = false := by
  obtain ⟨v, hv⟩ : ∃ v, v = (if u.twinOn then u.hbLeader else u).askLanes ch := ⟨_, rfl⟩
  obtain ⟨w, hw⟩ : ∃ w, w = (v.judgeNode ch).cycAdvance ch n k := ⟨_, rfl⟩
  obtain ⟨-, hvgot, hcyc⟩ := node_before_judgment h hch hv
  obtain ⟨hjr, -, -, hacc⟩ := judgeNode_got (hvgot.trans hgot)
  obtain ⟨dm, e⟩ := cycleStart_node h hch hc hgot hv hw
  obtain ⟨hat, hwgot, hwacc⟩ : (w.chan ch).at_ = some n ∧ (w.chan ch).got = false ∧ (w.chan ch).noAcc = 0 := by
    obtain ⟨-, hat, hwgot, hwacc⟩ := chan_cycAdvance (s := v.judgeNode ch) (ch := ch) n k
    rw [hw]
    exact ⟨hat, hwgot, hwacc.trans hacc⟩
  have hnum : w.rd (R.IKL_CYCNUM.VALUE.i ch) = add32 (u.cycNum ch) k := by
    have hjn : (v.judgeNode ch).cycNum ch = v.cycNum ch := rd_congr hjr _
    have hadv := cycNum_cycAdvance (s := v.judgeNode ch) hch n k
    rw [hjn, hcyc, ← hw] at hadv
    exact hadv
  have apart : ∀ c, (R.IKL_CYCNUM.VALUE.i ch).addr ≠ (R.IKL_CS.LL_ACT.i c).addr := fun c => by
    simp only [Fld.i, R.IKL_CYCNUM.VALUE, R.IKL_CS.LL_ACT]; omega
  rw [e, State.cycNum, rd_llPoll _ (by decide) (apart 1), rd_llPoll _ (by decide) (apart 0), chan_congr (llPoll_chans _ _),
    chan_congr (llPoll_chans _ _)]
  cases dm
  · simp only [Bool.false_eq_true, if_false, rd_congr (modChan_regs _ _ _), chan_modChan_same]
    exact ⟨hnum, hat, hwacc, hwgot⟩
  · simp only [if_true, rd_congr (modChan_regs _ _ _), chan_modChan_same]
    exact ⟨hnum, hat, hwacc, hwgot⟩

theorem exec_cycleStart (c : Nat) (s : State) : exec (.cycleStart c) s = execCycleStart c s := rfl

theorem exec_cycleStart_reached {u : State} (hu : s.reach (s.cycNext ch).1 = some u) (hc : isCh ch = true) (hr : s.cycRuns ch = true) :
    exec (.cycleStart ch) s = .next (u.cycleStart ch (s.cycNext ch).1 (s.cycNext ch).2) := by
  rw [exec_cycleStart]
  simp only [execCycleStart, needs, hc, hr, hu, if_true]

end

/-! ### Lane releases -/

/-- What tells how the release of a lane went: the lanes, the log of the tick, the device block and the state of Inkwell. -/
def State.releaseView (s : State) : List (Nat × Lane) × TickLog × Dev × Nat := (s.lanes, s.log, s.dev, s.inkState)

/-- What a lane holds once a completed run without an error is released with torque on: the run's next memory, but for what the current loop owns. -/
def Lane.released (l : Lane) (r : LaneRun) : Lane :=
  let m := { r.next with xd := l.mem.xd, xq := l.mem.xq, csat := l.mem.csat }
  { l with run := none, mem := m, snap := m, rel := some r, cmd := m.out }

section
variable {s t : State} {n g : Nat} {r : LaneRun}

theorem putApp_releaseView (s : State) (c : Nat) (a : AppBuf) : (s.putApp c a).releaseView = s.releaseView := rfl

theorem publish_releaseView (s : State) : s.publish.releaseView = s.releaseView := by
  rw [State.publish, State.publishCh, putApp_releaseView, State.publishCh, putApp_releaseView]

theorem laneOutWord_releaseView (s : State) (n kind v : Nat) : (s.laneOutWord n kind v).releaseView = s.releaseView := by
  unfold State.laneOutWord
  split
  · rfl
  · rw [State.ringPut, putApp_releaseView]

/-- The words of a release enter the application buffers alone. -/
theorem laneWords_releaseView (s : State) (n mode : Nat) (w : List Nat) : (s.laneWords n mode w).releaseView = s.releaseView := by
  unfold State.laneWords
  dsimp only
  rw [laneOutWord_releaseView]
  split
  · exact forEach_keeps State.releaseView (fun _ _ => laneOutWord_releaseView _ _ _ _) s
  · rfl

theorem rd_putRaw_other (s : State) {a : Nat} (v : Nat) {x : Fld} (h : x.addr ≠ a) (ha : a < barSize) :
    (s.putRaw a v).rd x = s.rd x := by
  unfold State.rd State.rdw
  rw [raw_putRaw_other _ _ h, raw_putRaw_other _ _ (by omega), raw_putRaw_other _ _ (by omega)]

/-- A word shown in a register below the ring's and Inkwell's. -/
theorem showBfp_releaseView (s : State) {f : Fld} (hf : f.addr < 0x700000) (w : Bfp) :
    (s.showBfp f w).releaseView = s.releaseView := by
  have ink : (s.showBfp f w).inkState = s.inkState :=
    rd_putRaw_other s _ (by simp only [R.INK_STAT.STATE]; omega) (by simp only [barSize]; omega)
  simp [State.showBfp, State.releaseView, ← ink]

theorem lanes_of_releaseView (h : t.releaseView = s.releaseView) : t.lanes = s.lanes := congrArg (·.1) h
theorem log_of_releaseView (h : t.releaseView = s.releaseView) : t.log = s.log := congrArg (·.2.1) h
theorem dev_of_releaseView (h : t.releaseView = s.releaseView) : t.dev = s.dev := congrArg (·.2.2.1) h
theorem inkState_of_releaseView (h : t.releaseView = s.releaseView) : t.inkState = s.inkState := congrArg (·.2.2.2) h

theorem lane_congr (h : t.lanes = s.lanes) (n : Nat) : t.lane n = s.lane n := by
  rw [State.lane, State.lane, h]

@[simp] theorem lane_putLane_same (s : State) (n : Nat) (l : Lane) : (s.putLane n l).lane n = l := tget_tput_same _ _ _ _

theorem torqueOff_putLane (s : State) (n : Nat) (l : Lane) :
    (s.putLane n l).torqueOff n = (s.rd (R.AX_STAT.TORQUE_OFF.i n) == 1 || l.tqDue) :=
  congrArg (s.rd (R.AX_STAT.TORQUE_OFF.i n) == 1 || Lane.tqDue ·) (lane_putLane_same s n l)

/-- The release of a completed run without an error, with torque on (R235, R236, R243). -/
theorem laneRelease_done (hn : n < 160) (hrun : (s.lane n).run = some r) (hd : r.done.isSome = true) (he : r.err = false)
    (ht : s.torqueOff n = false) (hq : (s.lane n).tqDue = false) :
    (s.laneRelease n).releaseView =
      ((s.putLane n { s.lane n with run := none }).putLane n ((s.lane n).released r)).releaseView := by
  unfold State.laneRelease
  extract_lets l sOff s1 l1
  split
  · next hnone => simp [l, hrun] at hnone
  · next r' hr =>
    obtain rfl : r = r' := by simpa [l, hrun] using hr
    extract_lets next m m' s2 s3 s4 l4 s5
    have t1 : s1.torqueOff n = false := (torqueOff_putLane _ _ _).trans ht
    have e1 : l1 = { l with run := none } := lane_putLane_same _ _ _
    have em : m' = m := if_neg (by simp [t1])
    have e2 : s2 = s1.putLane n (l.released r) := by
      simp only [s2, em, t1, e1, Bool.false_eq_true, if_false]
      rfl
    have k3 : s3.releaseView = s2.releaseView := by
      have e3 : s3 = (s2.showBfp (R.AX_INT.MANT.i n) m'.integ).showBfp (R.AX_FB_VEL.MANT.i n) m'.vfb :=
        (if_neg (by simp [he])).trans (if_neg (by cases hdone : r.done <;> simp [hdone] at hd ⊢))
      rw [e3, showBfp_releaseView _ (by simp only [Fld.i, R.AX_FB_VEL.MANT]; omega),
        showBfp_releaseView _ (by simp only [Fld.i, R.AX_INT.MANT]; omega)]
    have hl3 : s3.lane n = l.released r := by rw [lane_congr (lanes_of_releaseView k3), e2, lane_putLane_same]
    have e4 : s4 = s3 := if_neg (by rw [hl3]; exact Bool.eq_false_iff.mp hq)
    have k5 : s5.releaseView = s3.releaseView := by
      rw [← e4]
      exact showBfp_releaseView _ (by simp only [Fld.i, R.AX_OUT.MANT]; omega) _
    have kend : s5.releaseView = (s1.putLane n (l.released r)).releaseView := by rw [k5, k3, e2]
    split
    · exact (laneWords_releaseView _ _ _ _).trans kend
    · exact kend

theorem axGroup_single (h : s.dev.cfg.axisGroup = [(n, g)]) {m : Nat} (hm : m ≠ n) : s.axGroup m = none := by
  simp [State.axGroup, h, Ne.symm hm]

theorem axGroup_same (h : s.dev.cfg.axisGroup = [(n, g)]) (ho : s.laneOn n = true) : s.axGroup n = some g := by
  have hs : (s.axGroup n).isSome = true := by
    simp only [State.laneOn, Bool.and_eq_true] at ho
    exact ho.2
  simp only [State.axGroup, h, List.find?_cons_of_pos, beq_self_eq_true, Option.map_some, Option.filter_some] at hs ⊢
  split
  · rfl
  · next hn => simp [hn] at hs

/-- A group with one lane releases that lane. -/
theorem releaseGroup_single (h : s.dev.cfg.axisGroup = [(n, g)]) (hn : n < 160) (ho : s.laneOn n = true)
    (hk : (s.laneRelease n).dev = s.dev) : (s.releaseGroup g).releaseView = (s.laneRelease n).releaseView := by
  have hone : (if s.axGroup n = some g && s.laneOn n then s.laneRelease n else s) = s.laneRelease n := by
    simp [axGroup_same h ho, ho]
  unfold State.releaseGroup
  rw [forEach_only (fun t => t.dev.cfg.axisGroup = [(n, g)]) List.nodup_range (List.mem_range.mpr hn) h
    (by rw [hone, hk, h]) fun m t hm ht => by simp [axGroup_single ht hm], hone]
  dsimp only
  split
  · exact publish_releaseView _
  · rfl

/-- Inkwell has no row while it is idle (R248). -/
theorem inkPhase_idle (h : s.inkState = 0) (g : Nat) : s.inkPhase g = s := by
  simp [State.inkPhase, h]

theorem exec_outputPhase (g : Nat) (s : State) : exec (.outputPhase g) s = execOutputPhase g s := rfl

/-- The tick's log notes the output phase of a group. -/
def State.notePhase (s : State) (g : Nat) : State := { s with log := { s.log with phases := g :: s.log.phases } }

/-- The output phase of a group other than 0 whose tick has come. -/
theorem exec_outputPhase_reached {u : State} (hu : s.reach (s.nextPhase g) = some u) (h0 : 0 < g) (h4 : g < 4) (ha : s.alive = true)
    (hr : s.dev.rgIn = true) (hd : s.rgDef g = true) (hc : u.twin.cfgs = []) :
    exec (.outputPhase g) s = .next (((u.notePhase g).releaseGroup g).inkPhase g) := by
  have hp : ({ u with log := { u.log with phases := g :: u.log.phases } } : State).cfgPoll = u.notePhase g := cfgPoll_empty hc
  rw [exec_outputPhase]
  simp only [execOutputPhase, needs, h4, ha, hr, hd, hu, hp, Nat.ne_of_gt h0, decide_true, Bool.and_self, if_true, if_false]

/-- The lane, the log and the rest of the view after the output phase of a group with one lane, its run done without an error. -/
theorem outputPhase_single {u : State} (hg : u.dev.cfg.axisGroup = [(n, g)]) (hn : n < 160) (ho : u.laneOn n = true)
    (hi : u.inkState = 0) (hrun : (u.lane n).run = some r) (hd : r.done.isSome = true) (he : r.err = false)
    (ht : u.torqueOff n = false) (hq : (u.lane n).tqDue = false) :
    ((((u.notePhase g).releaseGroup g).inkPhase g).lane n) = (u.lane n).released r ∧
      (((u.notePhase g).releaseGroup g).inkPhase g).log = (u.notePhase g).log := by
  have hl := laneRelease_done (s := u.notePhase g) hn hrun hd he ht hq
  have hdev : ((u.notePhase g).laneRelease n).dev = (u.notePhase g).dev := (dev_of_releaseView hl).trans rfl
  have hv := (releaseGroup_single (s := u.notePhase g) hg hn ho hdev).trans hl
  have hink : ((u.notePhase g).releaseGroup g).inkState = 0 := (inkState_of_releaseView hv).trans hi
  rw [inkPhase_idle hink, lane_congr (lanes_of_releaseView hv), lane_putLane_same]
  exact ⟨rfl, (log_of_releaseView hv).trans rfl⟩

end

/-! ### CFG records -/

theorem exec_cfg (dt : Nat) (m : CfgMsg) (s : State) : exec (.cfg dt m) s = execCfg dt m s := rfl

section
variable {s u : State} {dt : Nat} {m : CfgMsg}

/-- A second copy is ignored (R356). -/
theorem twinTake_seen (ht : u.twinOn = true) (hs : u.twin.seen.contains m.seq = true) (f : State → State) :
    u.twinTake true m.seq f = u := by
  simp only [State.twinTake, ht, hs, Bool.not_true, Bool.false_eq_true, if_false, if_true]

/-- The first copy of a good message is taken, and its number noted. -/
theorem twinTake_new (ht : u.twinOn = true) (hs : u.twin.seen.contains m.seq = false) (f : State → State) :
    u.twinTake true m.seq f = f { u with twin := { u.twin with seen := m.seq :: u.twin.seen.take 63 } } := by
  simp only [State.twinTake, ht, hs, Bool.not_true, Bool.false_eq_true, if_false]

theorem exec_cfg_seen (hu : u = s.after dt) (ht : u.twinOn = true) (hc : m.crcOk = true) (hs : u.twin.seen.contains m.seq = true) :
    exec (.cfg dt m) s = .next u := by
  rw [exec_cfg, execCfg, ← hu, hc, twinTake_seen ht hs]

/-- A good record with a new number waits in SHADOW for a tick that is ahead (R362). -/
theorem exec_cfg_waits (hu : u = s.after dt) (ht : u.twinOn = true) (hc : m.crcOk = true) (hs : u.twin.seen.contains m.seq = false)
    (hm : u.mode = 3) (he : u.twin.cfgs = []) (ha : u.ahead m.tick = true) :
    exec (.cfg dt m) s =
      .next { u with twin := { u.twin with seen := m.seq :: u.twin.seen.take 63, cfgs := u.twin.cfgs ++ [m] } } := by
  have shadow : ∀ w : Twin, State.mode { u with twin := w } = 3 := fun _ => hm
  rw [exec_cfg, execCfg, ← hu, hc, twinTake_new ht hs]
  refine congrArg Host.Outcome.next ((if_pos ?_).trans ?_)
  · rw [shadow]
    rfl
  · exact cfgPoll_ahead (m := m) (by simp only [he, List.nil_append]) ha

end

end Machine

open Machine

/-- Settles O51: what waits for a tick is idle in each clause, so that the period index, the cycle number, the lane and the record follow from the operation that the clause names. -/
theorem periodsCyclesAndPhases : Obligations.PeriodsCyclesAndPhases := by
  unfold Obligations.PeriodsCyclesAndPhases
  refine ⟨?boundary, ?cycle, ?phase, ?waits, ?seen⟩
  case boundary =>
    intro s u v hu hv ha hrun hs hm hr hp hc hd
    exact ⟨_, exec_baseBoundary_boot hu hv ha hrun hs hm hr hp hc hd, baseBoundary_boot_lattice hm hr⟩
  case cycle =>
    intro s u ch n hu hch hr hn hrole hm _ hp hc hpar hact hready _ hgot
    subst hn
    exact ⟨_, exec_cycleStart_reached hu hch hr,
      cycleStart_node_channel ⟨hm, hrole, hp, hpar, hact, hready⟩ (of_decide_eq_true hch) hc hgot⟩
  case phase =>
    intro s u g n r hu h0 h4 ha hr hdef hg hn ho hc hi hrun hd he ht hq
    obtain ⟨hlane, hlog⟩ := outputPhase_single hg hn ho hi hrun hd he ht hq
    refine ⟨_, exec_outputPhase_reached hu h0 h4 ha hr hdef hc, ?_⟩
    dsimp only
    rw [hlane, hlog]
    exact ⟨rfl, rfl, rfl, rfl, by simp [State.notePhase]⟩
  case waits =>
    intro s dt u m hu ht hc hs hm he ha
    exact ⟨_, exec_cfg_waits hu ht hc hs hm he ha, by simp only [he, List.nil_append], rfl, rfl, rfl, rfl⟩
  case seen =>
    intro s dt u m hu ht hc hs
    exact ⟨u, exec_cfg_seen hu ht hc hs, rfl⟩

end Sys2Proof
end

section
namespace Sys2Proof

/-! PROOFS. The register model: what every step keeps and when it answers (R38, R41, R65), and three statements that fail where two accesses of one tick meet on one word (R41, R48, R68). -/

namespace Machine

/-! ### When a command answers -/

/-- Every arm of exec is one range check, that of wfCommand, before the state it answers. -/
theorem exec_eq_needs (c : Instr) (s : State) : ∃ t, exec c s = needs (wfCommand c) t := by
  cases c <;> exact ⟨_, rfl⟩

theorem needs_true (t : State) : needs true t = .next t := rfl

theorem needs_false (t : State) : needs false t = .fault .noSuchInstance := rfl

theorem exec_wellFormed {c : Instr} (h : c.WellFormed) (s : State) : ∃ t, exec c s = .next t := by
  obtain ⟨t, ht⟩ := exec_eq_needs c s
  exact ⟨t, by rw [ht, h, needs_true]⟩

theorem exec_not_wellFormed {c : Instr} (h : ¬ c.WellFormed) (s : State) : exec c s = .fault .noSuchInstance := by
  obtain ⟨t, ht⟩ := exec_eq_needs c s
  rw [ht, Bool.eq_false_iff.mpr h, needs_false]

/-! ### What a step does -/

/-- The state that the command at the front acts on: the rest of the queue waits. -/
def State.dequeued (s : State) : State := { s with pending := s.pending.tail }

theorem step_nil {s : State} (h : s.pending = []) : step s = .next s := by
  simp [step, h]

theorem step_cons {s : State} {c : Instr} {rest : List Instr} (h : s.pending = c :: rest) : step s = exec c s.dequeued := by
  simp [step, State.dequeued, h]

/-- A step idles on an empty queue; else it is the front command, on the state with the rest of the queue. -/
theorem State.steps_iff {s t : State} :
    s.Steps t ↔ s.pending = [] ∧ t = s ∨ ∃ c rest, s.pending = c :: rest ∧ exec c s.dequeued = .next t := by
  unfold State.Steps
  rcases hq : s.pending with _ | ⟨c, rest⟩
  · simp [step_nil hq, eq_comm]
  · simp [step_cons hq]

/-- A step keeps the canonical form and the fuses, and takes the front off the queue. -/
theorem State.Steps.keeps {s t : State} (h : s.Steps t) :
    (s.Canonical → t.Canonical) ∧ t.pending = s.pending.tail ∧ t.dev.fuses = s.dev.fuses := by
  rcases State.steps_iff.mp h with ⟨hq, rfl⟩ | ⟨c, rest, -, he⟩
  · exact ⟨id, by rw [hq, List.tail_nil], rfl⟩
  · obtain ⟨hcan, hpend, hfuses, -⟩ := exec_keeps c _ t he
    exact ⟨hcan, hpend, hfuses⟩

/-- A state whose waiting commands are well-formed steps. -/
theorem State.QueueOk.steps {s : State} (h : s.QueueOk) : ∃ t, s.Steps t := by
  rcases hq : s.pending with _ | ⟨c, rest⟩
  · exact ⟨s, step_nil hq⟩
  · obtain ⟨t, ht⟩ := exec_wellFormed (h c (by simp [hq])) s.dequeued
    exact ⟨t, (step_cons hq).trans ht⟩

theorem State.QueueOk.of_tail {s t : State} (h : s.QueueOk) (ht : t.pending = s.pending.tail) : t.QueueOk :=
  fun c hc => h c (List.mem_of_mem_tail (ht ▸ hc))

theorem mem8_congr {s t : State} (h : t.mem = s.mem) (r a : Nat) : t.mem8 r a = s.mem8 r a := by
  rw [State.mem8, State.mem8, h]

/-! ### Two accesses of one tick -/

/-- A command answers one state, so that all it is said to yield holds of that state. -/
theorem Yields.and {c : Instr} {s : State} {P Q : State → Prop} (hp : Yields c s P) (hq : Yields c s Q) : ∃ t, P t ∧ Q t := by
  obtain ⟨t, ht, hpt⟩ := hp
  obtain ⟨t', ht', hqt⟩ := hq
  obtain rfl : t = t' := Host.Outcome.next.inj (ht.symm.trans ht')
  exact ⟨t, hpt, hqt⟩

/-- Out of reset and clocked, with the host link up and one power domain on. -/
def poweredIn (d : Nat) : State :=
  { State.reset with
    regs := [(R.DEV_RST_CAUSE.POR_SUP.addr, 1), (R.PWR_DOM.ON.addr, 2 ^ d)]
    tb := { State.reset.tb with run := true }
    bus := { State.reset.bus with link := true } }

/-- The host writes 5 to SPR_CFG, and Scribe 0 on the same tick: Scribe's word counts as the first of the two, so the host's stays (R41). -/
theorem sprCfg_host_then_scribe :
    Yields (.registerWrite 0 .host 0x7C0010 5 15) (poweredIn 23) fun s =>
      s.mayWrite .scribe 23 = true ∧ s.mirrors = false ∧
        Yields (.registerWrite 0 .scribe 0x7C0010 0 15) s fun t => t.rd R.SPR_CFG.SCHED_PER = 5 :=
  ⟨_, rfl, rfl, rfl, _, rfl, by decide⟩

/-- Windows 0 and 1 each hold a write of word 0 of Serif memory. -/
def windowsQueued : State := { poweredIn 11 with wins := [(0, [(7, 0, 1)]), (1, [(7, 0, 2)])] }

/-- Window 1 performs its write, and window 0 on the same tick: that of window 0 is served as the first of the two, so the word of window 1 stays (R68). -/
theorem serifWord_window1_then_window0 :
    Yields (.indWritePerform 0 1) windowsQueued fun s =>
      s.winRuns = true ∧ s.winQ 0 = [(7, 0, 1)] ∧ s.domOn 11 = true ∧
        Yields (.indWritePerform 0 0) s fun t => t.mem32 7 0 = 2 :=
  ⟨_, rfl, rfl, rfl, rfl, _, rfl, by decide⟩

/-- A request for the present tick waits for feedback channel 0. -/
def copyDue : State := { poweredIn 21 with cmt := ⟨[⟨0, true, 0, [0x600000], []⟩], 0, 0⟩ }

/-- The host writes 5 to FILT of channel 0, and the channel copies on the same tick: the write counts as behind the copy, which takes the 2 that stood before it (R48). -/
theorem filt_write_then_copy :
    Yields (.registerWrite 0 .host 0x600010 0xFF0500 15) copyDue fun s =>
      s.reach 0 = some s ∧ s.alive = true ∧ s.cmt.reqs = [⟨0, true, 0, [0x600000], []⟩] ∧ s.tb.actP = false ∧
        s.rd (R.FB_CFG.FILT.i 0) = 5 ∧ Yields (.commitCopy 0x600000) s fun t => t.act (R.FB_CFG.FILT.i 0) = 2 :=
  ⟨_, rfl, by decide, rfl, rfl, rfl, by decide, _, rfl, by decide⟩

end Machine

open Machine

/-- Settles O1: both parts are the branches of step. -/
theorem stepTakesTheFrontCommand : Obligations.StepTakesTheFrontCommand := by
  unfold Obligations.StepTakesTheFrontCommand
  exact ⟨fun _ _ _ => step_cons rfl, fun _ => step_nil⟩

/-- Settles O5: each command answers through the range check of its operands. -/
theorem wellFormedCommandsComplete : Obligations.WellFormedCommandsComplete := by
  unfold Obligations.WellFormedCommandsComplete
  exact fun c s => ⟨fun h => exec_wellFormed h s, fun h => exec_not_wellFormed h s⟩

/-- Settles O4: what each command keeps, carried from exec to a step. -/
theorem stepsKeepTheCanonicalForm : Obligations.StepsKeepTheCanonicalForm := by
  unfold Obligations.StepsKeepTheCanonicalForm
  intro s t hcan hstep
  obtain ⟨keepsCan, hpend, hfuses⟩ := hstep.keeps
  exact ⟨keepsCan hcan, hpend, hfuses⟩

/-- Settles O3: the front command is well-formed, so it answers; what a step keeps is the rest of the invariant. -/
theorem soundStatesNeverStop : Obligations.SoundStatesNeverStop := by
  unfold Obligations.SoundStatesNeverStop
  intro s hcan hqueue
  obtain ⟨t, hstep⟩ := hqueue.steps
  obtain ⟨keepsCan, hpend, hfuses⟩ := hstep.keeps
  exact ⟨t, hstep, keepsCan hcan, hqueue.of_tail hpend, hpend, hfuses⟩

/-- Settles O6: a command that stores nothing leaves the memory table as it is. -/
theorem memoryChangesOnlyByItsCommands : Obligations.MemoryChangesOnlyByItsCommands := by
  unfold Obligations.MemoryChangesOnlyByItsCommands
  exact fun c s t hkeeps he => mem8_congr (exec_keeps_memory c s t hkeeps he)

/-- Refutes O50: a word that Scribe writes to SPR_CFG on the tick of a word of the host does not read back. -/
theorem not_registerWritesAreWholeWordsInPoweredBlocks : ¬ Obligations.RegisterWritesAreWholeWordsInPoweredBlocks := by
  unfold Obligations.RegisterWritesAreWholeWordsInPoweredBlocks
  rintro ⟨hwrite, -⟩
  obtain ⟨s, -, hmay, hmirrors, hfive⟩ := sprCfg_host_then_scribe
  obtain ⟨t, ⟨hread, -⟩, hread'⟩ := (hwrite s 0 _ .scribe 0 rfl rfl hmay hmirrors).and hfive
  exact absurd (hread'.symm.trans hread) (by decide)

/-- Refutes O49: the word that window 0 writes behind window 1 on one tick does not reach memory. -/
theorem not_windowsAndApertureReachTheirSpace : ¬ Obligations.WindowsAndApertureReachTheirSpace := by
  unfold Obligations.WindowsAndApertureReachTheirSpace
  rintro ⟨-, -, -, hperform, -⟩
  obtain ⟨s, -, hruns, hqueue, hdom, htwo⟩ := serifWord_window1_then_window0
  obtain ⟨t, ⟨-, hword, -⟩, hword'⟩ :=
    (hperform s 0 _ 0 0 1 [] rfl (by decide) (by decide) rfl rfl hruns hqueue hdom).and htwo
  exact absurd (hword'.symm.trans hword) (by decide)

/-- Refutes O41: a copy on the tick on which FILT is written leaves the value before the write in force. -/
theorem not_guardsAndCommits : ¬ Obligations.GuardsAndCommits := by
  unfold Obligations.GuardsAndCommits
  rintro ⟨-, -, -, -, -, -, -, hcopy, -⟩
  obtain ⟨s, -, hreach, halive, hreqs, hactP, hfive, htwo⟩ := filt_write_then_copy
  obtain ⟨t, ⟨-, -, -, hforce⟩, hforce'⟩ := (hcopy s s 0 0 0 hreach rfl halive hreqs (by decide) hactP).and htwo
  exact absurd ((hforce'.symm.trans hforce).trans hfive) (by decide)

end Sys2Proof
end

section
namespace Sys2Proof

/-! PROOFS. Reads that latch or take what they show (R80, R89, R281, R410): TB_NS and TB_PERIOD, a capture stamp, a position latch, a result word. -/

/-! ### Fields of a masked word -/

/-- A mask that covers a field leaves the field. -/
theorem bits_land_of_covers {m hi lo : Nat} (w : Nat) (h : bits m hi lo = p2 (hi + 1 - lo) - 1) :
    bits (w &&& m) hi lo = bits w hi lo := by
  apply Nat.eq_of_testBit_eq
  intro i
  have hm := congrArg (Nat.testBit · i) h
  simp only [testBit_bits, p2, Nat.testBit_two_pow_sub_one] at hm
  rw [testBit_bits, testBit_bits, Nat.testBit_and]
  by_cases hlt : i < hi + 1 - lo
  · have covered : m.testBit (lo + i) = true := by simpa [hlt] using hm
    rw [covered, Bool.and_true]
  · simp [hlt]

theorem sub32_lt (a b : Nat) : sub32 a b < 2 ^ 32 := Nat.mod_lt _ (by decide)

namespace Machine

/-! ### The latches of a source (R80) -/

section
variable {s t u : State} {src r : Src} {dt be : Nat}

theorem reads_ne_ring (h : s.reads src = true) : src ≠ .ring := by
  rintro rfl
  cases h

@[simp] theorem putSnap_regs (s : State) (src : Src) (n : Snap) : (s.putSnap src n).regs = s.regs := by cases src <;> rfl
@[simp] theorem putSnap_mem (s : State) (src : Src) (n : Snap) : (s.putSnap src n).mem = s.mem := by cases src <;> rfl
@[simp] theorem putSnap_out (s : State) (src : Src) (n : Snap) : (s.putSnap src n).out = s.out := by cases src <;> rfl

@[simp] theorem snap_putSnap_same (s : State) (src : Src) (n : Snap) : (s.putSnap src n).snap src = n := by cases src <;> rfl

theorem snap_putSnap_other (n : Snap) (hs : src ≠ .ring) (hr : r ≠ .ring) (h : r ≠ src) : (s.putSnap src n).snap r = s.snap r := by
  cases src with
  | ring => exact absurd rfl hs
  | host =>
    cases r with
    | ring => exact absurd rfl hr
    | host => exact absurd rfl h
    | scribe => rfl
  | scribe =>
    cases r with
    | ring => exact absurd rfl hr
    | host => rfl
    | scribe => exact absurd rfl h

@[simp] theorem answer_regs (s : State) (src : Src) (be w : Nat) : (s.answer src be w).regs = s.regs := rfl
@[simp] theorem answer_mem (s : State) (src : Src) (be w : Nat) : (s.answer src be w).mem = s.mem := rfl
@[simp] theorem answer_tb (s : State) (src : Src) (be w : Nat) : (s.answer src be w).tb = s.tb := rfl
@[simp] theorem answer_out (s : State) (src : Src) (be w : Nat) : (s.answer src be w).out = .reply src (byteSel be w) :: s.out := rfl
@[simp] theorem snap_answer (s : State) (src : Src) (be w : Nat) (r : Src) : (s.answer src be w).snap r = s.snap r := by cases r <;> rfl

/-- A register without shadowed fields shows its readable bits. -/
theorem peek_unshadowed {a : Nat} {l : Loc} {w : RegRow} (hl : locate a = some l) (ho : 16 ≤ l.off) (hr : s.reachable l = true)
    (hrow : rowIn l.blk l.off = some w) (hs : w.shadow = 0) : s.peek src a = s.live src a (s.rdw a) &&& w.readable := by
  rw [peek_row hl ho hr hrow, if_neg fun h => h.1 hs]

/-- TB_SNAP shows a source the word it latched. -/
theorem peek_TB_SNAP (s : State) (src : Src) : s.peek src R.TB_SNAP.WSEQ.addr = (s.snap src).word &&& 0xFF03FFFF :=
  peek_unshadowed (a := 0x2001C) rfl (by decide) rfl rfl (by decide)

/-- TB_P_OFS shows a source the offset it latched. -/
theorem peek_TB_P_OFS (s : State) (src : Src) : s.peek src R.TB_P_OFS.OFS.addr = (s.snap src).pOfs &&& 0xFFFFFFFF :=
  peek_unshadowed (a := 0x20038) rfl (by decide) rfl rfl (by decide)

/-- TB_BOUND shows a source the tick it latched. -/
theorem peek_TB_BOUND (s : State) (src : Src) : s.peek src R.TB_BOUND.NS.addr = (s.snap src).bound &&& 0xFFFFFFFF :=
  peek_unshadowed (a := 0x20024) rfl (by decide) rfl rfl (by decide)

/-- What a source reads of its latches follows the latches alone. -/
theorem peek_latches_congr (h : t.snap r = s.snap r) :
    ∀ a ∈ [R.TB_SNAP.WSEQ.addr, R.TB_P_OFS.OFS.addr, R.TB_BOUND.NS.addr], t.peek r a = s.peek r a := by
  intro a ha
  simp only [List.mem_cons, List.not_mem_nil, or_false] at ha
  obtain rfl | rfl | rfl := ha
  · rw [peek_TB_SNAP, peek_TB_SNAP, h]
  · rw [peek_TB_P_OFS, peek_TB_P_OFS, h]
  · rw [peek_TB_BOUND, peek_TB_BOUND, h]

theorem land_word (w : Nat) : w &&& 0xFFFFFFFF = w % 2 ^ 32 := Nat.and_two_pow_sub_one_eq_mod w 32

theorem pOfs_lt (s : State) : s.pOfs < 2 ^ 32 := by
  unfold State.pOfs
  split
  · decide
  · exact sub32_lt _ _

/-- The fields of the word that a TB_NS read latches. -/
theorem bits_snapWord (s : State) :
    bits s.snapWord 31 24 = s.wseq % 256 ∧ bits s.snapWord 17 16 = b2n s.tb.actP ∧ bits s.snapWord 15 0 = s.frac := by
  have hf : s.frac < 65536 := Nat.mod_lt _ (by decide)
  have hb : b2n s.tb.actP < 2 := by cases s.tb.actP <;> decide
  simp only [State.snapWord, bits, p2, Nat.reducePow, Nat.reduceAdd, Nat.reduceSub]
  omega

theorem exec_tbNsRead (dt : Nat) (r : Reader) (s : State) : exec (.tbNsRead dt r) s = execTbNsRead dt r s := rfl
theorem exec_tbPeriodRead (dt : Nat) (r : Reader) (s : State) : exec (.tbPeriodRead dt r) s = execTbPeriodRead dt r s := rfl

/-- A read of TB_NS latches its pair for the source and answers the time. -/
theorem exec_tbNsRead_latches (hu : u = s.after dt) (hb : be < 16) (hr : u.reads src = true) :
    exec (.tbNsRead dt ⟨src, be⟩) s =
      .next ((u.putSnap src { u.snap src with word := u.snapWord, pOfs := u.pOfs }).answer src be u.now) := by
  rw [exec_tbNsRead]
  simp only [execTbNsRead, needs, ← hu, hb, hr, decide_true, if_true]

/-- A read of TB_PERIOD latches the tick of the boundary for the source and answers the index. -/
theorem exec_tbPeriodRead_latches (hu : u = s.after dt) (hb : be < 16) (hr : u.reads src = true) :
    exec (.tbPeriodRead dt ⟨src, be⟩) s = .next ((u.putSnap src { u.snap src with bound := u.tb.latB }).answer src be u.baseK) := by
  rw [exec_tbPeriodRead]
  simp only [execTbPeriodRead, needs, ← hu, hb, hr, decide_true, if_true]

/-- A read that latches for one source leaves what another source reads of its latches. -/
theorem peek_latches_other {n : Snap} {w : Nat} (hs : src ≠ .ring) (hr : r ≠ .ring) (h : r ≠ src) :
    ∀ a ∈ [R.TB_SNAP.WSEQ.addr, R.TB_P_OFS.OFS.addr, R.TB_BOUND.NS.addr],
      ((s.putSnap src n).answer src be w).peek r a = s.peek r a :=
  peek_latches_congr (by rw [snap_answer, snap_putSnap_other n hs hr h])

end

end Machine

open Machine

/-- Settles O8: what a source reads of the three registers is what its own latch holds, which a read of TB_NS or TB_PERIOD by the other source leaves. -/
theorem timeReadsLatchTheirPair : Obligations.TimeReadsLatchTheirPair := by
  unfold Obligations.TimeReadsLatchTheirPair
  refine ⟨?ns, ?period⟩
  case ns =>
    intro s dt u src be hu hb hr
    obtain ⟨hseq, hact, hfrac⟩ := bits_snapWord u
    have word : State.peek ((u.putSnap src { u.snap src with word := u.snapWord, pOfs := u.pOfs }).answer src be u.now) src
        R.TB_SNAP.WSEQ.addr = u.snapWord &&& 0xFF03FFFF := by
      rw [peek_TB_SNAP, snap_answer, snap_putSnap_same]
    refine ⟨_, exec_tbNsRead_latches hu hb hr, by simp, ?_, ?_, ?_, ?_, ?_, by simp, by simp,
      fun r hring hne => peek_latches_other (reads_ne_ring hr) hring hne⟩
    · exact (congrArg (bits · 31 24) word).trans ((bits_land_of_covers _ (by decide)).trans hseq)
    · exact (congrArg (bits · 17 16) word).trans ((bits_land_of_covers _ (by decide)).trans hact)
    · exact (congrArg (bits · 15 0) word).trans ((bits_land_of_covers _ (by decide)).trans hfrac)
    · rw [peek_TB_P_OFS, snap_answer, snap_putSnap_same, land_word, Nat.mod_eq_of_lt (pOfs_lt u)]
    · rw [peek_TB_BOUND, peek_TB_BOUND, snap_answer, snap_putSnap_same]
  case period =>
    intro s dt u src be hu hb hr
    refine ⟨_, exec_tbPeriodRead_latches hu hb hr, by simp, ?_, ?_, ?_, by simp, by simp,
      fun r hring hne => peek_latches_other (reads_ne_ring hr) hring hne⟩
    · rw [peek_TB_BOUND, snap_answer, snap_putSnap_same, land_word]
    · rw [peek_TB_SNAP, peek_TB_SNAP, snap_answer, snap_putSnap_same]
    · rw [peek_TB_P_OFS, peek_TB_P_OFS, snap_answer, snap_putSnap_same]

namespace Machine

/-! ### Indices and addresses -/

/-- The triplicated words all lie in the Margin block (R60). -/
theorem isTmr_below {a : Nat} (h : a < 0x3C0000) : isTmr a = false := by
  simp [isTmr, Nat.not_le.mpr h]

theorem isTmr_above {a : Nat} (h : 0x3C0340 ≤ a) : isTmr a = false := by
  simp [isTmr, Nat.not_lt.mpr h]

theorem cap_lt {i : Nat} (h : isCap i = true) : i < 8 := of_decide_eq_true h

theorem fb_lt {k : Nat} (h : isFb k = true) : k < 16 := of_decide_eq_true h

/-! ### Reads that take what they show -/

section
variable {s t u : State} {src r : Src} {dt be i : Nat}

/-- Showing a capture FIFO in CAP_STAT and CAP_STAMP changes registers alone. -/
theorem showCap_tb (s : State) (i : Nat) : (s.showCap i).tb = s.tb := by
  unfold State.showCap
  dsimp only
  split <;> simp

theorem showCap_out (s : State) (i : Nat) : (s.showCap i).out = s.out := by
  unfold State.showCap
  dsimp only
  split <;> simp

/-- LEVEL shows the number of entries. -/
theorem rd_showCap_level (s : State) (hi : isCap i = true) :
    (s.showCap i).rd (R.CAP_STAT.LEVEL.j i) = (tget [] s.tb.caps i).length % 8 := by
  have hlt := cap_lt hi
  have plain : isTmr (R.CAP_STAT.LEVEL.j i).addr = false :=
    isTmr_below (by simp only [Fld.j, R.CAP_STAT.LEVEL]; omega)
  have stamp : ∀ (t : State) (v : Nat), (t.wr (R.CAP_STAMP.NS.j i) v).rd (R.CAP_STAT.LEVEL.j i) = t.rd (R.CAP_STAT.LEVEL.j i) := fun t v =>
    rd_wr_other _ _ _ _ (by simp only [Fld.j, R.CAP_STAT.LEVEL, R.CAP_STAMP.NS]; omega)
      (by simp only [Fld.j, R.CAP_STAMP.NS, barSize]; omega)
  have level : ∀ n : Nat, (s.wr (R.CAP_STAT.LEVEL.j i) n).rd (R.CAP_STAT.LEVEL.j i) = n % 8 := fun n =>
    rd_wr_same _ _ _ plain (by simp [Fld.j, R.CAP_STAT.LEVEL])
  have wseq : ∀ (t : State) (v : Nat), (t.wr (R.CAP_STAT.HEAD_WSEQ.j i) v).rd (R.CAP_STAT.LEVEL.j i) = t.rd (R.CAP_STAT.LEVEL.j i) :=
    fun t v => rd_wr_apart t (R.CAP_STAT.HEAD_WSEQ.j i) _ v rfl plain (by simp [Fld.j, R.CAP_STAT.HEAD_WSEQ])
      (.inr (by simp [Fld.j, R.CAP_STAT.HEAD_WSEQ, R.CAP_STAT.LEVEL]))
  have pol : ∀ (t : State) (v : Nat), (t.wr (R.CAP_STAT.HEAD_POL.j i) v).rd (R.CAP_STAT.LEVEL.j i) = t.rd (R.CAP_STAT.LEVEL.j i) :=
    fun t v => rd_wr_apart t (R.CAP_STAT.HEAD_POL.j i) _ v rfl plain (by simp [Fld.j, R.CAP_STAT.HEAD_POL])
      (.inr (by simp [Fld.j, R.CAP_STAT.HEAD_POL, R.CAP_STAT.LEVEL]))
  unfold State.showCap
  dsimp only
  split
  · next hq => rw [stamp, level, hq]
  · next e q hq => rw [State.wrB, pol, wseq, stamp, level, hq]

/-- The FIFO of capture input i replaced. -/
def State.putCaps (s : State) (i : Nat) (l : List CapEntry) : State :=
  { s with tb := { s.tb with caps := tput [] s.tb.caps i l } }

@[simp] theorem caps_putCaps (s : State) (i : Nat) (l : List CapEntry) : tget [] (s.putCaps i l).tb.caps i = l :=
  tget_tput_same _ _ _ _

/-- A read of CAP_STAMP takes the oldest entry, where no edge came on the tick. -/
theorem capRead_quiet {e : CapEntry} {q : List CapEntry} (hq : tget [] s.tb.caps i = e :: q)
    (hn : (s.log.caps.any fun x => x.1 == i) = false) : s.capRead i = ((s.putCaps i q).showCap i, e.ns) := by
  have quiet : s.log.caps.find? (fun x => x.1 == i) = none := List.find?_eq_none.mpr fun x hx h =>
    absurd (List.any_eq_true.mpr ⟨x, hx, h⟩) (Bool.eq_false_iff.mp hn)
  unfold State.capRead
  simp only [quiet, hq]
  rfl

theorem exec_capStampRead (dt : Nat) (r : Reader) (i : Nat) (s : State) : exec (.capStampRead dt r i) s = execCapStampRead dt r i s := rfl

theorem exec_capStampRead_takes {e : CapEntry} {q : List CapEntry} (hu : u = s.after dt) (hb : be < 16) (hi : isCap i = true)
    (hr : u.reads src = true) (hq : tget [] u.tb.caps i = e :: q) (hn : (u.log.caps.any fun x => x.1 == i) = false) :
    exec (.capStampRead dt ⟨src, be⟩ i) s = .next (((u.putCaps i q).showCap i).answer src be e.ns) := by
  rw [exec_capStampRead]
  simp only [execCapStampRead, needs, ← hu, hb, hr, hi, capRead_quiet hq hn, decide_true, Bool.and_self, if_true]

/-- A source that may write a domain's registers reads them. -/
theorem reads_of_mayWrite {d : Nat} (h : s.mayWrite src d = true) : s.reads src = true ∧ s.dom d = true := by
  simpa only [State.mayWrite, State.reads, Bool.and_eq_true] using h

/-- A read in a domain that is on is answered with what the register gives. -/
theorem readAt_on {d : Nat} (h : s.mayWrite src d = true) (a be : Nat) (f : State → State × Nat) :
    s.readAt src d a be f = (f s).1.answer src be (f s).2 := by
  obtain ⟨hr, hd⟩ := reads_of_mayWrite h
  simp only [State.readAt, hr, hd, Bool.not_true, Bool.false_eq_true, if_false, if_true]

theorem exec_fbLatchPosRead (dt : Nat) (r : Reader) (k : Nat) (s : State) :
    exec (.fbLatchPosRead dt r k) s = execFbLatchPosRead dt r k s := rfl

theorem exec_fbLatchPosRead_on {k : Nat} (hu : u = s.after dt) (hb : be < 16) (hk : isFb k = true) (hm : u.mayWrite src 21 = true) :
    exec (.fbLatchPosRead dt ⟨src, be⟩ k) s = .next ((u.latchRead k).1.answer src be (u.latchRead k).2) := by
  rw [exec_fbLatchPosRead]
  simp only [execFbLatchPosRead, needs, ← hu, hb, hk, readAt_on hm, decide_true, Bool.and_self, if_true]

/-- A read of a position latch leaves it empty. -/
theorem rd_latchRead {k : Nat} (hk : isFb k = true) :
    (s.latchRead k).1.rd (R.FB_LATCH_POS.VALUE.i k) = 0 ∧ (s.latchRead k).1.rd (R.FB_STAT.LATCH_FULL.i k) = 0 := by
  have hlt := fb_lt hk
  constructor
  · refine (rd_wr_other _ _ _ _ ?_ ?_).trans (rd_wr_same _ _ _ (isTmr_above ?_) ?_) <;>
      simp only [Fld.i, R.FB_LATCH_POS.VALUE, R.FB_STAT.LATCH_FULL, barSize] <;> omega
  · refine rd_wr_same _ _ _ (isTmr_above ?_) ?_ <;> simp only [Fld.i, R.FB_STAT.LATCH_FULL] <;> omega

theorem exec_resBRead (dt : Nat) (r : Reader) (s : State) : exec (.resBRead dt r) s = execResBRead dt r s := rfl

theorem exec_resBRead_on {p : Nat} (hu : u = s.after dt) (hb : be < 16) (hp : portOf src = some p) (hm : u.mayWrite src 15 = true) :
    exec (.resBRead dt ⟨src, be⟩) s = .next ((u.resRead p).1.answer src be (u.resRead p).2) := by
  rw [exec_resBRead]
  simp only [execResBRead, needs, ← hu, hb, hp, readAt_on hm, decide_true, if_true]

theorem fifo_congr (h : t.dct = s.dct) (p : Nat) : t.fifo p = s.fifo p := by
  rw [State.fifo, State.fifo, h]

@[simp] theorem fifo_putFifo (s : State) (p : Nat) (l : List ResEntry) : (s.putFifo p l).fifo p = l := by
  by_cases hp : p = 0 <;> simp [State.putFifo, State.fifo, hp]

@[simp] theorem putFifo_out (s : State) (p : Nat) (l : List ResEntry) : (s.putFifo p l).out = s.out := by
  by_cases hp : p = 0 <;> simp [State.putFifo, hp]

/-- A read of RES_B takes the oldest result. -/
theorem resRead_takes {p : Nat} {e : ResEntry} {l : List ResEntry} (h : s.fifo p = e :: l) :
    (s.resRead p).2 = e.b ∧ (s.resRead p).1.fifo p = l ∧ (s.resRead p).1.out = s.out := by
  have taken : (s.resRead p).1.fifo p = (s.putFifo p (s.fifo p).tail).fifo p := rfl
  have left : (s.resRead p).1.out = (s.putFifo p (s.fifo p).tail).out := rfl
  refine ⟨?_, ?_, left.trans (putFifo_out _ _ _)⟩
  · simp only [State.resRead, h, List.headD_cons]
  · rw [taken, fifo_putFifo, h, List.tail_cons]

end

end Machine

open Machine

/-- Settles O11: each read answers with the value of its register before it takes what the register shows. -/
theorem readsAnswerTheirSource : Obligations.ReadsAnswerTheirSource := by
  unfold Obligations.ReadsAnswerTheirSource
  refine ⟨?ns, ?period, ?stamp, ?latch, ?result⟩
  case ns =>
    intro s dt u src be hu hb hr
    exact ⟨_, exec_tbNsRead_latches hu hb hr, by simp⟩
  case period =>
    intro s dt u src be hu hb hr
    exact ⟨_, exec_tbPeriodRead_latches hu hb hr, by simp⟩
  case stamp =>
    intro s dt u src i be e q hu hb hi hr hq hn
    refine ⟨_, exec_capStampRead_takes hu hb hi hr hq hn, ?_, ?_, ?_⟩
    · rw [answer_out, showCap_out]
      rfl
    · rw [answer_tb, showCap_tb, caps_putCaps]
    · rw [rd_congr (answer_regs _ _ _ _), rd_showCap_level _ hi, caps_putCaps]
  case latch =>
    intro s dt u src k be hu hb hk hm
    obtain ⟨hvalue, hfull⟩ := rd_latchRead (s := u) hk
    refine ⟨_, exec_fbLatchPosRead_on hu hb hk hm, ?_, ?_, ?_⟩
    · rw [answer_out]
      simp [State.latchRead]
    · rw [rd_congr (answer_regs _ _ _ _), hvalue]
    · rw [rd_congr (answer_regs _ _ _ _), hfull]
  case result =>
    intro s dt u src p be e l hu hb hp hm hl
    obtain ⟨hvalue, hfifo, hout⟩ := resRead_takes hl
    refine ⟨_, exec_resBRead_on hu hb hp hm, ?_, ?_⟩
    · rw [answer_out, hvalue, hout]
    · exact (fifo_congr rfl p).trans hfifo

end Sys2Proof
end

section
namespace Sys2Proof

/-! PROOFS. The clock and its reference (R72, R75 to R79, R86): wraps, steps and slews, the coast, PPS, and the calibration of a time-stamp unit. -/

namespace Machine

/-! ### Wraps, steps and slews (R75, R76, R79) -/

section
variable {s t u : State} {src : Src} {dt v : Nat}

/-- A wrap adds 1 to the sequence of the active domain alone. -/
theorem wrapNow_tb (s : State) :
    s.wrapNow.tb.wrapDue = false ∧
      s.wrapNow.tb.wseqP = (if s.tb.actP then (s.tb.wseqP + 1) % 256 else s.tb.wseqP) ∧
      s.wrapNow.tb.wseqL = (if s.tb.actP then s.tb.wseqL else (s.tb.wseqL + 1) % 256) := by
  cases h : s.tb.actP <;> simp [State.wrapNow, h]

theorem rd_wrapNow (s : State) : s.wrapNow.rd R.TB_STAT.WRAP = 1 := rd_flag_same _ _ (by decide) rfl

theorem exec_tbWrap (s : State) : exec .tbWrap s = execTbWrap s := rfl

/-- TB_WRAP signals a wrap that is due now, else at the clock that covers it. -/
theorem exec_tbWrap_runs (hu : u = if s.tb.wrapDue then s else s.after (s.clocksFor (p2 64 - s.acc))) (hr : s.tb.run = true) :
    exec .tbWrap s = .next u.wrapNow := by
  rw [exec_tbWrap, hu]
  cases hw : s.tb.wrapDue <;> simp [execTbWrap, hr, hw]

theorem dropReq_tb (r : CmtReq) (s : State) : (s.dropReq r).tb = s.tb := by
  unfold State.dropReq
  exact (forEach_keeps State.tb (fun _ _ => State.showPend_tb _ _) _).trans (by simp)

/-- What a step empties of the time base: queued instants, captured edges, and a wrap not yet signalled. -/
theorem stepEffects_tb (s : State) : s.stepEffects.tb = { s.tb with evq := [], caps := [], wrapDue := false } := by
  unfold State.stepEffects
  extract_lets cut s1 s2 s3 s4
  have h1 : s1.tb = s.tb := forEach_keeps State.tb (fun _ _ => dropReq_tb _ _) s
  have h2 : s2.tb = s1.tb := by
    unfold s2
    split <;> simp
  have h3 : s3.tb = s2.tb := forEach_keeps State.tb (fun _ _ => by simp) s2
  have h4 : s4.tb = s3.tb := forEach_keeps State.tb (fun _ _ => by simp) s3
  show { s4.tb with evq := [], caps := [], wrapDue := false } = _
  rw [h4, h3, h2, h1]

/-- The accumulator of the active domain replaced. -/
def State.putAcc (s : State) (a : Nat) : State :=
  if s.tb.actP then { s with tb := { s.tb with accP := a } } else { s with tb := { s.tb with accL := a } }

theorem acc_putAcc (s : State) (a : Nat) : (s.putAcc a).acc = a := by
  cases h : s.tb.actP <;> simp [State.putAcc, State.acc, h]

theorem acc_stepEffects (s : State) : s.stepEffects.acc = s.acc := by
  rw [State.acc, stepEffects_tb, State.acc]

/-- A new lattice leaves the clock and what it feeds. -/
theorem setLattice_clock (s : State) (b k : Nat) :
    (s.setLattice b k).acc = s.acc ∧ (s.setLattice b k).tb.evq = s.tb.evq ∧ (s.setLattice b k).tb.caps = s.tb.caps := by
  simp [State.setLattice, State.acc]

/-- A step moves the accumulator of the active domain. -/
theorem stepF_tb (s : State) (x : Int) :
    (s.stepF x).acc = unsx 64 ((s.acc : Int) + x) ∧ (s.stepF x).tb.evq = [] ∧ (s.stepF x).tb.caps = [] := by
  have he : s.stepF x = (s.putAcc (unsx 64 ((s.acc : Int) + x))).stepEffects.setLattice s.tb.latB s.baseK := by
    simp only [State.stepF, State.putAcc]
  obtain ⟨hacc, hevq, hcaps⟩ :=
    setLattice_clock (s.putAcc (unsx 64 ((s.acc : Int) + x))).stepEffects s.tb.latB s.baseK
  rw [he, hacc, hevq, hcaps]
  refine ⟨?_, ?_, ?_⟩
  · rw [acc_stepEffects, acc_putAcc]
  · rw [stepEffects_tb]
  · rw [stepEffects_tb]

/-- Disarming a source writes CMT_STAT alone. -/
theorem rd_disarm (s : State) (src : Src) {x : Fld} (h : x.addr ≠ 0x10020) : (s.disarm src).rd x = s.rd x := by
  cases src with
  | host => exact rd_wr_other s R.CMT_STAT.ARMED_H x 0 h (by decide)
  | scribe => exact rd_wr_other s R.CMT_STAT.ARMED_S x 0 h (by decide)
  | ring => rfl

/-- A guarded write by an armed source is performed. -/
theorem keyed_armed (h : s.armed src = true) (a : Nat) (f : State → State) : s.keyed src a f = f (s.disarm src) := by
  simp only [State.keyed, h, if_true]

theorem exec_tbStep (dt : Nat) (src : Src) (v : Nat) (s : State) : exec (.tbStep dt src v) s = execTbStep dt src v s := rfl

theorem exec_tbStep_armed (hu : u = s.after dt) (hv : isWord v = true) (hr : u.reads src = true) (ha : u.armed src = true) :
    exec (.tbStep dt src v) s = .next ((u.disarm src).tbStepWrite v) := by
  rw [exec_tbStep]
  simp only [execTbStep, needs, ← hu, hv, hr, keyed_armed ha, if_true]

theorem mode_disarm (s : State) (src : Src) : (s.disarm src).mode = s.mode := rd_disarm s src (by decide)

/-- In BOOT and LISTEN a write of TB_STEP moves the running clock. -/
theorem tbStepWrite_moves (hm : s.mode ≤ 1) (hr : s.tb.run = true) : s.tbStepWrite v = s.stepBy (sx 32 v) := by
  simp [State.tbStepWrite, hm, hr]

theorem tbStepWrite_refused (hm : 2 ≤ s.mode) : s.tbStepWrite v = s.flag R.TB_STAT.STEP_REFUSED := by
  simp [State.tbStepWrite, show ¬ s.mode ≤ 1 by omega]

theorem exec_tbAdj (dt : Nat) (src : Src) (v : Nat) (s : State) : exec (.tbAdj dt src v) s = execTbAdj dt src v s := rfl

/-- The remainder of the slew replaced, and shown. -/
def State.putRem (s : State) (r : Int) : State :=
  { s with tb := { s.tb with remF := r } }.wr R.TB_ADJ_REM.REM (unsx 32 (remNs r))

theorem putRem_remF (s : State) (r : Int) : (s.putRem r).tb.remF = r := by simp [State.putRem]

theorem unsx_lt (n : Nat) (x : Int) : unsx n x < p2 n := by
  have hp : (0 : Int) < (p2 n : Int) := by exact_mod_cast Nat.two_pow_pos n
  have := Int.emod_lt_of_pos x hp
  have := Int.emod_nonneg x hp.ne'
  unfold unsx
  omega

theorem rd_putRem (s : State) (r : Int) : (s.putRem r).rd R.TB_ADJ_REM.REM = unsx 32 (remNs r) :=
  (rd_wr_same _ _ _ (by decide) (by decide)).trans (Nat.mod_eq_of_lt (unsx_lt 32 _))

/-- In LEAD a write of TB_ADJ whose sum stays within 1,000,000 ns adds to the remainder. -/
theorem exec_tbAdj_lead (hu : u = s.after dt) (hv : isWord v = true) (hr : u.reads src = true) (hm : u.mode = 2)
    (hb : (u.tb.remF + sx 32 v * 4294967296).natAbs ≤ 1000000 * 4294967296) :
    exec (.tbAdj dt src v) s = .next (u.putRem (u.tb.remF + sx 32 v * 4294967296)) := by
  rw [exec_tbAdj]
  simp only [execTbAdj, needs, ← hu, hv, hr, if_true]
  exact congrArg _ (if_neg (by simp [hm]; omega))

/-! ### The reference (R72) -/

theorem exec_refLoss (dt : Nat) (s : State) : exec (.refLoss dt) s = execRefLoss dt s := rfl

/-- The coast that follows a loss of the reference. -/
def State.coasting (s : State) : State := { s with tb := { s.tb with coast := some (s.tb.rim + 10000000) } }

theorem exec_refLoss_runs (hu : u = s.after dt) (hr : u.tb.run = true) :
    exec (.refLoss dt) s = .next ((u.flag R.TB_STAT.REF_LOSS).coasting.journal 5 0 true noUnit) := by
  rw [exec_refLoss]
  simp only [execRefLoss, ← hu, hr, if_true]
  rfl

/-! ### PPS (R77, R78) -/

/-- An accepted edge keeps the reference edge and its clock. -/
theorem ppsAccept_ref (s : State) (e : Rat) :
    (s.ppsAccept e).tb.ppsRef = s.tb.ppsRef ∧ (s.ppsAccept e).tb.ppsAt = s.tb.ppsAt := by
  unfold State.ppsAccept
  extract_lets s1 s2 tb2 s3 g r s4 n tb4 s5
  have h3 : s3.tb.ppsRef = s.tb.ppsRef ∧ s3.tb.ppsAt = s.tb.ppsAt := by simp [s3, tb2, s2, s1]
  have h5 : s5.tb.ppsRef = s.tb.ppsRef ∧ s5.tb.ppsAt = s.tb.ppsAt := by
    have h4 : s4.tb = s3.tb := by
      unfold s4
      split <;> simp
    simpa [s5, tb4, h4] using h3
  split
  · split
    · simpa using h5
    · exact h5
  · exact h3

/-- The present instant, with the slew so far, is the reference edge. -/
def State.ppsMark (s : State) : State :=
  { s with tb := { s.tb with ppsRef := some (s.stamp16, s.tb.slewSum), ppsAt := s.tb.rim } }

/-- A selected edge becomes the reference; the interval it ends is accepted, or leaves no run of accepted intervals. -/
theorem ppsEdge_cases (s : State) :
    (∃ e, s.tb.ppsRef ≠ none ∧ s.ppsEdge = s.ppsMark.ppsAccept e) ∨ s.ppsEdge.tb = { s.ppsMark.tb with ppsRun := 0 } := by
  rcases hr : s.tb.ppsRef with _ | ⟨st, sl⟩
  · exact .inr (by simp [State.ppsEdge, hr, State.ppsMark])
  · cases hf : decide (threeSec ≤ s.tb.rim - s.tb.ppsAt)
    · simp only [State.ppsEdge, hr, hf, Option.isNone_some, Bool.or_self]
      split
      · exact .inl ⟨_, by simp, rfl⟩
      · exact .inr rfl
    · exact .inr (by simp [State.ppsEdge, hr, hf, State.ppsMark])

theorem ppsEdge_ref (s : State) :
    s.ppsEdge.tb.ppsRef = some (s.stamp16, s.tb.slewSum) ∧ s.ppsEdge.tb.ppsAt = s.tb.rim ∧
      (s.tb.ppsRef = none → s.ppsEdge.tb.ppsRun = 0) := by
  obtain ⟨e, hne, he⟩ | he := ppsEdge_cases s
  · obtain ⟨href, hat⟩ := ppsAccept_ref s.ppsMark e
    rw [he]
    exact ⟨href, hat, fun hn => absurd hn hne⟩
  · rw [he]
    exact ⟨rfl, rfl, fun _ => rfl⟩

theorem exec_ppsEdge (dt : Nat) (b : Bool) (s : State) : exec (.ppsEdge dt b) s = execPpsEdge dt b s := rfl

theorem exec_ppsEdge_taken {b : Bool} (hu : u = s.after dt) (ha : u.alive = true) (hm : u.mode ≠ 0) (ht : u.taken 0 = true)
    (he : (u.rd R.TB_CTRL.PPS_EDGE == 1) ≠ b) : exec (.ppsEdge dt b) s = .next u.ppsEdge := by
  rw [exec_ppsEdge]
  simp [execPpsEdge, ← hu, ha, hm, ht, he]

theorem exec_ppsTimeout (s : State) : exec .ppsTimeout s = execPpsTimeout s := rfl

/-- The lock dropped, and the local clock in holdover. -/
def State.ppsLost (s : State) : State :=
  { ((s.wr R.TB_STAT.PPS_LOCK 0).wr R.TB_CTRL.L_SRC 3) with tb := { s.tb with ppsRun := 0 } }

theorem exec_ppsTimeout_on (hr : s.tb.run = true) (hp : s.ppsOn = true) :
    exec .ppsTimeout s = .next (s.runRim (s.tb.ppsAcc + threeSec)).ppsLost := by
  rw [exec_ppsTimeout]
  simp only [execPpsTimeout, hr, hp, Bool.and_self, if_true]
  rfl

theorem rd_ppsLost (s : State) : s.ppsLost.rd R.TB_STAT.PPS_LOCK = 0 ∧ s.ppsLost.rd R.TB_CTRL.L_SRC = 3 := by
  have hregs : s.ppsLost.regs = ((s.wr R.TB_STAT.PPS_LOCK 0).wr R.TB_CTRL.L_SRC 3).regs := by rw [State.ppsLost]
  have hlock : ((s.wr R.TB_STAT.PPS_LOCK 0).wr R.TB_CTRL.L_SRC 3).rd R.TB_STAT.PPS_LOCK = (s.wr R.TB_STAT.PPS_LOCK 0).rd R.TB_STAT.PPS_LOCK :=
    rd_wr_other _ _ _ _ (by decide) (by decide)
  rw [rd_congr hregs, rd_congr hregs, hlock, rd_wr_same _ _ _ (by decide) (by decide), rd_wr_same _ _ _ (by decide) (by decide)]
  exact ⟨by decide, by decide⟩

/-- Through a ball that its function drives, an edge leaves the device. -/
theorem emit_edge {c i a w : Nat} {l : Bool} (ht : s.taken (outBank c i) = true) (hs : s.scanned c = false) :
    s.emit (.edge c i a w l) = { s with out := .edge c i a w l :: s.out } := by
  simp [State.emit, ht, hs]

/-- Where software has written nothing on the tick, a hardware update is performed. -/
theorem rwh_quiet (h : s.log.wrote = []) (f : Fld) (v : Nat) : s.rwh f v = s.wr f v := by
  simp [State.rwh, h]

theorem exec_ppsOutPulse (s : State) : exec .ppsOutPulse s = execPpsOutPulse s := rfl

theorem exec_ppsOutPulse_reached (hu : s.reach (s.dueOf R.PPS_OUT_AT.AT) = some u) (ha : s.alive = true) (hm : s.mode ≠ 0)
    (hw : s.act R.PPS_CFG.PPS_WIDTH ≠ 0) (hl : u.log.wrote = []) :
    exec .ppsOutPulse s = .next ((u.emit (.edge 0 0 (s.dueOf R.PPS_OUT_AT.AT) (u.act R.PPS_CFG.PPS_WIDTH * 1000) true)).wr R.PPS_OUT_AT.AT
      (add32 (s.dueOf R.PPS_OUT_AT.AT) 1000000000)) := by
  rw [exec_ppsOutPulse, ← rwh_quiet (by rw [State.emit_log, hl])]
  simp [execPpsOutPulse, ha, hm, hw, hu, outPps]

theorem add32_lt (a b : Nat) : add32 a b < 2 ^ 32 := Nat.mod_lt _ (by decide)

/-- A sum modulo 2^32 written to a register of one field. -/
theorem rd_wr_add32 (s : State) {f : Fld} (a b : Nat) (h : isTmr f.addr = false) (hh : f.hi = 31) (hl : f.lo = 0) :
    (s.wr f (add32 a b)).rd f = add32 a b := by
  rw [rd_wr_same _ _ _ h (by omega), hh, hl]
  exact Nat.mod_eq_of_lt (add32_lt a b)

/-! ### Calibration (R86) -/

/-- The tests running and waiting are shown in SPR_STAT. -/
theorem rd_unitError (s : State) (n r : Nat) {x : Fld} (h : x.addr ≠ 0x7C0014) : (s.unitError n r).rd x = s.rd x := by
  unfold State.unitError
  split
  · exact rd_congr rfl x
  · unfold State.runTests State.showTests State.wrU
    rw [rd_wr_other _ _ _ _ h (by decide), rd_wr_other _ _ _ _ h (by decide)]
    exact rd_congr rfl x

theorem rd_journalBy (s : State) (n c k : Nat) (b : Bool) (w : Nat) {x : Fld} (h : x.addr ≠ 0x740210) :
    (s.journalBy n c k b w).rd x = s.rd x := by
  unfold State.journalBy State.journalAs
  dsimp only
  split
  · exact rd_congr (State.toMerge_regs _ _ _ _ _) x
  · exact rd_offer s _ x h

/-- A time-stamp unit that fails its calibration is flagged. -/
def State.tsuFlags (s : State) (k : Nat) : State := (s.flagBit R.TSU_FAIL.FAIL k).flag R.TB_STAT.TSU_FAULT

/-- The records of unit k count as uncalibrated. -/
def State.tsuUncal (s : State) (k : Nat) : State := { s with tb := { s.tb with uncal := s.tb.uncal ||| p2 k } }

theorem exec_tsuCalibration (dt k ps : Nat) (s : State) : exec (.tsuCalibration dt k ps) s = execTsuCalibration dt k ps s := rfl

theorem exec_tsuCalibration_fails {k ps : Nat} (hu : u = s.after dt) (hk : k < 24) (hp : 500 < ps) (hr : u.tb.run = true) :
    exec (.tsuCalibration dt k ps) s =
      .next ((((u.tsuFlags k).tsuUncal k).journalBy k 5 1 true (0x5000 + k)).unitError (0x5000 + k) 0) := by
  rw [exec_tsuCalibration]
  simp only [execTsuCalibration, needs, ← hu, hk, hr, hp, decide_true, Bool.and_self, if_true]
  rfl

theorem exec_tsuCalibration_passes {k ps : Nat} (hu : u = s.after dt) (hk : k < 24) (hp : ps ≤ 500) :
    exec (.tsuCalibration dt k ps) s = .next u := by
  rw [exec_tsuCalibration]
  simp [execTsuCalibration, needs, ← hu, hk, hp]

theorem bit_eq_testBit (w b : Nat) : bit w b = w.testBit b := by
  simp only [bit, p2, Nat.testBit, Nat.shiftRight_eq_div_pow, Nat.one_and_eq_mod_two]
  rcases Nat.mod_two_eq_zero_or_one (w / 2 ^ b) with h | h <;> simp [h]

theorem rd_tsuFlags (s : State) {k : Nat} (hk : k < 24) :
    (s.tsuFlags k).rd R.TB_STAT.TSU_FAULT = 1 ∧ bit ((s.tsuFlags k).rd R.TSU_FAIL.FAIL) k = true := by
  refine ⟨rd_flag_same _ _ (by decide) rfl, ?_⟩
  have raised : (s.flagBit R.TSU_FAIL.FAIL k).raw R.TSU_FAIL.FAIL.addr = s.raw R.TSU_FAIL.FAIL.addr ||| p2 (0 + k) :=
    raw_setMask_same _ _ _
  rw [State.tsuFlags, rd_flag_other _ _ _ (by decide) (by decide), State.rd, rdw_plain _ (by decide), raised, bit_eq_testBit, testBit_bits]
  simp [R.TSU_FAIL.FAIL, p2, hk]

end

end Machine

open Machine

/-- Settles O12: each command is the update of the time base that its clause names; what a step empties lies in the same record. -/
theorem clockCommandsMoveTheTimeBase : Obligations.ClockCommandsMoveTheTimeBase := by
  unfold Obligations.ClockCommandsMoveTheTimeBase
  refine ⟨?wrap, ?step, ?refused, ?slew, ?loss⟩
  case wrap =>
    intro s u hu hr
    exact ⟨_, exec_tbWrap_runs hu hr, rd_wrapNow u, wrapNow_tb u⟩
  case step =>
    intro s dt u src v hu hv hr ha hm hrun
    refine ⟨_, exec_tbStep_armed hu hv hr ha, ?_⟩
    rw [tbStepWrite_moves (by rw [mode_disarm]; exact hm) (by rw [State.disarm_tb]; exact hrun)]
    have hacc : (u.disarm src).acc = u.acc := by rw [State.acc, State.acc, State.disarm_tb]
    rw [← hacc]
    exact stepF_tb (u.disarm src) (sx 32 v * 4294967296)
  case refused =>
    intro s dt u src v hu hv hr ha hm
    refine ⟨_, exec_tbStep_armed hu hv hr ha, ?_⟩
    rw [tbStepWrite_refused (by rw [mode_disarm]; exact hm)]
    exact ⟨rd_flag_same _ _ (by decide) rfl, by simp⟩
  case slew =>
    intro s dt u src v hu hv hr hm hb
    refine ⟨_, exec_tbAdj_lead hu hv hr hm hb, putRem_remF _ _, ?_⟩
    rw [rd_putRem, putRem_remF]
  case loss =>
    intro s dt u hu hr
    refine ⟨_, exec_refLoss_runs hu hr, ?_, ?_⟩
    · rw [rd_journal _ _ _ _ _ _ (by decide)]
      exact rd_flag_same u R.TB_STAT.REF_LOSS (by decide) rfl
    · simp [State.coasting]

/-- Settles O13: a PPS edge has the same reference whether its interval is accepted or not; the other commands are a few register updates in a row. -/
theorem ppsAndCalibrationCommands : Obligations.PpsAndCalibrationCommands := by
  unfold Obligations.PpsAndCalibrationCommands
  refine ⟨?edge, ?timeout, ?pulse, ?fails, ?passes⟩
  case edge =>
    intro s dt u b hu ha hm ht he
    exact ⟨_, exec_ppsEdge_taken hu ha hm ht he, ppsEdge_ref u⟩
  case timeout =>
    intro s hr hp
    obtain ⟨hlock, hsrc⟩ := rd_ppsLost (s.runRim (s.tb.ppsAcc + threeSec))
    exact ⟨_, exec_ppsTimeout_on hr hp, hlock, hsrc, rfl⟩
  case pulse =>
    intro s u hu ha hm hw ht hs hl
    refine ⟨_, exec_ppsOutPulse_reached hu ha hm hw hl, ?_, rd_wr_add32 _ _ _ (by decide) rfl rfl⟩
    rw [State.wr_out, emit_edge ht hs]
  case fails =>
    intro s dt u k ps hu hk hp hr
    obtain ⟨hfault, hfail⟩ := rd_tsuFlags u hk
    refine ⟨_, exec_tsuCalibration_fails hu hk hp hr, ?_, ?_, ?_⟩
    · rw [rd_unitError _ _ _ (by decide), rd_journalBy _ _ _ _ _ _ (by decide)]
      exact hfault
    · rw [rd_unitError _ _ _ (by decide), rd_journalBy _ _ _ _ _ _ (by decide)]
      exact hfail
    · simp [State.tsuUncal, State.tsuFlags, p2]
  case passes =>
    intro s dt u k ps hu hk hp
    exact ⟨u, exec_tsuCalibration_passes hu hk hp, rfl⟩

end Sys2Proof
end

section
namespace Sys2Proof

/-! PROOFS. Captures and event outputs (R89 to R95): the queue of an event output, pulses of trains and conversion starts, and a window that closes on the tick on which software writes its settings. -/

namespace Machine

/-! ### The queue of an event output (R92) -/

theorem mem_insTick {now t x : Nat} {l : List Nat} : x ∈ insTick now t l ↔ x = t ∨ x ∈ l := by
  induction l with
  | nil => simp [insTick]
  | cons a l ih =>
    rw [insTick]
    split
    · simp
    · simp only [List.mem_cons, ih]
      tauto

theorem length_insTick (now t : Nat) (l : List Nat) : (insTick now t l).length = l.length + 1 := by
  induction l with
  | nil => rfl
  | cons a l ih =>
    rw [insTick]
    split
    · rfl
    · simp [ih]

section
variable {s t u : State} {src : Src} {dt j v x : Nat}

/-- The queue of output j replaced. -/
def State.putEvq (s : State) (j : Nat) (l : List Nat) : State :=
  { s with tb := { s.tb with evq := tput [] s.tb.evq j l } }

@[simp] theorem putEvq_regs (s : State) (j : Nat) (l : List Nat) : (s.putEvq j l).regs = s.regs := rfl
@[simp] theorem putEvq_mem (s : State) (j : Nat) (l : List Nat) : (s.putEvq j l).mem = s.mem := rfl
@[simp] theorem putEvq_out (s : State) (j : Nat) (l : List Nat) : (s.putEvq j l).out = s.out := rfl

@[simp] theorem evq_putEvq_same (s : State) (j : Nat) (l : List Nat) : tget [] (s.putEvq j l).tb.evq j = l := tget_tput_same _ _ _ _

theorem evq_putEvq_other (s : State) {j k : Nat} (l : List Nat) (h : k ≠ j) :
    tget [] (s.putEvq j l).tb.evq k = tget [] s.tb.evq k := tget_tput_other _ _ _ _ h

@[simp] theorem showEvq_tb (s : State) (j : Nat) : (s.showEvq j).tb = s.tb := by
  unfold State.showEvq
  dsimp only
  split <;> simp

@[simp] theorem showEvq_mem (s : State) (j : Nat) : (s.showEvq j).mem = s.mem := by
  unfold State.showEvq
  dsimp only
  split <;> simp

@[simp] theorem showEvq_out (s : State) (j : Nat) : (s.showEvq j).out = s.out := by
  unfold State.showEvq
  dsimp only
  split <;> simp

theorem evtStat_plain (hj : isCap j = true) : isTmr (R.EVT_STAT.LATE.j j).addr = false := by
  have hlt := cap_lt hj
  exact isTmr_below (by simp only [Fld.j, R.EVT_STAT.LATE]; omega)

/-- The fields of EVT_STAT do not change when EVT_AT is written. -/
theorem rd_wr_evtAt (s : State) {f : Fld} (v : Nat) (hj : isCap j = true) (hf : f.addr = (R.EVT_STAT.LATE.j j).addr) :
    (s.wr (R.EVT_AT.AT.j j) v).rd f = s.rd f := by
  have hlt := cap_lt hj
  refine rd_wr_other _ _ _ _ (hf ▸ ?_) ?_
  · simp only [Fld.j, R.EVT_STAT.LATE, R.EVT_AT.AT]; omega
  · simp only [Fld.j, R.EVT_AT.AT, barSize]; omega

/-- QLEVEL shows how many instants are queued. -/
theorem rd_showEvq_qlevel (s : State) (hj : isCap j = true) :
    (s.showEvq j).rd (R.EVT_STAT.QLEVEL.j j) = (tget [] s.tb.evq j).length % 8 := by
  have level : (s.wr (R.EVT_STAT.QLEVEL.j j) (tget [] s.tb.evq j).length).rd (R.EVT_STAT.QLEVEL.j j) = (tget [] s.tb.evq j).length % 8 :=
    rd_wr_same _ _ _ (evtStat_plain hj) (by simp [Fld.j, R.EVT_STAT.QLEVEL])
  unfold State.showEvq
  dsimp only
  split
  · exact level
  · exact (rd_wr_evtAt (f := R.EVT_STAT.QLEVEL.j j) _ _ hj rfl).trans level

/-- LEVEL is no part of what the queue shows. -/
theorem rd_showEvq_level (s : State) (hj : isCap j = true) : (s.showEvq j).rd (R.EVT_STAT.LEVEL.j j) = s.rd (R.EVT_STAT.LEVEL.j j) := by
  have level : (s.wr (R.EVT_STAT.QLEVEL.j j) (tget [] s.tb.evq j).length).rd (R.EVT_STAT.LEVEL.j j) = s.rd (R.EVT_STAT.LEVEL.j j) :=
    rd_wr_apart _ _ _ _ rfl (evtStat_plain hj) (by simp [Fld.j, R.EVT_STAT.QLEVEL])
      (.inr (by simp [Fld.j, R.EVT_STAT.QLEVEL, R.EVT_STAT.LEVEL]))
  unfold State.showEvq
  dsimp only
  split
  · exact level
  · exact (rd_wr_evtAt (f := R.EVT_STAT.LEVEL.j j) _ _ hj rfl).trans level

theorem exec_evtAtWrite (dt : Nat) (src : Src) (j v : Nat) (s : State) : exec (.evtAtWrite dt src j v) s = execEvtAtWrite dt src j v s := rfl

theorem exec_evtAtWrite_runs (hu : u = s.after dt) (hj : isCap j = true) (hv : isWord v = true) (hr : u.reads src = true)
    (hrun : u.tb.run = true) : exec (.evtAtWrite dt src j v) s = .next (u.evtAtWrite j v) := by
  rw [exec_evtAtWrite]
  simp only [execEvtAtWrite, needs, ← hu, hj, hv, hr, hrun, Bool.and_self, if_true]

/-- An instant 64 to 2^31 - 1 ns ahead enters a queue that is not full. -/
theorem evtAtWrite_queued (hm : s.evMode j = 1) (h64 : 64 ≤ sub32 v s.now) (h31 : sub32 v s.now < 2 ^ 31)
    (hl : (tget [] s.tb.evq j).length < 4) :
    s.evtAtWrite j v = (s.putEvq j (insTick s.now v (tget [] s.tb.evq j))).showEvq j := by
  unfold State.evtAtWrite
  simp only [hm, if_true, Nat.not_lt.mpr h64, Nat.not_le.mpr h31, Nat.not_le.mpr hl, p2, decide_false, Bool.or_self,
    Bool.false_eq_true, if_false]
  rfl

theorem evtAtWrite_late (hm : s.evMode j = 1) (h : sub32 v s.now < 64 ∨ 2 ^ 31 ≤ sub32 v s.now) :
    s.evtAtWrite j v = s.flag (R.EVT_STAT.LATE.j j) := by
  unfold State.evtAtWrite
  simp only [hm, if_true]
  exact if_pos (by simpa [p2] using h)

theorem evtAtWrite_full (hm : s.evMode j = 1) (h64 : 64 ≤ sub32 v s.now) (h31 : sub32 v s.now < 2 ^ 31)
    (hl : 4 ≤ (tget [] s.tb.evq j).length) : s.evtAtWrite j v = s.flag (R.EVT_STAT.QFULL.j j) := by
  unfold State.evtAtWrite
  simp only [hm, if_true, Nat.not_lt.mpr h64, Nat.not_le.mpr h31, hl, p2, decide_false, Bool.or_self, Bool.false_eq_true, if_false]

/-- A flag of EVT_STAT reads 1 and leaves QLEVEL. -/
theorem rd_flag_evtStat (s : State) {f : Fld} (hj : isCap j = true) (hf : f.addr = (R.EVT_STAT.LATE.j j).addr) (ho : f.hi = f.lo)
    (ha : 26 < f.lo) : (s.flag f).rd f = 1 ∧ (s.flag f).rd (R.EVT_STAT.QLEVEL.j j) = s.rd (R.EVT_STAT.QLEVEL.j j) := by
  have plain : isTmr f.addr = false := hf ▸ evtStat_plain hj
  exact ⟨rd_flag_same _ _ plain ho, rd_flag_apart _ _ _ (by rw [hf]; rfl) plain ho (.inr ha)⟩

/-- Outside Queue mode EVT_AT takes the word. -/
theorem rd_evtAtWrite_plain (hj : isCap j = true) (hv : isWord v = true) (hm : s.evMode j ≠ 1) :
    (s.evtAtWrite j v).rd (R.EVT_AT.AT.j j) = v := by
  have hlt := cap_lt hj
  have written : (s.evtAtWrite j v).rd (R.EVT_AT.AT.j j) = (s.wr (R.EVT_AT.AT.j j) v).rd (R.EVT_AT.AT.j j) := by
    unfold State.evtAtWrite
    rw [if_neg hm]
    exact rd_congr rfl _
  rw [written, rd_wr_same _ _ _ (isTmr_below (by simp only [Fld.j, R.EVT_AT.AT]; omega)) (by simp [Fld.j, R.EVT_AT.AT])]
  exact Nat.mod_eq_of_lt (of_decide_eq_true hv)

/-- The output inverts at tick t. -/
def State.evtToggle (s : State) (j t : Nat) : State :=
  let lev := s.rd (R.EVT_STAT.LEVEL.j j) == 0
  let s := s.wrB (R.EVT_STAT.LEVEL.j j) lev
  if s.driven then s.emit (.edge outEvt j t 0 lev) else s

@[simp] theorem evtToggle_tb (s : State) (j t : Nat) : (s.evtToggle j t).tb = s.tb := by
  unfold State.evtToggle
  dsimp only
  split <;> simp

/-- LEVEL is one bit. -/
theorem rd_evtLevel_le (s : State) (j : Nat) : s.rd (R.EVT_STAT.LEVEL.j j) ≤ 1 := Nat.lt_succ_iff.mp (bits_lt _ 0 0)

theorem rd_evtToggle (s : State) (t : Nat) (hj : isCap j = true) :
    (s.evtToggle j t).rd (R.EVT_STAT.LEVEL.j j) = 1 - s.rd (R.EVT_STAT.LEVEL.j j) := by
  have written : ∀ b : Bool, (s.wrB (R.EVT_STAT.LEVEL.j j) b).rd (R.EVT_STAT.LEVEL.j j) = b2n b := fun b => by
    rw [State.wrB, rd_wr_same _ (R.EVT_STAT.LEVEL.j j) _ (evtStat_plain hj) (by simp [Fld.j, R.EVT_STAT.LEVEL])]
    cases b <;> rfl
  have inverted : b2n (s.rd (R.EVT_STAT.LEVEL.j j) == 0) = 1 - s.rd (R.EVT_STAT.LEVEL.j j) := by
    have := rd_evtLevel_le s j
    obtain h | h : s.rd (R.EVT_STAT.LEVEL.j j) = 0 ∨ s.rd (R.EVT_STAT.LEVEL.j j) = 1 := by omega
    · rw [h]; rfl
    · rw [h]; rfl
  unfold State.evtToggle
  dsimp only
  split
  · rw [rd_emit, written, inverted]
  · rw [written, inverted]

theorem exec_evtQueueInstant (j : Nat) (s : State) : exec (.evtQueueInstant j) s = execEvtQueueInstant j s := rfl

/-- Equal instants in a row at the front leave together; an odd number of them inverts the output. -/
theorem exec_evtQueueInstant_reached {r : List Nat} (hu : s.reach x = some u) (hj : isCap j = true)
    (hq : tget [] s.tb.evq j = x :: r) (hm : s.evMode j = 1) :
    exec (.evtQueueInstant j) s = .next
      (if (r.takeWhile (· == x)).length % 2 = 1 then (u.putEvq j (r.dropWhile (· == x))).showEvq j
        else ((u.putEvq j (r.dropWhile (· == x))).showEvq j).evtToggle j x) := by
  have parity : ((r.takeWhile (· == x)).length + 1) % 2 = 0 ↔ (r.takeWhile (· == x)).length % 2 = 1 := by omega
  rw [exec_evtQueueInstant]
  simp only [execEvtQueueInstant, needs, hj, hq, hm, hu, parity, ne_eq, not_true_eq_false, if_true, if_false]
  rfl

/-! ### Pulses (R93 to R95) -/

/-- The pulse of output j ends at rim clock e. -/
def State.putEvEnd (s : State) (j e : Nat) : State := { s with tb := { s.tb with evEnd := tput 0 s.tb.evEnd j e } }

/-- A pulse notes its end, and shows on the ball where outputs are driven. -/
theorem evPulse_eq (s : State) (j t w : Nat) :
    s.evPulse j t w =
      if s.driven then (s.putEvEnd j (s.tb.rim + w)).emit (.edge outEvt j t w (s.act (R.EVT_CFG.IDLE.j j) == 0))
      else s.putEvEnd j (s.tb.rim + w) := rfl

/-- A pulse leaves what neither its end nor an output is part of. -/
theorem evPulse_keeps {β : Type} (p : State → β) (he : ∀ (s : State) o, p (s.emit o) = p s)
    (hp : ∀ (s : State) j e, p (s.putEvEnd j e) = p s) (s : State) (j t w : Nat) : p (s.evPulse j t w) = p s := by
  rw [evPulse_eq]
  split
  · rw [he, hp]
  · rw [hp]

theorem evPulse_regs (s : State) (j t w : Nat) : (s.evPulse j t w).regs = s.regs :=
  evPulse_keeps State.regs State.emit_regs (fun _ _ _ => rfl) s j t w

theorem evPulse_mem (s : State) (j t w : Nat) : (s.evPulse j t w).mem = s.mem :=
  evPulse_keeps State.mem State.emit_mem (fun _ _ _ => rfl) s j t w

theorem evPulse_log (s : State) (j t w : Nat) : (s.evPulse j t w).log = s.log :=
  evPulse_keeps State.log State.emit_log (fun _ _ _ => rfl) s j t w

theorem evPulse_tb (s : State) (j t w : Nat) : (s.evPulse j t w).tb = (s.putEvEnd j (s.tb.rim + w)).tb := by
  rw [evPulse_eq]
  split
  · rw [State.emit_tb]
  · rfl

theorem evEnd_evPulse (s : State) (j t w : Nat) : tget 0 (s.evPulse j t w).tb.evEnd j = s.tb.rim + w := by
  rw [evPulse_tb]
  exact tget_tput_same _ _ _ _

/-- Where outputs are driven, through a ball that the function drives, the edge of a pulse leaves the device. -/
theorem evPulse_out (hd : s.driven = true) (ht : s.taken 0 = true) (hs : s.scanned outEvt = false) (j t w : Nat) :
    (s.evPulse j t w).out = .edge outEvt j t w (s.act (R.EVT_CFG.IDLE.j j) == 0) :: s.out := by
  rw [evPulse_eq, if_pos hd, emit_edge (s := s.putEvEnd j (s.tb.rim + w)) (c := outEvt) (i := j) ht hs]
  rfl

/-- One pulse of a train that starts at tick t with period per. -/
def State.trainPulse (s : State) (j t per : Nat) : State :=
  let s := s.evPulse j t (if per ≤ s.evWidth j then per - 1 else s.evWidth j)
  let c := s.rd (R.EVT_WID.COUNT.j j)
  let s := if c = 0 then s else s.rwh (R.EVT_WID.COUNT.j j) (c - 1)
  let s := if c = 1 && !s.log.wrote.contains (R.EVT_AT.AT.j j).key then { s with tb := { s.tb with evStop := j :: s.tb.evStop } } else s
  s.rwh (R.EVT_AT.AT.j j) (add32 t per)

/-- A pulse moves EVT_AT on by its period, and its width tells when it ends. -/
theorem trainPulse_next (hw : s.log.wrote = []) (hj : isCap j = true) (t per : Nat) :
    (s.trainPulse j t per).rd (R.EVT_AT.AT.j j) = add32 t per ∧
      tget 0 (s.trainPulse j t per).tb.evEnd j = s.tb.rim + (if per ≤ s.evWidth j then per - 1 else s.evWidth j) := by
  have hlt := cap_lt hj
  unfold State.trainPulse
  extract_lets s1 c s2 tb2 s3
  have l2 : s2.log = s1.log := by
    unfold s2
    split <;> simp
  have e2 : s2.tb = s1.tb := by
    unfold s2
    split <;> simp
  have l3 : s3.log.wrote = [] := by
    have : s3.log = s2.log := by
      unfold s3
      split <;> rfl
    rw [this, l2, evPulse_log, hw]
  have e3 : s3.tb.evEnd = s1.tb.evEnd := by
    rw [← e2]
    unfold s3
    split <;> rfl
  rw [rwh_quiet l3]
  refine ⟨rd_wr_add32 _ _ _ (isTmr_below (by simp only [Fld.j, R.EVT_AT.AT]; omega)) rfl rfl, ?_⟩
  rw [State.wr_tb, e3]
  exact evEnd_evPulse _ _ _ _

theorem exec_evtTrainPulse (j : Nat) (s : State) : exec (.evtTrainPulse j) s = execEvtTrainPulse j s := rfl

theorem exec_evtTrainPulse_reached (hu : s.reach (s.dueOf (R.EVT_AT.AT.j j)) = some u) (hj : isCap j = true) (ha : s.alive = true)
    (hm : s.evMode j = 2) (hs : s.tb.evStop.contains j = false) (hp : 8 ≤ s.act (R.EVT_PER.PER.j j)) :
    exec (.evtTrainPulse j) s = .next (u.trainPulse j (s.dueOf (R.EVT_AT.AT.j j)) (s.act (R.EVT_PER.PER.j j))) := by
  rw [exec_evtTrainPulse]
  simp only [execEvtTrainPulse, needs, hj, ha, hm, hs, hu, Nat.not_lt.mpr hp, decide_true, Bool.not_false, Bool.and_self, if_true,
    if_false]
  rfl

/-- The next instant of the source of a conversion start, which has the given anchor and period. -/
def State.convNext (s : State) (j a per : Nat) : Nat :=
  s.nextInst ((s.tb.evLast.find? fun x => x.1 == j).map (·.2)) a per (s.actS (R.EVT_CFG.OFS.j j))

/-- The instant t of output j counts as performed. -/
def State.convTake (s : State) (j t : Nat) : State :=
  { s with tb := { s.tb with evLast := (j, t) :: s.tb.evLast.filter fun x => x.1 ≠ j } }

theorem exec_evtConversionPulse (j : Nat) (s : State) : exec (.evtConversionPulse j) s = execEvtConversionPulse j s := rfl

theorem exec_evtConversionPulse_at {a per : Nat} (hu : u = s.runTo (s.convNext j a per)) (hj : isCap j = true) (ha : s.alive = true)
    (hr : s.tb.run = true) (hm : s.evMode j = 3) (hs : s.evSource (s.act (R.EVT_CFG.SRC.j j)) = some (a, per)) :
    exec (.evtConversionPulse j) s =
      .next ((u.convTake j (s.convNext j a per)).evPulse j (s.convNext j a per) (u.evWidth j)) := by
  rw [exec_evtConversionPulse, hu]
  simp only [execEvtConversionPulse, needs, hj, ha, hr, hm, hs, decide_true, Bool.and_self, if_true]
  rfl

end

/-! ### A window that closes (R54, R90) -/

/-- The window of capture input 0 is in force, and its CAP_CLOSE is the present tick. -/
def windowClosing : State := (poweredIn 15).wrBoth (R.CAP_CFG.WIN_EN.j 0) 1

/-- The host writes WIN_EN = 1 to CAP_CFG, and the window closes for good on the same tick: the shadow keeps the 1 that software wrote (R54). -/
theorem winEn_write_then_close :
    Yields (.registerWrite 0 .host (R.CAP_CFG.WIN_EN.j 0).addr (2 ^ 28) 15) windowClosing fun s =>
      s.reach (s.dueOf (R.CAP_CLOSE.NS.j 0)) = some s ∧ s.alive = true ∧ s.on (R.CAP_CFG.WIN_EN.j 0) = true ∧
        s.act (R.CAP_CFG.WIN_PER.j 0) = 0 ∧ Yields (.capWindowClose 0) s fun t => t.rd (R.CAP_CFG.WIN_EN.j 0) = 1 :=
  ⟨_, rfl, by decide, rfl, by decide, by decide, _, rfl, by decide⟩

end Machine

open Machine

/-- Settles O9: the branches of a write of EVT_AT in Queue mode, and the parity of two equal instants. -/
theorem eventQueueTakesOrDiscardsAnInstant : Obligations.EventQueueTakesOrDiscardsAnInstant := by
  unfold Obligations.EventQueueTakesOrDiscardsAnInstant
  refine ⟨?queued, ?late, ?full, ?equal⟩
  case queued =>
    intro s dt u src j v hu hj hv hr hrun hm h64 h31 hl
    refine ⟨_, exec_evtAtWrite_runs hu hj hv hr hrun, ?_⟩
    dsimp only
    rw [evtAtWrite_queued hm h64 h31 hl, showEvq_tb, evq_putEvq_same, rd_showEvq_qlevel _ hj, evq_putEvq_same, length_insTick]
    exact ⟨rfl, mem_insTick.mpr (.inl rfl), rfl, fun x hx => mem_insTick.mpr (.inr hx), Nat.mod_eq_of_lt (by omega),
      fun k hk => evq_putEvq_other _ _ hk, by simp, by simp⟩
  case late =>
    intro s dt u src j v hu hj hv hr hrun hm h
    refine ⟨_, exec_evtAtWrite_runs hu hj hv hr hrun, ?_⟩
    dsimp only
    rw [evtAtWrite_late hm h]
    obtain ⟨hlate, hlevel⟩ := rd_flag_evtStat u (f := R.EVT_STAT.LATE.j j) hj rfl rfl (by simp [Fld.j, R.EVT_STAT.LATE])
    exact ⟨State.flag_tb _ _, hlate, hlevel, State.flag_mem _ _⟩
  case full =>
    intro s dt u src j v hu hj hv hr hrun hm h64 h31 hl
    refine ⟨_, exec_evtAtWrite_runs hu hj hv hr hrun, ?_⟩
    dsimp only
    rw [evtAtWrite_full hm h64 h31 hl]
    obtain ⟨hfull, hlevel⟩ := rd_flag_evtStat u (f := R.EVT_STAT.QFULL.j j) hj rfl rfl (by simp [Fld.j, R.EVT_STAT.QFULL])
    exact ⟨State.flag_tb _ _, hfull, hlevel, State.flag_mem _ _⟩
  case equal =>
    intro s u j x r hu hj hq hr hm
    have front : tget [] s.tb.evq j = x :: x :: r := by simp [hq, tget]
    have rest : r.takeWhile (· == x) = [] ∧ r.dropWhile (· == x) = r := by
      cases r with
      | nil => exact ⟨rfl, rfl⟩
      | cons a r =>
        have : a ≠ x := fun e => hr (by simp [e])
        simp [this]
    refine ⟨_, exec_evtQueueInstant_reached hu hj front hm, ?_⟩
    dsimp only
    rw [if_pos (by simp [rest.1]), List.dropWhile_cons_of_pos (by simp), rest.2, rd_showEvq_level _ hj]
    exact ⟨by simp, rd_congr (putEvq_regs _ _ _) _, by simp, by simp⟩

/-- Settles O15: the queue as in O9; a train and a conversion start share the pulse. -/
theorem eventOutputCommands : Obligations.EventOutputCommands := by
  unfold Obligations.EventOutputCommands
  refine ⟨?plain, ?queued, ?instant, ?train, ?conversion⟩
  case plain =>
    intro s dt u src j v hu hj hv hr hrun hm
    exact ⟨_, exec_evtAtWrite_runs hu hj hv hr hrun, rd_evtAtWrite_plain hj hv hm⟩
  case queued =>
    intro s dt u src j v hu hj hv hr hrun hm h64 h31 hl
    refine ⟨_, exec_evtAtWrite_runs hu hj hv hr hrun, ?_⟩
    dsimp only
    rw [evtAtWrite_queued hm h64 h31 hl, showEvq_tb, evq_putEvq_same]
  case instant =>
    intro s u j x r hu hj hq hm
    refine ⟨_, exec_evtQueueInstant_reached hu hj hq hm, ?_⟩
    have same : ((u.putEvq j (r.dropWhile (· == x))).showEvq j).rd (R.EVT_STAT.LEVEL.j j) = u.rd (R.EVT_STAT.LEVEL.j j) :=
      (rd_showEvq_level _ hj).trans (rd_congr (putEvq_regs _ _ _) _)
    dsimp only
    split
    · exact ⟨by simp, same⟩
    · exact ⟨by simp, by rw [rd_evtToggle _ _ hj, same]⟩
  case train =>
    intro s u j hu hj ha hm hs hp hw
    exact ⟨_, exec_evtTrainPulse_reached hu hj ha hm hs hp, trainPulse_next hw hj _ _⟩
  case conversion =>
    intro s u j a per hu hj ha hr hm hs
    refine ⟨_, exec_evtConversionPulse_at hu hj ha hr hm hs, evEnd_evPulse _ _ _ _, evPulse_regs _ _ _ _, evPulse_mem _ _ _ _, ?_, ?_⟩
    · rw [evPulse_tb]
      simp [State.putEvEnd, State.convTake, State.convNext]
    · intro hd ht hsc
      exact evPulse_out (s := u.convTake j (s.convNext j a per)) hd ht hsc _ _ _

/-- Refutes O14: where the host writes WIN_EN = 1 on the tick on which the window closes for good, the shadow keeps the written 1 (R54), so WIN_EN does not read 0. -/
theorem not_captureCommands : ¬ Obligations.CaptureCommands := by
  unfold Obligations.CaptureCommands
  rintro ⟨-, hclose, -⟩
  obtain ⟨s, -, hreach, halive, hon, hper, hone⟩ := winEn_write_then_close
  obtain ⟨t, ⟨hzero, -⟩, hone'⟩ := (hclose s s 0 hreach rfl halive hon hper).and hone
  exact absurd (hone'.symm.trans hzero) (by decide)

end Sys2Proof
end

section
namespace Sys2Proof

/-! PROOFS. The load of an image (R101 to R108): what the checks of a slot depend on, a smallest image of a node, and a load of it during which a record of a vector that the device does not have leaves the merge. -/

namespace Machine

/-! ### What the checks of a slot depend on -/

section
variable {s t u : State} {b : Bool} {e : LoadEnv}

/-- The state after reset with given memory, owner keys and flash time-outs. -/
def flashState (m : List Host.Cell) (f : Fuses) (t : Nat) : State :=
  { State.reset with mem := m, dev := { State.reset.dev with fuses := f, flashTo := t } }

/-- The sequence number that the head of a slot is recorded with: 0 where it has no header (R108). -/
def State.headSeq (s : State) (b : Bool) (e : LoadEnv) : Nat :=
  if runChecks (s.toOf b e) (s.imgFail (imgOf b e.cs0 e.cs1) (imgFitted b e.cs0 e.cs1)) [1, 2] == 0
  then s.fw (imgOf b e.cs0 e.cs1) 8 4 else 0

/-- The checks of a head read the flash, the owner keys and the flash time-outs, and nothing else. -/
theorem headCheck_flashState (s : State) (b : Bool) (e : LoadEnv) :
    s.headCheck b e = (flashState s.mem s.dev.fuses s.dev.flashTo).headCheck b e := rfl

theorem headSeq_flashState (s : State) (b : Bool) (e : LoadEnv) :
    s.headSeq b e = (flashState s.mem s.dev.fuses s.dev.flashTo).headSeq b e := rfl

/-- The head of a slot is recorded with what a state of the same flash finds in it. -/
theorem headRecord_eq (hm : t.mem = s.mem) (hf : t.dev.fuses = s.dev.fuses) (ht : t.dev.flashTo = s.dev.flashTo) (b : Bool) (e : LoadEnv) :
    t.headRecord b e = (t.wr (errF b) (s.headCheck b e)).wr (if b then R.FOLIO_SEQ_B.SEQ else R.FOLIO_SEQ_A.SEQ) (s.headSeq b e) := by
  have hrec : t.headRecord b e =
    (t.wr (errF b) (t.headCheck b e)).wr (if b then R.FOLIO_SEQ_B.SEQ else R.FOLIO_SEQ_A.SEQ) (t.headSeq b e) := rfl
  rw [hrec, headCheck_flashState t, headSeq_flashState t, hm, hf, ht, ← headCheck_flashState, ← headSeq_flashState]

/-- The chip selects noted, before the heads are checked. -/
def State.noteFlash (s : State) (e : LoadEnv) : State :=
  ({ s with dev := { s.dev with envA := e.cs0, envB := e.cs1 } }.putRaw R.FOLIO_STAT.CS1.addr
    (s.xferMode e.cs0 * p2 10 + b2n e.cs1.fitted * p2 9)).putRaw R.FOLIO_DIAG.CHECK.addr 0

/-- Both heads recorded, with their codes and sequence numbers. -/
def State.noteHeads (s : State) (e : LoadEnv) (ca qa cb qb : Nat) : State :=
  ((((s.noteFlash e).wr (errF false) ca).wr R.FOLIO_SEQ_A.SEQ qa).wr (errF true) cb).wr R.FOLIO_SEQ_B.SEQ qb

theorem headsDone_eq (s : State) (e : LoadEnv) :
    s.headsDone e = s.noteHeads e (s.headCheck false e) (s.headSeq false e) (s.headCheck true e) (s.headSeq true e) := by
  have hdone : s.headsDone e = ((s.noteFlash e).headRecord false e).headRecord true e := rfl
  have hmem : (s.noteFlash e).mem = s.mem := by simp [State.noteFlash]
  have hdev : (s.noteFlash e).dev = { s.dev with envA := e.cs0, envB := e.cs1 } := by simp [State.noteFlash]
  rw [hdone, headRecord_eq (s := s) hmem (by rw [hdev]) (by rw [hdev]),
    headRecord_eq (s := s) (by simp [hmem]) (by simp [hdev]) (by simp [hdev])]
  rfl

/-- Recording the heads changes nothing that their checks read. -/
theorem headCheck_headsDone (s : State) (b : Bool) (e : LoadEnv) : (s.headsDone e).headCheck b e = s.headCheck b e := by
  rw [headCheck_flashState, headCheck_flashState s, headsDone_eq]
  simp [State.noteHeads, State.noteFlash]

/-- Slot A alone passes, and its image too: it is accepted. -/
theorem loadFolio_slotA (ha : (s.headsDone e).headCheck false e = 0) (hb : (s.headsDone e).headCheck true e ≠ 0)
    (hp : (s.headsDone e).rd R.MOD_CFG.SLOT_PREF = 0) (hc : ((s.headsDone e).bodyCheck false e).code = 0) :
    s.loadFolio e = ((s.headsDone e).wr (errF false) 0).acceptImage false (imgOf false e.cs0 e.cs1) e := by
  have found : ∀ f : Found, f.code = 0 → (s.headsDone e).recordFound false (imgOf false e.cs0 e.cs1) f = (s.headsDone e).wr (errF false) 0 :=
    fun f hf => by simp [State.recordFound, hf]
  have okB : ((s.headsDone e).headCheck true e == 0) = false := by simpa using hb
  simp [State.loadFolio, ha, okB, hp, hc, found]

theorem exec_folioLoadComplete (dt : Nat) (e : LoadEnv) (s : State) : exec (.folioLoadComplete dt e) s = execFolioLoadComplete dt e s := rfl

theorem exec_folioLoadComplete_boot {dt : Nat} (hu : u = s.after dt) (ha : u.alive = true) (hr : u.tb.run = true) (hm : u.mode = 0)
    (hn : u.rd R.MOD_STAT.FOLIO_NONE = 0) : exec (.folioLoadComplete dt e) s = .next (u.loadFolio e) := by
  rw [exec_folioLoadComplete]
  simp [execFolioLoadComplete, ← hu, ha, hr, hm, hn]

end

/-! ### A smallest image -/

/-- The cells of a list of bytes from an address on. -/
def bytesAt (a : Nat) : List Nat → List Host.Cell
  | [] => []
  | b :: l => (a, BitVec.ofNat 8 b) :: bytesAt (a + 1) l

theorem tget_bytesAt_inside (d : Byte) (m : List Host.Cell) {l : List Nat} {a i : Nat} (h : i < l.length) :
    tget d (bytesAt a l ++ m) (a + i) = BitVec.ofNat 8 l[i] := by
  induction l generalizing a i with
  | nil => cases h
  | cons b l ih =>
    cases i with
    | zero => simp [bytesAt, tget]
    | succ i =>
      have : a ≠ a + (i + 1) := by omega
      simp only [bytesAt, List.cons_append, tget, if_neg this, List.getElem_cons_succ]
      rw [← ih (a := a + 1) (Nat.lt_of_succ_lt_succ h)]
      congr 1
      omega

theorem tget_bytesAt_outside (d : Byte) (m : List Host.Cell) {l : List Nat} {a k : Nat} (h : k < a ∨ a + l.length ≤ k) :
    tget d (bytesAt a l ++ m) k = tget d m k := by
  induction l generalizing a with
  | nil => rfl
  | cons b l ih =>
    have : a ≠ k := by simp only [List.length_cons] at h; omega
    simp only [bytesAt, List.cons_append, tget, if_neg this]
    exact ih (by simp only [List.length_cons] at h; omega)

/-- The digest of an empty section, as a number of 32 bytes. -/
def emptyDigest : Nat := 0x55b852781b9995a44c939b64e441ae2724b96f99c8f4fb9a141cfc9842c4b0e3

/-- The header of a node's image of 4,096 bytes, sequence number 1, unsigned, and its table of four empty sections (R102 to R104). -/
def nodeHead : List Nat :=
  leBytes 4 0x4F494C46 ++ leBytes 4 0x03B07160 ++ leBytes 4 1 ++ leBytes 4 0x1000 ++ leBytes 4 0xFF020004 ++ leBytes 4 1 ++
    List.replicate 8 0xFF ++ [1, 2, 4, 8].flatMap fun t => [t, 0xFF, 0xFF, 0xFF] ++ leBytes 4 0x1000 ++ leBytes 8 0 ++ leBytes 32 emptyDigest

/-- The CRC of that image, over its first 0xF7C bytes. -/
def nodeCrc : Nat := 0x4AA6FDC1

/-- The flash of slot A with that image; every other byte is as erased. -/
def nodeFlash : List Host.Cell := bytesAt 0x100000000 nodeHead ++ bytesAt 0x100000F7C (leBytes 4 nodeCrc)

/-- One chip select of flash, read without a time-out. -/
def nodeEnv : LoadEnv := ⟨⟨true, false, false, 0, 0x1000000⟩, noFlash, none, none, .empty, .empty, true⟩

theorem nodeHead_bytes : nodeHead.length = 0xE0 ∧ ∀ b ∈ nodeHead, b < 256 := by decide +kernel

/-- The bytes that the CRC covers: the header and the table, then erased flash. -/
theorem memBytes_nodeFlash {s : State} (h : s.mem = nodeFlash) :
    s.memBytes 0x100 0 0xF7C = nodeHead ++ List.replicate (0xF7C - 0xE0) 255 := by
  obtain ⟨hlen, hbyte⟩ := nodeHead_bytes
  have hcount : (s.memBytes 0x100 0 0xF7C).length = 0xF7C := by rw [State.memBytes, List.length_map, List.length_range]
  refine List.ext_getElem (by rw [hcount, List.length_append, List.length_replicate, hlen]) fun i h1 _ => ?_
  have hi : i < 0xF7C := hcount ▸ h1
  have key : cellKey 0x100 (0 + i) = 0x100000000 + i := by simp only [cellKey, p2, Nat.reducePow, Nat.reduceMul, Nat.zero_add]
  simp only [State.memBytes, List.getElem_map, List.getElem_range, State.mem8, h, key, nodeFlash]
  by_cases hin : i < nodeHead.length
  · rw [tget_bytesAt_inside _ _ hin, List.getElem_append_left hin, BitVec.toNat_ofNat]
    exact Nat.mod_eq_of_lt (hbyte _ (List.getElem_mem hin))
  · have erased : cellDef (0x100000000 + i) = 0xFF := by
      have : (0x100000000 + i) / p2 32 = 1 := by simp only [p2, Nat.reducePow]; omega
      simp [cellDef, this]
    rw [tget_bytesAt_outside _ _ (by omega), ← List.append_nil (bytesAt 0x100000F7C _), tget_bytesAt_outside _ _ (by omega),
      List.getElem_append_right (by omega), List.getElem_replicate, tget, erased]
    rfl

theorem crc32_nodeFlash : crc32 (nodeHead ++ List.replicate (0xF7C - 0xE0) 255) = nodeCrc := by decide +kernel

/-! ### A stray vector -/

/-- A vector that the device does not have: the model takes FOLIO_NONE for its pending bit. -/
def strayVec : Nat := 32 * ((R.MOD_STAT.FOLIO_NONE.addr - 0x1800) / 4) + R.MOD_STAT.FOLIO_NONE.lo

/-- In BOOT with the image in slot A; a record of the stray vector is due to leave the merge at the next clock, enabled and with MSI-X off. -/
def strayBoot : State :=
  { (poweredIn 15).wr (intEn strayVec) 1 with
    mem := nodeFlash
    blt := { State.reset.blt with merge := [⟨1, 0, 0, .int strayVec⟩] } }

/-- Check 4 of R105. -/
theorem imgFail_crc (s : State) (i : Img) (f : Bool) :
    s.imgFail i f 4 = if crc32 (s.fby i 0 0xF7C) = s.fw i 0xF7C 4 then 0 else 5 := by
  rw [State.imgFail, if_neg (by decide), if_neg (by decide), if_neg (by decide), if_pos rfl]

theorem strayBoot_slotA : strayBoot.headCheck false nodeEnv = 0 := by
  have crc : strayBoot.imgFail ⟨0x100, 0⟩ true 4 = 0 := by
    have covered : strayBoot.fby ⟨0x100, 0⟩ 0 0xF7C = nodeHead ++ List.replicate (0xF7C - 0xE0) 255 := memBytes_nodeFlash rfl
    have stored : strayBoot.fw ⟨0x100, 0⟩ 0xF7C 4 = nodeCrc := by decide +kernel
    rw [imgFail_crc, covered, stored, crc32_nodeFlash, if_pos rfl]
  have others : ∀ k ∈ [1, 2, 3, 5], strayBoot.imgFail ⟨0x100, 0⟩ true k = 0 := by decide +kernel
  have checks : strayBoot.headCheck false nodeEnv = runChecks none (strayBoot.imgFail ⟨0x100, 0⟩ true) [1, 2, 3, 4, 5] := rfl
  rw [checks]
  simp [runChecks, crc, others 1, others 2, others 3, others 5]

theorem strayBoot_slotB : strayBoot.headCheck true nodeEnv = 3 := by decide +kernel

theorem strayBoot_headsDone : strayBoot.headsDone nodeEnv = strayBoot.noteHeads nodeEnv 0 1 3 0 := by
  have seqA : strayBoot.headSeq false nodeEnv = 1 := by decide +kernel
  have seqB : strayBoot.headSeq true nodeEnv = 0 := by decide +kernel
  rw [headsDone_eq, strayBoot_slotA, strayBoot_slotB, seqA, seqB]

/-- The image passes checks 6 to 8. -/
theorem strayBoot_body : ((strayBoot.headsDone nodeEnv).bodyCheck false nodeEnv).code = 0 := by
  rw [strayBoot_headsDone]
  decide +kernel

/-- The record leaves the merge at the clock that follows the acceptance of the image, and FOLIO_NONE reads 1. -/
theorem strayBoot_folioNone :
    (((strayBoot.noteHeads nodeEnv 0 1 3 0).wr (errF false) 0).acceptImage false (imgOf false nodeEnv.cs0 nodeEnv.cs1) nodeEnv).rd
      R.MOD_STAT.FOLIO_NONE = 1 := by
  decide +kernel

end Machine

open Machine

/-- Refutes O43: in the state strayBoot, which no reset leads to, a record of a vector above 63 leaves the merge on the clock of the entry into LISTEN, and the pending bit that the model keeps for it is FOLIO_NONE, which then reads 1. -/
theorem not_clocksStartAndStop : ¬ Obligations.ClocksStartAndStop := by
  unfold Obligations.ClocksStartAndStop
  rintro ⟨-, -, -, -, -, -, hload⟩
  have hmode : strayBoot.mode = 0 := by decide +kernel
  have hnone : strayBoot.rd R.MOD_STAT.FOLIO_NONE = 0 := by decide +kernel
  have hother : strayBoot.headCheck (!false) nodeEnv ≠ 0 := by
    rw [Bool.not_false, strayBoot_slotB]
    decide
  obtain ⟨t, ht, -, -, -, hclear, -⟩ :=
    hload strayBoot 0 strayBoot nodeEnv false rfl rfl rfl hmode hnone strayBoot_slotA hother strayBoot_body
  have hA : (strayBoot.headsDone nodeEnv).headCheck false nodeEnv = 0 := by rw [headCheck_headsDone, strayBoot_slotA]
  have hB : (strayBoot.headsDone nodeEnv).headCheck true nodeEnv ≠ 0 := by
    rw [headCheck_headsDone, strayBoot_slotB]
    decide
  have hpref : (strayBoot.headsDone nodeEnv).rd R.MOD_CFG.SLOT_PREF = 0 := by
    rw [strayBoot_headsDone]
    decide +kernel
  rw [exec_folioLoadComplete_boot (u := strayBoot) rfl rfl rfl hmode hnone, loadFolio_slotA hA hB hpref strayBoot_body,
    strayBoot_headsDone] at ht
  obtain rfl := Host.Outcome.next.inj ht
  exact absurd (strayBoot_folioNone.symm.trans hclear) (by decide)

end Sys2Proof
end

section
namespace Sys2Proof

/-! PROOFS. Mode requests and RELOAD (R112, R113, R368, R493). -/

namespace Machine

section
variable {s t u : State} {src : Src} {dt code : Nat}

/-! ### A guarded request -/

/-- Disarming a source writes the word of CMT_STAT alone. -/
theorem raw_disarm (s : State) (src : Src) {a : Nat} (h : a ≠ 0x10020) : (s.disarm src).raw a = s.raw a := by
  cases src with
  | host => exact raw_wr_other s R.CMT_STAT.ARMED_H 0 h
  | scribe => exact raw_wr_other s R.CMT_STAT.ARMED_S 0 h
  | ring => rfl

/-- The fields that a unit uses lie above CMT_STAT, so that disarming a source leaves what they read. -/
theorem act_disarm (s : State) (src : Src) {x : Fld} (h : 0x10020 < x.addr) : (s.disarm src).act x = s.act x := by
  have above : ∀ a, x.addr ≤ a → (s.disarm src).raw a = s.raw a := fun a ha => raw_disarm s src (by omega)
  unfold State.act State.actw State.rdw
  simp only [above, Nat.le_add_right, le_refl]

theorem armed_disarm (s : State) (src : Src) : (s.disarm src).armed src = false := by
  cases src with
  | host => exact congrArg (· == 1) (rd_wr_same s R.CMT_STAT.ARMED_H 0 rfl (by decide))
  | scribe => exact congrArg (· == 1) (rd_wr_same s R.CMT_STAT.ARMED_S 0 rfl (by decide))
  | ring => rfl

/-- Whether a source is armed stands in CMT_STAT. -/
theorem armed_congr (h : ∀ x : Fld, x.addr = 0x10020 → t.rd x = s.rd x) (src : Src) : t.armed src = s.armed src := by
  cases src with
  | host => exact congrArg (· == 1) (h R.CMT_STAT.ARMED_H rfl)
  | scribe => exact congrArg (· == 1) (h R.CMT_STAT.ARMED_S rfl)
  | ring => rfl

/-- What a request finds once it has used up the arming of its source: no trigger, no request and nothing pending. -/
structure State.Quiet (s : State) : Prop where
  trig : s.log.trig = false
  wrote : s.log.wrote.contains R.MOD_REQ.CODE.key = false
  pend : s.rd R.MOD_STATE.PEND = 15

theorem mayRequest_iff : u.mayRequest src = true ↔ (u.reads src = true ∧ u.armed src = true) ∧ u.Quiet := by
  simp only [State.mayRequest, State.reads, Bool.and_eq_true, Bool.not_eq_true', beq_iff_eq]
  exact ⟨fun ⟨⟨⟨⟨h, ha⟩, ht⟩, hw⟩, hp⟩ => ⟨⟨h, ha⟩, ht, hw, hp⟩, fun ⟨⟨h, ha⟩, ht, hw, hp⟩ => ⟨⟨⟨⟨h, ha⟩, ht⟩, hw⟩, hp⟩⟩

theorem State.Quiet.disarm (h : u.Quiet) (src : Src) : (u.disarm src).Quiet where
  trig := by rw [State.disarm_log]; exact h.trig
  wrote := by rw [State.disarm_log]; exact h.wrote
  pend := by rw [rd_disarm u src (by decide)]; exact h.pend

/-- A request by an armed source is judged once the arming is used up. -/
theorem reqOf_armed (hu : u = s.after dt) (hr : u.reads src = true) (ha : u.armed src = true) :
    reqOf dt src code s = (u.disarm src).modReq code := by
  unfold State.reads at hr
  simp only [reqOf, ← hu, hr, if_true, State.modReqWrite, keyed_armed ha]

/-- The judgement of a request whose moment nothing refuses (R113). -/
theorem modReq_quiet (h : u.Quiet) (code : Nat) :
    u.modReq code = if !u.reqAllowed code then u.refuseReq 3 else if code = 2 && u.holdActive then u.refuseReq 4 else u.takeReq code := by
  simp only [State.modReq, h.trig, h.wrote, h.pend, bne_self_eq_false, Bool.false_and, Bool.or_self, Bool.false_eq_true, if_false]

/-- A request in the table of R112 is taken. -/
theorem modReq_takes (h : u.Quiet) (ha : u.reqAllowed code = true) (hh : code ≠ 2 ∨ u.holdActive = false) :
    u.modReq code = u.takeReq code := by
  rw [modReq_quiet h, ha, if_neg (by decide), if_neg]
  rcases hh with hh | hh <;> simp [hh]

/-- A request that is not in the table for the present mode is refused for reason 3. -/
theorem modReq_refuses (h : u.Quiet) (ha : u.reqAllowed code = false) : u.modReq code = u.refuseReq 3 := by
  rw [modReq_quiet h, ha, if_pos (by decide)]

/-! ### The conditions of the table of R112 stand apart from the arming of a source -/

theorem roleMode_disarm (u : State) (src : Src) : (u.disarm src).roleMode = u.roleMode := by
  unfold State.roleMode State.from_
  rw [mode_disarm, rd_disarm u src (x := R.MOD_STATE.FROM) (by decide)]

theorem role_disarm (u : State) (src : Src) (ch : Nat) : (u.disarm src).role ch = u.role ch := by
  unfold State.role
  rw [rd_disarm u src (by simp only [Fld.i, R.IKL_CFG.ROLE]; omega)]

theorem claim_disarm (u : State) (src : Src) : (u.disarm src).claim = u.claim := by
  unfold State.claim State.claimCfg State.csState State.used
  rw [roleMode_disarm, mode_disarm, role_disarm, State.disarm_dev, rd_disarm u src (x := R.TWN_CFG.CLAIM_CFG) (by decide),
    rd_disarm u src (x := R.IKL_CS.CS_STATE.i 0) (by decide), rd_disarm u src (x := R.IKL_CS.CS_STATE.i 1) (by decide)]

theorem leadsAny_disarm (u : State) (src : Src) : (u.disarm src).leadsAny = u.leadsAny := by
  have leads : ∀ ch, (u.disarm src).leads ch = u.leads ch := fun ch => by
    unfold State.leads State.nNodes
    rw [roleMode_disarm, role_disarm, State.disarm_dev, rd_disarm u src (by simp only [Fld.i, R.IKL_LEN.NNODES]; omega)]
  simp only [State.leadsAny, leads]

theorem sinFunc_disarm (u : State) (src : Src) (i : Nat) : (u.disarm src).sinFunc i = u.sinFunc i := by
  unfold State.sinFunc
  rw [act_disarm u src (by simp only [Fld.j, R.MGN_SIN_CFG.FUNC]; omega)]

theorem reqAllowed_disarm (u : State) (src : Src) (code : Nat) : (u.disarm src).reqAllowed code = u.reqAllowed code := by
  simp only [State.reqAllowed, mode_disarm, roleMode_disarm, claim_disarm, sinFunc_disarm,
    rd_disarm u src (x := R.MOD_STAT.FOLIO_NONE) (by decide)]

theorem holdActive_disarm (u : State) (src : Src) : (u.disarm src).holdActive = u.holdActive := by
  have fault : ∀ n, (u.disarm src).rd (R.AX_STAT.FAULT.i n) = u.rd (R.AX_STAT.FAULT.i n) := fun n =>
    rd_disarm u src (by simp only [Fld.i, R.AX_STAT.FAULT]; omega)
  have react : ∀ n c, (u.disarm src).reaction n c = u.reaction n c := fun n c => by
    unfold State.reaction
    rw [act_disarm u src]
    unfold reactF
    repeat' split
    all_goals simp only [Fld.i, R.AX_REACT.R_FERR, R.AX_REACT.R_OVR, R.AX_REACT.R_FB, R.AX_REACT.R_PLIM, R.AX_REACT.R_LANE, R.AX_REACT.R_TRIP]; omega
  simp only [State.holdActive, State.disarm_lanes, State.disarm_mgn, fault, react, rd_disarm u src (x := R.RUL_STAT.HOLD_CAUSE) (by decide)]

/-! ### What a request leaves pending -/

/-- The request of this tick is noted, so that another one is refused (R113). -/
def State.noteReq (s : State) : State := { s with log := { s.log with wrote := R.MOD_REQ.CODE.key :: s.log.wrote } }

theorem rd_noteReq (s : State) (x : Fld) : s.noteReq.rd x = s.rd x := rd_congr rfl x

theorem rd_setPend_pend (s : State) {m : Nat} (h : m < 16) (k a : Nat) : (s.setPend m k a).rd R.MOD_STATE.PEND = m := by
  have e : (s.setPend m k a).rd R.MOD_STATE.PEND = m % 16 := rd_wr_same s R.MOD_STATE.PEND m rfl (by decide)
  rw [e, Nat.mod_eq_of_lt h]

theorem rd_setPend_low (s : State) (m k a : Nat) {x : Fld} (h : x.addr = 0x30010) (hx : x.hi < 8) : (s.setPend m k a).rd x = s.rd x :=
  rd_wr_apart s R.MOD_STATE.PEND x m h rfl (by decide) (.inr hx)

theorem rd_setPend_other (s : State) (m k a : Nat) {x : Fld} (h : x.addr ≠ 0x30010) : (s.setPend m k a).rd x = s.rd x :=
  rd_wr_other s R.MOD_STATE.PEND x m h (by decide)

theorem setPend_dev (s : State) (m k a : Nat) : (s.setPend m k a).dev = { s.dev with pendKind := k, pendAt := a } := by
  simp [State.setPend]

/-- What a taken request leaves: the target of the pending transition and how its instant is found (15 and 0 where none is pending), the mode, and its source disarmed. -/
structure State.AfterRequest (t : State) (src : Src) (m kind mode : Nat) : Prop where
  pend : t.rd R.MOD_STATE.PEND = m
  kind : t.dev.pendKind = kind
  mode : t.mode = mode
  armed : t.armed src = false

theorem afterRequest_setPend (u : State) (src : Src) {m : Nat} (h : m < 16) (k a : Nat) :
    ((u.disarm src).noteReq.setPend m k a).AfterRequest src m k u.mode where
  pend := rd_setPend_pend _ h k a
  kind := by rw [setPend_dev]
  mode := by
    unfold State.mode
    rw [rd_setPend_low _ _ _ _ rfl (by decide), rd_noteReq, rd_disarm u src (by decide)]
  armed := by
    rw [armed_congr (fun x hx => ?_) src, armed_disarm u src]
    rw [rd_setPend_other _ _ _ _ (by omega), rd_noteReq]

/-! ### The request commands -/

/-- A request of an armed source, at a quiet moment and in the table for the mode, is taken. -/
theorem reqOf_taken (hu : u = s.after dt) (h : u.mayRequest src = true) (ha : u.reqAllowed code = true)
    (hh : code ≠ 2 ∨ u.holdActive = false) : reqOf dt src code s = (u.disarm src).takeReq code := by
  obtain ⟨⟨hr, harm⟩, hq⟩ := mayRequest_iff.mp h
  rw [reqOf_armed hu hr harm, modReq_takes (hq.disarm src) (by rw [reqAllowed_disarm, ha]) (by rwa [holdActive_disarm])]

/-- A request that the table does not have for the mode is refused for reason 3. -/
theorem reqOf_refused (hu : u = s.after dt) (h : u.mayRequest src = true) (ha : u.reqAllowed code = false) :
    reqOf dt src code s = (u.disarm src).refuseReq 3 := by
  obtain ⟨⟨hr, harm⟩, hq⟩ := mayRequest_iff.mp h
  rw [reqOf_armed hu hr harm, modReq_refuses (hq.disarm src) (by rw [reqAllowed_disarm, ha])]

theorem exec_hold (dt : Nat) (src : Src) (s : State) : exec (.hold dt src) s = .next (reqOf dt src 1 s) := rfl
theorem exec_holdExit (dt : Nat) (src : Src) (s : State) : exec (.holdExit dt src) s = .next (reqOf dt src 2 s) := rfl
theorem exec_service (dt : Nat) (src : Src) (s : State) : exec (.service dt src) s = .next (reqOf dt src 3 s) := rfl
theorem exec_serviceExit (dt : Nat) (src : Src) (s : State) : exec (.serviceExit dt src) s = .next (reqOf dt src 4 s) := rfl
theorem exec_reload (dt : Nat) (src : Src) (s : State) : exec (.reload dt src) s = .next (reqOf dt src 5 s) := rfl
theorem exec_surrender (dt : Nat) (src : Src) (s : State) : exec (.surrender dt src) s = .next (reqOf dt src 6 s) := rfl

theorem exec_modReqUndefined (hk : code < 16) (h : code = 0 ∨ 6 < code) (dt : Nat) (src : Src) (s : State) :
    exec (.modReqUndefined dt src code) s = .next (reqOf dt src code s) := by
  have ok : (decide (code < 16) && (code == 0 || decide (6 < code))) = true := by simpa [hk] using h
  change execModReqUndefined dt src code s = _
  rw [execModReqUndefined, ok, needs_true]

theorem takeReq_hold (s : State) : s.takeReq 1 = (s.noteReq.enterMode 6 false).clearPend.healthCheck := rfl
theorem takeReq_holdExit (s : State) : s.takeReq 2 = s.noteReq.setPend s.from_ 1 s.now := rfl
theorem takeReq_service (s : State) : s.takeReq 3 = s.noteReq.setPend 7 1 s.now := rfl
theorem takeReq_serviceExit (s : State) : s.takeReq 4 = s.noteReq.setPend (if s.from_ = 1 then 1 else 6) 1 s.now := rfl
theorem takeReq_reload (s : State) : s.takeReq 5 = s.noteReq.setPend 0 3 (s.tb.rim + 1000) := rfl
theorem takeReq_surrender (s : State) : s.takeReq 6 = s.noteReq.surrenderNow 0 true := rfl

/-! ### HOLD -/

theorem healthCheck_regs (s : State) : s.healthCheck.regs = s.regs := by
  unfold State.healthCheck
  split
  · exact State.twinSend_regs s _ _
  · rfl

theorem healthCheck_dev (s : State) : s.healthCheck.dev = s.dev := by
  unfold State.healthCheck
  split
  · exact State.twinSend_dev s _ _
  · rfl

/-- The check of PPS discipline writes TB_STAT and TB_CTRL alone. -/
theorem rd_ppsCheck (s : State) {x : Fld} (hs : x.addr ≠ 0x20014) (hc : x.addr ≠ 0x20010) : s.ppsCheck.rd x = s.rd x := by
  have unlock : ∀ n, ({ s.wr R.TB_STAT.PPS_LOCK 0 with tb := { s.tb with ppsRun := n } } : State).rd x = s.rd x := fun n =>
    (rd_congr rfl x).trans (rd_wr_other s _ x 0 hs (by decide))
  unfold State.ppsCheck
  split
  · rfl
  · dsimp only
    split
    · rw [rd_wr_other _ _ _ _ hc (by decide)]
      exact unlock 0
    · exact unlock 0

theorem inkEvent_regs (s : State) (k n : Nat) : (s.inkEvent k n).regs = s.regs := by
  unfold State.inkEvent
  dsimp only
  split <;> rfl

/-- What every change of mode does to the registers of the mode: MODE, FROM, the count of changes, and vector 1. -/
def State.noteMode (s : State) (m f : Nat) : State :=
  (((s.wr R.MOD_STATE.MODE m).wr R.MOD_STATE.FROM f).bump R.MOD_STAT.CHANGES R.MOD_STAT.OVF).raiseInt 1

theorem mode_noteMode (s : State) {m : Nat} (hm : m < 16) (f : Nat) : (s.noteMode m f).mode = m := by
  unfold State.mode State.noteMode
  rw [rd_raiseInt, rd_bump_other _ _ _ _ (by decide) (by decide) (by decide) (by decide),
    rd_wr_apart _ R.MOD_STATE.FROM R.MOD_STATE.MODE _ rfl rfl (by decide) (by decide), rd_wr_same _ R.MOD_STATE.MODE _ rfl (by decide)]
  exact Nat.mod_eq_of_lt hm

theorem from_noteMode (s : State) (m : Nat) {f : Nat} (hf : f < 16) : (s.noteMode m f).rd R.MOD_STATE.FROM = f := by
  unfold State.noteMode
  rw [rd_raiseInt, rd_bump_other _ _ _ _ (by decide) (by decide) (by decide) (by decide), rd_wr_same _ _ _ rfl (by decide)]
  exact Nat.mod_eq_of_lt hf

theorem rd_noteMode_other (s : State) (m f : Nat) {x : Fld} (h : x.addr ≠ 0x30010) (hc : x.addr ≠ 0x30018) : (s.noteMode m f).rd x = s.rd x := by
  unfold State.noteMode
  rw [rd_raiseInt, rd_bump_other _ _ _ _ hc hc (by decide) (by decide), rd_wr_other _ _ _ _ h (by decide), rd_wr_other _ _ _ _ h (by decide)]

/-- The registers after entry into HOLD from LEAD, NODE or BRIDGE: those of the mode, FROM naming the mode left, and beside them only the journal's queue and PPS discipline. -/
theorem rd_enterMode_hold (hm : s.mode = 2 ∨ s.mode = 4 ∨ s.mode = 5) (b : Bool) {x : Fld} (hs : x.addr ≠ 0x20014) (hc : x.addr ≠ 0x20010) :
    (s.enterMode 6 b).rd x = ((s.journal 4 6 true noUnit).noteMode 6 s.mode).rd x := by
  unfold State.enterMode
  extract_lets old from_ fault sj sm sc si dev sr sn sd fresh rul sk sz sx sw
  have hfrom : from_ = s.mode := by
    unfold from_ old
    rw [if_pos (by decide), if_neg (by simp; omega), if_neg (by omega)]
  have hc3 : sc = (s.journal 4 6 true noUnit).noteMode 6 s.mode := by unfold sc sm; rw [hfrom]; rfl
  have hi : si.regs = sc.regs := by unfold si; split; exacts [inkEvent_regs _ _ _, rfl]
  have hd : sd.regs = si.regs := rfl
  have hk : sk = sd := if_neg Bool.false_ne_true
  have hz : sz = sk := if_neg Bool.false_ne_true
  have hw : sw.regs = sz.regs := rfl
  rw [rd_ppsCheck _ hs hc, ← hc3]
  exact rd_congr (by rw [hw, hz, hk, hd, hi]) x

theorem clearPend_regs (s : State) : s.clearPend.regs = (s.setPend 15 0 0).regs := rfl

/-- A HOLD request in LEAD, NODE or BRIDGE takes effect at once. -/
theorem takeReq_hold_enters (hm : u.mode = 2 ∨ u.mode = 4 ∨ u.mode = 5) (src : Src) :
    ((u.disarm src).takeReq 1).AfterRequest src 15 0 6 ∧ ((u.disarm src).takeReq 1).rd R.MOD_STATE.FROM = u.mode := by
  rw [takeReq_hold]
  have hv : (u.disarm src).noteReq.mode = u.mode := (mode_congr rfl).trans (mode_disarm u src)
  have hmv : (u.disarm src).noteReq.mode = 2 ∨ (u.disarm src).noteReq.mode = 4 ∨ (u.disarm src).noteReq.mode = 5 := by rwa [hv]
  have harm : ∀ x : Fld, x.addr = 0x10020 → (u.disarm src).noteReq.rd x = (u.disarm src).rd x := fun x _ => rd_noteReq _ x
  generalize (u.disarm src).noteReq = v at hv hmv harm
  have rd_take : ∀ x, ((v.enterMode 6 false).clearPend.healthCheck).rd x = ((v.enterMode 6 false).setPend 15 0 0).rd x := fun x =>
    (rd_congr (healthCheck_regs _) x).trans (rd_congr (clearPend_regs _) x)
  have hmode : (v.enterMode 6 false).clearPend.healthCheck.rd R.MOD_STATE.MODE = 6 := by
    rw [rd_take, rd_setPend_low _ _ _ _ rfl (by decide), rd_enterMode_hold hmv _ (by decide) (by decide)]
    exact mode_noteMode _ (by decide) _
  refine ⟨⟨?_, ?_, hmode, ?_⟩, ?_⟩
  · rw [rd_take, rd_setPend_pend _ (by decide)]
  · rw [healthCheck_dev]; rfl
  · rw [armed_congr (fun x hx => ?_) src, armed_disarm u src]
    rw [rd_take, rd_setPend_other _ _ _ _ (by omega), rd_enterMode_hold hmv _ (by omega) (by omega), rd_noteMode_other _ _ _ (by omega) (by omega),
      rd_journal _ _ _ _ _ _ (by omega), harm x hx]
  · rw [rd_take, rd_setPend_low _ _ _ _ rfl (by decide), rd_enterMode_hold hmv _ (by decide) (by decide), hv]
    exact from_noteMode _ _ (by omega)

/-! ### Refusals -/

/-- A refused request shows its reason and changes nothing of the mode. -/
theorem rd_refuseReq (s : State) {r : Nat} (hr : r < 8) :
    (s.refuseReq r).rd R.MOD_STAT.REQ_REFUSED = 1 ∧ (s.refuseReq r).rd R.MOD_STAT.REASON = r ∧
      ∀ x : Fld, x.addr ≠ 0x30018 → (s.refuseReq r).rd x = s.rd x := by
  unfold State.refuseReq
  refine ⟨?_, ?_, fun x hx => ?_⟩
  · rw [rd_wr_apart _ R.MOD_STAT.REASON R.MOD_STAT.REQ_REFUSED _ rfl rfl (by decide) (by decide), rd_flag_same _ _ rfl rfl]
  · rw [rd_wr_same _ _ _ rfl (by decide)]
    exact Nat.mod_eq_of_lt hr
  · rw [rd_wr_other _ _ _ _ hx (by decide), rd_flag_other _ _ _ hx (by decide)]

/-- A code that R112 does not define is in the table for no mode. -/
theorem reqAllowed_undefined (s : State) (h : code = 0 ∨ 6 < code) : s.reqAllowed code = false := by
  have h6 : (code == 6) = false := beq_eq_false_iff_ne.mpr (by omega)
  rw [State.reqAllowed, if_neg (by omega), if_neg (by omega), if_neg (by omega), if_neg (by omega), if_neg (by omega), h6]
  rfl

/-- A request of a source that is not armed is a violation of the key, and no request (R56). -/
theorem reqOf_unarmed (hu : u = s.after dt) (hr : u.reads src = true) (ha : u.armed src = false) :
    reqOf dt src code s = (u.flag R.CMT_STAT.KEY_VIOL).violInfo src 1 R.MOD_REQ.CODE.addr := by
  unfold State.reads at hr
  simp only [reqOf, ← hu, hr, if_true, State.modReqWrite, State.keyed, ha, Bool.false_eq_true, if_false]

theorem rd_violInfo (s : State) (src : Src) (k a : Nat) {x : Fld} (h : x.addr ≠ 0x10024) : (s.violInfo src k a).rd x = s.rd x :=
  rd_putRaw_other s _ h (by decide)

/-! ### SURRENDER -/

/-- Undoing an entry into HOLD writes the two registers of the mode alone. -/
theorem rd_holdUndo (s : State) {x : Fld} (hm : x.addr ≠ 0x30010) (hc : x.addr ≠ 0x30018) : s.holdUndo.rd x = s.rd x := by
  unfold State.holdUndo
  split
  · rfl
  · have words : ∀ v w, ((s.putRaw R.MOD_STATE.MODE.addr v).putRaw R.MOD_STAT.CHANGES.addr w).rd x = s.rd x := fun v w =>
      (rd_putRaw_other _ w hc (by decide)).trans (rd_putRaw_other s v hm (by decide))
    rw [← words]
    exact rd_congr (by rfl) x

/-- A surrender of a leader that originates nothing and has no hand-back pending waits for the next base boundary (R368, R369). -/
theorem surrenderNow_alone (hc : s.claim ≠ 0) (hm : s.roleMode = 2) (hl : s.leadsAny = false) (hb : s.rd R.TWN_STAT.HB_PEND = 0) :
    ∃ t : State, s.surrenderNow 0 true = (t.setPend 1 1 t.now).healthCheck ∧ t.dev.surrender = true ∧
      t.rd R.TWN_FLAGS.SURRENDERED = 1 ∧ ∀ x : Fld, x.addr = 0x10020 → t.rd x = s.rd x := by
  have hcancel : s.holdUndo.hbCancel = s.holdUndo := by
    unfold State.hbCancel
    rw [if_pos (by rw [rd_holdUndo s (by decide) (by decide), hb])]
  unfold State.surrenderNow
  rw [if_neg (by simp [hc, hm])]
  extract_lets any s1 dev twin s2 s3 s4
  have hany : any = false := hl
  rw [hany]
  refine ⟨s4, rfl, ?_, rd_flag_same _ R.TWN_FLAGS.SURRENDERED rfl rfl, fun x hx => ?_⟩
  · simp [s4, s3, s2]
  · have h2 : s2.rd x = s.rd x := by
      refine (rd_congr (t := s2) (s := s.holdUndo) ?_ x).trans (rd_holdUndo s (by omega) (by omega))
      change s.holdUndo.hbCancel.regs = s.holdUndo.regs
      rw [hcancel]
    have ne : ∀ a, 0x700000 ≤ a → x.addr ≠ a := fun a ha => by omega
    rw [rd_flag_other _ _ _ (ne _ (by decide)) (by decide), rd_bump_other _ _ _ _ (ne _ (by decide)) (ne _ (by decide)) (by decide) (by decide)]
    unfold s3 State.wrB
    rw [rd_wr_other _ _ _ _ (ne _ (by decide)) (by decide), rd_wr_other _ _ _ _ (ne _ (by decide)) (by decide), h2]

/-! ### RELOAD -/

/-- The units, device control, time base and memory, which a write of a register, a record of the journal and a change of the spares leave alone. -/
def State.unitView (s : State) : List (Nat × Lane) × List (Nat × Queue) × List (Nat × Chan) × Dev × TimeBase × List Host.Cell :=
  (s.lanes, s.queues, s.chans, s.dev, s.tb, s.mem)

theorem unitView_wr (s : State) (f : Fld) (v : Nat) : (s.wr f v).unitView = s.unitView := rfl

theorem unitView_wrB (s : State) (f : Fld) (b : Bool) : (s.wrB f b).unitView = s.unitView := rfl

theorem unitView_targetTop (s : State) : s.targetTop.unitView = s.unitView := rfl

theorem unitView_applyRetired (s : State) : s.applyRetired.unitView = s.unitView := by
  unfold State.applyRetired State.leftOver
  dsimp only
  rw [forEach_keeps State.unitView (fun _ _ => unitView_wr _ _ _), forEach_keeps State.unitView, forEach_keeps State.unitView,
    forEach_keeps State.unitView]
  · rfl
  all_goals
    intro n t
    repeat' split
    all_goals rfl

theorem dropReq_dev (r : CmtReq) (s : State) : (State.dropReq r s).dev = s.dev := by
  unfold State.dropReq
  dsimp only
  rw [forEach_keeps State.dev (fun h s => State.showPend_dev s h), State.raiseInt_dev, State.wr_dev]

theorem stepEffects_dev (s : State) : s.stepEffects.dev = s.dev := by
  unfold State.stepEffects
  dsimp only
  rw [forEach_keeps State.dev, forEach_keeps State.dev]
  · split
    · exact forEach_keeps State.dev dropReq_dev s
    · exact (State.flag_dev _ _).trans (forEach_keeps State.dev dropReq_dev s)
  · intro q t
    simp
  · intro c t
    simp

theorem switchDomain_dev (s : State) (p : Bool) : (s.switchDomain p).dev = s.dev := by
  have active : (s.setActive p).dev = s.dev := by
    unfold State.setActive
    split
    · rfl
    · refine (stepEffects_dev _).trans ?_
      exact State.wr_dev s R.TB_CTRL.ACT (b2n p)
  unfold State.switchDomain State.setLattice
  split
  · rfl
  · dsimp only
    rw [State.wr_dev]
    exact active

theorem dropMembers_dev (s : State) (gone : Nat → Bool) : (s.dropMembers gone).dev = s.dev := by
  refine forEach_keeps State.dev (fun x t => ?_) s
  split
  · rfl
  · unfold State.memberDone State.finishReq
    dsimp only
    split
    · exact (State.putRaw_dev _ _ _).trans ((dropReq_dev _ _).trans (State.showPend_dev _ _))
    · exact State.showPend_dev _ _

/-- A byte that passes the test keeps its value. -/
theorem tget_filter {α : Type} (d : α) (p : Nat × α → Bool) (l : List (Nat × α)) {k : Nat} (h : ∀ v, p (k, v) = true) :
    tget d (l.filter p) k = tget d l k := by
  induction l with
  | nil => rfl
  | cons x t ih =>
    obtain ⟨a, v⟩ := x
    by_cases ha : a = k
    · subst ha
      rw [List.filter_cons_of_pos (h v)]
      simp [tget]
    · rw [List.filter_cons]
      split <;> simp [tget, ha, ih]

theorem mem8_keepMem (s : State) (p : Host.Cell → Bool) {sp a : Nat} (h : ∀ v, p (cellKey sp a, v) = true) :
    (s.keepMem p).mem8 sp a = s.mem8 sp a :=
  congrArg BitVec.toNat (tget_filter _ p s.mem h)

/-- Is a commit member in a domain that RELOAD switches off? -/
def reloadGone (h : Nat) : Bool := match locate h with | some l => reloadOff l.domain | none => false

/-- Does a stored byte outlast RELOAD: the flash, and the spaces whose domains stay on? -/
def reloadKeeps (x : Host.Cell) : Bool := p2 32 ≤ x.1 || x.1 / p2 24 == 5 || x.1 / p2 24 == 0x10 || x.1 / p2 24 == 0x11

/-- The device in BOOT with its pending transition, its domain P and its pending commits ended, before the units switch off. -/
def State.reloadLeft (s : State) : State :=
  ((((s.ballsQuit.enterMode 0 false).clearPend.switchDomain false).wr R.TB_CTRL.L_SRC 0).wr R.TB_CTRL.P_SRC 0).dropMembers reloadGone

theorem reloadLeft_pendKind (s : State) : s.reloadLeft.dev.pendKind = 0 := by
  unfold State.reloadLeft
  rw [dropMembers_dev, State.wr_dev, State.wr_dev, switchDomain_dev]
  rfl

theorem reloadLeft_mem (s : State) : s.reloadLeft.mem = s.mem :=
  (State.dropMembers_keeps (wm := false) _ (State.wr_keeps _ _ (State.wr_keeps _ _ (State.switchDomain_keeps _
    (State.clearPend_keeps (State.enterMode_keeps _ _ (State.ballsQuit_keeps (Keeps.refl s)))))))).2.2.2 rfl

/-- The units of the domains that switch off at their reset state, no rate group in force, and BOOT counting from 0. -/
def State.reloadUnits (s : State) : State :=
  let s := (s.mapRegs reloadWord).keepMem reloadKeeps
  { s with
    serifs := State.reset.serifs, gens := State.reset.gens, queues := State.reset.queues, idxN := State.reset.idxN, rul := State.reset.rul, mgn := State.reset.mgn, lanes := State.reset.lanes
    ink := State.reset.ink, delta := State.reset.delta, fbs := State.reset.fbs, pbs := State.reset.pbs, sds := State.reset.sds
    app := State.reset.app, chans := State.reset.chans, ring := State.reset.ring, twin := State.reset.twin
    tb := { s.tb with boot := 0, ppsRef := none, ppsRun := 0 }
    dev := { s.dev with rgIn := false, cfg := .empty, flashTo := 0 } }

/-- The registers that BOOT shows. -/
def State.reloadShow (s : State) : State :=
  let s := s.wr R.PWR_DOM.ON lockDoms
  let s := ((s.wr R.MOD_STATE.SLOT 0).wr R.MOD_STATE.ROLE 0).wr R.MOD_STAT.FOLIO_NONE 0
  let s := (s.wr R.MOD_STAT.UNSIGNED 0).wrB R.LIVE_STAT.RUNNING s.liveRuns
  let s := if s.rd R.PWR_VID.TARGET == 63 then s else s.targetTop
  s.applyRetired

/-- RELOAD in its three parts. -/
theorem reloadNow_eq (s : State) : s.reloadNow = s.reloadLeft.reloadUnits.reloadShow := rfl

theorem unitView_reloadShow (s : State) : s.reloadShow.unitView = s.unitView := by
  unfold State.reloadShow
  extract_lets sh si sj sk
  have hj : sj.unitView = s.unitView := by
    unfold sj si sh
    rw [unitView_wrB, unitView_wr, unitView_wr, unitView_wr, unitView_wr, unitView_wr]
  rw [unitView_applyRetired, ← hj]
  unfold sk
  split
  · rfl
  · exact unitView_targetTop sj

/-- The units, the flash and what is pending after RELOAD_TRANSITION (R112, R493). -/
theorem reloadNow_units (s : State) :
    s.reloadNow.dev.rgIn = false ∧ s.reloadNow.dev.pendKind = 0 ∧ s.reloadNow.tb.boot = 0 ∧ s.reloadNow.lanes = [] ∧ s.reloadNow.queues = [] ∧
      s.reloadNow.chans = [] ∧ ∀ a, s.reloadNow.mem8 0x100 a = s.mem8 0x100 a := by
  have hview : s.reloadNow.unitView = s.reloadLeft.reloadUnits.unitView := by rw [reloadNow_eq, unitView_reloadShow]
  simp only [State.unitView, Prod.mk.injEq] at hview
  obtain ⟨hlanes, hqueues, hchans, hdev, htb, hmem⟩ := hview
  have hkept : ∀ a v, reloadKeeps (cellKey 0x100 a, v) = true := fun a v => by
    have flash : p2 32 ≤ cellKey 0x100 a := by unfold cellKey p2; omega
    simp [reloadKeeps, flash]
  have hflash : ∀ a, (s.reloadLeft.keepMem reloadKeeps).mem8 0x100 a = s.mem8 0x100 a := fun a => by
    rw [mem8_keepMem _ _ (hkept a), mem8_congr (reloadLeft_mem s)]
  rw [hdev, htb, hlanes, hqueues, hchans]
  exact ⟨rfl, reloadLeft_pendKind s, rfl, rfl, rfl, rfl, fun a => (mem8_congr hmem _ a).trans (hflash a)⟩

theorem exec_reloadTransition_due (hu : u = s.runRim s.dev.pendAt) (ha : s.alive = true) (hr : s.tb.run = true) (hk : s.dev.pendKind = 3)
    (hp : s.rd R.MOD_STATE.PEND = 0) : exec .reloadTransition s = .next u.reloadNow := by
  change execReloadTransition s = _
  rw [execReloadTransition, if_pos (by simp [ha, hr, hk, hp]), hu]

theorem from_lt (s : State) : s.from_ < 16 := bits_lt _ 7 4

theorem from_disarm (u : State) (src : Src) : (u.disarm src).from_ = u.from_ := rd_disarm u src (by decide)

end
end Machine

open Machine

/-- Settles O44: a request uses up the arming of its source and is judged by the table of R112, which the arming is no part of; what it leaves pending, or the entry into HOLD, writes the registers of the mode alone. -/
theorem modeRequestsOfTheHostAndScribe : Obligations.ModeRequestsOfTheHostAndScribe := by
  unfold Obligations.ModeRequestsOfTheHostAndScribe
  refine ⟨fun s dt u src hu h hm => ?hold, fun s dt u src hu h hm hh => ?exit, fun s dt u src hu h hm hs => ?service,
    fun s dt u src hu h hm => ?serviceExit, fun s dt u src hu h hm => ?reload, fun s dt u src hu h hm hc hl hb _ => ?surrender,
    fun s dt u src k hu hk hk16 h => ?undefined, fun s dt u src hu hr ha => ?unarmed, fun s u hu ha hr hk hp => ?transition⟩
  case hold =>
    have allowed : u.reqAllowed 1 = true := by rcases hm with hm | hm | hm <;> simp [State.reqAllowed, hm]
    obtain ⟨p, hfrom⟩ := takeReq_hold_enters hm src
    exact ⟨_, by rw [exec_hold, reqOf_taken hu h allowed (.inl (by decide))], p.mode, hfrom, p.armed, p.pend, p.kind⟩
  case exit =>
    have allowed : u.reqAllowed 2 = true := by simp [State.reqAllowed, hm]
    have p := afterRequest_setPend u src (from_lt u) 1 (u.disarm src).now
    exact ⟨_, by rw [exec_holdExit, reqOf_taken hu h allowed (.inr hh), takeReq_holdExit, from_disarm], p.pend, p.kind, p.mode.trans hm, p.armed⟩
  case service =>
    have allowed : u.reqAllowed 3 = true := by simpa [State.reqAllowed, hm] using hs
    have p := afterRequest_setPend u src (m := 7) (by decide) 1 (u.disarm src).now
    exact ⟨_, by rw [exec_service, reqOf_taken hu h allowed (.inl (by decide)), takeReq_service], p.pend, p.kind, p.mode.trans hm, p.armed⟩
  case serviceExit =>
    have allowed : u.reqAllowed 4 = true := by simp [State.reqAllowed, hm]
    have p := afterRequest_setPend u src (m := if u.from_ = 1 then 1 else 6) (by split <;> decide) 1 (u.disarm src).now
    exact ⟨_, by rw [exec_serviceExit, reqOf_taken hu h allowed (.inl (by decide)), takeReq_serviceExit, from_disarm], p.pend, p.kind, p.mode.trans hm, p.armed⟩
  case reload =>
    have allowed : u.reqAllowed 5 = true := by rcases hm with hm | hm | hm <;> simp [State.reqAllowed, hm]
    have p := afterRequest_setPend u src (m := 0) (by decide) 3 (u.tb.rim + 1000)
    exact ⟨_, by rw [exec_reload, reqOf_taken hu h allowed (.inl (by decide)), takeReq_reload, State.disarm_tb], p.pend, p.kind, by rw [setPend_dev], p.mode, p.armed⟩
  case surrender =>
    have role : u.roleMode = 2 := by simp [State.roleMode, hm]
    have allowed : u.reqAllowed 6 = true := by simp [State.reqAllowed, role, hc]
    have hv : ∀ x, (u.disarm src).noteReq.rd x = (u.disarm src).rd x := rd_noteReq _
    obtain ⟨t, ht, hsurr, hflag, harm⟩ := surrenderNow_alone (s := (u.disarm src).noteReq) ((claim_disarm u src).symm ▸ hc)
      ((roleMode_disarm u src).trans role) ((leadsAny_disarm u src).trans hl) (by rw [hv, rd_disarm u src (by decide), hb])
    refine ⟨_, by rw [exec_surrender, reqOf_taken hu h allowed (.inl (by decide)), takeReq_surrender, ht], ?_, ?_, ?_, ?_, ?_⟩
    · rw [rd_congr (healthCheck_regs _), rd_setPend_pend _ (by decide)]
    · rw [healthCheck_dev, setPend_dev, hsurr]
    · rw [healthCheck_dev, setPend_dev]
    · rw [rd_congr (healthCheck_regs _), rd_setPend_other _ _ _ _ (by decide), hflag]
    · rw [armed_congr (fun x hx => ?_) src, armed_disarm u src]
      rw [rd_congr (healthCheck_regs _), rd_setPend_other _ _ _ _ (by omega), harm x hx, hv]
  case undefined =>
    obtain ⟨hflag, hreason, hrest⟩ := rd_refuseReq (u.disarm src) (r := 3) (by decide)
    have hpend : u.rd R.MOD_STATE.PEND = 15 := (mayRequest_iff.mp h).2.pend
    refine ⟨_, by rw [exec_modReqUndefined hk16 hk, reqOf_refused hu h (reqAllowed_undefined u hk)], hflag, hreason, ?_, ?_, ?_⟩
    · rw [hrest _ (by decide), rd_disarm u src (by decide), hpend]
    · exact (hrest _ (by decide)).trans (mode_disarm u src)
    · rw [armed_congr (fun x hx => hrest x (by omega)) src, armed_disarm u src]
  case unarmed =>
    refine ⟨_, by rw [exec_hold, reqOf_unarmed hu hr ha], ?_, ?_, ?_⟩
    · rw [rd_violInfo _ _ _ _ (by decide), rd_flag_same _ _ rfl rfl]
    · rw [rd_violInfo _ _ _ _ (by decide), rd_flag_other _ _ _ (by decide) (by decide)]
    · rw [State.violInfo_dev, State.flag_dev]
  case transition =>
    exact ⟨_, exec_reloadTransition_due hu ha hr hk hp, reloadNow_units u⟩

end Sys2Proof
end

section
namespace Sys2Proof

/-! PROOFS. The reset sources and the release of a reset (R97): what they leave of the journal, the memory and the units. O42 turns on a free value. -/

namespace Machine

/-! ### The journal while the outputs stop -/

/-- A step taken on a condition keeps what it keeps when it is taken. -/
theorem ite_keeps {α β : Type} (p : α → β) (c : Prop) [Decidable c] {x y : α} (h : p x = p y) : p (if c then x else y) = p y := by
  split
  · exact h
  · rfl

theorem putPb_blt (s : State) (b : Nat) (p : Pb) : (s.putPb b p).blt = s.blt := rfl

theorem setSout_blt (s : State) (j : Nat) (on : Bool) : (s.setSout j on).blt = s.blt := by
  unfold State.setSout
  extract_lets o off o' m s1 s2 s3
  have h1 : s1.blt = s.blt := rfl
  have h2 : s2.blt = s1.blt := State.wr_blt s1 _ _
  clear_value s1
  have h3 : s3.blt = s.blt := by
    unfold s3
    split
    · rw [h2, h1]
    · rw [State.wr_blt, h2, h1]
  by_cases hon : (s.rd (R.MGN_SOUT_STAT.ENERGISED.j j) == 1) = on
  · rw [if_pos hon]
  · rw [if_neg hon, State.emit_blt, State.emit_blt, h3]

theorem soutsOff_blt (s : State) : s.soutsOff.blt = s.blt := by
  unfold State.soutsOff
  exact forEach_keeps State.blt (fun j t => setSout_blt t j false) _

theorem pbPulse_blt (s : State) (b p since t : Nat) (high : Bool) : (s.pbPulse b p since t high).blt = s.blt := by
  unfold State.pbPulse
  extract_lets d dt lived w
  generalize w = width
  by_cases hw : width = 0
  · rw [if_pos hw]
  · rw [if_neg hw, State.emit_blt]

theorem phaseChange_blt (s : State) (b p t : Nat) (lev : Bool) : (s.phaseChange b p t lev).blt = s.blt := by
  unfold State.phaseChange
  extract_lets x dt since d s1 v lowOn x'
  have h1 : s1.blt = s.blt := by
    unfold s1
    split
    · exact pbPulse_blt s b p since t _
    · rfl
  by_cases hl : x.h = lev
  · rw [if_pos hl]
  · rw [if_neg hl, putPb_blt, h1]

theorem phaseFlush_blt (s : State) (b p t : Nat) : (s.phaseFlush b p t).blt = s.blt := by
  unfold State.phaseFlush
  exact (forEach_keeps State.blt (fun c u => phaseChange_blt u b p _ _) _).trans (putPb_blt _ _ _)

theorem pbFlush_blt (s : State) (b t : Nat) : (s.pbFlush b t).blt = s.blt := by
  unfold State.pbFlush
  exact forEach_keeps State.blt (fun p u => phaseFlush_blt u b p t) s

/-- What `State.pbCut` does to one phase. -/
def pbCutPhase (b t p : Nat) (s : State) : State :=
  s.pbPulse b p (if (pbPhase (s.pb b) p).h then (pbPhase (s.pb b) p).rise else (pbPhase (s.pb b) p).fall) t (pbPhase (s.pb b) p).h

theorem pbCut_eq (s : State) (b t : Nat) : s.pbCut b t = forEach [0, 1, 2] (fun p s => pbCutPhase b t p s) s := rfl

theorem pbCutPhase_blt (b t p : Nat) (s : State) : (pbCutPhase b t p s).blt = s.blt := by
  unfold pbCutPhase
  rw [pbPulse_blt]

theorem pbCut_blt (s : State) (b t : Nat) : (s.pbCut b t).blt = s.blt := by
  rw [pbCut_eq]
  exact forEach_keeps State.blt (fun p u => pbCutPhase_blt b t p u) s

theorem pbLeave_blt (s : State) (b : Nat) : (s.pbLeave b).blt = s.blt := by
  have hleft : ((s.pbFlush b s.now).pbCut b s.now).blt = s.blt := by
    rw [pbCut_blt (s.pbFlush b s.now) b s.now, pbFlush_blt s b s.now]
  unfold State.pbLeave
  with_reducible exact ite_keeps State.blt _ hleft

theorem ballsLeave_blt (s : State) (m : Nat) : (s.ballsLeave m).blt = s.blt := by
  unfold State.ballsLeave
  split
  · rfl
  · exact forEach_keeps State.blt (fun b u => pbLeave_blt u b) s

theorem ballsQuit_blt (s : State) : s.ballsQuit.blt = s.blt := by
  unfold State.ballsQuit
  extract_lets s1 s2 s3 s4
  have h1 : s1.blt = s.blt := ballsLeave_blt s 0
  have h2 : s2.blt = s1.blt := by
    unfold s2
    split
    · refine forEach_keeps State.blt (fun j u => ?_) s1
      split
      · rfl
      · exact State.emit_blt u _
    · rfl
  have h3 : s3.blt = s2.blt :=
    forEach_keeps State.blt (fun k u => forEach_keeps State.blt (fun i v => ite_keeps State.blt _ (State.emit_blt v _)) u) s2
  have h4 : s4.blt = s3.blt := by
    refine forEach_keeps State.blt (fun b u => ?_) s3
    split
    · exact forEach_keeps State.blt (fun p v => (State.emit_blt _ _).trans (State.emit_blt v _)) u
    · rfl
  exact (forEach_keeps State.blt (fun j u => ite_keeps State.blt _ (State.emit_blt u _)) s4).trans (h4.trans (h3.trans (h2.trans h1)))

/-! ### Entry into reset -/

/-- A power-on reset finds the write in progress torn; any other reset finds the journal as it is. -/
def State.resetFinds (s : State) (por : Bool) : State := if por then s.tearWrite else s

/-- The state at a reset with the outputs stopped, the registers at their reset values and the volatile memory lost. -/
def State.resetLeft (s : State) (por : Bool) : State :=
  ((s.resetFinds por).soutsOff.ballsQuit.mapRegs (resetWord (por || (s.dev.inReset && s.dev.por)))).keepMem fun x => p2 32 ≤ x.1

theorem resetLeft_blt (s : State) (por : Bool) : (s.resetLeft por).blt = (s.resetFinds por).blt := by
  have hmap : ∀ (u : State) f p, ((u.mapRegs f).keepMem p).blt = u.blt := fun _ _ _ => rfl
  unfold State.resetLeft
  rw [hmap, ballsQuit_blt, soutsOff_blt]

/-- Stopping the outputs and tearing the write in progress keep the fuses and the memory. -/
theorem quit_keeps (s : State) (por : Bool) : Keeps false s (s.resetFinds por).soutsOff.ballsQuit :=
  State.ballsQuit_keeps (State.soutsOff_keeps (Keeps.ite (State.tearWrite_keeps (Keeps.refl s)) (Keeps.refl s)))

theorem resetLeft_fuses (s : State) (por : Bool) : (s.resetLeft por).dev.fuses = s.dev.fuses := by
  obtain ⟨-, -, hfuses, -⟩ := quit_keeps s por
  have hmap : ∀ (u : State) f p, ((u.mapRegs f).keepMem p).dev = u.dev := fun _ _ _ => rfl
  unfold State.resetLeft
  rw [hmap, hfuses]

/-- The spaces of the flash outlast a reset. -/
theorem resetLeft_flash (s : State) (por : Bool) {sp : Nat} (h : 0x100 ≤ sp) (a : Nat) : (s.resetLeft por).mem8 sp a = s.mem8 sp a := by
  obtain ⟨-, -, -, hmem⟩ := quit_keeps s por
  have hkept : ∀ v, (fun x : Host.Cell => decide (p2 32 ≤ x.1)) (cellKey sp a, v) = true := fun v => by
    have hkey : p2 32 ≤ cellKey sp a := by unfold cellKey p2; omega
    exact decide_eq_true hkey
  have hmap : ∀ (u : State) f, (u.mapRegs f).mem = u.mem := fun _ _ => rfl
  unfold State.resetLeft
  rw [mem8_keepMem _ _ hkept]
  exact mem8_congr ((hmap _ _).trans (hmem rfl)) sp a

/-- What the entry into reset makes of the state it is left in. -/
theorem enterReset_view (s : State) (por : Bool) (cause : Nat) :
    (s.enterReset por cause).alive = false ∧ (s.enterReset por cause).dev.por = (por || (s.dev.inReset && s.dev.por)) ∧
      (s.enterReset por cause).blt.log = (s.resetLeft por).blt.log ∧ (s.enterReset por cause).tb.run = false ∧
      (s.enterReset por cause).bus.link = false ∧ (s.enterReset por cause).dev.fuses = (s.resetLeft por).dev.fuses ∧
      (s.enterReset por cause).cmt.reqs = [] ∧ (s.enterReset por cause).mem = (s.resetLeft por).mem := by
  have hleft : s.resetLeft por = (((if por then s.tearWrite else s).soutsOff.ballsQuit.mapRegs
    (resetWord (por || (s.dev.inReset && s.dev.por)))).keepMem fun x => p2 32 ≤ x.1) := rfl
  unfold State.enterReset
  extract_lets c all x z t
  have hx : s.resetLeft por = x := hleft
  rw [hx]
  clear_value x
  exact ⟨rfl, rfl, rfl, rfl, rfl, rfl, rfl, rfl⟩

theorem enterReset_causes (s : State) (por : Bool) (cause : Nat) :
    (s.enterReset por cause).raw 0x104 = (if s.dev.inReset then s.dev.cause else 0) ||| 2 ^ cause := by
  unfold State.enterReset
  exact raw_putRaw_same _ _ _

/-- Entry into reset does what the reset sources share, but for what it finds of the journal. -/
theorem enterReset_resetBy (s : State) (por : Bool) (cause : Nat) (hlog : (s.resetFinds por).blt.log = s.blt.log) :
    ResetBy cause por s (s.enterReset por cause) := by
  obtain ⟨halive, hpor, hblt, hrun, hlink, hfuses, hreqs, hmem⟩ := enterReset_view s por cause
  refine ⟨halive, enterReset_causes s por cause, hpor, ?_, hrun, hlink, hfuses.trans (resetLeft_fuses s por), hreqs, fun a => ⟨?_, ?_⟩⟩
  · rw [hblt, resetLeft_blt, hlog]
  · exact (mem8_congr hmem _ a).trans (resetLeft_flash s por (by decide) a)
  · exact (mem8_congr hmem _ a).trans (resetLeft_flash s por (by decide) a)

/-! ### The journal at a loss of power -/

/-- A reset other than a power-on reset finds the journal as it is. -/
theorem resetFinds_warm (s : State) : (s.resetFinds false).blt.log = s.blt.log := rfl

/-- Where no free value tears a write, a loss of power keeps the journal. -/
theorem tearWrite_log (h : ∀ n, Config.freeNat n % 2 ≠ 1) (s : State) : s.tearWrite.blt.log = s.blt.log := by
  have hfree : (Config.freeNat s.free % 2 = 1) = False := eq_false (h s.free)
  unfold State.tearWrite
  split
  · rfl
  · rw [if_neg (by simp [hfree])]
    rfl

/-- A device out of reset whose journal is ready and writes an entry, with n as the counter of its free values. -/
def journalling (n : Nat) : State :=
  { State.reset with
    regs := [(R.BLT_STAT.READY.addr, p2 R.BLT_STAT.READY.lo)]
    blt := { State.reset.blt with queue := [⟨0, 0, 0, 0, 0, 0, 0, 0, 0⟩] }
    free := n }

theorem journalling_ready (n : Nat) : (journalling n).rd R.BLT_STAT.READY = 1 := by
  have hraw : (journalling n).raw R.BLT_STAT.READY.addr = p2 R.BLT_STAT.READY.lo := rfl
  unfold State.rd
  rw [rdw_plain _ (by decide), hraw]
  decide

/-- A loss of power tears the write in progress where the free value is odd: the journal is an entry longer. -/
theorem tearWrite_journalling (n : Nat) (h : Config.freeNat n % 2 = 1) : (journalling n).tearWrite.blt.log.length = 1 := by
  have hfree : Config.freeNat (journalling n).free % 2 = 1 := h
  have hroom : (journalling n).blt.fill < 512 := Nat.zero_lt_succ 511
  have hqueue : (journalling n).blt.queue = [⟨0, 0, 0, 0, 0, 0, 0, 0, 0⟩] := rfl
  unfold State.tearWrite
  rw [hqueue]
  dsimp only
  rw [if_pos (by simp [journalling_ready, hroom, hfree])]
  rfl

/-! ### The reset sources and the release -/

theorem ResetBy.of_disarm {cause : Nat} {por : Bool} {s t : State} {src : Src} (h : ResetBy cause por (s.disarm src) t) :
    ResetBy cause por s t := by
  have hflash : ∀ sp a, (s.disarm src).mem8 sp a = s.mem8 sp a := mem8_congr (State.disarm_mem s src)
  simpa only [ResetBy, State.disarm_dev, State.disarm_blt, hflash] using h

theorem porst_resetBy (h : ∀ n, Config.freeNat n % 2 ≠ 1) (s : State) (cause : Nat) : ResetBy cause true s (s.enterReset true cause) :=
  enterReset_resetBy s true cause (tearWrite_log h s)

theorem warm_resetBy (s : State) (cause : Nat) : ResetBy cause false s (s.enterReset false cause) :=
  enterReset_resetBy s false cause (resetFinds_warm s)

/-- WARM_RST by a source that may write and is armed: the arming is consumed and the device enters reset. -/
theorem yields_warmRst {s u : State} {dt : Nat} {src : Src} {v : Nat} (hu : u = s.after dt) (hv : isWord v = true)
    (hs : u.reads src = true) (ha : u.armed src = true) (hb : bit v 31 = true) :
    Yields (.warmRst dt src v) s fun t => ResetBy 3 false u t := by
  have hs' : (src != .ring && u.srcUp src) = true := hs
  obtain ⟨-, hup⟩ := Bool.and_eq_true_iff.mp hs'
  obtain ⟨halive, -⟩ := Bool.and_eq_true_iff.mp hup
  have halive' : (u.disarm src).alive = true := by
    unfold State.alive at halive ⊢
    rwa [State.disarm_dev]
  have hexec : exec (.warmRst dt src v) s = .next ((u.disarm src).enterReset false 3) := by
    change execWarmRst dt src v s = _
    rw [execWarmRst, ← hu, hv, needs_true, if_pos hs', State.devCtrlWrite, State.keyed, if_pos ha, if_pos hb, State.softReset, if_pos halive']
  exact ⟨_, hexec, (warm_resetBy _ 3).of_disarm⟩

theorem yields_coreSupervisor {s u : State} {dt : Nat} (hu : u = s.after dt) (ha : u.alive = true) :
    Yields (.coreSupervisor dt) s fun t => ResetBy 4 false u t := by
  have hexec : exec (.coreSupervisor dt) s = .next (u.enterReset false 4) := by
    change execCoreSupervisor dt s = _
    rw [execCoreSupervisor, ← hu, if_pos ha]
  exact ⟨_, hexec, warm_resetBy u 4⟩

/-- The device as RESET_RELEASE finds it, its straps sampled after a power-on reset. -/
def State.strapped (s : State) (x : Nat) : State := if s.dev.por then s.wr R.DEV_I2C.ADDR (0x30 + x) else s

theorem strapped_mem (s : State) (x : Nat) : (s.strapped x).mem = s.mem := ite_keeps State.mem _ (State.wr_mem s _ _)

theorem strapped_addr {s : State} {x : Nat} (hx : x < 8) (hp : s.dev.por = true) : (s.strapped x).rd R.DEV_I2C.ADDR = 48 + x := by
  unfold State.strapped
  rw [if_pos hp, rd_wr_same s R.DEV_I2C.ADDR _ (by decide) (by decide)]
  exact Nat.mod_eq_of_lt (show 48 + x < 128 by omega)

theorem yields_resetRelease {s u : State} {dt x : Nat} (hu : u = s.after dt) (hx : x < 8) (hr : u.dev.inReset = true) :
    Yields (.resetRelease dt x) s fun t =>
      t.alive = true ∧ t.dev.por = false ∧ t.dev.cause = 0 ∧ t.tb.boot = 0 ∧ (u.dev.por = true → t.rd R.DEV_I2C.ADDR = 48 + x) ∧ t.mem = u.mem := by
  have hexec : exec (.resetRelease dt x) s = .next { u.strapped x with
      dev := { (u.strapped x).dev with inReset := false, por := false, cause := 0 }
      tb := { (u.strapped x).tb with boot := 0 } } := by
    change execResetRelease dt x s = _
    rw [execResetRelease, ← hu, decide_eq_true hx, needs_true, if_pos hr]
    rfl
  exact ⟨_, hexec, rfl, rfl, rfl, rfl, fun hp => strapped_addr (s := u) hx hp, strapped_mem u x⟩

end Machine

open Machine

/-- O42 is the claim that no free value is odd: every clause holds but for the journal of a power-on reset, and that one holds exactly where
no loss of power tears the write in progress (log entry 38). `Config.freeNat` has no body, so neither side can be decided in the model. -/
theorem resetsAddTheirCause_iff : Obligations.ResetsAddTheirCause ↔ ∀ n, Config.freeNat n % 2 ≠ 1 := by
  unfold Obligations.ResetsAddTheirCause
  constructor
  · intro ⟨hsupply, _⟩ n hodd
    obtain ⟨t, hexec, -, -, -, hlog, -⟩ := hsupply (journalling n) 0 (journalling n) rfl
    have ht : (journalling n).enterReset true 0 = t := by injection hexec
    obtain ⟨-, -, hleft, -⟩ := enterReset_view (journalling n) true 0
    rw [ht, hlog, resetLeft_blt] at hleft
    have hlen := congrArg List.length hleft
    exact absurd (hlen.trans (tearWrite_journalling n hodd)) Nat.zero_ne_one
  · intro h
    refine ⟨?_, ?_, ?_, ?_, ?_, ?_⟩
    · rintro s dt u rfl
      exact ⟨_, rfl, porst_resetBy h _ 0⟩
    · rintro s dt u rfl
      exact ⟨_, rfl, porst_resetBy h _ 1⟩
    · rintro s dt u rfl
      exact ⟨_, rfl, warm_resetBy _ 2⟩
    · exact fun s dt u src v hu hv hs ha hb => yields_warmRst hu hv hs ha hb
    · exact fun s dt u hu ha => yields_coreSupervisor hu ha
    · exact fun s dt u x hu hx hr => yields_resetRelease hu hx hr

end Sys2Proof
end

section
namespace Sys2Proof

/-! PROOFS. The commands of a stroke queue (R123, R136): the words that wait for the next advance; and a wait at a mark (R139) that ends in the state of another. -/

namespace Machine

theorem chain_lt {c : Nat} (h : isChain c = true) : c < 16 := of_decide_eq_true h

/-! ### Writes by software of a powered block -/

section
variable {s : State} {src : Src} {d a : Nat} {k : Bool} {f : State → State}

/-- A write that takes effect is the write alone. -/
theorem swWrite_on (h : s.mayWrite src d = true) : s.swWrite src d a f = f s := by
  obtain ⟨hr, hd⟩ := reads_of_mayWrite h
  obtain ⟨hsrc, hup⟩ : (src == .ring) = false ∧ s.srcUp src = true := by
    simpa [State.reads] using hr
  simp only [State.swWrite, hsrc, hup, hd, Bool.not_true, Bool.or_self, Bool.false_eq_true, if_false, if_true]

theorem needs_swWrite (hk : k = true) (h : s.mayWrite src d = true) : needs k (s.swWrite src d a f) = .next (f s) := by
  rw [hk, needs_true, swWrite_on h]

end

/-! ### A push (R123) -/

section
variable {s : State} {c : Nat}

/-- A push finds no record waiting: it stages one. -/
theorem pushWrite_free (h : s.rd (R.CHN_PUSH.PUSH.i c) = 0) :
    s.pushWrite c = (s.putQueue c { s.queue c with chk := some (s.staged c) }).wr (R.CHN_PUSH.PUSH.i c) 1 := by
  rw [State.pushWrite, h, if_neg Nat.zero_ne_one]

/-- A push behind a record that waits is lost. -/
theorem pushWrite_busy (h : s.rd (R.CHN_PUSH.PUSH.i c) = 1) : s.pushWrite c = s.flag (R.CHN_FLAGS.PUSH_LOST.i c) := by
  rw [State.pushWrite, if_pos h]

theorem queue_congr {t : State} (h : t.queues = s.queues) (c : Nat) : t.queue c = s.queue c := by
  rw [State.queue, State.queue, h]

theorem queue_putQueue_same (s : State) (c : Nat) (q : Queue) : (s.putQueue c q).queue c = q := tget_tput_same _ _ _ _

/-- A write of one field leaves every register but its own as it is. -/
theorem onlyWords_wr {f : Fld} (h : f.addr < barSize) (s : State) (v : Nat) : OnlyWords [f.addr] s (s.wr f v) := by
  intro x _ hx _ _ _ _
  exact rd_wr_other s f x v (by simpa using hx) h

end

/-! ### The bits of CHN_CMD (R136) -/

/-- A field is bit b of CHN_CMD of chain c. -/
structure IsCmdBit (c b : Nat) (f : Fld) : Prop where
  addr : f.addr = (R.CHN_CMD.STOP.i c).addr
  hi : f.hi = b
  lo : f.lo = b

section
variable {c p q : Nat} {f g : Fld}

theorem flag_regs (s : State) (f : Fld) : (s.flag f).regs = (s.putRaw f.addr (s.raw f.addr ||| f.mask)).regs := by
  unfold State.flag State.setMask
  dsimp only
  repeat' split
  · exact State.raiseInt_regs _ _
  · rfl
  · rfl

/-- A command bit is stored as hardware stores a flag. -/
theorem rd_cmdWrite (s : State) (hf : IsCmdBit c p f) (x : Fld) : (s.cmdWrite c f.mask).rd x = (s.flag f).rd x := by
  refine rd_congr ?_ x
  rw [flag_regs, hf.addr]
  rfl

theorem IsCmdBit.addr_lt (hf : IsCmdBit c p f) (hc : c < 16) : f.addr < 0x3C0000 := by
  rw [hf.addr]
  simp only [Fld.i, R.CHN_CMD.STOP]
  omega

theorem rd_cmdWrite_same (s : State) (hf : IsCmdBit c p f) (hc : c < 16) : (s.cmdWrite c f.mask).rd f = 1 := by
  rw [rd_cmdWrite s hf, rd_flag_same s f (isTmr_below (hf.addr_lt hc)) (hf.hi.trans hf.lo.symm)]

/-- A command bit leaves the others. -/
theorem rd_cmdWrite_apart (s : State) (hf : IsCmdBit c p f) (hg : IsCmdBit c q g) (hc : c < 16) (hne : p ≠ q) :
    (s.cmdWrite c f.mask).rd g = s.rd g := by
  have hapart : f.hi < g.lo ∨ g.hi < f.lo := by
    rw [hf.hi, hf.lo, hg.hi, hg.lo]
    exact Nat.lt_or_gt_of_ne hne
  rw [rd_cmdWrite s hf, rd_flag_apart s f g (hg.addr.trans hf.addr.symm) (isTmr_below (hf.addr_lt hc)) (hf.hi.trans hf.lo.symm) hapart]

theorem onlyWords_cmdWrite (s : State) (hf : IsCmdBit c p f) (hc : c < 16) :
    OnlyWords [(R.CHN_CMD.STOP.i c).addr] s (s.cmdWrite c f.mask) := by
  intro x _ hx _ _ _ _
  have hne : x.addr ≠ f.addr := by simpa [hf.addr] using hx
  rw [rd_cmdWrite s hf, rd_flag_other s f x hne ((hf.addr_lt hc).trans (by decide))]

/-- A command that writes its bit of CHN_CMD: the bit reads 1, two others stay, and nothing else changes. -/
theorem yields_cmdBit {s u : State} {i : Instr} {r : Nat} {h : Fld} (hexec : exec i s = .next (u.cmdWrite c f.mask)) (hc : c < 16)
    (hf : IsCmdBit c p f) (hg : IsCmdBit c q g) (hh : IsCmdBit c r h) (hpq : p ≠ q) (hpr : p ≠ r) :
    Yields i s fun t => t.rd f = 1 ∧ t.rd g = u.rd g ∧ t.rd h = u.rd h ∧ t.mem = u.mem ∧
      OnlyWords [(R.CHN_CMD.STOP.i c).addr] u t :=
  ⟨_, hexec, rd_cmdWrite_same u hf hc, rd_cmdWrite_apart u hf hg hc hpq, rd_cmdWrite_apart u hf hh hc hpr, rfl,
    onlyWords_cmdWrite u hf hc⟩

theorem isCmdBit_abort (c : Nat) : IsCmdBit c 3 (R.CHN_CMD.ABORT.i c) := ⟨rfl, rfl, rfl⟩
theorem isCmdBit_stop (c : Nat) : IsCmdBit c 2 (R.CHN_CMD.STOP.i c) := ⟨rfl, rfl, rfl⟩
theorem isCmdBit_flush (c : Nat) : IsCmdBit c 1 (R.CHN_CMD.FLUSH.i c) := ⟨rfl, rfl, rfl⟩
theorem isCmdBit_resume (c : Nat) : IsCmdBit c 0 (R.CHN_CMD.RESUME.i c) := ⟨rfl, rfl, rfl⟩

end

/-! ### A wait that a stray vector touches -/

/-- A vector that the device does not have: the model takes the middle bit of STATE of chain 0 for its pending bit. -/
def waitVec : Nat := 32 * (((R.CHN_QSTAT.STATE.i 0).addr - 0x1800) / 4) + ((R.CHN_QSTAT.STATE.i 0).lo + 1)

/-- Chain 0 waits at a mark; a record of that vector is due to leave the merge at the next clock, enabled and with MSI-X off. -/
def strayWait : State :=
  { ((poweredIn 10).setQ 0 5).wr (intEn waitVec) 1 with
    blt := { State.reset.blt with merge := [⟨1, 0, 0, .int waitVec⟩] } }

/-- The record leaves the merge while the time-out runs, and STATE reads 7. -/
theorem syncTmo_strayWait : Yields (.syncTmo 0) strayWait fun t => t.qState 0 = 7 := ⟨_, rfl, by decide +kernel⟩

end Machine

open Machine

/-- Settles O17: a push stages its record or is lost; each other command sets its bit of CHN_CMD as a flag is set. -/
theorem queueCommandWordsWaitForTheirBoundary : Obligations.QueueCommandWordsWaitForTheirBoundary := by
  unfold Obligations.QueueCommandWordsWaitForTheirBoundary
  refine ⟨?free, ?busy, ?stop, ?resume, ?abort, ?flush⟩
  case free =>
    rintro s dt u src c rfl hc hm hfree
    have hlt := chain_lt hc
    have haddr : (R.CHN_PUSH.PUSH.i c).addr < 0x3C0000 := by
      simp only [Fld.i, R.CHN_PUSH.PUSH]
      omega
    refine ⟨_, (needs_swWrite hc hm).trans (congrArg _ (pushWrite_free hfree)), ?_, ?_, ?_, ?_⟩
    · rw [queue_congr (State.wr_queues _ _ _), queue_putQueue_same]
    · exact rd_wr_same _ _ _ (isTmr_below haddr) (by simp [Fld.i, R.CHN_PUSH.PUSH])
    · exact State.wr_mem _ _ _
    · exact onlyWords_wr (haddr.trans (by decide)) ((s.after dt).putQueue c _) 1
  case busy =>
    rintro s dt u src c rfl hc hm hbusy
    have hlt := chain_lt hc
    refine ⟨_, (needs_swWrite hc hm).trans (congrArg _ (pushWrite_busy hbusy)), ?_, ?_⟩
    · exact rd_flag_same _ _ (isTmr_below (by simp only [Fld.i, R.CHN_FLAGS.PUSH_LOST]; omega)) rfl
    · rw [queue_congr (State.flag_queues _ _)]
  case stop =>
    rintro s dt u src c rfl hc hm
    exact yields_cmdBit (needs_swWrite hc hm) (chain_lt hc) (isCmdBit_stop c) (isCmdBit_resume c) (isCmdBit_abort c)
      (by decide) (by decide)
  case resume =>
    rintro s dt u src c rfl hc hm
    exact yields_cmdBit (needs_swWrite hc hm) (chain_lt hc) (isCmdBit_resume c) (isCmdBit_stop c) (isCmdBit_flush c)
      (by decide) (by decide)
  case abort =>
    rintro s dt u src c rfl hc hm
    exact yields_cmdBit (needs_swWrite hc hm) (chain_lt hc) (isCmdBit_abort c) (isCmdBit_stop c) (isCmdBit_flush c)
      (by decide) (by decide)
  case flush =>
    rintro s dt u src c rfl hc hm
    exact yields_cmdBit (needs_swWrite hc hm) (chain_lt hc) (isCmdBit_flush c) (isCmdBit_abort c) (isCmdBit_resume c)
      (by decide) (by decide)

/-- Refutes O18: in the state strayWait, which no reset leads to, a record of a vector above 63 leaves the merge before the wait times out, and the pending bit that the model keeps for it is a bit of STATE, which then reads 7. -/
theorem not_strokeChecksAndLimitInputs : ¬ Obligations.StrokeChecksAndLimitInputs := by
  unfold Obligations.StrokeChecksAndLimitInputs
  rintro ⟨-, -, htmo, -⟩
  have hwaits : strayWait.waiting 0 = true := by decide +kernel
  have hset : strayWait.act (R.CHN_SYNC.TMO.i 0) ≠ 0 := by decide +kernel
  obtain ⟨t, ⟨-, hfive⟩, hseven⟩ := (htmo strayWait 0 rfl rfl hwaits hset).and syncTmo_strayWait
  exact absurd (hseven.symm.trans hfive) (by decide)

end Sys2Proof
end

section
namespace Sys2Proof

/-! PROOFS. The release of a solution (R190 to R194): what a release does where no solve runs, and a release before which a record of a vector that the device does not have leaves the merge. -/

namespace Machine

theorem exec_solutionRelease (s : State) : exec .solutionRelease s = execSolutionRelease s := rfl

section
variable {s u : State} {p : Problem}

/-- A release tick in a mode in which no solve runs (R194) discards the problem and its result, and does nothing else. -/
theorem exec_solutionRelease_stopped (hu : s.reach p.due = some u) (hp : s.rul.prob = some p) (hs : u.solving = false) :
    exec .solutionRelease s = .next { u with rul := { u.rul with prob := none, res := none } } := by
  have stopped : State.solving { u with rul := { u.rul with prob := none, res := none } } = false := hs
  rw [exec_solutionRelease, execSolutionRelease, hp]
  simp [hu, stopped]

theorem yields_solutionRelease_stopped (hu : s.reach p.due = some u) (hp : s.rul.prob = some p) (hs : u.solving = false)
    (x : Fld) : Yields .solutionRelease s fun t => t.rd x = u.rd x :=
  ⟨_, exec_solutionRelease_stopped hu hp hs, rd_congr rfl x⟩

end

/-! ### A stray vector -/

/-- A vector that the device does not have: the model takes bit 3 of MODE for its pending bit. -/
def modeVec : Nat := 32 * ((R.MOD_STATE.MODE.addr - 0x1800) / 4) + (R.MOD_STATE.MODE.lo + 3)

/-- In LEAD with a good result that waits for its release, and CONSEC at 1; a record of that vector is due to leave the merge at the next clock, enabled and with MSI-X off. -/
def strayRelease : State :=
  { (solver0.wr R.RUL_STAT.CONSEC 1).wr (intEn modeVec) 1 with
    rul := { solver0.rul with prob := some prob0, res := some ⟨[], false⟩ }
    blt := { solver0.blt with merge := [⟨1, 0, 0, .int modeVec⟩] } }

/-- The same at the release tick. -/
def strayReleaseTick : State := (strayRelease.reach prob0.due).getD strayRelease

theorem strayRelease_reach : strayRelease.reach prob0.due = some strayReleaseTick := some_of_isSome (by decide +kernel)

theorem strayRelease_solving : strayRelease.solving = true := by decide +kernel

/-- The record turns MODE from LEAD into 10, which is no mode. -/
theorem strayReleaseTick_mode : strayReleaseTick.mode = 10 := by decide +kernel

theorem strayReleaseTick_stopped : strayReleaseTick.solving = false := by
  simp [State.solving, strayReleaseTick_mode]

theorem strayReleaseTick_consec : strayReleaseTick.rd R.RUL_STAT.CONSEC = 1 := by decide +kernel

end Machine

open Machine

/-- Refutes O27: its third part asks before the release tick whether the solver runs, the device at the tick. In the state strayRelease, which no reset leads to, a record of a vector above 63 leaves the merge in between, and the pending bit that the model keeps for it is a bit of MODE: no solve runs any more, and the release of a good result leaves CONSEC at 1. -/
theorem not_solverAndSeparationDeliver : ¬ Obligations.SolverAndSeparationDeliver := by
  unfold Obligations.SolverAndSeparationDeliver
  rintro ⟨-, -, hgood, -⟩
  have hzero := hgood strayRelease strayReleaseTick prob0 ⟨[], false⟩ strayRelease_reach rfl rfl rfl strayRelease_solving
  have hkept := yields_solutionRelease_stopped (p := prob0) strayRelease_reach rfl strayReleaseTick_stopped R.RUL_STAT.CONSEC
  obtain ⟨t, ⟨-, -, hconsec, -⟩, hsame⟩ := hzero.and hkept
  have hone : t.rd R.RUL_STAT.CONSEC = 1 := hsame.trans strayReleaseTick_consec
  exact absurd (hone.symm.trans hconsec) (by decide)

end Sys2Proof
end

section
namespace Sys2Proof

/-! PROOFS. The Margin monitor and the safe outputs (R216, R221, R409): a decision tick at which the monitor does not run, and before which a result of a flow that the device does not have is released; and a readback check while the readback of another output fails. -/

namespace Machine

/-! ### A decision tick without the monitor (R216) -/

theorem exec_marginDecision (s : State) : exec .marginDecision s = execMarginDecision s := rfl

section
variable {s u : State} {r : MgnRun}

/-- A decision tick at which the monitor does not run (R219) discards the run, and does nothing else. -/
theorem exec_marginDecision_stopped (hu : s.reach (add32 r.start 48000) = some u) (hr : s.mgn.run = some r) (hm : u.mgnRuns = false) :
    exec .marginDecision s = .next { u with mgn := { u.mgn with run := none } } := by
  have stopped : State.mgnRuns { u with mgn := { u.mgn with run := none } } = false := hm
  rw [exec_marginDecision, execMarginDecision, hr]
  simp [hu, stopped]

theorem yields_marginDecision_stopped (hu : s.reach (add32 r.start 48000) = some u) (hr : s.mgn.run = some r) (hm : u.mgnRuns = false)
    (x : Fld) : Yields .marginDecision s fun t => t.rd x = u.rd x :=
  ⟨_, exec_marginDecision_stopped hu hr hm, rd_congr rfl x⟩

end

/-- The monitor runs only with its power domain on. -/
theorem mgnRuns_domOff {s : State} (h : s.dom 9 = false) : s.mgnRuns = false := by
  simp [State.mgnRuns, h]

/-! ### A stray flow -/

/-- A flow that the device does not have: the model takes the low half of PWR_DOM for its next sequence number. -/
def powerFlow : Nat := (R.PWR_DOM.ON.addr - R.DCT_FLOW.NEXT.addr) / 4

/-- An item of that flow has ended, and its sequence number is the low half of PWR_DOM with every domain on: its turn to be released. -/
def strayItem : Item := { Item.none with flow := powerFlow, port := 1, seq := 65535, stage := 3 }

/-- A completed run that decides WARN. -/
def warnRun : MgnRun := ⟨0, some 9, 1, 5, 3⟩

/-- In LEAD with that run before its decision tick, and the item's result to be released at the end of the present tick. -/
def strayDecision : State :=
  { lead with
    mgn := { lead.mgn with run := some warnRun }
    dct := { lead.dct with items := [(0, strayItem)], ended := [0], turn := true } }

/-- The same at the decision tick. -/
def strayDecisionTick : State := (strayDecision.reach (add32 warnRun.start 48000)).getD strayDecision

theorem strayDecision_reach : strayDecision.reach (add32 warnRun.start 48000) = some strayDecisionTick :=
  some_of_isSome (by decide +kernel)

theorem strayDecision_mgnRuns : strayDecision.mgnRuns = true := by decide +kernel

/-- The next sequence number of the flow wraps to 0, and with it the low half of PWR_DOM, in which the domain of the monitor lies. -/
theorem strayDecisionTick_domOff : strayDecisionTick.dom 9 = false := by decide +kernel

theorem strayDecisionTick_causes : strayDecisionTick.mgn.causes = 0 := by decide +kernel

theorem strayDecisionTick_autoRearm : strayDecisionTick.act R.MGN_CFG.AUTO_REARM = 0 := by decide +kernel

theorem strayDecisionTick_decision : strayDecisionTick.rd R.MGN_STAT.DECISION = 2 := by decide +kernel

/-! ### The readback of several outputs (R221) -/

/-- A fault cause reads as it was put. -/
theorem bit_mgnCause (s : State) (b : Nat) (on : Bool) : bit (s.mgnCause b on).mgn.causes b = on := by
  have field : bits (s.mgnCause b on).mgn.causes b b = b2n on % p2 (b + 1 - b) := bits_setBits_same _ _ _ _ (Nat.le_succ b)
  simp only [bits, Nat.add_sub_cancel_left, p2, pow_one] at field
  rw [bit, field]
  cases on <;> rfl

theorem sout_lt {j : Nat} (h : isSout j = true) : j < 4 := of_decide_eq_true h

theorem soutOf_congr {s t : State} (h : t.mgn = s.mgn) (j : Nat) : t.soutOf j = s.soutOf j := by
  rw [State.soutOf, State.soutOf, h]

theorem soutOf_putSout_other (s : State) {j k : Nat} (x : SafeOut) (h : k ≠ j) : (s.putSout j x).soutOf k = s.soutOf k :=
  tget_tput_other _ _ _ _ h

/-- Does the readback of any output fail? -/
def State.anySoutBad (s : State) : Bool := [0, 1, 2, 3].any fun j => (s.soutOf j).bad

theorem anySoutBad_of {s : State} {k : Nat} (hk : isSout k = true) (hb : (s.soutOf k).bad = true) : s.anySoutBad = true := by
  have hmem : k ∈ [0, 1, 2, 3] := by
    have := sout_lt hk
    simp only [List.mem_cons, List.not_mem_nil, or_false]
    omega
  exact List.any_eq_true.mpr ⟨k, hmem, hb⟩

theorem exec_soutReadbackCheck (dt j : Nat) (a b : Bool) (s : State) :
    exec (.soutReadbackCheck dt j a b) s = execSoutReadbackCheck dt j a b s := rfl

/-- The readback levels of output j shown. -/
def State.showReadback (s : State) (j : Nat) (a b : Bool) : State :=
  (s.wrB (R.MGN_SOUT_STAT.RB_A.j j) a).wrB (R.MGN_SOUT_STAT.RB_B.j j) b

/-- An output replaced, and the cause set where any output's readback fails. -/
def State.noteSout (s : State) (j : Nat) (x : SafeOut) : State := (s.putSout j x).mgnCause 2 (s.putSout j x).anySoutBad

/-- A check of output j shows its levels and judges that output alone; the cause goes by all outputs. -/
theorem exec_soutReadbackCheck_runs {s u : State} {dt j : Nat} (hu : u = s.after dt) (hj : isSout j = true) (hm : u.mgnRuns = true) (a b : Bool) :
    ∃ (x : SafeOut) (fails : Bool), exec (.soutReadbackCheck dt j a b) s =
      .next (if fails then ((u.showReadback j a b).noteSout j x).flag R.MGN_FLT.SOUT_RB else (u.showReadback j a b).noteSout j x) := by
  rw [exec_soutReadbackCheck]
  simp only [execSoutReadbackCheck, needs, ← hu, hj, hm, Bool.not_true, Bool.false_eq_true, if_true, if_false]
  exact ⟨_, _, rfl⟩

/-- The cause stands while the readback of another output fails. -/
theorem bit_noteSout_otherBad {s : State} {j k : Nat} (hk : isSout k = true) (hkj : k ≠ j) (hb : (s.soutOf k).bad = true) (x : SafeOut) :
    bit (s.noteSout j x).mgn.causes 2 = true := by
  have hbad : (s.putSout j x).anySoutBad = true := anySoutBad_of hk (by rw [soutOf_putSout_other _ _ hkj, hb])
  rw [State.noteSout, bit_mgnCause, hbad]

/-- While the readback of another output fails, a check keeps the cause, whatever levels it finds. -/
theorem yields_soutReadbackCheck_otherBad {s u : State} {dt j k : Nat} (hu : u = s.after dt) (hj : isSout j = true) (hk : isSout k = true)
    (hkj : k ≠ j) (hm : u.mgnRuns = true) (hb : (u.soutOf k).bad = true) (a b : Bool) :
    Yields (.soutReadbackCheck dt j a b) s fun t => bit t.mgn.causes 2 = true := by
  obtain ⟨x, fails, hexec⟩ := exec_soutReadbackCheck_runs hu hj hm a b
  have hshown : ((u.showReadback j a b).soutOf k).bad = true := by
    rw [soutOf_congr (s := u) (by simp [State.showReadback]), hb]
  have hcause := bit_noteSout_otherBad hk hkj hshown x
  refine ⟨_, hexec, ?_⟩
  split
  · rw [State.flag_mgn, hcause]
  · exact hcause

/-- In LEAD with a readback failure found at output 0. -/
def sout0Bad : State := lead.putSout 0 { SafeOut.zero with bad := true }

end Machine

open Machine

/-- Refutes O28: its second part asks before the decision tick whether the monitor runs, the device at the tick. In the state strayDecision, which no reset leads to, a result of a flow above 15 is released in between, and the sequence number that the model keeps for it is the low half of PWR_DOM: the domain of the monitor is off, and DECISION keeps its 2. -/
theorem not_marginDecidesInTime : ¬ Obligations.MarginDecidesInTime := by
  unfold Obligations.MarginDecidesInTime
  rintro ⟨-, hwarn, -⟩
  have hone := hwarn strayDecision strayDecisionTick warnRun strayDecision_reach rfl rfl rfl strayDecision_mgnRuns
    strayDecisionTick_causes strayDecisionTick_autoRearm
  have hkept := yields_marginDecision_stopped (r := warnRun) strayDecision_reach rfl (mgnRuns_domOff strayDecisionTick_domOff)
    R.MGN_STAT.DECISION
  obtain ⟨t, ⟨-, hdecision, -⟩, hsame⟩ := hone.and hkept
  have htwo : t.rd R.MGN_STAT.DECISION = 2 := hsame.trans strayDecisionTick_decision
  exact absurd (htwo.symm.trans hdecision) (by decide)

/-- Refutes O29: its fifth part says nothing of the other outputs. While the readback of output 0 fails, levels of output 2 that agree with ENERGISED leave the cause standing. -/
theorem not_safeInputsAndOutputs : ¬ Obligations.SafeInputsAndOutputs := by
  unfold Obligations.SafeInputsAndOutputs
  rintro ⟨-, -, -, -, hagree, -⟩
  have hruns : sout0Bad.mgnRuns = true := by decide +kernel
  have hclear := hagree sout0Bad 0 sout0Bad 2 rfl rfl hruns (by decide)
  have hstands := yields_soutReadbackCheck_otherBad (s := sout0Bad) (dt := 0) (j := 2) (k := 0) rfl rfl rfl (by decide) hruns (by decide)
    (sout0Bad.rd (R.MGN_SOUT_STAT.ENERGISED.j 2) == 1) (sout0Bad.rd (R.MGN_SOUT_STAT.ENERGISED.j 2) == 1)
  obtain ⟨t, ⟨hfalse, -⟩, htrue⟩ := hclear.and hstands
  exact absurd (htrue.symm.trans hfalse) (by decide)

end Sys2Proof
end

section
namespace Sys2Proof

/-! PROOFS. The commands of Inkwell (R249): ARM takes the configuration and clears the buffer, STOP and TRIG store their bit of INK_CTRL for the next row. -/

namespace Machine

/-! ### The three commands as writes of Inkwell's block -/

section
variable {s : State} {dt : Nat} {src : Src}

theorem exec_arm_on (h : (s.after dt).mayWrite src 16 = true) : exec (.arm dt src) s = .next (s.after dt).inkArm :=
  congrArg _ (swWrite_on h)

theorem exec_inkStop_on (h : (s.after dt).mayWrite src 16 = true) : exec (.inkStop dt src) s = .next (s.after dt).inkHalt :=
  congrArg _ (swWrite_on h)

theorem exec_trig_on (h : (s.after dt).mayWrite src 16 = true) : exec (.trig dt src) s = .next (s.after dt).inkTrig :=
  congrArg _ (swWrite_on h)

end

/-! ### Bytes that are dropped -/

/-- A key that fails the test reads as nothing written. -/
theorem tget_filter_dropped {α : Type} (d : α) (p : Nat × α → Bool) (l : List (Nat × α)) {k : Nat} (h : ∀ v, p (k, v) = false) :
    tget d (l.filter p) k = d := by
  induction l with
  | nil => rfl
  | cons x t ih =>
    obtain ⟨a, v⟩ := x
    rw [List.filter_cons]
    split
    case isTrue hp =>
      have ha : a ≠ k := by
        rintro rfl
        exact Bool.false_ne_true ((h v).symm.trans hp)
      rw [tget, if_neg ha, ih]
    case isFalse => exact ih

theorem mem8_keepMem_dropped (s : State) (p : Host.Cell → Bool) {sp a : Nat} (h : ∀ v, p (cellKey sp a, v) = false) :
    (s.keepMem p).mem8 sp a = (cellDef (cellKey sp a)).toNat :=
  congrArg BitVec.toNat (tget_filter_dropped _ p s.mem h)

/-- The key of a byte within a space gives the space back. -/
theorem cellKey_space {sp a : Nat} (h : a < 16777216) : cellKey sp a / p2 24 = sp := by
  unfold cellKey p2
  omega

/-- A byte of Inkwell's buffer that is not listed reads 0. -/
theorem cellDef_inkBuffer {a : Nat} (h : a < 16777216) : cellDef (cellKey 8 a) = 0 := by
  have hflash : ¬ (cellKey 8 a / p2 32 = 1 ∨ cellKey 8 a / p2 32 = 2) := by
    unfold cellKey p2
    omega
  have hlane : ¬ (cellKey 8 a / p2 24 = 4 ∧ cellKey 8 a % 256 = 1 ∧ cellKey 8 a % p2 24 < 0xA00) := by
    rw [cellKey_space h]
    omega
  rw [cellDef, if_neg hflash, if_neg hlane]

/-! ### ARM -/

section
variable (s : State)

/-- The configuration that ARM takes. -/
theorem inkArm_ink : s.inkArm.ink = { Inkwell.zero with
    ctrl := s.rdw 0x7E0010, trig := s.rdw 0x7E0014, thr := s.rdw 0x7E0018,
    probes := (List.range 64).map fun i => s.rdw (R.INK_PROBE.KIND.j i).addr } := by
  simp [State.inkArm]

/-- ARM drops the stored bytes of space 8 and no other. -/
theorem inkArm_mem : s.inkArm.mem = (s.keepMem fun x => x.1 / p2 24 ≠ 8).mem := by
  simp [State.inkArm, State.keepMem]

theorem mem8_inkArm_buffer {a : Nat} (h : a < 16777216) : s.inkArm.mem8 8 a = 0 := by
  have hdropped : ∀ v : Byte, decide ((cellKey 8 a, v).1 / p2 24 ≠ 8) = false := fun v => by
    simp only [cellKey_space h, ne_eq, not_true_eq_false, decide_false]
  rw [mem8_congr (inkArm_mem s), mem8_keepMem_dropped s _ hdropped, cellDef_inkBuffer h]
  rfl

theorem mem8_inkArm_other {sp a : Nat} (hsp : sp ≠ 8) (h : a < 16777216) : s.inkArm.mem8 sp a = s.mem8 sp a := by
  have hkept : ∀ v : Byte, decide ((cellKey sp a, v).1 / p2 24 ≠ 8) = true := fun v => by
    rw [cellKey_space h]
    exact decide_eq_true hsp
  rw [mem8_congr (inkArm_mem s), mem8_keepMem s _ hkept]

/-- ARM stores INK_STAT with STATE 1 and its other fields 0, then the words of the trigger row and of the depth. -/
theorem inkArm_regs : ∃ (t : State) (depth : Nat), s.inkArm =
    (((t.putRaw R.INK_STAT.STATE.addr (p2 30)).wr R.INK_TROW.VALUE 0).wr R.INK_TSTAMP.VALUE 0).wr R.INK_DEPTH.VALUE depth :=
  ⟨_, _, rfl⟩

theorem inkState_inkArm : s.inkArm.rd R.INK_STAT.STATE = 1 := by
  obtain ⟨t, depth, harm⟩ := inkArm_regs s
  rw [harm, rd_wr_other _ _ _ _ (by decide) (by decide), rd_wr_other _ _ _ _ (by decide) (by decide),
    rd_wr_other _ _ _ _ (by decide) (by decide), State.rd, rdw_plain _ (by decide), raw_putRaw_same]
  rfl

theorem triggerRow_inkArm : s.inkArm.rd R.INK_TROW.VALUE = 0 := by
  obtain ⟨t, depth, harm⟩ := inkArm_regs s
  rw [harm, rd_wr_other _ _ _ _ (by decide) (by decide), rd_wr_other _ _ _ _ (by decide) (by decide),
    rd_wr_same _ _ _ (by decide) (by decide), Nat.zero_mod]

end

/-! ### STOP and TRIG -/

section
variable {s : State}

/-- A capture that records is asked to end. -/
theorem inkHalt_recording (h : s.inkState = 1 ∨ s.inkState = 2) : s.inkHalt = s.wr R.INK_CTRL.STOP 1 := by
  simp [State.inkHalt, h]

/-- An armed capture of KIND 0 is asked to trigger. -/
theorem inkTrig_armed (h : s.inkState = 1) (hk : s.ink.kind = 0) :
    s.inkTrig = { s.wr R.INK_CTRL.TRIG 1 with ink := { s.ink with event := true } } := by
  simp [State.inkTrig, h, hk]

theorem inkTrig_regs (h : s.inkState = 1) (hk : s.ink.kind = 0) : s.inkTrig.regs = (s.wr R.INK_CTRL.TRIG 1).regs := by
  rw [inkTrig_armed h hk]

theorem inkTrig_event (h : s.inkState = 1) (hk : s.ink.kind = 0) : s.inkTrig.ink.event = true := by
  rw [inkTrig_armed h hk]

theorem inkTrig_mem (h : s.inkState = 1) (hk : s.ink.kind = 0) : s.inkTrig.mem = s.mem := by
  rw [inkTrig_armed h hk, State.wr_mem]

theorem OnlyWords.congr_regs {t u : State} {l : List Nat} (h : OnlyWords l s t) (hr : u.regs = t.regs) : OnlyWords l s u := by
  intro x hx hl h0 h1 h2 h3
  rw [rd_congr hr, h x hx hl h0 h1 h2 h3]

end

end Machine

open Machine

/-- Settles O38: ARM stores its registers after it drops the buffer; STOP and TRIG each write one bit of INK_CTRL. -/
theorem inkwellIsArmedAndTriggered : Obligations.InkwellIsArmedAndTriggered := by
  unfold Obligations.InkwellIsArmedAndTriggered
  refine ⟨?arm, ?stop, ?trig⟩
  case arm =>
    rintro s dt u src rfl hm
    have hink := inkArm_ink (s.after dt)
    have hcleared : ∀ a, (s.after dt).inkArm.mem8 8 a = if a < 16777216 then 0 else (s.after dt).inkArm.mem8 8 a := fun a => by
      split
      case isTrue ha => exact mem8_inkArm_buffer _ ha
      case isFalse => rfl
    exact ⟨_, exec_arm_on hm, congrArg Inkwell.ctrl hink, congrArg Inkwell.trig hink, congrArg Inkwell.thr hink,
      congrArg Inkwell.count hink, inkState_inkArm _, triggerRow_inkArm _, hcleared, fun a ha => mem8_inkArm_other _ (by decide) ha⟩
  case stop =>
    rintro s dt u src rfl hm hrec
    refine ⟨_, (exec_inkStop_on hm).trans (congrArg _ (inkHalt_recording hrec)), ?_, ?_, ?_, ?_⟩
    · exact rd_wr_same _ _ _ (by decide) (by decide)
    · exact State.wr_ink _ _ _
    · exact State.wr_mem _ _ _
    · exact onlyWords_wr (by decide) _ 1
  case trig =>
    rintro s dt u src rfl hm harmed hkind
    have hregs := inkTrig_regs harmed hkind
    refine ⟨_, exec_trig_on hm, ?_, inkTrig_event harmed hkind, inkTrig_mem harmed hkind, ?_⟩
    · rw [rd_congr hregs, rd_wr_same _ _ _ (by decide) (by decide)]
      rfl
    · exact (onlyWords_wr (f := R.INK_CTRL.TRIG) (by decide) (s.after dt) 1).congr_regs hregs

end Sys2Proof
end

section
namespace Sys2Proof

/-! PROOFS. The registers of a feedback channel (R251), and the writes of software to them (R261 to R263, R276, R278, R279). -/

namespace Machine

/-! ### Fields of a feedback channel -/

/-- Is a field one of the feedback block? -/
def Fld.ofFb (f : Fld) : Bool := decide (0x600000 ≤ f.addr) && decide (f.addr < 0x600200) && f.s1 == 0x200 && decide (f.lo ≤ f.hi)

/-- Do two fields share no bit of a register? -/
def Fld.apart (f g : Fld) : Bool := g.addr != f.addr || decide (f.hi < g.lo) || decide (g.hi < f.lo)

section
variable {f g : Fld} {j k : Nat}

theorem ofFb_iff : f.ofFb = true ↔ 0x600000 ≤ f.addr ∧ f.addr < 0x600200 ∧ f.s1 = 0x200 ∧ f.lo ≤ f.hi := by
  simp [Fld.ofFb, and_assoc]

/-- Where a field of a channel lies: in BAR0, past the triplicated words. -/
theorem fb_addr (hf : f.ofFb = true) (hk : isFb k = true) : 0x600000 ≤ (f.i k).addr ∧ (f.i k).addr < barSize := by
  obtain ⟨hlo, hhi, hs, -⟩ := ofFb_iff.mp hf
  have hlt := fb_lt hk
  simp only [Fld.i, hs, barSize]
  omega

theorem fb_plain (hf : f.ofFb = true) (hk : isFb k = true) : isTmr (f.i k).addr = false :=
  isTmr_above (Nat.le_trans (by decide) (fb_addr hf hk).1)

/-- Registers at two offsets of the block differ, in whichever channels. -/
theorem fb_addr_ne (hf : f.ofFb = true) (hg : g.ofFb = true) (h : g.addr ≠ f.addr) : (g.i k).addr ≠ (f.i j).addr := by
  obtain ⟨hflo, hfhi, hfs, -⟩ := ofFb_iff.mp hf
  obtain ⟨hglo, hghi, hgs, -⟩ := ofFb_iff.mp hg
  simp only [Fld.i, hfs, hgs]
  omega

/-- Two fields that share no bit, in two channels: in two registers, or apart in one. -/
theorem fb_apart (hf : f.ofFb = true) (hg : g.ofFb = true) (h : f.apart g = true) :
    (g.i k).addr ≠ (f.i j).addr ∨ (g.i k).addr = (f.i j).addr ∧ (f.hi < g.lo ∨ g.hi < f.lo) := by
  by_cases he : (g.i k).addr = (f.i j).addr
  · have heq : g.addr = f.addr := by_contra fun hne => fb_addr_ne hf hg hne he
    simp only [Fld.apart, heq, bne_self_eq_false, Bool.false_or, Bool.or_eq_true, decide_eq_true_eq] at h
    exact .inr ⟨he, h⟩
  · exact .inl he

/-- A field of a channel reads what was written. -/
theorem rd_wr_fb (hk : isFb k = true) (s : State) (v : Nat) (hf : f.ofFb = true) :
    (s.wr (f.i k) v).rd (f.i k) = v % p2 (f.hi + 1 - f.lo) :=
  rd_wr_same s (f.i k) v (fb_plain hf hk) (Nat.le_succ_of_le (ofFb_iff.mp hf).2.2.2)

/-- A write of a field leaves the others of the block. -/
theorem rd_wr_fb_apart (hj : isFb j = true) (s : State) (v : Nat) (hf : f.ofFb = true) (hg : g.ofFb = true) (h : f.apart g = true) :
    (s.wr (f.i j) v).rd (g.i k) = s.rd (g.i k) := by
  rcases fb_apart hf hg h with hne | ⟨he, hbits⟩
  · exact rd_wr_other s _ _ v hne (fb_addr hf hj).2
  · exact rd_wr_apart s (f.i j) (g.i k) v he (fb_plain hf hj) (Nat.le_succ_of_le (ofFb_iff.mp hf).2.2.2) hbits

/-- A flag leaves the other fields of the block. -/
theorem rd_flag_fb_apart (hj : isFb j = true) (s : State) (hf : f.ofFb = true) (hg : g.ofFb = true) (h1 : f.hi = f.lo)
    (h : f.apart g = true) : (s.flag (f.i j)).rd (g.i k) = s.rd (g.i k) := by
  rcases fb_apart hf hg h with hne | ⟨he, hbits⟩
  · exact rd_flag_other s _ _ hne (fb_addr hf hj).2
  · exact rd_flag_apart s (f.i j) (g.i k) he (fb_plain hf hj) h1 hbits

/-- A bit of a channel that hardware writes from a Boolean. -/
theorem rd_wrB_fb (hk : isFb k = true) (s : State) (b : Bool) (hf : f.ofFb = true) (h1 : f.hi = f.lo) :
    (s.wrB (f.i k) b).rd (f.i k) = b2n b := by
  rw [State.wrB, rd_wr_fb hk s _ hf, h1, Nat.add_sub_cancel_left]
  cases b <;> rfl

end

/-! ### What leaves the other fields of the channels -/

/-- Only the listed fields of the feedback block may change among its fields, and no active copy does (R45). -/
structure FbFrame (l : List Fld) (s t : State) : Prop where
  active : ∀ a, barSize ≤ a → t.raw a = s.raw a
  fields : ∀ g k, g.ofFb = true → (l.all fun f => f.apart g) = true → t.rd (g.i k) = s.rd (g.i k)

section
variable {l : List Fld} {f g : Fld} {j k v : Nat} {s t u : State}

theorem FbFrame.of_regs (h : t.regs = s.regs) : FbFrame l s t :=
  ⟨fun a _ => raw_congr h a, fun _ _ _ _ => rd_congr h _⟩

theorem FbFrame.refl (l : List Fld) (s : State) : FbFrame l s s := .of_regs rfl

theorem FbFrame.trans (h : FbFrame l s t) (h' : FbFrame l t u) : FbFrame l s u :=
  ⟨fun a ha => (h'.active a ha).trans (h.active a ha), fun g k hg hl => (h'.fields g k hg hl).trans (h.fields g k hg hl)⟩

/-- Registers alone matter. -/
theorem FbFrame.congr_regs (h : FbFrame l s t) (hr : u.regs = t.regs) : FbFrame l s u := h.trans (.of_regs hr)

theorem FbFrame.ite {c : Prop} [Decidable c] (ht : c → FbFrame l s t) (hu : ¬ c → FbFrame l s u) : FbFrame l s (if c then t else u) := by
  split
  case isTrue hc => exact ht hc
  case isFalse hc => exact hu hc

/-- The settings in force stay: each is read from its active copy. -/
theorem FbFrame.act (h : FbFrame l s t) (hg : g.sh = true) : t.act g = s.act g := by
  have copy : ∀ c, t.raw (g.addr + (c + 1) * barSize) = s.raw (g.addr + (c + 1) * barSize) := fun c => by
    refine h.active _ ?_
    simp only [barSize]
    omega
  have h1 := copy 0
  rw [Nat.zero_add, Nat.one_mul] at h1
  rw [State.act, State.act, if_pos hg, if_pos hg, State.actw, State.actw, h1, copy 2, copy 4]

theorem fbFrame_wr (hj : isFb j = true) (hf : f.ofFb = true) (hl : f ∈ l) (s : State) (v : Nat) : FbFrame l s (s.wr (f.i j) v) where
  active _ ha := raw_wr_other s _ v (Nat.ne_of_gt (Nat.lt_of_lt_of_le (fb_addr hf hj).2 ha))
  fields _ _ hg h := rd_wr_fb_apart hj s v hf hg (List.all_eq_true.mp h f hl)

theorem fbFrame_flag (hj : isFb j = true) (hf : f.ofFb = true) (h1 : f.hi = f.lo) (hl : f ∈ l) (s : State) :
    FbFrame l s (s.flag (f.i j)) where
  active _ ha := raw_setMask_other s _ (Nat.ne_of_gt (Nat.lt_of_lt_of_le (fb_addr hf hj).2 ha))
  fields _ _ hg h := rd_flag_fb_apart hj s hf hg h1 (List.all_eq_true.mp h f hl)

theorem fbFrame_rwh (hj : isFb j = true) (hf : f.ofFb = true) (hl : f ∈ l) (s : State) (v : Nat) : FbFrame l s (s.rwh (f.i j) v) :=
  .ite (fun _ => .refl l s) fun _ => fbFrame_wr hj hf hl s v

theorem fbFrame_bump (hj : isFb j = true) (hf : f.ofFb = true) (hg : g.ofFb = true) (h1 : g.hi = g.lo) (hfl : f ∈ l) (hgl : g ∈ l)
    (s : State) : FbFrame l s (s.bump (f.i j) (g.i j)) := by
  have counted : ∀ (t : State) v, t.regs = s.regs → FbFrame l s (t.wr (f.i j) v) := fun t v ht =>
    (FbFrame.of_regs ht).trans (fbFrame_wr hj hf hfl t v)
  have flagged : ∀ t, FbFrame l s t → FbFrame l s (t.flag (g.i j)) := fun t ht => ht.trans (fbFrame_flag hj hg h1 hgl t)
  unfold State.bump
  dsimp only
  refine .ite (fun _ => .ite (fun _ => flagged _ (.of_regs rfl)) fun _ => .of_regs rfl) fun _ => ?_
  exact .ite (fun _ => flagged _ (counted _ _ rfl)) fun _ => counted _ _ rfl

theorem fbFrame_forEach {α : Type} {as : List α} {step : α → State → State} (h : ∀ a ∈ as, ∀ s, FbFrame l s (step a s)) (s : State) :
    FbFrame l s (forEach as step s) := by
  induction as generalizing s with
  | nil => exact .refl l s
  | cons a rest ih =>
    exact (h a List.mem_cons_self s).trans (ih (fun b hb => h b (List.mem_cons_of_mem a hb)) _)

/-! ### The settings that a channel works by -/

theorem FbFrame.fbMode (h : FbFrame l s t) (k : Nat) : t.fbMode k = s.fbMode k := by
  rw [State.fbMode, State.fbMode, h.act rfl]

theorem FbFrame.fbAbs (h : FbFrame l s t) (k : Nat) : t.fbAbs k = s.fbAbs k := by
  rw [State.fbAbs, State.fbAbs, h.fbMode]

theorem FbFrame.fbMod (h : FbFrame l s t) (k : Nat) : t.fbMod k = s.fbMod k := by
  rw [State.fbMod, State.fbMod, h.fbAbs, State.posLen, State.posLen, h.act rfl, h.act rfl]

/-- A modulus is at least 1 and at most 2^32. -/
theorem fbMod_range (s : State) (k : Nat) : 0 < s.fbMod k ∧ s.fbMod k ≤ 2 ^ 32 := by
  have hmod : s.act (R.FB_MOD.MOD.i k) < 2 ^ 32 := bits_lt _ 31 0
  have hlen : s.posLen k ≤ 32 := max_le (by decide) (min_le_left _ _)
  unfold State.fbMod
  split
  · exact ⟨Nat.two_pow_pos _, Nat.pow_le_pow_right (by decide) hlen⟩
  · split
    · exact ⟨Nat.two_pow_pos _, Nat.le_refl _⟩
    · exact ⟨Nat.pos_of_ne_zero ‹_›, Nat.le_of_lt hmod⟩

/-! ### The position (R263) -/

theorem putFb_regs (s : State) (k : Nat) (f : Fb) : (s.putFb k f).regs = s.regs := rfl

/-- A set position writes POS, REV and CPOS. -/
theorem fbSet_regs (s : State) (k p r : Nat) : ∃ c, (s.fbSet k p r).regs =
    (((s.wr (R.FB_POS.VALUE.i k) (p % s.fbMod k)).wr (R.FB_REV.VALUE.i k) (if s.fbLinear k then 0 else r % p2 32)).wr (R.FB_CPOS.VALUE.i k) c).regs :=
  ⟨_, (ite_keeps State.regs _ (putFb_regs _ k _).symm : (s.fbSet k p r).regs = _).trans (putFb_regs _ k _)⟩

theorem fbRev_lt (s : State) (k : Nat) : s.fbRev k < 2 ^ 32 := bits_lt _ 31 0

theorem fbSet_mem (s : State) (k p r : Nat) : (s.fbSet k p r).mem = s.mem :=
  (ite_keeps State.mem _ rfl : (s.fbSet k p r).mem = _)

theorem fbFrame_fbSet (hk : isFb k = true) (s : State) (p r : Nat) :
    FbFrame [R.FB_POS.VALUE, R.FB_REV.VALUE, R.FB_CPOS.VALUE] s (s.fbSet k p r) := by
  obtain ⟨c, hregs⟩ := fbSet_regs s k p r
  refine FbFrame.congr_regs ?_ hregs
  refine ((fbFrame_wr hk rfl ?_ s _).trans (fbFrame_wr hk rfl ?_ _ _)).trans (fbFrame_wr hk rfl ?_ _ _) <;> decide

theorem rd_fbSet_pos (hk : isFb k = true) (s : State) (p r : Nat) : (s.fbSet k p r).rd (R.FB_POS.VALUE.i k) = p % s.fbMod k := by
  obtain ⟨hpos, hle⟩ := fbMod_range s k
  obtain ⟨c, hregs⟩ := fbSet_regs s k p r
  rw [rd_congr hregs, rd_wr_fb_apart hk _ _ rfl rfl rfl, rd_wr_fb_apart hk _ _ rfl rfl rfl, rd_wr_fb hk _ _ rfl]
  exact Nat.mod_eq_of_lt (Nat.lt_of_lt_of_le (Nat.mod_lt _ hpos) hle)

theorem rd_fbSet_rev (hk : isFb k = true) (s : State) (p r : Nat) :
    (s.fbSet k p r).rd (R.FB_REV.VALUE.i k) = if s.fbLinear k then 0 else r % p2 32 := by
  obtain ⟨c, hregs⟩ := fbSet_regs s k p r
  rw [rd_congr hregs, rd_wr_fb_apart hk _ _ rfl rfl rfl, rd_wr_fb hk _ _ rfl]
  split
  · rfl
  · exact Nat.mod_mod _ _

end

/-! ### Writes by software -/

section
variable {s t u : State} {src : Src} {dt k v : Nat}

theorem word_lt (h : isWord v = true) : v < 2 ^ 32 := of_decide_eq_true h

theorem unsx_natCast (h : v < 2 ^ 32) : unsx 32 (v : Int) = v := by
  unfold unsx p2
  omega

theorem OnlyWords.trans {l m : List Nat} (h : OnlyWords l s t) (h' : OnlyWords m t u) : OnlyWords (l ++ m) s u := by
  intro f hb hl h0 h1 h2 h3
  simp only [List.contains_eq_mem, List.mem_append, decide_eq_false_iff_not, not_or] at hl
  obtain ⟨hl, hm⟩ := hl
  rw [h' f hb (by simpa using hm) h0 h1 h2 h3, h f hb (by simpa using hl) h0 h1 h2 h3]

theorem exec_fbCmpWrite_on (hk : isFb k = true) (hv : isWord v = true) (hm : (s.after dt).mayWrite src 21 = true) :
    exec (.fbCmpWrite dt src k v) s = .next ((s.after dt).fbCmpWrite k v) :=
  needs_swWrite (by rw [hk, hv]; rfl) hm

theorem exec_fbPosWrite_on (hk : isFb k = true) (hv : isWord v = true) (hm : (s.after dt).mayWrite src 21 = true) (rev : Bool) :
    exec (.fbPosWrite dt src k rev v) s = .next ((s.after dt).fbPosWrite k rev v) :=
  needs_swWrite (by rw [hk, hv]; rfl) hm

theorem exec_fbFltClr_on (hk : isFb k = true) (hm : (s.after dt).mayWrite src 21 = true) :
    exec (.fbFltClr dt src k) s = .next ((s.after dt).wr (R.FB_CTRL.FLT_CLR.i k) 1) :=
  needs_swWrite hk hm

theorem exec_zarm_on (hk : isFb k = true) (hm : (s.after dt).mayWrite src 21 = true) :
    exec (.zarm dt src k) s = .next ((s.after dt).zarmWrite k) :=
  needs_swWrite hk hm

/-- The comparator takes the word, and BEHIND what the position makes of it. -/
theorem fbCmpWrite_regs (s : State) (k v : Nat) :
    (s.fbCmpWrite k v).regs = ((s.wr (R.FB_CMP.VALUE.i k) v).wr (R.FB_STAT.BEHIND.i k) (b2n (s.fbBehind k v))).regs := rfl

/-- On a tick without a count, a written position is set with the revolution as it is, and is a reference (R262). -/
theorem fbPosWrite_pos (ha : s.fbAbs k = false) (hl : s.log.moved = []) (hv : v < s.fbMod k) :
    s.fbPosWrite k false v = (s.fbSet k v (s.fbRev k)).fbReference k := by
  have hmod : (v : Int) % (s.fbMod k : Int) = v := Int.emod_eq_of_lt (by omega) (by omega)
  have hdiv : (v : Int) / (s.fbMod k : Int) = 0 := Int.ediv_eq_zero_of_lt (by omega) (by omega)
  simp [State.fbPosWrite, State.movedNow, ha, hl, hmod, hdiv, unsx_natCast (fbRev_lt s k)]

/-- On a tick without a count, a written revolution is set with the position as it is. -/
theorem fbPosWrite_rev (ha : s.fbAbs k = false) (hl : s.log.moved = []) (hv : v < 2 ^ 32) :
    s.fbPosWrite k true v = s.fbSet k (s.fbPos k) v := by
  simp [State.fbPosWrite, State.movedNow, ha, hl, unsx_natCast hv]

end

end Machine

open Machine

/-- Settles O19: each command writes its fields of the channel, and the position and revolution through the set that both share. -/
theorem feedbackWritesTakeEffect : Obligations.FeedbackWritesTakeEffect := by
  unfold Obligations.FeedbackWritesTakeEffect
  refine ⟨?cmp, ?pos, ?rev, ?clear, ?arm⟩
  case cmp =>
    rintro s dt u src k v rfl hk hv hm
    have hregs := fbCmpWrite_regs (s.after dt) k v
    refine ⟨_, exec_fbCmpWrite_on hk hv hm, ?_, ?_, ?_, ?_⟩
    · rw [rd_congr hregs, rd_wr_fb_apart hk _ _ rfl rfl rfl, rd_wr_fb hk _ _ rfl]
      exact Nat.mod_eq_of_lt (word_lt hv)
    · rw [rd_congr hregs]
      exact rd_wrB_fb hk _ _ rfl rfl
    · simp [State.fbCmpWrite, State.softField]
    · have hcmp := onlyWords_wr (fb_addr (f := R.FB_CMP.VALUE) rfl hk).2 (s.after dt) v
      exact (hcmp.trans (onlyWords_wr (fb_addr (f := R.FB_STAT.BEHIND) rfl hk).2 _ _)).congr_regs hregs
  case pos =>
    rintro s dt u src k v rfl hk hv hm habs hmoved hlt
    refine ⟨_, (exec_fbPosWrite_on hk hv hm false).trans (congrArg _ (fbPosWrite_pos habs hmoved hlt)), ?_, ?_, ?_, ?_⟩
    · rw [State.fbReference, rd_wr_fb_apart hk _ _ rfl rfl rfl, rd_fbSet_pos hk, Nat.mod_eq_of_lt hlt]
    · exact rd_wr_fb hk _ _ rfl
    · rw [State.fbReference, rd_wr_fb_apart hk _ _ rfl rfl rfl, rd_fbSet_rev hk, Nat.mod_eq_of_lt (fbRev_lt _ k)]
    · rw [State.fbReference, State.wr_mem, fbSet_mem]
  case rev =>
    rintro s dt u src k v rfl hk hv hm habs hmoved hlt
    refine ⟨_, (exec_fbPosWrite_on hk hv hm true).trans (congrArg _ (fbPosWrite_rev habs hmoved (word_lt hv))), ?_, ?_, ?_, ?_⟩
    · rw [rd_fbSet_rev hk, Nat.mod_eq_of_lt (word_lt hv)]
    · rw [rd_fbSet_pos hk, Nat.mod_eq_of_lt hlt]
    · exact (fbFrame_fbSet hk _ _ _).fields _ _ rfl rfl
    · exact fbSet_mem _ _ _ _
  case clear =>
    rintro s dt u src k rfl hk hm
    refine ⟨_, exec_fbFltClr_on hk hm, ?_, ?_, ?_, ?_⟩
    · exact rd_wr_fb hk _ _ rfl
    · exact rd_wr_fb_apart hk _ _ rfl rfl rfl
    · exact State.wr_mem _ _ _
    · exact onlyWords_wr (fb_addr rfl hk).2 _ _
  case arm =>
    rintro s dt u src k rfl hk hm
    refine ⟨_, exec_zarm_on hk hm, ?_, ?_, ?_, ?_, ?_⟩
    · rw [State.zarmWrite, rd_wr_fb_apart hk _ _ rfl rfl rfl]
      exact rd_wr_fb hk _ _ rfl
    · exact rd_wr_fb hk _ _ rfl
    · rw [State.zarmWrite, rd_wr_fb_apart hk _ _ rfl rfl rfl, rd_wr_fb_apart hk _ _ rfl rfl rfl]
    · simp [State.zarmWrite]
    · have hctrl := onlyWords_wr (fb_addr (f := R.FB_CTRL.ZARM) rfl hk).2 (s.after dt) 1
      exact hctrl.trans (onlyWords_wr (fb_addr (f := R.FB_STAT.ZARM) rfl hk).2 _ 1)

end Sys2Proof
end

section
namespace Sys2Proof

/-! PROOFS. Edges of a feedback channel (R255, R256, R258), illegal edges and their window (R259, R260), and the time-out of an invalid Hall state (R265). -/

namespace Machine

/-! ### The bits of CAUSE -/

theorem bit_bits {c hi lo : Nat} (w : Nat) (h : c < hi + 1 - lo) : bit (bits w hi lo) c = bit w (lo + c) := by
  simp only [bit_eq_testBit, testBit_bits, h, decide_true, Bool.true_and]

theorem bit_setBits_same (w n : Nat) (b : Bool) : bit (setBits w n n (b2n b)) n = b := by
  have field := bits_setBits_same w n n (b2n b) (Nat.le_succ n)
  simp only [bits, Nat.add_sub_cancel_left, p2, pow_one] at field
  rw [bit, field]
  cases b <;> rfl

/-- A cause of FB_STAT as a field of its own. -/
def causeFld (c : Nat) : Fld := { R.FB_STAT.CAUSE with hi := R.FB_STAT.CAUSE.lo + c, lo := R.FB_STAT.CAUSE.lo + c }

theorem causeFld_ofFb (c : Nat) : (causeFld c).ofFb = true := by
  simp [Fld.ofFb, causeFld, R.FB_STAT.CAUSE]

theorem fbCause_eq (s : State) (k c : Nat) (b : Bool) : s.fbCause k c b = s.wr ((causeFld c).i k) (b2n b) := rfl

/-- A cause reads as it was put. -/
theorem bit_fbCause {k : Nat} (hk : isFb k = true) (s : State) {c : Nat} (hc : c < 3) (b : Bool) :
    bit ((s.fbCause k c b).rd (R.FB_STAT.CAUSE.i k)) c = b := by
  have hword : (s.fbCause k c b).rdw (R.FB_STAT.CAUSE.i k).addr =
      setBits (s.raw (R.FB_STAT.CAUSE.i k).addr) (R.FB_STAT.CAUSE.lo + c) (R.FB_STAT.CAUSE.lo + c) (b2n b) := by
    rw [rdw_plain _ (fb_plain rfl hk)]
    exact raw_putRaw_same s _ _
  rw [State.rd, hword]
  exact (bit_bits _ hc).trans (bit_setBits_same _ _ b)

/-! ### Repeats and emulations write no register but PT_LAG (R282, R283) -/

section
variable {l : List Fld}

theorem ptRaw_regs (s : State) (k stamp old new : Nat) : (s.ptRaw k stamp old new).regs = s.regs := by
  unfold State.ptRaw
  refine forEach_keeps State.regs (fun j s => ?_) s
  refine forEach_keeps State.regs (fun i s => ?_) s
  split <;> simp

theorem emuOne_regs (s : State) (j r : Nat) (d : Int) : (s.emuOne j r d).regs = s.regs := by
  unfold State.emuOne
  refine (forEach_keeps State.regs (fun i s => ?_) _).trans rfl
  split <;> simp

theorem emuRun_regs (j a n : Nat) (s : State) : (State.emuRun j a n s).regs = s.regs := by
  induction n generalizing s with
  | zero => rfl
  | succ n ih =>
    unfold State.emuRun
    extract_lets f g r
    split
    · rfl
    · rw [ih, emuOne_regs]

theorem fbFrame_emuStep {j : Nat} (hj : isFb j = true) (hl : R.FB_FLAGS.PT_LAG ∈ l) (s : State) (a : Nat) : FbFrame l s (s.emuStep j a) := by
  have run : ∀ n, FbFrame l s (State.emuRun j a n s) := fun n => .of_regs (emuRun_regs j a n s)
  unfold State.emuStep
  exact .ite (fun _ => (run _).trans (fbFrame_flag hj rfl rfl hl _)) fun _ => run _

/-- The repeats of a channel are channels. -/
theorem isFb_of_mem_ptOf {s : State} {k m j : Nat} (h : j ∈ s.ptOf k m) : isFb j = true :=
  decide_eq_true (List.mem_range.mp (List.mem_filter.mp h).1)

theorem fbFrame_emuFlush (hl : R.FB_FLAGS.PT_LAG ∈ l) (s : State) (k : Nat) : FbFrame l s (s.emuFlush k) :=
  fbFrame_forEach (fun _ hj s => fbFrame_emuStep (isFb_of_mem_ptOf hj) hl s 0) s

theorem fbFrame_emuFollow (hl : R.FB_FLAGS.PT_LAG ∈ l) (s : State) (k : Nat) : FbFrame l s (s.emuFollow k) :=
  fbFrame_forEach (fun _ hj s => fbFrame_emuStep (isFb_of_mem_ptOf hj) hl s s.tb.rim) s

theorem emuZ_regs (s : State) (k : Nat) (c : Int) : (s.emuZ k c).regs = s.regs := by
  unfold State.emuZ
  refine forEach_keeps State.regs (fun j s => ?_) s
  extract_lets f e
  split
  · rfl
  · split
    · exact (State.emit_regs _ _).trans (putFb_regs _ _ _)
    · exact putFb_regs _ _ _

end

/-! ### A move and its compare (R277 to R280) -/

/-- What a move writes besides the position and the direction: the compare's count, stamp, enable and value, BEHIND, and PT_LAG of the repeats. -/
def moveFields : List Fld :=
  [R.FB_CNT2.CMP_CNT, R.FB_FLAGS.CMP_OVF, R.FB_CMP_STAMP.NS, R.FB_STAT.BEHIND, R.FB_CMP_CFG.EN, R.FB_CMP.VALUE, R.FB_FLAGS.PT_LAG]

theorem fbFrame_fbFire {k : Nat} (hk : isFb k = true) (s : State) (stamp : Nat) (back : Bool) :
    FbFrame moveFields s (s.fbFire k stamp back) := by
  unfold State.fbFire
  extract_lets counted stamped sp c moved
  have hcounted : FbFrame moveFields s counted := fbFrame_bump hk rfl rfl rfl (by decide) (by decide) s
  have hstamped : FbFrame moveFields s stamped :=
    ((hcounted.trans (fbFrame_wr (f := R.FB_CMP_STAMP.NS) hk rfl (by decide) _ _)).trans
      (fbFrame_wr (f := R.FB_STAT.BEHIND) hk rfl (by decide) _ _)).congr_regs (State.raiseInt_regs _ _)
  have hmoved : FbFrame moveFields s moved := hstamped.trans <|
    .ite (fun _ => fbFrame_rwh (f := R.FB_CMP_CFG.EN) hk rfl (by decide) _ _) fun _ =>
      fbFrame_rwh (f := R.FB_CMP.VALUE) hk rfl (by decide) _ _
  refine .ite (fun _ => ?_) fun _ => hmoved
  exact .ite (fun _ => hmoved.congr_regs ((State.emit_regs _ _).trans (putFb_regs _ _ _))) fun _ =>
    hmoved.congr_regs (putFb_regs _ _ _)

theorem fbFrame_fbMoved {k : Nat} (hk : isFb k = true) (s : State) (a stamp : Nat) (d : Int) :
    FbFrame moveFields s (s.fbMoved k a stamp d) := by
  unfold State.fbMoved
  extract_lets _ _ _ _ fired shown
  have hfired : FbFrame moveFields s fired := .ite (fun _ => fbFrame_fbFire hk s stamp _) fun _ => .refl _ s
  have hshown : FbFrame moveFields s shown := hfired.trans (.ite (fun _ => .of_regs (emuZ_regs _ _ _)) fun _ => .refl _ _)
  exact hshown.trans (fbFrame_emuFollow (by decide) _ _)

/-! ### A count (R258, R263) -/

/-- POS goes on by the count modulo the modulus, DIR is its direction, and the levels shown stay. -/
theorem fbCount_shows {k : Nat} (hk : isFb k = true) (s : State) (hinv : s.act (R.FB_CFG.DIR_INV.i k) = 0) (stamp : Nat) (d : Int) :
    (s.fbCount k stamp d).rd (R.FB_POS.VALUE.i k) = (((s.fbPos k : Int) + d) % (s.fbMod k : Int)).toNat ∧
      (s.fbCount k stamp d).rd (R.FB_STAT.DIR.i k) = b2n (decide (d < 0)) ∧
      (s.fbCount k stamp d).rd (R.FB_STAT.IN.i k) = s.rd (R.FB_STAT.IN.i k) := by
  unfold State.fbCount
  extract_lets d' back flushed a m x pos _ _ _ set wrapped _ _ _ _ f shown _ logged
  have hd : d' = d := if_neg (by rw [hinv]; decide)
  have hflushed : FbFrame [R.FB_FLAGS.PT_LAG] s flushed := fbFrame_emuFlush (by decide) s k
  have hset : FbFrame _ flushed set := fbFrame_fbSet hk flushed _ _
  have hwrapped : FbFrame [R.FB_FLAGS.REV_WRAP] set wrapped :=
    .ite (fun _ => fbFrame_flag hk rfl rfl (by decide) _) fun _ => .refl _ _
  have hdir : FbFrame [R.FB_STAT.DIR] wrapped shown :=
    (FbFrame.of_regs (putFb_regs wrapped k f)).trans (fbFrame_wr (f := R.FB_STAT.DIR) hk rfl (by decide) (wrapped.putFb k f) _)
  have hlogged : logged.regs = shown.regs := rfl
  have hshown : FbFrame [R.FB_STAT.DIR] wrapped logged := hdir.congr_regs hlogged
  have hmoved := fbFrame_fbMoved hk logged a stamp d'
  have ha : a = s.fbPos k := hflushed.fields _ _ rfl rfl
  have hm : m = s.fbMod k := hflushed.fbMod k
  have hpos : pos = (((s.fbPos k : Int) + d) % (s.fbMod k : Int)).toNat := by
    simp only [pos, x, ha, hm, hd]
  have hlt : pos < flushed.fbMod k := by
    have hmod : (0 : Int) < (m : Int) := Int.natCast_pos.mpr (fbMod_range flushed k).1
    exact (Int.toNat_lt (Int.emod_nonneg x hmod.ne')).mpr (Int.emod_lt_of_pos x hmod)
  refine ⟨?_, ?_, ?_⟩
  · rw [hmoved.fields _ _ rfl rfl, hshown.fields _ _ rfl rfl, hwrapped.fields _ _ rfl rfl, rd_fbSet_pos hk, Nat.mod_eq_of_lt hlt, hpos]
  · rw [hmoved.fields _ _ rfl rfl, rd_congr hlogged, ← hd]
    exact rd_wrB_fb hk _ _ rfl rfl
  · rw [hmoved.fields _ _ rfl rfl, hshown.fields _ _ rfl rfl, hwrapped.fields _ _ rfl rfl, hset.fields _ _ rfl rfl,
      hflushed.fields _ _ rfl rfl]

/-! ### An illegal change (R259, R260) -/

/-- What an illegal change writes. -/
def illFields : List Fld := [R.FB_CNT.ILL_CNT, R.FB_FLAGS.ILL_OVF, R.FB_STAT.POS_UNCERTAIN]

theorem fbFrame_illegalCount {k : Nat} (hk : isFb k = true) (s : State) :
    FbFrame illFields s (s.bump (R.FB_CNT.ILL_CNT.i k) (R.FB_FLAGS.ILL_OVF.i k)) :=
  fbFrame_bump hk rfl rfl rfl (by decide) (by decide) s

/-- With ILL_LIMIT 0 an illegal change is no fault. -/
theorem fbIllegal_regs {k : Nat} (hk : isFb k = true) (s : State) (hlim : s.act (R.FB_ILL.ILL_LIMIT.i k) = 0) :
    (s.fbIllegal k).regs = ((s.bump (R.FB_CNT.ILL_CNT.i k) (R.FB_FLAGS.ILL_OVF.i k)).wr (R.FB_STAT.POS_UNCERTAIN.i k) 1).regs := by
  unfold State.fbIllegal
  extract_lets _ _ f put lim
  have hput : FbFrame illFields s put :=
    ((fbFrame_illegalCount hk s).trans (fbFrame_wr (f := R.FB_STAT.POS_UNCERTAIN) hk rfl (by decide) _ 1)).congr_regs (putFb_regs _ k f)
  have hzero : lim = 0 := (hput.act rfl).trans hlim
  rw [if_neg (by simp [hzero]), putFb_regs]

/-- It counts one, makes the position uncertain, and leaves the levels and the position. -/
theorem fbIllegal_shows {k : Nat} (hk : isFb k = true) (s : State) (hlim : s.act (R.FB_ILL.ILL_LIMIT.i k) = 0)
    (hcnt : s.rd (R.FB_CNT.ILL_CNT.i k) < 65535) :
    (s.fbIllegal k).rd (R.FB_CNT.ILL_CNT.i k) = s.rd (R.FB_CNT.ILL_CNT.i k) + 1 ∧
      (s.fbIllegal k).rd (R.FB_STAT.POS_UNCERTAIN.i k) = 1 ∧
      (s.fbIllegal k).rd (R.FB_STAT.IN.i k) = s.rd (R.FB_STAT.IN.i k) ∧
      (s.fbIllegal k).rd (R.FB_POS.VALUE.i k) = s.rd (R.FB_POS.VALUE.i k) := by
  have hregs := fbIllegal_regs hk s hlim
  have hcount := fbFrame_illegalCount hk s
  have hovf : (R.FB_FLAGS.ILL_OVF.i k).addr ≠ (R.FB_CNT.ILL_CNT.i k).addr := fb_addr_ne rfl rfl (by decide)
  refine ⟨?_, ?_, ?_, ?_⟩
  · rw [rd_congr hregs, rd_wr_fb_apart hk _ _ rfl rfl rfl]
    exact rd_bump_same s _ _ (fb_plain rfl hk) (show 16 ≤ 31 by decide) rfl (.inl hovf) (fb_addr rfl hk).2 (fb_plain rfl hk) hcnt
  · rw [rd_congr hregs]
    exact rd_wr_fb hk _ _ rfl
  · rw [rd_congr hregs, rd_wr_fb_apart hk _ _ rfl rfl rfl, hcount.fields _ _ rfl rfl]
  · rw [rd_congr hregs, rd_wr_fb_apart hk _ _ rfl rfl rfl, hcount.fields _ _ rfl rfl]

/-! ### Changes of the signal levels (R251, R256) -/

/-- The stamp of the newly accepted levels of channel k: the first sample at them (R26, R255). -/
def State.edgeStamp (s : State) (k : Nat) : Nat := sub32 s.sampleTick (4 * (max 1 (s.act (R.FB_CFG.FILT.i k)) - 1))

/-- The levels of channel k shown in IN and at its raw repeats, which is where its decoder starts. -/
def State.fbShown (s : State) (k old new : Nat) : State := (s.wr (R.FB_STAT.IN.i k) new).ptRaw k (s.edgeStamp k) old new

section
variable {s : State} {k old new : Nat}

theorem fbShown_regs (s : State) (k old new : Nat) : (s.fbShown k old new).regs = (s.wr (R.FB_STAT.IN.i k) new).regs :=
  ptRaw_regs _ _ _ _ _

theorem fbFrame_fbShown (hk : isFb k = true) (s : State) (old new : Nat) : FbFrame [R.FB_STAT.IN] s (s.fbShown k old new) :=
  (fbFrame_wr hk rfl (by decide) s new).congr_regs (fbShown_regs s k old new)

/-- A channel that is off shows the levels alone. -/
theorem fbSignals_off (hk : isFb k = true) (hmode : s.fbMode k = 0) : s.fbSignals k old new = s.fbShown k old new := by
  have hshown : (s.fbShown k old new).fbMode k = 0 := ((fbFrame_fbShown hk s old new).fbMode k).trans hmode
  unfold State.fbShown State.edgeStamp at *
  unfold State.fbSignals
  simp only [hshown]

/-- In quadrature mode a change of one signal, the index as it was, is counted as the decoder says (R258). -/
theorem fbSignals_quad {d : Int} (hk : isFb k = true) (hmode : s.fbMode k = 1) (hidx : bit old 2 = bit new 2)
    (hone : bit old 0 = bit new 0 ∨ bit old 1 = bit new 1)
    (hd : d = quadCount (s.act (R.FB_CFG.DECODE.i k)) (bit old 0) (bit old 1) (bit new 0) (bit new 1)) (hne : d ≠ 0) :
    s.fbSignals k old new = (s.fbShown k old new).fbCount k (s.edgeStamp k) d := by
  have hframe := fbFrame_fbShown hk s old new
  have hshown : (s.fbShown k old new).fbMode k = 1 := (hframe.fbMode k).trans hmode
  have hdec : (s.fbShown k old new).act (R.FB_CFG.DECODE.i k) = s.act (R.FB_CFG.DECODE.i k) := hframe.act rfl
  have hboth : (bit old 0 != bit new 0 && bit old 1 != bit new 1) = false := by
    rcases hone with h | h <;> simp [h]
  unfold State.fbShown State.edgeStamp at *
  unfold State.fbSignals
  simp [hshown, hboth, hdec, ← hd, hne, hidx]

/-- In counter mode a change of both inputs is illegal (R259). -/
theorem fbSignals_illegal (hk : isFb k = true) (hmode : s.fbMode k = 4) (h0 : bit old 0 ≠ bit new 0) (h1 : bit old 1 ≠ bit new 1) :
    s.fbSignals k old new = (s.fbShown k old new).fbIllegal k := by
  have hshown : (s.fbShown k old new).fbMode k = 4 := ((fbFrame_fbShown hk s old new).fbMode k).trans hmode
  have hboth : (bit old 0 != bit new 0 && bit old 1 != bit new 1) = true := by simp [h0, h1]
  unfold State.fbShown State.edgeStamp at *
  unfold State.fbSignals
  simp only [hshown, hboth, if_true]
end

/-! ### FB_EDGE -/

section
variable {s : State} {dt k ins : Nat}

theorem exec_fbEdge (dt k ins aux : Nat) (s : State) : exec (.fbEdge dt k ins aux) s = execFbEdge dt k ins aux s := rfl

/-- An edge event of a running channel that leaves the auxiliary levels as they are changes the signals alone. -/
theorem exec_fbEdge_signals (hk : isFb k = true) (hi : ins < 8) (hr : (s.after dt).fbRuns = true)
    (ht : (s.after dt).taken (fbBank k) = true) :
    exec (.fbEdge dt k ins ((s.after dt).rd (R.FB_STAT.AUX.i k))) s = .next
      (if (s.after dt).rd (R.FB_STAT.IN.i k) = ins then s.after dt
        else (s.after dt).fbSignals k ((s.after dt).rd (R.FB_STAT.IN.i k)) ins) := by
  have haux : (s.after dt).rd (R.FB_STAT.AUX.i k) < 8 := bits_lt _ 20 18
  rw [exec_fbEdge]
  simp only [execFbEdge, needs, hk, hi, haux, hr, ht, decide_true, Bool.and_self, if_true]

theorem exec_fbEdge_changed (hk : isFb k = true) (hi : ins < 8) (hr : (s.after dt).fbRuns = true)
    (ht : (s.after dt).taken (fbBank k) = true) (hne : (s.after dt).rd (R.FB_STAT.IN.i k) ≠ ins) :
    exec (.fbEdge dt k ins ((s.after dt).rd (R.FB_STAT.AUX.i k))) s =
      .next ((s.after dt).fbSignals k ((s.after dt).rd (R.FB_STAT.IN.i k)) ins) := by
  rw [exec_fbEdge_signals hk hi hr ht, if_neg hne]

theorem rd_in_fbShown (hk : isFb k = true) (hi : ins < 8) (s : State) (old : Nat) :
    (s.fbShown k old ins).rd (R.FB_STAT.IN.i k) = ins := by
  rw [rd_congr (fbShown_regs s k old ins), rd_wr_fb hk s _ rfl]
  exact Nat.mod_eq_of_lt hi

end

/-! ### The ends of two times (R260, R265) -/

section
variable {s : State} {k r : Nat}

theorem fb_congr {t : State} (h : t.fbs = s.fbs) (k : Nat) : t.fb k = s.fb k := by
  rw [State.fb, State.fb, h]

theorem fb_putFb_same (s : State) (k : Nat) (f : Fb) : (s.putFb k f).fb k = f := tget_tput_same _ _ _ _

theorem exec_illWindowEnd (k : Nat) (s : State) : exec (.illWindowEnd k) s = execIllWindowEnd k s := rfl

theorem exec_illWindowEnd_on (hk : isFb k = true) (hr : s.fbRuns = true) (hn : (s.fb k).illN ≠ 0) {u : State}
    (hu : u = s.runRim ((s.fb k).illAt + 1000000 * max 1 (s.act (R.FB_ILL.ILL_WINDOW.i k)))) :
    exec (.illWindowEnd k) s = .next ((u.putFb k { u.fb k with illN := 0 }).fbCause k fbcIll false) := by
  rw [exec_illWindowEnd]
  simp [execIllWindowEnd, needs, hk, hr, hn, ← hu]

theorem exec_hallTimeout (k : Nat) (s : State) : exec (.hallTimeout k) s = execHallTimeout k s := rfl

theorem exec_hallTimeout_on (hk : isFb k = true) (hb : (s.fb k).badAt = some r) (hr : s.fbRuns = true) (hm : s.fbMode k = 2)
    (hc : bit (s.rd (R.FB_STAT.CAUSE.i k)) fbcHall = false) {u : State}
    (hu : u = s.runRim (r + 1000 * max 1 (s.act (R.FB_HALL.HALL_TMO.i k)))) :
    exec (.hallTimeout k) s = .next (u.fbFault k fbcHall true) := by
  rw [exec_hallTimeout]
  simp [execHallTimeout, needs, hk, hb, hr, hm, hc, ← hu]

/-- The readers of a channel are a matter of settings in force. -/
theorem FbFrame.fbReaders {l : List Fld} {t : State} (h : FbFrame l s t) (k : Nat) : t.fbReaders k = s.fbReaders k := by
  refine List.filter_congr fun n _ => ?_
  rw [h.act rfl, h.act rfl, h.act rfl]

/-- The cause, FAULT and LOST of a fault that loses the position. -/
def State.fbLost (s : State) (k c : Nat) : State :=
  ((s.fbCause k c true).wr (R.FB_STAT.FAULT.i k) 1).wr (R.FB_STAT.LOST.i k) 1

theorem fbFrame_fbLost (hk : isFb k = true) (s : State) (c : Nat) :
    FbFrame [causeFld c, R.FB_STAT.FAULT, R.FB_STAT.LOST] s (s.fbLost k c) :=
  ((fbFrame_wr (f := causeFld c) hk (causeFld_ofFb c) (by simp) s _).trans
    (fbFrame_wr (f := R.FB_STAT.FAULT) hk rfl (by simp) _ 1)).trans (fbFrame_wr (f := R.FB_STAT.LOST) hk rfl (by simp) _ 1)

/-- A fault that no lane reads shows itself alone. -/
theorem fbFault_unread (hk : isFb k = true) (c : Nat) (h : s.fbReaders k = []) : s.fbFault k c true = s.fbLost k c := by
  have hunread : (s.fbLost k c).fbReaders k = [] := ((fbFrame_fbLost hk s c).fbReaders k).trans h
  unfold State.fbFault State.fbLost at *
  simp only [if_true, hunread, forEach]

end

end Machine

open Machine

/-- Settles O20: an edge is shown before its decoder looks, and the compare, the repeats and the emulations that follow a count write neither the levels nor the position nor the direction. -/
theorem feedbackEdgesAndWindows : Obligations.FeedbackEdgesAndWindows := by
  unfold Obligations.FeedbackEdgesAndWindows
  refine ⟨?off, ?quad, ?illegal, ?window, ?hall⟩
  case off =>
    rintro s dt u k ins rfl hk hi hr ht hmode
    refine ⟨_, exec_fbEdge_signals hk hi hr ht, ?_⟩
    split
    case isTrue hsame => exact ⟨hsame, rfl⟩
    case isFalse =>
      rw [fbSignals_off hk hmode]
      exact ⟨rd_in_fbShown hk hi _ _, (fbFrame_fbShown hk _ _ _).fields _ _ rfl rfl⟩
  case quad =>
    rintro s dt u k ins d rfl hk hi hr ht hmode hidx hone hd hne hinv
    have hchanged : (s.after dt).rd (R.FB_STAT.IN.i k) ≠ ins := by
      rintro rfl
      exact hne (hd.trans (by simp [quadCount]))
    have hframe := fbFrame_fbShown hk (s.after dt) ((s.after dt).rd (R.FB_STAT.IN.i k)) ins
    obtain ⟨hpos, hdir, hin⟩ := fbCount_shows hk _ ((hframe.act rfl).trans hinv) ((s.after dt).edgeStamp k) d
    refine ⟨_, (exec_fbEdge_changed hk hi hr ht hchanged).trans (congrArg _ (fbSignals_quad hk hmode hidx hone hd hne)), ?_, ?_, hdir⟩
    · rw [hin, rd_in_fbShown hk hi]
    · have hsame : State.fbPos _ k = (s.after dt).fbPos k := hframe.fields R.FB_POS.VALUE k rfl rfl
      rw [hpos, hsame, hframe.fbMod]
  case illegal =>
    rintro s dt u k ins rfl hk hi hr ht hmode h0 h1 hlim hcnt
    have hchanged : (s.after dt).rd (R.FB_STAT.IN.i k) ≠ ins := by
      rintro rfl
      exact h0 rfl
    have hframe := fbFrame_fbShown hk (s.after dt) ((s.after dt).rd (R.FB_STAT.IN.i k)) ins
    have hcnt' : State.rd _ (R.FB_CNT.ILL_CNT.i k) = (s.after dt).rd (R.FB_CNT.ILL_CNT.i k) := hframe.fields _ _ rfl rfl
    obtain ⟨hone, huncertain, hin, hpos⟩ := fbIllegal_shows hk _ ((hframe.act rfl).trans hlim) (by omega)
    refine ⟨_, (exec_fbEdge_changed hk hi hr ht hchanged).trans (congrArg _ (fbSignals_illegal hk hmode h0 h1)), ?_, huncertain, ?_, ?_⟩
    · rw [hin, rd_in_fbShown hk hi]
    · rw [hone, hcnt']
    · rw [hpos, hframe.fields _ _ rfl rfl]
  case window =>
    rintro s u k hu hk hr hn
    refine ⟨_, exec_illWindowEnd_on hk hr hn hu, ?_, ?_, ?_⟩
    · rw [fbCause_eq, fb_congr (State.wr_fbs _ _ _), fb_putFb_same]
    · exact bit_fbCause hk _ (by decide) false
    · exact onlyWords_wr (f := (causeFld fbcIll).i k) (fb_addr (causeFld_ofFb _) hk).2 (u.putFb k _) _
  case hall =>
    rintro s u k r hu hk hb hr hm hc hread
    refine ⟨_, (exec_hallTimeout_on hk hb hr hm hc hu).trans (congrArg _ (fbFault_unread hk fbcHall hread)), ?_, ?_, ?_⟩
    · rw [State.fbLost, rd_wr_fb_apart hk _ _ rfl rfl rfl]
      exact rd_wr_fb hk _ _ rfl
    · exact rd_wr_fb hk _ _ rfl
    · rw [State.fbLost, rd_wr_fb_apart hk _ _ rfl rfl rfl, rd_wr_fb_apart hk _ _ rfl rfl rfl]
      exact bit_fbCause hk u (by decide) true

end Sys2Proof
end

section
namespace Sys2Proof

/-! PROOFS. Transfers of an absolute encoder (R267 to R271): a frame for a channel that does not run, before whose end a record of a vector that the device does not have leaves the merge. -/

namespace Machine

theorem exec_absFrameComplete (dt k : Nat) (frame : List Bool) (s : State) :
    exec (.absFrameComplete dt k frame) s = execAbsFrameComplete dt k frame s := rfl

/-- A frame for a channel that does not run (R254) only lets its clocks pass. -/
theorem exec_absFrameComplete_stopped {s : State} {k : Nat} (hk : isFb k = true) (h : s.fbRuns = false) (dt : Nat) (frame : List Bool) :
    exec (.absFrameComplete dt k frame) s = .next (s.after dt) := by
  rw [exec_absFrameComplete]
  simp only [execAbsFrameComplete, needs, hk, h, Bool.false_and, Bool.false_eq_true, if_true, if_false]

/-! ### A stray vector -/

/-- A vector that the device does not have: the model takes the bit of the feedback domain in PWR_DOM for its pending bit. -/
def domainVec : Nat := 32 * ((R.PWR_DOM.ON.addr - 0x1800) / 4) + (R.PWR_DOM.ON.lo + 21)

/-- In LEAD with a serial transfer of 8 bits in progress on channel 3 and the feedback domain off; a record of that vector is due to leave the merge at the next clock, enabled and with MSI-X off. -/
def strayFrame : State :=
  { (lead.put [(R.FB_CFG.MODE.i 3, 6), (R.FB_FRAME.NBITS.i 3, 8), (R.PWR_DOM.ON, 2 ^ 24 - 1 - 2 ^ 21)]).wr (intEn domainVec) 1 with
    fbs := [(3, { Fb.zero with xfer := some (1, 2, false, 0) })]
    blt := { lead.blt with merge := [⟨1, 0, 0, .int domainVec⟩] } }

theorem strayFrame_stopped : strayFrame.fbRuns = false := by decide +kernel

/-- One clock later the record has left the merge, and the domain is on. -/
theorem strayFrame_runsLater : (strayFrame.after 1).fbRuns = true := by decide +kernel

/-- What the statement asks of the channel once the clock has passed: serial mode, a transfer in progress, inputs taken, frames of 8 bits, no CRC, error field, jump limit or Gray code. -/
theorem strayFrame_serial :
    (strayFrame.after 1).fbMode 3 = 6 ∧ ((strayFrame.after 1).fb 3).xfer = some (1, 2, false, 0) ∧
      (strayFrame.after 1).taken (fbBank 3) = true ∧ (List.replicate 8 true).length = (strayFrame.after 1).nbits 3 ∧
      (strayFrame.after 1).crcW 3 = 0 ∧ (strayFrame.after 1).act (R.FB_FRAME2.ERR_MASK.i 3) = 0 ∧
      (strayFrame.after 1).act (R.FB_JUMP.JUMP_MAX.i 3) = 0 ∧ (strayFrame.after 1).act (R.FB_CFG.GRAY.i 3) = 0 := by
  decide +kernel

end Machine

open Machine

/-- Refutes O21: its fourth part asks after the clocks of the frame whether the channel runs, the device before them. In the state strayFrame, which no reset leads to, a record of a vector above 63 leaves the merge in between, and the pending bit that the model keeps for it is that of the feedback domain in PWR_DOM: the frame finds the channel stopped, and its transfer goes on. -/
theorem not_absoluteEncoderTransfers : ¬ Obligations.AbsoluteEncoderTransfers := by
  unfold Obligations.AbsoluteEncoderTransfers
  rintro ⟨-, -, -, hframe, -⟩
  obtain ⟨hmode, hxfer, htaken, hlen, hcrc, hmask, hjump, hgray⟩ := strayFrame_serial
  obtain ⟨t, ht, hended, -⟩ :=
    hframe strayFrame 1 _ 3 _ 1 2 0 rfl rfl strayFrame_runsLater hmode hxfer htaken hlen hcrc hmask hjump hgray
  have hpassed : exec (.absFrameComplete 1 3 (List.replicate 8 true)) strayFrame = .next (strayFrame.after 1) :=
    exec_absFrameComplete_stopped rfl strayFrame_stopped 1 _
  obtain rfl : strayFrame.after 1 = t := Host.Outcome.next.inj (hpassed.symm.trans ht)
  exact absurd (hxfer.symm.trans hended) (by decide)

end Sys2Proof
end

section
namespace Sys2Proof

/-! PROOFS. The lanes of the ring (R328): a word of memory reads back as it was stored (R65), and what LANE_FAULT does to LANE_STAT, which lies there. -/

namespace Machine

/-! ### A stored word reads back (R65) -/

theorem mem8_putMem8_same (s : State) (sp a v : Nat) : (s.putMem8 sp a v).mem8 sp a = v % 256 := by
  simp [State.mem8, State.putMem8, BitVec.toNat_ofNat]

theorem mem8_putMem8_other (s : State) (sp : Nat) {a b : Nat} (v : Nat) (h : b ≠ a) :
    (s.putMem8 sp a v).mem8 sp b = s.mem8 sp b :=
  congrArg BitVec.toNat (tget_tput_other _ _ _ _ (by simp only [cellKey]; omega))

/-- Bytes stored at an address leave those below it. -/
theorem mem8_putBytes_below (s : State) (sp : Nat) {a b : Nat} (l : List Nat) (h : b < a) :
    (s.putBytes sp a l).mem8 sp b = s.mem8 sp b := by
  induction l generalizing s a with
  | nil => rfl
  | cons x l ih => rw [State.putBytes, ih _ (by omega), mem8_putMem8_other s sp x (by omega)]

theorem memBytes_succ (s : State) (sp a n : Nat) : s.memBytes sp a (n + 1) = s.mem8 sp a :: s.memBytes sp (a + 1) n := by
  simp [State.memBytes, List.range_succ_eq_map, Function.comp_def, Nat.add_assoc, Nat.add_comm 1]

/-- A little-endian word of n bytes reads back as it was stored. -/
theorem memN_putBytes_leBytes (s : State) (sp a n v : Nat) : (s.putBytes sp a (leBytes n v)).memN n sp a = v % 256 ^ n := by
  induction n generalizing s a v with
  | zero => simp [State.memN, State.memBytes, leNat, Nat.mod_one]
  | succ n ih =>
    have head : (s.putBytes sp a (leBytes (n + 1) v)).mem8 sp a = v % 256 := by
      rw [leBytes, State.putBytes, mem8_putBytes_below _ _ _ (Nat.lt_succ_self a), mem8_putMem8_same, Nat.mod_mod]
    have tail : (s.putBytes sp a (leBytes (n + 1) v)).memN n sp (a + 1) = v / 256 % 256 ^ n := ih _ _ _
    rw [State.memN, memBytes_succ, leNat, head, ← State.memN, tail, Nat.mod_mod, Nat.pow_succ', Nat.mod_mul]

theorem mem32_putMem32_same (s : State) (sp a v : Nat) : (s.putMem32 sp a v).mem32 sp a = v % 2 ^ 32 :=
  memN_putBytes_leBytes s sp a 4 v

theorem mem32_congr {s t : State} (h : t.mem = s.mem) (sp a : Nat) : t.mem32 sp a = s.mem32 sp a := by
  simp only [State.mem32, State.memN, State.memBytes, mem8_congr h]

/-! ### LANE_FAULT (R328) -/

/-- A bit of LANE_STAT reads as it was set. -/
theorem bit_laneBit_same (s : State) (l : Nat) {b : Nat} (x : Bool) (h : b < 32) :
    bit ((s.laneBit l b x).mem32 4 (laneStat l)) b = x := by
  have set : bit (setBits (s.mem32 4 (laneStat l)) b b (b2n x)) b = x := bit_setBits_same _ b x
  rw [State.laneBit, mem32_putMem32_same, bit_eq_testBit, Nat.testBit_mod_two_pow, decide_eq_true h, Bool.true_and,
    ← bit_eq_testBit, set]

/-- A lane loses block lock, or shows hi_ber: which of the two is a free value (log entry 40). -/
def State.faultLane (s : State) (l : Nat) : State :=
  if Config.freeNat s.free % 2 = 0 then s.useFree.setLock l false else s.useFree.laneBit l 30 true

theorem exec_laneFault (dt lane : Nat) (s : State) : exec (.laneFault dt lane) s = execLaneFault dt lane s := rfl

section
variable {s u : State} {dt lane : Nat}

theorem setLock_mem (s : State) (x : Bool) (h : lane < 8) :
    (s.setLock lane x).mem = ({ s with ring := { s.ring with lockAt := tput 0 s.ring.lockAt lane s.tb.rim } }.laneBit lane 31 x).mem := by
  have h8 : lane ≠ 8 := by omega
  have h9 : lane ≠ 9 := by omega
  simp only [State.setLock, State.showTwinLock, h8, h9, if_false]

/-- The fault stands in LANE_STAT. -/
theorem faultLane_shown (s : State) (h : lane < 8) :
    (s.faultLane lane).locked lane = false ∨ bit ((s.faultLane lane).mem32 4 (laneStat lane)) 30 = true := by
  unfold State.faultLane
  split
  · left
    rw [State.locked, mem32_congr (setLock_mem _ _ h), bit_laneBit_same _ _ _ (by decide)]
  · right
    exact bit_laneBit_same _ _ _ (by decide)

/-- So the fault of a lane with block lock and no hi_ber changes memory. -/
theorem faultLane_mem_ne (h : lane < 8) (hlock : s.locked lane = true) (hber : bit (s.mem32 4 (laneStat lane)) 30 = false) :
    (s.faultLane lane).mem ≠ s.mem := by
  intro same
  have word := mem32_congr same 4 (laneStat lane)
  rcases faultLane_shown s h with unlocked | shown
  · rw [State.locked, word, ← State.locked, hlock] at unlocked
    cases unlocked
  · rw [word, hber] at shown
    cases shown

/-- A fault of the lane in use of a running channel, with fewer than four bad cycles behind it, leaves memory as that fault does; the request for the spare lane changes none of it. -/
theorem yields_laneFault_mem (hu : u = s.after dt) (h : lane < 8) (hup : u.ringUp (lane / 4) = true)
    (huse : u.onSpare (lane / 4) (lane / 2 % 2) = (lane % 2 == 1)) (hrun : u.badRun (lane / 4) (lane / 2 % 2) < 4) :
    Yields (.laneFault dt lane) s fun t => t.mem = (u.faultLane lane).mem := by
  have hlt : lane < 10 := by omega
  have hfew : ¬ 4 ≤ u.badRun (lane / 4) (lane / 2 % 2) := by omega
  simp only [Yields, exec_laneFault, execLaneFault, needs, ← hu, h, hlt, hup, huse, hfew, ← State.faultLane.eq_1, decide_true,
    bne_self_eq_false, Bool.not_true, Bool.or_self, Bool.false_eq_true, if_true, if_false]
  refine ⟨_, rfl, ?_⟩
  split
  · exact State.emit_mem _ _
  · rfl

end

/-- In LEAD with both lanes of port 0 of channel 0 in block lock. -/
def lockedPort : State := (lead0.setLock 0 true).setLock 1 true

end Machine

open Machine

/-- Refutes O24: its fourth part says that LANE_FAULT leaves memory as it is, but LANE_STAT, where block lock and hi_ber stand, lies in memory (space 0x04). In the state lockedPort the lane in use has block lock and no hi_ber; the fault takes the one or shows the other. -/
theorem not_ringPortsMoveAndFold : ¬ Obligations.RingPortsMoveAndFold := by
  unfold Obligations.RingPortsMoveAndFold
  rintro ⟨-, -, -, hfault, -⟩
  have hkept := hfault lockedPort 0 lockedPort 0 0 rfl rfl rfl (by decide +kernel) (by decide +kernel) (by decide +kernel)
  have hstat : Yields (.laneFault 0 0) lockedPort fun t => t.mem = (lockedPort.faultLane 0).mem :=
    yields_laneFault_mem rfl (by decide) (by decide +kernel) (by decide +kernel) (by decide +kernel)
  obtain ⟨t, ⟨-, -, -, hsame⟩, hmem⟩ := hkept.and hstat
  exact faultLane_mem_ne (by decide) (by decide +kernel) (by decide +kernel) (hmem.symm.trans hsame)

end Sys2Proof
end

section
namespace Sys2Proof

/-! PROOFS. The loss of the leader (R352, R353): what a device that plays the role of a bridge does with its lanes. -/

namespace Machine

theorem exec_leaderMissing (dt ch : Nat) (s : State) : exec (.leaderMissing dt ch) s = execLeaderMissing dt ch s := rfl

section
variable {s u : State} {dt ch : Nat}

/-- A bridge has no lanes (R353): where its leader is missing, no lane is to react, whatever set-points the image takes from the channel. -/
theorem yields_leaderMissing_bridge (hu : u = s.after dt) (hch : isCh ch = true) (hup : u.ringUp ch = true)
    (hrun : u.chState ch = 3) (hside : u.leadSide ch = false) (hloss : u.lossCyc ch ≤ (u.chan ch).noAcc)
    (hnew : (u.chan ch).missing = false) (hrole : u.roleMode = 5) :
    Yields (.leaderMissing dt ch) s fun t => (t.chan ch).react = [] := by
  simp only [Yields, exec_leaderMissing, execLeaderMissing, needs, ← hu, hch, hup, hrun, hside, hloss, hnew, hrole, forEach,
    decide_true, Bool.not_false, Bool.and_self, if_true]
  refine ⟨_, rfl, ?_⟩
  rw [chan_congr (llPoll_chans _ _), chan_modChan_same]

end

/-- In HOLD entered from BRIDGE, with channel 1 running upstream and its third cycle without an accepted frame behind it; axis slot 7 is in rate group 3 and takes its set-points from channel 1. -/
def heldBridge : State :=
  State.put { node1 with
    dev := { node1.dev with cfg := { node1.dev.cfg with rgDef := 15, axisGroup := [(7, 3)], words := [⟨7, 3, 1, 0, 0⟩] } }
    chans := [(1, { Chan.zero with noAcc := 3 })] }
    [(R.MOD_STATE.MODE, 6), (R.MOD_STATE.FROM, 5), (R.IKL_CFG.ROLE.i 1, 3), (R.IKL_STAT.STATE.i 1, 3),
      (R.AX_CFG.OUT_MODE.i 7, 1), (R.AX_CFG.SP_SRC.i 7, 1)]

theorem heldBridge_ringLanes : heldBridge.ringLanes 1 = [7] := by decide +kernel

end Machine

open Machine

/-- Refutes O25: its fourth part asks for the reaction of every lane that the channel feeds, in every role; a device that plays a bridge has no lanes (R353), also in HOLD entered from BRIDGE, where lanes run (R236). In the state heldBridge slot 7 is such a lane, and it does not react. -/
theorem not_ringChannelsStartAndAreLost : ¬ Obligations.RingChannelsStartAndAreLost := by
  unfold Obligations.RingChannelsStartAndAreLost
  rintro ⟨-, -, -, hmissing, -⟩
  have hup : heldBridge.ringUp 1 = true := by decide +kernel
  have hrun : heldBridge.chState 1 = 3 := by decide +kernel
  have hside : heldBridge.leadSide 1 = false := by decide +kernel
  have hloss : heldBridge.lossCyc 1 ≤ (heldBridge.chan 1).noAcc := by decide +kernel
  have hnew : (heldBridge.chan 1).missing = false := by decide +kernel
  have hnone := yields_leaderMissing_bridge (s := heldBridge) (u := heldBridge) (dt := 0) rfl rfl hup hrun hside hloss hnew (by decide +kernel)
  obtain ⟨t, ⟨-, hreact, -⟩, hempty⟩ := (hmissing heldBridge 0 heldBridge 1 rfl rfl hup hrun hside hloss hnew).and hnone
  exact absurd ((hempty.symm.trans hreact).trans heldBridge_ringLanes) (by decide)

end Sys2Proof
end

section
namespace Sys2Proof

/-! PROOFS. The return of the own delay measurement frame to the leader (R318, R366): the round trip that it gives. -/

namespace Machine

theorem exec_frameReturn (dt ch port arr : Nat) (b : List Nat) (s : State) :
    exec (.frameReturn dt ch port arr b) s = execFrameReturn dt ch port arr b s := rfl

section
variable {s u : State} {dt ch port arr : Nat} {b : List Nat}

theorem coldUndo_none (h : s.log.cold = none) : s.coldUndo = s := by
  rw [State.coldUndo, h]

/-- A port that waits for no lane goes on as it is when it hears a frame. -/
theorem portHeard_settled (hrevert : s.rd ((if port = 0 then R.IKL_CTRL.REVERT_P0 else R.IKL_CTRL.REVERT_P1).i ch) ≠ 1)
    (hreq : (s.chan ch).req.contains port = false) : s.portHeard ch port = s := by
  simp only [State.portHeard, hrevert, hreq, Bool.false_eq_true, if_false]

@[simp] theorem vorg_ringHeard (s : State) (c : Nat) : (s.ringHeard c).vorg c = s.vorg c := rfl

/-- The channel with the round trip of a copy: V (R366) on top of the time from T_ORIG to the return. -/
def State.dmTimed (s : State) (ch arr : Nat) (h : Hdr) : Chan :=
  if h.dir then { s.chan ch with dmR := some (16 * sub32 arr h.tOrig + s.vorg ch) }
  else { s.chan ch with dmF := some (16 * sub32 arr h.tOrig + s.vorg ch) }

theorem chan_dmReturn (s : State) (ch arr : Nat) (h : Hdr) : (s.dmReturn ch arr h).chan ch = s.dmTimed ch arr h := by
  have stored : (s.putChan ch (s.dmTimed ch arr h)).chan ch = s.dmTimed ch arr h := tget_tput_same _ _ _ _
  refine (chan_congr ?_ ch).trans stored
  simp only [State.dmReturn, ← State.dmTimed.eq_1]
  split
  · split
    · rw [State.flag_chans, State.wrB_chans, State.wr_chans]
    · rw [State.wrB_chans, State.wr_chans]
  · rfl

/-- The own delay measurement frame on the originating side is timed. -/
theorem leadFrame_ownDelay (hcrc : hcrcOk b = true) (hown : s.ownFrame ch (hdrOf b) = true) (htype : (hdrOf b).ftype = 4) :
    s.leadFrame ch port arr b = (s.ringHeard ch).dmReturn ch arr (hdrOf b) := by
  have own : (s.ringHeard ch).ownFrame ch (hdrOf b) = true := hown
  simp only [State.leadFrame, hcrc, own, htype, Bool.not_true, Bool.false_eq_true, if_true, if_false]

/-- FRAME_RETURN of a delay measurement frame that the leader sent on P1 gives the forward round trip, V included once. -/
theorem yields_frameReturn_forward (hu : u = s.after dt) (hframe : frameOk ch port arr b = true) (hup : u.ringUp ch = true)
    (hmode : u.mode = 2) (hlead : u.leadSide ch = true) (hcrc : hcrcOk b = true) (hown : u.ownFrame ch (hdrOf b) = true)
    (htype : (hdrOf b).ftype = 4) (hdir : (hdrOf b).dir = false) (hcold : u.log.cold = none)
    (hrevert : u.rd ((if port = 0 then R.IKL_CTRL.REVERT_P0 else R.IKL_CTRL.REVERT_P1).i ch) ≠ 1)
    (hreq : (u.chan ch).req.contains port = false) :
    Yields (.frameReturn dt ch port arr b) s fun t =>
      (t.chan ch).dmF = some (16 * sub32 arr (hdrOf b).tOrig + u.vorg ch) := by
  have origin : u.originSide ch = true := by simp only [State.originSide, hlead, Bool.true_or]
  have follows : u.candidates = false := by simp [State.candidates, hmode]
  have heard : u.frameIn ch port arr b = (u.ringHeard ch).dmReturn ch arr (hdrOf b) := by
    simp only [State.frameIn, hup, hcrc, coldUndo_none hcold, portHeard_settled hrevert hreq, follows, hlead,
      leadFrame_ownDelay hcrc hown htype, Bool.not_true, Bool.false_eq_true, if_true, if_false]
  refine ⟨u.frameIn ch port arr b, ?_, ?_⟩
  · simp only [exec_frameReturn, execFrameReturn, needs, ← hu, hframe, origin, hown, Bool.or_true, Bool.and_self, if_true]
  · show ((u.frameIn ch port arr b).chan ch).dmF = _
    rw [heard, chan_dmReturn, State.dmTimed, hdir, vorg_ringHeard]
    rfl

end

/-- In LEAD at POS 1 of channel 0: the only node entry, at POS 1, has the device's own address 5. -/
def leadAtPos1 : State := (lead0.put [(R.IKL_CFG.ADDR.i 0, 5), (R.IKL_LEN.NNODES.i 0, 1)]).putMem32 (schedSp 0) 0x100 0x10005

/-- A delay measurement frame of address 5, sent on P1 with T_ORIG 0. -/
def delayFrame : List Nat := frameHdr (4 :: (List.replicate 13 0 ++ [5, 0] ++ List.replicate 14 0))

/-- V is 76 ns, in 2^-4 ns, while IKL_DLY is 0. -/
theorem leadAtPos1_vorg : leadAtPos1.vorg 0 = 76 * 16 := by decide +kernel

end Machine

open Machine

/-- Refutes O26: its last part adds 2V to the time from T_ORIG to the return. The frame leaves V after T_ORIG (R366), and 2V on top of the time from its start to its return is V on top of that from T_ORIG, which is what the model adds. In the state leadAtPos1, V is not 0. -/
theorem not_ringFramesAreHeard : ¬ Obligations.RingFramesAreHeard := by
  unfold Obligations.RingFramesAreHeard
  rintro ⟨-, -, -, -, -, -, -, hreturn⟩
  have hframe : frameOk 0 1 3000 delayFrame = true := by decide +kernel
  have hup : leadAtPos1.ringUp 0 = true := by decide +kernel
  have hmode : leadAtPos1.mode = 2 := by decide +kernel
  have hlead : leadAtPos1.leadSide 0 = true := by decide +kernel
  have hcrc : hcrcOk delayFrame = true := by decide +kernel
  have hown : leadAtPos1.ownFrame 0 (hdrOf delayFrame) = true := by decide +kernel
  have hdir : (hdrOf delayFrame).dir = false := by decide +kernel
  have htwice := hreturn leadAtPos1 0 leadAtPos1 0 1 3000 delayFrame rfl hframe hup hmode hlead hcrc rfl hown
  have honce := yields_frameReturn_forward (s := leadAtPos1) (u := leadAtPos1) (dt := 0) rfl hframe hup hmode hlead hcrc hown (by decide +kernel) hdir rfl
    (by decide +kernel) (by decide +kernel)
  obtain ⟨t, ⟨hforward, -⟩, htrip⟩ := htwice.and honce
  have sums := Option.some.inj ((hforward hdir).symm.trans htrip)
  rw [leadAtPos1_vorg] at sums
  omega

end Sys2Proof
end

section
set_option Elab.async false

namespace Sys2Proof

/-! PROOFS. Fields of registers side by side (R12, R54, R63): what hardware writes to one field leaves every field that shares no bit with it. -/

namespace Machine

/-- Is a field one that hardware writes in place: in BAR0, not triplicated, its bits in order? -/
def Fld.direct (f : Fld) : Bool := decide (f.addr < barSize) && !isTmr f.addr && decide (f.lo ≤ f.hi)

section
variable {f g x : Fld}

theorem direct_iff : f.direct = true ↔ f.addr < barSize ∧ isTmr f.addr = false ∧ f.lo ≤ f.hi := by
  simp [Fld.direct, and_assoc]

/-- Fields that share no bit lie in two registers, or beside each other in one. -/
theorem apart_cases (h : f.apart g = true) : g.addr ≠ f.addr ∨ g.addr = f.addr ∧ (f.hi < g.lo ∨ g.hi < f.lo) := by
  by_cases he : g.addr = f.addr
  · simp only [Fld.apart, he, bne_self_eq_false, Bool.false_or, Bool.or_eq_true, decide_eq_true_eq] at h
    exact .inr ⟨he, h⟩
  · exact .inl he

theorem rd_wr_direct (s : State) (v : Nat) (hf : f.direct = true) : (s.wr f v).rd f = v % p2 (f.hi + 1 - f.lo) :=
  rd_wr_same s f v (direct_iff.mp hf).2.1 (Nat.le_succ_of_le (direct_iff.mp hf).2.2)

theorem rd_wr_beside (s : State) (v : Nat) (hf : f.direct = true) (h : f.apart g = true) : (s.wr f v).rd g = s.rd g := by
  obtain ⟨hlt, hplain, hle⟩ := direct_iff.mp hf
  rcases apart_cases h with hne | ⟨he, hbits⟩
  · exact rd_wr_other s f g v hne hlt
  · exact rd_wr_apart s f g v he hplain (Nat.le_succ_of_le hle) hbits

theorem rd_flag_beside (s : State) (hf : f.direct = true) (h1 : f.hi = f.lo) (h : f.apart g = true) :
    (s.flag f).rd g = s.rd g := by
  obtain ⟨hlt, hplain, -⟩ := direct_iff.mp hf
  rcases apart_cases h with hne | ⟨he, hbits⟩
  · exact rd_flag_other s f g hne hlt
  · exact rd_flag_apart s f g he hplain h1 hbits

theorem rd_flag_direct (s : State) (hf : f.direct = true) (h1 : f.hi = f.lo) : (s.flag f).rd f = 1 :=
  rd_flag_same s f (direct_iff.mp hf).2.1 h1

/-- A count writes its own field and its overflow flag. -/
theorem rd_bump_beside (s : State) (hf : f.direct = true) (hg : g.direct = true) (h1 : g.hi = g.lo)
    (hx : f.apart x = true) (hy : g.apart x = true) : (s.bump f g).rd x = s.rd x := by
  unfold State.bump
  dsimp only
  split
  · split
    · rw [rd_flag_beside _ hg h1 hy]
      exact rd_congr rfl x
    · exact rd_congr rfl x
  · split
    · rw [rd_flag_beside _ hg h1 hy, rd_wr_beside _ _ hf hx]
      exact rd_congr rfl x
    · rw [rd_wr_beside _ _ hf hx]
      exact rd_congr rfl x

theorem rd_bump_direct (s : State) (hf : f.direct = true) (hg : g.direct = true) (h1 : g.hi = g.lo) (h : f.apart g = true)
    (n : s.rd f < p2 (f.hi + 1 - f.lo) - 1) : (s.bump f g).rd f = s.rd f + 1 := by
  obtain ⟨-, hplain, hle⟩ := direct_iff.mp hf
  obtain ⟨hlt, hplain', -⟩ := direct_iff.mp hg
  exact rd_bump_same s f g hplain hle h1 ((apart_cases h).imp id And.right) hlt hplain' n

theorem rd_wrB_direct (s : State) (b : Bool) (hf : f.direct = true) (h1 : f.hi = f.lo) : (s.wrB f b).rd f = b2n b := by
  rw [State.wrB, rd_wr_direct s _ hf, h1, Nat.add_sub_cancel_left]
  cases b <;> rfl

theorem rd_wrB_beside (s : State) (b : Bool) (hf : f.direct = true) (h : f.apart g = true) : (s.wrB f b).rd g = s.rd g :=
  rd_wr_beside s _ hf h

theorem rd_wrU_beside (s : State) (v : Nat) (hf : f.direct = true) (h : f.apart g = true) : (s.wrU f v).rd g = s.rd g :=
  rd_wr_beside s _ hf h

/-- A count that stops at the end of its field. -/
theorem rd_wrU_direct (s : State) (v : Nat) (hf : f.direct = true) : (s.wrU f v).rd f = min v (p2 (f.hi + 1 - f.lo) - 1) := by
  have hpos : 0 < p2 (f.hi + 1 - f.lo) := Nat.two_pow_pos _
  rw [State.wrU, rd_wr_direct s _ hf, Nat.mod_eq_of_lt]
  omega

/-- A field of a word that is replaced. -/
theorem rd_putRaw_direct (s : State) (v : Nat) (hf : isTmr f.addr = false) : (s.putRaw f.addr v).rd f = bits v f.hi f.lo := by
  rw [State.rd, rdw_plain _ hf, raw_putRaw_same]

/-- One bit of a field of flags. -/
theorem bit_rd_flagBit (s : State) {b k : Nat} (hf : isTmr f.addr = false) (hk : k < f.hi + 1 - f.lo) :
    bit ((s.flagBit f b).rd f) k = (bit (s.rd f) k || decide (k = b)) := by
  unfold State.flagBit State.rd
  rw [rdw_plain _ hf, rdw_plain _ hf, raw_setMask_same]
  simp only [bit_eq_testBit, testBit_bits, Nat.testBit_or, hk, decide_true, Bool.true_and, p2, Nat.testBit_two_pow]
  congr 2
  exact propext ⟨by omega, by omega⟩

theorem rd_flagBit_beside (s : State) {b : Nat} (hf : f.direct = true) (hb : b < f.hi + 1 - f.lo) (h : f.apart g = true) :
    (s.flagBit f b).rd g = s.rd g := by
  have hone : s.flagBit f b = s.flag { f with hi := f.lo + b, lo := f.lo + b } := by
    simp [State.flagBit, State.flag, Fld.mask, p2]
  rw [hone]
  obtain ⟨hlt, hplain, hle⟩ := direct_iff.mp hf
  rcases apart_cases h with hne | ⟨he, hbits⟩
  · exact rd_flag_other s _ g hne hlt
  · refine rd_flag_apart s _ g he hplain rfl ?_
    rcases hbits with hb' | hb'
    · exact .inl (by show f.lo + b < g.lo; omega)
    · exact .inr (by show g.hi < f.lo + b; omega)

end

end Machine

end Sys2Proof
end

section
set_option Elab.async false

namespace Sys2Proof

/-! PROOFS. The instructions of the IEEE 1149.1 port (R472) and the supplies of the banks (R466, R468): outputs that return or become high-impedance are only sent. -/

namespace Machine

/-! ### What only sends -/

section
variable {β : Type} {p : State → β}

/-- A change that sends outputs keeps whatever every output keeps. -/
theorem bankReturns_keeps (hp : ∀ s o, p (s.emit o) = p s) (s : State) (n : Nat) : p (s.bankReturns n) = p s := by
  unfold State.bankReturns
  dsimp only
  split
  · rw [hp, ite_keeps p _ (hp _ _), ite_keeps p _ (forEach_keeps p (fun _ _ => hp _ _) _), forEach_keeps p]
    intro j s
    exact ite_keeps p _ (hp _ _)
  split
  · refine forEach_keeps p (fun k s => forEach_keeps p (fun i s => ?_) s) s
    split
    · exact hp _ _
    · rfl
  split
  · refine forEach_keeps p (fun b s => ite_keeps p _ (forEach_keeps p (fun i s => ?_) s)) s
    rw [hp, hp]
  split
  · rw [forEach_keeps p (fun j s => by rw [hp, hp]), forEach_keeps p]
    intro j s
    exact ite_keeps p _ (by rw [State.sdckShow, hp])
  · rfl

theorem bankHiZ_keeps (hp : ∀ s o, p (s.emit o) = p s) (s : State) (n : Nat) : p (s.bankHiZ n) = p s := by
  have all : ∀ cls m (s : State), p (forEach (List.range m) (fun i s => s.emit (.hiZ cls i s.now)) s) = p s :=
    fun cls m => forEach_keeps p fun _ _ => hp _ _
  unfold State.bankHiZ
  dsimp only
  split
  · rw [all, all, all, all]
  split
  · exact forEach_keeps p (fun _ _ => hp _ _) s
  split
  · rw [all, all]
  split
  · rw [all, all]
  · rfl

end

/-! ### The instructions of the port -/

/-- The port with an instruction in force. -/
def State.putJtag (s : State) (i : Nat) : State := { s with dev := { s.dev with jtag := i } }

/-- Taking an instruction puts it in force and sends outputs. -/
theorem scanTake_keeps {β : Type} {p : State → β} (hp : ∀ s o, p (s.emit o) = p s) (s : State) (i : Nat) :
    p (s.scanTake i) = p (s.putJtag i) :=
  ite_keeps p _ (forEach_keeps p (fun _ _ => bankReturns_keeps hp _ _) _)

theorem scanTake_dev (s : State) (i : Nat) : (s.scanTake i).dev = { s.dev with jtag := i } := scanTake_keeps State.emit_dev s i
theorem scanTake_regs (s : State) (i : Nat) : (s.scanTake i).regs = s.regs := scanTake_keeps State.emit_regs s i
theorem scanTake_mem (s : State) (i : Nat) : (s.scanTake i).mem = s.mem := scanTake_keeps State.emit_mem s i

/-- An instruction that only takes its place in the port. -/
theorem yields_scanTake {s u v : State} {c : Instr} {i : Nat} (hexec : exec c s = .next (v.scanTake i)) (hd : v.dev = u.dev)
    (hr : v.regs = u.regs) (hm : v.mem = u.mem) :
    Yields c s fun t => t.dev.jtag = i ∧ t.dev.bsr = u.dev.bsr ∧ t.regs = u.regs ∧ t.mem = u.mem :=
  ⟨_, hexec, by rw [scanTake_dev], by rw [scanTake_dev, hd], (scanTake_regs v i).trans hr, (scanTake_mem v i).trans hm⟩

/-- The bits that IDCODE shifts out are those of its word. -/
theorem idcodeBits_eq : idcodeBits = (List.range 32).map fun i => (0xB71603C5 : Nat).testBit i :=
  List.map_congr_left fun i _ => bit_eq_testBit _ i

/-- Bits on TDO leave whatever the banks do. -/
theorem emit_tdo (s : State) (l : List Bool) : (s.emit (.serial outTdo 0 l)).out = .serial outTdo 0 l :: s.out := by
  simp [State.emit, outTdo]

/-! ### The bits of the bank registers -/

theorem bit_bits_eq {w hi lo k : Nat} : bit (bits w hi lo) k = (decide (k < hi + 1 - lo) && bit w (lo + k)) := by
  simp only [bit_eq_testBit, testBit_bits]

theorem bit_lor_pow (w n k : Nat) : bit (w ||| p2 n) k = (bit w k || decide (k = n)) := by
  simp only [bit_eq_testBit, Nat.testBit_or, p2, Nat.testBit_two_pow, eq_comm]

/-- A bit that is taken out of a word. -/
theorem bit_clear_pow (w n k : Nat) : bit (w - (w &&& p2 n)) k = (bit w k && decide (k ≠ n)) := by
  rw [sub_land_eq_ldiff, bit_eq_testBit, bit_eq_testBit, Nat.testBit_ldiff, p2, Nat.testBit_two_pow]
  by_cases h : k = n
  · simp [h]
  · simp [h, Ne.symm h]

/-- A single bit of a word set to a value. -/
theorem bit_setBits_one (w n k : Nat) (b : Bool) : bit (setBits w n n (b2n b)) k = if k = n then b else bit w k := by
  split
  case isTrue h =>
    subst h
    exact bit_setBits_same w k b
  case isFalse h =>
    have apart : bits (setBits w n n (b2n b)) k k = bits w k k :=
      bits_setBits_apart w n n (b2n b) k k (Nat.le_succ n) (by omega)
    have one : ∀ x, bit (bits x k k) 0 = bit x k := fun x => by simp [bit_bits_eq]
    rw [← one, apart, one]

/-! ### A bank's power -/

section
variable {s u : State} {dt n k : Nat}

theorem taken_congr {t : State} (h : t.rd R.DEV_BANK.PG = s.rd R.DEV_BANK.PG) (k : Nat) : t.taken k = s.taken k := by
  unfold State.taken
  rw [h]

/-- PG is a field of six bits. -/
theorem taken_wr (s : State) (v k : Nat) : (s.wr R.DEV_BANK.PG v).taken k = (bit v k && decide (k < 6)) := by
  have hrd : (s.wr R.DEV_BANK.PG v).rd R.DEV_BANK.PG = v % 2 ^ 6 := rd_wr_direct s v (by decide)
  rw [State.taken, hrd, bit_eq_testBit, bit_eq_testBit, Nat.testBit_mod_two_pow, Bool.and_comm]

theorem taken_eq_and (s : State) (k : Nat) : s.taken k = (s.taken k && decide (k < 6)) := by
  rw [State.taken, State.rd, bit_bits_eq]
  by_cases h : k < 6 <;> simp [h, R.DEV_BANK.PG]

/-- The bank's time since its power-good, and the level of its window (R466). -/
def State.bankRise (s : State) (n : Nat) (v33 : Bool) : State :=
  { s with dev := { s.dev with bankAt := (n, s.tb.boot) :: s.dev.bankAt } }.wr R.DEV_BANK.V33
    (setBits (s.rd R.DEV_BANK.V33) n n (b2n v33))

theorem exec_bankPowerGoodRise (dt n : Nat) (v33 : Bool) (s : State) :
    exec (.bankPowerGoodRise dt n v33) s = execBankPowerGoodRise dt n v33 s := rfl

theorem exec_bankPowerGoodRise_away (hu : u = s.after dt) (hn : n < 6) (ht : u.taken n = false)
    (ha : u.dev.bankAt.any (fun x => x.1 == n) = false) (v33 : Bool) :
    exec (.bankPowerGoodRise dt n v33) s = .next (u.bankRise n v33) := by
  subst hu
  simp [exec_bankPowerGoodRise, execBankPowerGoodRise, needs, hn, ht, ha]
  rfl

theorem bit_rd_bankRise (s : State) (hk : k < 6) (v33 : Bool) :
    bit ((s.bankRise n v33).rd R.DEV_BANK.V33) k = if k = n then v33 else bit (s.rd R.DEV_BANK.V33) k := by
  have hrd : (s.bankRise n v33).rd R.DEV_BANK.V33 = setBits (s.rd R.DEV_BANK.V33) n n (b2n v33) % 2 ^ 6 :=
    rd_wr_direct _ _ (by decide)
  rw [hrd, ← bit_setBits_one, bit_eq_testBit, bit_eq_testBit, Nat.testBit_mod_two_pow]
  simp [hk]

/-- The bank is in use, and may count a loss again (R468). -/
def State.bankTaken (s : State) (n : Nat) : State :=
  { s with dev := { s.dev with
      bankAt := s.dev.bankAt.filter fun y => y.1 != n, bankLost := s.dev.bankLost - (s.dev.bankLost &&& p2 n) } }.wr
    R.DEV_BANK.PG (s.rd R.DEV_BANK.PG ||| p2 n)

theorem exec_bankInputsRestored (dt n : Nat) (s : State) :
    exec (.bankInputsRestored dt n) s = execBankInputsRestored dt n s := rfl

/-- The inputs are restored 10 µs after the rise, and not before. -/
theorem exec_bankInputsRestored_waiting {x : Nat} (hu : u = s.after dt) (hn : n < 6)
    (hx : u.dev.bankAt.find? (fun y => y.1 == n) = some (n, x)) :
    exec (.bankInputsRestored dt n) s =
      .next (if u.tb.boot - x < 10000 then u else (u.bankTaken n).bankReturns n) := by
  subst hu
  rw [exec_bankInputsRestored, execBankInputsRestored]
  simp [needs, hn, hx]
  rfl

theorem taken_bankTaken (s : State) (hn : n < 6) (k : Nat) : (s.bankTaken n).taken k = (s.taken k || decide (k = n)) := by
  rw [State.bankTaken, taken_wr, bit_lor_pow, taken_eq_and s k]
  by_cases h : k = n
  · simp [h, hn]
  · simp [h, State.taken]

/-- The bank is away, and its loss noted (R468). -/
def State.bankGone (s : State) (n : Nat) : State :=
  ({ s with dev := { s.dev with bankAt := s.dev.bankAt.filter fun y => y.1 != n, bankLost := s.dev.bankLost ||| p2 n } }.wr
    R.DEV_BANK.PG (s.rd R.DEV_BANK.PG - (s.rd R.DEV_BANK.PG &&& p2 n))).flagBit R.DEV_BANK.LOST n

theorem exec_bankPowerGoodFall (dt n : Nat) (s : State) : exec (.bankPowerGoodFall dt n) s = execBankPowerGoodFall dt n s := rfl

theorem exec_bankPowerGoodFall_taken (hu : u = s.after dt) (hn : n < 6) (ht : u.taken n = true) :
    exec (.bankPowerGoodFall dt n) s =
      .next (if bit u.dev.bankLost n then (u.bankHiZ n).bankGone n
        else ((u.bankHiZ n).bankGone n).bump R.DEV_BANK_CNT.LOSSES R.DEV_BANK_CNT.OVF) := by
  subst hu
  simp [exec_bankPowerGoodFall, execBankPowerGoodFall, needs, hn, ht]
  rfl

theorem taken_bankGone (s : State) (hn : n < 6) (k : Nat) : (s.bankGone n).taken k = (s.taken k && decide (k ≠ n)) := by
  have hpg : (s.bankGone n).taken k =
      (bit (s.rd R.DEV_BANK.PG - (s.rd R.DEV_BANK.PG &&& p2 n)) k && decide (k < 6)) :=
    (taken_congr (rd_flagBit_beside _ (f := R.DEV_BANK.LOST) (by decide) hn (by decide)) k).trans (taken_wr _ _ k)
  rw [hpg, bit_clear_pow, taken_eq_and s k, State.taken]
  cases decide (k < 6) <;> simp

theorem lost_bankGone (s : State) (hn : n < 6) : bit ((s.bankGone n).rd R.DEV_BANK.LOST) n = true := by
  rw [State.bankGone, bit_rd_flagBit _ (by decide) hn]
  simp

theorem losses_bankGone (s : State) (hn : n < 6) : (s.bankGone n).rd R.DEV_BANK_CNT.LOSSES = s.rd R.DEV_BANK_CNT.LOSSES := by
  rw [State.bankGone, rd_flagBit_beside _ (by decide) hn (by decide), rd_wr_beside _ _ (by decide) (by decide)]
  exact rd_congr rfl _

theorem bankGone_mem (s : State) (n : Nat) : (s.bankGone n).mem = s.mem := by simp [State.bankGone]

theorem bankGone_counted (s : State) (n : Nat) : bit (s.bankGone n).dev.bankLost n = true := by
  simp [State.bankGone, bit_lor_pow]

end

end Machine

open Machine

/-- Settles O53: taking an instruction sends outputs at most. -/
theorem boundaryScanTakesItsInstructions : Obligations.BoundaryScanTakesItsInstructions := by
  unfold Obligations.BoundaryScanTakesItsInstructions
  refine ⟨?bypass, ?extest, ?clamp, ?highz, ?pulse, ?train, ?idcode, ?preload⟩
  case bypass => rintro s dt u rfl; exact yields_scanTake rfl rfl rfl rfl
  case extest => rintro s dt u rfl; exact yields_scanTake rfl rfl rfl rfl
  case clamp => rintro s dt u rfl; exact yields_scanTake rfl rfl rfl rfl
  case pulse => rintro s dt u rfl; exact yields_scanTake rfl rfl rfl rfl
  case train => rintro s dt u rfl; exact yields_scanTake rfl rfl rfl rfl
  case highz =>
    rintro s dt u rfl
    exact yields_scanTake rfl (forEach_keeps State.dev (fun _ _ => bankHiZ_keeps State.emit_dev _ _) _)
      (forEach_keeps State.regs (fun _ _ => bankHiZ_keeps State.emit_regs _ _) _)
      (forEach_keeps State.mem (fun _ _ => bankHiZ_keeps State.emit_mem _ _) _)
  case idcode =>
    rintro s dt u rfl
    refine ⟨_, rfl, ?_, ?_, ?_, ?_⟩
    · rw [State.emit_dev, scanTake_dev]
    · rw [emit_tdo, idcodeBits_eq]
      rfl
    · rw [State.emit_regs, scanTake_regs]
    · rw [State.emit_mem, scanTake_mem]
  case preload =>
    rintro s dt u d rfl
    refine ⟨_, rfl, ?_, rfl, ?_, ?_⟩
    · show ((s.after dt).scanTake 2).dev.jtag = 2
      rw [scanTake_dev]
    · exact scanTake_regs (s.after dt) 2
    · exact scanTake_mem (s.after dt) 2

/-- Settles O52: a bank is away or in use by its bit of PG, which its rise leaves, its restored inputs set and its fall clears. -/
theorem banksFollowTheirSupply : Obligations.BanksFollowTheirSupply := by
  unfold Obligations.BanksFollowTheirSupply
  refine ⟨?rise, ?restored, ?early, ?fall, ?again⟩
  case rise =>
    intro s dt u n v33 hu hn ht ha
    refine ⟨_, exec_bankPowerGoodRise_away hu hn ht ha v33, ?_, ?_, ?_, ?_, ?_, ?_⟩
    · simp [State.bankRise]
    · rw [bit_rd_bankRise u hn, if_pos rfl]
    · intro k hk hne
      rw [bit_rd_bankRise u hk, if_neg hne]
    · exact (rd_wr_beside _ _ (by decide) (by decide)).trans (rd_congr rfl _)
    · simp [State.bankRise]
    · simp [State.bankRise]
  case restored =>
    intro s dt u n x hu hn hx hlate
    refine ⟨_, exec_bankInputsRestored_waiting hu hn hx, ?_⟩
    rw [if_neg (Nat.not_lt.mpr hlate)]
    have htaken : ∀ k, ((u.bankTaken n).bankReturns n).taken k = (u.taken k || decide (k = n)) := fun k =>
      (taken_congr (rd_congr (bankReturns_keeps State.emit_regs _ n) _) k).trans (taken_bankTaken u hn k)
    refine ⟨?_, ?_, ?_, ?_⟩
    · simp [htaken]
    · intro k hk
      simp [htaken, hk]
    · rw [bankReturns_keeps State.emit_mem]
      simp [State.bankTaken]
    · rw [bankReturns_keeps State.emit_dev]
      simp [State.bankTaken, bit_clear_pow]
  case early =>
    intro s dt u n x hu hn hx hsoon
    refine ⟨_, exec_bankInputsRestored_waiting hu hn hx, ?_⟩
    rw [if_pos hsoon]
  case fall =>
    intro s dt u n hu hn ht hfirst hroom
    refine ⟨_, exec_bankPowerGoodFall_taken hu hn ht, ?_⟩
    rw [hfirst]
    have hrd : ∀ f, (u.bankHiZ n).rd f = u.rd f := rd_congr (bankHiZ_keeps State.emit_regs u n)
    have hcnt := (losses_bankGone (u.bankHiZ n) hn).trans (hrd _)
    have hbump : ∀ x : Fld, x.addr = R.DEV_BANK.PG.addr →
        (((u.bankHiZ n).bankGone n).bump R.DEV_BANK_CNT.LOSSES R.DEV_BANK_CNT.OVF).rd x = ((u.bankHiZ n).bankGone n).rd x :=
      fun x hx => rd_bump_other _ _ _ x (by rw [hx]; decide) (by rw [hx]; decide) (by decide) (by decide)
    have htaken : ∀ k, (((u.bankHiZ n).bankGone n).bump R.DEV_BANK_CNT.LOSSES R.DEV_BANK_CNT.OVF).taken k =
        (u.taken k && decide (k ≠ n)) := fun k => by
      rw [taken_congr (hbump _ rfl), taken_bankGone _ hn, taken_congr (hrd _)]
    refine ⟨?_, ?_, ?_, ?_, ?_, ?_⟩
    · exact (htaken n).trans (by simp)
    · intro k hk
      exact (htaken k).trans (by simp [hk])
    · exact (congrArg (bit · n) (hbump R.DEV_BANK.LOST rfl)).trans (lost_bankGone _ hn)
    · refine (rd_bump_direct _ (by decide) (by decide) (by decide) (by decide) ?_).trans (congrArg (· + 1) hcnt)
      rw [hcnt]
      exact Nat.lt_trans hroom (by decide)
    · simp [bankGone_mem, bankHiZ_keeps State.emit_mem]
    · simp [bankGone_counted]
  case again =>
    intro s dt u n hu hn ht hlost
    refine ⟨_, exec_bankPowerGoodFall_taken hu hn ht, ?_⟩
    rw [hlost]
    refine ⟨?_, lost_bankGone _ hn, ?_⟩
    · exact (taken_bankGone _ hn n).trans (by simp)
    · exact (losses_bankGone _ hn).trans (rd_congr (bankHiZ_keeps State.emit_regs u n) _)

end Sys2Proof
end

section
set_option Elab.async false

namespace Sys2Proof

/-! PROOFS. The core supply (R456, R482): the end of a servo window, before which a record of a vector that the device does not have leaves the merge. -/

namespace Machine

theorem exec_servoWindowEnd (s : State) : exec .servoWindowEnd s = execServoWindowEnd s := rfl

/-- The boundary at which the window ends, in base periods from the latest one (R482). -/
def State.windowLeft (s : State) : Nat :=
  if s.baseK % s.svWin = 0 && s.tb.latB = s.now && s.pwr.winK ≠ s.baseK then 0 else s.svWin - s.baseK % s.svWin

/-- The device at that boundary. -/
def State.atWindowEnd (s : State) : State := s.runTo (add32 s.tb.latB (31250 * s.windowLeft))

/-- A window in which no slack was seen ends without a step of TARGET. -/
theorem exec_servoWindowEnd_idle {s : State} (hr : s.tb.run = true) (hw : s.atWindowEnd.pwr.wmin = none) (x : Fld) :
    Yields .servoWindowEnd s fun t => t.rd x = s.atWindowEnd.rd x := by
  refine ⟨_, (exec_servoWindowEnd s).trans (congrArg Host.Outcome.next (if_pos hr)), ?_⟩
  show State.rd { s.atWindowEnd.windowEnd with pwr := _ } x = _
  rw [State.windowEnd, hw]
  exact rd_congr rfl x

/-- A vector that the device does not have: the model takes bit 0 of TARGET for its pending bit. -/
def targetVec : Nat := 32 * ((R.PWR_VID.TARGET.addr - 0x1800) / 4) + R.PWR_VID.TARGET.lo

/-- The clock runs, no slack was seen, and a record of that vector is due to leave the merge at the next clock, enabled and with MSI-X off. -/
def strayTarget : State :=
  { up.wr (intEn targetVec) 1 with blt := { up.blt with merge := [⟨1, 0, 0, .int targetVec⟩] } }

theorem strayTarget_target : strayTarget.rd R.PWR_VID.TARGET = 0 := by decide +kernel

theorem strayTarget_atWindowEnd : strayTarget.atWindowEnd.rd R.PWR_VID.TARGET = 1 := by decide +kernel

theorem strayTarget_idle : strayTarget.atWindowEnd.pwr.wmin = none := by decide +kernel

end Machine

open Machine

/-- Refutes O16: its first part has a window without slack keep TARGET from the command on, not from the window's end. In the state strayTarget, which no reset leads to, a record of a vector above 63 leaves the merge in between, and the pending bit that the model keeps for it is bit 0 of TARGET. -/
theorem not_powerCommandsMoveTheCore : ¬ Obligations.PowerCommandsMoveTheCore := by
  unfold Obligations.PowerCommandsMoveTheCore
  rintro ⟨hclose, -⟩
  have hends := exec_servoWindowEnd_idle (s := strayTarget) rfl strayTarget_idle R.PWR_VID.TARGET
  obtain ⟨t, ⟨-, -, -, hstays⟩, hsame⟩ := (hclose strayTarget rfl).and hends
  have hone : t.rd R.PWR_VID.TARGET = 1 := hsame.trans strayTarget_atWindowEnd
  exact absurd (hone.symm.trans ((hstays rfl).trans strayTarget_target)) (by decide)

end Sys2Proof
end

section
set_option Elab.async false

namespace Sys2Proof

/-! PROOFS. Submissions (R404): the word of SUB_RES that an accepted item leaves, where the next number of its flow is above 16 bits. -/

namespace Machine

theorem exec_submit (dt : Nat) (src : Src) (v : Nat) (s : State) : exec (.submit dt src v) s = execSubmit dt src v s := rfl

/-- What SUBMIT does for a source that may write its port. -/
theorem exec_submit_on {s u : State} {dt v p : Nat} {src : Src} (hu : u = s.after dt) (hv : isWord v = true)
    (hp : portOf src = some p) (hw : u.mayWrite src 15 = true) :
    exec (.submit dt src v) s = .next ((u.mirrorWrite (R.SUB_CTL.GO.j p).addr v).submitWrite p v) := by
  subst hu
  rw [exec_submit, execSubmit, hp]
  exact needs_swWrite hv hw

/-- Out of reset, with the number 65,536 next in flow 0. -/
def straySeq : State := { up with dct := { up.dct with seqs := [(0, 65536)] } }

/-- A word of SUB_CTL with GO. -/
def goWord : Nat := 0x84000000

/-- The device after the write. -/
def straySeqGone : State := ((straySeq.after 0).mirrorWrite (R.SUB_CTL.GO.j 0).addr goWord).submitWrite 0 goWord

/-- The number is added to the slot's place in SUB_RES, and its 17th bit makes slot 0 read as 1. -/
theorem straySeqGone_item : (straySeqGone.submitDue 0).rd (R.SUB_RES.ITEM.j 0) = 1 := by decide +kernel

theorem straySeq_free : (straySeq.after 0).freeSlot = some 0 := by decide +kernel

theorem straySeq_mayWrite : (straySeq.after 0).mayWrite .host 15 = true := by decide +kernel

theorem straySeq_noWaiting : tget none (straySeq.after 0).dct.subs 0 = none := by decide +kernel

end Machine

open Machine

/-- Refutes O32: its first part gives the slot as SUB_RES shows it for every state. In the state straySeq, which no reset leads to, the next sequence number is 65,536, and its 17th bit adds to the slot. -/
theorem not_ductusItemsMoveThroughTheirStages : ¬ Obligations.DuctusItemsMoveThroughTheirStages := by
  unfold Obligations.DuctusItemsMoveThroughTheirStages
  rintro ⟨hsubmit, -⟩
  have hword : isWord goWord = true := by decide +kernel
  obtain ⟨t, ht, -, -, -, -, -, -, hitem⟩ := hsubmit straySeq 0 (straySeq.after 0) .host 0 goWord 0 rfl hword (by decide +kernel)
    (by decide +kernel) rfl straySeq_mayWrite straySeq_noWaiting straySeq_free
  obtain rfl : straySeqGone = t := Host.Outcome.next.inj ((exec_submit_on rfl hword rfl straySeq_mayWrite).symm.trans ht)
  exact absurd (straySeqGone_item.symm.trans hitem) (by decide)

end Sys2Proof
end

section
set_option Elab.async false

namespace Sys2Proof

/-! PROOFS. The boundary after a word of a Serif core (R389, R396): a hardware loop whose start lies beyond the code memory. -/

namespace Machine

/-- Core 1 runs a handler and stands at a word that is the end of a loop with a start of 8,192, while its periodic task waits for the core. The first import of the task is the time of its dispatch, 5. -/
def strayLoop (w : Nat) : State :=
  State.put
    ((up.putMem32 6 0x8000 w).putSerif 1
      { up.serif 1 with
        hdl := 1, st := 4096, lc := [(0, 2)], ls := [(0, 8192)], wait := true, per := some (5, 100) })
    [(R.SF_CTRL.RUN.i 1, 1), ((R.SF_IMP.KIND.i 1).j 0, 6), ((R.SF_IMP.COUNT.i 1).j 0, 1)]

/-- A command that changes memory does not meet an end that keeps it. -/
theorem not_yields_of_mem {c : Instr} {s u v : State} {P : State → Prop} (hv : exec c s = .next v) (hmem : v.mem ≠ u.mem)
    (hkeep : ∀ t, P t → t.mem = u.mem) : ¬ Yields c s P := by
  rintro ⟨t, ht, hP⟩
  obtain rfl : v = t := Host.Outcome.next.inj (hv.symm.trans ht)
  exact hmem (hkeep v hP)

theorem serifGoes_mem {d raised : Nat} {c : Serif} {u t : State} (h : SerifGoes d c raised u t) : t.mem = u.mem := by
  obtain ⟨-, -, -, -, hmem⟩ := h
  exact hmem

/-- At the end of an addition the loop goes back beyond the code memory: the core faults and is idle, and the waiting task stores its import. -/
theorem strayLoop_fadd_mem :
    (((strayLoop (encR 0x10 0 0 0 0)).after 0).serifArith 1 0x10 0 0 0 0 fun _ a b _ => fAdd a b).mem ≠
      ((strayLoop (encR 0x10 0 0 0 0)).after 0).mem := by decide +kernel

theorem strayLoop_fabs_mem :
    (((strayLoop (encR 0x18 0 0 0 0)).after 0).serifArith 1 0x18 0 0 0 0 fun _ a _ _ => (a % p2 31, 0)).mem ≠
      ((strayLoop (encR 0x18 0 0 0 0)).after 0).mem := by decide +kernel

theorem strayLoop_mvs_mem :
    (((strayLoop (encS 9 0 0)).after 0).serifOp 1 (encS 9 0 0) fun _ c => .next (c.setF 0 (c.special 0))).mem ≠
      ((strayLoop (encS 9 0 0)).after 0).mem := by decide +kernel

theorem strayLoop_nop_mem :
    (((strayLoop 0).after 0).serifOp 1 (encN 0 0) fun _ c => .next c).mem ≠ ((strayLoop 0).after 0).mem := by decide +kernel

end Machine

open Machine

/-- Refutes O33: its first part has an addition keep every byte of memory even where a loop ends at it. In the state strayLoop, which no program leads to, the loop starts beyond the code memory: the core faults at the boundary, and the task that waits for it stores its import. -/
theorem not_serifArithmeticWritesItsResult : ¬ Obligations.SerifArithmeticWritesItsResult := by
  unfold Obligations.SerifArithmeticWritesItsResult
  rintro ⟨hfadd, -⟩
  exact not_yields_of_mem rfl strayLoop_fadd_mem (fun t => serifGoes_mem)
    (hfadd (strayLoop (encR 0x10 0 0 0 0)) 0 _ 1 0 0 0 0 rfl (by decide +kernel) (by decide +kernel))

/-- Refutes O34, by an absolute value at the end of a loop that starts beyond the code memory, as for an addition. -/
theorem not_serifSelectionAndComparison : ¬ Obligations.SerifSelectionAndComparison := by
  unfold Obligations.SerifSelectionAndComparison
  rintro ⟨-, -, hfabs, -⟩
  exact not_yields_of_mem rfl strayLoop_fabs_mem (fun t => serifGoes_mem)
    (hfabs (strayLoop (encR 0x18 0 0 0 0)) 0 _ 1 0 0 0 0 rfl (by decide +kernel) (by decide +kernel))

/-- Refutes O35, by a move from a special register at the end of a loop that starts beyond the code memory. -/
theorem not_serifMovesAndMemory : ¬ Obligations.SerifMovesAndMemory := by
  unfold Obligations.SerifMovesAndMemory
  rintro ⟨hmvs, -⟩
  exact not_yields_of_mem rfl strayLoop_mvs_mem (fun t => serifGoes_mem)
    (hmvs (strayLoop (encS 9 0 0)) 0 _ 1 0 0 rfl rfl (by decide) (by decide) (by decide +kernel))

/-- Refutes O36, by a NOP at the end of a loop that starts beyond the code memory. -/
theorem not_serifControlFlow : ¬ Obligations.SerifControlFlow := by
  unfold Obligations.SerifControlFlow
  rintro ⟨hnop, -⟩
  exact not_yields_of_mem rfl strayLoop_nop_mem (fun t => serifGoes_mem)
    (hnop (strayLoop 0) 0 _ 1 0 rfl (by decide +kernel) (by decide +kernel))

end Sys2Proof
end

section
set_option Elab.async false

namespace Sys2Proof

/-! PROOFS. Flash operations of the mailbox (R416, R417): the guard of the slot in use, and an erase beyond the addresses that a space of memory has. -/

namespace Machine

section
variable {s u : State} {dt : Nat}

/-! ### Answers of the mailbox -/

/-- An answer without words shows its status and code and stores nothing. -/
theorem mbAnswer_empty (s : State) {st code : Nat} (hst : st < 16) (hcode : code < 65536) :
    (s.mbAnswer st code []).rd R.SCR_MB_STAT.STATUS = st ∧ (s.mbAnswer st code []).rd R.SCR_MB_STAT.CODE = code ∧
      (s.mbAnswer st code []).mem = s.mem := by
  have hshow : s.mbAnswer st code [] = ((s.wr R.SCR_MB_STAT.STATUS st).wr R.SCR_MB_STAT.CODE code).raiseInt 4 := rfl
  rw [hshow]
  refine ⟨?_, ?_, by simp⟩
  · rw [rd_raiseInt, rd_wr_beside _ _ (by decide) (by decide), rd_wr_direct _ _ (by decide)]
    exact Nat.mod_eq_of_lt hst
  · rw [rd_raiseInt, rd_wr_direct _ _ (by decide)]
    exact Nat.mod_eq_of_lt hcode

/-- A request that ends with an error code. -/
theorem yields_mbError {c : Instr} {code : Nat} (hexec : exec c s = .next (u.mbError code)) (hcode : code < 65536) :
    Yields c s fun t => t.rd R.SCR_MB_STAT.STATUS = 5 ∧ t.rd R.SCR_MB_STAT.CODE = code ∧ t.mem = u.mem :=
  ⟨_, hexec, mbAnswer_empty u (by decide) hcode⟩

/-! ### The guard of the slot in use (R417) -/

theorem slotGuard_touched {cs b m a n x : Nat} (hboot : s.mode ≠ 0) (hlisten : s.mode ≠ 1)
    (hslot : s.slotRange = some (cs, b, m)) (hb : b ≤ x) (hm : x < b + m) (ha : a ≤ x) (hn : x < a + n) :
    s.slotGuard cs a n = true := by
  have hmode : 2 ≤ s.mode := by omega
  have hmeet : rangesMeet a n b m = true := by
    simp only [rangesMeet, Bool.and_eq_true, decide_eq_true_eq]
    omega
  simp [State.slotGuard, hslot, hmode, hmeet]

theorem exec_flashErase (dt : Nat) (s : State) : exec (.flashErase dt) s = execFlashErase dt s := rfl

theorem exec_flashErase_refused (hu : u = s.after dt) (hrun : u.mbRuns 3 = true)
    (hg : u.slotGuard (u.mbArg 1) (u.mbArg 2 / 4096 * 4096) (4096 * u.mbArg 3) = true) :
    exec (.flashErase dt) s = .next (u.mbError 2) := by
  subst hu
  simp [exec_flashErase, execFlashErase, hrun, hg]

theorem exec_flashWrite (dt : Nat) (s : State) : exec (.flashWrite dt) s = execFlashWrite dt s := rfl

theorem exec_flashWrite_refused (hu : u = s.after dt) (hrun : u.mbRuns 4 = true)
    (hg : u.slotGuard (u.mbArg 1) (u.mbArg 2) (4 * u.mbArg 3) = true) :
    exec (.flashWrite dt) s = .next (u.mbError 2) := by
  subst hu
  simp [exec_flashWrite, execFlashWrite, hrun, hg]

/-- What an erase leaves that is not refused. -/
def State.flashErased (s : State) (cs a n : Nat) : State :=
  ((s.flashClear (flashSp cs) a n).emit (.flash cs a n true)).mbDone []

theorem exec_flashErase_done {cs a n : Nat} (hu : u = s.after dt) (hrun : u.mbRuns 3 = true) (hcs : u.mbArg 1 = cs)
    (ha : u.mbArg 2 / 4096 * 4096 = a) (hn : 4096 * u.mbArg 3 = n) (hg : u.slotGuard cs a n = false)
    (hf : u.flashHas cs a n = true) : exec (.flashErase dt) s = .next (u.flashErased cs a n) := by
  subst hu hcs ha hn
  simp [exec_flashErase, execFlashErase, hrun, hg, hf, State.flashErased]

end

/-! ### A flash of more than 4 GiB -/

/-- Scribe erases 2^21 + 1 sectors of a flash of 2^40 bytes. -/
def strayErase : State :=
  { mbox 3 [0, 0, 0, 2097153] with dev := { up.dev with envA := ⟨true, false, false, 0, 1099511627776⟩ } }

theorem strayErase_runs : (strayErase.after 0).mbRuns 3 = true := by decide +kernel

theorem strayErase_cs : (strayErase.after 0).mbArg 1 = 0 := by decide +kernel

theorem strayErase_address : (strayErase.after 0).mbArg 2 / 4096 * 4096 = 0 := by decide +kernel

theorem strayErase_length : 4096 * (strayErase.after 0).mbArg 3 = 8589938688 := by decide +kernel

theorem strayErase_unguarded : (strayErase.after 0).slotGuard 0 0 8589938688 = false := by decide +kernel

theorem strayErase_has : (strayErase.after 0).flashHas 0 0 8589938688 = true := by decide +kernel

/-- Its byte 2^33 has the key of a byte of space 0x300, which reads 0 where nothing is stored. -/
theorem strayErase_byte : ((strayErase.after 0).flashErased 0 0 8589938688).mem8 0x100 8589934592 = 0 := by decide +kernel

end Machine

open Machine

/-- Settles O10: a byte of the slot that the operation touches makes the two ranges meet. -/
theorem flashOfTheRunningSlotIsGuarded : Obligations.FlashOfTheRunningSlotIsGuarded := by
  unfold Obligations.FlashOfTheRunningSlotIsGuarded
  refine ⟨?erase, ?write⟩
  case erase =>
    rintro s dt u cs b m x hu hrun hboot hlisten hslot rfl hb hm ha hn
    exact yields_mbError (exec_flashErase_refused hu hrun (slotGuard_touched hboot hlisten hslot hb hm ha hn)) (by decide)
  case write =>
    rintro s dt u cs b m x hu hrun hboot hlisten hslot rfl hb hm ha hn
    exact yields_mbError (exec_flashWrite_refused hu hrun (slotGuard_touched hboot hlisten hslot hb hm ha hn)) (by decide)

/-- Refutes O47: its fifth part has every byte of an erase read 255, whatever the size of the flash. In the state strayErase, which no board leads to, the flash has 2^40 bytes, and the erase reaches bytes that the model takes for another space, where nothing stored reads 0. -/
theorem not_mailboxRequestsAreAnswered : ¬ Obligations.MailboxRequestsAreAnswered := by
  unfold Obligations.MailboxRequestsAreAnswered
  rintro ⟨-, -, -, -, herase, -⟩
  have hrun := herase strayErase 0 _ rfl strayErase_runs
  rw [strayErase_cs, strayErase_address, strayErase_length] at hrun
  obtain ⟨t, ht, -, -, hbytes, -⟩ := hrun strayErase_unguarded strayErase_has
  have hexec := exec_flashErase_done rfl strayErase_runs strayErase_cs strayErase_address strayErase_length
    strayErase_unguarded strayErase_has
  obtain rfl : (strayErase.after 0).flashErased 0 0 8589938688 = t := Host.Outcome.next.inj (hexec.symm.trans ht)
  exact absurd (strayErase_byte.symm.trans (hbytes 8589934592 (Nat.zero_le _) (by decide))) (by decide)

end Sys2Proof
end

section
set_option Elab.async false

namespace Sys2Proof

/-! PROOFS. Interrupts and messages (R450 to R452): a clear, an enable and an unmask. -/

namespace Machine

section
variable {s u : State} {dt n v : Nat} {src : Src}

theorem exec_intStatClear (dt : Nat) (src : Src) (n v : Nat) (s : State) :
    exec (.intStatClear dt src n v) s = execIntStatClear dt src n v s := rfl

theorem exec_intEnWrite (dt : Nat) (src : Src) (n v : Nat) (s : State) :
    exec (.intEnWrite dt src n v) s = execIntEnWrite dt src n v s := rfl

theorem exec_msixUnmask (dt how v : Nat) (s : State) : exec (.msixUnmask dt how v) s = execMsixUnmask dt how v s := rfl

/-- A device that mirrors nothing sends no record of a write. -/
theorem mirrorWrite_off (h : s.mirrors = false) (a v : Nat) : s.mirrorWrite a v = s := by
  simp [State.mirrorWrite, State.mirror, h]

theorem exec_intStatClear_reads (hu : u = s.after dt) (hn : n < 2) (hv : isWord v = true) (hr : u.reads src = true) :
    exec (.intStatClear dt src n v) s = .next (u.intStatWrite n v) := by
  subst hu
  obtain ⟨hring, hup⟩ : src ≠ .ring ∧ (s.after dt).srcUp src = true := by simpa [State.reads] using hr
  simp [exec_intStatClear, execIntStatClear, needs, hn, hv, hring, hup]

/-- On a tick without events of vectors a clear takes away the bits written. -/
theorem intStatWrite_quiet (h : s.log = .none) :
    s.intStatWrite n v = s.putRaw (0x300 + 4 * n) (s.raw (0x300 + 4 * n) - (s.raw (0x300 + 4 * n) &&& v)) := by
  have hsets : s.setsOf (0x300 + 4 * n) = 0 := by rw [State.setsOf, h]; rfl
  have hints : s.log.ints = [] := by rw [h]; rfl
  have hlog : { s.log with ints := [] } = s.log := by rw [h]; rfl
  simp [State.intStatWrite, hsets, hints, forEach, hlog]
  rfl

/-! ### An enable (R451) -/

theorem exec_intEnWrite_reads (hu : u = s.after dt) (hn : n < 2) (hv : isWord v = true) (hr : u.reads src = true)
    (hm : u.mirrors = false) : exec (.intEnWrite dt src n v) s = .next (u.intEnWrite n v) := by
  subst hu
  obtain ⟨hring, hup⟩ : src ≠ .ring ∧ (s.after dt).srcUp src = true := by simpa [State.reads] using hr
  simp [exec_intEnWrite, execIntEnWrite, needs, hn, hv, hring, hup, mirrorWrite_off hm]

/-- The status bit of a vector stands in the raw word of its register. -/
theorem rd_intStat (s : State) (v : Nat) :
    s.rd (intStat v) = bits (s.raw (if v < 32 then 0x300 else 0x304)) (v % 32) (v % 32) := by
  rw [State.rd, intStat, rdw_plain]
  dsimp only
  split <;> decide

theorem intStat_word {i : Nat} (hn : n < 2) (hi : i < 32) : (if 32 * n + i < 32 then 0x300 else 0x304) = 0x300 + 4 * n := by
  split <;> omega

/-- A word of INT_EN none of whose vectors waits only stands in its register. -/
theorem intEnWrite_idle (hn : n < 2) (h : s.raw (0x300 + 4 * n) = 0) : s.intEnWrite n v = s.putRaw (0x308 + 4 * n) v := by
  refine forEach_idle fun i hi => if_neg ?_
  have hlt : i < 32 := List.mem_range.mp (List.mem_of_mem_filter hi)
  have hother : 0x300 + 4 * n ≠ 0x308 + 4 * n := by omega
  rw [rd_intStat, intStat_word hn hlt, raw_putRaw_other _ _ hother, h]
  simp [bits]

/-- The enable of one vector that waits and may be sent sends its message. -/
theorem intEnWrite_one (hv : v < 32) (hw : s.rd (intStat v) = 1) (ho : s.msixOpen v = true) :
    s.intEnWrite 0 (2 ^ v) = (s.putRaw 0x308 (2 ^ v)).emit (.msix v) := by
  have hone : (List.range 32).filter (fun i => bit (2 ^ v) i) = [v] := by
    interval_cases v <;> decide
  have hwait : (s.putRaw 0x308 (2 ^ v)).rd (intStat v) = 1 := by
    rw [rd_putRaw_other _ _ (by simp [intStat, hv]) (by decide), hw]
  have hopen : (s.putRaw 0x308 (2 ^ v)).msixOpen v = true := by
    simpa [State.msixOpen, rd_putRaw_other s (2 ^ v) (x := R.MSIX_CTRL.MASK.j v) (a := 0x308)
      (by simp [Fld.j, R.MSIX_CTRL.MASK]; omega) (by decide)] using ho
  rw [State.intEnWrite, hone]
  simp [forEach, hwait, State.message, hopen]

/-! ### Masks of messages (R451) -/

theorem flushMsix_bus (s : State) : s.flushMsix.bus = s.bus := by
  refine forEach_keeps State.bus (fun v t => ?_) s
  split
  · exact (ite_keeps State.bus _ (State.emit_bus _ _)).trans (State.wr_bus _ _ _)
  · rfl

/-- What was pending leaves the PBA alone. -/
theorem raw_flushMsix (s : State) {b : Nat} (h : b < 0x1800) : s.flushMsix.raw b = s.raw b := by
  refine forEach_keeps (State.raw · b) (fun v t => ?_) s
  have hpba : (t.wr (pbaBit v) 0).raw b = t.raw b := raw_wr_other _ _ _ (by simp [pbaBit]; omega)
  split
  · exact (ite_keeps (State.raw · b) _ (raw_congr (State.emit_regs _ _) b)).trans hpba
  · rfl

theorem exec_msixUnmask_up (hu : u = s.after dt) (hup : u.srcUp .host = true) {how : Nat} (hh : how < 3) (hv : isVec v = true) :
    exec (.msixUnmask dt how v) s = .next (if how = 0 then (u.mirrorWrite (R.MSIX_CTRL.MASK.j v).addr 0).msixCtrlWrite v 0
      else { u with bus := if how = 1 then { u.bus with fmask := false } else { u.bus with msixEn := true } }.flushMsix) := by
  subst hu
  simp [exec_msixUnmask, execMsixUnmask, needs, hup, hh, hv]

end

end Machine

open Machine

/-- Settles O45: an enable acts on the vectors whose status bit is 1, and an unmask leaves the registers outside the PBA. -/
theorem interruptsAndMessages : Obligations.InterruptsAndMessages := by
  unfold Obligations.InterruptsAndMessages
  refine ⟨?clear, ?enable, ?waiting, ?function, ?all, ?vector⟩
  case clear =>
    intro s dt u src n v hu hn hv hr hlog
    refine ⟨_, exec_intStatClear_reads hu hn hv hr, ?_⟩
    rw [intStatWrite_quiet hlog]
    have hother : 0x304 - 4 * n ≠ 0x300 + 4 * n := by omega
    exact ⟨raw_putRaw_same _ _ _, raw_putRaw_other _ _ hother, rfl, rfl⟩
  case enable =>
    intro s dt u src n v hu hn hv hr hquiet hm
    refine ⟨_, exec_intEnWrite_reads hu hn hv hr hm, ?_⟩
    rw [intEnWrite_idle hn hquiet]
    exact ⟨raw_putRaw_same _ _ _, rfl, rfl⟩
  case waiting =>
    intro s dt u src v hu hword hv hr hm hw ho
    refine ⟨_, exec_intEnWrite_reads hu (by decide) hword hr hm, ?_⟩
    rw [intEnWrite_one hv hw ho]
    exact ⟨raw_putRaw_same _ _ _, by simp [State.emit]⟩
  case function =>
    intro s dt u hu hup
    refine ⟨_, exec_msixUnmask_up hu hup (by decide) (by decide), ?_⟩
    simp [flushMsix_bus]
  case all =>
    intro s dt u hu hup
    refine ⟨_, exec_msixUnmask_up hu hup (by decide) (by decide), ?_⟩
    simp [flushMsix_bus]
  case vector =>
    intro s dt u v hu hv hup hm
    refine ⟨_, exec_msixUnmask_up hu hup (by decide) hv, ?_⟩
    have hlt : v < 64 := by simpa [isVec] using hv
    have haddr : (R.MSIX_CTRL.MASK.j v).addr < 0x1800 := by simp [Fld.j, R.MSIX_CTRL.MASK]; omega
    rw [if_pos rfl, mirrorWrite_off hm]
    refine ⟨?_, (flushMsix_bus _).trans (State.wr_bus _ _ _)⟩
    have hplain : isTmr (R.MSIX_CTRL.MASK.j v).addr = false := isTmr_below (by omega)
    have hkeep : (u.msixCtrlWrite v 0).rd (R.MSIX_CTRL.MASK.j v) = (u.wr (R.MSIX_CTRL.MASK.j v) 0).rd (R.MSIX_CTRL.MASK.j v) := by
      rw [State.rd, State.rd, rdw_plain _ hplain, rdw_plain _ hplain]
      exact congrArg (bits · _ _) (raw_flushMsix _ haddr)
    rw [hkeep, rd_wr_same _ _ _ hplain (Nat.zero_le _)]
    rfl

end Sys2Proof
end

section
set_option Elab.async false

namespace Sys2Proof

/-! PROOFS. The I²C target (R453 to R455) and the readings of PMBus (R457). -/

namespace Machine

section
variable {s u : State} {dt : Nat}

theorem exec_i2cCommand (dt c : Nat) (d : List Nat) (ok : Bool) (s : State) :
    exec (.i2cCommand dt c d ok) s = execI2cCommand dt c d ok s := rfl

theorem exec_i2cRead (dt n : Nat) (s : State) : exec (.i2cRead dt n) s = execI2cRead dt n s := rfl

theorem exec_i2cWarmReset (dt a b : Nat) (s : State) : exec (.i2cWarmReset dt a b) s = execI2cWarmReset dt a b s := rfl

theorem exec_pmbusTelemetry (dt r : Nat) (ok : Bool) (v i x y : Nat) (s : State) :
    exec (.pmbusTelemetry dt r ok v i x y) s = execPmbusTelemetry dt r ok v i x y s := rfl

theorem exec_pmbAlert (dt r y : Nat) (s : State) : exec (.pmbAlert dt r y) s = execPmbAlert dt r y s := rfl

/-! ### The target -/

/-- The target waits for its address. -/
def State.i2cIdle (s : State) : State := { s with bus := { s.bus with idle := true, snap := [] } }

/-- The answer to a command byte is captured. -/
def State.i2cCapture (s : State) (c : Nat) : State :=
  { s with bus := { s.bus with cmd := c, snap := s.i2cBytes c, idle := false } }

section
variable {c : Nat} {d : List Nat} {ok : Bool}

/-- A command with an answer: a PEC that fails is noted where there are data. -/
theorem exec_i2cCommand_known (hu : u = s.after dt) (hc : c < 8) (hd : d.all (· < 256) = true) (ha : u.alive = true) :
    exec (.i2cCommand dt c d ok) s =
      .next ((if ok || d.isEmpty then u else u.flag R.DEV_I2C.PEC_SEEN).i2cCapture c) := by
  subst hu
  have hsmall : ¬ 7 < c := by omega
  have hbyte : c < 256 := by omega
  rw [exec_i2cCommand, execI2cCommand]
  simp only [hd, hbyte, ha, hsmall, decide_true, decide_false, Bool.and_self, Bool.false_and, Bool.not_true,
    Bool.false_eq_true, if_false, needs_true]
  rfl

/-- A command that the target does not have. -/
theorem exec_i2cCommand_unknown (hu : u = s.after dt) (hc : 7 < c) (hbyte : c < 256) (hreset : c ≠ 16)
    (hd : d.all (· < 256) = true) (ha : u.alive = true) :
    exec (.i2cCommand dt c d ok) s = .next ({ (u.emit .i2cNack).i2cIdle with bus := u.i2cIdle.bus }) := by
  subst hu
  rw [exec_i2cCommand, execI2cCommand]
  simp only [hd, hbyte, ha, hc, hreset, ne_eq, not_false_eq_true, decide_true, Bool.and_self, Bool.not_true,
    Bool.false_eq_true, if_false, if_true, needs_true]
  rfl

end

/-- The bytes that leave after a command: its answer, its PEC, and then 0xFF. -/
def State.i2cAnswer (s : State) (n : Nat) : List Nat :=
  (List.range n).map fun i =>
    (s.bus.snap ++ [crc8 ([2 * s.i2cAddr, s.bus.cmd, 2 * s.i2cAddr + 1] ++ s.bus.snap)]).getD i 0xFF

theorem exec_i2cRead_command {n : Nat} (hu : u = s.after dt) (ha : u.alive = true) (hi : u.bus.idle = false) :
    exec (.i2cRead dt n) s = .next (u.emit (.i2c (u.i2cAnswer n))).i2cIdle := by
  subst hu
  rw [exec_i2cRead, execI2cRead]
  simp only [ha, hi, Bool.false_eq_true, if_false, if_true]
  rfl

/-- A warm reset is asked for with the magic bytes and RST_EN; else the write is not acknowledged. -/
theorem exec_i2cWarmReset_alive {a b : Nat} (hu : u = s.after dt) (ha : a < 256) (hb : b < 256) (halive : u.alive = true) :
    exec (.i2cWarmReset dt a b) s =
      .next (if u.i2cIdle.rd R.DEV_I2C.RST_EN = 1 && a = 0x5E && b = 0xA1 then u.i2cIdle.softReset
        else u.i2cIdle.emit .i2cNack) := by
  subst hu
  have hbytes : (decide (a < 256) && decide (b < 256)) = true := by simp [ha, hb]
  rw [exec_i2cWarmReset, execI2cWarmReset, hbytes, needs_true, if_pos halive]
  rfl

theorem exec_i2cWarmReset_magic (hu : u = s.after dt) (ha : u.alive = true) (hen : u.rd R.DEV_I2C.RST_EN = 1) :
    exec (.i2cWarmReset dt 0x5E 0xA1) s = .next (u.i2cIdle.enterReset false 3) := by
  have hen' : u.i2cIdle.rd R.DEV_I2C.RST_EN = 1 := hen
  have ha' : u.i2cIdle.alive = true := ha
  rw [exec_i2cWarmReset_alive hu (by decide) (by decide) ha]
  simp [hen', State.softReset, ha']

/-- Other bytes are not acknowledged. -/
theorem exec_i2cWarmReset_other {a b : Nat} (hu : u = s.after dt) (ha : a < 256) (hb : b < 256) (h : a ≠ 0x5E ∨ b ≠ 0xA1)
    (halive : u.alive = true) : exec (.i2cWarmReset dt a b) s = .next (u.i2cIdle.emit .i2cNack) := by
  rw [exec_i2cWarmReset_alive hu ha hb halive]
  rcases h with h | h <;> simp [h]

/-! ### The readings of PMBus -/

/-- The fields of a rail lie beside each other, and apart from PWR_PMB. -/
theorem rail_fields : ∀ r < 8,
    (R.PWR_RAIL.VOUT.j r).direct = true ∧ (R.PWR_RAIL.IOUT.j r).direct = true ∧ (R.PWR_RAIL2.TEMP.j r).direct = true ∧
      (R.PWR_RAIL2.STATUS_WORD.j r).direct = true := by decide

section
variable {r v i x y : Nat}

/-- A reading of a rail that Scribe watches. -/
def State.railRead (s : State) (r v i x y : Nat) : State :=
  (((s.wr (R.PWR_RAIL.VOUT.j r) v).wr (R.PWR_RAIL.IOUT.j r) i).wr (R.PWR_RAIL2.TEMP.j r) x).wr (R.PWR_RAIL2.STATUS_WORD.j r) y

theorem exec_pmbusTelemetry_watched {ok : Bool} (hu : u = s.after dt) (hr : r < 8) (hv : v < 65536) (hi : i < 65536)
    (hx : x < 256) (hy : y < 65536) (ha : u.alive = true) (hc : u.tb.run = true) (hs : u.dct.restart = none)
    (hn : r < u.rd R.PWR_PMB.NRAIL) :
    exec (.pmbusTelemetry dt r ok v i x y) s = .next (if ok then u.railRead r v i x y else u.flagBit R.PWR_PMB.RAIL_ERR r) := by
  subst hu
  simp [exec_pmbusTelemetry, execPmbusTelemetry, needs, hr, hv, hi, hx, hy, ha, hc, hs, hn, State.railRead]

theorem exec_pmbAlert_watched (hu : u = s.after dt) (hr : r < 8) (hy : y < 65536) (ha : u.alive = true)
    (hc : u.tb.run = true) (hs : u.dct.restart = none) (hn : r < u.rd R.PWR_PMB.NRAIL) (hal : u.rd R.PWR_PMB.ALERT = 0) :
    exec (.pmbAlert dt r y) s = .next ((u.flag R.PWR_PMB.ALERT).wr (R.PWR_RAIL2.STATUS_WORD.j r) y) := by
  subst hu
  have hn' : r < ((s.after dt).flag R.PWR_PMB.ALERT).rd R.PWR_PMB.NRAIL := by
    rwa [rd_flag_beside _ (by decide) rfl (by decide)]
  simp [exec_pmbAlert, execPmbAlert, needs, hr, hy, ha, hc, hs, hn', hal]

/-- What a reading shows of its rail. -/
theorem rd_railRead (s : State) (hr : r < 8) (hv : v < 65536) (hi : i < 65536) (hx : x < 256) (hy : y < 65536) :
    (s.railRead r v i x y).rd (R.PWR_RAIL.VOUT.j r) = v ∧ (s.railRead r v i x y).rd (R.PWR_RAIL.IOUT.j r) = i ∧
      (s.railRead r v i x y).rd (R.PWR_RAIL2.TEMP.j r) = x ∧ (s.railRead r v i x y).rd (R.PWR_RAIL2.STATUS_WORD.j r) = y ∧
      (s.railRead r v i x y).rd (R.PWR_RAIL2.ADDR.j r) = s.rd (R.PWR_RAIL2.ADDR.j r) := by
  obtain ⟨hvout, hiout, htemp, hword⟩ := rail_fields r hr
  have apartOf : ∀ r < 8, (R.PWR_RAIL.IOUT.j r).apart (R.PWR_RAIL.VOUT.j r) = true ∧
      (R.PWR_RAIL2.TEMP.j r).apart (R.PWR_RAIL.VOUT.j r) = true ∧ (R.PWR_RAIL2.TEMP.j r).apart (R.PWR_RAIL.IOUT.j r) = true := by decide
  have apartWord : ∀ r < 8, (R.PWR_RAIL2.STATUS_WORD.j r).apart (R.PWR_RAIL.VOUT.j r) = true ∧
      (R.PWR_RAIL2.STATUS_WORD.j r).apart (R.PWR_RAIL.IOUT.j r) = true ∧
      (R.PWR_RAIL2.STATUS_WORD.j r).apart (R.PWR_RAIL2.TEMP.j r) = true := by decide
  have apartAddr : ∀ r < 8, (R.PWR_RAIL.VOUT.j r).apart (R.PWR_RAIL2.ADDR.j r) = true ∧
      (R.PWR_RAIL.IOUT.j r).apart (R.PWR_RAIL2.ADDR.j r) = true ∧ (R.PWR_RAIL2.TEMP.j r).apart (R.PWR_RAIL2.ADDR.j r) = true ∧
      (R.PWR_RAIL2.STATUS_WORD.j r).apart (R.PWR_RAIL2.ADDR.j r) = true := by decide
  obtain ⟨ai, at0, at1⟩ := apartOf r hr
  obtain ⟨aw0, aw1, aw2⟩ := apartWord r hr
  obtain ⟨b0, b1, b2, b3⟩ := apartAddr r hr
  unfold State.railRead
  refine ⟨?_, ?_, ?_, ?_, ?_⟩
  · rw [rd_wr_beside _ _ hword aw0, rd_wr_beside _ _ htemp at0, rd_wr_beside _ _ hiout ai, rd_wr_direct _ _ hvout]
    exact Nat.mod_eq_of_lt hv
  · rw [rd_wr_beside _ _ hword aw1, rd_wr_beside _ _ htemp at1, rd_wr_direct _ _ hiout]
    exact Nat.mod_eq_of_lt hi
  · rw [rd_wr_beside _ _ hword aw2, rd_wr_direct _ _ htemp]
    exact Nat.mod_eq_of_lt hx
  · rw [rd_wr_direct _ _ hword]
    exact Nat.mod_eq_of_lt hy
  · rw [rd_wr_beside _ _ hword b3, rd_wr_beside _ _ htemp b2, rd_wr_beside _ _ hiout b1, rd_wr_beside _ _ hvout b0]

/-- A reading writes the two words of its rail. -/
theorem onlyWords_railRead (s : State) (hr : r < 8) :
    OnlyWords [(R.PWR_RAIL.VOUT.j r).addr, (R.PWR_RAIL2.TEMP.j r).addr] s (s.railRead r v i x y) := by
  intro f _ hf _ _ _ _
  obtain ⟨hvout, hiout, htemp, hword⟩ := rail_fields r hr
  obtain ⟨hfirst, hsecond⟩ : f.addr ≠ (R.PWR_RAIL.VOUT.j r).addr ∧ f.addr ≠ (R.PWR_RAIL2.TEMP.j r).addr := by
    simpa using hf
  unfold State.railRead
  rw [rd_wr_other _ _ f _ (show f.addr ≠ (R.PWR_RAIL2.STATUS_WORD.j r).addr from hsecond) (direct_iff.mp hword).1,
    rd_wr_other _ _ f _ hsecond (direct_iff.mp htemp).1,
    rd_wr_other _ _ f _ (show f.addr ≠ (R.PWR_RAIL.IOUT.j r).addr from hfirst) (direct_iff.mp hiout).1,
    rd_wr_other _ _ f _ hfirst (direct_iff.mp hvout).1]

end

end

end Machine

open Machine

/-- Settles O46: a captured answer and an idle target are no registers, and a reading stands in the two words of its rail. -/
theorem managementBusCommands : Obligations.ManagementBusCommands := by
  unfold Obligations.ManagementBusCommands
  refine ⟨?known, ?unknown, ?pec, ?read, ?magic, ?other, ?timeout, ?good, ?bad, ?alert⟩
  case known =>
    rintro s dt u c d ok hu hc hd ha rfl rfl
    exact ⟨_, exec_i2cCommand_known hu hc hd ha, rfl, rfl, rfl, rfl, rfl, rfl⟩
  case unknown =>
    intro s dt u c d ok hu hc hbyte hreset hd ha
    exact ⟨_, exec_i2cCommand_unknown hu hc hbyte hreset hd ha, rfl, rfl, by simp [State.i2cIdle, State.emit], rfl⟩
  case pec =>
    intro s dt u c d hu hc hd hdata ha
    refine ⟨_, exec_i2cCommand_known hu hc hd ha, ?_⟩
    rw [if_neg (by simpa using hdata)]
    exact (rd_congr rfl _).trans (rd_flag_direct u (by decide) rfl)
  case read =>
    intro s dt u n hu ha hi
    exact ⟨_, exec_i2cRead_command hu ha hi, rfl, rfl, rfl, rfl, by simp [State.i2cIdle, State.emit, State.i2cAnswer]⟩
  case magic =>
    intro s dt u hu ha hen
    refine ⟨_, exec_i2cWarmReset_magic hu ha hen, ?_⟩
    obtain ⟨hoff, hcause, hpor, hlog, -⟩ := warm_resetBy u.i2cIdle 3
    have hout : u.i2cIdle.dev.inReset = false := by simpa [State.i2cIdle, State.alive] using ha
    refine ⟨hoff, ?_, ?_, hlog⟩
    · simp [hcause, hout]
    · rw [hpor, hout]
      rfl
  case other =>
    intro s dt u a b hu ha hb h halive
    refine ⟨_, exec_i2cWarmReset_other hu ha hb h halive, ?_, ?_, ?_, ?_, ?_⟩
    · exact halive
    · simp [State.i2cIdle, State.emit]
    · rfl
    · rfl
    · rfl
  case timeout =>
    rintro s dt u rfl
    exact ⟨_, rfl, rfl, rfl, rfl, rfl, rfl⟩
  case good =>
    intro s dt u r v i x y hu hr hv hi hx hy ha hc hs hn
    refine ⟨_, exec_pmbusTelemetry_watched hu hr hv hi hx hy ha hc hs hn, ?_⟩
    obtain ⟨hvout, hiout, htemp, hword, haddr⟩ := rd_railRead u hr hv hi hx hy
    exact ⟨hvout, hiout, htemp, hword, haddr, by simp [State.railRead], onlyWords_railRead u hr⟩
  case bad =>
    intro s dt u r v i x y hu hr hv hi hx hy ha hc hs hn
    refine ⟨_, exec_pmbusTelemetry_watched hu hr hv hi hx hy ha hc hs hn, ?_⟩
    have hbeside : ∀ r < 8, R.PWR_PMB.RAIL_ERR.apart (R.PWR_RAIL.VOUT.j r) = true ∧
        R.PWR_PMB.RAIL_ERR.apart (R.PWR_RAIL2.STATUS_WORD.j r) = true := by decide
    obtain ⟨hvout, hword⟩ := hbeside r hr
    refine ⟨?_, rd_flagBit_beside u (by decide) hr hvout, rd_flagBit_beside u (by decide) hr hword⟩
    exact (bit_rd_flagBit u (by decide) hr).trans (by simp)
  case alert =>
    intro s dt u r y hu hr hy ha hc hs hn hal
    refine ⟨_, exec_pmbAlert_watched hu hr hy ha hc hs hn hal, ?_⟩
    obtain ⟨-, -, -, hword⟩ := rail_fields r hr
    have hbeside : ∀ r < 8, (R.PWR_RAIL2.STATUS_WORD.j r).apart R.PWR_PMB.ALERT = true ∧
        (R.PWR_RAIL2.STATUS_WORD.j r).apart (R.PWR_RAIL2.TEMP.j r) = true ∧
        R.PWR_PMB.ALERT.apart (R.PWR_RAIL2.TEMP.j r) = true := by decide
    obtain ⟨halert, htemp, hflag⟩ := hbeside r hr
    refine ⟨?_, ?_, ?_⟩
    · rw [rd_wr_beside _ _ hword halert, rd_flag_direct _ (by decide) rfl]
    · rw [rd_wr_direct _ _ hword]
      exact Nat.mod_eq_of_lt hy
    · rw [rd_wr_beside _ _ hword htemp, rd_flag_beside _ (by decide) rfl hflag]

end Sys2Proof
end

section
set_option Elab.async false

namespace Sys2Proof

/-! PROOFS. The supervision of Scribe (R414, R418, R420, R421): load windows, overdue tests, the watchdog and the end of a restart. -/

namespace Machine

/-- The state with another content of Ductus and Scribe. -/
def State.putDct (s : State) (d : Ductus) : State := { s with dct := d }

theorem rd_putDct (s : State) (d : Ductus) (x : Fld) : (s.putDct d).rd x = s.rd x := rd_congr rfl x

/-- The state with other tests and spares. -/
def State.putSpr (s : State) (d : Spares) : State := { s with spr := d }

theorem rd_putSpr (s : State) (d : Spares) (x : Fld) : (s.putSpr d).rd x = s.rd x := rd_congr rfl x

theorem putSpr_dct (s : State) (d : Spares) : (s.putSpr d).dct = s.dct := rfl

section
variable {s u : State} {dt : Nat}

/-! ### Tests of units (R428, R433) -/

/-- SPR_STAT shows the tests. -/
theorem rd_runTests (s : State) {x : Fld} (h : x.addr ≠ 0x7C0014) : s.runTests.rd x = s.rd x := by
  unfold State.runTests State.showTests State.wrU
  rw [rd_wr_other _ _ _ _ h (by decide), rd_wr_other _ _ _ _ h (by decide)]
  exact rd_congr rfl x

/-- Starting a test changes when it started, not which unit it tests. -/
theorem startTests_units (now n : Nat) (l : List TestReq) : (startTests now n l).map (·.unit) = l.map (·.unit) := by
  induction l generalizing n with
  | nil => rfl
  | cons r t ih =>
    unfold startTests
    split <;> simp [ih]

theorem runTests_reqs (s : State) :
    s.runTests.spr.reqs = startTests s.tb.boot (s.spr.reqs.filter fun r => r.started.isSome).length s.spr.reqs := by
  unfold State.runTests
  simp

/-- A scheduled test starts for a unit that no test waits for. -/
theorem schedStart_first {k : Nat} (w : Nat) (hk : k ≠ 0x8000) (h : s.spr.reqs = []) :
    s.schedStart k w = (s.putSpr { s.spr with reqs := [⟨k, s.now, none, false, true, 0⟩] }).runTests := by
  simp [State.schedStart, State.putSpr, hk, h]

/-! ### Deferred tests (R418) -/

theorem rd_showDefer (s : State) {x : Fld} (h : R.SCR_TEST.DEFERRED.apart x = true) : s.showDefer.rd x = s.rd x :=
  rd_wrB_beside s _ (by decide) h

theorem showDefer_dct (s : State) : s.showDefer.dct = s.dct := by simp [State.showDefer]

/-- Where no test is deferred, none runs, and DEFERRED reads 0. -/
theorem runDeferred_none (p : Nat × Nat × Nat → Bool) (o : Bool) (h : s.dct.defer = []) :
    s.runDeferred p o = s.showDefer := by
  have hnone : { s with dct := { s.dct with defer := [] } } = s := by rw [← h]
  simp [State.runDeferred, h, forEach, hnone]

theorem runOverdue_none (h : s.dct.defer = []) : s.runOverdue = s.showDefer := runDeferred_none _ _ h

/-- The one deferred test runs as overdue. -/
def State.overdueStart (s : State) (k : Nat) : State :=
  let s := { s with dct := { s.dct with defer := [] } }.showDefer
  { s.wr R.SCR_TEST.OVERDUE 1 with dct := { s.dct with overdue := some k } }

theorem runOverdue_one {k r w : Nat} (h : s.dct.defer = [(k, r, w)]) (hb : deferBound ≤ s.tb.rim - r) :
    s.runOverdue = (s.overdueStart k).schedStart k w := by
  simp [State.runOverdue, State.runDeferred, h, hb, forEach, State.overdueStart]

theorem overdueStart_spr (s : State) (k : Nat) : (s.overdueStart k).spr = s.spr := by simp [State.overdueStart, State.showDefer]

theorem overdueStart_dct (s : State) (k : Nat) : (s.overdueStart k).dct = { s.dct with defer := [], overdue := some k } := by
  simp [State.overdueStart, State.showDefer]

theorem rd_overdueStart (s : State) (k : Nat) :
    (s.overdueStart k).rd R.SCR_TEST.OVERDUE = 1 ∧ (s.overdueStart k).rd R.SCR_TEST.DEFERRED = 0 := by
  have hset : ∀ t : State, State.rd { t.wr R.SCR_TEST.OVERDUE 1 with dct := { t.dct with overdue := some k } } =
      (t.wr R.SCR_TEST.OVERDUE 1).rd := fun t => funext (rd_congr rfl)
  unfold State.overdueStart
  dsimp only
  rw [hset]
  refine ⟨rd_wr_direct _ _ (by decide), ?_⟩
  rw [rd_wr_beside _ _ (by decide) (by decide), State.showDefer, rd_wrB_direct _ _ (by decide) rfl]
  rfl

theorem exec_overdueTest (s : State) : exec .overdueTest s = execOverdueTest s := rfl

theorem exec_overdueTest_runs {k r w : Nat} (hu : u = s.runRim (r + deferBound)) (hd : s.dct.defer = [(k, r, w)])
    (hs : s.scribeRuns = true) : exec .overdueTest s = .next u.runOverdue := by
  simp [exec_overdueTest, execOverdueTest, hd, hs, hu]

/-! ### The load window (R414) -/

theorem exec_loadWindowEnd (n : Nat) (s : State) : exec (.loadWindowEnd n) s = execLoadWindowEnd n s := rfl

/-- The shed level after a window. -/
def State.levelAfter (s : State) (load : Nat) : Nat :=
  if s.rd R.SCR_SHED.SHED_HI ≤ load then min (s.rd R.SCR_SHED.LEVEL + 1) 3
  else if load < min (s.rd R.SCR_SHED.SHED_LO) (s.rd R.SCR_SHED.SHED_HI) then s.rd R.SCR_SHED.LEVEL - 1
  else s.rd R.SCR_SHED.LEVEL

/-- The registers of the load after a window. -/
def State.windowLoad (s : State) (load : Nat) : State :=
  ((s.wr R.SCR_LOAD.LOAD load).wr R.SCR_LOAD.PEAK (max load (s.rd R.SCR_LOAD.PEAK))).wr R.SCR_SHED.LEVEL (s.levelAfter load)

theorem exec_loadWindowEnd_runs {n : Nat} (hu : u = s.runRim ((s.tb.rim / loadWindow + 1) * loadWindow)) (hn : n ≤ 4000000)
    (ha : s.alive = true) (hc : s.tb.run = true) (hd : u.dct.defer = []) :
    exec (.loadWindowEnd n) s = .next (if u.levelAfter (n / 4000) < 2 then (u.windowLoad (n / 4000)).showDefer
      else u.windowLoad (n / 4000)) := by
  have hnone : (u.windowLoad (n / 4000)).dct.defer = [] := by simp [State.windowLoad, hd]
  rw [exec_loadWindowEnd, execLoadWindowEnd, decide_eq_true hn, needs_true, ha, hc, if_pos (Bool.and_self true),
    ← runDeferred_none (fun _ => true) false hnone, ← hu]
  rfl

theorem level_lt (s : State) : s.rd R.SCR_SHED.LEVEL < 4 := bits_lt _ 1 0

theorem levelAfter_lt (s : State) (load : Nat) : s.levelAfter load < 4 := by
  have := level_lt s
  unfold State.levelAfter
  split
  · omega
  · split <;> omega

theorem peak_lt (s : State) : s.rd R.SCR_LOAD.PEAK < 1024 := bits_lt _ 25 16

/-- What a window leaves in the registers of the load. -/
theorem rd_windowLoad (s : State) {load : Nat} (h : load < 1024) :
    (s.windowLoad load).rd R.SCR_LOAD.LOAD = load ∧
      (s.windowLoad load).rd R.SCR_LOAD.PEAK = max load (s.rd R.SCR_LOAD.PEAK) ∧
      (s.windowLoad load).rd R.SCR_SHED.LEVEL = s.levelAfter load := by
  unfold State.windowLoad
  refine ⟨?_, ?_, ?_⟩
  · rw [rd_wr_beside _ _ (by decide) (by decide), rd_wr_beside _ _ (by decide) (by decide), rd_wr_direct _ _ (by decide)]
    exact Nat.mod_eq_of_lt h
  · rw [rd_wr_beside _ _ (by decide) (by decide), rd_wr_direct _ _ (by decide)]
    exact Nat.mod_eq_of_lt (max_lt h (peak_lt s))
  · rw [rd_wr_direct _ _ (by decide)]
    exact Nat.mod_eq_of_lt (levelAfter_lt s load)

/-! ### The watchdog and the restart (R420, R421) -/

theorem exec_kick (dt : Nat) (src : Src) (s : State) : exec (.kick dt src) s = execKick dt src s := rfl

theorem exec_kick_scribe (hu : u = s.after dt) (hw : u.mayWrite .scribe 15 = true) (hr : u.dct.restart = none) :
    exec (.kick dt .scribe) s = .next { u with
      dct := { u.dct with kick := u.tb.rim }, log := { u.log with wrote := R.SCR_WDOG.KICK.key :: u.log.wrote } } := by
  subst hu
  have hbit : bit (p2 31) 31 = true := by decide
  rw [exec_kick, execKick, swWrite_on hw]
  simp [State.kickWrite, hbit, hr]

theorem exec_watchdogExpire (s : State) : exec .watchdogExpire s = execWatchdogExpire s := rfl

theorem exec_watchdogExpire_runs (hu : u = s.runRim (s.dct.kick + wdogClocks)) (hs : s.scribeRuns = true) :
    exec .watchdogExpire s = .next u.scribeHeld := by
  simp [exec_watchdogExpire, execWatchdogExpire, hs, hu]

/-- The restart of Scribe begins, is counted and journalled. -/
def State.restartBegins (s : State) : State :=
  ((State.wr (s.putDct { s.dct with restart := some s.tb.rim }) R.SCR_RST.ACTIVE 1).bump R.SCR_RST.RESTARTS
    R.SCR_RST.OVF).journal 8 0 true noUnit

/-- A running request of the mailbox is aborted. -/
def State.requestAborted (s : State) : State :=
  if s.rd R.SCR_MB_STAT.STATUS = 1 then (s.wr R.SCR_MB_STAT.STATUS 6).raiseInt 4 else s

theorem restartBegins_dct (s : State) : s.restartBegins.dct = { s.dct with restart := some s.tb.rim } := by
  rw [State.restartBegins, State.journal_dct, State.bump_dct, State.wr_dct]
  rfl

theorem scribeHeld_eq (s : State) :
    s.scribeHeld = (State.requestAborted
      (forEach s.restartBegins.dct.run (fun x s => s.scribeEnds x.1 x.2 3 0) s.restartBegins)).disarm .scribe := rfl

/-- Where no item runs on Scribe, none ends. -/
theorem scribeHeld_idle (h : s.dct.run = []) : s.scribeHeld = s.restartBegins.requestAborted.disarm .scribe := by
  rw [scribeHeld_eq, restartBegins_dct]
  simp only [h, forEach]

theorem rd_requestAborted (s : State) {x : Fld} (h : R.SCR_MB_STAT.STATUS.apart x = true) : s.requestAborted.rd x = s.rd x :=
  ite_keeps (State.rd · x) _ (by rw [rd_raiseInt, rd_wr_beside _ _ (by decide) h])

theorem status_requestAborted (h : s.rd R.SCR_MB_STAT.STATUS = 1) : s.requestAborted.rd R.SCR_MB_STAT.STATUS = 6 := by
  rw [State.requestAborted, if_pos h, rd_raiseInt, rd_wr_direct _ _ (by decide)]
  rfl

theorem rd_restartBegins (s : State) (h : s.rd R.SCR_RST.RESTARTS < 65534) :
    s.restartBegins.rd R.SCR_RST.ACTIVE = 1 ∧ s.restartBegins.rd R.SCR_RST.RESTARTS = s.rd R.SCR_RST.RESTARTS + 1 ∧
      s.restartBegins.rd R.SCR_MB_STAT.STATUS = s.rd R.SCR_MB_STAT.STATUS := by
  have hcount : (State.wr (s.putDct { s.dct with restart := some s.tb.rim }) R.SCR_RST.ACTIVE 1).rd R.SCR_RST.RESTARTS =
      s.rd R.SCR_RST.RESTARTS := (rd_wr_beside _ _ (by decide) (by decide)).trans (rd_congr rfl _)
  unfold State.restartBegins
  refine ⟨?_, ?_, ?_⟩
  · rw [rd_journal _ _ _ _ _ _ (by decide), rd_bump_beside _ (by decide) (by decide) rfl (by decide) (by decide),
      rd_wr_direct _ _ (by decide)]
    rfl
  · rw [rd_journal _ _ _ _ _ _ (by decide), rd_bump_direct _ (by decide) (by decide) rfl (by decide), hcount]
    rw [hcount]
    exact Nat.lt_trans h (by decide)
  · rw [rd_journal _ _ _ _ _ _ (by decide), rd_bump_beside _ (by decide) (by decide) rfl (by decide) (by decide),
      rd_wr_beside _ _ (by decide) (by decide)]
    exact rd_congr rfl _

theorem requestAborted_dct (s : State) : s.requestAborted.dct = s.dct := ite_keeps State.dct _ (by simp)

theorem exec_restartComplete (dt : Nat) (ok : Bool) (s : State) : exec (.restartComplete dt ok) s = execRestartComplete dt ok s := rfl

/-- The registers of a restart that is over. -/
def State.restartShown (s : State) (x : Nat) (ok : Bool) : State :=
  let s := s.wrU R.SCR_RST.LAST_US (roundOpen (((s.tb.rim - x : Nat) : Rat) / 1000)).toNat
  (s.wr R.SCR_RST.ACTIVE 0).wrB R.SCR_RST.ROM (!ok || s.rd R.MOD_STAT.FOLIO_NONE == 1)

theorem restartShown_dct (s : State) (x : Nat) (ok : Bool) : (s.restartShown x ok).dct = s.dct := by simp [State.restartShown]

theorem restartShown_tb (s : State) (x : Nat) (ok : Bool) : (s.restartShown x ok).tb = s.tb := by simp [State.restartShown]

/-- The cores of Scribe are released. -/
def State.coresReleased (s : State) : State :=
  s.putDct { s.dct with restart := none, kick := s.tb.rim, turn := true }

theorem coresReleased_dct (s : State) :
    s.coresReleased.dct = { s.dct with restart := none, kick := s.tb.rim, turn := true } := rfl

theorem exec_restartComplete_running {x : Nat} {ok : Bool} (hu : u = s.after dt) (hr : u.dct.restart = some x)
    (ha : u.alive = true) (hc : u.tb.run = true) (hd : u.dct.defer = []) :
    exec (.restartComplete dt ok) s = .next (u.restartShown x ok).coresReleased.showDefer := by
  have hnone : (u.restartShown x ok).coresReleased.dct.defer = [] := by
    simp only [coresReleased_dct, restartShown_dct, hd]
  rw [← runOverdue_none hnone, exec_restartComplete, execRestartComplete, ← hu]
  simp only [hr, ha, hc, Bool.and_self, if_true]
  rfl

end

end Machine

open Machine

/-- Settles O48: what a window, a kick, the watchdog and the end of a restart write are fields beside each other. -/
theorem scribeSupervision : Obligations.ScribeSupervision := by
  unfold Obligations.ScribeSupervision
  refine ⟨?window, ?overdue, ?kick, ?watchdog, ?restart⟩
  case window =>
    intro s u n hu hn ha hc hd
    refine ⟨_, exec_loadWindowEnd_runs hu hn ha hc hd, ?_⟩
    have hload : n / 4000 < 1024 := by omega
    have hshow : ∀ x : Fld, R.SCR_TEST.DEFERRED.apart x = true →
        (if u.levelAfter (n / 4000) < 2 then (u.windowLoad (n / 4000)).showDefer else u.windowLoad (n / 4000)).rd x =
          (u.windowLoad (n / 4000)).rd x := fun x hx => ite_keeps (State.rd · x) _ (rd_showDefer _ hx)
    obtain ⟨hl, hpeak, hlevel⟩ := rd_windowLoad u hload
    dsimp only
    rw [hshow R.SCR_LOAD.LOAD (by decide), hshow R.SCR_LOAD.PEAK (by decide), hshow R.SCR_SHED.LEVEL (by decide), hl, hpeak, hlevel]
    refine ⟨(Nat.mod_eq_of_lt hload).symm, rfl, ?_, ?_, ?_⟩
    · intro hhi
      exact if_pos hhi
    · intro hhi hlo
      rw [State.levelAfter, if_neg (Nat.not_le.mpr hhi), if_pos (lt_min hlo hhi)]
    · intro hhi hlo
      rw [State.levelAfter, if_neg (Nat.not_le.mpr hhi), if_neg (Nat.not_lt.mpr ((min_le_left _ _).trans hlo))]
  case overdue =>
    intro s u k r w hu hd hs hud hb hk hq
    refine ⟨_, exec_overdueTest_runs hu hd hs, ?_⟩
    have hreqs : (u.overdueStart k).spr.reqs = [] := by rw [overdueStart_spr, hq]
    obtain ⟨hover, hdef⟩ := rd_overdueStart u k
    rw [runOverdue_one hud hb, schedStart_first w hk hreqs]
    refine ⟨?_, ?_, ?_, ?_, ?_⟩
    · rw [rd_runTests _ (by decide)]
      exact (rd_putSpr _ _ _).trans hover
    · rw [rd_runTests _ (by decide)]
      exact (rd_putSpr _ _ _).trans hdef
    · rw [State.runTests_dct, putSpr_dct, overdueStart_dct]
    · rw [State.runTests_dct, putSpr_dct, overdueStart_dct]
    · rw [runTests_reqs, startTests_units]
      rfl
  case kick =>
    intro s dt u hu hw hr
    exact ⟨_, exec_kick_scribe hu hw hr, rfl, rfl, rfl⟩
  case watchdog =>
    intro s u hu hs hn hrun
    refine ⟨_, exec_watchdogExpire_runs hu hs, ?_⟩
    obtain ⟨hactive, hcount, hstatus⟩ := rd_restartBegins u hn
    rw [scribeHeld_idle hrun]
    have hshow : ∀ x : Fld, x.addr ≠ 0x10020 → R.SCR_MB_STAT.STATUS.apart x = true →
        (u.restartBegins.requestAborted.disarm .scribe).rd x = u.restartBegins.rd x := fun x hx hy =>
      (rd_disarm _ _ hx).trans (rd_requestAborted _ hy)
    refine ⟨?_, ?_, ?_, armed_disarm _ _, ?_⟩
    · exact (hshow _ (by decide) (by decide)).trans hactive
    · rw [State.disarm_dct, requestAborted_dct, restartBegins_dct]
    · exact (hshow _ (by decide) (by decide)).trans hcount
    · intro hm
      rw [rd_disarm _ _ (by decide)]
      exact status_requestAborted (hstatus.trans hm)
  case restart =>
    intro s dt u x ok hu hr ha hc hd
    refine ⟨_, exec_restartComplete_running hu hr ha hc hd, ?_, ?_, ?_, ?_⟩
    · rw [showDefer_dct]
      rfl
    · rw [showDefer_dct]
      exact congrArg TimeBase.rim (restartShown_tb u x ok)
    · rw [rd_showDefer _ (by decide), State.coresReleased, rd_putDct, State.restartShown,
        rd_wrB_beside _ _ (by decide) (by decide), rd_wr_direct _ _ (by decide)]
      rfl
    · have hfolio : ∀ v, (u.wrU R.SCR_RST.LAST_US v).rd R.MOD_STAT.FOLIO_NONE = u.rd R.MOD_STAT.FOLIO_NONE := fun v =>
        rd_wrU_beside u v (by decide) (by decide)
      rw [rd_showDefer _ (by decide), State.coresReleased, rd_putDct, State.restartShown, rd_wrB_direct _ _ (by decide) rfl,
        hfolio]

end Sys2Proof
end

section
set_option Elab.async false

namespace Sys2Proof

/-! PROOFS. Time leaves the tests, the spares and the operating time alone (R82, R88, R407): the end of a tick and the records that leave the merge change Ductus, Serif and the journal. -/

namespace Machine

/-- Both branches of a choice agree on what is looked at. -/
theorem ite_to {α β : Type} (p : α → β) {c : Prop} [Decidable c] {x y : α} {b : β} (hx : p x = b) (hy : p y = b) :
    p (if c then x else y) = b := by
  split
  · exact hx
  · exact hy

section
variable (s : State)

theorem putDct_spr (d : Ductus) : (s.putDct d).spr = s.spr := rfl

theorem trace_spr (k n c : Nat) : (s.trace k n c).spr = s.spr := by
  unfold State.trace
  dsimp only
  split
  · rfl
  split
  · simp
  split
  · simp
  split <;> simp

theorem showLists_spr : s.showLists.spr = s.spr := by simp [State.showLists]

theorem putItem_spr (n : Nat) (i : Item) : (s.putItem n i).spr = s.spr := rfl

theorem putReady_spr (k : Nat) (l : List Nat) : (s.putReady k l).spr = s.spr := rfl

theorem toReady_spr (n : Nat) : (s.toReady n).spr = s.spr := by
  refine (ite_keeps State.spr _ (State.wrU_spr _ _ _)).trans ?_
  refine (showLists_spr _).trans ((putDct_spr _ _).trans ?_)
  exact (putReady_spr _ _ _).trans (putItem_spr _ _ _)

theorem toDelay_spr (n : Nat) : (s.toDelay n).spr = s.spr := by simp [State.toDelay, showLists_spr]

theorem putFifo_spr (p : Nat) (l : List ResEntry) : (s.putFifo p l).spr = s.spr := by
  unfold State.putFifo
  split <;> simp

theorem showFlow_spr (f : Nat) : (s.showFlow f).spr = s.spr := by simp [State.showFlow]

theorem release_spr (n : Nat) : (s.release n).spr = s.spr := by
  have hfifo : ∀ p l, ((s.trace 5 n 0).putFifo p l).spr = s.spr := fun p l => (putFifo_spr _ p l).trans (trace_spr s 5 n 0)
  unfold State.release
  dsimp only
  split
  · split <;> simp [showFlow_spr, putItem_spr, hfifo]
  · split <;> simp [showFlow_spr, putItem_spr, hfifo]

theorem releaseAll_spr (n : Nat) : (s.releaseAll n).spr = s.spr := by
  induction n generalizing s with
  | zero => rfl
  | succ n ih =>
    unfold State.releaseAll
    split
    · rfl
    · rw [ih, release_spr]

theorem refuse_spr (p r : Nat) (f : Fld) : (s.refuse p r f).spr = s.spr := by simp [State.refuse]

theorem traceRefusal_spr (i : Item) : (s.traceRefusal i).spr = s.spr := by
  unfold State.traceRefusal
  split
  · simp [putItem_spr, trace_spr]
  · rfl

theorem submitGo_spr (p : Nat) (i : Item) : (s.submitGo p i).spr = s.spr := by
  have hno : ∀ r f, ((s.refuse p r f).traceRefusal i).spr = s.spr := fun r f => (traceRefusal_spr _ i).trans (refuse_spr s p r f)
  unfold State.submitGo
  refine ite_to State.spr (hno _ _) ?_
  split
  · exact hno _ _
  · next n _ =>
    refine ite_to State.spr (hno _ _) (ite_to State.spr (hno _ _) ?_)
    refine ite_to State.spr ((toDelay_spr _ _).trans ?_) ((toReady_spr _ _).trans ?_)
    all_goals
      refine (ite_keeps State.spr _ (State.bump_spr _ _ _)).trans ?_
      refine (State.putRaw_spr _ _ _).trans ((trace_spr _ _ _ _).trans ((showFlow_spr _ _).trans ((putDct_spr _ _).trans ?_)))
      exact putItem_spr _ _ _

theorem submitDue_spr (p : Nat) : (s.submitDue p).spr = s.spr := by
  unfold State.submitDue
  split
  · rfl
  · exact (ite_keeps State.spr _ (State.wr_spr _ _ _)).trans (submitGo_spr _ _ _)

theorem putSerif_spr (d : Nat) (c : Serif) : (s.putSerif d c).spr = s.spr := rfl

theorem showSerif_spr (d : Nat) : (s.showSerif d).spr = s.spr := by simp [State.showSerif]

theorem startItem_spr (c n : Nat) : (s.startItem c n).spr = s.spr := by
  have hstarts : ∀ i l k, ((((s.putItem n i).putReady k l).showLists).trace 3 n (c % 4)).spr = s.spr := fun i l k =>
    (trace_spr _ _ _ _).trans ((showLists_spr _).trans ((putReady_spr _ _ _).trans (putItem_spr _ _ _)))
  unfold State.startItem
  refine ite_to State.spr ((putDct_spr _ _).trans ?_) ((showSerif_spr _ _).trans ((putSerif_spr _ _ _).trans ?_))
  all_goals
    exact ite_to State.spr ((State.wrU_spr _ _ _).trans ((State.bump_spr _ _ _).trans (hstarts _ _ _))) (hstarts _ _ _)

theorem dispatch_spr (c : Nat) : (s.dispatch c).spr = s.spr := by
  unfold State.dispatch
  split
  · split
    · exact startItem_spr _ _ _
    · rfl
  · rfl

theorem tickEnd_spr : s.tickEnd.spr = s.spr := by
  unfold State.tickEnd
  dsimp only
  rw [forEach_keeps State.spr (fun c t => dispatch_spr t c), releaseAll_spr, submitDue_spr, submitDue_spr]

theorem clockOn_spr (n : Nat) : (s.clockOn n).spr = s.spr := by
  unfold State.clockOn
  dsimp only
  split
  · rfl
  split
  · split <;> simp
  · rfl

theorem runOn_spr (k n : Nat) : (State.runOn k s n).spr = s.spr := by
  induction k generalizing s n with
  | zero => exact clockOn_spr s n
  | succ k ih =>
    unfold State.runOn
    split
    · exact clockOn_spr s n
    dsimp only
    split
    · rw [ih, State.mergeOut_spr]
      exact clockOn_spr s _
    · exact clockOn_spr s n

theorem after_spr (n : Nat) : (s.after n).spr = s.spr := by
  have hpass : ∀ (t : State) m, (t.pass m).spr = t.spr := fun t m => runOn_spr t _ m
  have hend : (onlyIf s.dct.turn State.tickEnd s).spr = s.spr := ite_keeps State.spr _ (tickEnd_spr s)
  unfold State.after
  dsimp only
  split
  · rfl
  split
  · rw [hpass, tickEnd_spr, hpass, hend]
  · rw [hpass, hend]

theorem runRim_spr (r : Nat) : (s.runRim r).spr = s.spr := after_spr s _

end

end Machine

end Sys2Proof
end

section
set_option Elab.async false

namespace Sys2Proof

/-! PROOFS. The Blotter (R435, R438) and the operating time (R440). -/

namespace Machine

/-- The state with another journal. -/
def State.putBlt (s : State) (b : Blotter) : State := { s with blt := b }

theorem putBlt_blt (s : State) (b : Blotter) : (s.putBlt b).blt = b := rfl

section
variable {s u : State} {dt : Nat}

/-! ### An entry enters the log -/

/-- An entry with its sequence number and CRC. -/
def BltEntry.sealed (e : BltEntry) (n : Nat) : BltEntry := { e with seq := n, crc := crc32c { e with seq := n }.body }

/-- The entry has left the queue and stands in the log. -/
def State.entryWritten (s : State) (e : BltEntry) : State :=
  s.putBlt { s.blt with
    queue := s.blt.queue.erase e, log := s.blt.log ++ [e.sealed (s.rd R.BLT_HEAD.SEQ)], fill := s.blt.fill + 1 }

/-- SEQ and the levels of the queue after it. -/
def State.entryShown (s : State) (e : BltEntry) : State :=
  ((s.entryWritten e).wr R.BLT_HEAD.SEQ (add32 (s.rd R.BLT_HEAD.SEQ) 1)).showQueue

theorem entryShown_blt (s : State) (e : BltEntry) : (s.entryShown e).blt = (s.entryWritten e).blt :=
  (State.showQueue_blt _).trans (State.wr_blt _ _ _)

theorem admitHeld_none (h : s.blt.held = []) : s.admitHeld = s := by
  unfold State.admitHeld
  rw [h]

theorem showBlt_blt (s : State) : s.showBlt.blt = s.blt := by simp [State.showBlt]

theorem rd_showBlt (s : State) {x : Fld} (hc : R.BLT_STAT.COUNT.apart x = true) (he : R.BLT_STAT.ERASING.apart x = true) :
    s.showBlt.rd x = s.rd x :=
  (rd_wrB_beside _ _ (by decide) he).trans (rd_wr_beside _ _ (by decide) hc)

theorem erasing_showBlt (s : State) : s.showBlt.rd R.BLT_STAT.ERASING = b2n s.blt.erase.isSome := by
  rw [State.showBlt, rd_wrB_direct _ _ (by decide) rfl]

theorem exec_blotterCommit (dt : Nat) (ok : Bool) (s : State) : exec (.blotterCommit dt ok) s = execBlotterCommit dt ok s := rfl

theorem entryWritten_blt (s : State) (e : BltEntry) :
    (s.entryWritten e).blt = { s.blt with
      queue := s.blt.queue.erase e, log := s.blt.log ++ [e.sealed (s.rd R.BLT_HEAD.SEQ)], fill := s.blt.fill + 1 } := rfl

/-- The log moves on from a block that is full, where no erase is in progress. -/
def State.moveIfFull (s : State) : State := if s.blt.fill = 512 && s.blt.erase.isNone then s.bltMove else s

/-- What a verified write of an entry leaves. -/
def State.entryLogged (s : State) (e : BltEntry) : State :=
  (s.entryShown e).admitHeld.showBlt.moveIfFull

/-- No fault entry is held, and the block is not full. -/
theorem entryLogged_room {e : BltEntry} (hf : s.blt.fill < 511) (hh : s.blt.held = []) :
    s.entryLogged e = (s.entryShown e).showBlt := by
  have hheld : (s.entryShown e).admitHeld = s.entryShown e := admitHeld_none (by simp only [entryShown_blt, entryWritten_blt, hh])
  have hfill : (s.entryShown e).showBlt.blt.fill ≠ 512 := by
    simp only [showBlt_blt, entryShown_blt, entryWritten_blt]
    omega
  simp [State.entryLogged, State.moveIfFull, hheld, hfill]

/-- A verified write of the oldest entry. -/
theorem exec_blotterCommit_verified {e : BltEntry} {q : List BltEntry} (hu : u = s.after dt) (ha : u.alive = true)
    (hr : u.rd R.BLT_STAT.READY = 1) (hf : u.blt.fill < 512) (hq : u.blt.queue = e :: q) (hd : u.drainFaults = false) :
    exec (.blotterCommit dt true) s = .next (u.entryLogged e) := by
  have hgo : (u.alive && u.rd R.BLT_STAT.READY = 1 && u.blt.fill < 512) = true := by simp [ha, hr, hf]
  have hnext : (if u.drainFaults then u.blt.queue.find? (·.fault) else u.blt.queue.head?) = some e := by simp [hd, hq]
  rw [exec_blotterCommit, execBlotterCommit, ← hu]
  refine congrArg Host.Outcome.next ((if_pos hgo).trans ?_)
  rw [hnext]
  refine (if_pos rfl).trans ?_
  exact congrArg (fun t => (State.showBlt (State.admitHeld t)).moveIfFull) rfl

theorem seq_entryShown (s : State) (e : BltEntry) :
    (s.entryShown e).rd R.BLT_HEAD.SEQ = add32 (s.rd R.BLT_HEAD.SEQ) 1 := by
  rw [State.entryShown, State.showQueue, rd_wr_beside _ _ (by decide) (by decide), rd_wr_beside _ _ (by decide) (by decide),
    rd_wr_direct _ _ (by decide)]
  exact Nat.mod_eq_of_lt (add32_lt _ _)

theorem level_entryShown (s : State) (e : BltEntry) :
    (s.entryShown e).rd R.SCR_BLQ.LEVEL = (s.entryWritten e).blt.queue.length % 128 := by
  rw [State.entryShown, State.showQueue, rd_wr_beside _ _ (by decide) (by decide), rd_wr_direct _ _ (by decide), State.wr_blt]
  rfl

/-! ### Erases (R438) -/

theorem exec_blockEraseComplete (dt : Nat) (ok : Bool) (s : State) :
    exec (.blockEraseComplete dt ok) s = execBlockEraseComplete dt ok s := rfl

/-- No erase is in progress. -/
def State.eraseDone (s : State) : State := (s.putBlt { s.blt with erase := none }).showBlt

theorem eraseDone_blt (s : State) : s.eraseDone.blt = { s.blt with erase := none } := by
  rw [State.eraseDone, showBlt_blt, putBlt_blt]

theorem exec_blockEraseComplete_good {b : Nat} (hu : u = s.after dt) (he : u.blt.erase = some b) (hf : u.blt.fill < 512) :
    exec (.blockEraseComplete dt true) s = .next u.eraseDone := by
  have hroom : u.eraseDone.blt.fill ≠ 512 := by
    simp only [eraseDone_blt]
    omega
  rw [exec_blockEraseComplete, execBlockEraseComplete, ← hu, he]
  refine congrArg Host.Outcome.next ((if_pos rfl).trans ?_)
  exact if_neg hroom

theorem exec_blockEraseComplete_bad {b : Nat} (hu : u = s.after dt) (he : u.blt.erase = some b) :
    exec (.blockEraseComplete dt false) s =
      .next ((u.unitFails (0x9000 + b) 0).putBlt
        { (u.unitFails (0x9000 + b) 0).blt with erase := some ((u.unitFails (0x9000 + b) 0).nextBlk b) }) := by
  rw [exec_blockEraseComplete, execBlockEraseComplete, ← hu, he]
  rfl

/-! ### Units that err (R428) -/

theorem runTests_spr (s : State) : ∃ l, s.runTests.spr = { s.spr with reqs := l } :=
  ⟨_, State.showTests_spr _⟩

/-- An error of a unit asks for its test and takes no unit out. -/
theorem unitError_spr (s : State) (n r : Nat) : ∃ l, (s.unitError n r).spr = { s.spr with reqs := l } := by
  unfold State.unitError
  split
  · exact ⟨_, rfl⟩
  · obtain ⟨l, hl⟩ := runTests_spr (s.putSpr { s.spr with reqs := s.spr.reqs ++ [⟨n, s.now, none, false, false, r⟩] })
    exact ⟨l, hl⟩

theorem unitGone_of_out {n : Nat} (h : s.spr.out.contains n = true) : s.unitGone n = true := by
  rw [State.unitGone, h, Bool.or_true, Bool.true_or]

theorem unitGone_of_retired {n : Nat} (h : s.spr.retired.contains n = true) : s.unitGone n = true := by
  rw [State.unitGone, h, Bool.true_or, Bool.true_or]

/-- A unit that fails is out of service. -/
theorem unitGone_unitFails (s : State) (n r : Nat) : (s.unitFails n r).unitGone n = true := by
  unfold State.unitFails
  dsimp only
  split
  · next h =>
    obtain ⟨l, hl⟩ := unitError_spr s n r
    rcases Bool.or_eq_true_iff.mp h with h | h
    · exact unitGone_of_out (by rw [hl]; exact h)
    · exact unitGone_of_retired (by rw [hl]; exact h)
  · obtain ⟨l, hl⟩ := unitError_spr (s.putSpr { s.spr with out := n :: s.spr.out }) n r
    exact unitGone_of_out ((congrArg (fun x : Spares => x.out.contains n) hl).trans (by simp [State.putSpr]))

theorem unitFails_blt (s : State) (n r : Nat) : (s.unitFails n r).blt = s.blt := by
  unfold State.unitFails
  dsimp only
  rw [State.unitError_blt]
  exact ite_to State.blt rfl rfl

/-! ### Operating time (R440) -/

theorem exec_hoursJournal (x : Rat) (s : State) : exec (.hoursJournal x) s = execHoursJournal x s := rfl

/-- Both counts after ten minutes at a mean temperature. -/
def State.aged (s : State) (x : Rat) : State :=
  (s.putSpr { s.spr with hoursN := s.spr.hoursN + 1, ageF := s.spr.ageF + pow2Q ((x - 95) / 10) / 6 }).showHours

theorem showHours_spr (s : State) : s.showHours.spr = s.spr := by simp [State.showHours]

theorem rd_journalAs (s : State) (c k : Nat) (b : Bool) (n t w d m : Nat) {x : Fld} (h : x.addr ≠ 0x740210) :
    (s.journalAs c k b n t w d m).rd x = s.rd x := by
  unfold State.journalAs
  dsimp only
  split
  · exact rd_congr (State.toMerge_regs _ _ _ _ _) x
  · exact rd_offer s _ x h

theorem exec_hoursJournal_runs (x : Rat) (ha : s.alive = true) (hc : s.tb.run = true)
    (hu : u = s.runRim ((s.tb.rim / tenMin + 1) * tenMin)) :
    exec (.hoursJournal x) s = .next ((u.aged x).journalAs 11 (Config.eventSub 11 0) false noUnit (u.aged x).now (u.aged x).wseq
      (u.aged x).hoursData noTsu) := by
  rw [exec_hoursJournal, execHoursJournal, ha, hc, if_pos (Bool.and_self true), ← hu]
  rfl

theorem hours_aged (s : State) (x : Rat) (h : s.spr.hoursN < 20000000000) :
    (s.aged x).rd R.SPR_HOURS.VALUE = (s.spr.hoursN + 1) / 6 := by
  rw [State.aged, State.showHours, rd_wrU_beside _ _ (by decide) (by decide), rd_wrU_direct _ _ (by decide)]
  show min ((s.spr.hoursN + 1) / 6) (2 ^ 32 - 1) = _
  omega

end

end Machine

open Machine

/-- Settles O40: what a commit, an erase and ten minutes of operation change of the journal and of the counts. -/
theorem blotterEntriesAreWrittenAndErased : Obligations.BlotterEntriesAreWrittenAndErased := by
  unfold Obligations.BlotterEntriesAreWrittenAndErased
  refine ⟨?commit, ?good, ?bad, ?hours⟩
  case commit =>
    intro s dt u e q hu ha hr hf hq hh hd
    refine ⟨_, exec_blotterCommit_verified hu ha hr (Nat.lt_succ_of_lt hf) hq hd, ?_⟩
    have hqueue : (u.entryWritten e).blt.queue = q := by simp [entryWritten_blt, hq]
    have hblt : (u.entryShown e).showBlt.blt = (u.entryWritten e).blt := (showBlt_blt _).trans (entryShown_blt u e)
    have hlevel : (u.entryShown e).showBlt.rd R.SCR_BLQ.LEVEL = q.length % 128 := by
      rw [rd_showBlt _ (by decide) (by decide), level_entryShown, hqueue]
    have hseq : (u.entryShown e).showBlt.rd R.BLT_HEAD.SEQ = add32 (u.rd R.BLT_HEAD.SEQ) 1 := by
      rw [rd_showBlt _ (by decide) (by decide), seq_entryShown]
    rw [entryLogged_room hf hh]
    refine ⟨?_, ?_, hseq, hlevel, e.sealed (u.rd R.BLT_HEAD.SEQ), ?_, rfl, rfl, rfl, rfl⟩
    · rw [hblt, hqueue]
    · rw [hblt, entryWritten_blt]
    · rw [hblt, entryWritten_blt]
  case good =>
    intro s dt u b hu he hf
    refine ⟨_, exec_blockEraseComplete_good hu he hf, ?_, ?_⟩
    · rw [State.eraseDone, showBlt_blt, putBlt_blt]
    · rw [State.eraseDone, erasing_showBlt, putBlt_blt]
      rfl
  case bad =>
    intro s dt u b hu he
    refine ⟨_, exec_blockEraseComplete_bad hu he, unitGone_unitFails u _ 0, ?_, ?_⟩
    · rw [putBlt_blt]
      exact Option.some_ne_none _
    · rw [putBlt_blt]
      rw [unitFails_blt]
  case hours =>
    intro s x ha hc hn
    refine ⟨_, exec_hoursJournal_runs x ha hc rfl, ?_⟩
    have hspr := runRim_spr s ((s.tb.rim / tenMin + 1) * tenMin)
    generalize s.runRim ((s.tb.rim / tenMin + 1) * tenMin) = u at hspr
    have hkept : ((u.aged x).journalAs 11 (Config.eventSub 11 0) false noUnit (u.aged x).now (u.aged x).wseq (u.aged x).hoursData
        noTsu).spr = { u.spr with hoursN := u.spr.hoursN + 1, ageF := u.spr.ageF + pow2Q ((x - 95) / 10) / 6 } := by
      rw [State.journalAs_spr, State.aged, showHours_spr, State.putSpr]
    refine ⟨?_, ?_, ?_⟩
    · rw [hkept, hspr]
    · rw [rd_journalAs _ _ _ _ _ _ _ _ _ (by decide), hours_aged u x (hspr ▸ hn), hspr]
    · rw [hkept, hspr]

end Sys2Proof
end

section
set_option Elab.async false

namespace Sys2Proof

/-! PROOFS. Verdicts (R429, R432): the unit and the verdict that a test leaves stay through the retirement of the unit. -/

namespace Machine

/-- A pass over a list that each of its elements leaves alone. -/
theorem forEach_keeps_on {α β σ : Type} (p : σ → β) {l : List α} {f : α → σ → σ} (hf : ∀ a ∈ l, ∀ s, p (f a s) = p s) (s : σ) :
    p (forEach l f s) = p s := by
  induction l generalizing s with
  | nil => rfl
  | cons a t ih =>
    rw [forEach, ih fun b hb => hf b (List.mem_cons_of_mem a hb)]
    exact hf a List.mem_cons_self s

/-- Is a field one that a verdict fixes: the last unit and verdict, or the flag of a lasting verdict? -/
def Fld.ofVerdict (x : Fld) : Bool :=
  decide (0x7C0080 ≤ x.addr) && decide (x.addr ≤ 0x7C0088) && R.SPR_FLAGS.EXHAUSTED.apart x && R.SPR_FLAGS.SERIF_STOPPED.apart x &&
    R.SPR_FLAGS.SCRIBE_RETIRED.apart x

/-- What a field of the verdict is apart from. -/
structure VerdictField (x : Fld) : Prop where
  low : 0x7C0080 ≤ x.addr
  high : x.addr ≤ 0x7C0088
  exhausted : R.SPR_FLAGS.EXHAUSTED.apart x = true
  serif : R.SPR_FLAGS.SERIF_STOPPED.apart x = true
  scribe : R.SPR_FLAGS.SCRIBE_RETIRED.apart x = true

theorem VerdictField.of {x : Fld} (h : x.ofVerdict = true) : VerdictField x := by
  simp only [Fld.ofVerdict, Bool.and_eq_true, decide_eq_true_eq] at h
  obtain ⟨⟨⟨⟨h1, h2⟩, h3⟩, h4⟩, h5⟩ := h
  exact ⟨h1, h2, h3, h4, h5⟩

section
variable {x : Fld} (hx : VerdictField x)
include hx

/-- A field of a unit below the spares. -/
theorem VerdictField.rd_wr_below (s : State) (f : Fld) (v : Nat) (hf : f.addr < 0x7C0000) : (s.wr f v).rd x = s.rd x :=
  rd_wr_other s f x v (by have := hx.low; omega) (Nat.lt_trans hf (by decide))

theorem VerdictField.rd_flag_below (s : State) (f : Fld) (hf : f.addr < 0x7C0000) : (s.flag f).rd x = s.rd x :=
  rd_flag_other s f x (by have := hx.low; omega) (Nat.lt_trans hf (by decide))

theorem rd_demandHaltOf (s : State) (n : Nat) : (s.demandHaltOf n R.CHN_FLAGS.HALT_FAULT).rd x = s.rd x := by
  unfold State.demandHaltOf
  split
  · next c hc =>
    have hlt : c < 16 := List.mem_range.mp (List.mem_of_find?_eq_some hc)
    refine ite_to (State.rd · x) (hx.rd_flag_below s _ ?_) (rd_congr rfl x)
    show 0x200028 + c * 0x1000 < 0x7C0000
    omega
  · rfl

theorem rd_homeFail (s : State) {n : Nat} (hn : n < 160) (c : Nat) : (s.homeFail n c).rd x = s.rd x := by
  have hbelow : ∀ a, a < 0x101000 → a + n * 0x400 < 0x7C0000 := by omega
  have hrec : ∀ (t : State) g, (t.putGen n g).rd x = t.rd x := fun t g => rd_congr rfl x
  unfold State.homeFail
  dsimp only
  rw [hrec, hx.rd_flag_below _ _ (hbelow _ (by decide)), hx.rd_wr_below _ _ _ (hbelow _ (by decide)),
    hx.rd_wr_below _ _ _ (hbelow _ (by decide))]

/-- An axis whose position is lost keeps the verdict. -/
theorem rd_homeFbFault (s : State) {n : Nat} (hn : n < 160) : (s.homeFbFault n).rd x = s.rd x := by
  have hhomed : (s.wr (R.STK_FLAGS.HOMED.i n) 0).rd x = s.rd x :=
    hx.rd_wr_below s _ 0 (by show 0x100040 + n * 0x400 < 0x7C0000; omega)
  unfold State.homeFbFault
  exact ite_to (State.rd · x) hhomed ((rd_demandHaltOf hx _ n).trans ((rd_homeFail hx _ hn 3).trans hhomed))

/-- Tests stop and start beside the verdict. -/
theorem rd_showTests (s : State) : s.showTests.rd x = s.rd x := by
  have hne : x.addr ≠ 0x7C0014 := by have := hx.low; omega
  unfold State.showTests State.wrU
  rw [rd_wr_other _ _ _ _ hne (by decide), rd_wr_other _ _ _ _ hne (by decide)]

theorem rd_moveChan (s : State) (k p : Nat) : (s.moveChan k p).rd x = s.rd x := by
  have hin : (s.bringIn (uSamp p)).rd x = s.rd x :=
    (rd_showTests hx (s.putSpr { s.spr with reqs := s.spr.reqs.filter fun r => !(r.unit == uSamp p && r.sched) })).trans
      (rd_putSpr _ _ _)
  exact (rd_putSpr _ _ x).trans hin

/-- The retirement of a sampler keeps the verdict. -/
theorem rd_chanRetired (s : State) (p : Nat) : (s.chanRetired p).rd x = s.rd x := by
  unfold State.chanRetired
  split
  · rfl
  next k hk =>
  have hlt : k < 16 := List.mem_range.mp (List.mem_of_find?_eq_some hk)
  split
  · exact rd_moveChan hx s k _
  have hbelow : 0x6000a0 + k * 0x200 < 0x7C0000 := by omega
  refine (forEach_keeps_on (State.rd · x)
    (fun n hn t => rd_homeFbFault hx t (List.mem_range.mp (List.mem_filter.mp hn).1)) _).trans ((rd_putSpr _ _ x).trans ?_)
  rw [hx.rd_wr_below _ (R.FB_STAT.CAUSE.i k) _ hbelow, hx.rd_wr_below _ (R.FB_STAT.LOST.i k) _ hbelow,
    hx.rd_wr_below _ (R.FB_STAT.FAULT.i k) _ hbelow, rd_flag_beside _ (by decide) rfl hx.exhausted]

theorem VerdictField.rd_showSerif (s : State) {d : Nat} (hd : d < 4) : (s.showSerif d).rd x = s.rd x := by
  have hlow := hx.low
  have haddr : (R.SF_STAT.STATE.i d).addr = 0x780024 + d * 0x10000 := rfl
  unfold State.showSerif
  exact rd_putRaw_other _ _ (by omega) (by rw [haddr]; exact Nat.lt_trans (by omega : _ < 0x7C0000) (by decide))

end

/-- The units of R444 and their numbers. -/
theorem groupOf_lt {u g : Nat} (hu : isUnit u = true) (hg : groupOf u = some g) : g ≤ 10 := by
  simp only [isUnit, Bool.or_eq_true, Bool.and_eq_true, beq_iff_eq, decide_eq_true_eq] at hu
  unfold groupOf at hg
  dsimp only at hg
  split at hg
  · cases hg; omega
  split at hg
  · cases hg; omega
  split at hg
  · cases hg; omega
  split at hg
  · cases hg; omega
  split at hg
  · cases hg; omega
  · cases hg

theorem serif_unit_lt {u : Nat} (hu : isUnit u = true) (hk : u / 4096 = 6) : u % 4096 < 4 := by
  simp only [isUnit, Bool.or_eq_true, Bool.and_eq_true, beq_iff_eq, decide_eq_true_eq] at hu
  omega

theorem rd_mgnCause (s : State) (b : Nat) (on : Bool) (x : Fld) : (s.mgnCause b on).rd x = s.rd x := rd_congr rfl x

/-- The retirement of a unit keeps the verdict that retires it. -/
theorem rd_retire {x : Fld} (hx : VerdictField x) (s : State) {r : TestReq} (hu : isUnit r.unit = true) :
    (s.retire r).rd x = s.rd x := by
  have hleft : ∀ g ≤ 10, ∀ v, (s.wr (R.SPR_GROUP.LEFT.j g) v).rd x = s.rd x := fun g hg v => by
    have hlow := hx.low
    have haddr : (R.SPR_GROUP.LEFT.j g).addr = 0x7C0020 + g * 8 := rfl
    exact rd_wr_other s _ x v (by omega) (by rw [haddr]; exact Nat.lt_trans (by omega : _ < 0x7C0080) (by decide))
  have hgroup : (match groupOf r.unit with
      | some g => s.wr (R.SPR_GROUP.LEFT.j g) (s.rd (R.SPR_GROUP.LEFT.j g) - 1)
      | none => s).rd x = s.rd x := by
    split
    · next g hg => exact hleft g (groupOf_lt hu hg) _
    · rfl
  unfold State.retire
  refine ite_to (State.rd · x) ((rd_putSpr _ _ x).trans hgroup) ?_
  by_cases h6 : r.unit / 4096 = 6
  · refine (congrArg (State.rd · x) (if_pos h6)).trans ((hx.rd_showSerif _ (serif_unit_lt hu h6)).trans ?_)
    exact (rd_flag_beside _ (by decide) rfl hx.serif).trans ((rd_putSpr _ _ x).trans hgroup)
  refine (congrArg (State.rd · x) (if_neg h6)).trans ?_
  refine ite_to (State.rd · x) ?scribe (ite_to (State.rd · x) ?margin (ite_to (State.rd · x) ?sampler ?other))
  case scribe => exact (rd_flag_beside _ (by decide) rfl hx.scribe).trans ((rd_putSpr _ _ x).trans hgroup)
  case margin => exact (hx.rd_flag_below _ _ (by decide)).trans ((rd_mgnCause _ _ _ x).trans ((rd_putSpr _ _ x).trans hgroup))
  case sampler => exact (rd_chanRetired hx _ _).trans ((rd_putSpr _ _ x).trans hgroup)
  case other => exact (rd_putSpr _ _ x).trans hgroup

end Machine

end Sys2Proof
end

section
set_option Elab.async false

namespace Sys2Proof

/-! PROOFS. Tests of units (R418, R429, R433) and errors of the memories (R427). -/

namespace Machine

section
variable {s u : State} {dt k : Nat} {r : TestReq}

/-! ### The end of a test -/

theorem exec_selfTestComplete (dt k : Nat) (pass : Bool) (s : State) :
    exec (.selfTestComplete dt k pass) s = execSelfTestComplete dt k pass s := rfl

/-- The one test that runs ends. -/
theorem exec_selfTestComplete_only {pass : Bool} (hu : u = s.after dt) (hk : isUnit k = true) (hr : u.spr.reqs = [r])
    (hunit : r.unit = k) (hrun : u.testRun r = true) : exec (.selfTestComplete dt k pass) s = .next (u.testEnds r pass) := by
  have hfind : [r].find? (fun r => r.unit == k && u.testRun r) = some r := by simp [hunit, hrun]
  rw [exec_selfTestComplete, execSelfTestComplete, ← hu, hk, needs_true, hr, hfind]

/-- The request of a test goes. -/
def State.testTaken (s : State) (r : TestReq) : State := s.putSpr { s.spr with reqs := s.spr.reqs.erase r }

/-- The verdict that a test leaves, if it leaves one (R429, R433). -/
def State.verdictGiven (s : State) (r : TestReq) (pass : Bool) : State :=
  if r.sched then (if pass && !r.again then s else s.verdict r 2) else s.verdict r (s.verdictOf r pass)

/-- The end of a test while no test is overdue. -/
theorem testEnds_notOverdue {pass : Bool} (h : s.dct.overdue = none) :
    s.testEnds r pass = ((s.testTaken r).verdictGiven r pass).runTests := by
  have hno : ¬ (decide ((s.testTaken r).dct.overdue = some r.unit) && r.sched) = true := by
    rw [State.testTaken, putSpr_dct, h]
    exact Bool.false_ne_true
  exact congrArg (fun t => (State.verdictGiven t r pass).runTests) (if_neg hno)

/-- A scheduled test that passes gives no verdict. -/
theorem verdictGiven_passed (s : State) (hs : r.sched = true) (ha : r.again = false) : s.verdictGiven r true = s := by
  simp [State.verdictGiven, hs, ha]

/-- A test after an error that fails gives a lasting verdict. -/
theorem verdictGiven_failed (s : State) (hs : r.sched = false) : s.verdictGiven r false = s.verdict r 2 := by
  simp [State.verdictGiven, State.verdictOf, hs]

/-- What is recorded of a verdict. -/
def State.verdictShown (s : State) (r : TestReq) (v : Nat) : State :=
  (s.putRaw 0x7C0080 (r.unit * p2 16 + v * p2 14)).wr R.SPR_LAST_STAMP.NS r.stamp

/-- The journal entry of a verdict. -/
def State.verdictJournalled (s : State) (r : TestReq) (v : Nat) : State :=
  s.journalAs 1 v true r.unit r.stamp (if s.now < r.stamp then (s.wseq + 255) % 256 else s.wseq) r.row
    (if r.unit / 4096 = 5 then r.unit % 4096 else noTsu)

theorem verdict_lasting (s : State) (r : TestReq) :
    s.verdict r 2 = (((s.verdictShown r 2).verdictJournalled r 2).flag R.SPR_FLAGS.LASTING_SEEN).retire r := rfl

theorem rd_verdictJournalled (s : State) (r : TestReq) (v : Nat) {x : Fld} (h : x.addr ≠ 0x740210) :
    (s.verdictJournalled r v).rd x = s.rd x := rd_journalAs _ _ _ _ _ _ _ _ _ h

/-- The word of the last verdict. -/
theorem raw_verdictShown (s : State) (r : TestReq) (v : Nat) :
    (s.verdictShown r v).raw 0x7C0080 = r.unit * p2 16 + v * p2 14 := by
  rw [State.verdictShown, raw_wr_other _ _ _ (by decide), raw_putRaw_same]

theorem isUnit_lt (h : isUnit k = true) : k < 65536 := by
  simp only [isUnit, Bool.or_eq_true, Bool.and_eq_true, beq_iff_eq, decide_eq_true_eq] at h
  omega

/-- The registers after a lasting verdict. -/
theorem rd_verdict_lasting (s : State) (hu : isUnit r.unit = true) :
    (s.verdict r 2).rd R.SPR_LAST.UNIT = r.unit ∧ (s.verdict r 2).rd R.SPR_LAST.VERDICT = 2 ∧
      (s.verdict r 2).rd R.SPR_FLAGS.LASTING_SEEN = 1 := by
  have hlt := isUnit_lt hu
  have hlast : ∀ x : Fld, x.addr = 0x7C0080 → (s.verdict r 2).rd x = bits (r.unit * p2 16 + 2 * p2 14) x.hi x.lo := fun x hx => by
    have hv : x.ofVerdict = true := by
      have hflags : ∀ f : Fld, f.addr = 0x7C0088 → f.apart x = true := fun f hf => by simp [Fld.apart, hf, hx]
      simp [Fld.ofVerdict, hx, hflags _ (rfl : R.SPR_FLAGS.EXHAUSTED.addr = _),
        hflags _ (rfl : R.SPR_FLAGS.SERIF_STOPPED.addr = _), hflags _ (rfl : R.SPR_FLAGS.SCRIBE_RETIRED.addr = _)]
    rw [verdict_lasting, rd_retire (VerdictField.of hv) _ hu, rd_flag_other _ _ _ (by rw [hx]; decide) (by decide),
      rd_verdictJournalled _ _ _ (by rw [hx]; decide), State.rd, hx, rdw_plain _ (by decide), raw_verdictShown]
  refine ⟨?_, ?_, ?_⟩
  · rw [hlast _ rfl]
    simp only [bits, p2, R.SPR_LAST.UNIT]
    omega
  · rw [hlast _ rfl]
    simp only [bits, p2, R.SPR_LAST.VERDICT]
    omega
  · rw [verdict_lasting, rd_retire (VerdictField.of (by decide)) _ hu, rd_flag_direct _ (by decide) rfl]

/-! ### Scheduled tests (R418) -/

theorem exec_scheduledTest (dt k w : Nat) (s : State) : exec (.scheduledTest dt k w) s = execScheduledTest dt k w s := rfl

/-- The test is deferred with its time. -/
def State.testDeferred (s : State) (k w : Nat) : State :=
  ((s.putDct { s.dct with defer := s.dct.defer ++ [(k, s.tb.rim, w)] }).bump R.SCR_TEST.DEFERS R.SCR_TEST.OVF).showDefer

theorem exec_scheduledTest_free {w : Nat} (hu : u = s.after dt) (hk : isUnit k = true) (ha : u.alive = true)
    (hc : u.tb.run = true) (hf : u.schedFree k = true) :
    exec (.scheduledTest dt k w) s =
      .next (if 2 ≤ u.rd R.SCR_SHED.LEVEL then u.testDeferred k w else u.schedStart k w) := by
  rw [exec_scheduledTest, execScheduledTest, ← hu, hk, needs_true, ha, hc, hf]
  rfl

/-- The test of the Margin monitor starts at once where no test waits. -/
theorem schedStart_margin (w : Nat) (h : s.spr.reqs = []) :
    s.schedStart 0x8000 w = ((s.wrU R.SPR_WEAR.WEAR_MV w).putSpr
      { (s.wrU R.SPR_WEAR.WEAR_MV w).spr with reqs := [⟨0x8000, (s.wrU R.SPR_WEAR.WEAR_MV w).now, none, false, true, 0⟩] }).runTests := by
  simp [State.schedStart, State.putSpr, h]

theorem active_runTests (s : State) :
    s.runTests.rd R.SPR_STAT.ACTIVE = (s.runTests.spr.reqs.filter fun r => r.started.isSome).length % 8 := by
  rw [runTests_reqs, State.runTests, State.showTests, rd_wrU_beside _ _ (by decide) (by decide), rd_wr_direct _ _ (by decide)]
  rfl

theorem waiting_runTests_none (h : s.spr.reqs = []) : s.runTests.rd R.SPR_STAT.WAITING = 0 := by
  rw [State.runTests, State.showTests, rd_wrU_direct _ _ (by decide)]
  simp [h, startTests]

/-! ### Errors of memories (R427) -/

theorem exec_sramError (dt mac row : Nat) (ok : Bool) (o : SramOwner) (s : State) :
    exec (.sramError dt mac row ok o) s = execSramError dt mac row ok o s := rfl

/-- The row of an error leaves use where a spare row is free. -/
def State.rowOut (s : State) (mac row : Nat) : State :=
  if (s.spr.reqs.filter fun r => r.unit == 0x4000 + mac).length + s.rowsGone mac < 8 then s.unitError (0x4000 + mac) row
  else { s.flag R.SPR_FLAGS.EXHAUSTED with spr := { s.spr with rowStuck := (mac * 1024 + row) :: s.spr.rowStuck } }

theorem rowOut_mem (s : State) (mac row : Nat) : (s.rowOut mac row).mem = s.mem :=
  ite_to State.mem (State.unitError_mem _ _ _) (State.flag_mem _ _)

/-- An error is counted, or its word is lost to the unit that owns it. -/
def State.errorNoted (s : State) (mac row : Nat) (ok : Bool) (o : SramOwner) : State :=
  if ok && !s.spr.rowStuck.contains (mac * 1024 + row) then s.bump R.SPR_CORR.CORR R.SPR_FLAGS.CORR_OVF
  else (s.flag R.SPR_FLAGS.UNCORR).sramOwner o

theorem exec_sramError_runs {mac row : Nat} {ok : Bool} {o : SramOwner} (hu : u = s.after dt) (hm : mac < 240) (hr : row < 1024)
    (ha : u.alive = true) (hc : u.tb.run = true) :
    exec (.sramError dt mac row ok o) s = .next (if u.spr.rowStuck.contains (mac * 1024 + row) then u.errorNoted mac row ok o
      else (u.errorNoted mac row ok o).rowOut mac row) := by
  rw [exec_sramError, execSramError, ← hu, decide_eq_true hm, decide_eq_true hr, Bool.and_self, needs_true, ha, hc]
  rfl

/-- An error that is corrected in a row in use. -/
theorem errorNoted_corrected {mac row : Nat} {o : SramOwner} (h : s.spr.rowStuck = []) :
    s.errorNoted mac row true o = s.bump R.SPR_CORR.CORR R.SPR_FLAGS.CORR_OVF := by
  simp [State.errorNoted, h]

/-- An error that is not corrected. -/
theorem errorNoted_lost {mac row : Nat} {o : SramOwner} : s.errorNoted mac row false o = (s.flag R.SPR_FLAGS.UNCORR).sramOwner o := by
  simp [State.errorNoted]

/-- A row that no test waits for is asked to be tested. -/
theorem rowOut_first {mac row : Nat} (hq : s.spr.reqs = []) (hg : s.rowsGone mac < 8) :
    s.rowOut mac row = (s.putSpr { s.spr with reqs := [⟨0x4000 + mac, s.now, none, false, false, row⟩] }).runTests := by
  simp [State.rowOut, State.unitError, State.putSpr, hq, hg]

theorem rd_rowOut (s : State) (mac row : Nat) {x : Fld} (hx : x.addr ≠ 0x7C0014) (he : R.SPR_FLAGS.EXHAUSTED.apart x = true) :
    (s.rowOut mac row).rd x = s.rd x :=
  ite_to (State.rd · x) (rd_unitError s _ _ hx) ((rd_putSpr _ _ x).trans (rd_flag_beside s (by decide) rfl he))

end

end Machine

open Machine

/-- Settles O39: the one test that runs ends with its verdict, which its retirement keeps; a request that waits alone starts at once. -/
theorem testsOfUnitsRunAndEnd : Obligations.TestsOfUnitsRunAndEnd := by
  unfold Obligations.TestsOfUnitsRunAndEnd
  refine ⟨?passed, ?failed, ?deferred, ?started, ?corrected, ?lost⟩
  case passed =>
    intro s dt u k r hu hk hr hunit hrun hs ha hover
    refine ⟨_, exec_selfTestComplete_only hu hk hr hunit hrun, ?_⟩
    have htaken : (u.testTaken r).spr.reqs = [] := (congrArg (List.erase · r) hr).trans (List.erase_cons_head r [])
    have hnone : (u.testTaken r).runTests.spr.reqs = [] := by rw [runTests_reqs, htaken]; rfl
    rw [testEnds_notOverdue hover, verdictGiven_passed _ hs ha]
    refine ⟨hnone, ?_, waiting_runTests_none htaken, ?_⟩
    · rw [active_runTests, hnone]
      rfl
    · obtain ⟨l, hl⟩ := runTests_spr (u.testTaken r)
      rw [hl]
      rfl
  case failed =>
    intro s dt u k r hu hk hr hunit hrun hs hover
    refine ⟨_, exec_selfTestComplete_only hu hk hr hunit hrun, ?_⟩
    subst hunit
    obtain ⟨hlast, hverdict, hseen⟩ := rd_verdict_lasting (u.testTaken r) hk
    rw [testEnds_notOverdue hover, verdictGiven_failed _ hs]
    refine ⟨?_, ?_, ?_⟩
    · rw [rd_runTests _ (by decide), hlast, Nat.mod_eq_of_lt (isUnit_lt hk)]
    · rw [rd_runTests _ (by decide), hverdict]
    · rw [rd_runTests _ (by decide), hseen]
  case deferred =>
    intro s dt u k w hu hk ha hc hf hlevel
    refine ⟨_, exec_scheduledTest_free hu hk ha hc hf, ?_⟩
    rw [if_pos hlevel]
    refine ⟨?_, ?_, ?_⟩
    · rw [State.testDeferred, showDefer_dct, State.bump_dct]
      rfl
    · rw [State.testDeferred, State.showDefer, rd_wrB_direct _ _ (by decide) rfl, State.bump_dct]
      simp [State.putDct, b2n]
    · rw [State.testDeferred, State.showDefer, State.wrB_spr, State.bump_spr, putDct_spr]
  case started =>
    intro s dt u w hu ha hc hf hlevel hq
    refine ⟨_, exec_scheduledTest_free hu (by decide) ha hc hf, ?_⟩
    rw [if_neg (Nat.not_le.mpr hlevel), schedStart_margin w hq]
    have hreqs : ∀ (t : State) (b : Spares) (r : TestReq), r.started = none →
        (t.putSpr { b with reqs := [r] }).runTests.spr.reqs = [{ r with started := some t.tb.boot }] := fun t b r hr => by
      rw [runTests_reqs]
      simp [State.putSpr, startTests, hr]
    refine ⟨?_, ?_, ?_, ?_⟩
    · rw [rd_runTests _ (by decide), rd_putSpr, rd_wrU_direct _ _ (by decide)]
      rfl
    · rw [hreqs _ _ _ rfl]
      rfl
    · rw [hreqs _ _ _ rfl]
      rfl
    · rw [active_runTests, hreqs _ _ _ rfl]
      rfl
  case corrected =>
    intro s dt u mac row hu hm hr ha hc hstuck hq hg hn
    refine ⟨_, exec_sramError_runs hu hm hr ha hc, ?_⟩
    have hcount : (u.bump R.SPR_CORR.CORR R.SPR_FLAGS.CORR_OVF).rd R.SPR_CORR.CORR = u.rd R.SPR_CORR.CORR + 1 :=
      rd_bump_direct u (by decide) (by decide) rfl (by decide) (Nat.lt_trans hn (by decide))
    have hgone : (u.bump R.SPR_CORR.CORR R.SPR_FLAGS.CORR_OVF).rowsGone mac < 8 := by
      rwa [State.rowsGone, State.bump_spr]
    have hnone : (u.bump R.SPR_CORR.CORR R.SPR_FLAGS.CORR_OVF).spr.reqs = [] := by rw [State.bump_spr, hq]
    rw [if_neg (by rw [hstuck]; exact Bool.false_ne_true), errorNoted_corrected hstuck]
    refine ⟨(rd_rowOut _ _ _ (by decide) (by decide)).trans hcount, ?_, ?_, ?_⟩
    · rw [rowOut_first hnone hgone, runTests_reqs, startTests_units]
      rfl
    · rw [rowOut_first hnone hgone, runTests_reqs]
      simp [State.putSpr, startTests]
    · rw [rowOut_mem, State.bump_mem]
  case lost =>
    intro s dt u mac row n hu hm hr ha hc hn
    refine ⟨_, exec_sramError_runs hu hm hr ha hc, ?_⟩
    have hrd : ∀ x : Fld, ((u.flag R.SPR_FLAGS.UNCORR).putMem32 8 (4 * n) 0).rd x = (u.flag R.SPR_FLAGS.UNCORR).rd x :=
      rd_congr (State.putMem32_regs _ _ _ _)
    have hzero : ((u.flag R.SPR_FLAGS.UNCORR).putMem32 8 (4 * n) 0).mem32 8 (4 * n) = 0 := mem32_putMem32_same _ _ _ _
    rw [errorNoted_lost]
    refine ⟨?_, ?_⟩
    · refine ite_to (State.rd · R.SPR_FLAGS.UNCORR) ?_ ((rd_rowOut _ _ _ (by decide) (by decide)).trans ?_)
      · exact (hrd _).trans (rd_flag_direct u (by decide) rfl)
      · exact (hrd _).trans (rd_flag_direct u (by decide) rfl)
    · exact ite_to (State.mem32 · 8 (4 * n)) hzero ((mem32_congr (rowOut_mem _ _ _) _ _).trans hzero)

end Sys2Proof
end

section
set_option Elab.async false

namespace Sys2Proof

/-! PROOFS. The bookkeeping of the twin link (R363, R374, R375): which fields its steps write, and that what was heard of the peer stays through them. -/

namespace Machine

/-! ### Which fields a step writes -/

/-- Every field apart from those of a list reads as before. -/
def WritesOnly (l : List Fld) (s t : State) : Prop := ∀ x : Fld, l.all (·.apart x) = true → t.rd x = s.rd x

section
variable {l m : List Fld} {s t u : State} {f : Fld}

theorem WritesOnly.trans (h : WritesOnly l s t) (h' : WritesOnly l t u) : WritesOnly l s u := fun x hx => (h' x hx).trans (h x hx)

theorem WritesOnly.mono (h : WritesOnly m s t) (hml : ∀ f ∈ m, f ∈ l) : WritesOnly l s t := fun x hx =>
  h x (List.all_eq_true.mpr fun f hf => List.all_eq_true.mp hx f (hml f hf))

theorem writesOnly_of_regs (h : t.regs = s.regs) : WritesOnly l s t := fun x _ => rd_congr h x

theorem WritesOnly.refl (s : State) : WritesOnly l s s := fun _ _ => rfl

theorem writesOnly_wr (hf : f ∈ l) (hd : f.direct = true) (s : State) (v : Nat) : WritesOnly l s (s.wr f v) := fun _ hx =>
  rd_wr_beside s v hd (List.all_eq_true.mp hx f hf)

theorem writesOnly_wrB (hf : f ∈ l) (hd : f.direct = true) (s : State) (b : Bool) : WritesOnly l s (s.wrB f b) :=
  writesOnly_wr hf hd s (b2n b)

theorem writesOnly_flag (hf : f ∈ l) (hd : f.direct = true) (h1 : f.hi = f.lo) (s : State) : WritesOnly l s (s.flag f) := fun _ hx =>
  rd_flag_beside s hd h1 (List.all_eq_true.mp hx f hf)

/-- A step that may not happen. -/
theorem WritesOnly.ite {c : Prop} [Decidable c] (h : WritesOnly l s t) (h' : WritesOnly l s u) : WritesOnly l s (if c then t else u) := by
  split
  · exact h
  · exact h'

end

/-! ### The state of the link -/

/-- The state with another record of the twin link. -/
def State.putTwin (s : State) (d : Twin) : State := { s with twin := d }

theorem putTwin_twin (s : State) (d : Twin) : (s.putTwin d).twin = d := rfl

theorem rd_putTwin (s : State) (d : Twin) (x : Fld) : (s.putTwin d).rd x = s.rd x := rd_congr rfl x

theorem writesOnly_putTwin {l : List Fld} (s : State) (d : Twin) : WritesOnly l s (s.putTwin d) := fun x _ => rd_putTwin s d x

/-- What was heard of the peer: its last STATUS, when it came, and its last TIME. -/
def State.heard (s : State) : Option StatusMsg × Option Nat × Option (Nat × Nat) := (s.twin.peer, s.twin.statAt, s.twin.timeRx)

theorem heard_congr {s t : State} (h : t.twin = s.twin) : t.heard = s.heard := by
  rw [State.heard, h]
  rfl

/-- A record that keeps what was heard. -/
theorem heard_putTwin {s : State} {d : Twin} (hp : d.peer = s.twin.peer) (ha : d.statAt = s.twin.statAt)
    (ht : d.timeRx = s.twin.timeRx) : (s.putTwin d).heard = s.heard := by
  rw [State.heard, putTwin_twin, hp, ha, ht]
  rfl

section
variable (s : State)

theorem sendStatus_eq : ∃ h, s.sendStatus = (s.twinSend 1 [s.mode, s.health, s.claim, s.claimCfg, s.chRx, s.serial,
      s.rd R.TWN_SIG.PAIR_SIG, s.rd R.TWN_HB.HB_AT, s.schedId 0, s.schedId 1]).putTwin
    { (s.twinSend 1 [s.mode, s.health, s.claim, s.claimCfg, s.chRx, s.serial, s.rd R.TWN_SIG.PAIR_SIG, s.rd R.TWN_HB.HB_AT,
      s.schedId 0, s.schedId 1]).twin with health := h } := ⟨_, rfl⟩

/-- A message that leaves takes a number. -/
theorem twinSend_twin (typ : Nat) (w : List Nat) : ∃ q, (s.twinSend typ w).twin = { s.twin with seq := q } := by
  unfold State.twinSend
  split
  · exact ⟨_, rfl⟩
  · exact ⟨s.twin.seq, rfl⟩

/-- A STATUS that is due changes the number of the next message and the HEALTH last sent. -/
theorem healthCheck_twin : ∃ q h, s.healthCheck.twin = { s.twin with seq := q, health := h } := by
  unfold State.healthCheck
  split
  · obtain ⟨h, he⟩ := sendStatus_eq s
    obtain ⟨q, hq⟩ := twinSend_twin s 1 [s.mode, s.health, s.claim, s.claimCfg, s.chRx, s.serial, s.rd R.TWN_SIG.PAIR_SIG,
      s.rd R.TWN_HB.HB_AT, s.schedId 0, s.schedId 1]
    exact ⟨q, h, by rw [he, putTwin_twin, hq]⟩
  · exact ⟨s.twin.seq, s.twin.health, rfl⟩

theorem healthCheck_heard : s.healthCheck.heard = s.heard := by
  obtain ⟨q, h, he⟩ := healthCheck_twin s
  rw [State.heard, he]
  rfl

theorem rd_healthCheck (x : Fld) : s.healthCheck.rd x = s.rd x := rd_congr (healthCheck_regs s) x

/-! ### The end of a granted hand-back (R375) -/

/-- The fields of a hand-back that ends. -/
def cancelWrites : List Fld :=
  [R.TWN_STAT.HB_PEND, R.TWN_STAT.HB_FINAL, R.TWN_HB.HB_AT, R.MOD_STATE.PEND, R.TWN_FLAGS.HB_CANCEL]

/-- The ring's part of a hand-back that ends. -/
def State.grantsEnd (s : State) : State :=
  forEach [0, 1] (fun ch s => s.modChan ch fun c => { c with
    go := none, act := if (c.act.map (·.1)) = some 2 then none else c.act }) s

/-- The registers of a hand-back that ends. -/
def State.grantCleared (s : State) : State :=
  ((s.wr R.TWN_STAT.HB_PEND 0).wr R.TWN_STAT.HB_FINAL 0).wr R.TWN_HB.HB_AT 0

/-- The record of the link after a hand-back that ends. -/
def State.grantForgotten (s : State) : State :=
  s.putTwin { s.twin with hb := none, hbReq := false, readyAt := if s.rd R.TWN_STAT.READY = 1 then some s.tb.rim else none }

theorem grantForgotten_heard : s.grantForgotten.heard = s.heard := by
  rw [State.grantForgotten]
  exact heard_putTwin (s := s) rfl rfl rfl

theorem hbCancel_pending (h : s.rd R.TWN_STAT.HB_PEND ≠ 0) :
    s.hbCancel = (if s.grantCleared.grantForgotten.grantsEnd.dev.pendKind = 4 then s.grantCleared.grantForgotten.grantsEnd.clearPend
      else s.grantCleared.grantForgotten.grantsEnd).flag R.TWN_FLAGS.HB_CANCEL := by
  unfold State.hbCancel
  exact if_neg h

theorem modChan_twin (c : Nat) (f : Chan → Chan) : (s.modChan c f).twin = s.twin := rfl

theorem grantsEnd_regs : s.grantsEnd.regs = s.regs := forEach_keeps State.regs (fun ch t => modChan_regs t ch _) s

theorem grantsEnd_twin : s.grantsEnd.twin = s.twin := forEach_keeps State.twin (fun ch t => modChan_twin t ch _) s

/-- The state with another record of the device. -/
def State.putDev (d : Dev) : State := { s with dev := d }

theorem putDev_twin (d : Dev) : (s.putDev d).twin = s.twin := rfl

theorem putDev_regs (d : Dev) : (s.putDev d).regs = s.regs := rfl

theorem clearPend_eq : s.clearPend = (s.wr R.MOD_STATE.PEND 15).putDev { s.dev with pendKind := 0, surrender := false } := rfl

theorem clearPend_twin : s.clearPend.twin = s.twin := by rw [clearPend_eq, putDev_twin, State.wr_twin]

theorem rd_clearPend (x : Fld) : s.clearPend.rd x = (s.wr R.MOD_STATE.PEND 15).rd x := by
  rw [clearPend_eq]
  exact rd_congr (putDev_regs _ _) x

theorem writesOnly_clearPend {l : List Fld} (h : R.MOD_STATE.PEND ∈ l) : WritesOnly l s s.clearPend := fun x hx =>
  (rd_clearPend s x).trans (writesOnly_wr h (by decide) s 15 x hx)

theorem hbCancel_writes : WritesOnly cancelWrites s s.hbCancel := by
  by_cases h : s.rd R.TWN_STAT.HB_PEND = 0
  · rw [State.hbCancel, if_pos h]
    exact WritesOnly.refl s
  rw [hbCancel_pending s h]
  have hclear : WritesOnly cancelWrites s s.grantCleared :=
    ((writesOnly_wr (by decide) (by decide) _ _).trans (writesOnly_wr (by decide) (by decide) _ _)).trans
      (writesOnly_wr (by decide) (by decide) _ _)
  have hend : WritesOnly cancelWrites s s.grantCleared.grantForgotten.grantsEnd :=
    (hclear.trans (writesOnly_putTwin _ _)).trans (writesOnly_of_regs (grantsEnd_regs _))
  refine WritesOnly.trans (WritesOnly.ite ?_ hend) (writesOnly_flag (by decide) (by decide) rfl _)
  exact hend.trans (writesOnly_clearPend _ (by decide))

theorem hbCancel_heard : s.hbCancel.heard = s.heard := by
  by_cases h : s.rd R.TWN_STAT.HB_PEND = 0
  · rw [State.hbCancel, if_pos h]
  rw [hbCancel_pending s h]
  have hclear : s.grantCleared.heard = s.heard := heard_congr (by simp [State.grantCleared])
  have hend : s.grantCleared.grantForgotten.grantsEnd.heard = s.heard :=
    (heard_congr (grantsEnd_twin _)).trans ((grantForgotten_heard _).trans hclear)
  refine (heard_congr (State.flag_twin _ _)).trans (ite_to State.heard ?_ hend)
  exact (heard_congr (clearPend_twin _)).trans hend

/-! ### READY (R363) -/

/-- READY falls, and with it a request for hand-back. -/
def State.readyFalls (s : State) : State :=
  ((s.wrB R.TWN_STAT.READY false).wr R.TWN_CTRL.HB_NOW 0).putTwin
    { (s.wrB R.TWN_STAT.READY false).twin with readyAt := none, hbReq := false }

/-- READY rises at the present clock. -/
def State.readyRises (s : State) : State :=
  (s.wrB R.TWN_STAT.READY true).putTwin
    { (s.wrB R.TWN_STAT.READY true).twin with readyAt := some (s.wrB R.TWN_STAT.READY true).tb.rim }

theorem readyFalls_heard : s.readyFalls.heard = s.heard := by
  rw [State.heard, State.readyFalls, putTwin_twin, State.wrB_twin]
  rfl

theorem readyRises_heard : s.readyRises.heard = s.heard := by
  rw [State.heard, State.readyRises, putTwin_twin, State.wrB_twin]
  rfl

theorem setReady_true : s.setReady true = if s.rd R.TWN_STAT.READY = 1 then s else s.readyRises := by
  by_cases h : s.rd R.TWN_STAT.READY = 1
  · rw [if_pos h, State.setReady, if_pos (by simp [h])]
  · rw [if_neg h, State.setReady, if_neg (by simp [h]), if_pos rfl, State.readyRises, State.putTwin]

theorem setReady_false : s.setReady false = if s.rd R.TWN_STAT.READY = 1 then s.readyFalls else s := by
  by_cases h : s.rd R.TWN_STAT.READY = 1
  · rw [if_pos h, State.setReady, if_neg (by simp [h]), if_neg (by decide), State.readyFalls, State.putTwin]
  · rw [if_neg h, State.setReady, if_pos (by simp [h])]

/-- The fields of readiness. -/
def readyWrites : List Fld := [R.TWN_STAT.READY, R.TWN_CTRL.HB_NOW]

theorem setReady_writes (x : Bool) : WritesOnly readyWrites s (s.setReady x) := by
  cases x with
  | false =>
    rw [setReady_false]
    exact WritesOnly.ite (((writesOnly_wr (by decide) (by decide) _ _).trans (writesOnly_wr (by decide) (by decide) _ _)).trans
      (writesOnly_putTwin _ _)) (WritesOnly.refl s)
  | true =>
    rw [setReady_true]
    exact WritesOnly.ite (WritesOnly.refl s) ((writesOnly_wr (by decide) (by decide) _ _).trans (writesOnly_putTwin _ _))

theorem setReady_heard (x : Bool) : (s.setReady x).heard = s.heard := by
  cases x with
  | false =>
    rw [setReady_false]
    refine ite_to State.heard ((readyFalls_heard s)) rfl
  | true =>
    rw [setReady_true]
    exact ite_to State.heard rfl (readyRises_heard s)

end

end Machine

end Sys2Proof
end

section
set_option Elab.async false

namespace Sys2Proof

/-! PROOFS. What follows from the state of the pair (R363, R374): the fields that the twin's poll writes, and that it keeps what was heard. -/

namespace Machine

section
variable (s : State)

/-- The fields that follow the state of the pair. -/
def pollWrites : List Fld :=
  [R.TWN_STAT.PEER_SYNCED, R.MOD_STATE.PEND, R.TWN_STAT.SYNC, R.TWN_STAT.READY, R.TWN_CTRL.HB_NOW]

theorem setPend_twin (m k a : Nat) : (s.setPend m k a).twin = s.twin := State.wr_twin s R.MOD_STATE.PEND m

theorem hwPend_twin (m k a : Nat) : (s.hwPend m k a).twin = s.twin := by rw [State.hwPend, setPend_twin]; rfl

theorem writesOnly_hwPend {l : List Fld} (h : R.MOD_STATE.PEND ∈ l) (m k a : Nat) : WritesOnly l s (s.hwPend m k a) := by
  have hs : WritesOnly l s s.trigger := writesOnly_of_regs rfl
  have hp : WritesOnly l (s.trigger.wr R.MOD_STATE.PEND m) (s.hwPend m k a) := writesOnly_of_regs rfl
  exact (hs.trans (writesOnly_wr h (by decide) _ _)).trans hp

theorem hbRaise_writes {l : List Fld} (h : R.TWN_CTRL.HB_NOW ∈ l) : WritesOnly l s s.hbRaise := by
  have hp : WritesOnly l (s.wr R.TWN_CTRL.HB_NOW 0) s.hbRaise := writesOnly_of_regs rfl
  exact (writesOnly_wr h (by decide) _ _).trans hp

theorem hbRaise_twin : s.hbRaise.twin = { s.twin with hbReq := true } := rfl

theorem hbRaise_heard : s.hbRaise.heard = s.heard := by
  rw [State.heard, hbRaise_twin]
  rfl

/-- The request for hand-back falls where REVERT is clear. -/
def State.requestDropped : State := s.putTwin { s.twin with hbReq := false }

theorem requestDropped_heard : s.requestDropped.heard = s.heard := by
  rw [State.requestDropped]
  exact heard_putTwin (s := s) rfl rfl rfl

/-- PEER_SYNCED and, out of LISTEN, the way into SHADOW. -/
def State.pollSynced : State :=
  if s.peerSynced && s.mode = 1 && s.leaderImage && s.dev.pendKind = 0 && s.csState ≠ 2 then s.hwPend 3 1 0 else s

/-- Does SYNC read 1? -/
def State.pollSync : Bool :=
  s.mode == 3 && s.rd R.TB_STAT.LOCK_P == 1 && s.twinUp && s.twin.snapMiss < 4 &&
    (s.rd R.TWN_STAT.SYNC == 1 || (8 ≤ s.twin.snapRun && (!s.imageSolves || s.twin.solved)))

/-- READY as SYNC has it. -/
def State.pollReady (sync : Bool) : State := s.setReady (sync && s.unitsFit && s.rd R.TB_STAT.P_RATE_FAULT == 0)

/-- A request that waited is raised. -/
def State.pollRaise : State := if s.mayRevert && s.rd R.TWN_CTRL.HB_NOW = 1 then s.hbRaise else s

/-- A request without REVERT is dropped. -/
def State.pollDrop : State := if s.twin.hbReq && !s.on R.TWN_CFG.REVERT then s.requestDropped else s

/-- The state before the poll judges SYNC. -/
def State.polled : State := (s.wrB R.TWN_STAT.PEER_SYNCED s.peerSynced).pollSynced

/-- SYNC and READY of a poll. -/
def State.polledReady : State := (s.polled.wrB R.TWN_STAT.SYNC s.polled.pollSync).pollReady s.polled.pollSync

theorem twinPoll_eq : s.twinPoll = if !s.twinOn then s else s.polledReady.pollRaise.pollDrop.healthCheck := rfl

theorem pollSynced_writes : WritesOnly pollWrites s s.pollSynced :=
  WritesOnly.ite (writesOnly_hwPend s (by decide) 3 1 0) (WritesOnly.refl s)

theorem pollRaise_writes : WritesOnly pollWrites s s.pollRaise :=
  WritesOnly.ite (hbRaise_writes s (by decide)) (WritesOnly.refl s)

theorem pollDrop_writes : WritesOnly pollWrites s s.pollDrop := WritesOnly.ite (writesOnly_putTwin s _) (WritesOnly.refl s)

theorem polled_writes : WritesOnly pollWrites s s.polled :=
  (writesOnly_wrB (by decide) (by decide) s _).trans (pollSynced_writes _)

theorem polledReady_writes : WritesOnly pollWrites s s.polledReady :=
  ((polled_writes s).trans (writesOnly_wrB (by decide) (by decide) _ _)).trans ((setReady_writes _ _).mono (by decide))

theorem twinPoll_writes : WritesOnly pollWrites s s.twinPoll := by
  rw [twinPoll_eq]
  refine WritesOnly.ite (WritesOnly.refl s) ?_
  exact (((polledReady_writes s).trans (pollRaise_writes _)).trans (pollDrop_writes _)).trans
    (writesOnly_of_regs (healthCheck_regs _))

theorem pollSynced_heard : s.pollSynced.heard = s.heard := ite_to State.heard (heard_congr (hwPend_twin s 3 1 0)) rfl

theorem pollRaise_heard : s.pollRaise.heard = s.heard := ite_to State.heard (hbRaise_heard s) rfl

theorem pollDrop_heard : s.pollDrop.heard = s.heard := ite_to State.heard (requestDropped_heard s) rfl

theorem polledReady_heard : s.polledReady.heard = s.heard := by
  calc s.polledReady.heard
      = (s.polled.wrB R.TWN_STAT.SYNC s.polled.pollSync).heard := setReady_heard _ _
    _ = s.polled.heard := heard_congr (State.wrB_twin _ _ _)
    _ = (s.wrB R.TWN_STAT.PEER_SYNCED s.peerSynced).heard := pollSynced_heard _
    _ = s.heard := heard_congr (State.wrB_twin _ _ _)

theorem twinPoll_heard : s.twinPoll.heard = s.heard := by
  rw [twinPoll_eq]
  refine ite_to State.heard rfl ?_
  rw [healthCheck_heard, pollDrop_heard, pollRaise_heard, polledReady_heard]

/-! ### A granted hand-back as the requester hears it (R375) -/

/-- The hand-back time that was heard. -/
def State.hbHeard (a : Nat) : State := s.putTwin { s.twin with hbAt := a }

/-- A hand-back is pending at a tick. -/
def State.hbWaits (a : Nat) : State := (s.wr R.TWN_STAT.HB_PEND 1).wr R.TWN_HB.HB_AT a

theorem hbRequester_eq (a : Nat) : s.hbRequester a = if s.mode ≠ 3 then s else
    if a = 0 then (if s.twin.hbAt ≠ 0 then (s.hbHeard a).hbCancel else s.hbHeard a)
    else if sub32 a ((s.hbHeard a).hbWaits a).tb.latB ≤ 31250 then ((s.hbHeard a).hbWaits a).wr R.TWN_STAT.HB_FINAL 1
      else (s.hbHeard a).hbWaits a := rfl

theorem hbHeard_writes {l : List Fld} (a : Nat) : WritesOnly l s (s.hbHeard a) := writesOnly_putTwin s _

theorem hbHeard_heard (a : Nat) : (s.hbHeard a).heard = s.heard := by
  rw [State.hbHeard]
  exact heard_putTwin (s := s) rfl rfl rfl

theorem hbWaits_writes (a : Nat) : WritesOnly cancelWrites s (s.hbWaits a) :=
  (writesOnly_wr (by decide) (by decide) _ _).trans (writesOnly_wr (by decide) (by decide) _ _)

theorem hbWaits_heard (a : Nat) : (s.hbWaits a).heard = s.heard :=
  heard_congr (by rw [State.hbWaits, State.wr_twin, State.wr_twin])

theorem hbRequester_writes (a : Nat) : WritesOnly cancelWrites s (s.hbRequester a) := by
  have hw : WritesOnly cancelWrites s ((s.hbHeard a).hbWaits a) := (hbHeard_writes s a).trans (hbWaits_writes _ a)
  rw [hbRequester_eq]
  refine WritesOnly.ite (WritesOnly.refl s) (WritesOnly.ite (WritesOnly.ite ?_ (hbHeard_writes s a)) (WritesOnly.ite ?_ hw))
  · exact (hbHeard_writes s a).trans (hbCancel_writes _)
  · exact hw.trans (writesOnly_wr (by decide) (by decide) _ _)

theorem hbRequester_heard (a : Nat) : (s.hbRequester a).heard = s.heard := by
  have hw : ((s.hbHeard a).hbWaits a).heard = s.heard := (hbWaits_heard _ a).trans (hbHeard_heard s a)
  rw [hbRequester_eq]
  refine ite_to State.heard rfl (ite_to State.heard (ite_to State.heard ?_ (hbHeard_heard s a)) (ite_to State.heard ?_ hw))
  · exact (hbCancel_heard _).trans (hbHeard_heard s a)
  · exact (heard_congr (State.wr_twin _ _ _)).trans hw

/-- A standby grants no hand-back and cancels none as leader. -/
theorem hbLeader_shadow (h : s.mode = 3) : s.hbLeader = s := by
  unfold State.hbLeader
  split
  · rfl
  · simp [h]

end

end Machine

end Sys2Proof
end

section
set_option Elab.async false

namespace Sys2Proof

/-! PROOFS. The messages of the twin link that are taken (R357 to R361). -/

namespace Machine

theorem exec_status (dt lane : Nat) (m : StatusMsg) (s : State) : exec (.status dt lane m) s = execStatus dt lane m s := rfl
theorem exec_time (dt lane : Nat) (m : TimeMsg) (s : State) : exec (.time dt lane m) s = execTime dt lane m s := rfl
theorem exec_snap (dt : Nat) (m : SnapMsg) (s : State) : exec (.snap dt m) s = execSnap dt m s := rfl
theorem exec_solve (dt : Nat) (m : SolveMsg) (s : State) : exec (.solve dt m) s = execSolve dt m s := rfl
theorem exec_model (dt : Nat) (m : ModelMsg) (s : State) : exec (.model dt m) s = execModel dt m s := rfl

section
variable {s u : State} {seq : Nat}

/-- The state with the number of a message noted as seen. -/
def State.noted (s : State) (seq : Nat) : State := s.putTwin { s.twin with seen := seq :: s.twin.seen.take 63 }

/-- A good message with a new number is taken. -/
theorem twinTake_first (ht : u.twinOn = true) (hs : u.twin.seen.contains seq = false) (f : State → State) :
    u.twinTake true seq f = f (u.noted seq) := by
  simp only [State.twinTake, ht, hs, Bool.not_true, Bool.false_eq_true, if_false]
  rfl

/-- A bad message is counted. -/
theorem twinTake_bad (ht : u.twinOn = true) (f : State → State) :
    u.twinTake false seq f = u.bump R.TWN_CNT_C.MSG_ERR R.TWN_FLAGS.MSG_OVF := by
  simp only [State.twinTake, ht, Bool.not_true, Bool.not_false, Bool.false_eq_true, if_false, if_true]

theorem rd_noted (s : State) (seq : Nat) (x : Fld) : (s.noted seq).rd x = s.rd x := rd_putTwin s _ x

theorem mode_noted (s : State) (seq : Nat) : (s.noted seq).mode = s.mode := rd_noted s seq _

theorem lanes_twin {lane : Nat} (h : lane = 8 ∨ lane = 9) : (decide (lane = 8) || decide (lane = 9)) = true := by
  simpa only [Bool.or_eq_true, decide_eq_true_eq] using h

end

/-! ### STATUS (R358) -/

section
variable (s : State) (m : StatusMsg)

/-- The peer as a STATUS shows it, at the present clock. -/
def State.peerHeard : State := s.putTwin { s.twin with peer := some m, statAt := some s.tb.rim }

/-- The registers that show a STATUS. -/
def State.peerShown : State :=
  (((((s.wrB R.TWN_STAT.LINK_UP (s.locked 8 || s.locked 9)).wr R.TWN_STAT.PEER_MODE m.mode).wr R.TWN_STAT.PEER_CLAIM m.claim).wrB
    R.TWN_STAT.PEER_READY (bit m.health 0)).wr R.TWN_PEER_HI.VALUE (m.claimCfg * p2 16 + m.serial / p2 32)).wr
    R.TWN_PEER_LO.VALUE (m.serial % p2 32)

/-- The pair judged by a STATUS: equal claims, and parts that do not match. -/
def State.pairJudged : State :=
  if (if m.claimCfg = s.claimCfg then s.flag R.TWN_FLAGS.PAIR_CLAIM_EQ else s).matched then
    if m.claimCfg = s.claimCfg then s.flag R.TWN_FLAGS.PAIR_CLAIM_EQ else s
  else (if m.claimCfg = s.claimCfg then s.flag R.TWN_FLAGS.PAIR_CLAIM_EQ else s).flag R.TWN_FLAGS.PAIR_MISMATCH

/-- A leader that another outranks surrenders. -/
def State.splitSeen : State :=
  if s.mode = 2 && m.mode = 2 && s.outranked m.claimCfg m.serial && s.claim ≠ 0 then
    (s.flag R.TWN_FLAGS.SPLIT).surrenderNow 0 true
  else s

theorem statusTake_eq : s.statusTake m =
    (((((s.peerHeard m).peerShown m).pairJudged m).splitSeen m).hbRequester m.hbAt).hbLeader.twinPoll := rfl

/-- The fields that show a STATUS. -/
def peerWrites : List Fld :=
  [R.TWN_STAT.LINK_UP, R.TWN_STAT.PEER_MODE, R.TWN_STAT.PEER_CLAIM, R.TWN_STAT.PEER_READY, R.TWN_PEER_HI.VALUE, R.TWN_PEER_LO.VALUE]

theorem peerShown_writes : WritesOnly peerWrites s (s.peerShown m) :=
  (((((writesOnly_wrB (by decide) (by decide) _ _).trans (writesOnly_wr (by decide) (by decide) _ _)).trans
    (writesOnly_wr (by decide) (by decide) _ _)).trans (writesOnly_wrB (by decide) (by decide) _ _)).trans
    (writesOnly_wr (by decide) (by decide) _ _)).trans (writesOnly_wr (by decide) (by decide) _ _)

theorem peerShown_twin : (s.peerShown m).twin = s.twin := by simp [State.peerShown]

theorem rd_peerShown_mode : (s.peerShown m).rd R.TWN_STAT.PEER_MODE = m.mode % 16 := by
  rw [State.peerShown, rd_wr_beside _ _ (by decide) (by decide), rd_wr_beside _ _ (by decide) (by decide),
    rd_wrB_beside _ _ (by decide) (by decide), rd_wr_beside _ _ (by decide) (by decide), rd_wr_direct _ _ (by decide)]
  rfl

theorem rd_peerShown_claim : (s.peerShown m).rd R.TWN_STAT.PEER_CLAIM = m.claim % 65536 := by
  rw [State.peerShown, rd_wr_beside _ _ (by decide) (by decide), rd_wr_beside _ _ (by decide) (by decide),
    rd_wrB_beside _ _ (by decide) (by decide), rd_wr_direct _ _ (by decide)]
  rfl

theorem rd_peerShown_lo : (s.peerShown m).rd R.TWN_PEER_LO.VALUE = m.serial % 4294967296 := by
  rw [State.peerShown, rd_wr_direct _ _ (by decide)]
  exact Nat.mod_mod _ _

/-- The flags by which a STATUS judges the pair. -/
def pairFlags : List Fld := [R.TWN_FLAGS.PAIR_CLAIM_EQ, R.TWN_FLAGS.PAIR_MISMATCH]

theorem pairJudged_writes : WritesOnly pairFlags s (s.pairJudged m) := by
  have he : WritesOnly pairFlags s (if m.claimCfg = s.claimCfg then s.flag R.TWN_FLAGS.PAIR_CLAIM_EQ else s) :=
    WritesOnly.ite (writesOnly_flag (by decide) (by decide) rfl s) (WritesOnly.refl s)
  exact WritesOnly.ite he (he.trans (writesOnly_flag (by decide) (by decide) rfl _))

theorem pairJudged_heard : (s.pairJudged m).heard = s.heard := by
  have he : (if m.claimCfg = s.claimCfg then s.flag R.TWN_FLAGS.PAIR_CLAIM_EQ else s).heard = s.heard :=
    ite_to State.heard (heard_congr (State.flag_twin _ _)) rfl
  exact ite_to State.heard he ((heard_congr (State.flag_twin _ _)).trans he)

theorem splitSeen_shadow (h : s.mode = 3) : s.splitSeen m = s := by
  simp [State.splitSeen, h]

/-- The state of a standby in which a STATUS is shown and the pair is judged. -/
def State.peerTaken : State := ((s.peerHeard m).peerShown m).pairJudged m

theorem peerTaken_writes : WritesOnly (peerWrites ++ pairFlags) s (s.peerTaken m) :=
  ((writesOnly_putTwin s _).trans ((peerShown_writes _ m).mono (by decide))).trans ((pairJudged_writes _ m).mono (by decide))

theorem peerTaken_heard : (s.peerTaken m).heard = (some m, some s.tb.rim, s.twin.timeRx) :=
  (pairJudged_heard _ m).trans (heard_congr (peerShown_twin _ m))

/-- A standby takes a STATUS. -/
theorem statusTake_shadow (h : s.mode = 3) : s.statusTake m = ((s.peerTaken m).hbRequester m.hbAt).twinPoll := by
  have hm : (s.peerTaken m).mode = 3 := (peerTaken_writes s m _ (by decide)).trans h
  have hr : ((s.peerTaken m).hbRequester m.hbAt).mode = 3 := (hbRequester_writes _ _ _ (by decide)).trans hm
  rw [statusTake_eq, ← State.peerTaken, splitSeen_shadow _ m hm, hbLeader_shadow _ hr]

/-- What follows from a STATUS leaves what shows it. -/
theorem rd_statusTake_shadow (h : s.mode = 3) {x : Fld} (hx : (cancelWrites ++ pollWrites ++ pairFlags).all (·.apart x) = true) :
    (s.statusTake m).rd x = ((s.peerHeard m).peerShown m).rd x := by
  have hw : WritesOnly (cancelWrites ++ pollWrites ++ pairFlags) ((s.peerHeard m).peerShown m) (s.statusTake m) := by
    rw [statusTake_shadow s m h]
    exact (((pairJudged_writes _ m).mono (by decide)).trans ((hbRequester_writes _ _).mono (by decide))).trans
      ((twinPoll_writes _).mono (by decide))
  exact hw x hx

theorem statusTake_heard (h : s.mode = 3) : (s.statusTake m).heard = (some m, some s.tb.rim, s.twin.timeRx) := by
  rw [statusTake_shadow s m h, twinPoll_heard, hbRequester_heard, peerTaken_heard]

end

/-! ### TIME (R359) -/

section
variable (s : State)

/-- The state with another record of the time base. -/
def State.putTb (d : TimeBase) : State := { s with tb := d }

theorem putTb_twin (d : TimeBase) : (s.putTb d).twin = s.twin := rfl

theorem rd_putTb (d : TimeBase) (x : Fld) : (s.putTb d).rd x = s.rd x := rd_congr rfl x

theorem dropReq_twin (r : CmtReq) : (State.dropReq r s).twin = s.twin := by
  unfold State.dropReq
  exact (forEach_keeps State.twin (fun h t => State.showPend_twin t h) _).trans (by simp)

theorem stepEffects_twin : s.stepEffects.twin = s.twin := by
  unfold State.stepEffects
  extract_lets cut s1 s2 s3 s4
  have h1 : s1.twin = s.twin := forEach_keeps State.twin (fun r t => dropReq_twin t r) s
  have h2 : s2.twin = s1.twin := ite_to State.twin rfl (State.flag_twin _ _)
  have h3 : s3.twin = s2.twin := forEach_keeps State.twin (fun _ _ => by simp) s2
  have h4 : s4.twin = s3.twin := forEach_keeps State.twin (fun _ _ => by simp) s3
  exact h4.trans (h3.trans (h2.trans h1))

theorem setLattice_twin (b k : Nat) : (s.setLattice b k).twin = s.twin := by simp [State.setLattice]

theorem stepF_twin (x : Int) : (s.stepF x).twin = s.twin := by
  have he : s.stepF x = (s.putAcc (unsx 64 ((s.acc : Int) + x))).stepEffects.setLattice s.tb.latB s.baseK := by
    simp only [State.stepF, State.putAcc]
  rw [he, setLattice_twin, stepEffects_twin]
  exact ite_to State.twin rfl rfl

theorem servo_twin (p : Bool) (e ts : Rat) : (s.servo p e ts).twin = s.twin := by
  cases p <;> simp [State.servo]

/-- The time base after an offset sample of the link. -/
def State.sampled (d : Int) (ws : Nat) : State :=
  if s.rd R.TB_CTRL.P_SRC ≠ 1 && !(s.rd R.TB_STAT.LOCK_P == 1) then
    if s.tb.actP then s.stepF (d * p2 16)
    else s.putTb { s.tb with accP := unsx 64 ((s.tb.accP : Int) + d * p2 16), wseqP := ws }
  else s.servo true ((d : Rat) / 65536) 31250

/-- The wrap count of the link is taken where domain P locks first. -/
def State.lockNoted (was : Bool) (ws : Nat) : State :=
  if s.rd R.TB_STAT.LOCK_P = 1 && !was && !s.tb.pOnce then s.putTb { s.tb with wseqP := ws, pOnce := true } else s

theorem timeSample_eq (m : TimeMsg) (ld : Int) : ∃ d ws, s.timeSample m ld =
    (((s.sampled d ws).wr R.TB_CTRL.P_SRC 1).lockNoted (s.rd R.TB_STAT.LOCK_P == 1) ws).pRateCheck := ⟨_, _, rfl⟩

theorem sampled_twin (d : Int) (ws : Nat) : (s.sampled d ws).twin = s.twin :=
  ite_to State.twin (ite_to State.twin (stepF_twin s _) (putTb_twin s _)) (servo_twin s true _ _)

theorem lockNoted_twin (was : Bool) (ws : Nat) : (s.lockNoted was ws).twin = s.twin := ite_to State.twin (putTb_twin s _) rfl

theorem rd_lockNoted (was : Bool) (ws : Nat) (x : Fld) : (s.lockNoted was ws).rd x = s.rd x :=
  ite_to (State.rd · x) (rd_putTb s _ x) rfl

theorem pRateCheck_twin : s.pRateCheck.twin = s.twin := ite_to State.twin (State.flag_twin s _) rfl

theorem pRateCheck_writes : WritesOnly [R.TB_STAT.P_RATE_FAULT] s s.pRateCheck :=
  WritesOnly.ite (writesOnly_flag (by decide) (by decide) rfl s) (WritesOnly.refl s)

/-- An offset sample names the link as the source of domain P and leaves what was heard (R359). -/
theorem timeSample_spec (m : TimeMsg) (ld : Int) : (s.timeSample m ld).twin = s.twin ∧ (s.timeSample m ld).rd R.TB_CTRL.P_SRC = 1 := by
  obtain ⟨d, ws, he⟩ := timeSample_eq s m ld
  rw [he]
  constructor
  · rw [pRateCheck_twin, lockNoted_twin, State.wr_twin, sampled_twin]
  · rw [pRateCheck_writes _ R.TB_CTRL.P_SRC (by decide), rd_lockNoted, rd_wr_direct _ _ (by decide)]
    rfl

/-- The time of a message, and when it came. -/
def State.timeHeard (m : TimeMsg) (l : Nat) : State := s.putTwin { s.twin with timeRx := some (m.tTx, l) }

/-- A TIME message is taken. -/
def State.timeTake (m : TimeMsg) (l : Nat) (ld : Int) : State := ((s.timeHeard m l).timeSample m ld).twinPoll

theorem timeRx_of_heard {t : State} (h : t.heard = s.heard) : t.twin.timeRx = s.twin.timeRx := congrArg (fun x => x.2.2) h

theorem timeTake_spec (m : TimeMsg) (l : Nat) (ld : Int) :
    (s.timeTake m l ld).twin.timeRx = some (m.tTx, l) ∧ (s.timeTake m l ld).rd R.TB_CTRL.P_SRC = 1 := by
  obtain ⟨htwin, hsrc⟩ := timeSample_spec (s.timeHeard m l) m ld
  have hheard : (s.timeTake m l ld).heard = (s.timeHeard m l).heard := (twinPoll_heard _).trans (heard_congr htwin)
  exact ⟨(timeRx_of_heard _ hheard).trans rfl, (twinPoll_writes _ _ (by decide)).trans hsrc⟩

/-- The delay of a lane as an echo gives it. -/
def State.echoShown (ok : Bool) (lane v : Nat) : State :=
  if ok then (if lane = 8 then s.wrU R.TWN_LINK.LINK_D8 v else s.wrU R.TWN_LINK.LINK_D9 v) else s

theorem echoShown_writes (ok : Bool) (lane v : Nat) : WritesOnly [R.TWN_LINK.LINK_D8, R.TWN_LINK.LINK_D9] s (s.echoShown ok lane v) :=
  WritesOnly.ite (WritesOnly.ite (writesOnly_wr (by decide) (by decide) s _) (writesOnly_wr (by decide) (by decide) s _))
    (WritesOnly.refl s)

end

section
variable {s u : State}

theorem twinOn_of {t : State} (ha : t.alive = u.alive) (ht : t.tb = u.tb) (hw : t.mode = u.mode)
    (he : t.rd R.TWN_CFG.EN = u.rd R.TWN_CFG.EN) : t.twinOn = u.twinOn := by
  rw [State.twinOn, State.twinOn, ha, ht, hw, he]

theorem execTime_eq (hu : u = s.after dt) (m : TimeMsg) (h : lane = 8 ∨ lane = 9) : ∃ ok v ld,
    exec (.time dt lane m) s = .next ((u.echoShown ok lane v).twinTake m.crcOk m.seq
      fun t => t.timeTake m (u.tb.accL / p2 16 % p2 48) ld) := by
  rw [exec_time, execTime, ← hu, lanes_twin h, needs_true]
  exact ⟨_, _, _, rfl⟩

end

end Machine

end Sys2Proof
end

section
set_option Elab.async false

namespace Sys2Proof

/-! PROOFS. What the messages of the twin link settle (R357 to R361). -/

namespace Machine

section
variable (s : State)

/-! ### The words of a MODEL (R360) -/

/-- Stored bytes leave the bytes outside theirs. -/
theorem mem8_putBytes_outside (s : State) (sp : Nat) {a b : Nat} (l : List Nat) (h : b < a ∨ a + l.length ≤ b) :
    (s.putBytes sp a l).mem8 sp b = s.mem8 sp b := by
  induction l generalizing s a with
  | nil => rfl
  | cons x l ih =>
    rw [List.length_cons] at h
    rw [State.putBytes, ih _ (by omega), mem8_putMem8_other s sp x (by omega)]

/-- A stored word leaves the bytes of the other words. -/
theorem mem8_putMem32_other (sp : Nat) {o b : Nat} (v : Nat) (ho : o % 4 = 0) (h : b / 4 ≠ o / 4) :
    (s.putMem32 sp o v).mem8 sp b = s.mem8 sp b := by
  have hlen : (leBytes 4 v).length = 4 := rfl
  exact mem8_putBytes_outside s sp _ (by omega)

/-! ### Anchors and the record of the link -/

theorem rgAnchor_putTwin (d : Twin) (g : Nat) : (s.putTwin d).rgAnchor g = s.rgAnchor g := rfl

theorem solveAnchor_putTwin (d : Twin) : (s.putTwin d).solveAnchor = s.solveAnchor := rfl

end

section
variable {s u : State} {dt lane : Nat}

/-- A standby takes a new STATUS (R358). -/
theorem status_taken {m : StatusMsg} (hu : u = s.after dt) (hl : lane = 8 ∨ lane = 9) (ht : u.twinOn = true) (hc : m.crcOk = true)
    (hs : u.twin.seen.contains m.seq = false) :
    exec (.status dt lane m) s = .next ((u.noted m.seq).statusTake m) := by
  rw [exec_status, execStatus, ← hu, lanes_twin hl, needs_true, hc, twinTake_first ht hs]

/-- A STATUS with a bad CRC is counted (R357). -/
theorem status_bad {m : StatusMsg} (hu : u = s.after dt) (hl : lane = 8 ∨ lane = 9) (ht : u.twinOn = true) (hc : m.crcOk = false) :
    exec (.status dt lane m) s = .next (u.bump R.TWN_CNT_C.MSG_ERR R.TWN_FLAGS.MSG_OVF) := by
  rw [exec_status, execStatus, ← hu, lanes_twin hl, needs_true, hc, twinTake_bad ht]

theorem peer_of_heard {p : StatusMsg} {a : Option Nat} {x : Option (Nat × Nat)} (h : s.heard = (some p, a, x)) : s.twin.peer = some p :=
  congrArg (fun y => y.1) h

theorem statAt_of_heard {p : Option StatusMsg} {a : Option Nat} {x : Option (Nat × Nat)} (h : s.heard = (p, a, x)) : s.twin.statAt = a :=
  congrArg (fun y => y.2.1) h

/-- A new TIME is taken (R359). -/
theorem time_taken {m : TimeMsg} (hu : u = s.after dt) (hl : lane = 8 ∨ lane = 9) (ht : u.twinOn = true) (hc : m.crcOk = true)
    (hs : u.twin.seen.contains m.seq = false) : ∃ w ld,
    exec (.time dt lane m) s = .next (State.timeTake w m (u.tb.accL / p2 16 % p2 48) ld) := by
  obtain ⟨ok, v, ld, he⟩ := execTime_eq hu m hl
  have hw := echoShown_writes u ok lane v
  have hon : (u.echoShown ok lane v).twinOn = true := by
    refine (twinOn_of ?_ ?_ (hw _ (by decide)) (hw _ (by decide))).trans ht
    · exact ite_to State.alive (ite_to State.alive (by simp [State.alive]) (by simp [State.alive])) rfl
    · exact ite_to State.tb (ite_to State.tb (State.wrU_tb _ _ _) (State.wrU_tb _ _ _)) rfl
  have htwin : (u.echoShown ok lane v).twin = u.twin :=
    ite_to State.twin (ite_to State.twin (State.wrU_twin _ _ _) (State.wrU_twin _ _ _)) rfl
  exact ⟨_, ld, by rw [he, hc, twinTake_first hon (htwin ▸ hs)]⟩

/-- A new SNAP that is not behind its phase waits for it (R361). -/
theorem snap_taken {m : SnapMsg} (hu : u = s.after dt) (ht : u.twinOn = true) (hc : m.crcOk = true)
    (hs : u.twin.seen.contains m.seq = false) (hm : u.mode = 3) (ha : 0 ≤ sx 32 (sub32 m.phase (u.rgAnchor 0))) :
    exec (.snap dt m) s = .next ((u.noted m.seq).putTwin { (u.noted m.seq).twin with snap := some m }) := by
  have hb : (decide ((u.noted m.seq).mode = 3) && decide (0 ≤ sx 32 (sub32 m.phase ((u.noted m.seq).rgAnchor 0)))) = true := by
    rw [mode_noted, State.noted, rgAnchor_putTwin, decide_eq_true hm, decide_eq_true ha, Bool.and_self]
  rw [exec_snap, execSnap, ← hu, hc, twinTake_first ht hs]
  exact congrArg Host.Outcome.next (if_pos hb)

/-- A new SOLVE that is not behind its phase waits for it (R361). -/
theorem solve_taken {m : SolveMsg} (hu : u = s.after dt) (ht : u.twinOn = true) (hc : m.crcOk = true)
    (hs : u.twin.seen.contains m.seq = false) (hm : u.mode = 3) (ha : 0 ≤ sx 32 (sub32 m.phase u.solveAnchor)) :
    exec (.solve dt m) s = .next ((u.noted m.seq).putTwin { (u.noted m.seq).twin with solve := some m }) := by
  have hb : (decide ((u.noted m.seq).mode = 3) && decide (0 ≤ sx 32 (sub32 m.phase (u.noted m.seq).solveAnchor))) = true := by
    rw [mode_noted, State.noted, solveAnchor_putTwin, decide_eq_true hm, decide_eq_true ha, Bool.and_self]
  rw [exec_solve, execSolve, ← hu, hc, twinTake_first ht hs]
  exact congrArg Host.Outcome.next (if_pos hb)

/-- The writes of a MODEL in the space of the model and the delta queue. -/
def State.modelWrites (s : State) (l : List (Nat × Nat)) : State :=
  forEach l (fun w s => if w.1 = 0x90000 then s.dqWrite w.2 else s.putMem32 3 (w.1 / 4 * 4) w.2) s

/-- A new MODEL makes its writes, and its COMMIT waits (R360). -/
theorem model_taken {m : ModelMsg} (hu : u = s.after dt) (ht : u.twinOn = true) (hc : m.crcOk = true)
    (hs : u.twin.seen.contains m.seq = false) (hm : u.mode = 3) :
    exec (.model dt m) s = .next (match m.commit with
      | some _ => ((u.noted m.seq).modelWrites m.writes).putTwin
          { ((u.noted m.seq).modelWrites m.writes).twin with models := ((u.noted m.seq).modelWrites m.writes).twin.models ++ [m] }
      | none => (u.noted m.seq).modelWrites m.writes) := by
  have hb : (decide ((u.noted m.seq).mode = 3) || decide ((u.noted m.seq).mode = 1)) = true := by
    rw [mode_noted, decide_eq_true hm, Bool.true_or]
  rw [exec_model, execModel, ← hu, hc, twinTake_first ht hs]
  refine congrArg Host.Outcome.next ((if_pos hb).trans ?_)
  cases m.commit <;> rfl

end

end Machine

open Machine

/-- Settles O30: a STATUS writes what shows the peer, and the bookkeeping of the pair after it writes other fields; the other messages are kept as they come. -/
theorem twinMessagesAreTaken : Obligations.TwinMessagesAreTaken := by
  unfold Obligations.TwinMessagesAreTaken
  refine ⟨?_, ?_, ?_, ?_, ?_, ?_, ?_⟩
  · intro s dt u lane m hu hl ht hc hs hm
    have hmode : (u.noted m.seq).mode = 3 := (mode_noted u _).trans hm
    have hheard := statusTake_heard (u.noted m.seq) m hmode
    refine ⟨_, status_taken hu hl ht hc hs, peer_of_heard hheard, ?_, ?_, ?_, statAt_of_heard hheard⟩
    · exact (rd_statusTake_shadow _ m hmode (by decide)).trans (rd_peerShown_mode _ m)
    · exact (rd_statusTake_shadow _ m hmode (by decide)).trans (rd_peerShown_claim _ m)
    · exact (rd_statusTake_shadow _ m hmode (by decide)).trans (rd_peerShown_lo _ m)
  · intro s dt u lane m hu hl ht hc hn
    exact ⟨_, status_bad hu hl ht hc, rd_bump_direct u (by decide) (by decide) rfl (by decide) (Nat.lt_of_lt_of_le hn (by decide)),
      State.bump_twin _ _ _⟩
  · intro s dt u lane m hu hl ht hc hs
    obtain ⟨w, ld, he⟩ := time_taken hu hl ht hc hs
    exact ⟨_, he, timeTake_spec w m _ ld⟩
  · intro s dt u m hu ht hc hs hm ha
    exact ⟨_, snap_taken hu ht hc hs hm ha, rfl, rfl, rfl⟩
  · intro s dt u m hu ht hc hs hm ha
    exact ⟨_, solve_taken hu ht hc hs hm ha, rfl, rfl, rfl⟩
  · intro s dt u m x hu ht hc hs hm hw hx
    refine ⟨_, model_taken hu ht hc hs hm, ?_⟩
    rw [hw, hx]
    exact ⟨rfl, rfl⟩
  · intro s dt u m o v hu ht hc hs hm hw hx ho ho4 hv
    have hword : o / 4 * 4 = o := by omega
    have hone : (u.noted m.seq).modelWrites [(o, v)] = (u.noted m.seq).putMem32 3 o v :=
      (if_neg (Nat.ne_of_lt ho)).trans (by rw [hword])
    refine ⟨_, model_taken hu ht hc hs hm, ?_⟩
    rw [hw, hx]
    dsimp only
    rw [hone]
    refine ⟨?_, State.putMem32_regs _ _ _ _, fun a _ ha => mem8_putMem32_other _ 3 v ho4 ha⟩
    exact (mem32_putMem32_same _ _ _ _).trans (Nat.mod_eq_of_lt hv)

end Sys2Proof
end

section
set_option Elab.async false

namespace Sys2Proof

/-! PROOFS. Loss of the twin link, take-over and hand-back (R363, R370, R374, R375). -/

namespace Machine

theorem exec_twinLinkDown (dt : Nat) (s : State) : exec (.twinLinkDown dt) s = execTwinLinkDown dt s := rfl
theorem exec_takeover (dt ch : Nat) (s : State) : exec (.takeover dt ch) s = execTakeover dt ch s := rfl
theorem exec_holdoffEnd (s : State) : exec .holdoffEnd s = execHoldoffEnd s := rfl
theorem exec_hbNow (dt : Nat) (src : Src) (v : Nat) (s : State) : exec (.hbNow dt src v) s = execHbNow dt src v s := rfl

/-! ### TWIN_LINK_DOWN (R363) -/

section
variable (s : State)

/-- What shows the peer after the loss of the link. -/
def State.linkLost : State :=
  (((((s.wr R.TWN_STAT.LINK_UP 0).wr R.TWN_STAT.PEER_SYNCED 0).wr R.TWN_STAT.PEER_MODE 0xF).wr R.TWN_STAT.PEER_CLAIM 0).wr
    R.TWN_STAT.PEER_READY 0).flag R.TWN_FLAGS.PEER_LOST

/-- Domain P leaves the link as its source. -/
def State.srcLeft : State :=
  if s.rd R.TB_CTRL.P_SRC = 1 then s.wr R.TB_CTRL.P_SRC (if s.mode = 3 && s.ring.steer.isSome then 2 else 3) else s

/-- A hand-back that is not final ends. -/
def State.grantLost : State := if s.rd R.TWN_STAT.HB_PEND = 1 && s.rd R.TWN_STAT.HB_FINAL = 0 then s.hbCancel else s

/-- The way into SHADOW ends. -/
def State.shadowLost : State := if s.dev.pendKind = 1 && s.rd R.MOD_STATE.PEND = 3 then s.clearPend else s

/-- What the loss of the link leaves on record. -/
def State.lossNoted (ready : Bool) : State :=
  s.putTwin { s.twin with lost := s.mode == 3, wasReady := ready && s.mode == 3, hbAt := 0 }

/-- The loss of the link, from the state with its lanes out of lock. -/
def State.linkDown (ready : Bool) : State := (s.linkLost.srcLeft.grantLost.twinUnsync.shadowLost.lossNoted ready).healthCheck

variable {s} {u : State} {dt : Nat}

theorem exec_twinLinkDown_up (hu : u = s.after dt) (ht : u.twinOn = true) (hup : u.twinUp = true) : ∃ w ready,
    exec (.twinLinkDown dt) s = .next (State.linkDown w ready) := by
  rw [exec_twinLinkDown, execTwinLinkDown, ← hu, ht, hup]
  exact ⟨_, _, congrArg Host.Outcome.next (if_pos rfl)⟩

end

section
variable (s : State)

/-- The registers of a link out of step. -/
def unsyncWrites : List Fld := [R.TWN_STAT.SYNC, R.TWN_STAT.READY, R.TWN_CTRL.HB_NOW]

/-- The record of a link out of step. -/
def State.unsynced : State :=
  s.putTwin { s.twin with snapRun := 0, snapMiss := 0, solved := false, readyAt := none, hbReq := false }

theorem twinUnsync_eq : s.twinUnsync = ((s.wr R.TWN_STAT.SYNC 0).wr R.TWN_STAT.READY 0).unsynced.wr R.TWN_CTRL.HB_NOW 0 := rfl

theorem rd_unsynced (x : Fld) : s.unsynced.rd x = s.rd x := rd_putTwin s _ x

theorem twinUnsync_writes : WritesOnly unsyncWrites s s.twinUnsync := by
  rw [twinUnsync_eq]
  exact (((writesOnly_wr (by decide) (by decide) _ _).trans (writesOnly_wr (by decide) (by decide) _ _)).trans
    (writesOnly_putTwin _ _)).trans (writesOnly_wr (by decide) (by decide) _ _)

theorem rd_twinUnsync_sync : s.twinUnsync.rd R.TWN_STAT.SYNC = 0 := by
  rw [twinUnsync_eq, rd_wr_beside _ _ (by decide) (by decide), rd_unsynced, rd_wr_beside _ _ (by decide) (by decide),
    rd_wr_direct _ _ (by decide)]
  rfl

theorem rd_twinUnsync_ready : s.twinUnsync.rd R.TWN_STAT.READY = 0 := by
  rw [twinUnsync_eq, rd_wr_beside _ _ (by decide) (by decide), rd_unsynced, rd_wr_direct _ _ (by decide)]
  rfl

theorem srcLeft_writes : WritesOnly [R.TB_CTRL.P_SRC] s s.srcLeft :=
  WritesOnly.ite (writesOnly_wr (by decide) (by decide) s _) (WritesOnly.refl s)

theorem grantLost_writes : WritesOnly cancelWrites s s.grantLost := WritesOnly.ite (hbCancel_writes s) (WritesOnly.refl s)

theorem shadowLost_writes : WritesOnly [R.MOD_STATE.PEND] s s.shadowLost :=
  WritesOnly.ite (writesOnly_clearPend s (by decide)) (WritesOnly.refl s)

/-- The end of a loss writes PEND alone. -/
theorem lossEnd_writes (ready : Bool) : WritesOnly [R.MOD_STATE.PEND] s (s.shadowLost.lossNoted ready).healthCheck :=
  ((shadowLost_writes s).trans (writesOnly_putTwin _ _)).trans (writesOnly_of_regs (healthCheck_regs _))

/-- What follows the loss leaves what shows the peer. -/
theorem linkDown_writes (ready : Bool) :
    WritesOnly (R.TB_CTRL.P_SRC :: cancelWrites ++ unsyncWrites) s.linkLost (s.linkDown ready) := by
  have hsrc := (srcLeft_writes s.linkLost).mono (l := R.TB_CTRL.P_SRC :: cancelWrites ++ unsyncWrites) (by decide)
  exact ((hsrc.trans ((grantLost_writes _).mono (by decide))).trans ((twinUnsync_writes _).mono (by decide))).trans
    ((lossEnd_writes _ ready).mono (by decide))

theorem rd_linkLost_up : s.linkLost.rd R.TWN_STAT.LINK_UP = 0 := by
  rw [State.linkLost, rd_flag_beside _ (by decide) rfl (by decide), rd_wr_beside _ _ (by decide) (by decide),
    rd_wr_beside _ _ (by decide) (by decide), rd_wr_beside _ _ (by decide) (by decide), rd_wr_beside _ _ (by decide) (by decide),
    rd_wr_direct _ _ (by decide)]
  rfl

theorem rd_linkLost_synced : s.linkLost.rd R.TWN_STAT.PEER_SYNCED = 0 := by
  rw [State.linkLost, rd_flag_beside _ (by decide) rfl (by decide), rd_wr_beside _ _ (by decide) (by decide),
    rd_wr_beside _ _ (by decide) (by decide), rd_wr_beside _ _ (by decide) (by decide), rd_wr_direct _ _ (by decide)]
  rfl

theorem rd_linkLost_mode : s.linkLost.rd R.TWN_STAT.PEER_MODE = 15 := by
  rw [State.linkLost, rd_flag_beside _ (by decide) rfl (by decide), rd_wr_beside _ _ (by decide) (by decide),
    rd_wr_beside _ _ (by decide) (by decide), rd_wr_direct _ _ (by decide)]
  rfl

theorem rd_linkLost_ready : s.linkLost.rd R.TWN_STAT.PEER_READY = 0 := by
  rw [State.linkLost, rd_flag_beside _ (by decide) rfl (by decide), rd_wr_direct _ _ (by decide)]
  rfl

theorem rd_linkLost_flag : s.linkLost.rd R.TWN_FLAGS.PEER_LOST = 1 := rd_flag_direct _ (by decide) rfl

end

/-! ### TAKEOVER (R370) -/

section
variable (s : State)

/-- The channels that the standby is to lead with nodes. -/
def State.ledChannels : List Nat := [0, 1].filter fun c => s.role c == 1 && s.nNodes c != 0

/-- The channels lead from a cycle on, and the peer is no longer lost. -/
def State.leadsFrom (t : Nat) : State :=
  let w : State := forEach s.ledChannels (fun c w => w.modChan c fun x => { x with go := some t }) s
  w.putTwin { w.twin with lost := false }

/-- The mode that follows a take-over: SERVICE where the peer was in it, else LEAD. -/
def State.nextLead : Nat := match s.twin.peer with | some p => if bit p.health 2 then 6 else 2 | none => 2

/-- The instant of a take-over. -/
def State.leadAt : Nat := add32 s.now s.tkoLead

theorem ledChannels_none (h0 : s.role 0 ≠ 1) (h1 : s.role 1 ≠ 1) : s.ledChannels = [] := by
  simp [State.ledChannels, h0, h1]

/-- Where channel 0 is led with nodes, it comes first. -/
theorem ledChannels_first (h0 : s.role 0 = 1) (hn : s.nNodes 0 ≠ 0) : s.ledChannels = [0] ∨ s.ledChannels = [0, 1] := by
  by_cases h1 : s.role 1 = 1 ∧ s.nNodes 1 ≠ 0 <;> simp [State.ledChannels, h0, hn, h1]

theorem leadsFrom_go (t : Nat) (h0 : s.role 0 = 1) (hn : s.nNodes 0 ≠ 0) : ((s.leadsFrom t).chan 0).go = some t := by
  have hgo : ((forEach s.ledChannels (fun c w => w.modChan c fun x => { x with go := some t }) s).chan 0).go = some t := by
    rcases ledChannels_first s h0 hn with h | h
    · rw [h, forEach, forEach, chan_modChan_same]
    · rw [h, forEach, forEach, forEach, chan_modChan_other _ _ (by decide), chan_modChan_same]
  exact hgo

theorem leadsFrom_lost (t : Nat) : (s.leadsFrom t).twin.lost = false := rfl

theorem rd_hwPend_pend {m : Nat} (h : m < 16) (k a : Nat) : (s.hwPend m k a).rd R.MOD_STATE.PEND = m := rd_setPend_pend _ h k a

theorem hwPend_kind (m k a : Nat) : (s.hwPend m k a).dev.pendKind = k := by
  rw [State.hwPend, setPend_dev]

theorem hwPend_chan (m k a c : Nat) : (s.hwPend m k a).chan c = s.chan c :=
  chan_congr (by simp [State.hwPend, State.setPend, State.trigger]) c

end

section
variable {s u : State} {dt ch : Nat}

theorem twinUp_of_yields (h : u.peerYields = true) : u.twinUp = true := by
  unfold State.peerYields at h
  exact (Bool.and_eq_true_iff.mp h).1

/-- A standby whose peer yields takes over, where READY and a matched state allow it. -/
theorem exec_takeover_due (hu : u = s.after dt) (hch : isCh ch = true) (ht : u.twinOn = true) (hm : u.mode = 3)
    (hp : u.rd R.MOD_STATE.PEND = 15) (hy : u.peerYields = true) :
    exec (.takeover dt ch) s = .next (
      if !(u.rd R.TWN_STAT.READY == 1) || !u.matched then u.flag R.TWN_FLAGS.TKO_REFUSED
      else if u.ledChannels.isEmpty then (u.leadsFrom u.leadAt).hwPend u.nextLead 1 0
      else (u.leadsFrom u.leadAt).hwPend u.nextLead 2 (sub32 u.leadAt 1)) := by
  have hgo : (u.twinOn && decide (u.mode = 3) && !(u.rd R.MOD_STATE.PEND == 2 || u.rd R.MOD_STATE.PEND == 6) &&
      (u.peerYields || u.frameMissing ch)) = true := by
    rw [ht, decide_eq_true hm, hp, hy]
    rfl
  rw [exec_takeover, execTakeover, ← hu, hch, needs_true]
  refine congrArg Host.Outcome.next ((if_pos hgo).trans ?_)
  rw [twinUp_of_yields hy]
  rfl

theorem takeover_refused (hu : u = s.after dt) (hch : isCh ch = true) (ht : u.twinOn = true) (hm : u.mode = 3)
    (hp : u.rd R.MOD_STATE.PEND = 15) (hy : u.peerYields = true) (hr : u.rd R.TWN_STAT.READY = 0) :
    exec (.takeover dt ch) s = .next (u.flag R.TWN_FLAGS.TKO_REFUSED) := by
  rw [exec_takeover_due hu hch ht hm hp hy, if_pos (by rw [hr]; rfl)]

/-- A ready standby of a matched pair leads. -/
theorem takeover_leads (hu : u = s.after dt) (hch : isCh ch = true) (ht : u.twinOn = true) (hm : u.mode = 3)
    (hp : u.rd R.MOD_STATE.PEND = 15) (hy : u.peerYields = true) (hr : u.rd R.TWN_STAT.READY = 1) (ha : u.matched = true) :
    exec (.takeover dt ch) s = .next (if u.ledChannels.isEmpty then (u.leadsFrom u.leadAt).hwPend u.nextLead 1 0
      else (u.leadsFrom u.leadAt).hwPend u.nextLead 2 (sub32 u.leadAt 1)) := by
  rw [exec_takeover_due hu hch ht hm hp hy, if_neg (by rw [hr, ha]; decide)]

theorem nextLead_lead {p : StatusMsg} (hp : u.twin.peer = some p) (hb : bit p.health 2 = false) : u.nextLead = 2 := by
  rw [State.nextLead, hp]
  exact if_neg (by rw [hb]; decide)

end

/-! ### HOLDOFF_END (R374) -/

section
variable {s u : State} {r : Nat}

theorem exec_holdoffEnd_raises (hu : u = s.runRim (r + s.holdoff)) (hr : s.twin.readyAt = some r) (ht : s.twinOn = true)
    (hq : s.twin.hbReq = false) (hm : s.mayRevert = true) : exec .holdoffEnd s = .next u.hbRaise.healthCheck := by
  rw [exec_holdoffEnd, execHoldoffEnd, hr, hu]
  exact congrArg Host.Outcome.next (if_pos (by rw [ht, hq, hm]; rfl))

theorem hbReq_healthCheck (t : State) : t.healthCheck.twin.hbReq = t.twin.hbReq := by
  obtain ⟨q, h, he⟩ := healthCheck_twin t
  rw [he]

theorem hbRaise_eq (t : State) : t.hbRaise = (t.wr R.TWN_CTRL.HB_NOW 0).putTwin { t.twin with hbReq := true } := rfl

theorem rd_hbRaise_now (t : State) : t.hbRaise.rd R.TWN_CTRL.HB_NOW = 0 := by
  rw [hbRaise_eq, rd_putTwin, rd_wr_direct _ _ (by decide)]
  rfl

end

/-! ### HB_NOW (R374, R375) -/

section
variable (s : State)

/-- The active copy of REVERT. -/
def activeRevert : Fld := { R.TWN_CFG.REVERT with addr := R.TWN_CFG.REVERT.addr + barSize, sh := false }

theorem act_revert : s.act R.TWN_CFG.REVERT = s.rd activeRevert := rfl

/-- The fields that the poll writes before it judges READY, and SYNC. -/
def syncWrites : List Fld := [R.TWN_STAT.PEER_SYNCED, R.MOD_STATE.PEND, R.TWN_STAT.SYNC]

theorem polledSync_writes : WritesOnly syncWrites s (s.polled.wrB R.TWN_STAT.SYNC s.polled.pollSync) :=
  ((writesOnly_wrB (by decide) (by decide) s _).trans
    (WritesOnly.ite (writesOnly_hwPend _ (by decide) 3 1 0) (WritesOnly.refl _))).trans (writesOnly_wrB (by decide) (by decide) _ _)

theorem rd_readyFalls : s.readyFalls.rd R.TWN_STAT.READY = 0 := by
  rw [State.readyFalls, rd_putTwin, rd_wr_beside _ _ (by decide) (by decide), rd_wrB_direct _ _ (by decide) rfl]
  rfl

/-- Where READY stays, HB_NOW does. -/
theorem setReady_stays (x : Bool) (h : (s.setReady x).rd R.TWN_STAT.READY = 1) :
    (s.setReady x).rd R.TWN_CTRL.HB_NOW = s.rd R.TWN_CTRL.HB_NOW := by
  cases x with
  | false =>
    rw [setReady_false] at h ⊢
    split at h
    · rw [rd_readyFalls] at h
      cases h
    · contradiction
  | true =>
    rw [setReady_true]
    refine ite_to (State.rd · R.TWN_CTRL.HB_NOW) rfl ?_
    rw [State.readyRises, rd_putTwin, rd_wrB_beside _ _ (by decide) (by decide)]

/-- Where READY stays through a poll, HB_NOW does until the request is judged. -/
theorem polledReady_stays (h : s.polledReady.rd R.TWN_STAT.READY = 1) : s.polledReady.rd R.TWN_CTRL.HB_NOW = s.rd R.TWN_CTRL.HB_NOW :=
  (setReady_stays _ _ h).trans (polledSync_writes s _ (by decide))

/-- A request that is raised is not dropped while REVERT is set. -/
theorem pollDrop_revert (h : s.on R.TWN_CFG.REVERT = true) : s.pollDrop = s := if_neg (by rw [h]; simp)

/-- What follows the judgement of a request writes no register. -/
theorem rd_pollEnd (x : Fld) : s.pollDrop.healthCheck.rd x = s.rd x :=
  (rd_healthCheck _ x).trans (ite_to (State.rd · x) (rd_putTwin s _ x) rfl)

theorem on_revert_congr {t : State} (h : t.rd activeRevert = s.rd activeRevert) : t.on R.TWN_CFG.REVERT = s.on R.TWN_CFG.REVERT := by
  rw [State.on, State.on, act_revert, act_revert, h]

/-- A request that waits is raised, or goes on waiting. -/
theorem pollRaise_request (hn : s.rd R.TWN_CTRL.HB_NOW = 1) :
    s.pollRaise.rd R.TWN_CTRL.HB_NOW = 1 ∨ s.pollRaise.twin.hbReq = true := by
  unfold State.pollRaise
  split
  · exact .inr (congrArg Twin.hbReq (hbRaise_twin s))
  · exact .inl hn

/-- A request that was written and is not lost with READY waits, or has been raised. -/
theorem polled_request (hn : s.rd R.TWN_CTRL.HB_NOW = 1) (hr : s.twinPoll.rd R.TWN_STAT.READY = 1)
    (hv : s.twinPoll.on R.TWN_CFG.REVERT = true) : s.twinPoll.rd R.TWN_CTRL.HB_NOW = 1 ∨ s.twinPoll.twin.hbReq = true := by
  cases ht : s.twinOn with
  | false =>
    have hid : s.twinPoll = s := (twinPoll_eq s).trans (if_pos (by rw [ht]; rfl))
    rw [hid]
    exact .inl hn
  | true =>
    have hpoll : s.twinPoll = s.polledReady.pollRaise.pollDrop.healthCheck := (twinPoll_eq s).trans (if_neg (by rw [ht]; decide))
    rw [hpoll] at hr hv ⊢
    have hraise : WritesOnly [R.TWN_CTRL.HB_NOW] s.polledReady s.polledReady.pollRaise :=
      WritesOnly.ite (hbRaise_writes _ (by decide)) (WritesOnly.refl _)
    have hready : s.polledReady.rd R.TWN_STAT.READY = 1 := by
      rw [← hraise _ (by decide), ← rd_pollEnd]
      exact hr
    have hnow : s.polledReady.rd R.TWN_CTRL.HB_NOW = 1 := (polledReady_stays s hready).trans hn
    have hon : s.polledReady.pollRaise.on R.TWN_CFG.REVERT = true := by
      rw [← on_revert_congr _ (rd_pollEnd _ activeRevert)]
      exact hv
    rw [rd_pollEnd, hbReq_healthCheck, pollDrop_revert _ hon]
    exact pollRaise_request _ hnow

/-- Without a twin nothing follows. -/
theorem twinPoll_off (h : s.twinOn = false) : s.twinPoll = s := (twinPoll_eq s).trans (if_pos (by rw [h]; rfl))

end

section
variable {s u : State} {dt : Nat} {src : Src} {v : Nat}

/-- A request as it is written, with its source disarmed. -/
def State.requested (u : State) (src : Src) : State := (u.disarm src).wr R.TWN_CTRL.HB_NOW 1

theorem rd_requested_now (u : State) (src : Src) : (u.requested src).rd R.TWN_CTRL.HB_NOW = 1 := rd_wr_direct _ 1 (by decide)

theorem exec_hbNow_armed (hu : u = s.after dt) (hw : isWord v = true) (hb : bit v 31 = true) (hm : u.mayWrite src 19 = true)
    (ha : u.armed src = true) (hr : u.rd R.TWN_STAT.READY = 1) :
    exec (.hbNow dt src v) s = .next (u.requested src).twinPoll := by
  have hready : (u.disarm src).rd R.TWN_STAT.READY = 1 := (rd_disarm u src (by decide)).trans hr
  rw [exec_hbNow, execHbNow, ← hu, needs_swWrite hw hm, keyed_armed ha]
  exact congrArg Host.Outcome.next (if_pos (by rw [hb, hready]; rfl))

theorem apart_of_addr {f g : Fld} (h : g.addr ≠ f.addr) : f.apart g = true := by
  simp [Fld.apart, h]

theorem armed_requested (u : State) (src : Src) : (u.requested src).twinPoll.armed src = false := by
  have hother : ∀ f ∈ pollWrites, f.addr ≠ 0x10020 := by decide
  rw [← armed_disarm u src]
  refine armed_congr (fun x hx => ?_) src
  refine (twinPoll_writes _ x ?_).trans (rd_wr_other _ _ _ _ (hx ▸ by decide) (by decide))
  exact List.all_eq_true.mpr fun f hf => apart_of_addr (hx ▸ (hother f hf).symm)

theorem twinOn_requested (u : State) (src : Src) : (u.requested src).twinOn = u.twinOn := by
  have hrd : ∀ x : Fld, x.addr ≠ 0x10020 → x.addr ≠ R.TWN_CTRL.HB_NOW.addr → (u.requested src).rd x = u.rd x := fun x h1 h2 =>
    (rd_wr_other _ _ _ _ h2 (by decide)).trans (rd_disarm u src h1)
  refine twinOn_of ?_ ?_ (hrd _ (by decide) (by decide)) (hrd _ (by decide) (by decide))
  · simp [State.requested, State.alive]
  · simp [State.requested]

theorem exec_hbNow_unarmed (hu : u = s.after dt) (hw : isWord v = true) (hm : u.mayWrite src 19 = true) (ha : u.armed src = false) :
    exec (.hbNow dt src v) s = .next ((u.flag R.CMT_STAT.KEY_VIOL).violInfo src 1 0x700018) := by
  rw [exec_hbNow, execHbNow, ← hu, needs_swWrite hw hm, State.keyed, if_neg (by rw [ha]; decide)]

end

end Machine

open Machine

/-- Settles O31: each step of the pair is followed field by field through what it writes; READY that stays through the poll keeps a request waiting until it is raised. -/
theorem twinTakesOverAndHandsBack : Obligations.TwinTakesOverAndHandsBack := by
  unfold Obligations.TwinTakesOverAndHandsBack
  refine ⟨?_, ?_, ?_, ?_, ?_, ?_, ?_⟩
  · intro s dt u hu ht hup
    obtain ⟨w, ready, he⟩ := exec_twinLinkDown_up hu ht hup
    have hw := linkDown_writes w ready
    refine ⟨_, he, ?_, ?_, ?_, ?_, ?_, ?_, ?_⟩
    · exact (hw _ (by decide)).trans (rd_linkLost_up w)
    · exact (hw _ (by decide)).trans (rd_linkLost_mode w)
    · exact (hw _ (by decide)).trans (rd_linkLost_synced w)
    · exact (hw _ (by decide)).trans (rd_linkLost_ready w)
    · exact (hw _ (by decide)).trans (rd_linkLost_flag w)
    · exact (lossEnd_writes _ ready _ (by decide)).trans (rd_twinUnsync_ready _)
    · exact (lossEnd_writes _ ready _ (by decide)).trans (rd_twinUnsync_sync _)
  · intro s dt u ch hu hch ht hm hp hy hr
    have hbeside : ∀ {x : Fld}, R.TWN_FLAGS.TKO_REFUSED.apart x = true → (u.flag R.TWN_FLAGS.TKO_REFUSED).rd x = u.rd x :=
      fun h => rd_flag_beside u (by decide) rfl h
    exact ⟨_, takeover_refused hu hch ht hm hp hy hr, rd_flag_direct u (by decide) rfl, (hbeside (by decide)).trans hm,
      (hbeside (by decide)).trans hp⟩
  · intro s dt u ch p hu hch ht hm hp hy hpeer hb hr ha h0 h1
    refine ⟨_, takeover_leads hu hch ht hm hp hy hr ha, ?_⟩
    rw [ledChannels_none u h0 h1, nextLead_lead hpeer hb]
    exact ⟨rd_hwPend_pend _ (by decide) _ _, hwPend_kind _ _ _ _, (congrArg Twin.lost (hwPend_twin _ _ _ _)).trans (leadsFrom_lost u _)⟩
  · intro s dt u ch p hu hch ht hm hp hy hpeer hb hr ha h0 hn
    have hled : u.ledChannels.isEmpty = false := by
      rcases ledChannels_first u h0 hn with h | h <;> rw [h] <;> rfl
    refine ⟨_, takeover_leads hu hch ht hm hp hy hr ha, ?_⟩
    rw [hled, nextLead_lead hpeer hb]
    exact ⟨rd_hwPend_pend _ (by decide) _ _, hwPend_kind _ _ _ _, (congrArg Chan.go (hwPend_chan _ _ _ _ _)).trans (leadsFrom_go u _ h0 hn)⟩
  · intro s u r hu hr ht hq hm
    refine ⟨_, exec_holdoffEnd_raises hu hr ht hq hm, ?_, ?_⟩
    · exact (hbReq_healthCheck _).trans (congrArg Twin.hbReq (hbRaise_twin u))
    · exact (rd_healthCheck _ _).trans (rd_hbRaise_now u)
  · intro s dt u src v hu hw hb hm ha hr
    refine ⟨_, exec_hbNow_armed hu hw hb hm ha hr, armed_requested u src, fun hoff => ?_, fun hready hrev => ?_⟩
    · rw [twinPoll_off _ ((twinOn_requested u src).trans hoff)]
      exact rd_requested_now u src
    · exact polled_request _ (rd_requested_now u src) hready hrev
  · intro s dt u src v hu hw hb hm ha
    refine ⟨_, exec_hbNow_unarmed hu hw hm ha, ?_, ?_, ?_⟩
    · exact (rd_violInfo _ _ _ _ (by decide)).trans (rd_flag_direct u (by decide) rfl)
    · exact State.flag_twin u _
    · exact (rd_violInfo _ _ _ _ (by decide)).trans (rd_flag_beside u (by decide) rfl (by decide))

end Sys2Proof
end

section
set_option Elab.async false

namespace Sys2Proof

/-! PROOFS. The registers and the records of the Serif cores (R378, R391): what a step of one core writes. -/

namespace Machine

/-! ### Fields of the cores -/

/-- A field in the register block of core 0, repeated for the others. -/
def Fld.ofSf (f : Fld) : Bool :=
  decide (0x780000 ≤ f.addr) && decide (f.addr < 0x790000) && decide (f.s1 = 0x10000) && decide (f.lo ≤ f.hi)

section
variable {f g : Fld} {d : Nat}

theorem ofSf_iff : f.ofSf = true ↔ 0x780000 ≤ f.addr ∧ f.addr < 0x790000 ∧ f.s1 = 0x10000 ∧ f.lo ≤ f.hi := by
  simp [Fld.ofSf, and_assoc]

theorem serif_lt (hd : isSerif d = true) : d < 4 := of_decide_eq_true hd

theorem sf_addr (hf : f.ofSf = true) (hd : isSerif d = true) : 0x780000 ≤ (f.i d).addr ∧ (f.i d).addr < 0x7C0000 := by
  obtain ⟨hlo, hhi, hs, -⟩ := ofSf_iff.mp hf
  have hlt := serif_lt hd
  simp only [Fld.i, hs]
  omega

theorem sf_direct (hf : f.ofSf = true) (hd : isSerif d = true) : (f.i d).direct = true := by
  obtain ⟨hlo, hhi⟩ := sf_addr hf hd
  exact direct_iff.mpr ⟨Nat.lt_trans hhi (by decide), isTmr_above (Nat.le_trans (by decide) hlo), (ofSf_iff.mp hf).2.2.2⟩

/-- Fields of one core that share no bit. -/
theorem sf_apart (hf : f.ofSf = true) (hg : g.ofSf = true) (h : f.apart g = true) : (f.i d).apart (g.i d) = true := by
  have hs : f.s1 = g.s1 := (ofSf_iff.mp hf).2.2.1.trans (ofSf_iff.mp hg).2.2.1.symm
  rcases apart_cases h with hne | ⟨he, hbits⟩
  · exact apart_of_addr (by simp only [Fld.i, hs]; omega)
  · simp only [Fld.apart, Fld.i, Bool.or_eq_true]
    exact hbits.elim (fun hl => .inl (.inr (decide_eq_true hl))) fun hr => .inr (decide_eq_true hr)

/-- A field outside the block is apart from those of the cores. -/
theorem sf_outside (hg : g.ofSf = true) (hd : isSerif d = true) (h : f.addr < 0x780000 ∨ 0x7C0000 ≤ f.addr) :
    (g.i d).addr ≠ f.addr := by
  have haddr := sf_addr hg hd
  omega

end

/-! ### The record of a core -/

section
variable (s : State) {d : Nat}

theorem serif_putSerif (d : Nat) (c : Serif) : (s.putSerif d c).serif d = c := tget_tput_same _ _ _ _

theorem rd_putSerif (d : Nat) (c : Serif) (x : Fld) : (s.putSerif d c).rd x = s.rd x := rd_congr rfl x

theorem serif_congr {t : State} (h : t.serifs = s.serifs) (d : Nat) : t.serif d = s.serif d := by
  rw [State.serif, State.serif, h]

/-- SF_STAT shows a core and changes no core. -/
theorem serif_showSerif (d e : Nat) : (s.showSerif d).serif e = s.serif e := serif_congr s (State.putRaw_serifs _ _ _) e

theorem showSerif_mem (d : Nat) : (s.showSerif d).mem = s.mem := State.putRaw_mem _ _ _

theorem putSerif_mem (d : Nat) (c : Serif) : (s.putSerif d c).mem = s.mem := rfl

theorem rd_showSerif_core (hd : isSerif d = true) {x : Fld} (hx : x.addr ≠ (R.SF_STAT.STATE.i d).addr) : (s.showSerif d).rd x = s.rd x :=
  rd_putRaw_other s _ hx (Nat.lt_trans (sf_addr (f := R.SF_STAT.STATE) (by decide) hd).2 (by decide))

/-- The registers of a core other than SF_STAT. -/
theorem rd_showSerif_sf (hd : isSerif d = true) {f : Fld} (hf : f.addr ≠ R.SF_STAT.STATE.addr) (hs : f.ofSf = true) :
    (s.showSerif d).rd (f.i d) = s.rd (f.i d) := by
  have h1 : f.s1 = 0x10000 := (ofSf_iff.mp hs).2.2.1
  have h2 : R.SF_STAT.STATE.s1 = 0x10000 := rfl
  exact rd_showSerif_core s hd (by simp only [Fld.i, h1, h2]; omega)

theorem rd_showSerif_armed (hd : isSerif d = true) : (s.showSerif d).rd (R.SF_STAT.TARMED.i d) = b2n (s.serif d).armed := by
  have hshow : ∀ st : Nat, bits (st * p2 30 + b2n (s.serif d).armed * p2 29 + (s.serif d).ldepth * p2 26 +
      (s.serif d).rot % 16 * p2 22 + (s.serif d).st % 16 * p2 16 + (s.serif d).pc % p2 13) 29 29 = b2n (s.serif d).armed := by
    intro st
    have hdepth : (s.serif d).ldepth ≤ 2 := Nat.min_le_left _ _
    have harmed : b2n (s.serif d).armed ≤ 1 := by cases (s.serif d).armed <;> decide
    simp only [bits, p2]
    omega
  exact (rd_putRaw_direct (f := R.SF_STAT.TARMED.i d) s _ (direct_iff.mp (sf_direct (by decide) hd)).2.1).trans (hshow _)

/-! ### Interrupt lines (R391) -/

/-- A line that pends. -/
def State.linePends (d line : Nat) : State := s.putSerif d { s.serif d with ipend := (s.serif d).ipend ||| p2 line }

theorem irqPend_eq (line : Nat) : s.irqPend d line = if !(s.alive && s.dom (11 + d)) then s
    else if bit (s.serif d).ipend line then s.flag (R.SF_FLAGS.IRQ_LOST.i d) else s.linePends d line := rfl

/-- An event changes a core in its pending lines alone. -/
theorem irqPend_core (line : Nat) : ∃ p, (s.irqPend d line).serif d = { s.serif d with ipend := p } := by
  rw [irqPend_eq]
  split
  · exact ⟨_, rfl⟩
  split
  · exact ⟨_, serif_congr s (State.flag_serifs _ _) d⟩
  · exact ⟨_, serif_putSerif s d _⟩

/-- The line of an event pends. -/
theorem irqPend_pends (line : Nat) (ha : s.alive = true) (hd : s.dom (11 + d) = true) :
    bit ((s.irqPend d line).serif d).ipend line = true := by
  rw [irqPend_eq, if_neg (by rw [ha, hd]; decide)]
  split
  next hb => rw [serif_congr s (State.flag_serifs _ _) d, hb]
  · rw [State.linePends, serif_putSerif, bit_lor_pow, decide_eq_true rfl, Bool.or_true]

theorem irqPend_writes (hd : isSerif d = true) (line : Nat) : WritesOnly [R.SF_FLAGS.IRQ_LOST.i d] s (s.irqPend d line) := by
  rw [irqPend_eq]
  refine WritesOnly.ite (WritesOnly.refl s) (WritesOnly.ite ?_ (writesOnly_of_regs rfl))
  exact writesOnly_flag List.mem_cons_self (sf_direct (by decide) hd) rfl s

theorem irqPend_field (hd : isSerif d = true) (line : Nat) {f : Fld} (hs : f.ofSf = true) (hf : R.SF_FLAGS.IRQ_LOST.apart f = true) :
    (s.irqPend d line).rd (f.i d) = s.rd (f.i d) := by
  refine irqPend_writes s hd line _ ?_
  rw [List.all_cons, List.all_nil, Bool.and_true]
  exact sf_apart (by decide) hs hf

end

end Machine
end Sys2Proof
end

section
set_option Elab.async false

namespace Sys2Proof

/-! PROOFS. Interrupts, control and the timer of a Serif core (R391, R392, R398). -/

namespace Machine

theorem exec_interruptEntry (dt d : Nat) (s : State) : exec (.interruptEntry dt d) s = execInterruptEntry dt d s := rfl
theorem exec_doorbell (dt : Nat) (src : Src) (d : Nat) (s : State) : exec (.doorbell dt src d) s = execDoorbell dt src d s := rfl
theorem exec_run (dt : Nat) (src : Src) (d v : Nat) (s : State) : exec (.run dt src d v) s = execRun dt src d v s := rfl
theorem exec_sfTimerWrite (dt : Nat) (src : Src) (d v : Nat) (s : State) :
    exec (.sfTimerWrite dt src d v) s = execSfTimerWrite dt src d v s := rfl
theorem exec_sfTimerExpire (d : Nat) (s : State) : exec (.sfTimerExpire d) s = execSfTimerExpire d s := rfl
theorem exec_releaseWarning (d : Nat) (s : State) : exec (.releaseWarning d) s = execReleaseWarning d s := rfl
theorem exec_serifRelease (d : Nat) (s : State) : exec (.serifRelease d) s = execSerifRelease d s := rfl

/-! ### INTERRUPT_ENTRY (R392) -/

/-- The lowest enabled line that pends. -/
def Serif.dueLine (c : Serif) : Nat := ((List.range 8).find? fun i => bit (c.ipend &&& c.ien) i).getD 0

/-- A core that enters its handler. -/
def Serif.entered (c : Serif) : Serif :=
  { c with ipc := c.pc, istat := c.st, st := setBits (setBits c.st 15 15 0) 11 10 c.ldepth,
           ipend := setBits c.ipend c.dueLine c.dueLine 0, pc := 8 + 4 * c.dueLine, hdl := c.hdl + 1, irq := false }

/-- An entry saves PC and ST and counts its handler. -/
theorem entered_saves (c : Serif) : c.entered.ipc = c.pc ∧ c.entered.istat = c.st ∧ c.entered.hdl = c.hdl + 1 ∧
    c.entered.irq = false ∧ c.entered.f = c.f ∧ c.entered.pc = 8 + 4 * c.dueLine := ⟨rfl, rfl, rfl, rfl, rfl, rfl⟩

theorem dueLine_lowest (c : Serif) {l : Nat} (h8 : l < 8) (hl : bit (c.ipend &&& c.ien) l = true)
    (hk : ∀ k, k < l → bit (c.ipend &&& c.ien) k = false) : c.dueLine = l := by
  have hfind : ((List.range 8).find? fun i => bit (c.ipend &&& c.ien) i) = some l :=
    List.find?_range_eq_some.mpr ⟨hl, List.mem_range.mpr h8, fun j hj => by rw [hk j hj]; rfl⟩
  rw [Serif.dueLine, hfind]
  rfl

/-- One bit of a word as a field. -/
theorem bit_eq_bits (w n : Nat) : bit w n = (bits w n n == 1) := by
  rw [bit, bits, Nat.add_sub_cancel_left]
  rfl

theorem ie_entered (c : Serif) : c.entered.ie = false := by
  have hbit : bits (setBits (setBits c.st 15 15 0) 11 10 c.ldepth) 15 15 = 0 := by
    rw [bits_setBits_apart _ _ _ _ _ _ (by decide) (.inl (by decide)), bits_setBits_same _ _ _ _ (by decide)]
    rfl
  exact (bit_eq_bits _ 15).trans (beq_eq_false_iff_ne.mpr (hbit ▸ Nat.zero_ne_one))

theorem ipend_entered (c : Serif) : bit c.entered.ipend c.dueLine = false := bit_setBits_same c.ipend c.dueLine false

section
variable {s u : State} {dt d : Nat} {src : Src}

theorem exec_interruptEntry_taken (hu : u = s.after dt) (hd : isSerif d = true) (hon : u.serifOn d = true)
    (ht : (u.serif d).takeable = true) (hi : (u.serif d).irq = true) :
    exec (.interruptEntry dt d) s = .next ((u.putSerif d (u.serif d).entered).showSerif d) := by
  rw [exec_interruptEntry, execInterruptEntry, ← hu, hd, needs_true]
  exact congrArg Host.Outcome.next (if_pos (by rw [hon, ht, hi]; rfl))

end

/-! ### Writes of SF_CTRL (R391, R398) -/

section
variable (s : State) {d : Nat}

/-- RUN written 0 halts a busy core. -/
def State.haltedBy (c : Serif) (d v : Nat) : State := if !bit v 31 && !c.idle then s.putSerif d { c with halt := true } else s

/-- RUN written 1 has Ductus look. -/
def State.turnedBy (v : Nat) : State := if bit v 31 then s.putDct { s.dct with turn := true } else s

/-- The doorbell rings line 1. -/
def State.rungBy (d v : Nat) : State :=
  if bit v 30 then
    { s.irqPend d 1 with log := { s.log with wrote := (R.SF_CTRL.DOORBELL.i d).key :: (s.irqPend d 1).log.wrote } }
  else s

theorem sfCtrlWrite_eq (v : Nat) : s.sfCtrlWrite d v =
    ((((s.wr (R.SF_CTRL.RUN.i d) (bits v 31 31)).haltedBy (s.serif d) d v).turnedBy v).rungBy d v).showSerif d := rfl

theorem putDct_serifs (x : Ductus) : (s.putDct x).serifs = s.serifs := rfl

theorem turnedBy_serif (v e : Nat) : (s.turnedBy v).serif e = s.serif e :=
  ite_to (State.serif · e) (serif_congr s (putDct_serifs s _) e) rfl

theorem rd_turnedBy (v : Nat) (x : Fld) : (s.turnedBy v).rd x = s.rd x := ite_to (State.rd · x) (rd_putDct s _ x) rfl

theorem rd_haltedBy (c : Serif) (v : Nat) (x : Fld) : (s.haltedBy c d v).rd x = s.rd x :=
  ite_to (State.rd · x) (rd_putSerif s d _ x) rfl

theorem putDct_alive (x : Ductus) : (s.putDct x).alive = s.alive := rfl

theorem putSerif_alive (d : Nat) (c : Serif) : (s.putSerif d c).alive = s.alive := rfl

theorem turnedBy_alive (v : Nat) : (s.turnedBy v).alive = s.alive := ite_to State.alive (putDct_alive s _) rfl

theorem haltedBy_alive (c : Serif) (v : Nat) : (s.haltedBy c d v).alive = s.alive := ite_to State.alive (putSerif_alive s d _) rfl

/-- The doorbell rings as an event of line 1. -/
theorem rungBy_serif (v : Nat) (h : bit v 30 = true) (e : Nat) : (s.rungBy d v).serif e = (s.irqPend d 1).serif e := by
  unfold State.rungBy
  rw [if_pos h]
  rfl

theorem rd_rungBy (hd : isSerif d = true) (v : Nat) {f : Fld} (hs : f.ofSf = true) (hf : R.SF_FLAGS.IRQ_LOST.apart f = true) :
    (s.rungBy d v).rd (f.i d) = s.rd (f.i d) :=
  ite_to (State.rd · (f.i d)) ((rd_congr rfl _).trans (irqPend_field s hd 1 hs hf)) rfl

/-- A doorbell leaves whether the core is to halt. -/
theorem rungBy_halt (v : Nat) : ((s.rungBy d v).serif d).halt = (s.serif d).halt := by
  cases h : bit v 30 with
  | true =>
    obtain ⟨p, hp⟩ := irqPend_core s (d := d) 1
    rw [rungBy_serif s v h, hp]
  | false => rw [State.rungBy, if_neg (by rw [h]; decide)]

/-- RUN as a write of SF_CTRL leaves it. -/
theorem rd_sfCtrlWrite_run (hd : isSerif d = true) (v : Nat) : (s.sfCtrlWrite d v).rd (R.SF_CTRL.RUN.i d) = bits v 31 31 := by
  rw [sfCtrlWrite_eq, rd_showSerif_sf _ hd (f := R.SF_CTRL.RUN) (by decide) (by decide),
    rd_rungBy _ hd v (f := R.SF_CTRL.RUN) (by decide) (by decide), rd_turnedBy, rd_haltedBy,
    rd_wr_direct _ _ (sf_direct (by decide) hd)]
  exact Nat.mod_mod _ _

/-- The state of a write of SF_CTRL before its doorbell. -/
def State.ctrlWritten (d v : Nat) : State := ((s.wr (R.SF_CTRL.RUN.i d) (bits v 31 31)).haltedBy (s.serif d) d v).turnedBy v

theorem sfCtrlWrite_serif (v e : Nat) : (s.sfCtrlWrite d v).serif e = ((s.ctrlWritten d v).rungBy d v).serif e := by
  rw [sfCtrlWrite_eq, serif_showSerif]
  rfl

/-- RUN written 0 halts a busy core, whatever the doorbell does. -/
theorem sfCtrlWrite_halts (v : Nat) (hb : bit v 31 = false) (hi : (s.serif d).idle = false) : ((s.sfCtrlWrite d v).serif d).halt = true := by
  have hgo : (!bit v 31 && !(s.serif d).idle) = true := by rw [hb, hi]; rfl
  rw [sfCtrlWrite_serif, rungBy_halt, State.ctrlWritten, turnedBy_serif, State.haltedBy, if_pos hgo, serif_putSerif]

theorem ctrlWritten_alive (d v : Nat) : (s.ctrlWritten d v).alive = s.alive := by
  rw [State.ctrlWritten, turnedBy_alive, haltedBy_alive]
  simp only [State.alive, State.wr_dev]

theorem ctrlWritten_dom (hd : isSerif d = true) (v k : Nat) : (s.ctrlWritten d v).dom k = s.dom k := by
  have hon : (s.ctrlWritten d v).rd R.PWR_DOM.ON = s.rd R.PWR_DOM.ON := by
    rw [State.ctrlWritten, rd_turnedBy, rd_haltedBy, rd_wr_beside _ _ (sf_direct (by decide) hd)]
    exact apart_of_addr (sf_outside (f := R.PWR_DOM.ON) (by decide) hd (.inr (by decide))).symm
  rw [State.dom, State.dom, hon]

/-- A doorbell has line 1 pend. -/
theorem sfCtrlWrite_rings (hd : isSerif d = true) (v : Nat) (hb : bit v 30 = true) (ha : s.alive = true) (hdom : s.dom (11 + d) = true) :
    bit ((s.sfCtrlWrite d v).serif d).ipend 1 = true := by
  rw [sfCtrlWrite_serif, rungBy_serif _ _ hb]
  exact irqPend_pends _ 1 ((ctrlWritten_alive s d v).trans ha) ((ctrlWritten_dom s hd v _).trans hdom)

end

section
variable {s u : State} {dt d v : Nat} {src : Src}

theorem mayWrite_alive (h : u.mayWrite src d = true) : u.alive = true ∧ u.dom d = true := by
  obtain ⟨hr, hd⟩ := reads_of_mayWrite h
  exact ⟨(Bool.and_eq_true_iff.mp (Bool.and_eq_true_iff.mp hr).2).1, hd⟩

/-- The word of a doorbell. -/
def State.bellWord (u : State) (d : Nat) : Nat := u.rd (R.SF_CTRL.RUN.i d) * p2 31 + p2 30

theorem rd_run_lt (u : State) (d : Nat) : u.rd (R.SF_CTRL.RUN.i d) < 2 := Nat.mod_lt _ (Nat.two_pow_pos 1)

theorem bellWord_bell (u : State) (d : Nat) : bit (u.bellWord d) 30 = true := by
  have h := rd_run_lt u d
  simp only [State.bellWord, bit, p2, beq_iff_eq]
  omega

theorem bellWord_run (u : State) (d : Nat) : bits (u.bellWord d) 31 31 = u.rd (R.SF_CTRL.RUN.i d) := by
  have h := rd_run_lt u d
  simp only [State.bellWord, bits, p2]
  omega

theorem exec_doorbell_rings (hu : u = s.after dt) (hd : isSerif d = true) (hm : u.mayWrite src (11 + d) = true) :
    exec (.doorbell dt src d) s = .next (u.sfCtrlWrite d (u.bellWord d)) := by
  rw [exec_doorbell, execDoorbell, ← hu, needs_swWrite hd hm]
  rfl

theorem exec_run_writes (hu : u = s.after dt) (hd : isSerif d = true) (hw : isWord v = true) (hm : u.mayWrite src (11 + d) = true) :
    exec (.run dt src d v) s = .next ((u.mirrorWrite (R.SF_CTRL.RUN.i d).addr v).sfCtrlWrite d v) := by
  rw [exec_run, execRun, ← hu, needs_swWrite (by rw [hd, hw]; rfl) hm]

theorem mirrorWrite_serif (u : State) (a v e : Nat) : (u.mirrorWrite a v).serif e = u.serif e :=
  ite_to (State.serif · e) (serif_congr u (State.twinSend_serifs _ _ _) e) rfl

/-! ### SF_TIMER (R391) -/

/-- The timer armed for a time. -/
def State.timerSet (s : State) (d v : Nat) : State := (s.wr (R.SF_TIMER.AT.i d) v).putSerif d { s.serif d with armed := true }

theorem sfTimerWrite_eq (s : State) (d v : Nat) : s.sfTimerWrite d v = (s.timerSet d v).showSerif d := rfl

theorem sfTimerWrite_spec (s : State) (hd : isSerif d = true) (hw : isWord v = true) : (s.sfTimerWrite d v).rd (R.SF_TIMER.AT.i d) = v ∧
    ((s.sfTimerWrite d v).serif d).armed = true ∧ (s.sfTimerWrite d v).rd (R.SF_STAT.TARMED.i d) = 1 := by
  have hcore : ((s.timerSet d v).serif d).armed = true := by rw [State.timerSet, serif_putSerif]
  rw [sfTimerWrite_eq]
  refine ⟨?_, ?_, ?_⟩
  · rw [rd_showSerif_sf _ hd (f := R.SF_TIMER.AT) (by decide) (by decide), State.timerSet, rd_putSerif,
      rd_wr_direct _ _ (sf_direct (by decide) hd)]
    exact Nat.mod_eq_of_lt (of_decide_eq_true hw)
  · rw [serif_showSerif, hcore]
  · rw [rd_showSerif_armed _ hd, hcore]
    rfl

theorem exec_sfTimerWrite_writes (hu : u = s.after dt) (hd : isSerif d = true) (hw : isWord v = true)
    (hm : u.mayWrite src (11 + d) = true) :
    exec (.sfTimerWrite dt src d v) s = .next ((u.mirrorWrite (R.SF_TIMER.AT.i d).addr v).sfTimerWrite d v) := by
  rw [exec_sfTimerWrite, execSfTimerWrite, ← hu, needs_swWrite (by rw [hd, hw]; rfl) hm]

/-- The timer spent. -/
def State.timerSpent (u : State) (d : Nat) : State := u.putSerif d { u.serif d with armed := false }

theorem exec_sfTimerExpire_due (hr : s.reach (s.rd (R.SF_TIMER.AT.i d)) = some u) (hd : isSerif d = true) (ha : (s.serif d).armed = true) :
    exec (.sfTimerExpire d) s = .next (((u.timerSpent d).irqPend d 5).showSerif d) := by
  rw [exec_sfTimerExpire, execSfTimerExpire, hd, needs_true, if_pos ha, hr]
  rfl

/-- At its time the timer is spent and line 5 pends. -/
theorem timerSpent_pends (ha : u.alive = true) (hdom : u.dom (11 + d) = true) :
    ((((u.timerSpent d).irqPend d 5).showSerif d).serif d).armed = false ∧
    bit ((((u.timerSpent d).irqPend d 5).showSerif d).serif d).ipend 5 = true := by
  obtain ⟨p, hp⟩ := irqPend_core (u.timerSpent d) (d := d) 5
  have hdom' : (u.timerSpent d).dom (11 + d) = true := by
    rw [State.dom, State.timerSpent, rd_putSerif]
    exact hdom
  rw [serif_showSerif]
  refine ⟨?_, irqPend_pends _ 5 ha hdom'⟩
  rw [hp, State.timerSpent, serif_putSerif]

/-! ### RELEASE_WARNING (R391) -/

theorem exec_releaseWarning_due {x due : Nat} (hr : s.reach (sub32 due (s.act (R.SF_IRQ.WARN.i d))) = some u) (hd : isSerif d = true)
    (hp : (s.serif d).per = some (x, due)) (ht : (s.serif d).task = 1) (hw : s.act (R.SF_IRQ.WARN.i d) ≠ 0) :
    exec (.releaseWarning d) s = .next (u.irqPend d 7) := by
  have hgo : ¬ (decide (s.act (R.SF_IRQ.WARN.i d) = 0) || decide ((s.serif d).task ≠ 1)) = true := by
    rw [decide_eq_false hw, ht]
    decide
  rw [exec_releaseWarning, execReleaseWarning, hd, needs_true, hp]
  exact congrArg Host.Outcome.next ((if_neg hgo).trans (by rw [hr]))

end

end Machine
end Sys2Proof
end

section
set_option Elab.async false

namespace Sys2Proof

/-! PROOFS. The end of a period of a Serif core (R400, R401). -/

namespace Machine

/-! ### The report of a slack (R36, R482) -/

section
variable (s : State)

/-- The jump of the target to the top code, as it is counted and journalled. -/
def State.jumpCounted : State :=
  ((s.targetTop.bump R.PWR_CNT.JUMPS R.PWR_CNT.OVF).flag R.PWR_SUPV.JUMP_SEEN).journal 6 0 true noUnit

/-- The state with another record of the core supply. -/
def State.putPwr (p : Power) : State := { s with pwr := p }

theorem rd_putPwr (p : Power) (x : Fld) : (s.putPwr p).rd x = s.rd x := rd_congr rfl x

theorem putPwr_serifs (p : Power) : (s.putPwr p).serifs = s.serifs := rfl

/-- A jump holds the top code. -/
def State.topHeld : State := s.wr R.PWR_SUPV.HOLD_TOP 1

theorem vidJump_eq : ∃ p, s.vidJump = (if s.rd R.PWR_VID.TARGET < 63 then s.jumpCounted else s).topHeld.putPwr p := ⟨_, rfl⟩

/-- The slack least seen, in a window. -/
theorem slackReport_eq (src idx : Nat) (pct : Rat) : ∃ p, s.slackReport src idx pct =
    (if pct < (s.jumpThr : Rat) then s.vidJump else s).putPwr p := by
  unfold State.slackReport
  extract_lets w
  split
  · exact ⟨_, rfl⟩
  split
  · exact ⟨_, rfl⟩
  · exact ⟨w.pwr, rfl⟩

theorem jumpCounted_serifs : s.jumpCounted.serifs = s.serifs := by simp [State.jumpCounted, State.targetTop]

theorem vidJump_serifs : s.vidJump.serifs = s.serifs := by
  obtain ⟨p, hp⟩ := vidJump_eq s
  rw [hp, putPwr_serifs, State.topHeld, State.wr_serifs]
  exact ite_to State.serifs (jumpCounted_serifs s) rfl

theorem slackReport_serifs (src idx : Nat) (pct : Rat) : (s.slackReport src idx pct).serifs = s.serifs := by
  obtain ⟨p, hp⟩ := slackReport_eq s src idx pct
  rw [hp, putPwr_serifs]
  exact ite_to State.serifs (vidJump_serifs s) rfl

/-- A field that no report of a slack writes: outside the supply's block and the journal's count. -/
def Fld.offSupply (x : Fld) : Bool := decide (x.addr < 0x7F0000) && x.addr != 0x740210

variable {x : Fld}

theorem rd_jumpCounted (hx : x.offSupply = true) : s.jumpCounted.rd x = s.rd x := by
  obtain ⟨hlow, hq⟩ : x.addr < 0x7F0000 ∧ x.addr ≠ 0x740210 := by
    simpa only [Fld.offSupply, Bool.and_eq_true, decide_eq_true_eq, bne_iff_ne] using hx
  have hbeside : ∀ {f : Fld}, 0x7F0000 ≤ f.addr → f.apart x = true := fun h => apart_of_addr (by omega)
  rw [State.jumpCounted, rd_journal _ _ _ _ _ _ hq, rd_flag_beside _ (by decide) rfl (hbeside (by decide)),
    rd_bump_beside _ (by decide) (by decide) rfl (hbeside (by decide)) (hbeside (by decide)), State.targetTop,
    rd_congr (State.raiseInt_regs _ _), rd_wr_beside _ _ (by decide) (hbeside (by decide))]

theorem rd_slackReport (src idx : Nat) (pct : Rat) (hx : x.offSupply = true) : (s.slackReport src idx pct).rd x = s.rd x := by
  obtain ⟨p, hp⟩ := slackReport_eq s src idx pct
  have hjump : s.vidJump.rd x = s.rd x := by
    obtain ⟨q, hq⟩ := vidJump_eq s
    have hne : x.addr ≠ R.PWR_SUPV.HOLD_TOP.addr :=
      Nat.ne_of_lt (Nat.lt_trans (of_decide_eq_true (Bool.and_eq_true_iff.mp hx).1) (by decide))
    rw [hq, rd_putPwr, State.topHeld, rd_wr_other _ _ _ _ hne (by decide)]
    exact ite_to (State.rd · x) (rd_jumpCounted s hx) rfl
  rw [hp, rd_putPwr]
  exact ite_to (State.rd · x) hjump rfl

theorem sf_offSupply {f : Fld} {d : Nat} (hf : f.ofSf = true) (hd : isSerif d = true) : (f.i d).offSupply = true := by
  have haddr := sf_addr hf hd
  simp only [Fld.offSupply, Bool.and_eq_true, decide_eq_true_eq, bne_iff_ne]
  omega

end

/-! ### A late release (R401) -/

section
variable (s : State) {d : Nat}

/-- A task that is late, as its core's registers show it. -/
def State.lateShown (d : Nat) : State :=
  ((s.sfTime d 0xFF 0x3FFFF).bump (R.SF_CNT.LATE_CNT.i d) (R.SF_FLAGS.LATE_OVF.i d)).flag (R.SF_FLAGS.LATE.i d)

theorem lateShown_serifs : (s.lateShown d).serifs = s.serifs := by simp [State.lateShown, State.sfTime]

theorem rd_lateShown_late (hd : isSerif d = true) : (s.lateShown d).rd (R.SF_FLAGS.LATE.i d) = 1 :=
  rd_flag_direct _ (sf_direct (by decide) hd) rfl

theorem rd_sfTime (hd : isSerif d = true) (a b : Nat) {f : Fld} (hs : f.ofSf = true) (hf : R.SF_TIME.SLACK.apart f = true)
    (hg : R.SF_TIME.DONE.apart f = true) : (s.sfTime d a b).rd (f.i d) = s.rd (f.i d) := by
  rw [State.sfTime, rd_wrU_beside _ _ (sf_direct (by decide) hd) (sf_apart (by decide) hs hg),
    rd_wr_beside _ _ (sf_direct (by decide) hd) (sf_apart (by decide) hs hf)]

theorem rd_lateShown_count (hd : isSerif d = true) (hn : s.rd (R.SF_CNT.LATE_CNT.i d) < 65534) :
    (s.lateShown d).rd (R.SF_CNT.LATE_CNT.i d) = s.rd (R.SF_CNT.LATE_CNT.i d) + 1 := by
  have hkeep : (s.sfTime d 0xFF 0x3FFFF).rd (R.SF_CNT.LATE_CNT.i d) = s.rd (R.SF_CNT.LATE_CNT.i d) :=
    rd_sfTime s hd _ _ (f := R.SF_CNT.LATE_CNT) (by decide) (by decide) (by decide)
  have hlt : (s.sfTime d 0xFF 0x3FFFF).rd (R.SF_CNT.LATE_CNT.i d) < p2 16 - 1 := by
    rw [hkeep]
    exact Nat.lt_of_lt_of_le hn (by decide)
  rw [State.lateShown, rd_flag_beside _ (sf_direct (by decide) hd) rfl (sf_apart (by decide) (by decide) (by decide)),
    rd_bump_direct _ (sf_direct (by decide) hd) (sf_direct (by decide) hd) rfl (sf_apart (by decide) (by decide) (by decide)) hlt, hkeep]

/-- The count and the flags leave SF_TIME. -/
theorem rd_lateShown_time (hd : isSerif d = true) {f : Fld} (hs : f.ofSf = true) (hf : R.SF_CNT.LATE_CNT.apart f = true)
    (hg : R.SF_FLAGS.LATE_OVF.apart f = true) (hl : R.SF_FLAGS.LATE.apart f = true) :
    (s.lateShown d).rd (f.i d) = (s.sfTime d 0xFF 0x3FFFF).rd (f.i d) := by
  rw [State.lateShown, rd_flag_beside _ (sf_direct (by decide) hd) rfl (sf_apart (by decide) hs hl),
    rd_bump_beside _ (sf_direct (by decide) hd) (sf_direct (by decide) hd) rfl (sf_apart (by decide) hs hf) (sf_apart (by decide) hs hg)]

theorem rd_lateShown_slack (hd : isSerif d = true) : (s.lateShown d).rd (R.SF_TIME.SLACK.i d) = 255 := by
  rw [rd_lateShown_time s hd (f := R.SF_TIME.SLACK) (by decide) (by decide) (by decide) (by decide), State.sfTime,
    rd_wrU_beside _ _ (sf_direct (by decide) hd) (sf_apart (by decide) (by decide) (by decide)), rd_wr_direct _ _ (sf_direct (by decide) hd)]
  rfl

theorem rd_lateShown_done (hd : isSerif d = true) : (s.lateShown d).rd (R.SF_TIME.DONE.i d) = 262143 := by
  rw [rd_lateShown_time s hd (f := R.SF_TIME.DONE) (by decide) (by decide) (by decide) (by decide), State.sfTime,
    rd_wrU_direct _ _ (sf_direct (by decide) hd)]
  have htop : p2 18 - 1 = 262143 := rfl
  exact (congrArg (min 262143) htop).trans (Nat.min_self _)

/-- An idle core without a waiting task has Ductus look. -/
theorem coreIdle_turns (hi : (s.serif d).idle = true) (hw : (s.serif d).wait = false) :
    s.coreIdle d = (s.putDct { s.dct with turn := true }).showSerif d := by
  unfold State.coreIdle
  extract_lets c
  rw [if_neg (by rw [hi]; decide), if_neg (by rw [hw]; decide)]
  rfl

/-- A core whose period is over, with or without its task. -/
def Serif.periodOver (c : Serif) : Serif := { c with per := none, endAt := none, wait := false }

/-- A core without its task. -/
def Serif.taskDropped (c : Serif) : Serif := { c with task := 0, hdl := 0, irq := false, halt := false }

/-- A core whose task is abandoned. -/
def Serif.abandoned (c : Serif) : Serif := c.periodOver.taskDropped

theorem abandoned_idle (c : Serif) : c.abandoned.per = none ∧ c.abandoned.task = 0 ∧ c.abandoned.idle = true ∧ c.abandoned.wait = false :=
  ⟨rfl, rfl, rfl, rfl⟩

theorem periodOver_open (c : Serif) : c.periodOver.per = none ∧ c.periodOver.endAt = none := ⟨rfl, rfl⟩

/-- The period of a core closed. -/
def State.periodClosed (d : Nat) : State := s.putSerif d (s.serif d).periodOver

theorem periodClosed_serif (d : Nat) : (s.periodClosed d).serif d = (s.serif d).periodOver := serif_putSerif s d _

theorem rd_periodClosed (d : Nat) (x : Fld) : (s.periodClosed d).rd x = s.rd x := rd_putSerif s d _ x

/-- The release of a task that has not ended, before the core is idle. -/
def State.lateReleased (d : Nat) : State :=
  (((s.periodClosed d).putSerif d (s.serif d).abandoned).lateShown d).slackReport 2 d (-1)

theorem lateReleased_serif (d : Nat) : (s.lateReleased d).serif d = (s.serif d).abandoned := by
  rw [State.lateReleased, serif_congr _ (slackReport_serifs _ _ _ _), serif_congr _ (lateShown_serifs _), serif_putSerif]

theorem rd_lateReleased (hd : isSerif d = true) {f : Fld} (hs : f.ofSf = true) : (s.lateReleased d).rd (f.i d) =
    (((s.periodClosed d).putSerif d (s.serif d).abandoned).lateShown d).rd (f.i d) :=
  rd_slackReport _ _ _ _ (sf_offSupply hs hd)

/-- A late release as it ends. -/
def State.lateOver (d : Nat) : State := ((s.lateReleased d).coreIdle d).showSerif d

theorem lateOver_eq (d : Nat) : s.lateOver d =
    (((s.lateReleased d).putDct { (s.lateReleased d).dct with turn := true }).showSerif d).showSerif d := by
  obtain ⟨-, -, hidle, hwait⟩ := abandoned_idle (s.serif d)
  rw [← lateReleased_serif] at hidle hwait
  rw [State.lateOver, coreIdle_turns _ hidle hwait]

theorem lateOver_serif (d : Nat) : (s.lateOver d).serif d = (s.serif d).abandoned := by
  rw [lateOver_eq, serif_showSerif, serif_showSerif, serif_congr _ (putDct_serifs _ _), lateReleased_serif]

theorem rd_lateOver (hd : isSerif d = true) {f : Fld} (hs : f.ofSf = true) (hf : f.addr ≠ R.SF_STAT.STATE.addr) : (s.lateOver d).rd (f.i d) =
    (((s.periodClosed d).putSerif d (s.serif d).abandoned).lateShown d).rd (f.i d) := by
  rw [lateOver_eq, rd_showSerif_sf _ hd hf hs, rd_showSerif_sf _ hd hf hs, rd_putDct, rd_lateReleased s hd hs]

/-! ### Exports (R400) -/

theorem putLane_serifs (n : Nat) (l : Lane) : (s.putLane n l).serifs = s.serifs := rfl

theorem putApp_serifs (c : Nat) (a : AppBuf) : (s.putApp c a).serifs = s.serifs := rfl

theorem exportSlot_serifs (d n : Nat) (w : List Nat) : (s.exportSlot d n w).serifs = s.serifs :=
  ite_to State.serifs (State.flag_serifs _ _) (ite_to State.serifs (putLane_serifs s n _) rfl)

theorem rd_exportSlot_late (hd : isSerif d = true) (n : Nat) (w : List Nat) :
    (s.exportSlot d n w).rd (R.SF_FLAGS.LATE.i d) = s.rd (R.SF_FLAGS.LATE.i d) :=
  ite_to (State.rd · (R.SF_FLAGS.LATE.i d))
    (rd_flag_beside s (sf_direct (by decide) hd) rfl (sf_apart (by decide) (by decide) (by decide)))
    (ite_to (State.rd · (R.SF_FLAGS.LATE.i d)) (rd_congr rfl _) rfl)

/-- The exports change no core. -/
theorem exports_serifs (d : Nat) : (s.exports d).serifs = s.serifs :=
  forEach_keeps State.serifs (fun _ t => ite_to State.serifs rfl (ite_to State.serifs
    (forEach_keeps State.serifs (fun _ t => exportSlot_serifs t d _ _) t) (ite_to State.serifs (putApp_serifs t _ _) rfl))) s

/-- The exports of a core leave LATE. -/
theorem rd_exports_late (hd : isSerif d = true) : (s.exports d).rd (R.SF_FLAGS.LATE.i d) = s.rd (R.SF_FLAGS.LATE.i d) :=
  forEach_keeps (State.rd · (R.SF_FLAGS.LATE.i d)) (fun _ t => ite_to (State.rd · (R.SF_FLAGS.LATE.i d)) rfl
    (ite_to (State.rd · (R.SF_FLAGS.LATE.i d)) (forEach_keeps (State.rd · (R.SF_FLAGS.LATE.i d)) (fun _ t => rd_exportSlot_late t hd _ _) t)
      (ite_to (State.rd · (R.SF_FLAGS.LATE.i d)) (rd_congr (putApp_regs t _ _) _) rfl))) s

/-- The release of a task that ended in time. -/
def State.timelyOver (d : Nat) : State := if (s.periodClosed d).sfDispatches then (s.periodClosed d).exports d else s.periodClosed d

theorem timelyOver_serif (d : Nat) : (s.timelyOver d).serif d = (s.serif d).periodOver :=
  ite_to (State.serif · d) ((serif_congr _ (exports_serifs _ d) d).trans (periodClosed_serif s d)) (periodClosed_serif s d)

theorem rd_timelyOver_late (hd : isSerif d = true) : (s.timelyOver d).rd (R.SF_FLAGS.LATE.i d) = s.rd (R.SF_FLAGS.LATE.i d) :=
  ite_to (State.rd · (R.SF_FLAGS.LATE.i d)) ((rd_exports_late _ hd).trans (rd_periodClosed s d _)) (rd_periodClosed s d _)

end

section
variable {s u : State} {d x due : Nat}

/-- A task that has not ended at its release is abandoned. -/
theorem exec_serifRelease_late (hr : s.reach due = some u) (hd : isSerif d = true) (hp : (s.serif d).per = some (x, due))
    (he : (u.serif d).endAt = none) (ht : (u.serif d).task = 1) : exec (.serifRelease d) s = .next (u.lateOver d) := by
  have hdrop : (if (u.serif d).task = 1 then (u.periodClosed d).putSerif d ((u.periodClosed d).serif d).taskDropped
      else u.periodClosed d) = (u.periodClosed d).putSerif d (u.serif d).abandoned := by
    rw [if_pos ht, periodClosed_serif, Serif.abandoned]
  rw [exec_serifRelease, execSerifRelease, hd, needs_true, hp]
  dsimp only
  rw [hr]
  dsimp only
  rw [he]
  exact congrArg (fun w : State => Host.Outcome.next ((((w.lateShown d).slackReport 2 d (-1)).coreIdle d).showSerif d)) hdrop

/-- A task that ended before its release has its exports made where the mode dispatches. -/
theorem exec_serifRelease_timely {e : Nat} (hr : s.reach due = some u) (hd : isSerif d = true) (hp : (s.serif d).per = some (x, due))
    (he : (u.serif d).endAt = some e) (hne : e ≠ due) : exec (.serifRelease d) s = .next (u.timelyOver d) := by
  rw [exec_serifRelease, execSerifRelease, hd, needs_true, hp]
  dsimp only
  rw [hr]
  dsimp only
  rw [he]
  exact congrArg Host.Outcome.next (if_pos hne)

end

end Machine

open Machine

/-- Settles O37: every step of a core changes its record and the registers of its own block, field by field. -/
theorem serifTasksAndInterrupts : Obligations.SerifTasksAndInterrupts := by
  unfold Obligations.SerifTasksAndInterrupts
  refine ⟨?_, ?_, ?_, ?_, ?_, ?_, ?_, ?_⟩
  · intro s dt u d hu hd hon ht hi
    refine ⟨_, exec_interruptEntry_taken hu hd hon ht hi, ?_⟩
    beta_reduce
    rw [serif_showSerif, serif_putSerif]
    obtain ⟨hipc, histat, hhdl, hirq, hf, hpc⟩ := entered_saves (u.serif d)
    refine ⟨hipc, histat, hhdl, hirq, ie_entered _, hf, (showSerif_mem _ d).trans (putSerif_mem u d _), fun l h8 hl hk => ?_⟩
    rw [← dueLine_lowest (u.serif d) h8 hl hk]
    exact ⟨hpc, ipend_entered _⟩
  · intro s dt u src d hu hd hm _
    obtain ⟨ha, hdom⟩ := mayWrite_alive hm
    refine ⟨_, exec_doorbell_rings hu hd hm, sfCtrlWrite_rings u hd _ (bellWord_bell u d) ha hdom, ?_⟩
    exact (rd_sfCtrlWrite_run u hd _).trans (bellWord_run u d)
  · intro s dt u src d v hu hd hw hm
    refine ⟨_, exec_run_writes hu hd hw hm, rd_sfCtrlWrite_run _ hd v, fun hb hi => sfCtrlWrite_halts _ v hb ?_⟩
    rw [mirrorWrite_serif, hi]
  · intro s dt u src d v hu hd hw hm
    exact ⟨_, exec_sfTimerWrite_writes hu hd hw hm, sfTimerWrite_spec _ hd hw⟩
  · intro s u d hr hd ha halive hdom
    exact ⟨_, exec_sfTimerExpire_due hr hd ha, timerSpent_pends halive hdom⟩
  · intro s u d x due hr hd hp ht hw ha hdom
    obtain ⟨p, hcore⟩ := irqPend_core u (d := d) 7
    exact ⟨_, exec_releaseWarning_due hr hd hp ht hw, irqPend_pends u 7 ha hdom, (congrArg Serif.task hcore).trans rfl⟩
  · intro s u d x due hr hd hp he ht _ _ hn
    have hshown : ∀ {f : Fld}, f.ofSf = true → f.addr ≠ R.SF_STAT.STATE.addr → (u.lateOver d).rd (f.i d) =
        (((u.periodClosed d).putSerif d (u.serif d).abandoned).lateShown d).rd (f.i d) := fun hs hf => rd_lateOver u hd hs hf
    have hkeep : ((u.periodClosed d).putSerif d (u.serif d).abandoned).rd (R.SF_CNT.LATE_CNT.i d) = u.rd (R.SF_CNT.LATE_CNT.i d) :=
      (rd_putSerif _ _ _ _).trans (rd_periodClosed u d _)
    obtain ⟨hper, htask, -, -⟩ := abandoned_idle (u.serif d)
    rw [← lateOver_serif] at hper htask
    refine ⟨_, exec_serifRelease_late hr hd hp he ht, hper, htask, ?_, ?_, ?_, ?_⟩
    · exact (hshown (f := R.SF_FLAGS.LATE) (by decide) (by decide)).trans (rd_lateShown_late _ hd)
    · exact (hshown (f := R.SF_CNT.LATE_CNT) (by decide) (by decide)).trans
        ((rd_lateShown_count _ hd (hkeep ▸ hn)).trans (congrArg (· + 1) hkeep))
    · exact (hshown (f := R.SF_TIME.SLACK) (by decide) (by decide)).trans (rd_lateShown_slack _ hd)
    · exact (hshown (f := R.SF_TIME.DONE) (by decide) (by decide)).trans (rd_lateShown_done _ hd)
  · intro s u d x due e hr hd hp he hne
    obtain ⟨hper, hend⟩ := periodOver_open (u.serif d)
    rw [← timelyOver_serif] at hper hend
    exact ⟨_, exec_serifRelease_timely hr hd hp he hne, hper, hend, rd_timelyOver_late u hd⟩

end Sys2Proof
end
